-- ==== Sys2Proof/Word.lean ====
section
/-! DEFINITION. The word and byte types of the WZ128: registers are 32 bits wide (R7, 00_scope), memories are
byte-addressed (R29). -/
namespace Sys2Proof

/-- A 32-bit register or memory word. -/
abbrev Word := BitVec 32

/-- One byte of a memory. -/
abbrev Byte := BitVec 8

end Sys2Proof
end

