-- ==== Sys2Proof/Syntax.lean ====
section
/-! DEFINITION. The commands of the WZ128: one constructor per row of spec/opcode_table.json, with the row's operands.
A row that is an event carries what the environment supplies with it (a measurement, a cell, a frame, the edge of a
pin); a row that is an instruction of a timeline thread names the thread, whose program counter says which word. -/
namespace Sys2Proof

/-- The two doors of the host onto the registers (R32). -/
inductive Port where
  | pcie
  | mgmt
  deriving DecidableEq, Repr


/-- A ring cell (R325): four header words, the padded payload, the trailer word and the CRC word. -/
structure Cell where
  w0      : Word
  w1      : Word
  w2      : Word
  w3      : Word
  payload : List Word
  trailer : Word
  crc     : Word
  deriving DecidableEq, Repr

/-- The eCPRI header of a message (R362, R363): revision, message type, the E bit, subseqId, whether the payload size agrees
with the frame, eAxC ID and seqId. -/
structure Ecpri where
  rev    : Nat
  kind   : Nat
  e      : Bool
  subseq : Nat
  sizeOk : Bool
  eaxc   : Nat
  seq    : Nat
  deriving DecidableEq, Repr

/-- The air time a message names (R366). -/
structure AirRef where
  frame    : Nat
  subframe : Nat
  slot     : Nat
  sym      : Nat
  deriving DecidableEq, Repr

/-- A C-plane section (R230): `ext1` holds extension 1 as it comes: the width of its mantissas, whether it is in block floating
point, its bytes (R233); `other` says that an extension of another type stands in it. -/
structure CSect where
  id     : Nat
  rb     : Bool
  symInc : Bool
  start  : Nat
  num    : Nat
  reMask : Nat
  syms   : Nat
  beam   : Nat
  ext1   : Option (Nat × Bool × List Byte)
  other  : Bool
  deriving DecidableEq, Repr

/-- A C-plane message (R364): direction (true downlink), payloadVersion, filterIndex, section type, its first symbol, for
type 3 the FFT size as its logarithm, µ and the frequency offset, udCompMeth and udIqWidth, its sections and their records as
received. -/
structure CMsg where
  hdr     : Ecpri
  dl      : Bool
  version : Nat
  filter  : Nat
  stype   : Nat
  air     : AirRef
  type3   : Nat × Nat × Int
  meth    : Nat
  width   : Nat
  sects   : List CSect
  raw     : List Byte
  deriving DecidableEq, Repr

/-- A U-plane section: udCompMeth and udIqWidth where its header carries them (R365), and the PRBs as received (R227). -/
structure USect where
  id    : Nat
  rb    : Bool
  start : Nat
  num   : Nat
  meth  : Nat
  width : Nat
  data  : List Byte
  deriving DecidableEq, Repr

/-- A U-plane message (R364). -/
structure UMsg where
  hdr     : Ecpri
  dl      : Bool
  version : Nat
  filter  : Nat
  air     : AirRef
  sects   : List USect
  deriving DecidableEq, Repr

/-- Instructions of the JTAG TAP (R489). -/
inductive Tap where
  | bypass
  | idcode
  | sample
  | extest
  | extestPulse
  | extestTrain
  | clamp
  | highz
  | other (code : Nat)
  deriving DecidableEq, Repr

/-- What a host read of the DMA engine returns: its bytes, or the bytes before a poisoned completion (EP), or before an
Unsupported Request, a Completer Abort or a completion timeout (R400). -/
inductive HostCpl where
  | data (bytes : List Byte)
  | poison (bytes : List Byte)
  | fail (bytes : List Byte)
  deriving DecidableEq, Repr

/-- The commands: every row of the opcode table. -/
inductive Instr where
  /-- REGISTER_WRITE (R31). A host or management-port write to a register that has no row of its own takes effect in its block within 200 ns. -/
  | registerWrite (port : Port) (off : Nat) (val : Word) (whole : Bool)
  /-- MEMORY_WINDOW_WRITE (R29). A write into a memory window lands with any length and byte enables; a partial write is a read-modify-write. -/
  | memoryWindowWrite (port : Port) (off : Nat) (data : List (Option Byte))
  /-- LOW_WORD_READ (R33). A read of the low word of a 64-bit register copies its high word into the reading port's shadow. -/
  | lowWordRead (port : Port) (off : Nat)
  /-- D3HOT_ENTRY (R26). The PCIe function enters D3hot, which affects only HST. -/
  | d3hotEntry
  /-- STICKY_WRITE (R39). A write to a STICKY or ALERT_EN register clears W1C bits or changes gating and resends the vector message if the source stays at 1. -/
  | stickyWrite (port : Port) (off : Nat) (val : Word)
  /-- MSIX_UNMASK (R39). Unmasking a vector sends its message only if its source is at 1, clearing the PBA bit. -/
  | msixUnmask (vec : Nat)
  /-- MGMT_WRITE (R41). The management-port WRITE command writes one word at the given offset through the always-on or indirect window. -/
  | mgmtWrite (addr : Byte) (bytes : List Byte)
  /-- MGMT_READ (R41). The management-port READ command returns a word and a status byte. -/
  | mgmtRead (addr : Byte) (bytes : List Byte)
  /-- MGMT_STATUS (R41). The management-port STATUS command returns the status of the last WRITE. -/
  | mgmtStatus (addr : Byte) (bytes : List Byte)
  /-- SCL_TIMEOUT (R40). SCL held low for more than 25 ms makes the target release SDA and abandon the transaction. -/
  | sclTimeout
  /-- STRETCH_TIMEOUT (R43). An access not completed within 50 µs of clock stretching returns data 0 with status TIMEOUT or NACKs the next address. -/
  | stretchTimeout (write : Bool) (addr : Byte) (bytes : List Byte)
  /-- ADDRESS_MATCH (R452). An address match of the wake comparator in Winter or Midwinter starts Spring, or is held during entry. -/
  | addressMatch
  /-- NVM_DATA_READ (R45). A read of MGT.NVM_DATA returns the eMRAM word at TILE and WORD and advances WORD. -/
  | nvmDataRead (port : Port)
  /-- NVM_DATA_WRITE (R45). A write of MGT.NVM_DATA programs and verifies one eMRAM word, or is refused with a cause in LAST. -/
  | nvmDataWrite (port : Port) (val : Word)
  /-- NVM_WRITE_DONE (R45). Programming and verification of a host eMRAM word complete, releasing waiting status reads and deferred device stores. -/
  | nvmWriteDone (good : Bool)
  /-- NVM_STATUS_READ (R45). A read of MGT.NVM_STATUS returns only after a write in progress has completed. -/
  | nvmStatusRead (port : Port)
  /-- QSPI_GO (R46). A write with GO = 1 sends one QSPI command, or is refused. -/
  | qspiGo (port : Port) (val : Word)
  /-- QSPI_DONE (R46). A QSPI command ends as CS_N rises and BUSY clears. -/
  | qspiDone (data : List Byte)
  /-- SCRUB (R50). A scrubber reads one word of its memory every INTERVAL cycles and writes back a corrected word. -/
  | scrub (mem : Nat) (word : Nat)
  /-- NOP (R88). No operation. -/
  | nop (th : Nat)
  /-- JMP (R88). Jump to an immediate target or to the target in a g register. -/
  | jmp (th : Nat)
  /-- B_COND (R89). Branch when the condition holds, optionally clearing a tested STAT bit. -/
  | bCond (th : Nat)
  /-- CALL (R88). Push PC + 1 and jump to an immediate or register target. -/
  | call (th : Nat)
  /-- RET (R88). Pop the return stack into PC. -/
  | ret (th : Nat)
  /-- LOOP (R88). Decrement g and branch while it is not zero. -/
  | loop (th : Nat)
  /-- YIELD (R88). The thread gives up its issue slot and goes behind ready threads of its priority. -/
  | yield (th : Nat)
  /-- HALT (R88). The thread becomes HALTED with its timed entries and votes kept. -/
  | halt (th : Nat)
  /-- ADD (R90). Integer add with flags, register or immediate form. -/
  | add (th : Nat)
  /-- SUB (R90). Integer subtract with flags. -/
  | sub (th : Nat)
  /-- AND (R90). Bitwise AND setting N and Z. -/
  | and (th : Nat)
  /-- OR (R90). Bitwise OR setting N and Z. -/
  | or (th : Nat)
  /-- XOR (R90). Bitwise XOR setting N and Z. -/
  | xor (th : Nat)
  /-- SHL (R90). Logical shift left. -/
  | shl (th : Nat)
  /-- SHR (R90). Logical shift right. -/
  | shr (th : Nat)
  /-- SRA (R90). Arithmetic shift right. -/
  | sra (th : Nat)
  /-- CMP (R90). Sets flags from s − t without writing a register. -/
  | cmp (th : Nat)
  /-- MOVI (R90). Loads an immediate into a register. -/
  | movi (th : Nat)
  /-- LD (R91). Loads a word from thread data space with linear addressing. -/
  | ld (th : Nat)
  /-- ST (R91). Stores a word to thread data space with linear addressing. -/
  | st (th : Nat)
  /-- LDC (R91). Load with circular addressing. -/
  | ldc (th : Nat)
  /-- STC (R91). Store with circular addressing. -/
  | stc (th : Nat)
  /-- SETL (R93). Writes a circular length and folds the pointer into the buffer. -/
  | setl (th : Nat)
  /-- SETB (R93). Writes a circular base register. -/
  | setb (th : Nat)
  /-- AT_I (R94). Issues the following action as a timed entry with an immediate due time. -/
  | atI (th : Nat)
  /-- AT_R (R94). Issues the following action as a timed entry due at a register plus offset. -/
  | atR (th : Nat)
  /-- AT_N (R94). Issues the following action as a timed entry due at TNS at acceptance plus offset. -/
  | atN (th : Nat)
  /-- EVERY (R98). Issues the following action as a periodic series holding one TAQ entry. -/
  | every (th : Nat)
  /-- WAITT (R99). Waits in WAIT_T until TNS reaches the due time. -/
  | waitt (th : Nat)
  /-- PSTATE (R105). Requests a state for a set of path pairs. -/
  | pstate (th : Nat)
  /-- BEAMSEL (R106). Selects the codebook entry of one layer from the next symbol boundary. -/
  | beamsel (th : Nat)
  /-- WSWAP (R107). Makes a weight bank active at the next symbol boundary. -/
  | wswap (th : Nat)
  /-- LOHOP (R108). Moves synthesisers to a stored preset after the regulatory check. -/
  | lohop (th : Nat)
  /-- GAINSET (R109). Sets the digital attenuation of TX or RX paths. -/
  | gainset (th : Nat)
  /-- PORTSEL (R110). Selects the RF port of groups at the next slot boundary. -/
  | portsel (th : Nat)
  /-- WREG (R112). Writes a device register under the rules for host writes. -/
  | wreg (th : Nat)
  /-- WREG_M (R112). Writes only the masked bits of a device register in one indivisible access. -/
  | wregM (th : Nat)
  /-- RREG (R113). Reads a device register into a g register. -/
  | rreg (th : Nat)
  /-- SIGNAL (R114). Sets the latch of a software event line. -/
  | signal (th : Nat)
  /-- WAITEV (R114). Waits for an event latch and optionally consumes it. -/
  | waitev (th : Nat)
  /-- WAITEV_ANY (R114). Waits for any masked event latch of a word and optionally consumes those bits. -/
  | waitevAny (th : Nat)
  /-- VOTE (R74). Sets the thread's vote on a power domain or DVFS point and waits until reached or failed. -/
  | vote (th : Nat)
  /-- UNVOTE (R74). Clears the thread's vote on a power domain or DVFS point. -/
  | unvote (th : Nat)
  /-- FENCE (R71). Waits until the thread's earlier untimed actions have reached their state, reporting failures. -/
  | fence (th : Nat)
  /-- CMPL (R115). Waits for or returns the completion state of a tag. -/
  | cmpl (th : Nat)
  /-- DMAGO (R116). Starts a DMA channel, optionally loading its descriptor address. -/
  | dmago (th : Nat)
  /-- CARM (R117). Arms, disarms or force-triggers the capture engine. -/
  | carm (th : Nat)
  /-- CVFEED (R118). Feeds 8 to 64 bits from registers to a check-value context. -/
  | cvfeed (th : Nat)
  /-- CVFEED_A (R118). Feeds count words from memory to a check-value context. -/
  | cvfeedA (th : Nat)
  /-- MAC (R132). Scalar multiply-accumulate under the normal rule. -/
  | mac (th : Nat)
  /-- MSU (R132). Scalar multiply-subtract under the normal rule. -/
  | msu (th : Nat)
  /-- MACS (R128). Scalar multiply-accumulate under the clamping rule. -/
  | macs (th : Nat)
  /-- MACBX (R129). Scalar multiply-accumulate under the block-exponent rule. -/
  | macbx (th : Nat)
  /-- CMAC (R133). Scalar complex multiply-accumulate into an accumulator pair. -/
  | cmac (th : Nat)
  /-- MAC_B (R134). Block multiply-accumulate over two memory streams. -/
  | macB (th : Nat)
  /-- MSU_B (R134). Block multiply-subtract over two memory streams. -/
  | msuB (th : Nat)
  /-- MACS_B (R134). Block clamping multiply-accumulate. -/
  | macsB (th : Nat)
  /-- MACBX_B (R134). Block multiply-accumulate under the block-exponent rule. -/
  | macbxB (th : Nat)
  /-- CMAC_B (R134). Block complex multiply-accumulate. -/
  | cmacB (th : Nat)
  /-- BLOCK_COMPLETE (R135). A running block instruction completes, frees its unit, counts and optionally sets EV(176 + u). -/
  | blockComplete (unit : Nat)
  /-- CLRACC (R137). Clears accumulators or loads one from an x register, clearing exponent and SATL. -/
  | clracc (th : Nat)
  /-- RND (R138). Rounds an accumulator to Q1.23 into an x or g register. -/
  | rnd (th : Nat)
  /-- SAT (R137). Clamps an accumulator to w bits. -/
  | sat (th : Nat)
  /-- NORM (R139). Normalises an accumulator into a mantissa and shift count. -/
  | norm (th : Nat)
  /-- EXP (R137). Writes the redundant sign count of an accumulator or x register. -/
  | exp (th : Nat)
  /-- SHACC (R137). Shifts an accumulator left or right. -/
  | shacc (th : Nat)
  /-- STACC (R140). Stores an accumulator to g registers or memory. -/
  | stacc (th : Nat)
  /-- BEXP (R141). Finds the least redundant sign count over a block of words. -/
  | bexp (th : Nat)
  /-- LD_X (R142). Loads one or a pair of x registers from memory. -/
  | ldX (th : Nat)
  /-- ST_X (R142). Stores one or a pair of x registers to memory. -/
  | stX (th : Nat)
  /-- THREAD_WAKE (R54). A waiting thread becomes READY when its wait condition becomes true. -/
  | threadWake (th : Nat)
  /-- WAITT_DUE (R99). TNS reaches or passes a WAITT due time, ending the wait. -/
  | waittDue (th : Nat)
  /-- TAQ_DISPATCH (R58). A timed entry or periodic occurrence reaches its due time and is dispatched to its target. -/
  | taqDispatch (tag : Nat)
  /-- TAQ_CANCEL_TAG (R64). A TAQ_CANCEL write with MODE 0 ends the named pending entry with CANCELLED. -/
  | taqCancelTag (port : Port) (val : Word)
  /-- TAQ_CANCEL_THREAD (R64). A TAQ_CANCEL write with MODE 1 ends every pending entry of a thread. -/
  | taqCancelThread (port : Port) (val : Word)
  /-- CR_TAIL_WRITE (R65). The consumer writes CR_TAIL; a write moving the tail past the head or a ring behind is discarded. -/
  | crTailWrite (port : Port) (val : Word)
  /-- CR_CONFIG_WRITE (R65). A write to CR_BASE or CR_SIZE sets CR_HEAD and CR_TAIL to 0. -/
  | crConfigWrite (port : Port) (size : Bool) (val : Word)
  /-- EV_SET (R68). A host write to TLP.EV_SET sets a software event latch or is discarded. -/
  | evSet (port : Port) (val : Word)
  /-- EV_CLEAR (R67). A write of 1 to TLP.EV[j] clears event latches. -/
  | evClear (port : Port) (j : Nat) (val : Word)
  /-- WDT_KICK (R78). A write to TLP.WDT_KICK restarts a thread's watchdog count. -/
  | wdtKick (port : Port) (val : Word)
  /-- WDT_WRITE (R78). A write to TLP.TH[i].WDT that lands restarts the count. -/
  | wdtWrite (port : Port) (th : Nat) (val : Word)
  /-- WATCHDOG (R78). A watchdog count reaches TIMEOUT; the thread faults and, with ACTION 1, TX and FDX pairs are forced to WARM. -/
  | watchdog (th : Nat)
  /-- HALT_REQUEST (R79). A write to TLP.CTL.HALT stops threads into DEBUG according to their state. -/
  | haltRequest (port : Port) (val : Word)
  /-- RUN (R77). A write of 1 to CTL.RUN starts, resumes or restarts a thread. -/
  | run (port : Port) (th : Nat) (val : Word)
  /-- STEP (R79). A write to CTL.STEP executes one instruction of a thread in DEBUG. -/
  | step (port : Port) (th : Nat) (val : Word)
  /-- THREAD_RESET (R77). A write to CTL.RESET zeroes thread state, withdraws votes, cancels entries and halts the thread. -/
  | threadReset (port : Port) (th : Nat) (val : Word)
  /-- REGFILE_WRITE (R80). A host write to a thread's PC, STAT or register file lands only while it is halted, in DEBUG or in FAULT. -/
  | regfileWrite (port : Port) (off : Nat) (val : Word)
  /-- AIR_FRAME_BOUNDARY (R145). TNS reaches the next frame start; AFC increments, AIR_FRAME_TNS advances and EV172 sets. -/
  | airFrameBoundary
  /-- SLOT_BOUNDARY (R149). A slot boundary of a carrier arrives, applying slot-deferred changes and setting the slot event. -/
  | slotBoundary (c : Nat)
  /-- SYMBOL_BOUNDARY (R149). A symbol boundary of a carrier arrives, applying symbol-deferred changes and the pattern check. -/
  | symbolBoundary (c : Nat)
  /-- ALIGN (R146). A write to AIR_CTL.ALIGN judges and arms an air-frame alignment, or refuses it. -/
  | align (port : Port) (val : Word)
  /-- ALIGNMENT_START (R146). TNS reaches the waiting alignment's start time and the air frame starts. -/
  | alignmentStart
  /-- AIR_CFG_WRITE (R150). A write to AIR_CFG is judged for PERIOD against MU and held to the next frame boundary. -/
  | airCfgWrite (port : Port) (c : Nat) (val : Word)
  /-- PSTATE_START (R157). A waiting PSTATE takes effect once every named pair is free. -/
  | pstateStart (pair : Nat)
  /-- TRANSITION_DONE (R155). A pair transition ends and the target state is reached. -/
  | transitionDone (pairs : List Nat)
  /-- DRAIN_SEQUENCE_STEP (R161). A timed point of the drain sequence applies bias codes or deasserts DRAIN_EN. -/
  | drainSequenceStep (pair : Nat)
  /-- DEFERRED_TX_START (R158). A deferred transmit entry starts on the first edge at which every synthesiser reports lock. -/
  | deferredTxStart (pair : Nat)
  /-- LATE_UNLOCKED (R159). Lock has not come by L; the transmit entry is suppressed to the end of the slot. -/
  | lateUnlocked (pair : Nat)
  /-- PA_ALARM (R163). A PA_ALARM_N input stays low for PA_FILTER and the alarm is accepted; the group enters FAULT. -/
  | paAlarm (input : Nat)
  /-- DUTY_OVERRUN (R166). The transmit duty count reaches its limit and the group is muted to the frame boundary. -/
  | dutyOverrun (k : Nat)
  /-- CURRENT_LIMIT (R183). An active TX driver engages its current limit and sets TXA STICKY.OC. -/
  | currentLimit (n : Nat)
  /-- INPUT_OVERLOAD (R192). An input more than 3 dB over full scale trips the overload detector. -/
  | inputOverload (n : Nat)
  /-- COMMIT_POINT (R219). BME weights a downlink symbol with the selections counted at its commit point. -/
  | commitPoint (c : Nat)
  /-- WDESC_WRITE (R217). A write to BME.WDESC is a selection change timed under the commit rule. -/
  | wdescWrite (port : Port) (dir car layer : Nat) (val : Word)
  /-- ARRAY_WRITE (R233). A write to BME.ARRAY with INDEX not below SIZE is refused and CFG set. -/
  | arrayWrite (port : Port) (val : Word)
  /-- PS_DEADLINE (R225). The partial-sum deadline passes and BME proceeds with the missing input as 0. -/
  | psDeadline (r : Nat) (w2 : Word) (start num : Nat)
  /-- PAGE_WRITE (R244). A write to a SIC coefficient page lands on the shadow or is discarded on the active page. -/
  | pageWrite (port : Port) (off : Nat) (val : Word)
  /-- SIC_COMMIT (R245). A write to SIC.COMMIT requests a page swap at the next slot boundary. -/
  | sicCommit (port : Port) (p w : Nat) (val : Word)
  /-- SURVEY_START (R246). A write of START arms a coupling survey of a receive path. -/
  | surveyStart (port : Port) (val : Word)
  /-- SURVEY_ABORT (R246). A write of ABORT ends a survey in progress. -/
  | surveyAbort (port : Port) (val : Word)
  /-- SURVEY_DONE (R246). The survey computation finishes, writing levels, ranks and lags and setting DONE. -/
  | surveyDone
  /-- SNAP_START (R247). A write of START arms a training snapshot or fails it at START. -/
  | snapStart (port : Port) (val : Word)
  /-- SNAP_ABORT (R248). A write of ABORT ends a snapshot with FAIL ABORTED. -/
  | snapAbort (port : Port) (val : Word)
  /-- SNAP_DONE (R247). The snapshot copy into capture memory completes and DONE sets. -/
  | snapDone
  /-- STORE_WRITE (R258). A write to LIN.ST[w].DATA stores a coefficient-store word and advances ADDR. -/
  | storeWrite (port : Port) (w : Nat) (val : Word)
  /-- STORE_READ (R258). A read of LIN.ST[w].DATA returns a coefficient-store word and advances ADDR. -/
  | storeRead (port : Port) (w : Nat)
  /-- LIN_COMMIT (R259). A write to LIN.COMMIT requests a reload of a path's DPD set. -/
  | linCommit (port : Port) (w : Nat) (val : Word)
  /-- LOAD_DONE (R260). The loader finishes copying a set into a path's shadow page. -/
  | loadDone (n : Nat)
  /-- OBS_START (R264). A write of START arms an observation job on ORk. -/
  | obsStart (port : Port) (k : Nat) (val : Word)
  /-- OBS_RECORD_START (R264). An observation job starts recording on its IMM, TIME or SYM trigger. -/
  | obsRecordStart (k : Nat)
  /-- OBS_DONE (R264). An observation job finishes copying its streams and sets DONE. -/
  | obsDone (k : Nat)
  /-- OBS_ABORT (R265). A write of ABORT ends an observation job with FAIL ABORTED. -/
  | obsAbort (port : Port) (k : Nat) (val : Word)
  /-- HOP (R276). A host write of LOS.S[k].HOP.GO requests a hop, checked against presets and the regulatory table. -/
  | hop (port : Port) (k : Nat) (val : Word)
  /-- HOP_START (R276). A hop restarts the synthesiser on the first reference edge at the next phase epoch. -/
  | hopStart (k : Nat)
  /-- LOCK (R279). A synthesiser reports lock after the error stays in window for 512 reference cycles. -/
  | lock (k : Nat)
  /-- LOCK_LOSS (R279). A synthesiser loses lock; TX pairs are muted and an unexpected loss relocks as a full-band hop. -/
  | lockLoss (k : Nat)
  /-- CCS_UNLOCK (R270). A conversion-clock synthesiser loses lock, clearing LO_OK of its tile's groups. -/
  | ccsUnlock (n : Nat)
  /-- CCS_LOCK (R270). A conversion-clock synthesiser relocks. -/
  | ccsLock (n : Nat)
  /-- IF_CHANGE (R274). A written IF takes effect once no pair of the group is in RX, FDX or CAL. -/
  | ifChange (k : Nat)
  /-- CL_START (R283). A write of CL_CTL.START arms a CAL_LINK exchange at CL_AT. -/
  | clStart (port : Port) (val : Word)
  /-- CL_EXCHANGE (R283). TNS reaches CL_AT and the tone exchange runs. -/
  | clExchange
  /-- CL_DONE (R285). The exchange ends at 20 µs; results are written and DONE set. -/
  | clDone (east west : Nat × Nat)
  /-- CAL_WINDOW (R290). A write to CAL.WIN opens, replaces or closes a calibration window on groups. -/
  | calWindow (port : Port) (val : Word)
  /-- WINDOW_END (R290). A calibration window's length expires, optionally triggering an automatic store. -/
  | windowEnd (k : Nat)
  /-- CAL_REQUEST (R294). A write to CAL.REQ sets pending calibrations on paths or groups, or is discarded. -/
  | calRequest (port : Port) (val : Word)
  /-- CAL_RUN_START (R291). CAL starts the next pending foreground run that fits in the window and checks its preconditions. -/
  | calRunStart (slot : Nat) (power : Int)
  /-- CAL_RUN_END (R292). A calibration run ends with a code, writing its results or counting a failure. -/
  | calRunEnd (slot : Nat) (low : Bool) (vals : List Word)
  /-- BG_PASS (R295). A background tracking pass on a path ends and nudges its phase and delay or is discarded. -/
  | bgPass (n : Nat) (rx : Bool) (q : Nat) (dPhase dDelay : Int)
  /-- JOURNAL_LOAD (R305). CAL loads the journal classes of a tile once its domains are up, choosing the winning slot. -/
  | journalLoad (t : Nat)
  /-- JOURNAL_STORE (R306). A write to CAL.JCTL requests a store of journal classes to eMRAM. -/
  | journalStore (port : Port) (val : Word)
  /-- STORE_DEFERRED_START (R306). A store deferred for the 1 s spacing starts. -/
  | storeDeferredStart (t c : Nat)
  /-- STORE_DONE (R306). A journal store finishes writing and verifying its slot, or ends on a verify failure. -/
  | storeDone (t c : Nat) (fail : Option Nat)
  /-- XDEV_TIMEOUT (R302). The neighbour result has not arrived within 100 µs and LOW_QUALITY is recorded. -/
  | xdevTimeout
  /-- CODE_WRITE (R312). A host or thread write to BDA.OUT[i].CODE commands a bias code or is refused. -/
  | codeWrite (port : Port) (i : Nat) (val : Word)
  /-- DEGLITCH_END (R310). The 400 ns deglitch hold ends and the output moves to the code in force. -/
  | deglitchEnd (i : Nat)
  /-- RANGE_CHANGE (R314). A write changing SPAN starts a range change with the output clamped, or is refused. -/
  | rangeChange (port : Port) (i : Nat) (val : Word)
  /-- RANGE_CHANGE_DONE (R314). The span switches and the clamp releases, ending the range change. -/
  | rangeChangeDone (i : Nat)
  /-- BIAS_TABLE_LOAD (R313). BDA loads class 6 of a tile after its power-up origin. -/
  | biasTableLoad (t : Nat)
  /-- CLAMP_RELEASE (R313). The power-up clamp of a tile releases 5 µs after its table is loaded. -/
  | clampRelease (t : Nat)
  /-- RELEASE (R313). A write to BDA.CTL.RELEASE releases a tile whose table was missing. -/
  | release (port : Port) (val : Word)
  /-- BIAS_STORE (R318). A write to BDA.CTL.STORE stores class 6 of a tile. -/
  | biasStore (port : Port) (val : Word)
  /-- OT_CLAMP (R316). A group's output-stage sensor exceeds 115 °C and its outputs clamp to BIAS_SAFE. -/
  | otClamp (k : Nat)
  /-- OT_RELEASE (R316). The sensor falls below 105 °C and the outputs return to their commanded codes. -/
  | otRelease (k : Nat)
  /-- SG_UPDATE (R317). A sine generator updates its phase and drives routed outputs at 2 MS/s. -/
  | sgUpdate (g : Nat)
  /-- PH_RST (R317). A write of PH_RST sets the generator phase to 0 at its next update. -/
  | phRst (port : Port) (g : Nat) (val : Word)
  /-- CAPABILITY_SET (R322). A port receives a valid set of capability words during negotiation. -/
  | capabilitySet (p : Nat) (words : List Word)
  /-- NEGOTIATE_TIMEOUT (R322). Negotiation has not completed within 5 ms. -/
  | negotiateTimeout (p : Nat)
  /-- TRAIN_DONE (R323). Lane training at one rate ends, bringing the port up or falling back or failing. -/
  | trainDone (p : Nat) (lanes : List ((Nat × Nat) × Word))
  /-- RENEGOTIATE (R323). A port that failed training negotiates again after 10 ms. -/
  | renegotiate (p : Nat)
  /-- DL_CELL (R327). A downlink cell is received, forwarded cut-through and used after its CRC. -/
  | dlCell (p : Nat) (cell : Cell)
  /-- CP_CELL (R327). A C-plane cell is received, forwarded and used. -/
  | cpCell (p : Nat) (cell : Cell) (dl : Bool) (stype : Nat) (type3 : Nat × Nat × Int) (sects : List CSect)
  /-- PS_CELL (R329). A partial-sum cell is received; the device adds its contribution or repairs a failed cell. -/
  | psCell (p : Nat) (cell : Cell)
  /-- TS_PERIOD (R333). The time-sync period expires and the upstream device sends SYNC. -/
  | tsPeriod
  /-- SYNC (R333). A SYNC cell is received and timestamped t2, and REQ is sent. -/
  | sync (p : Nat) (cell : Cell)
  /-- REQ (R333). A REQ cell is received, t4 taken and RESP sent. -/
  | req (p : Nat) (cell : Cell)
  /-- RESP (R333). A RESP cell completes an exchange and t1–t4 go to TMU. -/
  | resp (p : Nat) (cell : Cell)
  /-- DISCOVERY (R335). The head starts discovery when its ports train, a port retrains, STATUS is missing or REDISCOVER is written. -/
  | discovery (r : Nat)
  /-- DISCOVER (R335). A DISCOVER cell is received; the device takes a position and forwards the counter. -/
  | discover (p : Nat) (cell : Cell)
  /-- DISCOVER_TIMEOUT (R335). DISCOVER has not returned within 2 ms and the ring is treated as segmented. -/
  | discoverTimeout (r east west : Nat)
  /-- COMMIT (R335). A COMMIT cell gives members N, their arc and ring depth. -/
  | commit (p : Nat) (cell : Cell)
  /-- REPORT (R337). The head receives a REPORT and accepts it from cache or marks a candidate. -/
  | report (p : Nat) (cell : Cell)
  /-- ACCEPT (R337). A member receives ACCEPT and becomes accepted or refused. -/
  | accept (p : Nat) (cell : Cell)
  /-- STATUS (R337). The head receives a member's STATUS cell and records its alert summary. -/
  | status (p : Nat) (cell : Cell)
  /-- STATUS_MISSING (R335). A member's STATUS cell is missing for three air frames. -/
  | statusMissing (r pos : Nat)
  /-- LANE (R339). A LANE report is received and the shed and move decision computed. -/
  | lane (p : Nat) (cell : Cell)
  /-- SHED (R339). A SHED cell carrying the shed and moved layer sets is received. -/
  | shed (p : Nat) (cell : Cell)
  /-- NB_CELL (R325). A neighbour-data cell is received from the adjacent device. -/
  | nbCell (p : Nat) (cell : Cell)
  /-- IMAGE_CELL (R475). An image cell is received in ring boot, written and forwarded. -/
  | imageCell (p : Nat) (cell : Cell)
  /-- FO (R340). A ring-failure notice is received and fail-over scheduled. -/
  | fo (p : Nat) (cell : Cell)
  /-- UNKNOWN_CELL (R325). A cell of an unknown TYPE is dropped and counted. -/
  | unknownCell (p : Nat) (cell : Cell)
  /-- ENTER (R341). A write of ENTER asserts ring hold for a head or member. -/
  | enter (port : Port) (r : Nat) (val : Word)
  /-- ENTER_TIMEOUT (R341). The ports have not trained within ENTER_TMO and ring hold is released. -/
  | enterTimeout (r : Nat)
  /-- LEAVE (R341). A write of LEAVE releases ring hold. -/
  | leave (port : Port) (r : Nat) (val : Word)
  /-- REDISCOVER (R335). A host write of REDISCOVER makes the head run discovery. -/
  | rediscover (port : Port) (r : Nat) (val : Word)
  /-- RETRAIN (R338). A write of RETRAIN retrains a ring port at its greatest width. -/
  | retrain (port : Port) (p : Nat) (val : Word)
  /-- ARG_ACCEPT (R337). A host write to ARG.ACCEPT accepts or refuses a candidate. -/
  | argAccept (port : Port) (val : Word)
  /-- RST_DATA_READ (R344). A read of ARG.RST_DATA returns a live roster word and advances ADDR. -/
  | rstDataRead (port : Port)
  /-- LANE_READY (R346). A powered lane becomes ready to carry signal after 50 µs. -/
  | laneReady (lane : Nat)
  /-- LANE_LOSS (R350). A lane loses lock; a ring port narrows or goes down, a fronthaul port goes down. -/
  | laneLoss (lane cause : Nat)
  /-- KEEP_NOTICE (R350). A port receives a keep notice and answers with the intersected mask. -/
  | keepNotice (p mask : Nat)
  /-- REALIGN_DONE (R350). Realignment on the agreed lanes completes and the port is UP at the new width. -/
  | realignDone (p : Nat)
  /-- FOM_MEASURE (R354). A lane's figure of merit is measured again every 1 ms and margin warned. -/
  | fomMeasure (lane eh ew errs : Nat)
  /-- TEST_WRITE (R355). A write setting TEST or LOOP of a lane is accepted only while its port is down. -/
  | testWrite (port : Port) (lane : Nat) (val : Word)
  /-- INJ (R357). A write of CTL.INJ inverts one bit of the next code group or symbol. -/
  | inj (port : Port) (lane : Nat) (val : Word)
  /-- INJ_RATE (R357). Periodic error injection inverts a bit every 2^(k + 9) bits. -/
  | injRate (lane : Nat)
  /-- PAT_LOCK (R355). The pattern checker locks or loses lock on its pattern. -/
  | patLock (lane : Nat) (lock : Bool) (errs nbits : Nat)
  /-- FRAME (R361). A fronthaul Ethernet frame is received and filtered by FCS, VLAN and address. -/
  | frame (i : Nat) (bytes : List Byte) (fcs : Bool)
  /-- C_PLANE (R367). A C-plane message is judged against its reception window and handed to BME. -/
  | cPlane (i : Nat) (msg : CMsg)
  /-- U_PLANE (R367). A U-plane message is judged against its reception window and handed to BME. -/
  | uPlane (i : Nat) (msg : UMsg)
  /-- HOST_RX_FRAME (R373). A PTP, eCPRI type 5 or 7 or HOST_ETYPE frame is placed in the host receive queue or dropped. -/
  | hostRxFrame (i : Nat) (bytes : List Byte) (tns : Word) (tfr : Nat)
  /-- HOST_RX_FREE (R373). A write of 1 to FULL frees a receive slot. -/
  | hostRxFree (port : Port) (i slot : Nat) (val : Word)
  /-- HOST_TX (R374). A write of BUSY = 1 queues a host transmit slot. -/
  | hostTx (port : Port) (i slot : Nat) (val : Word)
  /-- HOST_TX_DONE (R374). A host transmit slot is sent, timestamped and BUSY cleared. -/
  | hostTxDone (i : Nat) (tns : Word) (tfr : Nat)
  /-- UL_SEND (R368). An uplink frame of a layer's sections is sent on its port. -/
  | ulSend (c layer : Nat) (air : AirRef) (id start num : Nat)
  /-- UL_DROP (R368). An uplink frame that cannot start within t_u of becoming ready is dropped. -/
  | ulDrop (c layer : Nat)
  /-- LINK_DOWN (R360). A fronthaul link goes down and the port pair fails over. -/
  | linkDown (i queued : Nat)
  /-- LINK_UP (R360). A fronthaul link comes up, ceasing the fault and optionally reverting. -/
  | linkUp (i speed : Nat)
  /-- TIME_READ (R376). A read of TMU.TIME copies TFR and WRAP into the shadow. -/
  | timeRead (port : Port)
  /-- PPS_IN (R388). A rising PPS_IN edge is captured and, with SRC PPS, accepted or discarded. -/
  | ppsIn (tns : Word) (tfr : Nat)
  /-- PPS_MISS (R388). No accepted PPS edge within 1.1 s of E; E advances. -/
  | ppsMiss
  /-- RATE_SLEW (R380). Every microsecond the applied rate moves toward the requested rate. -/
  | rateSlew
  /-- RATE_REQ (R379). A write to the high word of TMU.RATE_REQ commits a host rate request. -/
  | rateReq (port : Port) (val : Word)
  /-- TMU_CTL_WRITE (R386). A write of TMU.CTL that changes SRC resets the servo state to FREE. -/
  | tmuCtlWrite (port : Port) (val : Word)
  /-- STEER_CHANGE (R381). A written STEER takes effect once every pair is in OFF or STBY. -/
  | steerChange
  /-- STEP_ARM (R383). A write to TMU.STEP_ARM arms or withdraws a time step. -/
  | stepArm (port : Port) (val : Word)
  /-- TIME_STEP (R383). A pending step is applied to T when pairs are idle or at once when forced. -/
  | timeStep
  /-- HOLDOVER (R385). A source timeout freezes the rate and enters HOLDOVER. -/
  | holdover
  /-- PULSE_ENABLE (R388). A write of EN schedules a pulse generator's first edge. -/
  | pulseEnable (port : Port) (k : Nat) (val : Word)
  /-- PULSE_EDGE (R388). A pulse generator reaches an active edge, driving its pin and event. -/
  | pulseEdge (k : Nat)
  /-- DMA_GO (R393). A write of GO starts a DMA channel at DESC, or is refused. -/
  | dmaGo (port : Port) (c : Nat) (val : Word)
  /-- DMA_ABORT (R401). A write of ABORT stops a channel within 1 µs. -/
  | dmaAbort (port : Port) (c : Nat) (val : Word) (landed : Nat) (src : List Byte)
  /-- APPEND (R399). A write to CH[c].APPEND counts a doorbell and restarts a stopped chain if NEXT is new. -/
  | append (port : Port) (c : Nat) (val : Word)
  /-- CHANNEL_START (R394). The free engine takes the head of the urgent or normal queue. -/
  | channelStart (host : HostCpl)
  /-- PACE (R395). An occurrence of a channel's pace source sets its pace latch. -/
  | pace (src : Nat)
  /-- DESCRIPTOR_DONE (R398). A descriptor's writes have landed; the channel continues, yields, stops at end of chain or errs. -/
  | descriptorDone (src next : HostCpl)
  /-- NEXT_REREAD (R399). The re-read of the tail's NEXT returns and the chain continues or stops. -/
  | nextReread (c : Nat) (next desc : HostCpl)
  /-- CV_START (R405). A write of CV[c].CTL.START queues a START latching the configuration and feeding the fold. -/
  | cvStart (port : Port) (c : Nat) (val : Word)
  /-- CV_CFG_WRITE (R406). A write to a context's configuration is checked for WIDTH and FOLD_LEN. -/
  | cvCfgWrite (port : Port) (c : Nat) (val : Word)
  /-- FEED8 (R408). A write of FEED8 queues an 8-bit feed. -/
  | feed8 (port : Port) (c : Nat) (val : Word)
  /-- FEED16 (R408). A write of FEED16 queues a 16-bit feed. -/
  | feed16 (port : Port) (c : Nat) (val : Word)
  /-- FEED32 (R408). A write of FEED32 queues a 32-bit feed. -/
  | feed32 (port : Port) (c : Nat) (val : Word)
  /-- FEED64_LO (R408). A write of FEED64_LO stores the low word in the port's staging word. -/
  | feed64Lo (port : Port) (c : Nat) (val : Word)
  /-- FEED64_HI (R408). A write of FEED64_HI queues a 64-bit feed with the staged low word. -/
  | feed64Hi (port : Port) (c : Nat) (val : Word)
  /-- VALUE_WRITE (R409). A write to the high word of VALUE queues an entry setting the running register. -/
  | valueWrite (port : Port) (c : Nat) (high : Bool) (val : Word)
  /-- RESULT_READ (R409). A read of VALUE, RESULT or COUNT waits for queued entries and returns the state. -/
  | resultRead (port : Port) (off : Nat)
  /-- QUEUE_ENTRY (R407). A context finishes processing one queued entry, making room for a waiting source. -/
  | queueEntry (c : Nat)
  /-- CAP_ARM (R421). A write of CTL.ARM arms a capture in a new segment, or is held or refused. -/
  | capArm (port : Port) (val : Word)
  /-- CAP_DISARM (R423). A write of CTL.DISARM closes a capture in PRE or POST. -/
  | capDisarm (port : Port) (val : Word)
  /-- CAP_FORCE (R423). A write of CTL.FORCE triggers a capture in PRE. -/
  | capForce (port : Port) (val : Word)
  /-- PART_WRITE (R419). A write to CAP.PART is accepted only while the engine is IDLE. -/
  | partWrite (port : Port) (val : Word)
  /-- SEQUENCER_HIT (R424). A sequencer state's counter reaches COUNT and it moves to NEXT or triggers. -/
  | sequencerHit
  /-- SEQUENCER_TIMEOUT (R424). A sequencer state's timer reaches TIMER and it moves to TMO_NEXT. -/
  | sequencerTimeout
  /-- AUTO_TRIGGER (R421). AUTO_TMO expires after arm with no trigger and the capture is forced. -/
  | autoTrigger
  /-- CAPTURE_CLOSE (R421). POST_DONE reaches 1 + POST; the header is written and EV174 set. -/
  | captureClose
  /-- REARM_END (R421). REARM ends after 64 cycles, returning to IDLE or re-arming. -/
  | rearmEnd
  /-- TNS_WRAP (R415). TNS passes 0 while armed and a wrap record is written. -/
  | tnsWrap
  /-- REFCLK_VALID (R427). REFCLK has 1 ms of valid windows and counts as valid; frozen PLLs relock. -/
  | refclkValid (freq : Nat)
  /-- REF_LOSS (R428). REFCLK is lost; PLLs freeze and CCS report unlocked. -/
  | refLoss
  /-- PCIE_REF_LOSS (R429). PCIE_REFCLK is absent for 1 µs and the link goes down. -/
  | pcieRefLoss
  /-- PLL_UNLOCK (R439). A lane, Cobalt or time PLL loses lock and relocks itself. -/
  | pllUnlock (pll : Nat)
  /-- XING_ERR (R434). A crossing FIFO overflows or underflows, dropping data and restarting empty. -/
  | xingErr (index : Nat)
  /-- LEVEL (R437). A rail difference exceeds 350 mV for 1 µs; isolation engages and power-good loss is reported. -/
  | level (boundary lower : Nat)
  /-- VOTE_WRITE (R440). A host or management-port write to a vote register sets or clears its bit. -/
  | voteWrite (port : Port) (off : Nat) (val : Word)
  /-- HOLD_EXPIRY (R441). A domain's hold timer expires and its target may become OFF. -/
  | holdExpiry (d : Nat)
  /-- POWER_STEP (R443). A step of a domain's rising or falling sequence completes. -/
  | powerStep (d : Nat)
  /-- STEP_TIMEOUT (R445). A rising step exceeds its timeout; the domain falls and retries or fails. -/
  | stepTimeout (d : Nat)
  /-- WAKE_RETRY (R445). A failed domain tries again 100 µs after falling. -/
  | wakeRetry (d : Nat)
  /-- PG_LOSS (R446). Unplanned loss of power-good turns a domain into a falling transition at once. -/
  | pgLoss (d : Nat)
  /-- PG_RESTORE (R446). Power-good has been valid for 100 µs and the domain rises again. -/
  | pgRestore (d : Nat)
  /-- DVFS_STEP (R447). A step of a Cobalt DVFS move completes in the voltage and frequency order. -/
  | dvfsStep
  /-- DVFS_MAN_WRITE (R447). A manual DVFS write sets voltage and frequency or is refused. -/
  | dvfsManWrite (port : Port) (val : Word)
  /-- STATE_REQUEST (R448). A write of PWR.STATE.REQ requests a power state. -/
  | stateRequest (port : Port) (val : Word)
  /-- ENTRY_COMPLETE (R450). Entry to Winter or Midwinter completes and the state is recorded. -/
  | entryComplete
  /-- SPRING_COMPLETE (R452). Spring ends with every named domain up; the state resumes and threads restart. -/
  | springComplete
  /-- RF2_MEASURE (R454). Each tile's VDD_RF2 is measured every 10 µs. -/
  | rf2Measure (t mv : Nat)
  /-- THERMAL_PASS (R456). A sampling pass reads all sensors and judges exclusion, thresholds, bands and gradient. -/
  | thermalPass (raw : List Int)
  /-- POWER_ON_RESET (R466). VDD_AON or VDDIO_AON leaves range and the whole device resets. -/
  | powerOnReset
  /-- PIN_RESET (R466). RESET_N stays low for 1 µs and the device resets. -/
  | pinReset
  /-- RESET_RELEASE (R468). RESET_N rises or a power-on reset ends; BOOTSEL and ADDR are sampled. -/
  | resetRelease (bootSel addr : Nat)
  /-- DEVICE_RESET (R466). A write of GLB.RESET_CTL with the key resets every block except HST. -/
  | deviceReset (port : Port) (val : Word) (bootSel : Nat)
  /-- LINK_RESET (R467). A PCIe hot reset or link down resets HST only. -/
  | linkReset
  /-- OTP_SENSE (R469). The OTP is sensed after reset and the boot sequencer raises domains. -/
  | otpSense
  /-- BOOT_LOAD_DONE (R474). A QSPI slot has been read and hashed, ending in verification or the next source. -/
  | bootLoadDone (data : List Byte)
  /-- VERIFY (R473). A write of SEC.CTL.VERIFY starts verification of a host-loaded image. -/
  | verify (port : Port) (val : Word)
  /-- VERIFY_DONE (R471). Verification ends with a code, marking regions verified and starting threads on OK. -/
  | verifyDone (sig : Bool)
  /-- SVN_COMMIT (R472). A write of SVN_COMMIT blows SVN fuses to the verified SVN. -/
  | svnCommit (port : Port) (val : Word)
  /-- RB_SEND (R475). A write of RB_SEND makes the head send a container over the ring. -/
  | rbSend (port : Port) (val : Word)
  /-- ATTEST (R479). A write of SEC.CTL.ATTEST starts an attestation report. -/
  | attest (port : Port) (val : Word)
  /-- ATTEST_DONE (R479). The signed report is written into SEC.BUF and BUSY clears. -/
  | attestDone (sig : List Byte)
  /-- ID_READY (R477). The identity key is derived after COB rises. -/
  | idReady (pk : List Word)
  /-- CERT_READ (R478). A read of SEC.CERT_DATA returns a certificate word and advances ADDR. -/
  | certRead (port : Port)
  /-- OTP_PROGRAM (R482). A write of OTP_CTL.PROG with the key programs an OTP word, or is refused. -/
  | otpProgram (port : Port) (val : Word)
  /-- OTP_PROGRAM_DONE (R482). An OTP word finishes programming and is read back. -/
  | otpProgramDone (good : Bool)
  /-- PA_ALARM_RELEASE (R163). A PA_ALARM_N input of a group returns high, so the PA_ALARM sticky is no longer set again and the group may leave FAULT under R165. -/
  | paAlarmRelease (input : Nat)
  /-- BIAS_RAIL_LOSS (R500). VBIAS_P or VBIAS_N is lost, every bias output is held on BIAS_SAFE and R162 acts on every group with DRAIN_EN asserted. -/
  | biasRailLoss (rail : Nat)
  /-- BIAS_RAIL_GOOD (R500). A lost bias rail has been good for 50 µs and the bias outputs leave the BIAS_SAFE hold. -/
  | biasRailGood (rail : Nat)
  /-- MSIX_ENABLE (R467). The host enables MSI-X again in configuration space, and every vector source still at 1 sends its message. -/
  | msixEnable
  /-- PCIE_LINK_UP (R25). The PCIe link finishes training at its negotiated width and speed, and HST.LINK shows them. -/
  | pcieLinkUp (width speed : Nat)
  /-- D0_ENTRY (R26). The PCIe function returns from D3hot to D0, and BAR0 requests are served again. -/
  | d0Entry
  /-- AER_FATAL_ERROR (R514). A fatal PCIe error is reported through AER and HST.STICKY.AER_FATAL is set. -/
  | aerFatalError
  /-- HIGH_WORD_READ (R33). A read of the high word of a 64-bit register returns the port's shadow the first time after its low-word read, and the live word after that. -/
  | highWordRead (port : Port) (off : Nat)
  /-- MEMORY_WINDOW_READ (R47). A host or management-port read of a memory window corrects and writes back a single-bit error, or returns a poisoned word with EP or status ECC and counts it. -/
  | memoryWindowRead (port : Port) (off : Nat) (words : Nat)
  /-- TAP_INSTRUCTION (R489). A JTAG TAP instruction is accepted or restricted by RESET_N and LOCK_JTAG, and may take control of pins. -/
  | tapInstruction (instr : Tap) (trst : Bool)
  /-- ROSTER_CACHE_LOAD (R305). ARG reads journal class 8, the roster cache, under the slot rules within 1 ms of TILE0 and RING both being up. -/
  | rosterCacheLoad
  deriving DecidableEq, Repr

end Sys2Proof
end

