-- ==== Sys2Proof/Decode.lean ====
section
/-! DEFINITION. The commands of the block have no words of their own: no row of spec/opcode_table.json gives bits. The words of
the timeline threads' instruction memory are decoded in Machine/Dwemus.lean. -/
namespace Sys2Proof

/-- The command a word of the table's bits spells: none, since no row has bits. -/
def decodeTableWord (_nbits _w : Nat) : Option Instr := none

end Sys2Proof
end

