-- ==== Sys2Proof/Config.lean ====
section
/-! DEFINITION. The free values of the model: what the manual leaves open and the machine goes on. Each is a constant
without a body, so no proof can rest on a value of it; a statement about one holds for every value. -/
namespace Sys2Proof.Config

/-- A fresh unspecified word; applied to `State.free`, the model's own counter of free values taken so far (log 5). -/
opaque freeWord : Nat → Word

/-! ## The air and the filters
The samples a converter delivers come from outside the device, and the manual bounds its filters, rotators and twiddles
without giving their coefficients. -/

/-- The codes of the ADC pair of a receive path, by path and number of the sample (R194; log 104). -/
opaque adc : Nat → Nat → BitVec 14 × BitVec 14

/-- The codes of the ADC pair of an observation receiver, by receiver and number of the sample (R263; log 104). -/
opaque orAdc : Nat → Nat → BitVec 12 × BitVec 12

/-- What calibration drives into the DAC pair of a path in CAL, by path and number of the sample (R154; log 104). -/
opaque calDrive : Nat → Nat → Int × Int

/-- A sample of a filter whose limits alone the manual gives (R173, R199, R212, R239, R263), before its output is clamped:
filter, parameter, phase and the input samples, newest first (log 105). -/
opaque filter : Nat → Nat → Nat → List (Int × Int) → Int × Int

/-- A delay of a fraction of a sample, in 2^-16: the fraction, not 0, and the samples, newest first (R174, R200; log 105). -/
opaque fracDelay : Nat → List (Int × Int) → Int × Int

/-- A sample rotated by `num / den` of a turn, not a whole one (R211, R212, R240; log 106). -/
opaque rotate : Int → Int → Int × Int → Int × Int

/-- The 18-bit components of the twiddle e^(-j 2π i / n), in 2^-17: `n`, `i` (R213; log 107). -/
opaque twiddle : Nat → Nat → Int × Int

/-- The error of a magnitude of CFR, taken at most at the limit of R253 (log 108). -/
opaque magErr : Nat → Int

/-- DC and quadrature correction of an observation sample: the coefficients of R303 class 4 and the sample (R263; log 105). -/
opaque orCorrect : Nat → Nat → Nat → Int × Int → Int × Int

/-- The number of an internal memory as `GLB.ECC_LAST` records it: of SEC.BUF, the FHP queues, the SIC pages, the LIN store and the
roster, 0 to 4 (R50; log 129). -/
opaque memoryNumber : Nat → BitVec 28

end Sys2Proof.Config
end

