-- ==== Sys2Proof/Machine/Bits.lean ====
section
/-! DEFINITION. Bit fields, sign extension, saturation and byte order: the number formats of R4 and R5. -/
namespace Sys2Proof.Machine

/-- Bits `hi` to `lo` of a word, as a number (R4). -/
def bits (w : Word) (hi lo : Nat) : Nat := (w.toNat >>> lo) % 2 ^ (hi + 1 - lo)

/-- Bit `i` of a word. -/
def bit (w : Word) (i : Nat) : Bool := w.getLsbD i

/-- A word of ones in bits `hi` to `lo`. -/
def maskOf (hi lo : Nat) : Word := BitVec.ofNat 32 ((2 ^ (hi + 1 - lo) - 1) <<< lo)

/-- `w` with bits `hi` to `lo` replaced by the low bits of `v`. -/
def setBits (w : Word) (hi lo v : Nat) : Word :=
  (w &&& ~~~ maskOf hi lo) ||| (BitVec.ofNat 32 ((v % 2 ^ (hi + 1 - lo)) <<< lo))

/-- `w` with bit `i` set to `b`. -/
def putBit (w : Word) (i : Nat) (b : Bool) : Word := setBits w i i b.toNat

/-- The signed reading of the low `w` bits of `n` (R5). -/
def sgn (w n : Nat) : Int :=
  let m := n % 2 ^ w
  if m < 2 ^ (w - 1) then (m : Int) else (m : Int) - (2 ^ w : Nat)

/-- The low `w` bits of an integer in two's complement (R5). -/
def unsgn (w : Nat) (i : Int) : Nat := (i % ((2 ^ w : Nat) : Int)).toNat

/-- Sign extension of the low `w` bits of `n` to a 32-bit word. -/
def sext32 (w n : Nat) : Word := BitVec.ofNat 32 (unsgn 32 (sgn w n))

/-- The nearest value to `i` between `lo` and `hi`. -/
def clampI (lo hi i : Int) : Int := if i < lo then lo else if hi < i then hi else i

/-- Saturation to a signed `w`-bit number. -/
def satS (w : Nat) (i : Int) : Int := clampI (-(2 ^ (w - 1) : Nat)) ((2 ^ (w - 1) : Nat) - 1) i

/-- `n + k`, saturating at `2^w - 1`: event counters never wrap (R12). -/
def satAdd (w n k : Nat) : Nat := if 2 ^ w - 1 < n + k then 2 ^ w - 1 else n + k

/-- The four bytes of a word, low byte first (little-endian, R7). -/
def wordBytes (w : Word) : List Byte :=
  [BitVec.ofNat 8 w.toNat, BitVec.ofNat 8 (w.toNat >>> 8), BitVec.ofNat 8 (w.toNat >>> 16),
   BitVec.ofNat 8 (w.toNat >>> 24)]

/-- The number whose bytes, low byte first, are the list. -/
def leNat : List Byte → Nat
  | [] => 0
  | b :: bs => b.toNat + 256 * leNat bs

/-- The 32-bit word whose bytes, low byte first, are the list. -/
def leWord (bs : List Byte) : Word := BitVec.ofNat 32 (leNat bs)

/-- Difference `a − b` modulo 2^32 read as signed: how TNS values are compared (R57). -/
def tdiff (a b : Word) : Int := (a - b).toInt

/-- The indices of the set bits of a word below `n`. -/
def setBitsOf (w : Word) (n : Nat) : List Nat := (List.range n).filter (fun i => bit w i)

/-- The number of set bits of a word. -/
def popCount (w : Word) : Nat := (setBitsOf w 32).length

end Sys2Proof.Machine
end

