-- ==== Sys2Proof/Machine/RegMap.lean ====
section
/-! DEFINITION. The register map of the WZ128: every memory-mapped register of the manual with its BAR0 byte offset,
its array strides and counts, its reset value and its fields with their access codes (R3, R7, R8, R10-R12, R27).
Rows are taken one for one from the manual's register tables; a field that is not listed is reserved and reads 0. -/
namespace Sys2Proof.Machine

/-- Access codes of R8, and the two counter kinds of R12 (both `RW` in the manual's tables). -/
inductive Access where
  | rw   -- read and write
  | ro   -- writes ignored
  | wo   -- reads 0, acts as stated for the field
  | w1c  -- writing 1 clears
  | w1p  -- writing 1 pulses, reads 0
  | rwl  -- as rw until the block's lock bit is set
  | otp  -- fuse value, writes ignored
  | cz   -- counter: writing 0 into the field clears it, any other value leaves it
  | cw   -- counter: writing the whole word 0 clears it, any other value leaves it
  deriving DecidableEq, Repr

/-- One field of a register: bits `hi` to `lo`, its access code and the values a write may place in it (R11); an empty
list of ranges accepts every value. -/
structure Field where
  name : String
  hi   : Nat
  lo   : Nat
  acc  : Access
  ok   : List (Nat × Nat)
  deriving DecidableEq, Repr

/-- One register or register array: base offset, `(stride, count)` per index (outermost first), reset value, fields. -/
structure RegDecl where
  name   : String
  base   : Nat
  dims   : List (Nat × Nat)
  reset  : Nat
  fields : List Field
  deriving DecidableEq, Repr

def fd (name : String) (hi lo : Nat) (acc : Access) : Field := ⟨name, hi, lo, acc, []⟩
def fdr (name : String) (hi lo : Nat) (acc : Access) (ok : List (Nat × Nat)) : Field := ⟨name, hi, lo, acc, ok⟩

def regsGlb0 : List RegDecl := [
  ⟨"GLB.ID", 0x0, [], 0x571280A1,
   [fd "FAMILY" 31 24 .otp, fd "PART" 23 12 .otp, fd "STEPPING" 11 0 .otp]⟩,
  ⟨"GLB.STICKY", 0x4, [], 0x0,
   [fd "DOWN_WRITE" 1 1 .w1c, fd "ECC_UE" 0 0 .w1c]⟩,
  ⟨"GLB.ALERT_EN", 0x8, [], 0x1,
   [fd "EN" 1 0 .rw]⟩,
  ⟨"GLB.ALERT_SUM", 0xC, [], 0x0,
   [fd "BLOCK" 26 0 .ro]⟩,
  ⟨"GLB.DOWN_WRITES", 0x10, [], 0x0,
   [fd "COUNT" 31 0 .cz]⟩,
  ⟨"GLB.RESET_CTL", 0x14, [], 0x0,
   [fd "DEVICE" 31 31 .w1p, fd "KEY" 15 0 .wo]⟩,
  ⟨"GLB.RESET_CAUSE", 0x18, [], 0x1,
   [fd "CAUSE" 2 0 .ro]⟩,
  ⟨"GLB.SCRUB_CTL", 0x800, [], 0x101,
   [fd "INTERVAL" 15 4 .rw, fd "EN" 0 0 .rw]⟩,
  ⟨"GLB.ECC_CE[m]", 0x840, [(0x4, 10)], 0x0,
   [fd "COUNT" 31 0 .cz]⟩,
  ⟨"GLB.ECC_UE[m]", 0x880, [(0x4, 10)], 0x0,
   [fd "COUNT" 15 0 .cz]⟩,
  ⟨"GLB.ECC_LAST", 0x8C0, [], 0x0,
   [fd "MEM" 31 28 .ro, fd "OFFSET" 27 0 .ro]⟩]

/-- The registers of GLB. -/
def regsGlb : List RegDecl := regsGlb0

def regsPwr0 : List RegDecl := [
  ⟨"PWR.STICKY", 0x10000, [], 0x0,
   [fd "PG_LOSS" 26 16 .w1c, fd "BAD_WRITE" 2 2 .w1c, fd "DVFS_ORDER" 1 1 .w1c, fd "WAKE_FAIL" 0 0 .w1c]⟩,
  ⟨"PWR.ALERT_EN", 0x10004, [], 0x7FF0003,
   [fd "EN" 26 1 .rw, fd "EN_WAKE" 0 0 .ro]⟩,
  ⟨"PWR.STATE", 0x10008, [], 0x0,
   [fdr "REQ" 18 16 .rw [(0, 3)], fd "RESUME" 10 8 .ro, fd "PENDING" 7 7 .ro, fd "CUR" 2 0 .ro]⟩,
  ⟨"PWR.SUPERSEDED", 0x1000C, [], 0x0,
   [fd "COUNT" 31 0 .cz]⟩,
  ⟨"PWR.WAKE_FAIL", 0x10010, [], 0x0,
   [fd "SPRING" 31 31 .ro, fd "DOMAIN" 11 8 .ro, fd "STEP" 3 0 .ro]⟩,
  ⟨"PWR.RET_MASK", 0x10014, [], 0x0,
   [fd "BANKS" 10 0 .rw]⟩,
  ⟨"PWR.WAKE_SET", 0x10018, [], 0xFFE,
   [fd "DOMAINS" 11 1 .rw]⟩,
  ⟨"PWR.DVFS", 0x1001C, [], 0x2260000,
   [fd "VOLT" 31 16 .ro, fd "CAP" 9 8 .ro, fd "TARGET" 5 4 .ro, fd "MOVING" 3 3 .ro, fd "PEND" 2 2 .ro, fd "NOW" 1 0 .ro]⟩,
  ⟨"PWR.DVFS_MAN", 0x10020, [], 0x0,
   [fd "EN" 31 31 .rw, fd "VPT" 5 4 .rw, fd "FPT" 1 0 .rw]⟩,
  ⟨"PWR.CNT_BADW", 0x10024, [], 0x0,
   [fd "COUNT" 31 0 .cz]⟩,
  ⟨"PWR.DOM[d].VOTE", 0x10110, [(0x10, 11)], 0x0,
   [fd "THREADS" 23 8 .ro, fd "TIME" 3 3 .ro, fd "ARRAY" 2 2 .ro, fd "MGT" 1 1 .rw, fd "HOST" 0 0 .rw]⟩,
  ⟨"PWR.DOM[d].STATUS", 0x10114, [(0x10, 11)], 0x0,
   [fd "PEND" 7 7 .ro, fd "PEND_UP" 6 6 .ro, fd "ISO" 5 5 .ro, fd "TARGET" 4 4 .ro, fd "STATE" 1 0 .ro]⟩,
  ⟨"PWR.DOM[d].HOLD", 0x10118, [(0x10, 11)], 0x64,
   [fd "US" 15 0 .rw]⟩,
  ⟨"PWR.DVFS_VOTE[c]", 0x10200, [(0x4, 24)], 0x0,
   [fd "VALID" 2 2 .ro, fd "POINT" 1 0 .ro]⟩,
  ⟨"PWR.RF2_MON[t]", 0x10300, [(0x4, 4)], 0x0,
   [fd "MV" 11 0 .ro]⟩]

/-- The registers of PWR. -/
def regsPwr : List RegDecl := regsPwr0

def regsClk0 : List RegDecl := [
  ⟨"CLK.STICKY", 0x20000, [], 0x0,
   [fd "LEVEL" 7 7 .w1c, fd "XING_ERR" 6 6 .w1c, fd "PCIE_REF_LOSS" 5 5 .w1c, fd "LANE_PLL" 4 4 .w1c, fd "COB_PLL" 3 3 .w1c, fd "TIME_PLL" 2 2 .w1c, fd "REF_FREQ" 1 1 .w1c, fd "REF_LOSS" 0 0 .w1c]⟩,
  ⟨"CLK.ALERT_EN", 0x20004, [], 0xFF,
   [fd "EN" 7 0 .rw]⟩,
  ⟨"CLK.REF_CTL", 0x20008, [], 0x3,
   [fd "LOCK" 31 31 .rw, fd "SRIS" 8 8 .rwl, fdr "FREQ" 2 1 .rw [(0, 2)], fd "AUTO" 0 0 .rw]⟩,
  ⟨"CLK.REF_STATUS", 0x2000C, [], 0x0,
   [fd "VALID" 31 31 .ro, fd "PCIE_VALID" 30 30 .ro, fd "DETECTED" 29 28 .ro]⟩,
  ⟨"CLK.PLL_STATUS", 0x20010, [], 0x0,
   [fd "CCS" 11 8 .ro, fd "PCIE" 5 5 .ro, fd "LANE_FH" 4 4 .ro, fd "LANE_B" 3 3 .ro, fd "LANE_A" 2 2 .ro, fd "COB" 1 1 .ro, fd "TIME" 0 0 .ro]⟩,
  ⟨"CLK.COB_FREQ", 0x20014, [], 0x2580258,
   [fd "TARGET" 31 16 .ro, fd "NOW" 15 0 .ro]⟩,
  ⟨"CLK.XING", 0x20018, [], 0x0,
   [fd "LAST" 31 24 .ro, fd "COUNT" 15 0 .cz]⟩,
  ⟨"CLK.REF_LOSSES", 0x2001C, [], 0x0,
   [fd "COUNT" 31 0 .cz]⟩,
  ⟨"CLK.LEVEL_LAST", 0x20020, [], 0x0,
   [fd "BOUNDARY" 1 0 .ro]⟩]

/-- The registers of CLK. -/
def regsClk : List RegDecl := regsClk0

def regsThm0 : List RegDecl := [
  ⟨"THM.STICKY", 0x30000, [], 0x0,
   [fd "SHUTDOWN" 5 5 .w1c, fd "UNKNOWN" 4 4 .w1c, fd "SENSOR" 3 3 .w1c, fd "GRADIENT" 2 2 .w1c, fd "THROTTLE" 1 1 .w1c, fd "WARN" 0 0 .w1c]⟩,
  ⟨"THM.ALERT_EN", 0x30004, [], 0x3E,
   [fd "EN_SHUT" 5 5 .ro, fd "EN" 4 0 .rw]⟩,
  ⟨"THM.CTL", 0x30008, [], 0x0,
   [fd "LOCK" 31 31 .rw]⟩,
  ⟨"THM.THR_WARN", 0x3000C, [], 0x40064,
   [fdr "HYST" 23 16 .rwl [(1, 20)], fdr "LEVEL" 7 0 .rwl [(60, 125)]]⟩,
  ⟨"THM.THR_THROT", 0x30010, [], 0x4006C,
   [fdr "HYST" 23 16 .rwl [(1, 20)], fdr "LEVEL" 7 0 .rwl [(60, 125)]]⟩,
  ⟨"THM.THR_SHUT", 0x30014, [], 0xF0078,
   [fdr "HYST" 23 16 .rwl [(1, 20)], fdr "LEVEL" 7 0 .rwl [(100, 125)]]⟩,
  ⟨"THM.THROT", 0x30018, [], 0x10064,
   [fd "DVFS" 17 16 .rwl, fdr "BACKOFF" 15 0 .rwl [(0, 1000)]]⟩,
  ⟨"THM.STATUS", 0x3001C, [], 0x0,
   [fd "SHUTDOWN" 31 31 .ro, fd "THROTTLE" 30 30 .ro, fd "WARN" 29 29 .ro, fd "GRADIENT" 28 28 .ro, fd "UNKNOWN" 27 27 .ro, fd "GRAD" 15 0 .ro]⟩,
  ⟨"THM.REGION[j]", 0x30040, [(0x4, 9)], 0x0,
   [fd "THROTTLE" 31 31 .ro, fd "WARN" 30 30 .ro, fd "UNKNOWN" 29 29 .ro, fd "BAND" 26 24 .ro, fd "BAND_NEXT" 22 20 .ro, fd "TEMP" 15 0 .ro]⟩,
  ⟨"THM.TILE[t]", 0x30080, [(0x4, 4)], 0x0,
   [fd "TEMP" 15 0 .ro]⟩,
  ⟨"THM.EXCL[w]", 0x300A0, [(0x4, 2)], 0x0,
   [fd "SENSORS" 31 0 .ro]⟩,
  ⟨"THM.FORCE_EXCL[w]", 0x300A8, [(0x4, 2)], 0x0,
   [fd "SENSORS" 31 0 .rw]⟩,
  ⟨"THM.TS[i]", 0x30100, [(0x4, 64)], 0x0,
   [fd "EXCL" 31 31 .ro, fd "SUSPECT" 30 30 .ro, fd "RUN" 27 24 .ro, fd "READING" 15 0 .ro]⟩]

/-- The registers of THM. -/
def regsThm : List RegDecl := regsThm0

def regsSec0 : List RegDecl := [
  ⟨"SEC.STICKY", 0x40000, [], 0x0,
   [fd "BAD_WRITE" 4 4 .w1c, fd "OTP_FAIL" 3 3 .w1c, fd "ID_FAIL" 2 2 .w1c, fd "VERIFY_FAIL" 1 1 .w1c, fd "BOOT_FAIL" 0 0 .w1c]⟩,
  ⟨"SEC.ALERT_EN", 0x40004, [], 0xF,
   [fd "EN" 4 0 .rw]⟩,
  ⟨"SEC.CTL", 0x40008, [], 0x0,
   [fd "VERIFY" 31 31 .w1p, fd "ATTEST" 30 30 .w1p, fd "SVN_COMMIT" 29 29 .w1p, fd "RB_SEND" 28 28 .w1p]⟩,
  ⟨"SEC.STATUS", 0x4000C, [], 0x0,
   [fd "BUSY" 31 31 .ro, fd "ID_READY" 30 30 .ro, fd "BOOTSEL" 29 28 .ro, fd "BOOT_STATE" 27 24 .ro, fd "IMG_SVN" 23 16 .ro, fd "OTP_SVN" 15 8 .ro, fd "CODE" 3 0 .ro]⟩,
  ⟨"SEC.RB_ADDR", 0x40010, [], 0x0,
   [fd "VALUE" 24 4 .rw]⟩,
  ⟨"SEC.RB_LEN", 0x40014, [], 0x0,
   [fd "VALUE" 31 0 .rw]⟩,
  ⟨"SEC.CNT_BADW", 0x40018, [], 0x0,
   [fd "COUNT" 31 0 .cz]⟩,
  ⟨"SEC.FP[j]", 0x40020, [(0x4, 8)], 0x0,
   [fd "VALUE" 31 0 .ro]⟩,
  ⟨"SEC.ID_PK[j]", 0x40040, [(0x4, 16)], 0x0,
   [fd "VALUE" 31 0 .ro]⟩,
  ⟨"SEC.ATT_NONCE[j]", 0x40080, [(0x4, 8)], 0x0,
   [fd "VALUE" 31 0 .rw]⟩,
  ⟨"SEC.CERT_ADDR", 0x400A0, [], 0x0,
   [fd "ADDR" 13 0 .rw]⟩,
  ⟨"SEC.CERT_DATA", 0x400A4, [], 0x0,
   [fd "DATA" 31 0 .ro]⟩,
  ⟨"SEC.OTP_ADDR", 0x400B0, [], 0x0,
   [fd "ADDR" 10 0 .rw]⟩,
  ⟨"SEC.OTP_DATA", 0x400B4, [], 0x0,
   [fd "DATA" 31 0 .rw]⟩,
  ⟨"SEC.OTP_CTL", 0x400B8, [], 0x0,
   [fd "PROG" 31 31 .w1p, fd "BUSY" 30 30 .ro, fd "KEY" 15 0 .wo]⟩,
  ⟨"SEC.LOCKS", 0x400BC, [], 0x0,
   [fd "LOCKS" 31 0 .ro]⟩]

/-- The registers of SEC. -/
def regsSec : List RegDecl := regsSec0

def regsMgt0 : List RegDecl := [
  ⟨"MGT.STICKY", 0x50000, [], 0x0,
   [fd "NVM_FAIL" 4 4 .w1c, fd "QSPI" 3 3 .w1c, fd "TIMEOUT" 2 2 .w1c, fd "FRAME" 1 1 .w1c, fd "SCL_TIMEOUT" 0 0 .w1c]⟩,
  ⟨"MGT.ALERT_EN", 0x50004, [], 0x18,
   [fd "EN" 4 0 .rw]⟩,
  ⟨"MGT.NVM_ADDR", 0x50100, [], 0x0,
   [fd "TILE" 19 18 .rw, fd "WORD" 17 0 .rw]⟩,
  ⟨"MGT.NVM_DATA", 0x50104, [], 0x0,
   [fd "DATA" 31 0 .rw]⟩,
  ⟨"MGT.NVM_STATUS", 0x50108, [], 0x0,
   [fd "BUSY" 31 31 .ro, fd "LAST" 3 0 .ro]⟩,
  ⟨"MGT.CNT_BADW", 0x5010C, [], 0x0,
   [fd "COUNT" 31 0 .cz]⟩,
  ⟨"MGT.QSPI_CMD", 0x50140, [], 0x0,
   [fd "GO" 31 31 .w1p, fd "BUSY" 30 30 .ro, fd "DIR" 29 29 .rw, fd "QUAD" 28 28 .rw, fd "ADDR4" 27 27 .rw, fd "DUMMY" 23 20 .rw, fd "LEN" 16 8 .rw, fd "OPCODE" 7 0 .rw]⟩,
  ⟨"MGT.QSPI_ADDR", 0x50144, [], 0x0,
   [fd "ADDR" 31 0 .rw]⟩,
  ⟨"MGT.QSPI_STATUS", 0x50148, [], 0x0,
   [fd "REFUSED" 0 0 .ro]⟩,
  ⟨"MGT.QSPI_BUF[w]", 0x50200, [(0x4, 64)], 0x0,
   [fd "DATA" 31 0 .rw]⟩]

/-- The registers of MGT. -/
def regsMgt : List RegDecl := regsMgt0

def regsTmu0 : List RegDecl := [
  ⟨"TMU.STICKY", 0x60000, [], 0x0,
   [fd "BAD_WRITE" 6 6 .w1c, fd "PPS_MISS" 5 5 .w1c, fd "PPS_SPUR" 4 4 .w1c, fd "RATE_LIMIT" 3 3 .w1c, fd "STEPPED" 2 2 .w1c, fd "HOLDOVER" 1 1 .w1c, fd "OFFSET_LARGE" 0 0 .w1c]⟩,
  ⟨"TMU.ALERT_EN", 0x60004, [], 0x63,
   [fd "EN" 6 0 .rw]⟩,
  ⟨"TMU.CTL", 0x60008, [], 0x1830,
   [fdr "SRC" 17 16 .rw [(0, 2)], fd "HOST_LOCKED" 13 13 .rw, fd "STEER" 12 12 .rw, fd "KI_SH" 11 8 .rw, fd "KP_SH" 7 4 .rw]⟩,
  ⟨"TMU.STATUS", 0x6000C, [], 0x40000000,
   [fd "STEP_PENDING" 31 31 .ro, fd "STEER_ON" 30 30 .ro, fd "CCS_HOLD" 29 29 .ro, fd "STEER_PENDING" 28 28 .ro, fd "STATE" 1 0 .ro]⟩,
  ⟨"TMU.TIME", 0x60010, [], 0x0,
   [fd "TNS (TIME)" 31 0 .ro, fd "WRAP (TIME_HI)" 31 16 .ro, fd "TFR (TIME_HI)" 15 0 .ro]⟩,
  ⟨"TMU.TIME_HI", 0x60014, [], 0x0,
   [fd "TNS (TIME)" 31 0 .ro, fd "WRAP (TIME_HI)" 31 16 .ro, fd "TFR (TIME_HI)" 15 0 .ro]⟩,
  ⟨"TMU.STEP_ARM", 0x60018, [], 0x1,
   [fd "ARM" 0 0 .rw]⟩,
  ⟨"TMU.STEP_FORCE", 0x6001C, [], 0x0,
   [fd "FORCE" 0 0 .rw]⟩,
  ⟨"TMU.STEP_NS", 0x60020, [], 0x0,
   [fd "NS" 31 0 .rw]⟩,
  ⟨"TMU.STEP_FR", 0x60024, [], 0x0,
   [fd "FR" 15 0 .rw]⟩,
  ⟨"TMU.OFFSET_LIMIT", 0x60028, [], 0x3E8,
   [fd "NS" 31 0 .rw]⟩,
  ⟨"TMU.OFFSET", 0x6002C, [], 0x0,
   [fd "VALUE" 31 0 .ro]⟩,
  ⟨"TMU.PATH_DELAY", 0x60030, [], 0x0,
   [fd "VALUE" 31 0 .ro]⟩,
  ⟨"TMU.RATE_REQ_LO", 0x60034, [], 0x0,
   [fd "RATE" 31 0 .rw]⟩,
  ⟨"TMU.RATE_REQ_HI", 0x60038, [], 0x0,
   [fd "RATE" 15 0 .rw]⟩,
  ⟨"TMU.RATE_LO", 0x6003C, [], 0x0,
   [fd "RATE" 31 0 .ro]⟩,
  ⟨"TMU.RATE_HI", 0x60040, [], 0x0,
   [fd "RATE" 15 0 .ro]⟩,
  ⟨"TMU.CCS_FIXED_LO", 0x60044, [], 0x0,
   [fd "RATE" 31 0 .rw]⟩,
  ⟨"TMU.CCS_FIXED_HI", 0x60048, [], 0x0,
   [fd "RATE" 15 0 .rw]⟩,
  ⟨"TMU.HOST_TMO", 0x6004C, [], 0xBB8,
   [fd "MS" 15 0 .rw]⟩,
  ⟨"TMU.SLIP", 0x60050, [], 0x0,
   [fd "SLIP" 31 0 .ro]⟩,
  ⟨"TMU.SLIPS", 0x60054, [], 0x0,
   [fd "COUNT" 31 0 .cz]⟩,
  ⟨"TMU.PPS_EXP", 0x60058, [], 0x0,
   [fd "TNS" 31 0 .rw]⟩,
  ⟨"TMU.PPS_TNS", 0x6005C, [], 0x0,
   [fd "TNS" 31 0 .ro]⟩]

def regsTmu1 : List RegDecl := [
  ⟨"TMU.PPS_TFR", 0x60060, [], 0x0,
   [fd "TFR" 15 0 .ro]⟩,
  ⟨"TMU.ASYM_RX[q]", 0x60100, [(0x8, 8)], 0x0,
   [fd "PS" 23 0 .rw]⟩,
  ⟨"TMU.ASYM_TX[q]", 0x60104, [(0x8, 8)], 0x0,
   [fd "PS" 23 0 .rw]⟩,
  ⟨"TMU.PULSE[k].CTL", 0x60200, [(0x10, 9)], 0x0,
   [fd "EN" 31 31 .rw, fd "POL" 30 30 .rw, fd "START_FR" 15 0 .rw]⟩,
  ⟨"TMU.PULSE[k].START", 0x60204, [(0x10, 9)], 0x0,
   [fd "TNS" 31 0 .rw]⟩,
  ⟨"TMU.PULSE[k].PERIOD", 0x60208, [(0x10, 9)], 0x0,
   [fd "NS" 31 0 .rw]⟩,
  ⟨"TMU.PULSE[k].SHAPE", 0x6020C, [(0x10, 9)], 0x0,
   [fd "WIDTH" 31 16 .rw, fd "PERIOD_FR" 15 0 .rw]⟩]

/-- The registers of TMU. -/
def regsTmu : List RegDecl := regsTmu0 ++ regsTmu1

def regsCvu0 : List RegDecl := [
  ⟨"CVU.STICKY", 0x70000, [], 0x0,
   [fd "HALF_FEED" 1 1 .w1c, fd "BAD_WRITE" 0 0 .w1c]⟩,
  ⟨"CVU.ALERT_EN", 0x70004, [], 0x3,
   [fd "EN" 1 0 .rw]⟩,
  ⟨"CVU.CNT_BADW", 0x70008, [], 0x0,
   [fd "COUNT" 31 0 .cz]⟩,
  ⟨"CVU.CV[c].CTL", 0x70100, [(0x80, 8)], 0x0,
   [fd "START" 31 31 .w1p, fd "BUSY" 30 30 .ro, fd "LEVEL" 3 0 .ro]⟩,
  ⟨"CVU.CV[c].CFG", 0x70104, [(0x80, 8)], 0xC0000020,
   [fd "REFIN" 31 31 .rw, fd "REFOUT" 30 30 .rw, fd "FOLD_LEN" 19 16 .rw, fd "WIDTH" 6 0 .rw]⟩,
  ⟨"CVU.CV[c].POLY_LO", 0x70108, [(0x80, 8)], 0x4C11DB7,
   [fd "VALUE" 31 0 .rw]⟩,
  ⟨"CVU.CV[c].POLY_HI", 0x7010C, [(0x80, 8)], 0x0,
   [fd "VALUE" 31 0 .rw]⟩,
  ⟨"CVU.CV[c].INIT_LO", 0x70110, [(0x80, 8)], 0xFFFFFFFF,
   [fd "VALUE" 31 0 .rw]⟩,
  ⟨"CVU.CV[c].INIT_HI", 0x70114, [(0x80, 8)], 0x0,
   [fd "VALUE" 31 0 .rw]⟩,
  ⟨"CVU.CV[c].XOROUT_LO", 0x70118, [(0x80, 8)], 0xFFFFFFFF,
   [fd "VALUE" 31 0 .rw]⟩,
  ⟨"CVU.CV[c].XOROUT_HI", 0x7011C, [(0x80, 8)], 0x0,
   [fd "VALUE" 31 0 .rw]⟩,
  ⟨"CVU.CV[c].FOLD_LO", 0x70120, [(0x80, 8)], 0x0,
   [fd "VALUE" 31 0 .rw]⟩,
  ⟨"CVU.CV[c].FOLD_HI", 0x70124, [(0x80, 8)], 0x0,
   [fd "VALUE" 31 0 .rw]⟩,
  ⟨"CVU.CV[c].VALUE_LO", 0x70128, [(0x80, 8)], 0xFFFFFFFF,
   [fd "V" 31 0 .rw]⟩,
  ⟨"CVU.CV[c].VALUE_HI", 0x7012C, [(0x80, 8)], 0x0,
   [fd "V" 31 0 .rw]⟩,
  ⟨"CVU.CV[c].RESULT_LO", 0x70130, [(0x80, 8)], 0x0,
   [fd "VALUE" 31 0 .ro]⟩,
  ⟨"CVU.CV[c].RESULT_HI", 0x70134, [(0x80, 8)], 0x0,
   [fd "VALUE" 31 0 .ro]⟩,
  ⟨"CVU.CV[c].COUNT", 0x70138, [(0x80, 8)], 0x0,
   [fd "VALUE" 31 0 .ro]⟩,
  ⟨"CVU.CV[c].FEED8", 0x70140, [(0x80, 8)], 0x0,
   [fd "DATA" 31 0 .wo]⟩,
  ⟨"CVU.CV[c].FEED16", 0x70144, [(0x80, 8)], 0x0,
   [fd "DATA" 31 0 .wo]⟩,
  ⟨"CVU.CV[c].FEED32", 0x70148, [(0x80, 8)], 0x0,
   [fd "DATA" 31 0 .wo]⟩,
  ⟨"CVU.CV[c].FEED64_LO", 0x7014C, [(0x80, 8)], 0x0,
   [fd "DATA" 31 0 .wo]⟩,
  ⟨"CVU.CV[c].FEED64_HI", 0x70150, [(0x80, 8)], 0x0,
   [fd "DATA" 31 0 .wo]⟩]

/-- The registers of CVU. -/
def regsCvu : List RegDecl := regsCvu0

def regsDma0 : List RegDecl := [
  ⟨"DMA.STICKY", 0x80000, [], 0x0,
   [fd "PACE_OVR" 2 2 .w1c, fd "BAD_WRITE" 1 1 .w1c, fd "CH_ERR" 0 0 .w1c]⟩,
  ⟨"DMA.ALERT_EN", 0x80004, [], 0x1,
   [fd "EN" 2 0 .rw]⟩,
  ⟨"DMA.CTL", 0x80008, [], 0x100,
   [fdr "MAX_OUT" 8 0 .rw [(1, 256)]]⟩,
  ⟨"DMA.STATUS", 0x8000C, [], 0x0,
   [fd "BUSY" 31 31 .ro, fd "CH" 20 16 .ro, fd "OUT" 8 0 .ro]⟩,
  ⟨"DMA.CNT_BADW", 0x80010, [], 0x0,
   [fd "COUNT" 31 0 .cz]⟩,
  ⟨"DMA.CH[c].CTL", 0x80100, [(0x40, 32)], 0x0,
   [fd "GO" 31 31 .w1p, fd "ABORT" 30 30 .w1p]⟩,
  ⟨"DMA.CH[c].CFG", 0x80104, [(0x40, 32)], 0x0,
   [fd "URGENT" 31 31 .rw, fd "PACE_SRC" 29 24 .rw]⟩,
  ⟨"DMA.CH[c].DESC_LO", 0x80108, [(0x40, 32)], 0x0,
   [fd "ADDR" 31 0 .rw]⟩,
  ⟨"DMA.CH[c].DESC_HI", 0x8010C, [(0x40, 32)], 0x0,
   [fd "ADDR" 31 0 .rw]⟩,
  ⟨"DMA.CH[c].CUR_LO", 0x80110, [(0x40, 32)], 0x0,
   [fd "ADDR" 31 0 .ro]⟩,
  ⟨"DMA.CH[c].CUR_HI", 0x80114, [(0x40, 32)], 0x0,
   [fd "ADDR" 31 0 .ro]⟩,
  ⟨"DMA.CH[c].APPEND", 0x80118, [(0x40, 32)], 0x0,
   [fd "DOORBELL" 31 0 .wo]⟩,
  ⟨"DMA.CH[c].STATUS", 0x8011C, [(0x40, 32)], 0x0,
   [fd "STATE" 31 28 .ro, fd "ERR" 27 24 .ro, fd "PACE" 16 16 .ro]⟩,
  ⟨"DMA.CH[c].DONE", 0x80120, [(0x40, 32)], 0x0,
   [fd "VALUE" 31 0 .cz]⟩,
  ⟨"DMA.CH[c].APPEND_CNT", 0x80124, [(0x40, 32)], 0x0,
   [fd "VALUE" 31 0 .ro]⟩,
  ⟨"DMA.CH[c].APPEND_SEEN", 0x80128, [(0x40, 32)], 0x0,
   [fd "VALUE" 31 0 .ro]⟩,
  ⟨"DMA.CH[c].PACE_OVR", 0x8012C, [(0x40, 32)], 0x0,
   [fd "VALUE" 31 0 .cz]⟩]

/-- The registers of DMA. -/
def regsDma : List RegDecl := regsDma0

def regsCap0 : List RegDecl := [
  ⟨"CAP.STICKY", 0x90000, [], 0x0,
   [fd "BAD_WRITE" 4 4 .w1c, fd "AUTO_FORCED" 3 3 .w1c, fd "MISSED_TRIG" 2 2 .w1c, fd "LOST" 1 1 .w1c, fd "POST_OVERRUN" 0 0 .w1c]⟩,
  ⟨"CAP.ALERT_EN", 0x90004, [], 0x13,
   [fd "EN" 4 0 .rw]⟩,
  ⟨"CAP.CTL", 0x90008, [], 0x0,
   [fd "ARM" 31 31 .w1p, fd "DISARM" 30 30 .w1p, fd "FORCE" 29 29 .w1p, fd "REPEAT" 28 28 .rw, fd "AUTO" 27 27 .rw, fd "TRACE_EN" 26 26 .rw, fdr "SEG_LOG2" 18 16 .rw [(0, 4)]]⟩,
  ⟨"CAP.STATUS", 0x9000C, [], 0x0,
   [fd "STATE" 31 30 .ro, fd "ST" 26 24 .ro, fd "SEG" 19 16 .ro]⟩,
  ⟨"CAP.PART", 0x90010, [], 0x10,
   [fdr "TRAIN" 5 0 .rw [(0, 32)]]⟩,
  ⟨"CAP.PRE", 0x90014, [], 0x0,
   [fd "VALUE" 31 0 .rw]⟩,
  ⟨"CAP.POST", 0x90018, [], 0x0,
   [fd "VALUE" 31 0 .rw]⟩,
  ⟨"CAP.AUTO_TMO", 0x9001C, [], 0x0,
   [fd "VALUE" 23 0 .rw]⟩,
  ⟨"CAP.MISSED_TRIG", 0x90020, [], 0x0,
   [fd "COUNT" 31 0 .cz]⟩,
  ⟨"CAP.LOST", 0x90024, [], 0x0,
   [fd "COUNT" 31 0 .cz]⟩,
  ⟨"CAP.CNT_BADW", 0x90028, [], 0x0,
   [fd "COUNT" 31 0 .cz]⟩,
  ⟨"CAP.SRC_EN", 0x90040, [], 0x0,
   [fd "PROBE" 31 0 .rw]⟩,
  ⟨"CAP.TAP[t].CFG", 0x90080, [(0x8, 4)], 0x0,
   [fd "EN" 31 31 .rw, fdr "POINT" 30 28 .rw [(0, 4)], fd "PATH" 22 16 .rw, fd "DEC" 3 0 .rw]⟩,
  ⟨"CAP.TAP[t].DEADBAND", 0x90084, [(0x8, 4)], 0x0,
   [fd "DEADBAND" 23 0 .rw]⟩,
  ⟨"CAP.ST[s].COND", 0x90100, [(0x10, 8)], 0x0,
   [fdr "TYPE" 31 28 .rw [(0, 7)], fdr "NEXT" 27 24 .rw [(0, 8)], fdr "TMO_NEXT" 23 20 .rw [(0, 8)], fd "SRC" 7 0 .rw]⟩,
  ⟨"CAP.ST[s].ARG", 0x90104, [(0x10, 8)], 0x0,
   [fd "LEVEL" 31 16 .rw, fd "MASK" 15 8 .rw, fd "VALUE" 7 0 .rw]⟩,
  ⟨"CAP.ST[s].COUNT", 0x90108, [(0x10, 8)], 0x0,
   [fd "COUNT" 31 0 .rw]⟩,
  ⟨"CAP.ST[s].TIMER", 0x9010C, [(0x10, 8)], 0x0,
   [fd "TIMER" 31 0 .rw]⟩,
  ⟨"CAP.PROBE[k]", 0x90200, [(0x4, 32)], 0x0,
   [fd "GROUP" 19 16 .rw, fd "IDX" 14 8 .rw, fd "MASK" 7 0 .rw]⟩]

/-- The registers of CAP. -/
def regsCap : List RegDecl := regsCap0

def regsBda0 : List RegDecl := [
  ⟨"BDA.STICKY", 0xA0000, [], 0x0,
   [fd "OT" 15 8 .w1c, fd "NVM_WRITE" 4 4 .w1c, fd "SG_CLAMP" 3 3 .w1c, fd "RC_REFUSED" 2 2 .w1c, fd "BAD_WRITE" 1 1 .w1c, fd "NO_TABLE" 0 0 .w1c]⟩,
  ⟨"BDA.ALERT_EN", 0xA0004, [], 0xFF1D,
   [fd "EN" 15 0 .rw]⟩,
  ⟨"BDA.CTL", 0xA0008, [], 0x0,
   [fd "RC_KEEP" 16 16 .rw, fd "STORE" 11 8 .w1p, fd "RELEASE" 3 0 .w1p]⟩,
  ⟨"BDA.STATUS", 0xA000C, [], 0xF0,
   [fd "STORE_BUSY" 31 31 .ro, fd "OT" 23 16 .ro, fd "PUP_CLAMP" 7 4 .ro, fd "LOADED" 3 0 .ro]⟩,
  ⟨"BDA.CNT_BADW", 0xA0010, [], 0x0,
   [fd "COUNT" 31 0 .cz]⟩,
  ⟨"BDA.SG[g].CTL", 0xA0100, [(0x10, 4)], 0x0,
   [fd "EN" 31 31 .rw, fd "PH_RST" 30 30 .w1p]⟩,
  ⟨"BDA.SG[g].FTW", 0xA0104, [(0x10, 4)], 0x0,
   [fdr "FTW" 31 0 .rw [(0, 2147483648)]]⟩,
  ⟨"BDA.SG[g].AMP_OFF", 0xA0108, [(0x10, 4)], 0x0,
   [fd "OFFSET" 31 16 .rw, fd "AMP" 14 0 .rw]⟩,
  ⟨"BDA.SG[g].PHASE", 0xA010C, [(0x10, 4)], 0x0,
   [fd "PHASE" 31 0 .ro]⟩,
  ⟨"BDA.OUT[i].CFG", 0xA1000, [(0x10, 256)], 0x0,
   [fd "RC_BUSY" 31 31 .ro, fd "CLAMP" 30 30 .ro, fd "FAULT" 29 29 .ro, fdr "SG" 10 8 .rw [(0, 4)], fd "SPAN" 2 0 .rw]⟩,
  ⟨"BDA.OUT[i].CODE", 0xA1004, [(0x10, 256)], 0x0,
   [fd "CODE" 15 0 .rw]⟩,
  ⟨"BDA.OUT[i].PUP", 0xA1008, [(0x10, 256)], 0x0,
   [fd "FAULT_V" 31 16 .rw, fd "PUP" 15 0 .rw]⟩,
  ⟨"BDA.OUT[i].APPLIED", 0xA100C, [(0x10, 256)], 0x0,
   [fd "APPLIED" 15 0 .ro]⟩,
  ⟨"BDA.OP[i][p][b]", 0xA2000, [(0x40, 256), (0x20, 2), (0x4, 8)], 0x0,
   [fd "CODE" 15 0 .rw]⟩,
  ⟨"BDA.SAFE[i][s]", 0xA6000, [(0x20, 256), (0x4, 5)], 0x0,
   [fd "CODE" 15 0 .rw]⟩,
  ⟨"BDA.SG_TAB[g][w]", 0xA8000, [(0x2000, 4), (0x4, 2048)], 0x0,
   [fd "ODD" 31 16 .rw, fd "EVEN" 15 0 .rw]⟩]

/-- The registers of BDA. -/
def regsBda : List RegDecl := regsBda0

def regsCal0 : List RegDecl := [
  ⟨"CAL.STICKY", 0xB0000, [], 0x0,
   [fd "BAD_WRITE" 6 6 .w1c, fd "CAP_RANGE" 5 5 .w1c, fd "NVM_WRITE" 4 4 .w1c, fd "NVM_FACTORY" 3 3 .w1c, fd "NVM_FALLBACK" 2 2 .w1c, fd "BG_LOW" 1 1 .w1c, fd "GAVE_UP" 0 0 .w1c]⟩,
  ⟨"CAL.ALERT_EN", 0xB0004, [], 0x1D,
   [fd "EN" 6 0 .rw]⟩,
  ⟨"CAL.CTL", 0xB0008, [], 0x7,
   [fd "AUTO_STORE" 2 2 .rw, fd "XDEV_AUTO" 1 1 .rw, fd "BG_EN" 0 0 .rw]⟩,
  ⟨"CAL.QUIET_LIMIT", 0xB000C, [], 0xFDA8,
   [fdr "LIMIT" 15 0 .rw [(64636, 65336)]]⟩,
  ⟨"CAL.RETRY", 0xB0010, [], 0x3,
   [fd "COUNT" 3 0 .rw]⟩,
  ⟨"CAL.WIN", 0xB0014, [], 0x0,
   [fd "LEN" 31 16 .wo, fd "OPEN" 15 8 .ro, fd "GROUPS" 7 0 .wo]⟩,
  ⟨"CAL.REQ", 0xB0018, [], 0x0,
   [fd "KIND" 31 28 .wo, fd "SCOPE" 27 26 .wo, fd "K" 18 16 .wo, fd "SEL" 15 0 .wo]⟩,
  ⟨"CAL.BG", 0xB001C, [], 0x14140064,
   [fdr "PILOT" 31 24 .rw [(10, 40)], fd "QTHR" 23 16 .rw, fdr "PERIOD" 15 0 .rw [(10, 1000)]]⟩,
  ⟨"CAL.CAP_BASE", 0xB0020, [], 0x0,
   [fd "BLOCK" 24 20 .rw]⟩,
  ⟨"CAL.JCTL", 0xB0024, [], 0x0,
   [fd "BUSY" 31 31 .ro, fd "TILES" 19 16 .wo, fd "CLASSES" 8 1 .wo]⟩,
  ⟨"CAL.GRP[k]", 0xB0040, [(0x4, 8)], 0x0,
   [fd "FAILED" 31 31 .ro, fd "RUNNING" 30 30 .ro, fd "TRIES" 27 24 .ro, fd "LAST_CODE" 23 20 .ro, fd "LAST_KIND" 19 16 .ro, fd "PEND" 9 0 .ro]⟩,
  ⟨"CAL.JSRC[t]", 0xB0100, [(0x4, 4)], 0x0,
   [fd "SRC" 15 0 .ro]⟩,
  ⟨"CAL.JSEQ[t][c]", 0xB0180, [(0x20, 4), (0x4, 8)], 0x0,
   [fd "SEQ" 31 0 .ro]⟩,
  ⟨"CAL.PATH[n]", 0xB0400, [(0x4, 128)], 0x0,
   [fd "FAILED" 31 31 .ro, fd "RUNNING" 30 30 .ro, fd "TRIES" 27 24 .ro, fd "LAST_CODE" 23 20 .ro, fd "LAST_KIND" 19 16 .ro, fd "PEND" 9 0 .ro]⟩,
  ⟨"CAL.ELEM[n]", 0xB0600, [(0x4, 128)], 0x0,
   [fd "RX" 31 16 .cw, fd "TX" 15 0 .cw]⟩,
  ⟨"CAL.ELEM_TNS[n]", 0xB0800, [(0x4, 128)], 0x0,
   [fd "TNS" 31 0 .ro]⟩,
  ⟨"CAL.BGQ[n]", 0xB0A00, [(0x4, 128)], 0x0,
   [fd "RX_MISS" 23 20 .ro, fd "TX_MISS" 19 16 .ro, fd "TX_Q" 15 8 .ro, fd "RX_Q" 7 0 .ro]⟩]

/-- The registers of CAL. -/
def regsCal : List RegDecl := regsCal0

def regsLos0 : List RegDecl := [
  ⟨"LOS.STICKY", 0xC0000, [], 0x0,
   [fd "UNLOCK" 31 24 .w1c, fd "TX_UNLOCKED" 23 16 .w1c, fd "RANGE" 15 8 .w1c, fd "CCS_UNLOCK" 7 4 .w1c, fd "CL_FAIL" 3 3 .w1c, fd "HOP_DENY" 2 2 .w1c]⟩,
  ⟨"LOS.ALERT_EN", 0xC0004, [], 0xFFFFFFFC,
   [fd "EN" 31 2 .rw]⟩,
  ⟨"LOS.CNT_BADW", 0xC0008, [], 0x0,
   [fd "COUNT" 31 0 .cz]⟩,
  ⟨"LOS.S[k].CTL", 0xC0100, [(0x100, 8)], 0x0,
   [fd "HOLD" 31 31 .rw, fd "IF" 29 28 .rw]⟩,
  ⟨"LOS.S[k].HOP", 0xC0104, [(0x100, 8)], 0x0,
   [fd "GO" 31 31 .w1p, fd "PRESET" 3 0 .rw]⟩,
  ⟨"LOS.S[k].STATUS", 0xC0108, [(0x100, 8)], 0x0,
   [fd "LO_OK" 31 31 .ro, fd "LOCK" 30 30 .ro, fd "CAL" 29 29 .ro, fd "SETTLING" 28 28 .ro, fd "POWERED" 27 27 .ro, fd "RANGE_OK" 26 26 .ro, fd "FAST" 25 25 .ro, fd "PRESET" 19 16 .ro]⟩,
  ⟨"LOS.S[k].FREQ", 0xC010C, [(0x100, 8)], 0x0,
   [fd "KHZ" 24 0 .ro]⟩,
  ⟨"LOS.S[k].HOPS", 0xC0110, [(0x100, 8)], 0x0,
   [fd "COUNT" 31 0 .cz]⟩,
  ⟨"LOS.S[k].PRESET[j].CFG", 0xC0140, [(0x100, 8), (0x8, 16)], 0x0,
   [fd "DBL" 11 11 .rw, fd "DIV" 10 8 .rw, fd "N" 7 0 .rw]⟩,
  ⟨"LOS.S[k].PRESET[j].FRAC", 0xC0144, [(0x100, 8), (0x8, 16)], 0x0,
   [fd "FRAC" 31 0 .rw]⟩,
  ⟨"LOS.S[k].PCORR[j]", 0xC01C0, [(0x100, 8), (0x4, 16)], 0x0,
   [fd "PHASE" 11 0 .rw]⟩,
  ⟨"LOS.CCS[n].STATUS", 0xC0900, [(0x10, 4)], 0x0,
   [fd "LOCK" 31 31 .ro]⟩,
  ⟨"LOS.CCS[n].FRAC_LO", 0xC0904, [(0x10, 4)], 0x0,
   [fd "FRAC" 31 0 .ro]⟩,
  ⟨"LOS.CCS[n].FRAC_HI", 0xC0908, [(0x10, 4)], 0x0,
   [fd "FRAC" 15 0 .ro]⟩,
  ⟨"LOS.CL_CTL", 0xC0A00, [], 0x0,
   [fd "START" 31 31 .w1p, fd "BUSY" 30 30 .ro, fd "DONE" 29 29 .ro, fd "GROUP" 2 0 .rw]⟩,
  ⟨"LOS.CL_AT", 0xC0A04, [], 0x0,
   [fd "TNS" 31 0 .rw]⟩,
  ⟨"LOS.CL_RES[p]", 0xC0A08, [(0x4, 2)], 0x0,
   [fd "VALID" 31 31 .ro, fd "LEVEL" 23 16 .ro, fd "PHASE" 11 0 .ro]⟩,
  ⟨"LOS.PT[n]", 0xC1000, [(0x4, 128)], 0x0,
   [fd "RX" 27 16 .rw, fd "TX" 11 0 .rw]⟩]

/-- The registers of LOS. -/
def regsLos : List RegDecl := regsLos0

def regsSln0 : List RegDecl := [
  ⟨"SLN.STICKY", 0xD0000, [], 0x0,
   [fd "BAD_WRITE" 17 17 .w1c, fd "PAT_ERR" 16 16 .w1c, fd "MARGIN" 15 8 .w1c, fd "LOL" 7 0 .w1c]⟩,
  ⟨"SLN.ALERT_EN", 0xD0004, [], 0x200FF,
   [fd "EN" 17 0 .rw]⟩,
  ⟨"SLN.FOM", 0xD0008, [], 0x6050,
   [fd "WARN" 15 8 .rw, fdr "MIN" 7 0 .rw [(1, 255)]]⟩,
  ⟨"SLN.CNT_BADW", 0xD000C, [], 0x0,
   [fd "COUNT" 31 0 .cz]⟩,
  ⟨"SLN.LANE[L].CTL", 0xD1000, [(0x40, 80)], 0x0,
   [fd "TEST" 31 31 .rw, fdr "LOOP" 30 29 .rw [(0, 2)], fd "GEN" 27 24 .rw, fd "CHK" 23 20 .rw, fd "INJ" 8 8 .w1p, fd "INJ_RATE" 7 4 .rw]⟩,
  ⟨"SLN.LANE[L].STATUS", 0xD1004, [(0x40, 80)], 0x0,
   [fd "SIGNAL" 31 31 .ro, fd "CDR_LOCK" 30 30 .ro, fd "SYNC" 29 29 .ro, fd "ACTIVE" 28 28 .ro, fd "PAT_LOCK" 27 27 .ro, fd "FOM" 23 16 .ro, fd "FOM_TRAIN" 7 0 .ro]⟩,
  ⟨"SLN.LANE[L].LSTICKY", 0xD1008, [(0x40, 80)], 0x0,
   [fd "TRAIN_LOW" 3 3 .w1c, fd "MARGIN" 2 2 .w1c, fd "PAT_ERR" 1 1 .w1c, fd "LOL" 0 0 .w1c]⟩,
  ⟨"SLN.LANE[L].TXEQ", 0xD100C, [(0x40, 80)], 0x0,
   [fd "MANUAL" 31 31 .rw, fd "POST" 20 16 .rw, fd "MAIN" 13 8 .rw, fd "PRE" 3 0 .rw]⟩,
  ⟨"SLN.LANE[L].ERR", 0xD1010, [(0x40, 80)], 0x0,
   [fd "COUNT" 31 0 .cz]⟩,
  ⟨"SLN.LANE[L].BITS_LO", 0xD1014, [(0x40, 80)], 0x0,
   [fd "COUNT" 31 0 .cz]⟩,
  ⟨"SLN.LANE[L].BITS_HI", 0xD1018, [(0x40, 80)], 0x0,
   [fd "COUNT" 31 0 .ro]⟩,
  ⟨"SLN.LANE[L].CODE_ERR", 0xD101C, [(0x40, 80)], 0x0,
   [fd "COUNT" 31 0 .cz]⟩,
  ⟨"SLN.LANE[L].LOL_CNT", 0xD1020, [(0x40, 80)], 0x0,
   [fd "COUNT" 31 0 .cz]⟩,
  ⟨"SLN.LANE[L].USER_LO", 0xD1024, [(0x40, 80)], 0x0,
   [fd "PATTERN" 31 0 .rw]⟩,
  ⟨"SLN.LANE[L].USER_HI", 0xD1028, [(0x40, 80)], 0x0,
   [fd "PATTERN" 7 0 .rw]⟩]

/-- The registers of SLN. -/
def regsSln : List RegDecl := regsSln0

def regsFhp0 : List RegDecl := [
  ⟨"FHP.STICKY", 0xE0000, [], 0x0,
   [fd "UL_OVERRUN" 13 13 .w1c, fd "SEQ_GAP" 12 12 .w1c, fd "FCS" 11 11 .w1c, fd "INCOMPLETE" 10 10 .w1c, fd "HQ_DROP" 9 9 .w1c, fd "REJECT" 8 8 .w1c, fd "LATE" 7 7 .w1c, fd "EARLY" 6 6 .w1c, fd "FAILOVER" 5 4 .w1c, fd "LINK_DOWN" 3 0 .w1c]⟩,
  ⟨"FHP.ALERT_EN", 0xE0004, [], 0x27BF,
   [fd "EN" 13 0 .rw]⟩,
  ⟨"FHP.CTL", 0xE0008, [], 0x5EE0001,
   [fdr "MAX_FRAME" 29 16 .rw [(1518, 9018)], fd "SSB" 0 0 .rw]⟩,
  ⟨"FHP.EAXC", 0xE000C, [], 0x0,
   [fd "DU_CHK" 31 31 .rw, fd "BS_CHK" 30 30 .rw, fd "DU_ID" 15 12 .rw, fd "BS_ID" 11 7 .rw]⟩,
  ⟨"FHP.COMP", 0xE0010, [], 0x80009191,
   [fd "HDR" 31 31 .rw, fd "DL_WIDTH" 15 12 .rw, fd "DL_BFP" 8 8 .rw, fd "UL_WIDTH" 7 4 .rw, fd "UL_BFP" 0 0 .rw]⟩,
  ⟨"FHP.PAIR", 0xE0014, [], 0x0,
   [fd "REVERT" 9 8 .rw, fd "ACT" 5 4 .ro, fd "MODE" 1 0 .rw]⟩,
  ⟨"FHP.ULPORT[c][w]", 0xE0020, [(0x8, 2), (0x4, 2)], 0x0,
   [fd "PORTS" 31 0 .rw]⟩,
  ⟨"FHP.WIN_DL[c]", 0xE0040, [(0x10, 2)], 0x1F40000,
   [fdr "OPEN" 31 16 .rw [(1, 1000)], fd "CLOSE" 15 0 .rw]⟩,
  ⟨"FHP.WIN_UC[c]", 0xE0044, [(0x10, 2)], 0x1F40000,
   [fdr "OPEN" 31 16 .rw [(1, 1000)], fd "CLOSE" 15 0 .rw]⟩,
  ⟨"FHP.WIN_EFF[c]", 0xE0048, [(0x10, 2)], 0x0,
   [fd "UC" 31 16 .ro, fd "DL" 15 0 .ro]⟩,
  ⟨"FHP.PORT[i].CTL", 0xE0100, [(0x100, 4)], 0x403F0000,
   [fd "EN" 31 31 .rw, fd "AN" 30 30 .rw, fdr "SPEED" 26 24 .rw [(0, 5)], fd "ABIL" 21 16 .rw, fd "HOST_ETYPE" 15 0 .rw]⟩,
  ⟨"FHP.PORT[i].STATUS", 0xE0104, [(0x100, 4)], 0x0,
   [fd "LINK" 31 31 .ro, fd "ACTIVE" 30 30 .ro, fd "SPEED" 26 24 .ro]⟩,
  ⟨"FHP.PORT[i].SA_LO", 0xE0108, [(0x100, 4)], 0x0,
   [fd "ADDR" 31 0 .rw]⟩,
  ⟨"FHP.PORT[i].SA_HI", 0xE010C, [(0x100, 4)], 0x0,
   [fd "ADDR" 15 0 .rw]⟩,
  ⟨"FHP.PORT[i].DA_LO", 0xE0110, [(0x100, 4)], 0x0,
   [fd "ADDR" 31 0 .rw]⟩,
  ⟨"FHP.PORT[i].DA_HI", 0xE0114, [(0x100, 4)], 0x0,
   [fd "ADDR" 15 0 .rw]⟩,
  ⟨"FHP.PORT[i].VLAN", 0xE0118, [(0x100, 4)], 0x0,
   [fd "EN" 31 31 .rw, fd "CHECK" 30 30 .rw, fd "PCP" 15 13 .rw, fd "VID" 11 0 .rw]⟩,
  ⟨"FHP.PORT[i].CNT[j]", 0xE0140, [(0x100, 4), (0x4, 13)], 0x0,
   [fd "COUNT" 31 0 .cz]⟩]

/-- The registers of FHP. -/
def regsFhp : List RegDecl := regsFhp0

def regsArg0 : List RegDecl := [
  ⟨"ARG.STICKY", 0xF0000, [], 0x0,
   [fd "TRAIN_FAIL" 14 14 .w1c, fd "TS_LOST" 13 13 .w1c, fd "MEMBER_ALERT" 12 12 .w1c, fd "TOO_MANY" 11 11 .w1c, fd "SEGMENTED" 10 10 .w1c, fd "ENTER_FAIL" 9 9 .w1c, fd "FAILOVER" 8 8 .w1c, fd "MISSING" 7 7 .w1c, fd "ROSTER_NEW" 6 6 .w1c, fd "INCOMPLETE" 5 5 .w1c, fd "SEQ_GAP" 4 4 .w1c, fd "CRC" 3 3 .w1c, fd "MOVED" 2 2 .w1c, fd "SHED" 1 1 .w1c, fd "LANE_DROP" 0 0 .w1c]⟩,
  ⟨"ARG.ALERT_EN", 0xF0004, [], 0x7FEB,
   [fd "EN" 14 0 .rw]⟩,
  ⟨"ARG.CTL", 0xF0008, [], 0x90000,
   [fd "PAIR" 31 31 .rwl, fd "AUTO_ACCEPT" 30 30 .rwl, fd "TS_RING" 29 29 .rw, fd "LOCK" 28 28 .rw, fdr "DL_W" 19 16 .rw [(0, 0), (7, 15)]]⟩,
  ⟨"ARG.TS_PERIOD", 0xF000C, [], 0x3E8,
   [fdr "US" 15 0 .rw [(100, 10000)]]⟩,
  ⟨"ARG.SHED_ORDER[0]", 0xF0010, [], 0x1C1D1E1F,
   [fd "LAYER_3" 28 24 .rw, fd "LAYER_2" 20 16 .rw, fd "LAYER_1" 12 8 .rw, fd "LAYER_0" 4 0 .rw]⟩,
  ⟨"ARG.SHED_ORDER[1]", 0xF0014, [], 0x18191A1B,
   [fd "LAYER_3" 28 24 .rw, fd "LAYER_2" 20 16 .rw, fd "LAYER_1" 12 8 .rw, fd "LAYER_0" 4 0 .rw]⟩,
  ⟨"ARG.SHED_ORDER[2]", 0xF0018, [], 0x14151617,
   [fd "LAYER_3" 28 24 .rw, fd "LAYER_2" 20 16 .rw, fd "LAYER_1" 12 8 .rw, fd "LAYER_0" 4 0 .rw]⟩,
  ⟨"ARG.SHED_ORDER[3]", 0xF001C, [], 0x10111213,
   [fd "LAYER_3" 28 24 .rw, fd "LAYER_2" 20 16 .rw, fd "LAYER_1" 12 8 .rw, fd "LAYER_0" 4 0 .rw]⟩,
  ⟨"ARG.SHED_ORDER[4]", 0xF0020, [], 0xC0D0E0F,
   [fd "LAYER_3" 28 24 .rw, fd "LAYER_2" 20 16 .rw, fd "LAYER_1" 12 8 .rw, fd "LAYER_0" 4 0 .rw]⟩,
  ⟨"ARG.SHED_ORDER[5]", 0xF0024, [], 0x8090A0B,
   [fd "LAYER_3" 28 24 .rw, fd "LAYER_2" 20 16 .rw, fd "LAYER_1" 12 8 .rw, fd "LAYER_0" 4 0 .rw]⟩,
  ⟨"ARG.SHED_ORDER[6]", 0xF0028, [], 0x4050607,
   [fd "LAYER_3" 28 24 .rw, fd "LAYER_2" 20 16 .rw, fd "LAYER_1" 12 8 .rw, fd "LAYER_0" 4 0 .rw]⟩,
  ⟨"ARG.SHED_ORDER[7]", 0xF002C, [], 0x10203,
   [fd "LAYER_3" 28 24 .rw, fd "LAYER_2" 20 16 .rw, fd "LAYER_1" 12 8 .rw, fd "LAYER_0" 4 0 .rw]⟩,
  ⟨"ARG.LAYERS_DL[c]", 0xF0040, [(0x4, 2)], 0x0,
   [fd "MASK" 31 0 .rw]⟩,
  ⟨"ARG.LAYERS_UL[c]", 0xF0048, [(0x4, 2)], 0x0,
   [fd "MASK" 31 0 .rw]⟩,
  ⟨"ARG.SHED[d]", 0xF0050, [(0x4, 2)], 0x0,
   [fd "LAYERS" 31 0 .ro]⟩,
  ⟨"ARG.MOVED[d]", 0xF0058, [(0x4, 2)], 0x0,
   [fd "LAYERS" 31 0 .ro]⟩,
  ⟨"ARG.RING[r].CTL", 0xF0100, [(0x80, 2)], 0x14,
   [fd "ENTER" 31 31 .w1p, fd "LEAVE" 30 30 .w1p, fd "REDISCOVER" 29 29 .w1p, fdr "ROLE" 17 16 .rwl [(0, 2)], fdr "ENTER_TMO" 15 0 .rw [(1, 1000)]]⟩,
  ⟨"ARG.RING[r].STATUS", 0xF0104, [(0x80, 2)], 0x0,
   [fd "HOLD" 31 31 .ro, fd "STATE" 30 28 .ro, fd "N" 26 16 .ro, fd "ARC" 10 10 .ro, fd "POSITION" 9 0 .ro]⟩,
  ⟨"ARG.RING[r].CNT[j]", 0xF0140, [(0x80, 2), (0x4, 8)], 0x0,
   [fd "COUNT" 31 0 .cz]⟩,
  ⟨"ARG.PORT[p].CTL", 0xF0400, [(0x40, 4)], 0xF0003,
   [fd "RETRAIN" 31 31 .w1p, fdr "RATES" 19 16 .rw [(1, 15)], fd "FALLBACK" 8 8 .rw, fd "WIDTH" 1 0 .rw]⟩,
  ⟨"ARG.PORT[p].STATUS", 0xF0404, [(0x40, 4)], 0x0,
   [fd "STATE" 31 28 .ro, fd "RATE" 27 26 .ro, fd "WIDTH" 25 24 .ro, fd "PARTNER_VALID" 10 10 .ro, fd "PARTNER" 9 0 .ro]⟩,
  ⟨"ARG.PORT[p].LANES", 0xF0408, [(0x40, 4)], 0x0,
   [fd "ACTIVE" 15 0 .ro]⟩,
  ⟨"ARG.RST_ADDR", 0xF0800, [], 0x0,
   [fd "ADDR" 14 0 .rw]⟩,
  ⟨"ARG.RST_DATA", 0xF0804, [], 0x0,
   [fd "DATA" 31 0 .ro]⟩]

def regsArg1 : List RegDecl := [
  ⟨"ARG.ACCEPT", 0xF0808, [], 0x0,
   [fd "ACCEPT" 31 31 .wo, fd "POSITION" 9 0 .wo]⟩]

/-- The registers of ARG. -/
def regsArg : List RegDecl := regsArg0 ++ regsArg1

def regsTlp0 : List RegDecl := [
  ⟨"TLP.CTL", 0x100000, [], 0x0,
   [fd "LOCK" 31 31 .rw, fd "HALT" 15 0 .w1p]⟩,
  ⟨"TLP.STICKY", 0x100004, [], 0x0,
   [fd "DEBUG" 22 22 .w1c, fd "TRACE_LOST" 21 21 .w1c, fd "TIME_STEPPED" 20 20 .w1c, fd "CR_DROP" 19 19 .w1c, fd "TAQ_STALL" 18 18 .w1c, fd "LATE" 17 17 .w1c, fd "STALE" 16 16 .w1c, fd "THREAD_FAULT" 15 0 .w1c]⟩,
  ⟨"TLP.ALERT_EN", 0x100008, [], 0x19FFFF,
   [fd "EN" 22 0 .rw]⟩,
  ⟨"TLP.LATE_LIMIT", 0x10000C, [], 0x7D0,
   [fd "NS" 15 0 .rwl]⟩,
  ⟨"TLP.TAQ_LEVEL", 0x100010, [], 0x0,
   [fd "HIGH" 25 16 .cz, fd "LEVEL" 9 0 .ro]⟩,
  ⟨"TLP.TAQ_CANCEL", 0x100014, [], 0x0,
   [fd "MODE" 24 24 .wo, fd "THREAD" 19 16 .wo, fd "TAG" 8 0 .wo]⟩,
  ⟨"TLP.CR_BASE", 0x100018, [], 0x0,
   [fd "ADDR" 20 4 .rw]⟩,
  ⟨"TLP.CR_SIZE", 0x10001C, [], 0x8,
   [fdr "LOG2" 3 0 .rw [(4, 12)]]⟩,
  ⟨"TLP.CR_HEAD", 0x100020, [], 0x0,
   [fd "INDEX" 15 0 .ro]⟩,
  ⟨"TLP.CR_TAIL", 0x100024, [], 0x0,
   [fd "INDEX" 15 0 .rw]⟩,
  ⟨"TLP.CR_THRESH", 0x100028, [], 0x1,
   [fd "COUNT" 12 0 .rw]⟩,
  ⟨"TLP.CNT_LATE", 0x100030, [], 0x0,
   [fd "COUNT" 31 0 .cz]⟩,
  ⟨"TLP.CNT_STALE", 0x100034, [], 0x0,
   [fd "COUNT" 31 0 .cz]⟩,
  ⟨"TLP.CNT_REFUSED", 0x100038, [], 0x0,
   [fd "COUNT" 31 0 .cz]⟩,
  ⟨"TLP.CNT_CR_DROP", 0x10003C, [], 0x0,
   [fd "COUNT" 31 0 .cz]⟩,
  ⟨"TLP.CNT_TAQ_STALL", 0x100040, [], 0x0,
   [fd "COUNT" 31 0 .cz]⟩,
  ⟨"TLP.CNT_STEPPED", 0x100044, [], 0x0,
   [fd "COUNT" 31 0 .cz]⟩,
  ⟨"TLP.IM_VERIFIED", 0x100048, [], 0x0,
   [fd "REGION" 15 0 .ro]⟩,
  ⟨"TLP.EV_SET", 0x10004C, [], 0x0,
   [fd "NUM" 7 0 .wo]⟩,
  ⟨"TLP.WDT_KICK", 0x100050, [], 0x0,
   [fd "KICK" 15 0 .w1p]⟩,
  ⟨"TLP.BAD_WRITE", 0x100054, [], 0x0,
   [fd "COUNT" 15 0 .cz]⟩,
  ⟨"TLP.EV[j]", 0x100080, [(0x4, 8)], 0x0,
   [fd "LATCH" 31 0 .w1c]⟩,
  ⟨"TLP.BP_ADDR[k]", 0x100100, [(0x8, 8)], 0x0,
   [fd "EN" 31 31 .rw, fd "PC" 16 0 .rw]⟩,
  ⟨"TLP.BP_MASK[k]", 0x100104, [(0x8, 8)], 0x0,
   [fd "THREADS" 15 0 .rw]⟩]

def regsTlp1 : List RegDecl := [
  ⟨"TLP.TRACE", 0x100180, [], 0x0,
   [fd "EN" 31 31 .rw, fd "TAQ" 16 16 .rw, fd "THREADS" 15 0 .rw]⟩,
  ⟨"TLP.TAG_LAST[t]", 0x100800, [(0x4, 512)], 0x0,
   [fd "PENDING" 31 31 .ro, fd "THREAD" 19 16 .ro, fd "CODE" 7 0 .ro]⟩,
  ⟨"TLP.DSP_STICKY", 0x101000, [], 0x0,
   [fd "OVF" 7 0 .w1c]⟩,
  ⟨"TLP.DSP_ALERT_EN", 0x101004, [], 0xFF,
   [fd "EN" 7 0 .rw]⟩,
  ⟨"TLP.DU[u].STATUS", 0x101040, [(0x4, 8)], 0x0,
   [fd "BUSY" 31 31 .ro, fd "THREAD" 19 16 .ro, fd "WAITING" 15 0 .ro]⟩,
  ⟨"TLP.DU[u].BLOCKS", 0x101060, [(0x4, 8)], 0x0,
   [fd "COUNT" 31 0 .cz]⟩,
  ⟨"TLP.TH[i].CTL", 0x102000, [(0x200, 16)], 0x0,
   [fd "TAQ_QUOTA" 24 16 .rwl, fd "DU" 10 8 .rw, fd "PRIO" 5 4 .rw, fd "FLUSH_ON_FAULT" 3 3 .rw, fd "RESET" 2 2 .w1p, fd "STEP" 1 1 .w1p, fd "RUN" 0 0 .rw]⟩,
  ⟨"TLP.TH[i].PC", 0x102004, [(0x200, 16)], 0x0,
   [fd "PC" 16 0 .rw]⟩,
  ⟨"TLP.TH[i].STATE", 0x102008, [(0x200, 16)], 0x0,
   [fd "STATE" 3 0 .ro]⟩,
  ⟨"TLP.TH[i].STAT", 0x10200C, [(0x200, 16)], 0x0,
   [fd "FENCE_ERR" 11 11 .rw, fd "VOTE_FAIL" 10 10 .rw, fd "LATE_WAIT" 9 9 .rw, fd "CIRC_FOLD" 8 8 .rw, fd "AOV" 7 4 .rw, fd "V, C, N, Z" 3 0 .rw]⟩,
  ⟨"TLP.TH[i].FAULT", 0x102010, [(0x200, 16)], 0x0,
   [fd "CAUSE" 31 28 .ro, fd "PC" 16 0 .ro]⟩,
  ⟨"TLP.TH[i].WDT", 0x102014, [(0x200, 16)], 0x0,
   [fd "EN" 31 31 .rwl, fdr "ACTION" 29 28 .rwl [(0, 1)], fd "TIMEOUT" 23 0 .rwl]⟩,
  ⟨"TLP.TH[i].WAKE_PC", 0x102018, [(0x200, 16)], 0x0,
   [fd "EN" 31 31 .rw, fd "PC" 16 0 .rw]⟩,
  ⟨"TLP.TH[i].G[n]", 0x102040, [(0x200, 16), (0x4, 16)], 0x0,
   [fd "VALUE" 31 0 .rw]⟩,
  ⟨"TLP.TH[i].A[n]", 0x102080, [(0x200, 16), (0x4, 8)], 0x0,
   [fd "VALUE" 23 0 .rw]⟩,
  ⟨"TLP.TH[i].M[n]", 0x1020A0, [(0x200, 16), (0x4, 8)], 0x0,
   [fd "VALUE" 23 0 .rw]⟩,
  ⟨"TLP.TH[i].B[n]", 0x1020C0, [(0x200, 16), (0x4, 8)], 0x0,
   [fd "VALUE" 23 0 .rw]⟩,
  ⟨"TLP.TH[i].L[n]", 0x1020E0, [(0x200, 16), (0x4, 8)], 0x0,
   [fd "VALUE" 23 0 .rw]⟩,
  ⟨"TLP.TH[i].X[n]", 0x102100, [(0x200, 16), (0x4, 16)], 0x0,
   [fd "VALUE" 23 0 .rw]⟩,
  ⟨"TLP.TH[i].ACC_LO[n]", 0x102140, [(0x200, 16), (0x10, 4)], 0x0,
   [fd "VALUE" 31 0 .rw]⟩,
  ⟨"TLP.TH[i].ACC_HI[n]", 0x102144, [(0x200, 16), (0x10, 4)], 0x0,
   [fd "VALUE" 31 0 .rw]⟩,
  ⟨"TLP.TH[i].ACC_EXP[n]", 0x102148, [(0x200, 16), (0x10, 4)], 0x0,
   [fd "VALUE" 5 0 .rw]⟩,
  ⟨"TLP.TH[i].RS[n]", 0x102180, [(0x200, 16), (0x4, 16)], 0x0,
   [fd "VALUE" 16 0 .rw]⟩,
  ⟨"TLP.TH[i].RS_DEPTH", 0x1021C0, [(0x200, 16)], 0x0,
   [fd "DEPTH" 4 0 .rw]⟩]

def regsTlp2 : List RegDecl := [
  ⟨"TLP.AIR_NEXT_TNS", 0x104000, [], 0x0,
   [fd "TNS" 31 0 .rw]⟩,
  ⟨"TLP.AIR_NEXT_AFC", 0x104004, [], 0x0,
   [fd "AFC" 31 0 .rw]⟩,
  ⟨"TLP.AIR_CTL", 0x104008, [], 0x0,
   [fd "ALIGNED" 1 1 .ro, fd "ALIGN" 0 0 .w1p]⟩,
  ⟨"TLP.AIR_AFC", 0x10400C, [], 0x0,
   [fd "VALUE" 31 0 .ro]⟩,
  ⟨"TLP.AIR_FRAME_TNS", 0x104010, [], 0x0,
   [fd "VALUE" 31 0 .ro]⟩,
  ⟨"TLP.AIR_CFG[c]", 0x104020, [(0x4, 2)], 0x1,
   [fd "EN" 31 31 .rw, fd "MU" 25 24 .rw, fd "GROUPS" 23 16 .rw, fd "PERIOD" 6 0 .rw]⟩,
  ⟨"TLP.AIR_SBFD[c]", 0x104028, [(0x4, 2)], 0x0,
   [fd "UL_END" 24 16 .rw, fd "UL_START" 8 0 .rw]⟩,
  ⟨"TLP.AIR_POS[c]", 0x104030, [(0x4, 2)], 0x0,
   [fd "SFN" 31 22 .ro, fd "SUBFRAME" 21 18 .ro, fd "SLOT" 17 11 .ro, fd "SYMBOL" 3 0 .ro]⟩,
  ⟨"TLP.AIR_STICKY", 0x104040, [], 0x0,
   [fd "ALIGN_REFUSED" 26 26 .w1c, fd "PATTERN" 25 24 .w1c, fd "UNLOCK_MUTE" 23 16 .w1c, fd "DUTY" 15 8 .w1c, fd "PA_ALARM" 7 0 .w1c]⟩,
  ⟨"TLP.AIR_ALERT_EN", 0x104044, [], 0x7FFFFFF,
   [fd "EN" 26 0 .rw]⟩,
  ⟨"TLP.AIR_MISMATCH[c]", 0x104048, [(0x4, 2)], 0x0,
   [fd "COUNT" 31 0 .cz]⟩,
  ⟨"TLP.AIR_SAFETY", 0x104050, [], 0x140005,
   [fdr "DRAIN_DELAY" 23 16 .rwl [(10, 255)], fdr "PA_FILTER" 7 0 .rwl [(1, 255)]]⟩,
  ⟨"TLP.DUTY[k]", 0x104080, [(0x4, 8)], 0x0,
   [fd "MUTED" 31 31 .ro, fd "LIMIT" 25 16 .ro, fd "USED" 15 0 .ro]⟩,
  ⟨"TLP.AIR_PATTERN[c][j]", 0x104400, [(0x200, 2), (0x4, 80)], 0x0,
   [fd "TYPES" 27 0 .rw]⟩,
  ⟨"TLP.PS[n]", 0x104800, [(0x4, 128)], 0x0,
   [fd "CAUSE" 31 28 .ro, fd "DEFER" 22 22 .ro, fd "DUTY_MUTE" 21 21 .ro, fd "LOCK_MUTE" 20 20 .ro, fd "WAITING" 16 16 .ro, fd "WAIT_TARGET" 15 12 .ro, fd "TARGET" 11 8 .ro, fd "STATE" 3 0 .ro]⟩]

/-- The registers of TLP. -/
def regsTlp : List RegDecl := regsTlp0 ++ regsTlp1 ++ regsTlp2

def regsHst0 : List RegDecl := [
  ⟨"HST.STICKY", 0x110000, [], 0x0,
   [fd "LINK_DOWN" 3 3 .w1c, fd "POISON_SENT" 2 2 .w1c, fd "AER_FATAL" 1 1 .w1c, fd "BAD_ACCESS" 0 0 .w1c]⟩,
  ⟨"HST.ALERT_EN", 0x110004, [], 0xF,
   [fd "EN" 3 0 .rw]⟩,
  ⟨"HST.BAD_ACCESS", 0x110008, [], 0x0,
   [fd "COUNT" 15 0 .ro]⟩,
  ⟨"HST.BAD_OFFSET", 0x11000C, [], 0x0,
   [fd "OFFSET" 25 0 .ro]⟩,
  ⟨"HST.LINK", 0x110010, [], 0x0,
   [fd "WIDTH" 7 4 .ro, fd "SPEED" 3 0 .ro]⟩,
  ⟨"HST.MSIX_ADDR_LO[v]", 0x118000, [(0x10, 64)], 0x0,
   [fd "ADDR" 31 2 .rw]⟩,
  ⟨"HST.MSIX_ADDR_HI[v]", 0x118004, [(0x10, 64)], 0x0,
   [fd "ADDR" 31 0 .rw]⟩,
  ⟨"HST.MSIX_DATA[v]", 0x118008, [(0x10, 64)], 0x0,
   [fd "DATA" 31 0 .rw]⟩,
  ⟨"HST.MSIX_CTL[v]", 0x11800C, [(0x10, 64)], 0x1,
   [fd "MASK" 0 0 .rw]⟩,
  ⟨"HST.MSIX_PBA[w]", 0x11C000, [(0x4, 2)], 0x0,
   [fd "PENDING" 31 0 .ro]⟩]

/-- The registers of HST. -/
def regsHst : List RegDecl := regsHst0

def regsTxd0 : List RegDecl := [
  ⟨"TXD[n].CTL", 0x200000, [(0x1000, 128)], 0x30,
   [fd "FORCE_MUTE" 8 8 .rw, fd "DPD_EN" 5 5 .rw, fd "CFR_EN" 4 4 .rw]⟩,
  ⟨"TXD[n].STATUS", 0x200004, [(0x1000, 128)], 0x40000000,
   [fd "MUTE" 31 27 .ro, fd "REG_FREQ" 26 25 .ro, fd "ANALOG" 21 16 .ro, fd "ATT_EFF" 11 0 .ro]⟩,
  ⟨"TXD[n].STICKY", 0x200008, [(0x1000, 128)], 0x0,
   [fd "DELAY_JUMP" 4 4 .w1c, fd "REG_FREQ" 3 3 .w1c, fd "REG_CAP" 2 2 .w1c, fd "GAIN_CLAMP" 1 1 .w1c, fd "CLIP" 0 0 .w1c]⟩,
  ⟨"TXD[n].ALERT_EN", 0x20000C, [(0x1000, 128)], 0x1E,
   [fd "EN" 4 0 .rw]⟩,
  ⟨"TXD[n].ATT_CMD", 0x200010, [(0x1000, 128)], 0x0,
   [fdr "ATTEN" 15 0 .rw [(0, 4000)]]⟩,
  ⟨"TXD[n].CAR_SCALE", 0x200014, [(0x1000, 128)], 0x7FFF7FFF,
   [fd "CS1" 31 16 .rw, fd "CS0" 15 0 .rw]⟩,
  ⟨"TXD[n].DELAY", 0x200018, [(0x1000, 128)], 0x0,
   [fd "INT" 21 16 .rw, fd "FRAC" 15 0 .rw]⟩,
  ⟨"TXD[n].SCOMP", 0x20001C, [(0x1000, 128)], 0x0,
   [fd "SLOPE" 7 0 .rw]⟩,
  ⟨"TXD[n].PFS", 0x200020, [(0x1000, 128)], 0x12C0258,
   [fd "HB" 31 16 .rw, fd "LB" 15 0 .rw]⟩,
  ⟨"TXD[n].REG", 0x200024, [(0x1000, 128)], 0x0,
   [fd "PMAX" 31 16 .ro, fd "A_REG" 15 0 .ro]⟩,
  ⟨"TXD[n].BACKOFF", 0x200028, [(0x1000, 128)], 0x0,
   [fd "B" 15 0 .ro]⟩,
  ⟨"TXD[n].IQCORR[p]", 0x200030, [(0x1000, 128), (0x4, 2)], 0x4000,
   [fd "PHASE" 31 16 .rw, fd "GAIN" 15 0 .rw]⟩,
  ⟨"TXD[n].DCOFF[p]", 0x200038, [(0x1000, 128), (0x4, 2)], 0x0,
   [fd "DC_Q" 31 16 .rw, fd "DC_I" 15 0 .rw]⟩,
  ⟨"TXD[n].CLIP0", 0x200040, [(0x1000, 128)], 0x0,
   [fd "I3 (CLIP0), DAC (CLIP1)" 31 16 .cw, fd "SUM (CLIP0), DPD (CLIP1)" 15 0 .cw]⟩,
  ⟨"TXD[n].CLIP1", 0x200044, [(0x1000, 128)], 0x0,
   [fd "I3 (CLIP0), DAC (CLIP1)" 31 16 .cw, fd "SUM (CLIP0), DPD (CLIP1)" 15 0 .cw]⟩,
  ⟨"TXD[n].TCOMP[p][b]", 0x200100, [(0x1000, 128), (0x20, 2), (0x4, 8)], 0x0,
   [fdr "OFFSET" 15 0 .rw [(0, 500), (65036, 65535)]]⟩,
  ⟨"TXD.LOCK_WAIT", 0x200FFC, [], 0x4E20,
   [fd "NS" 15 0 .rw]⟩]

/-- The registers of TXD. -/
def regsTxd : List RegDecl := regsTxd0

def regsTxa0 : List RegDecl := [
  ⟨"TXA[n].STATUS", 0x280000, [(0x1000, 128)], 0x0,
   [fd "ANALOG" 21 16 .ro, fd "PORT" 8 8 .ro, fd "DRV_ON" 4 4 .ro]⟩,
  ⟨"TXA[n].STICKY", 0x280004, [(0x1000, 128)], 0x0,
   [fd "OC" 1 1 .w1c, fd "NO_SPARE" 0 0 .w1c]⟩,
  ⟨"TXA[n].ALERT_EN", 0x280008, [(0x1000, 128)], 0x3,
   [fd "EN" 1 0 .rw]⟩,
  ⟨"TXA[n].CELL_I[0]", 0x280010, [(0x1000, 128)], 0xFFFFFFFF,
   [fd "CELLS" 31 0 .ro]⟩,
  ⟨"TXA[n].CELL_I[1]", 0x280014, [(0x1000, 128)], 0x7FFFFFFF,
   [fd "CELLS" 31 0 .ro]⟩,
  ⟨"TXA[n].CELL_I[2]", 0x280018, [(0x1000, 128)], 0x0,
   [fd "CELLS" 6 0 .ro]⟩,
  ⟨"TXA[n].CELL_Q[0]", 0x280020, [(0x1000, 128)], 0xFFFFFFFF,
   [fd "CELLS" 31 0 .ro]⟩,
  ⟨"TXA[n].CELL_Q[1]", 0x280024, [(0x1000, 128)], 0x7FFFFFFF,
   [fd "CELLS" 31 0 .ro]⟩,
  ⟨"TXA[n].CELL_Q[2]", 0x280028, [(0x1000, 128)], 0x0,
   [fd "CELLS" 6 0 .ro]⟩,
  ⟨"TXA[n].SPARES", 0x280030, [(0x1000, 128)], 0x0,
   [fd "Q" 19 16 .ro, fd "I" 3 0 .ro]⟩]

/-- The registers of TXA. -/
def regsTxa : List RegDecl := regsTxa0

def regsRxd0 : List RegDecl := [
  ⟨"RXD[n].CTL", 0x300000, [(0x1000, 128)], 0x8C1,
   [fdr "DC_MODE" 11 10 .rw [(0, 2)], fdr "DC_MU" 8 4 .rw [(8, 20)], fd "IRR_EN" 0 0 .rw]⟩,
  ⟨"RXD[n].STATUS", 0x300004, [(0x1000, 128)], 0x0,
   [fd "SIC_ALIGN" 30 30 .ro, fd "IF" 29 28 .ro, fd "ANALOG" 20 16 .ro, fd "ATT_DIG" 13 0 .ro]⟩,
  ⟨"RXD[n].STICKY", 0x300008, [(0x1000, 128)], 0x0,
   [fd "AGC_LIMIT" 4 4 .w1c, fd "ADC_CLIP" 3 3 .w1c, fd "DELAY_JUMP" 2 2 .w1c, fd "GAIN_CLAMP" 1 1 .w1c, fd "CLIP" 0 0 .w1c]⟩,
  ⟨"RXD[n].ALERT_EN", 0x30000C, [(0x1000, 128)], 0x6,
   [fd "EN" 4 0 .rw]⟩,
  ⟨"RXD[n].ATT_CMD", 0x300010, [(0x1000, 128)], 0x0,
   [fdr "ATTEN" 15 0 .rw [(0, 4000)]]⟩,
  ⟨"RXD[n].DELAY", 0x300014, [(0x1000, 128)], 0x0,
   [fdr "INT" 20 16 .rw [(0, 20)], fd "FRAC" 15 0 .rw]⟩,
  ⟨"RXD[n].LNA_COMP", 0x300018, [(0x1000, 128)], 0x0,
   [fdr "GAIN" 15 0 .rw [(0, 3000)]]⟩,
  ⟨"RXD[n].GCAL", 0x30001C, [(0x1000, 128)], 0x0,
   [fdr "HB" 31 16 .rw [(0, 500), (65036, 65535)], fdr "LB" 15 0 .rw [(0, 500), (65036, 65535)]]⟩,
  ⟨"RXD[n].AGC", 0x300020, [(0x1000, 128)], 0x1E0038,
   [fdr "MODE" 31 30 .rw [(0, 2)], fdr "MAN_STEP" 28 24 .rw [(0, 30)], fdr "MAX_STEP" 20 16 .rw [(0, 30)], fdr "MIN_STEP" 12 8 .rw [(0, 30)], fdr "ATTACK" 6 4 .rw [(1, 7)], fdr "DECAY_SYMS" 3 0 .rw [(1, 15)]]⟩,
  ⟨"RXD[n].AGC_THR", 0x300024, [(0x1000, 128)], 0x16A00407,
   [fd "HIGH" 29 16 .rw, fd "LOW" 13 0 .rw]⟩,
  ⟨"RXD[n].AGC_CNT", 0x300028, [(0x1000, 128)], 0x10,
   [fdr "ATTACK_CNT" 15 0 .rw [(1, 65535)]]⟩,
  ⟨"RXD[n].IRR[p][i]", 0x300040, [(0x1000, 128), (0x20, 2), (0x4, 8)], 0x0,
   [fd "Q" 31 16 .rw, fd "I" 15 0 .rw]⟩,
  ⟨"RXD[n].DC_INIT[p]", 0x300080, [(0x1000, 128), (0x4, 2)], 0x0,
   [fd "Q" 31 16 .rw, fd "I" 15 0 .rw]⟩,
  ⟨"RXD[n].DC_EST", 0x300088, [(0x1000, 128)], 0x0,
   [fd "Q" 31 16 .ro, fd "I" 15 0 .ro]⟩,
  ⟨"RXD[n].CLIP0", 0x300090, [(0x1000, 128)], 0x0,
   [fd "FRONT (CLIP0), DEC (CLIP1)" 31 16 .cw, fd "ADC (CLIP0), SIC (CLIP1)" 15 0 .cw]⟩,
  ⟨"RXD[n].CLIP1", 0x300094, [(0x1000, 128)], 0x0,
   [fd "FRONT (CLIP0), DEC (CLIP1)" 31 16 .cw, fd "ADC (CLIP0), SIC (CLIP1)" 15 0 .cw]⟩,
  ⟨"RXD[n].AGC_CHG", 0x300098, [(0x1000, 128)], 0x0,
   [fd "COUNT" 31 0 .cz]⟩,
  ⟨"RXD[n].TCOMP[p][b]", 0x300100, [(0x1000, 128), (0x20, 2), (0x4, 8)], 0x0,
   [fdr "OFFSET" 15 0 .rw [(0, 500), (65036, 65535)]]⟩,
  ⟨"RXD.CP_ADV", 0x300FF8, [], 0x0,
   [fd "ADV1" 24 16 .rw, fd "ADV0" 8 0 .rw]⟩]

/-- The registers of RXD. -/
def regsRxd : List RegDecl := regsRxd0

def regsRxa0 : List RegDecl := [
  ⟨"RXA[n].STATUS", 0x380000, [(0x1000, 128)], 0x0,
   [fd "ANALOG" 20 16 .ro, fd "PORT" 8 8 .ro, fd "IN_ON" 4 4 .ro]⟩,
  ⟨"RXA[n].STICKY", 0x380004, [(0x1000, 128)], 0x0,
   [fd "IN_OVL" 1 1 .w1c, fd "NO_SPARE" 0 0 .w1c]⟩,
  ⟨"RXA[n].ALERT_EN", 0x380008, [(0x1000, 128)], 0x1,
   [fd "EN" 1 0 .rw]⟩,
  ⟨"RXA[n].COMP_I[0]", 0x380010, [(0x1000, 128)], 0x7FFFFFFF,
   [fd "COMPS" 31 0 .ro]⟩,
  ⟨"RXA[n].COMP_I[1]", 0x380014, [(0x1000, 128)], 0x0,
   [fd "COMPS" 3 0 .ro]⟩,
  ⟨"RXA[n].COMP_Q[0]", 0x380018, [(0x1000, 128)], 0x7FFFFFFF,
   [fd "COMPS" 31 0 .ro]⟩,
  ⟨"RXA[n].COMP_Q[1]", 0x38001C, [(0x1000, 128)], 0x0,
   [fd "COMPS" 3 0 .ro]⟩,
  ⟨"RXA[n].SPARES", 0x380030, [(0x1000, 128)], 0x0,
   [fd "Q" 18 16 .ro, fd "I" 2 0 .ro]⟩,
  ⟨"RXA.LNA_BYP", 0x380FFC, [], 0x0,
   [fd "BYP" 15 0 .rw]⟩]

/-- The registers of RXA. -/
def regsRxa : List RegDecl := regsRxa0

def regsBme0 : List RegDecl := [
  ⟨"BME.STICKY", 0x400000, [], 0x0,
   [fd "PS_SAT" 8 8 .w1c, fd "ABSENT" 7 7 .w1c, fd "PS_LATE" 6 6 .w1c, fd "SEC_REJ" 5 5 .w1c, fd "CLIP_UL" 4 4 .w1c, fd "CLIP_DL" 3 3 .w1c, fd "LATE_SEL" 2 2 .w1c, fd "WV_RANGE" 1 1 .w1c, fd "CFG" 0 0 .w1c]⟩,
  ⟨"BME.ALERT_EN", 0x400004, [], 0x17F,
   [fd "EN" 8 0 .rw]⟩,
  ⟨"BME.CAR[c]", 0x400010, [(0x10, 2)], 0x2C011100,
   [fd "VALID" 31 31 .ro, fdr "PG" 30 28 .rw [(0, 4)], fdr "FFT_LOG2" 27 24 .rw [(8, 12)], fd "N_RB" 16 8 .rw]⟩,
  ⟨"BME.CAR_OFF[c]", 0x400014, [(0x10, 2)], 0x0,
   [fd "OFFSET" 15 0 .rw]⟩,
  ⟨"BME.CAR_SHIFT[c]", 0x400018, [(0x10, 2)], 0x7FFF0606,
   [fd "FDL_SCALE" 31 16 .rw, fd "UL_SHIFT" 11 8 .rw, fd "DL_SHIFT" 3 0 .rw]⟩,
  ⟨"BME.SBFD[c]", 0x40001C, [(0x10, 2)], 0x0,
   [fd "GUARD_HI" 15 8 .rw, fd "GUARD_LO" 7 0 .rw]⟩,
  ⟨"BME.BANK", 0x400040, [], 0x100,
   [fd "IN_USE" 9 8 .ro, fd "ACTIVE" 3 0 .ro]⟩,
  ⟨"BME.ARRAY", 0x400044, [], 0x1,
   [fd "INDEX" 25 16 .rw, fdr "SIZE" 10 0 .rw [(1, 1024)]]⟩,
  ⟨"BME.RING_DEPTH", 0x400048, [], 0x0,
   [fd "WEST" 25 16 .ro, fd "EAST" 9 0 .ro]⟩,
  ⟨"BME.PS_MARGIN", 0x40004C, [], 0x1F4,
   [fd "NS" 15 0 .rw]⟩,
  ⟨"BME.UL_OUT", 0x400050, [], 0x0,
   [fdr "SHIFT" 4 0 .rw [(0, 24)]]⟩,
  ⟨"BME.FFT_EXP[c]", 0x400060, [(0x4, 2)], 0x0,
   [fd "UL" 12 8 .ro, fd "DL" 4 0 .ro]⟩,
  ⟨"BME.CNT[r]", 0x400080, [(0x4, 16)], 0x0,
   [fd "COUNT" 31 0 .cz]⟩,
  ⟨"BME.WDESC[d][c][l]", 0x400400, [(0x100, 2), (0x80, 2), (0x4, 32)], 0x0,
   [fd "MODE" 31 31 .rw, fdr "BASE" 28 16 .rw [(0, 6143)], fd "INDEX" 11 0 .rw]⟩]

/-- The registers of BME. -/
def regsBme : List RegDecl := regsBme0

def regsSic0 : List RegDecl := [
  ⟨"SIC.STICKY", 0x500000, [], 0x0,
   [fd "SNAP_FAIL" 4 4 .w1c, fd "BAD_WRITE" 3 3 .w1c, fd "REF_FAR" 2 2 .w1c, fd "EST_CLAMP" 1 1 .w1c, fd "LOW_QUAL" 0 0 .w1c]⟩,
  ⟨"SIC.ALERT_EN", 0x500004, [], 0x1B,
   [fd "EN" 4 0 .rw]⟩,
  ⟨"SIC.CTL", 0x500008, [], 0xBB80001,
   [fd "QUAL_THR" 31 16 .rw, fd "EN" 0 0 .rw]⟩,
  ⟨"SIC.CNT_CLAMP", 0x500010, [], 0x0,
   [fd "COUNT" 31 0 .cz]⟩,
  ⟨"SIC.CNT_BADW", 0x500014, [], 0x0,
   [fd "COUNT" 31 0 .cz]⟩,
  ⟨"SIC.COMMIT[p][w]", 0x500100, [(0x10, 2), (0x4, 4)], 0x0,
   [fd "PATH" 31 0 .w1p]⟩,
  ⟨"SIC.SURVEY", 0x500200, [], 0x0,
   [fd "START" 31 31 .w1p, fd "ABORT" 30 30 .w1p, fd "BUSY" 29 29 .ro, fd "DONE" 28 28 .ro, fd "CAR" 24 24 .rw, fdr "LAG0" 21 16 .rw [(0, 48)], fd "RX" 6 0 .rw]⟩,
  ⟨"SIC.SURVEY_TOP", 0x500204, [], 0x0,
   [fd "RANK_3" 31 24 .ro, fd "RANK_2" 23 16 .ro, fd "RANK_1" 15 8 .ro, fd "RANK_0" 7 0 .ro]⟩,
  ⟨"SIC.SURVEY_LAG", 0x500208, [], 0x0,
   [fd "RANK_3" 31 24 .ro, fd "RANK_2" 23 16 .ro, fd "RANK_1" 15 8 .ro, fd "RANK_0" 7 0 .ro]⟩,
  ⟨"SIC.SNAP", 0x500210, [], 0x100,
   [fd "START" 31 31 .w1p, fd "ABORT" 30 30 .w1p, fd "BUSY" 29 29 .ro, fd "DONE" 28 28 .ro, fd "CLIPPED" 27 27 .ro, fd "FAIL" 26 24 .ro, fd "CAR" 20 20 .rw, fdr "LOG2" 19 16 .rw [(9, 13)], fd "NA" 14 10 .ro, fd "PORT" 8 8 .rw, fd "RX" 6 0 .rw]⟩,
  ⟨"SIC.SNAP_ADDR", 0x500214, [], 0x0,
   [fd "ADDR" 24 0 .rw]⟩,
  ⟨"SIC.SNAP_TNS", 0x500218, [], 0x0,
   [fd "TNS" 31 0 .ro]⟩,
  ⟨"SIC.STAT[r]", 0x500800, [(0x4, 128)], 0x0,
   [fd "FRESH" 31 31 .ro, fd "LOW" 30 30 .ro, fd "FAR" 11 8 .ro, fd "PEND" 5 4 .ro, fd "PAGE" 1 0 .ro]⟩,
  ⟨"SIC.QUAL[r]", 0x500A00, [(0x4, 128)], 0x0,
   [fd "RESID" 31 16 .ro, fd "DEPTH" 15 0 .ro]⟩,
  ⟨"SIC.SURVEY_E[t]", 0x500C00, [(0x4, 128)], 0xFFFF8000,
   [fd "LEVEL" 31 0 .ro]⟩]

/-- The registers of SIC. -/
def regsSic : List RegDecl := regsSic0

def regsLin0 : List RegDecl := [
  ⟨"LIN.STICKY", 0x600000, [], 0x0,
   [fd "NO_SET" 6 6 .w1c, fd "BAD_ACCESS" 5 5 .w1c, fd "OBS_FAIL" 4 4 .w1c, fd "LOAD_ECC" 3 3 .w1c, fd "LOAD_LATE" 2 2 .w1c, fd "STALE" 1 1 .w1c, fd "DIVERGED" 0 0 .w1c]⟩,
  ⟨"LIN.ALERT_EN", 0x600004, [], 0x3D,
   [fd "EN" 6 0 .rw]⟩,
  ⟨"LIN.CTL", 0x600008, [], 0x640401,
   [fd "DRIFT" 27 16 .rw, fd "CLIP_LIMIT" 15 4 .rw, fd "DEF_EN" 0 0 .rw]⟩,
  ⟨"LIN.CNT_BADW", 0x60000C, [], 0x0,
   [fd "COUNT" 31 0 .cz]⟩,
  ⟨"LIN.BRANCH[b]", 0x600010, [(0x4, 8)], 0x0,
   [fd "SHIFT" 18 16 .rw, fd "L" 11 8 .rw, fd "M" 3 0 .rw]⟩,
  ⟨"LIN.ST[w].ADDR", 0x600040, [(0x10, 2)], 0x0,
   [fd "ADDR" 20 0 .rw]⟩,
  ⟨"LIN.ST[w].DATA", 0x600044, [(0x10, 2)], 0x0,
   [fd "DATA" 31 0 .rw]⟩,
  ⟨"LIN.COMMIT[w]", 0x600080, [(0x4, 4)], 0x0,
   [fd "PATH" 31 0 .w1p]⟩,
  ⟨"LIN.CFR[k].CTL", 0x600100, [(0x4, 8)], 0x80000202,
   [fdr "THR" 31 16 .rw [(1, 65535)], fdr "MIN_SEP" 11 8 .rw [(1, 15)], fd "STAGES" 1 0 .rw]⟩,
  ⟨"LIN.OBS[k].CTL", 0x600200, [(0x20, 8)], 0x700,
   [fd "START" 31 31 .w1p, fd "ABORT" 30 30 .w1p, fd "BUSY" 29 29 .ro, fd "DONE" 28 28 .ro, fd "CLIPPED" 27 27 .ro, fd "FAIL" 26 24 .ro, fd "MUTED" 23 23 .ro, fdr "TRIG" 22 21 .rw [(0, 2)], fd "CAR" 20 20 .rw, fdr "LOG2" 19 16 .rw [(9, 14)], fdr "STREAMS" 10 8 .rw [(1, 7)], fd "INPUT" 3 0 .rw]⟩,
  ⟨"LIN.OBS[k].ADDR", 0x600204, [(0x20, 8)], 0x0,
   [fd "ADDR" 24 0 .rw]⟩,
  ⟨"LIN.OBS[k].AT", 0x600208, [(0x20, 8)], 0x0,
   [fd "TNS" 31 0 .rw]⟩,
  ⟨"LIN.OBS[k].TNS", 0x60020C, [(0x20, 8)], 0x0,
   [fd "TNS" 31 0 .ro]⟩,
  ⟨"LIN.ORIN[k][m]", 0x600400, [(0x40, 8), (0x4, 16)], 0x0,
   [fd "DELAY" 25 16 .rw, fd "ATT" 3 0 .rw]⟩,
  ⟨"LIN.PATH[n].STAT", 0x600800, [(0x4, 128)], 0x0,
   [fd "SLOT_CLIPS" 31 16 .ro, fd "PENDING" 10 10 .ro, fd "REVERTED" 9 9 .ro, fd "STALE" 8 8 .ro, fd "PORT" 7 7 .ro, fd "BAND" 6 4 .ro, fd "SRC" 1 0 .ro]⟩,
  ⟨"LIN.PATH[n].CFR_CNT", 0x600A00, [(0x4, 128)], 0x0,
   [fd "HARD" 31 16 .cw, fd "PEAKS" 15 0 .cw]⟩,
  ⟨"LIN.CFR_PULSE[k][s][t]", 0x620000, [(0x400, 8), (0x200, 2), (0x4, 128)], 0x0,
   [fd "Q" 31 16 .rw, fd "I" 15 0 .rw]⟩]

/-- The registers of LIN. -/
def regsLin : List RegDecl := regsLin0

/-- The declarations of the block that holds BAR0 offset `off` (R27). -/
def declsAt (off : Nat) : List RegDecl :=
  if off < 0x120000 then
    match off / 0x10000 with
    | 0 => regsGlb | 1 => regsPwr | 2 => regsClk | 3 => regsThm | 4 => regsSec | 5 => regsMgt | 6 => regsTmu
    | 7 => regsCvu | 8 => regsDma | 9 => regsCap | 10 => regsBda | 11 => regsCal | 12 => regsLos | 13 => regsSln
    | 14 => regsFhp | 15 => regsArg | 16 => regsTlp | _ => regsHst
  else if off < 0x200000 then []
  else if off < 0x280000 then regsTxd
  else if off < 0x300000 then regsTxa
  else if off < 0x380000 then regsRxd
  else if off < 0x400000 then regsRxa
  else if off < 0x500000 then regsBme
  else if off < 0x600000 then regsSic
  else if off < 0x700000 then regsLin
  else []

/-- Whether a remainder is an element of an array with these strides and counts. -/
def matchDims : Nat → List (Nat × Nat) → Bool
  | r, [] => r == 0
  | r, (st, ct) :: ds => (r / st < ct) && matchDims (r % st) ds

def RegDecl.holds (d : RegDecl) (off : Nat) : Bool := (d.base ≤ off) && matchDims (off - d.base) d.dims

/-- The register at a (canonical) offset, if the manual gives one. -/
def declOf (off : Nat) : Option RegDecl := (declsAt off).find? (fun d => d.holds off)

/-- The value a register holds after reset; 0 at an offset without a register. -/
def resetOf (off : Nat) : Word :=
  match declOf off with
  | some d => BitVec.ofNat 32 d.reset
  | none => 0

/-- `TXD.LOCK_WAIT`, `RXA.LNA_BYP` and `RXD.CP_ADV` are one register each, reached in every instance (R168, R207):
all their offsets stand for the one in instance 0. -/
def canonOff (off : Nat) : Nat :=
  if 0x200000 ≤ off ∧ off < 0x280000 ∧ off % 0x1000 = 0xFFC then 0x200FFC
  else if 0x380000 ≤ off ∧ off < 0x400000 ∧ off % 0x1000 = 0xFFC then 0x380FFC
  else if 0x300000 ≤ off ∧ off < 0x380000 ∧ off % 0x1000 = 0xFF8 then 0x300FF8
  else off

/-! Offsets by name, one function per register or register array of the map. -/
namespace Reg

/-- `GLB.ID` -/
def glbId : Nat := 0x0
/-- `GLB.STICKY` -/
def glbSticky : Nat := 0x4
/-- `GLB.ALERT_EN` -/
def glbAlertEn : Nat := 0x8
/-- `GLB.ALERT_SUM` -/
def glbAlertSum : Nat := 0xC
/-- `GLB.DOWN_WRITES` -/
def glbDownWrites : Nat := 0x10
/-- `GLB.RESET_CTL` -/
def glbResetCtl : Nat := 0x14
/-- `GLB.RESET_CAUSE` -/
def glbResetCause : Nat := 0x18
/-- `GLB.SCRUB_CTL` -/
def glbScrubCtl : Nat := 0x800
/-- `GLB.ECC_CE[m]` -/
def glbEccCe (i : Nat) : Nat := 0x840 + 0x4 * i
/-- `GLB.ECC_UE[m]` -/
def glbEccUe (i : Nat) : Nat := 0x880 + 0x4 * i
/-- `GLB.ECC_LAST` -/
def glbEccLast : Nat := 0x8C0
/-- `PWR.STICKY` -/
def pwrSticky : Nat := 0x10000
/-- `PWR.ALERT_EN` -/
def pwrAlertEn : Nat := 0x10004
/-- `PWR.STATE` -/
def pwrState : Nat := 0x10008
/-- `PWR.SUPERSEDED` -/
def pwrSuperseded : Nat := 0x1000C
/-- `PWR.WAKE_FAIL` -/
def pwrWakeFail : Nat := 0x10010
/-- `PWR.RET_MASK` -/
def pwrRetMask : Nat := 0x10014
/-- `PWR.WAKE_SET` -/
def pwrWakeSet : Nat := 0x10018
/-- `PWR.DVFS` -/
def pwrDvfs : Nat := 0x1001C
/-- `PWR.DVFS_MAN` -/
def pwrDvfsMan : Nat := 0x10020
/-- `PWR.CNT_BADW` -/
def pwrCntBadw : Nat := 0x10024
/-- `PWR.DOM[d].VOTE` -/
def pwrDomVote (i : Nat) : Nat := 0x10110 + 0x10 * i
/-- `PWR.DOM[d].STATUS` -/
def pwrDomStatus (i : Nat) : Nat := 0x10114 + 0x10 * i
/-- `PWR.DOM[d].HOLD` -/
def pwrDomHold (i : Nat) : Nat := 0x10118 + 0x10 * i
/-- `PWR.DVFS_VOTE[c]` -/
def pwrDvfsVote (i : Nat) : Nat := 0x10200 + 0x4 * i
/-- `PWR.RF2_MON[t]` -/
def pwrRf2Mon (i : Nat) : Nat := 0x10300 + 0x4 * i
/-- `CLK.STICKY` -/
def clkSticky : Nat := 0x20000
/-- `CLK.ALERT_EN` -/
def clkAlertEn : Nat := 0x20004
/-- `CLK.REF_CTL` -/
def clkRefCtl : Nat := 0x20008
/-- `CLK.REF_STATUS` -/
def clkRefStatus : Nat := 0x2000C
/-- `CLK.PLL_STATUS` -/
def clkPllStatus : Nat := 0x20010
/-- `CLK.COB_FREQ` -/
def clkCobFreq : Nat := 0x20014
/-- `CLK.XING` -/
def clkXing : Nat := 0x20018
/-- `CLK.REF_LOSSES` -/
def clkRefLosses : Nat := 0x2001C
/-- `CLK.LEVEL_LAST` -/
def clkLevelLast : Nat := 0x20020
/-- `THM.STICKY` -/
def thmSticky : Nat := 0x30000
/-- `THM.ALERT_EN` -/
def thmAlertEn : Nat := 0x30004
/-- `THM.CTL` -/
def thmCtl : Nat := 0x30008
/-- `THM.THR_WARN` -/
def thmThrWarn : Nat := 0x3000C
/-- `THM.THR_THROT` -/
def thmThrThrot : Nat := 0x30010
/-- `THM.THR_SHUT` -/
def thmThrShut : Nat := 0x30014
/-- `THM.THROT` -/
def thmThrot : Nat := 0x30018
/-- `THM.STATUS` -/
def thmStatus : Nat := 0x3001C
/-- `THM.REGION[j]` -/
def thmRegion (i : Nat) : Nat := 0x30040 + 0x4 * i
/-- `THM.TILE[t]` -/
def thmTile (i : Nat) : Nat := 0x30080 + 0x4 * i
/-- `THM.EXCL[w]` -/
def thmExcl (i : Nat) : Nat := 0x300A0 + 0x4 * i
/-- `THM.FORCE_EXCL[w]` -/
def thmForceExcl (i : Nat) : Nat := 0x300A8 + 0x4 * i
/-- `THM.TS[i]` -/
def thmTs (i : Nat) : Nat := 0x30100 + 0x4 * i
/-- `SEC.STICKY` -/
def secSticky : Nat := 0x40000
/-- `SEC.ALERT_EN` -/
def secAlertEn : Nat := 0x40004
/-- `SEC.CTL` -/
def secCtl : Nat := 0x40008
/-- `SEC.STATUS` -/
def secStatus : Nat := 0x4000C
/-- `SEC.RB_ADDR` -/
def secRbAddr : Nat := 0x40010
/-- `SEC.RB_LEN` -/
def secRbLen : Nat := 0x40014
/-- `SEC.CNT_BADW` -/
def secCntBadw : Nat := 0x40018
/-- `SEC.FP[j]` -/
def secFp (i : Nat) : Nat := 0x40020 + 0x4 * i
/-- `SEC.ID_PK[j]` -/
def secIdPk (i : Nat) : Nat := 0x40040 + 0x4 * i
/-- `SEC.ATT_NONCE[j]` -/
def secAttNonce (i : Nat) : Nat := 0x40080 + 0x4 * i
/-- `SEC.CERT_ADDR` -/
def secCertAddr : Nat := 0x400A0
/-- `SEC.CERT_DATA` -/
def secCertData : Nat := 0x400A4
/-- `SEC.OTP_ADDR` -/
def secOtpAddr : Nat := 0x400B0
/-- `SEC.OTP_DATA` -/
def secOtpData : Nat := 0x400B4
/-- `SEC.OTP_CTL` -/
def secOtpCtl : Nat := 0x400B8
/-- `SEC.LOCKS` -/
def secLocks : Nat := 0x400BC
/-- `MGT.STICKY` -/
def mgtSticky : Nat := 0x50000
/-- `MGT.ALERT_EN` -/
def mgtAlertEn : Nat := 0x50004
/-- `MGT.NVM_ADDR` -/
def mgtNvmAddr : Nat := 0x50100
/-- `MGT.NVM_DATA` -/
def mgtNvmData : Nat := 0x50104
/-- `MGT.NVM_STATUS` -/
def mgtNvmStatus : Nat := 0x50108
/-- `MGT.CNT_BADW` -/
def mgtCntBadw : Nat := 0x5010C
/-- `MGT.QSPI_CMD` -/
def mgtQspiCmd : Nat := 0x50140
/-- `MGT.QSPI_ADDR` -/
def mgtQspiAddr : Nat := 0x50144
/-- `MGT.QSPI_STATUS` -/
def mgtQspiStatus : Nat := 0x50148
/-- `MGT.QSPI_BUF[w]` -/
def mgtQspiBuf (i : Nat) : Nat := 0x50200 + 0x4 * i
/-- `TMU.STICKY` -/
def tmuSticky : Nat := 0x60000
/-- `TMU.ALERT_EN` -/
def tmuAlertEn : Nat := 0x60004
/-- `TMU.CTL` -/
def tmuCtl : Nat := 0x60008
/-- `TMU.STATUS` -/
def tmuStatus : Nat := 0x6000C
/-- `TMU.TIME` -/
def tmuTime : Nat := 0x60010
/-- `TMU.TIME_HI` -/
def tmuTimeHi : Nat := 0x60014
/-- `TMU.STEP_ARM` -/
def tmuStepArm : Nat := 0x60018
/-- `TMU.STEP_FORCE` -/
def tmuStepForce : Nat := 0x6001C
/-- `TMU.STEP_NS` -/
def tmuStepNs : Nat := 0x60020
/-- `TMU.STEP_FR` -/
def tmuStepFr : Nat := 0x60024
/-- `TMU.OFFSET_LIMIT` -/
def tmuOffsetLimit : Nat := 0x60028
/-- `TMU.OFFSET` -/
def tmuOffset : Nat := 0x6002C
/-- `TMU.PATH_DELAY` -/
def tmuPathDelay : Nat := 0x60030
/-- `TMU.RATE_REQ_LO` -/
def tmuRateReqLo : Nat := 0x60034
/-- `TMU.RATE_REQ_HI` -/
def tmuRateReqHi : Nat := 0x60038
/-- `TMU.RATE_LO` -/
def tmuRateLo : Nat := 0x6003C
/-- `TMU.RATE_HI` -/
def tmuRateHi : Nat := 0x60040
/-- `TMU.CCS_FIXED_LO` -/
def tmuCcsFixedLo : Nat := 0x60044
/-- `TMU.CCS_FIXED_HI` -/
def tmuCcsFixedHi : Nat := 0x60048
/-- `TMU.HOST_TMO` -/
def tmuHostTmo : Nat := 0x6004C
/-- `TMU.SLIP` -/
def tmuSlip : Nat := 0x60050
/-- `TMU.SLIPS` -/
def tmuSlips : Nat := 0x60054
/-- `TMU.PPS_EXP` -/
def tmuPpsExp : Nat := 0x60058
/-- `TMU.PPS_TNS` -/
def tmuPpsTns : Nat := 0x6005C
/-- `TMU.PPS_TFR` -/
def tmuPpsTfr : Nat := 0x60060
/-- `TMU.ASYM_RX[q]` -/
def tmuAsymRx (i : Nat) : Nat := 0x60100 + 0x8 * i
/-- `TMU.ASYM_TX[q]` -/
def tmuAsymTx (i : Nat) : Nat := 0x60104 + 0x8 * i
/-- `TMU.PULSE[k].CTL` -/
def tmuPulseCtl (i : Nat) : Nat := 0x60200 + 0x10 * i
/-- `TMU.PULSE[k].START` -/
def tmuPulseStart (i : Nat) : Nat := 0x60204 + 0x10 * i
/-- `TMU.PULSE[k].PERIOD` -/
def tmuPulsePeriod (i : Nat) : Nat := 0x60208 + 0x10 * i
/-- `TMU.PULSE[k].SHAPE` -/
def tmuPulseShape (i : Nat) : Nat := 0x6020C + 0x10 * i
/-- `CVU.STICKY` -/
def cvuSticky : Nat := 0x70000
/-- `CVU.ALERT_EN` -/
def cvuAlertEn : Nat := 0x70004
/-- `CVU.CNT_BADW` -/
def cvuCntBadw : Nat := 0x70008
/-- `CVU.CV[c].CTL` -/
def cvuCvCtl (i : Nat) : Nat := 0x70100 + 0x80 * i
/-- `CVU.CV[c].CFG` -/
def cvuCvCfg (i : Nat) : Nat := 0x70104 + 0x80 * i
/-- `CVU.CV[c].POLY_LO` -/
def cvuCvPolyLo (i : Nat) : Nat := 0x70108 + 0x80 * i
/-- `CVU.CV[c].POLY_HI` -/
def cvuCvPolyHi (i : Nat) : Nat := 0x7010C + 0x80 * i
/-- `CVU.CV[c].INIT_LO` -/
def cvuCvInitLo (i : Nat) : Nat := 0x70110 + 0x80 * i
/-- `CVU.CV[c].INIT_HI` -/
def cvuCvInitHi (i : Nat) : Nat := 0x70114 + 0x80 * i
/-- `CVU.CV[c].XOROUT_LO` -/
def cvuCvXoroutLo (i : Nat) : Nat := 0x70118 + 0x80 * i
/-- `CVU.CV[c].XOROUT_HI` -/
def cvuCvXoroutHi (i : Nat) : Nat := 0x7011C + 0x80 * i
/-- `CVU.CV[c].FOLD_LO` -/
def cvuCvFoldLo (i : Nat) : Nat := 0x70120 + 0x80 * i
/-- `CVU.CV[c].FOLD_HI` -/
def cvuCvFoldHi (i : Nat) : Nat := 0x70124 + 0x80 * i
/-- `CVU.CV[c].VALUE_LO` -/
def cvuCvValueLo (i : Nat) : Nat := 0x70128 + 0x80 * i
/-- `CVU.CV[c].VALUE_HI` -/
def cvuCvValueHi (i : Nat) : Nat := 0x7012C + 0x80 * i
/-- `CVU.CV[c].RESULT_LO` -/
def cvuCvResultLo (i : Nat) : Nat := 0x70130 + 0x80 * i
/-- `CVU.CV[c].RESULT_HI` -/
def cvuCvResultHi (i : Nat) : Nat := 0x70134 + 0x80 * i
/-- `CVU.CV[c].COUNT` -/
def cvuCvCount (i : Nat) : Nat := 0x70138 + 0x80 * i
/-- `CVU.CV[c].FEED8` -/
def cvuCvFeed8 (i : Nat) : Nat := 0x70140 + 0x80 * i
/-- `CVU.CV[c].FEED16` -/
def cvuCvFeed16 (i : Nat) : Nat := 0x70144 + 0x80 * i
/-- `CVU.CV[c].FEED32` -/
def cvuCvFeed32 (i : Nat) : Nat := 0x70148 + 0x80 * i
/-- `CVU.CV[c].FEED64_LO` -/
def cvuCvFeed64Lo (i : Nat) : Nat := 0x7014C + 0x80 * i
/-- `CVU.CV[c].FEED64_HI` -/
def cvuCvFeed64Hi (i : Nat) : Nat := 0x70150 + 0x80 * i
/-- `DMA.STICKY` -/
def dmaSticky : Nat := 0x80000
/-- `DMA.ALERT_EN` -/
def dmaAlertEn : Nat := 0x80004
/-- `DMA.CTL` -/
def dmaCtl : Nat := 0x80008
/-- `DMA.STATUS` -/
def dmaStatus : Nat := 0x8000C
/-- `DMA.CNT_BADW` -/
def dmaCntBadw : Nat := 0x80010
/-- `DMA.CH[c].CTL` -/
def dmaChCtl (i : Nat) : Nat := 0x80100 + 0x40 * i
/-- `DMA.CH[c].CFG` -/
def dmaChCfg (i : Nat) : Nat := 0x80104 + 0x40 * i
/-- `DMA.CH[c].DESC_LO` -/
def dmaChDescLo (i : Nat) : Nat := 0x80108 + 0x40 * i
/-- `DMA.CH[c].DESC_HI` -/
def dmaChDescHi (i : Nat) : Nat := 0x8010C + 0x40 * i
/-- `DMA.CH[c].CUR_LO` -/
def dmaChCurLo (i : Nat) : Nat := 0x80110 + 0x40 * i
/-- `DMA.CH[c].CUR_HI` -/
def dmaChCurHi (i : Nat) : Nat := 0x80114 + 0x40 * i
/-- `DMA.CH[c].APPEND` -/
def dmaChAppend (i : Nat) : Nat := 0x80118 + 0x40 * i
/-- `DMA.CH[c].STATUS` -/
def dmaChStatus (i : Nat) : Nat := 0x8011C + 0x40 * i
/-- `DMA.CH[c].DONE` -/
def dmaChDone (i : Nat) : Nat := 0x80120 + 0x40 * i
/-- `DMA.CH[c].APPEND_CNT` -/
def dmaChAppendCnt (i : Nat) : Nat := 0x80124 + 0x40 * i
/-- `DMA.CH[c].APPEND_SEEN` -/
def dmaChAppendSeen (i : Nat) : Nat := 0x80128 + 0x40 * i
/-- `DMA.CH[c].PACE_OVR` -/
def dmaChPaceOvr (i : Nat) : Nat := 0x8012C + 0x40 * i
/-- `CAP.STICKY` -/
def capSticky : Nat := 0x90000
/-- `CAP.ALERT_EN` -/
def capAlertEn : Nat := 0x90004
/-- `CAP.CTL` -/
def capCtl : Nat := 0x90008
/-- `CAP.STATUS` -/
def capStatus : Nat := 0x9000C
/-- `CAP.PART` -/
def capPart : Nat := 0x90010
/-- `CAP.PRE` -/
def capPre : Nat := 0x90014
/-- `CAP.POST` -/
def capPost : Nat := 0x90018
/-- `CAP.AUTO_TMO` -/
def capAutoTmo : Nat := 0x9001C
/-- `CAP.MISSED_TRIG` -/
def capMissedTrig : Nat := 0x90020
/-- `CAP.LOST` -/
def capLost : Nat := 0x90024
/-- `CAP.CNT_BADW` -/
def capCntBadw : Nat := 0x90028
/-- `CAP.SRC_EN` -/
def capSrcEn : Nat := 0x90040
/-- `CAP.TAP[t].CFG` -/
def capTapCfg (i : Nat) : Nat := 0x90080 + 0x8 * i
/-- `CAP.TAP[t].DEADBAND` -/
def capTapDeadband (i : Nat) : Nat := 0x90084 + 0x8 * i
/-- `CAP.ST[s].COND` -/
def capStCond (i : Nat) : Nat := 0x90100 + 0x10 * i
/-- `CAP.ST[s].ARG` -/
def capStArg (i : Nat) : Nat := 0x90104 + 0x10 * i
/-- `CAP.ST[s].COUNT` -/
def capStCount (i : Nat) : Nat := 0x90108 + 0x10 * i
/-- `CAP.ST[s].TIMER` -/
def capStTimer (i : Nat) : Nat := 0x9010C + 0x10 * i
/-- `CAP.PROBE[k]` -/
def capProbe (i : Nat) : Nat := 0x90200 + 0x4 * i
/-- `BDA.STICKY` -/
def bdaSticky : Nat := 0xA0000
/-- `BDA.ALERT_EN` -/
def bdaAlertEn : Nat := 0xA0004
/-- `BDA.CTL` -/
def bdaCtl : Nat := 0xA0008
/-- `BDA.STATUS` -/
def bdaStatus : Nat := 0xA000C
/-- `BDA.CNT_BADW` -/
def bdaCntBadw : Nat := 0xA0010
/-- `BDA.SG[g].CTL` -/
def bdaSgCtl (i : Nat) : Nat := 0xA0100 + 0x10 * i
/-- `BDA.SG[g].FTW` -/
def bdaSgFtw (i : Nat) : Nat := 0xA0104 + 0x10 * i
/-- `BDA.SG[g].AMP_OFF` -/
def bdaSgAmpOff (i : Nat) : Nat := 0xA0108 + 0x10 * i
/-- `BDA.SG[g].PHASE` -/
def bdaSgPhase (i : Nat) : Nat := 0xA010C + 0x10 * i
/-- `BDA.OUT[i].CFG` -/
def bdaOutCfg (i : Nat) : Nat := 0xA1000 + 0x10 * i
/-- `BDA.OUT[i].CODE` -/
def bdaOutCode (i : Nat) : Nat := 0xA1004 + 0x10 * i
/-- `BDA.OUT[i].PUP` -/
def bdaOutPup (i : Nat) : Nat := 0xA1008 + 0x10 * i
/-- `BDA.OUT[i].APPLIED` -/
def bdaOutApplied (i : Nat) : Nat := 0xA100C + 0x10 * i
/-- `BDA.OP[i][p][b]` -/
def bdaOp (i : Nat) (j : Nat) (l : Nat) : Nat := 0xA2000 + 0x40 * i + 0x20 * j + 0x4 * l
/-- `BDA.SAFE[i][s]` -/
def bdaSafe (i : Nat) (j : Nat) : Nat := 0xA6000 + 0x20 * i + 0x4 * j
/-- `BDA.SG_TAB[g][w]` -/
def bdaSgTab (i : Nat) (j : Nat) : Nat := 0xA8000 + 0x2000 * i + 0x4 * j
/-- `CAL.STICKY` -/
def calSticky : Nat := 0xB0000
/-- `CAL.ALERT_EN` -/
def calAlertEn : Nat := 0xB0004
/-- `CAL.CTL` -/
def calCtl : Nat := 0xB0008
/-- `CAL.QUIET_LIMIT` -/
def calQuietLimit : Nat := 0xB000C
/-- `CAL.RETRY` -/
def calRetry : Nat := 0xB0010
/-- `CAL.WIN` -/
def calWin : Nat := 0xB0014
/-- `CAL.REQ` -/
def calReq : Nat := 0xB0018
/-- `CAL.BG` -/
def calBg : Nat := 0xB001C
/-- `CAL.CAP_BASE` -/
def calCapBase : Nat := 0xB0020
/-- `CAL.JCTL` -/
def calJctl : Nat := 0xB0024
/-- `CAL.GRP[k]` -/
def calGrp (i : Nat) : Nat := 0xB0040 + 0x4 * i
/-- `CAL.JSRC[t]` -/
def calJsrc (i : Nat) : Nat := 0xB0100 + 0x4 * i
/-- `CAL.JSEQ[t][c]` -/
def calJseq (i : Nat) (j : Nat) : Nat := 0xB0180 + 0x20 * i + 0x4 * j
/-- `CAL.PATH[n]` -/
def calPath (i : Nat) : Nat := 0xB0400 + 0x4 * i
/-- `CAL.ELEM[n]` -/
def calElem (i : Nat) : Nat := 0xB0600 + 0x4 * i
/-- `CAL.ELEM_TNS[n]` -/
def calElemTns (i : Nat) : Nat := 0xB0800 + 0x4 * i
/-- `CAL.BGQ[n]` -/
def calBgq (i : Nat) : Nat := 0xB0A00 + 0x4 * i
/-- `LOS.STICKY` -/
def losSticky : Nat := 0xC0000
/-- `LOS.ALERT_EN` -/
def losAlertEn : Nat := 0xC0004
/-- `LOS.CNT_BADW` -/
def losCntBadw : Nat := 0xC0008
/-- `LOS.S[k].CTL` -/
def losSCtl (i : Nat) : Nat := 0xC0100 + 0x100 * i
/-- `LOS.S[k].HOP` -/
def losSHop (i : Nat) : Nat := 0xC0104 + 0x100 * i
/-- `LOS.S[k].STATUS` -/
def losSStatus (i : Nat) : Nat := 0xC0108 + 0x100 * i
/-- `LOS.S[k].FREQ` -/
def losSFreq (i : Nat) : Nat := 0xC010C + 0x100 * i
/-- `LOS.S[k].HOPS` -/
def losSHops (i : Nat) : Nat := 0xC0110 + 0x100 * i
/-- `LOS.S[k].PRESET[j].CFG` -/
def losSPresetCfg (i : Nat) (j : Nat) : Nat := 0xC0140 + 0x100 * i + 0x8 * j
/-- `LOS.S[k].PRESET[j].FRAC` -/
def losSPresetFrac (i : Nat) (j : Nat) : Nat := 0xC0144 + 0x100 * i + 0x8 * j
/-- `LOS.S[k].PCORR[j]` -/
def losSPcorr (i : Nat) (j : Nat) : Nat := 0xC01C0 + 0x100 * i + 0x4 * j
/-- `LOS.CCS[n].STATUS` -/
def losCcsStatus (i : Nat) : Nat := 0xC0900 + 0x10 * i
/-- `LOS.CCS[n].FRAC_LO` -/
def losCcsFracLo (i : Nat) : Nat := 0xC0904 + 0x10 * i
/-- `LOS.CCS[n].FRAC_HI` -/
def losCcsFracHi (i : Nat) : Nat := 0xC0908 + 0x10 * i
/-- `LOS.CL_CTL` -/
def losClCtl : Nat := 0xC0A00
/-- `LOS.CL_AT` -/
def losClAt : Nat := 0xC0A04
/-- `LOS.CL_RES[p]` -/
def losClRes (i : Nat) : Nat := 0xC0A08 + 0x4 * i
/-- `LOS.PT[n]` -/
def losPt (i : Nat) : Nat := 0xC1000 + 0x4 * i
/-- `SLN.STICKY` -/
def slnSticky : Nat := 0xD0000
/-- `SLN.ALERT_EN` -/
def slnAlertEn : Nat := 0xD0004
/-- `SLN.FOM` -/
def slnFom : Nat := 0xD0008
/-- `SLN.CNT_BADW` -/
def slnCntBadw : Nat := 0xD000C
/-- `SLN.LANE[L].CTL` -/
def slnLaneCtl (i : Nat) : Nat := 0xD1000 + 0x40 * i
/-- `SLN.LANE[L].STATUS` -/
def slnLaneStatus (i : Nat) : Nat := 0xD1004 + 0x40 * i
/-- `SLN.LANE[L].LSTICKY` -/
def slnLaneLsticky (i : Nat) : Nat := 0xD1008 + 0x40 * i
/-- `SLN.LANE[L].TXEQ` -/
def slnLaneTxeq (i : Nat) : Nat := 0xD100C + 0x40 * i
/-- `SLN.LANE[L].ERR` -/
def slnLaneErr (i : Nat) : Nat := 0xD1010 + 0x40 * i
/-- `SLN.LANE[L].BITS_LO` -/
def slnLaneBitsLo (i : Nat) : Nat := 0xD1014 + 0x40 * i
/-- `SLN.LANE[L].BITS_HI` -/
def slnLaneBitsHi (i : Nat) : Nat := 0xD1018 + 0x40 * i
/-- `SLN.LANE[L].CODE_ERR` -/
def slnLaneCodeErr (i : Nat) : Nat := 0xD101C + 0x40 * i
/-- `SLN.LANE[L].LOL_CNT` -/
def slnLaneLolCnt (i : Nat) : Nat := 0xD1020 + 0x40 * i
/-- `SLN.LANE[L].USER_LO` -/
def slnLaneUserLo (i : Nat) : Nat := 0xD1024 + 0x40 * i
/-- `SLN.LANE[L].USER_HI` -/
def slnLaneUserHi (i : Nat) : Nat := 0xD1028 + 0x40 * i
/-- `FHP.STICKY` -/
def fhpSticky : Nat := 0xE0000
/-- `FHP.ALERT_EN` -/
def fhpAlertEn : Nat := 0xE0004
/-- `FHP.CTL` -/
def fhpCtl : Nat := 0xE0008
/-- `FHP.EAXC` -/
def fhpEaxc : Nat := 0xE000C
/-- `FHP.COMP` -/
def fhpComp : Nat := 0xE0010
/-- `FHP.PAIR` -/
def fhpPair : Nat := 0xE0014
/-- `FHP.ULPORT[c][w]` -/
def fhpUlport (i : Nat) (j : Nat) : Nat := 0xE0020 + 0x8 * i + 0x4 * j
/-- `FHP.WIN_DL[c]` -/
def fhpWinDl (i : Nat) : Nat := 0xE0040 + 0x10 * i
/-- `FHP.WIN_UC[c]` -/
def fhpWinUc (i : Nat) : Nat := 0xE0044 + 0x10 * i
/-- `FHP.WIN_EFF[c]` -/
def fhpWinEff (i : Nat) : Nat := 0xE0048 + 0x10 * i
/-- `FHP.PORT[i].CTL` -/
def fhpPortCtl (i : Nat) : Nat := 0xE0100 + 0x100 * i
/-- `FHP.PORT[i].STATUS` -/
def fhpPortStatus (i : Nat) : Nat := 0xE0104 + 0x100 * i
/-- `FHP.PORT[i].SA_LO` -/
def fhpPortSaLo (i : Nat) : Nat := 0xE0108 + 0x100 * i
/-- `FHP.PORT[i].SA_HI` -/
def fhpPortSaHi (i : Nat) : Nat := 0xE010C + 0x100 * i
/-- `FHP.PORT[i].DA_LO` -/
def fhpPortDaLo (i : Nat) : Nat := 0xE0110 + 0x100 * i
/-- `FHP.PORT[i].DA_HI` -/
def fhpPortDaHi (i : Nat) : Nat := 0xE0114 + 0x100 * i
/-- `FHP.PORT[i].VLAN` -/
def fhpPortVlan (i : Nat) : Nat := 0xE0118 + 0x100 * i
/-- `FHP.PORT[i].CNT[j]` -/
def fhpPortCnt (i : Nat) (j : Nat) : Nat := 0xE0140 + 0x100 * i + 0x4 * j
/-- `ARG.STICKY` -/
def argSticky : Nat := 0xF0000
/-- `ARG.ALERT_EN` -/
def argAlertEn : Nat := 0xF0004
/-- `ARG.CTL` -/
def argCtl : Nat := 0xF0008
/-- `ARG.TS_PERIOD` -/
def argTsPeriod : Nat := 0xF000C
/-- `ARG.SHED_ORDER[0]` -/
def argShedOrder0 : Nat := 0xF0010
/-- `ARG.SHED_ORDER[1]` -/
def argShedOrder1 : Nat := 0xF0014
/-- `ARG.SHED_ORDER[2]` -/
def argShedOrder2 : Nat := 0xF0018
/-- `ARG.SHED_ORDER[3]` -/
def argShedOrder3 : Nat := 0xF001C
/-- `ARG.SHED_ORDER[4]` -/
def argShedOrder4 : Nat := 0xF0020
/-- `ARG.SHED_ORDER[5]` -/
def argShedOrder5 : Nat := 0xF0024
/-- `ARG.SHED_ORDER[6]` -/
def argShedOrder6 : Nat := 0xF0028
/-- `ARG.SHED_ORDER[7]` -/
def argShedOrder7 : Nat := 0xF002C
/-- `ARG.LAYERS_DL[c]` -/
def argLayersDl (i : Nat) : Nat := 0xF0040 + 0x4 * i
/-- `ARG.LAYERS_UL[c]` -/
def argLayersUl (i : Nat) : Nat := 0xF0048 + 0x4 * i
/-- `ARG.SHED[d]` -/
def argShed (i : Nat) : Nat := 0xF0050 + 0x4 * i
/-- `ARG.MOVED[d]` -/
def argMoved (i : Nat) : Nat := 0xF0058 + 0x4 * i
/-- `ARG.RING[r].CTL` -/
def argRingCtl (i : Nat) : Nat := 0xF0100 + 0x80 * i
/-- `ARG.RING[r].STATUS` -/
def argRingStatus (i : Nat) : Nat := 0xF0104 + 0x80 * i
/-- `ARG.RING[r].CNT[j]` -/
def argRingCnt (i : Nat) (j : Nat) : Nat := 0xF0140 + 0x80 * i + 0x4 * j
/-- `ARG.PORT[p].CTL` -/
def argPortCtl (i : Nat) : Nat := 0xF0400 + 0x40 * i
/-- `ARG.PORT[p].STATUS` -/
def argPortStatus (i : Nat) : Nat := 0xF0404 + 0x40 * i
/-- `ARG.PORT[p].LANES` -/
def argPortLanes (i : Nat) : Nat := 0xF0408 + 0x40 * i
/-- `ARG.RST_ADDR` -/
def argRstAddr : Nat := 0xF0800
/-- `ARG.RST_DATA` -/
def argRstData : Nat := 0xF0804
/-- `ARG.ACCEPT` -/
def argAccept : Nat := 0xF0808
/-- `TLP.CTL` -/
def tlpCtl : Nat := 0x100000
/-- `TLP.STICKY` -/
def tlpSticky : Nat := 0x100004
/-- `TLP.ALERT_EN` -/
def tlpAlertEn : Nat := 0x100008
/-- `TLP.LATE_LIMIT` -/
def tlpLateLimit : Nat := 0x10000C
/-- `TLP.TAQ_LEVEL` -/
def tlpTaqLevel : Nat := 0x100010
/-- `TLP.TAQ_CANCEL` -/
def tlpTaqCancel : Nat := 0x100014
/-- `TLP.CR_BASE` -/
def tlpCrBase : Nat := 0x100018
/-- `TLP.CR_SIZE` -/
def tlpCrSize : Nat := 0x10001C
/-- `TLP.CR_HEAD` -/
def tlpCrHead : Nat := 0x100020
/-- `TLP.CR_TAIL` -/
def tlpCrTail : Nat := 0x100024
/-- `TLP.CR_THRESH` -/
def tlpCrThresh : Nat := 0x100028
/-- `TLP.CNT_LATE` -/
def tlpCntLate : Nat := 0x100030
/-- `TLP.CNT_STALE` -/
def tlpCntStale : Nat := 0x100034
/-- `TLP.CNT_REFUSED` -/
def tlpCntRefused : Nat := 0x100038
/-- `TLP.CNT_CR_DROP` -/
def tlpCntCrDrop : Nat := 0x10003C
/-- `TLP.CNT_TAQ_STALL` -/
def tlpCntTaqStall : Nat := 0x100040
/-- `TLP.CNT_STEPPED` -/
def tlpCntStepped : Nat := 0x100044
/-- `TLP.IM_VERIFIED` -/
def tlpImVerified : Nat := 0x100048
/-- `TLP.EV_SET` -/
def tlpEvSet : Nat := 0x10004C
/-- `TLP.WDT_KICK` -/
def tlpWdtKick : Nat := 0x100050
/-- `TLP.BAD_WRITE` -/
def tlpBadWrite : Nat := 0x100054
/-- `TLP.EV[j]` -/
def tlpEv (i : Nat) : Nat := 0x100080 + 0x4 * i
/-- `TLP.BP_ADDR[k]` -/
def tlpBpAddr (i : Nat) : Nat := 0x100100 + 0x8 * i
/-- `TLP.BP_MASK[k]` -/
def tlpBpMask (i : Nat) : Nat := 0x100104 + 0x8 * i
/-- `TLP.TRACE` -/
def tlpTrace : Nat := 0x100180
/-- `TLP.TAG_LAST[t]` -/
def tlpTagLast (i : Nat) : Nat := 0x100800 + 0x4 * i
/-- `TLP.DSP_STICKY` -/
def tlpDspSticky : Nat := 0x101000
/-- `TLP.DSP_ALERT_EN` -/
def tlpDspAlertEn : Nat := 0x101004
/-- `TLP.DU[u].STATUS` -/
def tlpDuStatus (i : Nat) : Nat := 0x101040 + 0x4 * i
/-- `TLP.DU[u].BLOCKS` -/
def tlpDuBlocks (i : Nat) : Nat := 0x101060 + 0x4 * i
/-- `TLP.TH[i].CTL` -/
def tlpThCtl (i : Nat) : Nat := 0x102000 + 0x200 * i
/-- `TLP.TH[i].PC` -/
def tlpThPc (i : Nat) : Nat := 0x102004 + 0x200 * i
/-- `TLP.TH[i].STATE` -/
def tlpThState (i : Nat) : Nat := 0x102008 + 0x200 * i
/-- `TLP.TH[i].STAT` -/
def tlpThStat (i : Nat) : Nat := 0x10200C + 0x200 * i
/-- `TLP.TH[i].FAULT` -/
def tlpThFault (i : Nat) : Nat := 0x102010 + 0x200 * i
/-- `TLP.TH[i].WDT` -/
def tlpThWdt (i : Nat) : Nat := 0x102014 + 0x200 * i
/-- `TLP.TH[i].WAKE_PC` -/
def tlpThWakePc (i : Nat) : Nat := 0x102018 + 0x200 * i
/-- `TLP.TH[i].G[n]` -/
def tlpThG (i : Nat) (j : Nat) : Nat := 0x102040 + 0x200 * i + 0x4 * j
/-- `TLP.TH[i].A[n]` -/
def tlpThA (i : Nat) (j : Nat) : Nat := 0x102080 + 0x200 * i + 0x4 * j
/-- `TLP.TH[i].M[n]` -/
def tlpThM (i : Nat) (j : Nat) : Nat := 0x1020A0 + 0x200 * i + 0x4 * j
/-- `TLP.TH[i].B[n]` -/
def tlpThB (i : Nat) (j : Nat) : Nat := 0x1020C0 + 0x200 * i + 0x4 * j
/-- `TLP.TH[i].L[n]` -/
def tlpThL (i : Nat) (j : Nat) : Nat := 0x1020E0 + 0x200 * i + 0x4 * j
/-- `TLP.TH[i].X[n]` -/
def tlpThX (i : Nat) (j : Nat) : Nat := 0x102100 + 0x200 * i + 0x4 * j
/-- `TLP.TH[i].ACC_LO[n]` -/
def tlpThAccLo (i : Nat) (j : Nat) : Nat := 0x102140 + 0x200 * i + 0x10 * j
/-- `TLP.TH[i].ACC_HI[n]` -/
def tlpThAccHi (i : Nat) (j : Nat) : Nat := 0x102144 + 0x200 * i + 0x10 * j
/-- `TLP.TH[i].ACC_EXP[n]` -/
def tlpThAccExp (i : Nat) (j : Nat) : Nat := 0x102148 + 0x200 * i + 0x10 * j
/-- `TLP.TH[i].RS[n]` -/
def tlpThRs (i : Nat) (j : Nat) : Nat := 0x102180 + 0x200 * i + 0x4 * j
/-- `TLP.TH[i].RS_DEPTH` -/
def tlpThRsDepth (i : Nat) : Nat := 0x1021C0 + 0x200 * i
/-- `TLP.AIR_NEXT_TNS` -/
def tlpAirNextTns : Nat := 0x104000
/-- `TLP.AIR_NEXT_AFC` -/
def tlpAirNextAfc : Nat := 0x104004
/-- `TLP.AIR_CTL` -/
def tlpAirCtl : Nat := 0x104008
/-- `TLP.AIR_AFC` -/
def tlpAirAfc : Nat := 0x10400C
/-- `TLP.AIR_FRAME_TNS` -/
def tlpAirFrameTns : Nat := 0x104010
/-- `TLP.AIR_CFG[c]` -/
def tlpAirCfg (i : Nat) : Nat := 0x104020 + 0x4 * i
/-- `TLP.AIR_SBFD[c]` -/
def tlpAirSbfd (i : Nat) : Nat := 0x104028 + 0x4 * i
/-- `TLP.AIR_POS[c]` -/
def tlpAirPos (i : Nat) : Nat := 0x104030 + 0x4 * i
/-- `TLP.AIR_STICKY` -/
def tlpAirSticky : Nat := 0x104040
/-- `TLP.AIR_ALERT_EN` -/
def tlpAirAlertEn : Nat := 0x104044
/-- `TLP.AIR_MISMATCH[c]` -/
def tlpAirMismatch (i : Nat) : Nat := 0x104048 + 0x4 * i
/-- `TLP.AIR_SAFETY` -/
def tlpAirSafety : Nat := 0x104050
/-- `TLP.DUTY[k]` -/
def tlpDuty (i : Nat) : Nat := 0x104080 + 0x4 * i
/-- `TLP.AIR_PATTERN[c][j]` -/
def tlpAirPattern (i : Nat) (j : Nat) : Nat := 0x104400 + 0x200 * i + 0x4 * j
/-- `TLP.PS[n]` -/
def tlpPs (i : Nat) : Nat := 0x104800 + 0x4 * i
/-- `HST.STICKY` -/
def hstSticky : Nat := 0x110000
/-- `HST.ALERT_EN` -/
def hstAlertEn : Nat := 0x110004
/-- `HST.BAD_ACCESS` -/
def hstBadAccess : Nat := 0x110008
/-- `HST.BAD_OFFSET` -/
def hstBadOffset : Nat := 0x11000C
/-- `HST.LINK` -/
def hstLink : Nat := 0x110010
/-- `HST.MSIX_ADDR_LO[v]` -/
def hstMsixAddrLo (i : Nat) : Nat := 0x118000 + 0x10 * i
/-- `HST.MSIX_ADDR_HI[v]` -/
def hstMsixAddrHi (i : Nat) : Nat := 0x118004 + 0x10 * i
/-- `HST.MSIX_DATA[v]` -/
def hstMsixData (i : Nat) : Nat := 0x118008 + 0x10 * i
/-- `HST.MSIX_CTL[v]` -/
def hstMsixCtl (i : Nat) : Nat := 0x11800C + 0x10 * i
/-- `HST.MSIX_PBA[w]` -/
def hstMsixPba (i : Nat) : Nat := 0x11C000 + 0x4 * i
/-- `TXD[n].CTL` -/
def txdCtl (i : Nat) : Nat := 0x200000 + 0x1000 * i
/-- `TXD[n].STATUS` -/
def txdStatus (i : Nat) : Nat := 0x200004 + 0x1000 * i
/-- `TXD[n].STICKY` -/
def txdSticky (i : Nat) : Nat := 0x200008 + 0x1000 * i
/-- `TXD[n].ALERT_EN` -/
def txdAlertEn (i : Nat) : Nat := 0x20000C + 0x1000 * i
/-- `TXD[n].ATT_CMD` -/
def txdAttCmd (i : Nat) : Nat := 0x200010 + 0x1000 * i
/-- `TXD[n].CAR_SCALE` -/
def txdCarScale (i : Nat) : Nat := 0x200014 + 0x1000 * i
/-- `TXD[n].DELAY` -/
def txdDelay (i : Nat) : Nat := 0x200018 + 0x1000 * i
/-- `TXD[n].SCOMP` -/
def txdScomp (i : Nat) : Nat := 0x20001C + 0x1000 * i
/-- `TXD[n].PFS` -/
def txdPfs (i : Nat) : Nat := 0x200020 + 0x1000 * i
/-- `TXD[n].REG` -/
def txdReg (i : Nat) : Nat := 0x200024 + 0x1000 * i
/-- `TXD[n].BACKOFF` -/
def txdBackoff (i : Nat) : Nat := 0x200028 + 0x1000 * i
/-- `TXD[n].IQCORR[p]` -/
def txdIqcorr (i : Nat) (j : Nat) : Nat := 0x200030 + 0x1000 * i + 0x4 * j
/-- `TXD[n].DCOFF[p]` -/
def txdDcoff (i : Nat) (j : Nat) : Nat := 0x200038 + 0x1000 * i + 0x4 * j
/-- `TXD[n].CLIP0` -/
def txdClip0 (i : Nat) : Nat := 0x200040 + 0x1000 * i
/-- `TXD[n].CLIP1` -/
def txdClip1 (i : Nat) : Nat := 0x200044 + 0x1000 * i
/-- `TXD[n].TCOMP[p][b]` -/
def txdTcomp (i : Nat) (j : Nat) (l : Nat) : Nat := 0x200100 + 0x1000 * i + 0x20 * j + 0x4 * l
/-- `TXD.LOCK_WAIT` -/
def txdLockWait : Nat := 0x200FFC
/-- `TXA[n].STATUS` -/
def txaStatus (i : Nat) : Nat := 0x280000 + 0x1000 * i
/-- `TXA[n].STICKY` -/
def txaSticky (i : Nat) : Nat := 0x280004 + 0x1000 * i
/-- `TXA[n].ALERT_EN` -/
def txaAlertEn (i : Nat) : Nat := 0x280008 + 0x1000 * i
/-- `TXA[n].CELL_I[0]` -/
def txaCellI0 (i : Nat) : Nat := 0x280010 + 0x1000 * i
/-- `TXA[n].CELL_I[1]` -/
def txaCellI1 (i : Nat) : Nat := 0x280014 + 0x1000 * i
/-- `TXA[n].CELL_I[2]` -/
def txaCellI2 (i : Nat) : Nat := 0x280018 + 0x1000 * i
/-- `TXA[n].CELL_Q[0]` -/
def txaCellQ0 (i : Nat) : Nat := 0x280020 + 0x1000 * i
/-- `TXA[n].CELL_Q[1]` -/
def txaCellQ1 (i : Nat) : Nat := 0x280024 + 0x1000 * i
/-- `TXA[n].CELL_Q[2]` -/
def txaCellQ2 (i : Nat) : Nat := 0x280028 + 0x1000 * i
/-- `TXA[n].SPARES` -/
def txaSpares (i : Nat) : Nat := 0x280030 + 0x1000 * i
/-- `RXD[n].CTL` -/
def rxdCtl (i : Nat) : Nat := 0x300000 + 0x1000 * i
/-- `RXD[n].STATUS` -/
def rxdStatus (i : Nat) : Nat := 0x300004 + 0x1000 * i
/-- `RXD[n].STICKY` -/
def rxdSticky (i : Nat) : Nat := 0x300008 + 0x1000 * i
/-- `RXD[n].ALERT_EN` -/
def rxdAlertEn (i : Nat) : Nat := 0x30000C + 0x1000 * i
/-- `RXD[n].ATT_CMD` -/
def rxdAttCmd (i : Nat) : Nat := 0x300010 + 0x1000 * i
/-- `RXD[n].DELAY` -/
def rxdDelay (i : Nat) : Nat := 0x300014 + 0x1000 * i
/-- `RXD[n].LNA_COMP` -/
def rxdLnaComp (i : Nat) : Nat := 0x300018 + 0x1000 * i
/-- `RXD[n].GCAL` -/
def rxdGcal (i : Nat) : Nat := 0x30001C + 0x1000 * i
/-- `RXD[n].AGC` -/
def rxdAgc (i : Nat) : Nat := 0x300020 + 0x1000 * i
/-- `RXD[n].AGC_THR` -/
def rxdAgcThr (i : Nat) : Nat := 0x300024 + 0x1000 * i
/-- `RXD[n].AGC_CNT` -/
def rxdAgcCnt (i : Nat) : Nat := 0x300028 + 0x1000 * i
/-- `RXD[n].IRR[p][i]` -/
def rxdIrr (i : Nat) (j : Nat) (l : Nat) : Nat := 0x300040 + 0x1000 * i + 0x20 * j + 0x4 * l
/-- `RXD[n].DC_INIT[p]` -/
def rxdDcInit (i : Nat) (j : Nat) : Nat := 0x300080 + 0x1000 * i + 0x4 * j
/-- `RXD[n].DC_EST` -/
def rxdDcEst (i : Nat) : Nat := 0x300088 + 0x1000 * i
/-- `RXD[n].CLIP0` -/
def rxdClip0 (i : Nat) : Nat := 0x300090 + 0x1000 * i
/-- `RXD[n].CLIP1` -/
def rxdClip1 (i : Nat) : Nat := 0x300094 + 0x1000 * i
/-- `RXD[n].AGC_CHG` -/
def rxdAgcChg (i : Nat) : Nat := 0x300098 + 0x1000 * i
/-- `RXD[n].TCOMP[p][b]` -/
def rxdTcomp (i : Nat) (j : Nat) (l : Nat) : Nat := 0x300100 + 0x1000 * i + 0x20 * j + 0x4 * l
/-- `RXD.CP_ADV` -/
def rxdCpAdv : Nat := 0x300FF8
/-- `RXA[n].STATUS` -/
def rxaStatus (i : Nat) : Nat := 0x380000 + 0x1000 * i
/-- `RXA[n].STICKY` -/
def rxaSticky (i : Nat) : Nat := 0x380004 + 0x1000 * i
/-- `RXA[n].ALERT_EN` -/
def rxaAlertEn (i : Nat) : Nat := 0x380008 + 0x1000 * i
/-- `RXA[n].COMP_I[0]` -/
def rxaCompI0 (i : Nat) : Nat := 0x380010 + 0x1000 * i
/-- `RXA[n].COMP_I[1]` -/
def rxaCompI1 (i : Nat) : Nat := 0x380014 + 0x1000 * i
/-- `RXA[n].COMP_Q[0]` -/
def rxaCompQ0 (i : Nat) : Nat := 0x380018 + 0x1000 * i
/-- `RXA[n].COMP_Q[1]` -/
def rxaCompQ1 (i : Nat) : Nat := 0x38001C + 0x1000 * i
/-- `RXA[n].SPARES` -/
def rxaSpares (i : Nat) : Nat := 0x380030 + 0x1000 * i
/-- `RXA.LNA_BYP` -/
def rxaLnaByp : Nat := 0x380FFC
/-- `BME.STICKY` -/
def bmeSticky : Nat := 0x400000
/-- `BME.ALERT_EN` -/
def bmeAlertEn : Nat := 0x400004
/-- `BME.CAR[c]` -/
def bmeCar (i : Nat) : Nat := 0x400010 + 0x10 * i
/-- `BME.CAR_OFF[c]` -/
def bmeCarOff (i : Nat) : Nat := 0x400014 + 0x10 * i
/-- `BME.CAR_SHIFT[c]` -/
def bmeCarShift (i : Nat) : Nat := 0x400018 + 0x10 * i
/-- `BME.SBFD[c]` -/
def bmeSbfd (i : Nat) : Nat := 0x40001C + 0x10 * i
/-- `BME.BANK` -/
def bmeBank : Nat := 0x400040
/-- `BME.ARRAY` -/
def bmeArray : Nat := 0x400044
/-- `BME.RING_DEPTH` -/
def bmeRingDepth : Nat := 0x400048
/-- `BME.PS_MARGIN` -/
def bmePsMargin : Nat := 0x40004C
/-- `BME.UL_OUT` -/
def bmeUlOut : Nat := 0x400050
/-- `BME.FFT_EXP[c]` -/
def bmeFftExp (i : Nat) : Nat := 0x400060 + 0x4 * i
/-- `BME.CNT[r]` -/
def bmeCnt (i : Nat) : Nat := 0x400080 + 0x4 * i
/-- `BME.WDESC[d][c][l]` -/
def bmeWdesc (i : Nat) (j : Nat) (l : Nat) : Nat := 0x400400 + 0x100 * i + 0x80 * j + 0x4 * l
/-- `SIC.STICKY` -/
def sicSticky : Nat := 0x500000
/-- `SIC.ALERT_EN` -/
def sicAlertEn : Nat := 0x500004
/-- `SIC.CTL` -/
def sicCtl : Nat := 0x500008
/-- `SIC.CNT_CLAMP` -/
def sicCntClamp : Nat := 0x500010
/-- `SIC.CNT_BADW` -/
def sicCntBadw : Nat := 0x500014
/-- `SIC.COMMIT[p][w]` -/
def sicCommit (i : Nat) (j : Nat) : Nat := 0x500100 + 0x10 * i + 0x4 * j
/-- `SIC.SURVEY` -/
def sicSurvey : Nat := 0x500200
/-- `SIC.SURVEY_TOP` -/
def sicSurveyTop : Nat := 0x500204
/-- `SIC.SURVEY_LAG` -/
def sicSurveyLag : Nat := 0x500208
/-- `SIC.SNAP` -/
def sicSnap : Nat := 0x500210
/-- `SIC.SNAP_ADDR` -/
def sicSnapAddr : Nat := 0x500214
/-- `SIC.SNAP_TNS` -/
def sicSnapTns : Nat := 0x500218
/-- `SIC.STAT[r]` -/
def sicStat (i : Nat) : Nat := 0x500800 + 0x4 * i
/-- `SIC.QUAL[r]` -/
def sicQual (i : Nat) : Nat := 0x500A00 + 0x4 * i
/-- `SIC.SURVEY_E[t]` -/
def sicSurveyE (i : Nat) : Nat := 0x500C00 + 0x4 * i
/-- `LIN.STICKY` -/
def linSticky : Nat := 0x600000
/-- `LIN.ALERT_EN` -/
def linAlertEn : Nat := 0x600004
/-- `LIN.CTL` -/
def linCtl : Nat := 0x600008
/-- `LIN.CNT_BADW` -/
def linCntBadw : Nat := 0x60000C
/-- `LIN.BRANCH[b]` -/
def linBranch (i : Nat) : Nat := 0x600010 + 0x4 * i
/-- `LIN.ST[w].ADDR` -/
def linStAddr (i : Nat) : Nat := 0x600040 + 0x10 * i
/-- `LIN.ST[w].DATA` -/
def linStData (i : Nat) : Nat := 0x600044 + 0x10 * i
/-- `LIN.COMMIT[w]` -/
def linCommit (i : Nat) : Nat := 0x600080 + 0x4 * i
/-- `LIN.CFR[k].CTL` -/
def linCfrCtl (i : Nat) : Nat := 0x600100 + 0x4 * i
/-- `LIN.OBS[k].CTL` -/
def linObsCtl (i : Nat) : Nat := 0x600200 + 0x20 * i
/-- `LIN.OBS[k].ADDR` -/
def linObsAddr (i : Nat) : Nat := 0x600204 + 0x20 * i
/-- `LIN.OBS[k].AT` -/
def linObsAt (i : Nat) : Nat := 0x600208 + 0x20 * i
/-- `LIN.OBS[k].TNS` -/
def linObsTns (i : Nat) : Nat := 0x60020C + 0x20 * i
/-- `LIN.ORIN[k][m]` -/
def linOrin (i : Nat) (j : Nat) : Nat := 0x600400 + 0x40 * i + 0x4 * j
/-- `LIN.PATH[n].STAT` -/
def linPathStat (i : Nat) : Nat := 0x600800 + 0x4 * i
/-- `LIN.PATH[n].CFR_CNT` -/
def linPathCfrCnt (i : Nat) : Nat := 0x600A00 + 0x4 * i
/-- `LIN.CFR_PULSE[k][s][t]` -/
def linCfrPulse (i : Nat) (j : Nat) (l : Nat) : Nat := 0x620000 + 0x400 * i + 0x200 * j + 0x4 * l

end Reg

end Sys2Proof.Machine
end

