-- ==== Sys2Proof/Machine/Sparse.lean ====
section
/-! DEFINITION. Sparse maps held as plain data: a list of (key, value) pairs with strictly rising keys, in which no pair
holds the value an unlisted key reads as. Registers, memories and tables of the WZ128 are held so, and equal contents
are equal lists. -/
namespace Sys2Proof.Machine

/-- The value at `k`; an unlisted key reads as `d k`. -/
def sget {α : Type} (d : Nat → α) : List (Nat × α) → Nat → α
  | [], k => d k
  | p :: r, k => if p.1 = k then p.2 else sget d r k

/-- `l` with `(k, v)` put before the first greater key. -/
def sins {α : Type} : List (Nat × α) → Nat → α → List (Nat × α)
  | [], k, v => [(k, v)]
  | p :: r, k, v => if k < p.1 then (k, v) :: p :: r else p :: sins r k v

/-- `l` without key `k`. -/
def sdel {α : Type} (l : List (Nat × α)) (k : Nat) : List (Nat × α) := l.filter (fun p => p.1 != k)

/-- `l` with the value at `k` set to `v`; writing what an unlisted key reads as removes the entry. -/
def sset {α : Type} [DecidableEq α] (d : Nat → α) (l : List (Nat × α)) (k : Nat) (v : α) : List (Nat × α) :=
  if v = d k then sdel l k else sins (sdel l k) k v

/-- Strictly rising keys. -/
def sorted {α : Type} : List (Nat × α) → Bool
  | [] => true
  | p :: r => r.all (fun q => p.1 < q.1) && sorted r

/-- The canonical form: strictly rising keys, and no entry equal to what an unlisted key reads as. -/
def swf {α : Type} [DecidableEq α] (d : Nat → α) (l : List (Nat × α)) : Bool :=
  sorted l && l.all (fun p => p.2 != d p.1)

/-- `l` restricted to the keys for which `keep` holds. -/
def skeep {α : Type} (l : List (Nat × α)) (keep : Nat → Bool) : List (Nat × α) := l.filter (fun p => keep p.1)

/-- Key by key, every listed value replaced by `f key value`, entries that come to hold the default removed. -/
def smap {α : Type} [DecidableEq α] (d : Nat → α) (f : Nat → α → α) (l : List (Nat × α)) : List (Nat × α) :=
  (l.map (fun p => (p.1, f p.1 p.2))).filter (fun p => p.2 != d p.1)

end Sys2Proof.Machine
end

