-- ==== Sys2Proof/Machine/State.lean ====
section
/-! DEFINITION. The state of the WZ128 as plain data, and the state right after reset.
Every memory-mapped register of the manual lives in one sparse store, `regs`, keyed by its BAR0 offset; an unlisted
register holds the reset value its table gives (Machine/RegMap.lean). The other fields hold what the manual gives the
machine beside its registers: memories, queues, pending requests, transitions in progress, pins and shadows. Arrays
are sparse maps (Machine/Sparse.lean), so equal states are equal data. -/
namespace Sys2Proof.Machine

/-- Why the machine would stop with a fault. No meaning of this model raises one: every event the manual names as an
error (a thread fault, a refused access, a poisoned word) is an effect on the state (safe). -/
inductive Fault where
  /-- Kept so that the type is not empty; raised by nobody (safe). -/
  | none
  deriving DecidableEq, Repr

/-- Why a command is refused. -/
inductive Refusal where
  /-- The command of this table row has no meaning yet (safe); raised in Machine/Dispatch.lean only. -/
  | notModelled (mnemonic : String)
  deriving DecidableEq, Repr

/-- The SEC-DED state of a protected word (R47): the stored bits are good, one bit is flipped (bit 0-31 a data bit,
32-38 a check bit), or two are. -/
inductive Ecc where
  | good
  | single (bit : Nat)
  | double
  deriving DecidableEq, Repr

/-- An uplink U-plane frame (R363, R365, R368, R369): port, source and destination address, tag (PCP and VID), eAxC ID, seqId, the
air time it names, one section with its PRBs, udCompMeth and width where the header carries them, the status byte where it is
sent. -/
structure UlFrame where
  port  : Nat
  sa    : Nat
  da    : Nat
  tag   : Option (Nat × Nat)
  eaxc  : Nat
  seq   : Nat
  air   : AirRef
  id    : Nat
  start : Nat
  num   : Nat
  comp  : Option (Nat × Nat)
  ssb   : Option Nat
  data  : List Byte
  deriving DecidableEq, Repr

/-- What the device sends to the outside, in the order it sends it (the model's own trace, newest first; log 4). -/
inductive Out where
  /-- MSI-X message of a vector (R39). -/
  | msix (vec : Nat)
  /-- PCIe read completion: data words, EP bit (R48). -/
  | pcieData (data : List Word) (ep : Bool)
  /-- Unsupported Request completion in D3hot (R26). -/
  | pcieUr
  /-- Management-port READ response: data and status (R41). -/
  | mgmtData (data : Word) (status : Nat)
  /-- Management-port STATUS response (R41). -/
  | mgmtStatus (status : Nat)
  /-- The target NACKs an address byte (R43). -/
  | mgmtNack
  /-- A command on the QSPI port: opcode, address bytes sent, dummy clocks, data bytes, flags (R46). -/
  | qspi (opcode addr dummy len : Nat) (dir quad addr4 : Bool) (data : List Byte)
  /-- A cell sent on ring port `port` (0 AE, 1 AW, 2 BE, 3 BW) (R325). -/
  | cell (port : Nat) (c : Cell)
  /-- The capability words a negotiating ring port repeats (R322). -/
  | caps (port : Nat) (words : List Word)
  /-- Keep notices of a narrowing ring port: the mask of kept lanes (R350). -/
  | keep (port mask : Nat)
  /-- An error injected on a lane (R357). -/
  | inject (lane : Nat)
  /-- A host frame sent on a fronthaul port, with its FCS (R374). -/
  | frame (port : Nat) (bytes : List Byte)
  /-- An uplink frame (R368). -/
  | uplink (f : UlFrame)
  /-- An eCPRI type 7 fault indication (R371) on a port: Element ID, whether it raises the fault, TNS at detection. -/
  | faultInd (port elem : Nat) (begin : Bool) (tns : Word)
  /-- A timing pulse on TIME_OUT[k] or PPS_OUT (k = 8): its width in 2^-16 ns and its active level (R388). -/
  | pulse (k width : Nat) (high : Bool)
  /-- A DMA write to host memory: address, bytes and No Snoop (R396, R397). -/
  | hostWrite (addr : Nat) (data : List Byte) (noSnoop : Bool)
  deriving DecidableEq, Repr

/-- A shadow of R33: the low-word offset it was filled from, the high word, and whether it has yet to be returned. -/
structure Shadow where
  off   : Nat
  high  : Word
  fresh : Bool
  deriving DecidableEq, Repr

/-- An action of the timeline processor with the values read at issue (R96, CLASS table of R65). -/
inductive Action where
  | wreg (off : Nat) (val : Word) (mask : Word)
  | pstate (target : Nat) (pairs : List Nat)
  | beamsel (dir car layer index : Nat)
  | wswap (dirs cars bank : Nat)
  | lohop (syn preset : Nat)
  | gainset (dir : Nat) (paths : List Nat) (atten : Nat)
  | portsel (groups port : Nat)
  | signal (line : Nat)
  | vote (dom point : Nat)
  | unvote (dom : Nat)
  | dmago (ch : Nat) (desc : Option Word)
  | carm (op : Nat)
  deriving DecidableEq, Repr

/-- Who handed an action to its target: a TAQ entry, a thread without prefix, or the device itself. -/
inductive Owner where
  | entry (tag : Nat) (due : Word)
  | thread (th : Nat)
  | device
  deriving DecidableEq, Repr

/-- An entry of the timed action queue (R57-R62, R98). A one-shot entry counts one occurrence. `count` is the number of
occurrences not yet dispatched, when they are counted; `seq` orders issue; `flying` is the number of occurrences
dispatched and not yet completed; `closed` marks a series cancelled while an occurrence is in flight; `ran` is the number
of occurrences taken so far; `late` marks an entry accepted within the late window, whose first occurrence completes LATE. -/
structure Entry where
  th       : Nat
  act      : Action
  due      : Word
  cookie   : Nat
  periodic : Bool
  period   : Nat
  count    : Nat
  counted  : Bool
  quiet    : Bool
  seq      : Nat
  flying   : Nat
  closed   : Bool
  ran      : Nat := 0
  late     : Bool := false
  deriving DecidableEq, Repr

/-- What a FENCE waits for (R71): a PSTATE action, hops of synthesisers, a selection of a layer, a bank swap, a port switch,
a DMA channel, an arm held by the capture engine. -/
inductive Await where
  | act (id : Nat)
  | syn (id : Nat)
  | beam (dir car layer : Nat)
  | bank (dir car : Nat)
  | port (groups : Nat)
  | chan (c : Nat)
  | armed
  deriving DecidableEq, Repr

/-- State of a thread beside its registers: whether its wait condition has become true and with which value (R54, R67),
the data of the wait with the register it writes, single-step and breakpoint progress (R79), a block instruction in progress
(R121), the untimed actions not yet reached and whether one failed (R71), the watchdog count in nanoseconds (R78). -/
structure Thread where
  hit       : Bool := false
  hitVal    : Word := 0
  due       : Word := 0
  tag       : Nat := 0
  series    : Bool := false
  dest      : Option Nat := none
  stalled   : Bool := false
  stepping  : Bool := false
  haltReq   : Bool := false
  skipBp    : Bool := false
  block     : Option Nat := none
  blockEv   : Bool := false
  awaits    : List Await := []
  fenceFail : Bool := false
  wdt       : Nat := 0
  reading   : Bool := false
  saved     : List (Nat × Word) := []
  deriving DecidableEq, Repr

/-- The turn of issue (R53): instructions issued so far, the number of the last one of each thread, and for a thread that has
yielded the threads it stands behind (R88). -/
structure Pipe where
  issues : Nat := 0
  last   : List (Nat × Nat) := []
  behind : List (Nat × List Nat) := []
  deriving DecidableEq, Repr

/-- A PSTATE that waits as a whole action (R157). -/
structure PsWait where
  id     : Nat
  target : Nat
  pairs  : List Nat
  owner  : Owner
  due    : Word
  deriving DecidableEq, Repr

/-- A deferred transmit entry (R158): the due time of the row, its limit L, its symbol deadline D and the end of the
suppression of R159, the last three in units of 1/1536 ns of unwrapped network time, in which path samples are whole. -/
structure Gate where
  due     : Word
  limit   : Int
  dl      : Int
  slotEnd : Int
  deriving DecidableEq, Repr

/-- A PSTATE action in progress (R156-R158): the pairs it names, its owner and due time, whether its outcome has been told,
whether its transmit row is its first row and it did not wait, the pairs whose chain holds a transmit row, those that have
reached it, whether that row has started, and its deferral. -/
structure Run where
  id      : Nat
  owner   : Owner
  due     : Word
  told    : Bool
  first   : Bool
  need    : List Nat
  arrived : List Nat
  passed  : Bool
  gate    : Option Gate
  named   : List Nat
  deriving DecidableEq, Repr

/-- The rows a pair has still to run, the row in progress first (R155, R156), the action that runs them, and whether the timed
point of the row in progress has passed (R161). -/
structure Pair where
  chain : List Nat
  act   : Nat
  mid   : Bool := false
  deriving DecidableEq, Repr

/-- Air timing and path states beside the registers: a waiting alignment (start, AFC, R146), the boundaries silent after a
time step (R147, unwrapped 2^-53 ns, whether the limit itself is silent), waiting PSTATEs, actions in progress, pair
transitions, the next action number, the end of the suppression of R159 per group, nanoseconds counted for the duty limit
below the microsecond (R166), port switches pending per group (R110), `DC_INIT` registers written and not yet in force
(R197). -/
structure Air where
  align  : Option (Word × Word) := none
  silent : Option (Nat × Bool) := none
  waits  : List PsWait := []
  runs   : List Run := []
  pairs  : List (Nat × Pair) := []
  nextId : Nat := 1
  supp   : List (Nat × Int) := []
  duty   : List (Nat × Nat) := []
  ports  : List (Nat × Nat) := []
  reload : List Nat := []
  deriving DecidableEq, Repr

/-- The pins the device drives or samples that no register shows: DRAIN_EN[15:0] (R161), PA_ALARM_N[15:0], 1 = high (R163;
an open input reads low through its pull-down, R488), LNA_BYP[15:0] (R193), RING_HOLD_A and RING_HOLD_B, BOOTSEL[1:0] and
ADDR[4:0] as last sampled (R468), lost bias rails, bit 0 VBIAS_P and bit 1 VBIAS_N (R500). -/
structure Pins where
  drain    : Word := 0
  paAlarmN : Word := 0
  lnaByp   : Word := 0
  ringHold : Word := 0
  bootSel  : Nat := 0
  addr     : Nat := 0
  rails    : Word := 0
  deriving DecidableEq, Repr

/-- Bias outputs beside the registers: the code held by the deglitcher (R310),
generators with a phase reset to come and the last sample of each as offset word and scaled table value (R317), tiles held
for want of a table and tiles whose clamp may release (R313). -/
structure Bda where
  hold  : List (Nat × Nat) := []
  phRst : Word := 0
  samp  : List (Nat × (Nat × Int)) := []
  noTab : Word := 0
  loose : Word := 0
  deriving DecidableEq, Repr

/-- A hop of a synthesiser not yet locked (R276-R278): its number, its preset, its owner, whether it still waits for a
calibration step to end, and its due time. -/
structure Hop where
  id     : Nat
  preset : Nat
  owner  : Owner
  waits  : Bool
  due    : Word
  deriving DecidableEq, Repr

/-- Synthesisers beside the registers: the words N, FRAC, DIV and DBL in force (R272), hops in progress, unlock caused by a
hop or a commanded calibration (bit k, R279), whether the armed CAL_LINK exchange has failed (R285). -/
structure Los where
  cfg    : List (Nat × (Word × Word)) := []
  hops   : List (Nat × Hop) := []
  cmd    : Word := 0
  clBad  : Bool := false
  deriving DecidableEq, Repr

/-- Calibration beside the registers: window ends per group (R290); runs in progress as kind and index, keyed k for a path of
Gk, 8 + k for ORk, 16 + k for a requested run of Sk, 24 for an exchange; paths (0-127) and groups (128 + k) stopped for the
window (R294); journal classes changed in a window as group × 16 + class (R306); tiles whose journal has been loaded; the
exchange result of each neighbour (R301, R302), and whether an exchange waits for one. -/
structure Cal where
  wins    : List (Nat × Word) := []
  runs    : List (Nat × (Nat × Nat)) := []
  stopped : List Nat := []
  changed : List Nat := []
  loaded  : Word := 0
  nbr     : List (Nat × Word) := []
  xdev    : Bool := false
  deriving DecidableEq, Repr

/-- One PRB of downlink layer data waiting for the commit point of its symbol: carrier, start of the symbol in units of
1/1536 ns, layer, PRB, and its 24 components in Q1.23 (R221, R227). -/
structure LayerPrb where
  car   : Nat
  t0    : Int
  layer : Nat
  prb   : Nat
  vals  : List Int
  deriving DecidableEq, Repr

/-- One PRB of an uplink sum, 24 components in Q24.23: carrier, start of the symbol, layer, PRB; whose it is: 0 the device's own
contribution, 1 the sum that came from the east, 2 from the west; the devices in it; when it was ready (R223-R225). -/
structure SumPrb where
  car   : Nat
  t0    : Int
  layer : Nat
  prb   : Nat
  side  : Nat
  count : Nat
  ready : Int
  vals  : List Int
  deriving DecidableEq, Repr

/-- The beam engine beside the registers: BEAMSEL selections that wait for a symbol boundary, keyed dir × 64 + car × 32 +
layer with index and issue order; bank swaps that wait, keyed dir × 2 + car, with bank and issue order (R103); symbols
already committed per carrier: start in units of 1/1536 ns and issue order at the commit point (R219); the selections the
last commit point of each carrier counted: 32 descriptors and the bank; banks counted by a commit and not yet active
(R218), with the carrier; banks a symbol is being weighted or combined from, with the end of the pass (R218); layer data and
sums held; the uplink selections of the symbol in progress of each carrier (R220); F of each transform of the slot in
progress, keyed dir × 2 + car, with the start of its symbol (R213). -/
structure Bme where
  sel     : List (Nat × (Nat × Nat)) := []
  swap    : List (Nat × (Nat × Nat)) := []
  commits : List (Nat × List (Int × Nat)) := []
  used    : List (Nat × (List Word × Nat)) := []
  counted : List (Nat × Nat) := []
  busy    : List (Nat × Int) := []
  data    : List LayerPrb := []
  sums    : List SumPrb := []
  ulSel   : List (Nat × (List Word × Nat)) := []
  exps    : List (Nat × (Int × Nat)) := []
  deriving DecidableEq, Repr

/-- What a path sample did to path n: clamped samples by stage (R186, R205), cancelled peaks and hard-clipped samples (R253),
clamped SIC estimates (R241). -/
structure PathMeas where
  n       : Nat := 0
  txSum   : Nat := 0
  txI3    : Nat := 0
  txDpd   : Nat := 0
  txDac   : Nat := 0
  rxAdc   : Nat := 0
  rxFront : Nat := 0
  rxSic   : Nat := 0
  rxDec   : Nat := 0
  peaks   : Nat := 0
  hard    : Nat := 0
  sic     : Nat := 0
  deriving DecidableEq, Repr

/-- What the samples of a transmit path have been through, newest first in each list (R169): carrier sums with whether their
symbol is of type F, CFR outputs, then at 1474.56 MS/s the outputs of I3, DPD and the gain stage, and the samples of the SIC
reference tap (R180), at 983.04 MS/s the references SIC forms of them (R239); the last DAC codes (R181). -/
structure TxChain where
  past : List ((Int × Int) × Bool) := []
  cfr  : List (Int × Int) := []
  i3   : List (Int × Int) := []
  dpd  : List (Int × Int) := []
  gain : List (Int × Int) := []
  tap  : List (Int × Int) := []
  ref  : List (Int × Int) := []
  dac  : Int × Int := (0, 0)
  deriving DecidableEq, Repr

/-- What the samples of a receive path have been through, newest first (R189): at 1966.08 MS/s the outputs of the IF shift, of DC
removal and of SIC, then those of D1 and D2; at 983.04 MS/s y as SIC trains on it (R246) and the estimates of R241 in 2^-60;
D of R197 in 2^-60. Then what the AGC measures in the symbol in progress: hits, clips and peak (R202); and what SIC measures
in the slot: sums of squares of P_in, P_out and P_fl with their samples (R249). -/
structure RxChain where
  x    : List (Int × Int) := []
  y    : List (Int × Int) := []
  sub  : List (Int × Int) := []
  d1   : List (Int × Int) := []
  d2   : List (Int × Int) := []
  y983 : List (Int × Int) := []
  est  : List (Int × Int) := []
  d    : Int × Int := (0, 0)
  hits : Nat := 0
  clip : Nat := 0
  peak : Nat := 0
  pin  : Nat := 0
  pout : Nat := 0
  nf   : Nat := 0
  pfl  : Nat := 0
  ng   : Nat := 0
  deriving DecidableEq, Repr

/-- An observation job that records (R264): its samples, newest first, as x, y, z, and its two flags. -/
structure ObsRec where
  got     : List (List (Int × Int)) := []
  clipped : Bool := false
  muted   : Bool := false
  deriving DecidableEq, Repr

/-- A training snapshot that records (R247): its samples, newest first, as y and the four references, whether an ADC sample
clipped, n_a and TNS at its start, the selection words +0x204 and +0x208 of the shadow page. -/
structure SnapRec where
  got     : List (List (Int × Int)) := []
  clipped : Bool := false
  na      : Nat := 0
  tns     : Word := 0
  refs    : Word := 0
  lags    : Word := 0
  deriving DecidableEq, Repr

/-- The samples on their way: path samples passed since the device came up, the instant of the last one in units of 1/1536 ns;
transmit and receive paths; the useful parts of the
downlink symbols, keyed car × 128 + path with the start of the symbol (R211); the windows being filled, keyed likewise, with
whether the pair has left RX and FDX in it, newest sample first (R204); the observation receivers, corrected samples at
3932.16 MS/s and resampled ones, newest first (R263); the survey in progress, as samples still to
take and then level and lag of each path (R246), the snapshot (R247) and the jobs recording (R264); the end of each
carrier's silence after a forced step of network time (R383). -/
structure Chain where
  n      : Nat := 0
  last   : Int := 0
  tx     : List (Nat × TxChain) := []
  rx     : List (Nat × RxChain) := []
  bufs   : List (Nat × List (Int × List (Int × Int))) := []
  win    : List (Nat × (Bool × List (Int × Int))) := []
  obsIn  : List (Nat × List (Int × Int)) := []
  obsZ   : List (Nat × List (Int × Int)) := []
  survey : Option (Nat × List (Int × Nat)) := none
  snap   : Option SnapRec := none
  obs    : List (Nat × ObsRec) := []
  hush   : List (Nat × Int) := []
  deriving DecidableEq, Repr

/-- A DPD set in a page of a path (R259): source 0 none, 1 default, 2 trained; port, band, header and knots. -/
structure DpdSet where
  src   : Nat := 0
  port  : Nat := 0
  band  : Nat := 0
  hdr   : Word := 0
  knots : List Word := []
  deriving DecidableEq, Repr

/-- Linearisation beside the registers: the page in force and the filled shadow page of each path (R259, R260), and the DPD
clamps of the slot in progress (R262). -/
structure Lin where
  page   : List (Nat × DpdSet) := []
  shadow : List (Nat × DpdSet) := []
  clips  : List (Nat × Nat) := []
  deriving DecidableEq, Repr

/-- Journal stores (R306, R318), keyed by tile × 16 + class: time of the previous store (unwrapped ns), stores running
with the words being written and their first word address, deferred stores. -/
structure Journal where
  last : List (Nat × Nat) := []
  run  : List (Nat × (Nat × List Word)) := []
  wait : List Nat := []
  deriving DecidableEq, Repr

/-- Reset and boot progress (R466, R468, R469): RESET_N low or a power-on reset in progress; released and the OTP not yet
sensed; a device reset with the OTP to be sensed again; running. -/
inductive Boot where
  | held
  | released
  | sensing
  | running
  deriving DecidableEq, Repr

/-- The capture engine beside its registers (R415-R424): the configuration latched at arm (keyed as regs), records
written in this capture, records written in PRE, POST_DONE, the trigger (TNS, TFR, FORCED, AUTO, sequencer state), whether
a record was lost just before the next, records lost in this capture, the TNS of arm, an ARM held until REARM ends, REPEAT
cancelled by a DISARM, whether the last arm came from IDLE (segment 0), captures closed, the probe bytes of the cycle
before, the last sample each tap recorded, and the sequencer's counter and its timer in Cobalt cycles (R424); nanoseconds since
arm without a trigger (R421), Cobalt cycles spent in REARM, records in the queue (R418), the phase of the Cobalt clock in
thousandths of a cycle, samples each tap has met since arm (R417). -/
structure Cap where
  latch   : List (Nat × Word) := []
  total   : Nat := 0
  pre     : Nat := 0
  post    : Nat := 0
  trig    : Option (Word × Nat × Bool × Bool × Nat) := none
  lostNow : Bool := false
  lost    : Nat := 0
  armTns  : Word := 0
  held    : Bool := false
  noRep   : Bool := false
  closed  : Nat := 0
  prev    : List (Nat × Nat) := []
  taps    : List (Nat × (Word × Word)) := []
  hits    : Nat := 0
  timer   : Nat := 0
  age     : Nat := 0
  wait    : Nat := 0
  depth   : Nat := 0
  phase   : Nat := 0
  tapN    : List (Nat × Nat) := []
  deriving DecidableEq, Repr

/-- A programmed pulse generator beside its registers (R388): the next active edge and the last one emitted, in units of
2^-16 ns of unwrapped network time; no next edge while idle. -/
structure Pulse where
  next : Option Nat := none
  last : Option Nat := none
  deriving DecidableEq, Repr

/-- The time unit beside its registers (R376-R388). `t` is network time in units of 2^-53 ns with the wrap count above
TNS (101 bits); `req` and `integ` are r_req and the servo's I in units of 2^-53; `step` a pending step in 2^-16 ns;
`good` the consecutive measurements within 20 ns; `diff` the accumulated TNS advance less sample-clock advance in
2^-53 ns (R382) and `slipped` the whole samples taken out per carrier; `stage` and `fixStage` the staged low words of
`RATE_REQ` and `CCS_FIXED` (R379). -/
structure Time where
  t       : Nat := 0
  req     : Int := 0
  integ   : Int := 0
  step    : Option Int := none
  good    : Nat := 0
  diff    : Int := 0
  slipped : List (Nat × Int) := []
  hostReq : Int := 0
  stage   : Word := 0
  fixStage : Word := 0
  pulses  : List (Nat × Pulse) := []
  reqAge  : Option Nat := none
  deriving DecidableEq, Repr

/-- Thermal management beside its registers: the sensors excluded by R457 (FORCE_EXCL apart) and the last counted value of
each, in 0.125 °C. -/
structure Thm where
  excl    : List Nat := []
  counted : List (Nat × Int) := []
  deriving DecidableEq, Repr

/-- The power manager beside its registers (R440-R453). Domains are bits or keys 1-11 (R114). `hold` are the hold timers
running; `goals` the transitions in progress, true to UP, and `steps` the step each has come to (R443), absent while it
waits (R441); `tries` the retries of a rise, `retry` the domains waiting to try again, `failing` the step at which a rise
timed out, `failed` the domains given up (R445); `lost` the domains without power-good (R446). `into`, `back` and `prior`
are the state being entered, the state it was entered from and the state a Spring began in; `leaving` is set once an
entry has cleared the votes (R450); `woken` a held address match (R452); `req` the pending state request (R448); `spring`
the votes Spring set. `dvGoal` is a DVFS move in progress with the steps it has done, `dvPend` its pending slot, `dvLast`
the last target, `vpt` and `fpt` the points of voltage and frequency in force (R447). `keepHost` holds HOST up through a
device reset (R466). -/
structure Pwr where
  hold     : Word := 0
  goals    : List (Nat × Bool) := []
  steps    : List (Nat × Nat) := []
  tries    : List (Nat × Nat) := []
  retry    : Word := 0
  failing  : List (Nat × Nat) := []
  failed   : Word := 0
  lost     : Word := 0
  into     : Nat := 0
  back     : Nat := 0
  prior    : Nat := 0
  leaving  : Bool := false
  woken    : Bool := false
  req      : Option Nat := none
  spring   : Word := 0
  dvGoal   : Option (Nat × Nat) := none
  dvPend   : Option Nat := none
  dvLast   : Nat := 0
  vpt      : Nat := 0
  fpt      : Nat := 0
  keepHost : Bool := false
  deriving DecidableEq, Repr

/-- A C-plane section held by the beam engine (R230-R234): direction (true downlink), carrier, layer, sectionId, start of its
first symbol and end of its last in 1/1536 ns, its PRBs, beamId, the weights it keeps in the section weight cache, and whether
it was rejected: such a section only makes its downlink PRBs carry nothing (R234). -/
structure Sect where
  dl    : Bool
  car   : Nat
  layer : Nat
  id    : Nat
  t0    : Int
  t1    : Int
  start : Nat
  num   : Nat
  beam  : Nat
  wts   : Option (List Word)
  rej   : Bool := false
  deriving DecidableEq, Repr

/-- A ring port beside its registers: SEQ of the next cell sent and of the last one received (R326), consecutive identical
valid sets and the last valid one (R322), whether a valid set has been received, rate being trained, width aimed at, the
position told to the partner, whether it negotiates again after 10 ms (R323), lanes agreed for a narrowing (R350), layers it
drops in each direction (R339), when a VOID partial sum came whose REPAIR cell is still to pass (R330). -/
structure ArgPort where
  txSeq : Nat := 0
  rxSeq : Option Nat := none
  sets  : Nat := 0
  last  : List Word := []
  ack   : Bool := false
  rate  : Nat := 0
  width : Nat := 0
  told  : Nat := 0
  again : Bool := false
  keep  : Word := 0
  dropDl : Word := 0
  dropUl : Word := 0
  void   : Option Nat := none
  deriving DecidableEq, Repr

/-- A shed and move decision (R339) or a fail-over (R340) that waits for its slot boundary, the earliest time of that boundary
in nanoseconds of unwrapped time: shed and moved sets for DL and UL, failed rings. -/
structure RingPlan where
  start  : Nat
  shed   : List Word
  moved  : List Word
  failed : Word
  deriving DecidableEq, Repr

/-- The ring beside its registers. `ports` by port; `arcs` the lengths of the east and west arc of each ring; `disc` the
discovery phase of a head: 1 DISCOVER sent east; `exch` t1, t2 and t3 of the exchange in progress in 2^-16 ns,
`answered` whether a RESP has come since the last period, `tsMiss` exchanges without one (R333); `sums` contributor counts
by cell identifier, from the east and the west (R331), `closed` the identifiers already dealt with, `dead` identifiers whose
sums are discarded, by port (R330); `quiet` positions in Winter by ring × 1024; `links` capacity in Mb/s of narrowed links
(R339); `plans` what waits for a slot boundary, soonest first; `failed` the failed rings; `cache` the roster cache, journal class 8 (R337), `read` whether it has been read since TILE0 and
RING came up (R305). -/
structure Arg where
  ports  : List (Nat × ArgPort) := []
  arcs   : List (Nat × (Nat × Nat)) := []
  disc   : List (Nat × Nat) := []
  exch   : Option (Nat × Nat × Nat) := none
  answered : Bool := true
  tsMiss : Nat := 0
  sums   : List (Nat × (Option Nat × Option Nat)) := []
  closed : List Nat := []
  dead   : List (Nat × Nat) := []
  quiet  : List Nat := []
  links  : List (Nat × Nat) := []
  plans  : List RingPlan := []
  failed : Word := 0
  cache  : List Word := []
  read   : Bool := false
  deriving DecidableEq, Repr

/-- Reset, boot and identity beside the registers. In AON: `bootDue` a boot waits for COB, `otpBad` a word was uncorrectable
at sensing (R481), `prog` the OTP word being programmed with its bits (R482), `resetDue` a device reset waits for it, with
BOOTSEL (R466). In COB: the job running (0 none, 1 verification for the host, 2 attestation, 3 verification in boot), the
ranges it watches and whether a write landed in one (R471), SHAKE256 of the last header verified OK, whether an OK stands,
the fingerprint last derived, which ARG keeps while COB is off (R337, R343; log 121), the source of the boot in progress (1 slot A, 2 slot B, 3 ring, 0 none) and the next container offset of a ring boot. -/
structure Sec where
  bootDue  : Bool := false
  otpBad   : Bool := false
  prog     : Option (Nat × Word) := none
  resetDue : Option Nat := none
  job      : Nat := 0
  watch    : List (Nat × Nat) := []
  changed  : Bool := false
  hash     : List Byte := []
  ok       : Bool := false
  fp       : List Word := []
  source   : Nat := 0
  next     : Option Nat := none
  deriving DecidableEq, Repr

/-- The host's doors beside the registers: the eMRAM word being programmed for the host as tile, word and value (R45), LEN and
DIR of the QSPI command in progress (R46), the status of the last management-port WRITE (R41), the ports whose read of
NVM_STATUS waits for the eMRAM write, and whether a later access to NVM_DATA has set LAST since that write began (R45). -/
structure Door where
  nvm  : Option (Nat × Nat × Word) := none
  qspi : Option (Nat × Bool) := none
  mgmt : Nat := 0
  waits : List Port := []
  later : Bool := false
  deriving DecidableEq, Repr

/-- The fronthaul beside the registers: the last seqId received, keyed by port, plane and eAxC, and the next one sent,
keyed by port and eAxC (R363); the receive slot each port fills next (R373); the side that carries the uplink of a pair, by
carrier × 2 + pair, where it is not the lower port (R371); failed ports whose fault has been raised (R371). -/
structure Fhp where
  seq    : List (Nat × Nat) := []
  txSeq  : List (Nat × Nat) := []
  rxNext : List (Nat × Nat) := []
  side   : List (Nat × Nat) := []
  fault  : Word := 0
  deriving DecidableEq, Repr

/-- The DMA engine beside its registers: the urgent and the normal queue, the active channel (R394), the descriptor of each
channel as fetched (R392), the channels whose descriptor has started (R395), whose tail is being read again (R399), and
whose descriptor address holds set reserved bits. -/
structure Dma where
  urgent : List Nat := []
  normal : List Nat := []
  active : Option Nat := none
  desc   : List (Nat × List Word) := []
  begun  : List Nat := []
  again  : List Nat := []
  deriving DecidableEq, Repr

/-- The configuration a check-value context has latched (R405). -/
structure CvCfg where
  refin  : Bool := true
  refout : Bool := true
  width  : Nat := 32
  foldLen : Nat := 0
  poly   : Nat := 0x04C11DB7
  init   : Nat := 0xFFFFFFFF
  xorout : Nat := 0xFFFFFFFF
  fold   : Nat := 0
  deriving DecidableEq, Repr

/-- An entry of a context's input queue (R407). -/
inductive CvEntry where
  | start (cfg : CvCfg)
  | feed (bytes data : Nat)
  | set (v : Nat)
  deriving DecidableEq, Repr

/-- A check-value context beside its registers: the latched configuration and the input queue, oldest first. -/
structure CvCtx where
  cfg   : CvCfg := {}
  queue : List CvEntry := []
  deriving DecidableEq, Repr

/-- The check-value units: contexts, and the staging words of FEED64 and VALUE by context, writer and kind (R408, R409). -/
structure Cvu where
  ctx   : List (Nat × CvCtx) := []
  stage : List (Nat × Word) := []
  deriving DecidableEq, Repr

/-- The state of the WZ128. -/
structure State where
  /-- the commands waiting, first in first out (the model's own queue) -/
  pending : List Instr
  /-- every memory-mapped register, keyed by BAR0 offset -/
  regs    : List (Nat × Word)
  /-- the value in force of a register whose writes wait for a boundary (R187, R206, R210, R245, R282), keyed as regs -/
  force   : List (Nat × Word)
  /-- bytes of every memory in BAR0, keyed by BAR0 offset (R27), and of the memories without a window (`Mem.lean`) -/
  mem     : List Host.Cell
  /-- ECC state of each protected word, keyed by its word-aligned address (R47) -/
  ecc     : List (Nat × Ecc)
  /-- eMRAM words, keyed by tile × 2^18 + word (R45), and their ECC states -/
  nvm     : List (Nat × Word)
  nvmEcc  : List (Nat × Ecc)
  /-- what was sent to the outside, newest first -/
  out     : List Out
  /-- free values taken so far (the model's own counter, log 5) -/
  free    : Nat
  /-- shadows of R33: 0 PCIe, 1 management port, 2 + i thread THi -/
  shadow  : List (Nat × Shadow)
  th      : List (Nat × Thread)
  pipe    : Pipe
  taq     : List (Nat × Entry)
  /-- free tags, first in first out (R60) -/
  tags    : List Nat
  /-- issue order of the next TAQ entry -/
  seq     : Nat
  air     : Air
  pins    : Pins
  bda     : Bda
  los     : Los
  cal     : Cal
  jrn     : Journal
  bme     : Bme
  /-- the samples on the transmit and receive paths (R169, R189) -/
  smp     : Chain
  lin     : Lin
  time    : Time
  cap     : Cap
  pwr     : Pwr
  thm     : Thm
  /-- sections held by the beam engine, oldest first -/
  sects   : List Sect
  arg     : Arg
  sec     : Sec
  host    : Door
  fhp     : Fhp
  dma     : Dma
  cvu     : Cvu
  /-- the instruction the JTAG TAP executes (R489) -/
  tap     : Tap
  /-- serial lanes powered for 50 µs and ready to carry signal (R346) -/
  ready   : List Nat
  /-- MSI-X enabled in configuration space (R39, R467) -/
  msixEn  : Bool
  /-- the PCIe function is in D3hot (R26) -/
  d3      : Bool
  boot    : Boot
  deriving DecidableEq, Repr

/-- The device right after a power-on reset, with nothing placed (R466, R484): every register at its reset value, every memory
empty, RESET_N not yet released. -/
def State.reset : State :=
  { pending := [], regs := [], force := [], mem := [], ecc := [], nvm := [], nvmEcc := [], out := [], free := 0,
    shadow := [], th := [], pipe := {}, taq := [], tags := List.range 512, seq := 0, air := {}, pins := {}, bda := {}, los := {},
    cal := {}, jrn := {}, bme := {}, smp := {}, lin := {}, time := {}, cap := {}, pwr := {}, thm := {}, sects := [], arg := {},
    sec := {}, host := {}, fhp := {}, dma := {}, cvu := {}, tap := .bypass, ready := [], msixEn := false, d3 := false, boot := .held }

end Sys2Proof.Machine
end

