-- ==== Sys2Proof/Machine/Ops.lean ====
section
/-! DEFINITION. The named operations over the registers of the WZ128: reading and writing a register and its fields,
counters, power domains, sticky bits with their alerts and messages, event latches. Every meaning reads and writes
registers through these. -/
namespace Sys2Proof.Machine

/-! ## Registers and fields -/

/-- The value a register holds. -/
def State.reg (s : State) (off : Nat) : Word := sget resetOf s.regs off

/-- The register at `off` set to `v`. -/
def State.setReg (s : State) (off : Nat) (v : Word) : State := { s with regs := sset resetOf s.regs off v }

/-- Bits `hi` to `lo` of a register. -/
def State.fld (s : State) (off hi lo : Nat) : Nat := bits (s.reg off) hi lo

/-- Bit `i` of a register. -/
def State.flag (s : State) (off i : Nat) : Bool := bit (s.reg off) i

/-- Bits `hi` to `lo` of a register set to the low bits of `v`. -/
def State.setFld (s : State) (off hi lo v : Nat) : State := s.setReg off (setBits (s.reg off) hi lo v)

/-- Bit `i` of a register set to `b`. -/
def State.setFlag (s : State) (off i : Nat) (b : Bool) : State := s.setFld off i i b.toNat

/-- A counter field raised by `k`; counters saturate and never wrap (R12). -/
def State.count (s : State) (off hi lo k : Nat) : State :=
  s.setFld off hi lo (satAdd (hi + 1 - lo) (s.fld off hi lo) k)

/-- A 32-bit counter raised by 1. -/
def State.bump (s : State) (off : Nat) : State := s.count off 31 0 1

/-- The value in force of a register whose writes wait for a boundary. -/
def State.inForce (s : State) (off : Nat) : Word := sget resetOf s.force off

/-- The written value of a boundary-deferred register comes into force. -/
def State.apply (s : State) (off : Nat) : State := { s with force := sset resetOf s.force off (s.reg off) }

/-- Something is sent to the outside. -/
def State.send (s : State) (o : Out) : State := { s with out := o :: s.out }

/-- The next free value (log 5), and the state with the counter advanced. -/
def State.takeFree (s : State) : Word × State := (Config.freeWord s.free, { s with free := s.free + 1 })

/-! ## Power domains -/

/-- Domain codes of R114: 0 stands for AON. -/
abbrev Dom := Nat
def domMgt : Dom := 1
def domCob : Dom := 2
def domCrm : Dom := 3
/-- TILEt. -/
def domTile (t : Nat) : Dom := 4 + t
def domFh : Dom := 8
def domRing : Dom := 9
def domTime : Dom := 10
def domHost : Dom := 11

/-- The tile of path `n` (R3). -/
def tileOf (n : Nat) : Nat := n / 32
/-- The group of path `n` (R3). -/
def groupOf (n : Nat) : Nat := n / 16

/-- Power-domain STATE codes of `PWR.DOM[d].STATUS`: 0 OFF, 1 RISING, 2 UP, 3 FALLING. AON is always up (R19). -/
def State.domState (s : State) (d : Dom) : Nat := if d = 0 then 2 else s.fld (Reg.pwrDomStatus (d - 1)) 1 0

/-- Whether a power domain is up. -/
def State.up (s : State) (d : Dom) : Bool := s.domState d == 2

/-- The power domain of the block that holds register offset `off` (R14). The blocks that span domains are split by
instance: TXA, RXA and LOS by tile (the LOS registers that belong to no tile lie with TILE0), SLN by lane with its
common registers reachable while FH is up, BDA in MGT, MGT's indirect window in MGT (log 6). -/
def domOfReg (off : Nat) : Dom :=
  if off < 0x120000 then
    match off / 0x10000 with
    | 0 => 0 | 1 => 0 | 2 => 0 | 3 => 0
    | 4 => domCob
    | 5 => if off < 0x50100 then 0 else domMgt
    | 6 => domTime
    | 7 => domCob | 8 => domCob | 9 => domCob
    | 10 => domMgt
    | 11 => domCob
    | 12 =>
      let r := off - 0xC0000
      if 0x100 ≤ r ∧ r < 0x900 then domTile ((r - 0x100) / 0x200)
      else if 0x900 ≤ r ∧ r < 0x940 then domTile ((r - 0x900) / 0x10)
      else if 0x1000 ≤ r ∧ r < 0x1200 then domTile ((r - 0x1000) / 0x80)
      else domTile 0
    | 13 =>
      let r := off - 0xD0000
      if 0x1000 ≤ r ∧ r < 0x2000 then domRing else domFh
    | 14 => domFh
    | 15 => domRing
    | 16 => domCob
    | _ => domHost
  else if 0x4000000 ≤ off then
    let r := off - 0x4000000
    if r < 0x5000 ∨ (0x8000 ≤ r ∧ r < 0x8020) then domCob else domCrm
  else if off < 0x280000 then domCrm
  else if off < 0x300000 then domTile ((off - 0x280000) / 0x20000)
  else if off < 0x380000 then domCrm
  else if off < 0x400000 then domTile ((off - 0x380000) / 0x20000)
  else domCrm

/-- SLN's common registers are reachable while either of its domains is up (R14); every other register while its
domain is. -/
def State.regUp (s : State) (off : Nat) : Bool :=
  if 0xD0000 ≤ off ∧ off < 0xD1000 then s.up domFh || s.up domRing else s.up (domOfReg off)

/-- Base offset of the block that holds `off` (R27). -/
def blockBase (off : Nat) : Nat :=
  if off < 0x120000 then off / 0x10000 * 0x10000
  else if off < 0x400000 then off / 0x80000 * 0x80000
  else off / 0x100000 * 0x100000

/-- What a read returns while the domain is down: 0xDEAD_0000 plus base offset bits [27:16] (R14, R30). -/
def downValue (base : Nat) : Word := BitVec.ofNat 32 (0xDEAD0000 + base / 0x10000 % 0x1000)

/-! ## Sticky registers, alerts and messages -/

/-- A sticky register: its `ALERT_EN` offset, its `ALERT_SUM` bit, its block vector (R13, R514). `TLP.STICKY` splits
over vectors 17 and 40-55; its entry carries 17. -/
structure StickyInfo where
  en  : Nat
  sum : Nat
  vec : Nat
  deriving DecidableEq, Repr

/-- The sticky register at an offset, if there is one. -/
def stickyAt (off : Nat) : Option StickyInfo :=
  if off < 0x120000 then
    if off = 0x000004 then some ⟨0x000008, 0, 1⟩
    else if off = Reg.tlpSticky then some ⟨Reg.tlpAlertEn, 16, 17⟩
    else if off = Reg.tlpDspSticky then some ⟨Reg.tlpDspAlertEn, 17, 18⟩
    else if off = Reg.tlpAirSticky then some ⟨Reg.tlpAirAlertEn, 18, 19⟩
    else if off % 0x10000 = 0 then
      match off / 0x10000 with
      | 1 => some ⟨off + 4, 1, 2⟩ | 2 => some ⟨off + 4, 2, 3⟩ | 3 => some ⟨off + 4, 3, 4⟩ | 4 => some ⟨off + 4, 4, 5⟩
      | 5 => some ⟨off + 4, 5, 6⟩ | 6 => some ⟨off + 4, 6, 7⟩ | 7 => some ⟨off + 4, 7, 8⟩ | 8 => some ⟨off + 4, 8, 9⟩
      | 9 => some ⟨off + 4, 9, 10⟩ | 10 => some ⟨off + 4, 10, 11⟩ | 11 => some ⟨off + 4, 11, 12⟩
      | 12 => some ⟨off + 4, 12, 13⟩ | 13 => some ⟨off + 4, 13, 14⟩ | 14 => some ⟨off + 4, 14, 15⟩
      | 15 => some ⟨off + 4, 15, 16⟩ | 17 => some ⟨off + 4, 19, 20⟩
      | _ => none
    else none
  else if off < 0x200000 then none
  else if off < 0x280000 then
    if off % 0x1000 = 8 then some ⟨off + 4, 20, 21 + (off - 0x200000) / 0x10000⟩ else none
  else if off < 0x300000 then
    if off % 0x1000 = 4 then some ⟨off + 4, 21, 21 + (off - 0x280000) / 0x10000⟩ else none
  else if off < 0x380000 then
    if off % 0x1000 = 8 then some ⟨off + 4, 22, 29 + (off - 0x300000) / 0x10000⟩ else none
  else if off < 0x400000 then
    if off % 0x1000 = 4 then some ⟨off + 4, 23, 29 + (off - 0x380000) / 0x10000⟩ else none
  else if off = 0x400000 then some ⟨off + 4, 24, 37⟩
  else if off = 0x500000 then some ⟨off + 4, 25, 38⟩
  else if off = 0x600000 then some ⟨off + 4, 26, 39⟩
  else none

/-- The bits of the sticky register at `off` that feed vector `v` (R514); vector 0 takes every bit. -/
def feedMask (off v : Nat) (i : StickyInfo) : Word :=
  if v = 0 then 0xFFFFFFFF
  else if off = Reg.tlpSticky then
    if v = 17 then 0x007F0000 else if 40 ≤ v ∧ v < 56 then BitVec.ofNat 32 (2 ^ (v - 40)) else 0
  else if v = i.vec then 0xFFFFFFFF else 0

/-- The vectors to which a sticky register contributes (R39). -/
def vectorsOf (off : Nat) (i : StickyInfo) : List Nat :=
  if off = Reg.tlpSticky then 0 :: 17 :: (List.range 16).map (40 + ·) else [0, i.vec]

/-- The source of a vector: the OR of its sticky bits, each gated by its `ALERT_EN` bit (R39). Only listed registers can
differ from their reset value, and every sticky register resets to 0. -/
def State.source (s : State) (v : Nat) : Bool :=
  s.regs.any fun p =>
    match stickyAt p.1 with
    | some i => (p.2 &&& s.reg i.en &&& feedMask p.1 v i) != 0
    | none => false

/-- `GLB.ALERT_SUM`: one bit per block whose gated sticky bits are not all 0 (R13). -/
def State.alertSum (s : State) : Word :=
  s.regs.foldl (fun acc p =>
    match stickyAt p.1 with
    | some i => if (p.2 &&& s.reg i.en) != 0 then acc ||| BitVec.ofNat 32 (2 ^ i.sum) else acc
    | none => acc) 0

/-- The ALERT_N pin, true while released: low while ALERT_SUM is not 0 (R13, R491). -/
def State.alertN (s : State) : Bool := s.alertSum == 0

/-- MSI-X enabled in configuration space and HOST up, so that messages can be sent (R516, R467). -/
def State.msixOn (s : State) : Bool := s.msixEn && s.up domHost

/-- Whether a vector is masked in the MSI-X table. -/
def State.masked (s : State) (v : Nat) : Bool := s.flag (Reg.hstMsixCtl v) 0

/-- The PBA bit of a vector set to `b`. -/
def State.setPba (s : State) (v : Nat) (b : Bool) : State := s.setFlag (Reg.hstMsixPba (v / 32)) (v % 32) b

/-- A vector becomes due: its message is sent, or, while it is masked, its PBA bit is set (R39). -/
def State.notify (s : State) (v : Nat) : State :=
  if s.msixOn then (if s.masked v then s.setPba v true else s.send (.msix v)) else s

/-- The messages that follow a change of the sticky or enable register at `off`: `before` is the state before the change;
with `write` a source left at 1 is sent again (R39). A masked vector's PBA bit follows a source that returns to 0. -/
def State.settle (s before : State) (off : Nat) (i : StickyInfo) (write : Bool) : State :=
  (vectorsOf off i).foldl (fun t v =>
    if s.source v then (if write || !before.source v then t.notify v else t)
    else if before.source v && t.msixOn && t.masked v then t.setPba v false else t) s

/-- A hardware event sets sticky bits; a source that rises sends its message (R8, R39). A block that is down sets nothing. -/
def State.raise (s : State) (off : Nat) (mask : Word) : State :=
  if !s.regUp off then s
  else match stickyAt off with
  | some i => (s.setReg off (s.reg off ||| mask)).settle s off i false
  | none => s.setReg off (s.reg off ||| mask)

/-- Sticky bit `i` of the register at `off` sets. -/
def State.raiseBit (s : State) (off i : Nat) : State := s.raise off (BitVec.ofNat 32 (2 ^ i))

/-- A refused access is counted and recorded while HST is up (R28, R30). -/
def State.badAccess (s : State) (off : Nat) : State :=
  if !s.up domHost then s else
  ((s.count Reg.hstBadAccess 15 0 1).setReg Reg.hstBadOffset (BitVec.ofNat 32 (off % 0x4000000))).raiseBit Reg.hstSticky 0

/-- A write to a block that is down is discarded and counted (R14). -/
def State.downWrite (s : State) : State := (s.bump Reg.glbDownWrites).raiseBit Reg.glbSticky 1

/-- A discarded write of the timeline processor's registers is counted (R65, R68, R80, R83, R113). -/
def State.tlpBadWrite (s : State) : State := s.count Reg.tlpBadWrite 15 0 1

/-! ## Register writes by access code -/

/-- Whether a value may be placed in a field (R11). -/
def Field.accepts (f : Field) (v : Nat) : Bool := f.ok.isEmpty || f.ok.any (fun r => r.1 ≤ v && v ≤ r.2)

/-- The value a field takes when `new` is written over `old` under its access code (R8, R10-R12); `new` already holds the
old bits outside a WREG.M mask, and `ones` the bits written as 1 (W1C bits outside a mask are written as 0, R112). -/
def Field.after (f : Field) (locked : Bool) (old new ones : Word) : Nat :=
  let o := bits old f.hi f.lo
  let n := bits new f.hi f.lo
  match f.acc with
  | .rw => if f.accepts n then n else o
  | .rwl => if !locked && f.accepts n then n else o
  | .w1c => o &&& ((2 ^ (f.hi + 1 - f.lo) - 1) ^^^ bits ones f.hi f.lo)
  | .cz => if n = 0 then 0 else o
  | .cw => if new = 0 then 0 else o
  | .ro => o
  | .wo => 0
  | .w1p => 0
  | .otp => o

/-- Whether the write places a reserved value in an enumerated field (R11). -/
def Field.refused (f : Field) (locked : Bool) (new : Word) : Bool :=
  match f.acc with
  | .rw => !f.accepts (bits new f.hi f.lo)
  | .rwl => !locked && !f.accepts (bits new f.hi f.lo)
  | _ => false

/-- A register's value after a write, field by field. -/
def RegDecl.after (d : RegDecl) (locked : Bool) (old new ones : Word) : Word :=
  d.fields.foldl (fun w f => setBits w f.hi f.lo (f.after locked old new ones)) old

/-- The lock bit that binds the RWL fields of the block at `off` (R8, R466). -/
def lockOf (off : Nat) : Option (Nat × Nat) :=
  match blockBase off with
  | 0x100000 => some (Reg.tlpCtl, 31)
  | 0x0F0000 => some (Reg.argCtl, 28)
  | 0x020000 => some (Reg.clkRefCtl, 31)
  | 0x030000 => some (Reg.thmCtl, 31)
  | _ => none

def State.locked (s : State) (off : Nat) : Bool :=
  match lockOf off with
  | some (r, b) => s.flag r b
  | none => false

/-- A lock bit, once set, ignores writes of 0 (R82, R344, R439, R465). -/
def keepLock (off : Nat) (old new : Word) : Word :=
  match lockOf off with
  | some (r, b) => if off = r ∧ bit old b then putBit new b true else new
  | none => new

/-- The `BAD_WRITE` bit that records a reserved value written into a block that has one for it (R11). -/
def reservedBit (off : Nat) : Option (Nat × Nat) :=
  match blockBase off with
  | 0x060000 => some (Reg.tmuSticky, 6)
  | 0x010000 => some (Reg.pwrSticky, 2)
  | _ => none

/-- A write of `val` under `mask` to the register at `off` by its access codes alone (R8-R12, R112). A write to a place
without a register changes nothing. -/
def State.writeFields (s : State) (off : Nat) (val mask : Word) : State :=
  match declOf off with
  | none => s
  | some d =>
    let old := s.reg off
    let new := (old &&& ~~~ mask) ||| (val &&& mask)
    let lk := s.locked off
    let s1 := s.setReg off (keepLock off old (d.after lk old new (val &&& mask)))
    if d.fields.any (fun f => f.refused lk new) then
      match reservedBit off with
      | some (r, b) => s1.raiseBit r b
      | none => s1
    else s1

/-- A write to a STICKY or ALERT_EN register: W1C bits clear or the gating changes, and every vector to which it
contributes and whose source is left at 1 is sent again (R8, R39). -/
def State.writeSticky (s : State) (off : Nat) (val mask : Word) : State :=
  let s1 := s.writeFields off val mask
  match stickyAt off with
  | some i => s1.settle s off i true
  | none => s1

/-- The sticky register whose `ALERT_EN` lies at `off`, if there is one: the word before it in every block. -/
def enableOf (off : Nat) : Option (Nat × StickyInfo) :=
  if off < 4 then none
  else match stickyAt (off - 4) with
    | some i => if i.en = off then some (off - 4, i) else none
    | none => none

def State.writeEnable (s : State) (off : Nat) (val mask : Word) : State :=
  let s1 := s.writeFields off val mask
  match enableOf off with
  | some (st, i) => s1.settle s st i true
  | none => s1

/-! ## Host accesses to registers -/

/-- The always-on window of the management port (R42). -/
def alwaysOn (off : Nat) : Bool := off < 0x40000 || (0x50000 ≤ off && off < 0x50100)

/-- The PCIe link is trained (`HST.LINK` shows it, R25) and HOST is up. -/
def State.linkUp (s : State) : Bool := s.up domHost && s.fld Reg.hstLink 7 4 != 0

/-- The management port answers (R466). -/
def State.mgmtAnswers (s : State) : Bool := s.boot == .running || s.boot == .sensing

/-! ## Threads and event latches -/

def State.thread (s : State) (i : Nat) : Thread := sget (fun _ => {}) s.th i
def State.setThread (s : State) (i : Nat) (t : Thread) : State := { s with th := sset (fun _ => {}) s.th i t }

/-- Thread states of R54. -/
def stHalted : Nat := 0
def stReady : Nat := 1
def stWaitEv : Nat := 2
def stWaitT : Nat := 3
def stWaitCmpl : Nat := 4
def stWaitFence : Nat := 5
def stWaitTaq : Nat := 6
def stWaitVote : Nat := 7
def stWaitDu : Nat := 8
def stDebug : Nat := 9
def stFault : Nat := 10

def State.thState (s : State) (i : Nat) : Nat := s.fld (Reg.tlpThState i) 3 0
def State.setThState (s : State) (i v : Nat) : State := s.setFld (Reg.tlpThState i) 3 0 v

/-- The latch of event line `j` (R67). -/
def State.ev (s : State) (j : Nat) : Bool := s.flag (Reg.tlpEv (j / 32)) (j % 32)

/-- What a thread in WAIT_EV awaits: the latches by word and mask, and whether it consumes them; kept in `Thread.tag`
(word), `Thread.due` (mask) and `Thread.series` (consume) while it waits. -/
def wakesOn (t : Thread) (j : Nat) : Bool := t.tag == j / 32 && bit t.due (j % 32)

/-- A configuration register of the capture engine as latched at arm (R421). -/
def State.capCfg (s : State) (off : Nat) : Word := sget resetOf s.cap.latch off

/-- The condition of the sequencer's state (R424). -/
def State.seqCond (s : State) : Word := s.capCfg (Reg.capStCond (s.fld Reg.capStatus 26 24))

/-- The sequencer runs, in a state whose condition has type `ty`. -/
def State.seqOn (s : State) (ty : Nat) : Bool := s.fld Reg.capStatus 31 30 == 1 && bits s.seqCond 31 28 == ty

/-- The sequencer's counter counts. -/
def State.seqCount (s : State) : State := { s with cap := { s.cap with hits := s.cap.hits + 1 } }

/-- An event line set is counted where the sequencer waits for it (R424). -/
def State.seqEv (s : State) (j : Nat) : State := if s.seqOn 5 && bits s.seqCond 7 0 == j then s.seqCount else s

/-- An event line sets: its latch sets, and every thread waiting on the line has its wait condition true at once; if any
of them consumes, the latch is cleared once (R67). The latches lie in COB. -/
def State.setEv (s : State) (j : Nat) : State :=
  if !s.up domCob then s else
  let s1 := s.setFlag (Reg.tlpEv (j / 32)) (j % 32) true
  let ws := (List.range 16).filter (fun i => s1.thState i == stWaitEv && !(s1.thread i).hit && wakesOn (s1.thread i) j)
  let s2 := ws.foldl (fun t i =>
    t.setThread i { t.thread i with hit := true, hitVal := (t.reg (Reg.tlpEv (j / 32))) &&& (t.thread i).due }) s1
  (if ws.any (fun i => (s1.thread i).series) then s2.setFlag (Reg.tlpEv (j / 32)) (j % 32) false else s2).seqEv j

/-- Several event lines set. -/
def State.setEvs (s : State) (l : List Nat) : State := l.foldl State.setEv s

/-! ## Network time -/

/-- TNS, the 32-bit nanosecond counter (R376). -/
def State.tns (s : State) : Word := BitVec.ofNat 32 (s.time.t / 2 ^ 53)

/-- TFR, its fraction in units of 2^-16 ns (R6, R376). -/
def State.tfr (s : State) : Nat := s.time.t / 2 ^ 37 % 2 ^ 16

/-- Whether `due` lies in the future: delta := (due − now) mod 2^32 is 1 to 2^31, a late window of 0 (R57). -/
def future (due now : Word) : Bool := 1 ≤ (due - now).toNat && (due - now).toNat ≤ 0x80000000

end Sys2Proof.Machine
end

