-- ==== Sys2Proof/Machine/Mem.lean ====
section
/-! DEFINITION. The memories of the WZ128: the BAR0 windows (R27), the memories without a window, the eMRAM of the tiles
(R45), and their SEC-DED protection (R47-R49). Bytes are keyed by their BAR0 offset; a memory without a window lies above
the 64 MiB of BAR0 at a base of the model's own (log 7). A byte nothing has written reads 0 (log 3). -/
namespace Sys2Proof.Machine

/-- What an unlisted byte reads as (log 3). -/
def emptyByte : Nat → Byte := fun _ => 0

/-- What an unlisted word of the eMRAM, the OTP or another word memory reads as (log 3). -/
def emptyWord : Nat → Word := fun _ => 0

def imBase : Nat := 0x1000000
def dmBase : Nat := 0x1100000
def duBase : Nat := 0x1400000
def wmBase : Nat := 0x1800000
def capBase : Nat := 0x2000000
/-- The LIN coefficient store, word `w` at `linBase + 4 w` (R257). -/
def linBase : Nat := 0x10000000
/-- The live roster of the head, word `w` at `rosterBase + 4 w` (R344). -/
def rosterBase : Nat := 0x20000000

/-- The memory windows of R27 with the power domain of each (R30): base, size in bytes, domain. -/
def windows : List (Nat × Nat × Dom) :=
  [(imBase, 0x100000, domCob), (dmBase, 0x200000, domCob), (duBase, 0x200000, domCob), (wmBase, 0x800000, domCrm),
   (capBase, 0x2000000, domCob)]

/-- The window that holds an offset. -/
def windowOf (off : Nat) : Option (Nat × Nat × Dom) := windows.find? (fun w => w.1 ≤ off && off < w.1 + w.2.1)

/-- Memory-like ranges inside register blocks: SEC.BUF, the FHP host-queue slots and the SIC coefficient pages. -/
def isBufOff (off : Nat) : Bool :=
  (0x42000 ≤ off && off < 0x50000) || (0xE8000 ≤ off && off < 0xEB000) || (0x580000 ≤ off && off < 0x600000)

/-- The protected memory that holds an address (the index m of R50). -/
def eccIndex (a : Nat) : Nat :=
  if imBase ≤ a ∧ a < dmBase then 0
  else if dmBase ≤ a ∧ a < dmBase + 0x200000 then 1
  else if duBase ≤ a ∧ a < duBase + 0x200000 then 2
  else if wmBase ≤ a ∧ a < wmBase + 0x800000 then 3
  else if capBase ≤ a ∧ a < capBase + 0x2000000 then 4
  else 9

/-- The base address of protected memory m (0-4). -/
def eccBase (m : Nat) : Nat :=
  match m with
  | 0 => imBase | 1 => dmBase | 2 => duBase | 3 => wmBase | 4 => capBase | _ => 0

def State.byte (s : State) (a : Nat) : Byte := sget emptyByte s.mem a
def State.setByte (s : State) (a : Nat) (b : Byte) : State := { s with mem := sset emptyByte s.mem a b }

/-- The stored 32 data bits at a word address, low byte first (R7). -/
def State.rawWord (s : State) (a : Nat) : Word := leWord [s.byte a, s.byte (a + 1), s.byte (a + 2), s.byte (a + 3)]

def State.eccAt (s : State) (a : Nat) : Ecc := sget (fun _ => Ecc.good) s.ecc a
def State.setEcc (s : State) (a : Nat) (e : Ecc) : State := { s with ecc := sset (fun _ => Ecc.good) s.ecc a e }

/-- Bytes stored one after the other from `a`. -/
def State.putBytes (s : State) (a : Nat) : List Byte → State
  | [] => s
  | b :: bs => (s.setByte a b).putBytes (a + 1) bs

/-- A whole-word write: the word and fresh check bits (R47); it replaces a poisoned word (R91). -/
def State.putWord (s : State) (a : Nat) (w : Word) : State := (s.putBytes a (wordBytes w)).setEcc a .good

def State.putWords (s : State) (a : Nat) : List Word → State
  | [] => s
  | w :: ws => (s.putWord a w).putWords (a + 4) ws

/-- An uncorrectable error is counted, recorded and sets the sticky bit (R47, R51). -/
def State.eccUe (s : State) (m off : Nat) : State :=
  (((s.count (Reg.glbEccUe m) 15 0 1).setReg Reg.glbEccLast (BitVec.ofNat 32 (m * 2 ^ 28 + off % 2 ^ 28)))).raiseBit
    Reg.glbSticky 0

/-- A single-bit error is corrected: the flipped data bit inverted back; a check-bit error leaves the data as it is. -/
def eccFix (w : Word) (b : Nat) : Word := if b < 32 then w ^^^ BitVec.ofNat 32 (2 ^ b) else w

/-- Which of the SRAMs taken together as m = 9 holds an address. -/
def innerOf (a : Nat) : Nat :=
  if linBase ≤ a ∧ a < rosterBase then 3 else if rosterBase ≤ a then 4 else if a < 0x50000 then 0 else if a < 0xEB000 then 1 else 2

/-- What `GLB.ECC_LAST.OFFSET` records of an address: the word in memory m, or for m = 9 the internal memory's number, which the
manual does not give (log 129). -/
def eccPlace (a : Nat) : Nat :=
  if eccIndex a = 9 then (Config.memoryNumber (innerOf a)).toNat else (a - eccBase (eccIndex a)) / 4

/-- A protected read (R47): the word, whether it is poisoned, and the state after correction or counting. The raw word is
returned for a poisoned one (R48). -/
def State.readEcc (s : State) (a : Nat) : Word × Bool × State :=
  match s.eccAt a with
  | .good => (s.rawWord a, false, s)
  | .single b =>
    let w := eccFix (s.rawWord a) b
    (w, false, (s.putWord a w).bump (Reg.glbEccCe (eccIndex a)))
  | .double => (s.rawWord a, true, s.eccUe (eccIndex a) (eccPlace a))

/-- A device reader whose chapter states nothing uses 0 in place of a poisoned word (R48). -/
def State.readDev (s : State) (a : Nat) : Word × State :=
  let r := s.readEcc a
  (if r.2.1 then 0 else r.1, r.2.2)

/-- Byte `i` of `new` where it is enabled, of `old` where it is not. -/
def mergeBytes : List (Option Byte) → List Byte → List Byte
  | some n :: ns, _ :: os => n :: mergeBytes ns os
  | none :: ns, o :: os => o :: mergeBytes ns os
  | _, _ => []

/-- A write of up to four byte lanes of the word at `a`: a whole word lands as it is, a partial write is a
read-modify-write, discarded and counted when the read finds a double-bit error (R29, R49). -/
def State.writeLanes (s : State) (a : Nat) (lanes : List (Option Byte)) : State :=
  if lanes.all (·.isNone) then s
  else if lanes.all (·.isSome) then s.putWord a (leWord (mergeBytes lanes [0, 0, 0, 0]))
  else
    let r := s.readEcc a
    if r.2.1 then r.2.2 else r.2.2.putWord a (leWord (mergeBytes lanes (wordBytes r.1)))

/-- The lanes of the word at `a` among `data`, which starts at byte address `off`. -/
def lanesAt (off : Nat) (data : List (Option Byte)) (a : Nat) : List (Option Byte) :=
  (List.range 4).map (fun i => if a + i < off then none else (data[a + i - off]?).join)

/-- The word addresses that `n` bytes from `off` touch. -/
def wordsOf (off n : Nat) : List Nat := (List.range ((off + n + 3) / 4 - off / 4)).map (fun i => (off / 4 + i) * 4)

/-- A host write into a memory: every word it touches, lane by lane (R29). -/
def State.writeMem (s : State) (off : Nat) (data : List (Option Byte)) : State :=
  (wordsOf off data.length).foldl (fun t a => t.writeLanes a (lanesAt off data a)) s

/-! ## eMRAM -/

/-- eMRAM key of word `w` of tile `t`. -/
def nvmKey (t w : Nat) : Nat := t * 2 ^ 18 + w % 2 ^ 18

def State.nvmWord (s : State) (t w : Nat) : Word := sget emptyWord s.nvm (nvmKey t w)
def State.nvmEccAt (s : State) (t w : Nat) : Ecc := sget (fun _ => Ecc.good) s.nvmEcc (nvmKey t w)

/-- A word of the eMRAM programmed with fresh check bits. -/
def State.putNvm (s : State) (t w : Nat) (v : Word) : State :=
  { s with nvm := sset emptyWord s.nvm (nvmKey t w) v, nvmEcc := sset (fun _ => Ecc.good) s.nvmEcc (nvmKey t w) .good }

/-- A protected eMRAM read (R47); memories 5-8 of R50. -/
def State.readNvm (s : State) (t w : Nat) : Word × Bool × State :=
  match s.nvmEccAt t w with
  | .good => (s.nvmWord t w, false, s)
  | .single b =>
    let v := eccFix (s.nvmWord t w) b
    (v, false, (s.putNvm t w v).bump (Reg.glbEccCe (5 + t)))
  | .double => (s.nvmWord t w, true, s.eccUe (5 + t) (w % 2 ^ 18))

/-! ## Thread data space -/

/-- The byte address in the model's memory of a thread data address, if it is mapped (R55). -/
def threadAddr (ea : Nat) : Option Nat :=
  if ea < 0x200000 then some (dmBase + ea)
  else if 0x400000 ≤ ea ∧ ea < 0x600000 then some (duBase + (ea - 0x400000))
  else none

end Sys2Proof.Machine
end

