-- ==== Sys2Proof/Machine/Cap.lean ====
section
/-! DEFINITION. The capture engine (21_capture_engine.md): records, segments, arming, triggering and closing, and the
commands of the engine. A record stands in the ring once it is in the queue of R418 (log 8). What the probes and taps see
is in Machine/Probe.lean. -/
namespace Sys2Proof.Machine

/-- STATE codes of R421. -/
def capIdle : Nat := 0
def capPre : Nat := 1
def capPost : Nat := 2
def capRearm : Nat := 3

def State.capState (s : State) : Nat := s.fld Reg.capStatus 31 30
def State.setCapState (s : State) (v : Nat) : State := s.setFld Reg.capStatus 31 30 v

/-- D, the debug region in MiB (R419). -/
def State.capD (s : State) : Nat := 32 - s.fld Reg.capPart 5 0

/-- C, the ring records of one segment (R419), with the SEG_LOG2 latched at arm. -/
def State.capC (s : State) : Nat := s.capD * 65536 / 2 ^ bits (s.capCfg Reg.capCtl) 18 16 - 4

/-- Byte address of the segment in use (R419). -/
def State.capSeg (s : State) : Nat :=
  capBase + s.fld Reg.capPart 5 0 * 0x100000
    + s.fld Reg.capStatus 19 16 * (s.capD * 0x100000 / 2 ^ bits (s.capCfg Reg.capCtl) 18 16)

/-- The ring takes a record: nothing once POST_DONE has reached 1 + POST (R421). -/
def State.capTakes (s : State) : Bool :=
  s.capState == capPre || (s.capState == capPost && s.cap.post < 1 + (s.capCfg Reg.capPost).toNat)

/-- A record finds the queue full: lost, unless it is the trigger record, which waits (R418). -/
def State.capFull (s : State) (src : Nat) : Bool := 256 ≤ s.cap.depth && src != 0x300

/-- A lost record is counted, and marked in the next one written (R418). -/
def State.capLose (s : State) : State :=
  let s1 := (s.bump Reg.capLost).raiseBit Reg.capSticky 1
  { s1 with cap := { s1.cap with lostNow := true, lost := s1.cap.lost + 1 } }

/-- One record (R415): `src`, payload words. -/
def State.capRecord (s : State) (src : Nat) (p0 p1 : Word) : State :=
  let st := s.capState
  if s.capTakes && s.capFull src then s.capLose
  else if s.capTakes then
    let a := s.capSeg + 0x40 + 16 * (s.cap.total % s.capC)
    let w1 := BitVec.ofNat 32 (s.cap.lostNow.toNat * 2 ^ 31 + (st == capPost).toNat * 2 ^ 30 + s.tfr / 256 * 2 ^ 16 + src)
    let s1 := s.putWords a [s.tns, w1, p0, p1]
    { s1 with cap := { s1.cap with
        total := s1.cap.total + 1, lostNow := false, depth := s1.cap.depth + 1,
        pre := if st = capPre then s1.cap.pre + 1 else s1.cap.pre,
        post := if st = capPost then s1.cap.post + 1 else s1.cap.post } }
  else s

/-- A 64-bit trace payload of source `src`: accepted while TRACE_EN is latched and the ring takes a record, else
lost (R81, R417). -/
def State.trace (s : State) (src payload : Nat) : State :=
  if bit (s.capCfg Reg.capCtl) 26 && s.capTakes then
    let s1 := if s.capFull src then s.raiseBit Reg.tlpSticky 21 else s
    s1.capRecord src (BitVec.ofNat 32 payload) (BitVec.ofNat 32 (payload / 2 ^ 32))
  else s.raiseBit Reg.tlpSticky 21

/-- Trace of a thread (R81): emitted only while `TRACE.EN` and the thread's bit are set. -/
def State.traceTh (s : State) (th payload : Nat) : State :=
  if s.flag Reg.tlpTrace 31 && s.flag Reg.tlpTrace th then s.trace (0x200 + th) payload else s

/-- Trace of the TAQ (R81). -/
def State.traceTaq (s : State) (payload : Nat) : State :=
  if s.flag Reg.tlpTrace 31 && s.flag Reg.tlpTrace 16 then s.trace 0x210 payload else s

/-- The configuration registers of CAP as they stand. -/
def State.capSnapshot (s : State) : List (Nat × Word) := skeep s.regs (fun k => 0x90000 ≤ k && k < 0xA0000)

/-- An arm (R421): the configuration is latched, the next segment is used, recording starts in PRE from ST0. -/
def State.capStart (s : State) (fromIdle : Bool) : State :=
  let s1 := { s with cap := { s.cap with
    latch := s.capSnapshot, total := 0, pre := 0, post := 0, trig := none, lostNow := false, lost := 0,
    armTns := s.tns, held := false, noRep := false, taps := [], tapN := [], prev := [], hits := 0, timer := 0, age := 0 } }
  let n := 2 ^ bits (s1.capCfg Reg.capCtl) 18 16
  let seg := if fromIdle then 0 else (s1.fld Reg.capStatus 19 16 + 1) % n
  ((s1.setFld Reg.capStatus 19 16 seg).setFld Reg.capStatus 26 24 0).setCapState capPre

/-- A trigger that arrives outside PRE is ignored and counted (R421). -/
def State.capMissed (s : State) : State := (s.bump Reg.capMissedTrig).raiseBit Reg.capSticky 2

/-- A trigger (R421): PRE moves to POST, the trigger record is written, EV173 sets. -/
def State.capTrigger (s : State) (forced auto : Bool) : State :=
  if s.capState = capPre then
    let st := s.fld Reg.capStatus 26 24
    let s1 := { s with cap := { s.cap with trig := some (s.tns, s.tfr, forced, auto, st) } }
    let s2 := (s1.setCapState capPost).capRecord 0x300
      (BitVec.ofNat 32 (forced.toNat * 2 ^ 31 + auto.toNat * 2 ^ 30 + st)) 0
    s2.setEv 173
  else s.capMissed

/-- PRE_ACTUAL and DISCARDED of R422, with the post-trigger records written: 1 + POST of them unless DISARM closes the capture (log
154). -/
def State.capTrim (s : State) : Nat × Nat :=
  (min (min (s.capCfg Reg.capPre).toNat (s.capC - 1 - (s.capCfg Reg.capPost).toNat)) s.cap.pre, s.cap.post - s.capC)

/-- A close (R420, R421): the header of the segment, EV174, REARM. -/
def State.capClose (s : State) (disarmed : Bool) : State :=
  let tr := s.capTrim
  let lapped := tr.2 != 0
  let kept := min (tr.1 + s.cap.post) s.capC
  let first := if s.capC = 0 then 0 else (s.cap.total - kept) % s.capC
  let t := s.cap.trig.getD (0, 0, false, false, s.fld Reg.capStatus 26 24)
  let flags := 2 ^ 31 + t.2.2.1.toNat * 2 ^ 30 + t.2.2.2.1.toNat * 2 ^ 29 + lapped.toNat * 2 ^ 28
    + (s.cap.lost != 0).toNat * 2 ^ 27 + disarmed.toNat * 2 ^ 26 + t.2.2.2.2
  let hdr := [BitVec.ofNat 32 (s.cap.closed + 1), BitVec.ofNat 32 flags, t.1, BitVec.ofNat 32 t.2.1,
    BitVec.ofNat 32 tr.1, BitVec.ofNat 32 s.cap.post, BitVec.ofNat 32 first, BitVec.ofNat 32 kept,
    BitVec.ofNat 32 tr.2, BitVec.ofNat 32 s.cap.lost, s.cap.armTns, s.tns, 0, 0, 0, 0]
  let s1 := s.putWords s.capSeg hdr
  let s2 := { s1 with cap := { s1.cap with closed := s1.cap.closed + 1 } }
  let s3 := if lapped then s2.raiseBit Reg.capSticky 0 else s2
  let s4 := (s3.setEv 174).setCapState capRearm
  { s4 with cap := { s4.cap with wait := 0 } }

/-- The sequencer's counter has reached COUNT, of which 0 is taken as 1 (R424). -/
def State.hitDue (s : State) : Bool :=
  let ty := bits s.seqCond 31 28
  1 ≤ ty && ty ≤ 7 && max 1 (s.capCfg (Reg.capStCount (s.fld Reg.capStatus 26 24))).toNat ≤ s.cap.hits

/-- A force, or an expiry with `auto`: a sequencer hit that has come about as well makes the trigger (R421). -/
def State.capForced (s : State) (auto : Bool) : State :=
  if s.capState == capPre && s.hitDue && bits s.seqCond 27 24 == 8 then s.capTrigger false false
  else if auto && s.capState == capPre then (s.capTrigger true true).raiseBit Reg.capSticky 3
  else s.capTrigger true auto

/-- CARM and the CTL pulses (R117, R423): 0 ARM, 1 DISARM, 2 FORCE; a refusal answers its DETAIL code. -/
def State.capRequest (s : State) (op : Nat) : State × Option Nat :=
  let st := s.capState
  match op with
  | 0 =>
    if s.capD = 0 then (s, some 0x0601)
    else if st = capIdle then (s.capStart true, none)
    else if st = capRearm then ({ s with cap := { s.cap with held := true } }, none)
    else (s, some 0x0602)
  | 1 =>
    if st = capPre ∨ st = capPost then (s.capClose true, none)
    else if st = capRearm then ({ s with cap := { s.cap with noRep := true } }, none)
    else (s, none)
  | _ => (s.capForced false, none)

/-- A refused host ARM is discarded and counted (R423). -/
def State.capBad (s : State) : State := (s.bump Reg.capCntBadw).raiseBit Reg.capSticky 4

/-- A host request by a CTL pulse. -/
def State.capHost (s : State) (op : Nat) : State :=
  match s.capRequest op with
  | (t, none) => t
  | (t, some _) => t.capBad

/-- The CTL write behind a pulse: the RW fields land, then ARM, DISARM and FORCE act in that order (R421, R423). -/
def State.writeCapCtl (s : State) (val mask : Word) : State :=
  let s1 := s.writeFields Reg.capCtl val mask
  let w := val &&& mask
  let s2 := if bit w 31 then s1.capHost 0 else s1
  let s3 := if bit w 30 then s2.capHost 1 else s2
  if bit w 29 then s3.capHost 2 else s3

/-- A write to PART: accepted only while IDLE (R419). -/
def State.writeCapPart (s : State) (val mask : Word) : State :=
  if s.capState = capIdle then s.writeFields Reg.capPart val mask else s.capBad

/-- A write to CAP.PROBE[k]: an index outside the group's range is reserved and leaves IDX unchanged (R11, R416). -/
def probeRange (g : Nat) : Nat :=
  match g with
  | 1 => 128 | 2 => 128 | 4 => 2 | 5 => 2 | 6 => 32 | 7 => 8 | 8 => 4 | 9 => 10 | 11 => 8 | 14 => 128 | _ => 128

def State.writeProbe (s : State) (off : Nat) (val mask : Word) : State :=
  let s1 := s.writeFields off val mask
  if bits (s1.reg off) 14 8 < probeRange (bits (s1.reg off) 19 16) then s1
  else s1.setFld off 14 8 (bits (s.reg off) 14 8)

/-- The sequencer leaves its state for `next`: a state, or 8, the trigger (R424). -/
def State.capGo (s : State) (next : Nat) : State :=
  if next = 8 then s.capTrigger false false
  else if next < 8 then { (s.setFld Reg.capStatus 26 24 next) with cap := { s.cap with hits := 0, timer := 0 } }
  else s

/-- A sequencer state hits once its counter has reached COUNT (R424); a hit outside PRE is ignored, and one that would have
triggered is counted (R421). -/
def State.capHit (s : State) : State :=
  if !s.hitDue then s
  else if s.capState = capPre then s.capGo (bits s.seqCond 27 24)
  else if bits s.seqCond 27 24 = 8 then s.capMissed else s

/-- A sequencer state's timer has reached a non-zero TIMER; a hit that has come about as well is taken before it (R424). -/
def State.capTimeout (s : State) : State :=
  let t := (s.capCfg (Reg.capStTimer (s.fld Reg.capStatus 26 24))).toNat
  if s.capState = capPre ∧ t ≠ 0 ∧ t ≤ s.cap.timer then
    (if s.hitDue then s.capHit else s.capGo (bits s.seqCond 23 20))
  else s

/-- AUTO_TMO in nanoseconds. -/
def State.autoTmo (s : State) : Nat := 1000 * bits (s.capCfg Reg.capAutoTmo) 23 0

/-- AUTO_TMO has expired with no trigger yet (R421). -/
def State.capAuto (s : State) : State :=
  if bit (s.capCfg Reg.capCtl) 27 && s.cap.age == s.autoTmo then
    ({ s with cap := { s.cap with age := s.cap.age + 1 } } : State).capForced true
  else s

/-- REARM ends after 64 Cobalt cycles (R421): a held ARM or REPEAT arms again, else IDLE. -/
def State.capRearmEnd (s : State) : State :=
  if s.capState = capRearm ∧ 64 ≤ s.cap.wait then
    if s.cap.held || (s.flag Reg.capCtl 28 && !s.cap.noRep) then s.capStart false
    else { (s.setCapState capIdle) with cap := { s.cap with held := false, noRep := false } }
  else s

/-- TNS passes 0 while armed: a wrap record (R415). -/
def State.capWrap (s : State) : State := s.capRecord 0x301 (BitVec.ofNat 32 (s.time.t / 2 ^ 85 % 65536)) 0

def execSequencerHit (s : State) : Host.Outcome State Fault Refusal := .next (if s.up domCob then s.capHit else s)
def execSequencerTimeout (s : State) : Host.Outcome State Fault Refusal := .next (if s.up domCob then s.capTimeout else s)
def execAutoTrigger (s : State) : Host.Outcome State Fault Refusal := .next (if s.up domCob then s.capAuto else s)
def execCaptureClose (s : State) : Host.Outcome State Fault Refusal :=
  .next (if s.capState = capPost ∧ 1 + (s.capCfg Reg.capPost).toNat ≤ s.cap.post then s.capClose false else s)
def execRearmEnd (s : State) : Host.Outcome State Fault Refusal := .next s.capRearmEnd
def execTnsWrap (s : State) : Host.Outcome State Fault Refusal :=
  .next (if s.capState = capPre ∨ s.capState = capPost then s.capWrap else s)

end Sys2Proof.Machine
end

