-- ==== Sys2Proof/Machine/Taq.lean ====
section
/-! DEFINITION. The timed action queue: tags, completion codes, completion records and the end of an entry (R57-R66). -/
namespace Sys2Proof.Machine

/-- Completion codes of R61. -/
def ccOk : Nat := 0
def ccLate : Nat := 1
def ccStale : Nat := 2
def ccLateUnlocked : Nat := 3
def ccRegDeny : Nat := 4
def ccTimeStepped : Nat := 5
def ccCancelled : Nat := 6
def ccDown : Nat := 7
def ccPrecond : Nat := 8

/-- CLASS codes of R65. -/
def Action.cls : Action → Nat
  | .wreg _ _ _ => 0 | .pstate _ _ => 1 | .beamsel _ _ _ _ => 2 | .wswap _ _ _ => 3 | .lohop _ _ => 4
  | .gainset _ _ _ => 5 | .portsel _ _ => 6 | .signal _ => 7 | .vote _ _ => 8 | .unvote _ => 9 | .dmago _ _ => 10
  | .carm _ => 11

def State.entry? (s : State) (tag : Nat) : Option Entry := (s.taq.find? (fun p => p.1 == tag)).map (·.2)

/-- An entry written under its tag. -/
def State.setEntry (s : State) (tag : Nat) (e : Entry) : State := { s with taq := sins (sdel s.taq tag) tag e }

/-- Occupancy and its highest value shown in `TLP.TAQ_LEVEL`. -/
def State.showLevel (s : State) : State :=
  let n := s.taq.length
  let s1 := s.setFld Reg.tlpTaqLevel 9 0 n
  if s1.fld Reg.tlpTaqLevel 25 16 < n then s1.setFld Reg.tlpTaqLevel 25 16 n else s1

/-- The ring of completion records has 2^LOG2 of them (R65). -/
def State.crSize (s : State) : Nat := 2 ^ s.fld Reg.tlpCrSize 3 0

/-- Records written and not yet consumed: CR_HEAD − CR_TAIL mod 2^16 (R65). -/
def State.crUsed (s : State) : Nat := (s.fld Reg.tlpCrHead 15 0 + 65536 - s.fld Reg.tlpCrTail 15 0) % 65536

/-- Address of record `k` (R65): the ring is naturally aligned to its size. -/
def State.crAddr (s : State) (k : Nat) : Nat :=
  let base := s.fld Reg.tlpCrBase 20 4 * 16
  dmBase + (base - base % (16 * s.crSize)) + 16 * (k % s.crSize)

/-- One completion record (R65): written and CR_HEAD raised, EV175 set when the level reaches the threshold (R66), or
dropped when the ring is full. -/
def State.record (s : State) (e : Entry) (tag code : Nat) (due done : Word) (detail : Nat) : State :=
  if s.crUsed = s.crSize then (s.bump Reg.tlpCntCrDrop).raiseBit Reg.tlpSticky 19
  else
    let k := s.fld Reg.tlpCrHead 15 0
    let lap := if k / s.crSize % 2 = 0 then 1 else 0
    let w0 := BitVec.ofNat 32 (lap * 2 ^ 31 + e.periodic.toNat * 2 ^ 30 + e.act.cls * 2 ^ 24 + code * 2 ^ 16
      + e.th * 2 ^ 12 + tag)
    let w3 := BitVec.ofNat 32 (e.cookie * 2 ^ 16 + min detail 0xFFFF)
    let s1 := s.putWords (s.crAddr k) [w0, due, done, w3]
    let s2 := s1.setReg Reg.tlpCrHead (BitVec.ofNat 32 ((k + 1) % 65536))
    let th := s.fld Reg.tlpCrThresh 12 0
    if s.crUsed < th ∧ th ≤ s2.crUsed then s2.setEv 175 else s2

/-- The counter and sticky bit of a completion code (R61). -/
def State.countCode (s : State) (code : Nat) : State :=
  match code with
  | 1 => (s.bump Reg.tlpCntLate).raiseBit Reg.tlpSticky 17
  | 2 => (s.bump Reg.tlpCntStale).raiseBit Reg.tlpSticky 16
  | 3 => s.bump Reg.tlpCntRefused
  | 4 => s.bump Reg.tlpCntRefused
  | 5 => s.bump Reg.tlpCntStepped
  | 7 => s.bump Reg.tlpCntRefused
  | 8 => s.bump Reg.tlpCntRefused
  | _ => s

/-- Threads in WAIT_CMPL on a tag have their wait condition true, with `TAG_LAST` as it then reads (R115). -/
def State.wakeCmpl (s : State) (tag : Nat) : State :=
  ((List.range 16).filter (fun i => s.thState i == stWaitCmpl && (s.thread i).tag == tag && !(s.thread i).hit)).foldl
    (fun t i => t.setThread i { t.thread i with hit := true, hitVal := t.reg (Reg.tlpTagLast tag) }) s

/-- A tag is freed: the entry leaves the queue and the tag goes to the end of the free list (R60). -/
def State.freeTag (s : State) (tag : Nat) : State :=
  ({ s with taq := sdel s.taq tag, tags := s.tags ++ [tag] }).showLevel

/-- `TLP.TAG_LAST[t]` (R61). -/
def State.tagLast (s : State) (tag th code : Nat) (pending : Bool) : State :=
  s.setReg (Reg.tlpTagLast tag) (BitVec.ofNat 32 (pending.toNat * 2 ^ 31 + th * 2 ^ 16 + code))

/-- Whether an entry has no occurrence left to dispatch. -/
def Entry.spent (e : Entry) : Bool := e.closed || (e.counted && e.count == 0)

/-- One outcome of an entry is made known: counter, record (a quiet series that goes on writes none for OK), TAG_LAST,
trace, waiting CMPL; with `last` the tag is freed (R60-R62, R64, R98). -/
def State.finish (s : State) (tag : Nat) (e : Entry) (code : Nat) (due done : Word) (detail : Nat) (last : Bool) : State :=
  let s1 := s.countCode code
  let s2 := if e.periodic && e.quiet && code == 0 && !e.spent then s1 else s1.record e tag code due done detail
  let s3 := s2.tagLast tag e.th code (!last)
  let s4 := s3.traceTaq (3 * 2 ^ 60 + e.th * 2 ^ 56 + tag * 2 ^ 47 + code * 2 ^ 39)
  let s5 := s4.wakeCmpl tag
  if last then s5.freeTag tag else s5

/-- The next occurrence is taken from an entry for dispatch: the due time advances by the period and one of the count is
used (R62, R98). -/
def Entry.take (e : Entry) : Entry :=
  { e with due := e.due + BitVec.ofNat 32 e.period, count := e.count - 1, flying := e.flying + 1, ran := e.ran + 1 }

/-- A dispatched occurrence, due at `due`, completes; the entry ends with its last one (R61, R62, R64). An entry
accepted within the late window completes LATE where it would complete OK (R57). -/
def State.complete (s : State) (tag : Nat) (due : Word) (code : Nat) (done : Word) (detail : Nat) : State :=
  match s.entry? tag with
  | none => s
  | some e =>
    let e' := { e with flying := e.flying - 1, late := false }
    let c := if e.late ∧ code = ccOk then (ccLate, (done - due).toNat) else (code, detail)
    (s.setEntry tag e').finish tag e' c.1 due done c.2 (e'.spent && e'.flying == 0)

/-- `TAQ_CANCEL`, thread reset, or a fault with FLUSH_ON_FAULT (R64, R77): what has not been dispatched ends with
CANCELLED; an occurrence already dispatched completes with its own outcome, so a series with one in flight ends in two
records. -/
def State.cancel (s : State) (tag : Nat) : State :=
  match s.entry? tag with
  | none => s
  | some e =>
    if e.spent then s
    else
      let e' := { e with closed := true }
      (s.setEntry tag e').finish tag e' ccCancelled e.due s.tns 0 (e.flying == 0)

/-- Every pending entry of a thread is cancelled, in tag order. -/
def State.cancelThread (s : State) (th : Nat) : State :=
  (s.taq.filter (fun p => p.2.th == th)).foldl (fun t p => t.cancel p.1) s

/-- The outcome of an action in flight reaches its owner: the TAQ entry completes, or the thread's fence fails (R61, R71,
R100). -/
def State.settleOwner (s : State) (o : Owner) (code : Nat) (done : Word) (detail : Nat) : State :=
  match o with
  | .entry tag due => s.complete tag due code done detail
  | .thread i => if code ≤ 1 then s else s.setThread i { s.thread i with fenceFail := true }
  | .device => s

end Sys2Proof.Machine
end

