-- ==== Sys2Proof/Machine/Radio.lean ====
section
/-! DEFINITION. What the radio blocks share: the internal words the manual gives without a register, the OTP and the
regulatory table, carriers and the place of every slot and symbol in network time, states of pairs, ports and bands. -/
namespace Sys2Proof.Machine

/-! ## Maps of present keys -/

/-- The value listed at a key, if there is one. -/
def alook {α : Type} (l : List (Nat × α)) (k : Nat) : Option α := (l.find? (fun p => p.1 == k)).map (·.2)

/-- The value at a key set. -/
def aput {α : Type} (l : List (Nat × α)) (k : Nat) (v : α) : List (Nat × α) := sins (sdel l k) k v

/-! ## Internal words -/

/-- Words the manual gives the device without an offset are kept beside the registers, above the 64 MiB of BAR0; they reset
to 0 (log 9). -/
def innerBase : Nat := 0x4000000

/-- Failed elements of path n, journal class 3 (R299): word j of TX I[0..2], Q[0..2], RX I[0..1], Q[0..1]. -/
def inFailed (n j : Nat) : Nat := innerBase + 64 * n + 4 * j
/-- Corrections of ORk (R263, R303 class 4): DC, gain, phase, reserved. -/
def inOrCorr (k j : Nat) : Nat := innerBase + 0x4000 + 16 * k + 4 * j
/-- C_S of TXn as last formed at a slot boundary, signed (R175, R177). -/
def inCs (n : Nat) : Nat := innerBase + 0x5000 + 4 * n
/-- Quiet symbols of the AGC of RXn (R202). -/
def inQuiet (n : Nat) : Nat := innerBase + 0x6000 + 4 * n
/-- n_a of RXn held while the pair is in CAL (R203). -/
def inHeldStep (n : Nat) : Nat := innerBase + 0x7000 + 4 * n
/-- Pattern entry of carrier c read at its last slot boundary, and the one before (R150). -/
def inPat (c : Nat) : Nat := innerBase + 0x8000 + 4 * c
def inPatPrev (c : Nat) : Nat := innerBase + 0x8010 + 4 * c

/-- `LIN.BRANCH[b]` in force for group k (R256). -/
def inBranch (k b : Nat) : Nat := innerBase + 0x9000 + 32 * k + 4 * b
/-- `SIC.CTL.EN` in force for carrier c, as 1 while off (R238). -/
def inSicOff (c : Nat) : Nat := innerBase + 0x9200 + 4 * c

/-! ## OTP -/

/-- OTP words lie beside the eMRAM words: the fuses (R481) and their sensed shadows (R482). -/
def otpKey (w : Nat) : Nat := 4 * 2 ^ 18 + w
def otpShadowKey (w : Nat) : Nat := 5 * 2 ^ 18 + w

def State.otpShadow (s : State) (w : Nat) : Word := sget emptyWord s.nvm (otpShadowKey w)

/-- Bit `i` of the OTP lock word in force (R481). -/
def State.otpLock (s : State) (i : Nat) : Bool := bit (s.otpShadow 0x33) i

/-! ## Regulatory lock table (R483) -/

/-- A frequency in units of kHz / 2^37, in which every f_LO of R271 is whole. -/
abbrev Freq := Nat

/-- The exact f_LO of a preset's words at r = 0: 245.76 MHz × (N + FRAC / 2^32) × MUL / DIV (R271, R483). -/
def loFreq (cfg frac : Word) : Freq :=
  245760 * (bits cfg 7 0 * 2 ^ 32 + frac.toNat) * (if bit cfg 11 then 2 else 1) * 2 ^ (5 - bits cfg 10 8)

def kHz (n : Nat) : Freq := n * 2 ^ 37

/-- A table entry: port, F_LO, F_HI in kHz, PMAX in 0.01 dBm, DUTY in 0.1 %. -/
structure RegEntry where
  port : Nat
  lo   : Nat
  hi   : Nat
  pmax : Int
  duty : Nat
  deriving DecidableEq, Repr

/-- The valid entries of the regulatory table as sensed: only a listed word can hold VALID. -/
def State.regTable (s : State) : List RegEntry :=
  s.nvm.filterMap fun p =>
    let w := p.1 - otpShadowKey 0
    if otpShadowKey 0x100 ≤ p.1 ∧ p.1 < otpShadowKey 0x700 ∧ (w - 0x100) % 3 = 0 ∧ bit p.2 31 then
      let w2 := s.otpShadow (w + 2)
      some ⟨bits p.2 30 30, bits p.2 24 0, bits (s.otpShadow (w + 1)) 24 0, sgn 16 (bits w2 31 16), bits w2 9 0⟩
    else none

/-- The entries that cover a frequency on a port. -/
def State.covering (s : State) (f : Freq) (port : Nat) : List RegEntry :=
  s.regTable.filter (fun e => e.port == port && kHz e.lo ≤ f && f ≤ kHz e.hi)

/-- PMAX and the duty limit for a frequency on a port: the least of the covering entries, −327.68 dBm and 0 without one. -/
def State.limits (s : State) (f : Freq) (port : Nat) : Int × Nat :=
  match s.covering f port with
  | [] => (-32768, 0)
  | e :: r => r.foldl (fun a x => (min a.1 x.pmax, min a.2 x.duty)) (e.pmax, e.duty)

/-! ## Pairs, ports and bands -/

def psOff : Nat := 0
def psStby : Nat := 1
def psWarm : Nat := 2
def psTx : Nat := 3
def psRx : Nat := 4
def psFdx : Nat := 5
def psCal : Nat := 6
def psFault : Nat := 7

/-- The state a pair has reached (R154). -/
def State.ps (s : State) (n : Nat) : Nat := s.fld (Reg.tlpPs n) 3 0

/-- The rows a pair has still to run. -/
def State.chain (s : State) (n : Nat) : List Nat := ((alook s.air.pairs n).map (·.chain)).getD []

/-- The sixteen paths of a group (R3). -/
def pathsOf (k : Nat) : List Nat := (List.range 16).map (16 * k + ·)

/-- Above STBY: WARM, TX, RX, FDX or CAL. -/
def aboveStby (st : Nat) : Bool := 2 ≤ st && st ≤ 6

/-- Moving up out of STBY. -/
def State.rising (s : State) (n : Nat) : Bool := s.ps n == psStby && (s.chain n).head? == some psWarm

/-- A transmit state. -/
def emits (st : Nat) : Bool := st == psTx || st == psFdx
/-- A receive state. -/
def takes (st : Nat) : Bool := st == psRx || st == psFdx

/-- The active port of a group: 0 LB, 1 HB (R110), held in `TXA[16k].STATUS.PORT`. -/
def State.port (s : State) (k : Nat) : Nat := s.fld (Reg.txaStatus (16 * k)) 8 8

/-- The band in force for a group (R463). -/
def State.band (s : State) (k : Nat) : Nat := s.fld (Reg.thmRegion k) 26 24

/-- A pair is in a transition, or counts as in one until its tile's journal and bias tables are loaded (R155, R305, R313). -/
def State.moving (s : State) (n : Nat) : Bool :=
  s.chain n != [] || (s.up (domTile (tileOf n)) &&
    (s.flag Reg.bdaStatus (4 + tileOf n) || !bit s.cal.loaded (tileOf n)))

/-- A pair stands before a transmit row that has not started (R158): it is named by a deferred entry, or waits for the other
pairs of its action. -/
def State.heldRow (s : State) (n : Nat) : Bool :=
  match alook s.air.pairs n with
  | some p => s.air.runs.any (fun r => r.id == p.act && r.arrived.contains n && !r.passed)
  | none => false

/-- A pair is in a transition at this moment (R153, R155): a row of its chain runs, or its tile still loads. -/
def State.inRow (s : State) (n : Nat) : Bool :=
  s.moving n && (!s.heldRow n || s.flag Reg.bdaStatus (4 + tileOf n) || !bit s.cal.loaded (tileOf n))

/-- The path circuits of TILE0 stay gated off while CRM is down (R18). -/
def State.powered (s : State) (n : Nat) : Bool := s.up (domTile (tileOf n)) && (tileOf n != 0 || s.up domCrm)

/-- LO_OK of Sk (R279), read from `LOS.S[k].STATUS` and `LOS.CCS[n].STATUS`. -/
def State.loOk (s : State) (k : Nat) : Bool :=
  s.flag (Reg.losSStatus k) 30 && !s.flag (Reg.losSStatus k) 29 && s.flag (Reg.losSStatus k) 26
    && s.flag (Reg.losCcsStatus (k / 2)) 31

/-- The words in force of Sk and their frequency (R272). -/
def State.loCfg (s : State) (k : Nat) : Word × Word := (alook s.los.cfg k).getD (0, 0)
def State.loF (s : State) (k : Nat) : Freq := loFreq (s.loCfg k).1 (s.loCfg k).2

/-! ## Carriers (R145, R150) -/

def State.aligned (s : State) : Bool := s.flag Reg.tlpAirCtl 1

/-- `AIR_CFG[c]` in force. -/
def State.carCfg (s : State) (c : Nat) : Word := s.inForce (Reg.tlpAirCfg c)

/-- A carrier is enabled: EN in force, an alignment has taken effect, and CC1 only with CC0. -/
def State.carOn (s : State) (c : Nat) : Bool :=
  s.aligned && bit (s.carCfg c) 31 && (c == 0 || bit (s.carCfg 0) 31)

def State.mu (s : State) (c : Nat) : Nat := bits (s.carCfg c) 25 24

/-- Group k is carried by the enabled carrier c. -/
def State.carries (s : State) (c k : Nat) : Bool := s.carOn c && bit (s.carCfg c) (16 + k)

/-- Group k is in an enabled carrier. -/
def State.inCarrier (s : State) (k : Nat) : Bool := s.carries 0 k || s.carries 1 k

/-- The carrier whose slot boundaries are the boundaries common to the carriers of a group: the one with the longer slot
(M24). -/
def State.slotCar (s : State) (k : Nat) : Option Nat :=
  if s.carries 0 k then (if s.carries 1 k && s.mu 1 < s.mu 0 then some 1 else some 0)
  else if s.carries 1 k then some 1 else none

/-- The enabled carrier of a group with the shorter symbol period (R193, R202). -/
def State.symCar (s : State) (k : Nat) : Option Nat :=
  if s.carries 0 k then (if s.carries 1 k && s.mu 0 < s.mu 1 then some 1 else some 0)
  else if s.carries 1 k then some 1 else none

/-! ## Places in time (R148, R149)
Times are counted in units of 1/1536 ns, in which a path sample is 3125 units. -/

/-- Units of one frame. -/
def frameU : Nat := 15360000000

/-- Start of symbol `i` of the frame (counted over the whole frame), in units from the frame start. -/
def symStart (mu i : Nat) : Nat :=
  let per := 7 * 2 ^ mu
  let r := i % per
  3125 * (245760 * (i / per) + (if r = 0 then 0 else 256) + r * (35072 / 2 ^ mu))

/-- The first symbol that starts at or after `x` units into the frame; 140 × 2^mu is the first of the next frame. -/
def symFrom (mu x : Nat) : Nat :=
  let per := 7 * 2 ^ mu
  let half := 3125 * 245760
  let r := x % half
  let len := 3125 * (35072 / 2 ^ mu)
  let i := if r = 0 then 0 else max 1 ((r + len - 1 - 3125 * 256) / len)
  x / half * per + min i per

/-- The symbol in progress `x` units into the frame. -/
def symAt (mu x : Nat) : Nat :=
  let n := symFrom mu x
  let i := if symStart mu n = x then n else n - 1
  min i (140 * 2 ^ mu - 1)

/-- Unwrapped network time in units of 1/1536 ns. -/
def State.nowU (s : State) : Nat := s.time.t * 1536 / 2 ^ 53

/-- Unwrapped start of the frame in progress, in units. -/
def State.frameStart (s : State) : Int :=
  (((s.time.t / 2 ^ 53 : Nat) : Int) - ((s.tns - s.reg Reg.tlpAirFrameTns).toNat : Int)) * 1536

/-- Units since the start of the frame in progress. -/
def State.sinceFrame (s : State) : Nat := ((s.nowU : Int) - s.frameStart).toNat

/-- The symbol of the frame in progress on carrier c. -/
def State.symNow (s : State) (c : Nat) : Nat := symAt (s.mu c) s.sinceFrame

/-- The slot of the frame in progress on carrier c. -/
def State.slotNow (s : State) (c : Nat) : Nat := s.symNow c / 14

/-- `TLP.AIR_POS[c]` (R168): the place of network time on an enabled carrier. -/
def State.airPos (s : State) (c : Nat) : Word :=
  if s.carOn c then
    let i := s.symNow c
    let slot := i / 14
    BitVec.ofNat 32 (((s.reg Reg.tlpAirAfc).toNat % 1024) * 2 ^ 22 + slot / 2 ^ s.mu c * 2 ^ 18 + slot * 2 ^ 11 + i % 14)
  else 0

/-- The pattern entry of the slot in progress on carrier c (R150). -/
def State.patEntry (s : State) (c : Nat) : Nat :=
  ((s.reg Reg.tlpAirAfc).toNat % 2 * 10 * 2 ^ s.mu c + s.slotNow c) % max 1 (bits (s.carCfg c) 6 0)

/-- Type of symbol `l` in a pattern word: 0 G, 1 D, 2 U, 3 F (R151). -/
def typeOf (w : Word) (l : Nat) : Nat := bits w (2 * l + 1) (2 * l)

/-- The type of the symbol in progress on carrier c. -/
def State.symType (s : State) (c : Nat) : Nat := typeOf (s.reg (inPat c)) (s.symNow c % 14)

/-- The type of the symbol on carrier c that holds the last instant before the symbol in progress on carrier `b` began. -/
def State.typeBefore (s : State) (b c : Nat) : Nat :=
  let x := symStart (s.mu b) (s.symNow b)
  if x = 0 then typeOf (s.reg (inPatPrev c)) 13
  else
    let i := symAt (s.mu c) (x - 1)
    typeOf (s.reg (if i / 14 = s.slotNow c then inPat c else inPatPrev c)) (i % 14)

/-- The instant of network time that is `due`, unwrapped, in units. -/
def State.dueU (s : State) (due : Word) : Int := (((s.time.t / 2 ^ 53 : Nat) : Int) + tdiff due s.tns) * 1536

/-- The first symbol of carrier c that begins at or after `x` (unwrapped units), and the start of its frame. -/
def State.symAfter (s : State) (c : Nat) (x : Int) : Nat × Int :=
  let f := s.frameStart + (x - s.frameStart) / frameU * frameU
  (symFrom (s.mu c) (x - f).toNat, f)

/-- The end of the first symbol of carrier c that begins at or after `x` (R158). -/
def State.symEnd (s : State) (c : Nat) (x : Int) : Int :=
  let r := s.symAfter c x
  r.2 + symStart (s.mu c) (r.1 + 1)

/-- The first slot boundary of carrier c at or after `x` (R159). -/
def State.slotFrom (s : State) (c : Nat) (x : Int) : Int :=
  let r := s.symAfter c x
  r.2 + symStart (s.mu c) ((r.1 + 13) / 14 * 14)

/-- A boundary at `x` units of unwrapped time is silent after a time step (R147). -/
def State.silentAt (s : State) (x : Int) : Bool :=
  match s.air.silent with
  | none => false
  | some (t, incl) => if incl then x * 2 ^ 53 ≤ (t : Int) * 1536 else x * 2 ^ 53 < (t : Int) * 1536

/-! ## After a forced step of network time (R383; log 124) -/

/-- Carrier c is silent from a step that was forced while pairs ran to its first symbol boundary 2 µs or more after it. -/
def State.hush (s : State) (c : Nat) : State :=
  if s.carOn c then
    let r := s.symAfter c ((s.nowU : Int) + 2000 * 1536)
    { s with smp := { s.smp with hush := aput s.smp.hush c (r.2 + symStart (s.mu c) r.1) } }
  else s

/-- Carrier c is silent at x after such a step. -/
def State.hushedCar (s : State) (c : Nat) (x : Int) : Bool :=
  match alook s.smp.hush c with
  | some e => x < e && e - x < frameU
  | none => false

/-- A carrier of path n is silent at x: the path emits zero codes. -/
def State.hushed (s : State) (n : Nat) (x : Int) : Bool :=
  [0, 1].any (fun c => s.carries c (groupOf n) && s.hushedCar c x)

end Sys2Proof.Machine
end

