-- ==== Sys2Proof/Machine/Path.lean ====
section
/-! DEFINITION. The paths: gain and power control of TXn (07_transmit_path.md), attenuator, AGC and gain of RXn
(08_receive_path.md), mute sources, and the registers whose writes wait for a boundary (R187, R206, R282). The samples
themselves are in Machine/Signal.lean and Machine/Sample.lean. -/
namespace Sys2Proof.Machine

/-! ## Sample arithmetic (R171, R176, R181, R201) -/

/-- `num / 2^k` rounded, ties to even. -/
def rne (num : Int) (k : Nat) : Int :=
  let d : Int := (2 ^ k : Nat)
  let q := num / d
  let r := num % d
  if d < 2 * r ∨ (2 * r = d ∧ q % 2 = 1) then q + 1 else q

/-- One component of the carrier sum (R171): Q1.15 scales, Q1.23 samples; the sum, and whether it was clamped. -/
def carrierSum (cs0 cs1 : Word) (u0 u1 : Int) : Int × Bool :=
  let v := rne (sgn 16 cs0.toNat * u0 + sgn 16 cs1.toNat * u1) 15
  (satS 24 v, satS 24 v != v)

/-- The DAC codes of a sample (R181), and whether one was clamped. -/
def dacCodes (iq dc : Word) (xi xq : Int) : Int × Int × Bool :=
  let vq := sgn 16 (bits iq 15 0) * xq + sgn 16 (bits iq 31 16) * xi
  let ci := rne xi 8 + sgn 16 (bits dc 15 0)
  let cq := rne vq 22 + sgn 16 (bits dc 31 16)
  (satS 16 ci, satS 16 cq, satS 16 ci != ci || satS 16 cq != cq)

/-- The Q1.23 value of a 14-bit ADC code (R194). -/
def adcValue (code : Int) : Int := code * 1024

/-- Division rounded to the nearest, ties away from zero (C_S of R175). -/
def divAway (n : Int) (d : Nat) : Int :=
  if n < 0 then -((2 * (-n) + d) / (2 * d)) else (2 * n + d) / (2 * d)

/-! ## Samples on their way -/

def State.txc (s : State) (n : Nat) : TxChain := sget (fun _ => {}) s.smp.tx n
def State.setTxc (s : State) (n : Nat) (c : TxChain) : State :=
  { s with smp := { s.smp with tx := sset (fun _ => {}) s.smp.tx n c } }
def State.rxc (s : State) (n : Nat) : RxChain := sget (fun _ => {}) s.smp.rx n
def State.setRxc (s : State) (n : Nat) (c : RxChain) : State :=
  { s with smp := { s.smp with rx := sset (fun _ => {}) s.smp.rx n c } }

/-- D of RXn as `DC_EST` shows it: Q1.15, rounded, saturating (R197; log 110). -/
def dcWord (d : Int × Int) : Word :=
  BitVec.ofNat 32 (unsgn 16 (satS 16 (rne d.1 45)) + 2 ^ 16 * unsgn 16 (satS 16 (rne d.2 45)))

/-- D of RXn is set to a Q1.15 word (R197). -/
def State.loadDc (s : State) (n : Nat) (w : Word) : State :=
  (s.setReg (Reg.rxdDcEst n) w).setRxc n { s.rxc n with d := (sgn 16 (bits w 15 0) * 2 ^ 45, sgn 16 (bits w 31 16) * 2 ^ 45) }

/-! ## Transmit gain (R175-R177, R184) -/

/-- Deviation in mV of a tile's VDD_RF2 reading from 1,800 mV (R175); 0 while the tile is down (R454). -/
def State.railDev (s : State) (t : Nat) : Int :=
  if s.up (domTile t) then (s.fld (Reg.pwrRf2Mon t) 11 0 : Int) - 1800 else 0

/-- a_sum of R175, from the values in force. -/
def State.txSum (s : State) (n : Nat) : Int :=
  let k := groupOf n
  (s.fld (Reg.txdAttCmd n) 15 0 : Int) + sgn 16 (s.inForce (Reg.txdTcomp n (s.port k) (s.band k))).toNat
    + (s.reg (inCs n)).toInt + (s.fld (Reg.txdBackoff n) 15 0 : Int)

/-- a_eff of R175. -/
def attEff (sum : Int) (areg : Nat) : Nat :=
  if 4000 < areg then 4000 else min 4000 (max sum.toNat areg)

/-- The attenuation shown and applied after one of its terms changed (R175-R177). -/
def State.refreshTx (s : State) (n : Nat) : State :=
  let sum := s.txSum n
  let areg := s.fld (Reg.txdReg n) 15 0
  let a := attEff sum areg
  let s1 := (s.setFld (Reg.txdStatus n) 11 0 a).setFld (Reg.txdStatus n) 21 16 (a / 100)
  let s2 := if s.up (domTile (tileOf n)) then s1.setFld (Reg.txaStatus n) 21 16 (a / 100) else s1
  let s3 := if sum < 0 ∨ 4000 < sum then s2.raiseBit (Reg.txdSticky n) 1 else s2
  if sum < (areg : Int) then s3.raiseBit (Reg.txdSticky n) 2 else s3

/-- PMAX and a_reg of a path from the table and the frequency in force (R184). The mute REG_POWER begins at once and ends
only here, at a slot boundary (R179). -/
def State.refreshReg (s : State) (n : Nat) (release : Bool) : State :=
  let k := groupOf n
  let pmax := (s.limits (s.loF k) (s.port k)).1
  let pfs := s.inForce (Reg.txdPfs n)
  let p := sgn 16 (if s.port k = 0 then bits pfs 15 0 else bits pfs 31 16)
  let areg := (p - pmax).toNat
  let s1 := s.setReg (Reg.txdReg n) (BitVec.ofNat 32 (unsgn 16 pmax * 65536 + areg % 65536))
  if 4000 < areg then s1.setFlag (Reg.txdStatus n) 27 true
  else if release then s1.setFlag (Reg.txdStatus n) 27 false else s1

/-- Slot-boundary terms of a path's attenuation: C_S, PFS, PMAX (R177), then the new a_eff. -/
def State.slotTx (s : State) (n : Nat) : State :=
  let slope := sgn 8 (s.inForce (Reg.txdScomp n)).toNat
  let cs := divAway (slope * s.railDev (tileOf n)) 10
  (((s.setReg (inCs n) (BitVec.ofInt 32 cs)).refreshReg n true)).refreshTx n

/-! ## Receive gain and AGC (R201-R203) -/

/-- n_a of RXn. -/
def State.rxStep (s : State) (n : Nat) : Nat := s.fld (Reg.rxdStatus n) 20 16

/-- a_sum of R201, from the values in force. -/
def State.rxSum (s : State) (n : Nat) : Int :=
  let k := groupOf n
  let g := s.inForce (Reg.rxdGcal n)
  3100 - 100 * (s.rxStep n : Int) + (s.fld (Reg.rxdAttCmd n) 15 0 : Int)
    + sgn 16 (if s.port k = 0 then bits g 15 0 else bits g 31 16)
    + sgn 16 (s.inForce (Reg.rxdTcomp n (s.port k) (s.band k))).toNat
    - (if bit s.pins.lnaByp (n / 8) then ((s.inForce (Reg.rxdLnaComp n)).toNat : Int) else 0)

/-- The digital attenuation shown after one of its terms changed (R201). -/
def State.refreshRx (s : State) (n : Nat) : State :=
  let sum := s.rxSum n
  let s1 := s.setFld (Reg.rxdStatus n) 13 0 sum.toNat
  if sum < 0 then s1.raiseBit (Reg.rxdSticky n) 1 else s1

/-- n_a set; a change is counted (R202). -/
def State.setStep (s : State) (n v : Nat) : State :=
  if s.rxStep n = v then s
  else
    let s1 := (s.setFld (Reg.rxdStatus n) 20 16 v).bump (Reg.rxdAgcChg n)
    (if s.up (domTile (tileOf n)) then s1.setFld (Reg.rxaStatus n) 20 16 v else s1).refreshRx n

/-- One AGC step at a symbol boundary (R202): `meas` is the measurement of the symbol just ended (hits, clips, peak), when
that symbol was to be measured. -/
def State.agcStep (s : State) (n : Nat) (meas : Option (Nat × Nat × Nat)) : State :=
  let a := s.reg (Reg.rxdAgc n)
  match bits a 31 30 with
  | 0 => s.setStep n (bits a 28 24)
  | 1 =>
    match meas with
    | none => s
    | some (hits, clips, peak) =>
      let cur : Int := s.rxStep n
      let quiet := (s.reg (inQuiet n)).toNat
      let r : Int × Nat :=
        if s.fld (Reg.rxdAgcCnt n) 15 0 ≤ hits ∨ 0 < clips then (cur + bits a 6 4, 0)
        else if peak < s.fld (Reg.rxdAgcThr n) 13 0 then
          (if bits a 3 0 ≤ quiet + 1 then (cur - 1, 0) else (cur, quiet + 1))
        else (cur, 0)
      let v := min (bits a 20 16 : Int) (max (bits a 12 8) r.1)
      let s1 := (s.setReg (inQuiet n) (BitVec.ofNat 32 r.2)).setStep n v.toNat
      if r.1 ≠ v then s1.raiseBit (Reg.rxdSticky n) 4 else s1
  | _ => s

/-- A write to `RXD[n].AGC`: MIN_STEP above MAX_STEP leaves both unchanged (R203). -/
def State.writeAgc (s : State) (off : Nat) (val mask : Word) : State :=
  let s1 := s.writeFields off val mask
  let w := s1.reg off
  if bits w 20 16 < bits w 12 8 then
    (s1.setFld off 20 16 (bits (s.reg off) 20 16)).setFld off 12 8 (bits (s.reg off) 12 8)
  else s1

/-- What a sample did on path n enters the overload counters (R186, R205), the counts of CFR (R253), the DPD clamps of the slot
(R262) and the clamps of SIC (R241). -/
def State.tally (s : State) (m : PathMeas) : State :=
  let n := m.n % 128
  let s0 := (s.count (Reg.linPathCfrCnt n) 15 0 m.peaks).count (Reg.linPathCfrCnt n) 31 16 m.hard
  let si := if 0 < m.sic then (s0.count Reg.sicCntClamp 31 0 m.sic).raiseBit Reg.sicSticky 1 else s0
  let sl := { si with lin := { si.lin with clips :=
    if m.txDpd = 0 then si.lin.clips else aput si.lin.clips n ((alook si.lin.clips n).getD 0 + m.txDpd) } }
  let s1 := (sl.count (Reg.txdClip0 n) 15 0 m.txSum).count (Reg.txdClip0 n) 31 16 m.txI3
  let s2 := (s1.count (Reg.txdClip1 n) 15 0 m.txDpd).count (Reg.txdClip1 n) 31 16 m.txDac
  let s3 := if 0 < m.txDpd + m.txDac then s2.raiseBit (Reg.txdSticky n) 0 else s2
  let s4 := (s3.count (Reg.rxdClip0 n) 15 0 m.rxAdc).count (Reg.rxdClip0 n) 31 16 m.rxFront
  let s5 := (s4.count (Reg.rxdClip1 n) 15 0 m.rxSic).count (Reg.rxdClip1 n) 31 16 m.rxDec
  let s6 := if 0 < m.rxAdc then s5.raiseBit (Reg.rxdSticky n) 3 else s5
  if 0 < m.rxFront + m.rxSic + m.rxDec then s6.raiseBit (Reg.rxdSticky n) 0 else s6

/-- What TXA and RXA of tile t show of their paths, after the tile has risen: the steps the paths hold (R183, R203). -/
def State.showSteps (s : State) (t : Nat) : State :=
  (List.range 32).foldl (fun u i =>
    let n := 32 * t + i
    (u.setFld (Reg.txaStatus n) 21 16 (u.fld (Reg.txdStatus n) 21 16)).setFld (Reg.rxaStatus n) 20 16 (u.rxStep n)) s

/-! ## Mute sources (R179) -/

/-- `TXD[n].STATUS` with its mute sources: FORCE as in force, STATE from the pair, LOCK and DUTY from `TLP.PS[n]`. -/
def State.txdStatus (s : State) (n : Nat) : Word :=
  let w := s.reg (Reg.txdStatus n)
  let st := !(emits (s.ps n)) || s.inRow n
  putBit (putBit (putBit (putBit w 31 (bit (s.inForce (Reg.txdCtl n)) 8)) 30 st) 29 (s.flag (Reg.tlpPs n) 20))
    28 (s.flag (Reg.tlpPs n) 21)

/-- A pair emits: no mute source applies. -/
def State.emitting (s : State) (n : Nat) : Bool := bits (s.txdStatus n) 31 27 == 0

/-! ## Registers that wait for a slot boundary -/

/-- The group whose slot boundary a write to the register at `off` waits for (R187, R206, R254, R282). -/
def deferGroup (off : Nat) : Option Nat :=
  let r := off % 0x1000
  if 0x200000 ≤ off ∧ off < 0x280000 then
    if r = 0x14 ∨ r = 0x18 ∨ r = 0x1C ∨ r = 0x20 ∨ (0x30 ≤ r ∧ r < 0x40) ∨ (0x100 ≤ r ∧ r < 0x140) then
      some ((off - 0x200000) / 0x10000) else none
  else if 0x300000 ≤ off ∧ off < 0x380000 then
    if r = 0 ∨ r = 0x14 ∨ r = 0x18 ∨ r = 0x1C ∨ (0x40 ≤ r ∧ r < 0x88) ∨ (0x100 ≤ r ∧ r < 0x140) then
      some ((off - 0x300000) / 0x10000) else none
  else if 0x600100 ≤ off ∧ off < 0x600120 then some ((off - 0x600100) / 4)
  else if 0x620000 ≤ off ∧ off < 0x622000 then some ((off - 0x620000) / 0x400)
  else if 0xC1000 ≤ off ∧ off < 0xC1200 then some ((off - 0xC1000) / 64)
  else if 0xC0100 ≤ off ∧ off < 0xC0900 ∧ 0xC0 ≤ off % 0x100 then some ((off - 0xC0100) / 0x100)
  else none

/-- A deferred value comes into force, with what its change does: DELAY_JUMP (R174, R200), D loaded (R197). -/
def State.land (s : State) (off : Nat) : State :=
  let old := s.inForce off
  let s1 := s.apply off
  let r := off % 0x1000
  if 0x200000 ≤ off ∧ off < 0x280000 then
    let n := (off - 0x200000) / 0x1000
    if r = 0x18 ∧ bits old 21 16 ≠ bits (s.reg off) 21 16 ∧ s.emitting n then s1.raiseBit (Reg.txdSticky n) 4 else s1
  else if 0x300000 ≤ off ∧ off < 0x380000 then
    let n := (off - 0x300000) / 0x1000
    if r = 0x14 then
      if bits old 20 16 ≠ bits (s.reg off) 20 16 ∧ (takes (s.ps n) || s.ps n == psCal) then
        s1.raiseBit (Reg.rxdSticky n) 2
      else s1
    else if r = 0 then
      if bits (s.reg off) 11 10 = 0 then s1.loadDc n 0 else s1
    else if r = 0x80 + 4 * s.port (groupOf n) then
      if bits (s1.inForce (Reg.rxdCtl n)) 11 10 = 0 then s1 else s1.loadDc n (s.reg off)
    else s1
  else s1

/-- The gains of the path at a register that has come into force. -/
def State.refreshAt (s : State) (off : Nat) : State :=
  if 0x200000 ≤ off ∧ off < 0x280000 then s.slotTx ((off - 0x200000) / 0x1000)
  else if 0x300000 ≤ off ∧ off < 0x380000 then s.refreshRx ((off - 0x300000) / 0x1000)
  else s

/-- Gains, limits and duty limit of a group in no enabled carrier follow their terms at once (R166, R177, R184, R201). -/
def State.idlePaths (s : State) : State :=
  (List.range 8).foldl (fun t k =>
    let u := if t.up domCob then t.setFld (Reg.tlpDuty k) 25 16 (t.limits (t.loF k) (t.port k)).2 else t
    if u.inCarrier k || !u.up domCrm then u else (pathsOf k).foldl (fun v n => (v.slotTx n).refreshRx n) u) s

/-- Registers of group k whose written value is not yet in force, and its `DC_INIT` registers written since the last boundary,
changed or not: D is loaded again when such a write takes effect (R197). -/
def State.waiting (s : State) (k : Nat) : List Nat :=
  ((s.regs.map (·.1) ++ s.force.map (·.1)).filter (fun off => s.reg off != s.inForce off) ++ s.air.reload).eraseDups.filter
    (fun off => deferGroup off == some k)

/-- The `DC_INIT` writes of group k have taken effect. -/
def State.reloaded (s : State) (k : Nat) : State :=
  { s with air := { s.air with reload := s.air.reload.filter (fun off => deferGroup off != some k) } }

/-- The slot boundary of group k: every waiting register comes into force (R187, R206, R282). -/
def State.landGroup (s : State) (k : Nat) : State := ((s.waiting k).foldl State.land s).reloaded k

/-- A register that waits for a slot boundary is set: at once in force when its group is in no enabled carrier. -/
def State.putDeferred (s : State) (off : Nat) (v : Word) : State :=
  let s1 := s.setReg off v
  match deferGroup off with
  | some k => if s.inCarrier k then s1 else (s1.land off).refreshAt off
  | none => s1

/-- `RXD[n].DC_INIT[p]`. -/
def isDcInit (off : Nat) : Bool := 0x300000 ≤ off && off < 0x380000 && (off % 0x1000 == 0x80 || off % 0x1000 == 0x84)

/-- A write to `DC_INIT` waits for its boundary even where it changes nothing (R197). -/
def State.noteReload (s : State) (off : Nat) : State :=
  if isDcInit off && !s.air.reload.contains off then { s with air := { s.air with reload := off :: s.air.reload } } else s

/-- A write to such a register. -/
def State.writeDeferred (s : State) (off : Nat) (val mask : Word) : State :=
  let s1 := s.writeFields off val mask
  match deferGroup off with
  | some k => if s.inCarrier k then s1.noteReload off else (s1.land off).refreshAt off
  | none => s1

/-- A write to `TXD[n].CTL`: FORCE begins at once and ends at the next symbol boundary (R179). -/
def State.writeTxdCtl (s : State) (n : Nat) (val mask : Word) : State :=
  let s1 := s.writeFields (Reg.txdCtl n) val mask
  if s1.flag (Reg.txdCtl n) 8 || !s.inCarrier (groupOf n) then s1.apply (Reg.txdCtl n) else s1

/-- A write to `ATT_CMD` of a path takes effect at once (R177). -/
def State.writeAtt (s : State) (off : Nat) (val mask : Word) : State :=
  let s1 := s.writeFields off val mask
  if off < 0x280000 then s1.refreshTx ((off - 0x200000) / 0x1000) else s1.refreshRx ((off - 0x300000) / 0x1000)

/-- GAINSET (R109): dir 1 the transmit, 2 the receive paths. -/
def State.gainset (s : State) (dir : Nat) (paths : List Nat) (atten : Nat) : State :=
  paths.foldl (fun t n =>
    if dir = 1 then (t.setFld (Reg.txdAttCmd n) 15 0 atten).refreshTx n
    else (t.setFld (Reg.rxdAttCmd n) 15 0 atten).refreshRx n) s

/-- The LNA bypass pins of group k follow `RXA.LNA_BYP` (R193). -/
def State.landByp (s : State) (k : Nat) : State :=
  let w := s.reg Reg.rxaLnaByp
  let p := setBits s.pins.lnaByp (2 * k + 1) (2 * k) (bits w (2 * k + 1) (2 * k))
  if p = s.pins.lnaByp then s
  else (pathsOf k).foldl State.refreshRx { s with pins := { s.pins with lnaByp := p } }

def State.writeLnaByp (s : State) (val mask : Word) : State :=
  let s1 := s.writeFields Reg.rxaLnaByp val mask
  (List.range 8).foldl (fun t k => if s.inCarrier k then t else t.landByp k) s1

/-- `TXA[n].STICKY.OC`: an active driver engages its current limit (R183). -/
def execCurrentLimit (n : Nat) (s : State) : Host.Outcome State Fault Refusal :=
  .next (if n < 128 ∧ s.up (domTile (tileOf n)) ∧ s.flag (Reg.txaStatus n) 4 then s.raiseBit (Reg.txaSticky n) 1 else s)

/-- `RXA[n].STICKY.IN_OVL`: the overload detector trips (R192). -/
def execInputOverload (n : Nat) (s : State) : Host.Outcome State Fault Refusal :=
  .next (if n < 128 ∧ s.up (domTile (tileOf n)) ∧ s.flag (Reg.rxaStatus n) 4 then s.raiseBit (Reg.rxaSticky n) 1 else s)

end Sys2Proof.Machine
end

