-- ==== Sys2Proof/Machine/Journal.lean ====
section
/-! DEFINITION. The eMRAM journal (R303-R306): record classes, slots and their checks, loading and storing. -/
namespace Sys2Proof.Machine

/-- CRC-32C: eight steps of the reflected polynomial. -/
def crcBits : Nat → Nat → Nat
  | 0, c => c
  | n + 1, c => crcBits n (if c % 2 = 1 then (c / 2) ^^^ 0x82F63B78 else c / 2)

/-- CRC-32C of bytes from a running value. -/
def crcBytes (c : Nat) (bs : List Byte) : Nat := bs.foldl (fun c b => crcBits 8 (c ^^^ b.toNat)) c

/-- CRC-32C with initial value and final XOR 0xFFFF_FFFF over words taken little-endian (R304). -/
def crc32c (ws : List Word) : Word :=
  BitVec.ofNat 32 ((ws.foldl (fun c w => crcBytes c (wordBytes w)) 0xFFFFFFFF) ^^^ 0xFFFFFFFF)

/-- Word offset of slot A and slot B of a class (R303). -/
def slotA (c : Nat) : Nat :=
  match c with
  | 1 => 0 | 2 => 0x800 | 3 => 0x1800 | 4 => 0x2000 | 5 => 0x2080 | 6 => 0x4000 | 7 => 0x8000 | _ => 0x10000
def slotB (c : Nat) : Nat :=
  match c with
  | 1 => 0x400 | 2 => 0x1000 | 3 => 0x1C00 | 4 => 0x2040 | 5 => 0x20C0 | 6 => 0x6000 | 7 => 0xA400 | _ => 0x14800
/-- Word offset of the factory record. -/
def slotF (c : Nat) : Nat := 0x30000 + slotA c

/-- The thirty-two paths of a tile. -/
def tilePaths (t : Nat) : List Nat := (List.range 32).map (32 * t + ·)

/-- Where the data words of classes 1-5 live, in record order (R303). -/
def classRegs (c t : Nat) : List Nat :=
  let r8 := List.range 8
  match c with
  | 1 => (tilePaths t).flatMap fun n =>
      [Reg.txdDcoff n 0, Reg.txdDcoff n 1, Reg.txdIqcorr n 0, Reg.txdIqcorr n 1, Reg.txdPfs n, Reg.txdDelay n]
        ++ r8.map (Reg.txdTcomp n 0) ++ r8.map (Reg.txdTcomp n 1) ++ [Reg.losPt n]
  | 2 => (tilePaths t).flatMap fun n =>
      [Reg.rxdDcInit n 0, Reg.rxdDcInit n 1] ++ r8.map (Reg.rxdIrr n 0) ++ r8.map (Reg.rxdIrr n 1) ++ [Reg.rxdGcal n]
        ++ r8.map (Reg.rxdTcomp n 0) ++ r8.map (Reg.rxdTcomp n 1) ++ [Reg.rxdDelay n]
  | 3 => (tilePaths t).flatMap fun n =>
      [Reg.txaCellI0 n, Reg.txaCellI1 n, Reg.txaCellI2 n, Reg.txaCellQ0 n, Reg.txaCellQ1 n, Reg.txaCellQ2 n]
        ++ (List.range 6).map (inFailed n)
        ++ [Reg.rxaCompI0 n, Reg.rxaCompI1 n, Reg.rxaCompQ0 n, Reg.rxaCompQ1 n]
        ++ [inFailed n 6, inFailed n 7, inFailed n 8, inFailed n 9]
  | 4 => [2 * t, 2 * t + 1].flatMap fun k => (List.range 4).map (inOrCorr k)
  | 5 => [2 * t, 2 * t + 1].flatMap fun k => (List.range 16).map (Reg.losSPcorr k)
  | _ => []

/-- LIN store words of class 7 (R303). -/
def linWords : List Nat := (List.range 0x2000).map (0x100000 + ·) ++ (List.range 16).map (0x102800 + ·)

/-- The thirteen words of one bias output, class 6 (R318): spans, codes and tables read from the registers. -/
def State.biasWords (s : State) (i : Nat) : List Word :=
  let h (o : Nat) : Nat := s.fld o 15 0
  let pair (a b : Nat) : Word := BitVec.ofNat 32 (h b * 65536 + h a)
  [BitVec.ofNat 32 (s.fld (Reg.bdaOutCfg i) 2 0), s.reg (Reg.bdaOutPup i)]
    ++ (List.range 2).flatMap (fun p => (List.range 4).map (fun j =>
        pair (Reg.bdaOp i p (2 * j)) (Reg.bdaOp i p (2 * j + 1))))
    ++ [pair (Reg.bdaSafe i 0) (Reg.bdaSafe i 1), pair (Reg.bdaSafe i 2) (Reg.bdaSafe i 3),
        BitVec.ofNat 32 (h (Reg.bdaSafe i 4))]

/-- The sixty-four outputs of a tile. -/
def tileOuts (t : Nat) : List Nat := (List.range 64).map (64 * t + ·)

/-- Data words a class must have; class 8 takes any count up to 18,428. -/
def countOk (c count : Nat) : Bool :=
  match c with
  | 1 => count == 736 | 2 => count == 1152 | 3 => count == 640 | 4 => count == 8 | 5 => count == 32 | 6 => count == 832
  | 7 => count == 8208 | 8 => count ≤ 18428 | _ => false

/-- Words read one after the other from the eMRAM of tile t, whether one held an uncorrectable error, and the state after
the reads (R47). -/
def State.readNvms (s : State) (t : Nat) : Nat → Nat → List Word × Bool × State
  | _, 0 => ([], false, s)
  | w, n + 1 =>
    let r := s.readNvm t w
    let rs := State.readNvms r.2.2 t (w + 1) n
    (r.1 :: rs.1, r.2.1 || rs.2.1, rs.2.2)

/-- A slot checked under R305: its SEQ and data when it is valid. -/
def State.readSlot (s : State) (t c w : Nat) : Option (Word × List Word) × State :=
  let h := s.readNvm t w
  let count := bits h.1 15 0
  if h.2.1 || bits h.1 31 24 != c || bits h.1 23 22 != t || bits h.1 21 16 != 1 || !countOk c count then (none, h.2.2)
  else
    let r := h.2.2.readNvms t (w + 1) (count + 3)
    let seq := r.1.headD 0
    let data := (r.1.drop 1).take count
    let crc := (r.1.drop (count + 1)).headD 0
    let commit := (r.1.drop (count + 2)).headD 0
    if r.2.1 || crc != crc32c (h.1 :: seq :: data) || commit != (seq ^^^ 0x5A5A5A5A) then (none, r.2.2)
    else (some (seq, data), r.2.2)

/-- a is newer than b (R305). -/
def newer (a b : Word) : Bool := 1 ≤ (a - b).toNat && (a - b).toNat ≤ 0x7FFFFFFF

/-- The winner of the two slots: 1 slot A, 2 slot B. -/
def State.winner (s : State) (t c : Nat) : Option (Nat × Word × List Word) × State :=
  let a := s.readSlot t c (slotA c)
  let b := a.2.readSlot t c (slotB c)
  match a.1, b.1 with
  | some x, some y => (if newer y.1 x.1 then some (2, y.1, y.2) else some (1, x.1, x.2), b.2)
  | some x, none => (some (1, x.1, x.2), b.2)
  | none, some y => (some (2, y.1, y.2), b.2)
  | none, none => (none, b.2)

/-- `CAL.JSRC` and `CAL.JSEQ` show the outcome of a load. -/
def State.showSrc (s : State) (t c src : Nat) (seq : Word) : State :=
  (s.setFld (Reg.calJsrc t) (2 * c - 1) (2 * c - 2) src).setReg (Reg.calJseq t (c - 1)) seq

/-- The record a class is loaded from (R305): the winner, else the factory record (none for class 8) with NVM_FALLBACK, else
nothing with NVM_FACTORY. The stickies and source registers of CAL are reachable while COB is up. -/
def State.loadRecord (s : State) (t c : Nat) : Option (List Word) × State :=
  let r := s.winner t c
  let cal (u : State) (f : State → State) : State := if u.up domCob then f u else u
  match r.1 with
  | some (src, seq, data) => (some data, cal r.2 (fun u => u.showSrc t c src seq))
  | none =>
    let s1 := cal r.2 (fun u => u.raiseBit Reg.calSticky 2)
    let f := if c = 8 then (none, s1) else s1.readSlot t c (slotF c)
    match f.1 with
    | some d => (some d.2, cal f.2 (fun u => u.showSrc t c 3 0))
    | none => (none, cal f.2 (fun u => (u.raiseBit Reg.calSticky 3).showSrc t c 0 0))

/-- The bits of a register that its fields hold. -/
def fieldMask (off : Nat) : Word :=
  match declOf off with
  | some d => d.fields.foldl (fun m f => m ||| maskOf f.hi f.lo) 0
  | none => 0xFFFFFFFF

/-- A loaded word reaches its field under that register's own timing (R288); reserved bits read 0 (R10). -/
def State.putField (s : State) (off : Nat) (v : Word) : State := s.putDeferred off (v &&& fieldMask off)

/-- Words put into fields, in order. -/
def State.putFields (s : State) : List Nat → List Word → State
  | o :: os, v :: vs => (s.putField o v).putFields os vs
  | _, _ => s

/-- Spare elements in use: active elements beyond the first `base` (R299). -/
def spareCount (ws : List Word) (base : Nat) : Nat :=
  (List.range (32 * ws.length)).countP (fun b => base ≤ b && bit ((ws[b / 32]?).getD 0) (b % 32))

/-- `TXA[n].SPARES` and `RXA[n].SPARES` follow the active sets. -/
def State.showSpares (s : State) (n : Nat) : State :=
  let t (l : List Nat) (base : Nat) := spareCount (l.map s.reg) base
  let i := t [Reg.txaCellI0 n, Reg.txaCellI1 n, Reg.txaCellI2 n] 63
  let q := t [Reg.txaCellQ0 n, Reg.txaCellQ1 n, Reg.txaCellQ2 n] 63
  let ri := t [Reg.rxaCompI0 n, Reg.rxaCompI1 n] 31
  let rq := t [Reg.rxaCompQ0 n, Reg.rxaCompQ1 n] 31
  (s.setReg (Reg.txaSpares n) (BitVec.ofNat 32 (q * 65536 + i))).setReg (Reg.rxaSpares n) (BitVec.ofNat 32 (rq * 65536 + ri))

/-- One class of a tile is loaded into its fields (R305). -/
def State.loadClass (s : State) (t c : Nat) : State :=
  let r := s.loadRecord t c
  match r.1 with
  | none => r.2
  | some data =>
    if c = 7 then (linWords.zip data).foldl (fun u p => u.putWord (linBase + 4 * p.1) p.2) r.2
    else
      let s1 := r.2.putFields (classRegs c t) data
      if c = 3 then (tilePaths t).foldl State.showSpares s1 else s1

/-! ## Stores (R306) -/

/-- Words of a protected memory as the device reads them, in order (R47, R48). -/
def State.readDevs (s : State) : List Nat → List Word × State
  | [] => ([], s)
  | a :: as =>
    let r := s.readDev a
    let q := State.readDevs r.2 as
    (r.1 :: q.1, q.2)

/-- The fields of a class, read now. -/
def State.snapshot (s : State) (t c : Nat) : List Word × State :=
  match c with
  | 6 => ((tileOuts t).flatMap s.biasWords, s)
  | 7 => s.readDevs (linWords.map (fun w => linBase + 4 * w))
  | 8 => (s.arg.cache, s)
  | _ => ((classRegs c t).map s.reg, s)

/-- The words of a record (R304). -/
def recordWords (t c : Nat) (seq : Word) (data : List Word) : List Word :=
  let hd := BitVec.ofNat 32 (c * 2 ^ 24 + t * 2 ^ 22 + 2 ^ 16 + data.length)
  let body := hd :: seq :: data
  body ++ [crc32c body, seq ^^^ 0x5A5A5A5A]

/-- Unwrapped nanoseconds. -/
def State.nowNs (s : State) : Nat := s.time.t / 2 ^ 53

/-- `CAL.JCTL.BUSY` and `BDA.STATUS.STORE_BUSY` follow the stores running or deferred. -/
def State.showBusy (s : State) : State :=
  let keys := s.jrn.run.map (·.1) ++ s.jrn.wait
  (s.setFlag Reg.calJctl 31 (keys.any (fun k => k % 16 != 6))).setFlag Reg.bdaStatus 31 (keys.any (fun k => k % 16 == 6))

/-- A store begins: the snapshot is taken and the slot that did not win is chosen. -/
def State.beginStore (s : State) (t c : Nat) : State :=
  let q := s.snapshot t c
  let data := q.1
  let r := q.2.winner t c
  let dst := match r.1 with
    | some (1, seq, _) => (slotB c, seq + 1)
    | some (_, seq, _) => (slotA c, seq + 1)
    | none => (slotA c, 1)
  let k := t * 16 + c
  ({ r.2 with jrn := { r.2.jrn with
      last := aput r.2.jrn.last k r.2.nowNs, wait := r.2.jrn.wait.filter (· != k),
      run := aput r.2.jrn.run k (dst.1, recordWords t c dst.2 data) } }).showBusy

/-- A host write to the eMRAM of tile t is in progress (R45). -/
def State.nvmBusy (s : State) (t : Nat) : Bool :=
  match s.host.nvm with
  | some (u, _, _) => u == t
  | none => false

/-- A store is requested (R306): less than 1 s after the previous one of that class and tile it is deferred, and requests
merge into a deferred one. A host write to the tile defers it too (R45). A tile that is down takes no store. -/
def State.requestStore (s : State) (t c : Nat) : State :=
  let k := t * 16 + c
  if !s.up (domTile t) then s
  else
    let soon := (alook s.jrn.run k).isSome || s.nvmBusy t ||
      (match alook s.jrn.last k with
       | some t0 => s.nowNs < t0 + 1000000000
       | none => false)
    if soon then
      ({ s with jrn := { s.jrn with wait := if s.jrn.wait.contains k then s.jrn.wait else s.jrn.wait ++ [k] } }).showBusy
    else s.beginStore t c

/-- Words programmed one after the other into the eMRAM of tile t. -/
def State.putNvms (s : State) (t : Nat) : Nat → List Word → State
  | _, [] => s
  | w, v :: vs => (s.putNvm t w v).putNvms t (w + 1) vs

/-- A store ends: every word written and verified, or, with `fail`, the words before it written and that word left
uncorrectable (R306). -/
def State.endStore (s : State) (t c : Nat) (fail : Option Nat) : State :=
  let k := t * 16 + c
  match alook s.jrn.run k with
  | none => s
  | some (w, ws) =>
    let s1 := { s with jrn := { s.jrn with run := sdel s.jrn.run k } }
    match fail with
    | none => (s1.putNvms t w ws).showBusy
    | some i =>
      if i < ws.length then
        let f := (s1.putNvms t w (ws.take i)).takeFree
        let s2 := f.2.putNvm t (w + i) f.1
        let s3 := { s2 with nvmEcc := sset (fun _ => Ecc.good) s2.nvmEcc (nvmKey t (w + i)) .double }
        (if c = 6 then s3.raiseBit Reg.bdaSticky 4 else s3.raiseBit Reg.calSticky 4).showBusy
      else (s1.putNvms t w ws).showBusy

/-- A deferred store of a class of a tile starts: 1 s after the previous one, and no host write in progress (R45, R306). -/
def State.startStore (s : State) (t c : Nat) : State :=
  let k := 16 * t + c
  let due := match alook s.jrn.last k with
    | some t0 => t0 + 1000000000 ≤ s.nowNs
    | none => true
  if s.jrn.wait.contains k && (alook s.jrn.run k).isNone && !s.nvmBusy t && due && s.up (domTile t) then
    s.beginStore t c
  else s

end Sys2Proof.Machine
end

