-- ==== Sys2Proof/Machine/Bda.lean ====
section
/-! DEFINITION. The bias DAC bank (14_bias_dacs.md): what drives an output, codes and their deglitching, range changes, the
power-up clamp and the bias tables, sine generators. -/
namespace Sys2Proof.Machine

/-- Main and peaking output of a pair (R3). -/
def outsOf (n : Nat) : List Nat := [2 * n, 2 * n + 1]

/-- What drives an output (R311). -/
inductive Drive where
  | safe | fault | gen (g : Nat) | code
  deriving DecidableEq, Repr

/-- Rows 1 to 3 of R311: the output sits on BIAS_SAFE. -/
def State.clamped (s : State) (i : Nat) : Bool :=
  !s.up domMgt || s.pins.rails != 0 || s.flag Reg.bdaStatus (4 + i / 64) || s.flag Reg.bdaStatus (16 + i / 32)
    || s.flag (Reg.bdaOutCfg i) 31

/-- Row 4 of R311: a fault value is in force. -/
def State.faulted (s : State) (i : Nat) : Bool :=
  s.ps (i / 2) == psFault || !s.up domCrm || s.flag Reg.thmStatus 31

/-- The source below the clamps (rows 4 to 6 of R311). -/
def State.driver (s : State) (i : Nat) : Drive :=
  if s.faulted i then .fault
  else
    let g := s.fld (Reg.bdaOutCfg i) 10 8
    if 0 < g && aboveStby (s.ps (i / 2)) then .gen (g - 1) else .code

/-- The source that drives an output. -/
def State.drive (s : State) (i : Nat) : Drive := if s.clamped i then .safe else s.driver i

/-- Whether a span reads codes as two's complement (R309). -/
def signedSpan (sp : Nat) : Bool := 3 ≤ sp

/-- A generator value clamped to the code range of a span, and whether it was clamped (R317). -/
def clampSpan (sp : Nat) (v : Int) : Int × Bool :=
  let c := if signedSpan sp then clampI (-32768) 32767 v else clampI 0 65535 v
  (c, c != v)

/-- The sample of generator g on an output of span `sp`: OFFSET read in that span plus the scaled table value. -/
def State.sample (s : State) (g sp : Nat) : Int × Bool :=
  let r := (alook s.bda.samp g).getD (0, 0)
  clampSpan sp ((if signedSpan sp then sgn 16 r.1 else (r.1 : Int)) + r.2)

/-- The commanded code of an output (R162, R311). -/
def State.commanded (s : State) (i : Nat) : Nat :=
  match s.driver i with
  | .fault => s.fld (Reg.bdaOutPup i) 31 16
  | .gen g => unsgn 16 (s.sample g (s.fld (Reg.bdaOutCfg i) 2 0)).1
  | _ => s.fld (Reg.bdaOutCode i) 15 0

/-- `OUT[i].APPLIED`, the code at the DAC: the held one during a deglitch hold, else the commanded one (R310). -/
def State.applied (s : State) (i : Nat) : Nat := (alook s.bda.hold i).getD (s.commanded i)

/-- `OUT[i].CFG` with CLAMP and FAULT as they stand. -/
def State.bdaCfg (s : State) (i : Nat) : Word :=
  putBit (putBit (s.reg (Reg.bdaOutCfg i)) 30 (s.clamped i)) 29 (!s.clamped i && s.faulted i)

/-- CODE set: a change of C[15:12] of a code that drives the output starts a deglitch hold; one in progress goes on
(R310). -/
def State.setCode (s : State) (i v : Nat) : State :=
  let old := s.fld (Reg.bdaOutCode i) 15 0
  let s1 := s.setFld (Reg.bdaOutCode i) 15 0 v
  if s.drive i == .code && old / 4096 != v % 65536 / 4096 && (alook s.bda.hold i).isNone then
    { s1 with bda := { s1.bda with hold := aput s1.bda.hold i old } }
  else s1

/-- A refused write of R314 and R315. -/
def State.bdaBad (s : State) (bit : Nat) : State := (s.bump Reg.bdaCntBadw).raiseBit Reg.bdaSticky bit

/-- A host or thread write to CODE (R312, R314, R315): refused during a range change, while a fault value is in force and
while the power-up clamp is engaged. -/
def State.writeCode (s : State) (i : Nat) (val mask : Word) : State :=
  if s.flag (Reg.bdaOutCfg i) 31 || s.faulted i || s.flag Reg.bdaStatus (4 + i / 64) then s.bdaBad 1
  else s.setCode i (((s.reg (Reg.bdaOutCode i) &&& ~~~ mask) ||| (val &&& mask)).toNat % 65536)

/-- A write to CFG of an output has changed what it follows: where C[15:12] of the code at the output changes, it is held like a code
(R310, R317; log 153). `s0` is the state before the write. -/
def State.holdRoute (s s0 : State) (i : Nat) : State :=
  if !s.clamped i && !s.faulted i && s0.commanded i / 4096 != s.commanded i / 4096 && (alook s.bda.hold i).isNone then
    { s with bda := { s.bda with hold := aput s.bda.hold i (s0.commanded i) } }
  else s

/-- A write to CFG: the generator routing lands (R317); a SPAN that changes starts a range change or is refused (R314). -/
def State.writeBdaCfg (s : State) (i : Nat) (val mask : Word) : State :=
  let off := Reg.bdaOutCfg i
  let old := s.fld off 2 0
  let s1 := ((s.writeFields off val mask).setFld off 2 0 old).holdRoute s i
  let new := bits ((s.reg off &&& ~~~ mask) ||| (val &&& mask)) 2 0
  if 4 < new ∨ new = old then s1
  else if bit s.pins.drain (2 * (i / 32)) || s.flag Reg.bdaStatus (4 + i / 64) || s.flag Reg.bdaStatus (16 + i / 32)
      || s.faulted i || s.flag off 31 then s1.bdaBad 2
  else (s1.setFld off 2 0 new).setFlag off 31 true

/-- A range change ends (R314): CODE takes the safe code of the new span unless RC_KEEP is 1, and the clamp is released. -/
def State.endRange (s : State) (i : Nat) : State :=
  let off := Reg.bdaOutCfg i
  if s.flag off 31 then
    let s1 := s.setFlag off 31 false
    if s.flag Reg.bdaCtl 16 then s1 else s1.setFld (Reg.bdaOutCode i) 15 0 (s.fld (Reg.bdaSafe i (s.fld off 2 0)) 15 0)
  else s

/-- The device writes the power-up codes of a pair (R161, R165). -/
def State.powerUpCodes (s : State) (n : Nat) : State :=
  (outsOf n).foldl (fun t i => t.setCode i (t.fld (Reg.bdaOutPup i) 15 0)) s

/-- The device writes the operating codes of a pair: active port and band of its group (R161, R312). -/
def State.operatingCodes (s : State) (n : Nat) : State :=
  (outsOf n).foldl (fun t i => t.setCode i (t.fld (Reg.bdaOp i (t.port (groupOf n)) (t.band (groupOf n))) 15 0)) s

/-- A band change takes effect for a group: new operating codes for every pair above STBY (R312). -/
def State.bandCodes (s : State) (k : Nat) : State :=
  (pathsOf k).foldl (fun t n => if aboveStby (t.ps n) then t.operatingCodes n else t) s

/-! ## Bias tables (R313, R318) -/

/-- A register of the outputs of tile t. -/
def isTileOut (t off : Nat) : Bool :=
  (0xA1000 + 0x400 * t ≤ off && off < 0xA1400 + 0x400 * t) || (0xA2000 + 0x1000 * t ≤ off && off < 0xA3000 + 0x1000 * t)
    || (0xA6000 + 0x800 * t ≤ off && off < 0xA6800 + 0x800 * t)

/-- TILEt has lost its power: the clamp of its outputs is engaged again, and its table counts as not loaded (R313; log 152). -/
def State.clampTile (s : State) (t : Nat) : State :=
  let s1 := (s.setFlag Reg.bdaStatus (4 + t) true).setFlag Reg.bdaStatus t false
  { s1 with bda := { s1.bda with
      loose := putBit s1.bda.loose t false, noTab := putBit s1.bda.noTab t false
      hold := s1.bda.hold.filter (fun p => p.1 / 64 != t) } }

/-- TILEt reaches power-good: the registers of its outputs are at their reset values (R313). -/
def State.resetOuts (s : State) (t : Nat) : State := { s with regs := skeep s.regs (fun off => !isTileOut t off) }

/-- One output set from its thirteen journal words: SPAN, PUP, FAULT_V, OP and SAFE; CODE becomes the power-up code. -/
def State.loadOut (s : State) (i : Nat) (ws : List Word) : State :=
  let w (j : Nat) : Word := (ws[j]?).getD 0
  let half (j : Nat) : Nat := if j % 2 = 0 then bits (w (j / 2)) 15 0 else bits (w (j / 2)) 31 16
  let s1 := if bits (w 0) 2 0 ≤ 4 then s.setFld (Reg.bdaOutCfg i) 2 0 (bits (w 0) 2 0) else s
  let s2 := s1.setReg (Reg.bdaOutPup i) (w 1)
  let s3 := (List.range 16).foldl (fun t j => t.setReg (Reg.bdaOp i (j / 8) (j % 8)) (BitVec.ofNat 32 (half (4 + j)))) s2
  let s4 := (List.range 5).foldl (fun t j => t.setReg (Reg.bdaSafe i j) (BitVec.ofNat 32 (half (20 + j)))) s3
  s4.setReg (Reg.bdaOutCode i) (BitVec.ofNat 32 (bits (w 1) 15 0))

/-- Outputs set one after the other from the data of class 6. -/
def State.loadOuts (s : State) : List Nat → List Word → State
  | [], _ => s
  | i :: is, ws => (s.loadOut i (ws.take 13)).loadOuts is (ws.drop 13)

/-- The origin of R313 has passed for a tile: rails good, OTP sensed, MGT and the tile up. -/
def State.biasOrigin (s : State) (t : Nat) : Bool :=
  s.pins.rails == 0 && s.boot == .running && s.up domMgt && s.up (domTile t)

/-- BDA loads class 6 of a tile (R313), or holds the tile for want of a table. -/
def State.loadBias (s : State) (t : Nat) : State :=
  let r := s.loadRecord t 6
  match r.1 with
  | some data =>
    let s1 := (r.2.loadOuts (tileOuts t) data).setFlag Reg.bdaStatus t true
    { s1 with bda := { s1.bda with loose := putBit s1.bda.loose t true, noTab := putBit s1.bda.noTab t false } }
  | none =>
    let s1 := r.2.raiseBit Reg.bdaSticky 0
    { s1 with bda := { s1.bda with noTab := putBit s1.bda.noTab t true } }

/-- A write to `BDA.CTL`: RC_KEEP lands, RELEASE lets the tiles held for want of a table go at their power-up codes (R313),
STORE stores class 6 (R318). -/
def State.writeBdaCtl (s : State) (val mask : Word) : State :=
  let w := val &&& mask
  let s1 := s.writeFields Reg.bdaCtl val mask
  let s2 := (List.range 4).foldl (fun u t =>
    if bit w t && bit u.bda.noTab t && u.flag Reg.bdaStatus (4 + t) then
      let v := (tileOuts t).foldl (fun x i => x.setFld (Reg.bdaOutCode i) 15 0 (x.fld (Reg.bdaOutPup i) 15 0)) u
      { v with bda := { v.bda with loose := putBit v.bda.loose t true, noTab := putBit v.bda.noTab t false } }
    else u) s1
  (List.range 4).foldl (fun u t => if bit w (8 + t) then u.requestStore t 6 else u) s2

/-! ## Sine generators (R317) -/

/-- A write to `SG[g].CTL`: EN lands, PH_RST waits for the next update. -/
def State.writeSgCtl (s : State) (g : Nat) (val mask : Word) : State :=
  let s1 := s.writeFields (Reg.bdaSgCtl g) val mask
  if bit (val &&& mask) 30 then { s1 with bda := { s1.bda with phRst := putBit s1.bda.phRst g true } } else s1

/-- One update of a generator at 2 MS/s. -/
def State.sgUpdate (s : State) (g : Nat) : State :=
  let rst := bit s.bda.phRst g
  if s.flag (Reg.bdaSgCtl g) 31 then
    let phi := if rst then 0 else s.reg (Reg.bdaSgPhase g) + s.reg (Reg.bdaSgFtw g)
    let idx := bits phi 31 20
    let w := s.reg (Reg.bdaSgTab g (idx / 2))
    let t := sgn 16 (if idx % 2 = 0 then bits w 15 0 else bits w 31 16)
    let ao := s.reg (Reg.bdaSgAmpOff g)
    let v := (bits ao 14 0 * t + 16384) / 32768
    let s1 := s.setReg (Reg.bdaSgPhase g) phi
    let s2 := { s1 with bda := { s1.bda with
      phRst := putBit s1.bda.phRst g false, samp := aput s1.bda.samp g (bits ao 31 16, v) } }
    if (List.range 256).any (fun i =>
        s2.driver i == .gen g && (s2.sample g (s2.fld (Reg.bdaOutCfg i) 2 0)).2) then s2.raiseBit Reg.bdaSticky 3 else s2
  else if rst then
    let s1 := s.setReg (Reg.bdaSgPhase g) 0
    { s1 with bda := { s1.bda with phRst := putBit s1.bda.phRst g false } }
  else s

/-! ## Commands -/

def execDeglitchEnd (i : Nat) (s : State) : Host.Outcome State Fault Refusal :=
  .next { s with bda := { s.bda with hold := sdel s.bda.hold i } }
def execRangeChangeDone (i : Nat) (s : State) : Host.Outcome State Fault Refusal :=
  .next (if i < 256 then s.endRange i else s)
def execBiasTableLoad (t : Nat) (s : State) : Host.Outcome State Fault Refusal :=
  .next (if t < 4 ∧ s.biasOrigin t ∧ s.flag Reg.bdaStatus (4 + t) ∧ !bit s.bda.loose t ∧ !bit s.bda.noTab t
    then s.loadBias t else s)
def execClampRelease (t : Nat) (s : State) : Host.Outcome State Fault Refusal :=
  .next (if t < 4 ∧ s.biasOrigin t ∧ bit s.bda.loose t then s.setFlag Reg.bdaStatus (4 + t) false else s)
def execSgUpdate (g : Nat) (s : State) : Host.Outcome State Fault Refusal :=
  .next (if g < 4 ∧ s.up domMgt then s.sgUpdate g else s)
end Sys2Proof.Machine
end

