-- ==== Sys2Proof/Machine/Los.lean ====
section
/-! DEFINITION. Synthesisers and LO network (12_synthesisers_and_lo.md): power, hops and lock, loss of lock and its mute,
intermediate frequency, conversion clocks, CAL_LINK exchanges. -/
namespace Sys2Proof.Machine

/-- What a target answers to an action (R61, R71, R100): a completion code and DETAIL; with `flying` the outcome follows
later; `wait` is what a FENCE has to await; `done` is DONE where it is not the time of the answer (R159). -/
structure Answer where
  code   : Nat := 0
  detail : Nat := 0
  flying : Bool := false
  wait   : Option Await := none
  done   : Option Word := none
  deriving DecidableEq, Repr

def Answer.refuse (code detail : Nat) : Answer := { code := code, detail := detail }

/-- Where CAL reports a calibration: the register, and the pending bit of the kind (R307). -/
def calReg (kind i : Nat) : Nat := if kind < 12 then Reg.calPath i else Reg.calGrp i
def calPend (kind : Nat) : Nat := if kind < 12 then kind else kind - 12

/-- The keys of `Cal.runs` that report in the same register as a run of kind `kind` on `i`. -/
def calKeys (kind i : Nat) : List Nat := if kind < 12 then [groupOf i] else [8 + i, 16 + i, 24]

/-- A calibration run ends with a code (R292): shown with its kind; with `pend` the calibration is pending again. -/
def State.stopCal (s : State) (key code : Nat) (pend : Bool) : State :=
  match alook s.cal.runs key with
  | none => s
  | some (kind, i) =>
    let r := calReg kind i
    let s1 : State := { s with cal := { s.cal with runs := sdel s.cal.runs key } }
    let run := (calKeys kind i).any (fun q => (alook s1.cal.runs q).any (fun x => x.2 == i))
    let s2 := ((s1.setFlag r 30 run).setFld r 23 20 code).setFld r 19 16 kind
    if pend then s2.setFlag r (calPend kind) true else s2

/-- Runs that need LO_OK of Sk are aborted when it falls (R292). -/
def State.abortLo (s : State) (k : Nat) : State :=
  let s1 := match alook s.cal.runs k with
    | some (kind, _) => if kind = 0 ∨ kind = 1 ∨ kind = 6 then s else s.stopCal k 6 true
    | none => s
  s1.stopCal (8 + k) 6 true

/-- Unlocked pairs of Gk in TX or FDX fall silent (R160); the sticky bit is set unless the device was commanded to lose
lock. Calibrations that need the lock are aborted. -/
def State.loFell (s0 : State) (k : Nat) (commanded : Bool) : State :=
  let s := s0.abortLo k
  let l := (pathsOf k).filter (fun n => emits (s.ps n))
  let s1 := l.foldl (fun t n => t.setFlag (Reg.tlpPs n) 20 true) s
  let s2 := if l ≠ [] ∧ !commanded then s1.raiseBit Reg.tlpAirSticky (16 + k) else s1
  { s2 with los := { s2.los with clBad := s2.los.clBad || s2.fld Reg.losClCtl 2 0 == k } }

/-- LOCK_MUTE of group k ends (R160). -/
def State.unmuteLock (s : State) (k : Nat) : State :=
  if s.loOk k then (pathsOf k).foldl (fun t n => t.setFlag (Reg.tlpPs n) 20 false) s else s

/-- LO_OK of Sk may have come back: a group in no enabled carrier emits again at once (R160, R179). -/
def State.loBack (s : State) (k : Nat) : State := if s.inCarrier k then s else s.unmuteLock k

/-- RANGE_OK judged at a hop or a port switch (R273). -/
def State.judgeRange (s : State) (k : Nat) : State :=
  let f := s.loF k
  let ok := if s.port k = 0 then kHz 410000 ≤ f ∧ f ≤ kHz 7125000 else kHz 7125000 ≤ f ∧ f ≤ kHz 24250000
  if ok then s.setFlag (Reg.losSStatus k) 26 true
  else (s.setFlag (Reg.losSStatus k) 26 false).raiseBit Reg.losSticky (8 + k)

/-- The regulatory figures of group k follow its frequency and port: the duty limit and PMAX (R166, R184). -/
def State.newLimits (s : State) (k : Nat) : State :=
  let s1 := if s.up domCob then s.setFld (Reg.tlpDuty k) 25 16 (s.limits (s.loF k) (s.port k)).2 else s
  if s.up domCrm then (pathsOf k).foldl (fun t n => t.refreshReg n (!t.inCarrier k)) s1 else s1

/-- The gains of group k follow their terms (R175, R201). -/
def State.refreshGroup (s : State) (k : Nat) : State :=
  if s.up domCrm then (pathsOf k).foldl (fun t n => (t.refreshTx n).refreshRx n) s else s

/-- Its frequency changed: the new floor and duty limit hold at once (R166, R184). -/
def State.newFrequency (s : State) (k : Nat) : State :=
  let s1 := s.newLimits k
  if s1.up domCrm then (pathsOf k).foldl State.refreshTx s1 else s1

/-- Preset j of Sk becomes the preset in force (R272): its words, `FREQ` to the nearest kHz, its range, its limits. -/
def State.takePreset (s : State) (k j : Nat) (w : Word × Word) : State :=
  let s1 := { s with los := { s.los with cfg := aput s.los.cfg k w } }
  let s2 := (s1.setFld (Reg.losSStatus k) 19 16 j).setReg (Reg.losSFreq k)
    (BitVec.ofNat 32 ((loFreq w.1 w.2 + 2 ^ 36) / 2 ^ 37 % 2 ^ 25))
  (s2.judgeRange k).newFrequency k

/-- The words of preset j of Sk. -/
def State.preset (s : State) (k j : Nat) : Word × Word := (s.reg (Reg.losSPresetCfg k j), s.reg (Reg.losSPresetFrac k j))

def State.setLos (s : State) (k b : Nat) (v : Bool) : State := s.setFlag (Reg.losSStatus k) b v
def State.losBit (s : State) (k b : Nat) : Bool := s.flag (Reg.losSStatus k) b

/-- A hop of Sk starts (R276, R277). The lock it had is gone until LOCK; the mute it causes is a commanded one. -/
def State.beginHop (s : State) (k j : Nat) (w : Word × Word) (commanded : Bool) : State :=
  let old := s.loCfg k
  let d : Int := (loFreq w.1 w.2 : Int) - (loFreq old.1 old.2 : Int)
  let fast := s.losBit k 30 && bits w.1 11 8 == bits old.1 11 8 && d.natAbs < kHz 100000
  let s1 := ((((s.setLos k 25 fast).setLos k 28 true).setLos k 30 false).setLos k 29 false).bump (Reg.losSHops k)
  let s2 := { s1 with los := { s1.los with cmd := putBit s1.los.cmd k commanded } }
  (s2.takePreset k j w).loFell k commanded

/-- Sk powers up (R275): a run of SYN_VCO comes first, which meets a request for it (R300); CAL shows it while COB is up. -/
def State.synOn (s : State) (k : Nat) : State :=
  let s1 := (s.setLos k 27 true).setLos k 29 true
  let s2 : State := { s1 with los := { s1.los with cmd := putBit s1.los.cmd k true } }
  if s2.up domCob then
    let s3 := (s2.setFlag (Reg.calGrp k) 1 false).setFlag (Reg.calGrp k) 30 true
    { s3 with cal := { s3.cal with runs := aput s3.cal.runs (16 + k) (13, k) } }
  else s2

/-- A timed LOHOP that had to wait completes now (R108, R278). -/
def State.endHop (s : State) (h : Hop) : State :=
  match h.owner with
  | .entry _ _ =>
    let late := (s.tns - h.due).toNat
    if 64 < late then s.settleOwner h.owner ccLate s.tns late else s.settleOwner h.owner ccOk s.tns 0
  | _ => s

/-- Sk powers down: a hop still settling leaves its preset in force, and one still waiting makes its preset the preset in
force without tuning; both count as reached (R108, R275). -/
def State.synOff (s : State) (k : Nat) : State :=
  let s1 := (((((s.setLos k 27 false).setLos k 28 false).setLos k 29 false).setLos k 30 false).stopCal (8 + k) 6 true).stopCal
    (16 + k) 6 true
  match alook s.los.hops k with
  | none => s1
  | some h =>
    let s2 := { s1 with los := { s1.los with hops := sdel s1.los.hops k } }
    if h.waits then
      let s3 := s2.takePreset k h.preset (s2.preset k h.preset)
      if s3.los.hops.any (fun x => x.2.id == h.id) then s3 else s3.endHop h
    else s2

/-- Whether Sk has to be powered (R154, R275); Autumn ignores HOLD (R449). -/
def State.synNeeded (s : State) (k : Nat) : Bool :=
  s.up (domTile (k / 2)) &&
    ((s.flag (Reg.losSCtl k) 31 && s.fld Reg.pwrState 2 0 != 1) || (pathsOf k).any (fun n => aboveStby (s.ps n) || s.rising n))

/-- Sk follows its need for power. -/
def State.synPower (s : State) (k : Nat) : State :=
  if s.synNeeded k then (if s.losBit k 27 then s else s.synOn k)
  else if s.losBit k 27 then s.synOff k else s

/-- Why a hop of Sk to preset j is refused (R108, R271, R280, R483). -/
def State.hopRefusal (s : State) (k j : Nat) : Option (Nat × Nat) :=
  let w := s.preset k j
  let div := bits w.1 10 8
  let f := loFreq w.1 w.2
  let vco := 245760 * (bits w.1 7 0 * 2 ^ 32 + w.2.toNat)
  if 5 < div ∨ (bit w.1 11 ∧ div ≠ 0) then some (ccPrecond, 0x0301)
  else if f < kHz 410000 ∨ kHz 24250000 < f then some (ccPrecond, 0x0301)
  else if vco < 8000000 * 2 ^ 32 ∨ 16000000 * 2 ^ 32 < vco then some (ccPrecond, 0x0302)
  else if s.covering f (s.port k) = [] then some (ccRegDeny, 0)
  else none

def State.putHop (s : State) (k : Nat) (h : Hop) : State := { s with los := { s.los with hops := aput s.los.hops k h } }

/-- A hop that waits on Sk gives way to a later one of the same synthesiser: once it waits on none, it completes (log 112). -/
def State.yieldHop (s : State) (k : Nat) : State :=
  match alook s.los.hops k with
  | none => s
  | some h =>
    let s1 : State := { s with los := { s.los with hops := sdel s.los.hops k } }
    if h.waits && !s1.los.hops.any (fun x => x.2.id == h.id) then s1.endHop h else s1

/-- Hops handed to the named synthesisers on one edge (R102): while one of them calibrates, all wait for its step to end
(R278); an unpowered one takes the preset without tuning (R275). -/
def State.hopAll (s : State) (named : List Nat) (j : Nat) (owner : Owner) (due : Word) : State × Answer :=
  let id := s.air.nextId
  let s0 := { s with air := { s.air with nextId := id + 1 } }
  if named.any (fun k => s.losBit k 29) then
    (named.foldl (fun t k => (t.yieldHop k).putHop k ⟨id, j, owner, true, due⟩) s0,
     { flying := true, wait := some (.syn id) })
  else
    (named.foldl (fun t k =>
      if t.losBit k 27 then
        ((t.yieldHop k).beginHop k j (t.preset k j) true).putHop k ⟨id, j, owner, false, due⟩
      else t.takePreset k j (t.preset k j)) s0,
     { wait := some (.syn id) })

/-- LOHOP (R108): refused as a whole by the first refusing synthesiser, a powered-down tile first. -/
def State.lohop (s : State) (syn j : Nat) (owner : Owner) (due : Word) : State × Answer :=
  let named := setBitsOf (BitVec.ofNat 32 syn) 8
  let bad := named.findSome? (fun k => if s.up (domTile (k / 2)) then s.hopRefusal k j else some (ccDown, 0))
  match bad with
  | some (c, d) => (s, .refuse c d)
  | none => s.hopAll named j owner due

/-- A write to `S[k].HOP`: PRESET lands; GO asks for a host hop, checked like LOHOP (R280). -/
def State.writeHop (s : State) (k : Nat) (val mask : Word) : State :=
  let s1 := s.writeFields (Reg.losSHop k) val mask
  if bit (val &&& mask) 31 then
    let j := s1.fld (Reg.losSHop k) 3 0
    match s1.hopRefusal k j with
    | some _ => (s1.bump Reg.losCntBadw).raiseBit Reg.losSticky 2
    | none => (s1.hopAll [k] j .device s1.tns).1
  else s1

/-- The IF of group k comes into force (R274): shown by the paths, and RX_IRR becomes pending on each of them (R294). -/
def State.landIf (s : State) (k : Nat) : State :=
  let s1 := s.apply (Reg.losSCtl k)
  let v := s.fld (Reg.losSCtl k) 29 28
  (pathsOf k).foldl (fun t n =>
    (t.setFld (Reg.rxdStatus n) 29 28 v).setFlag (Reg.calPath n) 7 true) s1

/-- No pair of the group is in RX, FDX or CAL, or in a transition out of one of them. -/
def State.ifFree (s : State) (k : Nat) : Bool := (pathsOf k).all (fun n => !(takes (s.ps n) || s.ps n == psCal))

def State.ifPending (s : State) (k : Nat) : Bool :=
  s.fld (Reg.losSCtl k) 29 28 != bits (s.inForce (Reg.losSCtl k)) 29 28

/-- A write to `S[k].CTL`: HOLD acts at once (R275), IF under R274. -/
def State.writeLosCtl (s : State) (k : Nat) (val mask : Word) : State :=
  let s1 := (s.writeFields (Reg.losSCtl k) val mask).synPower k
  if s1.ifPending k && !s1.inCarrier k && s1.ifFree k then s1.landIf k else s1

/-- A write to `LOS.CL_CTL` (R283, R285): START arms an exchange at CL_AT, or fails it when CL_AT is not ahead. -/
def State.writeClCtl (s : State) (val mask : Word) : State :=
  let s1 := s.writeFields Reg.losClCtl val mask
  if bit (val &&& mask) 31 then
    if future (s1.reg Reg.losClAt) s1.tns then
      let s2 := (s1.setFlag Reg.losClCtl 30 true).setFlag Reg.losClCtl 29 false
      s2.setFlag (Reg.calGrp (s2.fld Reg.losClCtl 2 0)) 2 true
    else ((s1.setFlag (Reg.losClRes 0) 31 false).setFlag (Reg.losClRes 1) 31 false).raiseBit Reg.losSticky 3
  else s1

/-- The rotation of the LO in the distribution to path n, in 1/4,096 of a turn (R282): the trim in force of TXn or RXn and the
correction in force of the preset in force. -/
def State.loPhase (s : State) (n : Nat) (rx : Bool) : Nat :=
  let k := groupOf n
  let pt := s.inForce (Reg.losPt n)
  let p := s.inForce (Reg.losSPcorr k (s.fld (Reg.losSStatus k) 19 16))
  ((if rx then bits pt 27 16 else bits pt 11 0) + bits p 11 0) % 4096

/-! ## Commands -/

/-- The calibration step a hop waited for has ended (R278): the rest of the calibration is abandoned and every synthesiser
of the hop starts; a timed LOHOP completes now. A hop that already started restarts its dividers at the epoch (R276),
which no register shows. -/
def execHopStart (k : Nat) (s : State) : Host.Outcome State Fault Refusal :=
  .next (match alook s.los.hops k with
    | none => s
    | some h =>
      if h.waits then
        let named := (List.range 8).filter (fun i => (alook s.los.hops i).any (fun x => x.id == h.id))
        let s1 := named.foldl (fun t i =>
          let t1 := (t.setLos i 29 false).stopCal (16 + i) 6 true
          if t.losBit i 27 then
            (t1.beginHop i h.preset (t1.preset i h.preset) true).putHop i { h with waits := false }
          else
            let t2 := t1.takePreset i h.preset (t1.preset i h.preset)
            { t2 with los := { t2.los with hops := sdel t2.los.hops i } }) s
        s1.endHop h
      else s)

/-- Sk reports lock (R279). -/
def execLock (k : Nat) (s : State) : Host.Outcome State Fault Refusal :=
  .next (if k < 8 ∧ s.losBit k 27 ∧ s.losBit k 28 ∧ !s.losBit k 29 then
      let s1 := (s.setLos k 30 true).setLos k 28 false
      ({ s1 with los := { s1.los with hops := sdel s1.los.hops k, cmd := putBit s1.los.cmd k false } }).loBack k
    else s)

/-- Sk loses lock unexpectedly (R279): it relocks as a full-band hop to the preset in force. -/
def execLockLoss (k : Nat) (s : State) : Host.Outcome State Fault Refusal :=
  .next (if k < 8 ∧ s.losBit k 30 then
      let s1 := (s.setLos k 30 false).raiseBit Reg.losSticky (24 + k)
      s1.beginHop k (s1.fld (Reg.losSStatus k) 19 16) (s1.loCfg k) false
    else s)

/-- CCSn loses lock (R270): LO_OK of both groups of its tile falls, and no cause exempts their mute from its sticky. -/
def State.ccsFell (s : State) (n : Nat) : State :=
  let s1 := (s.raiseBit Reg.losSticky (4 + n)).setFlag (Reg.losCcsStatus n) 31 false
  (s1.loFell (2 * n) false).loFell (2 * n + 1) false

def execCcsUnlock (n : Nat) (s : State) : Host.Outcome State Fault Refusal :=
  .next (if n < 4 ∧ s.up (domTile n) ∧ s.flag (Reg.losCcsStatus n) 31 then s.ccsFell n else s)

def execCcsLock (n : Nat) (s : State) : Host.Outcome State Fault Refusal :=
  .next (if n < 4 ∧ s.up (domTile n) ∧ s.flag Reg.clkRefStatus 31 then
    ((s.setFlag (Reg.losCcsStatus n) 31 true).loBack (2 * n)).loBack (2 * n + 1) else s)

def execIfChange (k : Nat) (s : State) : Host.Outcome State Fault Refusal :=
  .next (if k < 8 ∧ s.ifPending k ∧ s.ifFree k then s.landIf k else s)

/-- TNS reaches CL_AT: the exchange runs, and fails from here on if LO_OK is lost or a hop comes (R283, R285). -/
def execClExchange (s : State) : Host.Outcome State Fault Refusal :=
  .next (if s.flag Reg.losClCtl 30 ∧ !future (s.reg Reg.losClAt) s.tns then
      let g := s.fld Reg.losClCtl 2 0
      let s1 : State := { s with los := { s.los with clBad := !s.loOk g },
                                 cal := { s.cal with runs := aput s.cal.runs 24 (14, g), nbr := [] } }
      s1.setFlag (Reg.calGrp g) 30 true
    else s)

end Sys2Proof.Machine
end

