-- ==== Sys2Proof/Machine/Air.lean ====
section
/-! DEFINITION. Air timing and path states (06_air_timing_and_path_states.md): transitions of pairs and their chains,
waiting and deferred actions, interlocks, alarms and forced transitions, the transmit duty, the air frame and its
boundaries. -/
namespace Sys2Proof.Machine

/-! ## Chains (R155, R156) -/

/-- The target of the row that a pair in `st` runs first towards `tgt`. -/
def nextRow (st tgt : Nat) : Nat :=
  if st = psFault then tgt
  else if st = psOff then psStby
  else if st = psStby then (if tgt = psOff then psOff else psWarm)
  else if st = psWarm then (if tgt = psOff ∨ tgt = psStby then psStby else tgt)
  else if st = psCal then psWarm
  else if tgt = psTx ∨ tgt = psRx ∨ tgt = psFdx then tgt
  else psWarm

/-- The rows from `st` to `tgt`; no chain is longer than five. -/
def chainOf : Nat → Nat → Nat → List Nat
  | 0, _, _ => []
  | n + 1, st, tgt => if st = tgt then [] else nextRow st tgt :: chainOf n (nextRow st tgt) tgt

/-- Time of a row in ns (R155), DRAIN_DELAY `dd` in ns. -/
def rowNs (dd st tgt : Nat) : Nat :=
  if st = psOff then 10000
  else if st = psStby then (if tgt = psOff then 1000 else dd + 5000)
  else if st = psFault then (if tgt = psOff then 1000 else 5000)
  else if st = psWarm then
    (if tgt = psStby then dd + 5000 else if tgt = psTx ∨ tgt = psRx then 1500 else if tgt = psFdx then 2000 else 1000)
  else if tgt = psWarm then 500
  else if st = psFdx ∧ tgt = psTx then 1500
  else 2000

/-- DRAIN_DELAY in ns. -/
def State.drainDelay (s : State) : Nat := 100 * s.fld Reg.tlpAirSafety 23 16

/-! ## Small steps of a pair -/

def State.setPair (s : State) (n : Nat) (p : Pair) : State :=
  { s with air := { s.air with
      pairs := if p.chain = [] then sdel s.air.pairs n else aput s.air.pairs n p } }

/-- The action that moves a pair. -/
def State.actOf (s : State) (n : Nat) : Option Nat := (alook s.air.pairs n).map (·.act)

/-- A calibration run on a path is aborted (R156, R292): the old values stay and the bit stays pending. -/
def State.abortCal (s : State) (n : Nat) : State :=
  match alook s.cal.runs (groupOf n) with
  | some (_, i) => if i = n then s.stopCal (groupOf n) 6 true else s
  | none => s

/-- DRAIN_EN of Gk asserted or deasserted (R161). -/
def State.setDrain (s : State) (k : Nat) (v : Bool) : State :=
  { s with pins := { s.pins with drain := setBits s.pins.drain (2 * k + 1) (2 * k) (if v then 3 else 0) } }

/-- A pair on its way from WARM to STBY has passed the point at which its drains may fall (R161). -/
def State.drained (s : State) (m : Nat) : Bool :=
  match alook s.air.pairs m with
  | some p => s.ps m == psWarm && p.chain.head? == some psStby && p.mid
  | none => false

/-- DRAIN_EN falls if no other pair of the group is above STBY or moving up out of STBY; a pair that has passed the same point
of its own fall holds it no longer (R161; log 113). -/
def State.drainFall (s : State) (n : Nat) : State :=
  if (pathsOf (groupOf n)).any (fun m => m != n && !s.drained m && (aboveStby (s.ps m) || s.rising m)) then s
  else s.setDrain (groupOf n) false

/-- Bits that follow a pair: power of its analog blocks, LOCK_MUTE (R160), and the power of its synthesiser (R154). -/
def State.followPair (s : State) (n : Nat) : State :=
  let on := s.ps n != psOff && s.powered n
  let s1 := if s.up (domTile (tileOf n)) then
      (s.setFlag (Reg.txaStatus n) 4 on).setFlag (Reg.rxaStatus n) 4 on else s
  let s2 := if emits (s.ps n) || (s.chain n).any emits then s1 else s1.setFlag (Reg.tlpPs n) 20 false
  s2.synPower (groupOf n)

/-- The row at the head of a pair's chain starts (R155, R161). -/
def State.startRow (s : State) (n : Nat) : State :=
  let st := s.ps n
  match s.chain n with
  | [] => s
  | t :: _ =>
    if st = psStby ∧ t = psWarm then ((s.setDrain (groupOf n) true).powerUpCodes n).followPair n
    else if st = psWarm ∧ t = psStby then (s.powerUpCodes n).followPair n
    else if st = psCal then (s.abortCal n).followPair n
    else s.followPair n

/-- n_a of RXn is set, with what RXA shows of it (R192). -/
def State.putStep (s : State) (n v : Nat) : State :=
  let s1 := s.setFld (Reg.rxdStatus n) 20 16 v
  (if s.up (domTile (tileOf n)) then s1.setFld (Reg.rxaStatus n) 20 16 v else s1).refreshRx n

/-- The attenuator enters CAL: CAL sets it, to a step the manual does not give (R203; log 114). -/
def State.takeStep (s : State) (n : Nat) : State :=
  let s1 := s.setReg (inHeldStep n) (BitVec.ofNat 32 (s.rxStep n))
  let r := s1.takeFree
  r.2.putStep n (r.1.toNat % 31)

/-- The attenuator leaves CAL for the step held before (R203). -/
def State.leaveCal (s : State) (n : Nat) : State := if s.ps n = psCal then s.putStep n (s.reg (inHeldStep n)).toNat else s

/-- A pair reaches a state: CAUSE ends with FAULT (R165), D is loaded (R197), CAL takes or returns the attenuator (R203), a
running duty mute takes in a pair that enters TX or FDX (R166). -/
def State.reach (s : State) (n t : Nat) : State :=
  let old := s.ps n
  let s0 := if t = psCal then s else s.leaveCal n
  let s1 := s0.setFld (Reg.tlpPs n) 3 0 t
  let s2 := if old = psFault then (s1.setFld (Reg.tlpPs n) 31 28 0).powerUpCodes n else s1
  let s3 := if takes t || t == psCal then
      (if bits (s2.inForce (Reg.rxdCtl n)) 11 10 = 0 then s2
       else s2.loadDc n (s2.inForce (Reg.rxdDcInit n (s2.port (groupOf n))))) else s2
  let s4 := if t = psCal ∧ old ≠ psCal then s3.takeStep n else s3
  let s5 := if emits t && s4.flag (Reg.tlpDuty (groupOf n)) 31 then s4.setFlag (Reg.tlpPs n) 21 true else s4
  s5.followPair n

/-! ## Actions in progress -/

/-- Actions none of whose pairs moves any more are forgotten. -/
def State.pruneRuns (s : State) : State :=
  { s with air := { s.air with
      runs := s.air.runs.filter (fun r => r.gate.isSome || s.air.pairs.any (fun p => p.2.act == r.id)) } }

def State.putRun (s : State) (r : Run) : State :=
  { s with air := { s.air with runs := s.air.runs.map (fun x => if x.id == r.id then r else x) } }

def State.run? (s : State) (id : Nat) : Option Run := s.air.runs.find? (fun r => r.id == id)

/-- The outcome of an action is told once. -/
def State.tell (s : State) (r : Run) (code : Nat) (done : Word) (detail : Nat) : State :=
  if r.told then s else (s.putRun { r with told := true }).settleOwner r.owner code done detail

/-- The transmit row of an action is given up: its pairs stay where they are (R159, R166). -/
def State.stopRun (s : State) (r : Run) : State :=
  let s1 := r.need.foldl (fun t n => if t.actOf n == some r.id then t.setPair n { chain := [], act := 0 } else t) s
  s1.putRun { r with gate := none, need := [], arrived := [] }

/-- Actions that wait for or are deferred on one of the pairs end (R157, R163, R164, R446, R450). -/
def State.endWaits (s : State) (l : List Nat) (code detail : Nat) : State :=
  let hit := s.air.waits.filter (fun w => w.pairs.any l.contains)
  let s1 := { s with air := { s.air with waits := s.air.waits.filter (fun w => !w.pairs.any l.contains) } }
  let s2 := hit.foldl (fun t w => t.settleOwner w.owner code t.tns detail) s1
  let gated := s2.air.runs.filter (fun r => r.gate.isSome && r.need.any l.contains)
  gated.foldl (fun t r => (t.tell r code t.tns detail).stopRun { r with told := true }) s2

/-! ## The transmit gate (R158, R159, R166) -/

/-- The enabled carriers, the one with the shorter symbol first when `short`, with the longer slot first otherwise. -/
def State.carPick (s : State) (short : Bool) : Option Nat :=
  if s.carOn 0 then
    (if s.carOn 1 && (if short then s.mu 0 < s.mu 1 else s.mu 1 < s.mu 0) then some 1 else some 0)
  else none

/-- L, D and the end of the suppression for an entry due at `due` whose row takes `t` ns (R158, R159). -/
def State.gateFor (s : State) (due : Word) (t : Nat) : Gate :=
  let x := s.dueU due
  let wait := x + 1536 * s.fld Reg.txdLockWait 15 0
  match s.carPick true, s.carPick false with
  | some c, some c' =>
    let d := s.symEnd c (x + 1536 * t)
    ⟨due, min wait (d - 1536 * t), d, s.slotFrom c' d⟩
  | _, _ => ⟨due, wait, wait, wait⟩

def State.dutyMuted (s : State) (k : Nat) : Bool := s.flag (Reg.tlpDuty k) 31

/-- The groups of a list of pairs. -/
def groupsIn (l : List Nat) : List Nat := (List.range 8).filter (fun k => l.any (fun n => groupOf n == k))

/-- The outcome of a row that starts now and was due at `due` (R58, R158). -/
def State.judged (s : State) (due : Word) : Nat × Nat :=
  let late := (s.tns - due).toNat
  if 64 < late ∧ late < 2 ^ 31 then (ccLate, late) else (ccOk, 0)

/-- A suppressed entry (R159): the sticky bit of each unlocked group, and its suppression to the end of the slot. -/
def State.suppress (s : State) (gs : List Nat) (g : Gate) : State :=
  (gs.filter (fun k => !s.loOk k)).foldl (fun t k =>
    let t1 := t.raiseBit Reg.losSticky (16 + k)
    { t1 with air := { t1.air with supp := aput t1.air.supp k g.slotEnd } }) s

/-- The transmit row of an action is due: it starts, is refused, is suppressed, or is deferred (no outcome yet). The locks and
mutes that count are those of the groups of every pair the action names. -/
def State.gateRun (s : State) (r : Run) (due : Word) : State × Option (Nat × Nat × Word) :=
  let gs := groupsIn r.named
  let t := r.need.foldl (fun m n => max m (rowNs s.drainDelay (s.ps n) ((s.chain n).headD 0))) 0
  let g := s.gateFor due t
  if gs.any s.dutyMuted then (s.stopRun r, some (ccRegDeny, 0, s.tns))
  else if gs.any (fun k => match alook s.air.supp k with
      | some e => g.dl ≤ e
      | none => false) then (s.stopRun r, some (ccLateUnlocked, 0, s.tns))
  else if gs.all s.loOk then
    let s1 := r.need.foldl State.startRow (s.putRun { r with passed := true, gate := none })
    let j := s.judged due
    (s1, some (j.1, j.2, s.tns))
  else if g.limit ≤ (s.nowU : Int) then
    ((s.suppress gs g).stopRun r, some (ccLateUnlocked, 0, BitVec.ofInt 32 (g.limit / 1536)))
  else (s.putRun { r with gate := some g }, none)

/-! ## PSTATE (R105, R157, R167) -/

/-- Why a pair refuses a target (R165, R167, R453); of several reasons the first of this order is told (log 133). -/
def State.psRefusal (s : State) (n tgt : Nat) : Option (Nat × Nat) :=
  let k := groupOf n
  if tgt ≠ psOff ∧ !s.up (domTile (tileOf n)) then some (ccDown, 0)
  else if s.ps n = psFault ∧ tgt ≠ psOff ∧ tgt ≠ psStby then some (ccPrecond, 0x0101)
  else if s.ps n = psFault ∧ bits s.pins.paAlarmN (2 * k + 1) (2 * k) ≠ 3 then some (ccPrecond, 0x0102)
  else if s.ps n = psFault ∧ (s.flag Reg.tlpAirSticky k
      || (s.fld (Reg.tlpPs n) 31 28 == 3 && (List.range 32).any (fun j => s.clamped (32 * k + j)))
      || (s.fld (Reg.tlpPs n) 31 28 == 4 && s.flag Reg.thmStatus 31)) then some (ccPrecond, 0x0103)
  else if tgt ≠ psOff ∧ s.fld Reg.pwrState 2 0 = 5 then some (ccPrecond, 0x0702)
  else if tgt ≠ psOff ∧ tgt ≠ psStby ∧ (alook s.air.ports k).isSome then some (ccPrecond, 0x0104)
  else if (tgt = psTx ∨ tgt = psRx ∨ tgt = psFdx) ∧ !s.inCarrier k then some (ccPrecond, 0x0105)
  else none

/-- A PSTATE takes effect (R102, R105): every pair accepts, the chains start, and a transmit row that is reached at once is
judged by the gate. -/
def State.launch (s : State) (id tgt : Nat) (pairs : List Nat) (owner : Owner) (due : Word) (waited : Bool) :
    State × Answer :=
  match pairs.findSome? (fun n => s.psRefusal n tgt) with
  | some (c, d) => (s, .refuse c d)
  | none =>
    let ch (n : Nat) := chainOf 6 (s.ps n) tgt
    let moving := pairs.filter (fun n => ch n != [])
    let need := moving.filter (fun n => (ch n).any emits)
    let first := need.all (fun n => (ch n).length == 1) && !waited
    let arrived := need.filter (fun n => (ch n).length == 1)
    let timed := match owner with
      | .entry _ _ => true
      | _ => false
    let r : Run := ⟨id, owner, due, timed && need == [], first, need, arrived, false, none, pairs⟩
    if moving = [] then (s, {})
    else
      let s1 := moving.foldl (fun t n => t.setPair n { chain := ch n, act := id }) { s with air := { s.air with runs := s.air.runs ++ [r] } }
      let s2 := (moving.filter (fun n => !arrived.contains n)).foldl State.startRow s1
      if need = [] then (s2, { wait := some (.act id) })
      else if arrived.length < need.length then (s2, { flying := true, wait := some (.act id) })
      else
        match s2.gateRun r (if first && timed then due else s.tns) with
        | (s3, some (c, d, at')) =>
          (match s3.run? id with
            | some x => s3.putRun { x with told := true }
            | none => s3, { code := c, detail := d, wait := some (.act id), done := some at' })
        | (s3, none) => (s3, { flying := true, wait := some (.act id) })

/-- A pair is named by a deferred transmit entry. -/
def State.deferredPair (s : State) (n : Nat) : Bool := s.air.runs.any (fun r => r.gate.isSome && r.need.contains n)

/-- A pair is waited on. -/
def State.waitedPair (s : State) (n : Nat) : Bool := s.air.waits.any (fun w => w.pairs.contains n)

/-- A PSTATE reaches its pairs (R157): it waits as a whole while one of them is not free, superseding what waits or is
deferred there. -/
def State.pstate (s : State) (tgt : Nat) (pairs : List Nat) (owner : Owner) (due : Word) : State × Answer :=
  let id := s.air.nextId
  let s0 := { s with air := { s.air with nextId := id + 1 } }
  if pairs.any (fun n => s.moving n || s.deferredPair n || s.waitedPair n) then
    let s1 := s0.endWaits pairs ccPrecond 0x0106
    ({ s1 with air := { s1.air with waits := s1.air.waits ++ [⟨id, tgt, pairs, owner, due⟩] } },
     { flying := true, wait := some (.act id) })
  else
    let r := s0.launch id tgt pairs owner due false
    (r.1.pruneRuns, r.2)

/-- The outcome of an action that answers later. -/
def State.tellLater (s : State) (o : Owner) (due : Word) (a : Answer) : State :=
  if a.flying then s
  else
    let j := if a.code = ccOk then s.judged due else (a.code, a.detail)
    s.settleOwner o j.1 (a.done.getD s.tns) j.2

/-- A waiting PSTATE takes effect once every named pair is free (R157). -/
def State.startWait (s : State) (n : Nat) : State :=
  match s.air.waits.find? (fun w => w.pairs.contains n) with
  | none => s
  | some w =>
    if w.pairs.any (fun m => s.moving m || s.deferredPair m) then s
    else
      let s1 := { s with air := { s.air with waits := s.air.waits.filter (fun x => x.id != w.id) } }
      let r := s1.launch w.id w.target w.pairs w.owner w.due true
      r.1.tellLater w.owner w.due r.2

/-- A row with a timed point of R161 in it. -/
def timedRow (st tgt : Nat) : Bool := (st == psStby && tgt == psWarm) || (st == psWarm && tgt == psStby)

/-- The row in progress of a pair ends; STBY→WARM not before Sk locks (R155) and the path
has power (R18), and a row of R161 not before its timed point. A
transmit row that is now due is marked. -/
def State.endRow (s : State) (n : Nat) : State :=
  match alook s.air.pairs n with
  | none => s
  | some p =>
    let h := p.chain.headD 0
    let held := match s.run? p.act with
      | some r => r.arrived.contains n && !r.passed
      | none => false
    if held || (timedRow (s.ps n) h && !p.mid) || (s.ps n == psStby && h == psWarm && !(s.loOk (groupOf n) && s.powered n)) then s
    else
      let s1 := (s.setPair n { p with chain := p.chain.tail, mid := false }).reach n h
      match p.chain.tail with
      | [] => s1
      | t :: _ =>
        match s1.run? p.act with
        | some r =>
          if emits t && r.need.contains n && !r.passed then s1.putRun { r with arrived := r.arrived ++ [n] }
          else s1.startRow n
        | none => s1.startRow n

/-- Transmit rows that every pair of their action has reached are judged. -/
def State.gateReady (s : State) : State :=
  (s.air.runs.filter (fun r => r.need != [] && r.arrived.length == r.need.length && !r.passed && r.gate.isNone)).foldl
    (fun t r => match t.gateRun r t.tns with
      | (t1, some (c, d, done)) => t1.tell ((t1.run? r.id).getD r) c done d
      | (t1, none) => t1) s

/-- Transitions of the pairs are aborted, and an action that moves one of them and has not told its outcome ends. Its other pairs
go on without them, and a transmit row they had to wait for is judged (R164; log 115). -/
def State.abortMoves (s : State) (l : List Nat) (code detail : Nat) : State :=
  let ids := l.filterMap s.actOf
  let s1 := l.foldl (fun t n => (t.abortCal n).setPair n { chain := [], act := 0 }) s
  let s2 := (s1.air.runs.filter (fun r => ids.contains r.id)).foldl (fun t r =>
    let t1 := t.tell r code t.tns detail
    if r.gate.isSome then t1.stopRun { r with told := true }
    else t1.putRun { r with told := true, need := r.need.filter (fun n => !l.contains n),
                            arrived := r.arrived.filter (fun n => !l.contains n) }) s1
  (s2.gateReady).pruneRuns

/-- Pairs are forced into FAULT with a cause (R164). -/
def State.forceFault (s : State) (l : List Nat) (cause : Nat) : State :=
  l.foldl (fun t n =>
    ((((t.leaveCal n).setFld (Reg.tlpPs n) 3 0 psFault).setFld (Reg.tlpPs n) 31 28 cause)).followPair n) s

/-- An alarm is accepted for group k (R163): cause 1 for the TX half, 2 for the RX half. -/
def State.alarm (s : State) (k cause : Nat) : State :=
  let l := pathsOf k
  let s1 := (s.endWaits l ccPrecond 0x0102).abortMoves l ccPrecond 0x0102
  ((s1.forceFault l cause).setDrain k false).raiseBit Reg.tlpAirSticky k

/-- The bias interlock of group k (R162); what it ends completes with PRECOND and 0x0101 (log 137). -/
def State.interlock (s : State) (k : Nat) : State :=
  if bit s.pins.drain (2 * k) then
    let l := (pathsOf k).filter (fun n => aboveStby (s.ps n))
    ((s.abortMoves l ccPrecond 0x0101).forceFault l 3).setDrain k false
  else s

/-- Thermal shutdown: every pair enters FAULT with cause 4 (R462); what it ends completes with PRECOND and 0x0101 (log 137). -/
def State.shutdownPairs (s : State) : State :=
  let l := List.range 128
  let s1 := (s.abortMoves l ccPrecond 0x0101).forceFault l 4
  { s1 with pins := { s1.pins with drain := 0 } }

/-- A watchdog with ACTION 1 (R78, R164): every pair in TX or FDX goes to WARM with its output muted. -/
def State.forceWarm (s : State) : State :=
  let l := (List.range 128).filter (fun n => emits (s.ps n))
  let s1 := (s.endWaits l ccPrecond 0x0107).abortMoves l ccPrecond 0x0107
  l.foldl (fun t n => (t.setPair n { chain := [psWarm], act := 0 }).followPair n) s1

/-- An unplanned loss of a tile: its pairs go to OFF at once, with the codes of OFF (R154). -/
def State.tileLost (s : State) (t : Nat) : State :=
  let l := tilePaths t
  let s1 := (s.endWaits l ccDown 0).abortMoves l ccDown 0
  let s2 := l.foldl (fun u n =>
    (((((u.leaveCal n).setFld (Reg.tlpPs n) 3 0 psOff).setFld (Reg.tlpPs n) 31 28 0)).powerUpCodes n).followPair n) s1
  (((s2.setDrain (2 * t) false).setDrain (2 * t + 1) false).clampTile t).setFld (Reg.pwrRf2Mon t) 11 0 0

/-- Transitions of the pairs end (R155). -/
def State.endRows (s : State) (l : List Nat) : State := ((l.foldl State.endRow s).gateReady).pruneRuns

/-- A deferred transmit entry starts once every synthesiser reports lock, no later than L (R158). -/
def State.startDeferred (s : State) (n : Nat) : State :=
  match s.air.runs.find? (fun r => r.gate.isSome && r.need.contains n) with
  | none => s
  | some r =>
    match r.gate with
    | none => s
    | some g =>
      if (groupsIn r.named).all s.loOk ∧ (s.nowU : Int) ≤ g.limit then
        if (groupsIn r.named).any s.dutyMuted then
          ((s.tell r ccRegDeny s.tns 0).stopRun { r with told := true }).pruneRuns
        else
          let j := s.judged g.due
          let s1 := s.tell r j.1 s.tns j.2
          (r.need.foldl State.startRow (s1.putRun { r with told := true, passed := true, gate := none })).pruneRuns
      else s

/-- L has come without lock (R159). -/
def State.expireDeferred (s : State) (n : Nat) : State :=
  match s.air.runs.find? (fun r => r.gate.isSome && r.need.contains n) with
  | none => s
  | some r =>
    match r.gate with
    | none => s
    | some g =>
      if g.limit ≤ (s.nowU : Int) ∧ !(groupsIn r.named).all s.loOk then
        let s1 := s.suppress (groupsIn r.named) g
        ((s1.tell r ccLateUnlocked (BitVec.ofInt 32 (g.limit / 1536)) 0).stopRun { r with told := true }).pruneRuns
      else s

/-- A timed point of a drain sequence (R161): operating codes, or DRAIN_EN falls. -/
def State.drainStep (s : State) (n : Nat) : State :=
  match alook s.air.pairs n with
  | none => s
  | some p =>
    let s1 := s.setPair n { p with mid := true }
    if s.ps n = psStby ∧ p.chain.head? = some psWarm then s1.operatingCodes n
    else if s.ps n = psWarm ∧ p.chain.head? = some psStby then s1.drainFall n
    else s

/-! ## Registers (R168) -/

/-- `TLP.PS[n]`: TARGET is that of the row in progress. -/
def State.psView (s : State) (n : Nat) : Word :=
  let w := s.reg (Reg.tlpPs n)
  let held := match s.actOf n with
    | some a => (match s.run? a with
      | some r => r.arrived.contains n && !r.passed
      | none => false)
    | none => false
  let tgt := if held then s.ps n else (s.chain n).headD (s.ps n)
  let wt := (s.air.waits.find? (fun x => x.pairs.contains n)).map (·.target)
  setBits (putBit (setBits (putBit w 22 (s.deferredPair n)) 11 8 tgt) 16 wt.isSome) 15 12 (wt.getD 0)

/-- PERIOD is valid for a µ (R150). -/
def periodOk (p mu : Nat) : Bool := 1 ≤ p && p ≤ 80 && 20 * 2 ^ mu % p == 0

/-- A write to `AIR_CFG[c]` (R150): a PERIOD not valid for the MU of the same write leaves both unchanged. -/
def State.writeAirCfg (s : State) (c : Nat) (val mask : Word) : State :=
  let off := Reg.tlpAirCfg c
  let s1 := s.writeFields off val mask
  let w := s1.reg off
  if periodOk (bits w 6 0) (bits w 25 24) then s1
  else (s1.setFld off 6 0 (s.fld off 6 0)).setFld off 25 24 (s.fld off 25 24)

/-- A write to `AIR_CTL` (R146): ALIGN is judged on its start time. -/
def State.writeAirCtl (s : State) (val mask : Word) : State :=
  if bit (val &&& mask) 0 then
    let t := s.reg Reg.tlpAirNextTns
    if future t s.tns then { s with air := { s.air with align := some (t, s.reg Reg.tlpAirNextAfc) } }
    else s.raiseBit Reg.tlpAirSticky 26
  else s

/-- A W1C write to `AIR_STICKY`: a PA_ALARM bit stays set while an input of its group is low (R163). -/
def State.writeAirSticky (s : State) (val mask : Word) : State :=
  let low := (List.range 8).foldl (fun m k =>
    if bits s.pins.paAlarmN (2 * k + 1) (2 * k) = 3 then m else m ||| BitVec.ofNat 32 (2 ^ k)) (0 : Word)
  s.writeSticky Reg.tlpAirSticky val (mask &&& ~~~ low)

/-! ## Commands -/

def execPstateStart (pair : Nat) (s : State) : Host.Outcome State Fault Refusal :=
  .next (s.startWait pair).pruneRuns
def execDrainSequenceStep (pair : Nat) (s : State) : Host.Outcome State Fault Refusal := .next (s.drainStep pair)
def execDeferredTxStart (pair : Nat) (s : State) : Host.Outcome State Fault Refusal := .next (s.startDeferred pair)
def execLateUnlocked (pair : Nat) (s : State) : Host.Outcome State Fault Refusal := .next (s.expireDeferred pair)

/-- PA_ALARM_N[input] has stayed low for PA_FILTER: the alarm is accepted (R163). -/
def execPaAlarm (input : Nat) (s : State) : Host.Outcome State Fault Refusal :=
  .next (if input < 16 then
      let s1 := { s with pins := { s.pins with paAlarmN := putBit s.pins.paAlarmN input false } }
      if s1.up domCob then s1.alarm (input / 2) (1 + input % 2) else s1
    else s)

/-- PA_ALARM_N[input] returns high (R163). -/
def execPaAlarmRelease (input : Nat) (s : State) : Host.Outcome State Fault Refusal :=
  .next (if input < 16 then { s with pins := { s.pins with paAlarmN := putBit s.pins.paAlarmN input true } } else s)

/-- The duty count of group k has reached its limit (R166). -/
def execDutyOverrun (k : Nat) (s : State) : Host.Outcome State Fault Refusal :=
  .next (if k < 8 ∧ s.up domCob ∧ 10 * s.fld (Reg.tlpDuty k) 25 16 ≤ s.fld (Reg.tlpDuty k) 15 0 then
      let s1 := (s.setFlag (Reg.tlpDuty k) 31 true).raiseBit Reg.tlpAirSticky (8 + k)
      (pathsOf k).foldl (fun t n => if emits (t.ps n) then t.setFlag (Reg.tlpPs n) 21 true else t) s1
    else s)

/-- A group's output stage is above 115 °C (R316). -/
def execOtClamp (k : Nat) (s : State) : Host.Outcome State Fault Refusal :=
  .next (if k < 8 ∧ s.up domMgt then
      ((s.setFlag Reg.bdaStatus (16 + k) true).raiseBit Reg.bdaSticky (8 + k)).interlock k else s)

/-- The output stage is below 105 °C again (R316). -/
def execOtRelease (k : Nat) (s : State) : Host.Outcome State Fault Refusal :=
  .next (if k < 8 ∧ s.up domMgt then s.setFlag Reg.bdaStatus (16 + k) false else s)

/-- VBIAS_P (0) or VBIAS_N (1) is lost (R500). -/
def execBiasRailLoss (rail : Nat) (s : State) : Host.Outcome State Fault Refusal :=
  .next (if rail < 2 then
      (List.range 8).foldl State.interlock { s with pins := { s.pins with rails := putBit s.pins.rails rail true } }
    else s)

/-- A lost bias rail has been good for 50 µs (R500). -/
def execBiasRailGood (rail : Nat) (s : State) : Host.Outcome State Fault Refusal :=
  .next (if rail < 2 then { s with pins := { s.pins with rails := putBit s.pins.rails rail false } } else s)

end Sys2Proof.Machine
end

