-- ==== Sys2Proof/Machine/Bme.lean ====
section
/-! DEFINITION. The beam engine (09_beam_engine.md): carriers, selections of weights and their commit points, banks, the
block-floating-point formats, and the counters of its stages. -/
namespace Sys2Proof.Machine

/-! ## Carriers (R209, R210) -/

/-- Size of the FFT of carrier c, as its logarithm, PRBs, size of a PRB group and offset, as in force (R209). -/
def State.fftLog (s : State) (c : Nat) : Nat := bits (s.inForce (Reg.bmeCar c)) 27 24
def State.nRb (s : State) (c : Nat) : Nat := bits (s.inForce (Reg.bmeCar c)) 16 8
def State.pgSize (s : State) (c : Nat) : Nat := 2 ^ bits (s.inForce (Reg.bmeCar c)) 30 28
def State.carOff (s : State) (c : Nat) : Int := sgn 16 (s.inForce (Reg.bmeCarOff c)).toNat

/-- Useful part of a symbol of carrier c in path samples (R148): N × R_c. -/
def State.usefulN (s : State) (c : Nat) : Nat := 32768 / 2 ^ s.mu c

/-- The rate factor R_c (R209). -/
def State.rateFactor (s : State) (c : Nat) : Nat := s.usefulN c / 2 ^ s.fftLog c

/-- The configuration in force of carrier c is valid (R210). -/
def State.carValid (s : State) (c : Nat) : Bool :=
  let w := s.inForce (Reg.bmeCar c)
  let n := 2 ^ bits w 27 24
  let nrb := bits w 16 8
  let scs := 15 * 2 ^ s.mu c
  let o := sgn 16 (s.inForce (Reg.bmeCarOff c)).toNat
  1 ≤ nrb && nrb ≤ n / 15 && o.natAbs * scs + 6 * nrb * scs ≤ 200000

/-- `BME.CAR[c]` with VALID as it stands. -/
def State.carView (s : State) (c : Nat) : Word := putBit (s.reg (Reg.bmeCar c)) 31 (s.carOn c && s.carValid c)

/-- Carrier c is enabled and its configuration valid: only then does it give downlink output, uplink windows or layers (R210). -/
def State.carRuns (s : State) (c : Nat) : Bool := s.carOn c && s.carValid c

/-- Registers held to a frame boundary (R150, R210). -/
def frameRegs : List Nat :=
  [Reg.tlpAirCfg 0, Reg.tlpAirCfg 1, Reg.bmeCar 0, Reg.bmeCar 1, Reg.bmeCarOff 0, Reg.bmeCarOff 1, Reg.bmeSbfd 0, Reg.bmeSbfd 1]

/-- They come into force, and an enabled carrier that is not valid sets CFG (R210). -/
def State.landFrame (s : State) : State :=
  let s1 := frameRegs.foldl State.apply s
  if [0, 1].any (fun c => s1.carOn c && !s1.carValid c) then s1.raiseBit Reg.bmeSticky 0 else s1

/-- The occupied span of carrier c around f_LO of group k lies within one covering entry (R185, R209, R483). -/
def State.spanAllowed (s : State) (k c : Nat) : Bool :=
  let scs : Int := 15 * 2 ^ s.mu c
  let o := sgn 16 (s.inForce (Reg.bmeCarOff c)).toNat * scs
  let half := 6 * (bits (s.inForce (Reg.bmeCar c)) 16 8 : Int) * scs
  let lo : Int := (s.loF k : Int) + (o - half) * 2 ^ 37
  let hi : Int := (s.loF k : Int) + (o + half) * 2 ^ 37
  s.regTable.any (fun e => e.port == s.port k && (kHz e.lo : Int) ≤ lo && hi ≤ (kHz e.hi : Int))

/-- The frequency check of R185 for a path at a slot boundary of carrier c. -/
def State.checkSpan (s : State) (n c : Nat) : State :=
  if s.spanAllowed (groupOf n) c then s.setFlag (Reg.txdStatus n) (25 + c) false
  else (s.setFlag (Reg.txdStatus n) (25 + c) true).raiseBit (Reg.txdSticky n) 3

/-! ## Selections (R216-R220) -/

def selKey (dir car layer : Nat) : Nat := dir * 64 + car * 32 + layer
def bankKey (dir car : Nat) : Nat := dir * 2 + car

/-- The active bank of a direction and carrier. -/
def State.bank (s : State) (dir car : Nat) : Nat := s.fld Reg.bmeBank (bankKey dir car) (bankKey dir car)

/-- A WSWAP to bank b has been counted for a committed downlink symbol and is still to take effect (R218). -/
def State.countedBank (s : State) (b : Nat) : Bool :=
  s.bme.counted.any (fun q => q.2 == b && (s.bme.swap.any (fun p => p.1 == bankKey 0 q.1 && p.2.1 == b)
    || s.taq.any (fun p =>
      match p.2.act with
      | .wswap dirs cars x => x == b && dirs % 2 == 1 && cars / 2 ^ q.1 % 2 == 1 && !p.2.spent
      | _ => false)))

/-- A symbol is being weighted or combined from bank b (R218): each pass lasts the 0.60 µs of R16. -/
def State.busyBank (s : State) (b : Nat) : Bool := s.bme.busy.any (fun p => p.1 == b && (s.nowU : Int) < p.2)

/-- Bank b is active for a direction and carrier. The bits of a carrier that is not enabled hold no bank while the other
carrier is enabled (the worked example of R220); with no carrier enabled all bits count (log 62). -/
def State.activeBank (s : State) (b : Nat) : Bool :=
  let idle := !s.carOn 0 && !s.carOn 1
  [0, 1].any (fun c => (idle || s.carOn c) && (s.bank 0 c == b || s.bank 1 c == b))

/-- `BME.BANK` with IN_USE as it stands (R218). -/
def State.bankView (s : State) : Word :=
  let use (b : Nat) : Bool := s.activeBank b || s.busyBank b || s.countedBank b
  putBit (putBit (s.reg Reg.bmeBank) 8 (use 0)) 9 (use 1)

/-- A downlink selection that takes effect for the symbol that starts at `tl`, issued in order `seq`: when the commit point
of that symbol has passed before its issue, it is late (R219). -/
def State.lateSel (s : State) (c : Nat) (tl : Int) (seq : Nat) : State :=
  if ((alook s.bme.commits c).getD []).any (fun m => tl ≤ m.1 && m.2 ≤ seq) then
    (s.bump (Reg.bmeCnt 5)).raiseBit Reg.bmeSticky 2
  else s

/-- BEAMSEL (R106, R235): the selection waits for the next symbol boundary of its carrier. -/
def State.beamsel (s : State) (dir car layer index seq : Nat) : State × Answer :=
  if !s.up domCrm then (s, .refuse ccDown 0)
  else if !s.carOn car then (s, .refuse ccPrecond 0x0202)
  else ({ s with bme := { s.bme with sel := aput s.bme.sel (selKey dir car layer) (index, seq) } },
    { wait := some (.beam dir car layer) })

/-- WSWAP (R107, R235). -/
def State.wswap (s : State) (dirs cars bank seq : Nat) : State × Answer :=
  let ds := setBitsOf (BitVec.ofNat 32 dirs) 2
  let cs := setBitsOf (BitVec.ofNat 32 cars) 2
  if !s.up domCrm then (s, .refuse ccDown 0)
  else if cs.any (fun c => !s.carOn c) then (s, .refuse ccPrecond 0x0202)
  else
    let keys := ds.flatMap (fun d => cs.map (bankKey d))
    ({ s with bme := { s.bme with swap := keys.foldl (fun l k => aput l k (bank, seq)) s.bme.swap } },
     { wait := some (.bank dirs cars) })

/-- A selection waiting at the boundary of carrier c is applied: INDEX, and MODE to 0 (R217). -/
def State.landSel (s : State) (c : Nat) (tl : Int) : State :=
  let due := s.bme.sel.filter (fun p => p.1 / 32 % 2 == c)
  let s1 := { s with bme := { s.bme with sel := s.bme.sel.filter (fun p => p.1 / 32 % 2 != c) } }
  due.foldl (fun t p =>
    let off := Reg.bmeWdesc (p.1 / 64) c (p.1 % 32)
    let t1 := (t.setFld off 11 0 p.2.1).setFlag off 31 false
    if p.1 / 64 = 0 then t1.lateSel c tl p.2.2 else t1) s1

/-- Bank swaps waiting at the boundary of carrier c are applied; one that names the bank already active is without effect
(R107). -/
def State.landSwap (s : State) (c : Nat) (tl : Int) : State :=
  let due := s.bme.swap.filter (fun p => p.1 % 2 == c)
  let s1 := { s with bme := { s.bme with swap := s.bme.swap.filter (fun p => p.1 % 2 != c) } }
  due.foldl (fun t p =>
    let t1 := t.setFld Reg.bmeBank p.1 p.1 p.2.1
    let t2 := { t1 with bme := { t1.bme with counted := t1.bme.counted.filter (fun q => q.1 != c || p.1 / 2 != 0) } }
    if p.1 / 2 = 0 ∧ t.bank 0 c ≠ p.2.1 then t2.lateSel c tl p.2.2 else t2) s1

/-- Useful symbol time of carrier c in units of 1/1536 ns (R148). -/
def State.usefulU (s : State) (c : Nat) : Nat := 3125 * (32768 / 2 ^ s.mu c)

/-- Entries in the order in which their due times and issues put them. -/
def insEntry (now : Word) (e : Entry) : List Entry → List Entry
  | [] => [e]
  | x :: r =>
    if tdiff e.due now < tdiff x.due now ∨ (e.due = x.due ∧ e.seq < x.seq) then e :: x :: r else x :: insEntry now e r

/-- The downlink selections of carrier c as one queued action leaves them: 32 descriptors and the bank. -/
def countAction (c : Nat) (u : List Word × Nat) (a : Action) : List Word × Nat :=
  match a with
  | .beamsel 0 car layer index =>
    if car = c then (u.1.modify layer (fun w => putBit (setBits w 11 0 index) 31 false), u.2) else u
  | .wswap dirs cars bank => if dirs % 2 = 1 ∧ cars / 2 ^ c % 2 = 1 then (u.1, bank) else u
  | .wreg off val mask =>
    let base := Reg.bmeWdesc 0 c 0
    if base ≤ off ∧ off < base + 128 then
      (u.1.modify ((off - base) / 4) (fun w => (w &&& ~~~ mask) ||| (val &&& mask)), u.2) else u
  | _ => u

/-- The descriptor is dynamic and its vector for PRB group g lies beyond the dynamic region (R216). -/
def overRange (w : Word) (g : Nat) : Bool := bit w 31 && 6143 < bits w 28 16 + g

/-- The type of the symbol of carrier c that starts at `tl`, by the pattern table (R150, R151). -/
def State.typeAt (s : State) (c : Nat) (tl : Int) : Nat :=
  let k := (tl - s.frameStart).toNat / frameU
  let i := symAt (s.mu c) ((tl - s.frameStart).toNat % frameU)
  typeOf (s.reg (Reg.tlpAirPattern c
    ((((s.reg Reg.tlpAirAfc).toNat + k) % 2 * 10 * 2 ^ s.mu c + i / 14) % max 1 (bits (s.carCfg c) 6 0)))) (i % 14)

/-- Weighting a D or F symbol at `tl` with the descriptors `ds` sets WV_RANGE where a group has no vector (R216). -/
def State.weighRange (s : State) (c : Nat) (tl : Int) (ds : List Word) : State :=
  let car := s.inForce (Reg.bmeCar c)
  if s.typeAt c tl % 2 = 1 ∧ ds.any (fun w => overRange w ((bits car 16 8 - 1) / 2 ^ bits car 30 28)) then
    s.raiseBit Reg.bmeSticky 1
  else s

/-- The uplink selections of carrier c for the symbol that begins now: 32 descriptors and the bank (R220). -/
def State.noteUl (s : State) (c : Nat) : State :=
  { s with bme := { s.bme with
    ulSel := aput s.bme.ulSel c ((List.range 32).map (fun l => s.reg (Reg.bmeWdesc 1 c l)), s.bank 1 c) } }

/-- Combining a U or F symbol of type `ty` that starts at `tl` sets WV_RANGE where a group that an uplink section names has
no vector of its layer's descriptor (R216, R222, R223, R232). -/
def State.combineRange (s : State) (c ty : Nat) (tl : Int) : State :=
  let car := s.inForce (Reg.bmeCar c)
  let u := s.reg (Reg.tlpAirSbfd c)
  let far (x : Sect) : Bool :=
    let last := if ty = 3 then min (x.start + x.num - 1) (bits u 24 16) else x.start + x.num - 1
    let first := if ty = 3 then max x.start (bits u 8 0) else x.start
    !x.dl && !x.rej && x.car == c && x.wts.isNone && x.beam == 0 && x.t0 ≤ tl && tl < x.t1 && 0 < x.num && first ≤ last
      && overRange (s.reg (Reg.bmeWdesc 1 c x.layer)) (last / 2 ^ bits car 30 28)
  if 2 ≤ ty ∧ s.sects.any far then s.raiseBit Reg.bmeSticky 1 else s

/-- The start of the downlink symbol of carrier c whose commit point is now: one useful symbol and 1.80 µs ahead (R219). -/
def State.commitStart (s : State) (c : Nat) : Int :=
  let x : Int := (s.nowU : Int) + s.usefulU c + 1536 * 1800
  let f := s.frameStart + (x - s.frameStart) / frameU * frameU
  f + symStart (s.mu c) (symAt (s.mu c) (x - f).toNat)

/-- Now is a commit point of carrier c: its symbol begins no more than two nanoseconds, the grain of time here, before the
instant looked to. -/
def State.atCommit (s : State) (c : Nat) : Bool := (s.nowU : Int) + s.usefulU c + 1536 * 1800 - s.commitStart c < 3072

/-- Queued entries that count for a symbol that starts at `tl`, in the order in which they apply (R219). -/
def State.counting (s : State) (tl : Int) : List Entry :=
  ((s.taq.map (·.2)).filter (fun e => !e.spent && s.dueU e.due ≤ tl)).foldr (insEntry s.tns) []

/-- The downlink selections of carrier c for a symbol that starts at `tl`: those in force, those waiting for a boundary, and the
queued entries (R219). -/
def State.selections (s : State) (c : Nat) (tl : Int) : List Word × Nat :=
  let base := (List.range 32).map (fun l =>
    match alook s.bme.sel (selKey 0 c l) with
    | some (i, _) => putBit (setBits (s.reg (Reg.bmeWdesc 0 c l)) 11 0 i) 31 false
    | none => s.reg (Reg.bmeWdesc 0 c l))
  let b0 := ((alook s.bme.swap (bankKey 0 c)).map (·.1)).getD (s.bank 0 c)
  (s.counting tl).foldl (fun u e => countAction c u e.act) (base, b0)

/-- The banks that swaps counted for that symbol name. -/
def State.countedFor (s : State) (c : Nat) (tl : Int) : List Nat :=
  ((alook s.bme.swap (bankKey 0 c)).map (·.1)).toList ++ (s.counting tl).filterMap (fun e =>
    match e.act with
    | .wswap dirs cars x => if dirs % 2 = 1 ∧ cars / 2 ^ c % 2 = 1 then some x else none
    | _ => none)

/-- The commit is kept: the symbol with the issue order seen, the selections, the banks counted, the bank weighted from. -/
def State.noteCommit (s : State) (c : Nat) (tl : Int) (u : List Word × Nat) : State :=
  let old := ((alook s.bme.commits c).getD []).filter (fun m => (s.nowU : Int) ≤ m.1)
  { s with bme := { s.bme with
    commits := aput s.bme.commits c (old ++ [(tl, s.seq)]),
    used := aput s.bme.used c u,
    busy := (u.2, (s.nowU : Int) + 1536 * 600) :: s.bme.busy.filter (fun p => (s.nowU : Int) < p.2),
    counted := (s.bme.counted ++ (s.countedFor c tl).map (fun b => (c, b))).eraseDups } }

/-- A host or thread write to WDESC (R217): effective at once, late for a downlink symbol already committed (R219). -/
def State.writeWdesc (s : State) (dir car layer : Nat) (val mask : Word) : State :=
  let s1 := s.writeFields (Reg.bmeWdesc dir car layer) val mask
  if dir = 0 then s1.lateSel car s.nowU s.seq else s1

/-- A write to `BME.ARRAY` (R233): INDEX must stay below SIZE. -/
def State.writeArray (s : State) (val mask : Word) : State :=
  let s1 := s.writeFields Reg.bmeArray val mask
  if s1.fld Reg.bmeArray 25 16 < s1.fld Reg.bmeArray 10 0 then s1 else s.raiseBit Reg.bmeSticky 0

/-- A write to a register held to the frame boundary (R210): it lands there, or at the alignment. -/
def State.writeFrameReg (s : State) (off : Nat) (val mask : Word) : State := s.writeFields off val mask

/-- Stage events of a symbol counted in `BME.CNT` with their sticky bits (R212, R213, R224, R227, R236). -/
def State.bmeCount (s : State) (p : Nat × Nat) : State :=
  if p.2 = 0 then s
  else
    let s1 := s.count (Reg.bmeCnt (p.1 % 16)) 31 0 p.2
    match p.1 % 16 with
    | 0 => s1.raiseBit Reg.bmeSticky 3 | 1 => s1.raiseBit Reg.bmeSticky 3 | 2 => s1.raiseBit Reg.bmeSticky 4
    | 3 => s1.raiseBit Reg.bmeSticky 8 | 6 => s1.raiseBit Reg.bmeSticky 6 | 7 => s1.raiseBit Reg.bmeSticky 7
    | _ => s1

/-! ## Block floating point (R227-R229) -/

/-- The bits of bytes, most significant first. -/
def bitsMsb (bs : List Byte) : List Bool := bs.flatMap (fun b => (List.range 8).map (fun i => b.getLsbD (7 - i)))

/-- The number that bits spell, most significant first. -/
def msbNat (l : List Bool) : Nat := l.foldl (fun a b => 2 * a + b.toNat) 0

/-- Signed fields of `w` bits, `n` of them, packed most significant bit first. -/
def unpackMsb (w : Nat) : Nat → List Bool → List Int
  | 0, _ => []
  | n + 1, l => sgn w (msbNat (l.take w)) :: unpackMsb w n (l.drop w)

/-- Bits grouped into bytes, most significant first. -/
def packBytes : Nat → List Bool → List Byte
  | 0, _ => []
  | n + 1, l => BitVec.ofNat 8 (msbNat (l.take 8 ++ List.replicate (8 - (l.take 8).length) false)) :: packBytes n (l.drop 8)

/-- `w` bits of a number, most significant first. -/
def natMsb (w v : Nat) : List Bool := (List.range w).map (fun i => v.testBit (w - 1 - i))

/-- The 24 components of a partial-sum unit in Q24.23 (R229). -/
def psDecode (unit : List Byte) : List Int :=
  let e := (unit.headD 0).toNat % 32
  (unpackMsb 14 24 (bitsMsb unit.tail)).map (fun m => m * 2 ^ (e + 2))

/-- The least exponent at which every component fits in `w` bits, of `n` exponents from `e` on. -/
def fitExp (w sh : Nat) (vs : List Int) : Nat → Nat → Nat
  | 0, e => e
  | n + 1, e => if vs.all (fun v => satS w (rne v (sh + e)) == rne v (sh + e)) then e else fitExp w sh vs n (e + 1)

/-- The 43-byte partial-sum unit of 24 components (R229). -/
def psEncode (vs : List Int) : List Byte :=
  let e := fitExp 14 2 vs 31 0
  BitVec.ofNat 8 e :: packBytes 42 (vs.flatMap (fun v => natMsb 14 (unsgn 14 (satS 14 (rne v (e + 2))))))

/-- Saturating addition of Q24.23 components, and how many saturated (R224). -/
def psAdd (a b : List Int) : List Int × Nat :=
  let l := (a.zip b).map (fun p => (satS 47 (p.1 + p.2), satS 47 (p.1 + p.2) != p.1 + p.2))
  (l.map (·.1), l.countP (·.2))

/-- One PRB of uplink layer data encoded for the fronthaul: width, compressed or not, SHIFT (R228); the bytes and how many
components were clamped. -/
def ulEncode (w shift : Nat) (comp : Bool) (vs : List Int) : List Byte × Nat :=
  let w' := if comp then w else 16
  let e := if comp then fitExp w' (8 + shift) vs 15 0 else 0
  let ms := vs.map (fun v => rne v (8 + shift + e))
  let body := packBytes (3 * w') (ms.flatMap (fun m => natMsb w' (unsgn w' (satS w' m))))
  (if comp then BitVec.ofNat 8 e :: body else body, ms.countP (fun m => satS w' m != m))

/-- The 24 components of one PRB of layer data in Q1.23 (R227), and how many were clamped. -/
def bfpDecode (w : Nat) (comp : Bool) (bs : List Byte) : List Int × Nat :=
  let e := if comp then (bs.headD 0).toNat % 16 else 0
  let vs := (unpackMsb (if comp then w else 16) 24 (bitsMsb (if comp then bs.tail else bs))).map (fun m => m * 2 ^ (e + 8))
  (vs.map (satS 24), vs.countP (fun v => satS 24 v != v))

end Sys2Proof.Machine
end

