-- ==== Sys2Proof/Machine/Signal.lean ====
section
/-! DEFINITION. The arithmetic of the samples: complex numbers in the fixed-point formats of R4 and R5, the stages of a transmit
path (07_transmit_path.md, 11_linearisation.md), of a receive path (08_receive_path.md) and of the canceller
(10_duplex_canceller.md), and the transforms of the beam engine (R213), each as a function of samples alone. -/
namespace Sys2Proof.Machine

/-! ## Numbers -/

/-- A complex sample, I and Q. -/
abbrev Cx := Int × Int

def Cx.add (a b : Cx) : Cx := (a.1 + b.1, a.2 + b.2)
def Cx.sub (a b : Cx) : Cx := (a.1 - b.1, a.2 - b.2)
def Cx.mul (a b : Cx) : Cx := (a.1 * b.1 - a.2 * b.2, a.1 * b.2 + a.2 * b.1)
def Cx.conj (a : Cx) : Cx := (a.1, -a.2)
def Cx.scale (k : Int) (a : Cx) : Cx := (k * a.1, k * a.2)
/-- |a|². -/
def Cx.sq (a : Cx) : Nat := a.1.natAbs ^ 2 + a.2.natAbs ^ 2
def Cx.sum (l : List Cx) : Cx := l.foldl Cx.add (0, 0)
/-- Both components rounded from `k` further fraction bits, ties to even. -/
def Cx.rne (k : Nat) (a : Cx) : Cx := (Machine.rne a.1 k, Machine.rne a.2 k)

/-- Both components clamped to Q1.23, and 1 where either was (R186, R205). -/
def clampQ (a : Cx) : Cx × Nat :=
  let b : Cx := (satS 24 a.1, satS 24 a.2)
  (b, if b = a then 0 else 1)

/-- Entry `i` of a history, newest first; what has not been is 0. -/
def back (h : List Cx) (i : Nat) : Cx := (h[i]?).getD (0, 0)

/-- A sample enters a history of at most `n`. -/
def enter {α : Type} (n : Nat) (x : α) (h : List α) : List α := x :: h.take (n - 1)

/-- The word of a weight, tap or knot: I in [15:0], Q in [31:16]. -/
def wordCx (w : Word) : Cx := (sgn 16 (bits w 15 0), sgn 16 (bits w 31 16))

/-- Bisection for the greatest root: `fuel` halvings of [lo, hi). -/
def rootFrom (ok : Nat → Bool) : Nat → Nat → Nat → Nat
  | 0, lo, _ => lo
  | fuel + 1, lo, hi =>
    let m := (lo + hi) / 2
    if ok m then rootFrom ok fuel m hi else rootFrom ok fuel lo m

/-- floor(sqrt n). -/
def isqrt (n : Nat) : Nat :=
  let w := Nat.log2 n / 2 + 2
  rootFrom (fun m => m * m ≤ n) w 0 (2 ^ w)

/-- round(2^b × 10^(-d/2000)) (R176, R201): the greatest m with (m − 1/2) / 2^b ≤ 10^(-d/2000). -/
def decibel (b d : Nat) : Nat :=
  rootFrom (fun m => m = 0 || (2 * m - 1) ^ 2000 * 10 ^ d ≤ 2 ^ (2000 * (b + 1))) (b + 2) 0 (2 ^ (b + 2))

/-- The multiplier of the transmit gain stage, Q1.15 (R176). -/
def txMult (d : Nat) : Nat := min 0x7FFF (decibel 15 d)

/-- The multiplier of the receive gain stage, Q1.17 (R201). -/
def rxMult (d : Nat) : Nat := min 0x1FFFF (decibel 17 d)

/-- 10·log10(a / b) in 0.01 dB for a, b above 0, rounded to the nearest (log 109), between −40,000 and 131,072. -/
def db100 (a b : Nat) : Int :=
  let ok (m : Nat) : Bool :=
    let v : Int := 2 * ((m : Int) - 40000) - 1
    if 0 ≤ v then 10 ^ v.toNat * b ^ 2000 ≤ a ^ 2000 else b ^ 2000 ≤ a ^ 2000 * 10 ^ v.natAbs
  (rootFrom ok 18 0 (2 ^ 17 + 40000) : Int) - 40000

/-- `num / den` rounded, ties to even. -/
def rneQ (num : Int) (den : Nat) : Int :=
  let q := num / den
  let r := num % den
  if (den : Int) < 2 * r ∨ (2 * r = den ∧ q % 2 = 1) then q + 1 else q

/-- A sample rotated by `num / den` of a turn (log 106). -/
def turn (num den : Int) (x : Cx) : Cx := if num % den = 0 then x else Config.rotate (num % den) den x

/-! ## Filters (log 105) -/

def fI3 : Nat := 0
def fR85 : Nat := 1
def fRef : Nat := 2
def fD1 : Nat := 3
def fD2 : Nat := 4
def fEst : Nat := 5
def fTrain : Nat := 6
def fObs : Nat := 7
def fUp : Nat := 8
def fDown : Nat := 9

/-- Samples a filter looks back on (log 105). -/
def span : Nat := 128

/-- Phases `0..p-1` of a filter over a history, each clamped to Q1.23; how many were clamped. -/
def phases (f p : Nat) (h : List Cx) : List Cx × Nat :=
  let l := (List.range p).map (fun i => clampQ (Config.filter f 0 i (h.take span)))
  (l.map (·.1), (l.map (·.2)).foldl (· + ·) 0)

/-- A history delayed by whole samples and 2^-16 of one (R174, R200). -/
def delayed (int frac : Nat) (h : List Cx) : Cx :=
  if frac = 0 then back h int else Config.fracDelay frac ((h.drop int).take span)

/-! ## Crest-factor reduction (R253) -/

/-- Magnitude of a sample in 2^-24 of a unit, its error within 2^-20 of it (log 108). -/
def cfrMag (x : Cx) : Nat :=
  let r := isqrt (x.sq * 2 ^ 48)
  ((r : Int) + clampI (-((r / 2 ^ 21 : Nat) : Int)) ((r / 2 ^ 21 : Nat) : Int) (Config.magErr x.sq)).toNat

/-- Sample `i` is a peak of the stage input: above the threshold, above the samples up to `sep` before it, not below those up to
`sep` after it. `ms` are the squares of the magnitudes, `t2` that of the threshold. -/
def isPeak (ms : List Nat) (sep t2 i : Nat) : Bool :=
  let m := (ms[i]?).getD 0
  t2 < m && ((ms.take i).drop (i - sep)).all (· < m) && ((ms.drop (i + 1)).take sep).all (· ≤ m)

/-- A peak is cancelled when it is among the 16 largest peaks of every 128 consecutive samples it lies in (log 108). -/
def isTaken (ps : List (Nat × Nat)) (p : Nat × Nat) : Bool :=
  (List.range 128).all (fun d =>
    ps.countP (fun q => p.1 ≤ q.1 + d && q.1 + d < p.1 + 128 && (p.2 < q.2 || (p.2 == q.2 && q.1 < p.1))) < 16)

/-- Exact sums of fractions, I and Q with one denominator. -/
def addFrac (a b : Cx × Nat) : Cx × Nat := (Cx.add (Cx.scale b.2 a.1) (Cx.scale a.2 b.1), a.2 * b.2)

/-- The settings of CFR: threshold in Q1.23, separation, stages, the two pulses. -/
structure CfrCfg where
  thr    : Nat
  sep    : Nat
  stages : Nat
  pulse  : List Cx
  pulseF : List Cx
  deriving DecidableEq, Repr

/-- The peaks a stage cancels in a stretch of samples, as place and square of the magnitude. -/
def cfrPeaks (g : CfrCfg) (xs : List (Cx × Bool)) : List (Nat × Nat) :=
  let ms := xs.map (fun x => x.1.sq)
  let ps := ((List.range xs.length).filter (isPeak ms g.sep (g.thr ^ 2))).map (fun i => (i, (ms[i]?).getD 0))
  ps.filter (isTaken ps)

/-- One stage of peak cancellation over a stretch of samples. -/
def cfrStage (g : CfrCfg) (xs : List (Cx × Bool)) : List (Cx × Bool) :=
  let ps := cfrPeaks g xs
  (List.range xs.length).map (fun i =>
    let x := (xs[i]?).getD ((0, 0), false)
    let near := ps.filter (fun p => p.1 ≤ i + 64 && i < p.1 + 64)
    let v := near.foldl (fun (a : Cx × Nat) p =>
      let q := (xs[p.1]?).getD ((0, 0), false)
      let mag := cfrMag q.1
      let tap : Cx := if i = p.1 then (2 ^ 15, 0) else back (if q.2 then g.pulseF else g.pulse) (i + 64 - p.1)
      addFrac a (Cx.scale (g.thr * 2 ^ 24 - mag) (Cx.mul q.1 tap), 2 ^ 15 * mag)) (x.1, 1)
    ((rneQ v.1.1 v.2, rneQ v.1.2 v.2), x.2))

/-- The stages of CFR one after the other, and the peaks each cancels at place `c`. -/
def cfrStages (g : CfrCfg) (c : Nat) : Nat → List (Cx × Bool) → List (Cx × Bool) × Nat
  | 0, xs => (xs, 0)
  | n + 1, xs =>
    let r := cfrStages g c n (cfrStage g xs)
    (r.1, r.2 + (cfrPeaks g xs).countP (fun p => p.1 == c))

/-- The hard clip: the sample, and whether it was changed. -/
def hardClip (thr : Nat) (x : Cx) : Cx × Bool :=
  if thr ^ 2 < x.sq then
    let mag := cfrMag x
    ((rneQ (x.1 * (thr * 2 ^ 24)) mag, rneQ (x.2 * (thr * 2 ^ 24)) mag), true)
  else (x, false)

/-- Samples before and after a sample that three stages of CFR look at: each stage 64 for a pulse, 15 for a separation and 127 for
the largest of 128. -/
def cfrReach : Nat := 618

/-- The CFR output at place `cfrReach` of a stretch; peaks cancelled there, and whether it was hard-clipped. -/
def cfrOut (g : CfrCfg) (xs : List (Cx × Bool)) : Cx × Nat × Bool :=
  let r := cfrStages g cfrReach g.stages xs
  let h := hardClip g.thr ((r.1[cfrReach]?).getD ((0, 0), false)).1
  (h.1, r.2, h.2)

/-! ## The predistorter (R255) -/

/-- A branch of the set in force: M, L, SHIFT and its knots. -/
structure DpdBranch where
  m     : Nat
  l     : Int
  shift : Nat
  knots : List Cx
  deriving DecidableEq, Repr

/-- G_b of an envelope sample, in 2^-30. -/
def dpdGain (knots : List Cx) (v : Cx) : Cx :=
  let r : Nat := isqrt v.sq
  let i := r / 2 ^ 17
  if 63 ≤ i then Cx.scale (2 ^ 16) (back knots 63)
  else
    let f : Nat := r % 2 ^ 17 / 2
    Cx.add (Cx.scale (2 ^ 16) (back knots i)) (Cx.scale f (Cx.sub (back knots (i + 1)) (back knots i)))

/-- The DPD output for the sample eight places back in the input history, which holds the samples that L_b ≥ −8 names. -/
def dpdOut (bs : List DpdBranch) (h : List Cx) : Cx :=
  Cx.rne 37 (Cx.sum (bs.map (fun b =>
    Cx.scale (2 ^ (7 - b.shift)) (Cx.mul (back h (8 + b.m)) (dpdGain b.knots (back h (8 + b.m + b.l).toNat))))))

/-! ## Transmit path (R169) -/

/-- What a sample meets on a transmit path: CFR where it is active, DPD where it is active, delay, multiplier, whether the DAC
interface is muted, IQCORR and DCOFF of the active port, what CAL drives. -/
structure TxCfg where
  cfr  : Option CfrCfg
  dpd  : Option (List DpdBranch)
  int  : Nat
  frac : Nat
  mult : Nat
  mute : Bool
  iq   : Word
  dc   : Word
  cal  : Option Cx
  deriving DecidableEq, Repr

/-- One sample at 1474.56 MS/s through DPD, delay and gain; clamps of DPD. -/
def txFine (g : TxCfg) (p : TxChain × Nat) (x : Cx) : TxChain × Nat :=
  let i3 := enter 64 x p.1.i3
  let y := match g.dpd with
    | some bs => clampQ (dpdOut bs i3)
    | none => (back i3 8, 0)
  let dpd := enter 256 y.1 p.1.dpd
  let z := Cx.rne 15 (Cx.scale g.mult (delayed g.int g.frac dpd))
  let gain := enter span z p.1.gain
  ({ p.1 with i3 := i3, dpd := dpd, gain := gain, tap := enter span (if g.mute then (0, 0) else z) p.1.tap }, p.2 + y.2)

/-- The DAC interface for one sample at 3932.16 MS/s (R181): the codes, and 1 where one was clamped. -/
def dacSample (g : TxCfg) (x : Cx) : Cx × Nat :=
  let r := if g.mute then dacCodes g.iq g.dc 0 0 else dacCodes g.iq g.dc x.1 x.2
  ((r.1, r.2.1), r.2.2.toNat)

/-- One path sample through a transmit path: `sum` the carrier sum with the type of its symbol, `ahead` the sums that follow it.
Clamps and peaks are told as counts. -/
def txThrough (g : TxCfg) (p : TxChain) (sum : Cx × Bool) (ahead : List (Cx × Bool)) : TxChain × PathMeas :=
  let c : Cx × Nat × Bool := match g.cfr with
    | some f =>
      let past := (List.range cfrReach).map (fun i => (p.past[cfrReach - 1 - i]?).getD ((0, 0), false))
      cfrOut f (past ++ [sum] ++ ahead)
    | none => (sum.1, 0, false)
  let cfr := enter span c.1 p.cfr
  let i3 := phases fI3 3 cfr
  let q := i3.1.foldl (txFine g) ({ p with past := enter cfrReach sum p.past, cfr := cfr }, 0)
  let r85 := phases fR85 8 q.1.gain
  let dac := r85.1.map (dacSample g)
  let code := match g.cal with
    | some x => x
    | none => ((dac.map (·.1)).getLast?).getD (0, 0)
  let ref := (phases fRef 2 q.1.tap).1
  ({ q.1 with dac := code, ref := ref.foldl (fun h x => enter 640 x h) p.ref },
   { txI3 := i3.2, txDpd := q.2, txDac := if g.cal.isSome then 0 else r85.2 + (dac.map (·.2)).foldl (· + ·) 0, peaks := c.2.1,
     hard := c.2.2.toNat })

/-! ## Receive path (R189) -/

/-- cos(2π i / 16) in 2^-17, as 18-bit components hold it (R196; log 110). -/
def cos16 (i : Nat) : Int :=
  (([131071, 121095, 92682, 50159, 0, -50159, -92682, -121095, -131072, -121095, -92682, -50159, 0, 50159, 92682,
     121095] : List Int)[i % 16]?).getD 0

/-- e^(-j 2π i / 16). -/
def wheel (i : Nat) : Cx := (cos16 i, cos16 (i + 4))

/-- f_IF in sixteenths of the ADC rate (R194, R196). -/
def ifStep (code : Nat) : Nat := (([2, 14, 3, 13] : List Nat)[code]?).getD 2

/-- What a sample meets on a receive path: number of its first ADC sample, IF step, image taps where the correction is active,
whether D tracks and its shift, delay, multiplier, HIGH, whether SIC subtracts, whether the symbol counts for P_in and P_out,
or for P_fl. -/
structure RxCfg where
  k     : Nat
  step  : Nat
  irr   : Option (List Cx)
  track : Bool
  mu    : Nat
  int   : Nat
  frac  : Nat
  mult  : Nat
  high  : Nat
  sic   : Bool
  qual  : Bool
  floor : Bool
  deriving DecidableEq, Repr

/-- One ADC sample through the stages up to SIC: `j` its place in the path sample, `est` the estimate (R196-R198, R202, R205,
R249). -/
def rxFine (g : RxCfg) (p : RxChain × PathMeas) (a : Nat × Cx × Cx) : RxChain × PathMeas :=
  let k := (g.k + a.1) * g.step
  let code := a.2.1
  let clip := code.1 = -8192 ∨ code.1 = 8191 ∨ code.2 = -8192 ∨ code.2 = 8191
  let mag := max code.1.natAbs code.2.natAbs
  let x := clampQ (Cx.rne 17 (Cx.mul (adcValue code.1, adcValue code.2) (wheel k)))
  let hx := enter 16 x.1 p.1.x
  let z := match g.irr with
    | none => (back hx 3, 0)
    | some w => clampQ (Cx.rne 32 (Cx.add (Cx.scale (2 ^ 32) (back hx 3)) (Cx.sum ((List.range 8).map (fun i =>
        Cx.mul (back w i) (Cx.mul (Cx.conj (back hx i)) (wheel (2 * (k + 16 * 8 * g.step - i * g.step)))))))))
  let y := clampQ (Cx.rne 54 (Cx.sub (Cx.scale (2 ^ 54) z.1) (Cx.mul p.1.d (wheel k))))
  let d := if g.track then Cx.add p.1.d (Cx.scale (2 ^ (20 - g.mu)) (Cx.mul y.1 (Cx.conj (wheel k)))) else p.1.d
  let o := if g.sic then clampQ (Cx.sub y.1 a.2.2) else (y.1, 0)
  let q : RxChain := { p.1 with
    x := hx, y := enter span y.1 p.1.y, sub := enter span o.1 p.1.sub, d := d
    hits := p.1.hits + (if g.high ≤ mag then 1 else 0), clip := p.1.clip + (if clip then 1 else 0), peak := max p.1.peak mag
    pin := p.1.pin + (if g.qual ∧ ¬clip then y.1.sq else 0), pout := p.1.pout + (if g.qual ∧ ¬clip then o.1.sq else 0)
    nf := p.1.nf + (if g.qual ∧ ¬clip then 1 else 0)
    pfl := p.1.pfl + (if g.floor then y.1.sq else 0), ng := p.1.ng + (if g.floor then 1 else 0) }
  (q, { p.2 with rxAdc := p.2.rxAdc + (if clip then 1 else 0), rxFront := p.2.rxFront + max x.2 (max z.2 y.2),
                 rxSic := p.2.rxSic + o.2 })

/-- One path sample through a receive path: its four ADC samples with the estimates; the sample delivered, clamps as counts. -/
def rxThrough (g : RxCfg) (p : RxChain) (codes ests : List Cx) : RxChain × Cx × PathMeas :=
  let q := ((List.range 4).map (fun j => (j, back codes j, back ests j))).foldl (rxFine g) (p, {})
  let d1 := phases fD1 2 q.1.sub
  let h1 := d1.1.foldl (fun h x => enter span x h) q.1.d1
  let d2 := phases fD2 1 h1
  let h2 := d2.1.foldl (fun h x => enter (span + 32) x h) q.1.d2
  let y983 := (phases fTrain 2 q.1.y).1.foldl (fun h x => enter 640 x h) q.1.y983
  ({ q.1 with d1 := h1, d2 := h2, y983 := y983 }, Cx.rne 17 (Cx.scale g.mult (delayed g.int g.frac h2)),
   { q.2 with rxDec := d1.2 + d2.2 })

/-! ## The canceller's model (R241) -/

/-- A reference of a receive path: its samples rotated to the LO of the path, newest first, from delay D on; its sixteen
coefficients in Q4.20. -/
def refTerm (u : List Cx) (cs : List Cx) : Cx :=
  Cx.sum ((List.range 16).map (fun j =>
    let m := if j < 8 then j else if j < 11 then j - 8 else if j < 13 then j - 11 else j - 13
    let x := back u m
    let phi : Cx :=
      if j < 8 then Cx.scale (2 ^ 92) x
      else if j < 11 then Cx.scale (2 ^ 46 * (x.sq : Int)) x
      else if j < 13 then Cx.scale ((x.sq : Int) * x.sq) x
      else Cx.scale (2 ^ 92) (Cx.conj x)
    Cx.mul (back cs j) phi))

/-- s' in 2^-60, from the references and the steps n_a − NT (log 111). -/
def modelOut (refs : List (List Cx × List Cx)) (steps : Int) : Cx :=
  let v := Cx.sum (refs.map (fun r => refTerm r.1 r.2))
  let g := if 0 ≤ steps then decibel 40 (100 * steps.toNat) else 10 ^ 40 / decibel 40 (100 * steps.natAbs)
  if 0 ≤ steps then Cx.rne 115 (Cx.scale g v)
  else
    let d := decibel 40 (100 * steps.natAbs)
    (rneQ v.1 (2 ^ 35 * d), rneQ v.2 (2 ^ 35 * d))

/-! ## Transforms (R213) -/

/-- Redundant sign bits of a 32-bit component. -/
def redundant (v : Int) : Nat :=
  let m := if v < 0 then (-v - 1).toNat else v.toNat
  31 - (if m = 0 then 0 else Nat.log2 m + 1)

/-- The least redundant sign count of the components of a stage input. -/
def headroom (bs : List (List Cx)) : Nat :=
  bs.foldl (fun a b => b.foldl (fun h x => min h (min (redundant x.1) (redundant x.2))) a) 31

/-- floor(v / 2^k + 1/2). -/
def roundUp (k : Nat) (v : Int) : Int := (2 * v + 2 ^ k) / 2 ^ (k + 1)

/-- (−j)^t × a, or j^t × a for the inverse transform. -/
def quarter (inv : Bool) (t : Nat) (a : Cx) : Cx :=
  match (if inv then 4 - t % 4 else t) % 4 with
  | 0 => a
  | 1 => (a.2, -a.1)
  | 2 => (-a.1, -a.2)
  | _ => (-a.2, a.1)

/-- Twiddle i of n in 2^-17, conjugated for the inverse transform; none where it is 1 (log 107). -/
def twiddled (inv : Bool) (n i k : Nat) (a : Cx) : Cx :=
  if i % n = 0 then (roundUp k a.1, roundUp k a.2)
  else
    let w := Config.twiddle n (i % n)
    let p := Cx.mul a (if inv then Cx.conj w else w)
    (roundUp (k + 17) p.1, roundUp (k + 17) p.2)

/-- A radix-4 stage with shift k: every block of 4 m samples becomes four of m (log 107). -/
def radix4 (inv : Bool) (k : Nat) (bs : List (List Cx)) : List (List Cx) :=
  bs.flatMap (fun b =>
    let m := b.length / 4
    (List.range 4).map (fun t =>
      ((List.range m).zip ((b.take m).zip (((b.drop m).take m).zip (((b.drop (2 * m)).take m).zip (b.drop (3 * m)))))).map
        (fun e => twiddled inv (4 * m) (e.1 * t) k
          (Cx.add (Cx.add e.2.1 (quarter inv t e.2.2.1)) (Cx.add (quarter inv (2 * t) e.2.2.2.1) (quarter inv (3 * t) e.2.2.2.2))))))

/-- A radix-2 stage on blocks of two samples. -/
def radix2 (k : Nat) (bs : List (List Cx)) : List (List Cx) :=
  bs.flatMap (fun b =>
    let x := back b 0
    let y := back b 1
    [[(roundUp k (x.1 + y.1), roundUp k (x.2 + y.2))], [(roundUp k (x.1 - y.1), roundUp k (x.2 - y.2))]])

/-- The stages of a transform of 2^n samples; the accumulated shift F. -/
def stages (inv : Bool) : Nat → Nat → List (List Cx) → List (List Cx) × Nat
  | 0, f, bs => (bs, f)
  | 1, f, bs =>
    let k := 2 - headroom bs
    (radix2 k bs, f + k)
  | n + 2, f, bs =>
    let k := 3 - headroom bs
    stages inv n (f + k) (radix4 inv k bs)

/-- The place, among the results in the order the stages leave them, of the result with index `i` of 2^n. -/
def place : Nat → Nat → Nat
  | 0, _ => 0
  | 1, i => i
  | n + 2, i => (i % 4) * 2 ^ n + place n (i / 4)

/-- The transform of 2^n samples (R213), with its components clamped to `w` bits: results in the order of their index, F, and the
components clamped. -/
def transform (inv : Bool) (n sh w : Nat) (xs : List Cx) : List Cx × Nat × Nat :=
  let r := stages inv n 0 [xs]
  let st := (r.1.flatMap id).toArray
  let scale (v : Int) : Int := if sh ≤ r.2 then v * 2 ^ (r.2 - sh) else rne v (sh - r.2)
  let l := (List.range (2 ^ n)).map (fun i =>
    let x := (st[place n i]?).getD (0, 0)
    (scale x.1, scale x.2))
  let cut := l.map (fun x => (satS w x.1, satS w x.2))
  (cut, r.2, (l.zip cut).foldl (fun a p => a + (if p.1.1 = p.2.1 then 0 else 1) + (if p.1.2 = p.2.2 then 0 else 1)) 0)

end Sys2Proof.Machine
end

