-- ==== Sys2Proof/Machine/Sic.lean ====
section
/-! DEFINITION. The duplex canceller (10_duplex_canceller.md): coefficient pages and their swap, surveys, training snapshots,
cancellation quality. -/
namespace Sys2Proof.Machine

/-- Byte address of page h of (r, p) (R243). -/
def sicPage (r p h : Nat) : Nat := 0x580000 + 0x1000 * r + 0x800 * p + 0x400 * h

/-- The active page of (r, p). -/
def State.sicActive (s : State) (r p : Nat) : Nat := s.fld (Reg.sicStat r) p p

/-- The bits a page word stores (R243). -/
def pageMask (rel : Nat) : Word :=
  if rel < 0x200 then 0x00FFFFFF
  else if rel = 0x200 then 0x801F0000
  else if rel = 0x204 then 0xFFFFFFFF
  else if rel = 0x208 then 0x3F3F3F3F
  else 0

/-- What a page word reads as: coefficients sign-extended from 24 bits (R243). -/
def pageRead (rel : Nat) (w : Word) : Word := if rel < 0x200 then sext32 24 w.toNat else w

/-- A discarded write of R244, R246 and R248. -/
def State.sicBad (s : State) : State := s.bump Reg.sicCntBadw

/-- A write to a coefficient page (R244): only the shadow page takes it, and NT does not take 31 (R11, R243). -/
def State.writePage (s : State) (off : Nat) (val mask : Word) : State :=
  let a := (off - 0x580000) / 4 * 4
  let r := a / 0x1000
  let p := a / 0x800 % 2
  let h := a / 0x400 % 2
  if s.sicActive r p = h then (s.sicBad).raiseBit Reg.sicSticky 3
  else
    let full := mask &&& pageMask (a % 0x400)
    let m := if a % 0x400 = 0x200 ∧ bits (val &&& full) 20 16 = 31 then full &&& 0xFFE0FFFF else full
    if m = 0 then s
    else
      let o := s.readDev (0x580000 + a)
      o.2.putWord (0x580000 + a) ((o.1 &&& ~~~ m) ||| (val &&& m))

/-- The pending swaps of path r come into force (R245). -/
def State.swapPages (s : State) (r : Nat) : State :=
  let w := s.reg (Reg.sicStat r)
  let pend := bits w 5 4
  s.setReg (Reg.sicStat r) (setBits (setBits w 1 0 (bits w 1 0 ^^^ pend)) 5 4 0)

/-- A write to `SIC.COMMIT[p][w]` (R245). -/
def State.writeCommit (s : State) (p w : Nat) (v : Word) : State :=
  (setBitsOf v 32).foldl (fun t b =>
    let r := 32 * w + b
    let t1 := t.setFlag (Reg.sicStat r) (4 + p) true
    if t1.inCarrier (groupOf r) then t1 else t1.swapPages r) s

/-- The LO of the group of path t lies farther than 200 MHz from that of path r (R240). -/
def State.farFrom (s : State) (t r : Nat) : Bool :=
  kHz 200000 < ((s.loF (groupOf t) : Int) - (s.loF (groupOf r) : Int)).natAbs

/-- References of path r farther than 200 MHz from its group are excluded for the slot (R240); a poisoned selection word names
none (R243). -/
def State.judgeFar (s0 : State) (r : Nat) : State :=
  let p := s0.port (groupOf r)
  let q := s0.readDev (sicPage r p (s0.sicActive r p) + 0x204)
  let s := q.2
  let far := (List.range 4).filter (fun i => bit q.1 (8 * i + 7) && s.farFrom (bits q.1 (8 * i + 6) (8 * i)) r)
  let s1 := s.setFld (Reg.sicStat r) 11 8 (far.foldl (fun m i => m + 2 ^ i) 0)
  if far = [] then s1 else s1.raiseBit Reg.sicSticky 2

/-- DEPTH of a slot: 10·log10(P_in / P_out), unsigned and saturating; a free value where both are 0 (R249; log 109). -/
def State.depth (s : State) (c : RxChain) : Nat × State :=
  if c.pin = 0 ∧ c.pout = 0 then
    let f := s.takeFree
    (f.1.toNat % 65536, f.2)
  else if c.pin = 0 then (0, s)
  else if c.pout = 0 then (65535, s)
  else (min 65535 (db100 c.pin c.pout).toNat, s)

/-- RESID of a slot: 10·log10(P_out / P_fl), signed; a free value where one of them is 0 (R249; log 109). -/
def State.resid (s : State) (c : RxChain) : Nat × State :=
  if c.pout = 0 ∨ c.pfl = 0 then
    let f := s.takeFree
    (f.1.toNat % 65536, f.2)
  else (unsgn 16 (satS 16 (db100 (c.pout * c.ng) (c.pfl * c.nf))), s)

/-- The quality figures of path r for the slot that ends (R249), and the sums begun anew. -/
def State.noteQual (s : State) (r : Nat) : State :=
  let c := s.rxc r
  let s1 := s.setRxc r { c with pin := 0, pout := 0, nf := 0, pfl := 0, ng := 0 }
  if c.nf = 0 then s1.setFlag (Reg.sicStat r) 31 false
  else
    let d := s1.depth c
    let s2 := (d.2.setFld (Reg.sicQual r) 15 0 d.1).setFlag (Reg.sicStat r) 31 true
    let s3 := if c.ng = 0 then s2 else
      let e := s2.resid c
      e.2.setFld (Reg.sicQual r) 31 16 e.1
    if d.1 < s3.fld Reg.sicCtl 31 16 then (s3.setFlag (Reg.sicStat r) 30 true).raiseBit Reg.sicSticky 0
    else s3.setFlag (Reg.sicStat r) 30 false

def State.setSurvey (s : State) (v : Option (Nat × List (Int × Nat))) : State := { s with smp := { s.smp with survey := v } }
def State.setSnap (s : State) (v : Option SnapRec) : State := { s with smp := { s.smp with snap := v } }

/-- A write to `SIC.SURVEY` (R246): START arms, or is discarded while BUSY; ABORT ends. -/
def State.writeSurvey (s : State) (val mask : Word) : State :=
  let w := val &&& mask
  let busy := s.flag Reg.sicSurvey 29
  let s1 := s.writeFields Reg.sicSurvey val mask
  let s2 := if bit w 31 then
      (if busy then s1.sicBad
       else ((s1.setFlag Reg.sicSurvey 28 false).setFlag Reg.sicSurvey 29 true).setSurvey none) else s1
  if bit w 30 && s2.flag Reg.sicSurvey 29 then
    ((s2.setFlag Reg.sicSurvey 29 false).setFlag Reg.sicSurvey 28 false).setSurvey none
  else s2

/-- The index of the strongest level among paths not yet taken; ties go to the lower path (R246). -/
def strongest (lv : List Int) (taken : List Nat) : Nat :=
  (List.range 128).foldl (fun b t =>
    if taken.contains t then b
    else if taken.contains b ∨ (lv[b]?).getD (-32768) < (lv[t]?).getD (-32768) then t else b) 0

/-- The four strongest, strongest first. -/
def topFour (lv : List Int) : List Nat :=
  (List.range 4).foldl (fun l _ => l ++ [strongest lv l]) []

/-- Four bytes as a word, the first in [7:0]. -/
def packFour (l : List Nat) : Word := BitVec.ofNat 32 (l.foldr (fun b a => a * 256 + b % 256) 0)

/-- Sample `i` back of the reference of path t, rotated to the LO of path r (R240). -/
def State.refAt (s : State) (t r i : Nat) : Cx :=
  turn (((s.loF (groupOf t) : Int) - (s.loF (groupOf r) : Int)) * ((2 * s.smp.n + 1 : Nat) - (i : Int))) (kHz 983040)
    (back (s.txc t).ref i)

/-- The sixteen terms of E_t in 2^-110: the squares of the correlations of the last 512 samples of y_r with the reference of path
t at the delays from `lag` on (R246). -/
def State.surveyTerms (s : State) (t r lag : Nat) : List Nat :=
  let y := (s.rxc r).y983.take 512
  (List.range 16).map (fun m => (Cx.sum ((List.range 512).map (fun k =>
    Cx.mul (back y k) (Cx.conj (s.refAt t r (lag + m + k)))))).sq)

/-- The first place of the greatest of a list. -/
def argMax (l : List Nat) : Nat :=
  (List.range l.length).foldl (fun b i => if (l[b]?).getD 0 < (l[i]?).getD 0 then i else b) 0

/-- Level and lag of path t, 512 samples having been taken: −32,768 where E_t is 0 or the path is far (R246). -/
def State.surveyOf (s : State) (r t : Nat) : Int × Nat :=
  let lag := s.fld Reg.sicSurvey 21 16
  if s.farFrom t r then (-32768, lag)
  else
    let e := s.surveyTerms t r lag
    let sum := e.foldl (· + ·) 0
    (if sum = 0 then -32768 else db100 sum (2 ^ 110), lag + argMax e)

/-- A survey finishes (R246): levels, ranks and lags of what it has taken. -/
def State.surveyDone (s : State) (res : List (Int × Nat)) : State :=
  let lv := (List.range 128).map (fun t => ((res[t]?).getD (-32768, 0)).1)
  let top := topFour lv
  let s1 := (List.range 128).foldl (fun u t => u.setReg (Reg.sicSurveyE t) (BitVec.ofInt 32 ((lv[t]?).getD 0))) s
  let s2 := (s1.setReg Reg.sicSurveyTop (packFour top)).setReg Reg.sicSurveyLag
    (packFour (top.map (fun t => ((res[t]?).getD (0, 0)).2 % 64)))
  ((s2.setFlag Reg.sicSurvey 29 false).setFlag Reg.sicSurvey 28 true).setSurvey none

/-- A block of capture memory lies wholly in the training region of `CAP.PART` (M21). -/
def State.inTraining (s : State) (addr len : Nat) : Bool := addr + len ≤ s.fld Reg.capPart 5 0 * 0x100000

/-- A snapshot ends with a FAIL code (R248). -/
def State.snapFail (s : State) (code : Nat) : State :=
  let s1 := (((s.setFld Reg.sicSnap 26 24 code).setFlag Reg.sicSnap 28 true).setFlag Reg.sicSnap 29 false).setSnap none
  if code = 1 then s1 else s1.raiseBit Reg.sicSticky 4

/-- Bytes of a snapshot: five streams of N complex samples. -/
def State.snapLen (s : State) : Nat := 40 * 2 ^ s.fld Reg.sicSnap 19 16

/-- A write to `SIC.SNAP` (R247, R248). -/
def State.writeSnap (s : State) (val mask : Word) : State :=
  let w := val &&& mask
  let busy := s.flag Reg.sicSnap 29
  let lg := bits ((s.reg Reg.sicSnap &&& ~~~ mask) ||| w) 19 16
  let s1 := s.writeFields Reg.sicSnap val mask
  let s2 := if bit w 31 then
      if busy || lg < 9 || 13 < lg then s1.sicBad
      else
        let t := (((s1.setFlag Reg.sicSnap 28 false).setFld Reg.sicSnap 26 24 0).setFlag Reg.sicSnap 29 true).setSnap none
        if t.fld Reg.sicSnapAddr 5 0 ≠ 0 ∨ !t.inTraining (t.reg Reg.sicSnapAddr).toNat t.snapLen then t.snapFail 2
        else if !t.up domCob then t.snapFail 3 else t
    else s1
  if bit w 30 && s2.flag Reg.sicSnap 29 then s2.snapFail 1 else s2

/-- Streams of samples as they lie in capture memory (R124, R247, R264): stream after stream, oldest sample first, I word then Q
word, sign-extended; `got` is newest first, one list of the streams' samples each. -/
def streamWords (n : Nat) (got : List (List Cx)) : List Word :=
  (List.range n).flatMap (fun q => got.reverse.flatMap (fun l =>
    let x := back l q
    [BitVec.ofInt 32 x.1, BitVec.ofInt 32 x.2]))

/-- The samples a snapshot takes. -/
def State.snapN (s : State) : Nat := 2 ^ s.fld Reg.sicSnap 19 16

/-- The snapshot has been copied (R247), or fails there (R248). -/
def State.snapDone (s : State) (q : SnapRec) : State :=
  if !s.up domCob then s.snapFail 3
  else
    let s1 := s.putWords (capBase + (s.reg Reg.sicSnapAddr).toNat) (streamWords 5 q.got)
    let s2 := ((s1.setFld Reg.sicSnap 14 10 q.na).setReg Reg.sicSnapTns q.tns).setFlag Reg.sicSnap 27 q.clipped
    ((s2.setFlag Reg.sicSnap 29 false).setFlag Reg.sicSnap 28 true).setSnap none

/-- A snapshot that is being copied fails when COB goes down (R248). -/
def State.snapDown (s : State) : State :=
  match s.smp.snap with
  | some q => if s.flag Reg.sicSnap 29 ∧ q.got.length = s.snapN then s.snapFail 3 else s
  | none => s

/-! ## Commands -/

/-- The computation of a survey ends, its samples having been taken (R246). -/
def execSurveyDone (s : State) : Host.Outcome State Fault Refusal :=
  .next (match s.smp.survey with
    | some (0, res) => if s.flag Reg.sicSurvey 29 then s.surveyDone res else s
    | _ => s)
/-- The copy of a snapshot ends, its samples having been taken (R247). -/
def execSnapDone (s : State) : Host.Outcome State Fault Refusal :=
  .next (match s.smp.snap with
    | some q => if s.flag Reg.sicSnap 29 ∧ q.got.length = s.snapN then s.snapDone q else s
    | none => s)

end Sys2Proof.Machine
end

