-- ==== Sys2Proof/Machine/Lin.lean ====
section
/-! DEFINITION. Linearisation (11_linearisation.md): the coefficient store, the loader of DPD sets, staleness and reverts,
observation jobs. -/
namespace Sys2Proof.Machine

/-- Words of the coefficient store (R257). -/
def linTop : Nat := 0x102810

/-- A refused access to the store (R258). -/
def State.linBad (s : State) : State := (s.bump Reg.linCntBadw).raiseBit Reg.linSticky 5

/-- `ADDR` of a window advances by 1. -/
def State.stAdvance (s : State) (w : Nat) : State :=
  s.setFld (Reg.linStAddr w) 20 0 (s.fld (Reg.linStAddr w) 20 0 + 1)

/-- A write to `ST[w].DATA` (R258). -/
def State.writeStore (s : State) (w : Nat) (val : Word) : State :=
  let a := s.fld (Reg.linStAddr w) 20 0
  if linTop ≤ a then s.linBad else (s.putWord (linBase + 4 * a) val).stAdvance w

/-- The word that `ST[w].ADDR` names, for a write under a mask (R112). -/
def State.storeHere (s : State) (w : Nat) : Word := (s.readEcc (linBase + 4 * s.fld (Reg.linStAddr w) 20 0)).1

/-- A read of `ST[w].DATA` (R258): the word and whether it is poisoned (R48). -/
def State.readStore (s : State) (w : Nat) : Word × Bool × State :=
  let a := s.fld (Reg.linStAddr w) 20 0
  if linTop ≤ a then (0, false, s.linBad)
  else
    let r := s.readEcc (linBase + 4 * a)
    (r.1, r.2.1, r.2.2.stAdvance w)

/-- The set in force of a path, and the one its shadow page holds. -/
def State.dpd (s : State) (n : Nat) : DpdSet := sget (fun _ => {}) s.lin.page n
def State.dpdShadow (s : State) (n : Nat) : Option DpdSet := alook s.lin.shadow n

/-- Port and band of the target set of a path (R259): those of the next slot boundary. -/
def State.target (s : State) (n : Nat) : Nat × Nat :=
  let k := groupOf n
  ((alook s.air.ports k).getD (s.port k), s.fld (Reg.thmRegion k) 22 20)

/-- The header and the words of set number `m`, read in order: none where the set is not VALID, or where a poisoned word ends the
load (R260). -/
def State.readSet (s : State) (m : Nat) : Option (Word × List Word) × State :=
  let h := s.readEcc (linBase + 4 * (0x102000 + m))
  if h.2.1 then (none, h.2.2.raiseBit Reg.linSticky 3)
  else if !bit h.1 31 then (none, h.2.2)
  else
    let go : List Word × Bool × State := (List.range 512).foldl (fun a i =>
      if a.2.1 then a
      else
        let r := a.2.2.readEcc (linBase + 4 * (512 * m + i))
        (a.1 ++ [r.1], r.2.1, r.2.2)) ([], false, h.2.2)
    if go.2.1 then (none, go.2.2.raiseBit Reg.linSticky 3) else (some (h.1, go.1), go.2.2)

/-- A default set may be taken: not by a path with REVERTED, but by the load that follows a trained set that is reverted (R259, R262;
log 140). -/
def State.mayDefault (s : State) (n : Nat) : Bool :=
  s.flag Reg.linCtl 0 && (!s.flag (Reg.linPathStat n) 9 || (s.dpd n).src == 2)

/-- The set a load brings (R259, R260, R262): the trained set, the default set, or none. -/
def State.chooseSet (s : State) (n : Nat) : DpdSet × State :=
  let t := s.target n
  match s.readSet (16 * n + 8 * t.1 + t.2) with
  | (some (h, k), u) => (⟨2, t.1, t.2, h, k⟩, u)
  | (none, u) =>
    if u.mayDefault n then
      match u.readSet (2048 + 8 * t.1 + t.2) with
      | (some (h, k), v) => (⟨1, t.1, t.2, h, k⟩, v)
      | (none, v) => (⟨0, t.1, t.2, 0, []⟩, v)
    else (⟨0, t.1, t.2, 0, []⟩, u)

/-- A set comes into force: STAT shows it, STALE clears, a path that has none sets NO_SET (R259-R261). -/
def State.landSet (s : State) (n : Nat) (d : DpdSet) : State :=
  let s1 := { s with lin := { s.lin with page := sset (fun _ => {}) s.lin.page n d, shadow := sdel s.lin.shadow n } }
  let w := s1.reg (Reg.linPathStat n)
  let w1 := putBit (setBits (setBits (setBits w 1 0 d.src) 6 4 d.band) 7 7 d.port) 8 false
  let s2 := s1.setReg (Reg.linPathStat n) w1
  if d.src = 0 ∧ s2.flag (Reg.txdCtl n) 5 then s2.raiseBit Reg.linSticky 6 else s2

/-- A load is asked for. -/
def State.pendLoad (s : State) (n : Nat) : State := s.setFlag (Reg.linPathStat n) 10 true

/-- A shadow page that holds another set than the target one is not taken. -/
def State.dropStale (s : State) (n : Nat) : State :=
  match s.dpdShadow n with
  | some d => if (d.port, d.band) = s.target n then s else { s with lin := { s.lin with shadow := sdel s.lin.shadow n } }
  | none => s

/-- A load is asked for where the target set differs from the set in force and is not in the shadow page (R259). -/
def State.retarget (s : State) (n : Nat) : State :=
  let s1 := s.dropStale n
  let w := s1.reg (Reg.linPathStat n)
  if s1.target n = (bits w 7 7, bits w 6 4) || (s1.dpdShadow n).isSome then s1 else s1.pendLoad n

def State.retargetGroup (s : State) (k : Nat) : State := (pathsOf k).foldl State.retarget s

/-- The copy of a set completes (R260). -/
def State.loadDone (s : State) (n : Nat) : State :=
  let r := s.chooseSet n
  let s1 := r.2.setFlag (Reg.linPathStat n) 10 false
  if s.inCarrier (groupOf n) then { s1 with lin := { s1.lin with shadow := aput s1.lin.shadow n r.1 } }
  else s1.landSet n r.1

/-- The shadow page comes into force; a copy that has not completed is late, and the set in force stays only while it is of the
port now active (R260). -/
def State.takeShadow (s : State) (n : Nat) : State :=
  let p := s.port (groupOf n)
  let s1 := match s.dpdShadow n with
    | some d => s.landSet n d
    | none => s
  if s1.flag (Reg.linPathStat n) 10 then
    let t := s1.raiseBit Reg.linSticky 2
    if (t.dpd n).src ≠ 0 ∧ (t.dpd n).port ≠ p then t.landSet n ⟨0, p, (t.dpd n).band, 0, []⟩ else t
  else s1

/-- The slot that ends with set `d` in force: its clamps are shown, and above CLIP_LIMIT the path is reverted (R262). -/
def State.judgeClips (s : State) (n : Nat) (d : DpdSet) : State :=
  let st := Reg.linPathStat n
  let clips := (alook s.lin.clips n).getD 0
  let s1 := ({ s with lin := { s.lin with clips := sdel s.lin.clips n } } : State).setFld st 31 16 (min clips 65535)
  let lim := s1.fld Reg.linCtl 15 4
  if lim ≠ 0 ∧ lim < clips ∧ d.src ≠ 0 then
    let h := linBase + 4 * (0x102000 + 16 * n + 8 * d.port + d.band)
    let t := if d.src = 2 then
        let r := s1.readDev h
        r.2.putWord h (putBit r.1 31 false)
      else s1
    ((t.setFlag st 9 true).raiseBit Reg.linSticky 0).pendLoad n
  else s1

/-- A trained set in force whose ATT_TRAIN has drifted from a_eff is STALE (R261). -/
def State.judgeDrift (s : State) (n : Nat) : State :=
  let d := s.dpd n
  let diff : Int := (bits d.hdr 11 0 : Int) - (s.fld (Reg.txdStatus n) 11 0 : Int)
  if d.src = 2 ∧ s.fld Reg.linCtl 27 16 < diff.natAbs then
    (s.setFlag (Reg.linPathStat n) 8 true).raiseBit Reg.linSticky 1 else s

/-- The slot boundary of a path's group (R259-R262). -/
def State.slotLin (s : State) (n : Nat) : State :=
  (((s.takeShadow n).judgeClips n (s.dpd n)).judgeDrift n).retarget n

/-- A write to `LIN.COMMIT[w]` (R259, R262). -/
def State.writeLinCommit (s : State) (w : Nat) (v : Word) : State :=
  (setBitsOf v 32).foldl (fun t b => (t.setFlag (Reg.linPathStat (32 * w + b)) 9 false).pendLoad (32 * w + b)) s

/-- The branches come into force for group k (R256). -/
def State.landBranch (s : State) (k : Nat) : State :=
  (List.range 8).foldl (fun t b => t.setReg (inBranch k b) (t.reg (Reg.linBranch b))) s

/-- A write to `LIN.BRANCH[b]`: a change makes every path STALE (R256), and comes into force at the next slot boundary of each
group (R254). -/
def State.writeBranch (s : State) (off : Nat) (val mask : Word) : State :=
  let s1 := s.writeFields off val mask
  if s1.reg off = s.reg off then s1
  else
    let s2 := (List.range 128).foldl (fun t n => t.setFlag (Reg.linPathStat n) 8 true) s1
    (List.range 8).foldl (fun t k => if t.inCarrier k then t else t.landBranch k) s2

/-! ## Observation jobs (R264, R265) -/

def State.obsRec (s : State) (k : Nat) : Option ObsRec := alook s.smp.obs k
def State.setObs (s : State) (k : Nat) (v : Option ObsRec) : State :=
  { s with smp := { s.smp with obs := match v with
    | some q => aput s.smp.obs k q
    | none => sdel s.smp.obs k } }

def State.obsFail (s : State) (k code : Nat) : State :=
  let r := Reg.linObsCtl k
  let s1 := (((s.setFld r 26 24 code).setFlag r 28 true).setFlag r 29 false).setObs k none
  if code = 1 then s1 else s1.raiseBit Reg.linSticky 4

/-- Bytes of a job: enabled streams of N complex samples. -/
def State.obsLen (s : State) (k : Nat) : Nat :=
  let w := s.reg (Reg.linObsCtl k)
  8 * 2 ^ bits w 19 16 * (bits w 8 8 + bits w 9 9 + bits w 10 10)

/-- A write to `OBS[k].CTL`. -/
def State.writeObs (s : State) (k : Nat) (val mask : Word) : State :=
  let r := Reg.linObsCtl k
  let w := val &&& mask
  let new := (s.reg r &&& ~~~ mask) ||| w
  let busy := s.flag r 29
  let bad := bits new 22 21 == 3 || bits new 19 16 < 9 || 14 < bits new 19 16 || bits new 10 8 == 0
  let s1 := s.writeFields r val mask
  let s2 := if bit w 31 then
      if busy || bad then s1.bump Reg.linCntBadw
      else
        let t := ((((((s1.setFlag r 28 false).setFld r 26 24 0).setFlag r 27 false).setFlag r 23 false)).setFlag r 29 true).setObs k none
        if bits (t.reg (Reg.linObsAddr k)) 5 0 ≠ 0 ∨ !t.inTraining (t.reg (Reg.linObsAddr k)).toNat (t.obsLen k) then t.obsFail k 2
        else if !t.up domCob || !t.up (domTile (k / 2)) then t.obsFail k 3
        else if t.fld r 22 21 = 1 ∧ !future (t.reg (Reg.linObsAt k)) t.tns then t.obsFail k 4
        else t
    else s1
  if bit w 30 && s2.flag r 29 then s2.obsFail k 1 else s2

/-- CAL holds ORk for a calibration (R265). -/
def State.orHeld (s : State) (k : Nat) : Bool :=
  (alook s.cal.runs (8 + k)).isSome ||
    (match alook s.cal.runs k with
     | some (kind, _) => kind == 2 || kind == 3
     | none => false)

/-! ## Commands -/

def execLoadDone (n : Nat) (s : State) : Host.Outcome State Fault Refusal :=
  .next (if n < 128 ∧ s.up domCrm ∧ s.flag (Reg.linPathStat n) 10 then s.loadDone n else s)
/-- A job's trigger is met (R264): IMM when the switch has settled; TIME at `AT`; SYM in the useful part of a D or F symbol of
its carrier in which its pair is in TX or FDX. -/
def State.obsTrig (s : State) (k : Nat) : Bool :=
  let r := Reg.linObsCtl k
  let n := 16 * k + s.fld r 3 0
  match s.fld r 22 21 with
  | 0 => true
  | 1 => !future (s.reg (Reg.linObsAt k)) s.tns
  | _ =>
    let c := s.fld r 20 20
    let i := s.symNow c
    s.carOn c && s.symType c % 2 == 1 && emits (s.ps n) && !s.inRow n
      && symStart (s.mu c) (i + 1) - 3125 * s.usefulN c ≤ s.sinceFrame

/-- A job starts to record (R264), or fails with UNLOCKED; while CAL holds the receiver it stays BUSY. -/
def execObsRecordStart (k : Nat) (s : State) : Host.Outcome State Fault Refusal :=
  .next (if k < 8 ∧ s.up domCrm ∧ s.flag (Reg.linObsCtl k) 29 ∧ s.obsRec k = none ∧ !s.orHeld k ∧ s.obsTrig k then
      if s.losBit k 30 then (s.setReg (Reg.linObsTns k) s.tns).setObs k (some {}) else s.obsFail k 5
    else s)

/-- The streams a job has recorded are copied (R264): the enabled ones of x, y and z. -/
def State.obsDone (s : State) (k : Nat) (q : ObsRec) : State :=
  let r := Reg.linObsCtl k
  let on := (List.range 3).filter (fun i => s.flag r (8 + i))
  let got := q.got.map (fun l => on.map (back l))
  let s1 := s.putWords (capBase + (s.reg (Reg.linObsAddr k)).toNat) (streamWords on.length got)
  ((((s1.setFlag r 27 q.clipped).setFlag r 23 q.muted).setFlag r 29 false).setFlag r 28 true).setObs k none

/-- The samples a job takes. -/
def State.obsN (s : State) (k : Nat) : Nat := 2 ^ s.fld (Reg.linObsCtl k) 19 16

/-- The copy of a job ends, its samples having been taken (R264). -/
def execObsDone (k : Nat) (s : State) : Host.Outcome State Fault Refusal :=
  .next (match s.obsRec k with
    | some q =>
      if k < 8 ∧ s.up domCrm ∧ s.flag (Reg.linObsCtl k) 29 ∧ q.got.length = s.obsN k then
        if !s.up domCob || !s.up (domTile (k / 2)) then s.obsFail k 3 else s.obsDone k q
      else s
    | none => s)

/-- Jobs in progress fail when COB or their tile goes down (R265). -/
def State.obsDown (s : State) (ks : List Nat) : State :=
  ks.foldl (fun t k => if t.flag (Reg.linObsCtl k) 29 then t.obsFail k 3 else t) s

end Sys2Proof.Machine
end

