-- ==== Sys2Proof/Machine/Frame.lean ====
section
/-! DEFINITION. The air frame and its boundaries (06_air_timing_and_path_states.md): alignment, frame, slot and symbol
boundaries with what waits for each of them, the pattern check, time steps, the transmit duty. -/
namespace Sys2Proof.Machine

/-! ## What waits for a slot boundary -/

/-- The port of a group becomes `p` (R110): its range, its limits; its gains follow in `refreshGroup`. -/
def State.landPort (s : State) (k p : Nat) : State :=
  let s1 := (pathsOf k).foldl (fun t n => (t.setFld (Reg.txaStatus n) 8 8 p).setFld (Reg.rxaStatus n) 8 8 p) s
  let s2 := { s1 with air := { s1.air with ports := sdel s1.air.ports k } }
  (s2.judgeRange k).newLimits k

/-- The groups whose port switch waits. -/
def State.portGroups (s : State) : List Nat := s.air.ports.map (·.1)

/-- Every port switch that waits is applied. -/
def State.landPorts (s : State) : State := s.air.ports.foldl (fun t p => t.landPort p.1 p.2) s

/-- The scheduled band of a group takes effect (R463); its gains follow in `slotTx` and `refreshRx`. -/
def State.landBand (s : State) (k : Nat) : State :=
  let b := s.fld (Reg.thmRegion k) 22 20
  if b = s.band k then s else (s.setFld (Reg.thmRegion k) 26 24 b).bandCodes k

/-- The back-off B of group k follows its region's throttle (R460). -/
def State.landBackoff (s : State) (k : Nat) : State :=
  let b := if s.flag (Reg.thmRegion k) 31 then s.fld Reg.thmThrot 15 0 else 0
  (pathsOf k).foldl (fun t n => if t.fld (Reg.txdBackoff n) 15 0 = b then t else t.setFld (Reg.txdBackoff n) 15 0 b) s

/-- All that a slot boundary brings to the gains of group k is there before one new sum is formed (R177). -/
def State.landTerms (s : State) (k : Nat) : State := (((s.landBand k).landBackoff k).landGroup k).landBranch k

/-- The new sums of a group after its terms. -/
def State.sumGroup (s : State) (k : Nat) : State := (pathsOf k).foldl (fun t n => (t.slotTx n).refreshRx n) s

/-- FORCE of a path, and the other fields of `TXD[n].CTL`, as last written come into force (R179). -/
def State.landForce (s : State) (k : Nat) : State :=
  (pathsOf k).foldl (fun t n =>
    if t.reg (Reg.txdCtl n) = t.inForce (Reg.txdCtl n) then t else t.apply (Reg.txdCtl n)) s

/-- A filled shadow page of a path in no enabled carrier comes into force (R260). -/
def State.landShadow (s : State) (n : Nat) : State :=
  match s.dpdShadow n with
  | some d => s.landSet n d
  | none => s

/-- SIC's alignment delay is in force for the F symbols of pairs in FDX (R190). -/
def State.alignSic (s : State) (k : Nat) : State :=
  (pathsOf k).foldl (fun t n => t.setFlag (Reg.rxdStatus n) 30 (t.ps n == psFdx && !t.inRow n
    && [0, 1].any (fun c => t.carries c k && t.symType c == 3))) s

/-- Without symbols there is no alignment delay. -/
def State.noAlign (s : State) (k : Nat) : State := (pathsOf k).foldl (fun t n => t.setFlag (Reg.rxdStatus n) 30 false) s

/-- A group in no enabled carrier has no boundaries: what waited for one takes effect (R145, R187, R206). -/
def State.landFree (s : State) (k : Nat) : State :=
  if s.inCarrier k then s
  else
    let s1 := (((s.landTerms k).landForce k).landByp k).noAlign k
    let s2 := (pathsOf k).foldl (fun t n => (t.swapPages n).landShadow n) (s1.unmuteLock k)
    if s2.ifPending k && s2.ifFree k then s2.landIf k else s2

/-- `SIC.CTL.EN` comes into force for carrier c (R251). -/
def State.landSicEn (s : State) (c : Nat) : State := s.setReg (inSicOff c) (if s.flag Reg.sicCtl 0 then 0 else 1)

/-- A group that has left carrier c has no carrier of its own to mute (R185). -/
def State.clearFreq (s : State) (n c : Nat) : State :=
  if s.carries c (groupOf n) then s else s.setFlag (Reg.txdStatus n) (25 + c) false

/-- Everything that waits for a boundary that no longer exists takes effect. -/
def State.landIdle (s : State) : State :=
  let s0 := (List.range 8).foldl State.landFree s
  let s1 := (if s0.carOn 0 then s0 else s0.landPorts).idlePaths
  let s2 := [0, 1].foldl (fun t c => if t.carOn c then t else t.landSicEn c) s1
  [0, 1].foldl (fun t c => if t.carOn c then t else (t.landSel c t.nowU).landSwap c t.nowU) s2

/-! ## Slot boundaries (R149, R150) -/

/-- The part of a slot boundary that belongs to one group. -/
def State.slotGroup (s : State) (k : Nat) : State :=
  let s1 := (s.landTerms k).sumGroup k
  let s2 := (pathsOf k).foldl (fun t n => ((t.noteQual n).swapPages n).judgeFar n) s1
  (pathsOf k).foldl State.slotLin s2

/-- Field ADVc of `RXD.CP_ADV` comes into force (R206). -/
def State.landCpAdv (s : State) (c : Nat) : State :=
  let v := setBits (s.inForce Reg.rxdCpAdv) (16 * c + 8) (16 * c) (s.fld Reg.rxdCpAdv (16 * c + 8) (16 * c))
  { s with force := sset resetOf s.force Reg.rxdCpAdv v }

/-- The pattern entry of the slot that begins is read (R150). -/
def State.readPattern (s : State) (c : Nat) : State :=
  (s.setReg (inPatPrev c) (s.reg (inPat c))).setReg (inPat c) (s.reg (Reg.tlpAirPattern c (s.patEntry c)))

/-- `FFT_EXP[c]` shows the greatest F of the slot that ends: of the transforms of symbols that began before now (R213). -/
def State.noteExp (s : State) (c : Nat) : State :=
  let top (d : Nat) : Nat := (s.bme.exps.filter (fun e => e.1 == 2 * d + c && e.2.1 < (s.nowU : Int))).foldl (fun m e => max m e.2.2) 0
  let s1 := (s.setFld (Reg.bmeFftExp c) 4 0 (top 0)).setFld (Reg.bmeFftExp c) 12 8 (top 1)
  { s1 with bme := { s1.bme with exps := s1.bme.exps.filter (fun e => e.1 % 2 != c || (s.nowU : Int) ≤ e.2.1) } }

/-- The effects of a slot boundary of carrier c that is not silent. Port switches, register values, bands and back-off are all in
place before the gains of a group are summed anew (R177). -/
def State.slotStart (s : State) (c : Nat) : State :=
  let s1 := s.readPattern c
  let gs := if s1.carPick false = some c then s1.portGroups else []
  let s2 := if s1.carPick false = some c then s1.landPorts else s1
  let s3 := (s2.noteExp c).landCpAdv c
  let s4 := ((List.range 8).filter (fun k => s3.slotCar k == some c)).foldl State.slotGroup s3
  let s5 := gs.foldl State.refreshGroup s4
  let s6 := ((List.range 128).filter (fun n => s5.carries c (groupOf n))).foldl (fun t n => t.checkSpan n c) s5
  s6.setEv (168 + 2 * c)

/-! ## Symbol boundaries (R149, R151, R153) -/

/-- The pattern word of a slot of the frame in progress on carrier c: the entry read at its boundary for the slot in
progress (R150). -/
def State.patOf (s : State) (c slot : Nat) : Word :=
  if slot = s.slotNow c then s.reg (inPat c)
  else s.reg (Reg.tlpAirPattern c
    (((s.reg Reg.tlpAirAfc).toNat % 2 * 10 * 2 ^ s.mu c + slot) % max 1 (bits (s.carCfg c) 6 0)))

/-- Types of the symbols of carrier b that overlap the symbol in progress of carrier c. -/
def State.overlapTypes (s : State) (c b : Nat) : List Nat :=
  let i := s.symNow c
  let lo := symAt (s.mu b) (symStart (s.mu c) i)
  let hi := symAt (s.mu b) (symStart (s.mu c) (i + 1) - 1)
  (List.range (hi + 1 - lo)).map (fun j => typeOf (s.patOf b ((lo + j) / 14)) ((lo + j) % 14))

/-- A pair would need the direction it is not in (R153). -/
def State.mismatch (s : State) (c n : Nat) : Bool :=
  let bad := if s.ps n = psRx then 1 else 2
  (s.ps n == psRx || s.ps n == psTx) && !s.inRow n &&
    (s.symType c == bad || (s.carries (1 - c) (groupOf n) && (s.overlapTypes c (1 - c)).contains bad))

/-- The pattern check of a symbol of carrier c (R153). -/
def State.checkPattern (s : State) (c : Nat) : State :=
  if (List.range 128).any (fun n => s.carries c (groupOf n) && s.mismatch c n) then
    (s.bump (Reg.tlpAirMismatch c)).raiseBit Reg.tlpAirSticky (24 + c)
  else s

/-- What the AGC of a path measured in the symbol just ended, when it measures (R202). -/
def State.agcMeas (s : State) (c n : Nat) : Option (Nat × Nat × Nat) :=
  if takes (s.ps n) && [0, 1].any (fun b => s.carries b (groupOf n) && 2 ≤ s.typeBefore c b) then
    let r := s.rxc n
    some (r.hits, r.clip, r.peak)
  else none

/-- The measurement of a path begins anew. -/
def State.agcFresh (s : State) (n : Nat) : State := s.setRxc n { s.rxc n with hits := 0, clip := 0, peak := 0 }

/-- The AGC acts on every path of the group but those in OFF, STBY and CAL (R202, R203). -/
def State.agcGroup (s : State) (c k : Nat) : State :=
  (pathsOf k).foldl (fun t n =>
    (if t.ps n = psOff ∨ t.ps n = psStby ∨ t.ps n = psCal then t else t.agcStep n (t.agcMeas c n)).agcFresh n) s

/-- Whole path samples by which the accumulated difference exceeds the total of carrier c are taken out of or put into the
cyclic prefix (R382). -/
def State.slipAt (s : State) (c : Nat) : State :=
  let total := (alook s.time.slipped c).getD 0
  let w := (s.time.diff * 1536).tdiv (3125 * 2 ^ 53) - total
  if s.flag Reg.tmuStatus 30 || w == 0 then s
  else
    let s1 := { s with time := { s.time with slipped := aput s.time.slipped c (total + w) } }
    s1.bump Reg.tmuSlips

/-- The changes a symbol boundary of carrier c brings, for the groups whose shortest symbol it starts. -/
def State.symGroup (s : State) (k : Nat) : State := ((s.unmuteLock k).landForce k).landByp k

/-- The AGC of the groups whose shortest symbol carrier c starts (R202). -/
def State.agcCar (s : State) (c : Nat) : State :=
  ((List.range 8).filter (fun k => s.symCar k == some c)).foldl (fun t k => t.agcGroup c k) s

/-- Uplink traffic of carrier c moves to the active side of each fronthaul pair (R371). -/
def State.landSide (s : State) (c : Nat) : State :=
  [0, 1].foldl (fun t q =>
    { t with fhp := { t.fhp with side := sset (fun _ => 0) t.fhp.side (2 * c + q) (t.fld Reg.fhpPair (4 + q) (4 + q)) } }) s

/-- The effects of a symbol boundary of carrier c that wait for one, with its event. -/
def State.symStartAt (s : State) (c : Nat) (tl : Int) : State :=
  let s1 := ((((s.landSel c tl).landSwap c tl).landSide c).noteUl c).landSicEn c
  let s2 := ((List.range 8).filter (fun k => s1.symCar k == some c)).foldl State.symGroup s1
  s2.setEv (169 + 2 * c)

/-- A symbol boundary of carrier c (R149, R153). A silent one applies nothing that waits for it, but its symbol runs (R147). -/
def State.symBoundary (s : State) (c : Nat) : State :=
  let tl := s.frameStart + symStart (s.mu c) (s.symNow c)
  let s1 := ((s.agcCar c).slipAt c).checkPattern c
  let s2 := if s1.silentAt tl then s1 else s1.symStartAt c tl
  let s3 := ((List.range 8).filter (fun k => s2.carries c k)).foldl State.alignSic s2
  s3.combineRange c (s3.symType c) tl

/-! ## Frames and alignment (R145-R147) -/

/-- A frame begins: the duty counts start again and their mute ends (R166). -/
def State.dutyFrame (s : State) : State :=
  let s1 := { s with air := { s.air with duty := [] } }
  (List.range 8).foldl (fun t k =>
    let u := (t.setFld (Reg.tlpDuty k) 15 0 0)
    if u.dutyMuted k then
      (pathsOf k).foldl (fun v n => v.setFlag (Reg.tlpPs n) 21 false) (u.setFlag (Reg.tlpDuty k) 31 false)
    else u) s1

/-- The carriers in force have changed: no mute of R185 stays on a path that a carrier has left. -/
def State.clearFreqs (s : State) : State :=
  (List.range 128).foldl (fun t n => (t.clearFreq n 0).clearFreq n 1) s

/-- The next frame starts (R145). -/
def State.frameBoundary (s : State) : State :=
  let s1 := (s.setReg Reg.tlpAirAfc (s.reg Reg.tlpAirAfc + 1)).setReg Reg.tlpAirFrameTns
    (s.reg Reg.tlpAirFrameTns + 10000000)
  let s2 := s1.dutyFrame
  if s2.silentAt s2.frameStart then s2 else ((s2.landFrame.landIdle).clearFreqs).setEv 172

/-- The boundaries of all kinds that fall on the start of a frame. -/
def State.frameEvents (s : State) : State :=
  let s1 := [0, 1].foldl (fun t c =>
    if t.carOn c then ((t.slotStart c).agcCar c).symStartAt c t.frameStart else t) s
  s1.setEvs [168, 169, 170, 171, 172]

/-- The waiting alignment takes effect (R146); `stepped` when a time step has carried TNS to or past its start. -/
def State.alignStart (s : State) (stepped : Bool) : State :=
  match s.air.align with
  | none => s
  | some (t, afc) =>
    if future t s.tns then s
    else
      let s1 := { s with air := { s.air with align := none } }
      if (List.range 128).any (fun n => emits (s.ps n) || takes (s.ps n) || s.ps n == psCal) then
        s1.raiseBit Reg.tlpAirSticky 26
      else
        let k := (s.tns - t).toNat / 10000000
        let s2 := (s1.setReg Reg.tlpAirAfc (afc + BitVec.ofNat 32 k)).setReg Reg.tlpAirFrameTns
          (t + BitVec.ofNat 32 (k * 10000000))
        let s3 := ((((s2.setFlag Reg.tlpAirCtl 1 true).landFrame).landIdle).clearFreqs).dutyFrame
        if stepped then s3 else s3.frameEvents

/-- A time step has moved network time from `t0` to the time now, both in 2^-53 ns of unwrapped time (R147). -/
def State.airStep (s : State) (t0 : Nat) (frame0 : Int) : State :=
  let s1 := if s.aligned then
      let m := ((s.nowU : Int) - frame0) / frameU
      let lim := if t0 < s.time.t then (s.time.t, true) else (t0, false)
      let keep := match s.air.silent with
        | some (l, i) => if t0 < l && lim.1 < l then (l, i) else lim
        | none => lim
      let a := (s.setReg Reg.tlpAirAfc (s.reg Reg.tlpAirAfc + BitVec.ofInt 32 m)).setReg Reg.tlpAirFrameTns
        (s.reg Reg.tlpAirFrameTns + BitVec.ofInt 32 (m * 10000000))
      { a with air := { a.air with silent := some keep } }
    else s
  s1.alignStart true

/-! ## Transmit duty (R166) -/

/-- A group emits: one of its pairs is in TX or FDX, no mute source applies to it, and a carrier of the group is in a D or F
symbol and not muted under R185; in G and U symbols the output is zero codes (R151). -/
def State.groupEmits (s : State) (k : Nat) : Bool :=
  (pathsOf k).any (fun n => emits (s.ps n) && s.emitting n
    && [0, 1].any (fun c => s.carries c k && s.symType c % 2 == 1 && !s.flag (Reg.txdStatus n) (25 + c)))

/-- `ns` nanoseconds of emission are counted, in whole microseconds; counting stops during the mute. -/
def State.dutyTick (s : State) (ns : Nat) : State :=
  if s.aligned then
    (List.range 8).foldl (fun t k =>
      if t.dutyMuted k || !t.groupEmits k then t
      else
        let n := (alook t.air.duty k).getD 0 + ns
        let u := { t with air := { t.air with duty := sset (fun _ => 0) t.air.duty k (n % 1000) } }
        u.count (Reg.tlpDuty k) 15 0 (n / 1000)) s
  else s

/-! ## Commands -/

/-- A symbol boundary of carrier c: the start of the symbol in progress (R149). -/
def execSymbolBoundary (c : Nat) (s : State) : Host.Outcome State Fault Refusal :=
  .next (if c < 2 ∧ s.up domCob ∧ s.carOn c then s.symBoundary c else s)

/-- TNS has reached the start of the waiting alignment (R146). -/
def execAlignmentStart (s : State) : Host.Outcome State Fault Refusal :=
  .next (if s.up domCob then s.alignStart false else s)

end Sys2Proof.Machine
end

