-- ==== Sys2Proof/Machine/Pwr.lean ====
section
/-! DEFINITION. Power domains and states (23_power_states.md): votes and targets, transitions, what a fall loses, the
Cobalt working point, entry to Winter and Midwinter, Spring. -/
namespace Sys2Proof.Machine

/-! ## Votes and targets (R18, R440, R441) -/

/-- The power domain that domain `d` requires beside AON (R18). -/
def domRequires (d : Dom) : Dom :=
  if d = 4 then 1 else if d = 3 then 4 else if 5 ≤ d ∧ d ≤ 7 then 3 else 0

/-- The domains that require `d` directly. -/
def domsAbove (d : Dom) : List Dom := (List.range 12).filter (fun e => 1 ≤ e && domRequires e == d && d != 0)

/-- `d` and every domain that requires it, directly or through another. -/
def domsFrom (d : Dom) : List Dom := d :: (domsAbove d).flatMap (fun e => e :: (domsAbove e).flatMap (fun f => f :: domsAbove f))

/-- The domains in an order in which each follows the one it requires. -/
def domOrder : List Dom := [1, 2, 8, 9, 10, 11, 4, 3, 5, 6, 7]

def State.vote (s : State) (d : Dom) : Word := s.reg (Reg.pwrDomVote (d - 1))

/-- The power state in force: 0 Summer, 1 Autumn, 2 Winter, 3 Midwinter, 4 Spring, 5 entering (R455). -/
def State.season (s : State) : Nat := s.fld Reg.pwrState 2 0

/-- Winter or Midwinter when it decides the targets: in force, or being entered past step 2 of R450; else 0. -/
def State.forced (s : State) : Nat :=
  if s.season = 2 ∨ s.season = 3 then s.season
  else if s.season = 5 ∧ s.pwr.leaving then s.pwr.into else 0

/-- A domain's own ground to be up (R441, R450, R466). -/
def State.ownTarget (s : State) (d : Dom) : Bool :=
  (if s.forced = 0 then s.vote d != 0 || bit s.pwr.hold d else d == domRing && s.forced == 2 && bits (s.vote d) 2 0 != 0)
    || (d == domHost && s.pwr.keepHost)

/-- The target of a domain: its own ground, or that of a domain that requires it (R441). -/
def State.domTarget (s : State) (d : Dom) : Bool := (domsFrom d).any s.ownTarget

/-! ## What a fall loses (R19, R443, R451, R516) -/

/-- The retained bank of `PWR.RET_MASK` that holds an address (R451); 31 where none does. -/
def bankOf (a : Nat) : Nat :=
  if imBase ≤ a ∧ a < dmBase then 0
  else if dmBase ≤ a ∧ a < dmBase + 0x200000 then 1 + (a - dmBase) / 0x40000
  else if wmBase ≤ a ∧ a < wmBase + 0x800000 ∧ 0x300000 ≤ (a - wmBase) % 0x400000 then 9
  else if linBase ≤ a ∧ a < rosterBase then 10
  else 31

/-- The power domain of a byte of memory. -/
def domOfMem (a : Nat) : Dom :=
  if linBase ≤ a ∧ a < rosterBase then domCrm
  else if rosterBase ≤ a then domRing
  else match windowOf a with
    | some (_, _, d) => d
    | none => domOfReg a

/-- Bytes and check bits of a domain are dropped, but for the banks of `keep`. -/
def State.dropMem (s : State) (d : Dom) (keep : Word) : State :=
  let stay (a : Nat) : Bool := domOfMem a != d || bit keep (bankOf a)
  { s with mem := skeep s.mem stay, ecc := skeep s.ecc stay }

/-- A register belongs to a falling domain; the common registers of SLN go with the later of FH and RING (R14). -/
def State.regFalls (s : State) (d : Dom) (off : Nat) : Bool :=
  if 0xD0000 ≤ off ∧ off < 0xD1000 then
    (d == domFh && !s.up domRing) || (d == domRing && !s.up domFh)
  else domOfReg off == d

/-- `TLP.TH[i].WAKE_PC` is held in always-on storage (R451). -/
def isWakePc (off : Nat) : Bool := 0x102000 ≤ off && off < 0x104000 && off % 0x200 == 0x18

/-- Registers of a falling domain return to their reset values (R516), and a masked vector whose source goes with them
loses its PBA bit (R39); no message is sent. `IM_VERIFIED` stays with its retained bank, `WAKE_PC` is always on (R451). -/
def State.dropRegs (s : State) (d : Dom) (keep : Word) : State :=
  let stay (off : Nat) : Bool := !s.regFalls d off || (bit keep 0 && off == Reg.tlpImVerified) || isWakePc off
  let s1 := { s with regs := skeep s.regs stay, force := skeep s.force stay,
                     shadow := s.shadow.filter (fun p => !s.regFalls d p.2.off) }
  (List.range 56).foldl (fun t v =>
    if s.source v && !t.source v && t.msixOn && t.masked v then t.setPba v false else t) s1

/-- State beside the registers that goes with a domain. -/
def State.dropHidden (s : State) (d : Dom) : State :=
  match d with
  | 1 => { s with
      bda := {}, host := { s.host with nvm := none, qspi := none, waits := [] },
      jrn := { s.jrn with run := s.jrn.run.filter (fun p => p.1 % 16 != 6),
                          wait := s.jrn.wait.filter (fun k => k % 16 != 6) } }
  | 2 => { s with
      th := [], pipe := {}, taq := [], tags := List.range 512, seq := 0, air := {}, cap := {}, cal := {}, dma := {}, cvu := {},
      jrn := { s.jrn with run := s.jrn.run.filter (fun p => p.1 % 16 == 6), wait := s.jrn.wait.filter (fun k => k % 16 == 6) },
      pins := { s.pins with drain := 0 },
      sec := { bootDue := s.sec.bootDue, otpBad := s.sec.otpBad, prog := s.sec.prog, resetDue := s.sec.resetDue, fp := s.sec.fp },
      pwr := { s.pwr with dvGoal := none, dvPend := none, dvLast := 0, vpt := 0, fpt := 0 } }
  | 3 => { s with bme := {}, lin := {}, sects := [], smp := {}, cal := { s.cal with loaded := 0 },
                  air := { s.air with reload := [] } }
  | 8 => { s with fhp := {}, ready := s.ready.filter (fun l => l < 64) }
  | 9 => { s with pins := { s.pins with ringHold := 0 }, arg := {}, ready := s.ready.filter (fun l => 64 ≤ l) }
  | 10 => { s with time := {} }
  | 11 => { s with msixEn := false, d3 := false }
  | _ =>
    if 4 ≤ d ∧ d ≤ 7 then
      let t := d - 4
      let here (p : Nat) : Bool := p / 2 == t
      { s with
        los := { s.los with cfg := s.los.cfg.filter (fun p => !here p.1), hops := s.los.hops.filter (fun p => !here p.1) },
        cal := { s.cal with loaded := putBit s.cal.loaded t false },
        arg := if t = 0 then { s.arg with read := false } else s.arg,
        pins := { s.pins with lnaByp := if t = 0 then 0 else s.pins.lnaByp } }
    else s

/-- Hops that a falling tile would have carried out for an entry end with DOWN (R61). -/
def State.dropHops (s : State) (t : Nat) : State :=
  (s.los.hops.filter (fun p => p.1 / 2 == t && p.2.waits)).foldl (fun u p => u.settleOwner p.2.owner ccDown u.tns 0) s

/-- A group whose bias outputs leave their commanded codes with DRAIN_EN asserted interlocks (R162). -/
def State.interlockAll (s : State) : State := (List.range 8).foldl State.interlock s

/-- The Cobalt working point at which COB starts (R431, R447). -/
def State.dvfsStart (s : State) : State :=
  s.setReg Reg.pwrDvfs (setBits (setBits (setBits (s.reg Reg.pwrDvfs) 31 16 550) 5 2 0) 1 0 0)

/-- The banks that a fall starting now retains (R19, R451). -/
def State.keptBanks (s : State) : Word := if s.forced = 3 then 0 else s.reg Reg.pwrRetMask

/-- Registers and memory that a fall of `d` loses as it starts. -/
def State.dropBanks (s : State) (d : Dom) : State := (s.dropRegs d s.keptBanks).dropMem d s.keptBanks

/-- What blocks outside the domain abandon as it falls: hops and pairs of a tile, observation jobs and the copy of a snapshot
(R61, R154, R248, R265). -/
def State.leaveDomain (s : State) (d : Dom) : State :=
  if 4 ≤ d ∧ d ≤ 7 then ((s.dropHops (d - 4)).tileLost (d - 4)).obsDown [2 * (d - 4), 2 * (d - 4) + 1]
  else if d = domCob then s.snapDown.obsDown (List.range 8)
  else s

/-- While CRM is down the circuits of TILE0's paths are gated off, and no chain of theirs goes on (R18; log 123). -/
def State.gateTile0 (s : State) : State :=
  (tilePaths 0).foldl State.followPair (s.abortMoves (tilePaths 0) ccDown 0)

/-- RXD shows the IF in force of tile t's groups, as its synthesisers lose or regain their registers (R194, R274). -/
def State.showIf (s : State) (t : Nat) : State :=
  if s.up domCrm then
    (tilePaths t).foldl (fun u n => u.setFld (Reg.rxdStatus n) 29 28 (bits (u.inForce (Reg.losSCtl (groupOf n))) 29 28)) s
  else s

/-- Isolation engages and the domain loses its state, but for its retained banks (R443, R451). -/
def State.loseDomain (s : State) (d : Dom) : State :=
  let s0 := s.leaveDomain d
  let s1 := ((s0.setFld (Reg.pwrDomStatus (d - 1)) 1 0 3).dropBanks d).dropHidden d
  let s2 := if d = domCob then
      (List.range 128).foldl State.followPair s1.dvfsStart
    else s1
  let s3 := if d = domMgt ∨ d = domCrm then s2.interlockAll else s2
  (if d = domCrm then s3.gateTile0 else if 4 ≤ d ∧ d ≤ 7 then s3.showIf (d - 4) else s3).idlePaths

/-- A domain comes up (R443) with its registers at reset: CRM gives the bias outputs their power-up codes (R315) and loads the DPD
sets (R259), a tile
locks its conversion clock (R444) and powers the synthesisers that are needed (R275). The two show each other's steps and
IF again (R183, R194, R203). -/
def State.gainDomain (s0 : State) (d : Dom) : State :=
  let s := s0.dropRegs d 1
  let r : State :=
    if d = domCrm then
      let s0 := (List.range 128).foldl State.pendLoad s
      let s1 := (List.range 256).foldl (fun t i => t.setFld (Reg.bdaOutCode i) 15 0 (t.fld (Reg.bdaOutPup i) 15 0)) s0
      ((tilePaths 0).foldl State.followPair (s1.showSteps 0)).showIf 0
    else if 4 ≤ d ∧ d ≤ 7 then
      let s1 := (s.resetOuts (d - 4)).setFlag (Reg.losCcsStatus (d - 4)) 31 (s.flag Reg.clkRefStatus 31)
      let s2 := (s1.synPower (2 * (d - 4))).synPower (2 * (d - 4) + 1)
      if s2.up domCrm then (s2.showSteps (d - 4)).showIf (d - 4) else s2
    else s
  r.idlePaths

/-! ## Threads that wait for a vote (R74) -/

/-- A thread waiting for domain `d` keeps `d` in `Thread.tag`, one waiting for point p keeps 16 + p. -/
def State.voteReached (s : State) (tag : Nat) : Bool :=
  if tag < 16 then s.up tag else s.up domCob && tag - 16 ≤ s.pwr.fpt

def State.wakeVotes (s : State) : State :=
  (List.range 16).foldl (fun t i =>
    let r := t.thread i
    if t.thState i = stWaitVote ∧ !r.hit ∧ t.voteReached r.tag then t.setThread i { r with hit := true, hitVal := 0 } else t) s

/-- A thread waiting on a failed domain, or on one that requires it, leaves with VOTE_FAIL (R74, R445). -/
def State.failVotes (s : State) (d : Dom) : State :=
  (List.range 16).foldl (fun t i =>
    let r := t.thread i
    if t.thState i = stWaitVote ∧ !r.hit ∧ (domsFrom d).contains r.tag then
      t.setThread i { r with hit := true, hitVal := 1 } else t) s

/-- A domain, or one it requires, has been given up (R445). -/
def State.givenUp (s : State) (d : Dom) : Bool := (List.range 12).any (fun e => bit s.pwr.failed e && (domsFrom e).contains d)

/-! ## Transitions (R441-R446) -/

def State.goal (s : State) (d : Dom) : Option Bool := alook s.pwr.goals d
def State.setGoal (s : State) (d : Dom) (g : Option Bool) : State :=
  { s with pwr := { s.pwr with
      goals := match g with
        | some b => aput s.pwr.goals d b
        | none => sdel s.pwr.goals d } }
def State.step? (s : State) (d : Dom) : Option Nat := alook s.pwr.steps d
def State.setStep? (s : State) (d : Dom) (k : Option Nat) : State :=
  { s with pwr := { s.pwr with
      steps := match k with
        | some n => aput s.pwr.steps d n
        | none => sdel s.pwr.steps d } }
def State.setDom (s : State) (d : Dom) (st : Nat) (iso : Bool) : State :=
  (s.setFld (Reg.pwrDomStatus (d - 1)) 1 0 st).setFlag (Reg.pwrDomStatus (d - 1)) 5 iso
def State.superseded (s : State) : State := s.bump Reg.pwrSuperseded

/-- A domain falls: isolation engages and the reversed steps begin. -/
def State.beginFall (s : State) (d : Dom) : State := ((s.loseDomain d).setDom d 3 true).setStep? d (some 3)

/-- A waiting transition may start (R18, R441). -/
def State.readyMove (s : State) (d : Dom) (rise : Bool) : Bool :=
  if rise then s.up (domRequires d)
  else (domsAbove d).all (fun e => s.domState e == 0)
    && (!(4 ≤ d && d ≤ 7) ||
        ((tilePaths (d - 4)).all (fun n => s.ps n == psOff && s.chain n == []) && s.jrn.run.all (fun p => p.1 / 16 != d - 4)))

/-- A domain's target is compared with its state: a new target starts a transition or goes into the pending slot
(R442). After an unplanned loss the old target waits for power-good (R446); a new target does not, and its rise then fails
at REG_PG (R500). -/
def State.judgeDom (s : State) (d : Dom) : State :=
  let st := Reg.pwrDomStatus (d - 1)
  let t := s.domTarget d
  let s1 := if t = s.flag st 4 then s
    else
      let a := { (s.setFlag st 4 t) with pwr := { s.pwr with failed := putBit s.pwr.failed d false, lost := putBit s.pwr.lost d false } }
      if (a.goal d).isSome then ((a.setFlag st 7 true).setFlag st 6 t).superseded else a
  let s2 := if (s1.goal d).isNone ∧ t ≠ s1.up d ∧ !bit s1.pwr.failed d ∧ !(t && bit s1.pwr.lost d) then
      { (s1.setGoal d (some t)) with pwr := { (s1.setGoal d (some t)).pwr with tries := sdel s1.pwr.tries d } }
    else s1
  match s2.goal d with
  | some g =>
    if (s2.step? d).isNone ∧ !bit s2.pwr.retry d ∧ s2.readyMove d g then
      (if g then (s2.setDom d 1 (s2.flag st 5)).setStep? d (some 1) else s2.beginFall d)
    else s2
  | none => s2

/-- A transition ends: the slot is free and the pending slot empty. -/
def State.endMove (s : State) (d : Dom) : State :=
  let s1 := ((s.setGoal d none).setStep? d none).setFld (Reg.pwrDomStatus (d - 1)) 7 6 0
  { s1 with pwr := { s1.pwr with tries := sdel s1.pwr.tries d, failing := sdel s1.pwr.failing d } }

/-! ## The Cobalt working point (R447, R449) -/

/-- mV of a point: 0.55, 0.65, 0.75 and 0.85 V (R114). -/
def pointMv (p : Nat) : Nat := 550 + 100 * min p 3

/-- The caps in force (R447, R449, R460, R462). -/
def State.dvCaps (s : State) : List Nat :=
  let st := if s.season = 4 then s.fld Reg.pwrState 10 8 else s.season
  (if st = 1 then [1] else [])
    ++ (if s.flag Reg.thmStatus 30 then [if st = 1 then 0 else s.fld Reg.thmThrot 17 16] else [])
    ++ (if s.flag Reg.thmStatus 31 then [0] else [])

/-- The DVFS target (R447). -/
def State.dvTarget (s : State) : Nat :=
  let v := (List.range 24).foldl (fun m c =>
    if s.flag (Reg.pwrDvfsVote c) 2 ∧ !(4 ≤ c ∧ c ≤ 7) then max m (s.fld (Reg.pwrDvfsVote c) 1 0) else m) 0
  s.dvCaps.foldl min v

/-- `PWR.DVFS` follows the target, the cap, the move and the pending slot; CAP reads 0 while no cap is in force. -/
def State.showDvfs (s : State) : State :=
  let caps := s.dvCaps
  let w := s.reg Reg.pwrDvfs
  let w1 := setBits (setBits w 9 8 (if caps = [] then 0 else caps.foldl min 3)) 5 4 s.dvTarget
  s.setReg Reg.pwrDvfs (setBits (putBit (putBit w1 3 s.pwr.dvGoal.isSome) 2 s.pwr.dvPend.isSome) 1 0 s.pwr.fpt)

/-- The DVFS target is compared with the point in force (R442, R447). -/
def State.dvEval (s : State) : State :=
  let t := s.dvTarget
  let s1 :=
    if s.flag Reg.pwrDvfsMan 31 || !s.up domCob then s
    else
      let a := if t = s.pwr.dvLast then s
        else if s.pwr.dvGoal.isSome then
          ({ s with pwr := { s.pwr with dvLast := t, dvPend := some t } }).superseded
        else { s with pwr := { s.pwr with dvLast := t } }
      if a.pwr.dvGoal.isNone ∧ (t ≠ a.pwr.fpt ∨ t ≠ a.pwr.vpt) then { a with pwr := { a.pwr with dvGoal := some (t, 0) } }
      else a
  s1.showDvfs

/-- One step of a DVFS move completes (R447): up, the voltage first; down, the frequency first. -/
def State.dvStep (s : State) : State :=
  match s.pwr.dvGoal with
  | none => s
  | some (t, k) =>
    let up := pointMv s.pwr.vpt < pointMv t || (k == 1 && s.pwr.vpt == t && s.pwr.fpt != t)
    let volt (x : State) : State := { (x.setFld Reg.pwrDvfs 31 16 (pointMv t)) with pwr := { x.pwr with vpt := t } }
    let freq (x : State) : State := { x with pwr := { x.pwr with fpt := t } }
    let s1 := if up == (k == 0) then volt s else freq s
    if k = 0 then { s1 with pwr := { s1.pwr with dvGoal := some (t, 1) } }
    else { s1 with pwr := { s1.pwr with dvGoal := none, dvPend := none } }

/-! ## The settled power manager -/

/-- Step 2 of R450: bits 3 and 8–23, and bit 2 in Midwinter, are cleared in every vote register. -/
def State.clearVotes (s : State) (into : Nat) : State :=
  let mask : Word := if into = 3 then 0xFF0000F3 else 0xFF0000F7
  let s1 := domOrder.foldl (fun t d => t.setReg (Reg.pwrDomVote (d - 1)) (t.vote d &&& mask)) s
  (List.range 24).foldl (fun t c => if bit mask c then t else t.setReg (Reg.pwrDvfsVote c) 0) s1

/-- Entry proceeds from its pairs to its votes and domains once every pair is in OFF (R450). Midwinter loses every bank, those
of a domain that has fallen or is falling included (R19, R451). -/
def State.entryEval (s : State) : State :=
  if s.season = 5 ∧ !s.pwr.leaving ∧ (List.range 128).all (fun n => s.ps n == psOff && s.chain n == []) then
    let s1 := s.clearVotes s.pwr.into
    let s2 : State := { s1 with pwr := { s1.pwr with leaving := true } }
    if s2.pwr.into = 3 then
      let s3 := [domCob, domCrm].foldl (fun t d => if t.domState d = 0 ∨ t.domState d = 3 then t.dropMem d 0 else t) s2
      if s3.domState domCob = 0 ∨ s3.domState domCob = 3 then s3.setReg Reg.tlpImVerified 0 else s3
    else s2
  else s

/-- Targets, transitions, the working point and waiting threads follow what has changed. -/
def State.powerEval (s : State) : State :=
  (domOrder.foldl State.judgeDom s.entryEval).dvEval.wakeVotes

/-- A vote register takes a value: the hold timer starts as the last vote goes and stops at a new one (R441). -/
def State.setVotes (s : State) (d : Dom) (v : Word) : State :=
  let old := s.vote d
  let s1 := s.setReg (Reg.pwrDomVote (d - 1)) v
  if old ≠ 0 ∧ v = 0 then { s1 with pwr := { s1.pwr with hold := putBit s1.pwr.hold d true } }
  else if v ≠ 0 then { s1 with pwr := { s1.pwr with hold := putBit s1.pwr.hold d false } }
  else s1

/-- A client's bit in a domain's vote register (R440). -/
def State.voteBit (s : State) (d : Dom) (client : Nat) (on : Bool) : State :=
  (s.setVotes d (putBit (s.vote d) client on)).powerEval

/-- A client's vote on the Cobalt point, or its withdrawal. -/
def State.votePoint (s : State) (client : Nat) (p : Option Nat) : State :=
  (s.setReg (Reg.pwrDvfsVote client) (match p with
    | some n => BitVec.ofNat 32 (4 + n % 4)
    | none => 0)).powerEval

/-- Who writes a register: the host through a port, or a thread. -/
abbrev Writer := Option Port

/-- The vote bit of a writer (R440). -/
def clientOf : Writer → Option Nat
  | some .pcie => some 0
  | some .mgmt => some 1
  | none => none

/-- A write to `PWR.DOM[d].VOTE` or `PWR.DVFS_VOTE[c]` (R440). -/
def State.writeVote (s : State) (w : Writer) (off : Nat) (val mask : Word) : State :=
  match clientOf w with
  | none => s
  | some c =>
    if off < 0x10200 then
      let d := (off - 0x10100) / 16
      if 1 ≤ d ∧ d ≤ 11 ∧ bit mask c then s.voteBit d c (bit val c) else s
    else if off = Reg.pwrDvfsVote c then
      (s.setReg off (((s.reg off &&& ~~~ mask) ||| (val &&& mask)) &&& 7)).powerEval
    else s

/-- A write to `PWR.DVFS_MAN` (R447). -/
def State.writeDvfsMan (s : State) (val mask : Word) : State :=
  let w := (s.reg Reg.pwrDvfsMan &&& ~~~ mask) ||| (val &&& mask)
  let v := bits w 5 4
  let f := bits w 1 0
  if !bit w 31 then (s.writeFields Reg.pwrDvfsMan val mask).powerEval
  else if s.pwr.vpt < f ∨ v < s.pwr.fpt then (s.bump Reg.pwrCntBadw).raiseBit Reg.pwrSticky 1
  else
    let s1 := s.writeFields Reg.pwrDvfsMan val mask
    if s1.up domCob then
      let s2 := s1.setFld Reg.pwrDvfs 31 16 (pointMv v)
      ({ s2 with pwr := { s2.pwr with vpt := v, fpt := f, dvGoal := none, dvPend := none } }).powerEval
    else s1.powerEval

/-! ## Power states (R448-R452) -/

/-- Every pair above OFF is driven to OFF, a pair in FAULT by its own row (R450). -/
def State.driveOff (s : State) : State :=
  let l := (List.range 128).filter (fun n => s.ps n != psOff || s.chain n != [])
  let s1 := s.endWaits (List.range 128) ccPrecond 0x0701
  let s2 := (s1.air.runs.filter (fun r => !r.told)).foldl (fun t r => t.tell r ccPrecond t.tns 0x0701) s1
  let s3 := l.foldl (fun t n =>
    let held := match t.actOf n with
      | some a => (match t.run? a with
        | some r => r.arrived.contains n && !r.passed
        | none => false)
      | none => false
    match t.chain n with
    | h :: _ => if held then (t.setPair n { chain := chainOf 6 (t.ps n) psOff, act := 0 }).startRow n
                else t.setPair n { chain := h :: chainOf 6 h psOff, act := 0 }
    | [] => (t.setPair n { chain := chainOf 6 (t.ps n) psOff, act := 0 }).startRow n) s2
  s3.pruneRuns

/-- The device state changes; HOLD of the synthesisers follows it (R449). -/
def State.setSeason (s : State) (c : Nat) : State :=
  (List.range 8).foldl State.synPower (s.setFld Reg.pwrState 2 0 c)

/-- Entry to Winter (2) or Midwinter (3) begins (R450). -/
def State.enterWinter (s : State) (into : Nat) : State :=
  let back := if s.season < 2 then s.season else s.pwr.back
  let s1 := { (s.setFld Reg.pwrState 2 0 5) with pwr := { s.pwr with into := into, back := back, leaving := false } }
  s1.driveOff.powerEval

/-- A state request (R448): at once between Summer and Autumn, an entry, or into the pending slot. -/
def State.requestState (s : State) (r : Nat) : State :=
  if 2 ≤ s.season then
    let s1 := if s.season = 4 ∨ s.season = 5 then s.superseded else s
    { (s1.setFlag Reg.pwrState 7 true) with pwr := { s1.pwr with req := some r } }
  else if 2 ≤ r then s.enterWinter r
  else (s.setSeason r).powerEval

/-- A write to `PWR.STATE`; a reserved REQ asks for nothing (R11). -/
def State.writeState (s : State) (val mask : Word) : State :=
  let s1 := s.writeFields Reg.pwrState val mask
  let r := bits ((s.reg Reg.pwrState &&& ~~~ mask) ||| (val &&& mask)) 18 16
  if r ≤ 3 ∧ bits mask 18 16 ≠ 0 then s1.requestState r else s1

/-- The pending request is compared with the state just reached (R442). -/
def State.takeRequest (s : State) : State :=
  match s.pwr.req with
  | none => s
  | some r =>
    let s1 := { (s.setFlag Reg.pwrState 7 false) with pwr := { s.pwr with req := none } }
    if r = s1.season then s1 else s1.requestState r

/-- Spring starts (R452): bit 1 of the votes named in `PWR.WAKE_SET`. -/
def State.startSpring (s : State) : State :=
  let set := setBitsOf (s.reg Reg.pwrWakeSet &&& 0xFFE) 12
  let s1 := { (s.setFld Reg.pwrState 2 0 4) with pwr := { s.pwr with prior := s.season, spring := s.reg Reg.pwrWakeSet &&& 0xFFE } }
  (set.foldl (fun t d => t.setVotes d (putBit (t.vote d) 1 true)) s1).powerEval

/-- An address match of the wake comparator (R452). -/
def State.addressMatch (s : State) : State :=
  if s.season = 2 ∨ s.season = 3 then s.startSpring
  else if s.season = 5 then { s with pwr := { s.pwr with woken := true } }
  else s

/-- Every domain has settled at its target or been given up. -/
def State.settledDoms (s : State) : Bool :=
  domOrder.all (fun d => (s.goal d).isNone && (bit s.pwr.failed d || s.up d == s.domTarget d))

/-- Entry completes (R450): the state is recorded; a held match starts Spring, else the pending request is taken. -/
def State.completeEntry (s : State) : State :=
  let s1 := { ((s.setFld Reg.pwrState 2 0 s.pwr.into).setFld Reg.pwrState 10 8 s.pwr.back) with
    pwr := { s.pwr with leaving := false, woken := false } }
  if s.pwr.woken then s1.startSpring else s1.takeRequest

/-- Every domain Spring names is UP and DVFS has reached its target (R452). -/
def State.springReady (s : State) : Bool :=
  (setBitsOf s.pwr.spring 12).all s.up
    && (!s.up domCob || s.flag Reg.pwrDvfsMan 31
        || (s.pwr.dvGoal.isNone && s.pwr.fpt == s.dvTarget && s.pwr.vpt == s.dvTarget))

/-- Spring ends in failure (R452). -/
def State.failSpring (s : State) : State :=
  let s1 := { ((s.setFld Reg.pwrState 2 0 s.pwr.prior).setFlag Reg.pwrState 7 false) with
    pwr := { s.pwr with req := none, spring := 0 } }
  (setBitsOf s.pwr.spring 12).foldl (fun t d => t.setVotes d (putBit (t.vote d) 1 false)) s1

/-- A domain is given up (R445). -/
def State.wakeFailed (s : State) (d : Dom) (step : Nat) : State :=
  let sp := s.season = 4
  let s1 := { (s.endMove d) with pwr := { (s.endMove d).pwr with failed := putBit s.pwr.failed d true } }
  let s2 := (s1.setReg Reg.pwrWakeFail (BitVec.ofNat 32 ((if sp then 2 ^ 31 else 0) + d * 256 + step))).raiseBit Reg.pwrSticky 0
  let s3 := s2.failVotes d
  if sp then s3.failSpring else s3

/-- A step of a domain's sequence completes (R443). -/
def State.powerStep (s : State) (d : Dom) : State :=
  match s.step? d with
  | none => s
  | some k =>
    if s.domState d = 1 then
      if k < 3 then s.setStep? d (some (k + 1))
      else (((s.setDom d 2 false).endMove d).gainDomain d).powerEval
    else if 1 < k then s.setStep? d (some (k - 1))
    else
      let s1 := s.setDom d 0 true
      match alook s1.pwr.failing d with
      | none => (s1.endMove d).powerEval
      | some f =>
        let n := (alook s1.pwr.tries d).getD 0
        if !s1.flag (Reg.pwrDomStatus (d - 1)) 4 then (s1.endMove d).powerEval
        else if n < 3 then
          { (s1.setStep? d none) with pwr := { (s1.setStep? d none).pwr with
              tries := aput s1.pwr.tries d (n + 1), retry := putBit s1.pwr.retry d true, failing := sdel s1.pwr.failing d } }
        else (s1.wakeFailed d f).powerEval

/-- A rising step exceeds its timeout: the domain falls (R445), and its banks with it but for the retained ones (R19). -/
def State.stepTimeout (s : State) (d : Dom) : State :=
  match s.step? d with
  | some k =>
    if s.domState d = 1 then
      let s1 := ((s.setDom d 3 true).setStep? d (some k)).dropBanks d
      { s1 with pwr := { s1.pwr with failing := aput s1.pwr.failing d k } }
    else s
  | none => s

/-- 100 µs after its fall a failed rise is tried again, if it is still wanted (R445). -/
def State.wakeRetry (s : State) (d : Dom) : State :=
  if bit s.pwr.retry d then
    let s1 := { s with pwr := { s.pwr with retry := putBit s.pwr.retry d false } }
    if s1.flag (Reg.pwrDomStatus (d - 1)) 4 then s1.powerEval else (s1.endMove d).powerEval
  else s

/-- A domain that is up or rising falls at once (R446). -/
def State.fallNow (s : State) (d : Dom) : State :=
  let st := s.domState d
  if st = 2 ∨ st = 1 then
    let s1 := s.setGoal d (some false)
    let s2 := { s1 with pwr := { s1.pwr with failing := sdel s1.pwr.failing d } }
    if st = 2 then s2.beginFall d else ((s2.setDom d 3 true).setStep? d (some 3)).dropBanks d
  else s

/-- Unplanned loss of power-good (R446): the domains that require it fall with it. A domain that is OFF loses nothing, and
a later rise without its rail ends in STEP_TIMEOUT (R500). -/
def State.pgLoss (s : State) (d : Dom) : State :=
  if s.domState d = 0 then s
  else
    let s1 := (s.raiseBit Reg.pwrSticky (15 + d))
    let s2 := { s1 with pwr := { s1.pwr with lost := putBit s1.pwr.lost d true } }
    ((domsFrom d).reverse.foldl State.fallNow s2).powerEval

def State.pgRestore (s : State) (d : Dom) : State :=
  ({ s with pwr := { s.pwr with lost := putBit s.pwr.lost d false } }).powerEval

/-! ## Commands -/

/-- Transitions of pairs end (R155); a tile or an entry that waited for them goes on. -/
def execTransitionDone (pairs : List Nat) (s : State) : Host.Outcome State Fault Refusal :=
  .next (s.endRows pairs).powerEval

def isDom (d : Nat) : Bool := 1 ≤ d && d ≤ 11

def execHoldExpiry (d : Nat) (s : State) : Host.Outcome State Fault Refusal :=
  .next (if isDom d && bit s.pwr.hold d then
    ({ s with pwr := { s.pwr with hold := putBit s.pwr.hold d false } }).powerEval else s)
def execStepTimeout (d : Nat) (s : State) : Host.Outcome State Fault Refusal := .next (if isDom d then s.stepTimeout d else s)
def execWakeRetry (d : Nat) (s : State) : Host.Outcome State Fault Refusal := .next (if isDom d then s.wakeRetry d else s)
def execPgLoss (d : Nat) (s : State) : Host.Outcome State Fault Refusal := .next (if isDom d then s.pgLoss d else s)
def execPgRestore (d : Nat) (s : State) : Host.Outcome State Fault Refusal :=
  .next (if isDom d && bit s.pwr.lost d then s.pgRestore d else s)
def execDvfsStep (s : State) : Host.Outcome State Fault Refusal :=
  .next (if s.pwr.dvGoal.isSome ∧ s.up domCob then s.dvStep.powerEval else s)
def execEntryComplete (s : State) : Host.Outcome State Fault Refusal :=
  .next (if s.season = 5 ∧ s.pwr.leaving ∧ s.settledDoms then s.completeEntry else s)
def execAddressMatch (s : State) : Host.Outcome State Fault Refusal :=
  .next (if s.boot = .running then s.addressMatch else s)

/-- VDD_RF2 of tile t is measured (R454); a tile that is down reads 0. -/
def execRf2Measure (t mv : Nat) (s : State) : Host.Outcome State Fault Refusal :=
  .next (if t < 4 then (s.setFld (Reg.pwrRf2Mon t) 11 0 (if s.up (domTile t) then min mv 4095 else 0)).idlePaths else s)

end Sys2Proof.Machine
end

