-- ==== Sys2Proof/Machine/Ports.lean ====
section
/-! DEFINITION. The doors of the host as every block meets them (02_control_surfaces.md): the end of an eMRAM write (R45), the
arrival of an access at a port (R31, R40, R44), a register write and what becomes of it (R14, R26, R42); and the register
writes with a row of their own of the blocks that come before the power manager. -/
namespace Sys2Proof.Machine

/-! ## Status of an access (R43) -/

/-- Status codes of the management port (R43). -/
def mgOk : Nat := 0
def mgDown : Nat := 1
def mgBad : Nat := 2
def mgTimeout : Nat := 3
def mgEcc : Nat := 4
def mgFrame : Nat := 5

/-- A reply to a read through a port, with EP or status ECC for a poisoned word (R41, R48). -/
def State.reply (s : State) (port : Port) (v : Word) (st : Nat) : State :=
  match port with
  | .pcie => if st = mgEcc then (s.send (.pcieData [v] true)).raiseBit Reg.hstSticky 2 else s.send (.pcieData [v] false)
  | .mgmt => s.send (.mgmtData v st)

/-- The status of the last WRITE of the management port (R41). -/
def State.noted (s : State) (port : Port) (st : Nat) : State :=
  match port with
  | .pcie => s
  | .mgmt => { s with host := { s.host with mgmt := st } }

/-! ## The eMRAM word in progress (R45) -/

/-- `NVM_STATUS.LAST` set; a refusal or failure is counted and recorded. -/
def State.nvmLast (s : State) (code : Nat) : State :=
  let s1 := s.setFld Reg.mgtNvmStatus 3 0 code
  let s2 : State := { s1 with host := { s1.host with later := s1.host.nvm.isSome } }
  if code = 0 then s2 else (s2.bump Reg.mgtCntBadw).raiseBit Reg.mgtSticky 4

def State.nvmAdvance (s : State) : State :=
  s.setFld Reg.mgtNvmAddr 17 0 (s.fld Reg.mgtNvmAddr 17 0 + 1)

/-- The write in progress ends, verified or not; a word that failed has undefined content (R45). LAST is the outcome of the last
NVM_DATA access: one that came meanwhile keeps its own. Reads of NVM_STATUS that waited return, and deferred device stores to
the tile start. -/
def State.nvmDone (s : State) (good : Bool) : State :=
  match s.host.nvm with
  | none => s
  | some (t, w, v) =>
    let s1 : State := if good then s.putNvm t w v else
      let f := s.takeFree
      f.2.putNvm t w f.1
    let last := if s.host.later then s1.fld Reg.mgtNvmStatus 3 0 else if good then 0 else 3
    let s2 := (s1.setFlag Reg.mgtNvmStatus 31 false).nvmLast (if good then 0 else 3)
    let s3 : State := { s2.setFld Reg.mgtNvmStatus 3 0 last with host := { s2.host with nvm := none, waits := [], later := false } }
    let s4 := s.host.waits.foldl (fun (u : State) p => u.reply p (u.reg Reg.mgtNvmStatus) mgOk) s3
    (s.jrn.wait.filter (fun k => k / 16 == t)).foldl (fun (u : State) k => u.startStore t (k % 16)) s4

/-! ## Arrival of an access -/

/-- An access that arrives while a read of NVM_STATUS waits is performed after it (R31): the eMRAM write has then ended, and how is
a free value (log 125). -/
def State.settleReads (s : State) : State :=
  if s.host.waits = [] then s
  else
    let f := s.takeFree
    f.2.nvmDone (bit f.1 0)

/-- The address of a transaction matches: in Winter or Midwinter Spring starts before the access (R44). -/
def State.addressed (s : State) : State := if s.boot = .running then s.addressMatch else s

/-- An access arrives through the management port. -/
def State.arrived (s : State) : State := s.addressed.settleReads

/-- A write behind the indirect window while MGT is down is discarded with status DOWN (R42), and counted where the block itself is
down too (R14; log 126). -/
def State.windowShut (s : State) (up : Bool) : State := if up then s else s.downWrite

/-- A host write to the register at `off` through `port`, where `f` is what it does once it reaches the register: nothing
arrives over a link that is down, a request in D3hot ends as Unsupported Request (R26), the indirect window of the
management port needs MGT (R42), and a block that is down discards and counts the write (R14). A write through the management
port matches its address first (R44) and leaves its status (R41). -/
def State.hostReg (s : State) (port : Port) (off : Nat) (f : State → State) : State :=
  match port with
  | .pcie =>
    if !s.linkUp then s
    else if s.d3 then s.send .pcieUr
    else
      let t := s.settleReads
      if t.regUp off then f t else t.downWrite
  | .mgmt =>
    if s.mgmtAnswers then
      let t := s.arrived
      if alwaysOn off || t.up domMgt then
        (if t.regUp off then (f t).noted .mgmt mgOk else t.downWrite.noted .mgmt mgDown)
      else (t.windowShut (t.regUp off)).noted .mgmt mgDown
    else s

/-! ## Power -/

def execVoteWrite (port : Port) (off : Nat) (val : Word) (s : State) : Host.Outcome State Fault Refusal :=
  .next (if 0x10110 ≤ off ∧ off < 0x10260 then s.hostReg port off (fun t => t.writeVote (some port) off val 0xFFFFFFFF) else s)
def execDvfsManWrite (port : Port) (val : Word) (s : State) : Host.Outcome State Fault Refusal :=
  .next (s.hostReg port Reg.pwrDvfsMan (fun t => t.writeDvfsMan val 0xFFFFFFFF))
def execStateRequest (port : Port) (val : Word) (s : State) : Host.Outcome State Fault Refusal :=
  .next (s.hostReg port Reg.pwrState (fun t => t.writeState val 0xFFFFFFFF))

/-! ## Capture engine -/

def execCapArm (port : Port) (val : Word) (s : State) : Host.Outcome State Fault Refusal :=
  .next (s.hostReg port Reg.capCtl (fun t => t.writeCapCtl (val ||| 0x80000000) 0xFFFFFFFF))
def execCapDisarm (port : Port) (val : Word) (s : State) : Host.Outcome State Fault Refusal :=
  .next (s.hostReg port Reg.capCtl (fun t => t.writeCapCtl (val ||| 0x40000000) 0xFFFFFFFF))
def execCapForce (port : Port) (val : Word) (s : State) : Host.Outcome State Fault Refusal :=
  .next (s.hostReg port Reg.capCtl (fun t => t.writeCapCtl (val ||| 0x20000000) 0xFFFFFFFF))
def execPartWrite (port : Port) (val : Word) (s : State) : Host.Outcome State Fault Refusal :=
  .next (s.hostReg port Reg.capPart (fun t => t.writeCapPart val 0xFFFFFFFF))

/-! ## Bias DACs -/

def execCodeWrite (port : Port) (i : Nat) (val : Word) (s : State) : Host.Outcome State Fault Refusal :=
  .next (if i < 256 then s.hostReg port (Reg.bdaOutCode i) (fun t => t.writeCode i val 0xFFFFFFFF) else s)
def execRangeChange (port : Port) (i : Nat) (val : Word) (s : State) : Host.Outcome State Fault Refusal :=
  .next (if i < 256 then s.hostReg port (Reg.bdaOutCfg i) (fun t => t.writeBdaCfg i val 0xFFFFFFFF) else s)
def execRelease (port : Port) (val : Word) (s : State) : Host.Outcome State Fault Refusal :=
  .next (s.hostReg port Reg.bdaCtl (fun t => t.writeBdaCtl val 0xFFFFFFFF))
def execBiasStore (port : Port) (val : Word) (s : State) : Host.Outcome State Fault Refusal :=
  .next (s.hostReg port Reg.bdaCtl (fun t => t.writeBdaCtl val 0xFFFFFFFF))
def execPhRst (port : Port) (g : Nat) (val : Word) (s : State) : Host.Outcome State Fault Refusal :=
  .next (if g < 4 then s.hostReg port (Reg.bdaSgCtl g) (fun t => t.writeSgCtl g val 0xFFFFFFFF) else s)

/-! ## Synthesisers -/

def execHop (port : Port) (k : Nat) (val : Word) (s : State) : Host.Outcome State Fault Refusal :=
  .next (if k < 8 then s.hostReg port (Reg.losSHop k) (fun t => t.writeHop k val 0xFFFFFFFF) else s)
def execClStart (port : Port) (val : Word) (s : State) : Host.Outcome State Fault Refusal :=
  .next (s.hostReg port Reg.losClCtl (fun t => t.writeClCtl (val ||| 0x80000000) 0xFFFFFFFF))

/-! ## Air timing -/

def execAlign (port : Port) (val : Word) (s : State) : Host.Outcome State Fault Refusal :=
  .next (s.hostReg port Reg.tlpAirCtl (fun t => t.writeAirCtl val 0xFFFFFFFF))
def execAirCfgWrite (port : Port) (c : Nat) (val : Word) (s : State) : Host.Outcome State Fault Refusal :=
  .next (if c < 2 then s.hostReg port (Reg.tlpAirCfg c) (fun t => t.writeAirCfg c val 0xFFFFFFFF) else s)

/-! ## Beam engine -/

def execWdescWrite (port : Port) (dir car layer : Nat) (val : Word) (s : State) : Host.Outcome State Fault Refusal :=
  .next (if dir < 2 ∧ car < 2 ∧ layer < 32 then
    s.hostReg port (Reg.bmeWdesc dir car layer) (fun t => t.writeWdesc dir car layer val 0xFFFFFFFF) else s)
def execArrayWrite (port : Port) (val : Word) (s : State) : Host.Outcome State Fault Refusal :=
  .next (s.hostReg port Reg.bmeArray (fun t => t.writeArray val 0xFFFFFFFF))

/-! ## Canceller -/

def execPageWrite (port : Port) (off : Nat) (val : Word) (s : State) : Host.Outcome State Fault Refusal :=
  .next (if 0x580000 ≤ off ∧ off < 0x600000 then s.hostReg port off (fun t => t.writePage off val 0xFFFFFFFF) else s)
def execSicCommit (port : Port) (p w : Nat) (val : Word) (s : State) : Host.Outcome State Fault Refusal :=
  .next (if p < 2 ∧ w < 4 then s.hostReg port (Reg.sicCommit p w) (fun t => t.writeCommit p w val) else s)
def execSurveyStart (port : Port) (val : Word) (s : State) : Host.Outcome State Fault Refusal :=
  .next (s.hostReg port Reg.sicSurvey (fun t => t.writeSurvey (val ||| 0x80000000) 0xFFFFFFFF))
def execSurveyAbort (port : Port) (val : Word) (s : State) : Host.Outcome State Fault Refusal :=
  .next (s.hostReg port Reg.sicSurvey (fun t => t.writeSurvey (val ||| 0x40000000) 0xFFFFFFFF))
def execSnapStart (port : Port) (val : Word) (s : State) : Host.Outcome State Fault Refusal :=
  .next (s.hostReg port Reg.sicSnap (fun t => t.writeSnap (val ||| 0x80000000) 0xFFFFFFFF))
def execSnapAbort (port : Port) (val : Word) (s : State) : Host.Outcome State Fault Refusal :=
  .next (s.hostReg port Reg.sicSnap (fun t => t.writeSnap (val ||| 0x40000000) 0xFFFFFFFF))

/-! ## Linearisation -/

def execLinCommit (port : Port) (w : Nat) (val : Word) (s : State) : Host.Outcome State Fault Refusal :=
  .next (if w < 4 then s.hostReg port (Reg.linCommit w) (fun t => t.writeLinCommit w val) else s)
def execStoreWrite (port : Port) (w : Nat) (val : Word) (s : State) : Host.Outcome State Fault Refusal :=
  .next (if w < 2 then s.hostReg port (Reg.linStData w) (fun t => t.writeStore w val) else s)
def execObsStart (port : Port) (k : Nat) (val : Word) (s : State) : Host.Outcome State Fault Refusal :=
  .next (if k < 8 then s.hostReg port (Reg.linObsCtl k) (fun t => t.writeObs k (val ||| 0x80000000) 0xFFFFFFFF) else s)
def execObsAbort (port : Port) (k : Nat) (val : Word) (s : State) : Host.Outcome State Fault Refusal :=
  .next (if k < 8 then s.hostReg port (Reg.linObsCtl k) (fun t => t.writeObs k (val ||| 0x40000000) 0xFFFFFFFF) else s)

end Sys2Proof.Machine
end

