-- ==== Sys2Proof/Machine/Tmu.lean ====
section
/-! DEFINITION. The time unit (18_time_unit.md): the counter, the servo and its rate, steps, holdover, programmed pulses.
Network time is `State.time.t`, in units of 2^-53 ns with the wrap count above TNS. -/
namespace Sys2Proof.Machine

/-- Units of one second of network time carry 101 bits: WRAP, TNS, TFR and 37 hidden bits (R376). -/
def timeMod : Nat := 2 ^ 101

/-- The signed 48-bit number of a register pair (R379). -/
def pair48 (lo hi : Word) : Int := sgn 48 (bits hi 15 0 * 2 ^ 32 + lo.toNat)

def State.setPair48 (s : State) (lo hi : Nat) (v : Int) : State :=
  let n := unsgn 48 v
  (s.setReg lo (BitVec.ofNat 32 n)).setReg hi (BitVec.ofNat 32 (n / 2 ^ 32))

/-- The rate in force and the fixed rate of the conversion clocks, in 2^-53 (R376, R382). -/
def State.rate (s : State) : Int := pair48 (s.reg Reg.tmuRateLo) (s.reg Reg.tmuRateHi)
def State.ccsFixed (s : State) : Int := pair48 (s.reg Reg.tmuCcsFixedLo) (s.reg Reg.tmuCcsFixedHi)

def State.steerOn (s : State) : Bool := s.flag Reg.tmuStatus 30
def State.tmuState (s : State) : Nat := s.fld Reg.tmuStatus 1 0
def State.setTmuState (s : State) (v : Nat) : State := s.setFld Reg.tmuStatus 1 0 v
def State.tmuSrc (s : State) : Nat := s.fld Reg.tmuCtl 17 16

/-- `TMU.TIME_HI` (R376). -/
def State.timeHi (s : State) : Word := BitVec.ofNat 32 (s.time.t / 2 ^ 85 % 65536 * 65536 + s.tfr)

/-- A conversion-clock synthesiser of a tile that is up is unlocked while STEER = 1 is in force (R270, R381). -/
def State.ccsHold (s : State) : Bool :=
  s.steerOn && (List.range 4).any (fun n => s.up (domTile n) && !s.flag (Reg.losCcsStatus n) 31)

/-- The limit L of R380 in 2^-53: 10 ppm or 200 ppm. -/
def State.rateLimit (s : State) : Int := if s.steerOn then 90071992547 else 1801439850948

/-- `TMU.STATUS` with CCS_HOLD as it stands. -/
def State.tmuStatusView (s : State) : Word := putBit (s.reg Reg.tmuStatus) 29 s.ccsHold

/-- `TMU.SLIP`: the accumulated difference less the total of CC0, in ps (R382). -/
def State.slipView (s : State) : Word :=
  let total := (alook s.time.slipped 0).getD 0
  BitVec.ofInt 32 (satS 32 ((s.time.diff * 1536000 - total * 3125000 * 2 ^ 53) / (1536 * 2 ^ 53)))

/-- One nanosecond passes (R376): T advances by 1 + r, and with STEER = 0 in force the difference to the sample clock grows
by r less the fixed rate (R382). -/
def State.timeTick (s : State) : State :=
  if s.up domTime then
    let r := s.rate
    let t := (((s.time.t : Int) + 2 ^ 53 + r) % (timeMod : Int)).toNat
    { s with time := { s.time with t := t, diff := if s.steerOn then s.time.diff else s.time.diff + r - s.ccsFixed,
                                   reqAge := s.time.reqAge.map (· + 1) } }
  else s

/-- Every pair is in OFF or STBY and none is in transition (R381, R383). -/
def State.pairsIdle (s : State) : Bool := (List.range 128).all (fun n => s.ps n ≤ psStby && !s.moving n)

/-- The votes TMU holds (R440). -/
def State.tmuVotes (s : State) : State :=
  let on := s.tmuSrc != 0 || (List.range 9).any (fun k => s.flag (Reg.tmuPulseCtl k) 31)
  (s.voteBit domRing 3 (s.tmuSrc == 1)).voteBit domTime 3 on

/-! ## The servo (R378-R380, R384, R386) -/

/-- An offset or delay in 1/16,384,000 ns shown in 2^-8 ns, saturating. -/
def showNs8 (v : Int) : Word := BitVec.ofInt 32 (satS 32 (divAway v 64000))

/-- The first measurement or host write ends FREE and HOLDOVER (R385, R386). -/
def State.acquire (s : State) : State :=
  if s.tmuState = 0 then { (s.setTmuState 1) with time := { s.time with good := 0 } }
  else if s.tmuState = 3 then { (s.setTmuState 1) with time := { s.time with good := 0 } }
  else s

/-- A value clamped to the limit in force; a clamp sets RATE_LIMIT (R379). -/
def State.clampRate (s : State) (v : Int) : Int × State :=
  let l := s.rateLimit
  let c := clampI (-l) l v
  (c, if c = v then s else s.raiseBit Reg.tmuSticky 3)

/-- One servo update with offset `o` in 1/16,384,000 ns and interval `t` ns (R379); the terms are rounded to 2^-53. -/
def State.servo (s : State) (o : Int) (t : Nat) : State :=
  let term (sh : Nat) : Int := divAway (o * 2 ^ 53) (16384000 * 2 ^ sh * t)
  let i := s.clampRate (s.time.integ + term (s.fld Reg.tmuCtl 11 8))
  let r := i.2.clampRate (i.1 + term (s.fld Reg.tmuCtl 7 4))
  { r.2 with time := { r.2.time with integ := i.1, req := r.1 } }

/-- A step becomes pending (R383); its value in 2^-16 ns. -/
def State.pendStep (s : State) (v : Int) : State :=
  { (s.setFlag Reg.tmuStatus 31 true) with time := { s.time with step := some v } }

/-- A measurement (R378, R379, R384, R386): the offset, the path delay where the source gives one, the interval in ns. -/
def State.measure (s : State) (o : Int) (d : Option Int) (t : Nat) : State :=
  let s1 := s.setReg Reg.tmuOffset (showNs8 o)
  let s2 := match d with
    | some v => s1.setReg Reg.tmuPathDelay (showNs8 v)
    | none => s1
  let big := 16384000 * (s.reg Reg.tmuOffsetLimit).toNat < o.natAbs
  let s3 := if big then s2.raiseBit Reg.tmuSticky 0 else s2
  let was := s3.tmuState
  let s4 := if big ∧ was = 2 then { (s3.setTmuState 1) with time := { s3.time with good := 0 } } else s3.acquire
  let near := o.natAbs ≤ 20 * 16384000
  let good : Nat := if !near then 0 else if was = 3 then 0 else s4.time.good + 1
  let s5 : State := { s4 with time := { s4.time with good := good } }
  let s6 := if s5.tmuState = 1 ∧ 16 ≤ good then s5.setTmuState 2 else s5
  if s6.flag Reg.tmuStepArm 0 then
    if s6.time.step.isNone then s6.pendStep (divAway o 250) else s6.servo o t
  else s6.servo o t

/-- The request in force: the host's with SRC = 0, else the servo's (R379). -/
def State.rateReq (s : State) : Int := if s.tmuSrc = 0 then s.time.hostReq else s.time.req

/-- The applied rate moves toward the request (R380), unless it is frozen (R381, R385). The slew limit of 0.01 ppm per second
is 90 units of 2^-53 per microsecond. -/
def State.slewRate (s : State) : State :=
  let c := s.clampRate s.rateReq
  if s.ccsHold || s.tmuState == 3 then c.2
  else
    let r := s.rate
    let v := if s.steerOn then r + clampI (-90) 90 (c.1 - r) else c.1
    c.2.setPair48 Reg.tmuRateLo Reg.tmuRateHi v

/-- Holdover begins (R385). -/
def State.holdover (s : State) : State :=
  if s.tmuState = 1 ∨ s.tmuState = 2 then
    { ((s.setTmuState 3).raiseBit Reg.tmuSticky 1) with
      time := { ((s.setTmuState 3).raiseBit Reg.tmuSticky 1).time with good := 0 } }
  else s

/-! ## Register writes -/

/-- A write to `TMU.CTL` (R381, R386): a change of SRC frees the servo, HOST_LOCKED locks it with SRC = 0, STEER waits. -/
def State.writeTmuCtl (s : State) (val mask : Word) : State :=
  let s1 := s.writeFields Reg.tmuCtl val mask
  let s2 := if s1.tmuSrc ≠ s.tmuSrc then { (s1.setTmuState 0) with time := { s1.time with good := 0, reqAge := none } }
    else if bit (val &&& mask) 13 && s1.tmuSrc == 0 && s1.tmuState != 3 then s1.setTmuState 2
    else s1
  (s2.setFlag Reg.tmuStatus 28 (s2.flag Reg.tmuCtl 12 != s2.steerOn)).tmuVotes

/-- A written STEER takes effect (R381). -/
def State.steerChange (s : State) : State :=
  if s.flag Reg.tmuStatus 28 && s.pairsIdle then
    (s.setFlag Reg.tmuStatus 30 (s.flag Reg.tmuCtl 12)).setFlag Reg.tmuStatus 28 false
  else s

/-- A write to a word of `RATE_REQ` (R379, R386): the low word is staged, the high word commits the pair. -/
def State.writeRateReq (s : State) (hi : Bool) (val mask : Word) : State :=
  if hi then
    let w := (s.reg Reg.tmuRateReqHi &&& ~~~ mask) ||| (val &&& mask)
    let v := pair48 s.time.stage w
    let s1 := s.setPair48 Reg.tmuRateReqLo Reg.tmuRateReqHi v
    let age := if s1.tmuSrc = 0 then some 0 else s1.time.reqAge
    let s2 := { s1 with time := { s1.time with hostReq := v, reqAge := age } }
    if s2.tmuSrc = 0 then s2.acquire else s2
  else { s with time := { s.time with stage := (s.time.stage &&& ~~~ mask) ||| (val &&& mask) } }

/-- A write to a word of `CCS_FIXED`, which commits as `RATE_REQ` does (R390). -/
def State.writeCcsFixed (s : State) (hi : Bool) (val mask : Word) : State :=
  if hi then
    let w := (s.reg Reg.tmuCcsFixedHi &&& ~~~ mask) ||| (val &&& mask)
    s.setPair48 Reg.tmuCcsFixedLo Reg.tmuCcsFixedHi (pair48 s.time.fixStage w)
  else { s with time := { s.time with fixStage := (s.time.fixStage &&& ~~~ mask) ||| (val &&& mask) } }

/-- A write to `STEP_ARM` (R383): 1 takes the host's step with SRC = 0, 0 withdraws a pending one. -/
def State.writeStepArm (s : State) (val mask : Word) : State :=
  let s1 := s.writeFields Reg.tmuStepArm val mask
  if !bit mask 0 then s1
  else if bit val 0 then
    if s1.tmuSrc = 0 then s1.pendStep ((s1.reg Reg.tmuStepNs).toInt * 65536 + s1.fld Reg.tmuStepFr 15 0) else s1
  else { (s1.setFlag Reg.tmuStatus 31 false) with time := { s1.time with step := none } }

/-! ## Programmed pulses (R388) -/

/-- Network time in units of 2^-16 ns, with WRAP. -/
def State.now16 (s : State) : Nat := s.time.t / 2 ^ 37

/-- A scheduled edge has come, on the circle of 2^64 units. -/
def State.reached (s : State) (e : Nat) : Bool := (s.now16 + 2 ^ 64 - e) % 2 ^ 64 < 2 ^ 63

def State.pulse (s : State) (k : Nat) : Pulse := (alook s.time.pulses k).getD {}
def State.setPulse (s : State) (k : Nat) (p : Pulse) : State := { s with time := { s.time with pulses := aput s.time.pulses k p } }

/-- The period of generator k in 2^-16 ns; 0 is a single pulse. -/
def State.pulsePeriod (s : State) (k : Nat) : Nat :=
  (s.reg (Reg.tmuPulsePeriod k)).toNat * 65536 + (if s.reg (Reg.tmuPulsePeriod k) = 0 then 0 else s.fld (Reg.tmuPulseShape k) 15 0)

/-- The first edge at or before now plus whole periods that lies ahead. -/
def State.pulseAhead (s : State) (k e : Nat) : Option Nat :=
  if s.reached e then
    let p := s.pulsePeriod k
    if p = 0 then none
    else
      let past := (s.now16 + 2 ^ 64 - e) % 2 ^ 64
      some ((e + (past / p + 1) * p) % 2 ^ 64)
  else some e

/-- A write to `PULSE[k].CTL`. -/
def State.writePulseCtl (s : State) (k : Nat) (val mask : Word) : State :=
  let s1 := s.writeFields (Reg.tmuPulseCtl k) val mask
  let s2 :=
    if s1.flag (Reg.tmuPulseCtl k) 31 then
      if bit mask 31 then
        let a := (s1.reg (Reg.tmuPulseStart k)).toNat * 65536 + s1.fld (Reg.tmuPulseCtl k) 15 0
        let d := (a + 2 ^ 48 - s1.now16 % 2 ^ 48) % 2 ^ 48
        let e := if 0 < d ∧ d ≤ 2 ^ 47 then s1.now16 + d else s1.now16 + 2 ^ 64 + d - 2 ^ 48
        s1.setPulse k ⟨s1.pulseAhead k (e % 2 ^ 64), (s1.pulse k).last⟩
      else s1
    else s1.setPulse k ⟨none, (s1.pulse k).last⟩
  s2.tmuVotes

/-- An active edge: the event, the pulse on the pin, the next edge. -/
def State.pulseEdge (s : State) (k : Nat) : State :=
  match (s.pulse k).next with
  | none => s
  | some e =>
    if s.flag (Reg.tmuPulseCtl k) 31 && s.reached e then
      let p := s.pulsePeriod k
      let s1 := s.setPulse k ⟨if p = 0 then none else some ((e + p) % 2 ^ 64), some e⟩
      let s2 := if k < 8 then s1.setEv (160 + k) else s1
      let w := s.fld (Reg.tmuPulseShape k) 31 16 * 65536
      let w' := if p = 0 then w else min w (p - 65536)
      if w' = 0 then s2 else s2.send (.pulse k w' (!s.flag (Reg.tmuPulseCtl k) 30))
    else s

/-- After a forward step the edges passed over are not emitted. -/
def State.skipPulses (s : State) : State :=
  (List.range 9).foldl (fun t k =>
    match (t.pulse k).next with
    | some e => if t.reached e then t.setPulse k ⟨t.pulseAhead k e, (t.pulse k).last⟩ else t
    | none => t) s

/-! ## PPS_IN (R388) -/

/-- An edge captured at `tns` + `tfr` / 65,536 ns; with SRC = 2 it is accepted within half a second of E. -/
def State.ppsIn (s : State) (tns : Word) (tfr : Nat) : State :=
  let s1 := (s.setReg Reg.tmuPpsTns tns).setReg Reg.tmuPpsTfr (BitVec.ofNat 32 (tfr % 65536))
  if s1.tmuSrc = 2 then
    let e := s1.reg Reg.tmuPpsExp
    let o := tdiff e tns * 65536 - (tfr % 65536 : Nat)
    if o.natAbs ≤ 500000000 * 65536 then (s1.setReg Reg.tmuPpsExp (e + 1000000000)).measure (o * 250) none 1000000000
    else s1.raiseBit Reg.tmuSticky 4
  else s1

def State.ppsMiss (s : State) : State :=
  if s.tmuSrc = 2 then
    ((s.raiseBit Reg.tmuSticky 5).setReg Reg.tmuPpsExp (s.reg Reg.tmuPpsExp + 1000000000)).holdover
  else s

/-! ## Steps (R63, R147, R383) -/

/-- One pending entry after a step from `t0` to `t1`, in whole ns (R63). After a backward step the occurrences of a series in the
repeated span [t1, t0) are those it has run, which lie whole periods before its next one; a series with none there writes no
record (log 130). -/
def State.stepEntry (s : State) (t0 t1 : Int) (tag : Nat) : State :=
  match s.entry? tag with
  | none => s
  | some e =>
    if e.spent then s
    else
      let d := tdiff e.due (BitVec.ofInt 32 t0)
      let span := t1 - t0
      if 0 < span then
        if 1 ≤ d ∧ d ≤ span then
          let n := if e.periodic ∧ e.period ≠ 0 then
              (let k := ((span - d) / e.period).toNat + 1
               if e.counted then min k e.count else k)
            else 1
          let e' := { e with due := e.due + BitVec.ofNat 32 (n * e.period), count := e.count - n, ran := e.ran + n,
                             closed := e.closed || !e.periodic }
          (s.setEntry tag e').finish tag e' ccTimeStepped e.due s.tns n (e'.spent && e'.flying == 0)
        else s
      else if e.periodic ∧ e.period ≠ 0 then
        let p : Int := e.period
        let n := ((min (e.ran : Int) ((d - span) / p)) - max (d / p) 0).toNat
        if n = 0 then s else s.finish tag e ccTimeStepped e.due s.tns n false
      else s

/-- A pending step is applied on one Ivory edge; forced while pairs run, it silences the carriers for a time. -/
def State.timeStep (s : State) : State :=
  match s.time.step with
  | none => s
  | some v =>
    let old := s.time.t
    let frame := s.frameStart
    let t := (((old : Int) + v * 2 ^ 37) % (timeMod : Int)).toNat
    let s1 := { s with time := { s.time with t := t, step := none } }
    let s2 := ((s1.setFlag Reg.tmuStatus 31 false).setFlag Reg.tmuStepArm 0 false).raiseBit Reg.tmuSticky 2
    let s3 := s2.raiseBit Reg.tlpSticky 20
    let a : Int := ((old / 2 ^ 53 : Nat) : Int)
    let b : Int := ((((old : Int) + v * 2 ^ 37) / 2 ^ 53))
    let s4 := if s3.up domCob then ((s3.taq.map (·.1)).foldl (fun u g => u.stepEntry a b g) s3).airStep old frame else s3
    let s5 := if s.pairsIdle || !s4.up domCob || !s4.up domCrm then s4 else (s4.hush 0).hush 1
    if 0 < v then s5.skipPulses else s5

/-! ## Commands -/

def execPpsIn (tns : Word) (tfr : Nat) (s : State) : Host.Outcome State Fault Refusal :=
  .next (if s.up domTime then s.ppsIn tns tfr else s)
def execPpsMiss (s : State) : Host.Outcome State Fault Refusal := .next (if s.up domTime then s.ppsMiss else s)
def execRateSlew (s : State) : Host.Outcome State Fault Refusal := .next (if s.up domTime then s.slewRate else s)
def execRateReq (port : Port) (val : Word) (s : State) : Host.Outcome State Fault Refusal :=
  .next (s.hostReg port Reg.tmuRateReqHi (fun t => t.writeRateReq true val 0xFFFFFFFF))
def execTmuCtlWrite (port : Port) (val : Word) (s : State) : Host.Outcome State Fault Refusal :=
  .next (s.hostReg port Reg.tmuCtl (fun t => t.writeTmuCtl val 0xFFFFFFFF))
def execSteerChange (s : State) : Host.Outcome State Fault Refusal := .next (if s.up domTime then s.steerChange else s)
def execStepArm (port : Port) (val : Word) (s : State) : Host.Outcome State Fault Refusal :=
  .next (s.hostReg port Reg.tmuStepArm (fun t => t.writeStepArm val 0xFFFFFFFF))

/-- A pending step is applied once every pair is idle, or at once while STEP_FORCE is 1 (R383). -/
def execTimeStep (s : State) : Host.Outcome State Fault Refusal :=
  .next (if s.up domTime && (s.flag Reg.tmuStepForce 0 || s.pairsIdle) then s.timeStep else s)

/-- With SRC = 0 no write of RATE_REQ has come for HOST_TMO ms since the last one; 0 disables the case (R385). -/
def State.hostSilent (s : State) : Bool :=
  s.tmuSrc == 0 && s.fld Reg.tmuHostTmo 15 0 != 0 && s.time.reqAge.any (fun a => s.fld Reg.tmuHostTmo 15 0 * 1000000 ≤ a)

/-- The host has been silent too long (R385). The cases of SRC = 1 and SRC = 2 are judged where their exchange and their edge are
(`State.tsPeriod`, `State.ppsMiss`). -/
def execHoldover (s : State) : Host.Outcome State Fault Refusal :=
  .next (if s.up domTime ∧ s.hostSilent then s.holdover else s)
def execPulseEnable (port : Port) (k : Nat) (val : Word) (s : State) : Host.Outcome State Fault Refusal :=
  .next (if k < 9 then s.hostReg port (Reg.tmuPulseCtl k) (fun t => t.writePulseCtl k val 0xFFFFFFFF) else s)
def execPulseEdge (k : Nat) (s : State) : Host.Outcome State Fault Refusal :=
  .next (if k < 9 ∧ s.up domTime then s.pulseEdge k else s)

end Sys2Proof.Machine
end

