-- ==== Sys2Proof/Machine/Clk.lean ====
section
/-! DEFINITION. Clocks and domain crossings (22_clock_domains.md): the reference inputs, PLLs, crossings and level monitors;
and the link reset of HST (R467). -/
namespace Sys2Proof.Machine

/-- `CLK.PLL_STATUS`: each PLL runs while its domain is up; those fed from f_PFD are frozen without REFCLK (R428, R430). -/
def State.pllStatus (s : State) : Word :=
  let ref := s.flag Reg.clkRefStatus 31
  let ccs := (List.range 4).foldl (fun w n => putBit w (8 + n) (s.up (domTile n) && s.flag (Reg.losCcsStatus n) 31)) (0 : Word)
  let ring := s.up domRing && ref
  putBit (putBit (putBit (putBit (putBit (putBit ccs 5 (s.up domHost && s.flag Reg.clkRefStatus 30)) 4 (s.up domFh && ref))
    3 ring) 2 ring) 1 (s.up domCob)) 0 (s.up domTime && ref)

/-- MHz of a DVFS point (R431). -/
def pointMhz (p : Nat) : Nat := if p = 0 then 600 else if p = 1 then 1000 else if p = 2 then 1300 else 1600

/-- `CLK.COB_FREQ`: the frequency ordered by PWR and the one in force. -/
def State.cobFreq (s : State) : Word :=
  let tgt := match s.pwr.dvGoal with
    | some (t, _) => t
    | none => s.pwr.fpt
  BitVec.ofNat 32 (pointMhz tgt * 65536 + pointMhz s.pwr.fpt)

/-- REFCLK has 1 ms of valid windows at one frequency, coded as FREQ; 3 is a frequency outside the three (R427). -/
def State.refValid (s : State) (freq : Nat) : State :=
  if s.flag Reg.clkRefCtl 0 then
    if freq < 3 then (s.setFlag Reg.clkRefStatus 31 true).setFld Reg.clkRefStatus 29 28 freq
    else (s.setFld Reg.clkRefStatus 29 28 3).raiseBit Reg.clkSticky 1
  else if freq = s.fld Reg.clkRefCtl 2 1 then (s.setFlag Reg.clkRefStatus 31 true).setFld Reg.clkRefStatus 29 28 freq
  else s

/-- REFCLK is lost (R428): CCS0–CCS3 are reported unlocked. -/
def State.refLoss (s : State) : State :=
  let s1 := ((s.setFlag Reg.clkRefStatus 31 false).setFld Reg.clkRefStatus 29 28 3).bump Reg.clkRefLosses
  (List.range 4).foldl (fun t n =>
    if t.up (domTile n) && t.flag (Reg.losCcsStatus n) 31 then t.ccsFell n else t) (s1.raiseBit Reg.clkSticky 0)

/-- A link reset (R467): the MSI-X table, PBA and configuration space return to reset; HST's sticky bits and counters
stay. -/
def State.linkReset (s : State) : State :=
  let s1 := { s with regs := skeep s.regs (fun k => !(0x118000 ≤ k && k < 0x11C008)), msixEn := false, d3 := false }
  (s1.setReg Reg.hstLink 0).raiseBit Reg.hstSticky 3

/-- PCIE_REFCLK is lost (R429). -/
def State.pcieRefLoss (s : State) : State :=
  let s1 := (s.setFlag Reg.clkRefStatus 30 false).raiseBit Reg.clkSticky 5
  if s1.up domHost then s1.linkReset else s1

/-! ## Commands -/

def execRefclkValid (freq : Nat) (s : State) : Host.Outcome State Fault Refusal :=
  .next (if s.flag Reg.clkRefStatus 31 then s else s.refValid freq)
def execRefLoss (s : State) : Host.Outcome State Fault Refusal :=
  .next (if s.flag Reg.clkRefStatus 31 then s.refLoss else s)
def execPcieRefLoss (s : State) : Host.Outcome State Fault Refusal := .next s.pcieRefLoss

/-- A PLL loses lock and relocks itself (R439): 0 time, 1 Cobalt, 2 ring A, 3 ring B, 4 fronthaul lanes. -/
def execPllUnlock (pll : Nat) (s : State) : Host.Outcome State Fault Refusal :=
  .next (
    let ref := s.flag Reg.clkRefStatus 31
    if pll = 0 then (if ref && s.up domTime then s.raiseBit Reg.clkSticky 2 else s)
    else if pll = 1 then (if s.up domCob then s.raiseBit Reg.clkSticky 3 else s)
    else if pll < 5 then (if ref && s.up (if pll = 4 then domFh else domRing) then s.raiseBit Reg.clkSticky 4 else s)
    else s)

/-- A crossing FIFO overflows or underflows (R434). -/
def execXingErr (index : Nat) (s : State) : Host.Outcome State Fault Refusal :=
  .next (if index < 22 then
    ((s.setFld Reg.clkXing 31 24 index).count Reg.clkXing 15 0 1).raiseBit Reg.clkSticky 6 else s)

/-- The domains of a rail of R437: 0 the Cobalt regulator, 1 VDD_AON, 2 VDD_CRM. -/
def railDoms (r : Nat) : List Dom := if r = 0 then [domCob] else if r = 1 then [domMgt] else [domCrm, domFh, domRing, domTime, domHost]

/-- The two rails of a boundary of R437. -/
def railsOfBoundary (b : Nat) : List Nat := if b = 0 then [0, 2] else if b = 1 then [0, 1] else [2, 1]

/-- A rail difference exceeds 350 mV (R437); `lower` is the rail with the lower voltage. -/
def execLevel (boundary lower : Nat) (s : State) : Host.Outcome State Fault Refusal :=
  .next (if boundary < 3 ∧ (railsOfBoundary boundary).contains lower then
    (railDoms lower).foldl State.pgLoss ((s.setReg Reg.clkLevelLast (BitVec.ofNat 32 boundary)).raiseBit Reg.clkSticky 7)
  else s)

def execLinkReset (s : State) : Host.Outcome State Fault Refusal := .next (if s.up domHost then s.linkReset else s)

/-- The PCIe link finishes training (R25): width 1, 2 or 4 lanes, speed 1 to 5. -/
def execPcieLinkUp (width speed : Nat) (s : State) : Host.Outcome State Fault Refusal :=
  .next (if s.up domHost ∧ [1, 2, 4].contains width ∧ 1 ≤ speed ∧ speed ≤ 5 then
    (s.setReg Reg.hstLink (BitVec.ofNat 32 (width * 16 + speed))).setFlag Reg.clkRefStatus 30 true else s)

def execD3hotEntry (s : State) : Host.Outcome State Fault Refusal := .next (if s.linkUp then { s with d3 := true } else s)
def execD0Entry (s : State) : Host.Outcome State Fault Refusal := .next (if s.linkUp then { s with d3 := false } else s)

/-- The host enables MSI-X: every vector whose source is at 1 sends (R467). -/
def execMsixEnable (s : State) : Host.Outcome State Fault Refusal :=
  .next (if s.linkUp then
    (List.range 64).foldl (fun t v => if t.source v then t.notify v else t) { s with msixEn := true } else s)

/-- A fatal PCIe error is reported through AER (R514). -/
def execAerFatalError (s : State) : Host.Outcome State Fault Refusal :=
  .next (if s.up domHost then s.raiseBit Reg.hstSticky 1 else s)

end Sys2Proof.Machine
end

