-- ==== Sys2Proof/Machine/Thm.lean ====
section
/-! DEFINITION. Thermal management (24_thermal.md): sampling passes, exclusion, thresholds, throttle, shutdown, bands and
the tile gradient. Temperatures are integers in units of 0.125 °C. -/
namespace Sys2Proof.Machine

/-- Die base, rows and columns of the grid of sensor i (R456): four tiles of 3 × 4, the core of 4 × 4. -/
def gridOf (i : Nat) : Nat × Nat := if i < 48 then (i / 12 * 12, 3) else (48, 4)

/-- The sensors of the same grid that touch sensor i by side or corner. -/
def neighbours (i : Nat) : List Nat :=
  let g := gridOf i
  let r := (i - g.1) / 4
  let c := (i - g.1) % 4
  (List.range (4 * g.2)).filterMap (fun j =>
    let r' := j / 4
    let c' := j % 4
    if j ≠ i - g.1 ∧ r' ≤ r + 1 ∧ r ≤ r' + 1 ∧ c' ≤ c + 1 ∧ c ≤ c' + 1 then some (g.1 + j) else none)

/-- The sensors of region j: a group's six, or the core's sixteen. -/
def regionSensors (j : Nat) : List Nat :=
  if j < 8 then
    (List.range 12).filterMap (fun m => if m % 4 / 2 = j % 2 then some (12 * (j / 2) + m) else none)
  else (List.range 16).map (48 + ·)

def insSorted (x : Int) : List Int → List Int
  | [] => [x]
  | y :: r => if x ≤ y then x :: y :: r else y :: insSorted x r

/-- The median of a list: the mean of the two middle values, rounded down, for an even count. -/
def median (l : List Int) : Option Int :=
  let m := l.foldl (fun a x => insSorted x a) []
  let n := m.length
  if n = 0 then none
  else if n % 2 = 1 then m[n / 2]?
  else some (((m[n / 2 - 1]?).getD 0 + (m[n / 2]?).getD 0) / 2)

/-- A sensor counts as excluded: by R457 or by FORCE_EXCL. -/
def State.excluded (s : State) (i : Nat) : Bool :=
  s.thm.excl.contains i || s.flag (Reg.thmForceExcl (i / 32)) (i % 32)

/-- The neighbour median of sensor i from the raw readings of a pass. -/
def State.nbMedian (s : State) (raw : Nat → Int) (i : Nat) : Option Int :=
  median ((neighbours i).filterMap (fun j => if s.excluded j then none else some (raw j)))

/-- One sensor of a pass (R457), judged against medians taken with `before`, the exclusions the pass began with. -/
def State.senseOne (s before : State) (raw : Nat → Int) (i : Nat) : State :=
  let med := before.nbMedian raw i
  let far := match med with
    | some m => 80 < (raw i - m).natAbs
    | none => false
  let was := s.thm.excl.contains i
  let run := s.fld (Reg.thmTs i) 27 24
  let n := if far != was then run + 1 else 0
  let flip := 8 ≤ n
  let ex := was != flip
  let s1 : State := { s with thm := { s.thm with excl := if ex then (if was then s.thm.excl else i :: s.thm.excl) else s.thm.excl.filter (· != i) } }
  let s2 := if flip ∧ ex then s1.raiseBit Reg.thmSticky 3 else s1
  let out := s2.excluded i
  let v : Int := match med with
    | some m => if out then m else if far then clampI (m - 80) (m + 80) (raw i) else raw i
    | none => if out then (alook s2.thm.counted i).getD 0 else raw i
  let s3 : State := { s2 with thm := { s2.thm with counted := aput s2.thm.counted i v } }
  let w := out.toNat * 2 ^ 31 + far.toNat * 2 ^ 30 + (if flip then 0 else n) * 2 ^ 24 + unsgn 16 (raw i)
  (s3.setReg (Reg.thmTs i) (BitVec.ofNat 32 w)).setFlag (Reg.thmExcl (i / 32)) (i % 32) out

def State.counted (s : State) (i : Nat) : Int := (alook s.thm.counted i).getD 0

def maxOf (l : List Int) : Int :=
  match l with
  | [] => 0
  | x :: r => r.foldl max x
def minOf (l : List Int) : Int :=
  match l with
  | [] => 0
  | x :: r => r.foldl min x

/-- Level and level less hysteresis of a threshold register, in 0.125 °C (R459). -/
def State.thrOf (s : State) (off : Nat) : Int × Int :=
  (8 * (s.fld off 7 0 : Int), 8 * ((s.fld off 7 0 : Int) - s.fld off 23 16))

/-- Lower edge of band b in 0.125 °C (R463). -/
def bandEdge (b : Nat) : Int := 8 * (20 * (b : Int) - 40)

/-- The band of a temperature from band b (R463). -/
def bandFrom (t : Int) (b : Nat) : Nat :=
  let up := (List.range 8).foldl (fun m j => if 1 ≤ j ∧ bandEdge j < t then j else m) 0
  if b < up then up
  else if 0 < b ∧ t ≤ bandEdge b - 16 then b - 1 else b

/-- One region at the end of a pass (R458, R459, R463). -/
def State.judgeRegion (s : State) (j : Nat) : State :=
  let r := Reg.thmRegion j
  let t := maxOf ((regionSensors j).map s.counted)
  let unk := (regionSensors j).any (fun i => 3 ≤ (neighbours i).countP s.excluded)
  let w := s.thrOf Reg.thmThrWarn
  let h := s.thrOf Reg.thmThrThrot
  let warn := w.1 ≤ t || (s.flag r 30 && w.2 ≤ t)
  let thr := unk || h.1 ≤ t || (s.flag r 31 && h.2 ≤ t)
  let s1 := if unk && !s.flag r 29 then s.raiseBit Reg.thmSticky 4 else s
  let s2 := if warn && !s.flag r 30 then s1.raiseBit Reg.thmSticky 0 else s1
  let s3 := (((s2.setFlag r 29 unk).setFlag r 30 warn).setFlag r 31 thr).setFld r 15 0 (unsgn 16 t)
  let b := bandFrom t (s3.fld r 22 20)
  if j < 8 ∧ !unk ∧ b ≠ s3.fld r 22 20 then
    let s4 := (s3.setFld r 22 20 b).setEv 184
    if s4.up domCrm then s4.retargetGroup j else s4
  else s3

/-- Device throttle follows the regions (R460). -/
def State.judgeThrottle (s : State) : State :=
  let now := (List.range 9).any (fun j => s.flag (Reg.thmRegion j) 31)
  if now = s.flag Reg.thmStatus 30 then s
  else
    let s1 := s.setFlag Reg.thmStatus 30 now
    (if now then s1.raiseBit Reg.thmSticky 1 else s1).setEv 185

/-- RING_HOLD_r is released (R341): the relays close, the ring's ports carry nothing and their lanes power down (R346). -/
def State.bypass (s : State) (r : Nat) : State :=
  let s1 : State := { s with pins := { s.pins with ringHold := putBit s.pins.ringHold r false } }
  if s1.up domRing then
    let s2 := s1.setReg (Reg.argRingStatus r) 0
    let s3 := [2 * r, 2 * r + 1].foldl (fun t p => (t.setReg (Reg.argPortStatus p) 0).setReg (Reg.argPortLanes p) 0) s2
    let s4 := ((List.range 32).map (32 * r + ·)).foldl (fun t l => t.setFld (Reg.slnLaneStatus l) 31 28 0) s3
    { s4 with arg := { s4.arg with ports := s4.arg.ports.filter (fun p => p.1 / 2 != r) },
              ready := s4.ready.filter (fun l => l / 32 != r) }
  else s1

/-- Thermal shutdown begins (R462). -/
def State.beginShutdown (s : State) : State :=
  let s1 := (s.setFlag Reg.thmStatus 31 true).raiseBit Reg.thmSticky 5
  let s2 := if s1.up domCob then s1.shutdownPairs else s1
  (s2.bypass 0).bypass 1

/-- Shutdown is entered when a region reaches its level and left when every region is below it less the hysteresis. -/
def State.judgeShutdown (s : State) : State :=
  let h := s.thrOf Reg.thmThrShut
  let ts := (List.range 9).map (fun j => sgn 16 (s.fld (Reg.thmRegion j) 15 0))
  if s.flag Reg.thmStatus 31 then (if ts.all (fun t => t < h.2) then s.setFlag Reg.thmStatus 31 false else s)
  else if ts.any (fun t => h.1 ≤ t) then s.beginShutdown else s

/-- Tile temperatures, means rounded down to 0.125 °C, and the gradient (R464). -/
def State.judgeGradient (s : State) : State :=
  let s1 := (List.range 4).foldl (fun t k =>
    t.setFld (Reg.thmTile k) 15 0 (unsgn 16 (((List.range 12).foldl (fun a m => a + t.counted (12 * k + m)) 0) / 12))) s
  let ts := (List.range 4).map (fun k => sgn 16 (s1.fld (Reg.thmTile k) 15 0))
  let g := maxOf ts - minOf ts
  let on := 160 < g || (s1.flag Reg.thmStatus 28 && 128 ≤ g)
  let s2 := (s1.setFlag Reg.thmStatus 28 on).setFld Reg.thmStatus 15 0 g.toNat
  if on then s2.raiseBit Reg.thmSticky 2 else s2

/-- Groups in no enabled carrier take their band and back-off at once (R460, R463). -/
def State.thermalLand (s : State) : State :=
  if s.up domCrm then (List.range 8).foldl (fun t k => if t.inCarrier k then t else (t.landBand k).landBackoff k) s
  else (List.range 8).foldl (fun t k => if t.inCarrier k then t else t.landBand k) s

/-- A sampling pass over the 64 sensors (R456). -/
def State.thermalPass (s : State) (raw : List Int) : State :=
  let rd (i : Nat) : Int := (raw[i]?).getD 0
  let s1 := (List.range 64).foldl (fun t i => t.senseOne s rd i) s
  let s2 := (List.range 9).foldl State.judgeRegion s1
  let s3 := s2.setFlag Reg.thmStatus 29 ((List.range 9).any (fun j => s2.flag (Reg.thmRegion j) 30))
  let s4 := s3.setFlag Reg.thmStatus 27 ((List.range 9).any (fun j => s3.flag (Reg.thmRegion j) 29))
  (((s4.judgeThrottle).judgeShutdown).judgeGradient).thermalLand.powerEval

/-- A write to a threshold register (R465): one that breaks a range or the order of the levels leaves the register. -/
def State.writeThr (s : State) (off : Nat) (val mask : Word) : State :=
  let s1 := s.writeFields off val mask
  let lo := if off = Reg.thmThrShut then 100 else 60
  let l := s1.fld off 7 0
  let h := s1.fld off 23 16
  if lo ≤ l ∧ l ≤ 125 ∧ 1 ≤ h ∧ h ≤ 20 ∧ s1.fld Reg.thmThrWarn 7 0 ≤ s1.fld Reg.thmThrThrot 7 0
      ∧ s1.fld Reg.thmThrThrot 7 0 ≤ s1.fld Reg.thmThrShut 7 0 then s1
  else s1.setReg off (s.reg off)

/-- A write to `THM.THROT`: the cap follows at once, B at the group's next slot boundary (R460). -/
def State.writeThrot (s : State) (val mask : Word) : State := ((s.writeFields Reg.thmThrot val mask).thermalLand).powerEval

def execThermalPass (raw : List Int) (s : State) : Host.Outcome State Fault Refusal :=
  .next (if raw.length = 64 then s.thermalPass raw else s)

end Sys2Proof.Machine
end

