-- ==== Sys2Proof/Machine/Layer.lean ====
section
/-! DEFINITION. Layer data and C-plane sections at the beam engine (09_beam_engine.md, R222, R227, R230-R234), whether they come
from the fronthaul or over the ring. -/
namespace Sys2Proof.Machine

/-- The start of symbol `i` of the frame `frame`, taken modulo 256 and within 1.28 s of the current one (R366), in units of
unwrapped time. -/
def State.airAt (s : State) (c frame i : Nat) : Int :=
  s.frameStart + sgn 8 (frame % 256 + 256 - (s.reg Reg.tlpAirAfc).toNat % 256) * frameU + symStart (s.mu c) i

/-- A section is freed after its last symbol has been weighted, which happens at the commit point of that symbol, or combined
(R219, R233; log 41). -/
def State.pruneSects (s : State) : State :=
  { s with sects := s.sects.filter (fun x =>
      if x.dl then (s.nowU : Int) + s.usefulU x.car + 1536 * 1800 < x.t1 else (s.nowU : Int) < x.t1) }

/-- The PRBs a section names: all of the carrier when the number is 0 (R364). -/
def State.prbsOf (s : State) (c start num : Nat) : Nat × Nat := if num = 0 then (0, s.nRb c) else (start, num)

/-- Two ranges of PRBs meet. -/
def meets (a n b m : Nat) : Bool := a < b + m && b < a + n

/-- Type 3 is accepted on the carrier whose figures it names (R231). -/
def State.type3Ok (s : State) (c : Nat) (t : Nat × Nat × Int) : Bool :=
  t.1 == bits (s.inForce (Reg.bmeCar c)) 27 24 && t.2.1 == s.mu c && t.2.2 == sgn 16 (bits (s.inForce (Reg.bmeCarOff c)) 15 0)

/-- Extension 1 carries 128 × SIZE weights, uncompressed or in block floating point of 7-16 bits: one exponent byte, where there
is one, ahead of all its mantissas (R227, R233; log 118). -/
def State.extOk (s : State) (x : Nat × Bool × List Byte) : Bool :=
  (if x.2.1 then 7 ≤ x.1 && x.1 ≤ 16 else x.1 == 16)
    && x.2.2.length == x.2.1.toNat + 32 * x.1 * s.fld Reg.bmeArray 10 0

/-- The 128 weights of this device's slice of extension 1 as words of Q1.15 (R215, R227, R233), and how many components were
clamped. -/
def State.extWeights (s : State) (x : Nat × Bool × List Byte) : List Word × Nat :=
  let e := if x.2.1 then (x.2.2.headD 0).toNat % 16 else 0
  let bs := ((if x.2.1 then x.2.2.tail else x.2.2).drop (32 * x.1 * s.fld Reg.bmeArray 25 16)).take (32 * x.1)
  let vs := (unpackMsb x.1 256 (bitsMsb bs)).map (fun m => m * 2 ^ e)
  let part (i : Nat) : Nat := unsgn 16 (satS 16 ((vs[i]?).getD 0))
  ((List.range 128).map (fun a => BitVec.ofNat 32 (part (2 * a + 1) * 65536 + part (2 * a))),
   vs.countP (fun v => satS 16 v != v))

/-- The cause for which a section is rejected (R234): its counter. -/
def State.sectReject (s : State) (c : Nat) (stype : Nat) (t3 : Nat × Nat × Int) (x : CSect) : Option Nat :=
  let r := s.prbsOf c x.start x.num
  if x.ext1.isNone && 4095 < x.beam then some 8
  else if x.rb || x.reMask != 0xFFF then some 9
  else if (match x.ext1 with
      | some w => !s.extOk w
      | none => false) then some 10
  else if x.ext1.isSome && 1024 ≤ s.sects.countP (fun y => y.wts.isSome) then some 11
  else if stype == 3 && !s.type3Ok c t3 then some 12
  else if s.nRb c < r.1 + r.2 then some 13
  else none

/-- The beam engine takes one section whose first symbol is `i` of frame `frame` (R230-R234). Of a rejected one it keeps which PRBs
carry nothing. -/
def State.takeSect (s : State) (dl : Bool) (c layer frame i stype : Nat) (t3 : Nat × Nat × Int) (x : CSect) : State :=
  let r := s.prbsOf c x.start x.num
  let t0 := s.airAt c frame i
  let t1 := s.airAt c frame (i + max 1 x.syms)
  match s.sectReject c stype t3 x with
  | some j =>
    let s1 := (s.count (Reg.bmeCnt j) 31 0 1).raiseBit Reg.bmeSticky 5
    { s1 with sects := s1.sects ++ [{ dl, car := c, layer, id := x.id, t0, t1, start := r.1, num := r.2, beam := 0,
                                      wts := none, rej := true }] }
  | none =>
    let lapping := s.sects.countP (fun y => !y.rej && y.dl == dl && y.car == c && y.layer == layer && y.t0 < t1 && t0 < y.t1
      && meets y.start y.num r.1 r.2)
    let own := x.ext1.map s.extWeights
    let s1 := (s.count (Reg.bmeCnt 14) 31 0 lapping).bmeCount (0, (own.map (·.2)).getD 0)
    { s1 with sects := s1.sects ++ [{ dl, car := c, layer, id := x.id, t0, t1, start := r.1, num := r.2, beam := x.beam,
                                      wts := own.map (·.1) }] }

/-- The section that governs a PRB of a layer in the symbol at `tl`: the one received last (R234). -/
def State.sectFor (s : State) (dl : Bool) (c layer prb : Nat) (tl : Int) : Option Sect :=
  (s.sects.filter (fun y => y.dl == dl && y.car == c && y.layer == layer && y.t0 ≤ tl && tl < y.t1
    && y.start ≤ prb && prb < y.start + y.num)).getLast?

/-- Sections of one message in order; symInc moves on by one symbol (log 42). -/
def State.takeSects (s : State) (dl : Bool) (c layer frame i stype : Nat) (t3 : Nat × Nat × Int) : List CSect → State
  | [] => s
  | x :: xs =>
    let j := if x.symInc then i + 1 else i
    (s.takeSect dl c layer frame j stype t3 x).takeSects dl c layer frame j stype t3 xs

/-- Bytes of one PRB of layer data (R227). -/
def prbBytes (w : Nat) (comp : Bool) : Nat := if comp then 1 + 3 * w else 48

/-- The first `n` PRBs of layer data, bytes each. -/
def prbSplit (len : Nat) : Nat → List Byte → List (List Byte)
  | 0, _ => []
  | n + 1, bs => bs.take len :: prbSplit len n (bs.drop len)

/-- The PRBs in which an F symbol sends nothing (R222). -/
def State.guardPrbs (s : State) (c : Nat) : Nat × Nat :=
  let u := s.reg (Reg.tlpAirSbfd c)
  let g := s.inForce (Reg.bmeSbfd c)
  (bits u 8 0 - bits g 7 0, bits u 24 16 + bits g 15 8)

/-- The PRB lies in the guarded uplink sub-band of an F symbol, where nothing is sent (R222). -/
def State.guarded (s : State) (c prb : Nat) : Bool := (s.guardPrbs c).1 ≤ prb && prb ≤ (s.guardPrbs c).2

/-- A PRB of layer data waits for the commit point of its symbol; data received later for the same PRB takes its place
(R234). -/
def State.putData (s : State) (x : LayerPrb) : State :=
  { s with bme := { s.bme with data := s.bme.data.filter (fun y => !(y.car == x.car && y.t0 == x.t0 && y.layer == x.layer
      && y.prb == x.prb)) ++ [x] } }

/-- The beam engine takes downlink layer data for `n` PRBs from `start`, of symbol `sym` of slot `slot` of frame `frame`: values
beyond Q1.23 are clamped and counted (R227), data for the guarded uplink PRBs of an F symbol is discarded and counted
(R222). A carrier that is not valid has no downlink (R210). -/
def State.takeData (s : State) (c layer frame slot sym start n w : Nat) (comp : Bool) (data : List Byte) : State :=
  if !s.carRuns c then s
  else
    let prbs := prbSplit (prbBytes w comp) n data
    let pat := s.reg (Reg.tlpAirPattern c ((frame % 2 * 10 * 2 ^ s.mu c + slot) % max 1 (bits (s.carCfg c) 6 0)))
    let t0 := s.airAt c frame (14 * slot + sym)
    (List.range n).foldl (fun t j =>
      if typeOf pat sym = 3 ∧ s.guarded c (start + j) then t.bmeCount (15, 1)
      else
        let v := bfpDecode w comp ((prbs[j]?).getD [])
        (t.bmeCount (0, v.2)).putData { car := c, t0, layer, prb := start + j, vals := v.1 }) s

end Sys2Proof.Machine
end

