-- ==== Sys2Proof/Machine/Beam.lean ====
section
/-! DEFINITION. What the beam engine computes (09_beam_engine.md): weights, the downlink symbols it makes at their commit points, and
the uplink contributions it makes of the windows of a symbol. -/
namespace Sys2Proof.Machine

/-! ## Weights (R214-R216, R232) -/

/-- Address of dynamic vector v of bank b (R214). -/
def dynVec (b v : Nat) : Nat := 0x1800000 + b * 0x400000 + 0x200 * v

/-- Address of codebook entry i (R214). -/
def bookVec (i : Nat) : Nat := 0x1800000 + i / 2048 * 0x400000 + 0x300000 + 0x200 * (i % 2048)

/-- Where the weights of a layer in a PRB come from: the section's own, a vector of the weight memory, or none. -/
inductive Weights where
  | own (ws : List Word)
  | vector (a : Nat)
  | zero
  deriving DecidableEq, Repr

/-- W(j) of a layer's descriptor in force for a PRB (R216). -/
def State.groupVec (s : State) (c : Nat) (u : List Word × Nat) (layer prb : Nat) : Weights :=
  let w := (u.1[layer]?).getD 0
  if bit w 31 then
    let v := bits w 28 16 + prb / s.pgSize c
    if 6143 < v then .zero else .vector (dynVec u.2 v)
  else .vector (bookVec (bits w 11 0))

/-- The weights of a layer in a PRB of the symbol at `tl` (R221, R232); `none` where the layer carries nothing there: its downlink
section has been rejected, or no uplink section names the PRB (R223, R234). -/
def State.weightsFor (s : State) (dl : Bool) (c layer prb : Nat) (tl : Int) (u : List Word × Nat) : Option Weights :=
  match s.sectFor dl c layer prb tl with
  | none => if dl then some (s.groupVec c u layer prb) else none
  | some y =>
    if y.rej then none
    else match y.wts with
      | some ws => some (.own ws)
      | none => some (if y.beam = 0 then s.groupVec c u layer prb else .vector (bookVec y.beam))

/-- The words of memory from `a` on, as the device reads them: a poisoned word is 0 (R48). -/
def State.readWeights (s : State) (a : Nat) : Nat → List Word × State
  | 0 => ([], s)
  | n + 1 =>
    let r := s.readDev a
    let q := r.2.readWeights (a + 4) n
    (r.1 :: q.1, q.2)

/-- The vectors at the addresses, each read once: 128 weights of Q1.15 (R215). -/
def State.readVectors (s : State) : List Nat → List (Nat × List Cx) × State
  | [] => ([], s)
  | a :: l =>
    let r := s.readWeights a 128
    let q := r.2.readVectors l
    ((a, r.1.map wordCx) :: q.1, q.2)

/-- The vectors that weights name. -/
def namedVectors (l : List Weights) : List Nat :=
  (l.filterMap (fun w => match w with
    | .vector a => some a
    | _ => none)).eraseDups

/-- The weights of all antennas, the vectors having been read. -/
def Weights.all (w : Weights) (vecs : List (Nat × List Cx)) : List Cx :=
  match w with
  | .own ws => ws.map wordCx
  | .vector a => (alook vecs a).getD []
  | .zero => []

/-- Antennas of the groups of carrier c. -/
def State.antennas (s : State) (c : Nat) : List Nat := (List.range 128).filter (fun a => s.carries c (groupOf a))

/-! ## Rate conversion (R211, R212; log 105) -/

/-- Samples around place m of a useful part, as a filter looks at them, the part repeating itself. -/
def around (xs : Array Cx) (m : Nat) : List Cx :=
  (List.range span).map (fun d => (xs[(m + xs.size + span / 2 - d) % xs.size]?).getD (0, 0))

/-- Interpolation by r. -/
def upRate (r : Nat) (xs : List Cx) : List Cx :=
  if r = 1 then xs
  else
    let v := xs.toArray
    (List.range xs.length).flatMap (fun m => (List.range r).map (fun i => (clampQ (Config.filter fUp r i (around v m))).1))

/-- Decimation by r. -/
def downRate (r : Nat) (xs : List Cx) : List Cx :=
  if r = 1 then xs
  else
    let v := xs.toArray
    (List.range (xs.length / r)).map (fun m => (clampQ (Config.filter fDown r 0 (around v (r * m)))).1)

/-! ## Downlink (R211, R213, R221, R222) -/

/-- A PRB of a layer with its weights. -/
structure Share where
  layer : Nat
  prb   : Nat
  vals  : List Int
  from_ : Weights
  deriving DecidableEq, Repr

/-- The shares of the downlink symbol at `tl`: layer data held for it, not in guarded PRBs, beyond the carrier or under a rejected
section. -/
def State.shares (s : State) (c : Nat) (tl : Int) (u : List Word × Nat) : List Share :=
  s.bme.data.filterMap (fun x =>
    if x.car = c ∧ x.t0 = tl ∧ x.prb < s.nRb c ∧ ¬(s.typeAt c tl = 3 ∧ s.guarded c x.prb) then
      (s.weightsFor true c x.layer x.prb tl u).map (fun w => ⟨x.layer, x.prb, x.vals, w⟩)
    else none)

/-- Subcarrier i of a PRB's components. -/
def toneOf (vals : List Int) (i : Nat) : Cx := ((vals[2 * i]?).getD 0, (vals[2 * i + 1]?).getD 0)

/-- Y_a of the twelve subcarriers of a PRB in Q8.23: the exact sum over the layers, scaled by FS in F symbols (R221). -/
def prbSum (a : Nat) (fs : Option Int) (l : List (Share × List Cx)) : List Cx :=
  (List.range 12).map (fun i =>
    let v := Cx.sum (l.map (fun p => Cx.mul (back p.2 a) (toneOf p.1.vals i)))
    match fs with
    | some f => Cx.rne 30 (Cx.scale f v)
    | none => Cx.rne 15 v)

/-- The bins of a transform of 2^n samples: subcarrier k in bin (k − 6 N_RB) mod N (R209). -/
def toBins (n nrb : Nat) (prbs : List (List Cx)) : List Cx :=
  let v := (prbs.flatMap id).toArray
  (List.range (2 ^ n)).map (fun b =>
    let k := (b + 6 * nrb) % 2 ^ n
    if k < 12 * nrb then (v[k]?).getD (0, 0) else (0, 0))

/-- The useful part of a downlink symbol on one antenna of carrier c, F and the components clamped (R211, R213). -/
def State.usefulPart (s : State) (c : Nat) (bins : List Cx) : List Cx × Nat × Nat :=
  let n := s.usefulN c
  let t := transform true (s.fftLog c) (s.fld (Reg.bmeCarShift c) 3 0) 24 bins
  let x := (upRate (s.rateFactor c) t.1).toArray
  ((List.range n).map (fun (i : Nat) => (clampQ (turn (s.carOff c * i) n ((x[i]?).getD (0, 0)))).1), t.2)

/-- Y_a of the symbol at `tl` on antenna a, in the order of the bins. -/
def State.antennaBins (s : State) (c : Nat) (tl : Int) (l : List (Share × List Cx)) (a : Nat) : List Cx :=
  let fs := if s.typeAt c tl = 3 then some (sgn 16 (s.fld (Reg.bmeCarShift c) 31 16)) else none
  toBins (s.fftLog c) (s.nRb c) ((List.range (s.nRb c)).map (fun r => prbSum a fs (l.filter (fun p => p.1.prb == r))))

/-- F of a symbol's transforms is kept for the slot (R213). -/
def State.putExp (s : State) (dir c : Nat) (tl : Int) (f : Nat) : State :=
  { s with bme := { s.bme with exps := s.bme.exps ++ [(2 * dir + c, (tl, f))] } }

/-- The useful part waits for its air time; parts long sent are dropped. -/
def State.putPart (s : State) (c a : Nat) (tl : Int) (x : List Cx) : State :=
  let old := ((alook s.smp.bufs (128 * c + a)).getD []).filter (fun p => (s.nowU : Int) < p.1 + 2 * s.usefulU c)
  { s with smp := { s.smp with bufs := aput s.smp.bufs (128 * c + a) (old ++ [(tl, x)]) } }

/-- The downlink symbol of carrier c at `tl` is weighted and transformed with the selections `u` (R211, R213, R221). -/
def State.weigh (s : State) (c : Nat) (tl : Int) (u : List Word × Nat) : State :=
  let sh := s.shares c tl u
  let r := s.readVectors (namedVectors (sh.map (·.from_)))
  let l := sh.map (fun x => (x, x.from_.all r.1))
  let s1 := (s.antennas c).foldl (fun t a =>
    let x := s.usefulPart c (s.antennaBins c tl l a)
    ((t.putPart c a tl x.1).putExp 0 c tl x.2.1).bmeCount (1, x.2.2)) r.2
  { s1 with bme := { s1.bme with data := s1.bme.data.filter (fun x => x.car != c || tl < x.t0) } }

/-- The commit point of a downlink symbol of carrier c (R219). -/
def State.commitPoint (s : State) (c : Nat) : State :=
  let tl := s.commitStart c
  let u := s.selections c tl
  ((s.weighRange c tl u.1).noteCommit c tl u).weigh c tl u

/-! ## Uplink (R212, R213, R223) -/

/-- The window advance A_c in force: at most the normal prefix (R204). -/
def State.cpAdvance (s : State) (c : Nat) : Nat :=
  min (bits (s.inForce Reg.rxdCpAdv) (16 * c + 8) (16 * c)) (2304 / 2 ^ s.mu c)

/-- The spectrum of one window of carrier c by bin, F and the components clamped (R212, R213). -/
def State.spectrum (s : State) (c : Nat) (xs : List Cx) : List Cx × Nat × Nat :=
  let n := s.usefulN c
  let adv := s.cpAdvance c
  let v := xs.toArray
  let sh := (List.range n).map (fun (i : Nat) => (clampQ (turn (-(s.carOff c * ((i : Int) - adv))) n ((v[i]?).getD (0, 0)))).1)
  let t := transform false (s.fftLog c) (s.fld (Reg.bmeCarShift c) 11 8) 32 (downRate (s.rateFactor c) sh)
  let half := 2 ^ s.fftLog c / 2
  let y := (List.range (2 ^ s.fftLog c)).map (fun (b : Nat) =>
    let k : Int := if b < half then b else (b : Int) - 2 ^ s.fftLog c
    let x := turn (k * adv) n ((t.1[b]?).getD (0, 0))
    ((satS 32 x.1, satS 32 x.2) : Cx))
  (y, t.2)

/-- Y_a of every antenna, in subcarrier order. -/
abbrev Spectra := List (Nat × Array Cx)

/-- The PRBs of an uplink symbol: all, in F symbols those of the uplink sub-band (R152, R222). -/
def State.ulPrbs (s : State) (c ty : Nat) : List Nat :=
  let u := s.reg (Reg.tlpAirSbfd c)
  (List.range (s.nRb c)).filter (fun r => ty != 3 || (bits u 8 0 ≤ r && r ≤ bits u 24 16))

/-- The weights of every layer and PRB that an uplink section names in the symbol at `tl`, with the selections in force at its
start (R220, R223). -/
def State.ulJobs (s : State) (c ty : Nat) (tl : Int) : List (Nat × Nat × Weights) :=
  let u := (alook s.bme.ulSel c).getD ([], 0)
  (List.range 32).flatMap (fun l => (s.ulPrbs c ty).filterMap (fun r =>
    (s.weightsFor false c l r tl u).map (fun w => (l, r, w))))

/-- Z_l of one PRB in Q24.23: the exact sum over the antennas, rounded (R223). -/
def combine (ys : Spectra) (w : List Cx) (prb : Nat) : List Int :=
  (List.range 12).flatMap (fun i =>
    let z := Cx.rne 15 (Cx.sum (ys.map (fun y => Cx.mul (back w y.1) ((y.2[12 * prb + i]?).getD (0, 0)))))
    [z.1, z.2])

/-- When the device's own contribution is ready, by the stages of R16: path chain, transform and combining after the last sample of
the symbol at the ball (log 119). -/
def State.ownReady (s : State) (c ty : Nat) (tl : Int) : Int :=
  let i := symAt (s.mu c) (tl - s.frameStart).toNat
  s.frameStart + symStart (s.mu c) (i + 1) + (if ty = 3 then 1500 else 1100) * 1536 + s.usefulU c + 600 * 1536

/-- Sums are kept; those of symbols a frame old are forgotten. -/
def State.putSums (s : State) (l : List SumPrb) : State :=
  { s with bme := { s.bme with sums := s.bme.sums.filter (fun x => (s.nowU : Int) < x.t0 + frameU) ++ l } }

/-- The uplink symbol of carrier c at `tl`, of type `ty`, whose windows `wins` are complete (path, ABSENT, samples oldest first), is
transformed and combined (R212, R213, R223). -/
def State.combineSymbol (s : State) (c ty : Nat) (tl : Int) (wins : List (Nat × Bool × List Cx)) : State :=
  let n := 2 ^ s.fftLog c
  let sp := wins.map (fun w => (w.1, s.spectrum c (if w.2.1 then [] else w.2.2)))
  let ys : Spectra := sp.map (fun y =>
    let v := y.2.1.toArray
    (y.1, ((List.range (12 * s.nRb c)).map (fun k => (v[(k + n - 6 * s.nRb c) % n]?).getD (0, 0))).toArray))
  let s1 := wins.foldl (fun t w => if w.2.1 then t.bmeCount (7, 1) else t) s
  let s2 := sp.foldl (fun t y => (t.putExp 1 c tl y.2.2.1).bmeCount (2, y.2.2.2)) s1
  let jobs := s.ulJobs c ty tl
  let r := s2.readVectors (namedVectors (jobs.map (·.2.2)))
  let own : List SumPrb := jobs.map (fun j =>
    ⟨c, tl, j.1, j.2.1, 0, 1, s.ownReady c ty tl, combine ys (j.2.2.all r.1) j.2.1⟩)
  let b := ((alook s.bme.ulSel c).map (·.2)).getD 0
  let s3 := r.2.putSums own
  { s3 with bme := { s3.bme with
      busy := (b, (s.nowU : Int) + 1536 * 600) :: s3.bme.busy.filter (fun p => (s.nowU : Int) < p.2) } }

/-! ## Commands -/

/-- BME weights the downlink symbol whose commit point is now (R219): a carrier that is not valid gives no output (R210), and a
symbol of another type is not downlink. -/
def execCommitPoint (c : Nat) (s : State) : Host.Outcome State Fault Refusal :=
  .next (if c < 2 ∧ s.up domCrm ∧ s.carRuns c ∧ s.atCommit c ∧ s.typeAt c (s.commitStart c) % 2 = 1 then s.commitPoint c else s)

end Sys2Proof.Machine
end

