-- ==== Sys2Proof/Machine/Sample.lean ====
section
/-! DEFINITION. What a path sample does (log 100): the transmit chains (R169-R186, R253, R255), the observation receivers (R263,
R264), the canceller (R238-R249), the receive chains (R189-R205) and the windows they hand to the beam engine (R204). -/
namespace Sys2Proof.Machine

/-! ## Where a sample lies -/

/-- Prefix of symbol i in path samples: normal, or long (R148). -/
def prefixLen (mu i : Nat) : Nat := 2304 / 2 ^ mu + (if i % (7 * 2 ^ mu) = 0 then 256 else 0)

/-- The symbol of carrier c at the instant x: its number in the frame, its start, and the sample's place in it. -/
def State.symOf (s : State) (c : Nat) (x : Int) : Nat × Int × Nat :=
  let f := s.frameStart + (x - s.frameStart) / frameU * frameU
  let i := symAt (s.mu c) (x - f).toNat
  let tl := f + symStart (s.mu c) i
  (i, tl, ((x - tl) / 3125).toNat)

/-- The sample at x is the first of the useful part of an F symbol of carrier c in which pair r is in FDX (R246, R247). -/
def State.firstUseful (s : State) (c r : Nat) (x : Int) : Bool :=
  let q := s.symOf c x
  s.carries c (groupOf r) && s.typeAt c q.2.1 == 3 && q.2.2 == prefixLen (s.mu c) q.1 && s.ps r == psFdx && !s.inRow r

/-- The types of the symbols that the carriers of path n have at x. -/
def State.typesAt (s : State) (n : Nat) (x : Int) : List Nat :=
  ([0, 1].filter (fun c => s.carries c (groupOf n))).map (fun c => s.typeAt c (s.symOf c x).2.1)

/-! ## Transmit (R169-R186) -/

/-- u_c of path n at x: the useful part of its symbol with the cyclic prefix before it; 0 where the carrier is not enabled for the
group, is muted, or has nothing (R171, R185). -/
def State.carrierSample (s : State) (n c : Nat) (x : Int) : Cx :=
  if s.carries c (groupOf n) && !s.flag (Reg.txdStatus n) (25 + c) then
    let q := s.symOf c x
    match ((alook s.smp.bufs (128 * c + n)).getD []).find? (fun p => p.1 == q.2.1) with
    | some (_, u) => back u ((q.2.2 + s.usefulN c - prefixLen (s.mu c) q.1) % s.usefulN c)
    | none => (0, 0)
  else (0, 0)

/-- The carrier sum of path n at x, whether it lies in an F symbol of a carrier of the group, and 1 where it was clamped (R171,
R186, R253). -/
def State.pathSum (s : State) (n : Nat) (x : Int) : (Cx × Bool) × Nat :=
  let w := s.inForce (Reg.txdCarScale n)
  let u0 := s.carrierSample n 0 x
  let u1 := s.carrierSample n 1 x
  let i := carrierSum (w &&& 0xFFFF) (w >>> 16) u0.1 u1.1
  let q := carrierSum (w &&& 0xFFFF) (w >>> 16) u0.2 u1.2
  (((i.1, q.1), (s.typesAt n x).contains 3), if i.2 || q.2 then 1 else 0)

/-- CFR of path n where it is active (R172, R253, R254). -/
def State.cfrCfg (s : State) (n : Nat) : Option CfrCfg :=
  let k := groupOf n
  let w := s.inForce (Reg.linCfrCtl k)
  if s.flag (Reg.txdCtl n) 4 then
    some { thr := bits w 31 16 * 128, sep := bits w 11 8, stages := bits w 1 0
           pulse := (List.range 128).map (fun t => wordCx (s.inForce (Reg.linCfrPulse k 0 t)))
           pulseF := (List.range 128).map (fun t => wordCx (s.inForce (Reg.linCfrPulse k 1 t))) }
  else none

/-- The branches of path n where DPD is active with a set in force (R172, R255, R256). -/
def State.dpdCfg (s : State) (n : Nat) : Option (List DpdBranch) :=
  let d := s.dpd n
  if s.flag (Reg.txdCtl n) 5 && d.src != 0 then
    some (((List.range 8).filter (fun b => bit d.hdr (16 + b))).map (fun b =>
      let w := s.reg (inBranch (groupOf n) b)
      { m := bits w 3 0, l := sgn 4 (bits w 11 8), shift := bits w 18 16
        knots := ((d.knots.drop (64 * b)).take 64).map wordCx }))
  else none

/-- What a sample meets on transmit path n, from the values in force. -/
def State.txCfg (s : State) (x : Int) (n : Nat) : TxCfg :=
  let p := s.port (groupOf n)
  let w := s.inForce (Reg.txdDelay n)
  { cfr := s.cfrCfg n, dpd := s.dpdCfg n, int := bits w 21 16, frac := bits w 15 0
    mult := txMult (s.fld (Reg.txdStatus n) 11 0 % 100), mute := !s.emitting n || s.hushed n x
    iq := s.inForce (Reg.txdIqcorr n p), dc := s.inForce (Reg.txdDcoff n p)
    cal := if s.ps n = psCal ∧ !s.hushed n x then some (Config.calDrive n s.smp.n) else none }

/-- A path sample of transmit path n. A path whose group is in no carrier has only zeros to send: zero codes (R178), or what
calibration drives (R154). -/
def State.txPath (s : State) (x : Int) (n : Nat) : State :=
  let g := s.txCfg x n
  if s.inCarrier (groupOf n) then
    let cur := s.pathSum n x
    let ahead := if g.cfr.isSome then (List.range cfrReach).map (fun (d : Nat) => (s.pathSum n (x + 3125 * (d + 1))).1) else []
    let r := txThrough g (s.txc n) cur.1 ahead
    (s.setTxc n r.1).tally { r.2 with n := n, txSum := cur.2 }
  else s.setTxc n { dac := g.cal.getD (dacSample { g with mute := true } (0, 0)).1 }

/-! ## Observation receivers (R263, R264) -/

/-- Entries an observation receiver keeps after resampling: the greatest delay of `ORIN` and one sample. -/
def obsKeep : Nat := 1030

/-- The eight samples that ORk converts in a path sample, corrected (R263), and whether one clipped. -/
def State.orSamples (s : State) (k : Nat) : List Cx × Bool :=
  let cs := (List.range 8).map (fun i =>
    let w := Config.orAdc k (8 * s.smp.n + i)
    (w.1.toInt, w.2.toInt))
  let c (j : Nat) : Nat := (s.reg (inOrCorr k j)).toNat
  (cs.map (fun a => Config.orCorrect (c 0) (c 1) (c 2) (a.1 * 4096, a.2 * 4096)),
   cs.any (fun a => a.1 == -2048 || a.1 == 2047 || a.2 == -2048 || a.2 == 2047))

/-- The three samples x, y and z that a path sample gives a job on ORk, oldest first (R264). -/
def State.obsSamples (s : State) (k : Nat) : List (List Cx) :=
  let m := s.fld (Reg.linObsCtl k) 3 0
  let c := s.txc (16 * k + m)
  let z := (alook s.smp.obsZ k).getD []
  let d := s.fld (Reg.linOrin k m) 25 16
  [2, 1, 0].map (fun (q : Nat) => [back c.i3 (8 + q), back c.dpd q, back z (d + q)])

/-- A path sample of ORk: while its job is busy the receiver is switched to the job's input. -/
def State.orStep (x : Int) (s : State) (k : Nat) : State :=
  if s.flag (Reg.linObsCtl k) 29 && s.up (domTile (k / 2)) then
    let a := s.orSamples k
    let h := a.1.foldl (fun h v => enter span v h) ((alook s.smp.obsIn k).getD [])
    let z := (phases fObs 3 h).1.foldl (fun l v => enter obsKeep v l) ((alook s.smp.obsZ k).getD [])
    let s1 : State := { s with smp := { s.smp with obsIn := aput s.smp.obsIn k h, obsZ := aput s.smp.obsZ k z } }
    match s1.obsRec k with
    | none => s1
    | some q =>
      let left := s1.obsN k - q.got.length
      if left = 0 then s1
      else s1.setObs k (some
        { got := ((s1.obsSamples k).take left).foldl (fun l v => v :: l) q.got, clipped := q.clipped || a.2
          muted := q.muted || !s1.emitting (16 * k + s1.fld (Reg.linObsCtl k) 3 0)
            || s1.hushed (16 * k + s1.fld (Reg.linObsCtl k) 3 0) x })
  else { s with smp := { s.smp with obsIn := sdel s.smp.obsIn k, obsZ := sdel s.smp.obsZ k } }

/-! ## The canceller (R238-R242) -/

/-- Pair n receives an F symbol in FDX: P_in and P_out are measured (R249). -/
def State.inFdxF (s : State) (n : Nat) (x : Int) : Bool := s.ps n == psFdx && !s.inRow n && (s.typesAt n x).contains 3

/-- SIC estimates for path n: EN in force on a carrier whose F symbol it receives in FDX (R238). -/
def State.sicOn (s : State) (n : Nat) (x : Int) : Bool :=
  s.inFdxF n x && [0, 1].any (fun c => s.carries c (groupOf n) && s.reg (inSicOff c) == 0 && s.typeAt c (s.symOf c x).2.1 == 3)

/-- The references of a page, each with its coefficients in Q4.20, `q` samples back: those enabled and not far (R240-R243). -/
def State.references (s : State) (n : Nat) (ws : List Word) (q : Nat) : List (List Cx × List Cx) :=
  let sel := (ws[129]?).getD 0
  let del := (ws[130]?).getD 0
  ((List.range 4).filter (fun i => bit sel (8 * i + 7) && !s.flag (Reg.sicStat n) (8 + i))).map (fun i =>
    ((List.range 8).map (fun m => s.refAt (bits sel (8 * i + 6) (8 * i)) n (bits del (8 * i + 5) (8 * i) + q + m)),
     (List.range 16).map (fun j =>
       (sgn 24 (bits ((ws[2 * (16 * i + j)]?).getD 0) 23 0), sgn 24 (bits ((ws[2 * (16 * i + j) + 1]?).getD 0) 23 0)))))

/-- s' of path n for the two samples at 983.04 MS/s of a path sample, older first, from its active page (R241); 0 where SIC
estimates nothing or the page is not valid. -/
def State.estimate (s : State) (n : Nat) (x : Int) : List Cx × State :=
  if s.sicOn n x then
    let p := s.port (groupOf n)
    let r := s.readWeights (sicPage n p (s.sicActive n p)) 131
    let h := (r.1[128]?).getD 0
    if bit h 31 then
      ([1, 0].map (fun q => modelOut (s.references n r.1 q) ((s.rxStep n : Int) - bits h 20 16)), r.2)
    else ([(0, 0), (0, 0)], r.2)
  else ([(0, 0), (0, 0)], s)

/-- ŝ of path n at 1966.08 MS/s for a path sample, and the components clamped (R239, R241). -/
def estimates (h : List Cx) : List Cx × Nat :=
  let l := (List.range 4).map (fun i => Config.filter fEst 0 i (h.take span))
  (l.map (fun v => (clampQ v).1),
   l.foldl (fun a v => a + (if satS 24 v.1 = v.1 then 0 else 1) + (if satS 24 v.2 = v.2 then 0 else 1)) 0)

/-! ## Receive (R189-R205) -/

/-- What a sample meets on receive path n, from the values in force. -/
def State.rxCfg (s : State) (n : Nat) (x : Int) : RxCfg :=
  let p := s.port (groupOf n)
  let w := s.inForce (Reg.rxdCtl n)
  let d := s.inForce (Reg.rxdDelay n)
  let ty := s.typesAt n x
  { k := 4 * s.smp.n, step := ifStep (s.fld (Reg.rxdStatus n) 29 28)
    irr := if bit w 0 then some ((List.range 8).map (fun i => wordCx (s.inForce (Reg.rxdIrr n p i)))) else none
    track := bits w 11 10 == 2 && takes (s.ps n) && !s.inRow n, mu := bits w 8 4
    int := bits d 20 16, frac := bits d 15 0, mult := rxMult (s.fld (Reg.rxdStatus n) 13 0)
    high := s.fld (Reg.rxdAgcThr n) 29 16, sic := s.inFdxF n x, qual := s.inFdxF n x
    floor := takes (s.ps n) && !s.inRow n && ty != [] && ty.all (· == 0) }

/-- The codes of the four ADC samples of a path sample (R194). -/
def State.adcCodes (s : State) (n : Nat) : List Cx :=
  (List.range 4).map (fun j =>
    let w := Config.adc n (4 * s.smp.n + j)
    (w.1.toInt, w.2.toInt))

/-- A receive path that is not powered holds no samples. -/
def State.rxIdle (s : State) (n : Nat) : State :=
  s.setRxc n { s.rxc n with x := [], y := [], sub := [], d1 := [], d2 := [], y983 := [], est := [] }

/-- A path sample of receive path n: the state after it, the sample delivered and what it did. -/
def State.rxPath (s : State) (x : Int) (n : Nat) : State × Cx × PathMeas :=
  if s.flag (Reg.rxaStatus n) 4 then
    let e := s.estimate n x
    let s1 := e.2
    let c := s1.rxc n
    let h := e.1.foldl (fun l v => enter span v l) c.est
    let est := if s1.sicOn n x then estimates h else ([], 0)
    let r := rxThrough (s1.rxCfg n x) { c with est := h } (s1.adcCodes n) est.1
    let m := { r.2.2 with n := n, sic := est.2 }
    (((s1.setRxc n r.1).setReg (Reg.rxdDcEst n) (dcWord r.1.d)).tally m, r.2.1, m)
  else (s.rxIdle n, (0, 0), { n := n })

/-! ## Windows (R204) -/

/-- The sample `v` of path a enters its window of carrier c; the window begins anew at its first sample. The pair must be in RX or
FDX for the whole of it, and the carrier not be silent after a forced step (R383). -/
def State.fillWindow (s : State) (c : Nat) (x : Int) (first : Bool) (a : Nat) (v : Cx) : State :=
  let old := if first then (false, []) else (alook s.smp.win (128 * c + a)).getD (true, [])
  let gone := !(takes (s.ps a) && !s.inRow a && s.flag (Reg.rxaStatus a) 4) || s.hushedCar c x
  { s with smp := { s.smp with win := aput s.smp.win (128 * c + a) (old.1 || gone, v :: old.2) } }

/-- The windows of carrier c as the sample at x is delivered: they begin N_CP − A_c samples after the start of a U or F symbol, and
are handed to the beam engine with their last sample (R204, R210). -/
def State.windowStep (s : State) (c : Nat) (x : Int) (outs : List (Nat × Cx)) : State :=
  if s.carRuns c then
    let q := s.symOf c x
    let ty := s.typeAt c q.2.1
    let first := prefixLen (s.mu c) q.1 - s.cpAdvance c
    let n := s.usefulN c
    if 2 ≤ ty ∧ first ≤ q.2.2 ∧ q.2.2 < first + n then
      let s1 := (s.antennas c).foldl (fun t a => t.fillWindow c x (q.2.2 == first) a ((alook outs a).getD (0, 0))) s
      if q.2.2 + 1 = first + n then
        let wins := (s1.antennas c).map (fun a =>
          let w := (alook s1.smp.win (128 * c + a)).getD (true, [])
          (a, w.1 || w.2.length != n, w.2.reverse))
        ({ s1 with smp := { s1.smp with win := s1.smp.win.filter (fun p => p.1 / 128 != c) } } : State).combineSymbol c ty q.2.1 wins
      else s1
    else s
  else s

/-! ## Survey and snapshot (R246, R247) -/

/-- A survey takes the 256 path samples from its start on, and is computed with the last. -/
def State.surveyStep (s : State) (x : Int) : State :=
  let r := s.fld Reg.sicSurvey 6 0
  if !s.flag Reg.sicSurvey 29 then s
  else match s.smp.survey with
    | none => if s.firstUseful (s.fld Reg.sicSurvey 24 24) r x then s.setSurvey (some (255, [])) else s
    | some (0, _) => s
    | some (1, _) => s.setSurvey (some (0, (List.range 128).map (s.surveyOf r)))
    | some (m + 2, l) => s.setSurvey (some (m + 1, l))

/-- Sample `i` back of reference j of a snapshot: 0 where it is not enabled or far (R240, R247). -/
def State.snapRef (s : State) (r : Nat) (q : SnapRec) (j i : Nat) : Cx :=
  let t := bits q.refs (8 * j + 6) (8 * j)
  if bit q.refs (8 * j + 7) && !s.farFrom t r then s.refAt t r (bits q.lags (8 * j + 5) (8 * j) + i) else (0, 0)

/-- The two samples of a path sample enter a snapshot, `clip` saying that an ADC sample clipped. -/
def State.snapTake (s : State) (r : Nat) (clip : Bool) (q : SnapRec) : State :=
  let row (i : Nat) : List Cx := back (s.rxc r).y983 i :: (List.range 4).map (fun j => s.snapRef r q j i)
  s.setSnap (some { q with got := row 0 :: row 1 :: q.got, clipped := q.clipped || clip })

/-- A snapshot begins at its first useful sample with the selection of the shadow page, or fails where its port is not the active
one; then it records until it has its samples (R247, R248). -/
def State.snapStep (s : State) (x : Int) (clips : List Nat) : State :=
  let r := s.fld Reg.sicSnap 6 0
  let p := s.fld Reg.sicSnap 8 8
  if !s.flag Reg.sicSnap 29 then s
  else match s.smp.snap with
    | none =>
      if s.firstUseful (s.fld Reg.sicSnap 20 20) r x then
        if s.port (groupOf r) ≠ p then s.snapFail 4
        else
          let a := sicPage r p (1 - s.sicActive r p) + 0x204
          let w := s.readWeights a 2
          w.2.snapTake r (clips.contains r)
            { na := s.rxStep r, tns := s.tns, refs := (w.1[0]?).getD 0, lags := (w.1[1]?).getD 0 }
      else s
    | some q => if q.got.length < s.snapN then s.snapTake r (clips.contains r) q else s

/-! ## IQ taps (R417) -/

/-- The samples that tap t meets in a path sample, oldest first: `sum` is the carrier sum of its path, `out` what the path hands to
the beam engine. -/
def State.tapSamples (s : State) (point n : Nat) (sum out : Cx) : List Cx :=
  match point with
  | 0 => [sum]
  | 1 => ((s.txc n).tap.take 3).reverse
  | 2 => ((s.rxc n).y.take 4).reverse
  | 3 => ((s.rxc n).sub.take 4).reverse
  | 4 => [out]
  | _ => []

/-- The sequencer's condition on a sample of a tap (R424). -/
def State.tapHolds (s : State) (t : Nat) (v : Cx) : Bool :=
  let level := bits (s.capCfg (Reg.capStArg (s.fld Reg.capStatus 26 24))) 31 16 * 256
  bits s.seqCond 7 0 == t &&
    ((s.seqOn 6 && (level ≤ v.1.natAbs || level ≤ v.2.natAbs)) || (s.seqOn 7 && (v.1.natAbs < level && v.2.natAbs < level)))

/-- Tap t meets a sample: every 2^DEC-th is taken; the sequencer sees it; it is recorded where it is the first since arm or leaves the
dead band about the last one recorded. -/
def State.tapOne (t : Nat) (s : State) (v : Cx) : State :=
  let cfg := s.capCfg (Reg.capTapCfg t)
  let k := (alook s.cap.tapN t).getD 0
  let s1 : State := { s with cap := { s.cap with tapN := aput s.cap.tapN t (k + 1) } }
  if k % 2 ^ bits cfg 3 0 ≠ 0 then s1
  else
    let s2 := if s1.tapHolds t v then s1.seqCount else s1
    let w : Word × Word := (BitVec.ofInt 32 v.1, BitVec.ofInt 32 v.2)
    let db := bits (s2.capCfg (Reg.capTapDeadband t)) 23 0
    let far : Bool := match alook s2.cap.taps t with
      | some u => db == 0 || db < (v.1 - u.1.toInt).natAbs || db < (v.2 - u.2.toInt).natAbs
      | none => true
    if bit cfg 31 && far then
      ({ s2 with cap := { s2.cap with taps := aput s2.cap.taps t w } } : State).capRecord (0x100 + t) w.1 w.2
    else s2

/-- The taps of an armed engine meet the samples of a path sample; `s0` is the state before it. -/
def State.tapStep (s s0 : State) (x : Int) (outs : List (Nat × Cx)) : State :=
  if s.capState = capPre ∨ s.capState = capPost then
    (List.range 4).foldl (fun t i =>
      let w := t.capCfg (Reg.capTapCfg i)
      let n := bits w 22 16
      let sum := if bits w 30 28 = 0 ∧ s0.inCarrier (groupOf n) then (s0.pathSum n x).1.1 else (0, 0)
      (t.tapSamples (bits w 30 28) n sum ((alook outs n).getD (0, 0))).foldl (State.tapOne i) t) s
  else s

/-! ## One path sample -/

/-- The receive paths take the sample at x: what each gives, latest first, and the paths whose converter clipped. -/
def State.rxPaths (s : State) (x : Int) : State × List (Nat × Cx) × List Nat :=
  (List.range 128).foldl (fun (a : State × List (Nat × Cx) × List Nat) n =>
    let q := a.1.rxPath x n
    (q.1, (n, q.2.1) :: a.2.1, if 0 < q.2.2.rxAdc then n :: a.2.2 else a.2.2)) (s, [], [])

/-- All paths take the sample at x, in the order transmit, observation, receive, canceller, windows and taps (log 116). -/
def State.pathSample (s : State) (x : Int) : State :=
  let s1 := (List.range 128).foldl (fun t n => t.txPath x n) s
  let s2 := (List.range 8).foldl (State.orStep x) s1
  let r := s2.rxPaths x
  let s3 := (r.1.surveyStep x).snapStep x r.2.2
  let s4 := (s3.windowStep 0 x r.2.1).windowStep 1 x r.2.1
  let s5 := s4.tapStep s x r.2.1
  { s5 with smp := { s5.smp with n := s5.smp.n + 1, last := x } }

/-- The last instant of a path sample at or before now; symbols start on the same grid (R148, R149). -/
def State.gridNow (s : State) : Int := s.frameStart + ((s.nowU : Int) - s.frameStart) / 3125 * 3125

/-- The path sample that has become due is taken, while the paths have power and a clock. -/
def State.samples (s : State) : State :=
  if s.up domCrm && s.gridNow != s.smp.last then s.pathSample s.gridNow else s

end Sys2Proof.Machine
end

