-- ==== Sys2Proof/Machine/Ring.lean ====
section
/-! DEFINITION. The array ring (15_array_ring.md): negotiation, cells and their checks, the downlink broadcast, partial sums, time
over the ring, roster, shedding, moving and fail-over, bypass relays. -/
namespace Sys2Proof.Machine

/-! ## Ports and positions (R320-R322) -/

def ringOf (p : Nat) : Nat := p / 2
def eastPort (r : Nat) : Nat := 2 * r
def westPort (r : Nat) : Nat := 2 * r + 1
/-- The other port of the same ring. -/
def acrossPort (p : Nat) : Nat := if p % 2 = 0 then p + 1 else p - 1

def State.argPort (s : State) (p : Nat) : ArgPort := (alook s.arg.ports p).getD {}
def State.setArgPort (s : State) (p : Nat) (q : ArgPort) : State := { s with arg := { s.arg with ports := aput s.arg.ports p q } }

/-- STATE of a port: 0 DOWN, 1 NEGOTIATE, 2 TRAIN, 3 UP, 4 RETRAIN. -/
def State.portState (s : State) (p : Nat) : Nat := s.fld (Reg.argPortStatus p) 31 28
def State.setPortState (s : State) (p v : Nat) : State := s.setFld (Reg.argPortStatus p) 31 28 v

/-- ROLE of the device on a ring: 0 standalone, 1 member, 2 head. -/
def State.role (s : State) (r : Nat) : Nat := s.fld (Reg.argRingCtl r) 17 16
/-- STATE on a ring: 0 OFF, 1 ENTERING, 2 TRAINED, 3 POSITIONED, 4 CANDIDATE, 5 ACCEPTED, 6 REPEATER. -/
def State.ringState (s : State) (r : Nat) : Nat := s.fld (Reg.argRingStatus r) 30 28
def State.setRingState (s : State) (r v : Nat) : State := s.setFld (Reg.argRingStatus r) 30 28 v
def State.pos (s : State) (r : Nat) : Nat := s.fld (Reg.argRingStatus r) 9 0
def State.ringN (s : State) (r : Nat) : Nat := s.fld (Reg.argRingStatus r) 26 16
def State.onWest (s : State) (r : Nat) : Bool := s.flag (Reg.argRingStatus r) 10
def State.hold (s : State) (r : Nat) : Bool := bit s.pins.ringHold r

/-- The device holds a position on the ring. -/
def State.placed (s : State) (r : Nat) : Bool := 3 ≤ s.ringState r && s.ringState r ≤ 5

/-- A member that uses cells and contributes: accepted, not in Winter (R337, R343), its beam engine up. -/
def State.working (s : State) (r : Nat) : Bool := s.ringState r == 5 && s.season != 2 && s.up domCrm

/-- A head acts as such in Summer and Autumn (R343). -/
def State.heading (s : State) (r : Nat) : Bool := s.role r == 2 && 3 ≤ s.ringState r && s.season < 2

/-- Lengths of the east and west arc (R17, R335). -/
def State.arcsOf (s : State) (r : Nat) : Nat × Nat := (alook s.arg.arcs r).getD (0, 0)

/-- Hops of a member from the head. -/
def State.hopsHome (s : State) (r : Nat) : Nat :=
  if s.onWest r then (if s.ringN r == 0 || (s.arcsOf r).1 + (s.arcsOf r).2 + 1 != s.ringN r then 0
    else if s.ringN r ≤ s.pos r then 1024 - s.pos r else s.ringN r - s.pos r)
  else s.pos r

/-- Devices beyond this one on the arc of the inputs from east and west (R225). -/
def State.beyond (s : State) (r : Nat) : Nat × Nat :=
  let a := s.arcsOf r
  if s.role r = 2 then a
  else if !s.placed r then (0, 0)
  else if s.onWest r then (0, a.2 - s.hopsHome r) else (a.1 - s.hopsHome r, 0)

/-- `BME.RING_DEPTH` (R225): filled in from ring A where the device has a place on it, else from ring B (log 43). -/
def State.ringDepth (s : State) : Word :=
  let d := if s.placed 0 then s.beyond 0 else if s.placed 1 then s.beyond 1 else (0, 0)
  BitVec.ofNat 32 (d.2 % 1024 * 65536 + d.1 % 1024)

/-- The device is the last of its arc (R17). -/
def State.lastOfArc (s : State) (r : Nat) : Bool :=
  let b := s.beyond r
  if s.onWest r then b.2 == 0 else b.1 == 0

/-- The port of a member that faces the head, and the one that faces away. -/
def State.homePort (s : State) (r : Nat) : Nat := if s.onWest r then eastPort r else westPort r
def State.farPort (s : State) (r : Nat) : Nat := if s.onWest r then westPort r else eastPort r

/-! ## CRC-32 (R322, R326) -/

def crc32Bits : Nat → Nat → Nat
  | 0, c => c
  | n + 1, c => crc32Bits n (if c % 2 = 1 then (c / 2) ^^^ 0xEDB88320 else c / 2)

/-- CRC-32, reflected, initial value and final XOR 0xFFFF_FFFF, of bytes. -/
def crc32 (bs : List Byte) : Word :=
  BitVec.ofNat 32 ((bs.foldl (fun c b => crc32Bits 8 (c ^^^ b.toNat)) 0xFFFFFFFF) ^^^ 0xFFFFFFFF)

end Sys2Proof.Machine

namespace Sys2Proof
open Sys2Proof.Machine

/-! ## Cells (R325) -/

/-- The CRC word of a cell sent to the receiver position `pos` (R326). -/
def Cell.crcFor (c : Cell) (pos : Nat) : Word :=
  crc32 (([c.w1, BitVec.ofNat 32 (pos % 1024), c.w0, c.w1, c.w2, c.w3] ++ c.payload ++ [c.trailer]).flatMap wordBytes)

def Cell.kind (c : Cell) : Nat := bits c.w0 31 28
def Cell.sub (c : Cell) : Nat := bits c.w0 24 21
def Cell.west (c : Cell) : Bool := bit c.w0 26
def Cell.repair (c : Cell) : Bool := bit c.w0 25
def Cell.contrib (c : Cell) : Nat := bits c.w0 20 10
def Cell.src (c : Cell) : Nat := bits c.w0 9 0
def Cell.len (c : Cell) : Nat := bits c.w3 22 12
def Cell.void (c : Cell) : Bool := bit c.trailer 31
/-- The identifiers of a data cell: carrier, layer, symbol, slot, frame and first PRB. -/
def Cell.ident (c : Cell) (r : Nat) : Nat := (r * 2 ^ 32 + c.w2.toNat) * 512 + bits c.w3 31 23
/-- The payload bytes before padding. -/
def Cell.bytes (c : Cell) : List Byte := (c.payload.flatMap wordBytes).take c.len

end Sys2Proof

namespace Sys2Proof.Machine

/-- Bytes packed into words, padded with zeros. -/
def packWords (bs : List Byte) : List Word :=
  (List.range ((bs.length + 3) / 4)).map (fun i => leWord ((bs.drop (4 * i)).take 4))

/-- A new cell. -/
def mkCell (kind r : Nat) (west repair : Bool) (sub contrib src : Nat) (w2 w3 : Word) (payload : List Word) : Cell :=
  { w0 := BitVec.ofNat 32 (kind * 2 ^ 28 + r * 2 ^ 27 + west.toNat * 2 ^ 26 + repair.toNat * 2 ^ 25 + sub % 16 * 2 ^ 21
      + contrib % 2048 * 2 ^ 10 + src % 1024)
    w1 := 0, w2 := w2, w3 := w3, payload := payload, trailer := 0, crc := 0 }

/-- START_PRB, LEN, WIDTH and COMP. -/
def w3Of (start len width : Nat) (comp : Bool) : Word :=
  BitVec.ofNat 32 (start % 512 * 2 ^ 23 + len % 2048 * 2 ^ 12 + width % 32 * 2 ^ 7 + comp.toNat * 2 ^ 6)

/-- The layer a data cell carries is among those the port drops (R339). -/
def State.dropped (s : State) (p : Nat) (c : Cell) : Bool :=
  let l := bits c.w2 30 26
  (c.kind == 1 && bit (s.argPort p).dropDl l) || (c.kind == 3 && bit (s.argPort p).dropUl l)

/-- A cell leaves a port: SEQ numbers it on the link and the CRC covers it with the receiver's position (R326). Nothing leaves
a port that is not UP. -/
def State.sendCell (s : State) (p : Nat) (c : Cell) : State :=
  if s.portState p ≠ 3 then s
  else if s.dropped p c then s.bump (Reg.argRingCnt (ringOf p) 6)
  else
    let q := s.argPort p
    let c1 := { c with w1 := BitVec.ofNat 32 q.txSeq }
    let dest := if s.flag (Reg.argPortStatus p) 10 then s.fld (Reg.argPortStatus p) 9 0 else 0
    (s.setArgPort p { q with txSeq := (q.txSeq + 1) % 2 ^ 32 }).send (.cell p { c1 with crc := c1.crcFor dest })

/-- The forwarded copy of a cell, ended with VOID when `void`. -/
def State.forwardCell (s : State) (p : Nat) (c : Cell) (void : Bool) : State :=
  s.sendCell (acrossPort p) { c with trailer := if void then c.trailer ||| 0x80000000 else c.trailer }

/-- What a receiving port finds in a cell. -/
inductive CellFate where
  | good
  | badCrc
  | voided
  deriving DecidableEq, Repr

/-- A cell arrives at port p (R326, R328): SEQ is followed, the CRC and VOID judged and counted. `none` when the port carries
nothing. -/
def State.recvCell (s : State) (p : Nat) (c : Cell) : Option (State × CellFate) :=
  if 4 ≤ p || !s.up domRing || s.portState p != 3 then none
  else
    let r := ringOf p
    let q := s.argPort p
    let gap := match q.rxSeq with
      | some n => c.w1.toNat != (n + 1) % 2 ^ 32
      | none => false
    let s1 := s.setArgPort p { q with rxSeq := some c.w1.toNat }
    let s2 := if gap then (s1.bump (Reg.argRingCnt r 1)).raiseBit Reg.argSticky 4 else s1
    if c.crc != c.crcFor q.told then some ((s2.bump (Reg.argRingCnt r 0)).raiseBit Reg.argSticky 3, .badCrc)
    else if c.void then some (s2.bump (Reg.argRingCnt r 2), .voided)
    else some (s2, .good)

/-! ## Negotiation (R322) -/

/-- Word j of the device's identity fingerprint, bits [255:224] first. -/
def State.fpWord (s : State) (j : Nat) : Word := (s.sec.fp[j]?).getD 0

/-- The capability set of a port: its first three words. -/
def State.ownWords (s : State) (p : Nat) : List Word :=
  let r := ringOf p
  let ctl := Reg.argPortCtl p
  [BitVec.ofNat 32 (2 ^ 24 + s.fld ctl 19 16 * 2 ^ 20 + s.fld ctl 1 0 * 2 ^ 18 + 2 ^ 17 + s.fld Reg.argCtl 31 31 * 2 ^ 16
      + 2 ^ 15 + r * 2 ^ 14 + s.role r % 4 * 2 ^ 12 + (s.argPort p).ack.toNat * 2 ^ 11 + (s.placed r).toNat * 2 ^ 10
      + (if s.placed r then s.pos r else 0)),
   s.fpWord 0, 0]

/-- A port sends its set, CHECK included. -/
def State.sendSet (s : State) (p : Nat) : State :=
  let ws := s.ownWords p
  s.send (.caps p (ws ++ [crc32 (ws.flatMap wordBytes)]))

/-- Lanes of a ring port. -/
def portLanes (p : Nat) : List Nat := (List.range 16).map (16 * p + ·)

/-- A lane of the port is in test (R355). -/
def State.portTested (s : State) (p : Nat) : Bool := (portLanes p).any (fun l => s.flag (Reg.slnLaneCtl l) 31)

/-- A port negotiates (R322); it neither negotiates nor trains while a lane of it is in test. -/
def State.startNeg (s : State) (p : Nat) : State :=
  if s.portTested p then s
  else
    let r := ringOf p
    let s1 := s.setArgPort p { told := if s.placed r then s.pos r else 0 }
    ((s1.setReg (Reg.argPortStatus p) 0).setPortState p 1).sendSet p

/-- Lanes of a width code: 4, 8, 12, 16. -/
def lanesOf (w : Nat) : Nat := 4 * (w + 1)

/-- The highest rate offered by both. -/
def commonRate (a b : Nat) : Option Nat := [3, 2, 1, 0].find? (fun i => a.testBit i && b.testBit i)

/-- A set of capability words arrives (R322, R323). -/
def State.takeSet (s : State) (p : Nat) (ws : List Word) : State :=
  let r := ringOf p
  let w0 := ws.headD 0
  let chk := ws.length == 4 && (ws[3]?).getD 0 == crc32 ((ws.take 3).flatMap wordBytes)
  if s.portState p ≠ 1 ∨ s.portTested p ∨ !chk ∨ bits w0 31 24 ≠ 1 ∨ (ws[2]?).getD 0 ≠ 0 then s
  else if bits w0 14 14 ≠ r then s.raiseBit Reg.argSticky 14
  else
    let q := s.argPort p
    let n := if bit w0 11 then (if q.last = ws then q.sets + 1 else 1) else 0
    let s1 := s.setArgPort p { q with sets := n, last := ws, ack := true }
    let s2 := if q.ack then s1 else s1.sendSet p
    if n < 3 then s2
    else
      let w := min (s.fld (Reg.argPortCtl p) 1 0) (bits w0 19 18)
      let s3 := (s2.setFlag (Reg.argPortStatus p) 10 (bit w0 10)).setFld (Reg.argPortStatus p) 9 0 (bits w0 9 0)
      match commonRate (s.fld (Reg.argPortCtl p) 19 16) (bits w0 23 20) with
      | some rate => (s3.setArgPort p { s3.argPort p with rate := rate, width := w }).setPortState p 2
      | none => (s3.setArgPort p { s3.argPort p with again := true }).setPortState p 0 |>.raiseBit Reg.argSticky 14

/-! ## Loads and capacity (R338) -/

/-- Line rate of a rate code in Gb/s. -/
def gbps (rate : Nat) : Nat :=
  match rate with
  | 0 => 8 | 1 => 16 | 2 => 25 | _ => 32

/-- Usable capacity of a link direction in Mb/s: 0.8 × W × lane rate − 1.6 Gb/s. -/
def linkMbps (rate width : Nat) : Nat := 800 * lanesOf width * gbps rate - 1600

def pad4 (n : Nat) : Nat := (n + 3) / 4 * 4

/-- Bytes of a symbol of `n` PRBs of `b` bytes in cells of whole PRBs, at most 1,032 bytes each, with 28 bytes a cell. -/
def symbolBytes (n b : Nat) : Nat :=
  let k := 1032 / b
  n / k * (28 + pad4 (k * b)) + (if n % k = 0 then 0 else 28 + pad4 (n % k * b))

/-- Load of a layer in bit/s, direction 0 downlink, 1 uplink. -/
def State.layerLoad (s : State) (d l : Nat) : Nat :=
  let dw := s.fld Reg.argCtl 19 16
  let b := if d = 1 then 43 else if dw = 0 then 48 else 1 + 3 * dw
  ([0, 1].map (fun c =>
    if s.carOn c && bit (s.reg (if d = 1 then Reg.argLayersUl c else Reg.argLayersDl c)) l then
      8 * symbolBytes (s.nRb c) b * (14000 * 2 ^ s.mu c) else 0)).foldl (· + ·) 0

/-- SHED_ORDER: layers in the order in which they are shed. -/
def State.shedOrder (s : State) : List Nat :=
  (List.range 32).map (fun i => s.fld (Reg.argShedOrder0 + 4 * (i / 4)) (8 * (i % 4) + 4) (8 * (i % 4)))

/-- Pair mode in effect: PAIR set on a device that is not standalone (R21, M13). -/
def State.pairMode (s : State) : Bool := s.flag Reg.argCtl 31 && (s.role 0 != 0 || s.role 1 != 0)

/-- Layers a ring carries by R21, the failed rings being `failed`. -/
def State.ringLayers (s : State) (r : Nat) (failed : Word) : List Nat :=
  if !s.pairMode || bit failed (1 - r) then List.range 32
  else if bit failed r then [] else (List.range 32).filter (fun l => l % 2 == r)

/-- The layers that must go, first in SHED_ORDER, until what remains of `ls` fits into `cap` bit/s. -/
def State.excess (s : State) (d cap : Nat) : List Nat → List Nat → List Nat
  | [], _ => []
  | x :: xs, ls =>
    if (ls.map (s.layerLoad d)).foldl (· + ·) 0 ≤ cap then []
    else if ls.contains x then x :: s.excess d cap xs (ls.filter (· != x)) else s.excess d cap xs ls

/-- The capacity of the weakest reported link of a ring in bit/s (R339). -/
def State.weakest (s : State) (r : Nat) : Option Nat :=
  (s.arg.links.filter (fun p => p.1 / 4096 == r)).foldl (fun m p =>
    some (match m with
      | some x => min x (p.2 * 1000000)
      | none => p.2 * 1000000)) none

/-- Layers in excess on a ring in one direction. -/
def State.excessOn (s : State) (d r : Nat) (failed : Word) : List Nat :=
  match s.weakest r with
  | some cap => s.excess d cap s.shedOrder (s.ringLayers r failed)
  | none => []

/-- Layers of `xs` that still fit into `room` bit/s, in order. -/
def State.fitInto (s : State) (d : Nat) : Nat → List Nat → List Nat
  | _, [] => []
  | room, x :: xs =>
    if s.layerLoad d x ≤ room then x :: s.fitInto d (room - s.layerLoad d x) xs else s.fitInto d room xs

def maskOfList (l : List Nat) : Word := l.foldl (fun m i => m ||| BitVec.ofNat 32 (2 ^ i)) 0

/-- The shed and moved sets of a direction (R339). -/
def State.decideSheds (s : State) (d : Nat) (failed : Word) : Word × Word :=
  [0, 1].foldl (fun acc r =>
    let ex := s.excessOn d r failed
    let o := 1 - r
    let mv := if s.pairMode && failed == 0 && ex != [] then
        (match s.weakest o with
          | some cap =>
            let keep := (s.ringLayers o failed).filter (fun l => !(s.excessOn d o failed).contains l)
            s.fitInto d (cap - (keep.map (s.layerLoad d)).foldl (· + ·) 0) ex
          | none => s.fitInto d (1000000 * linkMbps 3 3 - ((s.ringLayers o failed).map (s.layerLoad d)).foldl (· + ·) 0) ex)
      else []
    (acc.1 ||| maskOfList (ex.filter (fun l => !mv.contains l)), acc.2 ||| maskOfList mv)) (0, 0)

/-- What a port drops while its link does not carry its load (R339). -/
def State.judgePort (s : State) (p : Nat) : State :=
  let r := ringOf p
  let cap := 1000000 * linkMbps (s.fld (Reg.argPortStatus p) 27 26) (s.fld (Reg.argPortStatus p) 25 24)
  let ls := s.ringLayers r s.arg.failed
  s.setArgPort p { s.argPort p with
    dropDl := maskOfList (s.excess 0 cap s.shedOrder ls), dropUl := maskOfList (s.excess 1 cap s.shedOrder ls) }

/-- Nanoseconds of unwrapped network time at the TNS `t`. -/
def State.unwrapNs (s : State) (t : Word) : Nat := (((s.time.t / 2 ^ 53 : Nat) : Int) + tdiff t s.tns).toNat

/-- Failed rings once the decisions of `l` have come into force. -/
def State.failedAfter (s : State) (l : List RingPlan) : Word :=
  match l.getLast? with
  | some p => p.failed
  | none => s.arg.failed

/-- Failed rings as they will be once what waits has come. -/
def State.failedNext (s : State) : Word := s.failedAfter s.arg.plans

/-- A decision waits for its boundary among the others, soonest first; one that fails or rejoins a ring replaces those that would
follow it. -/
def State.addPlan (s : State) (q : RingPlan) : State :=
  let before := s.arg.plans.filter (fun p => p.start ≤ q.start)
  let after := if q.failed = s.failedNext then s.arg.plans.filter (fun p => q.start < p.start) else []
  { s with arg := { s.arg with plans := before ++ q :: after } }

/-- The decision computed from the LANE reports received waits for its boundary, at least 90 µs after ORIGIN (R339). -/
def State.planFrom (s : State) (origin : Word) (failed : Word) (lapse : Bool) : State :=
  let d := s.decideSheds 0 failed
  let u := s.decideSheds 1 failed
  s.addPlan ⟨s.unwrapNs origin + 90000,
    if lapse then [0, 0] else [d.1, u.1], if lapse then [0, 0] else [d.2, u.2], failed⟩

/-! ## Broadcasts (R336) -/

/-- The head or a member sends one copy each way round ring r. -/
def State.castCell (s : State) (kind r sub : Nat) (payload : List Word) : State :=
  let n := s.ringN r - 1
  let one (t : State) (p hops : Nat) : State :=
    if hops = 0 then t
    else t.sendCell p (mkCell kind r (p % 2 == 1) false sub hops (s.pos r) s.tns (w3Of 0 (4 * payload.length) 0 false) payload)
  one (one s (eastPort r) ((n + 1) / 2)) (westPort r) (n / 2)

/-- A broadcast cell goes on while HOPS is above 0. -/
def State.passOn (s : State) (p : Nat) (c : Cell) : State :=
  if c.contrib ≤ 1 then s else s.forwardCell p { c with w0 := setBits c.w0 20 10 (c.contrib - 1) } false

/-- A cell of one hop, or one directed toward or away from the head. -/
def State.sendOne (s : State) (p kind sub : Nat) (payload : List Word) : State :=
  let r := ringOf p
  s.sendCell p (mkCell kind r (p % 2 == 1) false sub 0 (s.pos r) (if kind = 5 ∨ kind = 7 then s.tns else 0)
    (w3Of 0 (4 * payload.length) 0 false) payload)

/-- LANE: port, width and rate, what the link can carry in Mb/s (R334; word order: log 44). -/
def State.castLane (s : State) (p : Nat) : State :=
  let rate := s.fld (Reg.argPortStatus p) 27 26
  let w := s.fld (Reg.argPortStatus p) 25 24
  s.castCell 5 (ringOf p) 6 [BitVec.ofNat 32 p, BitVec.ofNat 32 (rate * 4 + w), BitVec.ofNat 32 (linkMbps rate w)]

/-- A LANE report counts (R339): a link that carries its full load again leaves the list. -/
def State.noteLink (s : State) (r pos p cap : Nat) (origin : Word) : State :=
  let k := r * 4096 + pos % 1024 * 2 + p % 2
  let s1 : State := { s with arg := { s.arg with
      links := if linkMbps 3 3 ≤ cap then sdel s.arg.links k else aput s.arg.links k cap } }
  s1.planFrom origin (s1.failedAfter (s1.arg.plans.filter (fun q => q.start ≤ s1.unwrapNs origin + 90000))) false

/-! ## Bypass relays and the life of a port (R323, R338, R341) -/

/-- Fail-over of a ring (R340): the notice goes out on the other ring and the surviving ring takes over at its boundary. -/
def State.ringFailed (s : State) (r : Nat) : State :=
  if s.pairMode && !bit s.failedNext r then
    (s.castCell 7 (1 - r) 0 []).planFrom s.tns (putBit s.failedNext r true) true
  else s

/-- A port goes down. Once the device sits in the ring its hold is released (R341); while it enters, the port negotiates
again after 10 ms (R323). -/
def State.portDown (s : State) (p : Nat) : State :=
  let r := ringOf p
  if 2 ≤ s.ringState r then (s.bypass r).ringFailed r
  else
    let s1 := (s.setReg (Reg.argPortStatus p) 0).setReg (Reg.argPortLanes p) 0
    let s2 := (portLanes p).foldl (fun t l => t.setFlag (Reg.slnLaneStatus l) 28 false) s1
    s2.setArgPort p { again := true }

/-- A port is UP on the lanes of a mask (R323, R338). -/
def State.portUp (s : State) (p rate : Nat) (lanes : Word) : State :=
  let w := popCount lanes / 4 - 1
  let st := Reg.argPortStatus p
  let s1 := (((s.setPortState p 3).setFld st 27 26 rate).setFld st 25 24 w).setReg (Reg.argPortLanes p) lanes
  let s2 := (portLanes p).foldl (fun t l => t.setFld (Reg.slnLaneStatus l) 31 28 (if bit lanes (l % 16) then 15 else 0)) s1
  let r := ringOf p
  let s3 := s2.judgePort p
  if s3.ringState r = 1 ∧ s3.portState (eastPort r) = 3 ∧ s3.portState (westPort r) = 3 then s3.setRingState r 2 else s3

/-- A narrowing begins (R350): the lowest-numbered lanes of the locked ones that fill a width, or none. -/
def keepLanes (locked : Word) : Word :=
  let l := setBitsOf locked 16
  maskOfList (l.take (l.length / 4 * 4))

/-- ENTER (R341): the hold is asserted and the ports negotiate; the array votes for RING (R440). -/
def State.enterRing (s : State) (r : Nat) : State :=
  if (s.role r = 1 ∨ s.role r = 2) ∧ !s.hold r ∧ s.vote domRing ≠ 0 ∧ !s.flag Reg.thmStatus 31 then
    let s1 : State := { s with pins := { s.pins with ringHold := putBit s.pins.ringHold r true } }
    let s2 := s1.setRingState r 1
    ((s2.startNeg (eastPort r)).startNeg (westPort r)).voteBit domRing 2 true
  else s

/-- LEAVE (R341). -/
def State.leaveRing (s : State) (r : Nat) : State :=
  let s1 := s.bypass r
  if s1.hold 0 || s1.hold 1 then s1 else s1.voteBit domRing 2 false

/-! ## Roster (R334-R337) -/

/-- Word `w` of the live roster's entry for position `q` (R344). -/
def rosterWord (q w : Nat) : Nat := rosterBase + 4 * (32 * (q % 1024) + w)
def State.entryState (s : State) (q : Nat) : Nat := bits (s.rawWord (rosterWord q 0)) 30 28
def State.setEntryState (s : State) (q v : Nat) : State :=
  s.putWord (rosterWord q 0) (setBits (s.rawWord (rosterWord q 0)) 30 28 v)

/-- Entry `i` of the roster cache: eighteen words after the header of fourteen (R337). -/
def State.cacheEntry (s : State) (i : Nat) : List Word := (s.arg.cache.drop (14 + 18 * i)).take 18
def State.cacheLen (s : State) : Nat := (s.arg.cache.length - 14) / 18

/-- The cache entry that holds a fingerprint. -/
def State.cached (s : State) (fp : List Word) : Option Nat :=
  (List.range s.cacheLen).find? (fun i => bit ((s.cacheEntry i).headD 0) 31 && ((s.cacheEntry i).drop 1).take 8 == fp)

/-- An accepted device is added to the cache, which is stored (R306, R337). -/
def State.cacheAdd (s : State) (q : Nat) : State :=
  let fp := (List.range 8).map (fun j => s.rawWord (rosterWord q (1 + j)))
  let e := [BitVec.ofNat 32 (2 ^ 31 + q)] ++ fp ++ [s.rawWord (rosterWord q 9), s.reg Reg.tlpAirAfc] ++ List.replicate 7 0
  let base := if s.arg.cache = [] then List.replicate 14 0 else s.arg.cache
  let s0 : State := { s with arg := { s.arg with cache := base } }
  let i := match s0.cached fp with
    | some i => i
    | none => ((List.range s0.cacheLen).find? (fun i => !bit ((s0.cacheEntry i).headD 0) 31)).getD s0.cacheLen
  let new := if i < 1023 then base.take (14 + 18 * i) ++ e ++ base.drop (14 + 18 * (i + 1)) else base
  ({ s0 with arg := { s0.arg with cache := new } }).requestStore 0 8

/-- The head sends ACCEPT outward to a position (R334). -/
def State.sendAccept (s : State) (r q : Nat) (yes : Bool) : State :=
  let a := s.arcsOf r
  s.sendOne (if q ≤ a.1 then eastPort r else westPort r) 5 4 [BitVec.ofNat 32 q, if yes then 1 else 0]

/-- The head accepts or refuses a position. -/
def State.judgeEntry (s : State) (r q : Nat) (yes : Bool) : State :=
  let s1 := (s.setEntryState q (if yes then 5 else 3)).sendAccept r q yes
  if yes then s1.cacheAdd q else s1

/-- The head takes a REPORT (R337). -/
def State.takeReport (s : State) (r q : Nat) (ws : List Word) : State :=
  let fp := ws.take 8
  let old := s.rawWord (rosterWord q 0)
  let s1 := s.putWords (rosterWord q 0) ([setBits (setBits old 9 0 q) 31 31 1] ++ fp ++ [(ws[8]?).getD 0])
  if (s.cached fp).isSome && s.flag Reg.argCtl 30 then s1.judgeEntry r q true
  else ((s1.setEntryState q 4).raiseBit Reg.argSticky 6).setEv 186

/-- Discovery begins at the head (R335). -/
def State.discover (s : State) (r : Nat) : State :=
  if s.role r = 2 then
    let s1 := (s.setFld (Reg.argRingStatus r) 10 0 0).setRingState r 3
    let s2 : State := { s1 with arg := { s1.arg with disc := aput s1.arg.disc r 1 } }
    s2.sendOne (eastPort r) 5 1 [0]
  else s

/-- Positions that a ring of `n` devices, or its segments of `e` and `w` members, does not hold leave the roster, unless the device
heads the other ring too (R335). -/
def State.clearRoster (s : State) (r n e w : Nat) (seg : Bool) : State :=
  if s.role (1 - r) = 2 then s
  else
    let held (q : Nat) : Bool := q == 0 || (if seg then q ≤ e || 1024 ≤ q + w else q < n)
    ((List.range 1024).filter (fun q => !held q && s.entryState q != 0)).foldl (fun t q => t.setEntryState q 0) s

/-- The head knows its ring: N, the arcs, COMMIT to every device; the head itself counts as accepted (log 45). -/
def State.commitRing (s : State) (r n e w : Nat) (seg : Bool) : State :=
  let s1 := (s.setFld (Reg.argRingStatus r) 26 16 (min n 1024)).setRingState r 5
  let s2 : State := { s1 with arg := { s1.arg with disc := sdel s1.arg.disc r, arcs := aput s1.arg.arcs r (e, w) } }
  let s3 := (if 1024 < n then s2.raiseBit Reg.argSticky 11 else s2).clearRoster r n e w seg
  let s4 := s3.castCell 5 r 2 ([BitVec.ofNat 32 (min n 1024)] ++ (if seg then [BitVec.ofNat 32 e, BitVec.ofNat 32 w] else []))
  if bit s4.failedNext r ∧ !seg then s4.planFrom s4.tns (putBit s4.failedNext r false) false else s4

/-- DISCOVER arrives (R335). A device counted beyond position 1,023 becomes a repeater; the counter goes on (log 45). -/
def State.takeDiscover (s : State) (p : Nat) (c : Cell) : State :=
  let r := ringOf p
  let k := (c.payload.headD 0).toNat
  if s.role r = 2 then
    if alook s.arg.disc r = some 1 ∧ !c.west ∧ p = westPort r then s.commitRing r (k + 1) (min (k + 1) 1024 / 2)
      (min (k + 1) 1024 - 1 - min (k + 1) 1024 / 2) false
    else s
  else if s.role r = 1 then
    let s1 := if 1023 ≤ k then s.setRingState r 6
      else (((s.setFld (Reg.argRingStatus r) 9 0 (if c.west then 1023 - k else k + 1)).setFlag
        (Reg.argRingStatus r) 10 c.west).setRingState r 3)
    s1.forwardCell p { c with payload := [BitVec.ofNat 32 (k + 1)] } false
  else s

/-- COMMIT arrives (R335): N, the arc and the depth, and the answer REPORT. -/
def State.takeCommit (s : State) (p : Nat) (c : Cell) : State :=
  let r := ringOf p
  let n := (c.payload.headD 0).toNat % 2048
  if s.role r ≠ 1 ∨ !s.placed r then s
  else
    let seg := 3 ≤ c.payload.length
    let e := if seg then ((c.payload[1]?).getD 0).toNat else n / 2
    let w := if seg then ((c.payload[2]?).getD 0).toNat else n - 1 - n / 2
    let west := if seg then s.onWest r else n / 2 < s.pos r
    let s1 := ((s.setFld (Reg.argRingStatus r) 26 16 n).setFlag (Reg.argRingStatus r) 10 west).setRingState r 4
    let s2 : State := { s1 with arg := { s1.arg with arcs := aput s1.arg.arcs r (e, w) } }
    let s3 := if bit s2.failedNext r ∧ !seg then s2.planFrom c.w2 (putBit s2.failedNext r false) false
      else if seg ∧ s2.pairMode then s2.planFrom c.w2 (putBit s2.failedNext r true) true else s2
    s3.sendOne (s3.homePort r) 5 3
      ((List.range 8).map (fun j => s3.fpWord j) ++ [s3.reg Reg.glbId, BitVec.ofNat 32 (s3.role (1 - r))])

/-- STATUS of a member (R334): alert summary, back-off with the thermal state, width and rate of both ports, power state. -/
def State.statusWords (s : State) (r : Nat) : List Word :=
  let f (p : Nat) : Nat := s.fld (Reg.argPortStatus p) 27 24
  [s.alertSum, BitVec.ofNat 32 (s.fld Reg.thmStatus 31 28 * 65536 + (if s.flag Reg.thmStatus 30 then s.fld Reg.thmThrot 15 0 else 0)),
   BitVec.ofNat 32 (f (westPort r) * 256 + f (eastPort r)), BitVec.ofNat 32 s.season]

/-- Members send STATUS once per air frame (R337). -/
def State.sendStatus (s : State) : State :=
  [0, 1].foldl (fun t r =>
    if t.role r == 1 && (t.ringState r == 4 || t.ringState r == 5) then t.sendOne (t.homePort r) 5 5 (t.statusWords r) else t) s

/-- The head takes a STATUS (R331, R337). -/
def State.takeStatus (s : State) (r q : Nat) (ws : List Word) : State :=
  let s1 := s.putWords (rosterWord q 10) [ws.headD 0, s.tns]
  let s2 : State := { s1 with arg := { s1.arg with
      quiet := (s1.arg.quiet.filter (· != r * 1024 + q)) ++ (if (ws[3]?).getD 0 = 2 then [r * 1024 + q] else []) } }
  if ws.headD 0 = 0 then s2 else s2.raiseBit Reg.argSticky 12

/-! ## Partial sums (R329-R331) -/

/-- Devices that contribute to a complete sum: the head and the members the roster holds as accepted that are not in Winter
(R331). -/
def State.expected (s : State) (r : Nat) : Nat :=
  1 + (List.range 1024).countP (fun q => q != 0 && s.entryState q == 5 && !s.arg.quiet.contains (r * 1024 + q))

/-- Frame number of an identifier. -/
def identFrame (i : Nat) : Nat := i / 2 ^ 16 % 256

/-- An identifier is dealt with; those of older frames are forgotten. -/
def State.closeSum (s : State) (i : Nat) : State :=
  let near (j : Nat) : Bool := (identFrame i + 256 - identFrame j) % 256 ≤ 1
  { s with arg := { s.arg with
      closed := s.arg.closed.filter near ++ [i], dead := s.arg.dead.filter (fun d => near d.2), sums := sdel s.arg.sums i } }

/-- The head's result is judged (R331): complete, or marked incomplete and counted. -/
def State.judgeSum (s : State) (r i : Nat) (x : Option Nat × Option Nat) : State :=
  let s1 := s.closeSum i
  if x.1.getD 0 + x.2.getD 0 + 1 = s.expected r then s1
  else (s1.bump (Reg.argRingCnt r 4)).raiseBit Reg.argSticky 5

/-- Units of 43 bytes of a payload (R229). -/
def unitsOf (bs : List Byte) : List (List Byte) := prbSplit 43 (bs.length / 43) bs

/-- Components added to the units of a cell; components that saturated (R224). -/
def addUnits (us : List (List Byte)) (own : List (List Int)) : List Byte × Nat :=
  let l := (us.zip own).map (fun p => psAdd (psDecode p.1) p.2)
  ((l.flatMap (fun x => psEncode x.1)) ++ (us.drop own.length).flatMap id, (l.map (·.2)).foldl (· + ·) 0)

/-- The start of the symbol that the identifiers of a data cell name. -/
def State.cellTime (s : State) (w2 : Word) : Int := s.airAt (bits w2 31 31) (bits w2 14 7) (14 * bits w2 21 15 + bits w2 25 22)

/-- A sum held for a PRB: the device's own contribution (side 0), or what came from the east (1) or the west (2). -/
def State.sumAt (s : State) (side c layer : Nat) (tl : Int) (prb : Nat) : Option SumPrb :=
  s.bme.sums.find? (fun x => x.side == side && x.car == c && x.layer == layer && x.t0 == tl && x.prb == prb)

/-- The device's own contribution for the PRBs that identifiers name, where it holds it for all of them (R223). -/
def State.ownSums (s : State) (w2 : Word) (start n : Nat) : Option (List SumPrb) :=
  if n = 0 then none
  else (List.range n).mapM (fun j => s.sumAt 0 (bits w2 31 31) (bits w2 30 26) (s.cellTime w2) (start + j))

/-- When the last of some sums is ready. -/
def readyAt (l : List SumPrb) : Int := l.foldl (fun m x => max m x.ready) 0

/-- The device's own contribution for the PRBs that identifiers name, once ready for all of them (R329). -/
def State.ownUnits (s : State) (w2 : Word) (start n : Nat) : Option (List (List Int)) :=
  match s.ownSums w2 start n with
  | some l => if readyAt l ≤ (s.nowU : Int) then some (l.map (·.vals)) else none
  | none => none

/-- The own contribution for the PRBs of a partial-sum cell. -/
def State.ownFor (s : State) (c : Cell) : Option (List (List Int)) := s.ownUnits c.w2 (bits c.w3 31 23) (c.bytes.length / 43)

/-- A cell that carries this device's contribution alone: CONTRIB = 1 (R329, R330). -/
def ownCell (r : Nat) (west repair : Bool) (src : Nat) (w2 : Word) (start : Nat) (own : List (List Int)) : Cell :=
  let bs := own.flatMap psEncode
  mkCell 3 r west repair 0 1 src w2 (w3Of start bs.length 14 true) (packWords bs)

/-- A partial sum arrives after its deadline (R225). -/
def State.lateSum (s : State) : State := if s.up domCrm then s.bmeCount (6, 1) else s

/-- The sums of a cell that came to the head from side 1, the east, or 2, the west, are kept for the uplink frame (R224). -/
def State.putSide (s : State) (side : Nat) (c : Cell) : State :=
  s.putSums ((unitsOf c.bytes).zipIdx.map (fun u =>
    ⟨bits c.w2 31 31, s.cellTime c.w2, bits c.w2 30 26, bits c.w3 31 23 + u.2, side, c.contrib, s.nowU, psDecode u.1⟩))

/-- The head has what came for an identifier from east and west, or has ceased to wait for it: once both are settled the result is
judged. -/
def State.settleSum (s : State) (r i : Nat) (y : Option Nat × Option Nat) : State :=
  let a := s.arcsOf r
  let s1 : State := { s with arg := { s.arg with sums := aput s.arg.sums i y } }
  if (y.1.isSome || a.1 == 0) && (y.2.isSome || a.2 == 0) then s1.judgeSum r i y else s1

/-- A partial-sum cell at the head. -/
def State.headSum (s : State) (p : Nat) (c : Cell) (fate : CellFate) : State :=
  let r := ringOf p
  let i := c.ident r
  let x := (alook s.arg.sums i).getD (none, none)
  if fate ≠ .good then s
  else if s.arg.closed.contains i ∨ (if p % 2 = 0 then x.1 else x.2).isSome then s.lateSum
  else if p % 2 = 0 then (s.putSide 1 c).settleSum r i (some c.contrib, x.2)
  else (s.putSide 2 c).settleSum r i (x.1, some c.contrib)

/-- A VOID partial sum has come in at port p, or the REPAIR cell that follows it has passed (R330). -/
def State.markVoid (s : State) (p : Nat) (v : Option Nat) : State := s.setArgPort p { s.argPort p with void := v }

/-- The own contribution is held until the REPAIR cell behind a VOID cell of port p has passed, which takes one cell time, 330 ns at
most (R330, R332). -/
def State.awaitsRepair (s : State) (p : Nat) : Bool :=
  match (s.argPort p).void with
  | some t => s.nowU < t + 330 * 1536
  | none => false

/-- A partial-sum cell at a member (R329, R330). -/
def State.memberSum (s : State) (p : Nat) (c : Cell) (fate : CellFate) : State :=
  let r := ringOf p
  let i := c.ident r
  if !s.working r then s.forwardCell p c (fate != .good)
  else match fate with
  | .badCrc =>
    let s1 := s.forwardCell p c true
    match s.ownFor c with
    | some o =>
      let s2 := (s1.sendCell (acrossPort p) (ownCell r c.west true (s.pos r) c.w2 (bits c.w3 31 23) o)).bump (Reg.argRingCnt r 3)
      let s3 := s2.closeSum i
      { s3 with arg := { s3.arg with dead := s3.arg.dead ++ [(p, i)] } }
    | none => s1
  | .voided => (s.forwardCell p c true).markVoid p (some s.nowU)
  | .good =>
    let s0 := if c.repair then s.markVoid p none else s
    if s.arg.dead.contains (p, i) then s0
    else if s.arg.closed.contains i then s0.lateSum
    else match s.ownFor c with
    | none => s0.forwardCell p c false
    | some o =>
      let a := addUnits (unitsOf c.bytes) o
      let c' := { c with w0 := setBits c.w0 20 10 (c.contrib + 1), payload := packWords a.1 }
      ((s0.bmeCount (3, a.2)).forwardCell p c' false).closeSum i

/-- The deadline of R225 for an input with `d` devices beyond it, the own contribution being ready at `x`, has passed. -/
def State.pastDeadline (s : State) (x : Int) (d : Nat) : Bool :=
  x + 1536 * (160 * d + s.fld Reg.bmePsMargin 15 0) ≤ (s.nowU : Int)

/-- The deadline of R225 passes for `num` PRBs: the head goes on with the missing input as 0, a member sends its contribution alone,
as the last device of an arc does once it is ready (R329). -/
def State.sumDeadline (s : State) (r : Nat) (w2 : Word) (start num : Nat) : State :=
  let i := (r * 2 ^ 32 + w2.toNat) * 512 + start % 512
  match s.ownSums w2 start num with
  | none => s
  | some l =>
    let d := s.beyond r
    if s.arg.closed.contains i ∨ !s.up domRing then s
    else if s.role r = 2 then
      let x := (alook s.arg.sums i).getD (none, none)
      let miss (v : Option Nat) (n : Nat) : Option Nat := if v.isNone ∧ s.pastDeadline (readyAt l) n then some 0 else v
      s.settleSum r i (miss x.1 d.1, miss x.2 d.2)
    else if s.role r = 1 ∧ s.working r then
      let due := if s.lastOfArc r then readyAt l ≤ (s.nowU : Int)
        else s.pastDeadline (readyAt l) (if s.onWest r then d.2 else d.1)
      if due ∧ !s.awaitsRepair (s.farPort r) then
        (s.sendCell (s.homePort r) (ownCell r (s.homePort r % 2 == 1) false (s.pos r) w2 start (l.map (·.vals)))).closeSum i
      else s
    else s

/-! ## Time over the ring (R333) -/

/-- The ring time is taken from: the other one once TS_RING has failed in pair mode. -/
def State.tsRing (s : State) : Nat :=
  let r := s.fld Reg.argCtl 29 29
  if s.pairMode && bit s.arg.failed r then 1 - r else r

/-- A correction in ps as 2^-16 ns, to the nearest (R387). -/
def State.asym (s : State) (reg : Nat) : Int := divAway (sgn 24 (s.fld reg 23 0) * 65536) 1000

/-- Timestamps of port q in 2^-16 ns mod 2^48, corrected for its asymmetry (R387). -/
def State.stampRx (s : State) (q : Nat) : Nat := unsgn 48 (((s.time.t / 2 ^ 37 : Nat) : Int) - s.asym (Reg.tmuAsymRx q))
def State.stampTx (s : State) (q : Nat) : Nat := unsgn 48 (((s.time.t / 2 ^ 37 : Nat) : Int) + s.asym (Reg.tmuAsymTx q))

/-- TNS in the first word, TFR in bits [15:0] of the second. -/
def stampWords (t : Nat) : List Word := [BitVec.ofNat 32 (t / 65536), BitVec.ofNat 32 (t % 65536)]
def stampOf (ws : List Word) : Nat := (ws.headD 0).toNat * 65536 + bits ((ws[1]?).getD 0) 15 0

/-- The period expires: what lies upstream of others sends SYNC away from the head; an exchange without RESP is counted, and
the third in a row sets TS_LOST and holds time over. -/
def State.tsPeriod (s : State) : State :=
  let s1 := if s.up domTime then
      [0, 1].foldl (fun t r =>
        if t.heading r then
          [eastPort r, westPort r].foldl (fun u p => u.sendOne p 4 1 (stampWords (s.stampTx p))) t
        else if t.role r == 1 && t.placed r && !t.lastOfArc r then
          t.sendOne (t.farPort r) 4 1 (stampWords (s.stampTx (t.farPort r)))
        else t) s
    else s
  if s1.role s1.tsRing = 1 ∧ s1.placed s1.tsRing then
    let n := if s1.arg.answered then 0 else s1.arg.tsMiss + 1
    let s2 : State := { s1 with arg := { s1.arg with answered := false, tsMiss := n, exch := none } }
    if n = 3 then
      let s3 := s2.raiseBit Reg.argSticky 13
      if s3.up domTime && s3.tmuSrc == 1 then s3.holdover else s3
    else s2
  else s1

/-- SYNC arrives from upstream (R333). -/
def State.takeSync (s : State) (p : Nat) (c : Cell) : State :=
  let r := ringOf p
  if s.role r = 1 ∧ s.placed r ∧ p = s.homePort r ∧ r = s.tsRing ∧ s.up domTime then
    let t3 := s.stampTx p
    let s1 : State := { s with arg := { s.arg with exch := some (stampOf c.payload, s.stampRx p, t3) } }
    s1.sendOne p 4 2 (stampWords t3)
  else s

/-- RESP completes an exchange (R333, R378). -/
def State.takeResp (s : State) (p : Nat) (c : Cell) : State :=
  match s.arg.exch with
  | none => s
  | some (t1, t2, t3) =>
    if p = s.homePort (ringOf p) ∧ ringOf p = s.tsRing then
      let t4 := stampOf c.payload
      let d43 := sgn 48 (t4 + 2 ^ 48 - t3)
      let d21 := sgn 48 (t2 + 2 ^ 48 - t1)
      let s1 : State := { s with arg := { s.arg with exch := none, answered := true, tsMiss := 0 } }
      if s1.up domTime ∧ s1.tmuSrc = 1 then
        s1.measure ((d43 - d21) * 125) (some ((d21 + d43) * 125)) (s1.fld Reg.argTsPeriod 15 0 * 1000)
      else s1
    else s

/-! ## What waits for the slot boundary (R339, R340) -/

/-- At a slot boundary of the carrier with the longer slot, at `x` units of unwrapped time, the last decision whose time has come
takes effect; the head broadcasts changed sets. -/
def State.landPlan (s : State) (x : Int) : State :=
  match (s.arg.plans.filter (fun p => decide (((p.start * 1536 : Nat) : Int) ≤ x))).getLast? with
  | none => s
  | some p =>
    let was := [s.reg (Reg.argShed 0), s.reg (Reg.argShed 1), s.reg (Reg.argMoved 0), s.reg (Reg.argMoved 1)]
    let now := p.shed ++ p.moved
    let s1 := (((s.setReg (Reg.argShed 0) ((now[0]?).getD 0)).setReg (Reg.argShed 1) ((now[1]?).getD 0)).setReg
      (Reg.argMoved 0) ((now[2]?).getD 0)).setReg (Reg.argMoved 1) ((now[3]?).getD 0)
    let s2 := if p.shed.any (· != 0) ∧ was.take 2 ≠ p.shed then s1.raiseBit Reg.argSticky 1 else s1
    let s3 := if p.moved.any (· != 0) ∧ was.drop 2 ≠ p.moved then s2.raiseBit Reg.argSticky 2 else s2
    let s4 := if (p.failed &&& ~~~ s.arg.failed) != 0 then s3.raiseBit Reg.argSticky 8 else s3
    let s5 : State := { s4 with arg := { s4.arg with plans := s4.arg.plans.filter (fun q => !decide (((q.start * 1536 : Nat) : Int) ≤ x)), failed := p.failed } }
    [0, 1].foldl (fun t r => if t.heading r ∧ was ≠ now then t.castCell 5 r 7 (now ++ [BitVec.ofInt 32 (x / 1536)]) else t) s5

/-! ## The head's broadcast (R327) -/

/-- A layer belongs to this ring (R21), moves counted (R339). -/
def State.ringCarries (s : State) (r d l : Nat) : Bool :=
  let mine := (s.ringLayers r s.arg.failed).contains l
  if bit (s.reg (Reg.argMoved d)) l && s.pairMode then !mine else mine

/-- A layer leaves the head on this ring: it belongs to it and is not shed (R339). -/
def State.layerOnRing (s : State) (r d l : Nat) : Bool := !bit (s.reg (Reg.argShed d)) l && s.ringCarries r d l

/-- w2 of a data cell. -/
def dataW2 (c l sym slot frame : Nat) : Word :=
  BitVec.ofNat 32 (c * 2 ^ 31 + l % 32 * 2 ^ 26 + sym % 16 * 2 ^ 22 + slot % 128 * 2 ^ 15 + frame % 256 * 2 ^ 7)

/-- A cell goes out on both ports of every ring the device heads that carries the layer. -/
def State.headOut (s : State) (d l : Nat) (mk : Nat → Bool → Cell) : State :=
  [0, 1].foldl (fun t r =>
    if t.up domRing && t.heading r && t.layerOnRing r d l then
      (t.sendCell (eastPort r) (mk r false)).sendCell (westPort r) (mk r true)
    else t) s

/-- Layer data as received, in cells of whole PRBs of at most 1,032 bytes. -/
def State.castData (s : State) (c l sym slot frame start n w : Nat) (comp : Bool) (data : List Byte) : State :=
  let b := prbBytes w comp
  let k := 1032 / b
  (List.range ((n + k - 1) / k)).foldl (fun t j =>
    let bs := ((data.drop (j * k * b)).take (min k (n - j * k) * b))
    t.headOut 0 l (fun r west => mkCell 1 r west false 0 0 (t.pos r) (dataW2 c l sym slot frame)
      (w3Of (start + j * k) bs.length w comp) (packWords bs))) s

/-- C-plane section records as received, in cells of at most 1,032 bytes. -/
def State.castSects (s : State) (dl : Bool) (c l sym slot frame : Nat) (raw : List Byte) : State :=
  (List.range ((raw.length + 1031) / 1032)).foldl (fun t j =>
    let bs := (raw.drop (j * 1032)).take 1032
    t.headOut (if dl then 0 else 1) l (fun r west => mkCell 2 r west false 0 0 (t.pos r) (dataW2 c l sym slot frame)
      (w3Of 0 bs.length 0 false) (packWords bs))) s

/-! ## Register writes (R341, R344) -/

/-- A write to `RING[r].CTL`: the fields, then REDISCOVER, LEAVE and ENTER. A device that becomes standalone on the ring leaves it
(R20, R321). -/
def State.writeRingCtl (s : State) (r : Nat) (val mask : Word) : State :=
  let v := val &&& mask
  let s0 := s.writeFields (Reg.argRingCtl r) val mask
  let s1 := if s0.role r = 0 ∧ s0.hold r then s0.leaveRing r else s0
  let s2 := if bit v 29 then s1.discover r else s1
  let s3 := if bit v 30 then s2.leaveRing r else s2
  if bit v 31 then s3.enterRing r else s3

/-- A write to `PORT[p].CTL`: RETRAIN retrains the port at its greatest width (R338). -/
def State.writePortCtl (s : State) (p : Nat) (val mask : Word) : State :=
  let s1 := s.writeFields (Reg.argPortCtl p) val mask
  if bit (val &&& mask) 31 ∧ (s1.portState p = 3 ∨ s1.portState p = 4) then
    let q := s1.argPort p
    let w := min (s1.fld (Reg.argPortCtl p) 1 0) (bits (q.last.headD 0xC0000) 19 18)
    (s1.setArgPort p { q with width := w, rate := s1.fld (Reg.argPortStatus p) 27 26, keep := 0 }).setPortState p 4
  else s1

/-- A write to `ARG.ACCEPT` (R337): on the ring the device heads on which the position is a candidate. -/
def State.writeAccept (s : State) (val : Word) : State :=
  let q := bits val 9 0
  if s.entryState q ≠ 4 then s
  else if s.role 0 = 2 then s.judgeEntry 0 q (bit val 31)
  else if s.role 1 = 2 then s.judgeEntry 1 q (bit val 31)
  else s

/-! ## Commands -/

def execCapabilitySet (p : Nat) (words : List Word) (s : State) : Host.Outcome State Fault Refusal :=
  .next (if p < 4 ∧ s.up domRing then s.takeSet p words else s)

/-- Negotiation has not completed within 5 ms: the port negotiates again after 10 ms (log 46). -/
def execNegotiateTimeout (p : Nat) (s : State) : Host.Outcome State Fault Refusal :=
  .next (if p < 4 ∧ s.up domRing ∧ s.portState p = 1 then
    (s.setReg (Reg.argPortStatus p) 0).setArgPort p { again := true } else s)

/-- Training at one rate ends with the FOM and the trained taps of each lane of the width, lowest lane first (R323, R338,
R349). -/
def State.trainDone (s : State) (p : Nat) (lanes : List (Nat × Word)) : State :=
  let q := s.argPort p
  let n := lanesOf q.width
  let used := (portLanes p).take n
  let least := s.fld Reg.slnFom 7 0
  let s1 := ((used.zip (lanes ++ List.replicate n (0, 0))).foldl (fun t x =>
    let l := x.1
    let f := min x.2.1 255
    let a := (t.setFld (Reg.slnLaneStatus l) 7 0 f).setFld (Reg.slnLaneStatus l) 23 16 f
    let b := if a.flag (Reg.slnLaneTxeq l) 31 then a
      else a.setReg (Reg.slnLaneTxeq l) (x.2.2 &&& 0x001F3F0F)
    if f < least then b.setFlag (Reg.slnLaneLsticky l) 3 true else b) s)
  let ok := used.all (fun l => s.ready.contains l) && lanes.length == n && lanes.all (fun x => least ≤ x.1)
  if ok then
    let s2 := s1.setArgPort p { q with txSeq := 0, rxSeq := none }
    let s3 := s2.portUp p q.rate (maskOfList (List.range n))
    if s.portState p = 4 then s3.castLane p |>.noteLink (ringOf p) (s.pos (ringOf p)) p (linkMbps q.rate q.width) s.tns else s3
  else if s.portState p = 4 then
    (if q.width = 0 then s1.portDown p else s1.setArgPort p { q with width := q.width - 1 })
  else
    match (List.range q.rate).reverse.find? (fun i => bit (s.reg (Reg.argPortCtl p)) (16 + i) && bit (q.last.headD 0) (20 + i)) with
    | some i =>
      if s.flag (Reg.argPortCtl p) 8 then s1.setArgPort p { q with rate := i } else (s1.portDown p).raiseBit Reg.argSticky 14
    | none => (s1.portDown p).raiseBit Reg.argSticky 14

/-- The figure of merit of an eye of height `eh` in µV and width `ew` in 1/1000 UI, for PAM4 of the worst of its three eyes (R353). -/
def fomOf (pam4 : Bool) (eh ew : Nat) : Nat :=
  if pam4 then min 255 (min (64 * eh / 15000) (64 * ew / 150)) else min 255 (min (64 * eh / 30000) (64 * ew / 250))

/-- Each lane brings the height and the width of its eye and its trained taps. -/
def execTrainDone (p : Nat) (lanes : List ((Nat × Nat) × Word)) (s : State) : Host.Outcome State Fault Refusal :=
  .next (if p < 4 ∧ s.up domRing ∧ (s.portState p = 2 ∨ (s.portState p = 4 ∧ (s.argPort p).keep = 0)) ∧ !s.portTested p
    then s.trainDone p (lanes.map (fun x => (fomOf false x.1.1 x.1.2, x.2))) else s)
def execRenegotiate (p : Nat) (s : State) : Host.Outcome State Fault Refusal :=
  .next (if p < 4 ∧ s.up domRing ∧ s.portState p = 0 ∧ (s.argPort p).again ∧ s.hold (ringOf p) then s.startNeg p else s)

/-- A cell of one TYPE (and SUB) is received; `good` acts on an intact one, `bad` on one that failed its CRC or came VOID. -/
def State.onCell (s : State) (p : Nat) (c : Cell) (kind : Nat) (sub : Option Nat) (good : State → State)
    (bad : State → CellFate → State) : State :=
  if c.kind == kind && (match sub with
      | some x => c.sub == x
      | none => true) then
    match s.recvCell p c with
    | none => s
    | some (t, .good) => good t
    | some (t, f) => bad t f
  else s

/-- A DL or CP cell at a member goes on unless it is the last of its arc (R17, R327). -/
def State.outward (s : State) (p : Nat) (c : Cell) (void : Bool) : State :=
  let r := ringOf p
  if s.role r ≠ 1 then s
  else if s.placed r ∧ s.lastOfArc r then s
  else s.forwardCell p c void

def execDlCell (p : Nat) (cell : Cell) (s : State) : Host.Outcome State Fault Refusal :=
  .next (s.onCell p cell 1 none
    (fun t =>
      let u := t.outward p cell false
      let c := bits cell.w2 31 31
      let w := bits cell.w3 11 7
      if u.role (ringOf p) == 1 && u.working (ringOf p) && u.carOn c && 7 ≤ w && w ≤ 16 then
        u.takeData c (bits cell.w2 30 26) (bits cell.w2 14 7) (bits cell.w2 21 15) (bits cell.w2 25 22) (bits cell.w3 31 23)
          (cell.len / prbBytes w (bit cell.w3 6)) w (bit cell.w3 6) cell.bytes
      else u)
    (fun t _ => t.outward p cell true))

/-- A C-plane cell: `dl`, `stype`, `type3` and `sects` are what its section records spell (log 47). -/
def execCpCell (p : Nat) (cell : Cell) (dl : Bool) (stype : Nat) (type3 : Nat × Nat × Int) (sects : List CSect) (s : State) :
    Host.Outcome State Fault Refusal :=
  .next (s.onCell p cell 2 none
    (fun t =>
      let u := t.outward p cell false
      let c := bits cell.w2 31 31
      if u.role (ringOf p) == 1 && u.working (ringOf p) && u.carOn c then
        (u.pruneSects).takeSects dl c (bits cell.w2 30 26) (bits cell.w2 14 7) (14 * bits cell.w2 21 15 + bits cell.w2 25 22) stype
          type3 (sects.filter (fun x => !x.other))
      else u)
    (fun t _ => t.outward p cell true))

def execPsCell (p : Nat) (cell : Cell) (s : State) : Host.Outcome State Fault Refusal :=
  let f (t : State) (x : CellFate) : State :=
    if t.role (ringOf p) = 2 then t.headSum p cell x
    else if t.role (ringOf p) = 1 then t.memberSum p cell x else t
  .next (s.onCell p cell 3 none (fun t => f t .good) f)
def execPsDeadline (r : Nat) (w2 : Word) (start num : Nat) (s : State) : Host.Outcome State Fault Refusal :=
  .next (if r < 2 then s.sumDeadline r w2 start num else s)

def execTsPeriod (s : State) : Host.Outcome State Fault Refusal := .next (if s.up domRing then s.tsPeriod else s)
def execSync (p : Nat) (cell : Cell) (s : State) : Host.Outcome State Fault Refusal :=
  .next (s.onCell p cell 4 (some 1) (fun t => t.takeSync p cell) (fun t _ => t))
def execReq (p : Nat) (cell : Cell) (s : State) : Host.Outcome State Fault Refusal :=
  .next (s.onCell p cell 4 (some 2) (fun t => if t.up domTime then t.sendOne p 4 3 (stampWords (t.stampRx p)) else t) (fun t _ => t))
def execResp (p : Nat) (cell : Cell) (s : State) : Host.Outcome State Fault Refusal :=
  .next (s.onCell p cell 4 (some 3) (fun t => t.takeResp p cell) (fun t _ => t))

/-- The head starts discovery (R335): its ports are trained, or one of them has been for ENTER_TMO. -/
def execDiscovery (r : Nat) (s : State) : Host.Outcome State Fault Refusal :=
  .next (if r < 2 ∧ s.up domRing ∧ (s.portState (eastPort r) = 3 ∨ s.portState (westPort r) = 3) then s.discover r else s)
def execDiscover (p : Nat) (cell : Cell) (s : State) : Host.Outcome State Fault Refusal :=
  .next (s.onCell p cell 5 (some 1) (fun t => t.takeDiscover p cell) (fun t _ => t.forwardCell p cell true))

/-- DISCOVER has not returned within 2 ms (R335): the ring is segmented, with `east` and `west` devices on the two sides
(log 45). -/
def execDiscoverTimeout (r east west : Nat) (s : State) : Host.Outcome State Fault Refusal :=
  .next (if r < 2 ∧ s.up domRing ∧ alook s.arg.disc r = some 1 then
      let s1 := (s.raiseBit Reg.argSticky 10).sendOne (westPort r) 5 1 [0]
      let s2 := s1.commitRing r (east + west + 1) (min east 1023) (min west 1023) true
      if s2.pairMode then s2.ringFailed r else s2
    else s)

/-- A directed or broadcast roster cell that fails its CRC or comes VOID goes on VOID where it would go on. -/
def State.voidOn (s : State) (p : Nat) (c : Cell) : State :=
  if s.role (ringOf p) = 1 then s.forwardCell p c true else s

def execCommit (p : Nat) (cell : Cell) (s : State) : Host.Outcome State Fault Refusal :=
  .next (s.onCell p cell 5 (some 2) (fun t => (t.takeCommit p cell).passOn p cell) (fun t _ => t.voidOn p cell))
def execReport (p : Nat) (cell : Cell) (s : State) : Host.Outcome State Fault Refusal :=
  .next (s.onCell p cell 5 (some 3)
    (fun t => if t.role (ringOf p) = 2 then t.takeReport (ringOf p) cell.src cell.payload
      else if t.role (ringOf p) = 1 then t.forwardCell p cell false else t) (fun t _ => t.voidOn p cell))
def execAccept (p : Nat) (cell : Cell) (s : State) : Host.Outcome State Fault Refusal :=
  .next (s.onCell p cell 5 (some 4)
    (fun t =>
      let r := ringOf p
      if t.role r = 1 ∧ t.placed r ∧ (cell.payload.headD 0).toNat = t.pos r then
        t.setRingState r (if bit ((cell.payload[1]?).getD 0) 0 then 5 else 3)
      else if t.role r = 1 then t.forwardCell p cell false else t) (fun t _ => t.voidOn p cell))
def execStatus (p : Nat) (cell : Cell) (s : State) : Host.Outcome State Fault Refusal :=
  .next (s.onCell p cell 5 (some 5)
    (fun t => if t.role (ringOf p) = 2 then t.takeStatus (ringOf p) cell.src cell.payload
      else if t.role (ringOf p) = 1 then t.forwardCell p cell false else t) (fun t _ => t.voidOn p cell))
def execStatusMissing (r pos : Nat) (s : State) : Host.Outcome State Fault Refusal :=
  .next (if r < 2 ∧ s.up domRing ∧ s.role r = 2 ∧ s.entryState pos = 5 then (s.raiseBit Reg.argSticky 7).discover r else s)
def execLane (p : Nat) (cell : Cell) (s : State) : Host.Outcome State Fault Refusal :=
  .next (s.onCell p cell 5 (some 6)
    (fun t => (t.noteLink (ringOf p) cell.src (cell.payload.headD 0).toNat ((cell.payload[2]?).getD 0).toNat cell.w2).passOn p cell)
    (fun t _ => t.voidOn p cell))

/-- SHED carries the sets in force from a stated slot boundary (R334, R338). -/
def execShed (p : Nat) (cell : Cell) (s : State) : Host.Outcome State Fault Refusal :=
  .next (s.onCell p cell 5 (some 7)
    (fun t =>
      let t1 := t.addPlan ⟨t.unwrapNs ((cell.payload[4]?).getD 0), cell.payload.take 2, (cell.payload.drop 2).take 2,
        t.failedAfter (t.arg.plans.filter (fun q => q.start ≤ t.unwrapNs ((cell.payload[4]?).getD 0)))⟩
      t1.passOn p cell) (fun t _ => t.voidOn p cell))

/-- A ring-failure notice, which travels on the ring that survives (R340). -/
def execFo (p : Nat) (cell : Cell) (s : State) : Host.Outcome State Fault Refusal :=
  .next (s.onCell p cell 7 none
    (fun t =>
      let r := 1 - ringOf p
      let t1 := if t.pairMode then t.planFrom cell.w2 (putBit t.failedNext r true) true else t
      t1.passOn p cell) (fun t _ => t.voidOn p cell))

/-- A cell of another TYPE is dropped and counted (R325). -/
def execUnknownCell (p : Nat) (cell : Cell) (s : State) : Host.Outcome State Fault Refusal :=
  .next (if cell.kind = 0 ∨ 7 < cell.kind then
    (match s.recvCell p cell with
      | none => s
      | some (t, _) => t.bump (Reg.argRingCnt (ringOf p) 7)) else s)

def execEnter (port : Port) (r : Nat) (val : Word) (s : State) : Host.Outcome State Fault Refusal :=
  .next (if r < 2 then s.hostReg port (Reg.argRingCtl r) (fun t => t.writeRingCtl r (val ||| 0x80000000) 0xFFFFFFFF) else s)
def execLeave (port : Port) (r : Nat) (val : Word) (s : State) : Host.Outcome State Fault Refusal :=
  .next (if r < 2 then s.hostReg port (Reg.argRingCtl r) (fun t => t.writeRingCtl r (val ||| 0x40000000) 0xFFFFFFFF) else s)
def execRediscover (port : Port) (r : Nat) (val : Word) (s : State) : Host.Outcome State Fault Refusal :=
  .next (if r < 2 then s.hostReg port (Reg.argRingCtl r) (fun t => t.writeRingCtl r (val ||| 0x20000000) 0xFFFFFFFF) else s)

/-- The ports have not trained within ENTER_TMO (R341): neither of them; where one has, the ring is found segmented by R335
(log 48). -/
def execEnterTimeout (r : Nat) (s : State) : Host.Outcome State Fault Refusal :=
  .next (if r < 2 ∧ s.up domRing ∧ s.ringState r = 1 ∧ s.portState (eastPort r) < 3 ∧ s.portState (westPort r) < 3 then
    (s.bypass r).raiseBit Reg.argSticky 9 else s)
def execRetrain (port : Port) (p : Nat) (val : Word) (s : State) : Host.Outcome State Fault Refusal :=
  .next (if p < 4 then s.hostReg port (Reg.argPortCtl p) (fun t => t.writePortCtl p (val ||| 0x80000000) 0xFFFFFFFF) else s)
def execArgAccept (port : Port) (val : Word) (s : State) : Host.Outcome State Fault Refusal :=
  .next (s.hostReg port Reg.argAccept (fun t => t.writeAccept val))

/-- ARG reads class 8, the roster cache (R305). -/
def State.loadCache (s : State) : State :=
  let r := s.loadRecord 0 8
  { r.2 with arg := { r.2.arg with cache := r.1.getD r.2.arg.cache, read := true } }

/-- The cache is read within 1 ms of TILE0 and RING both up (R305). -/
def execRosterCacheLoad (s : State) : Host.Outcome State Fault Refusal :=
  .next (if s.up (domTile 0) ∧ s.up domRing then s.loadCache else s)

/-- TNS has reached the next frame start (R145); members send STATUS once per frame (R337), in Winter too, where ARG alone counts the
frames (R343, M14; log 121). -/
def execAirFrameBoundary (s : State) : Host.Outcome State Fault Refusal :=
  .next (if s.up domCob && s.aligned && 10000000 ≤ (s.tns - s.reg Reg.tlpAirFrameTns).toNat then
    (if s.up domRing then s.frameBoundary.sendStatus else s.frameBoundary)
    else if s.season = 2 ∧ s.up domRing then s.sendStatus else s)

/-- A slot boundary of carrier c: the start of the slot in progress (R149), with the ring decision that waits for it. At a silent one
only the pattern entry is read, as the symbols still run (R147, R151). -/
def execSlotBoundary (c : Nat) (s : State) : Host.Outcome State Fault Refusal :=
  let x := s.frameStart + symStart (s.mu c) (14 * s.slotNow c)
  .next (if c < 2 ∧ s.up domCob ∧ s.carOn c then
      (if s.silentAt x then s.readPattern c
       else (if s.up domRing ∧ s.carPick false = some c then s.landPlan x else s).slotStart c)
    else s)

end Sys2Proof.Machine
end

