-- ==== Sys2Proof/Machine/Serial.lean ====
section
/-! DEFINITION. The serial lanes (16_serial_lanes.md): lane readiness, lane loss and narrowing of ring ports, figure of merit, test
patterns, loopback and error injection. What a lane loss does to a fronthaul port is in Machine/Fhp.lean. -/
namespace Sys2Proof.Machine

/-- Port bit q of a lane: 0-3 the ring ports, 4-7 FH0-FH3 (R345). -/
def laneQ (l : Nat) : Nat := if l < 64 then l / 16 else 4 + (l - 64) / 4

/-- The fronthaul port of lane `l`. -/
def lanePort (l : Nat) : Nat := (l - 64) / 4

def laneUp (s : State) (l : Nat) : Bool := s.up (if l < 64 then domRing else domFh)

/-- The port of a lane is down (R355): a ring port in state DOWN, a fronthaul port held down by EN = 0 (R360). -/
def State.lanePortDown (s : State) (l : Nat) : Bool :=
  if l < 64 then s.portState (l / 16) == 0 else !s.flag (Reg.fhpPortCtl (lanePort l)) 31

/-- The port of a lane is in use (R346). -/
def State.laneUsed (s : State) (l : Nat) : Bool :=
  if l < 64 then s.hold (l / 32) else s.flag (Reg.fhpPortCtl (lanePort l)) 31

/-- A pattern code is listed for the lane (R355). -/
def State.patternOk (s : State) (l code : Nat) : Bool :=
  let pam4 := 64 ≤ l && [2, 4, 5].contains (s.fld (Reg.fhpPortCtl (lanePort l)) 26 24)
  code ≤ 4 || (code ≤ 7 && pam4) || code == 8 || (code == 9 && l < 64)

/-- A write to `LANE[L].CTL` (R355-R357). -/
def State.writeLaneCtl (s : State) (l : Nat) (val mask : Word) : State :=
  let off := Reg.slnLaneCtl l
  let w := (s.reg off &&& ~~~ mask) ||| (val &&& mask)
  if (bit w 31 || bits w 30 29 != 0) && !s.lanePortDown l then (s.bump Reg.slnCntBadw).raiseBit Reg.slnSticky 17
  else
    let m1 := if s.patternOk l (bits w 27 24) then mask else mask &&& 0xF0FFFFFF
    let m2 := if s.patternOk l (bits w 23 20) then m1 else m1 &&& 0xFF0FFFFF
    let s1 := s.writeFields off val m2
    let s2 := if s1.flag off 31 then s1 else s1.setFlag (Reg.slnLaneStatus l) 27 false
    if bit (val &&& mask) 8 then s2.send (.inject l) else s2

/-- A write to `LANE[L].TXEQ` (R358): taps only with MANUAL, and only where they add up to at most 63. -/
def State.writeTxeq (s : State) (l : Nat) (val mask : Word) : State :=
  let off := Reg.slnLaneTxeq l
  let w := (s.reg off &&& ~~~ mask) ||| (val &&& mask)
  if !bit w 31 then s.writeFields off val (mask &&& 0x80000000)
  else if 63 < bits w 3 0 + bits w 13 8 + bits w 20 16 then s
  else if bits w 13 8 < 24 then s.writeFields off val (mask &&& 0xFFFFC0FF)
  else s.writeFields off val mask

/-- A write to `LANE[L].BITS`: 0 to the low word clears both (R358). -/
def State.writeLaneBits (s : State) (l : Nat) (val mask : Word) : State :=
  if mask = 0xFFFFFFFF ∧ val = 0 then (s.setReg (Reg.slnLaneBitsLo l) 0).setReg (Reg.slnLaneBitsHi l) 0 else s

/-- The LOL indications of a lane (R350, R352). -/
def State.lolMarks (s : State) (l cause : Nat) : State :=
  let s1 := s.setFld (Reg.slnLaneStatus l) (31 - cause) 29 0
  let s2 := (s1.setFlag (Reg.slnLaneLsticky l) 0 true).bump (Reg.slnLaneLolCnt l)
  s2.raiseBit Reg.slnSticky (laneQ l)

/-- Lanes of a ring port in use that are still locked. -/
def State.lockedLanes (s : State) (p : Nat) : Word :=
  maskOfList ((List.range 16).filter (fun i => bit (s.reg (Reg.argPortLanes p)) i && s.flag (Reg.slnLaneStatus (16 * p + i)) 29))

/-- A ring port narrows to a mask of lanes and says so, or goes down where no width of 4 or more can be filled (R338, R350); a
mask it has already sent is agreed. -/
def State.narrow (s : State) (p : Nat) (lanes : Word) : State :=
  let keep := keepLanes lanes
  if keep = 0 then s.portDown p
  else if (s.argPort p).keep = keep then s
  else ((s.setArgPort p { s.argPort p with keep := keep }).setPortState p 4).send (.keep p keep.toNat)

/-- A ring lane loses lock; `cause` 0 signal detect, 1 CDR, 2 sync (R350). -/
def State.ringLaneLost (s : State) (l cause : Nat) : State :=
  let p := l / 16
  if s.flag (Reg.slnLaneStatus l) 28 then
    let s1 := s.lolMarks l cause
    if s1.portState p = 3 ∨ s1.portState p = 4 then s1.narrow p (s1.lockedLanes p) else s1
  else s

/-! ## Commands -/

def execLaneReady (lane : Nat) (s : State) : Host.Outcome State Fault Refusal :=
  .next (if lane < 80 ∧ laneUp s lane ∧ s.laneUsed lane ∧ !s.ready.contains lane then
    { s with ready := (s.ready.filter (· < lane)) ++ [lane] ++ s.ready.filter (lane < ·) } else s)

def execKeepNotice (p mask : Nat) (s : State) : Host.Outcome State Fault Refusal :=
  .next (if p < 4 ∧ s.up domRing ∧ (s.portState p = 3 ∨ s.portState p = 4) then
    s.narrow p (s.lockedLanes p &&& BitVec.ofNat 32 mask) else s)

/-- Realignment on the agreed lanes completes (R338, R350). -/
def execRealignDone (p : Nat) (s : State) : Host.Outcome State Fault Refusal :=
  .next (if p < 4 ∧ s.up domRing ∧ s.portState p = 4 ∧ (s.argPort p).keep ≠ 0 then
      let q := s.argPort p
      let rate := s.fld (Reg.argPortStatus p) 27 26
      let s1 := ((s.setArgPort p { q with keep := 0 }).portUp p rate q.keep).raiseBit Reg.argSticky 0
      (s1.castLane p).noteLink (ringOf p) (s1.pos (ringOf p)) p (linkMbps rate (popCount q.keep / 4 - 1)) s1.tns
    else s)

/-- The lane runs PAM4: a fronthaul lane at a speed of R359 that does. -/
def State.pam4 (s : State) (l : Nat) : Bool := 64 ≤ l && [2, 4, 5].contains (s.fld (Reg.fhpPortStatus (lanePort l)) 26 24)

/-- FOM measured again from the eye (R353, R354), with the invalid code groups or corrected symbols since (R348, R352). -/
def execFomMeasure (lane eh ew errs : Nat) (s : State) : Host.Outcome State Fault Refusal :=
  .next (if lane < 80 ∧ laneUp s lane ∧ s.flag (Reg.slnLaneStatus lane) 28 then
      let f := fomOf (s.pam4 lane) eh ew
      let s1 := (s.setFld (Reg.slnLaneStatus lane) 23 16 f).count (Reg.slnLaneCodeErr lane) 31 0 errs
      if f < s1.fld Reg.slnFom 15 8 then
        (s1.setFlag (Reg.slnLaneLsticky lane) 2 true).raiseBit Reg.slnSticky (8 + laneQ lane) else s1
    else s)

def execTestWrite (port : Port) (lane : Nat) (val : Word) (s : State) : Host.Outcome State Fault Refusal :=
  .next (if lane < 80 then s.hostReg port (Reg.slnLaneCtl lane) (fun t => t.writeLaneCtl lane val 0xFFFFFFFF) else s)
def execInj (port : Port) (lane : Nat) (val : Word) (s : State) : Host.Outcome State Fault Refusal :=
  .next (if lane < 80 then
    s.hostReg port (Reg.slnLaneCtl lane) (fun t => t.writeLaneCtl lane (val ||| 0x100) 0xFFFFFFFF) else s)

/-- 2^(k + 9) bits have passed with INJ_RATE = k (R357). -/
def execInjRate (lane : Nat) (s : State) : Host.Outcome State Fault Refusal :=
  .next (if lane < 80 ∧ laneUp s lane ∧ s.fld (Reg.slnLaneCtl lane) 7 4 ≠ 0 then s.send (.inject lane) else s)

/-- The checker locks, or loses lock after `errs` errored bits of `nbits` checked ones (R355). -/
def execPatLock (lane : Nat) (lock : Bool) (errs nbits : Nat) (s : State) : Host.Outcome State Fault Refusal :=
  .next (if lane < 80 ∧ laneUp s lane ∧ s.flag (Reg.slnLaneCtl lane) 31 then
      let was := s.flag (Reg.slnLaneStatus lane) 27
      let n := (s.reg (Reg.slnLaneBitsHi lane)).toNat * 2 ^ 32 + (s.reg (Reg.slnLaneBitsLo lane)).toNat
      let m := satAdd 64 n nbits
      let s1 := if was then ((s.count (Reg.slnLaneErr lane) 31 0 errs).setReg (Reg.slnLaneBitsLo lane)
        (BitVec.ofNat 32 m)).setReg (Reg.slnLaneBitsHi lane) (BitVec.ofNat 32 (m / 2 ^ 32)) else s
      let s2 := s1.setFlag (Reg.slnLaneStatus lane) 27 lock
      if was ∧ !lock then (s2.setFlag (Reg.slnLaneLsticky lane) 1 true).raiseBit Reg.slnSticky 16 else s2
    else s)

end Sys2Proof.Machine
end

