-- ==== Sys2Proof/Machine/Life.lean ====
section
/-! DEFINITION. The life of a timeline thread (R52-R54, R73-R80): start, stop, fault, reset, votes; and what a write to a memory
means to the instruction memory and to a running verification. -/
namespace Sys2Proof.Machine

/-- The register block of THi (R83). -/
def thBase (i : Nat) : Nat := 0x102000 + 0x200 * i

/-- Registers that hold the state of R52: PC, STAT and the register file. -/
def isThState (i off : Nat) : Bool :=
  off == thBase i + 4 || off == thBase i + 12 || (thBase i + 0x40 ≤ off && off < thBase i + 0x200)

/-- All state of R52 set to 0. -/
def State.zeroThread (s : State) (i : Nat) : State := { s with regs := skeep s.regs (fun off => !isThState i off) }

def State.setRun (s : State) (i : Nat) (b : Bool) : State := s.setFlag (Reg.tlpThCtl i) 0 b

def State.pc (s : State) (i : Nat) : Nat := s.fld (Reg.tlpThPc i) 16 0
def State.setPc (s : State) (i v : Nat) : State := s.setFld (Reg.tlpThPc i) 16 0 v

/-- A thread starts at its PC: FAULT clears, the watchdog restarts (R77, R78). -/
def State.startThread (s : State) (i : Nat) : State :=
  let t := s.thread i
  (((s.setReg (Reg.tlpThFault i) 0).setThState i stReady).setRun i true).setThread i
    { t with hit := false, stalled := false, stepping := false, haltReq := false, skipBp := false, reading := false, wdt := 0 }

/-- A thread leaves DEBUG: it does not stop at the same breakpoint again (R79). -/
def State.resumeThread (s : State) (i : Nat) : State :=
  ((s.setThState i stReady).setRun i true).setThread i { s.thread i with hit := false, stepping := false, skipBp := true, reading := false }

/-- A thread enters DEBUG (R79); `byBp` when a breakpoint stopped it. -/
def State.debugStop (s : State) (i : Nat) (byBp : Bool) : State :=
  let s1 := ((s.setThState i stDebug).setRun i false).setThread i
    { s.thread i with hit := false, stepping := false, haltReq := false, stalled := false, reading := false }
  let s2 := if byBp then s1.raiseBit Reg.tlpSticky 22 else s1
  s2.traceTh i (5 * 2 ^ 60 + i * 2 ^ 56 + s2.pc i)

/-- A thread faults before its instruction takes effect (R77). -/
def State.faultThread (s : State) (i cause : Nat) : State :=
  let p := s.pc i
  let s1 := ((s.setThState i stFault).setRun i false).setThread i
    { s.thread i with hit := false, stepping := false, haltReq := false, stalled := false, reading := false }
  let s2 := (s1.setReg (Reg.tlpThFault i) (BitVec.ofNat 32 (cause * 2 ^ 28 + p))).raiseBit Reg.tlpSticky i
  let s3 := s2.traceTh i (4 * 2 ^ 60 + i * 2 ^ 56 + cause * 2 ^ 39 + p)
  if s3.flag (Reg.tlpThCtl i) 3 then s3.cancelThread i else s3

/-- Causes of R77. -/
def faultIllegal : Nat := 1
def faultAddr : Nat := 2
def faultAlign : Nat := 3
def faultUnverified : Nat := 4
def faultEcc : Nat := 5
def faultStack : Nat := 6
def faultWatchdog : Nat := 7

/-- The votes of a thread are withdrawn (R73). -/
def State.dropThreadVotes (s : State) (i : Nat) : State :=
  let s1 := domOrder.foldl (fun t d => t.setVotes d (putBit (t.vote d) (8 + i) false)) s
  (s1.setReg (Reg.pwrDvfsVote (8 + i)) 0).powerEval

/-- A thread reset (R77). -/
def State.resetThread (s : State) (i : Nat) : State :=
  let s1 := ((((s.zeroThread i).setThState i stHalted).setRun i false).setThread i { wdt := (s.thread i).wdt }).dropThreadVotes i
  s1.cancelThread i

/-- A thread starts at `pc` from its reset register values (R76, R471). -/
def State.freshStart (s : State) (i pc : Nat) : State := ((s.zeroThread i).setPc i pc).startThread i

/-- `n` bytes at `a` were written: a region of the instruction memory written loses its verified bit (R56), and a running
verification that watches the range has changed data (R471). -/
def State.noteWrite (s : State) (a n : Nat) : State :=
  let s1 := if imBase < a + n ∧ a < dmBase then
      s.setReg Reg.tlpImVerified (s.reg Reg.tlpImVerified &&& ~~~
        maskOfList ((List.range 16).filter (fun r => imBase + 0x10000 * r < a + n && a < imBase + 0x10000 * (r + 1))))
    else s
  if s1.sec.watch.any (fun w => w.1 < a + n && a < w.1 + w.2) then { s1 with sec := { s1.sec with changed := true } } else s1

/-- A write into a memory window by the host or the DMA engine (R29, R56, R391). -/
def State.windowWrite (s : State) (off : Nat) (data : List (Option Byte)) : State :=
  (s.writeMem off data).noteWrite off data.length

end Sys2Proof.Machine
end

