-- ==== Sys2Proof/Machine/Sha.lean ====
section
/-! DEFINITION. SHAKE256 (FIPS 202), the hash of images, keys and fingerprints (R470, R471, R476, R479). The tables of FIPS 202 are
not written out: the rotation of a lane and its new place come from the walk that defines them, the round constants from their
shift register. -/
namespace Sys2Proof.Machine

/-! ## The permutation -/

/-- The walk over the lanes other than (0, 0): step `t` has come to lane `x + 5 y`, turns it by (t + 1)(t + 2) / 2 and takes it to
lane `y + 5 (2 x + 3 y)`, where the next step goes on. Answers (from, to, turn). -/
def keccakWalk : Nat → Nat → List (Nat × Nat × Nat)
  | 0, _ => []
  | left + 1, lane =>
    let t := 23 - left
    let dst := lane / 5 + 5 * ((2 * (lane % 5) + 3 * (lane / 5)) % 5)
    (lane, dst, (t + 1) * (t + 2) / 2 % 64) :: keccakWalk left dst

/-- The shift register of the round constants after one step: x^8 + x^6 + x^5 + x^4 + 1. -/
def lfsrNext (r : Nat) : Nat := if r < 128 then 2 * r else (2 * r - 256) ^^^ 0x71

/-- Seven bits of the register land at places 2^j - 1 of a constant; the constant, and the register after them. -/
def constantFrom : Nat → Nat → Nat × Nat
  | 0, r => (0, r)
  | left + 1, r =>
    let rest := constantFrom left (lfsrNext r)
    (r % 2 * 2 ^ (2 ^ (6 - left) - 1) + rest.1, rest.2)

/-- XOR of the entries of a list. -/
def xorAll (l : List (BitVec 64)) : BitVec 64 := l.foldl (· ^^^ ·) 0

/-- The lanes are kept as a table from place `x + 5 y` to value. -/
def lane (a : List (Nat × BitVec 64)) (i : Nat) : BitVec 64 := (alook a i).getD 0

/-- Each lane takes in the parity of the column before it and of the one after it, turned by one place. -/
def mixColumns (a : List (Nat × BitVec 64)) : List (Nat × BitVec 64) :=
  let parity := (List.range 5).map (fun (x : Nat) => (x, xorAll ((a.filter (fun p => p.1 % 5 == x)).map (·.2))))
  a.map (fun p => (p.1, p.2 ^^^ lane parity ((p.1 + 4) % 5) ^^^ (lane parity ((p.1 + 1) % 5)).rotateLeft 1))

/-- Lanes turned and moved along the walk. -/
def moveLanes (a : List (Nat × BitVec 64)) : List (Nat × BitVec 64) :=
  (0, lane a 0) :: (keccakWalk 24 1).map (fun w => (w.2.1, (lane a w.1).rotateLeft w.2.2))

/-- Rows are mixed: a lane is inverted where the next is 0 and the one after it is 1. -/
def mixRows (a : List (Nat × BitVec 64)) : List (Nat × BitVec 64) :=
  let right (p d : Nat) : BitVec 64 := lane a (p / 5 * 5 + (p + d) % 5)
  a.map (fun p => (p.1, p.2 ^^^ (~~~ right p.1 1 &&& right p.1 2)))

/-- `n` rounds, the shift register at `r` before the first: the constant of a round goes into lane 0. -/
def keccakRounds : Nat → Nat → List (Nat × BitVec 64) → List (Nat × BitVec 64)
  | 0, _, a => a
  | n + 1, r, a =>
    let c := constantFrom 7 r
    let b := mixRows (moveLanes (mixColumns a))
    keccakRounds n c.2 (aput b 0 (lane b 0 ^^^ BitVec.ofNat 64 c.1))

/-! ## The sponge: 136 bytes a block, 32 bytes of output -/

/-- Blocks of a padded message go into the lanes one after the other, the first byte lowest. -/
def spongeIn : Nat → List Byte → List (Nat × BitVec 64) → List (Nat × BitVec 64)
  | 0, _, a => a
  | n + 1, m, a =>
    spongeIn n (m.drop 136)
      (keccakRounds 24 1 (a.map (fun p => (p.1, p.2 ^^^ BitVec.ofNat 64 (leNat (((m.take 136).drop (8 * p.1)).take 8))))))

/-- The first 32 bytes of SHAKE256: the message takes the four suffix bits 1111 and a 1 at each end of the padding. -/
def shake256 (m : List Byte) : List Byte :=
  let gap := 136 - m.length % 136
  let pad := (List.range gap).map (fun (i : Nat) =>
    BitVec.ofNat 8 ((if i = 0 then 0x1F else 0) + (if i + 1 = gap then 0x80 else 0)))
  let out := spongeIn (m.length / 136 + 1) (m ++ pad) ((List.range 25).map (fun (p : Nat) => (p, 0)))
  (((List.range 4).map (fun (p : Nat) => (lane out p).toNat)).flatMap
    (fun v => (List.range 8).map (fun (j : Nat) => BitVec.ofNat 8 (v / 256 ^ j))))

end Sys2Proof.Machine
end

