-- ==== Sys2Proof/Machine/Sec.lean ====
section
/-! DEFINITION. Reset, boot, identity and the OTP (25_reset_boot_identity.md, R466-R485). -/
namespace Sys2Proof.Machine

/-! ## OTP (R481, R482) -/

/-- Words written into the shadows of the OTP. -/
def State.setShadow (s : State) (w : Nat) (v : Word) : State := { s with nvm := sset emptyWord s.nvm (otpShadowKey w) v }

/-- The OTP minimum: 1 bits in the SVN fuses (R471). -/
def State.otpSvn (s : State) : Nat := popCount (s.otpShadow 0x31) + popCount (s.otpShadow 0x32)

/-- `SEC.STATUS`: BOOTSEL and the OTP minimum beside the stored fields. -/
def State.secStatusView (s : State) : Word :=
  setBits (setBits (s.reg Reg.secStatus) 29 28 s.pins.bootSel) 15 8 s.otpSvn

/-- `SEC.OTP_DATA` reads the shadow of the word at ADDR; the seed reads 0 (R481). -/
def State.otpDataView (s : State) : Word :=
  let w := s.fld Reg.secOtpAddr 10 0
  if w < 8 then 0 else s.otpShadow w

/-- A word that may be programmed by OTP_CTL (R481). -/
def State.otpAllowed (s : State) (w : Nat) : Bool :=
  if w < 8 ∨ (0x10 ≤ w ∧ w < 0x30) ∨ (0x40 ≤ w ∧ w < 0x100) then !s.otpLock 0
  else if w = 0x30 ∨ w = 0x33 then true
  else if 0x100 ≤ w ∧ w < 0x700 then !s.otpLock 1
  else false

/-- A request SEC discards (R480). -/
def State.secRefuse (s : State) : State := (s.bump Reg.secCntBadw).raiseBit Reg.secSticky 4

def State.secBusy (s : State) : Bool := s.flag Reg.secStatus 31

/-- A write to `SEC.OTP_CTL` (R482). -/
def State.writeOtpCtl (s : State) (val mask : Word) : State :=
  let v := val &&& mask
  if bit v 31 ∧ bits v 15 0 = 0x4F54 then
    let w := s.fld Reg.secOtpAddr 10 0
    if s.otpAllowed w ∧ s.sec.prog.isNone then { s with sec := { s.sec with prog := some (w, s.reg Reg.secOtpData) } }
    else s.secRefuse
  else s

/-- The figures that rest on the regulatory table follow it (R483). -/
def State.regulatoryChanged (s : State) : State :=
  if s.up domCob && s.up domCrm then
    (List.range 8).foldl (fun t k => if t.up (domTile (k / 2)) then t.newFrequency k else t) s
  else s

/-- An OTP word is blown: bits already blown stay blown (R482). -/
def State.blow (s : State) (w : Nat) (v : Word) : State :=
  { s with nvm := sset emptyWord s.nvm (otpKey w) (sget emptyWord s.nvm (otpKey w) ||| v),
           nvmEcc := sset (fun _ => Ecc.good) s.nvmEcc (otpKey w) .good }

/-- A word whose shadow follows its programming (R482). -/
def shadowed (w : Nat) : Bool := (0x10 ≤ w && w < 0x34) || (0x100 ≤ w && w < 0x700)

/-- A programmed word reaches its shadow. -/
def State.reshadow (s : State) (w : Nat) : State :=
  if shadowed w then
    let s1 := s.setShadow w (sget emptyWord s.nvm (otpKey w))
    if 0x100 ≤ w then s1.regulatoryChanged else s1
  else s

/-- A word as sensed (R481): all ones when it is uncorrectable. -/
def State.senseWord (s : State) (w : Nat) : State :=
  match sget (fun _ => Ecc.good) s.nvmEcc (otpKey w) with
  | .double => let s1 := s.setShadow w 0xFFFFFFFF
               { s1 with sec := { s1.sec with otpBad := true } }
  | .single b => s.setShadow w (eccFix (sget emptyWord s.nvm (otpKey w)) b)
  | .good => s.setShadow w (sget emptyWord s.nvm (otpKey w))

/-! ## Containers (R470, R471) -/

/-- SEC.BUF (R485) and the sizes of header and signature. -/
def secBuf : Nat := 0x42000
def headLen : Nat := 512
def payloadAt : Nat := 30304

/-- A word as SEC reads it (R47, R48): corrected, and 0 where it is poisoned. -/
def State.cleanWord (s : State) (a : Nat) : Word := (s.readDev a).1

/-- Bytes of memory as SEC reads them. -/
def State.bytesAt (s : State) (a n : Nat) : List Byte :=
  ((wordsOf a n).flatMap (fun w => wordBytes (s.cleanWord w))).drop (a % 4) |>.take n

/-- Word `i` of the header in SEC.BUF. -/
def State.hdr (s : State) (i : Nat) : Word := s.cleanWord (secBuf + 4 * i)

/-- Words read: corrected, or counted as uncorrectable (R47). -/
def State.readOver (s : State) (a n : Nat) : State := (wordsOf a n).foldl (fun t w => (t.readDev w).2) s

/-- The load records of the header: destination and length. -/
def State.records (s : State) : List (Nat × Nat) :=
  (List.range (min 16 (bits (s.hdr 1) 7 0))).map (fun r => ((s.hdr (48 + 2 * r)).toNat, (s.hdr (49 + 2 * r)).toNat))

/-- A record lies where R470 allows. -/
def recordOk (r : Nat × Nat) : Bool :=
  (imBase ≤ r.1 && r.1 + r.2 ≤ imBase + 0x100000 && r.1 % 0x10000 == 0 && r.2 % 0x10000 == 0)
    || (dmBase ≤ r.1 && r.1 + r.2 ≤ dmBase + 0x200000 && r.1 % 4 == 0 && r.2 % 4 == 0)

/-- No two ranges of a list overlap. -/
def disjoint : List (Nat × Nat) → Bool
  | [] => true
  | r :: rs => rs.all (fun q => r.1 + r.2 ≤ q.1 || q.1 + q.2 ≤ r.1) && disjoint rs

/-- The FORMAT check (R470, R471). -/
def State.formatOk (s : State) : Bool :=
  let n := bits (s.hdr 1) 7 0
  s.hdr 0 == 0x5A574649 && bits (s.hdr 1) 31 24 == 1 && bits (s.hdr 1) 23 16 ≤ 3 && bits (s.hdr 1) 15 8 ≤ 64
    && 1 ≤ n && n ≤ 16 && bits (s.hdr 2) 31 1 == 0
    && (s.hdr 3).toNat == (s.records.map (·.2)).foldl (· + ·) 0
    && ((List.range 128).all (fun i =>
        (if 28 ≤ i ∧ i < 44 then bits (s.hdr i) 29 17 == 0
         else if (44 ≤ i ∧ i < 48) ∨ 48 + 2 * n ≤ i then s.hdr i == 0 else true)))
    && s.records.all recordOk && disjoint s.records

/-- The OTP hash of a key slot is programmed, not revoked, and that of PK (R471). -/
def State.keyOk (s : State) : Bool :=
  let k := bits (s.hdr 1) 23 16
  let h := (List.range 8).map (fun j => s.otpShadow (0x10 + 8 * k + j))
  let pk := s.bytesAt (secBuf + 48) 64
  h.any (· != 0) && !h.all (· == 0xFFFFFFFF) && !bit (s.otpShadow 0x30) k && (h.flatMap wordBytes) == shake256 pk

/-- The hash over the bytes at the destinations (R471). -/
def State.hashOk (s : State) : Bool :=
  shake256 (s.records.flatMap (fun r => s.bytesAt r.1 r.2)) == s.bytesAt (secBuf + 16) 32

/-- The verification code (R471); `sig` says whether the signature verifies over the header with PK (log 50). -/
def State.verifyCode (s : State) (sig : Bool) : Nat :=
  if !s.formatOk then 1
  else if !s.keyOk then 2
  else if bits (s.hdr 1) 15 8 < s.otpSvn then 3
  else if !sig then 4
  else if !s.hashOk then 5
  else if s.sec.changed then 7 else 0

/-- The words a verification reads: header and signature, and the records once it comes to their hash (R471). -/
def State.verifyReads (s : State) (sig : Bool) : State :=
  let s1 := s.readOver secBuf payloadAt
  if ([0, 5, 7] : List Nat).contains (s.verifyCode sig) then s.records.foldl (fun t r => t.readOver r.1 r.2) s1 else s1

/-- Regions covered by the instruction-memory records. -/
def State.coveredRegions (s : State) : Word :=
  maskOfList ((List.range 16).filter (fun r => s.records.any (fun x => x.1 ≤ imBase + 0x10000 * r
    && imBase + 0x10000 * (r + 1) ≤ x.1 + x.2)))

/-- A thread named in START starts (R470, R471). -/
def State.autoStart (s : State) (i : Nat) : State :=
  let w := s.hdr (28 + i)
  if bit w 31 then
    let s1 := if bit w 30 then s.setReg (Reg.tlpThWakePc i) (BitVec.ofNat 32 (2 ^ 31 + bits w 16 0)) else s
    s1.freshStart i (bits w 16 0)
  else s

def State.setBootState (s : State) (v : Nat) : State := s.setFld Reg.secStatus 27 24 v
def State.bootState (s : State) : Nat := s.fld Reg.secStatus 27 24

/-- A verified image is taken (R471). -/
def State.imageOk (s : State) : State :=
  let s1 := s.setReg Reg.tlpImVerified (s.reg Reg.tlpImVerified ||| s.coveredRegions)
  let s2 := ((s1.setFld Reg.secStatus 23 16 (bits (s1.hdr 1) 15 8)).setFld Reg.secStatus 3 0 0).setBootState 3
  let s3 : State := { s2 with sec := { s2.sec with ok := true, hash := shake256 (s2.bytesAt secBuf headLen), source := 0 } }
  if bit (s3.hdr 2) 0 then (List.range 16).foldl State.autoStart s3 else s3

/-- What boot does next when a source gives no image (R474, R475): slot B after slot A, then WAIT_HOST; ring boot takes the next
complete send. -/
def State.bootNext (s : State) : State :=
  match s.sec.source with
  | 1 => let t := s.setBootState 1
         { t with sec := { t.sec with source := 2 } }
  | 2 =>
    let t := (s.setBootState (if s.otpLock 5 then 5 else 4)).raiseBit Reg.secSticky 0
    { t with sec := { t.sec with source := 0 } }
  | 3 => let t := s.setBootState 1
         { t with sec := { t.sec with next := none } }
  | _ => s

/-- An image is rejected with a code (R471). -/
def State.imageBad (s : State) (code : Nat) : State :=
  ((s.setFld Reg.secStatus 3 0 code).raiseBit Reg.secSticky 1).bootNext

/-- A verification runs (R471, R473): it watches the ranges of the records. -/
def State.startVerify (s : State) (job : Nat) : State :=
  let s1 := s.setFlag Reg.secStatus 31 true
  let s2 := if job = 3 then s1.setBootState 2 else s1
  { s2 with sec := { s2.sec with job := job, changed := false, watch := s2.records } }

def State.endJob (s : State) : State :=
  let s1 := s.setFlag Reg.secStatus 31 false
  { s1 with sec := { s1.sec with job := 0, watch := [], changed := false } }

/-- Container bytes from `o` on are put in place (R470, R473, R475): header and signature in SEC.BUF, the payload at its
destinations as the records direct. -/
def State.placeBytes (s : State) (o : Nat) (bs : List Byte) : State :=
  let headPart := bs.take (payloadAt - o)
  let s1 := s.putBytes (secBuf + o) (if o < payloadAt then headPart else [])
  let rest := if o < payloadAt then bs.drop (payloadAt - o) else bs
  let at0 := (if o < payloadAt then payloadAt else o) - payloadAt
  if s1.formatOk then
    (s1.records.foldl (fun (acc : State × Nat) r =>
      let lo := max at0 acc.2
      let hi := min (at0 + rest.length) (acc.2 + r.2)
      let t := if lo < hi then
          let a := r.1 + (lo - acc.2)
          let d := (rest.drop (lo - at0)).take (hi - lo)
          (((wordsOf a d.length).foldl (fun (u : State) w => u.setEcc w .good) (acc.1.putBytes a d)).noteWrite a d.length)
        else acc.1
      (t, acc.2 + r.2)) (s1, 0)).1
  else s1

/-! ## Boot (R468, R469, R474, R475) -/

/-- Boot begins once COB is up. -/
def State.bootBegin (s : State) : State :=
  let src := if s.pins.bootSel = 3 then 0 else s.pins.bootSel
  let s0 : State := { s with sec := { s.sec with bootDue := false, otpBad := false } }
  let s1 := if s.sec.otpBad then s0.raiseBit Reg.secSticky 3 else s0
  let off := s1.otpLock (5 + src)
  if src = 0 ∨ off then
    let s2 := if off then s1.raiseBit Reg.secSticky 0 else s1
    s2.setBootState (if s2.otpLock 5 then 5 else 4)
  else
    let s2 := s1.setBootState 1
    { s2 with sec := { s2.sec with source := if src = 1 then 1 else 3, next := none } }

/-- Ring boot presets the role and enters the ring as soon as RING is up (R475). -/
def State.ringBoot (s : State) : State :=
  if s.sec.source = 3 ∧ s.up domRing ∧ !s.hold 0 then (s.setFld (Reg.argRingCtl 0) 17 16 1).enterRing 0 else s

/-- What a domain that has come up means to boot. -/
def State.bootHook (s : State) : State :=
  (if s.sec.bootDue ∧ s.up domCob then s.bootBegin else s).ringBoot

/-! ## SEC requests (R472, R473, R475, R479, R480) -/

/-- Fuses are blown from the lowest unblown bit until `n` more are blown (R472). -/
def State.blowSvn (s : State) : Nat → State
  | 0 => s
  | n + 1 =>
    let t := s.blowSvn n
    match (List.range 64).find? (fun i => !bit (sget emptyWord t.nvm (otpKey (0x31 + i / 32))) (i % 32)) with
    | some i => (t.blow (0x31 + i / 32) (BitVec.ofNat 32 (2 ^ (i % 32)))).reshadow (0x31 + i / 32)
    | none => t

/-- The head sends the container of RB_ADDR and RB_LEN as image cells, both ways (R475). -/
def State.ringSend (s : State) : State :=
  let base := capBase + s.fld Reg.secRbAddr 24 4 * 16
  let len := (s.reg Reg.secRbLen).toNat
  [0, 1].foldl (fun t r =>
    if t.up domRing && t.role r == 2 then
      (List.range ((len + 1023) / 1024)).foldl (fun (v : State) j =>
        let u := v.readOver (base + 1024 * j) (min 1024 (len - 1024 * j))
        let bs := v.bytesAt (base + 1024 * j) (min 1024 (len - 1024 * j))
        let ws := BitVec.ofNat 32 (1024 * j) :: packWords bs
        let c (west : Bool) := mkCell 6 r west false 2 0 (u.pos r) 0 (w3Of 0 (4 + bs.length) 0 false) ws
        (u.sendCell (eastPort r) (c false)).sendCell (westPort r) (c true)) t
    else t) s

/-- A write to `SEC.CTL`. A verification for the host with host boot disabled is discarded (R468, log 51). -/
def State.writeSecCtl (s : State) (val mask : Word) : State :=
  let v := val &&& mask
  let s1 := if bit v 31 then (if s.secBusy || s.otpLock 5 then s.secRefuse else s.startVerify 1) else s
  let s2 := if bit v 30 then
      (if s1.secBusy || !s1.flag Reg.secStatus 30 then s1.secRefuse
       else let t := s1.setFlag Reg.secStatus 31 true
            { t with sec := { t.sec with job := 2 } })
    else s1
  let s3 := if bit v 29 then
      (if s2.secBusy || !s2.sec.ok then s2.secRefuse else s2.blowSvn (s2.fld Reg.secStatus 23 16 - s2.otpSvn)) else s2
  if bit v 28 then (if s3.secBusy then s3.secRefuse else s3.ringSend) else s3

/-- The report of R479. -/
def State.report (s : State) : List Word :=
  [0x5A574154, 0x01000100] ++ (List.range 8).map (fun j => s.reg (Reg.secAttNonce j)) ++ [s.reg Reg.glbId]
    ++ (List.range 8).map (fun j => s.reg (Reg.secFp j))
    ++ (if s.sec.hash = [] then List.replicate 8 0 else packWords s.sec.hash)
    ++ [BitVec.ofNat 32 (s.fld Reg.secStatus 23 16 * 2 ^ 24 + s.otpSvn * 2 ^ 16 + s.bootState), s.otpShadow 0x33,
        s.reg Reg.tlpImVerified, s.tns, s.reg Reg.tlpAirAfc, s.reg Reg.glbResetCause] ++ List.replicate 31 0

/-! ## Resets (R466) -/

/-- An interrupted store leaves some words written and the one in progress old, uncorrectable or complete (R306). -/
def State.spoilStore (s : State) (key at0 : Nat) (ws : List Word) : State :=
  let f := s.takeFree
  let g := f.2.takeFree
  let k := f.1.toNat % max 1 ws.length
  let t := key / 16
  let s1 := g.2.putNvms t at0 (ws.take k)
  match g.1.toNat % 3 with
  | 0 => s1
  | 1 => { s1 with nvmEcc := sset (fun _ => Ecc.good) s1.nvmEcc (nvmKey t (at0 + k)) .double }
  | _ => s1.putNvm t (at0 + k) ((ws[k]?).getD 0)

def State.spoilStores (s : State) : State := s.jrn.run.foldl (fun t p => t.spoilStore p.1 p.2.1 p.2.2) s

/-- A word whose programming a reset cuts off has some of its bits blown (log 146). -/
def State.spoilProgram (s : State) : State :=
  match s.sec.prog with
  | none => s
  | some (w, v) => let f := s.takeFree
                   f.2.blow w (v &&& f.1)

/-- What survives a reset of the whole device: the commands that wait, eMRAM and fuses, the trace of outputs, the free values
and the levels on the pins. -/
def State.wholeReset (s0 : State) (cause : Nat) : State :=
  let s := s0.spoilStores.spoilProgram
  ({ State.reset with
      pending := s.pending, nvm := skeep s.nvm (fun k => k < 5 * 2 ^ 18), nvmEcc := s.nvmEcc, out := s.out, free := s.free,
      pins := { s.pins with drain := 0, lnaByp := 0, ringHold := 0 } }).setReg Reg.glbResetCause (BitVec.ofNat 32 cause)

/-- A device reset (R466): HST and the HOST entries of PWR are kept. -/
def State.deviceReset (s : State) (bootSel : Nat) : State :=
  let t := s.wholeReset 3
  let keep (off : Nat) : Bool := 0x110000 ≤ off && off < 0x120000
  let t1 : State := { t with
    regs := skeep s.regs keep, force := skeep s.force keep, msixEn := s.msixEn, d3 := s.d3, boot := .sensing,
    pins := { t.pins with bootSel := bootSel % 4 }, pwr := { t.pwr with keepHost := true } }
  let t2 := (t1.setReg Reg.glbResetCause 3).setReg (Reg.pwrDomVote 10) (s.vote domHost &&& 3)
  let t3 := (t2.setReg (Reg.pwrDomHold 10) (s.reg (Reg.pwrDomHold 10))).setReg (Reg.pwrDomStatus 10) (s.reg (Reg.pwrDomStatus 10))
  t3.powerEval

/-- A write to `GLB.RESET_CTL` (R466): while an OTP word programs, the reset waits for it. -/
def State.writeResetCtl (s : State) (val mask : Word) (bootSel : Nat) : State :=
  let v := val &&& mask
  if bit v 31 ∧ bits v 15 0 = 0xC0DE then
    (if s.sec.prog.isSome then { s with sec := { s.sec with resetDue := some bootSel } } else s.deviceReset bootSel)
  else s

/-! ## Commands -/

/-- A step of a domain's sequence completes (R443); boot follows the domains that come up (R469). -/
def execPowerStep (d : Nat) (s : State) : Host.Outcome State Fault Refusal :=
  .next (if isDom d then (s.powerStep d).bootHook else s)

def execPowerOnReset (s : State) : Host.Outcome State Fault Refusal := .next (s.wholeReset 1)
def execPinReset (s : State) : Host.Outcome State Fault Refusal := .next (s.wholeReset 2)

/-- RESET_N rises or a power-on reset ends: BOOTSEL and ADDR are sampled (R466, R468). -/
def execResetRelease (bootSel addr : Nat) (s : State) : Host.Outcome State Fault Refusal :=
  .next (if s.boot = .held then
    { s with boot := .released, pins := { s.pins with bootSel := bootSel % 4, addr := addr % 32 } } else s)

def execDeviceReset (port : Port) (val : Word) (bootSel : Nat) (s : State) : Host.Outcome State Fault Refusal :=
  .next (s.hostReg port Reg.glbResetCtl (fun t => t.writeResetCtl val 0xFFFFFFFF bootSel))

/-- The OTP is sensed, 100 µs after release or in a device reset; the sequencer sets bit 1 of the votes of WAKE_SET (R469). -/
def execOtpSense (s : State) : Host.Outcome State Fault Refusal :=
  .next (if s.boot = .released ∨ s.boot = .sensing then
      let s1 := (List.range 2048).foldl State.senseWord s
      let s2 : State := { s1 with boot := .running, sec := { s1.sec with bootDue := true }, pwr := { s1.pwr with keepHost := false } }
      ((setBitsOf (s2.reg Reg.pwrWakeSet &&& 0xFFE) 12).foldl (fun t d => t.setVotes d (putBit (t.vote d) 1 true)) s2).powerEval
    else s)

/-- A QSPI slot has been read (R474): `data` is what the flash returned. -/
def execBootLoadDone (data : List Byte) (s : State) : Host.Outcome State Fault Refusal :=
  .next (if s.up domCob ∧ s.bootState = 1 ∧ !s.secBusy ∧ (s.sec.source = 1 ∨ s.sec.source = 2) then
      if data.length < headLen then s.imageBad 6
      else
        let s1 := s.placeBytes 0 data
        if !s1.formatOk then s1.imageBad 1
        else if data.length < payloadAt + (s1.hdr 3).toNat then s1.imageBad 6
        else s1.startVerify 3
    else s)

def execVerify (port : Port) (val : Word) (s : State) : Host.Outcome State Fault Refusal :=
  .next (s.hostReg port Reg.secCtl (fun t => t.writeSecCtl (val ||| 0x80000000) 0xFFFFFFFF))

def execVerifyDone (sig : Bool) (s : State) : Host.Outcome State Fault Refusal :=
  .next (if s.up domCob ∧ (s.sec.job = 1 ∨ s.sec.job = 3) then
      let code := s.verifyCode sig
      let boot := s.sec.job = 3
      let s1 := (s.verifyReads sig).endJob
      if code = 0 then s1.imageOk
      else if boot then s1.imageBad code
      else (s1.setFld Reg.secStatus 3 0 code).raiseBit Reg.secSticky 1
    else s)

def execSvnCommit (port : Port) (val : Word) (s : State) : Host.Outcome State Fault Refusal :=
  .next (s.hostReg port Reg.secCtl (fun t => t.writeSecCtl (val ||| 0x20000000) 0xFFFFFFFF))
def execRbSend (port : Port) (val : Word) (s : State) : Host.Outcome State Fault Refusal :=
  .next (s.hostReg port Reg.secCtl (fun t => t.writeSecCtl (val ||| 0x10000000) 0xFFFFFFFF))
def execAttest (port : Port) (val : Word) (s : State) : Host.Outcome State Fault Refusal :=
  .next (s.hostReg port Reg.secCtl (fun t => t.writeSecCtl (val ||| 0x40000000) 0xFFFFFFFF))

/-- The report and its signature `sig` are written (R479). -/
def execAttestDone (sig : List Byte) (s : State) : Host.Outcome State Fault Refusal :=
  .next (if s.up domCob ∧ s.sec.job = 2 then
      ((s.putWords secBuf s.report).putBytes (secBuf + 256) (sig.take 49856)).endJob
    else s)

/-- The identity key pair is derived (R476, R477): `pk` is its public key. A blank seed leaves ID_READY at 0. -/
def execIdReady (pk : List Word) (s : State) : Host.Outcome State Fault Refusal :=
  .next (if s.up domCob ∧ s.boot = .running then
      if (List.range 8).all (fun w => s.otpShadow w == 0) then s.raiseBit Reg.secSticky 2
      else
        let ws := (List.range 16).map (fun j => (pk[j]?).getD 0)
        let h := shake256 (ws.flatMap wordBytes)
        let s1 := ws.zipIdx.foldl (fun t p => t.setReg (Reg.secIdPk p.2) p.1) s
        let s2 := (List.range 8).foldl (fun t j =>
          t.setReg (Reg.secFp j) (leWord ((h.drop (4 * j)).take 4).reverse)) s1
        let s3 : State := { s2 with sec := { s2.sec with fp := (List.range 8).map (fun j => s2.reg (Reg.secFp j)) } }
        s3.setFlag Reg.secStatus 30 true
    else s)

def execOtpProgram (port : Port) (val : Word) (s : State) : Host.Outcome State Fault Refusal :=
  .next (s.hostReg port Reg.secOtpCtl (fun t => t.writeOtpCtl (val ||| 0x80000000) 0xFFFFFFFF))

/-- The word has been programmed and read back (R482); a device reset that waited takes effect (R466). -/
def execOtpProgramDone (good : Bool) (s : State) : Host.Outcome State Fault Refusal :=
  .next (match s.sec.prog with
    | none => s
    | some (w, v) =>
      let s0 : State := { s with sec := { s.sec with prog := none } }
      let s1 := if good then s0.blow w v
        else
          let f := s0.takeFree
          let t := f.2.blow w (v &&& f.1)
          if t.up domCob then t.raiseBit Reg.secSticky 3 else t
      let s2 := s1.reshadow w
      match s2.sec.resetDue with
      | some b => s2.deviceReset b
      | none => s2)

/-- A chunk of a container at offset `o` comes to a device in ring boot (R475): a gap ends the attempt with SOURCE, and offset 0
begins a send. A chunk that comes while a job of the host holds SEC.BUF is not taken (R480). -/
def State.takeChunk (s : State) (o : Nat) (bs : List Byte) : State :=
  let s1 := if s.sec.next.any (· != o) then s.imageBad 6 else s
  if s1.secBusy then s1
  else if o = 0 ∨ s1.sec.next = some o then
    let n := o + bs.length
    let v := s1.placeBytes o bs
    let v1 : State := { v with sec := { v.sec with next := some n } }
    if headLen ≤ n ∧ !v1.formatOk then v1.imageBad 1
    else if payloadAt + (v1.hdr 3).toNat ≤ n ∧ payloadAt ≤ n then v1.startVerify 3 else v1
  else s1

/-- An image cell (R475): a device in ring boot writes it, and every device passes it on along its arc. -/
def execImageCell (p : Nat) (cell : Cell) (s : State) : Host.Outcome State Fault Refusal :=
  .next (s.onCell p cell 6 (some 2)
    (fun t =>
      let u := t.outward p cell false
      if u.up domCob ∧ u.sec.source = 3 ∧ u.bootState = 1 then
        u.takeChunk (cell.payload.headD 0).toNat (cell.bytes.drop 4)
      else u)
    (fun t _ => t.outward p cell true))

end Sys2Proof.Machine
end

