-- ==== Sys2Proof/Machine/Cal.lean ====
section
/-! DEFINITION. Calibration and trimming (13_calibration.md): windows, requests, foreground runs and their results, background
tracking, redundant elements, journal loads and stores, cross-device phase. -/
namespace Sys2Proof.Machine

/-! ## Windows and requests (R290, R294) -/

/-- A window is open on Gk. -/
def State.winOpen (s : State) (k : Nat) : Bool := s.flag Reg.calWin (8 + k)

/-- Entries of group k leave the list of what is stopped for its window. -/
def State.unstop (s : State) (k : Nat) : State :=
  { s with cal := { s.cal with stopped := s.cal.stopped.filter (fun i => i != 128 + k && (128 ≤ i || groupOf i != k)) } }

/-- A window ends (R290); with AUTO_STORE the classes that a run changed are stored (R306). -/
def State.endWindow (s : State) (k : Nat) : State :=
  let cs := (s.cal.changed.filter (fun x => x / 16 == k)).map (· % 16)
  let s1 := (s.setFlag Reg.calWin (8 + k) false).unstop k
  let s2 : State := { s1 with cal := { s1.cal with
    wins := sdel s1.cal.wins k, changed := s1.cal.changed.filter (fun x => x / 16 != k) } }
  if s2.flag Reg.calCtl 2 then cs.foldl (fun t c => t.requestStore (k / 2) c) s2 else s2

/-- A write to `CAL.WIN` (R290). -/
def State.writeWin (s : State) (val mask : Word) : State :=
  let w := val &&& mask
  let len := bits w 31 16
  (setBitsOf w 8).foldl (fun t k =>
    if len = 0 then (if t.winOpen k then t.endWindow k else t)
    else
      let t1 := (t.setFlag Reg.calWin (8 + k) true).unstop k
      { t1 with cal := { t1.cal with wins := aput t1.cal.wins k (t1.tns + BitVec.ofNat 32 (1000 * len)) } }) s

/-- A request (R294): the pending bit sets, TRIES and FAILED clear. -/
def State.pendCal (s : State) (kind i : Nat) : State :=
  let r := calReg kind i
  ((s.setFlag r (calPend kind) true).setFld r 27 24 0).setFlag r 31 false

def State.calBad (s : State) : State := s.raiseBit Reg.calSticky 6

/-- A write to `CAL.REQ` (R294, R308). -/
def State.writeReq (s : State) (val mask : Word) : State :=
  let w := val &&& mask
  let kind := bits w 31 28
  let scope := bits w 27 26
  let path := kind < 10
  if !(path || kind == 12 || kind == 13) || scope == 3 || (!path && scope != 1) then s.calBad
  else if scope = 0 then s.pendCal kind (bits w 6 0)
  else if scope = 2 then (setBitsOf w 16).foldl (fun t b => t.pendCal kind (16 * bits w 18 16 + b)) s
  else (setBitsOf w 8).foldl (fun t k => if path then (pathsOf k).foldl (fun u n => u.pendCal kind n) t else t.pendCal kind k) s

/-! ## Foreground runs (R288, R291-R294) -/

/-- Duration of a kind in µs (R288). -/
def calTime (kind : Nat) : Nat := ([40, 30, 12, 16, 10, 14, 8, 20, 10, 14][kind]?).getD 24

/-- Kinds that need LO_OK, kinds with a quiet check, kinds that use the observation receiver, kinds that use capture memory. -/
def needsLo (kind : Nat) : Bool := [2, 3, 4, 5, 7, 8, 9, 12].contains kind
def needsQuiet (kind : Nat) : Bool := [1, 2, 3, 6, 7, 8, 9].contains kind
def needsOr (kind : Nat) : Bool := kind == 2 || kind == 3 || kind == 12
def needsMem (kind : Nat) : Bool := (2 ≤ kind && kind ≤ 9) || kind == 12

/-- ORk is free: between LIN jobs, and not held by CAL (R265). -/
def State.orFree (s : State) (k : Nat) : Bool := !s.flag (Reg.linObsCtl k) 29 && !s.orHeld k

/-- Nanoseconds left in the window of Gk. -/
def State.winLeft (s : State) (k : Nat) : Int :=
  match alook s.cal.wins k with
  | some e => tdiff e s.tns
  | none => 0

/-- The next foreground run of group k (R291): pending, not stopped, fitting in its window, its observation receiver free. -/
def State.nextRun (s : State) (k : Nat) : Option (Nat × Nat) :=
  ((List.range 10).flatMap (fun kind => (pathsOf k).map (fun n => (kind, n)))).find? (fun p =>
    s.flag (Reg.calPath p.2) p.1 && !s.cal.stopped.contains p.2 && (1000 * calTime p.1 : Int) ≤ s.winLeft k
      && (!needsOr p.1 || s.orFree k))

/-- A run fails with a counted code: TRIES, and FAILED with GAVE_UP when the retries are exhausted (R294). -/
def State.countFail (s : State) (kind i : Nat) : State :=
  let r := calReg kind i
  let tries := s.fld r 27 24 + 1
  let k := if kind < 12 then groupOf i else i
  let s1 := s.setFld r 27 24 (min tries 15)
  let s2 : State := if s1.winOpen k then
      { s1 with cal := { s1.cal with stopped := s1.cal.stopped ++ [if kind < 12 then i else 128 + i] } } else s1
  if s.fld Reg.calRetry 3 0 < tries then
    ((s2.setFld r (if kind < 12 then 9 else 1) 0 0).setFlag r 31 true).raiseBit Reg.calSticky 0
  else s2

/-- The run of a key ends with a code (R292, R294). -/
def State.endRun (s : State) (key code : Nat) : State :=
  match alook s.cal.runs key with
  | none => s
  | some (kind, i) =>
    let s1 := s.stopCal key code (code != 0)
    if code = 0 then s1.setFld (calReg kind i) 27 24 0
    else if code ≤ 5 then s1.countFail kind i
    else if code = 7 then s1.raiseBit Reg.calSticky 5
    else s1

/-- The 1 MiB of R293 lies in the training region. -/
def State.calArea (s : State) : Bool := s.inTraining (s.reg Reg.calCapBase).toNat 0x100000

/-- The first precondition of R292 that fails; `power` is what the quiet check measured, in 0.1 dBFS. -/
def State.precheck (s : State) (kind i : Nat) (power : Int) : Option Nat :=
  let k := if kind < 12 then groupOf i else i
  if needsQuiet kind && decide (sgn 16 (s.fld Reg.calQuietLimit 15 0) ≤ power) then some 1
  else if kind < 12 && s.ps i != psCal then some 2
  else if kind == 13 && (pathsOf k).any (fun n => aboveStby (s.ps n)) then some 2
  else if (kind == 2 || kind == 3) && !bit s.pins.drain (2 * k) then some 3
  else if needsLo kind && !s.loOk k then some 4
  else if needsMem kind && !s.calArea then some 7
  else none

/-- A run starts and checks its preconditions (R291, R292). -/
def State.beginRun (s : State) (key kind i : Nat) (power : Int) : State :=
  let r := calReg kind i
  let s1 := (s.setFlag r (calPend kind) false).setFlag r 30 true
  let s2 : State := { s1 with cal := { s1.cal with runs := aput s1.cal.runs key (kind, i) } }
  match s2.precheck kind i power with
  | some c => s2.endRun key c
  | none => if kind = 13 then ((s2.setLos i 29 true).setLos i 30 false).loFell i true else s2

/-- A run may start on the engine of a key: 0-7 the paths of a group with an open window, 8-15 an idle observation receiver,
16-23 a powered synthesiser. -/
def State.startRun (s : State) (slot : Nat) (power : Int) : State :=
  if !s.up domCob || 2 ≤ s.season || (alook s.cal.runs slot).isSome then s
  else
    let k := slot % 8
    if slot < 8 then
      if !s.winOpen k then s
      else match s.nextRun k with
        | some (kind, n) => s.beginRun slot kind n power
        | none => s
    else
      let kind := slot / 8 + 11
      if 24 ≤ slot || !s.flag (Reg.calGrp k) (calPend kind) || s.cal.stopped.contains (128 + k) || !s.up (domTile (k / 2)) then s
      else if kind = 12 then (if s.orFree k then s.beginRun slot 12 k power else s)
      else if s.losBit k 27 && !s.losBit k 28 && !s.losBit k 29 then s.beginRun slot 13 k power
      else s

/-! ## Results (R288, R289, R299) -/

/-- A number whose bits are the words, lowest first. -/
def wordsNat : List Word → Nat
  | [] => 0
  | w :: ws => w.toNat + 2 ^ 32 * wordsNat ws

/-- The `n` words of a number. -/
def natWords (v : Nat) (n : Nat) : List Word := (List.range n).map (fun i => BitVec.ofNat 32 (v >>> (32 * i)))

/-- The active set of `n` elements after failed ones are replaced in ascending order (R299): the set, how many were replaced,
whether one found no spare. -/
def swapFailed (n act bad : Nat) : Nat × Nat × Bool :=
  (List.range n).foldl (fun (x : Nat × Nat × Bool) i =>
    if x.1.testBit i && bad.testBit i then
      match (List.range n).find? (fun j => !x.1.testBit j && !bad.testBit j) with
      | some j => (x.1 - 2 ^ i + 2 ^ j, x.2.1 + 1, x.2.2)
      | none => (x.1, x.2.1, true)
    else x) (act, 0, false)

/-- Words put into fields; whether one changed. -/
def State.putAll (s : State) : List (Nat × Word) → State × Bool
  | [] => (s, false)
  | p :: l =>
    let r := (s.putField p.1 p.2).putAll l
    (r.1, r.2 || s.reg p.1 != (p.2 &&& fieldMask p.1))

/-- Words put into internal registers. -/
def State.setRegs (s : State) (l : List (Nat × Word)) : State := l.foldl (fun t p => t.setReg p.1 p.2) s

/-- The result of an element run on path n (R298, R299): `bad` the failed elements of I and Q. -/
def State.elements (s : State) (n : Nat) (tx : Bool) (bad : List Word) : State × Bool :=
  let c := if tx then 71 else 36
  let m := if tx then 3 else 2
  let ri := if tx then [Reg.txaCellI0 n, Reg.txaCellI1 n, Reg.txaCellI2 n] else [Reg.rxaCompI0 n, Reg.rxaCompI1 n]
  let rq := if tx then [Reg.txaCellQ0 n, Reg.txaCellQ1 n, Reg.txaCellQ2 n] else [Reg.rxaCompQ0 n, Reg.rxaCompQ1 n]
  let bi := wordsNat (bad.take m) % 2 ^ c
  let bq := wordsNat ((bad.drop m).take m) % 2 ^ c
  let i := swapFailed c (wordsNat (ri.map s.reg)) bi
  let q := swapFailed c (wordsNat (rq.map s.reg)) bq
  let at0 := if tx then 0 else 6
  let fails := natWords bi m ++ natWords bq m
  let r := s.putAll (ri.zip (natWords i.1 m) ++ rq.zip (natWords q.1 m))
  let held := (List.range (2 * m)).map (fun j => (inFailed n (at0 + j), (fails[j]?).getD 0))
  let changed := r.2 || held.any (fun p => s.reg p.1 != p.2)
  let s1 := ((r.1.setRegs held).showSpares n).setReg (Reg.calElemTns n) r.1.tns
  let s2 := s1.count (Reg.calElem n) (if tx then 15 else 31) (if tx then 0 else 16) (i.2.1 + q.2.1)
  (if i.2.2 || q.2.2 then s2.raiseBit (if tx then Reg.txaSticky n else Reg.rxaSticky n) 0 else s2, changed)

/-- `w` with one half replaced: PT and GCAL hold two values. -/
def putHalf (w : Word) (high : Bool) (v : Word) : Word :=
  if high then setBits w 31 16 v.toNat else setBits w 15 0 v.toNat

/-- The results of a run are written for the port and the band of now (R288, R289); `vals` are the words in the order the
catalogue names their fields. Whether a value changed. -/
def State.putResult (s : State) (kind i : Nat) (vals : List Word) : State × Bool :=
  let k := groupOf i
  let p := s.port k
  let b := s.band k
  let v (j : Nat) : Word := (vals[j]?).getD 0
  match kind with
  | 0 => s.elements i true vals
  | 1 => s.elements i false vals
  | 2 => s.putAll [(Reg.txdDcoff i p, v 0)]
  | 3 => s.putAll [(Reg.txdIqcorr i p, v 0)]
  | 4 => s.putAll [(Reg.txdTcomp i p b, v 0)]
  | 5 => s.putAll [(Reg.txdDelay i, v 0), (Reg.losPt i, putHalf (s.reg (Reg.losPt i)) false (v 1))]
  | 6 => s.putAll [(Reg.rxdDcInit i p, v 0)]
  | 7 => s.putAll ((List.range 8).map (fun j => (Reg.rxdIrr i p j, v j)))
  | 8 => s.putAll [(Reg.rxdGcal i, putHalf (s.reg (Reg.rxdGcal i)) (p == 1) (v 0)), (Reg.rxdTcomp i p b, v 1)]
  | 9 => s.putAll [(Reg.rxdDelay i, v 0), (Reg.losPt i, putHalf (s.reg (Reg.losPt i)) true (v 1))]
  | 12 =>
    let l := (List.range 4).map (fun j => (inOrCorr i j, v j))
    (s.setRegs l, l.any (fun x => s.reg x.1 != x.2))
  | _ => (s, false)

/-- The journal classes that hold what a kind writes (R303). -/
def calClasses (kind : Nat) : List Nat :=
  if kind ≤ 1 then [3] else if kind ≤ 5 then [1] else if kind ≤ 8 then [2] else if kind = 9 then [2, 1]
  else if kind = 12 then [4] else []

/-- A value changed during a window: its class is noted for the automatic store (R306). -/
def State.noteChange (s : State) (k kind : Nat) : State :=
  if s.winOpen k then
    { s with cal := { s.cal with
        changed := (calClasses kind).foldl (fun l c => if l.contains (16 * k + c) then l else l ++ [16 * k + c]) s.cal.changed } }
  else s

/-- SYN_VCO ends and Sk relocks as a full-band hop to its preset in force (R288, R300); a hop that waits for the step starts
instead (HOP_START). -/
def State.relock (s : State) (k : Nat) : State :=
  if (alook s.los.hops k).any (fun h => h.waits) then s
  else (s.setLos k 29 false).beginHop k (s.fld (Reg.losSStatus k) 19 16) (s.loCfg k) true

/-- A run ends: LOW_QUALITY, or its results are written (R289, R292). The run that Sk makes at power-up ends here too. -/
def State.finishRun (s : State) (slot : Nat) (low : Bool) (vals : List Word) : State :=
  match alook s.cal.runs slot with
  | none => if 16 ≤ slot && slot < 24 && s.losBit (slot - 16) 29 then s.relock (slot - 16) else s
  | some (kind, i) =>
    if kind = 14 then s
    else
      let r := if low then (s, false) else s.putResult kind i vals
      let s1 := if r.2 then r.1.noteChange (if kind < 12 then groupOf i else i) kind else r.1
      let s2 := s1.endRun slot (if low then 5 else 0)
      if kind = 13 then s2.relock i else s2

/-! ## Background tracking (R295-R297) -/

/-- A pass on path n ends: `q` its quality in dB, `dPhase` and `dDelay` the corrections measured, in steps of PT and of FRAC. -/
def State.bgPass (s : State) (n : Nat) (rx : Bool) (q : Nat) (dPhase dDelay : Int) : State :=
  let r := Reg.calBgq n
  let s1 := s.setFld r (if rx then 7 else 15) (if rx then 0 else 8) q
  let mh := if rx then 23 else 19
  let ml := if rx then 20 else 16
  if q < s.fld Reg.calBg 23 16 then
    let m := s.fld r mh ml + 1
    let s2 := s1.setFld r mh ml (min m 15)
    if m = 8 then s2.raiseBit Reg.calSticky 1 else s2
  else
    let s2 := s1.setFld r mh ml 0
    let pt := s2.reg (Reg.losPt n)
    let old := if rx then bits pt 27 16 else bits pt 11 0
    let new := unsgn 12 ((old : Int) + clampI (-2) 2 dPhase)
    let s3 := s2.putField (Reg.losPt n) (if rx then setBits pt 27 16 new else setBits pt 11 0 new)
    let dr := if rx then Reg.rxdDelay n else Reg.txdDelay n
    let lim : Int := if rx then 8 else 24
    let frac := (s3.fld dr 15 0 : Int) + clampI (-lim) lim dDelay
    let s4 := s3.putField dr (setBits (s3.reg dr) 15 0 (clampI 0 65535 frac).toNat)
    if frac < 0 ∨ 65535 < frac then s4.setFlag (Reg.calPath n) (if rx then 9 else 5) true else s4

/-- The path carries what the pass needs. -/
def State.tracks (s : State) (n : Nat) (rx : Bool) : Bool :=
  s.up domCob && s.flag Reg.calCtl 0 && s.season < 2 && s.loOk (groupOf n) && (if rx then takes (s.ps n) else emits (s.ps n))

/-! ## Journal (R303-R306) -/

/-- CAL loads the classes of a tile (R305). -/
def State.loadTile (s : State) (t : Nat) : State :=
  let s1 := ([1, 2, 3, 4, 5] ++ (if t = 0 then [7] else [])).foldl (fun (u : State) c => u.loadClass t c) s
  { s1 with cal := { s1.cal with loaded := putBit s1.cal.loaded t true } }

/-- A write to `CAL.JCTL` (R306, R308). -/
def State.writeJctl (s : State) (val mask : Word) : State :=
  let w := val &&& mask
  if bit w 6 || bit w 8 then s.calBad
  else
    let cs := (List.range 9).filter (fun c => 1 ≤ c && bit w c)
    let s1 := (List.range 4).foldl (fun t tile =>
      if bit w (16 + tile) then
        (cs.filter (· != 7)).foldl (fun u c => u.requestStore tile c) t else t) s
    if cs.contains 7 then s1.requestStore 0 7 else s1

/-! ## Cross-device phase (R283-R285, R301, R302) -/

/-- The exchange of group g ends with a code (R302). -/
def State.endXdev (s : State) (code : Nat) : State :=
  let s1 := s.stopCal 24 code false
  { s1 with cal := { s1.cal with xdev := false, nbr := [] } }

/-- The correction of the farther device (R302): added to PCORR of Sg and of every Sk at the same preset words. -/
def State.addPhase (s : State) (g : Nat) (c : Int) : State :=
  (List.range 8).foldl (fun t k =>
    if k = g ∨ (t.up (domTile (k / 2)) ∧ t.loCfg k = t.loCfg g) then
      let r := Reg.losSPcorr k (t.fld (Reg.losSStatus k) 19 16)
      t.putField r (BitVec.ofNat 32 (unsgn 12 ((t.fld r 11 0 : Int) + c)))
    else t) s

/-- The exchange can be completed once the neighbour nearer to the head has sent its result. -/
def State.tryXdev (s : State) : State :=
  match alook s.cal.runs 24 with
  | none => s
  | some (_, g) =>
    let p := s.homePort 0
    match alook s.cal.nbr p with
    | none => s
    | some w =>
      if !s.cal.xdev then s
      else if !bit w 31 then s.endXdev 4
      else (s.addPhase g ((bits (s.reg (Reg.losClRes p)) 11 0 : Int) - (bits w 11 0 : Int))).endXdev 0

/-- The exchange ends 20 µs after CL_AT (R283): the phase and level of each port. -/
def State.clDone (s : State) (east west : Nat × Nat) : State :=
  let g := s.fld Reg.losClCtl 2 0
  let alone := s.role 0 == 0 && s.role 1 == 0
  let bad := s.los.clBad || !s.loOk g || alone
  let put (t : State) (p : Nat) (x : Nat × Nat) : State :=
    t.setReg (Reg.losClRes p) (BitVec.ofNat 32 ((if bad || 80 < x.2 then 0 else 2 ^ 31) + x.2 % 256 * 2 ^ 16 + x.1 % 4096))
  let s1 := put (put s 0 east) 1 west
  let ok := s1.flag (Reg.losClRes 0) 31 && s1.flag (Reg.losClRes 1) 31
  let s2 := if ok then s1 else s1.raiseBit Reg.losSticky 3
  let s3 := ((s2.setFlag Reg.losClCtl 29 true).setFlag Reg.losClCtl 30 false).setFlag (Reg.calGrp g) 2 false
  if !ok then s3.endXdev 4
  else if !s3.flag Reg.calCtl 1 || s3.role 0 == 0 then s3.endXdev 0
  else
    let s4 := (s3.sendOne 0 6 1 [BitVec.ofNat 32 g, s3.reg (Reg.losClRes 0)]).sendOne 1 6 1
      [BitVec.ofNat 32 g, s3.reg (Reg.losClRes 1)]
    if s4.role 0 ≠ 1 then s4.endXdev 0
    else State.tryXdev { s4 with cal := { s4.cal with xdev := true } }

/-! ## Commands -/

def execCalWindow (port : Port) (val : Word) (s : State) : Host.Outcome State Fault Refusal :=
  .next (s.hostReg port Reg.calWin (fun t => t.writeWin val 0xFFFFFFFF))
def execWindowEnd (k : Nat) (s : State) : Host.Outcome State Fault Refusal :=
  .next (if k < 8 ∧ s.up domCob ∧ s.winOpen k ∧ s.winLeft k ≤ 0 then s.endWindow k else s)
def execCalRequest (port : Port) (val : Word) (s : State) : Host.Outcome State Fault Refusal :=
  .next (s.hostReg port Reg.calReq (fun t => t.writeReq val 0xFFFFFFFF))
def execCalRunStart (slot : Nat) (power : Int) (s : State) : Host.Outcome State Fault Refusal := .next (s.startRun slot power)
def execCalRunEnd (slot : Nat) (low : Bool) (vals : List Word) (s : State) : Host.Outcome State Fault Refusal :=
  .next (if s.up domCob then s.finishRun slot low vals else s)
def execBgPass (n : Nat) (rx : Bool) (q : Nat) (dPhase dDelay : Int) (s : State) : Host.Outcome State Fault Refusal :=
  .next (if n < 128 ∧ s.tracks n rx then s.bgPass n rx (min q 255) dPhase dDelay else s)

/-- The classes of a tile are loaded, and for T0 the roster cache, each once the domains it needs are up (R305). -/
def execJournalLoad (t : Nat) (s : State) : Host.Outcome State Fault Refusal :=
  let s1 := if t < 4 ∧ s.up (domTile t) ∧ s.up domCrm ∧ s.up domCob ∧ !bit s.cal.loaded t then s.loadTile t else s
  .next (if t = 0 ∧ s1.up (domTile 0) ∧ s1.up domRing ∧ !s1.arg.read then s1.loadCache else s1)
def execJournalStore (port : Port) (val : Word) (s : State) : Host.Outcome State Fault Refusal :=
  .next (s.hostReg port Reg.calJctl (fun t => t.writeJctl val 0xFFFFFFFF))
def execStoreDeferredStart (t c : Nat) (s : State) : Host.Outcome State Fault Refusal :=
  .next (if t < 4 ∧ c < 16 then s.startStore t c else s)

/-- A store ends, and a power-down of its tile that waited for it may proceed (R306). -/
def execStoreDone (t c : Nat) (fail : Option Nat) (s : State) : Host.Outcome State Fault Refusal :=
  .next (if t < 4 ∧ c < 16 ∧ (alook s.jrn.run (16 * t + c)).isSome then (s.endStore t c fail).powerEval else s)
def execClDone (east west : Nat × Nat) (s : State) : Host.Outcome State Fault Refusal :=
  .next (if s.flag Reg.losClCtl 30 ∧ (alook s.cal.runs 24).isSome then s.clDone east west else s)

/-- Neighbour data (R325): SUB 1 carries the CAL_LINK result of the facing port (R301; payload: log 44). -/
def execNbCell (p : Nat) (cell : Cell) (s : State) : Host.Outcome State Fault Refusal :=
  .next (s.onCell p cell 6 none
    (fun t =>
      match alook t.cal.runs 24 with
      | some (_, g) =>
        if cell.sub = 1 ∧ (cell.payload.headD 0).toNat = g then
          State.tryXdev { t with cal := { t.cal with nbr := aput t.cal.nbr p ((cell.payload[1]?).getD 0) } }
        else t
      | none => t) (fun t _ => t))
def execXdevTimeout (s : State) : Host.Outcome State Fault Refusal :=
  .next (if s.cal.xdev then s.endXdev 5 else s)

end Sys2Proof.Machine
end

