-- ==== Sys2Proof/Machine/Fhp.lean ====
section
/-! DEFINITION. The fronthaul ports (17_fronthaul_ports.md): links, frame filter, C-plane and U-plane messages and their reception
windows, uplink frames, port pairs and fail-over, host queues. -/
namespace Sys2Proof.Machine

/-- An event counter of a port (R375). -/
def State.fhpCount (s : State) (i j n : Nat) : State := s.count (Reg.fhpPortCnt i j) 31 0 n

def State.fhLink (s : State) (i : Nat) : Bool := s.up domFh && s.flag (Reg.fhpPortStatus i) 31

/-! ## Links, pairs and fail-over (R359, R360, R370, R371) -/

/-- The lanes of a port at a speed code (R359). -/
def speedLanes (code : Nat) : Nat := if code ≤ 2 then 1 else if code = 4 then 2 else 4

/-- The active port of pair q. -/
def State.actPort (s : State) (q : Nat) : Nat := 2 * q + s.fld Reg.fhpPair (4 + q) (4 + q)
def State.pairOn (s : State) (q : Nat) : Bool := s.flag Reg.fhpPair q
def State.mate (i : Nat) : Nat := if i % 2 = 0 then i + 1 else i - 1

/-- `STATUS.ACTIVE` of every port: its link is up, and in active-standby mode it is the port named ACT. -/
def State.showActive (s : State) : State :=
  (List.range 4).foldl (fun t i =>
    t.setFlag (Reg.fhpPortStatus i) 30 (t.flag (Reg.fhpPortStatus i) 31 && (!t.pairOn (i / 2) || t.actPort (i / 2) == i))) s

/-- Traffic of pair q moves to port i: at the next symbol boundary of each enabled carrier, at once where none is enabled. -/
def State.moveTo (s : State) (i : Nat) : State :=
  let q := i / 2
  let s1 := s.setFlag Reg.fhpPair (4 + q) (i % 2 == 1)
  [0, 1].foldl (fun t c =>
    if t.carOn c then t
    else { t with fhp := { t.fhp with side := sset (fun _ => 0) t.fhp.side (2 * c + q) (i % 2) } }) s1

/-- The pair fails over from port i to its mate (R371). -/
def State.failOver (s : State) (i : Nat) : State :=
  let s1 := ((s.moveTo (State.mate i)).raiseBit Reg.fhpSticky (4 + i / 2)).send (.faultInd (State.mate i) i true s.tns)
  { s1 with fhp := { s1.fhp with fault := putBit s1.fhp.fault i true } }

/-- The link of port i goes down with `queued` uplink frames waiting on it (R360, R371). -/
def State.linkDown (s : State) (i queued : Nat) : State :=
  let s1 := (s.setReg (Reg.fhpPortStatus i) 0).raiseBit Reg.fhpSticky i
  let s2 := (List.range 4).foldl (fun t j => t.setFlag (Reg.slnLaneStatus (64 + 4 * i + j)) 28 false) s1
  let s3 := if queued = 0 then s2 else (s2.fhpCount i 12 queued).raiseBit Reg.fhpSticky 13
  let s4 := if s3.pairOn (i / 2) && s3.actPort (i / 2) == i && s3.fhLink (State.mate i) then s3.failOver i else s3
  s4.showActive

/-- The link of port i comes up at a speed (R360): its own numbering starts again (R363), a raised fault ceases and traffic returns with
REVERT (R371); a pair whose active port is down fails over to it. -/
def State.linkUpAt (s : State) (i speed : Nat) : State :=
  let q := i / 2
  let s1 := s.setReg (Reg.fhpPortStatus i) (BitVec.ofNat 32 (2 ^ 31 + speed * 2 ^ 24))
  let s2 := (List.range (speedLanes speed)).foldl (fun t j => t.setFld (Reg.slnLaneStatus (64 + 4 * i + j)) 31 28 15) s1
  let s3 : State := { s2 with fhp := { s2.fhp with
    txSeq := s2.fhp.txSeq.filter (fun p => p.1 / 2 ^ 16 != i) } }
  let s4 := if bit s3.fhp.fault i then
      let t := s3.send (.faultInd (if s3.fhLink (s3.actPort q) then s3.actPort q else i) i false s3.tns)
      let t1 : State := { t with fhp := { t.fhp with fault := putBit t.fhp.fault i false } }
      if t1.pairOn q && t1.flag Reg.fhpPair (8 + q) then t1.moveTo i else t1
    else s3
  let s5 := if s4.pairOn q && s4.actPort q != i && !s4.fhLink (State.mate i) then s4.failOver (State.mate i) else s4
  s5.showActive

/-- The lanes of a port that is no longer in use power down (R346). -/
def State.lanesOff (s : State) (i : Nat) : State :=
  { s with ready := s.ready.filter (fun l => l < 64 || lanePort l != i) }

/-- A write to `PORT[i].CTL`: EN = 0 holds the port down. -/
def State.writeFhpCtl (s : State) (i : Nat) (val mask : Word) : State :=
  let s1 := s.writeFields (Reg.fhpPortCtl i) val mask
  if s1.flag (Reg.fhpPortCtl i) 31 then s1
  else
    let s2 := s1.lanesOff i
    if s2.fhLink i then s2.linkDown i 0 else s2

/-- A write to `FHP.PAIR`. -/
def State.writePair (s : State) (val mask : Word) : State := (s.writeFields Reg.fhpPair val mask).showActive

/-! ## Received frames (R361, R362) -/

def byteAt (bs : List Byte) (i : Nat) : Nat := ((bs[i]?).getD 0).toNat
/-- A big-endian field of a frame. -/
def beNat (bs : List Byte) (i n : Nat) : Nat := ((bs.drop i).take n).foldl (fun a b => 256 * a + b.toNat) 0

/-- The VID of the tag of a frame, its EtherType and where its payload begins. -/
def etherOf (bs : List Byte) : Option Nat × Nat × Nat :=
  if beNat bs 12 2 = 0x8100 then (some (beNat bs 14 2 % 4096), beNat bs 16 2, 18) else (none, beNat bs 12 2, 14)

/-- The address of a frame is accepted (R361). -/
def State.addressOk (s : State) (i : Nat) (bs : List Byte) : Bool :=
  let da := beNat bs 0 6
  let own := (s.reg (Reg.fhpPortSaHi i)).toNat % 65536 * 2 ^ 32 + (s.reg (Reg.fhpPortSaLo i)).toNat
  [own, 0xFFFFFFFFFFFF, 0x011B19000000, 0x0180C200000E].contains da

/-- The VID of a frame differs from the one the port checks (R361). -/
def State.foreignVid (s : State) (i : Nat) (bs : List Byte) : Bool :=
  s.flag (Reg.fhpPortVlan i) 30 && (match (etherOf bs).1 with
    | some v => v != s.fld (Reg.fhpPortVlan i) 11 0
    | none => false)

/-- eCPRI messages of a payload as type and revision, split where they are concatenated (R362). -/
def ecpriKinds : Nat → List Byte → List (Nat × Nat)
  | 0, _ => []
  | n + 1, bs =>
    (byteAt bs 1, byteAt bs 0 / 16) ::
      (if byteAt bs 0 % 2 = 1 then ecpriKinds n (bs.drop ((4 + beNat bs 2 2 + 3) / 4 * 4)) else [])

/-- A frame arrives at port i (R361): FCS, tag and address; eCPRI messages of a type that no port handles are rejected. -/
def State.takeFrame (s : State) (i : Nat) (bs : List Byte) (fcs : Bool) : State :=
  let e := etherOf bs
  if !fcs then (s.fhpCount i 1 1).raiseBit Reg.fhpSticky 11
  else if s.foreignVid i bs then s.fhpCount i 2 1
  else if !s.addressOk i bs then s
  else
    let s1 := s.fhpCount i 0 1
    if e.2.1 = 0xAEFE then
      s1.fhpCount i 2 ((ecpriKinds bs.length (bs.drop e.2.2)).countP (fun x => !(([0, 2, 5, 7] : List Nat).contains x.1)))
    else s1

/-! ## C-plane and U-plane (R362-R367) -/

/-- The header of a message is refused (R362, R363). -/
def State.badHeader (s : State) (h : Ecpri) (kind : Nat) : Bool :=
  let id := s.reg Reg.fhpEaxc
  h.rev != 1 || h.kind != kind || !h.e || h.subseq != 0 || !h.sizeOk || 2 ≤ h.eaxc / 32 % 4
    || (bit id 31 && h.eaxc / 4096 % 16 != bits id 15 12) || (bit id 30 && h.eaxc / 128 % 32 != bits id 11 7)

/-- The seqId of a message against the previous one of its port, plane and eAxC (R363). -/
def State.followSeq (s : State) (i kind : Nat) (h : Ecpri) : State :=
  let k := i * 2 ^ 17 + kind / 2 * 2 ^ 16 + h.eaxc % 2 ^ 16
  let s1 : State := { s with fhp := { s.fhp with seq := aput s.fhp.seq k (h.seq % 256) } }
  match alook s.fhp.seq k with
  | some x => if (x + 1) % 256 = h.seq % 256 then s1 else (s1.fhpCount i 7 1).raiseBit Reg.fhpSticky 12
  | none => s1

/-- Something outside the subset of R364. -/
def State.fhReject (s : State) (i : Nat) : State := (s.fhpCount i 3 1).raiseBit Reg.fhpSticky 8

/-- The compression of a section is supported (R364). -/
def methOk (meth width : Nat) : Bool := meth ≤ 1 && (width == 0 || (7 ≤ width && width ≤ 15))

/-- The greatest hop count of the device as a head, of either ring in pair mode (R367). -/
def State.maxHops (s : State) : Nat :=
  [0, 1].foldl (fun h r => if s.role r = 2 ∨ s.pairMode then max h (max (s.arcsOf r).1 (s.arcsOf r).2) else h) 0

/-- D of R16 for carrier c, and the fixed part of the uplink close, in 1/1536 ns. -/
def State.dlLatency (s : State) (c : Nat) : Nat :=
  (if s.role 0 = 2 ∨ s.role 1 = 2 then 3000 + 160 * s.maxHops else 2700) * 1536 + s.usefulU c
def State.ulFloor (s : State) : Nat := (1200 + 160 * s.maxHops) * 1536

/-- E_DL and E_UC of R367. -/
def State.closeDl (s : State) (c : Nat) : Nat := max (s.fld (Reg.fhpWinDl c) 15 0 * 15360) (s.dlLatency c)
def State.closeUc (s : State) (c : Nat) : Nat := max (s.fld (Reg.fhpWinUc c) 15 0 * 15360) s.ulFloor

/-- `WIN_EFF[c]` (R367): the closes in 10 ns, rounded up; 0 while the carrier is not enabled. -/
def State.winEff (s : State) (c : Nat) : Word :=
  if s.carOn c then
    BitVec.ofNat 32 ((s.closeUc c + 15359) / 15360 % 65536 * 65536 + (s.closeDl c + 15359) / 15360 % 65536)
  else 0

/-- A message is judged by its arrival now against the start `t` of its symbol (R367): counted; true on time. -/
def State.judgeWindow (s : State) (i c : Nat) (uc : Bool) (t : Int) : State × Bool :=
  let now : Int := s.nowU
  let open_ : Int := s.fld (if uc then Reg.fhpWinUc c else Reg.fhpWinDl c) 31 16 * 1536000
  let close : Int := if uc then s.closeUc c else s.closeDl c
  if now < t - open_ then ((s.fhpCount i 5 1).raiseBit Reg.fhpSticky 6, false)
  else if t - close < now then ((s.fhpCount i 6 1).raiseBit Reg.fhpSticky 7, false)
  else (s.fhpCount i 4 1, true)

/-- The symbol of the frame an air time names (R366). -/
def State.airSym (s : State) (c : Nat) (a : AirRef) : Nat := 14 * (a.subframe * 2 ^ s.mu c + a.slot) + a.sym

/-- A C-plane message (R362-R367): checked, judged, given to BME, and sent round the ring by a head. -/
def State.takeC (s : State) (i : Nat) (m : CMsg) : State :=
  let c := m.hdr.eaxc / 32 % 4
  let layer := m.hdr.eaxc % 32
  if s.badHeader m.hdr 2 then s.fhpCount i 2 1
  else
    let s1 := s.followSeq i 2 m.hdr
    if m.version ≠ 1 ∨ m.filter ≠ 0 ∨ !(([1, 3] : List Nat).contains m.stype) ∨ !methOk m.meth m.width then s1.fhReject i
    else if !s1.carOn c then s1
    else
      let sym := s1.airSym c m.air
      let j := s1.judgeWindow i c (!m.dl) (s1.airAt c m.air.frame sym)
      if !j.2 then j.1
      else
        let s2 := m.sects.foldl (fun t x => if x.other then t.fhReject i else t) j.1
        let ok := m.sects.filter (fun x => !x.other)
        let s3 := if s2.up domCrm then (s2.pruneSects).takeSects m.dl c layer m.air.frame sym m.stype m.type3 ok else s2
        if ok = [] then s3
        else s3.castSects m.dl c layer m.air.sym (m.air.subframe * 2 ^ s3.mu c + m.air.slot) m.air.frame m.raw

/-- One section of a downlink U-plane message: used with the layer's descriptor and counted when no C-plane section has its
sectionId (R366). -/
def State.takeU1 (s : State) (i c layer : Nat) (air : AirRef) (x : USect) : State :=
  let hdr := s.flag Reg.fhpComp 31
  let meth := if hdr then x.meth else s.fld Reg.fhpComp 8 8
  let width := if hdr then x.width else s.fld Reg.fhpComp 15 12
  let w := if meth = 0 ∨ width = 0 then 16 else width
  if !methOk meth width || x.rb then s.fhReject i
  else
    let r := s.prbsOf c x.start x.num
    let slot := air.subframe * 2 ^ s.mu c + air.slot
    let has := s.sects.any (fun y => y.dl && y.car == c && y.layer == layer && y.id == x.id)
    let s1 := if has then s else s.fhpCount i 11 1
    let s2 := if s1.up domCrm then s1.takeData c layer air.frame slot air.sym r.1 r.2 w (meth == 1) x.data else s1
    s2.castData c layer air.sym slot air.frame r.1 r.2 w (meth == 1) x.data

/-- A U-plane message (R362-R367). -/
def State.takeU (s : State) (i : Nat) (m : UMsg) : State :=
  let c := m.hdr.eaxc / 32 % 4
  if s.badHeader m.hdr 0 then s.fhpCount i 2 1
  else
    let s1 := s.followSeq i 0 m.hdr
    if m.version ≠ 1 ∨ m.filter ≠ 0 ∨ !m.dl then s1.fhReject i
    else if !s1.carOn c then s1
    else
      let j := s1.judgeWindow i c false (s1.airAt c m.air.frame (s1.airSym c m.air))
      if j.2 then m.sects.foldl (fun t x => t.takeU1 i c (m.hdr.eaxc % 32) m.air x) (j.1.pruneSects) else j.1

/-! ## Uplink (R368, R369) -/

/-- The port that carries an uplink layer of carrier c: the one `ULPORT` names, or the side of its pair in force (R370). -/
def State.ulPort (s : State) (c layer : Nat) : Nat :=
  let p := s.fld (Reg.fhpUlport c (layer / 16)) (2 * (layer % 16) + 1) (2 * (layer % 16))
  if s.pairOn (p / 2) then p / 2 * 2 + sget (fun _ => 0) s.fhp.side (2 * c + p / 2) else p

def State.ulDropped (s : State) (i n : Nat) : State := (s.fhpCount i 12 n).raiseBit Reg.fhpSticky 13

/-- The ring whose head the device is and to which an uplink layer belongs. -/
def State.headRing (s : State) (layer : Nat) : Option Nat := [0, 1].find? (fun r => s.role r == 2 && s.ringCarries r 1 layer)

/-- The device sends an uplink layer of its own (R368): standalone, or as the head of the layer's ring. -/
def State.sendsUl (s : State) (layer : Nat) : Bool := (s.role 0 == 0 && s.role 1 == 0) || (s.headRing layer).isSome

/-- The status of an uplink section (R331, R339, R369): INC, and SHORT. -/
def State.sectStatus (s : State) (layer contrib : Nat) : Bool × Nat :=
  match s.headRing layer with
  | some r =>
    if contrib = s.expected r ∧ !bit (s.reg (Reg.argShed 1)) layer then (false, 0) else (true, min 127 (s.expected r - contrib))
  | none => (false, 0)

/-- The sums of one PRB of an uplink layer as they are sent: the own contribution, and at a head what came from east and west, added
in that order; devices summed and components saturated (R224). -/
def State.prbResult (s : State) (c layer : Nat) (tl : Int) (prb : Nat) : Option (List Int × Nat × Nat) :=
  (s.sumAt 0 c layer tl prb).map (fun x =>
    [1, 2].foldl (fun (a : List Int × Nat × Nat) side =>
      match s.sumAt side c layer tl prb with
      | some y =>
        let z := psAdd a.1 y.vals
        (z.1, a.2.1 + y.count, a.2.2 + z.2)
      | none => a) (x.vals, x.count, 0))

/-- The own contribution for the PRBs is ready, and a head has ceased to wait for what comes over the ring of the layer (R225); a shed
layer is sent at once with the own contribution (R339). -/
def State.resultDue (s : State) (c layer : Nat) (tl : Int) (prbs : List Nat) : Bool :=
  match prbs.mapM (s.sumAt 0 c layer tl) with
  | none => false
  | some l =>
    let x := readyAt l
    let in_ (side d : Nat) : Bool := d == 0 || s.pastDeadline x d || prbs.all (fun p => (s.sumAt side c layer tl p).isSome)
    x ≤ (s.nowU : Int) && (match s.headRing layer with
      | some r => bit (s.reg (Reg.argShed 1)) layer || (in_ 1 (s.arcsOf r).1 && in_ 2 (s.arcsOf r).2)
      | none => true)

/-- The frame of a section whose sums are `sum`, of `contrib` devices, `sat` components of which saturated. -/
def State.sendSums (s : State) (c layer : Nat) (air : AirRef) (id start contrib sat : Nat) (sum : List (List Int)) : State :=
  let i := s.ulPort c layer
  if !s.fhLink i then s.ulDropped i 1
  else
    let hdr := s.flag Reg.fhpComp 31
    let comp := s.flag Reg.fhpComp 0
    let w := if s.fld Reg.fhpComp 7 4 = 0 then 16 else s.fld Reg.fhpComp 7 4
    let enc := sum.map (ulEncode w (s.fld Reg.bmeUlOut 4 0) comp)
    let data := enc.flatMap (·.1)
    let vlan := s.reg (Reg.fhpPortVlan i)
    let size := 34 + (if bit vlan 31 then 4 else 0) + (if hdr then 2 else 0) + data.length
    if s.fld Reg.fhpCtl 29 16 < size then s
    else
      let st := s.sectStatus layer contrib
      let eaxc := s.fld Reg.fhpEaxc 15 12 * 4096 + s.fld Reg.fhpEaxc 11 7 * 128 + c % 2 * 32 + layer % 32
      let k := i * 2 ^ 16 + eaxc
      let seq := (alook s.fhp.txSeq k).getD 0
      let addr (hi lo : Nat) : Nat := (s.reg hi).toNat % 65536 * 2 ^ 32 + (s.reg lo).toNat
      let f : UlFrame :=
        { port := i, sa := addr (Reg.fhpPortSaHi i) (Reg.fhpPortSaLo i), da := addr (Reg.fhpPortDaHi i) (Reg.fhpPortDaLo i)
          tag := if bit vlan 31 then some (bits vlan 15 13, bits vlan 11 0) else none
          eaxc := eaxc, seq := seq, air := air, id := id, start := start, num := sum.length
          comp := if hdr then some (comp.toNat, s.fld Reg.fhpComp 7 4) else none
          ssb := if hdr then some (if s.flag Reg.fhpCtl 0 then st.1.toNat * 128 + st.2 else 0) else none
          data := data }
      let s1 := (((s.send (.uplink f)).bmeCount (3, sat)).bmeCount (4, (enc.map (·.2)).foldl (· + ·) 0)).fhpCount i 9 1
      let s2 : State := { s1 with fhp := { s1.fhp with txSeq := aput s1.fhp.txSeq k ((seq + 1) % 256) } }
      if st.1 then (s2.fhpCount i 10 1).raiseBit Reg.fhpSticky 10 else s2

/-- An uplink frame is sent (R368): one section of `num` PRBs of layer `layer` from `start`, encoded under R228, with the devices
summed in the PRB that lacks most (log 122). PRBs that were not combined are not sent (R234). A frame longer than MAX_FRAME is
not sent. -/
def State.sendUl (s : State) (c layer : Nat) (air : AirRef) (id start num : Nat) : State :=
  let prbs := (List.range num).map (start + ·)
  let tl := s.airAt c air.frame (s.airSym c air)
  let res := prbs.filterMap (s.prbResult c layer tl)
  if num = 0 ∨ !s.resultDue c layer tl prbs then s
  else s.sendSums c layer air id start (res.foldl (fun m x => min m x.2.1) 2047) (res.foldl (fun n x => n + x.2.2) 0) (res.map (·.1))

/-! ## Host queues (R372-R374) -/

def rxSlot (i k : Nat) : Nat := 0xE8000 + 0xC00 * i + 0x100 * k
def txSlot (i k : Nat) : Nat := 0xE8800 + 0xC00 * i + 0x100 * k

/-- The class of a received frame for the host queue (R373): 0 PTP, 1 and 2 eCPRI types 5 and 7, 3 HOST_ETYPE. -/
def State.hostClass (s : State) (i : Nat) (bs : List Byte) : Option Nat :=
  let e := etherOf bs
  let p := bs.drop e.2.2
  let udp := p.drop (4 * (byteAt p 0 % 16))
  let et := s.fld (Reg.fhpPortCtl i) 15 0
  if e.2.1 = 0x88F7 then some 0
  else if e.2.1 = 0x0800 ∧ byteAt p 9 = 17 ∧ (beNat udp 2 2 = 319 ∨ beNat udp 2 2 = 320) then some 0
  else if e.2.1 = 0xAEFE ∧ byteAt p 1 = 5 then some 1
  else if e.2.1 = 0xAEFE ∧ byteAt p 1 = 7 then some 2
  else if et ≠ 0 ∧ e.2.1 = et then some 3
  else none

/-- A time at the ball less or more a correction of its port, as TNS and fraction (R387). -/
def correct (tns : Word) (tfr : Nat) (d : Int) : Word × Nat :=
  let v := unsgn 48 ((tns.toNat * 65536 + tfr % 65536 : Nat) + d)
  (BitVec.ofNat 32 (v / 65536), v % 65536)

/-- A frame for the host queue arrives, `tns` and `tfr` its time at the ball; the corrected time is stored (R372, R387). One with a
foreign tag or address is no frame of the port (R361), and FRAME counts it. -/
def State.hostRx (s : State) (i : Nat) (bs : List Byte) (tns : Word) (tfr : Nat) : State :=
  let ts := correct tns tfr (- s.asym (Reg.tmuAsymRx (4 + i)))
  match s.hostClass i bs with
  | none => s
  | some cls =>
    if s.foreignVid i bs ∨ !s.addressOk i bs then s
    else if (cls = 1 ∨ cls = 2) ∧ byteAt (bs.drop (etherOf bs).2.2) 0 / 16 ≠ 1 then s.fhpCount i 2 1
    else
      let k := (alook s.fhp.rxNext i).getD 0
      let a := rxSlot i k
      if bit (s.rawWord a) 31 ∨ 240 < bs.length then (s.fhpCount i 8 1).raiseBit Reg.fhpSticky 9
      else
        let s1 := s.putWords a [BitVec.ofNat 32 (2 ^ 31 + cls * 256 + bs.length), ts.1, BitVec.ofNat 32 ts.2]
        let s2 := s1.putBytes (a + 16) bs
        { s2 with fhp := { s2.fhp with rxNext := aput s2.fhp.rxNext i ((k + 1) % 8) } }

/-- A write to the first word of a receive slot: 1 in FULL frees it. -/
def State.freeRx (s : State) (i k : Nat) (val mask : Word) : State :=
  let a := rxSlot i k
  if bit (val &&& mask) 31 then s.putWord a (putBit (s.rawWord a) 31 false) else s

/-- A write to the first word of a transmit slot; ignored while the slot waits to be sent (R374). -/
def State.writeTx (s : State) (i k : Nat) (val mask : Word) : State :=
  let a := txSlot i k
  let old := s.rawWord a
  let w := (old &&& ~~~ mask) ||| (val &&& mask)
  let len := if 14 ≤ bits w 7 0 ∧ bits w 7 0 ≤ 240 then bits w 7 0 else bits old 7 0
  if bit old 31 then s else s.putWord a (setBits (w &&& 0xC0FF0000) 7 0 len)

/-- The lowest slot that waits is sent at a frame boundary with its timestamp, corrected for its port (R374, R387). -/
def State.sendTx (s : State) (i : Nat) (tns : Word) (tfr : Nat) : State :=
  let ts := correct tns tfr (s.asym (Reg.tmuAsymTx (4 + i)))
  match (List.range 4).find? (fun k => bit (s.rawWord (txSlot i k)) 31) with
  | none => s
  | some k =>
    let a := txSlot i k
    let w := s.rawWord a
    let bs := (List.range (bits w 7 0)).map (fun j => s.byte (a + 16 + j))
    let o := bits w 23 16
    let add := (ts.1 - s.rawWord (a + 4)).toNat * 65536 + ts.2
    let cf := (beNat bs o 8 + add) % 2 ^ 64
    let bs1 := if bit w 30 ∧ o + 8 ≤ bs.length then
        bs.take o ++ (List.range 8).map (fun j => BitVec.ofNat 8 (cf / 2 ^ (8 * (7 - j)))) ++ bs.drop (o + 8)
      else bs
    let bs2 := bs1 ++ List.replicate (60 - bs1.length) 0
    let s1 := s.putWords (a + 8) [ts.1, BitVec.ofNat 32 ts.2]
    (s1.putWord a (putBit w 31 false)).send (.frame i (bs2 ++ wordBytes (crc32 bs2)))

/-! ## Commands -/

/-- A lane loses lock (R350, R352): a ring port narrows or goes down, a fronthaul port goes down. -/
def execLaneLoss (lane cause : Nat) (s : State) : Host.Outcome State Fault Refusal :=
  .next (if 80 ≤ lane ∨ 2 < cause ∨ !laneUp s lane then s
    else if lane < 64 then s.ringLaneLost lane cause
    else if s.flag (Reg.slnLaneStatus lane) 28 then
      let s1 := s.lolMarks lane cause
      if s1.fhLink (lanePort lane) then s1.linkDown (lanePort lane) 0 else s1
    else s)
def execLinkDown (i queued : Nat) (s : State) : Host.Outcome State Fault Refusal :=
  .next (if i < 4 ∧ s.fhLink i then s.linkDown i queued else s)

/-- The link comes up: at a speed advertised in ABIL under auto-negotiation, at SPEED without (R360). -/
def execLinkUp (i speed : Nat) (s : State) : Host.Outcome State Fault Refusal :=
  .next (if i < 4 ∧ s.up domFh ∧ !s.fhLink i ∧ s.flag (Reg.fhpPortCtl i) 31 ∧
      (if s.flag (Reg.fhpPortCtl i) 30 then speed < 6 ∧ s.flag (Reg.fhpPortCtl i) (16 + speed)
       else speed = s.fld (Reg.fhpPortCtl i) 26 24) ∧
      (List.range (speedLanes speed)).all (fun j => s.ready.contains (64 + 4 * i + j)) then s.linkUpAt i speed else s)
def execFrame (i : Nat) (bytes : List Byte) (fcs : Bool) (s : State) : Host.Outcome State Fault Refusal :=
  .next (if i < 4 ∧ s.fhLink i then s.takeFrame i bytes fcs else s)
def execCPlane (i : Nat) (msg : CMsg) (s : State) : Host.Outcome State Fault Refusal :=
  .next (if i < 4 ∧ s.fhLink i then s.takeC i msg else s)
def execUPlane (i : Nat) (msg : UMsg) (s : State) : Host.Outcome State Fault Refusal :=
  .next (if i < 4 ∧ s.fhLink i then s.takeU i msg else s)
def execHostRxFrame (i : Nat) (bytes : List Byte) (tns : Word) (tfr : Nat) (s : State) : Host.Outcome State Fault Refusal :=
  .next (if i < 4 ∧ s.fhLink i then s.hostRx i bytes tns tfr else s)
def execHostRxFree (port : Port) (i slot : Nat) (val : Word) (s : State) : Host.Outcome State Fault Refusal :=
  .next (if i < 4 ∧ slot < 8 then s.hostReg port (rxSlot i slot) (fun t => t.freeRx i slot val 0xFFFFFFFF) else s)
def execHostTx (port : Port) (i slot : Nat) (val : Word) (s : State) : Host.Outcome State Fault Refusal :=
  .next (if i < 4 ∧ slot < 4 then s.hostReg port (txSlot i slot) (fun t => t.writeTx i slot val 0xFFFFFFFF) else s)
def execHostTxDone (i : Nat) (tns : Word) (tfr : Nat) (s : State) : Host.Outcome State Fault Refusal :=
  .next (if i < 4 ∧ s.fhLink i then s.sendTx i tns tfr else s)

/-- Uplink is sent by a standalone device or a head (R368). -/
def execUlSend (c layer : Nat) (air : AirRef) (id start num : Nat) (s : State) : Host.Outcome State Fault Refusal :=
  .next (if c < 2 ∧ layer < 32 ∧ s.up domFh ∧ s.up domCrm ∧ s.carRuns c ∧ s.sendsUl layer then
    s.sendUl c layer air id start num else s)
def execUlDrop (c layer : Nat) (s : State) : Host.Outcome State Fault Refusal :=
  .next (if c < 2 ∧ layer < 32 ∧ s.up domFh then s.ulDropped (s.ulPort c layer) 1 else s)

end Sys2Proof.Machine
end

