-- ==== Sys2Proof/Machine/Dma.lean ====
section
/-! DEFINITION. The DMA engine (19_dma_engine.md): starts and their refusal, the two queues, pacing, descriptors and their checks,
transfers, end of chain and appending, errors and aborts. Host memory is outside: what the engine reads there comes with the
event that ends the read. -/
namespace Sys2Proof.Machine

/-- STATE codes (R393). -/
def chIdle : Nat := 0
def chQueued : Nat := 1
def chActive : Nat := 2
def chPace : Nat := 3
def chStopped : Nat := 4
def chError : Nat := 5
def chAborted : Nat := 6

def State.chState (s : State) (c : Nat) : Nat := s.fld (Reg.dmaChStatus c) 31 28
def State.setChState (s : State) (c v : Nat) : State := s.setFld (Reg.dmaChStatus c) 31 28 v

/-- The pace latch of a channel. -/
def State.paced (s : State) (c : Nat) : Bool := s.flag (Reg.dmaChStatus c) 16

/-- A 64-bit register pair. -/
def State.pair64 (s : State) (lo hi : Nat) : Nat := (s.reg hi).toNat * 2 ^ 32 + (s.reg lo).toNat
def State.setPair64 (s : State) (lo hi v : Nat) : State :=
  (s.setReg lo (BitVec.ofNat 32 v)).setReg hi (BitVec.ofNat 32 (v / 2 ^ 32))

def State.chCur (s : State) (c : Nat) : Nat := s.pair64 (Reg.dmaChCurLo c) (Reg.dmaChCurHi c)
def State.setChCur (s : State) (c v : Nat) : State := s.setPair64 (Reg.dmaChCurLo c) (Reg.dmaChCurHi c) v

/-! ## Addresses and descriptors (R391, R392) -/

/-- The address lies in the device. -/
def isDev (a : Nat) : Bool := a / 2 ^ 63 % 2 == 1
/-- The BAR0 offset of a device address, and its reserved bits. -/
def devOff (a : Nat) : Nat := a % 2 ^ 26
def devRsvd (a : Nat) : Nat := a / 2 ^ 26 % 2 ^ 37

/-- `n` bytes at `a` lie wholly in one memory window, or wholly below 2^63. -/
def rangeOk (a n : Nat) : Bool :=
  if isDev a then
    (match windowOf (devOff a) with
     | some w => devOff a + n ≤ w.1 + w.2.1
     | none => false)
  else a + n ≤ 2 ^ 63

/-- A descriptor address is aligned, in range, and has no reserved bit set. -/
def descAddrOk (a : Nat) : Bool := a % 32 == 0 && rangeOk a 32 && (!isDev a || devRsvd a == 0)

/-- The window at a device address is reachable: weight memory needs CRM (R30, R400). -/
def State.devUp (s : State) (a : Nat) : Bool :=
  match windowOf (devOff a) with
  | some w => s.up w.2.2
  | none => false

def dSrc (d : List Word) : Nat := ((d[1]?).getD 0).toNat * 2 ^ 32 + ((d[0]?).getD 0).toNat
def dDst (d : List Word) : Nat := ((d[3]?).getD 0).toNat * 2 ^ 32 + ((d[2]?).getD 0).toNat
def dLen (d : List Word) : Nat := bits ((d[4]?).getD 0) 23 0
def dFlag (d : List Word) (i : Nat) : Bool := bit ((d[5]?).getD 0) i
def dNext (d : List Word) : Nat := ((d[7]?).getD 0).toNat * 2 ^ 32 + ((d[6]?).getD 0).toNat / 32 * 32
def dEoc (d : List Word) : Bool := bit ((d[6]?).getD 0) 0

/-- A reserved bit of a descriptor is set: of its words, or of a device address in it. -/
def dRsvd (d : List Word) : Bool :=
  bits ((d[4]?).getD 0) 31 24 != 0 || bits ((d[5]?).getD 0) 26 0 != 0 || bits ((d[6]?).getD 0) 4 1 != 0
    || (isDev (dSrc d) && devRsvd (dSrc d) != 0) || (isDev (dDst d) && devRsvd (dDst d) != 0)

/-- The causes DESC_RSVD and RANGE of a fetched descriptor (R400). -/
def descError (d : List Word) : Option Nat :=
  if dRsvd d then some 2
  else if !rangeOk (dSrc d) (dLen d) || !rangeOk (dDst d) (dLen d) then some 3
  else none

/-- Words of the device from `a` on; where one is poisoned, the words before it and the mark (R48). -/
def State.readDevWords (s : State) : Nat → Nat → List Word × Bool × State
  | _, 0 => ([], false, s)
  | a, n + 1 =>
    let r := s.readEcc a
    if r.2.1 then ([], true, r.2.2)
    else
      let rs := State.readDevWords r.2.2 (a + 4) n
      (r.1 :: rs.1, rs.2.1, rs.2.2)

/-- The words that a list of bytes spells. -/
def wordsIn (bs : List Byte) : List Word := (List.range (bs.length / 4)).map (fun i => leWord ((bs.drop (4 * i)).take 4))

/-- What a host read of `n` bytes gave: its words, or the cause of R400. -/
def hostWords (r : HostCpl) (n : Nat) : Except Nat (List Word) :=
  match r with
  | .data bs => if n ≤ bs.length then .ok (wordsIn (bs.take n)) else .error 5
  | .poison _ => .error 4
  | .fail _ => .error 5

/-- `n` words at a DMA address, from the device or as the host gave them. -/
def State.dmaRead (s : State) (a n : Nat) (host : HostCpl) : Except Nat (List Word) × State :=
  if isDev a then
    if !s.devUp a then (.error 6, s)
    else
      let r := s.readDevWords (devOff a) n
      (if r.2.1 then .error 4 else .ok r.1, r.2.2)
  else (hostWords host (4 * n), s)

/-! ## Queues, stops and starts (R393, R394, R398-R401) -/

/-- The engine is given up by a channel. -/
def State.release (s : State) (c : Nat) : State :=
  let s1 : State := { s with dma := { s.dma with
    urgent := s.dma.urgent.filter (· != c), normal := s.dma.normal.filter (· != c),
    begun := s.dma.begun.filter (· != c), again := s.dma.again.filter (· != c) } }
  if s1.dma.active = some c then
    let s2 : State := { s1 with dma := { s1.dma with active := none } }
    (s2.setFlag Reg.dmaStatus 31 false).setFld Reg.dmaStatus 8 0 0
  else s1

/-- The stop of a channel reaches the fences that await it: an error or an abort fails them (R71). -/
def State.tellFences (s : State) (c : Nat) (bad : Bool) : State :=
  ((List.range 16).filter (fun i => (s.thread i).awaits.contains (.chan c))).foldl (fun (u : State) i =>
    u.setThread i { u.thread i with
      awaits := (u.thread i).awaits.filter (· != .chan c), fenceFail := (u.thread i).fenceFail || bad }) s

/-- A channel comes to a stop in state `st`. -/
def State.haltChan (s : State) (c st : Nat) : State :=
  ((s.release c).setChState c st).tellFences c (st == chError || st == chAborted)

/-- A channel stops: its event sets, and a FENCE that awaits it is done (R398). -/
def State.stopChan (s : State) (c st : Nat) : State := (s.haltChan c st).setEv (128 + c)

/-- A channel stops in ERROR (R400); `CUR` holds the failing descriptor. -/
def State.failChan (s : State) (c err : Nat) : State :=
  ((s.setFld (Reg.dmaChStatus c) 27 24 err).raiseBit Reg.dmaSticky 0).stopChan c chError

/-- A channel becomes QUEUED, at the back of its queue. -/
def State.enqueue (s : State) (c : Nat) : State :=
  let s1 := s.release c
  let s2 : State :=
    if s1.flag (Reg.dmaChCfg c) 31 then { s1 with dma := { s1.dma with urgent := s1.dma.urgent ++ [c] } }
    else { s1 with dma := { s1.dma with normal := s1.dma.normal ++ [c] } }
  s2.setChState c chQueued

/-- A channel waits for its pace latch. -/
def State.toPace (s : State) (c : Nat) : State := (s.release c).setChState c chPace

/-- The descriptor of a channel, once fetched. -/
def State.desc? (s : State) (c : Nat) : Option (List Word) := alook s.dma.desc c
def State.setDesc (s : State) (c : Nat) (d : Option (List Word)) : State :=
  { s with dma := { s.dma with desc := match d with
      | some l => aput s.dma.desc c l
      | none => sdel s.dma.desc c } }

/-- The channel fetches the descriptor at `a`: `CUR` shows it. A device fetch returns at once, with the descriptor or the
cause of an error; a host fetch returns with the event that ends it. -/
def State.fetchDesc (s : State) (c a : Nat) (host : Option HostCpl) : State × Option Nat :=
  let s1 := (s.setChCur c a).setDesc c none
  if !descAddrOk a then (s1, some 1)
  else
    let take (r : Except Nat (List Word) × State) : State × Option Nat :=
      match r.1 with
      | .error e => (r.2, some e)
      | .ok d => (r.2.setDesc c (some d), descError d)
    if isDev a then take (s1.dmaRead a 8 (.fail []))
    else match host with
      | some h => take (s1.dmaRead a 8 h)
      | none => (s1, none)

/-- The channel goes for the descriptor at `a` from outside the engine: QUEUED, WAIT_PACE or ERROR. -/
def State.goTo (s : State) (c a : Nat) : State :=
  let r := s.fetchDesc c a none
  match r.2 with
  | some e => r.1.failChan c e
  | none =>
    match r.1.desc? c with
    | some d => if dFlag d 31 && !r.1.paced c then r.1.toPace c else r.1.enqueue c
    | none => r.1.enqueue c

/-- A start is accepted in IDLE, STOPPED_EOC, ERROR and ABORTED (R393). -/
def State.startable (s : State) (c : Nat) : Bool := s.chState c == chIdle || 4 ≤ s.chState c

/-- A channel starts at `DESC` (R393, R399). -/
def State.startChan (s : State) (c : Nat) : State :=
  let s1 := (s.release c).setFld (Reg.dmaChStatus c) 27 24 0
  let s2 := s1.setReg (Reg.dmaChAppendSeen c) (s1.reg (Reg.dmaChAppendCnt c))
  s2.goTo c (s2.pair64 (Reg.dmaChDescLo c) (Reg.dmaChDescHi c))

/-- DMAGO (R116, R393). -/
def State.dmago (s : State) (c : Nat) (desc : Option Word) : State × Answer :=
  if !s.startable c then (s, .refuse ccPrecond 0x0501)
  else match desc with
    | none => (s.startChan c, { wait := some (.chan c) })
    | some g =>
      if g.toNat % 32 ≠ 0 ∨ 2 ^ 26 ≤ g.toNat ∨ (windowOf g.toNat).isNone then (s, .refuse ccPrecond 0x0502)
      else
        let s1 := s.setPair64 (Reg.dmaChDescLo c) (Reg.dmaChDescHi c) (2 ^ 63 + g.toNat)
        (s1.startChan c, { wait := some (.chan c) })

/-! ## Transfers (R396-R398) -/

/-- Fresh unspecified bytes. -/
def State.freeBytes (s : State) : Nat → List Byte × State
  | 0 => ([], s)
  | n + 1 =>
    let f := s.takeFree
    let r := State.freeBytes f.2 n
    (BitVec.ofNat 8 f.1.toNat :: r.1, r.2)

/-- Source and destination share a byte of the device. -/
def dOverlap (d : List Word) : Bool :=
  isDev (dSrc d) == isDev (dDst d) && dSrc d < dDst d + dLen d && dDst d < dSrc d + dLen d

/-- `n` bytes of the device from offset `o` on, or those before a poisoned word. -/
def State.gatherDev (s : State) (o n : Nat) : List Byte × Option Nat × State :=
  let r := s.readDevWords (o / 4 * 4) ((o + n + 3) / 4 - o / 4)
  (((r.1.flatMap wordBytes).drop (o % 4)).take n, if r.2.1 then some 4 else none, r.2.2)

/-- The `n` bytes a host read gave, and the cause that cuts them short. -/
def hostBytes (src : HostCpl) (n : Nat) : List Byte × Option Nat :=
  match src with
  | .data bs => (bs.take n, if bs.length < n then some 5 else none)
  | .poison bs => (bs.take n, some 4)
  | .fail bs => (bs.take n, some 5)

/-- The bytes a descriptor moves, and the cause that cuts them short. -/
def State.gather (s : State) (d : List Word) (src : HostCpl) : List Byte × Option Nat × State :=
  if isDev (dSrc d) then
    (if s.devUp (dSrc d) then s.gatherDev (devOff (dSrc d)) (dLen d) else ([], some 6, s))
  else ((hostBytes src (dLen d)).1, (hostBytes src (dLen d)).2, s)

/-- Bytes land at the destination, in host memory with NS_WR as the No Snoop attribute (R397); the cause of a stop when it
cannot be reached. -/
def State.deposit (s : State) (dst : Nat) (bs : List Byte) (noSnoop : Bool) : State × Option Nat :=
  if bs = [] then (s, none)
  else if isDev dst then
    if s.devUp dst then (s.windowWrite (devOff dst) (bs.map some), none) else (s, some 6)
  else (s.send (.hostWrite dst bs noSnoop), none)

/-- The bytes of a descriptor land. The source and destination ranges must never overlap (R392): where they do, the bytes that
land are unspecified. -/
def State.landBytes (s : State) (d : List Word) (bs : List Byte) : State × Option Nat :=
  if dOverlap d then (s.freeBytes bs.length).2.deposit (dDst d) (s.freeBytes bs.length).1 (dFlag d 27)
  else s.deposit (dDst d) bs (dFlag d 27)

/-- A descriptor's data moves. -/
def State.transfer (s : State) (d : List Word) (src : HostCpl) : State × Option Nat :=
  if dLen d = 0 then (s, none)
  else
    let g := s.gather d src
    let r := g.2.2.landBytes d g.1
    (r.1, r.2.or g.2.1)

/-- A descriptor starts (R394, R395): it consumes the pace latch where it is paced. How many requests are in flight until it
completes is not modelled. -/
def State.beginDesc (s : State) (c : Nat) (d : List Word) : State :=
  let s1 := if dFlag d 31 then s.setFlag (Reg.dmaChStatus c) 16 false else s
  let f := s1.takeFree
  let s2 : State := { f.2 with dma := { f.2.dma with active := some c, begun := f.2.dma.begun.filter (· != c) ++ [c] } }
  (((s2.setChState c chActive).setFlag Reg.dmaStatus 31 true).setFld Reg.dmaStatus 20 16 c).setFld Reg.dmaStatus 8 0
    (f.1.toNat % (s.fld Reg.dmaCtl 8 0 + 1))

/-- The active channel goes on to the descriptor at `a` (R394). -/
def State.proceed (s : State) (c a : Nat) (host : HostCpl) (yields : Bool) : State :=
  let r := s.fetchDesc c a (some host)
  match r.2, r.1.desc? c with
  | some e, _ => r.1.failChan c e
  | none, none => r.1.failChan c 5
  | none, some d =>
    if dFlag d 31 && !r.1.paced c then r.1.toPace c
    else if yields && (r.1.dma.urgent != [] || r.1.dma.normal != []) then r.1.enqueue c
    else r.1.beginDesc c d

/-- A re-read of the tail's NEXT is issued to the host. -/
def State.askHost (s : State) (c : Nat) : State := { s with dma := { s.dma with again := s.dma.again ++ [c] } }

/-- The tail's NEXT has been read again (R399). A doorbell that the active channel has counted since the re-read was issued is
answered by a re-read of its own, so that no append is lost (log 63). -/
def State.reread (s : State) (c : Nat) (ws : Except Nat (List Word)) (desc : HostCpl) : State :=
  let s1 : State := { s with dma := { s.dma with again := s.dma.again.erase c } }
  let live := s1.chState c == chActive
  match ws with
  | .error e => s1.failChan c e
  | .ok l =>
    let d := List.replicate 6 0 ++ l
    let cnt := s1.reg (Reg.dmaChAppendCnt c)
    if dEoc d then
      if !live then s1
      else if cnt = s1.reg (Reg.dmaChAppendSeen c) then s1.stopChan c chStopped
      else (s1.setReg (Reg.dmaChAppendSeen c) cnt).askHost c
    else if bits ((d[6]?).getD 0) 4 1 ≠ 0 then s1.failChan c 2
    else if live then
      s1.proceed c (dNext d) desc (match s.desc? c with
        | some t => dFlag t 29
        | none => false)
    else s1.goTo c (dNext d)

/-- NEXT of the tail at `CUR` is read again: at once from the device, with NEXT_REREAD from the host. -/
def State.askNext (s : State) (c : Nat) (desc : HostCpl) : State :=
  let a := s.chCur c + 24
  if isDev a then
    let r := s.dmaRead a 2 (.fail [])
    r.2.reread c r.1 desc
  else s.askHost c

/-- The writes of the active channel's descriptor have landed (R398): `src` the source bytes a host read gave, `next` the next
descriptor where the host holds it. -/
def State.descDone (s : State) (c : Nat) (d : List Word) (src next : HostCpl) : State :=
  let t := s.transfer d src
  match t.2 with
  | some e => t.1.failChan c e
  | none =>
    let s1 : State := { t.1 with dma := { t.1.dma with begun := t.1.dma.begun.filter (· != c) } }
    let s2 := s1.bump (Reg.dmaChDone c)
    let cnt := s2.reg (Reg.dmaChAppendCnt c)
    if dEoc d then
      if cnt = s2.reg (Reg.dmaChAppendSeen c) then s2.stopChan c chStopped
      else
        let s3 := if dFlag d 30 then s2.setEv (128 + c) else s2
        (s3.setReg (Reg.dmaChAppendSeen c) cnt).askNext c next
    else
      let s3 := if dFlag d 30 then s2.setEv (128 + c) else s2
      s3.proceed c (dNext d) next (dFlag d 29)

/-! ## Register writes -/

/-- The active channel is aborted with `landed` bytes of its descriptor already written (R401). -/
def State.abortActive (s : State) (c landed : Nat) (src : List Byte) : State :=
  match s.desc? c with
  | none => s.stopChan c chAborted
  | some d =>
    if !s.dma.begun.contains c then s.stopChan c chAborted
    else
      let g := s.gather d (.fail src)
      let r := g.2.2.deposit (dDst d) (g.1.take landed) (dFlag d 27)
      r.1.stopChan c chAborted

/-- ABORT (R401). -/
def State.abortChan (s : State) (c landed : Nat) (src : List Byte) : State :=
  if s.chState c = chQueued ∨ s.chState c = chPace then s.haltChan c chAborted
  else if s.chState c = chActive then s.abortActive c landed src
  else s

/-- A refused GO (R393). -/
def State.dmaBad (s : State) : State := (s.bump Reg.dmaCntBadw).raiseBit Reg.dmaSticky 1

/-- A write to `CH[c].CTL`; `landed` and `src` are what an active descriptor has moved where ABORT stops it. -/
def State.writeChCtl (s : State) (c : Nat) (val mask : Word) (landed : Nat) (src : List Byte) : State :=
  let w := val &&& mask
  let s1 := if bit w 31 then (if s.startable c then s.startChan c else s.dmaBad) else s
  if bit w 30 then s1.abortChan c landed src else s1

/-- The same through a path that brings no measurement: how far the descriptor had come is unspecified. -/
def State.writeChCtlFree (s : State) (c : Nat) (val mask : Word) : State :=
  match s.desc? c with
  | some d =>
    if bit (val &&& mask) 30 && s.chState c == chActive then
      let f := s.takeFree
      let n := f.1.toNat % (dLen d + 1)
      let b := f.2.freeBytes n
      b.2.writeChCtl c val mask n b.1
    else s.writeChCtl c val mask 0 []
  | none => s.writeChCtl c val mask 0 []

/-- A write to `CH[c].CFG` clears the pace latch (R395). -/
def State.writeChCfg (s : State) (c : Nat) (val mask : Word) : State :=
  (s.writeFields (Reg.dmaChCfg c) val mask).setFlag (Reg.dmaChStatus c) 16 false

/-- A write to `CH[c].APPEND` (R399). -/
def State.writeAppend (s : State) (c : Nat) : State :=
  let s1 := s.setReg (Reg.dmaChAppendCnt c) (s.reg (Reg.dmaChAppendCnt c) + 1)
  if s1.chState c = chStopped then (s1.setReg (Reg.dmaChAppendSeen c) (s1.reg (Reg.dmaChAppendCnt c))).askNext c (.fail [])
  else s1

/-- A pace source fires (R395): the latch of every channel it feeds sets; a channel that waited for it becomes QUEUED. -/
def State.pace (s : State) (src : Nat) : State :=
  ((List.range 32).filter (fun c => s.fld (Reg.dmaChCfg c) 29 24 == src)).foldl (fun t c =>
    if t.paced c then (t.bump (Reg.dmaChPaceOvr c)).raiseBit Reg.dmaSticky 2
    else
      let t1 := t.setFlag (Reg.dmaChStatus c) 16 true
      if t1.chState c = chPace then t1.enqueue c else t1) s

/-- The channel taken starts its descriptor, or waits for its pace latch. -/
def State.beginOrPace (s : State) (c : Nat) (d : List Word) : State :=
  if dFlag d 31 && !s.paced c then s.toPace c else s.beginDesc c d

/-- The engine takes the head of a queue (R394); `host` is the descriptor where the host holds it. -/
def State.takeChan (s : State) (c : Nat) (host : HostCpl) : State :=
  let s1 := s.release c
  match s1.desc? c with
  | some d => s1.beginOrPace c d
  | none =>
    let r := s1.fetchDesc c (s1.chCur c) (some host)
    match r.2, r.1.desc? c with
    | some e, _ => r.1.failChan c e
    | none, some d => r.1.beginOrPace c d
    | none, none => r.1.failChan c 5

/-! ## Commands -/

def execDmaGo (port : Port) (c : Nat) (val : Word) (s : State) : Host.Outcome State Fault Refusal :=
  .next (if c < 32 then
    s.hostReg port (Reg.dmaChCtl c) (fun t => t.writeChCtl c (val ||| 0x80000000) 0xFFFFFFFF 0 []) else s)
def execDmaAbort (port : Port) (c : Nat) (val : Word) (landed : Nat) (src : List Byte) (s : State) :
    Host.Outcome State Fault Refusal :=
  .next (if c < 32 then
    s.hostReg port (Reg.dmaChCtl c) (fun t => t.writeChCtl c (val ||| 0x40000000) 0xFFFFFFFF landed src) else s)
def execAppend (port : Port) (c : Nat) (_val : Word) (s : State) : Host.Outcome State Fault Refusal :=
  .next (if c < 32 then s.hostReg port (Reg.dmaChAppend c) (fun t => t.writeAppend c) else s)
def execChannelStart (host : HostCpl) (s : State) : Host.Outcome State Fault Refusal :=
  .next (if s.up domCob ∧ s.dma.active = none then
      match s.dma.urgent ++ s.dma.normal with
      | [] => s
      | c :: _ => s.takeChan c host
    else s)
def execPace (src : Nat) (s : State) : Host.Outcome State Fault Refusal :=
  .next (if src < 64 ∧ s.up domCob then s.pace src else s)
def execDescriptorDone (src next : HostCpl) (s : State) : Host.Outcome State Fault Refusal :=
  .next (match s.dma.active with
    | none => s
    | some c =>
      match s.desc? c with
      | some d => if s.dma.begun.contains c then s.descDone c d src next else s
      | none => s)
def execNextReread (c : Nat) (next desc : HostCpl) (s : State) : Host.Outcome State Fault Refusal :=
  .next (if s.dma.again.contains c then s.reread c (hostWords next 8) desc else s)

end Sys2Proof.Machine
end

