-- ==== Sys2Proof/Machine/Cvu.lean ====
section
/-! DEFINITION. The check-value units (20_check_value_units.md): the computation, the input queues, feeds, and saving and restoring
a context. -/
namespace Sys2Proof.Machine

/-! ## The computation (R404) -/

/-- The low `w` bits of a number in reverse order. -/
def reflectBits (w v : Nat) : Nat := (List.range w).foldl (fun a i => 2 * a + (v.testBit i).toNat) 0

/-- One bit of data enters the register. -/
def CvCfg.bitStep (g : CvCfg) (v : Nat) (b : Bool) : Nat :=
  let sh := v * 2 % 2 ^ g.width
  if v.testBit (g.width - 1) != b then sh ^^^ g.poly else sh

/-- One byte of data: least significant bit first with REFIN. -/
def CvCfg.byteStep (g : CvCfg) (v b : Nat) : Nat :=
  (List.range 8).foldl (fun v i => g.bitStep v (b.testBit (if g.refin then i else 7 - i))) v

/-- `n` bytes of a number, least significant first. -/
def CvCfg.feed (g : CvCfg) (v : Nat) : Nat → Nat → Nat
  | 0, _ => v
  | n + 1, d => CvCfg.feed g (g.byteStep v (d % 256)) n (d / 256)

/-- The value START leaves in the register. -/
def CvCfg.begin (g : CvCfg) : Nat := g.feed g.init g.foldLen g.fold

/-- RESULT. -/
def CvCfg.result (g : CvCfg) (v : Nat) : Nat := (if g.refout then reflectBits g.width v else v) ^^^ g.xorout

/-! ## Contexts (R405, R407, R410) -/

def State.cv (s : State) (c : Nat) : CvCtx := (alook s.cvu.ctx c).getD {}
def State.setCv (s : State) (c : Nat) (x : CvCtx) : State := { s with cvu := { s.cvu with ctx := aput s.cvu.ctx c x } }

def State.cvValue (s : State) (c : Nat) : Nat := s.pair64 (Reg.cvuCvValueLo c) (Reg.cvuCvValueHi c)

/-- BUSY and LEVEL follow the queue. -/
def State.showCv (s : State) (c : Nat) : State :=
  let n := (s.cv c).queue.length
  (s.setFlag (Reg.cvuCvCtl c) 30 (n != 0)).setFld (Reg.cvuCvCtl c) 3 0 n

/-- The running register takes a value, and RESULT with it. -/
def State.setCvValue (s : State) (c v : Nat) : State :=
  (s.setPair64 (Reg.cvuCvValueLo c) (Reg.cvuCvValueHi c) v).setPair64 (Reg.cvuCvResultLo c) (Reg.cvuCvResultHi c)
    ((s.cv c).cfg.result v)

/-- One entry takes effect (R407). -/
def State.cvApply (s : State) (c : Nat) : CvEntry → State
  | .start g => (((s.setCv c { s.cv c with cfg := g }).setReg (Reg.cvuCvCount c) 0)).setCvValue c g.begin
  | .feed n d => (s.count (Reg.cvuCvCount c) 31 0 n).setCvValue c ((s.cv c).cfg.feed (s.cvValue c) n d)
  | .set v => s.setCvValue c (v % 2 ^ (s.cv c).cfg.width)

/-- A context finishes its oldest entry. -/
def State.cvStep (s : State) (c : Nat) : State :=
  match (s.cv c).queue with
  | [] => s
  | e :: q => ((s.setCv c { s.cv c with queue := q }).cvApply c e).showCv c

/-- Every queued entry is processed. -/
def State.cvDrain (s : State) (c : Nat) : State :=
  (List.range (s.cv c).queue.length).foldl (fun t _ => t.cvStep c) s

/-- The queue has no room. -/
def State.cvFull (s : State) (c : Nat) : Bool := 8 ≤ (s.cv c).queue.length

/-- An entry is queued; a port whose entry finds the queue full holds its access until one has been processed (R407). -/
def State.cvPush (s : State) (c : Nat) (e : CvEntry) : State :=
  let s1 := if s.cvFull c then s.cvStep c else s
  (s1.setCv c { s1.cv c with queue := (s1.cv c).queue ++ [e] }).showCv c

/-! ## Registers (R405, R406, R408, R409) -/

/-- WIDTH of the configuration register. -/
def State.cvWidth (s : State) (c : Nat) : Nat := s.fld (Reg.cvuCvCfg c) 6 0

/-- The configuration a START latches. -/
def State.cvConfig (s : State) (c : Nat) : CvCfg :=
  let m := 2 ^ s.cvWidth c
  let w := s.reg (Reg.cvuCvCfg c)
  { refin := bit w 31, refout := bit w 30, width := bits w 6 0, foldLen := bits w 19 16
    poly := s.pair64 (Reg.cvuCvPolyLo c) (Reg.cvuCvPolyHi c) % m, init := s.pair64 (Reg.cvuCvInitLo c) (Reg.cvuCvInitHi c) % m
    xorout := s.pair64 (Reg.cvuCvXoroutLo c) (Reg.cvuCvXoroutHi c) % m
    fold := s.pair64 (Reg.cvuCvFoldLo c) (Reg.cvuCvFoldHi c) }

/-- A write to `CV[c].CTL`. -/
def State.writeCvCtl (s : State) (c : Nat) (val mask : Word) : State :=
  if bit (val &&& mask) 31 then s.cvPush c (.start (s.cvConfig c)) else s

/-- A write to `CV[c].CFG` (R406). -/
def State.writeCvCfg (s : State) (c : Nat) (val mask : Word) : State :=
  let old := s.reg (Reg.cvuCvCfg c)
  let w := (old &&& ~~~ mask) ||| (val &&& mask)
  let badW := bits w 6 0 == 0 || 64 < bits w 6 0
  let badF := 8 < bits w 19 16
  let w1 := if badW then setBits w 6 0 (bits old 6 0) else w
  let w2 := if badF then setBits w1 19 16 (bits old 19 16) else w1
  let s1 := s.writeFields (Reg.cvuCvCfg c) w2 0xFFFFFFFF
  if badW || badF then (s1.bump Reg.cvuCntBadw).raiseBit Reg.cvuSticky 0 else s1

/-- The bits of a word of POLY, INIT or XOROUT below W: those at or above it are ignored on write and read 0 (R404). FOLD holds
all its bits (R411, R412; log 60). -/
def State.cvMask (s : State) (off : Nat) : Word :=
  let c := (off - 0x70100) / 0x80
  let r := (off - 0x70100) % 0x80
  if 0x08 ≤ r ∧ r < 0x20 then
    let m := 2 ^ s.cvWidth c - 1
    BitVec.ofNat 32 (if r % 8 = 0 then m else m / 2 ^ 32)
  else 0xFFFFFFFF

/-- A write to a word of POLY, INIT, XOROUT or FOLD. -/
def State.writeCvWord (s : State) (off : Nat) (val mask : Word) : State := s.writeFields off (val &&& s.cvMask off) mask

/-- The key of a staging word: context, writer, and 0 for FEED64 or 1 for VALUE. -/
def stageKey (c w kind : Nat) : Nat := c * 8 + w * 2 + kind

/-- Who writes, as a number: PCIe, management port, threads. The staging words of the threads are one (log 132). -/
def writerNo : Writer → Nat
  | some .pcie => 0
  | some .mgmt => 1
  | none => 2

def State.putStage (s : State) (k : Nat) (v : Option Word) : State :=
  { s with cvu := { s.cvu with stage := match v with
      | some w => aput s.cvu.stage k w
      | none => sdel s.cvu.stage k } }

/-- A write to FEED64_HI: the staged low word, or 0 with HALF_FEED (R408). -/
def State.feedHigh (s : State) (w : Writer) (c : Nat) (val : Word) : State :=
  let k := stageKey c (writerNo w) 0
  let s1 := if (alook s.cvu.stage k).isSome then s else s.raiseBit Reg.cvuSticky 1
  let lo := (alook s.cvu.stage k).getD 0
  (s1.putStage k none).cvPush c (.feed 8 (val.toNat * 2 ^ 32 + lo.toNat))

/-- A write to the high word of VALUE: with the low word staged by the same port (R409); 0 where none is (log 61). -/
def State.valueHigh (s : State) (w : Writer) (c : Nat) (val : Word) : State :=
  let k := stageKey c (writerNo w) 1
  let lo := (alook s.cvu.stage k).getD 0
  (s.putStage k none).cvPush c (.set (val.toNat * 2 ^ 32 + lo.toNat))

/-- A write into the block of context c at word `r` of it. -/
def State.writeCv (s : State) (w : Writer) (c r : Nat) (val mask : Word) : State :=
  let v := val &&& mask
  let off := 0x70100 + 0x80 * c + r
  if r = 0 then s.writeCvCtl c val mask
  else if r = 4 then s.writeCvCfg c val mask
  else if r < 0x28 then s.writeCvWord off val mask
  else if r = 0x28 then s.putStage (stageKey c (writerNo w) 1) (some ((s.reg off &&& ~~~ mask) ||| v))
  else if r = 0x2C then s.valueHigh w c ((s.reg off &&& ~~~ mask) ||| v)
  else if r = 0x40 then s.cvPush c (.feed 1 (bits v 7 0))
  else if r = 0x44 then s.cvPush c (.feed 2 (bits v 15 0))
  else if r = 0x48 then s.cvPush c (.feed 4 v.toNat)
  else if r = 0x4C then s.putStage (stageKey c (writerNo w) 0) (some v)
  else if r = 0x50 then s.feedHigh w c v
  else s

/-- A host write into the block of context c. -/
def State.cvHost (s : State) (port : Port) (c r : Nat) (val : Word) : State :=
  if c < 8 then s.hostReg port (0x70100 + 0x80 * c + r) (fun t => t.writeCv (some port) c r val 0xFFFFFFFF) else s

/-! ## Commands -/

def execCvStart (port : Port) (c : Nat) (val : Word) (s : State) : Host.Outcome State Fault Refusal :=
  .next (s.cvHost port c 0 (val ||| 0x80000000))
def execCvCfgWrite (port : Port) (c : Nat) (val : Word) (s : State) : Host.Outcome State Fault Refusal :=
  .next (s.cvHost port c 4 val)
def execFeed8 (port : Port) (c : Nat) (val : Word) (s : State) : Host.Outcome State Fault Refusal :=
  .next (s.cvHost port c 0x40 val)
def execFeed16 (port : Port) (c : Nat) (val : Word) (s : State) : Host.Outcome State Fault Refusal :=
  .next (s.cvHost port c 0x44 val)
def execFeed32 (port : Port) (c : Nat) (val : Word) (s : State) : Host.Outcome State Fault Refusal :=
  .next (s.cvHost port c 0x48 val)
def execFeed64Lo (port : Port) (c : Nat) (val : Word) (s : State) : Host.Outcome State Fault Refusal :=
  .next (s.cvHost port c 0x4C val)
def execFeed64Hi (port : Port) (c : Nat) (val : Word) (s : State) : Host.Outcome State Fault Refusal :=
  .next (s.cvHost port c 0x50 val)

/-- The low word is staged; the high word queues the entry (R409). -/
def execValueWrite (port : Port) (c : Nat) (high : Bool) (val : Word) (s : State) : Host.Outcome State Fault Refusal :=
  .next (s.cvHost port c (if high then 0x2C else 0x28) val)
def execQueueEntry (c : Nat) (s : State) : Host.Outcome State Fault Refusal :=
  .next (if c < 8 ∧ s.up domCob then s.cvStep c else s)

end Sys2Proof.Machine
end

