-- ==== Sys2Proof/Machine/Tlp.lean ====
section
/-! DEFINITION. The control registers of the timeline processor as the host and the threads write them: run, step, reset and
halt of a thread (R77-R79), its register file (R80), watchdog (R78), event latches (R67, R68), cancels (R64) and the
completion ring (R65). -/
namespace Sys2Proof.Machine

/-! ## Units and debug stops -/

/-- The DSP unit of a thread (R120). -/
def State.duOf (s : State) (i : Nat) : Nat := s.fld (Reg.tlpThCtl i) 10 8

/-- A thread is no longer shown waiting for a unit (R144). -/
def State.leaveDu (s : State) (i : Nat) : State :=
  (List.range 8).foldl (fun t u => if t.flag (Reg.tlpDuStatus u) i then t.setFlag (Reg.tlpDuStatus u) i false else t) s

/-- A running block of a thread is abandoned: its unit is free (R136). -/
def State.dropBlock (s : State) (i : Nat) : State :=
  match (s.thread i).block with
  | some u => (s.setFlag (Reg.tlpDuStatus u) 31 false).setThread i { s.thread i with block := none, blockEv := false, saved := [] }
  | none => s

/-- A halt request of the debugger (R79): a READY thread stops at its instruction boundary, after a running block or a read that
has yet to return; a waiting thread leaves its wait at once, but one whose condition has come about stops once the wait has
ended; any other ignores it. -/
def State.haltThread (s : State) (i : Nat) : State :=
  let st := s.thState i
  if st = stReady then
    (if (s.thread i).block.isSome || (s.thread i).reading then s.setThread i { s.thread i with haltReq := true } else s.debugStop i false)
  else if stWaitEv ≤ st ∧ st ≤ stWaitDu then
    (if (s.thread i).hit then s.setThread i { s.thread i with haltReq := true } else (s.leaveDu i).debugStop i false)
  else s

/-- The debugger is locked out (LOCK_DEBUG of R481). -/
def State.debugLocked (s : State) : Bool := s.otpLock 3

/-- A write to `TLP.CTL` (R79, R82). -/
def State.writeTlpCtl (s : State) (val mask : Word) : State :=
  let s1 := s.writeFields Reg.tlpCtl val mask
  let h := setBitsOf (val &&& mask) 16
  if h = [] then s1
  else if s.debugLocked then s1.tlpBadWrite
  else h.foldl State.haltThread s1

/-! ## Run, step and reset (R77, R79) -/

/-- A write of 1 to `CTL.RUN`. -/
def State.runThread (s : State) (i : Nat) : State :=
  let st := s.thState i
  if st = stHalted ∨ st = stFault then s.startThread i
  else if st = stDebug then s.resumeThread i
  else s

/-- A write of 1 to `CTL.STEP`: a thread in DEBUG is let go for one instruction. -/
def State.stepThread (s : State) (i : Nat) : State :=
  if s.thState i = stDebug then
    let s1 := s.setThState i stReady
    s1.setThread i { s1.thread i with hit := false, stepping := true, skipBp := true }
  else s

/-- A write to `TLP.TH[i].CTL` (R83); RESET acts before RUN and STEP, and a 0 in RUN stops nothing (log 20). -/
def State.writeThCtl (s : State) (i : Nat) (val mask : Word) : State :=
  let w := val &&& mask
  let s1 := s.writeFields (Reg.tlpThCtl i) val (mask &&& 0xFFFFFFF8)
  let s2 := if bit w 2 then ((s1.dropBlock i).leaveDu i).resetThread i else s1
  let s3 := if bit w 0 then s2.runThread i else s2
  if bit w 1 then (if s.debugLocked then s3.tlpBadWrite else s3.stepThread i) else s3

/-! ## Register file (R80) -/

/-- The thread whose block holds an offset. -/
def thOfReg (off : Nat) : Nat := (off - 0x102000) / 0x200

/-- PC, STAT or a register of the register-file window. -/
def isThReg (off : Nat) : Bool :=
  0x102000 ≤ off && off < 0x104000 && isThState (thOfReg off) off && (declOf off).isSome

/-- The thread is HALTED, in DEBUG or in FAULT. -/
def State.thStopped (s : State) (i : Nat) : Bool :=
  s.thState i == stHalted || s.thState i == stDebug || s.thState i == stFault

/-- R80 discards a write to the register at `off`. -/
def State.r80Discards (s : State) (off : Nat) : Bool := isThReg off && !s.thStopped (thOfReg off)

/-- A write to PC, STAT or the register file. -/
def State.writeRegfile (s : State) (off : Nat) (val mask : Word) : State :=
  let new := (s.reg off &&& ~~~ mask) ||| (val &&& mask)
  if s.debugLocked || s.r80Discards off || (off == Reg.tlpThRsDepth (thOfReg off) && 16 < bits new 4 0) then s.tlpBadWrite
  else s.writeFields off val mask

/-! ## Watchdog (R78) -/

/-- The watchdog count of a thread restarts. -/
def State.kick (s : State) (i : Nat) : State := s.setThread i { s.thread i with wdt := 0 }

def State.writeWdtKick (s : State) (w : Word) : State := (setBitsOf w 16).foldl State.kick s

/-- A write to `TH[i].WDT`: one that lands restarts the count. -/
def State.writeWdt (s : State) (i : Nat) (val mask : Word) : State :=
  if s.locked (Reg.tlpThWdt i) then s else (s.writeFields (Reg.tlpThWdt i) val mask).kick i

/-! ## Events, cancels, completion ring -/

/-- A write to `TLP.EV_SET` (R68). -/
def State.writeEvSet (s : State) (w : Word) : State :=
  if bits w 7 0 < 128 then s.setEv (bits w 7 0) else s.tlpBadWrite

/-- A write of 1 to `TLP.EV[j]` clears latches (R67). -/
def State.writeEv (s : State) (j : Nat) (w : Word) : State := s.setReg (Reg.tlpEv j) (s.reg (Reg.tlpEv j) &&& ~~~ w)

/-- A write to `TLP.TAQ_CANCEL` (R64). -/
def State.writeTaqCancel (s : State) (w : Word) : State :=
  if bit w 24 then s.cancelThread (bits w 19 16) else s.cancel (bits w 8 0)

/-- A write to `TLP.CR_TAIL` (R65): it may not move past the head or more than a ring behind it;
moved back, it may bring the level to the threshold of R66. -/
def State.writeCrTail (s : State) (val mask : Word) : State :=
  let v := bits ((s.reg Reg.tlpCrTail &&& ~~~ mask) ||| (val &&& mask)) 15 0
  if s.crSize < (s.fld Reg.tlpCrHead 15 0 + 65536 - v) % 65536 then s.tlpBadWrite
  else
    let s1 := s.setFld Reg.tlpCrTail 15 0 v
    let n := s.fld Reg.tlpCrThresh 12 0
    if s.crUsed < n ∧ n ≤ s1.crUsed then s1.setEv 175 else s1

/-- A write to `TLP.CR_BASE` or `CR_SIZE` sets head and tail to 0 (R65). -/
def State.writeCrConfig (s : State) (off : Nat) (val mask : Word) : State :=
  ((s.writeFields off val mask).setReg Reg.tlpCrHead 0).setReg Reg.tlpCrTail 0

/-- A write to a breakpoint or to `TLP.TRACE`, discarded under LOCK_DEBUG (R481). -/
def State.writeDebug (s : State) (off : Nat) (val mask : Word) : State :=
  if s.debugLocked then s.tlpBadWrite else s.writeFields off val mask

/-- A write to a register of the timeline processor's block that has rules of its own. -/
def State.writeTlp (s : State) (off : Nat) (val mask : Word) : State :=
  let w := val &&& mask
  if off = Reg.tlpCtl then s.writeTlpCtl val mask
  else if off = Reg.tlpTaqCancel then s.writeTaqCancel w
  else if off = Reg.tlpCrBase ∨ off = Reg.tlpCrSize then s.writeCrConfig off val mask
  else if off = Reg.tlpCrTail then s.writeCrTail val mask
  else if off = Reg.tlpEvSet then s.writeEvSet w
  else if off = Reg.tlpWdtKick then s.writeWdtKick w
  else if 0x100080 ≤ off ∧ off < 0x1000A0 then s.writeEv ((off - 0x100080) / 4) w
  else if (0x100100 ≤ off ∧ off < 0x100140) ∨ off = Reg.tlpTrace then s.writeDebug off val mask
  else if isThReg off then s.writeRegfile off val mask
  else if 0x102000 ≤ off ∧ off < 0x104000 ∧ off = Reg.tlpThCtl (thOfReg off) then s.writeThCtl (thOfReg off) val mask
  else if 0x102000 ≤ off ∧ off < 0x104000 ∧ off = Reg.tlpThWdt (thOfReg off) then s.writeWdt (thOfReg off) val mask
  else s.writeFields off val mask

/-! ## Commands -/

def execTaqCancelTag (port : Port) (val : Word) (s : State) : Host.Outcome State Fault Refusal :=
  .next (s.hostReg port Reg.tlpTaqCancel (fun t => t.writeTaqCancel (putBit val 24 false)))
def execTaqCancelThread (port : Port) (val : Word) (s : State) : Host.Outcome State Fault Refusal :=
  .next (s.hostReg port Reg.tlpTaqCancel (fun t => t.writeTaqCancel (putBit val 24 true)))
def execCrTailWrite (port : Port) (val : Word) (s : State) : Host.Outcome State Fault Refusal :=
  .next (s.hostReg port Reg.tlpCrTail (fun t => t.writeCrTail val 0xFFFFFFFF))
def execCrConfigWrite (port : Port) (size : Bool) (val : Word) (s : State) : Host.Outcome State Fault Refusal :=
  .next (s.hostReg port Reg.tlpCrBase
    (fun t => t.writeCrConfig (if size then Reg.tlpCrSize else Reg.tlpCrBase) val 0xFFFFFFFF))
def execEvSet (port : Port) (val : Word) (s : State) : Host.Outcome State Fault Refusal :=
  .next (s.hostReg port Reg.tlpEvSet (fun t => t.writeEvSet val))
def execEvClear (port : Port) (j : Nat) (val : Word) (s : State) : Host.Outcome State Fault Refusal :=
  .next (if j < 8 then s.hostReg port (Reg.tlpEv j) (fun t => t.writeEv j val) else s)
def execWdtKick (port : Port) (val : Word) (s : State) : Host.Outcome State Fault Refusal :=
  .next (s.hostReg port Reg.tlpWdtKick (fun t => t.writeWdtKick val))
def execWdtWrite (port : Port) (th : Nat) (val : Word) (s : State) : Host.Outcome State Fault Refusal :=
  .next (if th < 16 then s.hostReg port (Reg.tlpThWdt th) (fun t => t.writeWdt th val 0xFFFFFFFF) else s)
def execHaltRequest (port : Port) (val : Word) (s : State) : Host.Outcome State Fault Refusal :=
  .next (s.hostReg port Reg.tlpCtl (fun t => t.writeTlpCtl val 0xFFFFFFFF))
def execRun (port : Port) (th : Nat) (val : Word) (s : State) : Host.Outcome State Fault Refusal :=
  .next (if th < 16 then s.hostReg port (Reg.tlpThCtl th) (fun t => t.writeThCtl th (putBit val 0 true) 0xFFFFFFFF) else s)
def execThreadReset (port : Port) (th : Nat) (val : Word) (s : State) : Host.Outcome State Fault Refusal :=
  .next (if th < 16 then s.hostReg port (Reg.tlpThCtl th) (fun t => t.writeThCtl th (putBit val 2 true) 0xFFFFFFFF) else s)
def execRegfileWrite (port : Port) (off : Nat) (val : Word) (s : State) : Host.Outcome State Fault Refusal :=
  .next (if isThReg off then s.hostReg port off (fun t => t.writeRegfile off val 0xFFFFFFFF) else s)

end Sys2Proof.Machine
end

