-- ==== Sys2Proof/Machine/Host.lean ====
section
/-! DEFINITION. The host's doors (02_control_surfaces.md): what a register reads as and what a write to it does, for the PCIe
port, the management port and the threads; memory windows; 64-bit shadows (R33); eMRAM and QSPI access (R45, R46);
scrubbing (R50). -/
namespace Sys2Proof.Machine

/-! ## The configuration of the PCIe endpoint (R25) -/

/-- A word of the configuration header: Vendor and Device ID, class code and Revision ID, BAR0 a 64-bit memory region without
prefetch, of which BAR1 is the high word; BAR2-BAR5 and the expansion ROM read 0. -/
def pcieHeader (off : Nat) : Word :=
  match off with
  | 0x00 => 0x01281F4B
  | 0x08 => 0x118000A1
  | 0x10 => 0x00000004
  | _ => 0

/-- Bytes of BAR0. -/
def bar0Size : Nat := 0x4000000

/-- Bytes of a DMA read request, and how many may be outstanding without and with Extended Tag Field Enable. -/
def dmaRead : Nat := 256
def dmaOutstanding (extended : Bool) : Nat := if extended then 256 else 32

/-! ## What a register reads as -/

/-- A 64-bit value split over two words is signed in its high word (R379). -/
def sextHi (w : Word) : Word := sext32 16 w.toNat

/-- A register of a thread's block as others see it: while a block instruction runs, its results are not visible (R80, R87). -/
def State.thReg (s : State) (off : Nat) : Word :=
  let i := thOfReg off
  if isThState i off && (s.thread i).block.isSome then sget resetOf (s.thread i).saved off else s.reg off

/-- A register of TLP as it reads: path pairs and positions as they stand, 24-bit thread registers sign-extended (R83). -/
def State.viewTlp (s : State) (off : Nat) : Word :=
  if 0x104800 ≤ off ∧ off < 0x104A00 then s.psView ((off - 0x104800) / 4)
  else if off = Reg.tlpAirPos 0 then s.airPos 0
  else if off = Reg.tlpAirPos 1 then s.airPos 1
  else if 0x102000 ≤ off ∧ off < 0x104000 then
    (if 0x80 ≤ off % 0x200 ∧ off % 0x200 < 0x140 then sext32 24 (s.thReg off).toNat else s.thReg off)
  else s.reg off

/-- A register of TMU as it reads (R376, R379, R382). -/
def State.viewTmu (s : State) (off : Nat) : Word :=
  if off = Reg.tmuTime then s.tns
  else if off = Reg.tmuTimeHi then s.timeHi
  else if off = Reg.tmuStatus then s.tmuStatusView
  else if off = Reg.tmuSlip then s.slipView
  else if off = Reg.tmuRateReqHi ∨ off = Reg.tmuRateHi ∨ off = Reg.tmuCcsFixedHi then sextHi (s.reg off)
  else s.reg off

/-- A register of LOS as it reads: LO_OK (R279), and the rate each conversion clock follows (R269). -/
def State.viewLos (s : State) (off : Nat) : Word :=
  let r := off - 0xC0000
  if 0x100 ≤ r ∧ r < 0x900 ∧ r % 0x100 = 8 then putBit (s.reg off) 31 (s.loOk ((r - 0x100) / 0x100))
  else if 0x900 ≤ r ∧ r < 0x940 ∧ r % 0x10 = 4 then (if s.steerOn then s.reg Reg.tmuRateLo else s.reg Reg.tmuCcsFixedLo)
  else if 0x900 ≤ r ∧ r < 0x940 ∧ r % 0x10 = 8 then
    sextHi (if s.steerOn then s.reg Reg.tmuRateHi else s.reg Reg.tmuCcsFixedHi)
  else s.reg off

/-- A register of SEC as it reads (R481, R482). -/
def State.viewSec (s : State) (off : Nat) : Word :=
  if off = Reg.secStatus then s.secStatusView
  else if off = Reg.secOtpData then s.otpDataView
  else if off = Reg.secOtpCtl then putBit (s.reg off) 30 s.sec.prog.isSome
  else if off = Reg.secLocks then s.otpShadow 0x33
  else s.reg off

/-- The value a register of a block that is up reads as, without the effect of the read. Reserved bits read 0 (R10), those of a
block address too, which keeps what was written there for RANGE (R248, R265; log 117). -/
def State.viewReg (s : State) (off : Nat) : Word :=
  if isBufOff off then (if 0x580000 ≤ off then pageRead (off % 0x400) (s.rawWord off) else s.rawWord off)
  else if off < 0x120000 then
    match off / 0x10000 with
    | 0 => if off = Reg.glbAlertSum then s.alertSum else s.reg off
    | 2 => if off = Reg.clkPllStatus then s.pllStatus else if off = Reg.clkCobFreq then s.cobFreq else s.reg off
    | 4 => s.viewSec off
    | 6 => s.viewTmu off
    | 7 => s.reg off &&& (if 0x70100 ≤ off ∧ off < 0x70500 then s.cvMask off else 0xFFFFFFFF)
    | 10 =>
      if 0xA1000 ≤ off ∧ off < 0xA2000 then
        let i := (off - 0xA1000) / 16
        if off % 16 = 0 then s.bdaCfg i else if off % 16 = 12 then BitVec.ofNat 32 (s.applied i) else s.reg off
      else s.reg off
    | 12 => s.viewLos off
    | 14 => if off = Reg.fhpWinEff 0 then s.winEff 0 else if off = Reg.fhpWinEff 1 then s.winEff 1 else s.reg off
    | 15 =>
      if off = Reg.argRingStatus 0 then putBit (s.reg off) 31 (s.hold 0)
      else if off = Reg.argRingStatus 1 then putBit (s.reg off) 31 (s.hold 1)
      else s.reg off
    | 16 => s.viewTlp off
    | _ => s.reg off
  else if 0x200000 ≤ off ∧ off < 0x280000 ∧ off % 0x1000 = 4 then s.txdStatus ((off - 0x200000) / 0x1000)
  else if off = Reg.sicSnapAddr ∨ (0x600200 ≤ off ∧ off < 0x600300 ∧ off % 0x20 = Reg.linObsAddr 0 % 0x20) then
    s.reg off &&& 0x1FFFFC0
  else if off = Reg.bmeCar 0 then s.carView 0
  else if off = Reg.bmeCar 1 then s.carView 1
  else if off = Reg.bmeBank then s.bankView
  else if off = Reg.bmeRingDepth then s.ringDepth
  else s.reg off

/-- The high word of the 64-bit register whose low word lies at `off` (R33). -/
def highOf (off : Nat) : Option Nat :=
  if off = Reg.tmuTime ∨ off = Reg.tmuRateReqLo ∨ off = Reg.tmuRateLo ∨ off = Reg.tmuCcsFixedLo ∨ off = Reg.tlpAirAfc then
    some (off + 4)
  else if 0x70100 ≤ off ∧ off < 0x70500 then
    let r := (off - 0x70100) % 0x80
    if 8 ≤ r ∧ r < 0x38 ∧ r % 8 = 0 then some (off + 4) else none
  else if 0x80100 ≤ off ∧ off < 0x80900 then
    let r := (off - 0x80100) % 0x40
    if r = 8 ∨ r = 0x10 then some (off + 4) else none
  else if 0xC0900 ≤ off ∧ off < 0xC0940 then (if off % 0x10 = 4 then some (off + 4) else none)
  else if 0xD1000 ≤ off ∧ off < 0xD2400 then (if (off - 0xD1000) % 0x40 = 0x14 then some (off + 4) else none)
  else if 0x102000 ≤ off ∧ off < 0x104000 then
    let r := off % 0x200
    if 0x140 ≤ r ∧ r < 0x180 ∧ r % 0x10 = 0 then some (off + 4) else none
  else if 0x118000 ≤ off ∧ off < 0x118400 then (if off % 0x10 = 0 then some (off + 4) else none)
  else none

/-! ## Offsets -/

/-- A register range of BAR0 (R27). -/
def isRegOff (off : Nat) : Bool := off < 0x120000 || (0x200000 ≤ off && off < 0x700000)

/-- A read: its data and status, and the state it leaves. -/
abbrev Fetched := Word × Nat × State

/-! ## eMRAM (R45) -/

/-- A read of `MGT.NVM_DATA`; while a host write is programmed it gives the words as they stood before (log 138). -/
def State.readNvmData (s : State) : Fetched :=
  let t := s.fld Reg.mgtNvmAddr 19 18
  let w := s.fld Reg.mgtNvmAddr 17 0
  if !s.up (domTile t) then (0, mgOk, (s.nvmLast 1).nvmAdvance)
  else
    let r := s.readNvm t w
    if r.2.1 then (r.1, mgEcc, (r.2.2.nvmLast 6).nvmAdvance) else (r.1, mgOk, (r.2.2.nvmLast 0).nvmAdvance)

/-- The eMRAM word that `NVM_ADDR` names, for a write under a mask (R112). -/
def State.nvmHere (s : State) : Word := (s.readNvm (s.fld Reg.mgtNvmAddr 19 18) (s.fld Reg.mgtNvmAddr 17 0)).1

/-- A CAL or BDA store to tile t is running or deferred. -/
def State.storing (s : State) (t : Nat) : Bool :=
  s.jrn.run.any (fun p => p.1 / 16 == t) || s.jrn.wait.any (fun k => k / 16 == t)

/-- A write of `MGT.NVM_DATA`: programming begins and WORD advances (log 138), or the write is refused with its cause. -/
def State.writeNvmData (s : State) (val : Word) : State :=
  let t := s.fld Reg.mgtNvmAddr 19 18
  let w := s.fld Reg.mgtNvmAddr 17 0
  if !s.up (domTile t) then s.nvmLast 1
  else if 0x30000 ≤ w ∧ s.otpLock 2 then s.nvmLast 2
  else if s.storing t then s.nvmLast 4
  else if s.host.nvm.isSome then s.nvmLast 5
  else
    let s1 := (s.setFlag Reg.mgtNvmStatus 31 true).nvmAdvance
    { s1 with host := { s1.host with nvm := some (t, w, val) } }

/-! ## Register reads -/

/-- A word of the identity certificate: eMRAM of T0 from word 0x3_C000 (R478). -/
def State.readCert (s : State) : Fetched :=
  let a := s.fld Reg.secCertAddr 13 0
  let s1 := s.setFld Reg.secCertAddr 13 0 (a + 1)
  if !s.up (domTile 0) then (0, mgOk, s1)
  else
    let r := s1.readNvm 0 (0x3C000 + a)
    (r.1, if r.2.1 then mgEcc else mgOk, r.2.2)

/-- A word of the live roster (R344). -/
def State.readRoster (s : State) : Fetched :=
  let a := s.fld Reg.argRstAddr 14 0
  let s1 := s.setFld Reg.argRstAddr 14 0 (a + 1)
  if 18 ≤ a % 32 then (0, mgOk, s1)
  else
    let r := s1.readEcc (rosterBase + 4 * a)
    (r.1, if r.2.1 then mgEcc else mgOk, r.2.2)

/-- The context of a check-value unit whose VALUE, RESULT or COUNT lies at `off` (R409). -/
def cvResultOf (off : Nat) : Option Nat :=
  if 0x70100 ≤ off ∧ off < 0x70500 ∧ 0x28 ≤ (off - 0x70100) % 0x80 ∧ (off - 0x70100) % 0x80 < 0x3C then
    some ((off - 0x70100) / 0x80) else none

/-- A read of a register of a block that is up, with its effect. -/
def State.readReg (s : State) (off : Nat) : Fetched :=
  if off = Reg.mgtNvmData then s.readNvmData
  else if off = Reg.secCertData then s.readCert
  else if off = Reg.argRstData then s.readRoster
  else if off = Reg.linStData 0 ∨ off = Reg.linStData 1 then
    let r := s.readStore ((off - Reg.linStData 0) / 0x10)
    (r.1, if r.2.1 then mgEcc else mgOk, r.2.2)
  else if isBufOff off then
    let r := s.readEcc off
    (if 0x580000 ≤ off then pageRead (off % 0x400) r.1 else r.1, if r.2.1 then mgEcc else mgOk, r.2.2)
  else match cvResultOf off with
    | some c => let t := s.cvDrain c
                (t.viewReg off, mgOk, t)
    | none => (s.viewReg off, mgOk, s)

def State.setShadowOf (s : State) (who : Nat) (h : Shadow) : State := { s with shadow := aput s.shadow who h }

/-- A register read with the shadow of its reader, 0 PCIe, 1 management port, 2 + i thread THi (R33): a low word fills it, the
first read of that register's high word returns it. -/
def State.readShadowed (s : State) (who off : Nat) : Fetched :=
  match highOf off with
  | some hi =>
    let r := s.readReg off
    (r.1, r.2.1, r.2.2.setShadowOf who ⟨off, r.2.2.viewReg hi, true⟩)
  | none =>
    match alook s.shadow who with
    | some h =>
      if h.fresh && highOf h.off == some off then (h.high, mgOk, s.setShadowOf who { h with fresh := false })
      else s.readReg off
    | none => s.readReg off

/-- A read of one register: refused off the register ranges or unaligned (R28, R30), the value of R14 while its block is down. An
offset of a block at which no register stands is no unmapped offset: it reads 0 (log 128). -/
def State.fetchReg (s : State) (who off : Nat) : Fetched :=
  if !isRegOff off || off % 4 != 0 then (0, mgBad, s.badAccess off)
  else if s.regUp off then s.readShadowed who (canonOff off)
  else (downValue (blockBase off), mgDown, s)

/-- Protected words one after the other: the words, whether one is poisoned. -/
def State.fetchWords (s : State) : Nat → Nat → List Word × Bool × State
  | _, 0 => ([], false, s)
  | a, n + 1 =>
    let r := s.readEcc a
    let q := r.2.2.fetchWords (a + 4) n
    (r.1 :: q.1, r.2.1 || q.2.1, q.2.2)

/-- A host read of `n` words at `off` through the PCIe port or of one through the management port (R28-R30, R48). A memory window
gives the words that hold the offset (log 127). -/
def State.fetch (s : State) (port : Port) (off n : Nat) : List Word × Nat × State :=
  match windowOf off with
  | some (base, _, d) =>
    if s.up d then
      let r := s.fetchWords (off / 4 * 4) n
      (r.1, if r.2.1 then mgEcc else mgOk, r.2.2)
    else (List.replicate n (downValue base), mgDown, s)
  | none =>
    if n = 1 then
      let r := s.fetchReg (if port = .pcie then 0 else 1) off
      ([r.1], r.2.1, r.2.2)
    else (List.replicate n 0, mgBad, s.badAccess off)

/-- A read of NVM_STATUS through a port waits for an eMRAM write in progress (R45). -/
def State.holdsRead (s : State) (off : Nat) : Bool := off == Reg.mgtNvmStatus && s.host.nvm.isSome

/-- A management-port read: the indirect window answers while MGT is up (R42). -/
def State.mgmtFetch (s : State) (off : Nat) : Fetched :=
  if alwaysOn off || s.up domMgt then
    let r := s.fetch .mgmt off 1
    (r.1.headD 0, r.2.1, r.2.2)
  else (0xDEAD0005, mgDown, s)

/-- A host read through a port and its reply. -/
def State.hostRead (s : State) (port : Port) (off n : Nat) : State :=
  match port with
  | .pcie =>
    if !s.linkUp then s
    else if s.d3 then s.send .pcieUr
    else
      let t := s.settleReads
      if t.holdsRead off && t.up domMgt then { t with host := { t.host with waits := [.pcie] } }
      else
        let r := t.fetch .pcie off n
        if r.2.1 = mgEcc then (r.2.2.send (.pcieData r.1 true)).raiseBit Reg.hstSticky 2
        else r.2.2.send (.pcieData r.1 false)
  | .mgmt =>
    if !s.mgmtAnswers then s
    else
      let t := s.arrived
      if t.holdsRead off && t.up domMgt then { t with host := { t.host with waits := [.mgmt] } }
      else
        let r := t.mgmtFetch off
        r.2.2.send (.mgmtData r.1 r.2.1)

/-! ## QSPI (R46) -/

/-- The boot sequencer owns the port: LOADING or VERIFYING with BOOTSEL = 0b01. -/
def State.bootOwnsQspi (s : State) : Bool :=
  s.up domCob && s.pins.bootSel == 1 && (s.bootState == 1 || s.bootState == 2)

/-- A write to `MGT.QSPI_CMD`: its fields land; GO sends the command or is refused. -/
def State.writeQspi (s : State) (val mask : Word) : State :=
  let s1 := s.writeFields Reg.mgtQspiCmd val mask
  if !bit (val &&& mask) 31 then s1
  else
    let w := s1.reg Reg.mgtQspiCmd
    let len := bits w 16 8
    if s.host.qspi.isSome ∨ 256 < len ∨ s.bootOwnsQspi then
      ((s1.setFlag Reg.mgtQspiStatus 0 true).bump Reg.mgtCntBadw).raiseBit Reg.mgtSticky 4
    else
      let dir := bit w 29
      let buf := ((List.range 64).flatMap (fun i => wordBytes (s1.reg (Reg.mgtQspiBuf i)))).take len
      let addr := if bit w 27 then (s1.reg Reg.mgtQspiAddr).toNat else 0
      let s2 := (s1.setFlag Reg.mgtQspiCmd 30 true).setFlag Reg.mgtQspiStatus 0 false
      let s3 : State := { s2 with host := { s2.host with qspi := some (len, dir) } }
      s3.send (.qspi (bits w 7 0) addr (bits w 23 20) len dir (bit w 28) (bit w 27) (if dir then buf else []))

/-- Bytes read from the flash land in `QSPI_BUF` from byte 0 on. -/
def State.fillQspi (s : State) (bs : List Byte) : State :=
  (List.range 64).foldl (fun t i =>
    let old := wordBytes (t.reg (Reg.mgtQspiBuf i))
    let new := (List.range 4).map (fun j => (bs[4 * i + j]?).getD ((old[j]?).getD 0))
    t.setReg (Reg.mgtQspiBuf i) (leWord new)) s

/-! ## Register writes -/

/-- A write to a word of the FHP host queues (R373, R374): a receive slot is freed, a transmit slot is written unless it waits to
be sent. -/
def State.writeQueue (s : State) (off : Nat) (val mask : Word) : State :=
  let i := (off - 0xE8000) / 0xC00
  let r := (off - 0xE8000) % 0xC00
  let rel := r % 0x100
  if r < 0x800 then (if rel = 0 then s.freeRx i (r / 0x100) val mask else s)
  else
    let k := (r - 0x800) / 0x100
    if rel = 0 then s.writeTx i k val mask
    else if rel = 8 ∨ rel = 12 ∨ bit (s.rawWord (txSlot i k)) 31 then s
    else s.putWord off ((s.rawWord off &&& ~~~ mask) ||| (val &&& mask))

/-- A write to a word of `SEC.BUF` (R480, R485). -/
def State.writeSecBuf (s : State) (off : Nat) (val mask : Word) : State :=
  if s.secBusy then s.secRefuse else s.putWord off ((s.rawWord off &&& ~~~ mask) ||| (val &&& mask))

/-- A vector's MSI-X control word (R39): at unmask a source at 1 sends and clears the PBA bit. -/
def State.writeMsixCtl (s : State) (v : Nat) (val mask : Word) : State :=
  let s1 := s.writeFields (Reg.hstMsixCtl v) val mask
  if s.masked v && !s1.masked v && s1.msixOn && s1.source v then (s1.setPba v false).send (.msix v) else s1

/-- A register of GLB, PWR, CLK, THM, SEC, MGT, TMU, CVU, DMA or CAP. -/
def State.writeLow (s : State) (w : Writer) (off : Nat) (val mask : Word) : State :=
  if off = Reg.glbResetCtl then s.writeResetCtl val mask s.pins.bootSel
  else if 0x10110 ≤ off ∧ off < 0x10260 ∧ (0x10200 ≤ off ∨ off % 16 = 0) then s.writeVote w off val mask
  else if off = Reg.pwrDvfsMan then s.writeDvfsMan val mask
  else if off = Reg.pwrState then s.writeState val mask
  else if off = Reg.thmThrWarn ∨ off = Reg.thmThrThrot ∨ off = Reg.thmThrShut then s.writeThr off val mask
  else if off = Reg.thmThrot then s.writeThrot val mask
  else if off = Reg.secCtl then s.writeSecCtl val mask
  else if off = Reg.secOtpCtl then s.writeOtpCtl val mask
  else if 0x42000 ≤ off ∧ off < 0x50000 then s.writeSecBuf off val mask
  else if off = Reg.mgtNvmData then s.writeNvmData (if mask = 0xFFFFFFFF then val else (s.nvmHere &&& ~~~ mask) ||| (val &&& mask))
  else if off = Reg.mgtQspiCmd then s.writeQspi val mask
  else if off = Reg.tmuCtl then s.writeTmuCtl val mask
  else if off = Reg.tmuRateReqLo ∨ off = Reg.tmuRateReqHi then s.writeRateReq (off = Reg.tmuRateReqHi) val mask
  else if off = Reg.tmuCcsFixedLo ∨ off = Reg.tmuCcsFixedHi then s.writeCcsFixed (off = Reg.tmuCcsFixedHi) val mask
  else if off = Reg.tmuStepArm then s.writeStepArm val mask
  else if 0x60200 ≤ off ∧ off < 0x60290 ∧ off % 16 = 0 then s.writePulseCtl ((off - 0x60200) / 16) val mask
  else if 0x70100 ≤ off ∧ off < 0x70500 then s.writeCv w ((off - 0x70100) / 0x80) ((off - 0x70100) % 0x80) val mask
  else if 0x80100 ≤ off ∧ off < 0x80900 ∧ (off - 0x80100) % 0x40 = 0 then s.writeChCtlFree ((off - 0x80100) / 0x40) val mask
  else if 0x80100 ≤ off ∧ off < 0x80900 ∧ (off - 0x80100) % 0x40 = 4 then s.writeChCfg ((off - 0x80100) / 0x40) val mask
  else if 0x80100 ≤ off ∧ off < 0x80900 ∧ (off - 0x80100) % 0x40 = 0x18 then s.writeAppend ((off - 0x80100) / 0x40)
  else if off = Reg.capCtl then s.writeCapCtl val mask
  else if off = Reg.capPart then s.writeCapPart val mask
  else if 0x90200 ≤ off ∧ off < 0x90280 then s.writeProbe off val mask
  else s.writeFields off val mask

/-- A register of BDA, CAL, LOS, SLN, FHP, ARG, TLP or HST. -/
def State.writeMid (s : State) (off : Nat) (val mask : Word) : State :=
  if off = Reg.bdaCtl then s.writeBdaCtl val mask
  else if 0xA0100 ≤ off ∧ off < 0xA0140 ∧ off % 16 = 0 then s.writeSgCtl ((off - 0xA0100) / 16) val mask
  else if 0xA1000 ≤ off ∧ off < 0xA2000 ∧ off % 16 = 0 then s.writeBdaCfg ((off - 0xA1000) / 16) val mask
  else if 0xA1000 ≤ off ∧ off < 0xA2000 ∧ off % 16 = 4 then s.writeCode ((off - 0xA1000) / 16) val mask
  else if off = Reg.calWin then s.writeWin val mask
  else if off = Reg.calReq then s.writeReq val mask
  else if off = Reg.calJctl then s.writeJctl val mask
  else if 0xC0100 ≤ off ∧ off < 0xC0900 ∧ off % 0x100 = 0 then s.writeLosCtl ((off - 0xC0100) / 0x100) val mask
  else if 0xC0100 ≤ off ∧ off < 0xC0900 ∧ off % 0x100 = 4 then s.writeHop ((off - 0xC0100) / 0x100) val mask
  else if off = Reg.losClCtl then s.writeClCtl val mask
  else if 0xD1000 ≤ off ∧ off < 0xD2400 ∧ (off - 0xD1000) % 0x40 = 0 then s.writeLaneCtl ((off - 0xD1000) / 0x40) val mask
  else if 0xD1000 ≤ off ∧ off < 0xD2400 ∧ (off - 0xD1000) % 0x40 = 0xC then s.writeTxeq ((off - 0xD1000) / 0x40) val mask
  else if 0xD1000 ≤ off ∧ off < 0xD2400 ∧ (off - 0xD1000) % 0x40 = 0x14 then
    s.writeLaneBits ((off - 0xD1000) / 0x40) val mask
  else if off = Reg.fhpPair then s.writePair val mask
  else if 0xE0100 ≤ off ∧ off < 0xE0500 ∧ off % 0x100 = 0 then s.writeFhpCtl ((off - 0xE0100) / 0x100) val mask
  else if 0xE8000 ≤ off ∧ off < 0xEB000 then s.writeQueue off val mask
  else if off = Reg.argRingCtl 0 then s.writeRingCtl 0 val mask
  else if off = Reg.argRingCtl 1 then s.writeRingCtl 1 val mask
  else if 0xF0400 ≤ off ∧ off < 0xF0500 ∧ off % 0x40 = 0 then s.writePortCtl ((off - 0xF0400) / 0x40) val mask
  else if off = Reg.argAccept then s.writeAccept (val &&& mask)
  else if off = Reg.tlpAirCfg 0 then s.writeAirCfg 0 val mask
  else if off = Reg.tlpAirCfg 1 then s.writeAirCfg 1 val mask
  else if off = Reg.tlpAirCtl then s.writeAirCtl val mask
  else if 0x100000 ≤ off ∧ off < 0x110000 then s.writeTlp off val mask
  else if 0x118000 ≤ off ∧ off < 0x118400 ∧ off % 16 = 12 then s.writeMsixCtl ((off - 0x118000) / 16) val mask
  else if (deferGroup off).isSome then s.writeDeferred off val mask
  else s.writeFields off val mask

/-- A register of the paths, BME, SIC or LIN. -/
def State.writeHigh (s : State) (off : Nat) (val mask : Word) : State :=
  let r := off % 0x1000
  if off < 0x400000 then
    if off < 0x280000 ∧ r = 0 then s.writeTxdCtl ((off - 0x200000) / 0x1000) val mask
    else if (off < 0x280000 ∨ (0x300000 ≤ off ∧ off < 0x380000)) ∧ r = 0x10 then s.writeAtt off val mask
    else if 0x300000 ≤ off ∧ off < 0x380000 ∧ r = 0x20 then s.writeAgc off val mask
    else if off = Reg.rxaLnaByp then s.writeLnaByp val mask
    else if (deferGroup off).isSome then s.writeDeferred off val mask
    else s.writeFields off val mask
  else if off < 0x500000 then
    if 0x400400 ≤ off ∧ off < 0x400600 then
      s.writeWdesc ((off - 0x400400) / 0x100) ((off - 0x400400) / 0x80 % 2) ((off - 0x400400) / 4 % 32) val mask
    else if off = Reg.bmeArray then s.writeArray val mask
    else if frameRegs.contains off then s.writeFrameReg off val mask
    else s.writeFields off val mask
  else if off < 0x600000 then
    if 0x580000 ≤ off then s.writePage off val mask
    else if 0x500100 ≤ off ∧ off < 0x500120 then
      s.writeCommit ((off - 0x500100) / 0x10) ((off - 0x500100) / 4 % 4) (val &&& mask)
    else if off = Reg.sicSurvey then s.writeSurvey val mask
    else if off = Reg.sicSnap then s.writeSnap val mask
    else s.writeFields off val mask
  else if off = Reg.linStData 0 ∨ off = Reg.linStData 1 then
    s.writeStore ((off - Reg.linStData 0) / 0x10)
      (if mask = 0xFFFFFFFF then val else (s.storeHere ((off - Reg.linStData 0) / 0x10) &&& ~~~ mask) ||| (val &&& mask))
  else if 0x600080 ≤ off ∧ off < 0x600090 then s.writeLinCommit ((off - 0x600080) / 4) (val &&& mask)
  else if 0x600010 ≤ off ∧ off < 0x600030 then s.writeBranch off val mask
  else if 0x600200 ≤ off ∧ off < 0x600300 ∧ off % 0x20 = 0 then s.writeObs ((off - 0x600200) / 0x20) val mask
  else if (deferGroup off).isSome then s.writeDeferred off val mask
  else s.writeFields off val mask

/-- A write of `val` under `mask` to the register that stands at `off` (its canonical offset) of a block that is up. -/
def State.writeAt (s : State) (w : Writer) (off : Nat) (val mask : Word) : State :=
  if off = Reg.tlpAirSticky then s.writeAirSticky val mask
  else if off = Reg.hstSticky then
    let t := s.writeSticky off val mask
    if bit (val &&& mask) 0 then t.setReg Reg.hstBadAccess 0 else t
  else if (stickyAt off).isSome then s.writeSticky off val mask
  else if (enableOf off).isSome then s.writeEnable off val mask
  else if off < 0xA0000 then s.writeLow w off val mask
  else if off < 0x120000 then s.writeMid off val mask
  else s.writeHigh off val mask

/-- A write of `val` under `mask` to the register at `off` of a block that is up, by a host port or a thread; a device-wide register
is reached in every instance (R168, R207). -/
def State.writeReg (s : State) (w : Writer) (off : Nat) (val mask : Word) : State := s.writeAt w (canonOff off) val mask

/-- A host write of one word at `off`, or of part of it where `whole` is false: its status and effect (R28-R30, R43). In a memory
window it is the word that holds the offset (log 127). -/
def State.storeWord (s : State) (port : Port) (off : Nat) (val : Word) (whole : Bool) : Nat × State :=
  match windowOf off with
  | some (_, _, d) =>
    if s.up d then (mgOk, if whole then s.windowWrite (off / 4 * 4) ((wordBytes val).map some) else s) else (mgDown, s.downWrite)
  | none =>
    if !isRegOff off || off % 4 != 0 || !whole then (mgBad, s.badAccess off)
    else if s.regUp off then (mgOk, s.writeReg (some port) off val 0xFFFFFFFF)
    else (mgDown, s.downWrite)

/-- A management-port write through the always-on or the indirect window (R42). -/
def State.mgmtStore (s : State) (off : Nat) (val : Word) : Nat × State :=
  if alwaysOn off || s.up domMgt then s.storeWord .mgmt off val true
  else (mgDown, s.windowShut (match windowOf off with
    | some (_, _, d) => s.up d
    | none => s.regUp off || !isRegOff off))

/-- A register write through a port. -/
def State.hostWrite (s : State) (port : Port) (off : Nat) (val : Word) (whole : Bool) : State :=
  match port with
  | .pcie =>
    if !s.linkUp then s
    else if s.d3 then s.send .pcieUr
    else (s.settleReads.storeWord .pcie off val whole).2
  | .mgmt =>
    if s.mgmtAnswers && whole then
      let r := s.arrived.mgmtStore off val
      r.2.noted .mgmt r.1
    else s

/-- A write into a memory window through a port: up to the end of the window (R29, R30); the management port writes one word. -/
def State.hostWindow (s : State) (port : Port) (off : Nat) (data : List (Option Byte)) : State :=
  match windowOf off with
  | some (base, size, d) =>
    (match port with
      | .pcie =>
        s.hostReg .pcie 0 (fun t =>
          if t.up d then t.windowWrite off (data.take (min 512 (base + size - off))) else t.downWrite)
      | .mgmt => s.hostWrite .mgmt off (leWord (data.map (·.getD 0))) (data.length == 4 && data.all (·.isSome)))
  | none => s

/-! ## Management-port frames (R40-R44) -/

/-- Offset and value of a frame body: low byte first. -/
def frameOff (body : List Byte) : Nat := leNat (body.take 4)
def frameVal (body : List Byte) : Word := leWord ((body.drop 4).take 4)

/-- A frame of the wrong byte count: nothing is performed (R43). -/
def State.badFrame (s : State) : State := s.raiseBit Reg.mgtSticky 1

/-- The address byte that the target answers as written: 0b10, ADDR[4:0] and the write bit (R40). -/
def State.addressByte (s : State) : Nat := 0x80 + 2 * (s.pins.addr % 32)

/-- The target answers a transaction with this address byte: another target's, a general call or a 10-bit address passes it by
(R40, R466). -/
def State.answers (s : State) (addr : Byte) : Bool := s.mgmtAnswers && addr.toNat == s.addressByte

/-- Command bytes (R41). -/
def cmdWrite : Byte := 0x57
def cmdRead : Byte := 0x52
def cmdStatus : Byte := 0x53

/-- What follows the address byte is a WRITE, whole (R41). -/
def isWriteFrame (bytes : List Byte) : Bool := bytes.head? == some cmdWrite && bytes.length == 9
def isReadFrame (bytes : List Byte) : Bool := bytes.head? == some cmdRead && bytes.length == 5

/-- A transaction that ends after its written bytes: a WRITE, or a wrong byte count or another command byte (R41, R43). The
status that STATUS gives afterwards is its own. -/
def State.writeFrame (s : State) (bytes : List Byte) : State :=
  let r := if isWriteFrame bytes then s.mgmtStore (frameOff (bytes.drop 1)) (frameVal (bytes.drop 1)) else (mgFrame, s.badFrame)
  r.2.noted .mgmt r.1

/-- A transaction that goes on with a read: READ, STATUS, or neither (R41, R43). -/
def State.readFrame (s : State) (bytes : List Byte) : State :=
  if isReadFrame bytes then s.hostRead .mgmt (frameOff (bytes.drop 1)) 1
  else if bytes = [cmdStatus] then s.arrived.send (.mgmtStatus s.arrived.host.mgmt)
  else s.arrived.badFrame.send (.mgmtData 0 mgFrame)

/-! ## Commands -/

def execRegisterWrite (port : Port) (off : Nat) (val : Word) (whole : Bool) (s : State) :
    Host.Outcome State Fault Refusal := .next (s.hostWrite port off val whole)

def execMemoryWindowWrite (port : Port) (off : Nat) (data : List (Option Byte)) (s : State) :
    Host.Outcome State Fault Refusal := .next (s.hostWindow port off data)

/-- A read of one register: the low word of a 64-bit register fills the port's shadow (R33). -/
def execLowWordRead (port : Port) (off : Nat) (s : State) : Host.Outcome State Fault Refusal :=
  .next (s.hostRead port off 1)

/-- A read of one register: the high word comes from the shadow the first time (R33). -/
def execHighWordRead (port : Port) (off : Nat) (s : State) : Host.Outcome State Fault Refusal :=
  .next (s.hostRead port off 1)

def execStickyWrite (port : Port) (off : Nat) (val : Word) (s : State) : Host.Outcome State Fault Refusal :=
  .next (if (stickyAt off).isSome || (enableOf off).isSome then s.hostWrite port off val true else s)

/-- The host clears MASK of a vector (R39). -/
def execMsixUnmask (vec : Nat) (s : State) : Host.Outcome State Fault Refusal :=
  .next (if vec < 64 then s.hostReg .pcie (Reg.hstMsixCtl vec) (fun t => t.writeMsixCtl vec 0 0xFFFFFFFF) else s)

/-- `addr` is the address byte, `bytes` what follows it. -/
def execMgmtWrite (addr : Byte) (bytes : List Byte) (s : State) : Host.Outcome State Fault Refusal :=
  .next (if s.answers addr then s.arrived.writeFrame bytes else s)

def execMgmtRead (addr : Byte) (bytes : List Byte) (s : State) : Host.Outcome State Fault Refusal :=
  .next (if s.answers addr then s.readFrame bytes else s)

def execMgmtStatus (addr : Byte) (bytes : List Byte) (s : State) : Host.Outcome State Fault Refusal :=
  .next (if s.answers addr then s.readFrame bytes else s)

def execSclTimeout (s : State) : Host.Outcome State Fault Refusal :=
  .next (if s.mgmtAnswers then s.raiseBit Reg.mgtSticky 0 else s)

/-- The access is performed all the same; a READ returns 0 with TIMEOUT, the transaction after a WRITE finds its address
NACKed (R43). A frame that performs nothing stretches nothing. -/
def execStretchTimeout (write : Bool) (addr : Byte) (bytes : List Byte) (s : State) : Host.Outcome State Fault Refusal :=
  .next (if !s.answers addr then s
    else if write then
      (if isWriteFrame bytes then ((s.arrived.writeFrame bytes).send .mgmtNack).raiseBit Reg.mgtSticky 2
       else s.arrived.writeFrame bytes)
    else if isReadFrame bytes then
      (((s.arrived.mgmtFetch (frameOff (bytes.drop 1))).2.2).send (.mgmtData 0 mgTimeout)).raiseBit Reg.mgtSticky 2
    else s.readFrame bytes)

def execNvmDataRead (port : Port) (s : State) : Host.Outcome State Fault Refusal :=
  .next (s.hostRead port Reg.mgtNvmData 1)
def execNvmDataWrite (port : Port) (val : Word) (s : State) : Host.Outcome State Fault Refusal :=
  .next (s.hostReg port Reg.mgtNvmData (fun t => t.writeNvmData val))
def execNvmWriteDone (good : Bool) (s : State) : Host.Outcome State Fault Refusal := .next (s.nvmDone good)
def execNvmStatusRead (port : Port) (s : State) : Host.Outcome State Fault Refusal :=
  .next (s.hostRead port Reg.mgtNvmStatus 1)

def execQspiGo (port : Port) (val : Word) (s : State) : Host.Outcome State Fault Refusal :=
  .next (s.hostReg port Reg.mgtQspiCmd (fun t => t.writeQspi (putBit val 31 true) 0xFFFFFFFF))

/-- CS_N rises: `data` are the bytes the flash sent. -/
def execQspiDone (data : List Byte) (s : State) : Host.Outcome State Fault Refusal :=
  .next (match s.host.qspi with
    | none => s
    | some (len, dir) =>
      let s1 := s.setFlag Reg.mgtQspiCmd 30 false
      let s2 : State := { s1 with host := { s1.host with qspi := none } }
      if dir then s2 else s2.fillQspi (data.take len))

/-- A scrubber's read of one word (R47, R50); memories 0-4 by word, 5-8 the eMRAM, 9 any other word address. -/
def execScrub (mem word : Nat) (s : State) : Host.Outcome State Fault Refusal :=
  .next (if !s.flag Reg.glbScrubCtl 0 || s.fld Reg.glbScrubCtl 15 4 == 0 then s
    else if mem < 5 then
      match windowOf (eccBase mem) with
      | some (base, size, d) => if word < size / 4 ∧ s.up d then (s.readEcc (base + 4 * word)).2.2 else s
      | none => s
    else if mem < 9 then
      if word < 2 ^ 18 ∧ s.up (domTile (mem - 5)) then (s.readNvm (mem - 5) word).2.2 else s
    else if mem = 9 ∧ eccIndex (4 * word) = 9 ∧ s.up (domOfMem (4 * word)) then (s.readEcc (4 * word)).2.2
    else s)

def execTimeRead (port : Port) (s : State) : Host.Outcome State Fault Refusal := .next (s.hostRead port Reg.tmuTime 1)

def execResultRead (port : Port) (off : Nat) (s : State) : Host.Outcome State Fault Refusal :=
  .next (if (cvResultOf off).isSome then s.hostRead port off 1 else s)

def execCertRead (port : Port) (s : State) : Host.Outcome State Fault Refusal := .next (s.hostRead port Reg.secCertData 1)
def execRstDataRead (port : Port) (s : State) : Host.Outcome State Fault Refusal := .next (s.hostRead port Reg.argRstData 1)
def execStoreRead (port : Port) (w : Nat) (s : State) : Host.Outcome State Fault Refusal :=
  .next (if w < 2 then s.hostRead port (Reg.linStData w) 1 else s)

/-- A read of words of a memory window; the management port reads one. Of more than one word of a register range nothing is
performed, and the data is 0 (R28). -/
def execMemoryWindowRead (port : Port) (off words : Nat) (s : State) : Host.Outcome State Fault Refusal :=
  .next (if words = 0 then s
    else match windowOf off with
    | some (base, size, _) => s.hostRead port off (if port = .mgmt then 1 else min words ((base + size - off / 4 * 4) / 4))
    | none => s.hostRead port off (if port = .mgmt then 1 else words))

end Sys2Proof.Machine
end

