-- ==== Sys2Proof/Machine/Dwemus.lean ====
section
/-! DEFINITION. Dwemus instruction words and their decoding (R84-R118, R132-R142): total on any 64-bit word, reserved bits and
reserved enumerated values refused. -/
namespace Sys2Proof.Machine

/-- An operand that is an immediate or a g register. -/
inductive Src where
  | imm (n : Nat)
  | reg (g : Nat)
  deriving DecidableEq, Repr

/-- The second operand of an integer instruction: a register specifier (R86) or an immediate. -/
inductive Opnd where
  | spec (r : Nat)
  | imm (n : Nat)
  deriving DecidableEq, Repr

/-- Integer operations of R90. -/
inductive Alu where
  | add | sub | and | or | xor | shl | shr | sra | cmp
  deriving DecidableEq, Repr

/-- Multiply-accumulate operations of R132. -/
inductive Mul where
  | mac | msu | macs | macbx | cmac
  deriving DecidableEq, Repr

/-- A memory operand: address-register set, mode, signed immediate, circular (R91, R143). -/
structure Ea where
  i    : Nat
  mode : Nat
  imm  : Int
  circ : Bool
  deriving DecidableEq, Repr

/-- The paths a GAINSET names (R109), as scope, group, sel and mask. -/
structure GainSel where
  scope : Nat
  k     : Nat
  sel   : Nat
  mask  : Nat
  deriving DecidableEq, Repr

/-- A decoded Dwemus instruction. -/
inductive Op where
  | nop
  | jmp (t : Src)
  | bcond (cond bit : Nat) (clr : Bool) (target : Nat)
  | call (t : Src)
  | ret
  | loop (g target : Nat)
  | yield
  | halt
  | alu (k : Alu) (d s : Nat) (t : Opnd)
  | movi (d imm : Nat)
  | ld (r : Nat) (ea : Ea)
  | st (r : Nat) (ea : Ea)
  | setl (i : Nat) (v : Src)
  | setb (i : Nat) (v : Src)
  | atI (t cookie due : Nat)
  | atR (t cookie s : Nat) (off : Int)
  | atN (t cookie : Nat) (off : Int)
  | every (t cookie s p : Nat) (quiet : Bool) (count : Nat)
  | waitt (s : Option Nat) (off : Int)
  | pstate (state scope k : Nat) (m : Src)
  | beamsel (dir car layer : Nat) (index : Src)
  | wswap (dirs cars bank : Nat)
  | lohop (syn preset : Nat)
  | gainset (dir : Nat) (sel : GainSel) (atten : Src)
  | portsel (groups port : Nat)
  | wreg (v : Nat) (mk : Option Nat) (base : Option Nat) (imm : Nat)
  | rreg (d : Nat) (base : Option Nat) (imm : Nat)
  | signal (line : Nat)
  | waitev (line : Nat) (c : Bool)
  | waitevAny (word m d : Nat) (c : Bool)
  | vote (dom point : Nat)
  | unvote (dom : Nat)
  | fence
  | cmpl (d : Nat) (tag : Src)
  | dmago (ch : Nat) (desc : Option Nat)
  | carm (op : Nat)
  | cvfeed (cv w s : Nat)
  | cvfeedA (cv i count : Nat)
  | mul (k : Mul) (n s t : Nat) (conj sub bx : Bool)
  | mulB (k : Mul) (n i j : Nat) (ca cb conj sub bx ev : Bool) (count : Src)
  | clracc (mask : Nat) (x : Option Nat)
  | rnd (n : Nat) (dg : Bool) (d rm : Nat) (e : Bool) (sh : Int)
  | sat (n w : Nat)
  | norm (n d e : Nat)
  | exp (n : Nat) (x : Option Nat) (d : Nat)
  | shacc (n : Nat) (sh : Int)
  | staccG (n d : Nat)
  | staccM (n : Nat) (ea : Ea) (x : Bool)
  | bexp (d i : Nat) (c cx acc : Bool) (count : Src)
  | ldx (x : Nat) (pair : Bool) (ea : Ea)
  | stx (x : Nat) (pair : Bool) (ea : Ea)
  deriving DecidableEq, Repr

/-! ## Fields of a word -/

/-- Bits `hi` to `lo` of an instruction word. -/
def fw (w hi lo : Nat) : Nat := w / 2 ^ lo % 2 ^ (hi + 1 - lo)

/-- Bit `i` of an instruction word. -/
def bw (w i : Nat) : Bool := w.testBit i

/-- Every operand bit outside the listed fields is 0 (R84). -/
def only (w : Nat) (fields : List (Nat × Nat)) : Bool :=
  (fields.map (fun f => fw w f.1 f.2 * 2 ^ f.2)).foldl (· + ·) 0 == w % 2 ^ 52

/-- `o` where the condition on reserved bits and values holds. -/
def okIf (c : Bool) (o : Op) : Option Op := if c then some o else none

/-- The memory operand of R91 and R142. -/
def eaOf (w : Nat) (circ : Bool) : Ea := ⟨fw w 46 44, fw w 43 42, sgn 16 (fw w 15 0), circ⟩

/-- Mode 3 is reserved, and so is imm16 in mode 1 (R91). -/
def eaOk (w : Nat) : Bool := fw w 43 42 != 3 && (fw w 43 42 != 1 || fw w 15 0 == 0)

/-! ## Decoding by major opcode (R85) -/

/-- Control instructions (R88, R89). -/
def decodeControl (minor w : Nat) : Option Op :=
  match minor with
  | 0x01 => okIf (only w []) .nop
  | 0x02 => okIf (only w [(16, 0)]) (.jmp (.imm (fw w 16 0)))
  | 0x03 => okIf (only w [(51, 48)]) (.jmp (.reg (fw w 51 48)))
  | 0x04 =>
    let c := fw w 51 48
    okIf (only w [(51, 48), (47, 44), (43, 43), (16, 0)]
        && (if c = 15 then fw w 47 44 < 12 else fw w 47 44 == 0 && !bw w 43))
      (.bcond c (fw w 47 44) (bw w 43) (fw w 16 0))
  | 0x05 => okIf (only w [(16, 0)]) (.call (.imm (fw w 16 0)))
  | 0x06 => okIf (only w [(51, 48)]) (.call (.reg (fw w 51 48)))
  | 0x07 => okIf (only w []) .ret
  | 0x08 => okIf (only w [(51, 48), (16, 0)]) (.loop (fw w 51 48) (fw w 16 0))
  | 0x09 => okIf (only w []) .yield
  | 0x0A => okIf (only w []) .halt
  | _ => none

/-- The integer operation of a minor opcode (R90). -/
def aluOf (minor : Nat) : Option Alu :=
  match minor with
  | 0 => some .add | 1 => some .sub | 2 => some .and | 3 => some .or | 4 => some .xor | 5 => some .shl
  | 6 => some .shr | 7 => some .sra | 8 => some .cmp | _ => none

/-- A shift, whose immediate has bits [31:5] reserved (R90). -/
def Alu.isShift : Alu → Bool
  | .shl => true | .shr => true | .sra => true | _ => false

/-- Integer instructions, register form. -/
def decodeAluReg (minor w : Nat) : Option Op :=
  match aluOf minor with
  | some k => okIf (only w [(51, 47), (46, 42), (41, 37)] && (k != .cmp || fw w 51 47 == 0))
      (.alu k (fw w 51 47) (fw w 46 42) (.spec (fw w 41 37)))
  | none => none

/-- Integer instructions, immediate form. -/
def decodeAluImm (minor w : Nat) : Option Op :=
  if minor = 9 then okIf (only w [(51, 47), (31, 0)]) (.movi (fw w 51 47) (fw w 31 0))
  else match aluOf minor with
  | some k => okIf (only w [(51, 47), (46, 42), (31, 0)] && (k != .cmp || fw w 51 47 == 0)
        && (!k.isShift || fw w 31 5 == 0))
      (.alu k (fw w 51 47) (fw w 46 42) (.imm (fw w 31 0)))
  | none => none

/-- LD and ST, LDC and STC (R91). -/
def decodeMem (minor w : Nat) (circ : Bool) : Option Op :=
  let ok := only w [(51, 47), (46, 44), (43, 42), (15, 0)] && eaOk w
  match minor with
  | 0 => okIf ok (.ld (fw w 51 47) (eaOf w circ))
  | 1 => okIf ok (.st (fw w 51 47) (eaOf w circ))
  | _ => none

/-- The operand of SETL and SETB (R93). -/
def setSrc (w : Nat) : Src := if bw w 43 then .reg (fw w 42 39) else .imm (fw w 23 0)

/-- Major 0x05 (R91, R93). -/
def decodeCirc (minor w : Nat) : Option Op :=
  let ok := only w [(46, 44), (43, 43), (42, 39), (23, 0)] && (if bw w 43 then fw w 23 0 == 0 else fw w 42 39 == 0)
  match minor with
  | 2 => okIf ok (.setl (fw w 46 44) (setSrc w))
  | 3 => okIf ok (.setb (fw w 46 44) (setSrc w))
  | _ => decodeMem minor w true

/-- Timed prefixes and WAITT (R94). -/
def decodeTimed (minor w : Nat) : Option Op :=
  match minor with
  | 0 => okIf true (.atI (fw w 51 48) (fw w 47 32) (fw w 31 0))
  | 1 => okIf true (.atR (fw w 51 48) (fw w 47 32) (fw w 31 28) (sgn 28 (fw w 27 0)))
  | 2 => okIf (only w [(51, 48), (47, 32), (27, 0)]) (.atN (fw w 51 48) (fw w 47 32) (sgn 28 (fw w 27 0)))
  | 4 => okIf (only w [(51, 48), (47, 32), (31, 28), (27, 24), (23, 23), (15, 0)])
      (.every (fw w 51 48) (fw w 47 32) (fw w 31 28) (fw w 27 24) (bw w 23) (fw w 15 0))
  | 8 => okIf (only w [(31, 0)]) (.waitt none (fw w 31 0))
  | 9 => okIf (only w [(31, 28), (27, 0)]) (.waitt (some (fw w 31 28)) (sgn 28 (fw w 27 0)))
  | _ => none

/-- PSTATE (R105). -/
def decodePstate (w : Nat) : Option Op :=
  let st := fw w 51 48
  let k := fw w 45 43
  let g := fw w 42 39
  let m := fw w 15 0
  let ok := st ≤ 6 && only w [(51, 48), (47, 46), (45, 43), (42, 39), (15, 0)]
  match fw w 47 46 with
  | 0 => okIf (ok && k == 0 && g == 0 && m < 128) (.pstate st 0 0 (.imm m))
  | 1 => okIf (ok && k == 0 && g == 0 && m < 256) (.pstate st 1 0 (.imm m))
  | 2 => okIf (ok && g == 0) (.pstate st 2 k (.imm m))
  | _ => okIf (ok && m == 0) (.pstate st 2 k (.reg g))

/-- GAINSET (R109). -/
def decodeGainset (w : Nat) : Option Op :=
  let scope := fw w 49 48
  let sel : GainSel := ⟨scope, fw w 47 45, fw w 39 32, fw w 31 16⟩
  okIf ((fw w 51 50 == 1 || fw w 51 50 == 2) && scope != 3 && (scope == 2 || (sel.k == 0 && sel.mask == 0))
      && (if scope = 0 then sel.sel < 128 else scope == 1 || sel.sel == 0)
      && (if bw w 44 then fw w 15 0 == 0 else fw w 43 40 == 0))
    (.gainset (fw w 51 50) sel (if bw w 44 then .reg (fw w 43 40) else .imm (fw w 15 0)))

/-- Radio instructions (R105-R110). -/
def decodeRadio (minor w : Nat) : Option Op :=
  match minor with
  | 0 => decodePstate w
  | 1 =>
    let src := bw w 44
    okIf (only w [(51, 51), (50, 50), (49, 45), (44, 44), (43, 40), (15, 0)]
        && (if src then fw w 15 0 == 0 else fw w 43 40 == 0))
      (.beamsel (fw w 51 51) (fw w 50 50) (fw w 49 45) (if src then .reg (fw w 43 40) else .imm (fw w 15 0)))
  | 2 => okIf (only w [(51, 50), (49, 48), (47, 47)] && fw w 51 50 != 0 && fw w 49 48 != 0)
      (.wswap (fw w 51 50) (fw w 49 48) (fw w 47 47))
  | 3 => okIf (only w [(51, 44), (43, 40)] && fw w 51 44 != 0) (.lohop (fw w 51 44) (fw w 43 40))
  | 4 => decodeGainset w
  | 5 => okIf (only w [(51, 44), (43, 43)] && fw w 51 44 != 0) (.portsel (fw w 51 44) (fw w 43 43))
  | _ => none

/-- Device-register instructions (R111). -/
def decodeDevice (minor w : Nat) : Option Op :=
  let base := if bw w 43 then some (fw w 47 44) else none
  match minor with
  | 0 => okIf (only w [(51, 48), (47, 44), (43, 43), (25, 0)]) (.wreg (fw w 51 48) none base (fw w 25 0))
  | 1 => okIf (only w [(51, 48), (47, 44), (43, 43), (39, 36), (25, 0)])
      (.wreg (fw w 51 48) (some (fw w 39 36)) base (fw w 25 0))
  | 2 => okIf (only w [(51, 48), (47, 44), (43, 43), (25, 0)]) (.rreg (fw w 51 48) base (fw w 25 0))
  | _ => none

/-- Synchronisation instructions (R114, R115). -/
def decodeSync (minor w : Nat) : Option Op :=
  let dom := fw w 51 48
  let domOk := (1 ≤ dom && dom ≤ 11) || dom == 15
  match minor with
  | 0 => okIf (only w [(6, 0)]) (.signal (fw w 6 0))
  | 1 => okIf (only w [(51, 51), (7, 0)]) (.waitev (fw w 7 0) (bw w 51))
  | 2 => okIf (only w [(51, 51), (50, 48), (47, 44), (43, 40)])
      (.waitevAny (fw w 50 48) (fw w 47 44) (fw w 43 40) (bw w 51))
  | 3 => okIf (only w [(51, 48), (1, 0)] && domOk && (dom == 15 || fw w 1 0 == 0)) (.vote dom (fw w 1 0))
  | 4 => okIf (only w [(51, 48)] && domOk) (.unvote dom)
  | 5 => okIf (only w []) .fence
  | 6 => okIf (only w [(51, 48), (47, 44), (43, 43), (8, 0)] && (if bw w 43 then fw w 47 44 == 0 else fw w 8 0 == 0))
      (.cmpl dom (if bw w 43 then .imm (fw w 8 0) else .reg (fw w 47 44)))
  | _ => none

/-- DMA, capture and check-value instructions (R116-R118). -/
def decodeDma (minor w : Nat) : Option Op :=
  match minor with
  | 0 => okIf (only w [(51, 51), (50, 47), (4, 0)] && (bw w 51 || fw w 50 47 == 0))
      (.dmago (fw w 4 0) (if bw w 51 then some (fw w 50 47) else none))
  | 1 => okIf (only w [(1, 0)] && fw w 1 0 != 3) (.carm (fw w 1 0))
  | 2 => okIf (only w [(51, 49), (48, 47), (46, 43)] && (fw w 48 47 != 3 || fw w 46 43 != 15))
      (.cvfeed (fw w 51 49) (fw w 48 47) (fw w 46 43))
  | 3 => okIf (only w [(51, 49), (46, 44), (15, 0)]) (.cvfeedA (fw w 51 49) (fw w 46 44) (fw w 15 0))
  | _ => none

/-- Loads and stores of x registers (R142). -/
def decodeX (minor w : Nat) : Option Op :=
  let ok := only w [(51, 48), (47, 47), (46, 44), (43, 42), (41, 41), (15, 0)] && eaOk w
    && (!bw w 47 || fw w 51 48 % 2 == 0)
  match minor with
  | 0 => okIf ok (.ldx (fw w 51 48) (bw w 47) (eaOf w (bw w 41)))
  | 1 => okIf ok (.stx (fw w 51 48) (bw w 47) (eaOf w (bw w 41)))
  | _ => none

/-- Scalar multiply-accumulates (R132, R133). -/
def decodeMul (minor w : Nat) : Option Op :=
  let n := fw w 51 50
  let s := fw w 49 46
  let t := fw w 45 42
  let f := [(51, 50), (49, 46), (45, 42)]
  match minor with
  | 0 => okIf (only w f) (.mul .mac n s t false false false)
  | 1 => okIf (only w f) (.mul .msu n s t false false false)
  | 2 => okIf (only w f) (.mul .macs n s t false false false)
  | 3 => okIf (only w ((40, 40) :: f)) (.mul .macbx n s t false (bw w 40) false)
  | 4 => okIf (only w ((41, 41) :: (40, 40) :: (39, 39) :: f) && n % 2 == 0 && s % 2 == 0 && t % 2 == 0)
      (.mul .cmac n s t (bw w 41) (bw w 40) (bw w 39))
  | _ => none

/-- Block multiply-accumulates (R134). -/
def decodeMulB (minor w : Nat) : Option Op :=
  let n := fw w 51 50
  let src := bw w 37
  let count : Src := if src then .reg (fw w 36 33) else .imm (fw w 15 0)
  let f := [(51, 50), (49, 47), (46, 44), (43, 43), (42, 42), (38, 38), (37, 37), (36, 33), (15, 0)]
  let ok := if src then fw w 15 0 == 0 else fw w 36 33 == 0
  let op (k : Mul) := Op.mulB k n (fw w 49 47) (fw w 46 44) (bw w 43) (bw w 42) (bw w 41) (bw w 40) (bw w 39) (bw w 38) count
  match minor with
  | 0 => okIf (ok && only w f) (op .mac)
  | 1 => okIf (ok && only w f) (op .msu)
  | 2 => okIf (ok && only w f) (op .macs)
  | 3 => okIf (ok && only w ((40, 40) :: f)) (op .macbx)
  | 4 => okIf (ok && only w ((41, 41) :: (40, 40) :: (39, 39) :: f) && n % 2 == 0) (op .cmac)
  | _ => none

/-- STACC (R140). -/
def decodeStacc (w : Nat) : Option Op :=
  if bw w 49 then okIf (only w [(51, 50), (49, 49), (48, 45)] && fw w 48 45 != 15) (.staccG (fw w 51 50) (fw w 48 45))
  else okIf (only w [(51, 50), (46, 44), (43, 42), (41, 41), (40, 40), (15, 0)] && eaOk w)
    (.staccM (fw w 51 50) (eaOf w (bw w 41)) (bw w 40))

/-- Accumulator operations (R137-R140). -/
def decodeAcc (minor w : Nat) : Option Op :=
  let n := fw w 51 50
  match minor with
  | 0 =>
    let m := fw w 51 48
    let src := bw w 47
    okIf (only w [(51, 48), (47, 47), (46, 43)] && m != 0
        && (if src then [1, 2, 4, 8].contains m else fw w 46 43 == 0))
      (.clracc m (if src then some (fw w 46 43) else none))
  | 1 => okIf (only w [(51, 50), (49, 49), (48, 45), (44, 43), (42, 42), (41, 36)] && fw w 44 43 != 3)
      (.rnd n (bw w 49) (fw w 48 45) (fw w 44 43) (bw w 42) (sgn 6 (fw w 41 36)))
  | 2 => okIf (only w [(51, 50), (49, 44)] && 24 ≤ fw w 49 44) (.sat n (fw w 49 44))
  | 3 => okIf (only w [(51, 50), (49, 46), (45, 42)]) (.norm n (fw w 49 46) (fw w 45 42))
  | 4 => okIf (only w [(51, 50), (49, 49), (48, 45), (44, 41)] && (if bw w 49 then n == 0 else fw w 48 45 == 0))
      (.exp n (if bw w 49 then some (fw w 48 45) else none) (fw w 44 41))
  | 5 => okIf (only w [(51, 50), (49, 43)]) (.shacc n (sgn 7 (fw w 49 43)))
  | 6 => decodeStacc w
  | _ => none

/-- BEXP (R141). -/
def decodeBexp (minor w : Nat) : Option Op :=
  let src := bw w 41
  if minor = 0 then
    okIf (only w [(51, 48), (47, 45), (44, 44), (43, 43), (42, 42), (41, 41), (40, 37), (15, 0)]
        && (if src then fw w 15 0 == 0 else fw w 40 37 == 0))
      (.bexp (fw w 51 48) (fw w 47 45) (bw w 44) (bw w 43) (bw w 42) (if src then .reg (fw w 40 37) else .imm (fw w 15 0)))
  else none

/-- The instruction of a 64-bit word; none where the word is not an instruction (R84, R85). -/
def decodeOp (w : Nat) : Option Op :=
  let minor := fw w 57 52
  match fw w 63 58 with
  | 0x00 => decodeControl minor w
  | 0x01 => decodeAluReg minor w
  | 0x02 => decodeAluImm minor w
  | 0x04 => decodeMem minor w false
  | 0x05 => decodeCirc minor w
  | 0x08 => decodeTimed minor w
  | 0x0C => decodeRadio minor w
  | 0x0D => decodeDevice minor w
  | 0x0E => decodeSync minor w
  | 0x0F => decodeDma minor w
  | 0x10 => decodeX minor w
  | 0x11 => decodeMul minor w
  | 0x12 => decodeMulB minor w
  | 0x13 => decodeAcc minor w
  | 0x14 => decodeBexp minor w
  | _ => none

/-! ## Rows and classes -/

/-- The command of the opcode table that is thread `th` issuing the instruction. -/
def Op.row (o : Op) (th : Nat) : Instr :=
  match o with
  | .nop => .nop th | .jmp _ => .jmp th | .bcond _ _ _ _ => .bCond th | .call _ => .call th | .ret => .ret th
  | .loop _ _ => .loop th | .yield => .yield th | .halt => .halt th
  | .alu .add _ _ _ => .add th | .alu .sub _ _ _ => .sub th | .alu .and _ _ _ => .and th | .alu .or _ _ _ => .or th
  | .alu .xor _ _ _ => .xor th | .alu .shl _ _ _ => .shl th | .alu .shr _ _ _ => .shr th | .alu .sra _ _ _ => .sra th
  | .alu .cmp _ _ _ => .cmp th | .movi _ _ => .movi th
  | .ld _ ea => if ea.circ then .ldc th else .ld th
  | .st _ ea => if ea.circ then .stc th else .st th
  | .setl _ _ => .setl th | .setb _ _ => .setb th
  | .atI _ _ _ => .atI th | .atR _ _ _ _ => .atR th | .atN _ _ _ => .atN th | .every _ _ _ _ _ _ => .every th
  | .waitt _ _ => .waitt th
  | .pstate _ _ _ _ => .pstate th | .beamsel _ _ _ _ => .beamsel th | .wswap _ _ _ => .wswap th
  | .lohop _ _ => .lohop th | .gainset _ _ _ => .gainset th | .portsel _ _ => .portsel th
  | .wreg _ mk _ _ => if mk.isSome then .wregM th else .wreg th
  | .rreg _ _ _ => .rreg th
  | .signal _ => .signal th | .waitev _ _ => .waitev th | .waitevAny _ _ _ _ => .waitevAny th
  | .vote _ _ => .vote th | .unvote _ => .unvote th | .fence => .fence th | .cmpl _ _ => .cmpl th
  | .dmago _ _ => .dmago th | .carm _ => .carm th | .cvfeed _ _ _ => .cvfeed th | .cvfeedA _ _ _ => .cvfeedA th
  | .mul .mac _ _ _ _ _ _ => .mac th | .mul .msu _ _ _ _ _ _ => .msu th | .mul .macs _ _ _ _ _ _ => .macs th
  | .mul .macbx _ _ _ _ _ _ => .macbx th | .mul .cmac _ _ _ _ _ _ => .cmac th
  | .mulB .mac _ _ _ _ _ _ _ _ _ _ => .macB th | .mulB .msu _ _ _ _ _ _ _ _ _ _ => .msuB th
  | .mulB .macs _ _ _ _ _ _ _ _ _ _ => .macsB th | .mulB .macbx _ _ _ _ _ _ _ _ _ _ => .macbxB th
  | .mulB .cmac _ _ _ _ _ _ _ _ _ _ => .cmacB th
  | .clracc _ _ => .clracc th | .rnd _ _ _ _ _ _ => .rnd th | .sat _ _ => .sat th | .norm _ _ _ => .norm th
  | .exp _ _ _ => .exp th | .shacc _ _ => .shacc th | .staccG _ _ => .stacc th | .staccM _ _ _ => .stacc th
  | .bexp _ _ _ _ _ _ => .bexp th | .ldx _ _ _ => .ldX th | .stx _ _ _ => .stX th

/-- An action instruction (03_timeline_processor.md, timed action queue). -/
def Op.isAction : Op → Bool
  | .wreg _ _ _ _ => true | .pstate _ _ _ _ => true | .beamsel _ _ _ _ => true | .wswap _ _ _ => true
  | .lohop _ _ => true | .gainset _ _ _ => true | .portsel _ _ => true | .signal _ => true | .vote _ _ => true
  | .unvote _ => true | .dmago _ _ => true | .carm _ => true | _ => false

/-- A prefix (R94). -/
def Op.isPrefix : Op → Bool
  | .atI _ _ _ => true | .atR _ _ _ _ => true | .atN _ _ _ => true | .every _ _ _ _ _ _ => true | _ => false

/-- An instruction that a DSP unit executes: majors 0x10 to 0x14 (R120). -/
def Op.onUnit : Op → Bool
  | .mul _ _ _ _ _ _ _ => true | .mulB _ _ _ _ _ _ _ _ _ _ _ => true | .clracc _ _ => true | .rnd _ _ _ _ _ _ => true
  | .sat _ _ => true | .norm _ _ _ => true | .exp _ _ _ => true | .shacc _ _ => true | .staccG _ _ => true
  | .staccM _ _ _ => true | .bexp _ _ _ _ _ _ => true | .ldx _ _ _ => true | .stx _ _ _ => true | _ => false

end Sys2Proof.Machine
end

