-- ==== Sys2Proof/Machine/Operands.lean ====
section
/-! DEFINITION. Operands of Dwemus instructions: thread registers and their specifiers (R52, R86), immediates, effective
addresses and the update of an address register (R91, R143), words of thread data space (R55). -/
namespace Sys2Proof.Machine

/-! ## Thread registers -/

def State.g (s : State) (th n : Nat) : Word := s.reg (Reg.tlpThG th n)
def State.setG (s : State) (th n : Nat) (v : Word) : State := s.setReg (Reg.tlpThG th n) v

/-- The 24-bit registers a, m, b, l and x, as stored. -/
def State.a24 (s : State) (th i : Nat) : Nat := s.fld (Reg.tlpThA th i) 23 0
def State.m24 (s : State) (th i : Nat) : Nat := s.fld (Reg.tlpThM th i) 23 0
def State.b24 (s : State) (th i : Nat) : Nat := s.fld (Reg.tlpThB th i) 23 0
def State.l24 (s : State) (th i : Nat) : Nat := s.fld (Reg.tlpThL th i) 23 0
def State.setA (s : State) (th i v : Nat) : State := s.setReg (Reg.tlpThA th i) (BitVec.ofNat 32 (v % 2 ^ 24))
def State.setM (s : State) (th i v : Nat) : State := s.setReg (Reg.tlpThM th i) (BitVec.ofNat 32 (v % 2 ^ 24))
def State.setB (s : State) (th i v : Nat) : State := s.setReg (Reg.tlpThB th i) (BitVec.ofNat 32 (v % 2 ^ 24))
def State.setL (s : State) (th i v : Nat) : State := s.setReg (Reg.tlpThL th i) (BitVec.ofNat 32 (v % 2 ^ 24))

/-- An x register as a signed number (R124). -/
def State.x (s : State) (th i : Nat) : Int := sgn 24 (s.reg (Reg.tlpThX th i)).toNat
def State.setX (s : State) (th i : Nat) (v : Int) : State :=
  s.setReg (Reg.tlpThX th i) (BitVec.ofNat 32 (unsgn 24 v))

/-- A read through a 5-bit specifier: a and m registers sign-extend (R86). -/
def State.spec (s : State) (th r : Nat) : Word :=
  if r < 16 then s.g th r
  else if r < 24 then sext32 24 (s.a24 th (r - 16))
  else sext32 24 (s.m24 th (r - 24))

/-- A write through a specifier: a and m registers keep the low 24 bits (R86). -/
def State.setSpec (s : State) (th r : Nat) (v : Word) : State :=
  if r < 16 then s.setG th r v
  else if r < 24 then s.setA th (r - 16) v.toNat
  else s.setM th (r - 24) v.toNat

def State.opnd (s : State) (th : Nat) : Opnd → Word
  | .spec r => s.spec th r
  | .imm n => BitVec.ofNat 32 n

def State.src (s : State) (th : Nat) : Src → Nat
  | .imm n => n
  | .reg g => (s.g th g).toNat

/-! ## Effective addresses -/

/-- The circular position of R143: base, length, offset and displacement. -/
def circAt (b l off : Nat) (d : Int) : Nat := (b + (((off : Int) + d) % (l : Int)).toNat) % 2 ^ 24

/-- Effective address, the new value of a_i, and the position of the word after the addressed one; none where a circular base is
misaligned (R91, R142, R143). -/
def State.eaOf (s : State) (th : Nat) (e : Ea) : Option (Nat × Nat × Nat) :=
  let a := s.a24 th e.i
  let step : Int := if e.mode = 1 then sgn 24 (s.m24 th e.i) else e.imm
  let l := s.l24 th e.i
  if e.circ ∧ l ≠ 0 then
    let b := s.b24 th e.i
    if b % 4 ≠ 0 then none
    else
      let off := (a + 2 ^ 24 - b) % 2 ^ 24 % l
      let d : Int := if e.mode = 0 then e.imm else 0
      some (circAt b l off d, if e.mode = 0 then a else circAt b l off step, circAt b l off (d + 4))
  else
    let ea := if e.mode = 0 then unsgn 24 ((a : Int) + e.imm) else a
    some (ea, if e.mode = 0 then a else unsgn 24 ((a : Int) + step), (ea + 4) % 2 ^ 24)

/-! ## Words of thread data space -/

/-- Why an access to a thread address faults: outside R55, or misaligned. -/
def accessFault (ea : Nat) : Option Nat :=
  if (threadAddr ea).isNone then some faultAddr else if ea % 4 ≠ 0 then some faultAlign else none

/-- The memory behind a thread address. -/
def physAddr (ea : Nat) : Nat := (threadAddr ea).getD 0

/-- A word loaded: the word, or the fault; a poisoned word faults with ECC (R77, R91). -/
def State.loadWord (s : State) (ea : Nat) : Except Nat Word × State :=
  match accessFault ea with
  | some c => (.error c, s)
  | none =>
    let r := s.readEcc (physAddr ea)
    (if r.2.1 then .error faultEcc else .ok r.1, r.2.2)

/-- A whole word stored at a checked address (R56, R91). -/
def State.storeThread (s : State) (ea : Nat) (v : Word) : State := (s.putWord (physAddr ea) v).noteWrite (physAddr ea) 4

end Sys2Proof.Machine
end

