-- ==== Sys2Proof/Machine/Flags.lean ====
section
/-! DEFINITION. The flags of STAT (R83) and what integer instructions do to them (R89, R90). -/
namespace Sys2Proof.Machine

/-- Bit numbers of STAT. -/
def stZ : Nat := 0
def stN : Nat := 1
def stC : Nat := 2
def stV : Nat := 3
def stAov (n : Nat) : Nat := 4 + n
def stCircFold : Nat := 8
def stLateWait : Nat := 9
def stVoteFail : Nat := 10
def stFenceErr : Nat := 11

def State.stat (s : State) (th b : Nat) : Bool := s.flag (Reg.tlpThStat th) b
def State.setStat (s : State) (th b : Nat) (v : Bool) : State := s.setFlag (Reg.tlpThStat th) b v

/-- N and Z from two conditions. -/
def State.setNZ (s : State) (th : Nat) (n z : Bool) : State := (s.setStat th stN n).setStat th stZ z

/-- What an integer operation gives: the 32-bit result, C and V where it sets them (R90). -/
structure AluOut where
  val : Word
  c   : Option Bool
  v   : Option Bool
  deriving DecidableEq, Repr

/-- The last bit shifted out to the left of bit 31, or 0 when the amount is 0. -/
def shlOut (s : Word) (n : Nat) : Bool := n != 0 && s.getLsbD (32 - n)
/-- The last bit shifted out to the right of bit 0, or 0 when the amount is 0. -/
def shrOut (s : Word) (n : Nat) : Bool := n != 0 && s.getLsbD (n - 1)

/-- A difference with its flags: C is 1 when s ≥ t unsigned. -/
def subOut (s t : Word) : AluOut :=
  ⟨s - t, some (t.toNat ≤ s.toNat), some ((s.msb != t.msb) && ((s - t).msb != s.msb))⟩

/-- The integer operations of R90. -/
def Alu.eval (k : Alu) (s t : Word) : AluOut :=
  let n := t.toNat % 32
  match k with
  | .add => ⟨s + t, some (2 ^ 32 ≤ s.toNat + t.toNat), some ((s.msb == t.msb) && ((s + t).msb != s.msb))⟩
  | .sub => subOut s t
  | .and => ⟨s &&& t, none, none⟩
  | .or => ⟨s ||| t, none, none⟩
  | .xor => ⟨s ^^^ t, none, none⟩
  | .shl => ⟨s <<< n, some (shlOut s n), none⟩
  | .shr => ⟨s >>> n, some (shrOut s n), none⟩
  | .sra => ⟨s.sshiftRight n, some (shrOut s n), none⟩
  | .cmp => subOut s t

/-- The flags after an integer operation: N and Z from the result, C and V where the operation sets them. -/
def State.aluFlags (s : State) (th : Nat) (o : AluOut) : State :=
  let s1 := s.setNZ th o.val.msb (o.val == 0)
  let s2 := match o.c with
    | some c => s1.setStat th stC c
    | none => s1
  match o.v with
  | some v => s2.setStat th stV v
  | none => s2

/-- Whether a branch condition holds (R89). -/
def State.cond (s : State) (th c bit : Nat) : Bool :=
  let n := s.stat th stN
  let z := s.stat th stZ
  let cy := s.stat th stC
  let v := s.stat th stV
  match c with
  | 0 => z | 1 => !z | 2 => cy | 3 => !cy | 4 => n | 5 => !n | 6 => v | 7 => !v
  | 8 => cy && !z | 9 => !cy || z | 10 => n == v | 11 => n != v | 12 => !z && n == v | 13 => z || n != v
  | 14 => true
  | _ => s.stat th bit

end Sys2Proof.Machine
end

