-- ==== Sys2Proof/Machine/Dsp.lean ====
section
/-! DEFINITION. The signal-processing instructions (05_signal_instructions.md): accumulators and the three rules of addition
(R125-R131), scalar and block multiply-accumulates (R132-R136), accumulator operations (R137-R140), block exponent detection
(R141), loads and stores of x registers (R142). -/
namespace Sys2Proof.Machine

/-- What an instruction leaves, and the cause of its fault if it faults. -/
abbrev Done := State × Option Nat

/-! ## Accumulators (R125, R126) -/

def State.acc (s : State) (th n : Nat) : Int :=
  sgn 64 ((s.reg (Reg.tlpThAccHi th n)).toNat * 2 ^ 32 + (s.reg (Reg.tlpThAccLo th n)).toNat)
def State.putAcc (s : State) (th n : Nat) (v : Int) : State :=
  let w := unsgn 64 v
  (s.setReg (Reg.tlpThAccLo th n) (BitVec.ofNat 32 w)).setReg (Reg.tlpThAccHi th n) (BitVec.ofNat 32 (w / 2 ^ 32))

/-- The block exponent e and the saturation latch SATL. -/
def State.accE (s : State) (th n : Nat) : Nat := s.fld (Reg.tlpThAccExp th n) 4 0
def State.setAccE (s : State) (th n e : Nat) : State := s.setFld (Reg.tlpThAccExp th n) 4 0 e
def State.satl (s : State) (th n : Nat) : Bool := s.flag (Reg.tlpThAccExp th n) 5

/-- Bits of a number. -/
def bitLen (n : Nat) : Nat := if n = 0 then 0 else Nat.log2 n + 1

/-- The redundant sign count of a w-bit value (R126). -/
def rs (w : Nat) (v : Int) : Nat := w - 1 - bitLen (if v < 0 then (-v - 1).toNat else v.toNat)

/-! ## Adding (R127-R131) -/

/-- The normal rule with the exact result `t` (R127); `u` is the executing unit. -/
def State.addNormal (s : State) (th u n : Nat) (t : Int) : State :=
  if s.satl th n then s
  else if satS 64 t = t then s.putAcc th n t
  else (((s.putAcc th n (satS 64 t)).setFlag (Reg.tlpThAccExp th n) 5 true).setStat th (stAov n) true).raiseBit
    Reg.tlpDspSticky u

/-- The clamping rule (R128). -/
def State.addClamp (s : State) (th n : Nat) (t : Int) : State :=
  if s.satl th n then s
  else
    let s1 := s.putAcc th n (satS 48 t)
    if satS 48 t = t then s1 else s1.setStat th (stAov n) true

/-- An accumulator shifted right by 4 with its exponent raised to `e` (R129). -/
def State.rescale (s : State) (th n e : Nat) : State :=
  if s.satl th n then s else (s.putAcc th n (s.acc th n / 16)).setAccE th n e

/-- The block-exponent rule on one accumulator (R129). -/
def State.addBx (s : State) (th u n : Nat) (q : Int) : State :=
  if s.satl th n then s
  else
    let e := s.accE th n
    let s1 := if rs 64 (s.acc th n) ≤ 3 ∧ e < 31 then s.rescale th n (e + 1) else s
    s1.addNormal th u n (s1.acc th n + q / (2 ^ (4 * s1.accE th n) : Nat))

/-- An accumulator asks for a rescale of the pair (R130). -/
def State.crowded (s : State) (th n : Nat) : Bool := rs 64 (s.acc th n) ≤ 3

/-- The exponent of an accumulator written unless it is latched (R131). -/
def State.shareE (s : State) (th n e : Nat) : State := if s.satl th n then s else s.setAccE th n e

/-- The block-exponent rule on a pair (R130): one check and one exponent for both (log 21). -/
def State.addPairBx (s : State) (th u n : Nat) (re im : Int) : State :=
  let e := s.accE th n
  let up := (s.crowded th n || s.crowded th (n + 1)) && e < 31
  let e1 := if up then e + 1 else e
  let s1 := if up then (s.rescale th n e1).rescale th (n + 1) e1 else (s.shareE th n e1).shareE th (n + 1) e1
  let d : Int := (2 ^ (4 * e1) : Nat)
  let s2 := s1.addNormal th u n (s1.acc th n + re / d)
  s2.addNormal th u (n + 1) (s2.acc th (n + 1) + im / d)

/-- The addends of a multiply-accumulate of two elements: real part, imaginary part (R132, R133). -/
def mulQ (k : Mul) (conj sub : Bool) (a b : Int × Int) : Int × Int :=
  match k with
  | .msu => (-(a.1 * b.1), 0)
  | .macbx => (if sub then -(a.1 * b.1) else a.1 * b.1, 0)
  | .cmac =>
    let y := if conj then -b.2 else b.2
    let re := a.1 * b.1 - a.2 * y
    let im := a.1 * y + a.2 * b.1
    if sub then (-re, -im) else (re, im)
  | _ => (a.1 * b.1, 0)

/-- An exact addend goes to its accumulators by the rule of the operation. -/
def State.addQ (s : State) (th u : Nat) (k : Mul) (n : Nat) (bx : Bool) (q : Int × Int) : State :=
  match k with
  | .macs => s.addClamp th n (s.acc th n + q.1)
  | .macbx => s.addBx th u n q.1
  | .cmac =>
    if bx then s.addPairBx th u n q.1 q.2
    else
      let s1 := s.addNormal th u n (s.acc th n + q.1)
      s1.addNormal th u (n + 1) (s1.acc th (n + 1) + q.2)
  | _ => s.addNormal th u n (s.acc th n + q.1)

/-- A scalar multiply-accumulate (R132). -/
def State.scalarMul (s : State) (th u : Nat) (k : Mul) (n x y : Nat) (conj sub bx : Bool) : State :=
  s.addQ th u k n bx (mulQ k conj sub (s.x th x, s.x th (x + 1)) (s.x th y, s.x th (y + 1)))

/-! ## Streams of a block instruction (R122, R134, R136) -/

/-- A word of the local memory of unit u. -/
def State.streamWord (s : State) (u ea : Nat) : Except Nat Int × State :=
  if ea / 0x40000 ≠ 16 + u then (.error faultAddr, s)
  else
    let r := s.loadWord ea
    (match r.1 with
      | .ok w => .ok (sgn 24 w.toNat)
      | .error c => .error c, r.2)

/-- An element of a stream: its value, and its address register advanced. A complex element is the word at EA and the one
at EA + 4. -/
def State.element (s : State) (th u i : Nat) (circ complex : Bool) : Except Nat (Int × Int) × State :=
  match s.eaOf th ⟨i, 1, 0, circ⟩ with
  | none => (.error faultAlign, s)
  | some (ea, next, _) =>
    match s.streamWord u ea with
    | (.error c, s1) => (.error c, s1)
    | (.ok re, s1) =>
      if complex then
        match s1.streamWord u ((ea + 4) % 2 ^ 24) with
        | (.error c, s2) => (.error c, s2)
        | (.ok im, s2) => (.ok (re, im), s2.setA th i next)
      else (.ok (re, 0), s1.setA th i next)

/-- The two streams of a block multiply-accumulate. -/
structure Streams where
  k    : Mul
  i    : Nat
  j    : Nat
  ca   : Bool
  cb   : Bool
  conj : Bool
  sub  : Bool
  bx   : Bool
  deriving DecidableEq, Repr

/-- The exact sum over the next elements of both streams. -/
def State.groupSum (s : State) (th u : Nat) (b : Streams) : Nat → Int × Int → Except Nat (Int × Int) × State
  | 0, q => (.ok q, s)
  | n + 1, q =>
    match s.element th u b.i b.ca (b.k == .cmac) with
    | (.error c, s1) => (.error c, s1)
    | (.ok a, s1) =>
      match s1.element th u b.j b.cb (b.k == .cmac) with
      | (.error c, s2) => (.error c, s2)
      | (.ok y, s2) =>
        let p := mulQ b.k b.conj b.sub a y
        s2.groupSum th u b n (q.1 + p.1, q.2 + p.2)

/-- Elements per group (R134). -/
def groupLen (k : Mul) : Nat := if k = .cmac then 4 else 8

/-- The groups of a block, of which `left` elements remain; a fault leaves the address registers at the first element of its
group (R136). -/
def State.blockMul (s : State) (th u n : Nat) (b : Streams) : Nat → Nat → Done
  | 0, _ => (s, none)
  | fuel + 1, left =>
    if left = 0 then (s, none)
    else
      let m := min left (groupLen b.k)
      match s.groupSum th u b m (0, 0) with
      | (.error c, s1) => ((s1.setA th b.i (s.a24 th b.i)).setA th b.j (s.a24 th b.j), some c)
      | (.ok q, s1) => (s1.addQ th u b.k n b.bx q).blockMul th u n b fuel (left - m)

/-- The least redundant sign count over the elements of a stream (R141). -/
def State.bexpOver (s : State) (th u i : Nat) (c cx : Bool) : Nat → Nat → Except Nat Nat × State
  | 0, h => (.ok h, s)
  | n + 1, h =>
    match s.element th u i c cx with
    | (.error f, s1) => (.error f, s1)
    | (.ok (re, im), s1) => s1.bexpOver th u i c cx n (min h (if cx then min (rs 24 re) (rs 24 im) else rs 24 re))

/-- BEXP (R141); what g_d holds is taken unsigned in the minimum (log 136). -/
def State.bexp (s : State) (th u d i : Nat) (c cx acc : Bool) (count : Nat) : Done :=
  match s.bexpOver th u i c cx count 23 with
  | (.error f, s1) => (s1, some f)
  | (.ok h, s1) => (s1.setG th d (BitVec.ofNat 32 (if acc then min (s.g th d).toNat h else h)), none)

/-! ## Accumulator operations (R137-R140) -/

/-- CLRACC of one accumulator. -/
def State.clearAcc (s : State) (th n : Nat) (v : Int) : State := (s.putAcc th n v).setReg (Reg.tlpThAccExp th n) 0

def State.clracc (s : State) (th mask : Nat) (x : Option Nat) : State :=
  let v : Int := match x with
    | some r => s.x th r * 2 ^ 23
    | none => 0
  ((List.range 4).filter (fun n => mask.testBit n)).foldl (fun t n => t.clearAcc th n v) s

/-- `A × 2^k` rounded to an integer: HALF_UP, HALF_EVEN or FLOOR (R138). -/
def roundAcc (a : Int) (k : Int) (rm : Nat) : Int :=
  if 0 ≤ k then a * (2 ^ k.toNat : Nat)
  else
    let n := (-k).toNat
    let d : Int := (2 ^ n : Nat)
    match rm with
    | 0 => (2 * a + d) / (2 * d)
    | 1 => rne a n
    | _ => a / d

/-- RND (R138). -/
def State.rnd (s : State) (th n : Nat) (dg : Bool) (d rm : Nat) (e : Bool) (sh : Int) : State :=
  let k := sh + (if e then 4 * (s.accE th n : Int) else 0) - 23
  let y := roundAcc (s.acc th n) k rm
  let z := satS 24 y
  let s1 := if dg then s.setG th d (BitVec.ofInt 32 z) else s.setX th d z
  (s1.setNZ th (z < 0) (z == 0)).setStat th stV (z != y)

/-- SAT (R131, R137). -/
def State.satAcc (s : State) (th n w : Nat) : State :=
  let a := s.acc th n
  let z := if s.satl th n then a else satS w a
  ((s.putAcc th n z).setNZ th (z < 0) (z == 0)).setStat th stV (z != a)

/-- NORM (R139). -/
def State.norm (s : State) (th n d e : Nat) : State :=
  let a := s.acc th n
  let r := rs 64 a
  let m := sgn 24 (unsgn 64 (a * (2 ^ r : Nat)) / 2 ^ 40)
  ((s.setX th d m).setG th e (BitVec.ofNat 32 r)).setNZ th (m < 0) (m == 0)

/-- EXP (R137). -/
def State.expOf (s : State) (th n : Nat) (x : Option Nat) (d : Nat) : State :=
  let v := match x with
    | some r => s.x th r
    | none => s.acc th n
  let c := match x with
    | some _ => rs 24 v
    | none => rs 64 v
  (s.setG th d (BitVec.ofNat 32 c)).setNZ th (v < 0) (v == 0)

/-- SHACC (R137). -/
def State.shacc (s : State) (th u n : Nat) (sh : Int) : State :=
  if s.satl th n then s
  else if 0 ≤ sh then s.addNormal th u n (s.acc th n * (2 ^ sh.toNat : Nat))
  else s.putAcc th n (s.acc th n / (2 ^ (-sh).toNat : Nat))

/-- The words STACC stores (R140). -/
def State.accWords (s : State) (th n : Nat) (x : Bool) : List Word :=
  [s.reg (Reg.tlpThAccLo th n), s.reg (Reg.tlpThAccHi th n)]
    ++ (if x then [s.reg (Reg.tlpThAccExp th n) &&& 0x3F] else [])

def State.staccG (s : State) (th n d : Nat) : State :=
  (s.setG th d (s.reg (Reg.tlpThAccLo th n))).setG th (d + 1) (s.reg (Reg.tlpThAccHi th n))

/-- Words stored one after the other in thread data space. -/
def State.storeThreads (s : State) : Nat → List Word → State
  | _, [] => s
  | ea, w :: ws => (s.storeThread ea w).storeThreads ((ea + 4) % 2 ^ 24) ws

/-- STACC to memory: every address is checked before any word is written (R140). -/
def State.staccM (s : State) (th n : Nat) (e : Ea) (x : Bool) : Done :=
  match s.eaOf th e with
  | none => (s, some faultAlign)
  | some (ea, next, _) =>
    let ws := s.accWords th n x
    match (List.range ws.length).findSome? (fun i => accessFault ((ea + 4 * i) % 2 ^ 24)) with
    | some c => (s, some c)
    | none => ((s.storeThreads ea ws).setA th e.i next, none)

/-! ## Loads and stores of x registers (R142) -/

def State.ldx (s : State) (th x : Nat) (pair : Bool) (e : Ea) : Done :=
  match s.eaOf th e with
  | none => (s, some faultAlign)
  | some (ea, next, ea2) =>
    match accessFault ea, (if pair then accessFault ea2 else none) with
    | some c, _ => (s, some c)
    | none, some c => (s, some c)
    | none, none =>
      match s.loadWord ea with
      | (.error c, s1) => (s1, some c)
      | (.ok v, s1) =>
        if pair then
          match s1.loadWord ea2 with
          | (.error c, s2) => (s2, some c)
          | (.ok v2, s2) =>
            (((s2.setA th e.i next).setX th x (sgn 24 v.toNat)).setX th (x + 1) (sgn 24 v2.toNat), none)
        else ((s1.setA th e.i next).setX th x (sgn 24 v.toNat), none)

def State.stx (s : State) (th x : Nat) (pair : Bool) (e : Ea) : Done :=
  match s.eaOf th e with
  | none => (s, some faultAlign)
  | some (ea, next, ea2) =>
    match accessFault ea, (if pair then accessFault ea2 else none) with
    | some c, _ => (s, some c)
    | none, some c => (s, some c)
    | none, none =>
      let s1 := s.storeThread ea (BitVec.ofInt 32 (s.x th x))
      let s2 := if pair then s1.storeThread ea2 (BitVec.ofInt 32 (s.x th (x + 1))) else s1
      (s2.setA th e.i next, none)

end Sys2Proof.Machine
end

