-- ==== Sys2Proof/Machine/Act.lean ====
section
/-! DEFINITION. The action instructions (R94-R117): what an action reads at issue (R96), its checks, what its target does and
answers (R100-R117), and the timed action queue's acceptance and dispatch (R57-R62). -/
namespace Sys2Proof.Machine

/-! ## Port switches (R110) -/

/-- Why a group refuses a port switch. -/
def State.portRefusal (s : State) (k : Nat) : Option (Nat × Nat) :=
  if !s.up (domTile (k / 2)) then some (ccDown, 0)
  else if (pathsOf k).any (fun n => psStby < s.ps n || s.moving n || s.waitedPair n || s.deferredPair n) then
    some (ccPrecond, 0x0108)
  else none

/-- PORTSEL: at the next slot boundary, or at once while no carrier is enabled; the loader takes up the sets of the new port (R259). -/
def State.portsel (s : State) (groups port : Nat) : State × Answer :=
  let ks := (List.range 8).filter (fun k => groups.testBit k)
  match ks.findSome? s.portRefusal with
  | some (c, d) => (s, .refuse c d)
  | none =>
    if s.carOn 0 || s.carOn 1 then
      (ks.foldl (fun t k => ({ t with air := { t.air with ports := aput t.air.ports k port } } : State).retargetGroup k) s,
        { wait := some (.port groups) })
    else (ks.foldl (fun t k => ((t.landPort k port).refreshGroup k).retargetGroup k) s, {})

/-! ## What an action reads at issue (R96) -/

/-- Bits set in a mask, as offsets from `base`. -/
def namedBits (mask n base : Nat) : List Nat := ((List.range n).filter (fun i => mask.testBit i)).map (base + ·)

/-- The pairs or paths named by a scope: 0 one, 1 the groups of a mask, 2 a mask within group k (R105, R109). -/
def namedPaths (scope k m : Nat) : List Nat :=
  match scope with
  | 0 => [m % 128]
  | 1 => (namedBits m 8 0).flatMap pathsOf
  | _ => namedBits m 16 (16 * k)

/-- The offset of a device-register instruction, or its encoding fault (R111): ALIGN is judged before ADDR (log 134). -/
def State.regOffset (s : State) (th : Nat) (base : Option Nat) (imm : Nat) : Except Nat Nat :=
  let b := match base with
    | some o => (s.g th o).toNat
    | none => 0
  let off := (b + imm) % 2 ^ 26
  if off % 4 ≠ 0 then .error faultAlign
  else if !isRegOff off then .error faultAddr
  else .ok off

/-- The action of an instruction with the values it reads, and the DETAIL of a failed value check (R96); or the fault of an
encoding check. -/
def State.actionOf (s : State) (th : Nat) (o : Op) : Except Nat (Action × Option Nat) :=
  match o with
  | .wreg v mask base imm =>
    let m : Word := match mask with
      | some r => s.g th r
      | none => 0xFFFFFFFF
    match s.regOffset th base imm with
    | .error c => .error c
    | .ok off => .ok (.wreg off (s.g th v) m, none)
  | .pstate st scope k m => .ok (.pstate st (namedPaths scope k (s.src th m)), none)
  | .beamsel dir car layer index =>
    let i := s.src th index % 2 ^ 16
    .ok (.beamsel dir car layer i, if 4095 < i then some 0x0201 else none)
  | .wswap dirs cars bank => .ok (.wswap dirs cars bank, none)
  | .lohop syn preset => .ok (.lohop syn preset, none)
  | .gainset dir sel atten =>
    let a := s.src th atten % 2 ^ 16
    .ok (.gainset dir (namedPaths sel.scope sel.k (if sel.scope = 2 then sel.mask else sel.sel)) a,
      if 4000 < a then some 2 else none)
  | .portsel groups port => .ok (.portsel groups port, none)
  | .signal line => .ok (.signal line, none)
  | .vote dom point => .ok (.vote dom point, none)
  | .unvote dom => .ok (.unvote dom, none)
  | .dmago ch d => .ok (.dmago ch (match d with
      | some r => some (s.g th r)
      | none => none), none)
  | .carm op => .ok (.carm op, none)
  | _ => .error faultIllegal

/-! ## What the target does (R100) -/

/-- A write of a thread to a register (R112, R113). -/
def State.actWreg (s : State) (off : Nat) (val mask : Word) : State × Answer :=
  if !s.regUp off then (s.downWrite, .refuse ccDown 0)
  else if s.r80Discards off then (s.tlpBadWrite, .refuse ccPrecond 3)
  else (s.writeReg none off val mask, {})

/-- The same, judged as a selection change by the order in which it was issued (R219). -/
def State.actWregAt (s : State) (off : Nat) (val mask : Word) (seq : Nat) : State × Answer :=
  let r := ({ s with seq := seq } : State).actWreg off val mask
  ({ r.1 with seq := s.seq }, r.2)

/-- The vote of a thread is set, or withdrawn (R73). -/
def State.actVote (s : State) (th dom : Nat) (point : Option Nat) : State :=
  if dom = 15 then s.votePoint (8 + th) point else s.voteBit dom (8 + th) point.isSome

/-- An action reaches its target: its effect and the target's answer. -/
def State.doAction (s : State) (th : Nat) (a : Action) (owner : Owner) (due : Word) (seq : Nat) : State × Answer :=
  match a with
  | .wreg off val mask => s.actWregAt off val mask seq
  | .pstate tgt pairs => s.pstate tgt pairs owner due
  | .beamsel dir car layer index => s.beamsel dir car layer index seq
  | .wswap dirs cars bank => s.wswap dirs cars bank seq
  | .lohop syn preset => s.lohop syn preset owner due
  | .gainset dir paths atten => if s.up domCrm then (s.gainset dir paths atten, {}) else (s, .refuse ccDown 0)
  | .portsel groups port => s.portsel groups port
  | .signal line => (s.setEv line, {})
  | .vote dom point => (s.actVote th dom (some point), {})
  | .unvote dom => (s.actVote th dom none, {})
  | .dmago ch desc => s.dmago ch desc
  | .carm op =>
    match s.capRequest op with
    | (t, none) => (t, { wait := some .armed })
    | (t, some d) => (t, .refuse ccPrecond d)

/-- A channel started by the action has stopped at once in ERROR (R400). -/
def State.overAlready (s : State) (w : Option Await) : Bool :=
  match w with
  | some (.chan c) => s.chState c == chError
  | _ => false

/-- An untimed action: a failure is kept for the fence, and so is what it has to wait for (R71, R100). -/
def State.untimed (s : State) (th : Nat) (a : Action) (bad : Option Nat) : State :=
  match bad with
  | some _ => s.setThread th { s.thread th with fenceFail := true }
  | none =>
    let r := { s with seq := s.seq + 1 }.doAction th a (.thread th) s.tns s.seq
    let t := r.1.thread th
    let ended := r.1.overAlready r.2.wait
    let fail := (!r.2.flying && 1 < r.2.code) || ended
    let ws := match r.2.wait with
      | some w => if ended then t.awaits else t.awaits ++ [w]
      | none => t.awaits
    r.1.setThread th { t with awaits := ws, fenceFail := t.fenceFail || fail }

/-! ## Acceptance and dispatch (R57-R62) -/

/-- What a dispatched action came to: its answer, LATE when it takes effect more than 64 ns after due (R58). -/
def State.outcome (s : State) (due : Word) (a : Answer) : Nat × Nat :=
  if a.code = ccOk then s.judged due else (a.code, a.detail)

/-- The next occurrence of an entry goes to its target. -/
def State.dispatch (s : State) (tag : Nat) : State :=
  match s.entry? tag with
  | none => s
  | some e =>
    let r := (s.setEntry tag e.take).doAction e.th e.act (.entry tag e.due) e.due e.seq
    if r.2.flying then r.1
    else
      let c := s.outcome e.due r.2
      r.1.complete tag e.due c.1 (r.2.done.getD s.tns) c.2

/-- An occurrence past the late window: refused, with the distance past in microseconds (R57, R62, R65). -/
def State.stale (s : State) (tag : Nat) : State :=
  match s.entry? tag with
  | none => s
  | some e => (s.setEntry tag e.take).complete tag e.due ccStale s.tns ((s.tns - e.due).toNat / 1000)

/-- The judgement of a due time (R57): 0 future, 1 within the late window, 2 stale. -/
def State.judge (s : State) (due : Word) : Nat :=
  let d := (due - s.tns).toNat
  if d ≤ 2 ^ 31 then 0 else if 2 ^ 32 - s.fld Reg.tlpLateLimit 15 0 ≤ d then 1 else 2

/-- An entry to be queued: action, due time, cookie, period of a series, count (1 for a one-shot, 0 for an unlimited series),
quiet, the DETAIL of a failed value check. -/
structure Issue where
  act    : Action
  due    : Word
  cookie : Nat
  period : Option Nat
  count  : Nat
  quiet  : Bool
  bad    : Option Nat
  deriving DecidableEq, Repr

/-- The queue or the thread's quota is full (R59). -/
def State.taqFull (s : State) (th : Nat) : Bool :=
  let q := s.fld (Reg.tlpThCtl th) 24 16
  s.tags == [] || (q != 0 && q ≤ (s.taq.filter (fun p => p.2.th == th)).length)

/-- An entry is accepted under the next free tag: refused by a value check, stale, dispatched at once, or queued. The word
for g_t (R97) and the tag go with it. -/
def State.accept (s : State) (th : Nat) (x : Issue) : State × Word × Nat :=
  match s.tags with
  | [] => (s, 0, 0)
  | tag :: rest =>
    let e : Entry := ⟨th, x.act, x.due, x.cookie, x.period.isSome, x.period.getD 0, x.count,
      x.count != 0, x.quiet, s.seq, 0, false, 0, false⟩
    let s1 := ({ s with tags := rest, seq := s.seq + 1 }.setEntry tag e).showLevel
    let s2 := s1.tagLast tag th (s1.fld (Reg.tlpTagLast tag) 7 0) true
    let told (c : Nat) : Word := BitVec.ofNat 32 (2 ^ 31 + c * 2 ^ 16 + tag)
    match x.bad with
    | some d => (s2.finish tag { e with closed := true } ccPrecond x.due s.tns d true, told ccPrecond, tag)
    | none =>
      match s2.judge x.due with
      | 0 => (s2, BitVec.ofNat 32 tag, tag)
      | 1 => ((s2.setEntry tag { e with late := true }).dispatch tag, BitVec.ofNat 32 tag, tag)
      | _ =>
        let t := s2.stale tag
        (t, if (t.entry? tag).isNone then told ccStale else BitVec.ofNat 32 tag, tag)

/-- The due time of an entry has been reached. -/
def State.dueReached (s : State) (due : Word) : Bool := (s.tns - due).toNat < 2 ^ 31

/-- Entry `a` is dispatched before entry `b`: the earlier due time, then the order of issue (R58). -/
def dueBefore (a b : Entry) : Bool := let d := tdiff a.due b.due; d < 0 || (d == 0 && a.seq < b.seq)

/-- The entry is the next to be dispatched. -/
def State.nextDue (s : State) (tag : Nat) : Bool :=
  match s.entry? tag with
  | none => false
  | some e => !e.spent && s.dueReached e.due &&
      s.taq.all (fun p => p.1 == tag || p.2.spent || !s.dueReached p.2.due || dueBefore e p.2)

/-- `TAQ_DISPATCH`: the next due entry is dispatched; an occurrence of a series found past the late window is skipped as
stale (R62). -/
def State.taqDispatch (s : State) (tag : Nat) : State :=
  if !s.nextDue tag then s
  else match s.entry? tag with
    | some e =>
      let late := (s.tns - e.due).toNat
      if e.periodic && 64 < late && s.fld Reg.tlpLateLimit 15 0 < late then s.stale tag else s.dispatch tag
    | none => s

end Sys2Proof.Machine
end

