-- ==== Sys2Proof/Machine/Thread.lean ====
section
/-! DEFINITION. A thread issues an instruction (R53, R54, R77, R79, R95): fetch, breakpoints, execution, waits and the end of a
wait; and the commands that are a thread's instruction. The word at the thread's PC decides what is issued: a command
whose instruction is not the one there leaves the state as it is, and a word that faults faults under any of them
(log 22). -/
namespace Sys2Proof.Machine

/-! ## Fetch -/

/-- A breakpoint stops the thread before the instruction at `pc` (R79). -/
def State.bpHit (s : State) (th pc : Nat) : Bool :=
  (List.range 8).any (fun k => s.flag (Reg.tlpBpAddr k) 31 && s.fld (Reg.tlpBpAddr k) 16 0 == pc && s.flag (Reg.tlpBpMask k) th)

/-- The instruction at index `pc`, or its fault (R55, R56, R77). -/
def State.fetchOp (s : State) (pc : Nat) : Except Nat Op × State :=
  if !s.flag Reg.tlpImVerified (pc / 8192) then (.error faultUnverified, s)
  else
    let lo := s.readEcc (imBase + 8 * pc)
    let hi := lo.2.2.readEcc (imBase + 8 * pc + 4)
    (if lo.2.1 || hi.2.1 then .error faultEcc
     else match decodeOp (hi.1.toNat * 2 ^ 32 + lo.1.toNat) with
      | some o => .ok o
      | none => .error faultIllegal, hi.2.2)

/-- The last instruction index. -/
def lastPc : Nat := 131071

/-! ## End of an instruction -/

/-- How an instruction ends: go on with the next, branch, fault, wait in a state of R54, hold the unit as a block, leave the
thread as the instruction left it, or stay before the instruction. -/
inductive Ctl where
  | next
  | goto (pc : Nat)
  | fault (cause : Nat)
  | wait (st : Nat)
  | block (u : Nat) (ev : Bool)
  | acted
  | stay
  deriving DecidableEq, Repr

/-- An instruction boundary: a halt request or a single step stops the thread (R79). -/
def State.boundary (s : State) (th : Nat) : State :=
  let t := s.thread th
  if s.thState th = stReady ∧ (t.haltReq ∨ t.stepping) then s.debugStop th false else s

/-- PC advances by one; a sequential fetch past the last index faults after the instruction (R77). -/
def State.advance (s : State) (th n : Nat) : State :=
  if lastPc < s.pc th + n then s.faultThread th faultAddr else (s.setPc th (s.pc th + n)).boundary th

/-- A taken branch (R81). -/
def State.branch (s : State) (th pc : Nat) : State :=
  ((s.traceTh th (2 ^ 60 + th * 2 ^ 56 + s.pc th * 2 ^ 17 + pc)).setPc th pc).boundary th

/-- The unit is held by a block of the thread (R121, R144); `old` is the thread's register state before it, which is what others
see until the block retires (R87). -/
def State.holdUnit (s : State) (th u : Nat) (ev : Bool) (old : List (Nat × Word)) : State :=
  (s.setFlag (Reg.tlpDuStatus u) 31 true).setThread th { s.thread th with block := some u, blockEv := ev, saved := old }

/-- The end of an instruction that leaves state `t`, `s` being the state before it. -/
def State.retire (s : State) (th : Nat) (r : State × Ctl) : State :=
  match r.2 with
  | .next => r.1.advance th 1
  | .goto pc => r.1.branch th pc
  | .fault c => r.1.faultThread th c
  | .wait st => r.1.setThState th st
  | .block u ev => r.1.holdUnit th u ev (skeep s.regs (isThState th))
  | .acted => r.1
  | .stay => r.1.setThread th { r.1.thread th with skipBp := true }

/-- A `Done` as the end of an instruction. -/
def ofDone (r : Done) : State × Ctl :=
  match r.2 with
  | some c => (r.1, .fault c)
  | none => (r.1, .next)

/-! ## Control instructions (R88, R89) -/

/-- A branch target: a g register above the last index faults (R88). -/
def State.jumpTarget (s : State) (th : Nat) (t : Src) : Option Nat :=
  let v := s.src th t
  if v < 2 ^ 17 then some v else none

def State.doJmp (s : State) (th : Nat) (t : Src) : State × Ctl :=
  match s.jumpTarget th t with
  | some pc => (s, .goto pc)
  | none => (s, .fault faultAddr)

def State.doBcond (s : State) (th c bit : Nat) (clr : Bool) (target : Nat) : State × Ctl :=
  let s1 := if c = 15 ∧ clr then s.setStat th bit false else s
  (s1, if s.cond th c bit then .goto target else .next)

def State.doCall (s : State) (th : Nat) (t : Src) : State × Ctl :=
  let d := s.fld (Reg.tlpThRsDepth th) 4 0
  match s.jumpTarget th t with
  | none => (s, .fault faultAddr)
  | some pc =>
    if s.pc th = lastPc then (s, .fault faultAddr)
    else if 16 ≤ d then (s, .fault faultStack)
    else ((s.setReg (Reg.tlpThRs th d) (BitVec.ofNat 32 (s.pc th + 1))).setFld (Reg.tlpThRsDepth th) 4 0 (d + 1), .goto pc)

def State.doRet (s : State) (th : Nat) : State × Ctl :=
  let d := s.fld (Reg.tlpThRsDepth th) 4 0
  if d = 0 then (s, .fault faultStack)
  else (s.setFld (Reg.tlpThRsDepth th) 4 0 (d - 1), .goto (s.fld (Reg.tlpThRs th (d - 1)) 16 0))

def State.doLoop (s : State) (th g target : Nat) : State × Ctl :=
  if s.g th g = 0 then (s, .next)
  else
    let s1 := s.setG th g (s.g th g - 1)
    (s1, if s1.g th g = 0 then .next else .goto target)

/-- HALT: the PC advances, not past the last index (log 131), and the thread is HALTED; entries and votes remain. -/
def State.doHalt (s : State) (th : Nat) : State × Ctl :=
  ((((s.setPc th (min lastPc (s.pc th + 1))).setThState th stHalted).setRun th false).setThread th
    { s.thread th with stepping := false, haltReq := false }, .acted)

/-! ## Integer and memory instructions (R90-R93) -/

def State.doAlu (s : State) (th : Nat) (k : Alu) (d a : Nat) (t : Opnd) : State × Ctl :=
  let o := k.eval (s.spec th a) (s.opnd th t)
  let s1 := s.aluFlags th o
  (if k = .cmp then s1 else s1.setSpec th d o.val, .next)

/-- LD and LDC: the loaded value is written last (R92). -/
def State.doLd (s : State) (th r : Nat) (e : Ea) : State × Ctl :=
  match s.eaOf th e with
  | none => (s, .fault faultAlign)
  | some (ea, next, _) =>
    match s.loadWord ea with
    | (.error c, s1) => (s1, .fault c)
    | (.ok v, s1) => ((if e.mode = 0 then s1 else s1.setA th e.i next).setSpec th r v, .next)

/-- ST and STC: the value before the update is stored (R92). -/
def State.doSt (s : State) (th r : Nat) (e : Ea) : State × Ctl :=
  match s.eaOf th e with
  | none => (s, .fault faultAlign)
  | some (ea, next, _) =>
    match accessFault ea with
    | some c => (s, .fault c)
    | none =>
      let s1 := s.storeThread ea (s.spec th r)
      (if e.mode = 0 then s1 else s1.setA th e.i next, .next)

/-- SETL folds the pointer into the buffer (R93). -/
def State.doSetl (s : State) (th i : Nat) (v : Src) : State × Ctl :=
  let n := s.src th v % 2 ^ 24
  if n % 4 ≠ 0 then (s, .fault faultAlign)
  else
    let s1 := s.setL th i n
    let b := s.b24 th i
    let off := (s.a24 th i + 2 ^ 24 - b) % 2 ^ 24
    (if n ≠ 0 ∧ n ≤ off then (s1.setA th i ((b + off % n) % 2 ^ 24)).setStat th stCircFold true else s1, .next)

/-! ## Waits (R71, R74, R99, R114, R115) -/

/-- A thread's wait: what it waits for and the register the end of the wait writes. -/
def State.arm (s : State) (th : Nat) (tag : Nat) (due : Word) (series : Bool) (dest : Option Nat) : State :=
  s.setThread th { s.thread th with hit := false, hitVal := 0, tag := tag, due := due, series := series, dest := dest }

/-- TNS has not come to the due time: (due − TNS) lies from 1 to 2^31 (R99). -/
def State.before (s : State) (due : Word) : Bool := future due s.tns

def State.doWaitt (s : State) (th : Nat) (base : Option Nat) (off : Int) : State × Ctl :=
  let b : Word := match base with
    | some r => s.g th r
    | none => 0
  let due := b + BitVec.ofInt 32 off
  if s.before due then (s.arm th 0 due false none, .wait stWaitT)
  else (if due = s.tns then s else s.setStat th stLateWait true, .next)

/-- Latches of a word consumed. -/
def State.consume (s : State) (word : Nat) (m : Word) (c : Bool) : State :=
  if c then s.setReg (Reg.tlpEv word) (s.reg (Reg.tlpEv word) &&& ~~~ m) else s

def State.doWaitev (s : State) (th line : Nat) (c : Bool) : State × Ctl :=
  let m := BitVec.ofNat 32 (2 ^ (line % 32))
  if s.ev line then (s.consume (line / 32) m c, .next)
  else (s.arm th (line / 32) m c none, .wait stWaitEv)

def State.doWaitevAny (s : State) (th word m d : Nat) (c : Bool) : State × Ctl :=
  let mask := s.g th m
  let v := s.reg (Reg.tlpEv word) &&& mask
  if mask = 0 then (s.setG th d 0, .next)
  else if v ≠ 0 then ((s.consume word v c).setG th d v, .next)
  else (s.arm th word mask c (some d), .wait stWaitEv)

/-- Whether what a FENCE awaits has come about (R71). -/
def State.reachedAwait (s : State) (a : Await) : Bool :=
  match a with
  | .act id => !(s.air.runs.any (fun r => r.id == id) || s.air.waits.any (fun w => w.id == id))
  | .syn id => !s.los.hops.any (fun h => h.2.id == id)
  | .beam dir car layer => (alook s.bme.sel (selKey dir car layer)).isNone
  | .bank dirs cars => !s.bme.swap.any (fun p => dirs.testBit (p.1 / 2) && cars.testBit (p.1 % 2))
  | .port groups => !s.air.ports.any (fun p => groups.testBit p.1)
  | .chan c => s.startable c
  | .armed => !s.cap.held

/-- Every earlier untimed action of the thread has reached its state. -/
def State.fenced (s : State) (th : Nat) : Bool := (s.thread th).awaits.all s.reachedAwait

/-- FENCE completes: a failed action sets FENCE_ERR. -/
def State.endFence (s : State) (th : Nat) : State :=
  let t := s.thread th
  let s1 := s.setThread th { t with awaits := [], fenceFail := false }
  if t.fenceFail then s1.setStat th stFenceErr true else s1

def State.doFence (s : State) (th : Nat) : State × Ctl :=
  if s.fenced th then (s.endFence th, .next) else (s.arm th 0 0 false none, .wait stWaitFence)

def State.doCmpl (s : State) (th d : Nat) (tag : Src) : State × Ctl :=
  let t := s.src th tag % 512
  match s.entry? t with
  | some e =>
    if e.th = th then (s.arm th t 0 e.periodic (some d), .wait stWaitCmpl)
    else (s.setG th d (s.reg (Reg.tlpTagLast t)), .next)
  | none => (s.setG th d (s.reg (Reg.tlpTagLast t)), .next)

/-- An untimed VOTE waits until the domain is up or the point is reached, or fails at once where the domain has been given up
(R74). -/
def State.doVote (s : State) (th dom point : Nat) : State × Ctl :=
  let tag := if dom = 15 then 16 + point else dom
  let s1 := s.actVote th dom (some point)
  if s1.voteReached tag then (s1, .next)
  else if dom ≠ 15 ∧ s1.givenUp dom then (s1.setStat th stVoteFail true, .next)
  else (s1.arm th tag 0 false none, .wait stWaitVote)

/-! ## Registers, check values, blocks -/

def State.doRreg (s : State) (th d : Nat) (base : Option Nat) (imm : Nat) : State × Ctl :=
  match s.regOffset th base imm with
  | .error c => (s, .fault c)
  | .ok off =>
    if s.holdsRead off then (s.setThread th { s.thread th with reading := true }, .stay)
    else
      let r := s.fetchReg (2 + th) off
      (r.2.2.setG th d r.1, .next)

/-- CVFEED: while the context's queue is full the thread does not go on (R118, R407). -/
def State.doCvfeed (s : State) (th cv w g : Nat) : State × Ctl :=
  if s.cvFull cv then (s, .stay)
  else
    let v := (s.g th g).toNat
    let x := match w with
      | 0 => CvEntry.feed 1 (v % 2 ^ 8)
      | 1 => .feed 2 (v % 2 ^ 16)
      | 2 => .feed 4 v
      | _ => .feed 8 (v + (s.g th (g + 1)).toNat * 2 ^ 32)
    (s.cvPush cv x, .next)

/-- CVFEED.A: word by word; a fault leaves a_i at the faulting word (R118). -/
def State.feedWords (s : State) (th cv i : Nat) : Nat → State × Ctl
  | 0 => (s, .next)
  | n + 1 =>
    match s.loadWord (s.a24 th i) with
    | (.error c, s1) => (s1, .fault c)
    | (.ok w, s1) => ((s1.cvPush cv (.feed 4 w.toNat)).setA th i (s1.a24 th i + 4)).feedWords th cv i n

/-- A block instruction: its results, the thread shown as the unit's last (R144), and the unit held until BLOCK_COMPLETE, or its
fault (R135, R136). -/
def asBlock (th : Nat) (r : Done) (u : Nat) (ev : Bool) : State × Ctl :=
  (r.1.setFld (Reg.tlpDuStatus u) 19 16 th, match r.2 with
  | some c => .fault c
  | none => .block u ev)

/-! ## Actions and units (R94-R98) -/

/-- An untimed action takes effect as the thread issues it, with the PC already past it (R100). -/
def State.doAction1 (s : State) (th : Nat) (o : Op) : State × Ctl :=
  match s.actionOf th o with
  | .error c => (s, .fault c)
  | .ok (a, bad) =>
    if s.pc th = lastPc then (s.untimed th a bad, .next)
    else
      let s1 := (s.setPc th (s.pc th + 1)).untimed th a bad
      (s1.boundary th, .acted)

/-- The entry a prefix and its action make (R94, R98). -/
def State.issueOf (s : State) (th : Nat) (p : Op) (a : Action) (bad : Option Nat) : Issue × Nat :=
  match p with
  | .atI t cookie due => (⟨a, BitVec.ofNat 32 due, cookie, none, 1, false, bad⟩, t)
  | .atR t cookie r off => (⟨a, s.g th r + BitVec.ofInt 32 off, cookie, none, 1, false, bad⟩, t)
  | .atN t cookie off => (⟨a, s.tns + BitVec.ofInt 32 off, cookie, none, 1, false, bad⟩, t)
  | .every t cookie r q quiet count =>
    let per := (s.g th q).toNat
    (⟨a, s.g th r, cookie, some per, count, quiet, if per < 1000 ∨ 1073741824 < per then some 1 else bad⟩, t)
  | _ => (⟨a, 0, 0, none, 1, false, bad⟩, 0)

/-- A thread stalls for room in the queue; the stall counts once (R59). -/
def State.stall (s : State) (th : Nat) : State :=
  let t := s.thread th
  let s1 := if t.stalled then s else (s.bump Reg.tlpCntTaqStall).raiseBit Reg.tlpSticky 18
  s1.setThread th { t with stalled := true, hit := false }

/-- A prefix with the action at the next index (R95): the entry is accepted, g_t written, and the PC moves past both. -/
def State.doUnit (s : State) (th : Nat) (p : Op) : State × Ctl :=
  let pc := s.pc th
  if pc = lastPc then (s, .fault faultAddr)
  else match s.fetchOp (pc + 1) with
  | (.error c, s1) => (s1, .fault c)
  | (.ok o, s1) =>
    if !o.isAction then (s1, .fault faultIllegal)
    else match s1.actionOf th o with
    | .error c => (s1, .fault c)
    | .ok (a, bad) =>
      if s1.taqFull th then (s1.stall th, .wait stWaitTaq)
      else
        let x := s1.issueOf th p a bad
        let last := lastPc < pc + 2
        let s2 := (s1.setPc th (min lastPc (pc + 2))).setThread th { s1.thread th with stalled := false }
        let r := s2.accept th x.1
        let s3 := r.1.traceTh th (2 * 2 ^ 60 + th * 2 ^ 56 + r.2.2 * 2 ^ 47 + (pc + 1))
        let s4 := if s3.thState th = stHalted then s3 else s3.setG th x.2 r.2.1
        if last then (s4, if s4.thState th = stReady then .fault faultAddr else .acted) else (s4.boundary th, .acted)

/-! ## The turn of issue (R53, R88) -/

/-- The issue priority of a thread. -/
def State.prio (s : State) (i : Nat) : Nat := s.fld (Reg.tlpThCtl i) 5 4

/-- Issues of the pipeline since the last one of a thread (R53; log 33). -/
def State.waited (s : State) (i : Nat) : Nat := s.pipe.issues - (alook s.pipe.last i).getD 0

/-- A thread has stood back for so long that it is taken ahead of priority (R53). -/
def State.starved (s : State) (i : Nat) : Bool := 256 ≤ s.waited i

/-- The thread is READY and has no instruction under way. -/
def State.canGo (s : State) (i : Nat) : Bool :=
  s.thState i == stReady && (s.thread i).block.isNone && !(s.thread i).reading

/-- Thread `i` is taken before thread `j` (R53): one that has stood back too long, then the higher priority, then the one whose
last issue lies further back. -/
def State.takenBefore (s : State) (i j : Nat) : Bool :=
  if s.starved i != s.starved j then s.starved i
  else if s.prio i ≠ s.prio j then s.prio j < s.prio i
  else if s.waited i ≠ s.waited j then s.waited j < s.waited i
  else i < j

/-- YIELD: the thread stands behind every other ready thread of its priority (R88). -/
def State.yielded (s : State) (th : Nat) : State :=
  let peers := (List.range 16).filter (fun j => j != th && s.canGo j && s.prio j == s.prio th)
  { s with pipe := { s.pipe with behind := aput s.pipe.behind th peers } }

/-- Every thread that a yielding thread stands behind has issued, or is no longer ready. -/
def State.atTurn (s : State) (th : Nat) : Bool :=
  s.starved th || ((alook s.pipe.behind th).getD []).all (fun j => !(s.canGo j && s.prio j == s.prio th))

/-- The thread issues: nobody stands behind it any more, and it no longer stands at a breakpoint it has passed (R79). -/
def State.begun (s : State) (th : Nat) : State :=
  let n := s.pipe.issues + 1
  let left := (sdel s.pipe.behind th).map (fun p => (p.1, p.2.filter (· != th)))
  { s with pipe := ⟨n, aput s.pipe.last th n, left⟩ }.setThread th { s.thread th with skipBp := false, reading := false }

/-! ## Execution -/

/-- What an instruction does, `u` being the thread's DSP unit. -/
def State.perform (s : State) (th u : Nat) (o : Op) : State × Ctl :=
  match o with
  | .nop => (s, .next)
  | .jmp t => s.doJmp th t
  | .bcond c b clr target => s.doBcond th c b clr target
  | .call t => s.doCall th t
  | .ret => s.doRet th
  | .loop g target => s.doLoop th g target
  | .yield => (s.yielded th, .next)
  | .halt => s.doHalt th
  | .alu k d a t => s.doAlu th k d a t
  | .movi d imm => (s.setSpec th d (BitVec.ofNat 32 imm), .next)
  | .ld r ea => s.doLd th r ea
  | .st r ea => s.doSt th r ea
  | .setl i v => s.doSetl th i v
  | .setb i v => (s.setB th i (s.src th v), .next)
  | .atI _ _ _ => s.doUnit th o
  | .atR _ _ _ _ => s.doUnit th o
  | .atN _ _ _ => s.doUnit th o
  | .every _ _ _ _ _ _ => s.doUnit th o
  | .waitt base off => s.doWaitt th base off
  | .pstate _ _ _ _ => s.doAction1 th o
  | .beamsel _ _ _ _ => s.doAction1 th o
  | .wswap _ _ _ => s.doAction1 th o
  | .lohop _ _ => s.doAction1 th o
  | .gainset _ _ _ => s.doAction1 th o
  | .portsel _ _ => s.doAction1 th o
  | .wreg _ _ _ _ => s.doAction1 th o
  | .rreg d base imm => s.doRreg th d base imm
  | .signal _ => s.doAction1 th o
  | .waitev line c => s.doWaitev th line c
  | .waitevAny word m d c => s.doWaitevAny th word m d c
  | .vote dom point => s.doVote th dom point
  | .unvote dom => (s.actVote th dom none, .next)
  | .fence => s.doFence th
  | .cmpl d tag => s.doCmpl th d tag
  | .dmago _ _ => s.doAction1 th o
  | .carm _ => s.doAction1 th o
  | .cvfeed cv w g => s.doCvfeed th cv w g
  | .cvfeedA cv i count => s.feedWords th cv i count
  | .mul k n a b conj sub bx => (s.scalarMul th u k n a b conj sub bx, .next)
  | .mulB k n i j ca cb conj sub bx ev count =>
    let c := s.src th count % 2 ^ 16
    asBlock th (s.blockMul th u n ⟨k, i, j, ca, cb, conj, sub, bx⟩ c c) u ev
  | .clracc mask x => (s.clracc th mask x, .next)
  | .rnd n dg d rm e sh => (s.rnd th n dg d rm e sh, .next)
  | .sat n w => (s.satAcc th n w, .next)
  | .norm n d e => (s.norm th n d e, .next)
  | .exp n x d => (s.expOf th n x d, .next)
  | .shacc n sh => (s.shacc th u n sh, .next)
  | .staccG n d => (s.staccG th n d, .next)
  | .staccM n ea x => ofDone (s.staccM th n ea x)
  | .bexp d i c cx acc count => asBlock th (s.bexp th u d i c cx acc (s.src th count % 2 ^ 16)) u false
  | .ldx x pair ea => ofDone (s.ldx th x pair ea)
  | .stx x pair ea => ofDone (s.stx th x pair ea)

/-- The thread executes the decoded instruction, its DSP unit accepting it. -/
def State.run (s : State) (th : Nat) (o : Op) : State := (s.begun th).retire th ((s.begun th).perform th (s.duOf th) o)

/-- The unit runs a block, or other threads wait for it: those it accepts first (R121). -/
def State.unitTaken (s : State) (th u : Nat) : Bool :=
  s.flag (Reg.tlpDuStatus u) 31 || (List.range 16).any (fun i => i != th && s.flag (Reg.tlpDuStatus u) i)

/-- The thread issues the decoded instruction, or waits for its DSP unit (R121). -/
def State.start (s : State) (th : Nat) (o : Op) : State :=
  let u := s.duOf th
  if o.onUnit && s.unitTaken th u then (s.setFlag (Reg.tlpDuStatus u) th true).setThState th stWaitDu
  else s.run th o

/-- The thread may issue: READY, COB up, no block of its own running, not standing back after a YIELD (R54, R88, R121). -/
def State.canIssue (s : State) (th : Nat) : Bool :=
  th < 16 && s.up domCob && s.thState th == stReady && (s.thread th).block.isNone && s.atTurn th

/-- A breakpoint on the instruction, or on the action of a unit, stops the thread (R79, R95). -/
def State.stopsAt (s : State) (th : Nat) (o : Option Op) : Bool :=
  let pc := s.pc th
  !(s.thread th).skipBp && (s.bpHit th pc || ((match o with
    | some p => p.isPrefix
    | none => false) && s.bpHit th (pc + 1)))

/-- The thread issues the instruction at its PC where `wanted` holds of it; a fault of the fetch comes in any case. -/
def State.issueIf (s : State) (th : Nat) (wanted : Op → Bool) : State :=
  if !s.canIssue th then s
  else match s.fetchOp (s.pc th) with
  | (.error c, s1) => if s.stopsAt th none then s.debugStop th true else s1.faultThread th c
  | (.ok o, s1) =>
    if !wanted o then s
    else if s.stopsAt th (some o) then s.debugStop th true
    else s1.start th o

/-- A command of the opcode table that is an instruction: thread `th` issues it. -/
def State.issue (s : State) (th : Nat) (row : Instr) : State := s.issueIf th (fun o => o.row th == row)

/-! ## Commands: the instructions -/

def execNop (th : Nat) (s : State) : Host.Outcome State Fault Refusal := .next (s.issue th (.nop th))
def execJmp (th : Nat) (s : State) : Host.Outcome State Fault Refusal := .next (s.issue th (.jmp th))
def execBCond (th : Nat) (s : State) : Host.Outcome State Fault Refusal := .next (s.issue th (.bCond th))
def execCall (th : Nat) (s : State) : Host.Outcome State Fault Refusal := .next (s.issue th (.call th))
def execRet (th : Nat) (s : State) : Host.Outcome State Fault Refusal := .next (s.issue th (.ret th))
def execLoop (th : Nat) (s : State) : Host.Outcome State Fault Refusal := .next (s.issue th (.loop th))
def execYield (th : Nat) (s : State) : Host.Outcome State Fault Refusal := .next (s.issue th (.yield th))
def execHalt (th : Nat) (s : State) : Host.Outcome State Fault Refusal := .next (s.issue th (.halt th))
def execAdd (th : Nat) (s : State) : Host.Outcome State Fault Refusal := .next (s.issue th (.add th))
def execSub (th : Nat) (s : State) : Host.Outcome State Fault Refusal := .next (s.issue th (.sub th))
def execAnd (th : Nat) (s : State) : Host.Outcome State Fault Refusal := .next (s.issue th (.and th))
def execOr (th : Nat) (s : State) : Host.Outcome State Fault Refusal := .next (s.issue th (.or th))
def execXor (th : Nat) (s : State) : Host.Outcome State Fault Refusal := .next (s.issue th (.xor th))
def execShl (th : Nat) (s : State) : Host.Outcome State Fault Refusal := .next (s.issue th (.shl th))
def execShr (th : Nat) (s : State) : Host.Outcome State Fault Refusal := .next (s.issue th (.shr th))
def execSra (th : Nat) (s : State) : Host.Outcome State Fault Refusal := .next (s.issue th (.sra th))
def execCmp (th : Nat) (s : State) : Host.Outcome State Fault Refusal := .next (s.issue th (.cmp th))
def execMovi (th : Nat) (s : State) : Host.Outcome State Fault Refusal := .next (s.issue th (.movi th))
def execLd (th : Nat) (s : State) : Host.Outcome State Fault Refusal := .next (s.issue th (.ld th))
def execSt (th : Nat) (s : State) : Host.Outcome State Fault Refusal := .next (s.issue th (.st th))
def execLdc (th : Nat) (s : State) : Host.Outcome State Fault Refusal := .next (s.issue th (.ldc th))
def execStc (th : Nat) (s : State) : Host.Outcome State Fault Refusal := .next (s.issue th (.stc th))
def execSetl (th : Nat) (s : State) : Host.Outcome State Fault Refusal := .next (s.issue th (.setl th))
def execSetb (th : Nat) (s : State) : Host.Outcome State Fault Refusal := .next (s.issue th (.setb th))
def execAtI (th : Nat) (s : State) : Host.Outcome State Fault Refusal := .next (s.issue th (.atI th))
def execAtR (th : Nat) (s : State) : Host.Outcome State Fault Refusal := .next (s.issue th (.atR th))
def execAtN (th : Nat) (s : State) : Host.Outcome State Fault Refusal := .next (s.issue th (.atN th))
def execEvery (th : Nat) (s : State) : Host.Outcome State Fault Refusal := .next (s.issue th (.every th))
def execWaitt (th : Nat) (s : State) : Host.Outcome State Fault Refusal := .next (s.issue th (.waitt th))
def execPstate (th : Nat) (s : State) : Host.Outcome State Fault Refusal := .next (s.issue th (.pstate th))
def execBeamsel (th : Nat) (s : State) : Host.Outcome State Fault Refusal := .next (s.issue th (.beamsel th))
def execWswap (th : Nat) (s : State) : Host.Outcome State Fault Refusal := .next (s.issue th (.wswap th))
def execLohop (th : Nat) (s : State) : Host.Outcome State Fault Refusal := .next (s.issue th (.lohop th))
def execGainset (th : Nat) (s : State) : Host.Outcome State Fault Refusal := .next (s.issue th (.gainset th))
def execPortsel (th : Nat) (s : State) : Host.Outcome State Fault Refusal := .next (s.issue th (.portsel th))
def execWreg (th : Nat) (s : State) : Host.Outcome State Fault Refusal := .next (s.issue th (.wreg th))
def execWregM (th : Nat) (s : State) : Host.Outcome State Fault Refusal := .next (s.issue th (.wregM th))
def execRreg (th : Nat) (s : State) : Host.Outcome State Fault Refusal := .next (s.issue th (.rreg th))
def execSignal (th : Nat) (s : State) : Host.Outcome State Fault Refusal := .next (s.issue th (.signal th))
def execWaitev (th : Nat) (s : State) : Host.Outcome State Fault Refusal := .next (s.issue th (.waitev th))
def execWaitevAny (th : Nat) (s : State) : Host.Outcome State Fault Refusal := .next (s.issue th (.waitevAny th))
def execVote (th : Nat) (s : State) : Host.Outcome State Fault Refusal := .next (s.issue th (.vote th))
def execUnvote (th : Nat) (s : State) : Host.Outcome State Fault Refusal := .next (s.issue th (.unvote th))
def execFence (th : Nat) (s : State) : Host.Outcome State Fault Refusal := .next (s.issue th (.fence th))
def execCmpl (th : Nat) (s : State) : Host.Outcome State Fault Refusal := .next (s.issue th (.cmpl th))
def execDmago (th : Nat) (s : State) : Host.Outcome State Fault Refusal := .next (s.issue th (.dmago th))
def execCarm (th : Nat) (s : State) : Host.Outcome State Fault Refusal := .next (s.issue th (.carm th))
def execCvfeed (th : Nat) (s : State) : Host.Outcome State Fault Refusal := .next (s.issue th (.cvfeed th))
def execCvfeedA (th : Nat) (s : State) : Host.Outcome State Fault Refusal := .next (s.issue th (.cvfeedA th))
def execMac (th : Nat) (s : State) : Host.Outcome State Fault Refusal := .next (s.issue th (.mac th))
def execMsu (th : Nat) (s : State) : Host.Outcome State Fault Refusal := .next (s.issue th (.msu th))
def execMacs (th : Nat) (s : State) : Host.Outcome State Fault Refusal := .next (s.issue th (.macs th))
def execMacbx (th : Nat) (s : State) : Host.Outcome State Fault Refusal := .next (s.issue th (.macbx th))
def execCmac (th : Nat) (s : State) : Host.Outcome State Fault Refusal := .next (s.issue th (.cmac th))
def execMacB (th : Nat) (s : State) : Host.Outcome State Fault Refusal := .next (s.issue th (.macB th))
def execMsuB (th : Nat) (s : State) : Host.Outcome State Fault Refusal := .next (s.issue th (.msuB th))
def execMacsB (th : Nat) (s : State) : Host.Outcome State Fault Refusal := .next (s.issue th (.macsB th))
def execMacbxB (th : Nat) (s : State) : Host.Outcome State Fault Refusal := .next (s.issue th (.macbxB th))
def execCmacB (th : Nat) (s : State) : Host.Outcome State Fault Refusal := .next (s.issue th (.cmacB th))
def execClracc (th : Nat) (s : State) : Host.Outcome State Fault Refusal := .next (s.issue th (.clracc th))
def execRnd (th : Nat) (s : State) : Host.Outcome State Fault Refusal := .next (s.issue th (.rnd th))
def execSat (th : Nat) (s : State) : Host.Outcome State Fault Refusal := .next (s.issue th (.sat th))
def execNorm (th : Nat) (s : State) : Host.Outcome State Fault Refusal := .next (s.issue th (.norm th))
def execExp (th : Nat) (s : State) : Host.Outcome State Fault Refusal := .next (s.issue th (.exp th))
def execShacc (th : Nat) (s : State) : Host.Outcome State Fault Refusal := .next (s.issue th (.shacc th))
def execStacc (th : Nat) (s : State) : Host.Outcome State Fault Refusal := .next (s.issue th (.stacc th))
def execBexp (th : Nat) (s : State) : Host.Outcome State Fault Refusal := .next (s.issue th (.bexp th))
def execLdX (th : Nat) (s : State) : Host.Outcome State Fault Refusal := .next (s.issue th (.ldX th))
def execStX (th : Nat) (s : State) : Host.Outcome State Fault Refusal := .next (s.issue th (.stX th))

/-- A write to `CTL.STEP`: a thread in DEBUG executes the instruction at its PC (R79). -/
def execStep (port : Port) (th : Nat) (val : Word) (s : State) : Host.Outcome State Fault Refusal :=
  .next (if th < 16 then
      let s1 := s.hostReg port (Reg.tlpThCtl th) (fun t => t.writeThCtl th (putBit val 1 true) 0xFFFFFFFF)
      if s1.thState th = stReady ∧ (s1.thread th).stepping then s1.issueIf th (fun _ => true) else s1
    else s)

end Sys2Proof.Machine
end

