-- ==== Sys2Proof/Machine/Timeline.lean ====
section
/-! DEFINITION. What happens to threads without an instruction: the end of a wait (R54, R71, R74, R99, R115, R121), the end of
a block (R135, R136), dispatch of a due entry (R58), the watchdog (R78), the end of Spring with its thread restarts (R76,
R452); and the instruction of the JTAG TAP (R489). -/
namespace Sys2Proof.Machine

/-! ## The end of a wait -/

/-- The wait instruction completes: the thread is READY past it. -/
def State.endWait (s : State) (th : Nat) : State :=
  ((s.setThState th stReady).setThread th { s.thread th with hit := false, hitVal := 0, dest := none }).advance th 1

/-- The register the wait instruction writes. -/
def State.writeDest (s : State) (th : Nat) : State :=
  match (s.thread th).dest with
  | some d => s.setG th d (s.thread th).hitVal
  | none => s

/-- The thread issues its instruction again: it has not executed, and its breakpoint has been passed. -/
def State.reissue (s : State) (th : Nat) : State :=
  (s.setThState th stReady).setThread th { s.thread th with hit := false, skipBp := true }

/-- The unit accepts waiting threads in the order of R53 (R121). The unit is the one that CTL.DU names by now (log 135). -/
def State.duTurn (s : State) (th : Nat) : Bool :=
  let u := s.duOf th
  !s.flag (Reg.tlpDuStatus u) 31 &&
    (List.range 16).all (fun i => i == th || !s.flag (Reg.tlpDuStatus u) i || s.takenBefore th i)

/-- The unit accepts the instruction of the waiting thread, which executes it. -/
def State.accepted (s : State) (th : Nat) : State :=
  match s.fetchOp (s.pc th) with
  | (.error c, s1) => s1.faultThread th c
  | (.ok o, s1) => s1.run th o

/-- A thread whose wait condition is true becomes READY (R54). -/
def State.wakeThread (s : State) (th : Nat) : State :=
  let t := s.thread th
  let st := s.thState th
  if st = stWaitEv ∨ st = stWaitCmpl then (if t.hit then (s.writeDest th).endWait th else s)
  else if st = stWaitT then (if s.before t.due then s else s.endWait th)
  else if st = stWaitFence then (if s.fenced th then (s.endFence th).endWait th else s)
  else if st = stWaitVote then
    (if t.hit then (if t.hitVal = 1 then s.setStat th stVoteFail true else s).endWait th else s)
  else if st = stWaitTaq then (if s.taqFull th then s else s.reissue th)
  else if st = stWaitDu then (if s.duTurn th then ((s.leaveDu th).reissue th).accepted th else s)
  else s

/-- TNS has come to the due time of a WAITT (R99). -/
def State.wakeTime (s : State) (th : Nat) : State := if s.thState th = stWaitT then s.wakeThread th else s

/-! ## Watchdog (R78) -/

/-- A thread whose watchdog counts: READY, waiting or in FAULT. -/
def State.wdtRuns (s : State) (th : Nat) : Bool :=
  let st := s.thState th
  s.flag (Reg.tlpThWdt th) 31 && s.fld (Reg.tlpThWdt th) 23 0 != 0 && st != stHalted && st != stDebug

/-- The count of nanoseconds at which the watchdog fires; one more once it has fired. -/
def State.wdtLimit (s : State) (th : Nat) : Nat := 1000 * s.fld (Reg.tlpThWdt th) 23 0

/-- The watchdog has reached its limit and has not fired. -/
def State.wdtDue (s : State) (th : Nat) : Bool := s.wdtRuns th && (s.thread th).wdt == s.wdtLimit th

/-- The watchdog fires: the thread faults unless it is in FAULT, and ACTION 1 forces transmitting pairs to WARM. -/
def State.fireWdt (s : State) (th : Nat) : State :=
  let s1 := s.setThread th { s.thread th with wdt := (s.thread th).wdt + 1 }
  let s2 := if s1.thState th = stFault then s1 else (s1.leaveDu th).faultThread th faultWatchdog
  if s2.fld (Reg.tlpThWdt th) 29 28 = 1 then s2.forceWarm else s2

/-- A due watchdog fires at once, or at the instruction boundary after a running block (R136). -/
def State.watchdog (s : State) (th : Nat) : State :=
  if s.wdtDue th && (s.thread th).block.isNone then s.fireWdt th else s

/-- One nanosecond on every watchdog that counts. -/
def State.wdtTick (s : State) : State :=
  if s.up domCob then
    (List.range 16).foldl (fun t i =>
      let r := t.thread i
      if t.wdtRuns i && r.wdt < t.wdtLimit i then t.setThread i { r with wdt := r.wdt + 1 } else t) s
  else s

/-! ## The end of a block (R135) -/

/-- A running block instruction completes; a due watchdog takes effect after it. -/
def State.endBlock (s : State) (u : Nat) : State :=
  if s.flag (Reg.tlpDuStatus u) 31 then
    let th := s.fld (Reg.tlpDuStatus u) 19 16
    let t := s.thread th
    let s1 := (s.setFlag (Reg.tlpDuStatus u) 31 false).bump (Reg.tlpDuBlocks u)
    let s2 := if t.blockEv then s1.setEv (176 + u) else s1
    ((s2.setThread th { s2.thread th with block := none, blockEv := false, saved := [] }).advance th 1).watchdog th
  else s

/-! ## Spring (R76, R452) -/

/-- Threads with WAKE_PC.EN start anew at WAKE_PC.PC (R76). -/
def State.wakeRestarts (s : State) : State :=
  if s.up domCob then
    ((List.range 16).filter (fun i => s.flag (Reg.tlpThWakePc i) 31)).foldl
      (fun t i => t.freshStart i (t.fld (Reg.tlpThWakePc i) 16 0)) s
  else s

/-- Spring ends with every named domain UP: the state becomes STATE.RESUME, and a pending state request is taken. -/
def State.endSpring (s : State) : State :=
  if s.season = 4 && s.springReady then
    let s1 := s.setSeason (s.fld Reg.pwrState 10 8)
    ({ s1 with pwr := { s1.pwr with spring := 0 } }.wakeRestarts).takeRequest.powerEval
  else s

/-! ## JTAG (R481, R489) -/

/-- Instructions that take control of pins. -/
def Tap.drives : Tap → Bool
  | .extest => true
  | .extestPulse => true
  | .extestTrain => true
  | .clamp => true
  | .highz => true
  | _ => false

/-- Instructions beside those of boundary scan. -/
def Tap.foreign : Tap → Bool
  | .other _ => true
  | _ => false

/-- The TAP accepts an instruction (R481, R489). -/
def State.tapAccepts (s : State) (i : Tap) : Bool :=
  (!Tap.drives i || s.boot == .held) && (!Tap.foreign i || !s.otpLock 4)

/-! ## Pins (R466, R488, R491) -/

/-- A level of the AON pins the device drives: low from RESET_N low until the OTP is sensed. -/
def State.drainPin (s : State) (i : Nat) : Bool := s.boot == .running && bit s.pins.drain i

/-- LNA_BYP[i], low while its tile or CRM is down. -/
def State.lnaBypPin (s : State) (i : Nat) : Bool := s.up domCrm && bit s.pins.lnaByp i

/-- RING_HOLD_r pulls low and energises the coils of the ring's relays (R341, R492). -/
def State.ringHoldPin (s : State) (r : Nat) : Bool := s.boot == .running && s.up domRing && bit s.pins.ringHold r

/-- The QSPI pins are driven (R491). -/
def State.qspiDriven (s : State) : Bool := s.boot == .running && s.up domMgt

/-! ## Commands -/

def execThreadWake (th : Nat) (s : State) : Host.Outcome State Fault Refusal :=
  .next (if th < 16 ∧ s.up domCob then s.wakeThread th else s)
def execWaittDue (th : Nat) (s : State) : Host.Outcome State Fault Refusal :=
  .next (if th < 16 ∧ s.up domCob then s.wakeTime th else s)
def execTaqDispatch (tag : Nat) (s : State) : Host.Outcome State Fault Refusal :=
  .next (if s.up domCob then s.taqDispatch tag else s)
def execBlockComplete (unit : Nat) (s : State) : Host.Outcome State Fault Refusal :=
  .next (if unit < 8 ∧ s.up domCob then s.endBlock unit else s)
def execWatchdog (th : Nat) (s : State) : Host.Outcome State Fault Refusal :=
  .next (if th < 16 ∧ s.up domCob then s.watchdog th else s)
def execSpringComplete (s : State) : Host.Outcome State Fault Refusal := .next s.endSpring
/-- TRST_N is sampled with the instruction: low resets the TAP, high lets it take the instruction (R489, R512; log 90). -/
def execTapInstruction (instr : Tap) (trst : Bool) (s : State) : Host.Outcome State Fault Refusal :=
  .next (if !trst then { s with tap := .bypass } else if s.tapAccepts instr then { s with tap := instr } else s)

end Sys2Proof.Machine
end

