-- ==== Sys2Proof/Machine/Probe.lean ====
section
/-! DEFINITION. What the capture engine sees (21_capture_engine.md): probe bytes, the conditions of the sequencer, and what a
Cobalt cycle does to the engine (R416, R418, R424). -/
namespace Sys2Proof.Machine

/-- Eight flags as a byte, the first in bit 0. -/
def byteOf (f : Nat → Bool) : Nat := (List.range 8).foldl (fun a i => a + (f i).toNat * 2 ^ i) 0

/-- The eight bits of a probe byte, by the group and index selected (R416). Reserved indices and group 0 read 0. -/
def State.probeBits (s : State) (group idx : Nat) : Nat :=
  match group with
  | 0x1 => let v := s.psView idx
           bits v 3 0 + bits v 11 8 * 16
  | 0x2 => bits (s.txdStatus idx) 31 27
  | 0x3 => byteOf s.loOk
  | 0x4 => bits s.pins.drain (8 * idx + 7) (8 * idx)
  | 0x5 => byteOf (fun i => !bit s.pins.paAlarmN (8 * idx + i))
  | 0x6 => byteOf (fun i => s.ev (8 * idx + i))
  | 0x7 => s.thState (2 * idx) + s.thState (2 * idx + 1) * 16
  | 0x8 => let v := s.reg (Reg.argPortStatus idx)
           bits v 31 28 % 16 + bits v 27 26 * 16 + bits v 25 24 * 64
  | 0x9 => byteOf (fun i => s.flag (Reg.slnLaneStatus (8 * idx + i)) 29)
  | 0xA => byteOf (fun i => i < 4 && s.flag (Reg.fhpPortStatus i) 31) + s.fld Reg.fhpPair 5 4 * 16
  | 0xB => let v := s.reg (Reg.thmRegion idx)
           bits v 26 24 + (bit v 31).toNat * 8 + (bit v 30).toNat * 16
  | 0xC => s.fld Reg.dmaStatus 20 16 + (s.flag Reg.dmaStatus 31).toNat * 128
  | 0xD => bits (s.airPos 0) 3 0 + bits (s.airPos 1) 3 0 * 16
  | 0xE => s.rxStep idx
  | 0xF => bits s.tmuStatusView 1 0 + (bit s.tmuStatusView 31).toNat * 4 + (bit s.tmuStatusView 29).toNat * 8
  | _ => 0

/-- Probe byte k, with the selection latched at arm. -/
def State.probeByte (s : State) (k : Nat) : Nat :=
  let w := s.capCfg (Reg.capProbe k)
  s.probeBits (bits w 19 16) (bits w 14 8)

/-- The bits of probe byte k that record and that conditions see. -/
def State.probeMask (s : State) (k : Nat) : Nat := bits (s.capCfg (Reg.capProbe k)) 7 0

/-- Probe byte k in this cycle, `v`, against the cycle before: a change of its masked bits is recorded where SRC_EN has it. -/
def State.probeOne (s : State) (k v : Nat) : State :=
  match alook s.cap.prev k with
  | some u =>
    if (v &&& s.probeMask k) ≠ (u &&& s.probeMask k) && bit (s.capCfg Reg.capSrcEn) k then
      s.capRecord k (BitVec.ofNat 32 (v + u * 256)) 0
    else s
  | none => s

/-- The sequencer's condition on a probe byte holds in this cycle (R424). -/
def State.probeHolds (s : State) (now : List (Nat × Nat)) : Bool :=
  let k := bits s.seqCond 7 0
  let g := s.capCfg (Reg.capStArg (s.fld Reg.capStatus 26 24))
  let v := ((alook now k).getD 0) &&& s.probeMask k
  match bits s.seqCond 31 28 with
  | 1 => true
  | 2 => v &&& bits g 15 8 == bits g 7 0
  | 3 => v &&& bits g 15 8 != bits g 7 0
  | 4 => match alook s.cap.prev k with
    | some u => v &&& bits g 15 8 != u &&& s.probeMask k &&& bits g 15 8
    | none => false
  | _ => false

/-- One Cobalt cycle of an armed engine: the probes are sampled, the sequencer counts. -/
def State.probeCycle (s : State) : State :=
  let now := (List.range 32).map (fun k => (k, s.probeByte k))
  let s1 := now.foldl (fun t p => t.probeOne p.1 p.2) s
  let s2 := if s1.capState == capPre && s1.probeHolds now then s1.seqCount else s1
  { s2 with cap := { s2.cap with prev := now, timer := s2.cap.timer + 1 } }

/-- One Cobalt cycle: one record leaves the queue, and REARM goes on (R418, R421). -/
def State.capCycle (s : State) : State :=
  let s1 := if s.capState == capPre || s.capState == capPost then s.probeCycle else s
  let wait := if s1.capState = capRearm then s1.cap.wait + 1 else s1.cap.wait
  { s1 with cap := { s1.cap with depth := s1.cap.depth - 1, wait := wait } }

/-- The Cobalt cycles of a nanosecond at the frequency in force, and AUTO_TMO, which is counted in nanoseconds (R421). -/
def State.capTick (s : State) : State :=
  if s.up domCob then
    let p := s.cap.phase + bits s.cobFreq 15 0
    let age := if s.capState ≠ capIdle ∧ s.cap.age < s.autoTmo then s.cap.age + 1 else s.cap.age
    let s1 : State := { s with cap := { s.cap with phase := p % 1000, age := age } }
    (List.range (p / 1000)).foldl (fun t _ => t.capCycle) s1
  else s

end Sys2Proof.Machine
end

