-- ==== Sys2Proof/Machine/Idle.lean ====
section
/-! DEFINITION. One nanosecond without a command (log 11): network time advances, and with it what is counted in time. -/
namespace Sys2Proof.Machine

/-- The limit of the boundaries silent after a time step is forgotten two frames after network time has passed it, when no
boundary before it is still the last one of any carrier (R147). -/
def State.passSilent (s : State) : State :=
  match s.air.silent with
  | some (t, _) =>
    let d := (s.time.t + timeMod - t % timeMod) % timeMod
    if 20000000 * 2 ^ 53 < d ∧ d < timeMod / 2 then { s with air := { s.air with silent := none } } else s
  | none => s

/-- A nanosecond passes: the path sample that has become due (R169, R189), network time (R376), the transmit duty limit (R166), the
watchdogs (R78), the capture engine (R416, R424). -/
def State.tick (s : State) : State := (((s.samples.timeTick.passSilent).dutyTick 1).wdtTick).capTick

end Sys2Proof.Machine
end

