-- ==== Sys2Proof/Machine/Dispatch.lean ====
section
/-! DEFINITION. One arm per command: a direct call of its meaning. -/
namespace Sys2Proof.Machine

def exec (i : Instr) (s : State) : Host.Outcome State Fault Refusal :=
  match i with
  | .registerWrite port off val whole => Sys2Proof.Machine.execRegisterWrite port off val whole s
  | .memoryWindowWrite port off data => Sys2Proof.Machine.execMemoryWindowWrite port off data s
  | .lowWordRead port off => Sys2Proof.Machine.execLowWordRead port off s
  | .d3hotEntry => Sys2Proof.Machine.execD3hotEntry s
  | .stickyWrite port off val => Sys2Proof.Machine.execStickyWrite port off val s
  | .msixUnmask vec => Sys2Proof.Machine.execMsixUnmask vec s
  | .mgmtWrite addr bytes => Sys2Proof.Machine.execMgmtWrite addr bytes s
  | .mgmtRead addr bytes => Sys2Proof.Machine.execMgmtRead addr bytes s
  | .mgmtStatus addr bytes => Sys2Proof.Machine.execMgmtStatus addr bytes s
  | .sclTimeout => Sys2Proof.Machine.execSclTimeout s
  | .stretchTimeout write addr bytes => Sys2Proof.Machine.execStretchTimeout write addr bytes s
  | .addressMatch => Sys2Proof.Machine.execAddressMatch s
  | .nvmDataRead port => Sys2Proof.Machine.execNvmDataRead port s
  | .nvmDataWrite port val => Sys2Proof.Machine.execNvmDataWrite port val s
  | .nvmWriteDone good => Sys2Proof.Machine.execNvmWriteDone good s
  | .nvmStatusRead port => Sys2Proof.Machine.execNvmStatusRead port s
  | .qspiGo port val => Sys2Proof.Machine.execQspiGo port val s
  | .qspiDone data => Sys2Proof.Machine.execQspiDone data s
  | .scrub mem word => Sys2Proof.Machine.execScrub mem word s
  | .nop th => Sys2Proof.Machine.execNop th s
  | .jmp th => Sys2Proof.Machine.execJmp th s
  | .bCond th => Sys2Proof.Machine.execBCond th s
  | .call th => Sys2Proof.Machine.execCall th s
  | .ret th => Sys2Proof.Machine.execRet th s
  | .loop th => Sys2Proof.Machine.execLoop th s
  | .yield th => Sys2Proof.Machine.execYield th s
  | .halt th => Sys2Proof.Machine.execHalt th s
  | .add th => Sys2Proof.Machine.execAdd th s
  | .sub th => Sys2Proof.Machine.execSub th s
  | .and th => Sys2Proof.Machine.execAnd th s
  | .or th => Sys2Proof.Machine.execOr th s
  | .xor th => Sys2Proof.Machine.execXor th s
  | .shl th => Sys2Proof.Machine.execShl th s
  | .shr th => Sys2Proof.Machine.execShr th s
  | .sra th => Sys2Proof.Machine.execSra th s
  | .cmp th => Sys2Proof.Machine.execCmp th s
  | .movi th => Sys2Proof.Machine.execMovi th s
  | .ld th => Sys2Proof.Machine.execLd th s
  | .st th => Sys2Proof.Machine.execSt th s
  | .ldc th => Sys2Proof.Machine.execLdc th s
  | .stc th => Sys2Proof.Machine.execStc th s
  | .setl th => Sys2Proof.Machine.execSetl th s
  | .setb th => Sys2Proof.Machine.execSetb th s
  | .atI th => Sys2Proof.Machine.execAtI th s
  | .atR th => Sys2Proof.Machine.execAtR th s
  | .atN th => Sys2Proof.Machine.execAtN th s
  | .every th => Sys2Proof.Machine.execEvery th s
  | .waitt th => Sys2Proof.Machine.execWaitt th s
  | .pstate th => Sys2Proof.Machine.execPstate th s
  | .beamsel th => Sys2Proof.Machine.execBeamsel th s
  | .wswap th => Sys2Proof.Machine.execWswap th s
  | .lohop th => Sys2Proof.Machine.execLohop th s
  | .gainset th => Sys2Proof.Machine.execGainset th s
  | .portsel th => Sys2Proof.Machine.execPortsel th s
  | .wreg th => Sys2Proof.Machine.execWreg th s
  | .wregM th => Sys2Proof.Machine.execWregM th s
  | .rreg th => Sys2Proof.Machine.execRreg th s
  | .signal th => Sys2Proof.Machine.execSignal th s
  | .waitev th => Sys2Proof.Machine.execWaitev th s
  | .waitevAny th => Sys2Proof.Machine.execWaitevAny th s
  | .vote th => Sys2Proof.Machine.execVote th s
  | .unvote th => Sys2Proof.Machine.execUnvote th s
  | .fence th => Sys2Proof.Machine.execFence th s
  | .cmpl th => Sys2Proof.Machine.execCmpl th s
  | .dmago th => Sys2Proof.Machine.execDmago th s
  | .carm th => Sys2Proof.Machine.execCarm th s
  | .cvfeed th => Sys2Proof.Machine.execCvfeed th s
  | .cvfeedA th => Sys2Proof.Machine.execCvfeedA th s
  | .mac th => Sys2Proof.Machine.execMac th s
  | .msu th => Sys2Proof.Machine.execMsu th s
  | .macs th => Sys2Proof.Machine.execMacs th s
  | .macbx th => Sys2Proof.Machine.execMacbx th s
  | .cmac th => Sys2Proof.Machine.execCmac th s
  | .macB th => Sys2Proof.Machine.execMacB th s
  | .msuB th => Sys2Proof.Machine.execMsuB th s
  | .macsB th => Sys2Proof.Machine.execMacsB th s
  | .macbxB th => Sys2Proof.Machine.execMacbxB th s
  | .cmacB th => Sys2Proof.Machine.execCmacB th s
  | .blockComplete unit => Sys2Proof.Machine.execBlockComplete unit s
  | .clracc th => Sys2Proof.Machine.execClracc th s
  | .rnd th => Sys2Proof.Machine.execRnd th s
  | .sat th => Sys2Proof.Machine.execSat th s
  | .norm th => Sys2Proof.Machine.execNorm th s
  | .exp th => Sys2Proof.Machine.execExp th s
  | .shacc th => Sys2Proof.Machine.execShacc th s
  | .stacc th => Sys2Proof.Machine.execStacc th s
  | .bexp th => Sys2Proof.Machine.execBexp th s
  | .ldX th => Sys2Proof.Machine.execLdX th s
  | .stX th => Sys2Proof.Machine.execStX th s
  | .threadWake th => Sys2Proof.Machine.execThreadWake th s
  | .waittDue th => Sys2Proof.Machine.execWaittDue th s
  | .taqDispatch tag => Sys2Proof.Machine.execTaqDispatch tag s
  | .taqCancelTag port val => Sys2Proof.Machine.execTaqCancelTag port val s
  | .taqCancelThread port val => Sys2Proof.Machine.execTaqCancelThread port val s
  | .crTailWrite port val => Sys2Proof.Machine.execCrTailWrite port val s
  | .crConfigWrite port size val => Sys2Proof.Machine.execCrConfigWrite port size val s
  | .evSet port val => Sys2Proof.Machine.execEvSet port val s
  | .evClear port j val => Sys2Proof.Machine.execEvClear port j val s
  | .wdtKick port val => Sys2Proof.Machine.execWdtKick port val s
  | .wdtWrite port th val => Sys2Proof.Machine.execWdtWrite port th val s
  | .watchdog th => Sys2Proof.Machine.execWatchdog th s
  | .haltRequest port val => Sys2Proof.Machine.execHaltRequest port val s
  | .run port th val => Sys2Proof.Machine.execRun port th val s
  | .step port th val => Sys2Proof.Machine.execStep port th val s
  | .threadReset port th val => Sys2Proof.Machine.execThreadReset port th val s
  | .regfileWrite port off val => Sys2Proof.Machine.execRegfileWrite port off val s
  | .airFrameBoundary => Sys2Proof.Machine.execAirFrameBoundary s
  | .slotBoundary c => Sys2Proof.Machine.execSlotBoundary c s
  | .symbolBoundary c => Sys2Proof.Machine.execSymbolBoundary c s
  | .align port val => Sys2Proof.Machine.execAlign port val s
  | .alignmentStart => Sys2Proof.Machine.execAlignmentStart s
  | .airCfgWrite port c val => Sys2Proof.Machine.execAirCfgWrite port c val s
  | .pstateStart pair => Sys2Proof.Machine.execPstateStart pair s
  | .transitionDone pairs => Sys2Proof.Machine.execTransitionDone pairs s
  | .drainSequenceStep pair => Sys2Proof.Machine.execDrainSequenceStep pair s
  | .deferredTxStart pair => Sys2Proof.Machine.execDeferredTxStart pair s
  | .lateUnlocked pair => Sys2Proof.Machine.execLateUnlocked pair s
  | .paAlarm input => Sys2Proof.Machine.execPaAlarm input s
  | .dutyOverrun k => Sys2Proof.Machine.execDutyOverrun k s
  | .currentLimit n => Sys2Proof.Machine.execCurrentLimit n s
  | .inputOverload n => Sys2Proof.Machine.execInputOverload n s
  | .commitPoint c => Sys2Proof.Machine.execCommitPoint c s
  | .wdescWrite port dir car layer val => Sys2Proof.Machine.execWdescWrite port dir car layer val s
  | .arrayWrite port val => Sys2Proof.Machine.execArrayWrite port val s
  | .psDeadline r w2 start num => Sys2Proof.Machine.execPsDeadline r w2 start num s
  | .pageWrite port off val => Sys2Proof.Machine.execPageWrite port off val s
  | .sicCommit port p w val => Sys2Proof.Machine.execSicCommit port p w val s
  | .surveyStart port val => Sys2Proof.Machine.execSurveyStart port val s
  | .surveyAbort port val => Sys2Proof.Machine.execSurveyAbort port val s
  | .surveyDone => Sys2Proof.Machine.execSurveyDone s
  | .snapStart port val => Sys2Proof.Machine.execSnapStart port val s
  | .snapAbort port val => Sys2Proof.Machine.execSnapAbort port val s
  | .snapDone => Sys2Proof.Machine.execSnapDone s
  | .storeWrite port w val => Sys2Proof.Machine.execStoreWrite port w val s
  | .storeRead port w => Sys2Proof.Machine.execStoreRead port w s
  | .linCommit port w val => Sys2Proof.Machine.execLinCommit port w val s
  | .loadDone n => Sys2Proof.Machine.execLoadDone n s
  | .obsStart port k val => Sys2Proof.Machine.execObsStart port k val s
  | .obsRecordStart k => Sys2Proof.Machine.execObsRecordStart k s
  | .obsDone k => Sys2Proof.Machine.execObsDone k s
  | .obsAbort port k val => Sys2Proof.Machine.execObsAbort port k val s
  | .hop port k val => Sys2Proof.Machine.execHop port k val s
  | .hopStart k => Sys2Proof.Machine.execHopStart k s
  | .lock k => Sys2Proof.Machine.execLock k s
  | .lockLoss k => Sys2Proof.Machine.execLockLoss k s
  | .ccsUnlock n => Sys2Proof.Machine.execCcsUnlock n s
  | .ccsLock n => Sys2Proof.Machine.execCcsLock n s
  | .ifChange k => Sys2Proof.Machine.execIfChange k s
  | .clStart port val => Sys2Proof.Machine.execClStart port val s
  | .clExchange => Sys2Proof.Machine.execClExchange s
  | .clDone east west => Sys2Proof.Machine.execClDone east west s
  | .calWindow port val => Sys2Proof.Machine.execCalWindow port val s
  | .windowEnd k => Sys2Proof.Machine.execWindowEnd k s
  | .calRequest port val => Sys2Proof.Machine.execCalRequest port val s
  | .calRunStart slot power => Sys2Proof.Machine.execCalRunStart slot power s
  | .calRunEnd slot low vals => Sys2Proof.Machine.execCalRunEnd slot low vals s
  | .bgPass n rx q dPhase dDelay => Sys2Proof.Machine.execBgPass n rx q dPhase dDelay s
  | .journalLoad t => Sys2Proof.Machine.execJournalLoad t s
  | .journalStore port val => Sys2Proof.Machine.execJournalStore port val s
  | .storeDeferredStart t c => Sys2Proof.Machine.execStoreDeferredStart t c s
  | .storeDone t c fail => Sys2Proof.Machine.execStoreDone t c fail s
  | .xdevTimeout => Sys2Proof.Machine.execXdevTimeout s
  | .codeWrite port idx val => Sys2Proof.Machine.execCodeWrite port idx val s
  | .deglitchEnd idx => Sys2Proof.Machine.execDeglitchEnd idx s
  | .rangeChange port idx val => Sys2Proof.Machine.execRangeChange port idx val s
  | .rangeChangeDone idx => Sys2Proof.Machine.execRangeChangeDone idx s
  | .biasTableLoad t => Sys2Proof.Machine.execBiasTableLoad t s
  | .clampRelease t => Sys2Proof.Machine.execClampRelease t s
  | .release port val => Sys2Proof.Machine.execRelease port val s
  | .biasStore port val => Sys2Proof.Machine.execBiasStore port val s
  | .otClamp k => Sys2Proof.Machine.execOtClamp k s
  | .otRelease k => Sys2Proof.Machine.execOtRelease k s
  | .sgUpdate g => Sys2Proof.Machine.execSgUpdate g s
  | .phRst port g val => Sys2Proof.Machine.execPhRst port g val s
  | .capabilitySet p words => Sys2Proof.Machine.execCapabilitySet p words s
  | .negotiateTimeout p => Sys2Proof.Machine.execNegotiateTimeout p s
  | .trainDone p lanes => Sys2Proof.Machine.execTrainDone p lanes s
  | .renegotiate p => Sys2Proof.Machine.execRenegotiate p s
  | .dlCell p cell => Sys2Proof.Machine.execDlCell p cell s
  | .cpCell p cell dl stype type3 sects => Sys2Proof.Machine.execCpCell p cell dl stype type3 sects s
  | .psCell p cell => Sys2Proof.Machine.execPsCell p cell s
  | .tsPeriod => Sys2Proof.Machine.execTsPeriod s
  | .sync p cell => Sys2Proof.Machine.execSync p cell s
  | .req p cell => Sys2Proof.Machine.execReq p cell s
  | .resp p cell => Sys2Proof.Machine.execResp p cell s
  | .discovery r => Sys2Proof.Machine.execDiscovery r s
  | .discover p cell => Sys2Proof.Machine.execDiscover p cell s
  | .discoverTimeout r east west => Sys2Proof.Machine.execDiscoverTimeout r east west s
  | .commit p cell => Sys2Proof.Machine.execCommit p cell s
  | .report p cell => Sys2Proof.Machine.execReport p cell s
  | .accept p cell => Sys2Proof.Machine.execAccept p cell s
  | .status p cell => Sys2Proof.Machine.execStatus p cell s
  | .statusMissing r pos => Sys2Proof.Machine.execStatusMissing r pos s
  | .lane p cell => Sys2Proof.Machine.execLane p cell s
  | .shed p cell => Sys2Proof.Machine.execShed p cell s
  | .nbCell p cell => Sys2Proof.Machine.execNbCell p cell s
  | .imageCell p cell => Sys2Proof.Machine.execImageCell p cell s
  | .fo p cell => Sys2Proof.Machine.execFo p cell s
  | .unknownCell p cell => Sys2Proof.Machine.execUnknownCell p cell s
  | .enter port r val => Sys2Proof.Machine.execEnter port r val s
  | .enterTimeout r => Sys2Proof.Machine.execEnterTimeout r s
  | .leave port r val => Sys2Proof.Machine.execLeave port r val s
  | .rediscover port r val => Sys2Proof.Machine.execRediscover port r val s
  | .retrain port p val => Sys2Proof.Machine.execRetrain port p val s
  | .argAccept port val => Sys2Proof.Machine.execArgAccept port val s
  | .rstDataRead port => Sys2Proof.Machine.execRstDataRead port s
  | .laneReady lane => Sys2Proof.Machine.execLaneReady lane s
  | .laneLoss lane cause => Sys2Proof.Machine.execLaneLoss lane cause s
  | .keepNotice p mask => Sys2Proof.Machine.execKeepNotice p mask s
  | .realignDone p => Sys2Proof.Machine.execRealignDone p s
  | .fomMeasure lane eh ew errs => Sys2Proof.Machine.execFomMeasure lane eh ew errs s
  | .testWrite port lane val => Sys2Proof.Machine.execTestWrite port lane val s
  | .inj port lane val => Sys2Proof.Machine.execInj port lane val s
  | .injRate lane => Sys2Proof.Machine.execInjRate lane s
  | .patLock lane lock errs nbits => Sys2Proof.Machine.execPatLock lane lock errs nbits s
  | .frame idx bytes fcs => Sys2Proof.Machine.execFrame idx bytes fcs s
  | .cPlane idx msg => Sys2Proof.Machine.execCPlane idx msg s
  | .uPlane idx msg => Sys2Proof.Machine.execUPlane idx msg s
  | .hostRxFrame idx bytes tns tfr => Sys2Proof.Machine.execHostRxFrame idx bytes tns tfr s
  | .hostRxFree port idx slot val => Sys2Proof.Machine.execHostRxFree port idx slot val s
  | .hostTx port idx slot val => Sys2Proof.Machine.execHostTx port idx slot val s
  | .hostTxDone idx tns tfr => Sys2Proof.Machine.execHostTxDone idx tns tfr s
  | .ulSend c layer air id start num => Sys2Proof.Machine.execUlSend c layer air id start num s
  | .ulDrop c layer => Sys2Proof.Machine.execUlDrop c layer s
  | .linkDown idx queued => Sys2Proof.Machine.execLinkDown idx queued s
  | .linkUp idx speed => Sys2Proof.Machine.execLinkUp idx speed s
  | .timeRead port => Sys2Proof.Machine.execTimeRead port s
  | .ppsIn tns tfr => Sys2Proof.Machine.execPpsIn tns tfr s
  | .ppsMiss => Sys2Proof.Machine.execPpsMiss s
  | .rateSlew => Sys2Proof.Machine.execRateSlew s
  | .rateReq port val => Sys2Proof.Machine.execRateReq port val s
  | .tmuCtlWrite port val => Sys2Proof.Machine.execTmuCtlWrite port val s
  | .steerChange => Sys2Proof.Machine.execSteerChange s
  | .stepArm port val => Sys2Proof.Machine.execStepArm port val s
  | .timeStep => Sys2Proof.Machine.execTimeStep s
  | .holdover => Sys2Proof.Machine.execHoldover s
  | .pulseEnable port k val => Sys2Proof.Machine.execPulseEnable port k val s
  | .pulseEdge k => Sys2Proof.Machine.execPulseEdge k s
  | .dmaGo port c val => Sys2Proof.Machine.execDmaGo port c val s
  | .dmaAbort port c val landed src => Sys2Proof.Machine.execDmaAbort port c val landed src s
  | .append port c val => Sys2Proof.Machine.execAppend port c val s
  | .channelStart host => Sys2Proof.Machine.execChannelStart host s
  | .pace src => Sys2Proof.Machine.execPace src s
  | .descriptorDone src next => Sys2Proof.Machine.execDescriptorDone src next s
  | .nextReread c next desc => Sys2Proof.Machine.execNextReread c next desc s
  | .cvStart port c val => Sys2Proof.Machine.execCvStart port c val s
  | .cvCfgWrite port c val => Sys2Proof.Machine.execCvCfgWrite port c val s
  | .feed8 port c val => Sys2Proof.Machine.execFeed8 port c val s
  | .feed16 port c val => Sys2Proof.Machine.execFeed16 port c val s
  | .feed32 port c val => Sys2Proof.Machine.execFeed32 port c val s
  | .feed64Lo port c val => Sys2Proof.Machine.execFeed64Lo port c val s
  | .feed64Hi port c val => Sys2Proof.Machine.execFeed64Hi port c val s
  | .valueWrite port c high val => Sys2Proof.Machine.execValueWrite port c high val s
  | .resultRead port off => Sys2Proof.Machine.execResultRead port off s
  | .queueEntry c => Sys2Proof.Machine.execQueueEntry c s
  | .capArm port val => Sys2Proof.Machine.execCapArm port val s
  | .capDisarm port val => Sys2Proof.Machine.execCapDisarm port val s
  | .capForce port val => Sys2Proof.Machine.execCapForce port val s
  | .partWrite port val => Sys2Proof.Machine.execPartWrite port val s
  | .sequencerHit => Sys2Proof.Machine.execSequencerHit s
  | .sequencerTimeout => Sys2Proof.Machine.execSequencerTimeout s
  | .autoTrigger => Sys2Proof.Machine.execAutoTrigger s
  | .captureClose => Sys2Proof.Machine.execCaptureClose s
  | .rearmEnd => Sys2Proof.Machine.execRearmEnd s
  | .tnsWrap => Sys2Proof.Machine.execTnsWrap s
  | .refclkValid freq => Sys2Proof.Machine.execRefclkValid freq s
  | .refLoss => Sys2Proof.Machine.execRefLoss s
  | .pcieRefLoss => Sys2Proof.Machine.execPcieRefLoss s
  | .pllUnlock pll => Sys2Proof.Machine.execPllUnlock pll s
  | .xingErr index => Sys2Proof.Machine.execXingErr index s
  | .level boundary lower => Sys2Proof.Machine.execLevel boundary lower s
  | .voteWrite port off val => Sys2Proof.Machine.execVoteWrite port off val s
  | .holdExpiry d => Sys2Proof.Machine.execHoldExpiry d s
  | .powerStep d => Sys2Proof.Machine.execPowerStep d s
  | .stepTimeout d => Sys2Proof.Machine.execStepTimeout d s
  | .wakeRetry d => Sys2Proof.Machine.execWakeRetry d s
  | .pgLoss d => Sys2Proof.Machine.execPgLoss d s
  | .pgRestore d => Sys2Proof.Machine.execPgRestore d s
  | .dvfsStep => Sys2Proof.Machine.execDvfsStep s
  | .dvfsManWrite port val => Sys2Proof.Machine.execDvfsManWrite port val s
  | .stateRequest port val => Sys2Proof.Machine.execStateRequest port val s
  | .entryComplete => Sys2Proof.Machine.execEntryComplete s
  | .springComplete => Sys2Proof.Machine.execSpringComplete s
  | .rf2Measure t mv => Sys2Proof.Machine.execRf2Measure t mv s
  | .thermalPass raw => Sys2Proof.Machine.execThermalPass raw s
  | .powerOnReset => Sys2Proof.Machine.execPowerOnReset s
  | .pinReset => Sys2Proof.Machine.execPinReset s
  | .resetRelease bootSel addr => Sys2Proof.Machine.execResetRelease bootSel addr s
  | .deviceReset port val bootSel => Sys2Proof.Machine.execDeviceReset port val bootSel s
  | .linkReset => Sys2Proof.Machine.execLinkReset s
  | .otpSense => Sys2Proof.Machine.execOtpSense s
  | .bootLoadDone data => Sys2Proof.Machine.execBootLoadDone data s
  | .verify port val => Sys2Proof.Machine.execVerify port val s
  | .verifyDone sig => Sys2Proof.Machine.execVerifyDone sig s
  | .svnCommit port val => Sys2Proof.Machine.execSvnCommit port val s
  | .rbSend port val => Sys2Proof.Machine.execRbSend port val s
  | .attest port val => Sys2Proof.Machine.execAttest port val s
  | .attestDone sig => Sys2Proof.Machine.execAttestDone sig s
  | .idReady pk => Sys2Proof.Machine.execIdReady pk s
  | .certRead port => Sys2Proof.Machine.execCertRead port s
  | .otpProgram port val => Sys2Proof.Machine.execOtpProgram port val s
  | .otpProgramDone good => Sys2Proof.Machine.execOtpProgramDone good s
  | .paAlarmRelease input => Sys2Proof.Machine.execPaAlarmRelease input s
  | .biasRailLoss rail => Sys2Proof.Machine.execBiasRailLoss rail s
  | .biasRailGood rail => Sys2Proof.Machine.execBiasRailGood rail s
  | .msixEnable => Sys2Proof.Machine.execMsixEnable s
  | .pcieLinkUp width speed => Sys2Proof.Machine.execPcieLinkUp width speed s
  | .d0Entry => Sys2Proof.Machine.execD0Entry s
  | .aerFatalError => Sys2Proof.Machine.execAerFatalError s
  | .highWordRead port off => Sys2Proof.Machine.execHighWordRead port off s
  | .memoryWindowRead port off words => Sys2Proof.Machine.execMemoryWindowRead port off words s
  | .tapInstruction instr trst => Sys2Proof.Machine.execTapInstruction instr trst s
  | .rosterCacheLoad => Sys2Proof.Machine.execRosterCacheLoad s

end Sys2Proof.Machine
end

