-- ==== Sys2Proof/Safety.lean ====
section
/-! DEFINITION. The terms in which statements about the machine are made: the canonical form of the state, a host access that
reaches its register, a thread that executes the instruction at its PC, and what an instruction leaves as it was. -/
namespace Sys2Proof.Machine

/-! ## Canonical form -/

/-- The canonical form of a byte memory: addresses strictly rising, no entry equal to what an unlisted address reads as. -/
def Memory.wf (m : List Host.Cell) : Bool := swf emptyByte m

/-- Every sparse store of the state is in its canonical form. -/
def State.wf (s : State) : Bool :=
  swf resetOf s.regs && swf resetOf s.force && Memory.wf s.mem && swf (fun _ => Ecc.good) s.ecc && swf emptyWord s.nvm
    && swf (fun _ => Ecc.good) s.nvmEcc && swf (fun _ => ({} : Thread)) s.th

/-! ## Host accesses -/

/-- A host access to the register at `off` through `port` gets to the register and does no more on its way: over a trained link in
D0 (R25, R26), or through the management port, outside Winter and Midwinter (R44), and, outside its always-on window, MGT (R42),
to a block that is up (R14), with no read of NVM_STATUS waiting before it (R31, R45). -/
def State.reaches (s : State) (port : Port) (off : Nat) : Bool :=
  (match port with
   | .pcie => s.linkUp && !s.d3
   | .mgmt => s.mgmtAnswers && !([2, 3, 5] : List Nat).contains s.season && (alwaysOn off || s.up domMgt))
  && s.regUp off && s.host.waits.isEmpty

/-- The register at `off` is read through `port` and answered: its value with the port's shadow (R33), and the status of R43. -/
def State.answer (s : State) (port : Port) (off : Nat) : State :=
  let r := s.readShadowed (if port = .pcie then 0 else 1) (canonOff off)
  r.2.2.reply port r.1 r.2.1

/-! ## Threads -/

/-- Thread `th` executes `o` in state `s`: it may issue, its PC names the word of `o`, `f` being the state after the fetch (R47),
no breakpoint stops it, and its DSP unit is free for it where it needs it (R53, R54, R55, R79, R121). -/
structure State.Executes (s : State) (th : Nat) (o : Op) (f : State) : Prop where
  can  : s.canIssue th = true
  op   : s.fetchOp (s.pc th) = (.ok o, f)
  pass : s.stopsAt th (some o) = false
  unit : (o.onUnit && f.unitTaken th (f.duOf th)) = false

/-- As `Executes`, with an instruction to follow: not at the last index (R77), not single-stepped, no halt requested (R79). -/
structure State.RunsOn (s : State) (th : Nat) (o : Op) (f : State) : Prop extends State.Executes s th o f where
  room : f.pc th < lastPc
  free : (f.thread th).stepping = false ∧ (f.thread th).haltReq = false

/-- The register a 5-bit specifier names (R86). -/
def specReg (th r : Nat) : Nat :=
  if r < 16 then Reg.tlpThG th r else if r < 24 then Reg.tlpThA th (r - 16) else Reg.tlpThM th (r - 24)

/-- From `s` to `t` thread `th` moves to `pc`, the registers `offs` may have changed, and nothing else has: no other register, no
memory, no other thread, nothing of the rest of the state but the turn of issue; its own progress but for the breakpoint it has
passed. -/
def State.Moves (s t : State) (th pc : Nat) (offs : List Nat) : Prop :=
  t.pc th = pc ∧ (∀ off, off ∉ offs → off ≠ Reg.tlpThPc th → t.reg off = s.reg off) ∧
  (∀ i, i ≠ th → t.thread i = s.thread i) ∧ t.thread th = { s.thread th with skipBp := false, reading := false } ∧
  t.pipe = (s.begun th).pipe ∧ { t with regs := s.regs, th := s.th, pipe := s.pipe } = s

/-- Instruction `c` of operation `k` completes: its destination holds `val`, N and Z follow the result, C and V are as given or, where
none is given, as before, every other flag is as before, and nothing else changes. An a or m register holds the low 24
bits and reads sign-extended (R86). -/
def Computes (c : Nat → Instr) (k : Alu) (val : Word → Word → Word) (cy ov : Word → Word → Option Bool) : Prop :=
  ∀ s th d a b f, State.RunsOn s th (.alu k d a b) f → d < 32 →
    ∃ t, exec (c th) s = .next t ∧ f.Moves t th (f.pc th + 1) [specReg th d, Reg.tlpThStat th] ∧
      t.spec th d = (if d < 16 then val (f.spec th a) (f.opnd th b)
        else sext32 24 (val (f.spec th a) (f.opnd th b)).toNat) ∧
      t.stat th stN = (val (f.spec th a) (f.opnd th b)).msb ∧
      t.stat th stZ = (val (f.spec th a) (f.opnd th b) == 0) ∧
      t.stat th stC = (cy (f.spec th a) (f.opnd th b)).getD (f.stat th stC) ∧
      t.stat th stV = (ov (f.spec th a) (f.opnd th b)).getD (f.stat th stV) ∧
      ∀ i, 4 ≤ i → i < 32 → t.stat th i = f.stat th i

/-- An untimed action instruction completes: with the PC past it, its action `a` is done with the values read, or fails its value
check with DETAIL `bad` (R96, R100). -/
def Acts (c : Nat → Instr) (o : Op) (a : Nat → State → Action) (bad : Nat → State → Option Nat) : Prop :=
  ∀ s th f, State.RunsOn s th o f →
    exec (c th) s = .next ((((f.begun th).setPc th (f.pc th + 1)).untimed th (a th f) (bad th f)).boundary th)

/-- A timed prefix `c` of operation `p` queues the action of the next index (R95, R97, R98): with room and a free tag, a due time in the
future, a value check passed and no trace, the entry stands under the tag with the values given, g_k holds the tag, the
PC moves past both, and the other entries are as before. -/
def Queues (c : Nat → Instr) (p : Op) (k : Nat) (due : Nat → State → Word) (cookie : Nat)
    (period : Nat → State → Option Nat) (count : Nat) (quiet : Bool) : Prop :=
  ∀ s th f o g a tag rest, State.RunsOn s th p f → f.pc th + 2 ≤ lastPc →
    (f.begun th).fetchOp (f.pc th + 1) = (.ok o, g) → o.isAction = true → g.actionOf th o = .ok (a, none) →
    g.taqFull th = false → g.tags = tag :: rest → tag < 512 → g.flag Reg.tlpTrace 31 = false →
    future (due th g) g.tns = true → (∀ n, period th g = some n → 1000 ≤ n ∧ n ≤ 2 ^ 30) →
    ∃ t, exec (c th) s = .next t ∧ t.pc th = f.pc th + 2 ∧ t.tags = rest ∧ t.g th k = BitVec.ofNat 32 tag ∧
      (∃ e, t.entry? tag = some e ∧ e.th = th ∧ e.act = a ∧ e.due = due th g ∧ e.cookie = cookie ∧
        e.periodic = (period th g).isSome ∧ e.period = (period th g).getD 0 ∧ e.count = count ∧ e.quiet = quiet) ∧
      ∀ q, q ≠ tag → t.entry? q = g.entry? q

end Sys2Proof.Machine
end

