-- ==== Sys2Proof/Certificates/Slice0/Obligations.lean ====
section
/-! DEFINITION. The statements for the provers, by family of commands: what each command does, what it leaves as it was, and
what holds of the whole machine. -/
open Sys2Proof Sys2Proof.Machine

/-! ## Integer and control instructions -/

/-- ADD, SUB, AND, OR and XOR (R90): results, flags and frame. C of ADD is the carry out of bit 31, C of SUB says x ≥ y unsigned, V
is signed overflow; the logical operations leave C and V.
SHL, SHR and SRA (R90): the amount is the operand modulo 32, C the last bit shifted out or 0 for amount 0, V is kept.
Of these forms it is stated that they complete, under the conditions of their clauses alone: add, sub, and, or, xor, shl, shr,
sra. -/
def Obligations.IntegerResultsAndFlags : Prop :=
  Computes Instr.add .add (fun x y => x + y) (fun x y => some (decide (2 ^ 32 ≤ x.toNat + y.toNat)))
    (fun x y => some (decide ((x + y).toInt ≠ x.toInt + y.toInt))) ∧
  Computes Instr.sub .sub (fun x y => x - y) (fun x y => some (decide (y.toNat ≤ x.toNat)))
    (fun x y => some (decide ((x - y).toInt ≠ x.toInt - y.toInt))) ∧
  Computes Instr.and .and (fun x y => x &&& y) (fun _ _ => none) (fun _ _ => none) ∧
  Computes Instr.or .or (fun x y => x ||| y) (fun _ _ => none) (fun _ _ => none) ∧
  Computes Instr.xor .xor (fun x y => x ^^^ y) (fun _ _ => none) (fun _ _ => none) ∧
  Computes Instr.shl .shl (fun x y => x <<< (y.toNat % 32))
    (fun x y => some (y.toNat % 32 != 0 && x.getLsbD (32 - y.toNat % 32))) (fun _ _ => none) ∧
  Computes Instr.shr .shr (fun x y => x >>> (y.toNat % 32))
    (fun x y => some (y.toNat % 32 != 0 && x.getLsbD (y.toNat % 32 - 1))) (fun _ _ => none) ∧
  Computes Instr.sra .sra (fun x y => x.sshiftRight (y.toNat % 32))
    (fun x y => some (y.toNat % 32 != 0 && x.getLsbD (y.toNat % 32 - 1))) (fun _ _ => none)

/-- After CMP of x and y the branch conditions (R89) order them: EQ and NE, HS and LO, HI and LS unsigned, GE and LT, GT and LE
signed. CMP writes the four flags of STAT and no other register; MOVI writes its destination and no flag.
Of these forms it is stated that they complete, under the conditions of their clauses alone: cmp, movi. -/
def Obligations.CompareOrdersOperands : Prop :=
  (∀ s th d a b f, State.RunsOn s th (.alu .cmp d a b) f →
    ∃ t, exec (.cmp th) s = .next t ∧ f.Moves t th (f.pc th + 1) [Reg.tlpThStat th] ∧
      (∀ i, 4 ≤ i → i < 32 → t.stat th i = f.stat th i) ∧
      t.cond th 0 0 = decide (f.spec th a = f.opnd th b) ∧ t.cond th 1 0 = decide (f.spec th a ≠ f.opnd th b) ∧
      t.cond th 2 0 = decide ((f.opnd th b).toNat ≤ (f.spec th a).toNat) ∧
      t.cond th 3 0 = decide ((f.spec th a).toNat < (f.opnd th b).toNat) ∧
      t.cond th 8 0 = decide ((f.opnd th b).toNat < (f.spec th a).toNat) ∧
      t.cond th 9 0 = decide ((f.spec th a).toNat ≤ (f.opnd th b).toNat) ∧
      t.cond th 10 0 = decide ((f.opnd th b).toInt ≤ (f.spec th a).toInt) ∧
      t.cond th 11 0 = decide ((f.spec th a).toInt < (f.opnd th b).toInt) ∧
      t.cond th 12 0 = decide ((f.opnd th b).toInt < (f.spec th a).toInt) ∧
      t.cond th 13 0 = decide ((f.spec th a).toInt ≤ (f.opnd th b).toInt)) ∧
  (∀ s th d imm f, State.RunsOn s th (.movi d imm) f → d < 32 → imm < 2 ^ 32 →
    ∃ t, exec (.movi th) s = .next t ∧ f.Moves t th (f.pc th + 1) [specReg th d] ∧
      t.spec th d = if d < 16 then BitVec.ofNat 32 imm else sext32 24 imm)

/-- NOP and YIELD advance the PC; JMP, B.cond, CALL, RET and LOOP go where the operand, the condition, the return stack or the
count says; HALT leaves the thread HALTED past it (R88, R89).
A taken branch without trace only changes the PC; one with trace of the thread on emits source and target index (R81, R88).
Of these forms it is stated that they complete, under the conditions of their clauses alone: nop, yield, jmp, bCond, call, ret,
loop, halt. -/
def Obligations.ControlFlowTargets : Prop :=
  (∀ s th f, State.RunsOn s th .nop f → exec (.nop th) s = .next ((f.begun th).setPc th (f.pc th + 1))) ∧
  (∀ s th f, State.RunsOn s th .yield f → exec (.yield th) s = .next (((f.begun th).yielded th).setPc th (f.pc th + 1))) ∧
  (∀ s th g f, State.Executes s th (.jmp g) f → f.src th g ≤ lastPc →
    exec (.jmp th) s = .next ((f.begun th).branch th (f.src th g))) ∧
  (∀ s th c i clr g f, State.RunsOn s th (.bcond c i clr g) f →
    exec (.bCond th) s = .next (
      let u := if c = 15 ∧ clr then (f.begun th).setStat th i false else f.begun th
      if f.cond th c i then u.branch th g else u.setPc th (f.pc th + 1))) ∧
  (∀ s th g d f, State.RunsOn s th (.call g) f → f.src th g ≤ lastPc → f.fld (Reg.tlpThRsDepth th) 4 0 = d → d < 16 →
    ∃ u : State, exec (.call th) s = .next (u.branch th (f.src th g)) ∧
      f.Moves u th (f.pc th) [Reg.tlpThRs th d, Reg.tlpThRsDepth th] ∧
      u.reg (Reg.tlpThRs th d) = BitVec.ofNat 32 (f.pc th + 1) ∧ u.fld (Reg.tlpThRsDepth th) 4 0 = d + 1) ∧
  (∀ s th d f, State.Executes s th .ret f → f.fld (Reg.tlpThRsDepth th) 4 0 = d + 1 →
    ∃ u : State, exec (.ret th) s = .next (u.branch th (f.fld (Reg.tlpThRs th d) 16 0)) ∧
      f.Moves u th (f.pc th) [Reg.tlpThRsDepth th] ∧ u.fld (Reg.tlpThRsDepth th) 4 0 = d) ∧
  (∀ s th g k f, State.RunsOn s th (.loop g k) f → g < 16 →
    ∃ u : State, f.Moves u th (f.pc th) [Reg.tlpThG th g] ∧
      u.g th g = (if f.g th g = 0 then 0 else f.g th g - 1) ∧
      exec (.loop th) s = .next (if u.g th g = 0 then u.setPc th (f.pc th + 1) else u.branch th k)) ∧
  (∀ s th f, State.RunsOn s th .halt f →
    ∃ t, exec (.halt th) s = .next t ∧ t.thState th = stHalted ∧ t.flag (Reg.tlpThCtl th) 0 = false ∧
      f.Moves t th (f.pc th + 1) [Reg.tlpThState th, Reg.tlpThCtl th]) ∧
  (∀ (t : State) th pc, (t.flag Reg.tlpTrace 31 && t.flag Reg.tlpTrace th) = false → (t.thread th).stepping = false →
    (t.thread th).haltReq = false → t.branch th pc = t.setPc th pc) ∧
  (∀ (t : State) th pc, t.flag Reg.tlpTrace 31 = true → t.flag Reg.tlpTrace th = true →
    t.branch th pc
      = ((t.trace (0x200 + th) (2 ^ 60 + th * 2 ^ 56 + t.pc th * 2 ^ 17 + pc)).setPc th pc).boundary th) ∧
  (∀ s th d f, State.Executes s th (.call d) f → f.src th d ≤ lastPc → f.pc th ≠ lastPc →
    16 ≤ f.fld (Reg.tlpThRsDepth th) 4 0 → exec (.call th) s = .next ((f.begun th).faultThread th faultStack)) ∧
  (∀ s th f, State.Executes s th .ret f → f.fld (Reg.tlpThRsDepth th) 4 0 = 0 →
    exec (.ret th) s = .next ((f.begun th).faultThread th faultStack)) ∧
  (∀ s th g f, State.Executes s th (.jmp (.reg g)) f → 2 ^ 17 ≤ (f.g th g).toNat →
    exec (.jmp th) s = .next ((f.begun th).faultThread th faultAddr))

/-! ## Memory instructions -/

/-- LD, ST and their circular forms LDC and STC (R91, R92, R143), at the address `eaOf` gives: a load writes the word last, a store
changes the four bytes at its address and no other, and the address register takes its update.
Of these forms it is stated that they complete, under the conditions of their clauses alone: ld, st, ldc, stc. -/
def Obligations.LoadsAndStores : Prop :=
  (∀ s th r e f ea nx n2 v g, State.RunsOn s th (.ld r e) f → r < 32 → e.i < 8 → f.eaOf th e = some (ea, nx, n2) →
    (f.begun th).loadWord ea = (.ok v, g) →
    exec (if e.circ then .ldc th else .ld th) s
      = .next (((if e.mode = 0 then g else g.setA th e.i nx).setSpec th r v).setPc th (f.pc th + 1))) ∧
  (∀ s th r e f ea nx n2, State.RunsOn s th (.st r e) f → e.i < 8 → f.eaOf th e = some (ea, nx, n2) →
    accessFault ea = none →
    exec (if e.circ then .stc th else .st th) s
      = .next ((if e.mode = 0 then (f.begun th).storeThread ea (f.spec th r)
          else ((f.begun th).storeThread ea (f.spec th r)).setA th e.i nx).setPc th (f.pc th + 1))) ∧
  (∀ (s : State) ea v, accessFault ea = none →
    (s.storeThread ea v).rawWord (physAddr ea) = v ∧ (s.storeThread ea v).eccAt (physAddr ea) = .good ∧
    ∀ a, (a < physAddr ea ∨ physAddr ea + 4 ≤ a) → (s.storeThread ea v).byte a = s.byte a) ∧
  (∀ (s : State) ea, accessFault ea = none → s.eccAt (physAddr ea) = .good →
    s.loadWord ea = (.ok (s.rawWord (physAddr ea)), s))

/-- Where an access goes and what its address register becomes (R91): linear addressing wraps modulo 2^24, mode 0 leaves the
register, modes 1 and 2 add m_i and the immediate to it after the access.
Circular addressing (R143): with a length l and an aligned base b, address and updated register lie in the buffer, from b up to
b + l modulo 2^24; a misaligned base gives no address.
SETL and SETB (R93): the register takes the value's low 24 bits; a length that is a multiple of 4 and that the pointer has
reached folds the pointer into the buffer and sets CIRC_FOLD; nothing else changes.
Of these forms it is stated that they complete, under the conditions of their clauses alone: setb, setl. -/
def Obligations.AddressingModes : Prop :=
  (∀ (s : State) th e, e.i < 8 → (e.circ = false ∨ s.l24 th e.i = 0) → ∃ n2,
    s.eaOf th e = some (
      (if e.mode = 0 then (BitVec.ofNat 24 (s.a24 th e.i) + BitVec.ofInt 24 e.imm).toNat else s.a24 th e.i),
      (if e.mode = 0 then s.a24 th e.i
       else if e.mode = 1 then (BitVec.ofNat 24 (s.a24 th e.i) + BitVec.ofNat 24 (s.m24 th e.i)).toNat
       else (BitVec.ofNat 24 (s.a24 th e.i) + BitVec.ofInt 24 e.imm).toNat),
      n2)) ∧
  (∀ (s : State) th e, e.i < 8 → e.circ = true → 0 < s.l24 th e.i →
    (s.b24 th e.i % 4 ≠ 0 → s.eaOf th e = none) ∧
    (s.b24 th e.i % 4 = 0 → ∃ ea nx n2, s.eaOf th e = some (ea, nx, n2) ∧ ea < 2 ^ 24 ∧ nx < 2 ^ 24 ∧
      (ea + 2 ^ 24 - s.b24 th e.i) % 2 ^ 24 < s.l24 th e.i ∧
      (e.mode ≠ 0 → (nx + 2 ^ 24 - s.b24 th e.i) % 2 ^ 24 < s.l24 th e.i))) ∧
  (∀ s th i v f, State.RunsOn s th (.setb i v) f → i < 8 →
    ∃ t, exec (.setb th) s = .next t ∧ f.Moves t th (f.pc th + 1) [Reg.tlpThB th i] ∧ t.b24 th i = f.src th v % 2 ^ 24) ∧
  (∀ s th i v f, State.RunsOn s th (.setl i v) f → i < 8 → f.src th v % 2 ^ 24 % 4 = 0 →
    ∃ t, exec (.setl th) s = .next t ∧
      f.Moves t th (f.pc th + 1) [Reg.tlpThL th i, Reg.tlpThA th i, Reg.tlpThStat th] ∧ t.l24 th i = f.src th v % 2 ^ 24 ∧
      (let n := f.src th v % 2 ^ 24
       let off := (f.a24 th i + 2 ^ 24 - f.b24 th i) % 2 ^ 24
       if n ≠ 0 ∧ n ≤ off then t.a24 th i = (f.b24 th i + off % n) % 2 ^ 24 ∧ t.stat th stCircFold = true
       else t.a24 th i = f.a24 th i ∧ t.stat th stCircFold = f.stat th stCircFold) ∧
      ∀ k, k < 32 → k ≠ stCircFold → t.stat th k = f.stat th k)

/-- Faults of R77: the PC stays, the state is FAULT, CAUSE and PC are recorded and RUN clears, here with no trace and no flush of
entries. An unverified region, a reserved word, a poisoned word, an address outside the thread's space and a misaligned one
stop the thread before its instruction takes effect, whatever instruction command comes. -/
def Obligations.ThreadFaults : Prop :=
  (∀ (s : State) th c, th < 16 → c < 16 → (s.flag Reg.tlpTrace 31 && s.flag Reg.tlpTrace th) = false →
    s.flag (Reg.tlpThCtl th) 3 = false →
    (s.faultThread th c).thState th = stFault ∧ (s.faultThread th c).pc th = s.pc th ∧
    (s.faultThread th c).fld (Reg.tlpThFault th) 31 28 = c ∧ (s.faultThread th c).fld (Reg.tlpThFault th) 16 0 = s.pc th ∧
    (s.faultThread th c).flag (Reg.tlpThCtl th) 0 = false ∧
    (s.up domCob = true → (s.faultThread th c).flag Reg.tlpSticky th = true)) ∧
  (∀ s th c f, s.canIssue th = true → s.fetchOp (s.pc th) = (.error c, f) → s.stopsAt th none = false →
    exec (.nop th) s = .next (f.faultThread th c) ∧ exec (.add th) s = .next (f.faultThread th c)) ∧
  (∀ s th r e f ea nx n2 c, State.Executes s th (.ld r e) f → e.circ = false → f.eaOf th e = some (ea, nx, n2) →
    accessFault ea = some c → exec (.ld th) s = .next ((f.begun th).faultThread th c)) ∧
  (∀ s th r e f ea nx n2 c, State.Executes s th (.st r e) f → e.circ = false → f.eaOf th e = some (ea, nx, n2) →
    accessFault ea = some c → exec (.st th) s = .next ((f.begun th).faultThread th c)) ∧
  (∀ ea, accessFault ea = none ↔ (ea < 0x200000 ∨ (0x400000 ≤ ea ∧ ea < 0x600000)) ∧ ea % 4 = 0)

/-! ## Timed prefixes, waits and synchronisation -/

/-- AT.I, AT.R, AT.N and EVERY (R94-R98): with room in the queue the entry of the next index's action is accepted under the first free
tag with the due time, cookie, period and count of the prefix, g_t takes the tag, and the PC moves past both. Here the due
time is in the future, the value check passes and nothing is traced.
Of these forms it is stated that they complete, under the conditions of their clauses alone: atI, atR, atN, every. -/
def Obligations.TimedEntriesQueue : Prop :=
  (∀ k c due, k < 16 → Queues Instr.atI (.atI k c due) k (fun _ _ => BitVec.ofNat 32 due) c (fun _ _ => none) 1 false) ∧
  (∀ k c r off, k < 16 → Queues Instr.atR (.atR k c r off) k (fun th g => g.g th r + BitVec.ofInt 32 off) c (fun _ _ => none) 1 false) ∧
  (∀ k c off, k < 16 → Queues Instr.atN (.atN k c off) k (fun _ g => g.tns + BitVec.ofInt 32 off) c (fun _ _ => none) 1 false) ∧
  (∀ k c r q quiet n, k < 16 → Queues Instr.every (.every k c r q quiet n) k (fun th g => g.g th r) c
    (fun th g => some (g.g th q).toNat) n quiet)

/-- The waits (R67, R71, R74, R99, R114, R115): an instruction whose condition holds goes on, one whose condition does not hold leaves
the thread in its wait state before the instruction.
The end of a wait (R54, R67, R99, R115): a thread whose condition has come true is READY past its instruction, with the register
the instruction names written; one whose condition has not stays as it is.
Of these forms it is stated that they complete, under the conditions of their clauses alone: waitt, waitev, waitevAny, fence,
cmpl, threadWake, waittDue. -/
def Obligations.Waits : Prop :=
  (∀ s th b off f, State.RunsOn s th (.waitt b off) f →
    exec (.waitt th) s = .next (
      let due : Word := (match b with | some r => f.g th r | none => 0) + BitVec.ofInt 32 off
      if future due f.tns then ((f.begun th).arm th 0 due false none).setThState th stWaitT
      else (if due = f.tns then f.begun th else (f.begun th).setStat th stLateWait true).setPc th (f.pc th + 1))) ∧
  (∀ s th line c f, State.RunsOn s th (.waitev line c) f → line < 256 →
    exec (.waitev th) s = .next (
      let m := BitVec.ofNat 32 (2 ^ (line % 32))
      if f.ev line then ((f.begun th).consume (line / 32) m c).setPc th (f.pc th + 1)
      else ((f.begun th).arm th (line / 32) m c none).setThState th stWaitEv)) ∧
  (∀ s th word m d c f, State.RunsOn s th (.waitevAny word m d c) f → word < 8 → d < 16 →
    exec (.waitevAny th) s = .next (
      let v := f.reg (Reg.tlpEv word) &&& f.g th m
      if f.g th m = 0 then ((f.begun th).setG th d 0).setPc th (f.pc th + 1)
      else if v ≠ 0 then (((f.begun th).consume word v c).setG th d v).setPc th (f.pc th + 1)
      else ((f.begun th).arm th word (f.g th m) c (some d)).setThState th stWaitEv)) ∧
  (∀ s th f, State.RunsOn s th .fence f →
    exec (.fence th) s = .next (
      if (f.begun th).fenced th then ((f.begun th).endFence th).setPc th (f.pc th + 1)
      else ((f.begun th).arm th 0 0 false none).setThState th stWaitFence)) ∧
  (∀ s th d tg f, State.RunsOn s th (.cmpl d tg) f → d < 16 →
    exec (.cmpl th) s = .next (
      let t := f.src th tg % 512
      match f.entry? t with
      | some e => if e.th = th then ((f.begun th).arm th t 0 e.periodic (some d)).setThState th stWaitCmpl
          else ((f.begun th).setG th d (f.reg (Reg.tlpTagLast t))).setPc th (f.pc th + 1)
      | none => ((f.begun th).setG th d (f.reg (Reg.tlpTagLast t))).setPc th (f.pc th + 1))) ∧
  (∀ (s : State) th, th < 16 → s.up domCob = true → (s.thState th = stWaitEv ∨ s.thState th = stWaitCmpl) →
    s.pc th < lastPc → (s.thread th).stepping = false → (s.thread th).haltReq = false →
    ((s.thread th).hit = false → exec (.threadWake th) s = .next s) ∧
    ((s.thread th).hit = true → ∃ t, exec (.threadWake th) s = .next t ∧ t.thState th = stReady ∧ t.pc th = s.pc th + 1 ∧
      (∀ d, (s.thread th).dest = some d → d < 16 → t.g th d = (s.thread th).hitVal) ∧ t.mem = s.mem ∧ t.taq = s.taq)) ∧
  (∀ (s : State) th, th < 16 → s.up domCob = true → s.thState th = stWaitT →
    s.pc th < lastPc → (s.thread th).stepping = false → (s.thread th).haltReq = false →
    (future (s.thread th).due s.tns = true → exec (.waittDue th) s = .next s) ∧
    (future (s.thread th).due s.tns = false → ∃ t, exec (.waittDue th) s = .next t ∧ t.thState th = stReady ∧
      t.pc th = s.pc th + 1 ∧ t.mem = s.mem ∧ t.taq = s.taq))

/-- The action instructions without prefix (R96, R100-R117): PSTATE, BEAMSEL, WSWAP, LOHOP, GAINSET, PORTSEL, SIGNAL, DMAGO and CARM hand
their action, with the values read, to its target, the PC past them; an index above 4095 and an attenuation above 4000 fail
their value check.
Of these forms it is stated that they complete, under the conditions of their clauses alone: pstate, beamsel, wswap, lohop,
gainset, portsel, signal, dmago, carm. -/
def Obligations.ActionsReachTargets : Prop :=
  (∀ st sc k m, Acts Instr.pstate (.pstate st sc k m) (fun th f => .pstate st (namedPaths sc k (f.src th m))) (fun _ _ => none)) ∧
  (∀ d c l i, Acts Instr.beamsel (.beamsel d c l i) (fun th f => .beamsel d c l (f.src th i % 2 ^ 16))
    (fun th f => if 4095 < f.src th i % 2 ^ 16 then some 0x0201 else none)) ∧
  (∀ d c b, Acts Instr.wswap (.wswap d c b) (fun _ _ => .wswap d c b) (fun _ _ => none)) ∧
  (∀ k p, Acts Instr.lohop (.lohop k p) (fun _ _ => .lohop k p) (fun _ _ => none)) ∧
  (∀ d x a, Acts Instr.gainset (.gainset d x a)
    (fun th f => .gainset d (namedPaths x.scope x.k (if x.scope = 2 then x.mask else x.sel)) (f.src th a % 2 ^ 16))
    (fun th f => if 4000 < f.src th a % 2 ^ 16 then some 2 else none)) ∧
  (∀ g p, Acts Instr.portsel (.portsel g p) (fun _ _ => .portsel g p) (fun _ _ => none)) ∧
  (∀ l, Acts Instr.signal (.signal l) (fun _ _ => .signal l) (fun _ _ => none)) ∧
  (∀ c d, Acts Instr.dmago (.dmago c d) (fun th f => .dmago c (d.map (fun r => f.g th r))) (fun _ _ => none)) ∧
  (∀ o, Acts Instr.carm (.carm o) (fun _ _ => .carm o) (fun _ _ => none))

/-- WREG and WREG.M write their register when it takes the write, RREG returns what the register reads as (R111-R113); VOTE sets the vote
and goes on once its domain or point is there, UNVOTE withdraws it (R72-R74, R114).
Of these forms it is stated that they complete, under the conditions of their clauses alone: wreg, wregM, rreg, unvote, vote. -/
def Obligations.DeviceRegistersAndVotes : Prop :=
  (∀ s th v b imm off f, State.RunsOn s th (.wreg v none b imm) f → f.regOffset th b imm = .ok off →
    exec (.wreg th) s = .next ((((f.begun th).setPc th (f.pc th + 1)).untimed th (.wreg off (f.g th v) 0xFFFFFFFF) none).boundary th)) ∧
  (∀ s th v m b imm off f, State.RunsOn s th (.wreg v (some m) b imm) f → f.regOffset th b imm = .ok off →
    exec (.wregM th) s = .next ((((f.begun th).setPc th (f.pc th + 1)).untimed th (.wreg off (f.g th v) (f.g th m)) none).boundary th)) ∧
  (∀ (s : State) off val mask, s.actWreg off val mask =
    if s.regUp off = false then (s.downWrite, .refuse ccDown 0)
    else if s.r80Discards off then (s.tlpBadWrite, .refuse ccPrecond 3) else (s.writeReg none off val mask, {})) ∧
  (∀ s th d b imm off f v st g, State.RunsOn s th (.rreg d b imm) f → f.regOffset th b imm = .ok off → f.holdsRead off = false →
    (f.begun th).fetchReg (2 + th) off = (v, st, g) → g.pc th = f.pc th → g.thread th = (f.begun th).thread th → d < 16 →
    exec (.rreg th) s = .next ((g.setG th d v).setPc th (f.pc th + 1))) ∧
  (∀ (s : State) who off, isRegOff off = true → off % 4 = 0 → s.regUp off = false →
    s.fetchReg who off = (downValue (blockBase off), mgDown, s)) ∧
  (∀ s th d f, State.Executes s th (.unvote d) f → exec (.unvote th) s = .next (((f.begun th).actVote th d none).advance th 1)) ∧
  (∀ s th d p f, State.Executes s th (.vote d p) f →
    exec (.vote th) s = .next (
      let tag := if d = 15 then 16 + p else d
      let u := (f.begun th).actVote th d (some p)
      if u.voteReached tag then u.advance th 1
      else if d ≠ 15 ∧ u.givenUp d then (u.setStat th stVoteFail true).advance th 1
      else (u.arm th tag 0 false none).setThState th stWaitVote))

/-! ## Signal-processing instructions -/

/-- Scalar MAC, MSU, MACS, MACBX and CMAC (R132, R133): the exact product of the x registers goes to accumulator n by the rule of the
instruction, CMAC to n and n + 1, and the PC advances.
Of these forms it is stated that they complete, under the conditions of their clauses alone: mac, msu, macs, macbx, cmac. -/
def Obligations.ScalarMultiplyAccumulate : Prop :=
  (∀ s th n a b cj sb bx f, State.RunsOn s th (.mul .mac n a b cj sb bx) f → exec (.mac th) s
    = .next (((f.begun th).addNormal th (f.duOf th) n (f.acc th n + f.x th a * f.x th b)).advance th 1)) ∧
  (∀ s th n a b cj sb bx f, State.RunsOn s th (.mul .msu n a b cj sb bx) f → exec (.msu th) s
    = .next (((f.begun th).addNormal th (f.duOf th) n (f.acc th n - f.x th a * f.x th b)).advance th 1)) ∧
  (∀ s th n a b cj sb bx f, State.RunsOn s th (.mul .macs n a b cj sb bx) f → exec (.macs th) s
    = .next (((f.begun th).addClamp th n (f.acc th n + f.x th a * f.x th b)).advance th 1)) ∧
  (∀ s th n a b cj sb bx f, State.RunsOn s th (.mul .macbx n a b cj sb bx) f → exec (.macbx th) s
    = .next (((f.begun th).addBx th (f.duOf th) n (if sb then -(f.x th a * f.x th b) else f.x th a * f.x th b)).advance th 1)) ∧
  (∀ s th n a b cj sb f, State.RunsOn s th (.mul .cmac n a b cj sb false) f → exec (.cmac th) s = .next (
    let y := if cj then -f.x th (b + 1) else f.x th (b + 1)
    let re := f.x th a * f.x th b - f.x th (a + 1) * y
    let im := f.x th a * y + f.x th (a + 1) * f.x th b
    let u := (f.begun th).addNormal th (f.duOf th) n (f.acc th n + if sb then -re else re)
    (u.addNormal th (f.duOf th) (n + 1) (u.acc th (n + 1) + if sb then -im else im)).advance th 1)) ∧
  (∀ s th n a b cj sb f, State.RunsOn s th (.mul .cmac n a b cj sb true) f → exec (.cmac th) s = .next (
    let y := if cj then -f.x th (b + 1) else f.x th (b + 1)
    let re := f.x th a * f.x th b - f.x th (a + 1) * y
    let im := f.x th a * y + f.x th (a + 1) * f.x th b
    ((f.begun th).addPairBx th (f.duOf th) n (if sb then -re else re) (if sb then -im else im)).advance th 1))

/-- The clamping rule (R128). MACS adds the exact product to the accumulator and clamps the sum to 48 bits; a clamp sets AOV. SATL
of the accumulator, the unit's sticky bit and every register but the accumulator's two words and STAT stay, so a later sum within
the range leaves the clamp; a latched accumulator stays unchanged.
Of these forms it is stated that they complete, under the conditions of their clauses alone: macs. -/
def Obligations.ClampingRule : Prop :=
  (∀ s th n a b cj sb bx f, State.RunsOn s th (.mul .macs n a b cj sb bx) f → exec (.macs th) s
    = .next (((f.begun th).addClamp th n (f.acc th n + f.x th a * f.x th b)).advance th 1)) ∧
  (∀ (s : State) th n t, n < 4 → s.satl th n = true → s.addClamp th n t = s) ∧
  (∀ (s : State) th n t, n < 4 → s.satl th n = false →
    (s.addClamp th n t).acc th n = (if t < -(2 ^ 47) then -(2 ^ 47) else if 2 ^ 47 ≤ t then 2 ^ 47 - 1 else t) ∧
    (s.addClamp th n t).satl th n = false ∧
    (s.addClamp th n t).stat th (stAov n) = ((decide (t < -(2 ^ 47)) || decide (2 ^ 47 ≤ t)) || s.stat th (stAov n)) ∧
    (∀ u, (s.addClamp th n t).flag Reg.tlpDspSticky u = s.flag Reg.tlpDspSticky u) ∧
    (∀ b, b ≠ stAov n → (s.addClamp th n t).stat th b = s.stat th b) ∧
    (∀ off, off ≠ Reg.tlpThAccLo th n → off ≠ Reg.tlpThAccHi th n → off ≠ Reg.tlpThStat th → (s.addClamp th n t).reg off = s.reg off) ∧
    (s.addClamp th n t).mem = s.mem ∧ (s.addClamp th n t).th = s.th ∧ (s.addClamp th n t).taq = s.taq)

/-- Adding into an accumulator (R127, R129). Normal: an exact sum within 64 bits is held; outside it the accumulator clamps,
latches SATL and sets AOV. A latched accumulator keeps its value under every rule. The block-exponent rule rescales an accumulator whose redundant sign count is at most 3, dividing by 16 and raising e, and
divides the addend by 16^e, rounding down. -/
def Obligations.AccumulatorRules : Prop :=
  (∀ (s : State) th u n t, n < 4 → s.satl th n = true →
    s.addNormal th u n t = s ∧ s.addClamp th n t = s ∧ s.addBx th u n t = s) ∧
  (∀ (s : State) th u n t, n < 4 → s.satl th n = false → -(2 ^ 63 : Int) ≤ t → t < 2 ^ 63 →
    (s.addNormal th u n t).acc th n = t ∧ (s.addNormal th u n t).satl th n = false ∧
    ∀ off, off ≠ Reg.tlpThAccLo th n → off ≠ Reg.tlpThAccHi th n → (s.addNormal th u n t).reg off = s.reg off) ∧
  (∀ (s : State) th u n t, n < 4 → th < 16 → u < 8 → s.satl th n = false → (t < -(2 ^ 63 : Int) ∨ 2 ^ 63 ≤ t) →
    (s.addNormal th u n t).acc th n = (if t < 0 then -(2 ^ 63) else 2 ^ 63 - 1) ∧ (s.addNormal th u n t).satl th n = true ∧
    (s.addNormal th u n t).stat th (stAov n) = true ∧
    (s.up domCob = true → (s.addNormal th u n t).flag Reg.tlpDspSticky u = true)) ∧
  (∀ (s : State) th u n q, n < 4 → s.satl th n = false → -(2 ^ 59 : Int) ≤ s.acc th n → s.acc th n < 2 ^ 59 →
    s.addBx th u n q = s.addNormal th u n (s.acc th n + q / (16 ^ s.accE th n : Nat))) ∧
  (∀ (s : State) th u n q, n < 4 → s.satl th n = false → s.accE th n < 31 → (s.acc th n < -(2 ^ 59 : Int) ∨ 2 ^ 59 ≤ s.acc th n) →
    ∃ r : State, r.acc th n = s.acc th n / 16 ∧ r.accE th n = s.accE th n + 1 ∧
      s.addBx th u n q = r.addNormal th u n (s.acc th n / 16 + q / (16 ^ (s.accE th n + 1) : Nat)))

/-- Block multiply-accumulates and BEXP hold their unit from issue on, with the thread not issuing, until BLOCK_COMPLETE frees it,
advances the PC and counts the block (R121, R134-R136, R141, R144). A block of count 0 reads nothing.
Of these forms it is stated that they complete, under the conditions of their clauses alone: macB, msuB, macsB, macbxB, cmacB,
bexp. -/
def Obligations.BlocksHoldTheirUnit : Prop :=
  (∀ k (c : Nat → Instr), (k = .mac ∧ c = Instr.macB ∨ k = .msu ∧ c = Instr.msuB ∨ k = .macs ∧ c = Instr.macsB ∨
      k = .macbx ∧ c = Instr.macbxB ∨ k = .cmac ∧ c = Instr.cmacB) →
    ∀ s th n i j ca cb cj sb bx ev cnt f g, State.RunsOn s th (.mulB k n i j ca cb cj sb bx ev cnt) f →
      (f.begun th).blockMul th (f.duOf th) n ⟨k, i, j, ca, cb, cj, sb, bx⟩ (f.src th cnt % 2 ^ 16) (f.src th cnt % 2 ^ 16)
        = (g, none) →
      exec (c th) s = .next ((g.setFld (Reg.tlpDuStatus (f.duOf th)) 19 16 th).holdUnit th (f.duOf th) ev (skeep f.regs (isThState th)))) ∧
  (∀ s th d i c cx ac cnt f g h, State.RunsOn s th (.bexp d i c cx ac cnt) f →
    (f.begun th).bexpOver th (f.duOf th) i c cx (f.src th cnt % 2 ^ 16) 23 = (.ok h, g) →
    exec (.bexp th) s = .next (((g.setG th d (BitVec.ofNat 32 (if ac then min (g.g th d).toNat h else h))).setFld
      (Reg.tlpDuStatus (f.duOf th)) 19 16 th).holdUnit th (f.duOf th) false (skeep f.regs (isThState th)))) ∧
  (∀ (s : State) th u n b m, s.blockMul th u n b m 0 = (s, none)) ∧
  (∀ (s : State) th u ev old, u < 8 → th < 16 →
    (s.holdUnit th u ev old).flag (Reg.tlpDuStatus u) 31 = true ∧
    ((s.setFld (Reg.tlpDuStatus u) 19 16 th).holdUnit th u ev old).fld (Reg.tlpDuStatus u) 19 16 = th ∧
    exec (.nop th) (s.holdUnit th u ev old) = .next (s.holdUnit th u ev old) ∧ (s.holdUnit th u ev old).mem = s.mem) ∧
  (∀ (s : State) u th, u < 8 → s.up domCob = true → s.flag (Reg.tlpDuStatus u) 31 = true →
    s.fld (Reg.tlpDuStatus u) 19 16 = th → (s.thread th).block = some u → (s.thread th).blockEv = false →
    (s.thread th).stepping = false → (s.thread th).haltReq = false → s.wdtDue th = false → s.pc th < lastPc →
    s.reg (Reg.tlpDuBlocks u) ≠ 0xFFFFFFFF →
    ∃ t, exec (.blockComplete u) s = .next t ∧ t.flag (Reg.tlpDuStatus u) 31 = false ∧ t.pc th = s.pc th + 1 ∧
      t.reg (Reg.tlpDuBlocks u) = s.reg (Reg.tlpDuBlocks u) + 1 ∧ (t.thread th).block = none ∧ t.mem = s.mem ∧
      ∀ off, off ≠ Reg.tlpDuStatus u → off ≠ Reg.tlpDuBlocks u → off ≠ Reg.tlpThPc th → t.reg off = s.reg off)

/-- Accumulator operations (R131, R137-R140): CLRACC, RND, SAT, NORM, EXP, SHACC and STACC to a pair of g registers.
The redundant sign count (R126): the value shifted left by it still fits in w bits, and by one more does not, unless it
is 0 or −1, whose count is w − 1.
Of these forms it is stated that they complete, under the conditions of their clauses alone: clracc, rnd, sat, norm, exp, shacc,
stacc. -/
def Obligations.AccumulatorOperations : Prop :=
  (∀ s th m x f, State.RunsOn s th (.clracc m x) f →
    exec (.clracc th) s = .next (((f.begun th).clracc th m x).advance th 1)) ∧
  (∀ (s : State) th m x n, n < 4 → (s.clracc th m x).acc th n
      = (if m.testBit n then (match x with | some r => s.x th r * 2 ^ 23 | none => 0) else s.acc th n) ∧
    (m.testBit n = true → (s.clracc th m x).satl th n = false ∧ (s.clracc th m x).accE th n = 0)) ∧
  (∀ s th n dg d rm e sh f, State.RunsOn s th (.rnd n dg d rm e sh) f → d < 16 →
    ∃ t, exec (.rnd th) s = .next t ∧ t.pc th = f.pc th + 1 ∧
      (let k : Int := sh + (if e then 4 * (f.accE th n : Int) else 0) - 23
       let y := roundAcc (f.acc th n) k rm
       let z := satS 24 y
       (if dg then t.g th d = BitVec.ofInt 32 z else t.x th d = z) ∧ t.stat th stN = decide (z < 0) ∧
       t.stat th stZ = (z == 0) ∧ t.stat th stV = (z != y))) ∧
  (∀ s th n w f, State.RunsOn s th (.sat n w) f → n < 4 → 1 ≤ w → w ≤ 64 →
    ∃ t, exec (.sat th) s = .next t ∧ t.pc th = f.pc th + 1 ∧
      t.acc th n = (if f.satl th n then f.acc th n else satS w (f.acc th n)) ∧
      t.stat th stV = (t.acc th n != f.acc th n) ∧ t.stat th stN = decide (t.acc th n < 0) ∧ t.stat th stZ = (t.acc th n == 0)) ∧
  (∀ s th n d e f, State.RunsOn s th (.norm n d e) f → n < 4 → d < 16 → e < 16 →
    ∃ t, exec (.norm th) s = .next t ∧ t.pc th = f.pc th + 1 ∧ t.g th e = BitVec.ofNat 32 (rs 64 (f.acc th n)) ∧
      (f.acc th n ≠ 0 → t.x th d = f.acc th n * (2 ^ rs 64 (f.acc th n) : Nat) / 2 ^ 40) ∧ (f.acc th n = 0 → t.x th d = 0) ∧
      t.stat th stN = decide (t.x th d < 0) ∧ t.stat th stZ = (t.x th d == 0)) ∧
  (∀ s th n x d f, State.RunsOn s th (.exp n x d) f → n < 4 → d < 16 →
    ∃ t, exec (.exp th) s = .next t ∧ f.Moves t th (f.pc th + 1) [Reg.tlpThG th d, Reg.tlpThStat th] ∧
      t.g th d = BitVec.ofNat 32 (match x with | some r => rs 24 (f.x th r) | none => rs 64 (f.acc th n))) ∧
  (∀ s th n sh f, State.RunsOn s th (.shacc n sh) f → n < 4 →
    exec (.shacc th) s = .next (
      (if f.satl th n then f.begun th
       else if 0 ≤ sh then (f.begun th).addNormal th (f.duOf th) n (f.acc th n * (2 ^ sh.toNat : Nat))
       else (f.begun th).putAcc th n (f.acc th n / (2 ^ (-sh).toNat : Nat))).advance th 1)) ∧
  (∀ s th n d f, State.RunsOn s th (.staccG n d) f → d < 15 → n < 4 →
    ∃ t, exec (.stacc th) s = .next t ∧ f.Moves t th (f.pc th + 1) [Reg.tlpThG th d, Reg.tlpThG th (d + 1)] ∧
      t.g th d = f.reg (Reg.tlpThAccLo th n) ∧ t.g th (d + 1) = f.reg (Reg.tlpThAccHi th n)) ∧
  (∀ (w : Nat) (v : Int), 1 ≤ w → -(2 ^ (w - 1) : Int) ≤ v → v < 2 ^ (w - 1) →
    -(2 ^ (w - 1) : Int) ≤ v * 2 ^ rs w v ∧ v * 2 ^ rs w v < 2 ^ (w - 1) ∧
    (v ≠ 0 → v ≠ -1 → v * 2 ^ (rs w v + 1) < -(2 ^ (w - 1) : Int) ∨ (2 ^ (w - 1) : Int) ≤ v * 2 ^ (rs w v + 1)) ∧
    (v = 0 ∨ v = -1 → rs w v = w - 1))

/-- STACC to memory, LD.X and ST.X (R140, R142): every address is checked before anything is stored or loaded; words land at the
addresses of their order, x registers hold the low 24 bits, signed.
Of these forms it is stated that they complete, under the conditions of their clauses alone: stacc, ldX, stX. -/
def Obligations.SignalLoadsAndStores : Prop :=
  (∀ s th n e x f ea nx n2, State.RunsOn s th (.staccM n e x) f → f.eaOf th e = some (ea, nx, n2) →
    (∀ i, i < (if x then 3 else 2) → accessFault ((ea + 4 * i) % 2 ^ 24) = none) →
    exec (.stacc th) s = .next ((((f.begun th).storeThreads ea (f.accWords th n x)).setA th e.i nx).advance th 1)) ∧
  (∀ s th x e f ea nx n2 v g, State.RunsOn s th (.ldx x false e) f → f.eaOf th e = some (ea, nx, n2) →
    (f.begun th).loadWord ea = (.ok v, g) →
    exec (.ldX th) s = .next (((g.setA th e.i nx).setX th x (sgn 24 v.toNat)).advance th 1)) ∧
  (∀ s th x e f ea nx n2 v g v2 g2, State.RunsOn s th (.ldx x true e) f → f.eaOf th e = some (ea, nx, n2) →
    accessFault n2 = none → (f.begun th).loadWord ea = (.ok v, g) → g.loadWord n2 = (.ok v2, g2) →
    exec (.ldX th) s = .next ((((g2.setA th e.i nx).setX th x (sgn 24 v.toNat)).setX th (x + 1) (sgn 24 v2.toNat)).advance th 1)) ∧
  (∀ s th x e f ea nx n2, State.RunsOn s th (.stx x false e) f → f.eaOf th e = some (ea, nx, n2) → accessFault ea = none →
    exec (.stX th) s = .next ((((f.begun th).storeThread ea (BitVec.ofInt 32 (f.x th x))).setA th e.i nx).advance th 1)) ∧
  (∀ s th x e f ea nx n2, State.RunsOn s th (.stx x true e) f → f.eaOf th e = some (ea, nx, n2) → accessFault ea = none →
    accessFault n2 = none →
    exec (.stX th) s = .next (((((f.begun th).storeThread ea (BitVec.ofInt 32 (f.x th x))).storeThread n2
      (BitVec.ofInt 32 (f.x th (x + 1)))).setA th e.i nx).advance th 1)) ∧
  (∀ (s : State) th i v, i < 16 → -(2 ^ 23 : Int) ≤ v → v < 2 ^ 23 → (s.setX th i v).x th i = v ∧
    ∀ off, off ≠ Reg.tlpThX th i → (s.setX th i v).reg off = s.reg off)

/-! ## Timed action queue, events and thread control -/

/-- `TAQ_DISPATCH` (R58, R62): an entry whose due time has come, with no earlier one due, hands its next occurrence to its target and
completes with the answer unless the action is in flight; an occurrence of a series found past the late window is skipped;
an entry that is not next leaves the state as it is.
The end of an entry (R60, R61, R65): the last outcome frees its tag at the end of the free list, leaves its code in TAG_LAST and
takes the entry from the queue; other entries stay.
Of these forms it is stated that they complete, under the conditions of their clauses alone: taqDispatch. -/
def Obligations.DueEntriesDispatch : Prop :=
  (∀ (s : State) tag e, s.up domCob = true → s.nextDue tag = true → s.entry? tag = some e →
    (e.periodic && decide (64 < (s.tns - e.due).toNat) && decide (s.fld Reg.tlpLateLimit 15 0 < (s.tns - e.due).toNat)) = false →
    exec (.taqDispatch tag) s = .next (
      let r := (s.setEntry tag e.take).doAction e.th e.act (.entry tag e.due) e.due e.seq
      if r.2.flying then r.1
      else r.1.complete tag e.due (r.1.outcome e.due r.2).1 (r.2.done.getD s.tns) (r.1.outcome e.due r.2).2)) ∧
  (∀ (s : State) tag e, s.up domCob = true → s.nextDue tag = true → s.entry? tag = some e → e.periodic = true →
    64 < (s.tns - e.due).toNat → s.fld Reg.tlpLateLimit 15 0 < (s.tns - e.due).toNat →
    exec (.taqDispatch tag) s
      = .next ((s.setEntry tag e.take).complete tag e.due ccStale s.tns ((s.tns - e.due).toNat / 1000))) ∧
  (∀ (s : State) tag e q d, s.entry? tag = some e → (q, d) ∈ s.taq → q ≠ tag → d.spent = false → s.dueReached d.due = true →
    dueBefore e d = false → exec (.taqDispatch tag) s = .next s) ∧
  (∀ e : Entry, e.take.due = e.due + BitVec.ofNat 32 e.period ∧ e.take.count = e.count - 1 ∧ e.take.act = e.act) ∧
  (∀ (s : State) tag e code due done detail, tag < 512 → e.th < 16 → code < 16 → s.flag Reg.tlpTrace 31 = false →
    let t := s.finish tag e code due done detail true
    t.entry? tag = none ∧ t.tags = s.tags ++ [tag] ∧
    t.reg (Reg.tlpTagLast tag) = BitVec.ofNat 32 (e.th * 2 ^ 16 + code) ∧ ∀ q, q ≠ tag → t.entry? q = s.entry? q)

/-- Completion records (R65): with room the record of four words stands at the head, the head advances modulo 2^16 and no other byte
changes; a full ring drops it, with the memory and the head as they were. A tail write that would put head and tail more
than a ring apart is discarded and counted, any other sets the tail; a write to base or size zeroes both.
Of these forms it is stated that they complete, under the conditions of their clauses alone: crTailWrite, crConfigWrite. -/
def Obligations.CompletionRing : Prop :=
  (∀ (s : State) e tag code due done detail, s.crUsed ≠ s.crSize →
    let a := s.crAddr (s.fld Reg.tlpCrHead 15 0)
    let t := s.record e tag code due done detail
    (tag < 512 → e.th < 16 → code < 256 → bits (t.rawWord a) 8 0 = tag ∧ bits (t.rawWord a) 15 12 = e.th ∧
      bits (t.rawWord a) 23 16 = code ∧ bits (t.rawWord a) 29 24 = e.act.cls ∧ bit (t.rawWord a) 30 = e.periodic ∧
      bit (t.rawWord a) 31 = (s.fld Reg.tlpCrHead 15 0 / s.crSize % 2 == 0)) ∧
    t.rawWord (a + 4) = due ∧ t.rawWord (a + 8) = done ∧
    t.rawWord (a + 12) = BitVec.ofNat 32 (e.cookie * 2 ^ 16 + min detail 0xFFFF) ∧
    t.fld Reg.tlpCrHead 15 0 = (s.fld Reg.tlpCrHead 15 0 + 1) % 65536 ∧
    ∀ b, b < a ∨ a + 16 ≤ b → t.byte b = s.byte b) ∧
  (∀ (s : State) e tag code due done detail, s.crUsed = s.crSize → s.up domCob = true →
    let t := s.record e tag code due done detail
    t.mem = s.mem ∧ t.fld Reg.tlpCrHead 15 0 = s.fld Reg.tlpCrHead 15 0 ∧ t.flag Reg.tlpSticky 19 = true) ∧
  (∀ (s : State) p val, s.reaches p Reg.tlpCrTail = true →
    s.crSize < (s.fld Reg.tlpCrHead 15 0 + 65536 - val.toNat % 65536) % 65536 →
    exec (.crTailWrite p val) s = .next (s.tlpBadWrite.noted p mgOk)) ∧
  (∀ (s : State) p val, s.reaches p Reg.tlpCrTail = true →
    (s.fld Reg.tlpCrHead 15 0 + 65536 - val.toNat % 65536) % 65536 ≤ s.crSize →
    ∃ t, exec (.crTailWrite p val) s = .next t ∧ t.fld Reg.tlpCrTail 15 0 = val.toNat % 65536 ∧ t.mem = s.mem ∧
      t.fld Reg.tlpCrHead 15 0 = s.fld Reg.tlpCrHead 15 0) ∧
  (∀ (s : State) p (size : Bool) val, s.reaches p Reg.tlpCrBase = true →
    ∃ t, exec (.crConfigWrite p size val) s = .next t ∧ t.reg Reg.tlpCrHead = 0 ∧ t.reg Reg.tlpCrTail = 0 ∧
      (if size then t.fld Reg.tlpCrSize 3 0 = (if 4 ≤ val.toNat % 16 ∧ val.toNat % 16 ≤ 12 then val.toNat % 16 else s.fld Reg.tlpCrSize 3 0)
       else t.fld Reg.tlpCrBase 20 4 = val.toNat / 16 % 2 ^ 17) ∧ t.mem = s.mem)

/-- Cancels (R64): a pending entry ends with CANCELLED, and its tag is freed where nothing of it is in flight; what is already dispatched
completes with its own outcome, so an entry without an occurrence left is not touched; a free tag is no effect; a
cancel by thread ends that thread's entries in tag order.
Of these forms it is stated that they complete, under the conditions of their clauses alone: taqCancelTag, taqCancelThread. -/
def Obligations.CancelsEndEntries : Prop :=
  (∀ (s : State) p val e, s.reaches p Reg.tlpTaqCancel = true → s.entry? (val.toNat % 512) = some e → e.spent = false →
    e.flying = 0 → exec (.taqCancelTag p val) s = .next ((
      (s.setEntry (val.toNat % 512) { e with closed := true }).finish (val.toNat % 512) { e with closed := true } ccCancelled e.due
        s.tns 0 true).noted p mgOk)) ∧
  (∀ (s : State) p val, s.reaches p Reg.tlpTaqCancel = true → s.entry? (val.toNat % 512) = none →
    exec (.taqCancelTag p val) s = .next (s.noted p mgOk)) ∧
  (∀ (s : State) p val e, s.reaches p Reg.tlpTaqCancel = true → s.entry? (val.toNat % 512) = some e → e.spent = true →
    exec (.taqCancelTag p val) s = .next (s.noted p mgOk)) ∧
  (∀ (s : State) p val e, s.reaches p Reg.tlpTaqCancel = true → s.entry? (val.toNat % 512) = some e → e.spent = false →
    e.flying ≠ 0 → exec (.taqCancelTag p val) s = .next ((
      (s.setEntry (val.toNat % 512) { e with closed := true }).finish (val.toNat % 512) { e with closed := true } ccCancelled e.due
        s.tns 0 false).noted p mgOk)) ∧
  (∀ (s : State) p val, s.reaches p Reg.tlpTaqCancel = true → exec (.taqCancelThread p val) s = .next ((
    (s.taq.filter (fun q => q.2.th == val.toNat / 2 ^ 16 % 16)).foldl (fun t q => t.cancel q.1) s).noted p mgOk))

/-- Event latches (R67, R68): EV_SET sets lines 0-127 and counts any other as a bad write; a write of ones to EV clears those latches
and no other; a set line with no thread waiting for it stays set, and wakes those that wait for it.
Of these forms it is stated that they complete, under the conditions of their clauses alone: evSet, evClear. -/
def Obligations.EventLatches : Prop :=
  (∀ (s : State) p val, s.reaches p Reg.tlpEvSet = true → val.toNat % 256 < 128 →
    exec (.evSet p val) s = .next ((s.setEv (val.toNat % 256)).noted p mgOk)) ∧
  (∀ (s : State) p val, s.reaches p Reg.tlpEvSet = true → 128 ≤ val.toNat % 256 → exec (.evSet p val) s = .next (s.tlpBadWrite.noted p mgOk)) ∧
  (∀ (s : State) p j val, j < 8 → s.reaches p (Reg.tlpEv j) = true →
    ∃ t, exec (.evClear p j val) s = .next t ∧ (∀ i, i < 32 → t.ev (32 * j + i) = (s.ev (32 * j + i) && !val.getLsbD i)) ∧
      (∀ off, off ≠ Reg.tlpEv j → t.reg off = s.reg off) ∧ t.mem = s.mem ∧ t.taq = s.taq ∧ t.th = s.th) ∧
  (∀ (s : State) j, j < 256 → s.up domCob = true → (∀ i, i < 16 → s.thState i = stWaitEv → wakesOn (s.thread i) j = false) →
    (s.setEv j).ev j = true ∧ (∀ k, k < 256 → k ≠ j → (s.setEv j).ev k = s.ev k) ∧ (s.setEv j).mem = s.mem ∧
    (s.setEv j).th = s.th) ∧
  (∀ (s : State) j i, j < 256 → s.up domCob = true → i < 16 → s.thState i = stWaitEv → (s.thread i).hit = false →
    wakesOn (s.thread i) j = true → ((s.setEv j).thread i).hit = true ∧
    ((s.thread i).series = true → (s.setEv j).ev j = false))

/-- RUN, STEP, RESET and halt requests (R77, R79): RUN starts a HALTED or faulted thread and lets one in DEBUG go, a STEP lets one in
DEBUG go for one instruction, RESET leaves it HALTED with the state of R52 zero, a halt request stops a READY thread in
DEBUG and leaves a HALTED or faulted one.
The watchdog (R78): a kick restarts the counts it names, a write of WDT restarts its own unless LOCK holds it, and a count at its
limit faults the thread once, unless it is in FAULT already.
Of these forms it is stated that they complete, under the conditions of their clauses alone: run, step, threadReset,
haltRequest, wdtKick, wdtWrite, watchdog. -/
def Obligations.ThreadControl : Prop :=
  (∀ (s : State) p th val, th < 16 → s.reaches p (Reg.tlpThCtl th) = true → val.getLsbD 2 = false → val.getLsbD 1 = false →
    (s.thState th = stHalted ∨ s.thState th = stFault) →
    ∃ t, exec (.run p th val) s = .next t ∧ t.thState th = stReady ∧ t.pc th = s.pc th ∧ t.reg (Reg.tlpThFault th) = 0 ∧
      t.flag (Reg.tlpThCtl th) 0 = true ∧ t.mem = s.mem) ∧
  (∀ (s : State) p th val, th < 16 → s.reaches p (Reg.tlpThCtl th) = true → val.getLsbD 2 = false → val.getLsbD 1 = false →
    s.thState th = stDebug →
    ∃ t, exec (.run p th val) s = .next t ∧ t.thState th = stReady ∧ (t.thread th).skipBp = true ∧ t.pc th = s.pc th ∧
      t.mem = s.mem) ∧
  (∀ (s : State) p th val, th < 16 → s.reaches p (Reg.tlpThCtl th) = true → s.otpLock 3 = false → val.getLsbD 2 = false →
    val.getLsbD 0 = false → s.thState th = stDebug →
    ∃ u : State, u.thState th = stReady ∧ (u.thread th).stepping = true ∧ u.pc th = s.pc th ∧ u.mem = s.mem ∧
      exec (.step p th val) s = .next ((u.noted p mgOk).issueIf th (fun _ => true))) ∧
  (∀ (s : State) p th val, th < 16 → s.reaches p (Reg.tlpThCtl th) = true → val.getLsbD 0 = false → val.getLsbD 1 = false →
    ∃ u : State, exec (.threadReset p th val) s = .next (((u.dropThreadVotes th).cancelThread th).noted p mgOk) ∧ u.thState th = stHalted ∧ u.pc th = 0 ∧
      (∀ n, n < 16 → u.g th n = 0) ∧ u.reg (Reg.tlpThStat th) = 0 ∧ u.mem = s.mem) ∧
  (∀ (s : State) p th val, th < 16 → s.reaches p Reg.tlpCtl = true → s.otpLock 3 = false →
    val = BitVec.ofNat 32 (2 ^ th) → s.thState th = stReady → (s.thread th).block = none → (s.thread th).reading = false →
    ∃ u : State, (∀ off, off ≠ Reg.tlpCtl → u.reg off = s.reg off) ∧ u.th = s.th ∧ u.mem = s.mem ∧ exec (.haltRequest p val) s = .next ((u.debugStop th false).noted p mgOk)) ∧
  (∀ (s : State) th, th < 16 → (s.flag Reg.tlpTrace 31 && s.flag Reg.tlpTrace th) = false →
    (s.debugStop th false).thState th = stDebug ∧ (s.debugStop th false).pc th = s.pc th ∧
    (s.debugStop th false).flag (Reg.tlpThCtl th) 0 = false) ∧
  (∀ (s : State) p val, s.reaches p Reg.tlpWdtKick = true →
    ∃ t, exec (.wdtKick p val) s = .next t ∧ t.regs = s.regs ∧ t.mem = s.mem ∧
      ∀ i, i < 16 → t.thread i = if val.getLsbD i then { s.thread i with wdt := 0 } else s.thread i) ∧
  (∀ (s : State) p th val, th < 16 → s.reaches p (Reg.tlpThWdt th) = true → s.flag Reg.tlpCtl 31 = true →
    exec (.wdtWrite p th val) s = .next (s.noted p mgOk)) ∧
  (∀ (s : State) p th val, th < 16 → s.reaches p (Reg.tlpThWdt th) = true → s.flag Reg.tlpCtl 31 = false →
    ∃ t, exec (.wdtWrite p th val) s = .next t ∧ (t.thread th).wdt = 0 ∧
      t.fld (Reg.tlpThWdt th) 23 0 = val.toNat % 2 ^ 24 ∧ t.flag (Reg.tlpThWdt th) 31 = val.getLsbD 31 ∧
      ∀ off, off ≠ Reg.tlpThWdt th → t.reg off = s.reg off) ∧
  (∀ (s : State) th, th < 16 → s.up domCob = true → s.wdtDue th = true → (s.thread th).block = none →
    s.thState th ≠ stFault → ∃ u v : State, (∀ i, i ≠ th → u.thread i = s.thread i) ∧
    (u.thread th).wdt = (s.thread th).wdt + 1 ∧ v = (u.leaveDu th).faultThread th faultWatchdog ∧
    exec (.watchdog th) s = .next (if v.fld (Reg.tlpThWdt th) 29 28 = 1 then v.forceWarm else v)) ∧
  (∀ (s : State) th, s.wdtDue th = false → exec (.watchdog th) s = .next s)

/-- The register-file window (R80): a write to PC, STAT or a register of a running or waiting thread is discarded and counted; in
HALTED, DEBUG or FAULT it lands and nothing else changes.
Of these forms it is stated that they complete, under the conditions of their clauses alone: regfileWrite. -/
def Obligations.RegisterFileWindow : Prop :=
  (∀ (s : State) p off val, isThReg off = true → s.reaches p off = true → s.thStopped (thOfReg off) = false →
    exec (.regfileWrite p off val) s = .next (s.tlpBadWrite.noted p mgOk)) ∧
  (∀ (s : State) p th n val, th < 16 → n < 16 → s.reaches p (Reg.tlpThG th n) = true → s.thStopped th = true →
    s.otpLock 3 = false →
    ∃ t, exec (.regfileWrite p (Reg.tlpThG th n) val) s = .next t ∧ t.g th n = val ∧
      (∀ off, off ≠ Reg.tlpThG th n → t.reg off = s.reg off) ∧ { t with regs := s.regs } = s.noted p mgOk) ∧
  (∀ (s : State) p th val, th < 16 → s.reaches p (Reg.tlpThPc th) = true → s.thStopped th = true → s.otpLock 3 = false →
    ∃ t, exec (.regfileWrite p (Reg.tlpThPc th) val) s = .next t ∧ t.pc th = val.toNat % 2 ^ 17 ∧
      (∀ off, off ≠ Reg.tlpThPc th → t.reg off = s.reg off) ∧ { t with regs := s.regs } = s.noted p mgOk)

/-! ## Power -/

/-- Votes (R440, R441): each port changes its own bit of a vote register and no other; withdrawing the last vote starts the hold timer,
a new vote stops it, and its expiry lets the target go. A domain's target is UP while it has a vote, a running hold timer
or a domain that requires it with target UP, outside Winter and Midwinter.
Of these forms it is stated that they complete, under the conditions of their clauses alone: voteWrite, holdExpiry. -/
def Obligations.VotesMakeTargets : Prop :=
  (∀ (s : State) p d val, 1 ≤ d → d ≤ 11 → s.reaches p (Reg.pwrDomVote (d - 1)) = true →
    exec (.voteWrite p (Reg.pwrDomVote (d - 1)) val) s = .next ((
      let c := if p = .pcie then 0 else 1
      (s.setVotes d (putBit (s.vote d) c (val.getLsbD c))).powerEval : State).noted p mgOk)) ∧
  (∀ (s : State) d v, 1 ≤ d → d ≤ 11 → (s.setVotes d v).vote d = v ∧
    bit (s.setVotes d v).pwr.hold d = (if v ≠ 0 then false else bit s.pwr.hold d || s.vote d != 0) ∧
    (∀ off, off ≠ Reg.pwrDomVote (d - 1) → (s.setVotes d v).reg off = s.reg off)) ∧
  (∀ (s : State) d, 1 ≤ d → d ≤ 11 → bit s.pwr.hold d = true →
    exec (.holdExpiry d) s = .next ({ s with pwr := { s.pwr with hold := putBit s.pwr.hold d false } }).powerEval) ∧
  (∀ (s : State) d, 1 ≤ d → d ≤ 11 → s.season < 2 → s.pwr.keepHost = false →
    (s.domTarget d = true ↔ s.vote d ≠ 0 ∨ bit s.pwr.hold d = true ∨ ∃ e, 1 ≤ e ∧ e ≤ 11 ∧ domRequires e = d ∧ s.domTarget e = true))

/-- Transitions (R441-R443): a domain whose target differs from its state takes the slot and starts when the domain it requires is up,
or, falling, when those that require it are down; the steps 1 to 3 end a rise with the domain UP, the same steps
backwards end a fall with it OFF; a new target during a transition goes to the pending slot and is counted.
Failures of a rise (R445, R446): a step past its timeout turns the rise into a fall that remembers the step
and loses the banks that are not retained; 100 µs later the rise is
tried again while it is wanted; after the third retry the domain is given up, with the step and the domain recorded. Loss
of power-good turns an up or rising domain and those above it into a fall and sets PG_LOSS; its return judges the targets
again.
Of these forms it is stated that they complete, under the conditions of their clauses alone: powerStep, stepTimeout, wakeRetry,
pgLoss, pgRestore. -/
def Obligations.DomainTransitions : Prop :=
  (∀ (s : State) d, 1 ≤ d → d ≤ 11 → s.goal d = none → s.step? d = none → bit s.pwr.failed d = false →
    bit s.pwr.retry d = false → s.domTarget d = true → s.flag (Reg.pwrDomStatus (d - 1)) 4 = true → s.domState d = 0 →
    bit s.pwr.lost d = false → s.up (domRequires d) = true →
    (s.judgeDom d).domState d = 1 ∧ (s.judgeDom d).step? d = some 1 ∧ (s.judgeDom d).goal d = some true) ∧
  (∀ (s : State) d, 1 ≤ d → d ≤ 11 → s.domTarget d = s.up d → s.flag (Reg.pwrDomStatus (d - 1)) 4 = s.domTarget d →
    s.goal d = none → s.judgeDom d = s) ∧
  (∀ (s : State) d k, 1 ≤ d → d ≤ 11 → s.domState d = 1 → s.step? d = some k → k < 3 →
    exec (.powerStep d) s = .next (s.setStep? d (some (k + 1))).bootHook) ∧
  (∀ (s : State) d, 1 ≤ d → d ≤ 11 → s.domState d = 1 → s.step? d = some 3 →
    exec (.powerStep d) s = .next ((((s.setDom d 2 false).endMove d).gainDomain d).powerEval.bootHook)) ∧
  (∀ (s : State) d k, 1 ≤ d → d ≤ 11 → s.domState d = 3 → s.step? d = some k → 1 < k →
    exec (.powerStep d) s = .next (s.setStep? d (some (k - 1))).bootHook) ∧
  (∀ (s : State) d, 1 ≤ d → d ≤ 11 → s.domState d = 3 → s.step? d = some 1 → alook s.pwr.failing d = none →
    exec (.powerStep d) s = .next (((s.setDom d 0 true).endMove d).powerEval.bootHook)) ∧
  (∀ (s : State) d st iso, 1 ≤ d → d ≤ 11 → st < 4 → (s.setDom d st iso).domState d = st ∧
    (s.setDom d st iso).flag (Reg.pwrDomStatus (d - 1)) 5 = iso) ∧
  (∀ (s : State) d k, 1 ≤ d → d ≤ 11 → s.domState d = 1 → s.step? d = some k →
    ∃ t, exec (.stepTimeout d) s = .next t ∧ t.domState d = 3 ∧ t.step? d = some k ∧ alook t.pwr.failing d = some k ∧
      t.mem = skeep s.mem (fun a => domOfMem a != d || bit s.keptBanks (bankOf a))) ∧
  (∀ (s : State) d, s.step? d = none ∨ s.domState d ≠ 1 → exec (.stepTimeout d) s = .next s) ∧
  (∀ (s : State) d f n, 1 ≤ d → d ≤ 11 → s.domState d = 3 → s.step? d = some 1 → alook s.pwr.failing d = some f →
    s.flag (Reg.pwrDomStatus (d - 1)) 4 = true → alook s.pwr.tries d = some n → n < 3 →
    ∃ t, exec (.powerStep d) s = .next (State.bootHook t) ∧ bit t.pwr.retry d = true ∧ alook t.pwr.tries d = some (n + 1) ∧ t.domState d = 0) ∧
  (∀ (s : State) d f, 1 ≤ d → d ≤ 11 → s.domState d = 3 → s.step? d = some 1 → alook s.pwr.failing d = some f →
    s.flag (Reg.pwrDomStatus (d - 1)) 4 = true → alook s.pwr.tries d = some 3 →
    exec (.powerStep d) s = .next (((s.setDom d 0 true).wakeFailed d f).powerEval.bootHook)) ∧
  (∀ (s : State) d f, 1 ≤ d → d ≤ 11 → f < 256 → s.season < 2 →
    (s.wakeFailed d f).reg Reg.pwrWakeFail = BitVec.ofNat 32 (d * 256 + f) ∧ (s.wakeFailed d f).flag Reg.pwrSticky 0 = true ∧
    bit (s.wakeFailed d f).pwr.failed d = true) ∧
  (∀ (s : State) d, 1 ≤ d → d ≤ 11 → bit s.pwr.retry d = true → s.flag (Reg.pwrDomStatus (d - 1)) 4 = true →
    exec (.wakeRetry d) s = .next ({ s with pwr := { s.pwr with retry := putBit s.pwr.retry d false } }).powerEval) ∧
  (∀ (s : State) d, 1 ≤ d → d ≤ 11 → s.domState d = 2 → ∃ u : State, u.flag Reg.pwrSticky (15 + d) = true ∧
    bit u.pwr.lost d = true ∧ u.mem = s.mem ∧ exec (.pgLoss d) s = .next ((domsFrom d).reverse.foldl State.fallNow u).powerEval) ∧
  (∀ (s : State) d, s.domState d = 0 → exec (.pgLoss d) s = .next s) ∧
  (∀ (s : State) d, 1 ≤ d → d ≤ 11 → bit s.pwr.lost d = true →
    exec (.pgRestore d) s = .next ({ s with pwr := { s.pwr with lost := putBit s.pwr.lost d false } }).powerEval)

/-- The Cobalt working point (R447): a move up changes the voltage first and then the frequency, a move down the frequency first; under
manual control a write that would raise the frequency above the voltage's point or lower the voltage below the frequency's
is refused, counted and changes nothing else.
Of these forms it is stated that they complete, under the conditions of their clauses alone: dvfsStep, dvfsManWrite. -/
def Obligations.WorkingPointMoves : Prop :=
  (∀ (s : State) t, s.up domCob = true → s.pwr.dvGoal = some (t, 0) → s.pwr.vpt < t → s.pwr.vpt = s.pwr.fpt → t < 4 →
    ∃ u : State, exec .dvfsStep s = .next u.powerEval ∧ u.pwr.vpt = t ∧ u.pwr.fpt = s.pwr.fpt ∧ u.pwr.dvGoal = some (t, 1)) ∧
  (∀ (s : State) t, s.up domCob = true → s.pwr.dvGoal = some (t, 1) → s.pwr.vpt = t → s.pwr.fpt < t → t < 4 →
    ∃ u : State, exec .dvfsStep s = .next u.powerEval ∧ u.pwr.vpt = t ∧ u.pwr.fpt = t ∧ u.pwr.dvGoal = none) ∧
  (∀ (s : State) t, s.up domCob = true → s.pwr.dvGoal = some (t, 0) → t < s.pwr.vpt → s.pwr.vpt = s.pwr.fpt → s.pwr.vpt < 4 →
    ∃ u : State, exec .dvfsStep s = .next u.powerEval ∧ u.pwr.fpt = t ∧ u.pwr.vpt = s.pwr.vpt ∧ u.pwr.dvGoal = some (t, 1)) ∧
  (∀ (s : State) t, s.up domCob = true → s.pwr.dvGoal = some (t, 1) → t < s.pwr.vpt → s.pwr.fpt = t → s.pwr.vpt < 4 →
    ∃ u : State, exec .dvfsStep s = .next u.powerEval ∧ u.pwr.fpt = t ∧ u.pwr.vpt = t ∧ u.pwr.dvGoal = none) ∧
  (∀ (s : State) p val, s.reaches p Reg.pwrDvfsMan = true → val.getLsbD 31 = true →
    (s.pwr.vpt < val.toNat % 4 ∨ val.toNat / 16 % 4 < s.pwr.fpt) →
    exec (.dvfsManWrite p val) s = .next (((s.bump Reg.pwrCntBadw).raiseBit Reg.pwrSticky 1).noted p mgOk)) ∧
  (∀ (s : State) p val, s.reaches p Reg.pwrDvfsMan = true → val.getLsbD 31 = true → s.up domCob = true →
    val.toNat % 4 ≤ s.pwr.vpt → s.pwr.fpt ≤ val.toNat / 16 % 4 →
    ∃ u : State, exec (.dvfsManWrite p val) s = .next (u.powerEval.noted p mgOk) ∧ u.pwr.vpt = val.toNat / 16 % 4 ∧ u.pwr.fpt = val.toNat % 4 ∧
      u.flag Reg.pwrDvfsMan 31 = true ∧ u.pwr.dvGoal = none)

/-- Power states (R448-R452): Summer and Autumn change at once, Winter and Midwinter are entered, a request met in them or in Spring
waits; an entry whose domains have settled completes; an address match in Winter or Midwinter starts Spring; VDD_RF2 is
shown as measured, and as 0 for a tile that is down (R454).
The end of Spring (R76): the state becomes the one to resume, and each thread with WAKE_PC.EN set starts at WAKE_PC.PC with its
registers at their reset values, READY; every other thread stays as it is.
Of these forms it is stated that they complete, under the conditions of their clauses alone: stateRequest, entryComplete,
addressMatch, rf2Measure, springComplete. -/
def Obligations.PowerStates : Prop :=
  (∀ (s : State) p val, s.reaches p Reg.pwrState = true → s.season < 2 → val.toNat / 2 ^ 16 % 8 < 2 →
    ∃ u : State, exec (.stateRequest p val) s = .next (((u.setSeason (val.toNat / 2 ^ 16 % 8)).powerEval).noted p mgOk) ∧ u.mem = s.mem ∧
      ∀ off, off ≠ Reg.pwrState → u.reg off = s.reg off) ∧
  (∀ (s : State) p val r, s.reaches p Reg.pwrState = true → s.season < 2 → val.toNat / 2 ^ 16 % 8 = r → 2 ≤ r → r ≤ 3 →
    ∃ u : State, exec (.stateRequest p val) s = .next (u.driveOff.powerEval.noted p mgOk) ∧ u.season = 5 ∧ u.pwr.into = r ∧ u.pwr.back = s.season) ∧
  (∀ (s : State) p val r, s.reaches p Reg.pwrState = true → s.season = 4 → val.toNat / 2 ^ 16 % 8 = r → r ≤ 3 →
    ∃ t, exec (.stateRequest p val) s = .next t ∧ t.season = 4 ∧ t.pwr.req = some r ∧ t.flag Reg.pwrState 7 = true) ∧
  (∀ (s : State), s.season = 5 → s.pwr.leaving = true → s.settledDoms = true → s.pwr.woken = false → s.pwr.req = none →
    s.pwr.into < 4 →
    ∃ t, exec .entryComplete s = .next t ∧ t.season = s.pwr.into ∧ t.fld Reg.pwrState 10 8 = s.pwr.back % 8 ∧ t.mem = s.mem) ∧
  (∀ (s : State), s.boot = .running → (s.season = 2 ∨ s.season = 3) → exec .addressMatch s = .next s.startSpring) ∧
  (∀ (s : State), s.boot = .running → (s.season = 2 ∨ s.season = 3) → ∃ u : State, exec .addressMatch s = .next u.powerEval ∧
    u.season = 4 ∧ u.pwr.prior = s.season ∧ ∀ d, 1 ≤ d → d ≤ 11 → s.flag Reg.pwrWakeSet d = true → bit (u.vote d) 1 = true) ∧
  (∀ (s : State), s.boot = .running → s.season = 5 → ∃ t, exec .addressMatch s = .next t ∧ t.pwr.woken = true ∧ t.regs = s.regs) ∧
  (∀ (s : State), s.season < 2 ∨ s.season = 4 → exec .addressMatch s = .next s) ∧
  (∀ (s : State) t mv, t < 4 → ∃ u : State, exec (.rf2Measure t mv) s = .next u.idlePaths ∧
    u.fld (Reg.pwrRf2Mon t) 11 0 = (if s.up (domTile t) then min mv 4095 else 0) ∧
    ∀ off, off ≠ Reg.pwrRf2Mon t → u.reg off = s.reg off) ∧
  (∀ (s : State), s.season = 4 → s.springReady = true → ∃ u : State, u.pwr.spring = 0 ∧
    exec .springComplete s = .next (u.wakeRestarts).takeRequest.powerEval) ∧
  (∀ (s : State), s.season ≠ 4 → exec .springComplete s = .next s) ∧
  (∀ (s : State) i, i < 16 → s.up domCob = true → s.flag (Reg.tlpThWakePc i) 31 = true →
    s.wakeRestarts.thState i = stReady ∧ s.wakeRestarts.pc i = s.fld (Reg.tlpThWakePc i) 16 0 ∧
    (∀ n, n < 16 → s.wakeRestarts.g i n = 0 ∧ s.wakeRestarts.x i n = 0) ∧ (∀ n, n < 4 → s.wakeRestarts.acc i n = 0) ∧
    s.wakeRestarts.reg (Reg.tlpThStat i) = 0) ∧
  (∀ (s : State) i, i < 16 → s.flag (Reg.tlpThWakePc i) 31 = false → s.wakeRestarts.thState i = s.thState i ∧
    s.wakeRestarts.pc i = s.pc i ∧ s.wakeRestarts.thread i = s.thread i ∧ ∀ n, n < 16 → s.wakeRestarts.g i n = s.g i n)

/-! ## Host accesses -/

/-- Register accesses (R8, R14, R26, R28, R30): one that reaches a register of a block that is up does what that register does with it; a
partial, misaligned or unmapped one over PCIe has no effect but for its count; one to a block that is down is discarded
and counted, and reads 0xDEAD with the block; in D3hot it ends as Unsupported Request.
Of these forms it is stated that they complete, under the conditions of their clauses alone: registerWrite, highWordRead,
d3hotEntry, d0Entry. -/
def Obligations.RegisterAccesses : Prop :=
  (∀ (s : State) p off val, s.reaches p off = true → windowOf off = none → isRegOff off = true → off % 4 = 0 →
    exec (.registerWrite p off val true) s = .next ((s.writeReg (some p) off val 0xFFFFFFFF).noted p mgOk)) ∧
  (∀ (s : State) off val whole, s.linkUp = true → s.d3 = false → s.host.waits = [] → windowOf off = none →
    (isRegOff off = false ∨ off % 4 ≠ 0 ∨ whole = false) →
    exec (.registerWrite .pcie off val whole) s = .next (s.badAccess off)) ∧
  (∀ (s : State) off val, s.linkUp = true → s.d3 = false → s.host.waits = [] → windowOf off = none → isRegOff off = true → off % 4 = 0 →
    s.regUp off = false → exec (.registerWrite .pcie off val true) s = .next s.downWrite ∧
      exec (.highWordRead .pcie off) s = .next (s.send (.pcieData [downValue (blockBase off)] false))) ∧
  (∀ (s : State) off val whole, s.linkUp = true → s.d3 = true →
    exec (.registerWrite .pcie off val whole) s = .next (s.send .pcieUr)) ∧
  (∀ (s : State) off val whole, s.linkUp = false → exec (.registerWrite .pcie off val whole) s = .next s) ∧
  (∀ (s : State), s.linkUp = true → ∃ t, exec .d3hotEntry s = .next t ∧ t.d3 = true ∧ { t with d3 := s.d3 } = s) ∧
  (∀ (s : State), s.linkUp = true → ∃ t, exec .d0Entry s = .next t ∧ t.d3 = false ∧ { t with d3 := s.d3 } = s)

/-- Access codes (R8, R10-R12, R112): after a write of `val` under `mask`, an RW field holds the bits written where it accepts them and
keeps its value where they are reserved, a W1C field loses the bits written as 1, a counter clears only as its code says,
and RO fields stay, for every field of every register of the map.
Counters saturate at their maximum and never wrap (R12). -/
def Obligations.FieldsAndCounters : Prop :=
  (∀ (s : State) off d f val, declOf off = some d → f ∈ d.fields →
    let t := s.setReg off (d.after (s.locked off) (s.reg off) val val)
    (f.acc = .rw → t.fld off f.hi f.lo = if f.accepts (bits val f.hi f.lo) then bits val f.hi f.lo else s.fld off f.hi f.lo) ∧
    (f.acc = .rwl → t.fld off f.hi f.lo
      = if !s.locked off && f.accepts (bits val f.hi f.lo) then bits val f.hi f.lo else s.fld off f.hi f.lo) ∧
    (f.acc = .ro ∨ f.acc = .otp → t.fld off f.hi f.lo = s.fld off f.hi f.lo) ∧
    (f.acc = .w1p ∨ f.acc = .wo → t.fld off f.hi f.lo = 0) ∧
    (f.acc = .w1c → ∀ i, i < f.hi + 1 - f.lo →
      (t.fld off f.hi f.lo).testBit i = ((s.fld off f.hi f.lo).testBit i && !(bits val f.hi f.lo).testBit i)) ∧
    (f.acc = .cz → t.fld off f.hi f.lo = if bits val f.hi f.lo = 0 then 0 else s.fld off f.hi f.lo) ∧
    (f.acc = .cw → t.fld off f.hi f.lo = if val = 0 then 0 else s.fld off f.hi f.lo) ∧
    (s.writeFields off val 0xFFFFFFFF).reg off = keepLock off (s.reg off) (t.reg off)) ∧
  (∀ (s : State) off hi lo k, lo ≤ hi → hi < 32 →
    (s.count off hi lo k).fld off hi lo = min (s.fld off hi lo + k) (2 ^ (hi + 1 - lo) - 1) ∧
    s.fld off hi lo ≤ (s.count off hi lo k).fld off hi lo ∧
    ∀ o, o ≠ off → (s.count off hi lo k).reg o = s.reg o) ∧
  (∀ (s : State) off, s.up domHost = true →
    (s.badAccess off).fld Reg.hstBadAccess 15 0 = min (s.fld Reg.hstBadAccess 15 0 + 1) 65535 ∧
    (s.badAccess off).reg Reg.hstBadOffset = BitVec.ofNat 32 (off % 2 ^ 26) ∧ (s.badAccess off).flag Reg.hstSticky 0 = true) ∧
  (∀ (s : State), (s.downWrite).fld Reg.glbDownWrites 31 0 = min (s.fld Reg.glbDownWrites 31 0 + 1) (2 ^ 32 - 1) ∧
    (s.downWrite).flag Reg.glbSticky 1 = true)

/-- Sticky bits, messages and the alert summary (R8, R13, R39): a write of ones clears those bits; a source left at 1 by the write sends
again, or sets its PBA bit while masked; a hardware event sets its bit; unmasking sends and clears the PBA bit if the
source is at 1; enabling MSI-X sends every source at 1; ALERT_SUM has a block's bit where a gated bit of it is set.
Of these forms it is stated that they complete, under the conditions of their clauses alone: stickyWrite, msixUnmask,
msixEnable. -/
def Obligations.StickyBitsAndMessages : Prop :=
  (∀ (s : State) p off val i, s.reaches p off = true → stickyAt off = some i → windowOf off = none → isRegOff off = true →
    off % 4 = 0 → off ≠ Reg.tlpAirSticky → off ≠ Reg.hstSticky →
    exec (.stickyWrite p off val) s = .next (((s.writeFields off val 0xFFFFFFFF).settle s off i true).noted p mgOk)) ∧
  (∀ (s : State) off i, stickyAt off = some i → s.regUp off = true → i.vec < 64 → s.source i.vec = false →
    s.msixOn = true → s.masked i.vec = false → ∀ b, b < 32 → off ≠ Reg.tlpSticky → s.flag i.en b = true → s.source 0 = true →
    Out.msix i.vec ∈ (s.raiseBit off b).out ∧ (s.raiseBit off b).flag off b = true) ∧
  (∀ (s : State) v, v < 64 → s.reaches .pcie (Reg.hstMsixCtl v) = true → s.msixOn = true → s.masked v = true → s.source v = true →
    ∃ t, exec (.msixUnmask v) s = .next t ∧ t.out = .msix v :: s.out ∧ t.flag (Reg.hstMsixPba (v / 32)) (v % 32) = false ∧
      t.masked v = false) ∧
  (∀ (s : State) v, v < 64 → s.reaches .pcie (Reg.hstMsixCtl v) = true → s.source v = false →
    ∃ t, exec (.msixUnmask v) s = .next t ∧ t.out = s.out ∧ t.masked v = false) ∧
  (∀ (s : State), s.linkUp = true → exec .msixEnable s = .next (
    (List.range 64).foldl (fun t v => if t.source v then t.notify v else t) { s with msixEn := true })) ∧
  (∀ (s : State) off i b, stickyAt off = some i → b < 32 → s.flag off b = true → s.flag i.en b = true →
    bit s.alertSum i.sum = true)

/-- Reads of 64-bit registers (R33): the low word fills the port's shadow, the first read of that register's high word returns it,
whatever the register has become, a second one reads live.
Of these forms it is stated that they complete, under the conditions of their clauses alone: lowWordRead, highWordRead,
timeRead, resultRead. -/
def Obligations.ShadowedReads : Prop :=
  (∀ (s : State) off hi, s.linkUp = true → s.d3 = false → s.host.waits = [] → windowOf off = none → isRegOff off = true → off % 4 = 0 →
    s.regUp off = true → highOf off = some hi → cvResultOf off = none → isBufOff off = false →
    off ∉ [Reg.mgtNvmData, Reg.secCertData, Reg.argRstData, Reg.linStData 0, Reg.linStData 1, Reg.mgtNvmStatus] →
    ∃ t, exec (.lowWordRead .pcie off) s = .next t ∧ t.out = .pcieData [s.viewReg off] false :: s.out ∧
      alook t.shadow 0 = some ⟨off, s.viewReg hi, true⟩ ∧ t.regs = s.regs ∧ t.mem = s.mem) ∧
  (∀ (s : State) off hi h, s.linkUp = true → s.d3 = false → s.host.waits = [] → windowOf hi = none → isRegOff hi = true → hi % 4 = 0 →
    s.regUp hi = true → highOf off = some hi → highOf hi = none → hi ≠ Reg.mgtNvmStatus → alook s.shadow 0 = some ⟨off, h, true⟩ →
    ∃ t, exec (.highWordRead .pcie hi) s = .next t ∧ t.out = .pcieData [h] false :: s.out ∧
      alook t.shadow 0 = some ⟨off, h, false⟩ ∧ t.regs = s.regs) ∧
  (∀ (s : State) p off, s.reaches p off = true → windowOf off = none → isRegOff off = true → off % 4 = 0 → off ≠ Reg.mgtNvmStatus →
    exec (.lowWordRead p off) s = .next (s.answer p off) ∧ exec (.highWordRead p off) s = .next (s.answer p off)) ∧
  (∀ (s : State), s.linkUp = true → s.d3 = false → s.host.waits = [] → s.up domTime = true →
    ∃ t, exec (.timeRead .pcie) s = .next t ∧ t.out = .pcieData [s.tns] false :: s.out ∧ t.regs = s.regs) ∧
  (∀ (s : State) p, s.reaches p Reg.tmuTime = true → ∃ t : State, exec (.timeRead p) s = .next (t.reply p s.tns mgOk) ∧
    t.regs = s.regs ∧ t.mem = s.mem ∧ t.out = s.out) ∧
  (∀ (s : State) p off, s.reaches p off = true → (cvResultOf off).isSome = true → off % 4 = 0 →
    exec (.resultRead p off) s = .next (s.answer p off)) ∧
  (∀ (s : State) who c, c < 8 → who ≤ 1 → ∃ t : State, s.readShadowed who (Reg.cvuCvResultLo c)
    = ((s.cvDrain c).reg (Reg.cvuCvResultLo c), mgOk, t) ∧ t.regs = (s.cvDrain c).regs ∧ t.cvu = (s.cvDrain c).cvu)

/-- Memory windows (R29, R49): bytes enabled land in the window and read back, no other byte changes, whatever alignment and length; a
partial write of a word with a double-bit error is discarded and counted. The management
port writes the word that holds the offset. A window whose domain is down discards. More than one word of a register range reads 0
and is counted.
Of these forms it is stated that they complete, under the conditions of their clauses alone: memoryWindowWrite,
memoryWindowRead. -/
def Obligations.MemoryWindows : Prop :=
  (∀ (s : State) p off data base size d, s.reaches p 0 = true →
    (p = .mgmt → s.up domMgt = true ∧ off % 4 = 0 ∧ data.length = 4 ∧ data.all (·.isSome) = true) →
    windowOf off = some (base, size, d) → s.up d = true → data.length ≤ 512 → off + data.length ≤ base + size →
    (∀ a, s.eccAt a = .good) →
    ∃ t, exec (.memoryWindowWrite p off data) s = .next t ∧
      (∀ i, i < data.length → t.byte (off + i) = (data.getD i none).getD (s.byte (off + i))) ∧
      (∀ a, (a < off ∨ off + data.length ≤ a) → t.byte a = s.byte a) ∧
      ∀ r, r ≠ Reg.tlpImVerified → t.reg r = s.reg r) ∧
  (∀ (s : State) off data base size d, s.reaches .pcie 0 = true → windowOf off = some (base, size, d) → s.up d = true →
    exec (.memoryWindowWrite .pcie off data) s = .next (s.windowWrite off (data.take (min 512 (base + size - off))))) ∧
  (∀ (s : State) off data base size d, s.reaches .mgmt 0 = true → s.up domMgt = true → windowOf off = some (base, size, d) →
    s.up d = true → data.length = 4 → data.all (·.isSome) = true →
    exec (.memoryWindowWrite .mgmt off data) s
      = .next ((s.windowWrite (off / 4 * 4) ((wordBytes (leWord (data.map (·.getD 0)))).map some)).noted .mgmt mgOk)) ∧
  (∀ (s : State) p off data base size d, s.reaches p 0 = true →
    (p = .mgmt → s.up domMgt = true ∧ data.length = 4 ∧ data.all (·.isSome) = true) →
    windowOf off = some (base, size, d) → s.up d = false → exec (.memoryWindowWrite p off data) s = .next (s.downWrite.noted p mgDown)) ∧
  (∀ (s : State) p off data, windowOf off = none → exec (.memoryWindowWrite p off data) s = .next s) ∧
  (∀ (s : State) a l, l.length = 4 → l.all (·.isNone) = false → l.all (·.isSome) = false → s.eccAt a = .double →
    (s.writeLanes a l).mem = s.mem ∧ (s.writeLanes a l).eccAt a = .double ∧
    (s.writeLanes a l).reg Reg.glbEccLast = BitVec.ofNat 32 (eccIndex a * 2 ^ 28 + eccPlace a % 2 ^ 28)) ∧
  (∀ (s : State) off base size d, s.linkUp = true → s.d3 = false → s.host.waits = [] → windowOf off = some (base, size, d) → off % 4 = 0 →
    off + 4 ≤ base + size → s.up d = true → s.eccAt off = .good →
    ∃ t, exec (.memoryWindowRead .pcie off 1) s = .next t ∧ t.out = .pcieData [s.rawWord off] false :: s.out ∧ t.mem = s.mem) ∧
  (∀ (s : State) p off base size d, s.reaches p 0 = true → (p = .mgmt → s.up domMgt = true) → windowOf off = some (base, size, d) →
    off % 4 = 0 → off + 4 ≤ base + size → s.up d = true → exec (.memoryWindowRead p off 1) s = .next (
      (s.readEcc off).2.2.reply p (s.readEcc off).1 (if (s.readEcc off).2.1 = true then mgEcc else mgOk))) ∧
  (∀ (s : State) off base size d n, s.linkUp = true → s.d3 = false → s.host.waits = [] → windowOf off = some (base, size, d) →
    s.up d = false → 0 < n → ∃ t, exec (.memoryWindowRead .pcie off n) s = .next t ∧ t.mem = s.mem ∧ t.regs = s.regs ∧
      ∃ l, t.out = .pcieData l false :: s.out ∧ ∀ w ∈ l, w = downValue base) ∧
  (∀ (s : State) off n, s.linkUp = true → s.d3 = false → s.host.waits = [] → windowOf off = none → isRegOff off = true → 1 < n →
    exec (.memoryWindowRead .pcie off n) s = .next ((s.badAccess off).send (.pcieData (List.replicate n 0) false)))

/-- Memory protection (R47, R50): a protected read of a good word returns it, of a word with a flipped bit returns it corrected, writes it
back and counts, of a word with two returns the raw word marked poisoned, counts it and records where; the scrubber does so
for the word it names.
Of these forms it is stated that they complete, under the conditions of their clauses alone: scrub. -/
def Obligations.EccProtection : Prop :=
  (∀ (s : State) a, s.eccAt a = .good → s.readEcc a = (s.rawWord a, false, s)) ∧
  (∀ (s : State) a b, s.eccAt a = .single b → b < 32 → ∃ t, s.readEcc a = (s.rawWord a ^^^ BitVec.ofNat 32 (2 ^ b), false, t) ∧
    t.rawWord a = s.rawWord a ^^^ BitVec.ofNat 32 (2 ^ b) ∧ t.eccAt a = .good ∧
    t.fld (Reg.glbEccCe (eccIndex a)) 31 0 = min (s.fld (Reg.glbEccCe (eccIndex a)) 31 0 + 1) (2 ^ 32 - 1) ∧
    ∀ c, c < a ∨ a + 4 ≤ c → t.byte c = s.byte c) ∧
  (∀ (s : State) a, s.eccAt a = .double → ∃ t, s.readEcc a = (s.rawWord a, true, t) ∧ t.mem = s.mem ∧ t.ecc = s.ecc ∧
    t.flag Reg.glbSticky 0 = true) ∧
  (∀ (s : State) m w, s.flag Reg.glbScrubCtl 0 = true → s.fld Reg.glbScrubCtl 15 4 ≠ 0 → m < 5 →
    (∃ size d, windowOf (eccBase m) = some (eccBase m, size, d) ∧ w < size / 4 ∧ s.up d = true) →
    exec (.scrub m w) s = .next (s.readEcc (eccBase m + 4 * w)).2.2) ∧
  (∀ (s : State) m w, s.flag Reg.glbScrubCtl 0 = true → s.fld Reg.glbScrubCtl 15 4 ≠ 0 → 5 ≤ m → m < 9 → w < 2 ^ 18 →
    s.up (domTile (m - 5)) = true → exec (.scrub m w) s = .next (s.readNvm (m - 5) w).2.2) ∧
  (∀ (s : State) m w, s.flag Reg.glbScrubCtl 0 = false → exec (.scrub m w) s = .next s)

/-- The management port (R40-R44): a transaction whose address byte is another's is not answered; a WRITE of eight bytes is performed
and its status kept, another command byte or byte count is refused as FRAME; a READ returns data and status; STATUS returns the
status of the last WRITE; behind a MGT that is down an access has status DOWN; an access not ready in 50 µs is performed all
the same, a READ returns 0 with TIMEOUT, the transaction after a WRITE is not acknowledged; a held SCL only sets its sticky bit.
Of these forms it is stated that they complete, under the conditions of their clauses alone: mgmtWrite, mgmtRead, mgmtStatus,
sclTimeout, stretchTimeout. -/
def Obligations.ManagementPort : Prop :=
  (∀ (s : State) addr bytes, s.mgmtAnswers = false ∨ addr.toNat ≠ 0x80 + 2 * (s.pins.addr % 32) →
    exec (.mgmtWrite addr bytes) s = .next s ∧ exec (.mgmtRead addr bytes) s = .next s ∧ exec (.mgmtStatus addr bytes) s = .next s ∧
    ∀ w, exec (.stretchTimeout w addr bytes) s = .next s) ∧
  (∀ (s : State) addr body, s.answers addr = true → body.length = 8 → ∃ t, exec (.mgmtWrite addr (0x57 :: body)) s = .next t ∧
    t.host.mgmt = (s.arrived.mgmtStore (frameOff body) (frameVal body)).1 ∧
    { t with host := (s.arrived.mgmtStore (frameOff body) (frameVal body)).2.host }
      = (s.arrived.mgmtStore (frameOff body) (frameVal body)).2) ∧
  (∀ (s : State) addr bytes, s.answers addr = true → bytes.head? ≠ some 0x57 ∨ bytes.length ≠ 9 → ∃ t,
    exec (.mgmtWrite addr bytes) s = .next t ∧ t.host.mgmt = mgFrame ∧ t.mem = s.arrived.badFrame.mem ∧ t.regs = s.arrived.badFrame.regs) ∧
  (∀ (s : State) off val, alwaysOn off = false → s.up domMgt = false → (s.mgmtStore off val).1 = mgDown ∧
    (s.mgmtStore off val).2.mem = s.mem ∧ s.mgmtFetch off = (0xDEAD0005, mgDown, s)) ∧
  (∀ (s : State) addr body, s.answers addr = true → body.length = 4 →
    (s.arrived.holdsRead (frameOff body) && s.arrived.up domMgt) = false →
    exec (.mgmtRead addr (0x52 :: body)) s = .next ((s.arrived.mgmtFetch (frameOff body)).2.2.send
      (.mgmtData (s.arrived.mgmtFetch (frameOff body)).1 (s.arrived.mgmtFetch (frameOff body)).2.1))) ∧
  (∀ (s : State) addr body, s.answers addr = true → body.length = 4 →
    (s.arrived.holdsRead (frameOff body) && s.arrived.up domMgt) = true → ∃ t, exec (.mgmtRead addr (0x52 :: body)) s = .next t ∧
      t.host.waits = [.mgmt] ∧ t.out = s.arrived.out ∧ t.regs = s.arrived.regs) ∧
  (∀ (s : State) addr, s.answers addr = true →
    exec (.mgmtStatus addr [0x53]) s = .next (s.arrived.send (.mgmtStatus s.arrived.host.mgmt))) ∧
  (∀ (s : State) addr bytes, s.answers addr = true → bytes ≠ [0x53] → bytes.head? ≠ some 0x52 ∨ bytes.length ≠ 5 →
    exec (.mgmtRead addr bytes) s = .next (s.arrived.badFrame.send (.mgmtData 0 mgFrame)) ∧
    exec (.mgmtStatus addr bytes) s = .next (s.arrived.badFrame.send (.mgmtData 0 mgFrame))) ∧
  (∀ (s : State), s.mgmtAnswers = true → exec .sclTimeout s = .next (s.raiseBit Reg.mgtSticky 0)) ∧
  (∀ (s : State) addr body, s.answers addr = true → body.length = 4 → exec (.stretchTimeout false addr (0x52 :: body)) s = .next (
    (((s.arrived.mgmtFetch (frameOff body)).2.2).send (.mgmtData 0 mgTimeout)).raiseBit Reg.mgtSticky 2)) ∧
  (∀ (s : State) addr body, s.answers addr = true → body.length = 8 → ∃ t : State, t.host.mgmt
      = (s.arrived.mgmtStore (frameOff body) (frameVal body)).1 ∧ t.regs = (s.arrived.mgmtStore (frameOff body) (frameVal body)).2.regs ∧
    exec (.stretchTimeout true addr (0x57 :: body)) s = .next ((t.send .mgmtNack).raiseBit Reg.mgtSticky 2))

/-- eMRAM access (R45): a read returns the word and advances WORD; a write to an idle, unlocked tile starts programming and advances
WORD; its end stores the word verified, clears BUSY and lets waiting reads of NVM_STATUS return, or leaves a free word with
VERIFY; a read of NVM_STATUS meanwhile waits. The certificate, the roster and the coefficient store are read through their
address registers, which advance.
QSPI (R46): a GO with no command running, at most 256 bytes and the port not owned by boot sends the command with its fields and
shows BUSY; a refused one sends nothing, shows REFUSED and counts; the rise of CS_N ends it, with the bytes read in the
buffer and those beyond LEN as they were.
Of these forms it is stated that they complete, under the conditions of their clauses alone: nvmDataRead, nvmDataWrite,
nvmWriteDone, nvmStatusRead, certRead, rstDataRead, storeRead, qspiGo, qspiDone. -/
def Obligations.NonVolatileAccess : Prop :=
  (∀ (s : State) p, s.reaches p Reg.mgtNvmData = true →
    exec (.nvmDataRead p) s = .next (s.readNvmData.2.2.reply p s.readNvmData.1 s.readNvmData.2.1)) ∧
  (∀ (s : State), s.up (domTile (s.fld Reg.mgtNvmAddr 19 18)) = true →
    s.nvmEccAt (s.fld Reg.mgtNvmAddr 19 18) (s.fld Reg.mgtNvmAddr 17 0) = .good →
    ∃ t, s.readNvmData = (s.nvmWord (s.fld Reg.mgtNvmAddr 19 18) (s.fld Reg.mgtNvmAddr 17 0), mgOk, t) ∧
      t.fld Reg.mgtNvmAddr 17 0 = (s.fld Reg.mgtNvmAddr 17 0 + 1) % 2 ^ 18 ∧ t.fld Reg.mgtNvmAddr 19 18 = s.fld Reg.mgtNvmAddr 19 18 ∧
      t.nvm = s.nvm) ∧
  (∀ (s : State) p val, s.reaches p Reg.mgtNvmData = true → exec (.nvmDataWrite p val) s = .next ((s.writeNvmData val).noted p mgOk)) ∧
  (∀ (s : State) p val t w, s.reaches p Reg.mgtNvmData = true → s.fld Reg.mgtNvmAddr 19 18 = t → s.fld Reg.mgtNvmAddr 17 0 = w →
    s.up (domTile t) = true → (w < 0x30000 ∨ s.otpLock 2 = false) → s.storing t = false → s.host.nvm = none →
    ∃ u : State, exec (.nvmDataWrite p val) s = .next (u.noted p mgOk) ∧ u.host.nvm = some (t, w, val) ∧ u.flag Reg.mgtNvmStatus 31 = true ∧
      u.fld Reg.mgtNvmAddr 17 0 = (w + 1) % 2 ^ 18 ∧ u.nvm = s.nvm) ∧
  (∀ (s : State) t w v, s.host.nvm = some (t, w, v) → s.host.later = false → s.host.waits = [] → s.jrn.wait = [] → t < 4 → w < 2 ^ 18 →
    ∃ u : State, exec (.nvmWriteDone true) s = .next u ∧ u.nvmWord t w = v ∧ u.nvmEccAt t w = .good ∧ u.host.nvm = none ∧
      u.flag Reg.mgtNvmStatus 31 = false ∧ u.fld Reg.mgtNvmStatus 3 0 = 0 ∧ u.mem = s.mem) ∧
  (∀ (s : State) t w v, s.host.nvm = some (t, w, v) → s.host.later = false → s.host.waits = [] → s.jrn.wait = [] → t < 4 → w < 2 ^ 18 →
    ∃ u : State, exec (.nvmWriteDone false) s = .next u ∧ u.nvmWord t w = Config.freeWord s.free ∧ u.host.nvm = none ∧
      u.fld Reg.mgtNvmStatus 3 0 = 3 ∧ u.free = s.free + 1) ∧
  (∀ (s : State), s.host.nvm = none → exec (.nvmWriteDone true) s = .next s) ∧
  (∀ (s : State), s.linkUp = true → s.d3 = false → s.host.waits = [] → s.up domMgt = true → s.host.nvm.isSome = true →
    ∃ t, exec (.nvmStatusRead .pcie) s = .next t ∧ t.host.waits = [.pcie] ∧ t.out = s.out ∧ t.regs = s.regs) ∧
  (∀ (s : State) p, s.reaches p Reg.mgtNvmStatus = true → s.host.nvm = none →
    exec (.nvmStatusRead p) s = .next (s.answer p Reg.mgtNvmStatus)) ∧
  (∀ (s : State) p, s.reaches p Reg.secCertData = true →
    exec (.certRead p) s = .next (s.readCert.2.2.reply p s.readCert.1 s.readCert.2.1)) ∧
  (∀ (s : State) p, s.reaches p Reg.argRstData = true →
    exec (.rstDataRead p) s = .next (s.readRoster.2.2.reply p s.readRoster.1 s.readRoster.2.1)) ∧
  (∀ (s : State) p w, w < 2 → s.reaches p (Reg.linStData w) = true → exec (.storeRead p w) s = .next (
    (s.readStore w).2.2.reply p (s.readStore w).1 (if (s.readStore w).2.1 = true then mgEcc else mgOk))) ∧
  (∀ (s : State) p val, s.reaches p Reg.mgtQspiCmd = true → s.host.qspi = none → s.bootOwnsQspi = false →
    val.toNat / 256 % 512 ≤ 256 →
    ∃ t, exec (.qspiGo p val) s = .next t ∧ t.flag Reg.mgtQspiCmd 30 = true ∧ t.flag Reg.mgtQspiStatus 0 = false ∧
      t.host.qspi = some (val.toNat / 256 % 512, val.getLsbD 29) ∧
      ∃ bytes, t.out = .qspi (val.toNat % 256) (if val.getLsbD 27 then (s.reg Reg.mgtQspiAddr).toNat else 0) (val.toNat / 2 ^ 20 % 16)
        (val.toNat / 256 % 512) (val.getLsbD 29) (val.getLsbD 28) (val.getLsbD 27) bytes :: s.out) ∧
  (∀ (s : State) p val, s.reaches p Reg.mgtQspiCmd = true →
    (s.host.qspi.isSome = true ∨ 256 < val.toNat / 256 % 512) →
    ∃ u : State, u.flag Reg.mgtQspiStatus 0 = true ∧ u.out = s.out ∧ u.host = s.host ∧
      exec (.qspiGo p val) s = .next (((u.bump Reg.mgtCntBadw).raiseBit Reg.mgtSticky 4).noted p mgOk)) ∧
  (∀ (s : State) len data, s.host.qspi = some (len, false) → data.length = len → len ≤ 256 →
    ∃ t, exec (.qspiDone data) s = .next t ∧ t.flag Reg.mgtQspiCmd 30 = false ∧ t.host.qspi = none ∧
      (∀ i, i < 64 → 4 * i + 4 ≤ len → t.reg (Reg.mgtQspiBuf i) = leWord ((data.drop (4 * i)).take 4)) ∧
      (∀ i, i < 64 → len ≤ 4 * i → t.reg (Reg.mgtQspiBuf i) = s.reg (Reg.mgtQspiBuf i)) ∧ t.mem = s.mem) ∧
  (∀ (s : State) len data, s.host.qspi = some (len, true) →
    ∃ t, exec (.qspiDone data) s = .next t ∧ t.flag Reg.mgtQspiCmd 30 = false ∧ t.host.qspi = none ∧
      ∀ off, off ≠ Reg.mgtQspiCmd → t.reg off = s.reg off)

/-! ## Clocks, links, reset, boot and identity -/

/-- Clock and link events (R25, R427-R429, R434, R437, R439, R467): a valid reference is reported with its frequency, a lost one counted
and the conversion clocks of up tiles unlocked; PLL and crossing errors set their sticky bits; a level error takes down
the domains of the lower rail; a trained link shows width and speed; a link reset leaves HST's sticky bits and counters
and every other block as they were but for LINK_DOWN.
Of these forms it is stated that they complete, under the conditions of their clauses alone: refclkValid, refLoss, pcieRefLoss,
pllUnlock, xingErr, level, pcieLinkUp, linkReset, aerFatalError. -/
def Obligations.ClocksAndLinks : Prop :=
  (∀ (s : State) q, s.flag Reg.clkRefStatus 31 = false → s.flag Reg.clkRefCtl 0 = true → q < 3 →
    ∃ t, exec (.refclkValid q) s = .next t ∧ t.flag Reg.clkRefStatus 31 = true ∧ t.fld Reg.clkRefStatus 29 28 = q ∧
      (∀ off, off ≠ Reg.clkRefStatus → t.reg off = s.reg off) ∧ { t with regs := s.regs } = s) ∧
  (∀ (s : State) q, s.flag Reg.clkRefStatus 31 = false → s.flag Reg.clkRefCtl 0 = false → q ≠ s.fld Reg.clkRefCtl 2 1 →
    exec (.refclkValid q) s = .next s) ∧
  (∀ (s : State), s.flag Reg.clkRefStatus 31 = true → (∀ n, n < 4 → s.up (domTile n) = false) →
    ∃ t, exec .refLoss s = .next t ∧ t.flag Reg.clkRefStatus 31 = false ∧ t.flag Reg.clkSticky 0 = true ∧
      t.fld Reg.clkRefLosses 31 0 = min (s.fld Reg.clkRefLosses 31 0 + 1) (2 ^ 32 - 1) ∧ t.mem = s.mem) ∧
  (∀ (s : State), s.up domHost = false → exec .pcieRefLoss s
    = .next ((s.setFlag Reg.clkRefStatus 30 false).raiseBit Reg.clkSticky 5)) ∧
  (∀ (s : State), s.flag Reg.clkRefStatus 31 = true → s.up domTime = true → exec (.pllUnlock 0) s = .next (s.raiseBit Reg.clkSticky 2)) ∧
  (∀ (s : State), s.up domCob = true → exec (.pllUnlock 1) s = .next (s.raiseBit Reg.clkSticky 3)) ∧
  (∀ (s : State) q, s.flag Reg.clkRefStatus 31 = true → q ∈ [2, 3, 4] → s.up (if q = 4 then domFh else domRing) = true →
    exec (.pllUnlock q) s = .next (s.raiseBit Reg.clkSticky 4)) ∧
  (∀ (s : State) i, i < 22 → ∃ t, exec (.xingErr i) s = .next t ∧ t.fld Reg.clkXing 31 24 = i ∧
    t.fld Reg.clkXing 15 0 = min (s.fld Reg.clkXing 15 0 + 1) 65535 ∧ t.flag Reg.clkSticky 6 = true ∧ t.mem = s.mem) ∧
  (∀ (s : State) b l, b < 3 → l ∈ railsOfBoundary b → ∃ u : State, u.reg Reg.clkLevelLast = BitVec.ofNat 32 b ∧
    u.flag Reg.clkSticky 7 = true ∧ u.mem = s.mem ∧ exec (.level b l) s = .next ((railDoms l).foldl State.pgLoss u)) ∧
  (∀ (s : State) w v, s.up domHost = true → w ∈ [1, 2, 4] → 1 ≤ v → v ≤ 5 →
    ∃ t, exec (.pcieLinkUp w v) s = .next t ∧ t.reg Reg.hstLink = BitVec.ofNat 32 (w * 16 + v) ∧ t.linkUp = true ∧
      ∀ off, off ≠ Reg.hstLink → off ≠ Reg.clkRefStatus → t.reg off = s.reg off) ∧
  (∀ (s : State), s.up domHost = true → ∃ t, exec .linkReset s = .next t ∧ t.flag Reg.hstSticky 3 = true ∧ t.reg Reg.hstLink = 0 ∧
    t.msixEn = false ∧ t.linkUp = false ∧ t.fld Reg.hstBadAccess 15 0 = s.fld Reg.hstBadAccess 15 0 ∧
    (∀ off, (off < 0x110000 ∨ 0x120000 ≤ off) → t.reg off = s.reg off) ∧ t.mem = s.mem ∧ t.taq = s.taq) ∧
  (∀ (s : State), s.up domHost = true → exec .aerFatalError s = .next (s.raiseBit Reg.hstSticky 1))

/-- Resets and the start of boot (R466, R468, R469): a power-on or pin reset leaves the machine at reset with its cause, eMRAM kept and
memory empty, but that a word whose programming it cuts off has a free part of its bits blown; release samples BOOTSEL and ADDR; sensing the OTP starts the machine with the votes of WAKE_SET set and a boot
due; a device reset needs its key and waits for an OTP word in progress.
Of these forms it is stated that they complete, under the conditions of their clauses alone: powerOnReset, pinReset,
resetRelease, deviceReset, otpSense. -/
def Obligations.ResetsAndRelease : Prop :=
  (∀ (s : State) c e, (e = .powerOnReset ∧ c = 1 ∨ e = .pinReset ∧ c = 2) → s.jrn.run = [] → s.sec.prog = none →
    ∃ t, exec e s = .next t ∧ t.reg Reg.glbResetCause = BitVec.ofNat 32 c ∧ t.mem = [] ∧ t.boot = .held ∧ t.taq = [] ∧
      (∀ off, off ≠ Reg.glbResetCause → t.reg off = resetOf off) ∧ (∀ k, k < 5 * 2 ^ 18 → sget emptyWord t.nvm k = sget emptyWord s.nvm k) ∧
      t.pending = s.pending) ∧
  (∀ (s : State) c e w v, (e = .powerOnReset ∧ c = 1 ∨ e = .pinReset ∧ c = 2) → s.jrn.run = [] → s.sec.prog = some (w, v) → w < 2048 →
    ∃ t, exec e s = .next t ∧ t.reg Reg.glbResetCause = BitVec.ofNat 32 c ∧ t.mem = [] ∧ t.boot = .held ∧ t.sec.prog = none ∧
      sget emptyWord t.nvm (otpKey w) = sget emptyWord s.nvm (otpKey w) ||| (v &&& Config.freeWord s.free)) ∧
  (∀ (s : State) b a, s.boot = .held → ∃ t, exec (.resetRelease b a) s = .next t ∧ t.boot = .released ∧ t.pins.bootSel = b % 4 ∧
    t.pins.addr = a % 32 ∧ { t with boot := s.boot, pins := s.pins } = s) ∧
  (∀ (s : State) b a, s.boot ≠ .held → exec (.resetRelease b a) s = .next s) ∧
  (∀ (s : State), (s.boot = .released ∨ s.boot = .sensing) → ∃ u : State, u.boot = .running ∧ u.sec.bootDue = true ∧
    (∀ d, 1 ≤ d → d ≤ 11 → s.flag Reg.pwrWakeSet d = true → bit (u.vote d) 1 = true) ∧
    (∀ w, w < 2048 → sget (fun _ => Ecc.good) s.nvmEcc (otpKey w) = .good → u.otpShadow w = sget emptyWord s.nvm (otpKey w)) ∧
    exec .otpSense s = .next u.powerEval) ∧
  (∀ (s : State), s.boot = .running → exec .otpSense s = .next s) ∧
  (∀ (s : State) p val b, s.reaches p Reg.glbResetCtl = true → (val.getLsbD 31 = false ∨ val.toNat % 65536 ≠ 0xC0DE) →
    exec (.deviceReset p val b) s = .next (s.noted p mgOk)) ∧
  (∀ (s : State) p val b, s.reaches p Reg.glbResetCtl = true → val.getLsbD 31 = true → val.toNat % 65536 = 0xC0DE →
    s.sec.prog = none → exec (.deviceReset p val b) s = .next ((s.deviceReset b).noted p mgOk)) ∧
  (∀ (s : State) p val b, s.reaches p Reg.glbResetCtl = true → val.getLsbD 31 = true → val.toNat % 65536 = 0xC0DE →
    s.sec.prog.isSome = true → ∃ t, exec (.deviceReset p val b) s = .next t ∧ t.sec.resetDue = some b ∧ t.regs = s.regs ∧ t.mem = s.mem)

/-- Verification, boot and identity (R470-R482): VERIFY, ATTEST, SVN_COMMIT and RB_SEND run one at a time and a second is refused; a
verification ends with the first check that fails, its code shown, or with the covered regions verified; a slot that is too
short is rejected; the report and its signature land in SEC.BUF; the derived key shows ID_READY; an OTP word that has been
programmed only gains bits.
Of these forms it is stated that they complete, under the conditions of their clauses alone: verify, attest, svnCommit, rbSend,
verifyDone, bootLoadDone, attestDone, idReady, otpProgramDone, otpProgram. -/
def Obligations.SecurityJobs : Prop :=
  (∀ (s : State) p, s.reaches p Reg.secCtl = true → s.secBusy = false → s.otpLock 5 = false →
    exec (.verify p 0) s = .next ((s.startVerify 1).noted p mgOk)) ∧
  (∀ (s : State) p, s.reaches p Reg.secCtl = true → s.secBusy = true →
    exec (.verify p 0) s = .next (s.secRefuse.noted p mgOk) ∧ exec (.attest p 0) s = .next (s.secRefuse.noted p mgOk) ∧
    exec (.svnCommit p 0) s = .next (s.secRefuse.noted p mgOk) ∧ exec (.rbSend p 0) s = .next (s.secRefuse.noted p mgOk)) ∧
  (∀ (s : State) p, s.reaches p Reg.secCtl = true → s.secBusy = false → s.flag Reg.secStatus 30 = true →
    ∃ t, exec (.attest p 0) s = .next t ∧ t.sec.job = 2 ∧ t.flag Reg.secStatus 31 = true ∧ t.mem = s.mem) ∧
  (∀ (s : State) p, s.reaches p Reg.secCtl = true → s.secBusy = false → s.sec.ok = true →
    exec (.svnCommit p 0) s = .next ((s.blowSvn (s.fld Reg.secStatus 23 16 - s.otpSvn)).noted p mgOk)) ∧
  (∀ (s : State) p, s.reaches p Reg.secCtl = true → s.secBusy = false → exec (.rbSend p 0) s = .next (s.ringSend.noted p mgOk)) ∧
  (∀ (s : State) sg, s.up domCob = true → s.sec.job = 1 → s.verifyCode sg = 0 → exec (.verifyDone sg) s = .next (s.verifyReads sg).endJob.imageOk) ∧
  (∀ (s : State) sg, s.up domCob = true → s.sec.job = 1 → s.verifyCode sg ≠ 0 →
    ∃ t, exec (.verifyDone sg) s = .next t ∧ t.fld Reg.secStatus 3 0 = s.verifyCode sg ∧ t.flag Reg.secSticky 1 = true ∧
      t.reg Reg.tlpImVerified = s.reg Reg.tlpImVerified ∧ t.sec.job = 0 ∧ t.mem = (s.verifyReads sg).mem) ∧
  (∀ (s : State) sg, (s.verifyCode sg = 4 ↔ s.formatOk = true ∧ s.keyOk = true ∧ s.otpSvn ≤ bits (s.hdr 1) 15 8 ∧ sg = false)) ∧
  (∀ (s : State) data, s.up domCob = true → s.bootState = 1 → s.secBusy = false → (s.sec.source = 1 ∨ s.sec.source = 2) → data.length < 512 →
    exec (.bootLoadDone data) s = .next (s.imageBad 6)) ∧
  (∀ (s : State) sg, s.up domCob = true → s.sec.job = 2 → ∃ t, exec (.attestDone sg) s = .next t ∧ t.sec.job = 0 ∧
    t.flag Reg.secStatus 31 = false ∧ (∀ i, i < 64 → i < s.report.length → t.rawWord (secBuf + 4 * i) = s.report.getD i 0) ∧
    (∀ i, i < min sg.length 49856 → t.byte (secBuf + 256 + i) = sg.getD i 0)) ∧
  (∀ (s : State) pk, s.up domCob = true → s.boot = .running → (∃ w, w < 8 ∧ s.otpShadow w ≠ 0) →
    ∃ t, exec (.idReady pk) s = .next t ∧ t.flag Reg.secStatus 30 = true ∧ ∀ j, j < 16 → t.reg (Reg.secIdPk j) = pk.getD j 0) ∧
  (∀ (s : State) pk, s.up domCob = true → s.boot = .running → (∀ w, w < 8 → s.otpShadow w = 0) →
    exec (.idReady pk) s = .next (s.raiseBit Reg.secSticky 2)) ∧
  (∀ (s : State) w v, s.sec.prog = some (w, v) → s.sec.resetDue = none →
    ∃ u : State, u.sec.prog = none ∧ sget emptyWord u.nvm (otpKey w) = sget emptyWord s.nvm (otpKey w) ||| v ∧
      exec (.otpProgramDone true) s = .next (u.reshadow w)) ∧
  (∀ (s : State) w v, s.sec.prog = some (w, v) → s.sec.resetDue = none → s.up domCob = false →
    ∃ u : State, u.sec.prog = none ∧ sget emptyWord u.nvm (otpKey w) = sget emptyWord s.nvm (otpKey w) ||| (v &&& Config.freeWord s.free) ∧
      exec (.otpProgramDone false) s = .next (u.reshadow w)) ∧
  (∀ (s : State), s.sec.prog = none → exec (.otpProgramDone true) s = .next s) ∧
  (∀ (s : State) p w, s.reaches p Reg.secOtpCtl = true → s.fld Reg.secOtpAddr 10 0 = w → s.otpAllowed w = true → s.sec.prog = none →
    ∃ t, exec (.otpProgram p 0x4F54) s = .next t ∧ t.sec.prog = some (w, s.reg Reg.secOtpData) ∧
      { t with sec := s.sec } = s.noted p mgOk) ∧
  (∀ (s : State) p, s.reaches p Reg.secOtpCtl = true →
    (s.otpAllowed (s.fld Reg.secOtpAddr 10 0) = false ∨ s.sec.prog.isSome = true) →
    exec (.otpProgram p 0x4F54) s = .next (s.secRefuse.noted p mgOk)) ∧
  (∀ (s : State) p val, s.reaches p Reg.secOtpCtl = true → val.toNat % 65536 ≠ 0x4F54 → exec (.otpProgram p val) s = .next (s.noted p mgOk))

/-! ## Air timing and path states -/

/-- Air frame (R145, R146, R149, R150, R166): the frame that begins has the next number and starts 10 ms after the last, with the duty
counts at 0 and their mute ended; slot and symbol boundaries of an enabled carrier do what waits for them, and at a
silent slot boundary the pattern entry alone is read; an alignment
waits for a start in the future, is refused otherwise or while a pair is in use, and takes effect at its start; a PERIOD not
valid for the MU written with it changes neither.
Samples (R149, R170, R189; how they are taken is the model's choice, log 100): with the paths powered, a nanosecond takes the path sample
that has become due and no sample twice.
Of these forms it is stated that they complete, under the conditions of their clauses alone: airFrameBoundary, slotBoundary,
symbolBoundary, align, alignmentStart, airCfgWrite. -/
def Obligations.AirFrame : Prop :=
  (∀ (s : State), s.up domCob = true → s.aligned = true → 10000000 ≤ (s.tns - s.reg Reg.tlpAirFrameTns).toNat →
    ∃ u : State, u.reg Reg.tlpAirAfc = s.reg Reg.tlpAirAfc + 1 ∧ u.reg Reg.tlpAirFrameTns = s.reg Reg.tlpAirFrameTns + 10000000 ∧
      (∀ k, k < 8 → u.fld (Reg.tlpDuty k) 15 0 = 0 ∧ u.flag (Reg.tlpDuty k) 31 = false) ∧
      (∀ k n, k < 8 → s.dutyMuted k = true → n ∈ pathsOf k → u.flag (Reg.tlpPs n) 21 = false) ∧ u.mem = s.mem ∧
      exec .airFrameBoundary s = .next (
        let t := if u.silentAt u.frameStart then u else ((u.landFrame.landIdle).clearFreqs).setEv 172
        if s.up domRing then t.sendStatus else t)) ∧
  (∀ (s : State), (s.tns - s.reg Reg.tlpAirFrameTns).toNat < 10000000 → (s.season ≠ 2 ∨ s.up domRing = false) →
    exec .airFrameBoundary s = .next s) ∧
  (∀ (s : State), s.up domCob = false → s.season = 2 → s.up domRing = true → exec .airFrameBoundary s = .next s.sendStatus) ∧
  (∀ (s : State) c, c < 2 → s.up domCob = true → s.carOn c = true → s.up domRing = false →
    s.silentAt (s.frameStart + symStart (s.mu c) (14 * s.slotNow c)) = false →
    exec (.slotBoundary c) s = .next (s.slotStart c)) ∧
  (∀ (s : State) c, c < 2 → s.up domCob = true → s.carOn c = true →
    s.silentAt (s.frameStart + symStart (s.mu c) (14 * s.slotNow c)) = true →
    exec (.slotBoundary c) s = .next (s.readPattern c)) ∧
  (∀ (s : State) c, (s.readPattern c).reg (inPat c) = s.reg (Reg.tlpAirPattern c (s.patEntry c)) ∧
    ∀ off, off ≠ inPat c → off ≠ inPatPrev c → (s.readPattern c).reg off = s.reg off) ∧
  (∀ (s : State) c, s.carOn c = false → exec (.slotBoundary c) s = .next s ∧ exec (.symbolBoundary c) s = .next s) ∧
  (∀ (s : State) off, (s.land off).inForce off = s.reg off ∧ ∀ o, o ≠ off → (s.land off).inForce o = s.inForce o) ∧
  (∀ (s : State) c, c < 2 → s.up domCob = true → s.carOn c = true →
    exec (.symbolBoundary c) s = .next (s.symBoundary c)) ∧
  (∀ (s : State) (m : PathMeas), m.n < 128 → (s.tally m).fld (Reg.rxdClip0 m.n) 15 0 = min (s.fld (Reg.rxdClip0 m.n) 15 0 + m.rxAdc) 65535 ∧
    (s.tally m).fld (Reg.txdClip0 m.n) 15 0 = min (s.fld (Reg.txdClip0 m.n) 15 0 + m.txSum) 65535 ∧ (s.tally m).mem = s.mem) ∧
  (∀ (s : State) p val, s.reaches p Reg.tlpAirCtl = true → val.getLsbD 0 = true → future (s.reg Reg.tlpAirNextTns) s.tns = true →
    exec (.align p val) s = .next (State.noted { s with air := { s.air with align := some (s.reg Reg.tlpAirNextTns, s.reg Reg.tlpAirNextAfc) } } p mgOk)) ∧
  (∀ (s : State) p val, s.reaches p Reg.tlpAirCtl = true → val.getLsbD 0 = true → future (s.reg Reg.tlpAirNextTns) s.tns = false →
    exec (.align p val) s = .next ((s.raiseBit Reg.tlpAirSticky 26).noted p mgOk)) ∧
  (∀ (s : State) t afc, s.up domCob = true → s.air.align = some (t, afc) → future t s.tns = false →
    (∀ n, n < 128 → s.ps n ∉ [psTx, psRx, psFdx, psCal]) →
    ∃ u : State, u.air.align = none ∧ u.flag Reg.tlpAirCtl 1 = true ∧
      u.reg Reg.tlpAirAfc = afc + BitVec.ofNat 32 ((s.tns - t).toNat / 10000000) ∧
      u.reg Reg.tlpAirFrameTns = t + BitVec.ofNat 32 ((s.tns - t).toNat / 10000000 * 10000000) ∧ u.mem = s.mem ∧
      exec .alignmentStart s = .next ((((u.landFrame).landIdle).clearFreqs).dutyFrame.frameEvents)) ∧
  (∀ (s : State) t afc n, s.up domCob = true → s.air.align = some (t, afc) → future t s.tns = false → n < 128 →
    s.ps n ∈ [psTx, psRx, psFdx, psCal] →
    ∃ u : State, u.air.align = none ∧ u.regs = s.regs ∧ exec .alignmentStart s = .next (u.raiseBit Reg.tlpAirSticky 26)) ∧
  (∀ (s : State) p c val, c < 2 → s.reaches p (Reg.tlpAirCfg c) = true →
    periodOk ((s.writeFields (Reg.tlpAirCfg c) val 0xFFFFFFFF).fld (Reg.tlpAirCfg c) 6 0)
      ((s.writeFields (Reg.tlpAirCfg c) val 0xFFFFFFFF).fld (Reg.tlpAirCfg c) 25 24) = true →
    exec (.airCfgWrite p c val) s = .next ((s.writeFields (Reg.tlpAirCfg c) val 0xFFFFFFFF).noted p mgOk)) ∧
  (∀ (s : State) p c val, c < 2 → s.reaches p (Reg.tlpAirCfg c) = true →
    periodOk ((s.writeFields (Reg.tlpAirCfg c) val 0xFFFFFFFF).fld (Reg.tlpAirCfg c) 6 0)
      ((s.writeFields (Reg.tlpAirCfg c) val 0xFFFFFFFF).fld (Reg.tlpAirCfg c) 25 24) = false →
    ∃ t, exec (.airCfgWrite p c val) s = .next t ∧ t.fld (Reg.tlpAirCfg c) 6 0 = s.fld (Reg.tlpAirCfg c) 6 0 ∧
      t.fld (Reg.tlpAirCfg c) 25 24 = s.fld (Reg.tlpAirCfg c) 25 24 ∧ ∀ off, off ≠ Reg.tlpAirCfg c → t.reg off = s.reg off) ∧
  (∀ (s : State), s.up domCrm = true → s.gridNow ≠ s.smp.last → s.samples = s.pathSample s.gridNow ∧ s.samples.smp.last = s.gridNow) ∧
  (∀ (s : State), s.up domCrm = false ∨ s.gridNow = s.smp.last → s.samples = s)

/-- Transitions of pairs (R155-R161, R166): a row that ends leaves the pair in its target, STBY to WARM not before the synthesiser locks and the
path has power, a row with a drain sequence not before its timed point;
chains go by the rows to their target; a waiting PSTATE starts once its pairs are free; a deferred transmit row starts when
every synthesiser has locked in time, is suppressed with its sticky bits at its limit, and is denied under the duty mute;
the duty limit mutes a group.
Of these forms it is stated that they complete, under the conditions of their clauses alone: transitionDone, pstateStart,
drainSequenceStep, deferredTxStart, lateUnlocked, dutyOverrun. -/
def Obligations.PairTransitions : Prop :=
  (∀ (s : State) l, exec (.transitionDone l) s = .next (s.endRows l).powerEval) ∧
  (∀ (s : State) n h a mid, n < 128 → h < 8 → alook s.air.pairs n = some ⟨[h], a, mid⟩ → s.run? a = none → s.cal.runs = [] →
    (timedRow (s.ps n) h = true → mid = true) →
    (s.ps n ≠ psStby ∨ h ≠ psWarm ∨ (s.loOk (groupOf n) = true ∧ s.powered n = true)) →
    (s.endRow n).ps n = h ∧ alook (s.endRow n).air.pairs n = none ∧ (s.endRow n).mem = s.mem) ∧
  (∀ (s : State) n p l, n < 128 → alook s.air.pairs n = some p → p.chain = psWarm :: l → s.ps n = psStby →
    (s.loOk (groupOf n) = false ∨ p.mid = false) → s.endRow n = s) ∧
  (∀ (s : State) n p l, n < 128 → alook s.air.pairs n = some p → p.chain = psStby :: l → s.ps n = psWarm → p.mid = false →
    s.endRow n = s) ∧
  (∀ st tgt, st < 8 → tgt < 8 → tgt ≠ psFault → st ≠ tgt → (chainOf 6 st tgt).getLast? = some tgt ∧ (chainOf 6 st tgt).length ≤ 5) ∧
  (∀ (s : State) n w, s.air.waits.find? (fun w => w.pairs.contains n) = some w →
    (∀ m ∈ w.pairs, s.moving m = false ∧ s.deferredPair m = false) →
    exec (.pstateStart n) s = .next (
      let u : State := { s with air := { s.air with waits := s.air.waits.filter (fun x => x.id != w.id) } }
      let r := u.launch w.id w.target w.pairs w.owner w.due true
      (r.1.tellLater w.owner w.due r.2).pruneRuns)) ∧
  (∀ (s : State) id tgt pairs o due w, (pairs.findSome? (fun m => s.psRefusal m tgt)) = none →
    (∀ m ∈ pairs, s.ps m = tgt) → s.launch id tgt pairs o due w = (s, {})) ∧
  (∀ (s : State) n p l, alook s.air.pairs n = some p → p.chain = psWarm :: l → s.ps n = psStby →
    exec (.drainSequenceStep n) s = .next ((s.setPair n { p with mid := true }).operatingCodes n)) ∧
  (∀ (s : State) n p l, n < 128 → alook s.air.pairs n = some p → p.chain = psStby :: l → s.ps n = psWarm →
    (∀ m, m ∈ pathsOf (groupOf n) → m ≠ n → s.drained m = true ∨ (aboveStby (s.ps m) = false ∧ s.rising m = false)) →
    ∃ t, exec (.drainSequenceStep n) s = .next t ∧ bits t.pins.drain (2 * groupOf n + 1) (2 * groupOf n) = 0 ∧ t.regs = s.regs) ∧
  (∀ (s : State) n p l m, n < 128 → alook s.air.pairs n = some p → p.chain = psStby :: l → s.ps n = psWarm →
    m ∈ pathsOf (groupOf n) → m ≠ n → s.drained m = false → (aboveStby (s.ps m) = true ∨ s.rising m = true) →
    exec (.drainSequenceStep n) s = .next (s.setPair n { p with mid := true })) ∧
  (∀ (s : State) n r g, s.air.runs.find? (fun r => r.gate.isSome && r.need.contains n) = some r → r.gate = some g →
    (groupsIn r.named).all s.loOk = true → (s.nowU : Int) ≤ g.limit → (groupsIn r.named).any s.dutyMuted = false →
    exec (.deferredTxStart n) s = .next ((r.need.foldl State.startRow
      ((s.tell r (s.judged g.due).1 s.tns (s.judged g.due).2).putRun { r with told := true, passed := true, gate := none })).pruneRuns)) ∧
  (∀ (s : State) n r g, s.air.runs.find? (fun r => r.gate.isSome && r.need.contains n) = some r → r.gate = some g →
    (groupsIn r.named).all s.loOk = false → g.limit ≤ (s.nowU : Int) →
    exec (.lateUnlocked n) s = .next ((((s.suppress (groupsIn r.named) g).tell r ccLateUnlocked (BitVec.ofInt 32 (g.limit / 1536)) 0).stopRun
      { r with told := true }).pruneRuns)) ∧
  (∀ (s : State) gs g k, k ∈ gs → k < 8 → s.loOk k = false → s.up (domTile 0) = true →
    (s.suppress gs g).flag Reg.losSticky (16 + k) = true ∧ alook (s.suppress gs g).air.supp k = some g.slotEnd) ∧
  (∀ (s : State) k, k < 8 → s.up domCob = true → 10 * s.fld (Reg.tlpDuty k) 25 16 ≤ s.fld (Reg.tlpDuty k) 15 0 →
    ∃ t, exec (.dutyOverrun k) s = .next t ∧ t.dutyMuted k = true ∧ t.flag Reg.tlpAirSticky (8 + k) = true ∧
      ∀ n, n < 128 → t.flag (Reg.tlpPs n) 21 = (s.flag (Reg.tlpPs n) 21 || (groupOf n == k && emits (s.ps n)))) ∧
  (∀ (s : State) k, s.fld (Reg.tlpDuty k) 15 0 < 10 * s.fld (Reg.tlpDuty k) 25 16 → exec (.dutyOverrun k) s = .next s)

/-- Alarms and interlocks (R162-R164, R183, R192, R316, R489, R500): an accepted PA alarm forces every pair of its group into FAULT with
its cause and drops DRAIN_EN; a clamped or unbiased group with DRAIN_EN asserted forces its pairs above STBY into FAULT
with cause 3; detectors set their sticky bits; the TAP takes the instructions of its table, and TRST_N low resets it.
Thermal management (R456-R465): a pass over the 64 sensors judges regions, throttle, shutdown, gradient and bands; throttle follows
the regions and its start sets the sticky bit; shutdown begins at its level, faults every pair and opens both rings, and
ends only when every region is below the level less the hysteresis; thresholds that break their order are not taken.
Of these forms it is stated that they complete, under the conditions of their clauses alone: paAlarm, paAlarmRelease, otClamp,
otRelease, biasRailLoss, biasRailGood, currentLimit, inputOverload, tapInstruction, thermalPass. -/
def Obligations.AlarmsAndThermal : Prop :=
  (∀ (s : State) i, i < 16 → s.up domCob = true → ∃ u : State, u.regs = s.regs ∧ bit u.pins.paAlarmN i = false ∧
    exec (.paAlarm i) s = .next (u.alarm (i / 2) (1 + i % 2))) ∧
  (∀ (s : State) k cause, k < 8 → bits (s.alarm k cause).pins.drain (2 * k + 1) (2 * k) = 0 ∧ ∃ u : State,
    s.alarm k cause = ((u.forceFault (pathsOf k) cause).setDrain k false).raiseBit Reg.tlpAirSticky k) ∧
  (∀ (s : State) l cause n, n ∈ l → (∀ m ∈ l, m < 128) → cause < 16 → s.cal.runs = [] → (s.forceFault l cause).ps n = psFault ∧
    (s.forceFault l cause).fld (Reg.tlpPs n) 31 28 = cause) ∧
  (∀ (s : State) l cause n, n ∉ l → n < 128 → (∀ m ∈ l, m < 128) → s.cal.runs = [] → (s.forceFault l cause).ps n = s.ps n) ∧
  (∀ (s : State) i, i < 16 → ∃ t, exec (.paAlarmRelease i) s = .next t ∧ bit t.pins.paAlarmN i = true ∧ { t with pins := s.pins } = s ∧
    ∀ j, j < 16 → j ≠ i → bit t.pins.paAlarmN j = bit s.pins.paAlarmN j) ∧
  (∀ (s : State) k, k < 8 → s.up domMgt = true → ∃ u : State, u.flag Reg.bdaStatus (16 + k) = true ∧
    u.flag Reg.bdaSticky (8 + k) = true ∧ u.pins = s.pins ∧ u.air = s.air ∧ exec (.otClamp k) s = .next (u.interlock k)) ∧
  (∀ (s : State) k, bit s.pins.drain (2 * k) = false → s.interlock k = s) ∧
  (∀ (s : State) k, k < 8 → bit s.pins.drain (2 * k) = true → ∃ u : State, s.interlock k
    = (u.forceFault ((pathsOf k).filter (fun n => aboveStby (s.ps n))) 3).setDrain k false) ∧
  (∀ (s : State) k, k < 8 → s.up domMgt = true → ∃ t, exec (.otRelease k) s = .next t ∧ t.flag Reg.bdaStatus (16 + k) = false ∧
    (∀ off, off ≠ Reg.bdaStatus → t.reg off = s.reg off) ∧ { t with regs := s.regs } = s) ∧
  (∀ (s : State) r, r < 2 → ∃ u : State, bit u.pins.rails r = true ∧ u.regs = s.regs ∧ u.pins.drain = s.pins.drain ∧
    exec (.biasRailLoss r) s = .next ((List.range 8).foldl State.interlock u)) ∧
  (∀ (s : State) r, r < 2 → ∃ t, exec (.biasRailGood r) s = .next t ∧ bit t.pins.rails r = false ∧ { t with pins := s.pins } = s) ∧
  (∀ (s : State) n, n < 128 → s.up (domTile (tileOf n)) = true → s.flag (Reg.txaStatus n) 4 = true →
    exec (.currentLimit n) s = .next (s.raiseBit (Reg.txaSticky n) 1)) ∧
  (∀ (s : State) n, n < 128 → s.up (domTile (tileOf n)) = true → s.flag (Reg.rxaStatus n) 4 = true →
    exec (.inputOverload n) s = .next (s.raiseBit (Reg.rxaSticky n) 1)) ∧
  (∀ (s : State) n, s.flag (Reg.txaStatus n) 4 = false → exec (.currentLimit n) s = .next s) ∧
  (∀ (s : State) i, s.tapAccepts i = true → ∃ t, exec (.tapInstruction i true) s = .next t ∧ t.tap = i ∧ { t with tap := s.tap } = s) ∧
  (∀ (s : State) i, s.tapAccepts i = false → exec (.tapInstruction i true) s = .next s) ∧
  (∀ (s : State) i, ∃ t, exec (.tapInstruction i false) s = .next t ∧ t.tap = .bypass ∧ { t with tap := s.tap } = s) ∧
  (∀ (s : State) raw, raw.length = 64 → ∃ u : State,
    u = (List.range 9).foldl State.judgeRegion ((List.range 64).foldl (fun t i => t.senseOne s (fun j => (raw[j]?).getD 0) i) s) ∧
    exec (.thermalPass raw) s = .next (
      let v := u.setFlag Reg.thmStatus 29 ((List.range 9).any (fun j => u.flag (Reg.thmRegion j) 30))
      let w := v.setFlag Reg.thmStatus 27 ((List.range 9).any (fun j => u.flag (Reg.thmRegion j) 29))
      (((w.judgeThrottle).judgeShutdown).judgeGradient).thermalLand.powerEval)) ∧
  (∀ (s b : State) raw i, i < 64 → (s.senseOne b raw i).fld (Reg.thmTs i) 15 0 = unsgn 16 (raw i)) ∧
  (∀ (s b : State) raw i, i < 64 → s.thm.excl.contains i = false → s.fld (Reg.thmTs i) 27 24 < 7 →
    (s.senseOne b raw i).thm.excl.contains i = false) ∧
  (∀ (s : State) j, j < 9 → (s.judgeRegion j).flag (Reg.thmRegion j) 31 =
    ((regionSensors j).any (fun i => 3 ≤ (neighbours i).countP s.excluded) ||
      (s.thrOf Reg.thmThrThrot).1 ≤ maxOf ((regionSensors j).map s.counted) ||
      (s.flag (Reg.thmRegion j) 31 && (s.thrOf Reg.thmThrThrot).2 ≤ maxOf ((regionSensors j).map s.counted)))) ∧
  (∀ (s : State), s.judgeThrottle.flag Reg.thmStatus 30 = (List.range 9).any (fun j => s.flag (Reg.thmRegion j) 31)) ∧
  (∀ (s : State), s.flag Reg.thmStatus 31 = true →
    ((List.range 9).map (fun j => sgn 16 (s.fld (Reg.thmRegion j) 15 0))).all (fun t => t < (s.thrOf Reg.thmThrShut).2) = false →
    s.judgeShutdown = s) ∧
  (∀ (s : State), s.flag Reg.thmStatus 31 = false →
    (∃ j, j < 9 ∧ (s.thrOf Reg.thmThrShut).1 ≤ sgn 16 (s.fld (Reg.thmRegion j) 15 0)) →
    s.judgeShutdown = s.beginShutdown ∧ bit s.beginShutdown.pins.ringHold 0 = false ∧ bit s.beginShutdown.pins.ringHold 1 = false) ∧
  (∀ (s : State) off val mask, off ∈ [Reg.thmThrWarn, Reg.thmThrThrot, Reg.thmThrShut] →
    ((s.writeThr off val mask).reg off = s.reg off ∨
      ((s.writeThr off val mask).fld Reg.thmThrWarn 7 0 ≤ (s.writeThr off val mask).fld Reg.thmThrThrot 7 0 ∧
       (s.writeThr off val mask).fld Reg.thmThrThrot 7 0 ≤ (s.writeThr off val mask).fld Reg.thmThrShut 7 0)) ∧
    ∀ o, o ≠ off → (s.writeThr off val mask).reg o = s.reg o)

/-! ## Beam engine, duplex canceller, linearisation -/

/-- Selections of weights (R106, R107, R216-R219, R233): a waiting selection takes effect at the symbol boundary of its carrier, as does
a bank swap; the commit point of a D or F symbol of a valid carrier is kept with the issue order and the selections it
saw; a write of a downlink descriptor
after the commit point of a symbol still to come is late; ARRAY keeps INDEX below SIZE.
Weights and transforms (R213-R223, R232, R234): the weights of a layer are the section's own, the section's codebook vector, or
those of the descriptor, none beyond vector 6143; a rejected section carries nothing and neither does a PRB that no uplink
section names; the places of a transform's results are a permutation, there are as many as samples, within the width, and
rounding is to the nearest with ties upward; a downlink PRB without shares is 0.
Of these forms it is stated that they complete, under the conditions of their clauses alone: commitPoint, wdescWrite,
arrayWrite. -/
def Obligations.WeightSelections : Prop :=
  (∀ (s : State) c, c < 2 → s.up domCrm = true → s.carRuns c = true → s.atCommit c = true → s.typeAt c (s.commitStart c) % 2 = 1 →
    ∃ t old, exec (.commitPoint c) s = .next t ∧ alook t.bme.commits c = some (old ++ [(s.commitStart c, s.seq)]) ∧
    alook t.bme.used c = some (s.selections c (s.commitStart c)) ∧ t.bme.sel = s.bme.sel ∧ t.bme.swap = s.bme.swap ∧
    ((∀ a, s.eccAt a = .good) → t.mem = s.mem) ∧
    ∀ d l, d < 2 → l < 32 → t.reg (Reg.bmeWdesc d c l) = s.reg (Reg.bmeWdesc d c l)) ∧
  (∀ (s : State) c, s.carRuns c = false ∨ s.atCommit c = false ∨ s.typeAt c (s.commitStart c) % 2 = 0 →
    exec (.commitPoint c) s = .next s) ∧
  (∀ (s : State) p c l val, c < 2 → l < 32 → s.reaches p (Reg.bmeWdesc 1 c l) = true →
    exec (.wdescWrite p 1 c l val) s = .next ((s.writeFields (Reg.bmeWdesc 1 c l) val 0xFFFFFFFF).noted p mgOk)) ∧
  (∀ (s : State) p c l val, c < 2 → l < 32 → s.reaches p (Reg.bmeWdesc 0 c l) = true → alook s.bme.commits c = none →
    exec (.wdescWrite p 0 c l val) s = .next ((s.writeFields (Reg.bmeWdesc 0 c l) val 0xFFFFFFFF).noted p mgOk)) ∧
  (∀ (s : State) p c l val m q, c < 2 → l < 32 → s.reaches p (Reg.bmeWdesc 0 c l) = true → alook s.bme.commits c = some [(m, q)] →
    (s.nowU : Int) ≤ m → q ≤ s.seq →
    exec (.wdescWrite p 0 c l val) s = .next
      ((((s.writeFields (Reg.bmeWdesc 0 c l) val 0xFFFFFFFF).bump (Reg.bmeCnt 5)).raiseBit Reg.bmeSticky 2).noted p mgOk)) ∧
  (∀ (s : State) d c l i q tl, d < 2 → c < 2 → l < 32 → i < 4096 → s.bme.sel = [(selKey d c l, (i, q))] →
    (s.landSel c tl).fld (Reg.bmeWdesc d c l) 11 0 = i ∧ (s.landSel c tl).flag (Reg.bmeWdesc d c l) 31 = false ∧
    (s.landSel c tl).bme.sel = [] ∧ s.landSel (1 - c) tl = s) ∧
  (∀ (s : State) d c b q tl, d < 2 → c < 2 → b < 2 → s.bme.swap = [(bankKey d c, (b, q))] →
    (s.landSwap c tl).bank d c = b ∧ (s.landSwap c tl).bme.swap = [] ∧
    ∀ d' c', d' < 2 → c' < 2 → (d', c') ≠ (d, c) → (s.landSwap c tl).bank d' c' = s.bank d' c') ∧
  (∀ (s : State) p val, s.reaches p Reg.bmeArray = true → 1 ≤ val.toNat % 2048 → val.toNat % 2048 ≤ 1024 →
    val.toNat / 65536 % 1024 < val.toNat % 2048 → ∃ t, exec (.arrayWrite p val) s = .next t ∧
      t.fld Reg.bmeArray 10 0 = val.toNat % 2048 ∧ t.fld Reg.bmeArray 25 16 = val.toNat / 65536 % 1024 ∧
      ∀ off, off ≠ Reg.bmeArray → t.reg off = s.reg off) ∧
  (∀ (s : State) p val, s.reaches p Reg.bmeArray = true → 1 ≤ val.toNat % 2048 → val.toNat % 2048 ≤ 1024 →
    val.toNat % 2048 ≤ val.toNat / 65536 % 1024 → exec (.arrayWrite p val) s = .next ((s.raiseBit Reg.bmeSticky 0).noted p mgOk)) ∧
  (∀ (s : State) c u layer prb w, u.1[layer]? = some w → bit w 31 = true →
    s.groupVec c u layer prb = if 6143 < bits w 28 16 + prb / s.pgSize c then .zero
      else .vector (0x1800000 + u.2 * 0x400000 + 0x200 * (bits w 28 16 + prb / s.pgSize c))) ∧
  (∀ (s : State) c u layer prb w, u.1[layer]? = some w → bit w 31 = false → s.groupVec c u layer prb = .vector (bookVec (bits w 11 0))) ∧
  (∀ (s : State) dl c layer prb tl u y, s.sectFor dl c layer prb tl = some y → s.weightsFor dl c layer prb tl u =
    if y.rej then none else match y.wts with
      | some ws => some (.own ws)
      | none => some (if y.beam = 0 then s.groupVec c u layer prb else .vector (bookVec y.beam))) ∧
  (∀ (s : State) c layer prb tl u, s.sectFor false c layer prb tl = none → s.weightsFor false c layer prb tl u = none) ∧
  (∀ (s : State) c layer prb tl u, s.sectFor true c layer prb tl = none →
    s.weightsFor true c layer prb tl u = some (s.groupVec c u layer prb)) ∧
  (∀ (s : State) a n, (∀ i, i < n → s.eccAt (a + 4 * i) = .good) →
    s.readWeights a n = ((List.range n).map (fun (i : Nat) => s.rawWord (a + 4 * i)), s)) ∧
  (∀ n i j, i < 2 ^ n → j < 2 ^ n → place n i < 2 ^ n ∧ (place n i = place n j → i = j)) ∧
  (∀ inv n sh w xs, (transform inv n sh w xs).1.length = 2 ^ n ∧
    ∀ x ∈ (transform inv n sh w xs).1, satS w x.1 = x.1 ∧ satS w x.2 = x.2) ∧
  (∀ k v, 2 * v - 2 ^ k < 2 ^ (k + 1) * roundUp k v ∧ 2 ^ (k + 1) * roundUp k v ≤ 2 * v + 2 ^ k) ∧
  (∀ a fs, prbSum a fs [] = List.replicate 12 (0, 0)) ∧
  (∀ ys w prb, (combine ys w prb).length = 24)

/-- The duplex canceller (R243-R248): a write reaches only the shadow page of its path and port, a write to the active page changes
nothing there and is counted; a commit swaps the pages at the slot boundary, at once without an enabled carrier; a survey
and a snapshot run from START to their end or ABORT, a second START is discarded, and the results stand in their
registers and in memory.
The receive chain and the estimate (R189-R205, R238-R243): SIC subtracts the estimate, rounded and clamped, only in F symbols of a
pair in FDX and passes the sample otherwise; D moves only while it tracks; a hit is a component at or above HIGH; a path that is
not powered delivers nothing; there is no estimate outside such symbols, and none of references that are not enabled.
Of these forms it is stated that they complete, under the conditions of their clauses alone: pageWrite, sicCommit, surveyStart,
surveyAbort, surveyDone, snapStart, snapAbort, snapDone. -/
def Obligations.DuplexCanceller : Prop :=
  (∀ (s : State) p off val, 0x580000 ≤ off → off < 0x600000 → off % 4 = 0 → s.reaches p off = true →
    s.sicActive ((off - 0x580000) / 0x1000) ((off - 0x580000) / 0x800 % 2) = (off - 0x580000) / 0x400 % 2 →
    exec (.pageWrite p off val) s = .next (((s.bump Reg.sicCntBadw).raiseBit Reg.sicSticky 3).noted p mgOk)) ∧
  (∀ (s : State) p off val m, 0x580000 ≤ off → off < 0x600000 → off % 4 = 0 → s.reaches p off = true → s.eccAt off = .good →
    s.sicActive ((off - 0x580000) / 0x1000) ((off - 0x580000) / 0x800 % 2) ≠ (off - 0x580000) / 0x400 % 2 →
    m = (if off % 0x400 = 0x200 ∧ val.toNat / 2 ^ 16 % 32 = 31 then 0x80000000 else pageMask (off % 0x400)) →
    ∃ t, exec (.pageWrite p off val) s = .next t ∧ t.rawWord off = ((s.rawWord off &&& ~~~ m) ||| (val &&& m)) ∧ t.regs = s.regs ∧
      ∀ a, (a < off ∨ off + 4 ≤ a) → t.byte a = s.byte a) ∧
  (∀ (s : State) q p w b, p < 2 → w < 4 → b < 32 → s.reaches q (Reg.sicCommit p w) = true → s.inCarrier (groupOf (32 * w + b)) = true →
    exec (.sicCommit q p w (BitVec.ofNat 32 (2 ^ b))) s = .next ((s.setFlag (Reg.sicStat (32 * w + b)) (4 + p) true).noted q mgOk)) ∧
  (∀ (s : State) q p w b, p < 2 → w < 4 → b < 32 → s.reaches q (Reg.sicCommit p w) = true → s.inCarrier (groupOf (32 * w + b)) = false →
    exec (.sicCommit q p w (BitVec.ofNat 32 (2 ^ b))) s
      = .next (((s.setFlag (Reg.sicStat (32 * w + b)) (4 + p) true).swapPages (32 * w + b)).noted q mgOk)) ∧
  (∀ (s : State) r p, r < 128 → p < 2 →
    (s.swapPages r).flag (Reg.sicStat r) p = (s.flag (Reg.sicStat r) p != s.flag (Reg.sicStat r) (4 + p)) ∧
    (s.swapPages r).flag (Reg.sicStat r) (4 + p) = false ∧ ∀ off, off ≠ Reg.sicStat r → (s.swapPages r).reg off = s.reg off) ∧
  (∀ (s : State) p val, s.reaches p Reg.sicSurvey = true → s.flag Reg.sicSurvey 29 = false → val.getLsbD 30 = false →
    ∃ t, exec (.surveyStart p val) s = .next t ∧ t.flag Reg.sicSurvey 29 = true ∧ t.flag Reg.sicSurvey 28 = false ∧
      t.fld Reg.sicSurvey 6 0 = val.toNat % 128 ∧ ∀ off, off ≠ Reg.sicSurvey → t.reg off = s.reg off) ∧
  (∀ (s : State) p val, s.reaches p Reg.sicSurvey = true → s.flag Reg.sicSurvey 29 = true → val.getLsbD 30 = false →
    ∃ t, exec (.surveyStart p val) s = .next t ∧ t.flag Reg.sicSurvey 29 = true ∧
      t.fld Reg.sicCntBadw 31 0 = min (s.fld Reg.sicCntBadw 31 0 + 1) (2 ^ 32 - 1)) ∧
  (∀ (s : State) p val, s.reaches p Reg.sicSurvey = true → s.flag Reg.sicSurvey 29 = true → val.getLsbD 31 = false →
    ∃ t, exec (.surveyAbort p val) s = .next t ∧ t.flag Reg.sicSurvey 29 = false ∧ t.flag Reg.sicSurvey 28 = false ∧
      ∀ off, off ≠ Reg.sicSurvey → t.reg off = s.reg off) ∧
  (∀ (s : State) res, s.flag Reg.sicSurvey 29 = true → s.smp.survey = some (0, res) →
    ∃ t, exec .surveyDone s = .next t ∧ t.flag Reg.sicSurvey 29 = false ∧ t.flag Reg.sicSurvey 28 = true ∧ t.smp.survey = none ∧
      t.mem = s.mem ∧ (∀ q, q < 128 → t.reg (Reg.sicSurveyE q) = BitVec.ofInt 32 ((res[q]?).getD (-32768, 0)).1) ∧
      t.reg Reg.sicSurveyTop = packFour (topFour ((List.range 128).map (fun q => ((res[q]?).getD (-32768, 0)).1)))) ∧
  (∀ (s : State) r q, kHz 200000 < ((s.loF (groupOf q) : Int) - (s.loF (groupOf r) : Int)).natAbs → (s.surveyOf r q).1 = -32768) ∧
  (∀ (s : State), s.flag Reg.sicSurvey 29 = false ∨ s.smp.survey = none → exec .surveyDone s = .next s) ∧
  (∀ (s : State) p val n, s.reaches p Reg.sicSnap = true → s.flag Reg.sicSnap 29 = false → val.getLsbD 30 = false →
    val.toNat / 2 ^ 16 % 16 = n → 9 ≤ n → n ≤ 13 → s.up domCob = true → s.fld Reg.sicSnapAddr 5 0 = 0 →
    (s.reg Reg.sicSnapAddr).toNat + 40 * 2 ^ n ≤ s.fld Reg.capPart 5 0 * 0x100000 →
    ∃ t, exec (.snapStart p val) s = .next t ∧ t.flag Reg.sicSnap 29 = true ∧ t.flag Reg.sicSnap 28 = false ∧
      t.fld Reg.sicSnap 26 24 = 0 ∧ t.fld Reg.sicSnap 19 16 = n ∧ ∀ off, off ≠ Reg.sicSnap → t.reg off = s.reg off) ∧
  (∀ (s : State) p val n, s.reaches p Reg.sicSnap = true → s.flag Reg.sicSnap 29 = false → val.getLsbD 30 = false →
    val.toNat / 2 ^ 16 % 16 = n → 9 ≤ n → n ≤ 13 →
    (s.fld Reg.capPart 5 0 * 0x100000 < (s.reg Reg.sicSnapAddr).toNat + 40 * 2 ^ n ∨ s.fld Reg.sicSnapAddr 5 0 ≠ 0) →
    ∃ t, exec (.snapStart p val) s = .next t ∧ t.flag Reg.sicSnap 29 = false ∧ t.flag Reg.sicSnap 28 = true ∧
      t.fld Reg.sicSnap 26 24 = 2 ∧ t.flag Reg.sicSticky 4 = true) ∧
  (∀ (s : State) p val, s.reaches p Reg.sicSnap = true → s.flag Reg.sicSnap 29 = true → val.getLsbD 31 = false →
    ∃ t, exec (.snapAbort p val) s = .next t ∧ t.flag Reg.sicSnap 29 = false ∧ t.flag Reg.sicSnap 28 = true ∧
      t.fld Reg.sicSnap 26 24 = 1 ∧ ∀ off, off ≠ Reg.sicSnap → t.reg off = s.reg off) ∧
  (∀ (s : State) q, s.flag Reg.sicSnap 29 = true → s.smp.snap = some q → q.got.length = s.snapN → s.up domCob = true →
    ∃ t, exec .snapDone s = .next t ∧ t.flag Reg.sicSnap 29 = false ∧ t.flag Reg.sicSnap 28 = true ∧
      t.flag Reg.sicSnap 27 = q.clipped ∧ t.fld Reg.sicSnap 14 10 = q.na % 32 ∧ t.reg Reg.sicSnapTns = q.tns ∧ t.smp.snap = none ∧
      ∀ i, i < (streamWords 5 q.got).length →
        t.rawWord (capBase + (s.reg Reg.sicSnapAddr).toNat + 4 * i) = (streamWords 5 q.got).getD i 0) ∧
  (∀ (g : RxCfg) (p : RxChain × PathMeas) a, (rxFine g p a).1.sub.head? = some
    (if g.sic then (clampQ (Cx.sub (back (rxFine g p a).1.y 0) a.2.2)).1 else back (rxFine g p a).1.y 0)) ∧
  (∀ (g : RxCfg) (p : RxChain × PathMeas) a, g.track = false → (rxFine g p a).1.d = p.1.d) ∧
  (∀ (g : RxCfg) (p : RxChain × PathMeas) j (v e : Cx), (rxFine g p (j, v, e)).1.hits
    = p.1.hits + (if g.high ≤ max v.1.natAbs v.2.natAbs then 1 else 0)) ∧
  (∀ (g : RxCfg) (p : RxChain × PathMeas) j (v e : Cx), v.1 = -8192 ∨ v.1 = 8191 ∨ v.2 = -8192 ∨ v.2 = 8191 →
    (rxFine g p (j, v, e)).2.rxAdc = p.2.rxAdc + 1 ∧ (rxFine g p (j, v, e)).1.pin = p.1.pin ∧ (rxFine g p (j, v, e)).1.pout = p.1.pout) ∧
  (∀ (s : State) n x, s.inFdxF n x = false → (s.rxCfg n x).sic = false ∧ s.estimate n x = ([(0, 0), (0, 0)], s)) ∧
  (∀ (s : State) n x, s.flag (Reg.rxaStatus n) 4 = false → s.rxPath x n = (s.rxIdle n, (0, 0), { n := n })) ∧
  (∀ steps, modelOut [] steps = (0, 0)) ∧
  (∀ (s : State) n ws q r, r ∈ s.references n ws q → r.1.length = 8 ∧ r.2.length = 16)

/-- Linearisation (R256-R265): the store takes a word and advances its address; a commit asks for the loads of its paths and lifts
their reverts; a load that completes fills the shadow page, or comes into force at once without an enabled carrier; an
observation job runs from START through its recording to its end, is turned away while another runs, fails with its code,
and its streams stand in memory.
The transmit chain (R171-R181, R255): a muted path puts out the words of DCOFF and gives the canceller zeros; samples pass DPD unchanged
where it is not active, and with no branch it gives 0; a carrier that the group does not carry, or is muted, adds 0; the multiplier
is 10^(-d/2000) rounded to the nearest and kept below 1; peaks above the threshold are clipped to it, others are left.
Of these forms it is stated that they complete, under the conditions of their clauses alone: storeWrite, linCommit, loadDone,
obsStart, obsAbort, obsRecordStart, obsDone. -/
def Obligations.Linearisation : Prop :=
  (∀ (s : State) p w val a, w < 2 → s.reaches p (Reg.linStData w) = true → s.fld (Reg.linStAddr w) 20 0 = a → a < linTop →
    ∃ t, exec (.storeWrite p w val) s = .next t ∧ t.rawWord (linBase + 4 * a) = val ∧ t.eccAt (linBase + 4 * a) = .good ∧
      t.fld (Reg.linStAddr w) 20 0 = a + 1 ∧ (∀ b, (b < linBase + 4 * a ∨ linBase + 4 * a + 4 ≤ b) → t.byte b = s.byte b) ∧
      ∀ off, off ≠ Reg.linStAddr w → t.reg off = s.reg off) ∧
  (∀ (s : State) p w val, w < 2 → s.reaches p (Reg.linStData w) = true → linTop ≤ s.fld (Reg.linStAddr w) 20 0 →
    exec (.storeWrite p w val) s = .next (((s.bump Reg.linCntBadw).raiseBit Reg.linSticky 5).noted p mgOk)) ∧
  (∀ (s : State) p w val b, w < 4 → b < 32 → s.reaches p (Reg.linCommit w) = true → ∃ t, exec (.linCommit p w val) s = .next t ∧
    t.flag (Reg.linPathStat (32 * w + b)) 10 = (s.flag (Reg.linPathStat (32 * w + b)) 10 || val.getLsbD b) ∧
    t.flag (Reg.linPathStat (32 * w + b)) 9 = (s.flag (Reg.linPathStat (32 * w + b)) 9 && !val.getLsbD b) ∧ t.mem = s.mem) ∧
  (∀ (s : State) n, n < 128 → s.up domCrm = true → s.flag (Reg.linPathStat n) 10 = true → s.inCarrier (groupOf n) = true →
    ∃ t, exec (.loadDone n) s = .next t ∧ t.flag (Reg.linPathStat n) 10 = false ∧ t.dpdShadow n = some (s.chooseSet n).1 ∧
      t.dpd n = s.dpd n) ∧
  (∀ (s : State) n, n < 128 → s.up domCrm = true → s.flag (Reg.linPathStat n) 10 = true → s.inCarrier (groupOf n) = false →
    ∃ t, exec (.loadDone n) s = .next t ∧ t.flag (Reg.linPathStat n) 10 = false ∧ t.dpd n = (s.chooseSet n).1 ∧ t.dpdShadow n = none) ∧
  (∀ (s : State) n, s.flag (Reg.linPathStat n) 10 = false → exec (.loadDone n) s = .next s) ∧
  (∀ (s : State) p k val n, k < 8 → s.reaches p (Reg.linObsCtl k) = true → s.flag (Reg.linObsCtl k) 29 = false → val.getLsbD 30 = false →
    val.toNat / 2 ^ 16 % 16 = n → 9 ≤ n → n ≤ 14 → val.toNat / 2 ^ 21 % 4 = 0 → val.toNat / 2 ^ 8 % 8 = 7 →
    s.up domCob = true → s.up (domTile (k / 2)) = true → s.fld (Reg.linObsAddr k) 5 0 = 0 →
    (s.reg (Reg.linObsAddr k)).toNat + 24 * 2 ^ n ≤ s.fld Reg.capPart 5 0 * 0x100000 →
    ∃ t, exec (.obsStart p k val) s = .next t ∧ t.flag (Reg.linObsCtl k) 29 = true ∧ t.flag (Reg.linObsCtl k) 28 = false ∧
      t.fld (Reg.linObsCtl k) 26 24 = 0 ∧ t.fld (Reg.linObsCtl k) 3 0 = val.toNat % 16 ∧
      ∀ off, off ≠ Reg.linObsCtl k → t.reg off = s.reg off) ∧
  (∀ (s : State) p k val, k < 8 → s.reaches p (Reg.linObsCtl k) = true → s.flag (Reg.linObsCtl k) 29 = true → val.getLsbD 30 = false →
    ∃ t, exec (.obsStart p k val) s = .next t ∧ t.flag (Reg.linObsCtl k) 29 = true ∧
      t.fld Reg.linCntBadw 31 0 = min (s.fld Reg.linCntBadw 31 0 + 1) (2 ^ 32 - 1)) ∧
  (∀ (s : State) p k val, k < 8 → s.reaches p (Reg.linObsCtl k) = true → s.flag (Reg.linObsCtl k) 29 = true → val.getLsbD 31 = false →
    ∃ t, exec (.obsAbort p k val) s = .next t ∧ t.flag (Reg.linObsCtl k) 29 = false ∧ t.flag (Reg.linObsCtl k) 28 = true ∧
      t.fld (Reg.linObsCtl k) 26 24 = 1 ∧ ∀ off, off ≠ Reg.linObsCtl k → t.reg off = s.reg off) ∧
  (∀ (s : State) k, k < 8 → s.up domCrm = true → s.flag (Reg.linObsCtl k) 29 = true → s.obsRec k = none → s.orHeld k = false →
    s.obsTrig k = true → s.losBit k 30 = true → exec (.obsRecordStart k) s = .next ((s.setReg (Reg.linObsTns k) s.tns).setObs k (some {}))) ∧
  (∀ (s : State) k, k < 8 → s.up domCrm = true → s.flag (Reg.linObsCtl k) 29 = true → s.obsRec k = none → s.orHeld k = false →
    s.obsTrig k = true → s.losBit k 30 = false → ∃ t, exec (.obsRecordStart k) s = .next t ∧ t.flag (Reg.linObsCtl k) 29 = false ∧ t.fld (Reg.linObsCtl k) 26 24 = 5 ∧
      t.flag Reg.linSticky 4 = true) ∧
  (∀ (s : State) k, s.orHeld k = true ∨ s.obsTrig k = false ∨ s.flag (Reg.linObsCtl k) 29 = false → exec (.obsRecordStart k) s = .next s) ∧
  (∀ (s : State) k q on ws, k < 8 → s.up domCrm = true → s.flag (Reg.linObsCtl k) 29 = true → s.obsRec k = some q →
    q.got.length = s.obsN k → s.up domCob = true → s.up (domTile (k / 2)) = true →
    on = (List.range 3).filter (fun i => s.flag (Reg.linObsCtl k) (8 + i)) → ws = streamWords on.length (q.got.map (fun l => on.map (back l))) →
    ∃ t, exec (.obsDone k) s = .next t ∧ t.flag (Reg.linObsCtl k) 29 = false ∧ t.flag (Reg.linObsCtl k) 28 = true ∧
      t.flag (Reg.linObsCtl k) 27 = q.clipped ∧ t.flag (Reg.linObsCtl k) 23 = q.muted ∧
      ∀ i, i < ws.length → t.rawWord (capBase + (s.reg (Reg.linObsAddr k)).toNat + 4 * i) = ws.getD i 0) ∧
  (∀ (g : TxCfg) (p : TxChain) sum ahead, g.mute = true → g.cal = none →
    (txThrough g p sum ahead).1.dac = ((dacCodes g.iq g.dc 0 0).1, (dacCodes g.iq g.dc 0 0).2.1)) ∧
  (∀ (g : TxCfg) (p : TxChain × Nat) x, (txFine g p x).1.tap.head? = some (if g.mute then (0, 0) else back (txFine g p x).1.gain 0)) ∧
  (∀ (g : TxCfg) (p : TxChain × Nat) x, g.dpd = none → (txFine g p x).1.dpd.head? = some (back p.1.i3 7) ∧ (txFine g p x).2 = p.2) ∧
  (∀ (g : TxCfg) (p : TxChain × Nat) x, g.dpd = some [] → (txFine g p x).1.dpd.head? = some (0, 0)) ∧
  (∀ ks, dpdGain ks (0, 0) = Cx.scale (2 ^ 16) (back ks 0)) ∧
  (∀ n, isqrt n * isqrt n ≤ n ∧ n < (isqrt n + 1) * (isqrt n + 1)) ∧
  (∀ b d, (decibel b d = 0 ∨ (2 * decibel b d - 1) ^ 2000 * 10 ^ d ≤ 2 ^ (2000 * (b + 1))) ∧
    2 ^ (2000 * (b + 1)) < (2 * decibel b d + 1) ^ 2000 * 10 ^ d) ∧
  (∀ d, txMult d ≤ 0x7FFF ∧ rxMult d ≤ 0x1FFFF) ∧
  (∀ (s : State) n x, s.emitting n = false → (s.txCfg x n).mute = true) ∧
  (∀ (s : State) n c x, s.carries c (groupOf n) = false ∨ s.flag (Reg.txdStatus n) (25 + c) = true → s.carrierSample n c x = (0, 0)) ∧
  (∀ (s : State) n, s.flag (Reg.txdCtl n) 5 = false ∨ (s.dpd n).src = 0 → s.dpdCfg n = none) ∧
  (∀ thr x, x.sq ≤ thr ^ 2 → hardClip thr x = (x, false))

/-! ## Synthesisers, calibration, bias DACs -/

/-- Synthesisers (R270-R285): a hop that passes its checks takes its preset and settles, one that fails them is counted and changes
nothing of the synthesiser; lock ends the hop, loss of lock starts one to the preset in force; a conversion clock that
unlocks takes LO_OK from its groups; an IF lands when its group is free; an exchange is armed for the future, runs at its
time and ends with the results of both ports.
Of these forms it is stated that they complete, under the conditions of their clauses alone: hop, hopStart, lock, lockLoss,
ccsUnlock, ccsLock, ifChange, clStart, clExchange, clDone. -/
def Obligations.Synthesisers : Prop :=
  (∀ (s : State) p k val, k < 8 → s.reaches p (Reg.losSHop k) = true → val.getLsbD 31 = true → s.hopRefusal k (val.toNat % 16) = none →
    s.losBit k 29 = false → s.losBit k 27 = true → s.cal.runs = [] → (∀ h, alook s.los.hops k = some h → h.waits = false) →
    ∃ t, exec (.hop p k val) s = .next t ∧ t.losBit k 28 = true ∧ t.losBit k 30 = false ∧
      t.fld (Reg.losSStatus k) 19 16 = val.toNat % 16 ∧ t.loCfg k = s.preset k (val.toNat % 16) ∧ t.mem = s.mem) ∧
  (∀ (s : State) p k val, k < 8 → s.reaches p (Reg.losSHop k) = true → val.getLsbD 31 = true → s.hopRefusal k (val.toNat % 16) = none →
    s.losBit k 29 = false → s.losBit k 27 = false →
    ∃ t, exec (.hop p k val) s = .next t ∧ t.losBit k 28 = s.losBit k 28 ∧
      t.fld (Reg.losSStatus k) 19 16 = val.toNat % 16 ∧ t.loCfg k = s.preset k (val.toNat % 16)) ∧
  (∀ (s : State) p k val, k < 8 → s.reaches p (Reg.losSHop k) = true → val.getLsbD 31 = true → s.hopRefusal k (val.toNat % 16) ≠ none →
    exec (.hop p k val) s
      = .next ((((s.writeFields (Reg.losSHop k) val 0xFFFFFFFF).bump Reg.losCntBadw).raiseBit Reg.losSticky 2).noted p mgOk)) ∧
  (∀ (s : State) k h, k < 8 → s.los.hops = [(k, h)] → h.waits = true → h.owner = .device → h.preset < 16 → s.losBit k 27 = true →
    s.cal.runs = [] → ∃ t, exec (.hopStart k) s = .next t ∧ t.losBit k 29 = false ∧ t.losBit k 28 = true ∧ t.losBit k 30 = false ∧
      t.fld (Reg.losSStatus k) 19 16 = h.preset ∧ t.loCfg k = s.preset k h.preset) ∧
  (∀ (s : State) k, alook s.los.hops k = none → exec (.hopStart k) s = .next s) ∧
  (∀ (s : State) k, k < 8 → s.losBit k 27 = true → s.losBit k 28 = true → s.losBit k 29 = false →
    ∃ t, exec (.lock k) s = .next t ∧ t.losBit k 30 = true ∧ t.losBit k 28 = false ∧ alook t.los.hops k = none ∧ t.loCfg k = s.loCfg k ∧
      t.mem = s.mem) ∧
  (∀ (s : State) k, k < 8 → s.losBit k 30 = true → s.cal.runs = [] → s.up (domTile 0) = true →
    ∃ t, exec (.lockLoss k) s = .next t ∧ t.losBit k 28 = true ∧ t.losBit k 30 = false ∧ t.flag Reg.losSticky (24 + k) = true ∧
      t.fld (Reg.losSStatus k) 19 16 = s.fld (Reg.losSStatus k) 19 16 ∧ t.loCfg k = s.loCfg k) ∧
  (∀ (s : State) k, s.losBit k 30 = false → exec (.lockLoss k) s = .next s) ∧
  (∀ (s : State) n, n < 4 → s.up (domTile n) = true → s.up (domTile 0) = true → s.flag (Reg.losCcsStatus n) 31 = true → s.cal.runs = [] →
    ∃ t, exec (.ccsUnlock n) s = .next t ∧ t.flag (Reg.losCcsStatus n) 31 = false ∧ t.flag Reg.losSticky (4 + n) = true ∧
      ∀ m, m / 32 = n → emits (s.ps m) = true → t.flag (Reg.tlpPs m) 20 = true) ∧
  (∀ (s : State) n, n < 4 → s.up (domTile n) = true → s.flag Reg.clkRefStatus 31 = true →
    ∃ t, exec (.ccsLock n) s = .next t ∧ t.flag (Reg.losCcsStatus n) 31 = true ∧ t.mem = s.mem) ∧
  (∀ (s : State) k, k < 8 → s.ifPending k = true → s.ifFree k = true →
    ∃ t, exec (.ifChange k) s = .next t ∧ t.inForce (Reg.losSCtl k) = s.reg (Reg.losSCtl k) ∧
      ∀ n, n < 128 → groupOf n = k → t.flag (Reg.calPath n) 7 = true ∧ t.fld (Reg.rxdStatus n) 29 28 = s.fld (Reg.losSCtl k) 29 28) ∧
  (∀ (s : State) k, s.ifFree k = false → exec (.ifChange k) s = .next s) ∧
  (∀ (s : State) p val, s.reaches p Reg.losClCtl = true → future (s.reg Reg.losClAt) s.tns = true →
    ∃ t, exec (.clStart p val) s = .next t ∧ t.flag Reg.losClCtl 30 = true ∧ t.flag Reg.losClCtl 29 = false ∧
      t.fld Reg.losClCtl 2 0 = val.toNat % 8 ∧ t.flag (Reg.calGrp (val.toNat % 8)) 2 = true ∧ t.mem = s.mem) ∧
  (∀ (s : State) p val, s.reaches p Reg.losClCtl = true → future (s.reg Reg.losClAt) s.tns = false →
    ∃ t, exec (.clStart p val) s = .next t ∧ t.flag (Reg.losClRes 0) 31 = false ∧ t.flag (Reg.losClRes 1) 31 = false ∧
      t.flag Reg.losSticky 3 = true ∧ t.flag Reg.losClCtl 30 = s.flag Reg.losClCtl 30) ∧
  (∀ (s : State), s.flag Reg.losClCtl 30 = true → future (s.reg Reg.losClAt) s.tns = false →
    ∃ t, exec .clExchange s = .next t ∧ alook t.cal.runs 24 = some (14, s.fld Reg.losClCtl 2 0) ∧
      t.flag (Reg.calGrp (s.fld Reg.losClCtl 2 0)) 30 = true ∧ t.los.clBad = !s.loOk (s.fld Reg.losClCtl 2 0) ∧
      t.flag Reg.losClCtl 30 = true) ∧
  (∀ (s : State) g east west, s.flag Reg.losClCtl 30 = true → s.fld Reg.losClCtl 2 0 = g → s.cal.runs = [(24, (14, g))] →
    s.los.clBad = false → s.loOk g = true → s.role 0 ≠ 0 → s.flag Reg.calCtl 1 = false → east.2 ≤ 80 → west.2 ≤ 80 →
    ∃ t, exec (.clDone east west) s = .next t ∧ t.flag Reg.losClCtl 30 = false ∧ t.flag Reg.losClCtl 29 = true ∧ t.cal.runs = [] ∧
      t.reg (Reg.losClRes 0) = BitVec.ofNat 32 (2 ^ 31 + east.2 * 2 ^ 16 + east.1 % 4096) ∧
      t.reg (Reg.losClRes 1) = BitVec.ofNat 32 (2 ^ 31 + west.2 * 2 ^ 16 + west.1 % 4096) ∧
      t.fld (Reg.calGrp g) 23 20 = 0)

/-- Calibration (R288-R302): windows open and close, requests become pending, a run starts in an open window, checks its
preconditions and ends with its code and its results, background passes step the corrections or count misses, the
exchange with the neighbour ends with its code.
The eMRAM journal (R303-R306): a record that has been written is read back as its sequence number and its data; of two valid
slots the newer wins; a request starts a store in the slot that did not win, or waits its second; a store that ends has
programmed its words; a tile is loaded once, and the roster cache once its
tile and the ring are up; requests of classes 6 and 8 through JCTL are refused.
Of these forms it is stated that they complete, under the conditions of their clauses alone: calWindow, windowEnd, calRequest,
calRunStart, calRunEnd, bgPass, xdevTimeout, journalStore, storeDeferredStart, storeDone, journalLoad. -/
def Obligations.CalibrationAndJournal : Prop :=
  (∀ (s : State) p val k, k < 8 → s.reaches p Reg.calWin = true → val.toNat / 2 ^ 16 ≠ 0 →
    ∃ t, exec (.calWindow p val) s = .next t ∧ t.winOpen k = (s.winOpen k || val.getLsbD k) ∧
      (val.getLsbD k = true → alook t.cal.wins k = some (s.tns + BitVec.ofNat 32 (1000 * (val.toNat / 2 ^ 16)))) ∧ t.mem = s.mem) ∧
  (∀ (s : State) p val k, k < 8 → s.reaches p Reg.calWin = true → val.toNat / 2 ^ 16 = 0 → s.flag Reg.calCtl 2 = false →
    ∃ t, exec (.calWindow p val) s = .next t ∧ t.winOpen k = (s.winOpen k && !val.getLsbD k)) ∧
  (∀ (s : State) k, k < 8 → s.up domCob = true → s.winOpen k = true → s.winLeft k ≤ 0 → exec (.windowEnd k) s = .next (s.endWindow k)) ∧
  (∀ (s : State) k, k < 8 → s.flag Reg.calCtl 2 = false → (s.endWindow k).winOpen k = false ∧ alook (s.endWindow k).cal.wins k = none) ∧
  (∀ (s : State) k, 0 < s.winLeft k → exec (.windowEnd k) s = .next s) ∧
  (∀ (s : State) p kind n, kind < 10 → n < 128 → s.reaches p Reg.calReq = true →
    ∃ t, exec (.calRequest p (BitVec.ofNat 32 (kind * 2 ^ 28 + n))) s = .next t ∧ t.flag (Reg.calPath n) kind = true ∧
      t.fld (Reg.calPath n) 27 24 = 0 ∧ t.flag (Reg.calPath n) 31 = false ∧ ∀ off, off ≠ Reg.calPath n → t.reg off = s.reg off) ∧
  (∀ (s : State) p val, s.reaches p Reg.calReq = true → (val.toNat / 2 ^ 28 ∈ [10, 11, 14, 15] ∨ val.toNat / 2 ^ 26 % 4 = 3) →
    exec (.calRequest p val) s = .next ((s.raiseBit Reg.calSticky 6).noted p mgOk)) ∧
  (∀ (s : State) k power, k < 8 → s.winOpen k = false → exec (.calRunStart k power) s = .next s) ∧
  (∀ (s : State) k power kind n, k < 8 → s.up domCob = true → s.season < 2 → alook s.cal.runs k = none → s.winOpen k = true →
    s.nextRun k = some (kind, n) → exec (.calRunStart k power) s = .next (s.beginRun k kind n power)) ∧
  (∀ (s : State) k power kind n, k < 8 → s.nextRun k = some (kind, n) → kind < 10 ∧ n < 128 ∧ groupOf n = k ∧
    s.flag (Reg.calPath n) kind = true ∧ (1000 * calTime kind : Int) ≤ s.winLeft k ∧ (needsOr kind = true → s.orFree k = true) ∧
    (s.precheck kind n power = none → alook (s.beginRun k kind n power).cal.runs k = some (kind, n) ∧
      (s.beginRun k kind n power).flag (Reg.calPath n) kind = false ∧ (s.beginRun k kind n power).flag (Reg.calPath n) 30 = true)) ∧
  (∀ (s : State) k n v, n < 128 → groupOf n = k → s.up domCob = true → s.cal.runs = [(k, (2, n))] →
    ∃ t, exec (.calRunEnd k false [v]) s = .next t ∧ t.cal.runs = [] ∧ t.fld (Reg.calPath n) 23 20 = 0 ∧ t.fld (Reg.calPath n) 19 16 = 2 ∧
      t.fld (Reg.calPath n) 27 24 = 0 ∧ t.flag (Reg.calPath n) 30 = false ∧
      t.reg (Reg.txdDcoff n (s.port k)) = v &&& fieldMask (Reg.txdDcoff n (s.port k))) ∧
  (∀ (s : State) k n kind vals, n < 128 → kind < 10 → groupOf n = k → s.up domCob = true → s.cal.runs = [(k, (kind, n))] →
    s.fld (Reg.calPath n) 27 24 < s.fld Reg.calRetry 3 0 →
    ∃ t, exec (.calRunEnd k true vals) s = .next t ∧ t.cal.runs = [] ∧ t.fld (Reg.calPath n) 23 20 = 5 ∧ t.fld (Reg.calPath n) 19 16 = kind ∧
      t.fld (Reg.calPath n) 27 24 = s.fld (Reg.calPath n) 27 24 + 1 ∧ t.flag (Reg.calPath n) kind = true ∧ t.mem = s.mem) ∧
  (∀ (s : State) k vals low, k < 16 → alook s.cal.runs k = none → exec (.calRunEnd k low vals) s = .next s) ∧
  (∀ (s : State) n q dp dd, n < 128 → s.tracks n false = true → q < 256 → q < s.fld Reg.calBg 23 16 →
    ∃ t, exec (.bgPass n false q dp dd) s = .next t ∧ t.fld (Reg.calBgq n) 15 8 = q ∧
      t.fld (Reg.calBgq n) 19 16 = min (s.fld (Reg.calBgq n) 19 16 + 1) 15 ∧ t.reg (Reg.losPt n) = s.reg (Reg.losPt n) ∧
      t.reg (Reg.txdDelay n) = s.reg (Reg.txdDelay n)) ∧
  (∀ (s : State) n q dp dd, n < 128 → s.tracks n false = true → q < 256 → s.fld Reg.calBg 23 16 ≤ q →
    ∃ t, exec (.bgPass n false q dp dd) s = .next t ∧ t.fld (Reg.calBgq n) 15 8 = q ∧ t.fld (Reg.calBgq n) 19 16 = 0 ∧
      t.fld (Reg.losPt n) 11 0 = unsgn 12 ((s.fld (Reg.losPt n) 11 0 : Int) + clampI (-2) 2 dp) ∧
      t.fld (Reg.txdDelay n) 15 0 = (clampI 0 65535 ((s.fld (Reg.txdDelay n) 15 0 : Int) + clampI (-24) 24 dd)).toNat) ∧
  (∀ (s : State) n rx q dp dd, s.tracks n rx = false → exec (.bgPass n rx q dp dd) s = .next s) ∧
  (∀ (s : State), s.cal.xdev = true → exec .xdevTimeout s = .next (s.endXdev 5)) ∧
  (∀ (s : State) g, g < 8 → s.cal.runs = [(24, (14, g))] → (s.endXdev 5).cal.runs = [] ∧ (s.endXdev 5).cal.xdev = false ∧
    (s.endXdev 5).fld (Reg.calGrp g) 23 20 = 5 ∧ (s.endXdev 5).fld (Reg.calGrp g) 19 16 = 14) ∧
  (∀ (s : State), s.cal.xdev = false → exec .xdevTimeout s = .next s) ∧
  (∀ (s : State) t c w seq data, t < 4 → c < 9 → countOk c data.length = true → w + data.length + 4 ≤ 2 ^ 18 →
    (s.putNvms t w (recordWords t c seq data)).readSlot t c w
      = (some (seq, data), s.putNvms t w (recordWords t c seq data))) ∧
  (∀ a b : Word, a ≠ b → a - b ≠ 0x80000000 → newer a b = !newer b a) ∧
  (∀ (s : State) p tile c, tile < 4 → 1 ≤ c → c ≤ 5 → s.reaches p Reg.calJctl = true →
    exec (.journalStore p (BitVec.ofNat 32 (2 ^ (16 + tile) + 2 ^ c))) s = .next ((s.requestStore tile c).noted p mgOk)) ∧
  (∀ (s : State) p val, s.reaches p Reg.calJctl = true → (val.getLsbD 6 = true ∨ val.getLsbD 8 = true) →
    exec (.journalStore p val) s = .next ((s.raiseBit Reg.calSticky 6).noted p mgOk)) ∧
  (∀ (s : State) t c, s.up (domTile t) = false → s.requestStore t c = s) ∧
  (∀ (s : State) t c, s.up (domTile t) = true → (alook s.jrn.run (t * 16 + c)).isSome = true →
    (t * 16 + c) ∈ (s.requestStore t c).jrn.wait ∧ (s.requestStore t c).jrn.run = s.jrn.run) ∧
  (∀ (s : State) t c, s.up (domTile t) = true → s.jrn.run = [] → s.jrn.last = [] → s.host.nvm = none →
    ∃ w seq, alook (s.requestStore t c).jrn.run (t * 16 + c) = some (w, recordWords t c seq (s.snapshot t c).1) ∧ (w = slotA c ∨ w = slotB c)) ∧
  (∀ (s : State) t c, t < 4 → c < 16 → (16 * t + c) ∈ s.jrn.wait → s.jrn.run = [] → s.jrn.last = [] → s.host.nvm = none →
    s.up (domTile t) = true → exec (.storeDeferredStart t c) s = .next (s.beginStore t c)) ∧
  (∀ (s : State) t c, (16 * t + c) ∉ s.jrn.wait → exec (.storeDeferredStart t c) s = .next s) ∧
  (∀ (s : State) t c w ws, t < 4 → c < 16 → s.jrn.run = [(t * 16 + c, (w, ws))] → w + ws.length ≤ 2 ^ 18 →
    ∃ u : State, exec (.storeDone t c none) s = .next u.powerEval ∧ u.jrn.run = [] ∧ (∀ i, i < ws.length → u.nvmWord t (w + i) = ws.getD i 0 ∧
      u.nvmEccAt t (w + i) = .good)) ∧
  (∀ (s : State) t c, alook s.jrn.run (16 * t + c) = none → exec (.storeDone t c none) s = .next s) ∧
  (∀ (s : State) t, 1 ≤ t → t < 4 → s.up (domTile t) = true → s.up domCrm = true → s.up domCob = true → bit s.cal.loaded t = false →
    exec (.journalLoad t) s = .next (s.loadTile t) ∧ bit (s.loadTile t).cal.loaded t = true) ∧
  (∀ (s : State) t, 1 ≤ t → bit s.cal.loaded t = true → exec (.journalLoad t) s = .next s) ∧
  (∀ (s : State), s.up (domTile 0) = true → s.up domRing = true → s.arg.read = false → bit s.cal.loaded 0 = true →
    exec (.journalLoad 0) s = .next s.loadCache ∧ s.loadCache.arg.read = true)

/-- The bias DAC bank (R309-R318): a code lands and, where its top bits change, is held for the deglitcher; writes are refused while
the output is clamped or faulted; a change of span goes through the safe code; tables are loaded and stored, the power-up
clamp is released; generators step their phase.
Of these forms it is stated that they complete, under the conditions of their clauses alone: codeWrite, deglitchEnd,
rangeChange, rangeChangeDone, biasTableLoad, clampRelease, release, biasStore, sgUpdate, phRst. -/
def Obligations.BiasDacs : Prop :=
  (∀ (s : State) p i val, i < 256 → s.reaches p (Reg.bdaOutCode i) = true → s.flag (Reg.bdaOutCfg i) 31 = false → s.faulted i = false →
    s.flag Reg.bdaStatus (4 + i / 64) = false → ∃ t, exec (.codeWrite p i val) s = .next t ∧
      t.fld (Reg.bdaOutCode i) 15 0 = val.toNat % 65536 ∧ (∀ off, off ≠ Reg.bdaOutCode i → t.reg off = s.reg off) ∧
      alook t.bda.hold i = (if s.drive i = .code ∧ s.fld (Reg.bdaOutCode i) 15 12 ≠ val.toNat % 65536 / 4096 ∧ alook s.bda.hold i = none
        then some (s.fld (Reg.bdaOutCode i) 15 0) else alook s.bda.hold i)) ∧
  (∀ (s : State) p i val, i < 256 → s.reaches p (Reg.bdaOutCode i) = true →
    (s.flag (Reg.bdaOutCfg i) 31 = true ∨ s.faulted i = true ∨ s.flag Reg.bdaStatus (4 + i / 64) = true) →
    exec (.codeWrite p i val) s = .next (((s.bump Reg.bdaCntBadw).raiseBit Reg.bdaSticky 1).noted p mgOk)) ∧
  (∀ (s : State) i, ∃ t, exec (.deglitchEnd i) s = .next t ∧ alook t.bda.hold i = none ∧ t.applied i = t.commanded i ∧
    (∀ j, j ≠ i → alook t.bda.hold j = alook s.bda.hold j) ∧ { t with bda := s.bda } = s) ∧
  (∀ (s : State) p i val, i < 256 → s.reaches p (Reg.bdaOutCfg i) = true → val.toNat % 8 ≤ 4 → val.toNat % 8 ≠ s.fld (Reg.bdaOutCfg i) 2 0 →
    bit s.pins.drain (2 * (i / 32)) = false → s.flag Reg.bdaStatus (4 + i / 64) = false → s.flag Reg.bdaStatus (16 + i / 32) = false →
    s.faulted i = false → s.flag (Reg.bdaOutCfg i) 31 = false →
    ∃ t, exec (.rangeChange p i val) s = .next t ∧ t.fld (Reg.bdaOutCfg i) 2 0 = val.toNat % 8 ∧ t.flag (Reg.bdaOutCfg i) 31 = true ∧
      t.clamped i = true ∧ ∀ off, off ≠ Reg.bdaOutCfg i → t.reg off = s.reg off) ∧
  (∀ (s : State) p i val, i < 256 → s.reaches p (Reg.bdaOutCfg i) = true → val.toNat % 8 ≤ 4 → val.toNat % 8 ≠ s.fld (Reg.bdaOutCfg i) 2 0 →
    (bit s.pins.drain (2 * (i / 32)) = true ∨ s.faulted i = true ∨ s.flag (Reg.bdaOutCfg i) 31 = true) →
    ∃ t, exec (.rangeChange p i val) s = .next t ∧ t.fld (Reg.bdaOutCfg i) 2 0 = s.fld (Reg.bdaOutCfg i) 2 0 ∧
      t.flag Reg.bdaSticky 2 = true) ∧
  (∀ (s : State) i, i < 256 → s.flag (Reg.bdaOutCfg i) 31 = true → s.flag Reg.bdaCtl 16 = false →
    ∃ t, exec (.rangeChangeDone i) s = .next t ∧ t.flag (Reg.bdaOutCfg i) 31 = false ∧
      t.fld (Reg.bdaOutCode i) 15 0 = s.fld (Reg.bdaSafe i (s.fld (Reg.bdaOutCfg i) 2 0)) 15 0) ∧
  (∀ (s : State) i, s.flag (Reg.bdaOutCfg i) 31 = false → exec (.rangeChangeDone i) s = .next s) ∧
  (∀ (s : State) t, t < 4 → s.biasOrigin t = true → s.flag Reg.bdaStatus (4 + t) = true → bit s.bda.loose t = false →
    bit s.bda.noTab t = false → exec (.biasTableLoad t) s = .next (s.loadBias t) ∧
      (bit (s.loadBias t).bda.loose t = (s.loadRecord t 6).1.isSome ∧ bit (s.loadBias t).bda.noTab t = (s.loadRecord t 6).1.isNone)) ∧
  (∀ (s : State) t, t < 4 → s.biasOrigin t = true → bit s.bda.loose t = true →
    ∃ u : State, exec (.clampRelease t) s = .next u ∧ u.flag Reg.bdaStatus (4 + t) = false ∧ (∀ off, off ≠ Reg.bdaStatus → u.reg off = s.reg off) ∧
      { u with regs := s.regs } = s) ∧
  (∀ (s : State) t, bit s.bda.loose t = false → exec (.clampRelease t) s = .next s) ∧
  (∀ (s : State) p t, t < 4 → s.reaches p Reg.bdaCtl = true → bit s.bda.noTab t = true → s.flag Reg.bdaStatus (4 + t) = true →
    ∃ u : State, exec (.release p (BitVec.ofNat 32 (2 ^ t))) s = .next (u.noted p mgOk) ∧ bit u.bda.loose t = true ∧ bit u.bda.noTab t = false ∧
      ∀ i, i < 256 → i / 64 = t → u.fld (Reg.bdaOutCode i) 15 0 = s.fld (Reg.bdaOutPup i) 15 0) ∧
  (∀ (s : State) p t, t < 4 → s.reaches p Reg.bdaCtl = true →
    ∃ u : State, u.mem = s.mem ∧ (∀ off, off ≠ Reg.bdaCtl → u.reg off = s.reg off) ∧
      exec (.biasStore p (BitVec.ofNat 32 (2 ^ (8 + t)))) s = .next ((u.requestStore t 6).noted p mgOk)) ∧
  (∀ (s : State) g, g < 4 → s.up domMgt = true → s.flag (Reg.bdaSgCtl g) 31 = true → bit s.bda.phRst g = false →
    ∃ t, exec (.sgUpdate g) s = .next t ∧ t.reg (Reg.bdaSgPhase g) = s.reg (Reg.bdaSgPhase g) + s.reg (Reg.bdaSgFtw g) ∧ t.mem = s.mem) ∧
  (∀ (s : State) g, g < 4 → s.up domMgt = true → bit s.bda.phRst g = true →
    ∃ t, exec (.sgUpdate g) s = .next t ∧ t.reg (Reg.bdaSgPhase g) = 0 ∧ bit t.bda.phRst g = false) ∧
  (∀ (s : State) p g val, g < 4 → s.reaches p (Reg.bdaSgCtl g) = true → val.getLsbD 30 = true →
    ∃ t, exec (.phRst p g val) s = .next t ∧ bit t.bda.phRst g = true ∧ t.flag (Reg.bdaSgCtl g) 31 = val.getLsbD 31 ∧
      ∀ off, off ≠ Reg.bdaSgCtl g → t.reg off = s.reg off)

/-! ## Array ring -/

/-- Ring ports (R322, R323, R338, R341): the third identical set of capabilities with a common rate begins training, a set for the other
ring is flagged; a timeout or a trained port that fails negotiates again; training that succeeds on every lane brings the
port up; RETRAIN trains an UP port again; ENTER asserts the hold and negotiates, LEAVE, a role of none and a timed-out entry
close the relays; REDISCOVER and discovery begin at the head.
Of these forms it is stated that they complete, under the conditions of their clauses alone: capabilitySet, negotiateTimeout,
renegotiate, trainDone, retrain, enter, leave, rediscover, discovery, enterTimeout. -/
def Obligations.RingPorts : Prop :=
  (∀ (s : State) p ws rate, p < 4 → s.up domRing = true → s.portState p = 1 → s.portTested p = false → ws.length = 4 →
    ws.getD 3 0 = crc32 ((ws.take 3).flatMap wordBytes) → bits (ws.headD 0) 31 24 = 1 → ws.getD 2 0 = 0 →
    bits (ws.headD 0) 14 14 = ringOf p → bit (ws.headD 0) 11 = true → (s.argPort p).last = ws → (s.argPort p).sets = 2 →
    (s.argPort p).ack = true → commonRate (s.fld (Reg.argPortCtl p) 19 16) (bits (ws.headD 0) 23 20) = some rate →
    ∃ t, exec (.capabilitySet p ws) s = .next t ∧ t.portState p = 2 ∧ (t.argPort p).rate = rate ∧
      (t.argPort p).width = min (s.fld (Reg.argPortCtl p) 1 0) (bits (ws.headD 0) 19 18) ∧
      ∀ off, off ≠ Reg.argPortStatus p → t.reg off = s.reg off) ∧
  (∀ (s : State) p ws, p < 4 → s.up domRing = true → s.portState p = 1 → s.portTested p = false → ws.length = 4 →
    ws.getD 3 0 = crc32 ((ws.take 3).flatMap wordBytes) → bits (ws.headD 0) 31 24 = 1 → ws.getD 2 0 = 0 →
    bits (ws.headD 0) 14 14 ≠ ringOf p → exec (.capabilitySet p ws) s = .next (s.raiseBit Reg.argSticky 14)) ∧
  (∀ (s : State) p ws, s.portState p ≠ 1 → exec (.capabilitySet p ws) s = .next s) ∧
  (∀ (s : State) p, p < 4 → s.up domRing = true → s.portState p = 1 → ∃ t, exec (.negotiateTimeout p) s = .next t ∧ t.portState p = 0 ∧
    (t.argPort p).again = true ∧ ∀ off, off ≠ Reg.argPortStatus p → t.reg off = s.reg off) ∧
  (∀ (s : State) p, p < 4 → s.up domRing = true → s.portState p = 0 → (s.argPort p).again = true → s.hold (ringOf p) = true →
    s.portTested p = false → ∃ t, exec (.renegotiate p) s = .next t ∧ t.portState p = 1 ∧ (t.argPort p).sets = 0 ∧
      (t.argPort p).again = false ∧ ∃ l, t.out = .caps p l :: s.out) ∧
  (∀ (s : State) p lanes, p < 4 → s.up domRing = true → s.portState p = 2 → s.portTested p = false → (s.argPort p).width < 4 →
    lanes.length = lanesOf (s.argPort p).width → (∀ x ∈ lanes, s.fld Reg.slnFom 7 0 ≤ fomOf false x.1.1 x.1.2) →
    (∀ l, 16 * p ≤ l → l < 16 * p + lanesOf (s.argPort p).width → l ∈ s.ready) →
    ∃ t, exec (.trainDone p lanes) s = .next t ∧ t.portState p = 3 ∧ t.fld (Reg.argPortStatus p) 27 26 = (s.argPort p).rate % 4 ∧
      t.fld (Reg.argPortStatus p) 25 24 = (s.argPort p).width ∧
      t.reg (Reg.argPortLanes p) = maskOfList (List.range (lanesOf (s.argPort p).width)) ∧ t.mem = s.mem) ∧
  (∀ (s : State) q p val, p < 4 → s.reaches q (Reg.argPortCtl p) = true → (s.portState p = 3 ∨ s.portState p = 4) → ∃ t, exec (.retrain q p val) s = .next t ∧ t.portState p = 4 ∧ (t.argPort p).keep = 0 ∧ t.mem = s.mem) ∧
  (∀ (s : State) q r val, r < 2 → s.reaches q (Reg.argRingCtl r) = true → val.toNat / 2 ^ 29 = 0 →
    (val.toNat / 2 ^ 16 % 4 = 1 ∨ val.toNat / 2 ^ 16 % 4 = 2) → s.hold r = false → s.vote domRing ≠ 0 → s.flag Reg.thmStatus 31 = false →
    s.portTested (eastPort r) = false → s.portTested (westPort r) = false → ∃ u : State, u.hold r = true ∧ u.ringState r = 1 ∧
      u.role r = val.toNat / 2 ^ 16 % 4 ∧ u.portState (eastPort r) = 1 ∧ u.portState (westPort r) = 1 ∧
      exec (.enter q r val) s = .next ((u.voteBit domRing 2 true).noted q mgOk)) ∧
  (∀ (s : State) q r val, r < 2 → s.reaches q (Reg.argRingCtl r) = true → val.toNat / 2 ^ 29 = 0 → s.hold r = true →
    (val.toNat / 2 ^ 16 % 4 = 1 ∨ val.toNat / 2 ^ 16 % 4 = 2) →
    exec (.enter q r val) s = .next ((s.writeFields (Reg.argRingCtl r) (val ||| 0x80000000) 0xFFFFFFFF).noted q mgOk)) ∧
  (∀ (s : State) q r val, r < 2 → s.reaches q (Reg.argRingCtl r) = true → val.toNat / 2 ^ 29 = 0 → s.hold r = true →
    val.toNat / 2 ^ 16 % 4 = 0 → exec (.enter q r val) s
      = .next (((s.writeFields (Reg.argRingCtl r) (val ||| 0x80000000) 0xFFFFFFFF).leaveRing r).noted q mgOk)) ∧
  (∀ (s : State) q r val, r < 2 → s.reaches q (Reg.argRingCtl r) = true → val.toNat / 2 ^ 29 = 0 →
    (val.toNat / 2 ^ 16 % 4 = 1 ∨ val.toNat / 2 ^ 16 % 4 = 2) →
    exec (.leave q r val) s = .next (((s.writeFields (Reg.argRingCtl r) (val ||| 0x40000000) 0xFFFFFFFF).leaveRing r).noted q mgOk)) ∧
  (∀ (s : State) r, r < 2 → s.up domRing = true → (s.bypass r).hold r = false ∧ (s.bypass r).ringState r = 0 ∧
    (s.bypass r).portState (eastPort r) = 0 ∧ (s.bypass r).portState (westPort r) = 0 ∧
    (s.bypass r).hold (1 - r) = s.hold (1 - r) ∧ (s.bypass r).ringState (1 - r) = s.ringState (1 - r)) ∧
  (∀ (s : State) r, s.hold (1 - r) = true → r < 2 → s.leaveRing r = s.bypass r) ∧
  (∀ (s : State) q r val, r < 2 → s.reaches q (Reg.argRingCtl r) = true → val.toNat / 2 ^ 29 = 0 →
    (val.toNat / 2 ^ 16 % 4 = 1 ∨ val.toNat / 2 ^ 16 % 4 = 2) →
    exec (.rediscover q r val) s = .next (((s.writeFields (Reg.argRingCtl r) (val ||| 0x20000000) 0xFFFFFFFF).discover r).noted q mgOk)) ∧
  (∀ (s : State) r, r < 2 → s.up domRing = true → (s.portState (eastPort r) = 3 ∨ s.portState (westPort r) = 3) →
    exec (.discovery r) s = .next (s.discover r)) ∧
  (∀ (s : State) r, r < 2 → s.role r = 2 → (s.discover r).ringState r = 3 ∧ (s.discover r).pos r = 0 ∧
    alook (s.discover r).arg.disc r = some 1) ∧
  (∀ (s : State) r, s.role r ≠ 2 → s.discover r = s) ∧
  (∀ (s : State) r, r < 2 → s.up domRing = true → s.ringState r = 1 → s.portState (eastPort r) < 3 → s.portState (westPort r) < 3 →
    exec (.enterTimeout r) s = .next ((s.bypass r).raiseBit Reg.argSticky 9)) ∧
  (∀ (s : State) r, s.ringState r ≠ 1 → exec (.enterTimeout r) s = .next s)

/-- Cells (R17, R326-R331, R475): a cell leaves only an UP port, numbered and covered by its CRC; one that arrives is judged by CRC,
VOID and SEQ, each counted; downlink and C-plane cells go on outward as they are, VOID where they failed; a member adds its
contribution, where it holds one, to an intact partial sum, sends its own once the deadline has passed, and the head closes each
sum once; unknown types are
dropped and counted.
Of these forms it is stated that they complete, under the conditions of their clauses alone: dlCell, cpCell, psCell, psDeadline,
nbCell, imageCell, unknownCell. -/
def Obligations.RingCells : Prop :=
  (∀ (s : State) p c, s.portState p ≠ 3 → s.sendCell p c = s) ∧
  (∀ (s : State) p c, s.portState p = 3 → s.dropped p c = false → ∃ c' : Cell, (s.sendCell p c).out = .cell p c' :: s.out ∧
    c'.w0 = c.w0 ∧ c'.w1 = BitVec.ofNat 32 (s.argPort p).txSeq ∧ c'.w2 = c.w2 ∧ c'.w3 = c.w3 ∧ c'.payload = c.payload ∧
    c'.crc = c'.crcFor (if s.flag (Reg.argPortStatus p) 10 then s.fld (Reg.argPortStatus p) 9 0 else 0) ∧
    (s.sendCell p c).regs = s.regs ∧ ((s.sendCell p c).argPort p).txSeq = ((s.argPort p).txSeq + 1) % 2 ^ 32) ∧
  (∀ (s : State) p c, p < 4 → s.up domRing = true → s.portState p = 3 → c.crc = c.crcFor (s.argPort p).told → c.void = false →
    (s.argPort p).rxSeq = none → ∃ t, s.recvCell p c = some (t, .good) ∧ (t.argPort p).rxSeq = some c.w1.toNat ∧ t.regs = s.regs) ∧
  (∀ (s : State) p c n, p < 4 → s.up domRing = true → s.portState p = 3 → c.crc ≠ c.crcFor (s.argPort p).told →
    (s.argPort p).rxSeq = some n → c.w1.toNat = (n + 1) % 2 ^ 32 → ∃ t, s.recvCell p c = some (t, .badCrc) ∧ t.flag Reg.argSticky 3 = true ∧
      t.fld (Reg.argRingCnt (ringOf p) 0) 31 0 = min (s.fld (Reg.argRingCnt (ringOf p) 0) 31 0 + 1) (2 ^ 32 - 1)) ∧
  (∀ (s : State) p c n, p < 4 → s.up domRing = true → s.portState p = 3 → c.crc = c.crcFor (s.argPort p).told → c.void = true →
    (s.argPort p).rxSeq = some n → c.w1.toNat ≠ (n + 1) % 2 ^ 32 → ∃ t, s.recvCell p c = some (t, .voided) ∧ t.flag Reg.argSticky 4 = true ∧
      t.fld (Reg.argRingCnt (ringOf p) 1) 31 0 = min (s.fld (Reg.argRingCnt (ringOf p) 1) 31 0 + 1) (2 ^ 32 - 1) ∧
      t.fld (Reg.argRingCnt (ringOf p) 2) 31 0 = min (s.fld (Reg.argRingCnt (ringOf p) 2) 31 0 + 1) (2 ^ 32 - 1)) ∧
  (∀ (s : State) p c, s.role (ringOf p) ≠ 1 ∨ (s.placed (ringOf p) = true ∧ s.lastOfArc (ringOf p) = true) → s.outward p c false = s) ∧
  (∀ (s u : State) p c, c.kind = 1 → s.recvCell p c = some (u, .good) → (u.role (ringOf p) ≠ 1 ∨ u.working (ringOf p) = false) →
    exec (.dlCell p c) s = .next (u.outward p c false)) ∧
  (∀ (s u : State) p c x, c.kind = 1 → s.recvCell p c = some (u, x) → x ≠ .good → exec (.dlCell p c) s = .next (u.outward p c true)) ∧
  (∀ (s u : State) p c dl st t3 l, c.kind = 2 → s.recvCell p c = some (u, .good) → (u.role (ringOf p) ≠ 1 ∨ u.working (ringOf p) = false) →
    exec (.cpCell p c dl st t3 l) s = .next (u.outward p c false)) ∧
  (∀ (s u : State) p c dl st t3 l x, c.kind = 2 → s.recvCell p c = some (u, x) → x ≠ .good →
    exec (.cpCell p c dl st t3 l) s = .next (u.outward p c true)) ∧
  (∀ (s u : State) p c x, c.kind = 3 → s.recvCell p c = some (u, x) → u.role (ringOf p) = 2 →
    exec (.psCell p c) s = .next (u.headSum p c x)) ∧
  (∀ (s u : State) p c x, c.kind = 3 → s.recvCell p c = some (u, x) → u.role (ringOf p) = 1 →
    exec (.psCell p c) s = .next (u.memberSum p c x)) ∧
  (∀ (s : State) p c o, s.working (ringOf p) = true → c.contrib < 2047 → c.repair = false → (p, c.ident (ringOf p)) ∉ s.arg.dead →
    c.ident (ringOf p) ∉ s.arg.closed → s.ownFor c = some o → ∃ c' : Cell, c'.contrib = c.contrib + 1 ∧ c'.w2 = c.w2 ∧ c'.w3 = c.w3 ∧
      c'.payload = packWords (addUnits (unitsOf c.bytes) o).1 ∧ s.memberSum p c .good
      = ((s.bmeCount (3, (addUnits (unitsOf c.bytes) o).2)).forwardCell p c' false).closeSum (c.ident (ringOf p))) ∧
  (∀ (s : State) p c, s.working (ringOf p) = true → c.repair = false → (p, c.ident (ringOf p)) ∉ s.arg.dead →
    c.ident (ringOf p) ∉ s.arg.closed → s.ownFor c = none → s.memberSum p c .good = s.forwardCell p c false) ∧
  (∀ (s : State) p c, c.ident (ringOf p) ∈ s.arg.closed → s.headSum p c .good = s.lateSum) ∧
  (∀ (s : State) p c x, p % 2 = 0 → c.ident (ringOf p) ∉ s.arg.closed → alook s.arg.sums (c.ident (ringOf p)) = some (none, x) →
    s.headSum p c .good = (s.putSide 1 c).settleSum (ringOf p) (c.ident (ringOf p)) (some c.contrib, x)) ∧
  (∀ (s : State) r w2 st num l, r < 2 → s.up domRing = true → s.role r = 1 → s.working r = true →
    ((r * 2 ^ 32 + w2.toNat) * 512 + st % 512) ∉ s.arg.closed → s.ownSums w2 st num = some l → s.awaitsRepair (s.farPort r) = false →
    (if s.lastOfArc r then readyAt l ≤ (s.nowU : Int)
      else s.pastDeadline (readyAt l) (if s.onWest r then (s.beyond r).2 else (s.beyond r).1) = true) →
    exec (.psDeadline r w2 st num) s = .next ((s.sendCell (s.homePort r)
      (ownCell r (s.homePort r % 2 == 1) false (s.pos r) w2 st (l.map (·.vals)))).closeSum ((r * 2 ^ 32 + w2.toNat) * 512 + st % 512))) ∧
  (∀ (s : State) r w2 st num, s.ownSums w2 st num = none → exec (.psDeadline r w2 st num) s = .next s) ∧
  (∀ (s : State) x d, s.pastDeadline x d = true ↔ x + 1536 * (160 * d + s.fld Reg.bmePsMargin 15 0) ≤ (s.nowU : Int)) ∧
  (∀ (s : State) i, i ∈ (s.closeSum i).arg.closed ∧ alook (s.closeSum i).arg.sums i = none ∧ (s.closeSum i).regs = s.regs) ∧
  (∀ (s u : State) p c, c.kind = 6 → s.recvCell p c = some (u, .good) → alook u.cal.runs 24 = none → exec (.nbCell p c) s = .next u) ∧
  (∀ (s u : State) p c k g, c.kind = 6 → s.recvCell p c = some (u, .good) → alook u.cal.runs 24 = some (k, g) → c.sub = 1 →
    (c.payload.headD 0).toNat = g → exec (.nbCell p c) s
      = .next (State.tryXdev { u with cal := { u.cal with nbr := aput u.cal.nbr p (c.payload.getD 1 0) } })) ∧
  (∀ (s u : State) p c, c.kind = 6 → c.sub = 2 → s.recvCell p c = some (u, .good) → u.sec.source ≠ 3 →
    exec (.imageCell p c) s = .next (u.outward p c false)) ∧
  (∀ (s u : State) p c n, c.kind = 6 → c.sub = 2 → s.recvCell p c = some (u, .good) → u.up domCob = true → u.sec.source = 3 →
    u.bootState = 1 → (c.payload.headD 0).toNat ≠ 0 → u.sec.next = some n → n ≠ (c.payload.headD 0).toNat →
    exec (.imageCell p c) s = .next ((u.outward p c false).imageBad 6)) ∧
  (∀ (s u : State) p c x, (c.kind = 0 ∨ 7 < c.kind) → s.recvCell p c = some (u, x) →
    exec (.unknownCell p c) s = .next (u.bump (Reg.argRingCnt (ringOf p) 7)))

/-- Time and roster over the ring (R305, R333-R343): SYNC is answered by REQ, REQ by RESP, RESP ends the exchange; DISCOVER gives a member
its position and goes on with its count; COMMIT, REPORT, ACCEPT, STATUS, LANE, SHED and the ring-failure notice do at
their receiver what they say and go on while HOPS lasts; a decision takes effect at its slot boundary.
Of these forms it is stated that they complete, under the conditions of their clauses alone: tsPeriod, sync, req, resp,
discover, discoverTimeout, commit, report, accept, status, statusMissing, lane, shed, fo, argAccept, rosterCacheLoad. -/
def Obligations.RingRoster : Prop :=
  (∀ (s : State), s.up domRing = true → exec .tsPeriod s = .next s.tsPeriod) ∧
  (∀ (s : State), s.up domRing = true → s.up domTime = false → s.role s.tsRing = 1 → s.placed s.tsRing = true → s.arg.answered = false →
    s.arg.tsMiss = 2 → s.tsPeriod.flag Reg.argSticky 13 = true ∧ s.tsPeriod.arg.tsMiss = 3) ∧
  (∀ (s u : State) p c, c.kind = 4 → c.sub = 1 → s.recvCell p c = some (u, .good) → u.role (ringOf p) = 1 → u.placed (ringOf p) = true →
    p = u.homePort (ringOf p) → ringOf p = u.tsRing → u.up domTime = true → ∃ v : State,
      v.arg.exch = some (stampOf c.payload, u.stampRx p, u.stampTx p) ∧ v.regs = u.regs ∧
      exec (.sync p c) s = .next (v.sendOne p 4 2 (stampWords (u.stampTx p)))) ∧
  (∀ (s u : State) p c, c.kind = 4 → c.sub = 2 → s.recvCell p c = some (u, .good) → u.up domTime = true →
    exec (.req p c) s = .next (u.sendOne p 4 3 (stampWords (u.stampRx p)))) ∧
  (∀ (s u : State) p c t, c.kind = 4 → c.sub = 3 → s.recvCell p c = some (u, .good) → u.arg.exch = some t → p = u.homePort (ringOf p) →
    ringOf p = u.tsRing → u.tmuSrc ≠ 1 → ∃ v, exec (.resp p c) s = .next v ∧ v.arg.exch = none ∧ v.arg.answered = true ∧ v.regs = u.regs) ∧
  (∀ (s u : State) p c k, p < 4 → c.kind = 5 → c.sub = 1 → s.recvCell p c = some (u, .good) → u.role (ringOf p) = 1 →
    (c.payload.headD 0).toNat = k → k < 1023 → ∃ v : State, v.pos (ringOf p) = (if c.west then 1023 - k else k + 1) ∧
      v.onWest (ringOf p) = c.west ∧ v.ringState (ringOf p) = 3 ∧
      exec (.discover p c) s = .next (v.forwardCell p { c with payload := [BitVec.ofNat 32 (k + 1)] } false)) ∧
  (∀ (s u : State) p c, c.kind = 5 → c.sub = 1 → s.recvCell p c = some (u, .good) → u.role (ringOf p) = 0 →
    exec (.discover p c) s = .next u) ∧
  (∀ (s : State) r e w, r < 2 → s.up domRing = true → alook s.arg.disc r = some 1 → s.pairMode = false → ∃ u : State,
    u = (s.raiseBit Reg.argSticky 10).sendOne (westPort r) 5 1 [0] ∧
    exec (.discoverTimeout r e w) s = .next (u.commitRing r (e + w + 1) (min e 1023) (min w 1023) true)) ∧
  (∀ (s : State) r e w, alook s.arg.disc r ≠ some 1 → exec (.discoverTimeout r e w) s = .next s) ∧
  (∀ (s u : State) p c, c.kind = 5 → c.sub = 2 → s.recvCell p c = some (u, .good) →
    exec (.commit p c) s = .next ((u.takeCommit p c).passOn p c)) ∧
  (∀ (s u : State) p c, c.kind = 5 → c.sub = 3 → s.recvCell p c = some (u, .good) → u.role (ringOf p) = 2 →
    exec (.report p c) s = .next (u.takeReport (ringOf p) c.src c.payload)) ∧
  (∀ (s u : State) p c, c.kind = 5 → c.sub = 3 → s.recvCell p c = some (u, .good) → u.role (ringOf p) = 1 →
    exec (.report p c) s = .next (u.forwardCell p c false)) ∧
  (∀ (s : State) r q ws, q < 1024 → ws.length = 9 → s.cached (ws.take 8) = none → ∃ u : State, u.entryState q = 4 ∧
    (∀ j, j < 8 → u.rawWord (rosterWord q (1 + j)) = ws.getD j 0) ∧
    s.takeReport r q ws = (u.raiseBit Reg.argSticky 6).setEv 186) ∧
  (∀ (s u : State) p c, p < 4 → c.kind = 5 → c.sub = 4 → s.recvCell p c = some (u, .good) → u.role (ringOf p) = 1 →
    u.placed (ringOf p) = true → (c.payload.headD 0).toNat = u.pos (ringOf p) → ∃ t, exec (.accept p c) s = .next t ∧
      t.ringState (ringOf p) = (if (c.payload.getD 1 0).getLsbD 0 then 5 else 3) ∧
      ∀ off, off ≠ Reg.argRingStatus (ringOf p) → t.reg off = u.reg off) ∧
  (∀ (s u : State) p c, c.kind = 5 → c.sub = 5 → s.recvCell p c = some (u, .good) → u.role (ringOf p) = 2 →
    exec (.status p c) s = .next (u.takeStatus (ringOf p) c.src c.payload)) ∧
  (∀ (s : State) r q, r < 2 → s.up domRing = true → s.role r = 2 → s.entryState q = 5 →
    exec (.statusMissing r q) s = .next ((s.raiseBit Reg.argSticky 7).discover r)) ∧
  (∀ (s : State) r q, s.entryState q ≠ 5 → exec (.statusMissing r q) s = .next s) ∧
  (∀ (s u : State) p c, c.kind = 5 → c.sub = 6 → s.recvCell p c = some (u, .good) → exec (.lane p c) s = .next
    ((u.noteLink (ringOf p) c.src (c.payload.headD 0).toNat (c.payload.getD 2 0).toNat c.w2).passOn p c)) ∧
  (∀ (s u : State) p c, c.kind = 5 → c.sub = 7 → s.recvCell p c = some (u, .good) → exec (.shed p c) s =
    .next ((u.addPlan ⟨u.unwrapNs (c.payload.getD 4 0), c.payload.take 2, (c.payload.drop 2).take 2,
      u.failedAfter (u.arg.plans.filter (fun q => q.start ≤ u.unwrapNs (c.payload.getD 4 0)))⟩).passOn p c)) ∧
  (∀ (s u : State) p c, c.kind = 7 → s.recvCell p c = some (u, .good) → u.pairMode = true → exec (.fo p c) s = .next
    ((u.planFrom c.w2 (putBit u.failedNext (1 - ringOf p) true) true).passOn p c)) ∧
  (∀ (s u : State) p c, c.kind = 7 → s.recvCell p c = some (u, .good) → u.pairMode = false → exec (.fo p c) s = .next (u.passOn p c)) ∧
  (∀ (s : State) p c, c.contrib ≤ 1 → s.passOn p c = s) ∧
  (∀ (s : State) q val, s.reaches q Reg.argAccept = true → s.entryState (val.toNat % 1024) = 4 → s.role 0 = 2 →
    exec (.argAccept q val) s = .next ((s.judgeEntry 0 (val.toNat % 1024) (val.getLsbD 31)).noted q mgOk)) ∧
  (∀ (s : State) q val, s.reaches q Reg.argAccept = true → s.entryState (val.toNat % 1024) ≠ 4 → exec (.argAccept q val) s = .next (s.noted q mgOk)) ∧
  (∀ (s u : State) d, s.up (domTile 0) = true → s.up domRing = true → s.loadRecord 0 8 = (some d, u) →
    ∃ t, exec .rosterCacheLoad s = .next t ∧ t.arg.cache = d ∧ t.arg.read = true ∧ t.regs = u.regs) ∧
  (∀ (s : State) x, (∀ pl ∈ s.arg.plans, x < ((pl.start * 1536 : Nat) : Int)) → s.landPlan x = s) ∧
  (∀ (s : State) x a b c d, s.arg.plans = [⟨0, [a, b], [c, d], s.arg.failed⟩] → 0 ≤ x → s.heading 0 = false → s.heading 1 = false →
    (s.landPlan x).reg (Reg.argShed 0) = a ∧ (s.landPlan x).reg (Reg.argShed 1) = b ∧ (s.landPlan x).reg (Reg.argMoved 0) = c ∧
    (s.landPlan x).reg (Reg.argMoved 1) = d ∧ (s.landPlan x).arg.plans = [])

/-! ## Serial lanes and fronthaul -/

/-- Serial lanes (R345-R358): a lane in use becomes ready; a lane that loses lock is marked and counted and its ring port narrows to the
lanes both ends keep, or goes down; realignment brings the port up on them; FOM, test patterns, injection and the checker
act on their lane, and a port in use takes no test.
Of these forms it is stated that they complete, under the conditions of their clauses alone: laneReady, laneLoss, keepNotice,
realignDone, fomMeasure, testWrite, inj, injRate, patLock. -/
def Obligations.SerialLanes : Prop :=
  (∀ (s : State) l, l < 80 → laneUp s l = true → s.laneUsed l = true → l ∉ s.ready → ∃ t, exec (.laneReady l) s = .next t ∧
    (∀ m, m ∈ t.ready ↔ m = l ∨ m ∈ s.ready) ∧ { t with ready := s.ready } = s) ∧
  (∀ (s : State) l, (s.laneUsed l = false ∨ l ∈ s.ready) → exec (.laneReady l) s = .next s) ∧
  (∀ (s : State) l c, l < 64 → c ≤ 2 → s.up domRing = true → s.flag (Reg.slnLaneStatus l) 28 = true →
    (s.portState (l / 16) = 3 ∨ s.portState (l / 16) = 4) →
    exec (.laneLoss l c) s = .next ((s.lolMarks l c).narrow (l / 16) ((s.lolMarks l c).lockedLanes (l / 16)))) ∧
  (∀ (s : State) l c, l < 80 → c ≤ 2 → laneUp s l = true → (s.lolMarks l c).flag (Reg.slnLaneLsticky l) 0 = true ∧
    (s.lolMarks l c).fld (Reg.slnLaneStatus l) 29 29 = 0 ∧ (s.lolMarks l c).flag Reg.slnSticky (laneQ l) = true ∧
    (s.lolMarks l c).fld (Reg.slnLaneLolCnt l) 31 0 = min (s.fld (Reg.slnLaneLolCnt l) 31 0 + 1) (2 ^ 32 - 1)) ∧
  (∀ (s : State) p m, p < 4 → keepLanes m ≠ 0 → (s.argPort p).keep ≠ keepLanes m → (s.narrow p m).portState p = 4 ∧ ((s.narrow p m).argPort p).keep = keepLanes m ∧
    (s.narrow p m).out = .keep p (keepLanes m).toNat :: s.out) ∧
  (∀ (s : State) p m, keepLanes m = 0 → s.narrow p m = s.portDown p) ∧
  (∀ (s : State) p m, keepLanes m ≠ 0 → (s.argPort p).keep = keepLanes m → s.narrow p m = s) ∧
  (∀ (s : State) l c, 64 ≤ l → l < 80 → c ≤ 2 → s.flag (Reg.slnLaneStatus l) 28 = true → s.fhLink (lanePort l) = true →
    exec (.laneLoss l c) s = .next ((s.lolMarks l c).linkDown (lanePort l) 0)) ∧
  (∀ (s : State) l c, l < 80 → s.flag (Reg.slnLaneStatus l) 28 = false → exec (.laneLoss l c) s = .next s) ∧
  (∀ (s : State) p m, p < 4 → s.up domRing = true → (s.portState p = 3 ∨ s.portState p = 4) →
    exec (.keepNotice p m) s = .next (s.narrow p (s.lockedLanes p &&& BitVec.ofNat 32 m))) ∧
  (∀ (s : State) p, p < 4 → s.up domRing = true → s.portState p = 4 → (s.argPort p).keep ≠ 0 → ∃ u : State, u.portState p = 3 ∧
    (u.argPort p).keep = 0 ∧ u.reg (Reg.argPortLanes p) = (s.argPort p).keep ∧ u.flag Reg.argSticky 0 = true ∧
    exec (.realignDone p) s = .next ((u.castLane p).noteLink (ringOf p) (u.pos (ringOf p)) p
      (linkMbps (s.fld (Reg.argPortStatus p) 27 26) (popCount (s.argPort p).keep / 4 - 1)) u.tns)) ∧
  (∀ (s : State) p, (s.argPort p).keep = 0 → exec (.realignDone p) s = .next s) ∧
  (∀ eh ew, fomOf false eh ew = min 255 (min (64 * eh / 30000) (64 * ew / 250)) ∧
    fomOf true eh ew = min 255 (min (64 * eh / 15000) (64 * ew / 150))) ∧
  (∀ (s : State) l eh ew e, l < 80 → laneUp s l = true → s.flag (Reg.slnLaneStatus l) 28 = true →
    ∃ t, exec (.fomMeasure l eh ew e) s = .next t ∧ t.fld (Reg.slnLaneStatus l) 23 16 = fomOf (s.pam4 l) eh ew ∧
    t.fld (Reg.slnLaneCodeErr l) 31 0 = min (s.fld (Reg.slnLaneCodeErr l) 31 0 + e) (2 ^ 32 - 1) ∧
    (fomOf (s.pam4 l) eh ew < s.fld Reg.slnFom 15 8 → t.flag (Reg.slnLaneLsticky l) 2 = true ∧ t.flag Reg.slnSticky (8 + laneQ l) = true)) ∧
  (∀ (s : State) p l val, l < 80 → s.reaches p (Reg.slnLaneCtl l) = true → s.lanePortDown l = true → val.getLsbD 8 = false →
    s.patternOk l (val.toNat / 2 ^ 24 % 16) = true → s.patternOk l (val.toNat / 2 ^ 20 % 16) = true →
    exec (.testWrite p l val) s = .next (
      let t := s.writeFields (Reg.slnLaneCtl l) val 0xFFFFFFFF
      let u := if t.flag (Reg.slnLaneCtl l) 31 then t else t.setFlag (Reg.slnLaneStatus l) 27 false
      u.noted p mgOk)) ∧
  (∀ (s : State) p l val, l < 80 → s.reaches p (Reg.slnLaneCtl l) = true → s.lanePortDown l = false →
    (val.getLsbD 31 = true ∨ val.toNat / 2 ^ 29 % 4 ≠ 0) →
    exec (.testWrite p l val) s = .next (((s.bump Reg.slnCntBadw).raiseBit Reg.slnSticky 17).noted p mgOk)) ∧
  (∀ (s : State) p l val, l < 80 → s.reaches p (Reg.slnLaneCtl l) = true → val.toNat / 2 ^ 29 = 0 →
    s.patternOk l (val.toNat / 2 ^ 24 % 16) = true → s.patternOk l (val.toNat / 2 ^ 20 % 16) = true →
    exec (.inj p l val) s = .next (
      let t := s.writeFields (Reg.slnLaneCtl l) (val ||| 0x100) 0xFFFFFFFF
      let u := if t.flag (Reg.slnLaneCtl l) 31 then t else t.setFlag (Reg.slnLaneStatus l) 27 false
      (u.send (.inject l)).noted p mgOk)) ∧
  (∀ (s : State) l, l < 80 → laneUp s l = true → s.fld (Reg.slnLaneCtl l) 7 4 ≠ 0 → exec (.injRate l) s = .next (s.send (.inject l))) ∧
  (∀ (s : State) l, s.fld (Reg.slnLaneCtl l) 7 4 = 0 → exec (.injRate l) s = .next s) ∧
  (∀ (s : State) l e n, l < 80 → laneUp s l = true → s.flag (Reg.slnLaneCtl l) 31 = true → s.flag (Reg.slnLaneStatus l) 27 = false →
    ∃ t, exec (.patLock l true e n) s = .next t ∧ t.flag (Reg.slnLaneStatus l) 27 = true ∧
      ∀ off, off ≠ Reg.slnLaneStatus l → t.reg off = s.reg off) ∧
  (∀ (s : State) l e n, l < 80 → laneUp s l = true → s.flag (Reg.slnLaneCtl l) 31 = true → s.flag (Reg.slnLaneStatus l) 27 = true →
    ∃ t, exec (.patLock l false e n) s = .next t ∧ t.flag (Reg.slnLaneStatus l) 27 = false ∧ t.flag (Reg.slnLaneLsticky l) 1 = true ∧
      t.flag Reg.slnSticky 16 = true ∧ t.fld (Reg.slnLaneErr l) 31 0 = min (s.fld (Reg.slnLaneErr l) 31 0 + e) (2 ^ 32 - 1)) ∧
  (∀ (s : State) l k e n, s.flag (Reg.slnLaneCtl l) 31 = false → exec (.patLock l k e n) s = .next s)

/-- Fronthaul (R359-R374): frames with a bad FCS, a foreign tag or a foreign address go no further; messages with a refused header are
counted, others are judged by their window; frames for the host fill the receive slots in turn, and the host frees them;
a waiting transmit slot is sent once; an uplink frame is sent on the port of its layer with the next sequence number, or
dropped and counted; a link that goes down or comes up shows it.
Of these forms it is stated that they complete, under the conditions of their clauses alone: frame, cPlane, uPlane, hostRxFrame,
hostRxFree, hostTx, hostTxDone, ulSend, ulDrop, linkDown, linkUp. -/
def Obligations.Fronthaul : Prop :=
  (∀ (s : State) i bs, i < 4 → s.fhLink i = true → exec (.frame i bs false) s
    = .next ((s.count (Reg.fhpPortCnt i 1) 31 0 1).raiseBit Reg.fhpSticky 11)) ∧
  (∀ (s : State) i bs v, i < 4 → s.fhLink i = true → (etherOf bs).1 = some v → s.flag (Reg.fhpPortVlan i) 30 = true →
    v ≠ s.fld (Reg.fhpPortVlan i) 11 0 → exec (.frame i bs true) s = .next (s.count (Reg.fhpPortCnt i 2) 31 0 1)) ∧
  (∀ (s : State) i bs, i < 4 → s.fhLink i = true → s.flag (Reg.fhpPortVlan i) 30 = false → s.addressOk i bs = true →
    (etherOf bs).2.1 ≠ 0xAEFE → exec (.frame i bs true) s = .next (s.count (Reg.fhpPortCnt i 0) 31 0 1)) ∧
  (∀ (s : State) i bs, i < 4 → s.fhLink i = true → s.flag (Reg.fhpPortVlan i) 30 = false → s.addressOk i bs = false →
    exec (.frame i bs true) s = .next s) ∧
  (∀ (s : State) i m, i < 4 → s.fhLink i = true → exec (.cPlane i m) s = .next (s.takeC i m)) ∧
  (∀ (s : State) i m, i < 4 → s.fhLink i = true → exec (.uPlane i m) s = .next (s.takeU i m)) ∧
  (∀ (s : State) i m, s.badHeader m.hdr 2 = true → s.takeC i m = s.count (Reg.fhpPortCnt i 2) 31 0 1) ∧
  (∀ (s : State) i m, s.badHeader m.hdr 0 = true → s.takeU i m = s.count (Reg.fhpPortCnt i 2) 31 0 1) ∧
  (∀ (s : State) i c uc t, t - (if uc = true then s.closeUc c else s.closeDl c) < (s.nowU : Int) →
    t - (s.fld (if uc = true then Reg.fhpWinUc c else Reg.fhpWinDl c) 31 16 * 1536000 : Int) ≤ s.nowU →
    s.judgeWindow i c uc t = ((s.count (Reg.fhpPortCnt i 6) 31 0 1).raiseBit Reg.fhpSticky 7, false)) ∧
  (∀ (s : State) i c uc t, (s.nowU : Int) ≤ t - (if uc = true then s.closeUc c else s.closeDl c) →
    t - (s.fld (if uc = true then Reg.fhpWinUc c else Reg.fhpWinDl c) 31 16 * 1536000 : Int) ≤ s.nowU →
    s.judgeWindow i c uc t = (s.count (Reg.fhpPortCnt i 4) 31 0 1, true)) ∧
  (∀ (s : State) i bs tns tfr cls k, i < 4 → s.fhLink i = true → s.hostClass i bs = some cls → (cls = 0 ∨ cls = 3) →
    s.foreignVid i bs = false → s.addressOk i bs = true → (alook s.fhp.rxNext i).getD 0 = k → k < 8 → (s.rawWord (rxSlot i k)).getLsbD 31 = false → bs.length ≤ 240 →
    ∃ t, exec (.hostRxFrame i bs tns tfr) s = .next t ∧ t.rawWord (rxSlot i k) = BitVec.ofNat 32 (2 ^ 31 + cls * 256 + bs.length) ∧
      t.rawWord (rxSlot i k + 4) = (correct tns tfr (- s.asym (Reg.tmuAsymRx (4 + i)))).1 ∧
      t.rawWord (rxSlot i k + 8) = BitVec.ofNat 32 (correct tns tfr (- s.asym (Reg.tmuAsymRx (4 + i)))).2 ∧ (∀ j, j < bs.length → t.byte (rxSlot i k + 16 + j) = bs.getD j 0) ∧
      alook t.fhp.rxNext i = some ((k + 1) % 8) ∧ t.regs = s.regs ∧
      ∀ a, (a < rxSlot i k ∨ rxSlot i k + 256 ≤ a) → t.byte a = s.byte a) ∧
  (∀ (s : State) i bs tns tfr cls, i < 4 → s.fhLink i = true → s.hostClass i bs = some cls → (cls = 0 ∨ cls = 3) →
    s.foreignVid i bs = false → s.addressOk i bs = true → ((s.rawWord (rxSlot i ((alook s.fhp.rxNext i).getD 0))).getLsbD 31 = true ∨ 240 < bs.length) →
    exec (.hostRxFrame i bs tns tfr) s = .next ((s.count (Reg.fhpPortCnt i 8) 31 0 1).raiseBit Reg.fhpSticky 9)) ∧
  (∀ (s : State) i bs tns tfr, s.hostClass i bs = none ∨ s.foreignVid i bs = true ∨ s.addressOk i bs = false →
    exec (.hostRxFrame i bs tns tfr) s = .next s) ∧
  (∀ (s : State) p i k val, i < 4 → k < 8 → s.reaches p (rxSlot i k) = true → val.getLsbD 31 = true →
    ∃ t, exec (.hostRxFree p i k val) s = .next t ∧ t.rawWord (rxSlot i k) = putBit (s.rawWord (rxSlot i k)) 31 false ∧ t.regs = s.regs ∧
      ∀ a, (a < rxSlot i k ∨ rxSlot i k + 4 ≤ a) → t.byte a = s.byte a) ∧
  (∀ (s : State) p i k val, i < 4 → k < 4 → s.reaches p (txSlot i k) = true → (s.rawWord (txSlot i k)).getLsbD 31 = false →
    14 ≤ val.toNat % 256 → val.toNat % 256 ≤ 240 → ∃ t, exec (.hostTx p i k val) s = .next t ∧
      t.rawWord (txSlot i k) = (val &&& 0xC0FF00FF) ∧ t.regs = s.regs ∧ ∀ a, (a < txSlot i k ∨ txSlot i k + 4 ≤ a) → t.byte a = s.byte a) ∧
  (∀ (s : State) p i k val, i < 4 → k < 4 → s.reaches p (txSlot i k) = true → (s.rawWord (txSlot i k)).getLsbD 31 = true →
    exec (.hostTx p i k val) s = .next (s.noted p mgOk)) ∧
  (∀ (s : State) i tns tfr, i < 4 → s.fhLink i = true → (s.rawWord (txSlot i 0)).getLsbD 31 = true →
    ∃ t fr, exec (.hostTxDone i tns tfr) s = .next t ∧ t.out = .frame i fr :: s.out ∧ 64 ≤ fr.length ∧
      t.rawWord (txSlot i 0) = putBit (s.rawWord (txSlot i 0)) 31 false ∧ 
      t.rawWord (txSlot i 0 + 8) = (correct tns tfr (s.asym (Reg.tmuAsymTx (4 + i)))).1 ∧
      t.rawWord (txSlot i 0 + 12) = BitVec.ofNat 32 (correct tns tfr (s.asym (Reg.tmuAsymTx (4 + i)))).2 ∧ t.regs = s.regs) ∧
  (∀ (s : State) i tns tfr, (∀ k, k < 4 → (s.rawWord (txSlot i k)).getLsbD 31 = false) → exec (.hostTxDone i tns tfr) s = .next s) ∧
  (∀ (s : State) c l air id st n, c < 2 → l < 32 → s.up domFh = true → s.up domCrm = true → s.carRuns c = true →
    s.sendsUl l = true → n ≠ 0 →
    s.resultDue c l (s.airAt c air.frame (s.airSym c air)) ((List.range n).map (st + ·)) = true →
    s.fhLink (s.ulPort c l) = true → s.flag Reg.fhpComp 31 = false → s.flag Reg.fhpComp 0 = false → s.fld Reg.fhpComp 7 4 = 0 →
    34 + 4 + 48 * n ≤ s.fld Reg.fhpCtl 29 16 →
    (∀ j x, j < n → s.prbResult c l (s.airAt c air.frame (s.airSym c air)) (st + j) = some x → x.1.length = 24) →
    ∃ t f, exec (.ulSend c l air id st n) s = .next t ∧ Out.uplink f ∈ t.out ∧ f.port = s.ulPort c l ∧ f.air = air ∧ f.id = id ∧
      f.start = st ∧ f.num = n ∧ f.data.length = 48 * n ∧
      alook t.fhp.txSeq (f.port * 2 ^ 16 + f.eaxc) = some ((f.seq + 1) % 256)) ∧
  (∀ (s : State) c l air id st n, c < 2 → l < 32 → s.up domFh = true → s.up domCrm = true → s.carRuns c = true →
    s.sendsUl l = true → n ≠ 0 →
    s.resultDue c l (s.airAt c air.frame (s.airSym c air)) ((List.range n).map (st + ·)) = true →
    s.fhLink (s.ulPort c l) = false → exec (.ulSend c l air id st n) s = .next (s.ulDropped (s.ulPort c l) 1)) ∧
  (∀ (s : State) c l air id st n,
    s.resultDue c l (s.airAt c air.frame (s.airSym c air)) ((List.range n).map (st + ·)) = false →
    exec (.ulSend c l air id st n) s = .next s) ∧
  (∀ (s : State) c l, c < 2 → l < 32 → s.up domFh = true → exec (.ulDrop c l) s
    = .next ((s.count (Reg.fhpPortCnt (s.ulPort c l) 12) 31 0 1).raiseBit Reg.fhpSticky 13)) ∧
  (∀ (s : State) i q, i < 4 → s.fhLink i = true → ∃ t, exec (.linkDown i q) s = .next t ∧ t.fhLink i = false ∧
    t.flag (Reg.fhpPortStatus i) 30 = false ∧ t.flag Reg.fhpSticky i = true ∧ t.mem = s.mem) ∧
  (∀ (s : State) i sp, i < 4 → s.up domFh = true → s.fhLink i = false → s.flag (Reg.fhpPortCtl i) 31 = true →
    s.flag (Reg.fhpPortCtl i) 30 = false → sp = s.fld (Reg.fhpPortCtl i) 26 24 → (∀ j, j < 4 → (64 + 4 * i + j) ∈ s.ready) →
    ∃ t, exec (.linkUp i sp) s = .next t ∧ t.fhLink i = true ∧ t.fld (Reg.fhpPortStatus i) 26 24 = sp ∧ t.mem = s.mem) ∧
  (∀ (s : State) i sp, s.flag (Reg.fhpPortCtl i) 31 = false → exec (.linkUp i sp) s = .next s)

/-! ## Time unit, DMA engine, check-value units, capture engine -/

/-- Time unit (R376-R388): an edge on PPS_IN is captured and measured against the one expected, a missing one advances it and holds over;
the applied rate follows the request; the host's request is taken with its high word; SRC, STEER and steps act under their
conditions; holdover starts from ACQUIRING and LOCKED; generators emit and go to their next edge.
Of these forms it is stated that they complete, under the conditions of their clauses alone: ppsIn, ppsMiss, rateSlew, rateReq,
tmuCtlWrite, steerChange, stepArm, timeStep, holdover, pulseEnable, pulseEdge. -/
def Obligations.TimeUnit : Prop :=
  (∀ (s : State) tns tfr, s.up domTime = true → s.tmuSrc ≠ 2 → ∃ t, exec (.ppsIn tns tfr) s = .next t ∧ t.reg Reg.tmuPpsTns = tns ∧
    t.reg Reg.tmuPpsTfr = BitVec.ofNat 32 (tfr % 65536) ∧
    (∀ off, off ≠ Reg.tmuPpsTns → off ≠ Reg.tmuPpsTfr → t.reg off = s.reg off) ∧ { t with regs := s.regs } = s) ∧
  (∀ (s : State) tns tfr, s.up domTime = true → s.tmuSrc = 2 →
    (tdiff (s.reg Reg.tmuPpsExp) tns * 65536 - (tfr % 65536 : Nat)).natAbs ≤ 500000000 * 65536 → ∃ u : State,
      u.reg Reg.tmuPpsExp = s.reg Reg.tmuPpsExp + 1000000000 ∧ u.reg Reg.tmuPpsTns = tns ∧ exec (.ppsIn tns tfr) s
        = .next (u.measure ((tdiff (s.reg Reg.tmuPpsExp) tns * 65536 - (tfr % 65536 : Nat)) * 250) none 1000000000)) ∧
  (∀ (s : State) tns tfr, s.up domTime = true → s.tmuSrc = 2 →
    500000000 * 65536 < (tdiff (s.reg Reg.tmuPpsExp) tns * 65536 - (tfr % 65536 : Nat)).natAbs →
    ∃ t, exec (.ppsIn tns tfr) s = .next t ∧ t.flag Reg.tmuSticky 4 = true ∧ t.reg Reg.tmuPpsExp = s.reg Reg.tmuPpsExp ∧ t.time = s.time) ∧
  (∀ (s : State), s.up domTime = true → s.tmuSrc = 2 → ∃ u : State, u.reg Reg.tmuPpsExp = s.reg Reg.tmuPpsExp + 1000000000 ∧
    u.flag Reg.tmuSticky 5 = true ∧ u.time = s.time ∧ exec .ppsMiss s = .next u.holdover) ∧
  (∀ (s : State), s.tmuSrc ≠ 2 → exec .ppsMiss s = .next s) ∧
  (∀ (s : State) o d n, (s.measure o d n).reg Reg.tmuOffset = showNs8 o) ∧
  (∀ (s : State), s.up domTime = true → s.steerOn = false → s.tmuState ≠ 3 → -1801439850948 ≤ s.rateReq → s.rateReq ≤ 1801439850948 →
    ∃ t, exec .rateSlew s = .next t ∧ t.rate = s.rateReq ∧ t.time = s.time ∧
      ∀ off, off ≠ Reg.tmuRateLo → off ≠ Reg.tmuRateHi → t.reg off = s.reg off) ∧
  (∀ (s : State), s.up domTime = true → s.steerOn = true → s.ccsHold = false → s.tmuState ≠ 3 → -90071992547 ≤ s.rateReq →
    s.rateReq ≤ 90071992547 → -100000000000 ≤ s.rate → s.rate ≤ 100000000000 →
    ∃ t, exec .rateSlew s = .next t ∧ t.rate = s.rate + clampI (-90) 90 (s.rateReq - s.rate) ∧ t.time = s.time) ∧
  (∀ (s : State) p val, s.reaches p Reg.tmuRateReqHi = true → s.tmuSrc ≠ 0 → ∃ t, exec (.rateReq p val) s = .next t ∧
    t.time.hostReq = pair48 s.time.stage val ∧ pair48 (t.reg Reg.tmuRateReqLo) (t.reg Reg.tmuRateReqHi) = pair48 s.time.stage val ∧
    ∀ off, off ≠ Reg.tmuRateReqLo → off ≠ Reg.tmuRateReqHi → t.reg off = s.reg off) ∧
  (∀ (s : State) p val, s.reaches p Reg.tmuCtl = true → val.toNat / 65536 % 4 ≤ 2 → val.toNat / 65536 % 4 ≠ s.tmuSrc → ∃ u : State,
    u.tmuSrc = val.toNat / 65536 % 4 ∧ u.tmuState = 0 ∧ u.time.good = 0 ∧
    u.flag Reg.tmuStatus 28 = (val.getLsbD 12 != s.steerOn) ∧ u.steerOn = s.steerOn ∧ exec (.tmuCtlWrite p val) s = .next (u.tmuVotes.noted p mgOk)) ∧
  (∀ (s : State), s.up domTime = true → s.flag Reg.tmuStatus 28 = true → s.pairsIdle = true → ∃ t, exec .steerChange s = .next t ∧
    t.steerOn = s.flag Reg.tmuCtl 12 ∧ t.flag Reg.tmuStatus 28 = false ∧ ∀ off, off ≠ Reg.tmuStatus → t.reg off = s.reg off) ∧
  (∀ (s : State), s.pairsIdle = false → exec .steerChange s = .next s) ∧
  (∀ (s : State) p val, s.reaches p Reg.tmuStepArm = true → val.getLsbD 0 = true → s.tmuSrc = 0 → ∃ t, exec (.stepArm p val) s = .next t ∧
    t.time.step = some ((s.reg Reg.tmuStepNs).toInt * 65536 + s.fld Reg.tmuStepFr 15 0) ∧ t.flag Reg.tmuStatus 31 = true ∧
    t.time.t = s.time.t) ∧
  (∀ (s : State) p val, s.reaches p Reg.tmuStepArm = true → val.getLsbD 0 = false → ∃ t, exec (.stepArm p val) s = .next t ∧
    t.time.step = none ∧ t.flag Reg.tmuStatus 31 = false ∧ t.time.t = s.time.t) ∧
  (∀ (s : State) v, s.up domTime = true → s.up domCob = false → (s.flag Reg.tmuStepForce 0 = true ∨ s.pairsIdle = true) →
    s.time.step = some v → ∃ t, exec .timeStep s = .next t ∧ t.time.t = (((s.time.t : Int) + v * 2 ^ 37) % (timeMod : Int)).toNat ∧
      t.time.step = none ∧ t.flag Reg.tmuSticky 2 = true ∧ t.flag Reg.tmuStatus 31 = false) ∧
  (∀ (s : State), (s.flag Reg.tmuStepForce 0 = false ∧ s.pairsIdle = false ∨ s.time.step = none) → exec .timeStep s = .next s) ∧
  (∀ (s : State), s.up domTime = true → s.hostSilent = true → (s.tmuState = 1 ∨ s.tmuState = 2) → ∃ t, exec .holdover s = .next t ∧
    t.tmuState = 3 ∧ t.flag Reg.tmuSticky 1 = true ∧ t.time.good = 0 ∧ t.time.t = s.time.t) ∧
  (∀ (s : State), s.hostSilent = false → exec .holdover s = .next s) ∧
  (∀ (s : State) a, s.time.reqAge = some a → s.hostSilent
    = (s.tmuSrc == 0 && s.fld Reg.tmuHostTmo 15 0 != 0 && decide (s.fld Reg.tmuHostTmo 15 0 * 1000000 ≤ a))) ∧
  (∀ (s : State) p val, s.reaches p Reg.tmuRateReqHi = true → s.tmuSrc = 0 → ∃ t, exec (.rateReq p val) s = .next t ∧
    t.time.hostReq = pair48 s.time.stage val ∧ t.time.reqAge = some 0 ∧
    t.tmuState = (if s.tmuState = 0 ∨ s.tmuState = 3 then 1 else s.tmuState) ∧ t.mem = s.mem) ∧
  (∀ (s : State), s.tmuState = 0 → exec .holdover s = .next s) ∧
  (∀ (s : State) p k val, k < 9 → s.reaches p (Reg.tmuPulseCtl k) = true → val.getLsbD 31 = false → ∃ u : State, (u.pulse k).next = none ∧
    (∀ off, off ≠ Reg.tmuPulseCtl k → u.reg off = s.reg off) ∧ exec (.pulseEnable p k val) s = .next (u.tmuVotes.noted p mgOk)) ∧
  (∀ (s : State) p k val, k < 9 → s.reaches p (Reg.tmuPulseCtl k) = true → val.getLsbD 31 = true → ∃ u : State,
    u.flag (Reg.tmuPulseCtl k) 31 = true ∧ (s.pulsePeriod k ≠ 0 → (u.pulse k).next.isSome = true) ∧
    exec (.pulseEnable p k val) s = .next (u.tmuVotes.noted p mgOk)) ∧
  (∀ (s : State) k e, k < 9 → s.up domTime = true → (s.pulse k).next = some e → s.flag (Reg.tmuPulseCtl k) 31 = true → s.reached e = true →
    ∃ u : State, (u.pulse k).last = some e ∧ (u.pulse k).next
        = (if s.pulsePeriod k = 0 then none else some ((e + s.pulsePeriod k) % 2 ^ 64)) ∧ u.regs = s.regs ∧
      exec (.pulseEdge k) s = .next (
        let v := if k < 8 then u.setEv (160 + k) else u
        let w := s.fld (Reg.tmuPulseShape k) 31 16 * 65536
        if w = 0 then v else v.send (.pulse k (if s.pulsePeriod k = 0 then w else min w (s.pulsePeriod k - 65536))
          (!s.flag (Reg.tmuPulseCtl k) 30)))) ∧
  (∀ (s : State) k e, (s.pulse k).next = some e → s.reached e = false → exec (.pulseEdge k) s = .next s) ∧
  (∀ (s : State), s.up domTime = true → s.steerOn = true →
    s.timeTick.time.t = (((s.time.t : Int) + 2 ^ 53 + s.rate) % (timeMod : Int)).toNat ∧ s.timeTick.regs = s.regs)

/-- DMA engine (R391-R401): GO starts a channel or is refused and counted; the engine takes the head of its queues, urgent first; a copy
that completes has moved its bytes and nothing else, counts and stops at the end of its chain with its event; pacing sets
or overruns the latch; an append counts; an abort leaves the queues.
Of these forms it is stated that they complete, under the conditions of their clauses alone: dmaGo, dmaAbort, append,
channelStart, pace, descriptorDone, nextReread. -/
def Obligations.DmaEngine : Prop :=
  (∀ (s : State) p c val, c < 32 → s.reaches p (Reg.dmaChCtl c) = true → val.getLsbD 30 = false → s.startable c = true →
    exec (.dmaGo p c val) s = .next ((s.startChan c).noted p mgOk)) ∧
  (∀ (s : State) p c val, c < 32 → s.reaches p (Reg.dmaChCtl c) = true → val.getLsbD 30 = false → s.startable c = false →
    exec (.dmaGo p c val) s = .next (((s.bump Reg.dmaCntBadw).raiseBit Reg.dmaSticky 1).noted p mgOk)) ∧
  (∀ (s : State) c, c < 32 → descAddrOk (s.pair64 (Reg.dmaChDescLo c) (Reg.dmaChDescHi c)) = true →
    isDev (s.pair64 (Reg.dmaChDescLo c) (Reg.dmaChDescHi c)) = false → (s.startChan c).chState c = chQueued ∧
    (s.startChan c).chCur c = s.pair64 (Reg.dmaChDescLo c) (Reg.dmaChDescHi c) ∧ (s.startChan c).desc? c = none ∧
    (if s.flag (Reg.dmaChCfg c) 31 = true then c ∈ (s.startChan c).dma.urgent else c ∈ (s.startChan c).dma.normal)) ∧
  (∀ (s : State) c, c < 32 → descAddrOk (s.pair64 (Reg.dmaChDescLo c) (Reg.dmaChDescHi c)) = false → s.up domCob = true →
    (s.startChan c).chState c = chError ∧ (s.startChan c).fld (Reg.dmaChStatus c) 27 24 = 1) ∧
  (∀ (s : State) p c val n bs, c < 32 → s.reaches p (Reg.dmaChCtl c) = true → val.getLsbD 31 = false →
    (s.chState c = chQueued ∨ s.chState c = chPace) → s.dma.active ≠ some c → ∃ t, exec (.dmaAbort p c val n bs) s = .next t ∧
      t.chState c = chAborted ∧ c ∉ t.dma.urgent ∧ c ∉ t.dma.normal ∧ t.mem = s.mem ∧
      ∀ off, off ≠ Reg.dmaChStatus c → t.reg off = s.reg off) ∧
  (∀ (s : State) p c val n bs, c < 32 → s.reaches p (Reg.dmaChCtl c) = true → val.getLsbD 31 = false → s.chState c = chActive →
    exec (.dmaAbort p c val n bs) s = .next ((s.abortActive c n bs).noted p mgOk)) ∧
  (∀ (s : State) p c val n bs, c < 32 → s.reaches p (Reg.dmaChCtl c) = true → val.getLsbD 31 = false → s.startable c = true →
    exec (.dmaAbort p c val n bs) s = .next (s.noted p mgOk)) ∧
  (∀ (s : State) p c val, c < 32 → s.reaches p (Reg.dmaChAppend c) = true → s.chState c ≠ chStopped →
    exec (.append p c val) s = .next ((s.setReg (Reg.dmaChAppendCnt c) (s.reg (Reg.dmaChAppendCnt c) + 1)).noted p mgOk)) ∧
  (∀ (s : State) p c val, c < 32 → s.reaches p (Reg.dmaChAppend c) = true → s.chState c = chStopped → ∃ u : State,
    u.reg (Reg.dmaChAppendCnt c) = s.reg (Reg.dmaChAppendCnt c) + 1 ∧ u.reg (Reg.dmaChAppendSeen c) = s.reg (Reg.dmaChAppendCnt c) + 1 ∧
    u.mem = s.mem ∧ exec (.append p c val) s = .next ((u.askNext c (.fail [])).noted p mgOk)) ∧
  (∀ (s : State) h c l, s.up domCob = true → s.dma.active = none → s.dma.urgent = c :: l →
    exec (.channelStart h) s = .next (s.takeChan c h)) ∧
  (∀ (s : State) h c l, s.up domCob = true → s.dma.active = none → s.dma.urgent = [] → s.dma.normal = c :: l →
    exec (.channelStart h) s = .next (s.takeChan c h)) ∧
  (∀ (s : State) h, (s.dma.active.isSome = true ∨ s.dma.urgent ++ s.dma.normal = []) → exec (.channelStart h) s = .next s) ∧
  (∀ (s : State) c d, c < 32 → dFlag d 31 = false → (s.beginDesc c d).dma.active = some c ∧ (s.beginDesc c d).chState c = chActive ∧
    (s.beginDesc c d).flag Reg.dmaStatus 31 = true ∧ (s.beginDesc c d).fld Reg.dmaStatus 20 16 = c ∧ c ∈ (s.beginDesc c d).dma.begun) ∧
  (∀ (s : State) src, src < 64 → s.up domCob = true → exec (.pace src) s = .next (s.pace src)) ∧
  (∀ (s : State) src c, c < 32 → (∀ b, b < 32 → (s.fld (Reg.dmaChCfg b) 29 24 = src ↔ b = c)) → s.paced c = false → s.chState c ≠ chPace →
    (s.pace src).paced c = true ∧ ∀ off, off ≠ Reg.dmaChStatus c → (s.pace src).reg off = s.reg off) ∧
  (∀ (s : State) src c, c < 32 → (∀ b, b < 32 → (s.fld (Reg.dmaChCfg b) 29 24 = src ↔ b = c)) → s.paced c = true →
    s.pace src = (s.bump (Reg.dmaChPaceOvr c)).raiseBit Reg.dmaSticky 2) ∧
  (∀ (s : State) src next c d, c < 32 → s.dma.active = some c → s.desc? c = some d → c ∈ s.dma.begun →
    exec (.descriptorDone src next) s = .next (s.descDone c d src next)) ∧
  (∀ (s : State) src next c d, c < 32 → isDev (dSrc d) = true → isDev (dDst d) = true → s.devUp (dSrc d) = true → s.devUp (dDst d) = true →
    rangeOk (dSrc d) (dLen d) = true → rangeOk (dDst d) (dLen d) = true → devRsvd (dSrc d) = 0 → devRsvd (dDst d) = 0 →
    dOverlap d = false → dEoc d = true → (∀ a, s.eccAt a = .good) → s.reg (Reg.dmaChAppendCnt c) = s.reg (Reg.dmaChAppendSeen c) →
    (s.descDone c d src next).chState c = chStopped ∧
    (s.descDone c d src next).fld (Reg.dmaChDone c) 31 0 = min (s.fld (Reg.dmaChDone c) 31 0 + 1) (2 ^ 32 - 1) ∧
    (∀ i, i < dLen d → (s.descDone c d src next).byte (devOff (dDst d) + i) = s.byte (devOff (dSrc d) + i)) ∧
    ∀ a, (a < devOff (dDst d) ∨ devOff (dDst d) + dLen d ≤ a) → (s.descDone c d src next).byte a = s.byte a) ∧
  (∀ (s : State) c st th, th < 16 → Await.chan c ∈ (s.thread th).awaits → (st = chError ∨ st = chAborted) →
    ((s.haltChan c st).thread th).fenceFail = true ∧ Await.chan c ∉ ((s.haltChan c st).thread th).awaits) ∧
  (∀ (s : State) src next, s.dma.active = none → exec (.descriptorDone src next) s = .next s) ∧
  (∀ (s : State) c next desc, c ∈ s.dma.again → exec (.nextReread c next desc) s = .next (s.reread c (hostWords next 8) desc)) ∧
  (∀ (s : State) c next desc, c ∉ s.dma.again → exec (.nextReread c next desc) s = .next s)

/-- Check-value units (R404-R409): commands queue their entries in order, a full queue holding the access; an entry that finishes takes
effect on the running value, RESULT and COUNT; a feed of several bytes is the feeds of its bytes in order; halves of 64-bit
values are joined by writer; a configuration with a width or fold length out of range is not taken.
CVFEED hands 1, 2, 4 or 8 bytes of registers to the context, and waits unchanged while its queue is full; CVFEED.A hands the
words from a_i on and leaves a_i after the last (R118, R407).
Of these forms it is stated that they complete, under the conditions of their clauses alone: cvStart, feed8, feed16, feed32,
feed64Lo, feed64Hi, valueWrite, cvCfgWrite, queueEntry, cvfeed, cvfeedA. -/
def Obligations.CheckValueUnits : Prop :=
  (∀ (s : State) p c val, c < 8 → s.reaches p (Reg.cvuCvCtl c) = true → exec (.cvStart p c val) s = .next ((s.cvPush c (.start (s.cvConfig c))).noted p mgOk)) ∧
  (∀ (s : State) p c val, c < 8 → s.reaches p (Reg.cvuCvFeed8 c) = true →
    exec (.feed8 p c val) s = .next ((s.cvPush c (.feed 1 (val.toNat % 256))).noted p mgOk)) ∧
  (∀ (s : State) p c val, c < 8 → s.reaches p (Reg.cvuCvFeed16 c) = true →
    exec (.feed16 p c val) s = .next ((s.cvPush c (.feed 2 (val.toNat % 65536))).noted p mgOk)) ∧
  (∀ (s : State) p c val, c < 8 → s.reaches p (Reg.cvuCvFeed32 c) = true → exec (.feed32 p c val) s = .next ((s.cvPush c (.feed 4 val.toNat)).noted p mgOk)) ∧
  (∀ (s : State) p c lo hi, c < 8 → s.reaches p (Reg.cvuCvFeed64Lo c) = true → s.reaches p (Reg.cvuCvFeed64Hi c) = true →
    ∃ t u : State, exec (.feed64Lo p c lo) s = .next t ∧ t.regs = s.regs ∧ t.cvu.ctx = s.cvu.ctx ∧ u.regs = s.regs ∧ u.cvu.ctx = s.cvu.ctx ∧
      exec (.feed64Hi p c hi) t = .next ((u.cvPush c (.feed 8 (hi.toNat * 2 ^ 32 + lo.toNat))).noted p mgOk)) ∧
  (∀ (s : State) p c hi, c < 8 → s.reaches p (Reg.cvuCvFeed64Hi c) = true → s.cvu.stage = [] → ∃ u : State, u.flag Reg.cvuSticky 1 = true ∧
    u.cvu = s.cvu ∧ exec (.feed64Hi p c hi) s = .next ((u.cvPush c (.feed 8 (hi.toNat * 2 ^ 32))).noted p mgOk)) ∧
  (∀ (s : State) p c lo hi, c < 8 → s.reaches p (Reg.cvuCvValueLo c) = true → s.reaches p (Reg.cvuCvValueHi c) = true →
    ∃ t u : State, exec (.valueWrite p c false lo) s = .next t ∧ t.regs = s.regs ∧ u.regs = s.regs ∧ u.cvu.ctx = s.cvu.ctx ∧
      exec (.valueWrite p c true hi) t = .next ((u.cvPush c (.set (hi.toNat * 2 ^ 32 + lo.toNat))).noted p mgOk)) ∧
  (∀ (s : State) p c val, c < 8 → s.reaches p (Reg.cvuCvCfg c) = true → 1 ≤ val.toNat % 128 → val.toNat % 128 ≤ 64 →
    val.toNat / 65536 % 16 ≤ 8 → exec (.cvCfgWrite p c val) s = .next ((s.writeFields (Reg.cvuCvCfg c) val 0xFFFFFFFF).noted p mgOk)) ∧
  (∀ (s : State) p c val, c < 8 → s.reaches p (Reg.cvuCvCfg c) = true → ∃ t, exec (.cvCfgWrite p c val) s = .next t ∧
    t.fld (Reg.cvuCvCfg c) 6 0 = (if val.toNat % 128 = 0 ∨ 64 < val.toNat % 128 then s.fld (Reg.cvuCvCfg c) 6 0 else val.toNat % 128) ∧
    t.fld (Reg.cvuCvCfg c) 19 16 = (if 8 < val.toNat / 65536 % 16 then s.fld (Reg.cvuCvCfg c) 19 16 else val.toNat / 65536 % 16) ∧
    t.flag (Reg.cvuCvCfg c) 31 = val.getLsbD 31 ∧ t.flag (Reg.cvuCvCfg c) 30 = val.getLsbD 30 ∧
    (val.toNat % 128 = 0 ∨ 64 < val.toNat % 128 ∨ 8 < val.toNat / 65536 % 16 →
      t.fld Reg.cvuCntBadw 31 0 = min (s.fld Reg.cvuCntBadw 31 0 + 1) (2 ^ 32 - 1) ∧ t.flag Reg.cvuSticky 0 = true)) ∧
  (∀ (s : State) c e, c < 8 → (s.cv c).queue.length < 8 → ((s.cvPush c e).cv c).queue = (s.cv c).queue ++ [e] ∧
    (s.cvPush c e).flag (Reg.cvuCvCtl c) 30 = true ∧ (s.cvPush c e).fld (Reg.cvuCvCtl c) 3 0 = (s.cv c).queue.length + 1 ∧
    (s.cvPush c e).cvValue c = s.cvValue c) ∧
  (∀ (s : State) c e x q, c < 8 → (s.cv c).queue = x :: q → q.length = 7 → ((s.cvPush c e).cv c).queue = q ++ [e]) ∧
  (∀ (s : State) c g q, c < 8 → s.up domCob = true → (s.cv c).queue = .start g :: q → ∃ t, exec (.queueEntry c) s = .next t ∧
    (t.cv c).queue = q ∧ (t.cv c).cfg = g ∧ t.cvValue c = g.begin % 2 ^ 64 ∧ t.reg (Reg.cvuCvCount c) = 0 ∧
    t.pair64 (Reg.cvuCvResultLo c) (Reg.cvuCvResultHi c) = g.result g.begin % 2 ^ 64 ∧ t.mem = s.mem) ∧
  (∀ (s : State) c n d q, c < 8 → s.up domCob = true → (s.cv c).queue = .feed n d :: q → ∃ t, exec (.queueEntry c) s = .next t ∧
    (t.cv c).queue = q ∧ (t.cv c).cfg = (s.cv c).cfg ∧ t.cvValue c = (s.cv c).cfg.feed (s.cvValue c) n d % 2 ^ 64 ∧
    t.fld (Reg.cvuCvCount c) 31 0 = min (s.fld (Reg.cvuCvCount c) 31 0 + n) (2 ^ 32 - 1) ∧
    t.pair64 (Reg.cvuCvResultLo c) (Reg.cvuCvResultHi c)
      = (s.cv c).cfg.result ((s.cv c).cfg.feed (s.cvValue c) n d) % 2 ^ 64 ∧ t.mem = s.mem) ∧
  (∀ (s : State) c, (s.cv c).queue = [] → exec (.queueEntry c) s = .next s) ∧
  (∀ (s : State) c v q, c < 8 → s.up domCob = true → (s.cv c).queue = .set v :: q → ∃ t, exec (.queueEntry c) s = .next t ∧
    (t.cv c).queue = q ∧ t.cvValue c = v % 2 ^ (s.cv c).cfg.width % 2 ^ 64 ∧ t.reg (Reg.cvuCvCount c) = s.reg (Reg.cvuCvCount c) ∧
    t.mem = s.mem) ∧
  (∀ (g : CvCfg) v m n d, g.feed v (m + n) d = g.feed (g.feed v m d) n (d / 256 ^ m)) ∧
  (∀ (g : CvCfg) v n d, 1 ≤ g.width → g.poly < 2 ^ g.width → v < 2 ^ g.width → g.feed v n d < 2 ^ g.width) ∧
  (∀ s th cv w g f, State.RunsOn s th (.cvfeed cv w g) f → f.cvFull cv = false →
    exec (.cvfeed th) s = .next (((f.begun th).cvPush cv (
      if w = 0 then .feed 1 ((f.g th g).toNat % 2 ^ 8) else if w = 1 then .feed 2 ((f.g th g).toNat % 2 ^ 16)
      else if w = 2 then .feed 4 (f.g th g).toNat
      else .feed 8 ((f.g th g).toNat + (f.g th (g + 1)).toNat * 2 ^ 32))).advance th 1)) ∧
  (∀ s th cv w g f, State.RunsOn s th (.cvfeed cv w g) f → f.cvFull cv = true → exec (.cvfeed th) s
    = .next ((f.begun th).setThread th { f.thread th with skipBp := true, reading := false })) ∧
  (∀ s th cv i n f g, State.RunsOn s th (.cvfeedA cv i n) f → (f.begun th).feedWords th cv i n = (g, .next) →
    exec (.cvfeedA th) s = .next (g.advance th 1)) ∧
  (∀ (s : State) th cv i n w g, s.loadWord (s.a24 th i) = (.ok w, g) → s.feedWords th cv i (n + 1)
    = ((g.cvPush cv (.feed 4 w.toNat)).setA th i (g.a24 th i + 4)).feedWords th cv i n) ∧
  (∀ (s : State) th cv i n c g, s.loadWord (s.a24 th i) = (.error c, g) → s.feedWords th cv i (n + 1) = (g, .fault c))

/-- Capture engine (R415-R424): a record enters the ring of the segment at its place while armed, and nowhere otherwise; ARM latches the
configuration and starts before the trigger, a refused one is counted; a trigger moves on to POST, outside PRE it is only
counted; the close writes its header; REARM goes on or ends; PART is taken only while idle.
Of these forms it is stated that they complete, under the conditions of their clauses alone: tnsWrap, capArm, capDisarm,
capForce, partWrite, sequencerHit, sequencerTimeout, autoTrigger, captureClose, rearmEnd. -/
def Obligations.CaptureEngine : Prop :=
  (∀ (s : State) src p0 p1, s.capState = 1 → (s.cap.depth < 256 ∨ src = 0x300) → ∃ t, s.capRecord src p0 p1 = t ∧ t.cap.total = s.cap.total + 1 ∧ t.cap.pre = s.cap.pre + 1 ∧
    t.rawWord (s.capSeg + 0x40 + 16 * (s.cap.total % s.capC)) = s.tns ∧
    t.rawWord (s.capSeg + 0x40 + 16 * (s.cap.total % s.capC) + 8) = p0 ∧ t.rawWord (s.capSeg + 0x40 + 16 * (s.cap.total % s.capC) + 12) = p1 ∧
    t.regs = s.regs ∧ ∀ a, (a < s.capSeg + 0x40 + 16 * (s.cap.total % s.capC) ∨ s.capSeg + 0x40 + 16 * (s.cap.total % s.capC) + 16 ≤ a) →
      t.byte a = s.byte a) ∧
  (∀ (s : State) src p0 p1, (s.capState = 0 ∨ s.capState = 3) → s.capRecord src p0 p1 = s) ∧
  (∀ (s : State) src p0 p1, (s.capState = 1 ∨ s.capState = 2 ∧ s.cap.post < 1 + (s.capCfg Reg.capPost).toNat) → 256 ≤ s.cap.depth →
    src ≠ 0x300 → (s.capRecord src p0 p1).cap = { s.cap with lostNow := true, lost := s.cap.lost + 1 } ∧
      (s.capRecord src p0 p1).flag Reg.capSticky 1 = true ∧ (s.capRecord src p0 p1).mem = s.mem) ∧
  (∀ (s : State) k u v, alook s.cap.prev k = some u → (v &&& s.probeMask k) ≠ (u &&& s.probeMask k) →
    bit (s.capCfg Reg.capSrcEn) k = true → s.probeOne k v = s.capRecord k (BitVec.ofNat 32 (v + u * 256)) 0) ∧
  (∀ (s : State) k u v, alook s.cap.prev k = some u →
    ((v &&& s.probeMask k) = (u &&& s.probeMask k) ∨ bit (s.capCfg Reg.capSrcEn) k = false) → s.probeOne k v = s) ∧
  (∀ (s : State), s.capState = 1 → exec .tnsWrap s = .next (s.capRecord 0x301 (BitVec.ofNat 32 (s.time.t / 2 ^ 85 % 65536)) 0)) ∧
  (∀ (s : State), (s.capState = 0 ∨ s.capState = 3) → exec .tnsWrap s = .next s) ∧
  (∀ (s : State) p val, s.reaches p Reg.capCtl = true → val.toNat / 2 ^ 29 = 0 → s.capState = 0 → s.capD ≠ 0 →
    ∃ t, exec (.capArm p val) s = .next t ∧ t.capState = 1 ∧ t.fld Reg.capStatus 19 16 = 0 ∧ t.fld Reg.capStatus 26 24 = 0 ∧
      t.cap.total = 0 ∧ t.cap.trig = none ∧ t.mem = s.mem) ∧
  (∀ (s : State) p val, s.reaches p Reg.capCtl = true → val.toNat / 2 ^ 29 = 0 → (s.capD = 0 ∨ s.capState = 1 ∨ s.capState = 2) →
    exec (.capArm p val) s = .next ((((s.writeFields Reg.capCtl (val ||| 0x80000000) 0xFFFFFFFF).bump Reg.capCntBadw).raiseBit Reg.capSticky 4).noted p mgOk)) ∧
  (∀ (s : State) p val, s.reaches p Reg.capCtl = true → val.toNat / 2 ^ 29 = 0 → (s.capState = 1 ∨ s.capState = 2) →
    exec (.capDisarm p val) s = .next (((s.writeFields Reg.capCtl (val ||| 0x40000000) 0xFFFFFFFF).capClose true).noted p mgOk)) ∧
  (∀ (s : State) p val, s.reaches p Reg.capCtl = true → val.toNat / 2 ^ 29 = 0 → s.capState = 0 →
    exec (.capDisarm p val) s = .next ((s.writeFields Reg.capCtl (val ||| 0x40000000) 0xFFFFFFFF).noted p mgOk)) ∧
  (∀ (s : State) p val, s.reaches p Reg.capCtl = true → val.toNat / 2 ^ 29 = 0 →
    exec (.capForce p val) s = .next (((s.writeFields Reg.capCtl (val ||| 0x20000000) 0xFFFFFFFF).capForced false).noted p mgOk)) ∧
  (∀ (s : State), (s.capState ≠ 1 ∨ s.hitDue = false) → s.capForced false = s.capTrigger true false) ∧
  (∀ (s : State) a, s.capState = 1 → s.hitDue = true → bits s.seqCond 27 24 = 8 → s.capForced a = s.capTrigger false false) ∧
  (∀ (s : State) f a, s.capState = 1 → ∃ u : State, u.capState = 2 ∧
    u.cap.trig = some (s.tns, s.tfr, f, a, s.fld Reg.capStatus 26 24) ∧ s.capTrigger f a = (u.capRecord 0x300
      (BitVec.ofNat 32 (f.toNat * 2 ^ 31 + a.toNat * 2 ^ 30 + s.fld Reg.capStatus 26 24)) 0).setEv 173) ∧
  (∀ (s : State) f a, s.capState ≠ 1 → s.capTrigger f a = (s.bump Reg.capMissedTrig).raiseBit Reg.capSticky 2) ∧
  (∀ (s : State) p val, s.reaches p Reg.capPart = true → s.capState = 0 →
    exec (.partWrite p val) s = .next ((s.writeFields Reg.capPart val 0xFFFFFFFF).noted p mgOk)) ∧
  (∀ (s : State) p val, s.reaches p Reg.capPart = true → s.capState ≠ 0 →
    exec (.partWrite p val) s = .next (((s.bump Reg.capCntBadw).raiseBit Reg.capSticky 4).noted p mgOk)) ∧
  (∀ (s : State), s.hitDue = true ↔ (1 ≤ bits s.seqCond 31 28 ∧ bits s.seqCond 31 28 ≤ 7 ∧
    max 1 (s.capCfg (Reg.capStCount (s.fld Reg.capStatus 26 24))).toNat ≤ s.cap.hits)) ∧
  (∀ (s : State), s.up domCob = true → s.capState = 1 → s.hitDue = true →
    exec .sequencerHit s = .next (s.capGo (bits (s.capCfg (Reg.capStCond (s.fld Reg.capStatus 26 24))) 27 24))) ∧
  (∀ (s : State), s.up domCob = true → s.capState ≠ 1 → s.hitDue = true → bits s.seqCond 27 24 = 8 →
    exec .sequencerHit s = .next ((s.bump Reg.capMissedTrig).raiseBit Reg.capSticky 2)) ∧
  (∀ (s : State), s.hitDue = false → exec .sequencerHit s = .next s) ∧
  (∀ (s : State) n, n < 8 → (s.capGo n).fld Reg.capStatus 26 24 = n ∧ (s.capGo n).capState = s.capState ∧ (s.capGo n).mem = s.mem) ∧
  (∀ (s : State), s.capGo 8 = s.capTrigger false false) ∧
  (∀ (s : State), s.up domCob = true → s.capState = 1 → s.capCfg (Reg.capStTimer (s.fld Reg.capStatus 26 24)) ≠ 0 →
    (s.capCfg (Reg.capStTimer (s.fld Reg.capStatus 26 24))).toNat ≤ s.cap.timer → s.hitDue = false →
    exec .sequencerTimeout s = .next (s.capGo (bits (s.capCfg (Reg.capStCond (s.fld Reg.capStatus 26 24))) 23 20))) ∧
  (∀ (s : State), s.capState ≠ 1 → exec .sequencerTimeout s = .next s) ∧
  (∀ (s : State), s.cap.timer < (s.capCfg (Reg.capStTimer (s.fld Reg.capStatus 26 24))).toNat → exec .sequencerTimeout s = .next s) ∧
  (∀ (s : State), s.up domCob = true → s.capState = 1 → bit (s.capCfg Reg.capCtl) 27 = true → s.cap.age = s.autoTmo → s.hitDue = false →
    exec .autoTrigger s = .next ((({ s with cap := { s.cap with age := s.cap.age + 1 } } : State).capTrigger true true).raiseBit Reg.capSticky 3)) ∧
  (∀ (s : State), s.cap.age ≠ s.autoTmo → exec .autoTrigger s = .next s) ∧
  (∀ (s : State), bit (s.capCfg Reg.capCtl) 27 = false → exec .autoTrigger s = .next s) ∧
  (∀ (s : State), s.capState = 2 → 1 + (s.capCfg Reg.capPost).toNat ≤ s.cap.post → exec .captureClose s = .next (s.capClose false)) ∧
  (∀ (s : State), (s.capState ≠ 2 ∨ s.cap.post < 1 + (s.capCfg Reg.capPost).toNat) → exec .captureClose s = .next s) ∧
  (∀ (s : State) d, s.cap.closed < 2 ^ 32 - 1 → (∀ x, s.cap.trig = some x → x.2.2.2.2 < 8) → (s.capClose d).capState = 3 ∧ (s.capClose d).cap.closed = s.cap.closed + 1 ∧
    (s.capClose d).rawWord s.capSeg = BitVec.ofNat 32 (s.cap.closed + 1) ∧
    ((s.capClose d).rawWord (s.capSeg + 4)).getLsbD 31 = true ∧ ((s.capClose d).rawWord (s.capSeg + 4)).getLsbD 26 = d ∧
    ∀ a, (a < s.capSeg ∨ s.capSeg + 0x40 ≤ a) → (s.capClose d).byte a = s.byte a) ∧
  (∀ (s : State), s.capState = 3 → 64 ≤ s.cap.wait → (s.cap.held = true ∨ (s.flag Reg.capCtl 28 = true ∧ s.cap.noRep = false)) →
    ∃ t, exec .rearmEnd s = .next t ∧ t.capState = 1 ∧ t.cap.held = false ∧ t.cap.total = 0) ∧
  (∀ (s : State), s.capState = 3 → 64 ≤ s.cap.wait → s.cap.held = false → s.flag Reg.capCtl 28 = false → ∃ t, exec .rearmEnd s = .next t ∧ t.capState = 0 ∧
    t.cap.noRep = false ∧ t.mem = s.mem) ∧
  (∀ (s : State), (s.capState ≠ 3 ∨ s.cap.wait < 64) → exec .rearmEnd s = .next s)

/-! ## The whole machine -/

/-- A step takes the command at the front of the queue and runs it on the state with the queue's rest; with no command waiting a
nanosecond of network time passes (the model's choice, log 11), which leaves the queue and the non-volatile store as they are,
and memory too while neither COB nor CRM is up. -/
def Obligations.StepRunsFrontCommand : Prop :=
  (∀ (s : State) c rest, step { s with pending := c :: rest } = exec c { s with pending := rest }) ∧
  (∀ (s : State), s.pending = [] → step s = .next s.tick) ∧
  (∀ (s : State), s.up domTime = true → s.tick.time.t = (((s.time.t : Int) + 2 ^ 53 + s.rate) % (timeMod : Int)).toNat) ∧
  (∀ (s : State), s.tick.pending = s.pending ∧ s.tick.nvm = s.nvm) ∧
  (∀ (s : State), s.up domCob = false → s.up domCrm = false → s.tick.mem = s.mem ∧ s.tick.out = s.out)

/-- The device right after a power-on reset (R19, R466, R484): every register at the reset value of its table, AON up and every
other domain OFF, every thread HALTED, network time 0, the cause POR shown, no command waiting, the link and the management
port not answering; memories that nothing has written read 0 (the model's choice, log 3); the state is in canonical form. -/
def Obligations.ResetState : Prop :=
  State.reset.pending = [] ∧ State.reset.wf = true ∧ (∀ off, State.reset.reg off = resetOf off) ∧
  (∀ d, 1 ≤ d → d ≤ 11 → State.reset.domState d = 0) ∧ State.reset.up 0 = true ∧
  (∀ th, th < 16 → State.reset.thState th = stHalted ∧ State.reset.pc th = 0) ∧ State.reset.tns = 0 ∧
  State.reset.reg Reg.glbResetCause = 1 ∧ State.reset.reg Reg.tmuStatus = 0x40000000 ∧
  State.reset.reg (Reg.cvuCvCfg 0) = 0xC0000020 ∧ State.reset.reg (Reg.cvuCvPolyLo 7) = 0x04C11DB7 ∧
  State.reset.linkUp = false ∧ State.reset.mgmtAnswers = false ∧
  (∀ a, State.reset.byte a = 0) ∧ (∀ a, State.reset.eccAt a = .good)

/-- Every command completes: whatever the state and the operands, exec answers a next state, and its queue is the one it was given. -/
def Obligations.CommandsCompleteAndLeaveQueue : Prop :=
  ∀ (c : Instr) (s : State), ∃ t, exec c s = .next t ∧ t.pending = s.pending

/-- The canonical form is kept: from every state in which each sparse store has strictly rising keys and no entry at its default,
every step answers such a state, whatever command it takes. -/
def Obligations.CanonicalFormKept : Prop :=
  ∀ (s t : State), s.wf = true → step s = .next t → t.wf = true

/-- Instruction words (R84, R85): an instruction determines its word, every bit of it. Two words that are the same instruction are
equal, or are a WREG, WREG.M or RREG without a base and differ only in the base field that is not used then (R111). The
zero word and a word of an unassigned major opcode are no instruction; words written out from the tables decode. -/
def Obligations.InstructionDeterminesWord : Prop :=
  (∀ w v o, w < 2 ^ 64 → v < 2 ^ 64 → decodeOp w = some o → decodeOp v = some o →
    w = v ∨ (fw w 63 58 = 0x0D ∧ bw w 43 = false ∧ bw v 43 = false ∧ fw w 63 48 = fw v 63 48 ∧ fw w 43 0 = fw v 43 0)) ∧
  (∀ w, fw w 63 58 ∉ [0x00, 0x01, 0x02, 0x04, 0x05, 0x08, 0x0C, 0x0D, 0x0E, 0x0F, 0x10, 0x11, 0x12, 0x13, 0x14] → decodeOp w = none) ∧
  decodeOp 0 = none ∧
  decodeOp (2 ^ 52) = some .nop ∧
  decodeOp (1 * 2 ^ 58 + 1 * 2 ^ 47 + 2 * 2 ^ 42 + 3 * 2 ^ 37) = some (.alu .add 1 2 (.spec 3)) ∧
  decodeOp (0x04 * 2 ^ 58 + 5 * 2 ^ 47 + 2 * 2 ^ 44 + 1 * 2 ^ 42) = some (.ld 5 ⟨2, 1, 0, false⟩) ∧
  decodeOp 0x2018000130000000 = some (.atR 8 1 3 0) ∧
  decodeOp 0x3003400000000001 = some (.pstate 3 1 0 (.imm 1)) ∧
  decodeOp (0x0D * 2 ^ 58 + 13 * 2 ^ 48 + 0x00100094) = some (.wreg 13 none none 0x00100094) ∧
  decodeOp 0x4840A28000000800 = some (.mulB .cmac 0 1 2 false false true false true false (.imm 2048))
end

