-- ==== Sys2Proof/Laws/Bits.lean ====
section
/-! SUPPORT. Bit fields: what a field reads as after a field has been set. -/
namespace Sys2Proof.Machine

theorem testBit_bits (w : Word) (hi lo i : Nat) :
    (bits w hi lo).testBit i = (decide (i < hi + 1 - lo) && w.getLsbD (lo + i)) := by
  simp [bits, Nat.testBit_mod_two_pow, Nat.testBit_shiftRight, BitVec.getLsbD]

theorem bits_lt (w : Word) (hi lo : Nat) : bits w hi lo < 2 ^ (hi + 1 - lo) := Nat.mod_lt _ (Nat.two_pow_pos _)

theorem getLsbD_maskOf (hi lo i : Nat) :
    (maskOf hi lo).getLsbD i = (decide (i < 32) && (decide (lo ≤ i) && decide (i < hi + 1))) := by
  simp only [maskOf, BitVec.getLsbD_ofNat, Nat.testBit_shiftLeft, Nat.testBit_two_pow_sub_one]
  congr 1
  by_cases h : lo ≤ i
  · have : (i - lo < hi + 1 - lo) ↔ i < hi + 1 := by omega
    simp [h, this]
  · simp [h]

/-- Bit by bit: the field is written, the rest stays. -/
theorem getLsbD_setBits (w : Word) (hi lo v i : Nat) :
    (setBits w hi lo v).getLsbD i
      = (decide (i < 32) && if lo ≤ i ∧ i < hi + 1 then v.testBit (i - lo) else w.getLsbD i) := by
  by_cases h32 : i < 32
  · simp only [setBits, BitVec.getLsbD_or, BitVec.getLsbD_and, BitVec.getLsbD_not, getLsbD_maskOf, BitVec.getLsbD_ofNat,
      Nat.testBit_shiftLeft, Nat.testBit_mod_two_pow, h32, decide_true, Bool.true_and]
    by_cases h1 : lo ≤ i
    · by_cases h2 : i < hi + 1
      · have : i - lo < hi + 1 - lo := by omega
        simp [h1, h2, this]
      · have : ¬ (i - lo < hi + 1 - lo) := by omega
        simp [h1, h2, this]
    · simp [h1]
  · simp [BitVec.getLsbD_of_ge _ _ (Nat.le_of_not_lt h32), h32]

/-- A field reads as it was set. -/
theorem bits_setBits (w : Word) (hi lo v : Nat) (h : hi < 32) :
    bits (setBits w hi lo v) hi lo = v % 2 ^ (hi + 1 - lo) := by
  apply Nat.eq_of_testBit_eq
  intro i
  rw [testBit_bits, Nat.testBit_mod_two_pow, getLsbD_setBits]
  by_cases hi' : i < hi + 1 - lo
  · have h1 : lo + i < 32 := by omega
    have h2 : lo ≤ lo + i ∧ lo + i < hi + 1 := by omega
    simp [hi', h1, h2]
  · simp [hi']

/-- A field apart from the one set stays. -/
theorem bits_setBits_ne (w : Word) (hi lo v hi' lo' : Nat) (h : hi' < lo ∨ hi < lo') (h32 : hi' < 32) :
    bits (setBits w hi lo v) hi' lo' = bits w hi' lo' := by
  apply Nat.eq_of_testBit_eq
  intro i
  rw [testBit_bits, testBit_bits, getLsbD_setBits]
  by_cases hi' : i < hi' + 1 - lo'
  · have h1 : lo' + i < 32 := by omega
    rw [if_neg (by omega)]
    simp [hi', h1]
  · simp [hi']

theorem bit_setBits (w : Word) (hi lo v i : Nat) (h : i < 32) :
    bit (setBits w hi lo v) i = if lo ≤ i ∧ i < hi + 1 then v.testBit (i - lo) else bit w i := by
  unfold bit
  rw [getLsbD_setBits, decide_eq_true h, Bool.true_and]

/-- A bit as a field of one bit. -/
theorem bit_setBits_self (w : Word) (i : Nat) (b : Bool) (h : i < 32) : bit (setBits w i i b.toNat) i = b := by
  rw [bit_setBits _ _ _ _ _ h]
  cases b <;> simp

theorem bit_setBits_other (w : Word) (i j : Nat) (b : Bool) (hj : j < 32) (h : j ≠ i) :
    bit (setBits w i i b.toNat) j = bit w j := by
  rw [bit_setBits _ _ _ _ _ hj, if_neg (by omega)]

end Sys2Proof.Machine
end

