-- ==== Sys2Proof/Laws/Sparse.lean ====
section
/-! SUPPORT. Sparse maps: reading after writing, and the canonical form is kept. -/
namespace Sys2Proof.Machine

variable {α : Type}

theorem sget_sdel (d : Nat → α) (l : List (Nat × α)) (k j : Nat) :
    sget d (sdel l k) j = if j = k then d j else sget d l j := by
  induction l with
  | nil => simp [sdel, sget]
  | cons p r ih =>
    simp only [sdel, List.filter_cons] at ih ⊢
    by_cases h : p.1 = k <;> by_cases h2 : p.1 = j <;> by_cases h3 : j = k <;> simp_all [sget]

theorem sget_sins (d : Nat → α) (l : List (Nat × α)) (k j : Nat) (v : α) (h : ∀ p ∈ l, p.1 ≠ k) :
    sget d (sins l k v) j = if j = k then v else sget d l j := by
  induction l with
  | nil =>
    by_cases hj : j = k
    · simp [sins, sget, hj]
    · have hk : ¬ k = j := fun e => hj e.symm
      simp [sins, sget, hj, hk]
  | cons p r ih =>
    have hr := ih (fun q hq => h q (List.mem_cons_of_mem _ hq))
    have hp : p.1 ≠ k := h p (List.mem_cons_self ..)
    unfold sins
    split
    · by_cases hj : j = k
      · simp [sget, hj]
      · have hk : ¬ k = j := fun e => hj e.symm
        simp [sget, hj, hk]
    · by_cases hj : j = k
      · simp only [hj, if_true] at hr ⊢
        simp [sget, hp, hr]
      · simp only [hj, if_false] at hr ⊢
        simp [sget, hr]

theorem sdel_ne (l : List (Nat × α)) (k : Nat) : ∀ p ∈ sdel l k, p.1 ≠ k := by
  simp [sdel]

/-- Reading after a write: the value written at its key, everywhere else as before. -/
theorem sget_sset [DecidableEq α] (d : Nat → α) (l : List (Nat × α)) (k j : Nat) (v : α) :
    sget d (sset d l k v) j = if j = k then v else sget d l j := by
  unfold sset
  split
  · rename_i h
    rw [sget_sdel]
    split
    · rename_i hj; rw [hj, h]
    · rfl
  · rw [sget_sins d _ k j v (sdel_ne l k), sget_sdel]
    split <;> rfl

theorem sget_skeep (d : Nat → α) (l : List (Nat × α)) (keep : Nat → Bool) (k : Nat) :
    sget d (skeep l keep) k = if keep k then sget d l k else d k := by
  induction l with
  | nil => simp [skeep, sget]
  | cons p r ih =>
    simp only [skeep, List.filter_cons] at ih ⊢
    by_cases h : keep p.1 = true <;> by_cases h2 : p.1 = k <;> by_cases h3 : keep k = true <;> simp_all [sget]

/-! ## The canonical form -/

theorem sorted_filter (l : List (Nat × α)) (f : Nat × α → Bool) (h : sorted l = true) : sorted (l.filter f) = true := by
  induction l with
  | nil => rfl
  | cons p r ih =>
    simp only [sorted, Bool.and_eq_true, List.all_eq_true] at h
    simp only [List.filter_cons]
    split
    · simp only [sorted, Bool.and_eq_true, List.all_eq_true]
      exact ⟨fun q hq => h.1 q (List.mem_of_mem_filter hq), ih h.2⟩
    · exact ih h.2

theorem mem_sins (l : List (Nat × α)) (k : Nat) (v : α) (q : Nat × α) : q ∈ sins l k v ↔ q = (k, v) ∨ q ∈ l := by
  induction l with
  | nil => simp [sins]
  | cons p r ih =>
    unfold sins
    split
    · simp
    · simp only [List.mem_cons, ih]; tauto

theorem sorted_sins (l : List (Nat × α)) (k : Nat) (v : α) (hk : ∀ p ∈ l, p.1 ≠ k) (h : sorted l = true) :
    sorted (sins l k v) = true := by
  induction l with
  | nil => rfl
  | cons p r ih =>
    simp only [sorted, Bool.and_eq_true, List.all_eq_true, decide_eq_true_eq] at h
    unfold sins
    split
    · rename_i hlt
      simp only [sorted, Bool.and_eq_true, List.all_eq_true, decide_eq_true_eq, List.mem_cons]
      refine ⟨?_, h.1, h.2⟩
      rintro q (rfl | hq)
      · exact hlt
      · exact Nat.lt_trans hlt (h.1 q hq)
    · rename_i hge
      have hp : p.1 ≠ k := hk p (List.mem_cons_self ..)
      simp only [sorted, Bool.and_eq_true, List.all_eq_true, decide_eq_true_eq, mem_sins]
      refine ⟨?_, ih (fun q hq => hk q (List.mem_cons_of_mem _ hq)) h.2⟩
      rintro q (rfl | hq)
      · show p.1 < k; omega
      · exact h.1 q hq

theorem swf_nil [DecidableEq α] (d : Nat → α) : swf d ([] : List (Nat × α)) = true := rfl

theorem swf_filter [DecidableEq α] (d : Nat → α) (l : List (Nat × α)) (f : Nat × α → Bool) (h : swf d l = true) :
    swf d (l.filter f) = true := by
  simp only [swf, Bool.and_eq_true, List.all_eq_true] at h ⊢
  exact ⟨sorted_filter l f h.1, fun p hp => h.2 p (List.mem_of_mem_filter hp)⟩

theorem swf_sdel [DecidableEq α] (d : Nat → α) (l : List (Nat × α)) (k : Nat) (h : swf d l = true) :
    swf d (sdel l k) = true := swf_filter d l _ h

theorem swf_skeep [DecidableEq α] (d : Nat → α) (l : List (Nat × α)) (keep : Nat → Bool) (h : swf d l = true) :
    swf d (skeep l keep) = true := swf_filter d l _ h

/-- A write keeps the canonical form. -/
theorem swf_sset [DecidableEq α] (d : Nat → α) (l : List (Nat × α)) (k : Nat) (v : α) (h : swf d l = true) :
    swf d (sset d l k v) = true := by
  unfold sset
  split
  · exact swf_sdel d l k h
  · rename_i hv
    have h2 := swf_sdel d l k h
    simp only [swf, Bool.and_eq_true, List.all_eq_true, bne_iff_ne, ne_eq] at h2 ⊢
    refine ⟨sorted_sins _ k v (sdel_ne l k) h2.1, ?_⟩
    intro p hp
    rcases (mem_sins _ _ _ _).1 hp with rfl | hp
    · exact hv
    · exact h2.2 p hp

/-- In canonical form a list is determined by what it reads as. -/
theorem swf_ext [DecidableEq α] (d : Nat → α) : ∀ l m : List (Nat × α), swf d l = true → swf d m = true →
    (∀ k, sget d l k = sget d m k) → l = m := by
  have miss : ∀ (l : List (Nat × α)) (k : Nat), (∀ p ∈ l, k < p.1) → sget d l k = d k := by
    intro l k h
    induction l with
    | nil => rfl
    | cons p r ih =>
      have h1 : ¬ p.1 = k := by have := h p (List.mem_cons_self ..); omega
      rw [sget, if_neg h1]
      exact ih (fun q hq => h q (List.mem_cons_of_mem _ hq))
  intro l
  induction l with
  | nil =>
    intro m _ hm he
    cases m with
    | nil => rfl
    | cons q m =>
      exfalso
      simp only [swf, sorted, Bool.and_eq_true, List.all_eq_true, bne_iff_ne, ne_eq] at hm
      have := he q.1
      simp only [sget, if_true] at this
      exact hm.2 q (List.mem_cons_self ..) this.symm
  | cons p l ih =>
    intro m hl hm he
    cases m with
    | nil =>
      exfalso
      simp only [swf, sorted, Bool.and_eq_true, List.all_eq_true, bne_iff_ne, ne_eq] at hl
      have := he p.1
      simp only [sget, if_true] at this
      exact hl.2 p (List.mem_cons_self ..) this
    | cons q m =>
      simp only [swf, sorted, Bool.and_eq_true, List.all_eq_true, decide_eq_true_eq, bne_iff_ne, ne_eq] at hl hm
      have hpq : p.1 = q.1 := by
        rcases Nat.lt_trichotomy p.1 q.1 with hlt | heq | hgt
        · exfalso
          have h1 := he p.1
          have h2 : sget d (q :: m) p.1 = d p.1 := miss _ _ (by
            intro r hr
            rcases List.mem_cons.1 hr with rfl | hr
            · exact hlt
            · exact Nat.lt_trans hlt (hm.1.1 r hr))
          rw [h2] at h1
          simp only [sget, if_true] at h1
          exact hl.2 p (List.mem_cons_self ..) h1
        · exact heq
        · exfalso
          have h1 := he q.1
          have h2 : sget d (p :: l) q.1 = d q.1 := miss _ _ (by
            intro r hr
            rcases List.mem_cons.1 hr with rfl | hr
            · exact hgt
            · exact Nat.lt_trans hgt (hl.1.1 r hr))
          rw [h2] at h1
          simp only [sget, if_true] at h1
          exact hm.2 q (List.mem_cons_self ..) h1.symm
      have hv : p.2 = q.2 := by
        have h1 := he p.1
        simp only [sget, if_true, hpq] at h1
        exact h1
      have hpe : p = q := Prod.ext hpq hv
      subst hpe
      congr 1
      apply ih m
      · simp only [swf, Bool.and_eq_true, List.all_eq_true, bne_iff_ne, ne_eq]
        exact ⟨hl.1.2, fun r hr => hl.2 r (List.mem_cons_of_mem _ hr)⟩
      · simp only [swf, Bool.and_eq_true, List.all_eq_true, bne_iff_ne, ne_eq]
        exact ⟨hm.1.2, fun r hr => hm.2 r (List.mem_cons_of_mem _ hr)⟩
      · intro k
        have h1 := he k
        by_cases hk : p.1 = k
        · subst hk
          rw [miss l p.1 (fun r hr => hl.1.1 r hr), miss m p.1 (fun r hr => hm.1.1 r hr)]
        · simpa [sget, hk] using h1

end Sys2Proof.Machine
end

