-- ==== Sys2Proof/Laws/Keeps.lean ====
section
/-! SUPPORT. What every operation keeps: the queue, and the canonical form of every sparse store.
Here `Keeps` itself, the writes of each store, and the shared operations of windows, captures, timed
entries and paths. A lemma `State.f_keeps` says what `f` keeps; `State.f_keeps_1` is about the state in a
pair, and `State.f_keeps_1_eq` takes the pair apart. -/
namespace Sys2Proof.Machine

/-- `t` holds the queue of `s`, and is in canonical form if `s` is. -/
structure Keeps (s t : State) : Prop where
  queue : t.pending = s.pending
  form : s.wf = true → t.wf = true
variable {b0 : State}
theorem Keeps.refl (s : State) : Keeps s s := ⟨rfl, id⟩
/-- A record update keeps what each of its stores keeps. -/
theorem Keeps.parts {u t : State} (h : Keeps b0 u) (hp : t.pending = u.pending) (h1 : swf resetOf u.regs = true → swf resetOf t.regs = true)
    (h2 : swf resetOf u.force = true → swf resetOf t.force = true) (h3 : swf emptyByte u.mem = true → swf emptyByte t.mem = true)
    (h4 : swf (fun _ => Ecc.good) u.ecc = true → swf (fun _ => Ecc.good) t.ecc = true)
    (h5 : swf emptyWord u.nvm = true → swf emptyWord t.nvm = true)
    (h6 : swf (fun _ => Ecc.good) u.nvmEcc = true → swf (fun _ => Ecc.good) t.nvmEcc = true)
    (h7 : swf (fun _ => ({} : Thread)) u.th = true → swf (fun _ => ({} : Thread)) t.th = true) : Keeps b0 t := by
  refine ⟨hp.trans h.queue, fun w => ?_⟩
  have := h.form w
  simp only [State.wf, Memory.wf, Bool.and_eq_true] at this ⊢
  obtain ⟨⟨⟨⟨⟨⟨a, b⟩, c⟩, d⟩, e⟩, f⟩, g⟩ := this
  exact ⟨⟨⟨⟨⟨⟨h1 a, h2 b⟩, h3 c⟩, h4 d⟩, h5 e⟩, h6 f⟩, h7 g⟩
/-- An update of fields that are no sparse store and not the queue. -/
theorem Keeps.rest {u : State} (h : Keeps b0 u) (out : List Out) (free : Nat) (shadow : List (Nat × Shadow)) (pipe : Pipe) (taq : List (Nat × Entry)) (tags : List Nat) (seq : Nat) (air : Air) (pins : Pins) (bda : Bda) (los : Los) (cal : Cal) (jrn : Journal) (bme : Bme) (smp : Chain) (lin : Lin) (time : Time) (cap : Cap) (pwr : Pwr) (thm : Thm) (sects : List Sect) (arg : Arg) (sec : Sec) (host : Door) (fhp : Fhp) (dma : Dma) (cvu : Cvu) (tap : Tap) (ready : List Nat) (msixEn : Bool) (d3 : Bool) (boot : Boot) :
    Keeps b0 (State.mk u.pending u.regs u.force u.mem u.ecc u.nvm u.nvmEcc out free shadow u.th pipe taq tags seq air pins bda los cal jrn bme smp lin time cap pwr thm sects arg sec host fhp dma cvu tap ready msixEn d3 boot) :=
  h.parts rfl id id id id id id id
/-- A word of the eMRAM takes an ECC state. -/
theorem Keeps.spoil {u : State} (h : Keeps b0 u) (k : Nat) (e : Ecc) :
    Keeps b0 { u with nvmEcc := sset (fun _ => Ecc.good) u.nvmEcc k e } :=
  h.parts rfl id id id id id (fun q => swf_sset (fun _ => Ecc.good) u.nvmEcc k e q) id
theorem Keeps.fold {α : Type} {f : State → α → State} (hf : ∀ t x, Keeps b0 t → Keeps b0 (f t x)) :
    ∀ (l : List α) {u : State}, Keeps b0 u → Keeps b0 (l.foldl f u) := by
  intro l
  induction l with
  | nil => intro u h; exact h
  | cons x l ih => intro u h; exact ih (hf u x h)
/-- The same for a fold over more than a state. -/
theorem Keeps.foldBy {α β : Type} (p : β → State) {f : β → α → β} (hf : ∀ b x, Keeps b0 (p b) → Keeps b0 (p (f b x))) :
    ∀ (l : List α) {b : β}, Keeps b0 (p b) → Keeps b0 (p (l.foldl f b)) := by
  intro l
  induction l with
  | nil => intro b h; exact h
  | cons x l ih => intro b h; exact ih (hf b x h)
theorem Keeps.cond {c : Prop} [Decidable c] {a b : State} (ha : Keeps b0 a) (hb : Keeps b0 b) : Keeps b0 (if c then a else b) := by
  split <;> assumption
theorem State.setReg_keeps {s : State} (o : Nat) (v : Word) (h : Keeps b0 s) : Keeps b0 (s.setReg o v) :=
  h.parts rfl (swf_sset _ _ _ _) id id id id id id
theorem State.apply_keeps {s : State} (o : Nat) (h : Keeps b0 s) : Keeps b0 (s.apply o) :=
  h.parts rfl id (swf_sset _ _ _ _) id id id id id
theorem State.setByte_keeps {s : State} (a : Nat) (b : Byte) (h : Keeps b0 s) : Keeps b0 (s.setByte a b) :=
  h.parts rfl id id (swf_sset _ _ _ _) id id id id
theorem State.setEcc_keeps {s : State} (a : Nat) (e : Ecc) (h : Keeps b0 s) : Keeps b0 (s.setEcc a e) :=
  h.parts rfl id id id (swf_sset _ _ _ _) id id id
theorem State.setThread_keeps {s : State} (i : Nat) (t : Thread) (h : Keeps b0 s) : Keeps b0 (s.setThread i t) :=
  h.parts rfl id id id id id id (swf_sset _ _ _ _)
theorem State.putNvm_keeps {s : State} (t w : Nat) (v : Word) (h : Keeps b0 s) : Keeps b0 (s.putNvm t w v) :=
  h.parts rfl id id id id (swf_sset _ _ _ _) (fun q => swf_sset (fun _ => Ecc.good) s.nvmEcc (nvmKey t w) Ecc.good q) id
theorem State.setShadow_keeps {s : State} (w : Nat) (v : Word) (h : Keeps b0 s) : Keeps b0 (s.setShadow w v) :=
  h.parts rfl id id id id (swf_sset _ _ _ _) id id

theorem State.setFld_keeps {b0 : State} {s : State} (off hi lo v : Nat) (k_ : Keeps b0 s) : Keeps b0 (State.setFld s off hi lo v) := by
  unfold State.setFld
  try dsimp only
  repeat' (first | with_reducible assumption | with_reducible apply State.setReg_keeps)
theorem State.setFlag_keeps {b0 : State} {s : State} (off i : Nat) (b : Bool) (k_ : Keeps b0 s) : Keeps b0 (State.setFlag s off i b) := by
  unfold State.setFlag
  try dsimp only
  repeat' (first | with_reducible assumption | with_reducible apply State.setFld_keeps)
theorem State.count_keeps {b0 : State} {s : State} (off hi lo k : Nat) (k_ : Keeps b0 s) : Keeps b0 (State.count s off hi lo k) := by
  unfold State.count
  try dsimp only
  repeat' (first | with_reducible assumption | with_reducible apply State.setFld_keeps)
theorem State.bump_keeps {b0 : State} {s : State} (off : Nat) (k_ : Keeps b0 s) : Keeps b0 (State.bump s off) := by
  unfold State.bump
  try dsimp only
  repeat' (first | with_reducible assumption | with_reducible apply State.count_keeps)
theorem State.send_keeps {b0 : State} {s : State} (o : Out) (k_ : Keeps b0 s) : Keeps b0 (State.send s o) := by
  unfold State.send
  try dsimp only
  repeat' (first | with_reducible assumption | with_reducible apply Keeps.fold | intro _ | split | with_reducible apply Keeps.spoil | with_reducible apply Keeps.rest)
theorem State.takeFree_keeps_2 {b0 : State} {s : State} (k_ : Keeps b0 s) : Keeps b0 (State.takeFree s).2 := by
  unfold State.takeFree
  try dsimp only
  repeat' (first | with_reducible assumption | with_reducible apply Keeps.fold | intro _ | split | with_reducible apply Keeps.spoil | with_reducible apply Keeps.rest)
theorem State.takeFree_keeps_2_eq {b0 : State} {s : State} {x0 x1} (he : State.takeFree s = (x0, x1)) (k_ : Keeps b0 s) : Keeps b0 x1 := by
  have := State.takeFree_keeps_2  k_
  rw [he] at this
  exact this
theorem State.setPba_keeps {b0 : State} {s : State} (v : Nat) (b : Bool) (k_ : Keeps b0 s) : Keeps b0 (State.setPba s v b) := by
  unfold State.setPba
  try dsimp only
  repeat' (first | with_reducible assumption | with_reducible apply State.setFlag_keeps)
theorem State.notify_keeps {b0 : State} {s : State} (v : Nat) (k_ : Keeps b0 s) : Keeps b0 (State.notify s v) := by
  unfold State.notify
  try dsimp only
  repeat' (first | with_reducible assumption | with_reducible apply State.send_keeps | with_reducible apply State.setPba_keeps | with_reducible apply Keeps.fold | intro _ | split)
theorem State.settle_keeps {b0 : State} {s : State} (before : State) (off : Nat) (i : StickyInfo) (write : Bool) (k_ : Keeps b0 s) : Keeps b0 (State.settle s before off i write) := by
  unfold State.settle
  try dsimp only
  repeat' (first | with_reducible assumption | with_reducible apply State.notify_keeps | with_reducible apply State.setPba_keeps | with_reducible apply Keeps.fold | intro _ | split)
theorem State.raise_keeps {b0 : State} {s : State} (off : Nat) (mask : Word) (k_ : Keeps b0 s) : Keeps b0 (State.raise s off mask) := by
  unfold State.raise
  try dsimp only
  repeat' (first | with_reducible assumption | with_reducible apply State.settle_keeps | with_reducible apply State.setReg_keeps | with_reducible apply Keeps.fold | intro _ | split)
theorem State.raiseBit_keeps {b0 : State} {s : State} (off i : Nat) (k_ : Keeps b0 s) : Keeps b0 (State.raiseBit s off i) := by
  unfold State.raiseBit
  try dsimp only
  repeat' (first | with_reducible assumption | with_reducible apply State.raise_keeps)
theorem State.badAccess_keeps {b0 : State} {s : State} (off : Nat) (k_ : Keeps b0 s) : Keeps b0 (State.badAccess s off) := by
  unfold State.badAccess
  try dsimp only
  repeat' (first | with_reducible assumption | with_reducible apply State.raiseBit_keeps | with_reducible apply State.count_keeps | with_reducible apply State.setReg_keeps | with_reducible apply Keeps.fold | intro _ | split)
theorem State.downWrite_keeps {b0 : State} {s : State} (k_ : Keeps b0 s) : Keeps b0 (State.downWrite s) := by
  unfold State.downWrite
  try dsimp only
  repeat' (first | with_reducible assumption | with_reducible apply State.raiseBit_keeps | with_reducible apply State.bump_keeps)
theorem State.tlpBadWrite_keeps {b0 : State} {s : State} (k_ : Keeps b0 s) : Keeps b0 (State.tlpBadWrite s) := by
  unfold State.tlpBadWrite
  try dsimp only
  repeat' (first | with_reducible assumption | with_reducible apply State.count_keeps)
theorem State.writeFields_keeps {b0 : State} {s : State} (off : Nat) (val mask : Word) (k_ : Keeps b0 s) : Keeps b0 (State.writeFields s off val mask) := by
  unfold State.writeFields
  try dsimp only
  repeat' (first | with_reducible assumption | with_reducible apply State.raiseBit_keeps | with_reducible apply State.setReg_keeps | with_reducible apply Keeps.fold | intro _ | split)
theorem State.writeSticky_keeps {b0 : State} {s : State} (off : Nat) (val mask : Word) (k_ : Keeps b0 s) : Keeps b0 (State.writeSticky s off val mask) := by
  unfold State.writeSticky
  try dsimp only
  repeat' (first | with_reducible assumption | with_reducible apply State.settle_keeps | with_reducible apply State.writeFields_keeps | with_reducible apply Keeps.fold | intro _ | split)
theorem State.writeEnable_keeps {b0 : State} {s : State} (off : Nat) (val mask : Word) (k_ : Keeps b0 s) : Keeps b0 (State.writeEnable s off val mask) := by
  unfold State.writeEnable
  try dsimp only
  repeat' (first | with_reducible assumption | with_reducible apply State.settle_keeps | with_reducible apply State.writeFields_keeps | with_reducible apply Keeps.fold | intro _ | split)
theorem State.setThState_keeps {b0 : State} {s : State} (i v : Nat) (k_ : Keeps b0 s) : Keeps b0 (State.setThState s i v) := by
  unfold State.setThState
  try dsimp only
  repeat' (first | with_reducible assumption | with_reducible apply State.setFld_keeps)
theorem State.seqCount_keeps {b0 : State} {s : State} (k_ : Keeps b0 s) : Keeps b0 (State.seqCount s) := by
  unfold State.seqCount
  try dsimp only
  repeat' (first | with_reducible assumption | with_reducible apply Keeps.fold | intro _ | split | with_reducible apply Keeps.spoil | with_reducible apply Keeps.rest)
theorem State.seqEv_keeps {b0 : State} {s : State} (j : Nat) (k_ : Keeps b0 s) : Keeps b0 (State.seqEv s j) := by
  unfold State.seqEv
  try dsimp only
  repeat' (first | with_reducible assumption | with_reducible apply State.seqCount_keeps | with_reducible apply Keeps.fold | intro _ | split)
theorem State.setEv_keeps {b0 : State} {s : State} (j : Nat) (k_ : Keeps b0 s) : Keeps b0 (State.setEv s j) := by
  unfold State.setEv
  try dsimp only
  repeat' (first | with_reducible assumption | with_reducible apply State.seqEv_keeps | with_reducible apply State.setFlag_keeps | with_reducible apply State.setThread_keeps | with_reducible apply Keeps.fold | intro _ | split)
theorem State.setEvs_keeps {b0 : State} {s : State} (l : List Nat) (k_ : Keeps b0 s) : Keeps b0 (State.setEvs s l) := by
  unfold State.setEvs
  try dsimp only
  repeat' (first | with_reducible assumption | with_reducible apply State.setEv_keeps | with_reducible apply Keeps.fold)

theorem State.putBytes_keeps {b0 : State} (bs : List Byte) {s : State} (a : Nat) (h : Keeps b0 s) : Keeps b0 (s.putBytes a bs) := by
  induction bs generalizing s a with
  | nil => exact h
  | cons b bs ih => exact ih (a + 1) (State.setByte_keeps _ _ h)
theorem State.putWord_keeps {b0 : State} {s : State} (a : Nat) (w : Word) (k_ : Keeps b0 s) : Keeps b0 (State.putWord s a w) := by
  unfold State.putWord
  try dsimp only
  repeat' (first | with_reducible assumption | with_reducible apply State.setEcc_keeps | with_reducible apply State.putBytes_keeps)
theorem State.putWords_keeps {b0 : State} (ws : List Word) {s : State} (a : Nat) (h : Keeps b0 s) : Keeps b0 (s.putWords a ws) := by
  induction ws generalizing s a with
  | nil => exact h
  | cons w ws ih => exact ih (a + 4) (State.putWord_keeps _ _ h)
theorem State.eccUe_keeps {b0 : State} {s : State} (m off : Nat) (k_ : Keeps b0 s) : Keeps b0 (State.eccUe s m off) := by
  unfold State.eccUe
  try dsimp only
  repeat' (first | with_reducible assumption | with_reducible apply State.raiseBit_keeps | with_reducible apply State.count_keeps | with_reducible apply State.setReg_keeps)
theorem State.readEcc_keeps_2_2 {b0 : State} {s : State} (a : Nat) (k_ : Keeps b0 s) : Keeps b0 (State.readEcc s a).2.2 := by
  unfold State.readEcc
  try dsimp only
  repeat' (first | with_reducible assumption | with_reducible apply State.eccUe_keeps | with_reducible apply State.putWord_keeps | with_reducible apply State.bump_keeps | with_reducible apply Keeps.fold | intro _ | split)
theorem State.readEcc_keeps_2_2_eq {b0 : State} {s : State} {a : Nat} {x0 x1 x2} (he : State.readEcc s a = (x0, x1, x2)) (k_ : Keeps b0 s) : Keeps b0 x2 := by
  have := State.readEcc_keeps_2_2 a k_
  rw [he] at this
  exact this
theorem State.readDev_keeps_2 {b0 : State} {s : State} (a : Nat) (k_ : Keeps b0 s) : Keeps b0 (State.readDev s a).2 := by
  unfold State.readDev
  try dsimp only
  repeat' (first | with_reducible assumption | with_reducible apply State.readEcc_keeps_2_2)
theorem State.readDev_keeps_2_eq {b0 : State} {s : State} {a : Nat} {x0 x1} (he : State.readDev s a = (x0, x1)) (k_ : Keeps b0 s) : Keeps b0 x1 := by
  have := State.readDev_keeps_2 a k_
  rw [he] at this
  exact this
theorem State.writeLanes_keeps {b0 : State} {s : State} (a : Nat) (lanes : List (Option Byte)) (k_ : Keeps b0 s) : Keeps b0 (State.writeLanes s a lanes) := by
  unfold State.writeLanes
  try dsimp only
  repeat' (first | with_reducible assumption | with_reducible apply State.readEcc_keeps_2_2 | with_reducible apply State.putWord_keeps | with_reducible refine State.readEcc_keeps_2_2_eq (by assumption) ?_ | with_reducible apply Keeps.fold | intro _ | split)
theorem State.writeMem_keeps {b0 : State} {s : State} (off : Nat) (data : List (Option Byte)) (k_ : Keeps b0 s) : Keeps b0 (State.writeMem s off data) := by
  unfold State.writeMem
  try dsimp only
  repeat' (first | with_reducible assumption | with_reducible apply State.writeLanes_keeps | with_reducible apply Keeps.fold | intro _)
theorem State.readNvm_keeps_2_2 {b0 : State} {s : State} (t w : Nat) (k_ : Keeps b0 s) : Keeps b0 (State.readNvm s t w).2.2 := by
  unfold State.readNvm
  try dsimp only
  repeat' (first | with_reducible assumption | with_reducible apply State.eccUe_keeps | with_reducible apply State.bump_keeps | with_reducible apply State.putNvm_keeps | with_reducible apply Keeps.fold | intro _ | split)
theorem State.readNvm_keeps_2_2_eq {b0 : State} {s : State} {t w : Nat} {x0 x1 x2} (he : State.readNvm s t w = (x0, x1, x2)) (k_ : Keeps b0 s) : Keeps b0 x2 := by
  have := State.readNvm_keeps_2_2 t w k_
  rw [he] at this
  exact this

theorem State.setCapState_keeps {b0 : State} {s : State} (v : Nat) (k_ : Keeps b0 s) : Keeps b0 (State.setCapState s v) := by
  unfold State.setCapState
  try dsimp only
  repeat' (first | with_reducible assumption | with_reducible apply State.setFld_keeps)
theorem State.capLose_keeps {b0 : State} {s : State} (k_ : Keeps b0 s) : Keeps b0 (State.capLose s) := by
  unfold State.capLose
  try dsimp only
  repeat' (first | with_reducible assumption | with_reducible apply State.raiseBit_keeps | with_reducible apply State.bump_keeps | with_reducible apply Keeps.fold | intro _ | split | with_reducible apply Keeps.spoil | with_reducible apply Keeps.rest)
theorem State.capRecord_keeps {b0 : State} {s : State} (src : Nat) (p0 p1 : Word) (k_ : Keeps b0 s) : Keeps b0 (State.capRecord s src p0 p1) := by
  unfold State.capRecord
  try dsimp only
  repeat' (first | with_reducible assumption | with_reducible apply State.capLose_keeps | with_reducible apply State.putWords_keeps | with_reducible apply Keeps.fold | intro _ | split | with_reducible apply Keeps.spoil | with_reducible apply Keeps.rest)
theorem State.trace_keeps {b0 : State} {s : State} (src payload : Nat) (k_ : Keeps b0 s) : Keeps b0 (State.trace s src payload) := by
  unfold State.trace
  try dsimp only
  repeat' (first | with_reducible assumption | with_reducible apply State.capRecord_keeps | with_reducible apply State.raiseBit_keeps | with_reducible apply Keeps.fold | intro _ | split)
theorem State.traceTh_keeps {b0 : State} {s : State} (th payload : Nat) (k_ : Keeps b0 s) : Keeps b0 (State.traceTh s th payload) := by
  unfold State.traceTh
  try dsimp only
  repeat' (first | with_reducible assumption | with_reducible apply State.trace_keeps | with_reducible apply Keeps.fold | intro _ | split)
theorem State.traceTaq_keeps {b0 : State} {s : State} (payload : Nat) (k_ : Keeps b0 s) : Keeps b0 (State.traceTaq s payload) := by
  unfold State.traceTaq
  try dsimp only
  repeat' (first | with_reducible assumption | with_reducible apply State.trace_keeps | with_reducible apply Keeps.fold | intro _ | split)
theorem State.capStart_keeps {b0 : State} {s : State} (fromIdle : Bool) (k_ : Keeps b0 s) : Keeps b0 (State.capStart s fromIdle) := by
  unfold State.capStart
  try dsimp only
  repeat' (first | with_reducible assumption | with_reducible apply State.setFld_keeps | with_reducible apply State.setCapState_keeps | with_reducible apply Keeps.fold | intro _ | split | with_reducible apply Keeps.spoil | with_reducible apply Keeps.rest)
theorem State.capMissed_keeps {b0 : State} {s : State} (k_ : Keeps b0 s) : Keeps b0 (State.capMissed s) := by
  unfold State.capMissed
  try dsimp only
  repeat' (first | with_reducible assumption | with_reducible apply State.raiseBit_keeps | with_reducible apply State.bump_keeps)
theorem State.capTrigger_keeps {b0 : State} {s : State} (forced auto : Bool) (k_ : Keeps b0 s) : Keeps b0 (State.capTrigger s forced auto) := by
  unfold State.capTrigger
  try dsimp only
  repeat' (first | with_reducible assumption | with_reducible apply State.capRecord_keeps | with_reducible apply State.capMissed_keeps | with_reducible apply State.setCapState_keeps | with_reducible apply State.setEv_keeps | with_reducible apply Keeps.fold | intro _ | split | with_reducible apply Keeps.spoil | with_reducible apply Keeps.rest)
theorem State.capClose_keeps {b0 : State} {s : State} (disarmed : Bool) (k_ : Keeps b0 s) : Keeps b0 (State.capClose s disarmed) := by
  unfold State.capClose
  try dsimp only
  repeat' (first | with_reducible assumption | with_reducible apply State.putWords_keeps | with_reducible apply State.raiseBit_keeps | with_reducible apply State.setCapState_keeps | with_reducible apply State.setEv_keeps | with_reducible apply Keeps.fold | intro _ | split | with_reducible apply Keeps.spoil | with_reducible apply Keeps.rest)
theorem State.capForced_keeps {b0 : State} {s : State} (auto : Bool) (k_ : Keeps b0 s) : Keeps b0 (State.capForced s auto) := by
  unfold State.capForced
  try dsimp only
  repeat' (first | with_reducible assumption | with_reducible apply State.raiseBit_keeps | with_reducible apply State.capTrigger_keeps | with_reducible apply Keeps.fold | intro _ | split)
theorem State.capRequest_keeps_1 {b0 : State} {s : State} (op : Nat) (k_ : Keeps b0 s) : Keeps b0 (State.capRequest s op).1 := by
  unfold State.capRequest
  try dsimp only
  repeat' (first | with_reducible assumption | with_reducible apply State.capStart_keeps | with_reducible apply State.capForced_keeps | with_reducible apply State.capClose_keeps | with_reducible apply Keeps.fold | intro _ | split | with_reducible apply Keeps.spoil | with_reducible apply Keeps.rest)
theorem State.capRequest_keeps_1_eq {b0 : State} {s : State} {op : Nat} {x0 x1} (he : State.capRequest s op = (x0, x1)) (k_ : Keeps b0 s) : Keeps b0 x0 := by
  have := State.capRequest_keeps_1 op k_
  rw [he] at this
  exact this
theorem State.capBad_keeps {b0 : State} {s : State} (k_ : Keeps b0 s) : Keeps b0 (State.capBad s) := by
  unfold State.capBad
  try dsimp only
  repeat' (first | with_reducible assumption | with_reducible apply State.raiseBit_keeps | with_reducible apply State.bump_keeps)
theorem State.capHost_keeps {b0 : State} {s : State} (op : Nat) (k_ : Keeps b0 s) : Keeps b0 (State.capHost s op) := by
  unfold State.capHost
  try dsimp only
  repeat' (first | with_reducible assumption | with_reducible apply State.capBad_keeps | with_reducible apply State.capRequest_keeps_1 | with_reducible refine State.capRequest_keeps_1_eq (by assumption) ?_ | with_reducible apply Keeps.fold | intro _ | split)
theorem State.writeCapCtl_keeps {b0 : State} {s : State} (val mask : Word) (k_ : Keeps b0 s) : Keeps b0 (State.writeCapCtl s val mask) := by
  unfold State.writeCapCtl
  try dsimp only
  repeat' (first | with_reducible assumption | with_reducible apply State.capHost_keeps | with_reducible apply State.writeFields_keeps | with_reducible apply Keeps.fold | intro _ | split)
theorem State.writeCapPart_keeps {b0 : State} {s : State} (val mask : Word) (k_ : Keeps b0 s) : Keeps b0 (State.writeCapPart s val mask) := by
  unfold State.writeCapPart
  try dsimp only
  repeat' (first | with_reducible assumption | with_reducible apply State.capBad_keeps | with_reducible apply State.writeFields_keeps | with_reducible apply Keeps.fold | intro _ | split)
theorem State.writeProbe_keeps {b0 : State} {s : State} (off : Nat) (val mask : Word) (k_ : Keeps b0 s) : Keeps b0 (State.writeProbe s off val mask) := by
  unfold State.writeProbe
  try dsimp only
  repeat' (first | with_reducible assumption | with_reducible apply State.setFld_keeps | with_reducible apply State.writeFields_keeps | with_reducible apply Keeps.fold | intro _ | split)
theorem State.capGo_keeps {b0 : State} {s : State} (next : Nat) (k_ : Keeps b0 s) : Keeps b0 (State.capGo s next) := by
  unfold State.capGo
  try dsimp only
  repeat' (first | with_reducible assumption | with_reducible apply State.setFld_keeps | with_reducible apply State.capTrigger_keeps | with_reducible apply Keeps.fold | intro _ | split | with_reducible apply Keeps.spoil | with_reducible apply Keeps.rest)
theorem State.capHit_keeps {b0 : State} {s : State} (k_ : Keeps b0 s) : Keeps b0 (State.capHit s) := by
  unfold State.capHit
  try dsimp only
  repeat' (first | with_reducible assumption | with_reducible apply State.capGo_keeps | with_reducible apply State.capMissed_keeps | with_reducible apply Keeps.fold | intro _ | split)
theorem State.capTimeout_keeps {b0 : State} {s : State} (k_ : Keeps b0 s) : Keeps b0 (State.capTimeout s) := by
  unfold State.capTimeout
  try dsimp only
  repeat' (first | with_reducible assumption | with_reducible apply State.capGo_keeps | with_reducible apply State.capHit_keeps | with_reducible apply Keeps.fold | intro _ | split)
theorem State.capAuto_keeps {b0 : State} {s : State} (k_ : Keeps b0 s) : Keeps b0 (State.capAuto s) := by
  unfold State.capAuto
  try dsimp only
  repeat' (first | with_reducible assumption | with_reducible apply State.capForced_keeps | with_reducible apply Keeps.fold | intro _ | split | with_reducible apply Keeps.spoil | with_reducible apply Keeps.rest)
theorem State.capRearmEnd_keeps {b0 : State} {s : State} (k_ : Keeps b0 s) : Keeps b0 (State.capRearmEnd s) := by
  unfold State.capRearmEnd
  try dsimp only
  repeat' (first | with_reducible assumption | with_reducible apply State.capStart_keeps | with_reducible apply State.setCapState_keeps | with_reducible apply Keeps.fold | intro _ | split | with_reducible apply Keeps.spoil | with_reducible apply Keeps.rest)
theorem State.capWrap_keeps {b0 : State} {s : State} (k_ : Keeps b0 s) : Keeps b0 (State.capWrap s) := by
  unfold State.capWrap
  try dsimp only
  repeat' (first | with_reducible assumption | with_reducible apply State.capRecord_keeps)

theorem State.setEntry_keeps {b0 : State} {s : State} (tag : Nat) (e : Entry) (k_ : Keeps b0 s) : Keeps b0 (State.setEntry s tag e) := by
  unfold State.setEntry
  try dsimp only
  repeat' (first | with_reducible assumption | with_reducible apply Keeps.fold | intro _ | split | with_reducible apply Keeps.spoil | with_reducible apply Keeps.rest)
theorem State.showLevel_keeps {b0 : State} {s : State} (k_ : Keeps b0 s) : Keeps b0 (State.showLevel s) := by
  unfold State.showLevel
  try dsimp only
  repeat' (first | with_reducible assumption | with_reducible apply State.setFld_keeps | with_reducible apply Keeps.fold | intro _ | split)
theorem State.record_keeps {b0 : State} {s : State} (e : Entry) (tag code : Nat) (due done : Word) (detail : Nat) (k_ : Keeps b0 s) : Keeps b0 (State.record s e tag code due done detail) := by
  unfold State.record
  try dsimp only
  repeat' (first | with_reducible assumption | with_reducible apply State.putWords_keeps | with_reducible apply State.raiseBit_keeps | with_reducible apply State.bump_keeps | with_reducible apply State.setEv_keeps | with_reducible apply State.setReg_keeps | with_reducible apply Keeps.fold | intro _ | split)
theorem State.countCode_keeps {b0 : State} {s : State} (code : Nat) (k_ : Keeps b0 s) : Keeps b0 (State.countCode s code) := by
  unfold State.countCode
  try dsimp only
  repeat' (first | with_reducible assumption | with_reducible apply State.raiseBit_keeps | with_reducible apply State.bump_keeps | with_reducible apply Keeps.fold | intro _ | split)
theorem State.wakeCmpl_keeps {b0 : State} {s : State} (tag : Nat) (k_ : Keeps b0 s) : Keeps b0 (State.wakeCmpl s tag) := by
  unfold State.wakeCmpl
  try dsimp only
  repeat' (first | with_reducible assumption | with_reducible apply State.setThread_keeps | with_reducible apply Keeps.fold | intro _)
theorem State.freeTag_keeps {b0 : State} {s : State} (tag : Nat) (k_ : Keeps b0 s) : Keeps b0 (State.freeTag s tag) := by
  unfold State.freeTag
  try dsimp only
  repeat' (first | with_reducible assumption | with_reducible apply State.showLevel_keeps | with_reducible apply Keeps.fold | intro _ | split | with_reducible apply Keeps.spoil | with_reducible apply Keeps.rest)
theorem State.tagLast_keeps {b0 : State} {s : State} (tag th code : Nat) (pending : Bool) (k_ : Keeps b0 s) : Keeps b0 (State.tagLast s tag th code pending) := by
  unfold State.tagLast
  try dsimp only
  repeat' (first | with_reducible assumption | with_reducible apply State.setReg_keeps)
theorem State.finish_keeps {b0 : State} {s : State} (tag : Nat) (e : Entry) (code : Nat) (due done : Word) (detail : Nat) (last : Bool) (k_ : Keeps b0 s) : Keeps b0 (State.finish s tag e code due done detail last) := by
  unfold State.finish
  try dsimp only
  repeat' (first | with_reducible assumption | with_reducible apply State.tagLast_keeps | with_reducible apply State.record_keeps | with_reducible apply State.freeTag_keeps | with_reducible apply State.countCode_keeps | with_reducible apply State.traceTaq_keeps | with_reducible apply State.wakeCmpl_keeps | with_reducible apply Keeps.fold | intro _ | split)
theorem State.complete_keeps {b0 : State} {s : State} (tag : Nat) (due : Word) (code : Nat) (done : Word) (detail : Nat) (k_ : Keeps b0 s) : Keeps b0 (State.complete s tag due code done detail) := by
  unfold State.complete
  try dsimp only
  repeat' (first | with_reducible assumption | with_reducible apply State.setEntry_keeps | with_reducible apply State.finish_keeps | with_reducible apply Keeps.fold | intro _ | split)
theorem State.cancel_keeps {b0 : State} {s : State} (tag : Nat) (k_ : Keeps b0 s) : Keeps b0 (State.cancel s tag) := by
  unfold State.cancel
  try dsimp only
  repeat' (first | with_reducible assumption | with_reducible apply State.setEntry_keeps | with_reducible apply State.finish_keeps | with_reducible apply Keeps.fold | intro _ | split)
theorem State.cancelThread_keeps {b0 : State} {s : State} (th : Nat) (k_ : Keeps b0 s) : Keeps b0 (State.cancelThread s th) := by
  unfold State.cancelThread
  try dsimp only
  repeat' (first | with_reducible assumption | with_reducible apply State.cancel_keeps | with_reducible apply Keeps.fold | intro _)
theorem State.settleOwner_keeps {b0 : State} {s : State} (o : Owner) (code : Nat) (done : Word) (detail : Nat) (k_ : Keeps b0 s) : Keeps b0 (State.settleOwner s o code done detail) := by
  unfold State.settleOwner
  try dsimp only
  repeat' (first | with_reducible assumption | with_reducible apply State.setThread_keeps | with_reducible apply State.complete_keeps | with_reducible apply Keeps.fold | intro _ | split)

theorem State.hush_keeps {b0 : State} {s : State} (c : Nat) (k_ : Keeps b0 s) : Keeps b0 (State.hush s c) := by
  unfold State.hush
  try dsimp only
  repeat' (first | with_reducible assumption | with_reducible apply Keeps.fold | intro _ | split | with_reducible apply Keeps.spoil | with_reducible apply Keeps.rest)

theorem State.setTxc_keeps {b0 : State} {s : State} (n : Nat) (c : TxChain) (k_ : Keeps b0 s) : Keeps b0 (State.setTxc s n c) := by
  unfold State.setTxc
  try dsimp only
  repeat' (first | with_reducible assumption | with_reducible apply Keeps.fold | intro _ | split | with_reducible apply Keeps.spoil | with_reducible apply Keeps.rest)
theorem State.setRxc_keeps {b0 : State} {s : State} (n : Nat) (c : RxChain) (k_ : Keeps b0 s) : Keeps b0 (State.setRxc s n c) := by
  unfold State.setRxc
  try dsimp only
  repeat' (first | with_reducible assumption | with_reducible apply Keeps.fold | intro _ | split | with_reducible apply Keeps.spoil | with_reducible apply Keeps.rest)
theorem State.loadDc_keeps {b0 : State} {s : State} (n : Nat) (w : Word) (k_ : Keeps b0 s) : Keeps b0 (State.loadDc s n w) := by
  unfold State.loadDc
  try dsimp only
  repeat' (first | with_reducible assumption | with_reducible apply State.setRxc_keeps | with_reducible apply State.setReg_keeps)
theorem State.refreshTx_keeps {b0 : State} {s : State} (n : Nat) (k_ : Keeps b0 s) : Keeps b0 (State.refreshTx s n) := by
  unfold State.refreshTx
  try dsimp only
  repeat' (first | with_reducible assumption | with_reducible apply State.raiseBit_keeps | with_reducible apply State.setFld_keeps | with_reducible apply Keeps.fold | intro _ | split)
theorem State.refreshReg_keeps {b0 : State} {s : State} (n : Nat) (release : Bool) (k_ : Keeps b0 s) : Keeps b0 (State.refreshReg s n release) := by
  unfold State.refreshReg
  try dsimp only
  repeat' (first | with_reducible assumption | with_reducible apply State.setFlag_keeps | with_reducible apply State.setReg_keeps | with_reducible apply Keeps.fold | intro _ | split)
theorem State.slotTx_keeps {b0 : State} {s : State} (n : Nat) (k_ : Keeps b0 s) : Keeps b0 (State.slotTx s n) := by
  unfold State.slotTx
  try dsimp only
  repeat' (first | with_reducible assumption | with_reducible apply State.refreshTx_keeps | with_reducible apply State.refreshReg_keeps | with_reducible apply State.setReg_keeps)
theorem State.refreshRx_keeps {b0 : State} {s : State} (n : Nat) (k_ : Keeps b0 s) : Keeps b0 (State.refreshRx s n) := by
  unfold State.refreshRx
  try dsimp only
  repeat' (first | with_reducible assumption | with_reducible apply State.raiseBit_keeps | with_reducible apply State.setFld_keeps | with_reducible apply Keeps.fold | intro _ | split)
theorem State.setStep_keeps {b0 : State} {s : State} (n v : Nat) (k_ : Keeps b0 s) : Keeps b0 (State.setStep s n v) := by
  unfold State.setStep
  try dsimp only
  repeat' (first | with_reducible assumption | with_reducible apply State.bump_keeps | with_reducible apply State.setFld_keeps | with_reducible apply State.refreshRx_keeps | with_reducible apply Keeps.fold | intro _ | split)
theorem State.agcStep_keeps {b0 : State} {s : State} (n : Nat) (meas : Option (Nat × Nat × Nat)) (k_ : Keeps b0 s) : Keeps b0 (State.agcStep s n meas) := by
  unfold State.agcStep
  try dsimp only
  repeat' (first | with_reducible assumption | with_reducible apply State.setStep_keeps | with_reducible apply State.raiseBit_keeps | with_reducible apply State.setReg_keeps | with_reducible apply Keeps.fold | intro _ | split)
theorem State.writeAgc_keeps {b0 : State} {s : State} (off : Nat) (val mask : Word) (k_ : Keeps b0 s) : Keeps b0 (State.writeAgc s off val mask) := by
  unfold State.writeAgc
  try dsimp only
  repeat' (first | with_reducible assumption | with_reducible apply State.setFld_keeps | with_reducible apply State.writeFields_keeps | with_reducible apply Keeps.fold | intro _ | split)
theorem State.tally_keeps {b0 : State} {s : State} (m : PathMeas) (k_ : Keeps b0 s) : Keeps b0 (State.tally s m) := by
  unfold State.tally
  try dsimp only
  repeat' (first | with_reducible assumption | with_reducible apply State.raiseBit_keeps | with_reducible apply State.count_keeps | with_reducible apply Keeps.fold | intro _ | split | with_reducible apply Keeps.spoil | with_reducible apply Keeps.rest)
theorem State.showSteps_keeps {b0 : State} {s : State} (t : Nat) (k_ : Keeps b0 s) : Keeps b0 (State.showSteps s t) := by
  unfold State.showSteps
  try dsimp only
  repeat' (first | with_reducible assumption | with_reducible apply State.setFld_keeps | with_reducible apply Keeps.fold | intro _)
theorem State.land_keeps {b0 : State} {s : State} (off : Nat) (k_ : Keeps b0 s) : Keeps b0 (State.land s off) := by
  unfold State.land
  try dsimp only
  repeat' (first | with_reducible assumption | with_reducible apply State.loadDc_keeps | with_reducible apply State.apply_keeps | with_reducible apply State.raiseBit_keeps | with_reducible apply Keeps.fold | intro _ | split)
theorem State.refreshAt_keeps {b0 : State} {s : State} (off : Nat) (k_ : Keeps b0 s) : Keeps b0 (State.refreshAt s off) := by
  unfold State.refreshAt
  try dsimp only
  repeat' (first | with_reducible assumption | with_reducible apply State.refreshRx_keeps | with_reducible apply State.slotTx_keeps | with_reducible apply Keeps.fold | intro _ | split)
theorem State.idlePaths_keeps {b0 : State} {s : State} (k_ : Keeps b0 s) : Keeps b0 (State.idlePaths s) := by
  unfold State.idlePaths
  try dsimp only
  repeat' (first | with_reducible assumption | with_reducible apply State.setFld_keeps | with_reducible apply State.refreshRx_keeps | with_reducible apply State.slotTx_keeps | with_reducible apply Keeps.fold | intro _ | split)
theorem State.reloaded_keeps {b0 : State} {s : State} (k : Nat) (k_ : Keeps b0 s) : Keeps b0 (State.reloaded s k) := by
  unfold State.reloaded
  try dsimp only
  repeat' (first | with_reducible assumption | with_reducible apply Keeps.fold | intro _ | split | with_reducible apply Keeps.spoil | with_reducible apply Keeps.rest)
theorem State.landGroup_keeps {b0 : State} {s : State} (k : Nat) (k_ : Keeps b0 s) : Keeps b0 (State.landGroup s k) := by
  unfold State.landGroup
  try dsimp only
  repeat' (first | with_reducible assumption | with_reducible apply State.reloaded_keeps | with_reducible apply State.land_keeps | with_reducible apply Keeps.fold)
theorem State.putDeferred_keeps {b0 : State} {s : State} (off : Nat) (v : Word) (k_ : Keeps b0 s) : Keeps b0 (State.putDeferred s off v) := by
  unfold State.putDeferred
  try dsimp only
  repeat' (first | with_reducible assumption | with_reducible apply State.refreshAt_keeps | with_reducible apply State.land_keeps | with_reducible apply State.setReg_keeps | with_reducible apply Keeps.fold | intro _ | split)
theorem State.noteReload_keeps {b0 : State} {s : State} (off : Nat) (k_ : Keeps b0 s) : Keeps b0 (State.noteReload s off) := by
  unfold State.noteReload
  try dsimp only
  repeat' (first | with_reducible assumption | with_reducible apply Keeps.fold | intro _ | split | with_reducible apply Keeps.spoil | with_reducible apply Keeps.rest)
theorem State.writeDeferred_keeps {b0 : State} {s : State} (off : Nat) (val mask : Word) (k_ : Keeps b0 s) : Keeps b0 (State.writeDeferred s off val mask) := by
  unfold State.writeDeferred
  try dsimp only
  repeat' (first | with_reducible assumption | with_reducible apply State.noteReload_keeps | with_reducible apply State.refreshAt_keeps | with_reducible apply State.land_keeps | with_reducible apply State.writeFields_keeps | with_reducible apply Keeps.fold | intro _ | split)
theorem State.writeTxdCtl_keeps {b0 : State} {s : State} (n : Nat) (val mask : Word) (k_ : Keeps b0 s) : Keeps b0 (State.writeTxdCtl s n val mask) := by
  unfold State.writeTxdCtl
  try dsimp only
  repeat' (first | with_reducible assumption | with_reducible apply State.apply_keeps | with_reducible apply State.writeFields_keeps | with_reducible apply Keeps.fold | intro _ | split)
theorem State.writeAtt_keeps {b0 : State} {s : State} (off : Nat) (val mask : Word) (k_ : Keeps b0 s) : Keeps b0 (State.writeAtt s off val mask) := by
  unfold State.writeAtt
  try dsimp only
  repeat' (first | with_reducible assumption | with_reducible apply State.refreshRx_keeps | with_reducible apply State.refreshTx_keeps | with_reducible apply State.writeFields_keeps | with_reducible apply Keeps.fold | intro _ | split)
theorem State.gainset_keeps {b0 : State} {s : State} (dir : Nat) (paths : List Nat) (atten : Nat) (k_ : Keeps b0 s) : Keeps b0 (State.gainset s dir paths atten) := by
  unfold State.gainset
  try dsimp only
  repeat' (first | with_reducible assumption | with_reducible apply State.setFld_keeps | with_reducible apply State.refreshRx_keeps | with_reducible apply State.refreshTx_keeps | with_reducible apply Keeps.fold | intro _ | split)
theorem State.landByp_keeps {b0 : State} {s : State} (k : Nat) (k_ : Keeps b0 s) : Keeps b0 (State.landByp s k) := by
  unfold State.landByp
  try dsimp only
  repeat' (first | with_reducible assumption | with_reducible apply State.refreshRx_keeps | with_reducible apply Keeps.fold | intro _ | split | with_reducible apply Keeps.spoil | with_reducible apply Keeps.rest)
theorem State.writeLnaByp_keeps {b0 : State} {s : State} (val mask : Word) (k_ : Keeps b0 s) : Keeps b0 (State.writeLnaByp s val mask) := by
  unfold State.writeLnaByp
  try dsimp only
  repeat' (first | with_reducible assumption | with_reducible apply State.landByp_keeps | with_reducible apply State.writeFields_keeps | with_reducible apply Keeps.fold | intro _ | split)

end Sys2Proof.Machine
end

