-- ==== Sys2Proof/Laws/KeepsAir.lean ====
section
/-! SUPPORT. What the operations of the radio path keep. -/
namespace Sys2Proof.Machine


theorem State.readNvms_keeps_2_2 {b0 : State} (t n : Nat) {s : State} (w : Nat) (h : Keeps b0 s) : Keeps b0 (s.readNvms t w n).2.2 := by
  induction n generalizing s w with
  | zero => exact h
  | succ n ih => exact ih (w + 1) (State.readNvm_keeps_2_2 _ _ h)
theorem State.readSlot_keeps_2 {b0 : State} {s : State} (t c w : Nat) (k_ : Keeps b0 s) : Keeps b0 (State.readSlot s t c w).2 := by
  unfold State.readSlot
  try dsimp only
  repeat' (first | with_reducible assumption | with_reducible apply State.readNvm_keeps_2_2 | with_reducible apply State.readNvms_keeps_2_2 | with_reducible refine State.readNvm_keeps_2_2_eq (by assumption) ?_ | with_reducible apply Keeps.fold | intro _ | split)
theorem State.readSlot_keeps_2_eq {b0 : State} {s : State} {t c w : Nat} {x0 x1} (he : State.readSlot s t c w = (x0, x1)) (k_ : Keeps b0 s) : Keeps b0 x1 := by
  have := State.readSlot_keeps_2 t c w k_
  rw [he] at this
  exact this
theorem State.winner_keeps_2 {b0 : State} {s : State} (t c : Nat) (k_ : Keeps b0 s) : Keeps b0 (State.winner s t c).2 := by
  unfold State.winner
  try dsimp only
  repeat' (first | with_reducible assumption | with_reducible apply State.readSlot_keeps_2 | with_reducible refine State.readSlot_keeps_2_eq (by assumption) ?_ | with_reducible apply Keeps.fold | intro _ | split)
theorem State.winner_keeps_2_eq {b0 : State} {s : State} {t c : Nat} {x0 x1} (he : State.winner s t c = (x0, x1)) (k_ : Keeps b0 s) : Keeps b0 x1 := by
  have := State.winner_keeps_2 t c k_
  rw [he] at this
  exact this
theorem State.showSrc_keeps {b0 : State} {s : State} (t c src : Nat) (seq : Word) (k_ : Keeps b0 s) : Keeps b0 (State.showSrc s t c src seq) := by
  unfold State.showSrc
  try dsimp only
  repeat' (first | with_reducible assumption | with_reducible apply State.setFld_keeps | with_reducible apply State.setReg_keeps)
theorem State.loadRecord_keeps_2 {b0 : State} {s : State} (t c : Nat) (k_ : Keeps b0 s) : Keeps b0 (State.loadRecord s t c).2 := by
  unfold State.loadRecord
  try dsimp only
  repeat' (first | with_reducible assumption | with_reducible apply State.showSrc_keeps | with_reducible apply State.raiseBit_keeps | with_reducible apply State.winner_keeps_2 | with_reducible apply State.readSlot_keeps_2 | with_reducible refine State.winner_keeps_2_eq (by assumption) ?_ | with_reducible refine State.readSlot_keeps_2_eq (by assumption) ?_ | with_reducible apply Keeps.fold | intro _ | split)
theorem State.loadRecord_keeps_2_eq {b0 : State} {s : State} {t c : Nat} {x0 x1} (he : State.loadRecord s t c = (x0, x1)) (k_ : Keeps b0 s) : Keeps b0 x1 := by
  have := State.loadRecord_keeps_2 t c k_
  rw [he] at this
  exact this
theorem State.putField_keeps {b0 : State} {s : State} (off : Nat) (v : Word) (k_ : Keeps b0 s) : Keeps b0 (State.putField s off v) := by
  unfold State.putField
  try dsimp only
  repeat' (first | with_reducible assumption | with_reducible apply State.putDeferred_keeps)
theorem State.putFields_keeps {b0 : State} (os : List Nat) {s : State} (vs : List Word) (h : Keeps b0 s) : Keeps b0 (s.putFields os vs) := by
  induction os generalizing s vs with
  | nil => exact h
  | cons o os ih =>
    cases vs with
    | nil => exact h
    | cons v vs => exact ih vs (State.putField_keeps _ _ h)
theorem State.showSpares_keeps {b0 : State} {s : State} (n : Nat) (k_ : Keeps b0 s) : Keeps b0 (State.showSpares s n) := by
  unfold State.showSpares
  try dsimp only
  repeat' (first | with_reducible assumption | with_reducible apply State.setReg_keeps)
theorem State.loadClass_keeps {b0 : State} {s : State} (t c : Nat) (k_ : Keeps b0 s) : Keeps b0 (State.loadClass s t c) := by
  unfold State.loadClass
  try dsimp only
  repeat' (first | with_reducible assumption | with_reducible apply State.putFields_keeps | with_reducible apply State.putWord_keeps | with_reducible apply State.loadRecord_keeps_2 | with_reducible apply State.showSpares_keeps | with_reducible refine State.loadRecord_keeps_2_eq (by assumption) ?_ | with_reducible apply Keeps.fold | intro _ | split)
theorem State.readDevs_keeps_2 {b0 : State} (l : List Nat) {s : State} (h : Keeps b0 s) : Keeps b0 (s.readDevs l).2 := by
  induction l generalizing s with
  | nil => exact h
  | cons a l ih => exact ih (State.readDev_keeps_2 a h)
theorem State.readDevs_keeps_2_eq {b0 : State} {l : List Nat} {s : State} {x0 x1} (he : s.readDevs l = (x0, x1)) (h : Keeps b0 s) :
    Keeps b0 x1 := by
  have := State.readDevs_keeps_2 l h
  rw [he] at this
  exact this
theorem State.snapshot_keeps_2 {b0 : State} {s : State} (t c : Nat) (k_ : Keeps b0 s) : Keeps b0 (State.snapshot s t c).2 := by
  unfold State.snapshot
  try dsimp only
  repeat' (first | with_reducible assumption | with_reducible apply State.readDevs_keeps_2 | with_reducible refine State.readDevs_keeps_2_eq (by assumption) ?_ | with_reducible apply Keeps.fold | intro _ | split)
theorem State.snapshot_keeps_2_eq {b0 : State} {s : State} {t c : Nat} {x0 x1} (he : State.snapshot s t c = (x0, x1)) (k_ : Keeps b0 s) : Keeps b0 x1 := by
  have := State.snapshot_keeps_2 t c k_
  rw [he] at this
  exact this
theorem State.showBusy_keeps {b0 : State} {s : State} (k_ : Keeps b0 s) : Keeps b0 (State.showBusy s) := by
  unfold State.showBusy
  try dsimp only
  repeat' (first | with_reducible assumption | with_reducible apply State.setFlag_keeps)
theorem State.beginStore_keeps {b0 : State} {s : State} (t c : Nat) (k_ : Keeps b0 s) : Keeps b0 (State.beginStore s t c) := by
  unfold State.beginStore
  try dsimp only
  repeat' (first | with_reducible assumption | with_reducible apply State.snapshot_keeps_2 | with_reducible apply State.winner_keeps_2 | with_reducible apply State.showBusy_keeps | with_reducible refine State.snapshot_keeps_2_eq (by assumption) ?_ | with_reducible refine State.winner_keeps_2_eq (by assumption) ?_ | with_reducible apply Keeps.fold | intro _ | split | with_reducible apply Keeps.spoil | with_reducible apply Keeps.rest)
theorem State.requestStore_keeps {b0 : State} {s : State} (t c : Nat) (k_ : Keeps b0 s) : Keeps b0 (State.requestStore s t c) := by
  unfold State.requestStore
  try dsimp only
  repeat' (first | with_reducible assumption | with_reducible apply State.beginStore_keeps | with_reducible apply State.showBusy_keeps | with_reducible apply Keeps.fold | intro _ | split | with_reducible apply Keeps.spoil | with_reducible apply Keeps.rest)
theorem State.putNvms_keeps {b0 : State} (t : Nat) (ws : List Word) {s : State} (a : Nat) (h : Keeps b0 s) : Keeps b0 (s.putNvms t a ws) := by
  induction ws generalizing s a with
  | nil => exact h
  | cons w ws ih => exact ih (a + 1) (State.putNvm_keeps _ _ _ h)
theorem State.endStore_keeps {b0 : State} {s : State} (t c : Nat) (fail : Option Nat) (k_ : Keeps b0 s) : Keeps b0 (State.endStore s t c fail) := by
  unfold State.endStore
  try dsimp only
  repeat' (first | with_reducible assumption | with_reducible apply State.putNvms_keeps | with_reducible apply State.takeFree_keeps_2 | with_reducible apply State.raiseBit_keeps | with_reducible apply State.showBusy_keeps | with_reducible apply State.putNvm_keeps | with_reducible refine State.takeFree_keeps_2_eq (by assumption) ?_ | with_reducible apply Keeps.fold | intro _ | split | with_reducible apply Keeps.spoil | with_reducible apply Keeps.rest)
theorem State.startStore_keeps {b0 : State} {s : State} (t c : Nat) (k_ : Keeps b0 s) : Keeps b0 (State.startStore s t c) := by
  unfold State.startStore
  try dsimp only
  repeat' (first | with_reducible assumption | with_reducible apply State.beginStore_keeps | with_reducible apply Keeps.fold | intro _ | split)

theorem State.setCode_keeps {b0 : State} {s : State} (i v : Nat) (k_ : Keeps b0 s) : Keeps b0 (State.setCode s i v) := by
  unfold State.setCode
  try dsimp only
  repeat' (first | with_reducible assumption | with_reducible apply State.setFld_keeps | with_reducible apply Keeps.fold | intro _ | split | with_reducible apply Keeps.spoil | with_reducible apply Keeps.rest)
theorem State.bdaBad_keeps {b0 : State} {s : State} (bit : Nat) (k_ : Keeps b0 s) : Keeps b0 (State.bdaBad s bit) := by
  unfold State.bdaBad
  try dsimp only
  repeat' (first | with_reducible assumption | with_reducible apply State.raiseBit_keeps | with_reducible apply State.bump_keeps)
theorem State.writeCode_keeps {b0 : State} {s : State} (i : Nat) (val mask : Word) (k_ : Keeps b0 s) : Keeps b0 (State.writeCode s i val mask) := by
  unfold State.writeCode
  try dsimp only
  repeat' (first | with_reducible assumption | with_reducible apply State.bdaBad_keeps | with_reducible apply State.setCode_keeps | with_reducible apply Keeps.fold | intro _ | split)
theorem State.holdRoute_keeps {b0 : State} {s : State} (s0 : State) (i : Nat) (k_ : Keeps b0 s) : Keeps b0 (State.holdRoute s s0 i) := by
  unfold State.holdRoute
  try dsimp only
  repeat' (first | with_reducible assumption | with_reducible apply Keeps.fold | intro _ | split | with_reducible apply Keeps.spoil | with_reducible apply Keeps.rest)
theorem State.writeBdaCfg_keeps {b0 : State} {s : State} (i : Nat) (val mask : Word) (k_ : Keeps b0 s) : Keeps b0 (State.writeBdaCfg s i val mask) := by
  unfold State.writeBdaCfg
  try dsimp only
  repeat' (first | with_reducible assumption | with_reducible apply State.holdRoute_keeps | with_reducible apply State.bdaBad_keeps | with_reducible apply State.setFlag_keeps | with_reducible apply State.setFld_keeps | with_reducible apply State.writeFields_keeps | with_reducible apply Keeps.fold | intro _ | split)
theorem State.clampTile_keeps {b0 : State} {s : State} (t : Nat) (k_ : Keeps b0 s) : Keeps b0 (State.clampTile s t) := by
  unfold State.clampTile
  try dsimp only
  repeat' (first | with_reducible assumption | with_reducible apply State.setFlag_keeps | with_reducible apply Keeps.fold | intro _ | split | with_reducible apply Keeps.spoil | with_reducible apply Keeps.rest)
theorem State.resetOuts_keeps {b0 : State} {s : State} (t : Nat) (k_ : Keeps b0 s) : Keeps b0 (State.resetOuts s t) := by
  unfold State.resetOuts
  refine k_.parts rfl ?_ id id id id id id
  intro q
  dsimp only
  apply swf_skeep
  exact q
theorem State.endRange_keeps {b0 : State} {s : State} (i : Nat) (k_ : Keeps b0 s) : Keeps b0 (State.endRange s i) := by
  unfold State.endRange
  try dsimp only
  repeat' (first | with_reducible assumption | with_reducible apply State.setFlag_keeps | with_reducible apply State.setFld_keeps | with_reducible apply Keeps.fold | intro _ | split)
theorem State.powerUpCodes_keeps {b0 : State} {s : State} (n : Nat) (k_ : Keeps b0 s) : Keeps b0 (State.powerUpCodes s n) := by
  unfold State.powerUpCodes
  try dsimp only
  repeat' (first | with_reducible assumption | with_reducible apply State.setCode_keeps | with_reducible apply Keeps.fold | intro _)
theorem State.operatingCodes_keeps {b0 : State} {s : State} (n : Nat) (k_ : Keeps b0 s) : Keeps b0 (State.operatingCodes s n) := by
  unfold State.operatingCodes
  try dsimp only
  repeat' (first | with_reducible assumption | with_reducible apply State.setCode_keeps | with_reducible apply Keeps.fold | intro _)
theorem State.bandCodes_keeps {b0 : State} {s : State} (k : Nat) (k_ : Keeps b0 s) : Keeps b0 (State.bandCodes s k) := by
  unfold State.bandCodes
  try dsimp only
  repeat' (first | with_reducible assumption | with_reducible apply State.operatingCodes_keeps | with_reducible apply Keeps.fold | intro _ | split)
theorem State.loadOut_keeps {b0 : State} {s : State} (i : Nat) (ws : List Word) (k_ : Keeps b0 s) : Keeps b0 (State.loadOut s i ws) := by
  unfold State.loadOut
  try dsimp only
  repeat' (first | with_reducible assumption | with_reducible apply State.setFld_keeps | with_reducible apply State.setReg_keeps | with_reducible apply Keeps.fold | intro _ | split)
theorem State.loadOuts_keeps {b0 : State} (is : List Nat) {s : State} (ws : List Word) (h : Keeps b0 s) : Keeps b0 (s.loadOuts is ws) := by
  induction is generalizing s ws with
  | nil => exact h
  | cons i is ih => exact ih _ (State.loadOut_keeps _ _ h)
theorem State.loadBias_keeps {b0 : State} {s : State} (t : Nat) (k_ : Keeps b0 s) : Keeps b0 (State.loadBias s t) := by
  unfold State.loadBias
  try dsimp only
  repeat' (first | with_reducible assumption | with_reducible apply State.loadRecord_keeps_2 | with_reducible apply State.raiseBit_keeps | with_reducible apply State.setFlag_keeps | with_reducible apply State.loadOuts_keeps | with_reducible refine State.loadRecord_keeps_2_eq (by assumption) ?_ | with_reducible apply Keeps.fold | intro _ | split | with_reducible apply Keeps.spoil | with_reducible apply Keeps.rest)
theorem State.writeBdaCtl_keeps {b0 : State} {s : State} (val mask : Word) (k_ : Keeps b0 s) : Keeps b0 (State.writeBdaCtl s val mask) := by
  unfold State.writeBdaCtl
  try dsimp only
  repeat' (first | with_reducible assumption | with_reducible apply State.setFld_keeps | with_reducible apply State.writeFields_keeps | with_reducible apply State.requestStore_keeps | with_reducible apply Keeps.fold | intro _ | split | with_reducible apply Keeps.spoil | with_reducible apply Keeps.rest)
theorem State.writeSgCtl_keeps {b0 : State} {s : State} (g : Nat) (val mask : Word) (k_ : Keeps b0 s) : Keeps b0 (State.writeSgCtl s g val mask) := by
  unfold State.writeSgCtl
  try dsimp only
  repeat' (first | with_reducible assumption | with_reducible apply State.writeFields_keeps | with_reducible apply Keeps.fold | intro _ | split | with_reducible apply Keeps.spoil | with_reducible apply Keeps.rest)
theorem State.sgUpdate_keeps {b0 : State} {s : State} (g : Nat) (k_ : Keeps b0 s) : Keeps b0 (State.sgUpdate s g) := by
  unfold State.sgUpdate
  try dsimp only
  repeat' (first | with_reducible assumption | with_reducible apply State.raiseBit_keeps | with_reducible apply State.setReg_keeps | with_reducible apply Keeps.fold | intro _ | split | with_reducible apply Keeps.spoil | with_reducible apply Keeps.rest)

theorem State.stopCal_keeps {b0 : State} {s : State} (key code : Nat) (pend : Bool) (k_ : Keeps b0 s) : Keeps b0 (State.stopCal s key code pend) := by
  unfold State.stopCal
  try dsimp only
  repeat' (first | with_reducible assumption | with_reducible apply State.setFlag_keeps | with_reducible apply State.setFld_keeps | with_reducible apply Keeps.fold | intro _ | split | with_reducible apply Keeps.spoil | with_reducible apply Keeps.rest)
theorem State.abortLo_keeps {b0 : State} {s : State} (k : Nat) (k_ : Keeps b0 s) : Keeps b0 (State.abortLo s k) := by
  unfold State.abortLo
  try dsimp only
  repeat' (first | with_reducible assumption | with_reducible apply State.stopCal_keeps | with_reducible apply Keeps.fold | intro _ | split)
theorem State.loFell_keeps {b0 : State} {s0 : State} (k : Nat) (commanded : Bool) (k_ : Keeps b0 s0) : Keeps b0 (State.loFell s0 k commanded) := by
  unfold State.loFell
  try dsimp only
  repeat' (first | with_reducible assumption | with_reducible apply State.raiseBit_keeps | with_reducible apply State.abortLo_keeps | with_reducible apply State.setFlag_keeps | with_reducible apply Keeps.fold | intro _ | split | with_reducible apply Keeps.spoil | with_reducible apply Keeps.rest)
theorem State.unmuteLock_keeps {b0 : State} {s : State} (k : Nat) (k_ : Keeps b0 s) : Keeps b0 (State.unmuteLock s k) := by
  unfold State.unmuteLock
  try dsimp only
  repeat' (first | with_reducible assumption | with_reducible apply State.setFlag_keeps | with_reducible apply Keeps.fold | intro _ | split)
theorem State.loBack_keeps {b0 : State} {s : State} (k : Nat) (k_ : Keeps b0 s) : Keeps b0 (State.loBack s k) := by
  unfold State.loBack
  try dsimp only
  repeat' (first | with_reducible assumption | with_reducible apply State.unmuteLock_keeps | with_reducible apply Keeps.fold | intro _ | split)
theorem State.judgeRange_keeps {b0 : State} {s : State} (k : Nat) (k_ : Keeps b0 s) : Keeps b0 (State.judgeRange s k) := by
  unfold State.judgeRange
  try dsimp only
  repeat' (first | with_reducible assumption | with_reducible apply State.raiseBit_keeps | with_reducible apply State.setFlag_keeps | with_reducible apply Keeps.fold | intro _ | split)
theorem State.newLimits_keeps {b0 : State} {s : State} (k : Nat) (k_ : Keeps b0 s) : Keeps b0 (State.newLimits s k) := by
  unfold State.newLimits
  try dsimp only
  repeat' (first | with_reducible assumption | with_reducible apply State.setFld_keeps | with_reducible apply State.refreshReg_keeps | with_reducible apply Keeps.fold | intro _ | split)
theorem State.refreshGroup_keeps {b0 : State} {s : State} (k : Nat) (k_ : Keeps b0 s) : Keeps b0 (State.refreshGroup s k) := by
  unfold State.refreshGroup
  try dsimp only
  repeat' (first | with_reducible assumption | with_reducible apply State.refreshRx_keeps | with_reducible apply State.refreshTx_keeps | with_reducible apply Keeps.fold | intro _ | split)
theorem State.newFrequency_keeps {b0 : State} {s : State} (k : Nat) (k_ : Keeps b0 s) : Keeps b0 (State.newFrequency s k) := by
  unfold State.newFrequency
  try dsimp only
  repeat' (first | with_reducible assumption | with_reducible apply State.newLimits_keeps | with_reducible apply State.refreshTx_keeps | with_reducible apply Keeps.fold | intro _ | split)
theorem State.takePreset_keeps {b0 : State} {s : State} (k j : Nat) (w : Word × Word) (k_ : Keeps b0 s) : Keeps b0 (State.takePreset s k j w) := by
  unfold State.takePreset
  try dsimp only
  repeat' (first | with_reducible assumption | with_reducible apply State.newFrequency_keeps | with_reducible apply State.setFld_keeps | with_reducible apply State.judgeRange_keeps | with_reducible apply State.setReg_keeps | with_reducible apply Keeps.fold | intro _ | split | with_reducible apply Keeps.spoil | with_reducible apply Keeps.rest)
theorem State.setLos_keeps {b0 : State} {s : State} (k b : Nat) (v : Bool) (k_ : Keeps b0 s) : Keeps b0 (State.setLos s k b v) := by
  unfold State.setLos
  try dsimp only
  repeat' (first | with_reducible assumption | with_reducible apply State.setFlag_keeps)
theorem State.beginHop_keeps {b0 : State} {s : State} (k j : Nat) (w : Word × Word) (commanded : Bool) (k_ : Keeps b0 s) : Keeps b0 (State.beginHop s k j w commanded) := by
  unfold State.beginHop
  try dsimp only
  repeat' (first | with_reducible assumption | with_reducible apply State.loFell_keeps | with_reducible apply State.bump_keeps | with_reducible apply State.setLos_keeps | with_reducible apply State.takePreset_keeps | with_reducible apply Keeps.fold | intro _ | split | with_reducible apply Keeps.spoil | with_reducible apply Keeps.rest)
theorem State.synOn_keeps {b0 : State} {s : State} (k : Nat) (k_ : Keeps b0 s) : Keeps b0 (State.synOn s k) := by
  unfold State.synOn
  try dsimp only
  repeat' (first | with_reducible assumption | with_reducible apply State.setFlag_keeps | with_reducible apply State.setLos_keeps | with_reducible apply Keeps.fold | intro _ | split | with_reducible apply Keeps.spoil | with_reducible apply Keeps.rest)
theorem State.endHop_keeps {b0 : State} {s : State} (h : Hop) (k_ : Keeps b0 s) : Keeps b0 (State.endHop s h) := by
  unfold State.endHop
  try dsimp only
  repeat' (first | with_reducible assumption | with_reducible apply State.settleOwner_keeps | with_reducible apply Keeps.fold | intro _ | split)
theorem State.synOff_keeps {b0 : State} {s : State} (k : Nat) (k_ : Keeps b0 s) : Keeps b0 (State.synOff s k) := by
  unfold State.synOff
  try dsimp only
  repeat' (first | with_reducible assumption | with_reducible apply State.stopCal_keeps | with_reducible apply State.setLos_keeps | with_reducible apply State.takePreset_keeps | with_reducible apply State.endHop_keeps | with_reducible apply Keeps.fold | intro _ | split | with_reducible apply Keeps.spoil | with_reducible apply Keeps.rest)
theorem State.synPower_keeps {b0 : State} {s : State} (k : Nat) (k_ : Keeps b0 s) : Keeps b0 (State.synPower s k) := by
  unfold State.synPower
  try dsimp only
  repeat' (first | with_reducible assumption | with_reducible apply State.synOn_keeps | with_reducible apply State.synOff_keeps | with_reducible apply Keeps.fold | intro _ | split)
theorem State.putHop_keeps {b0 : State} {s : State} (k : Nat) (h : Hop) (k_ : Keeps b0 s) : Keeps b0 (State.putHop s k h) := by
  unfold State.putHop
  try dsimp only
  repeat' (first | with_reducible assumption | with_reducible apply Keeps.fold | intro _ | split | with_reducible apply Keeps.spoil | with_reducible apply Keeps.rest)
theorem State.yieldHop_keeps {b0 : State} {s : State} (k : Nat) (k_ : Keeps b0 s) : Keeps b0 (State.yieldHop s k) := by
  unfold State.yieldHop
  try dsimp only
  repeat' (first | with_reducible assumption | with_reducible apply State.endHop_keeps | with_reducible apply Keeps.fold | intro _ | split | with_reducible apply Keeps.spoil | with_reducible apply Keeps.rest)
theorem State.hopAll_keeps_1 {b0 : State} {s : State} (named : List Nat) (j : Nat) (owner : Owner) (due : Word) (k_ : Keeps b0 s) : Keeps b0 (State.hopAll s named j owner due).1 := by
  unfold State.hopAll
  try dsimp only
  repeat' (first | with_reducible assumption | with_reducible apply State.beginHop_keeps | with_reducible apply State.putHop_keeps | with_reducible apply State.takePreset_keeps | with_reducible apply State.yieldHop_keeps | with_reducible apply Keeps.fold | intro _ | split | with_reducible apply Keeps.spoil | with_reducible apply Keeps.rest)
theorem State.hopAll_keeps_1_eq {b0 : State} {s : State} {named : List Nat} {j : Nat} {owner : Owner} {due : Word} {x0 x1} (he : State.hopAll s named j owner due = (x0, x1)) (k_ : Keeps b0 s) : Keeps b0 x0 := by
  have := State.hopAll_keeps_1 named j owner due k_
  rw [he] at this
  exact this
theorem State.lohop_keeps_1 {b0 : State} {s : State} (syn j : Nat) (owner : Owner) (due : Word) (k_ : Keeps b0 s) : Keeps b0 (State.lohop s syn j owner due).1 := by
  unfold State.lohop
  try dsimp only
  repeat' (first | with_reducible assumption | with_reducible apply State.hopAll_keeps_1 | with_reducible refine State.hopAll_keeps_1_eq (by assumption) ?_ | with_reducible apply Keeps.fold | intro _ | split)
theorem State.lohop_keeps_1_eq {b0 : State} {s : State} {syn j : Nat} {owner : Owner} {due : Word} {x0 x1} (he : State.lohop s syn j owner due = (x0, x1)) (k_ : Keeps b0 s) : Keeps b0 x0 := by
  have := State.lohop_keeps_1 syn j owner due k_
  rw [he] at this
  exact this
theorem State.writeHop_keeps {b0 : State} {s : State} (k : Nat) (val mask : Word) (k_ : Keeps b0 s) : Keeps b0 (State.writeHop s k val mask) := by
  unfold State.writeHop
  try dsimp only
  repeat' (first | with_reducible assumption | with_reducible apply State.hopAll_keeps_1 | with_reducible apply State.raiseBit_keeps | with_reducible apply State.bump_keeps | with_reducible apply State.writeFields_keeps | with_reducible refine State.hopAll_keeps_1_eq (by assumption) ?_ | with_reducible apply Keeps.fold | intro _ | split)
theorem State.landIf_keeps {b0 : State} {s : State} (k : Nat) (k_ : Keeps b0 s) : Keeps b0 (State.landIf s k) := by
  unfold State.landIf
  try dsimp only
  repeat' (first | with_reducible assumption | with_reducible apply State.apply_keeps | with_reducible apply State.setFlag_keeps | with_reducible apply State.setFld_keeps | with_reducible apply Keeps.fold | intro _)
theorem State.writeLosCtl_keeps {b0 : State} {s : State} (k : Nat) (val mask : Word) (k_ : Keeps b0 s) : Keeps b0 (State.writeLosCtl s k val mask) := by
  unfold State.writeLosCtl
  try dsimp only
  repeat' (first | with_reducible assumption | with_reducible apply State.synPower_keeps | with_reducible apply State.landIf_keeps | with_reducible apply State.writeFields_keeps | with_reducible apply Keeps.fold | intro _ | split)
theorem State.writeClCtl_keeps {b0 : State} {s : State} (val mask : Word) (k_ : Keeps b0 s) : Keeps b0 (State.writeClCtl s val mask) := by
  unfold State.writeClCtl
  try dsimp only
  repeat' (first | with_reducible assumption | with_reducible apply State.raiseBit_keeps | with_reducible apply State.setFlag_keeps | with_reducible apply State.writeFields_keeps | with_reducible apply Keeps.fold | intro _ | split)
theorem State.ccsFell_keeps {b0 : State} {s : State} (n : Nat) (k_ : Keeps b0 s) : Keeps b0 (State.ccsFell s n) := by
  unfold State.ccsFell
  try dsimp only
  repeat' (first | with_reducible assumption | with_reducible apply State.loFell_keeps | with_reducible apply State.raiseBit_keeps | with_reducible apply State.setFlag_keeps)

theorem State.setPair_keeps {b0 : State} {s : State} (n : Nat) (p : Pair) (k_ : Keeps b0 s) : Keeps b0 (State.setPair s n p) := by
  unfold State.setPair
  try dsimp only
  repeat' (first | with_reducible assumption | with_reducible apply Keeps.fold | intro _ | split | with_reducible apply Keeps.spoil | with_reducible apply Keeps.rest)
theorem State.abortCal_keeps {b0 : State} {s : State} (n : Nat) (k_ : Keeps b0 s) : Keeps b0 (State.abortCal s n) := by
  unfold State.abortCal
  try dsimp only
  repeat' (first | with_reducible assumption | with_reducible apply State.stopCal_keeps | with_reducible apply Keeps.fold | intro _ | split)
theorem State.setDrain_keeps {b0 : State} {s : State} (k : Nat) (v : Bool) (k_ : Keeps b0 s) : Keeps b0 (State.setDrain s k v) := by
  unfold State.setDrain
  try dsimp only
  repeat' (first | with_reducible assumption | with_reducible apply Keeps.fold | intro _ | split | with_reducible apply Keeps.spoil | with_reducible apply Keeps.rest)
theorem State.drainFall_keeps {b0 : State} {s : State} (n : Nat) (k_ : Keeps b0 s) : Keeps b0 (State.drainFall s n) := by
  unfold State.drainFall
  try dsimp only
  repeat' (first | with_reducible assumption | with_reducible apply State.setDrain_keeps | with_reducible apply Keeps.fold | intro _ | split)
theorem State.followPair_keeps {b0 : State} {s : State} (n : Nat) (k_ : Keeps b0 s) : Keeps b0 (State.followPair s n) := by
  unfold State.followPair
  try dsimp only
  repeat' (first | with_reducible assumption | with_reducible apply State.setFlag_keeps | with_reducible apply State.synPower_keeps | with_reducible apply Keeps.fold | intro _ | split)
theorem State.startRow_keeps {b0 : State} {s : State} (n : Nat) (k_ : Keeps b0 s) : Keeps b0 (State.startRow s n) := by
  unfold State.startRow
  try dsimp only
  repeat' (first | with_reducible assumption | with_reducible apply State.followPair_keeps | with_reducible apply State.powerUpCodes_keeps | with_reducible apply State.abortCal_keeps | with_reducible apply State.setDrain_keeps | with_reducible apply Keeps.fold | intro _ | split)
theorem State.putStep_keeps {b0 : State} {s : State} (n v : Nat) (k_ : Keeps b0 s) : Keeps b0 (State.putStep s n v) := by
  unfold State.putStep
  try dsimp only
  repeat' (first | with_reducible assumption | with_reducible apply State.setFld_keeps | with_reducible apply State.refreshRx_keeps | with_reducible apply Keeps.fold | intro _ | split)
theorem State.takeStep_keeps {b0 : State} {s : State} (n : Nat) (k_ : Keeps b0 s) : Keeps b0 (State.takeStep s n) := by
  unfold State.takeStep
  try dsimp only
  repeat' (first | with_reducible assumption | with_reducible apply State.takeFree_keeps_2 | with_reducible apply State.putStep_keeps | with_reducible apply State.setReg_keeps)
theorem State.leaveCal_keeps {b0 : State} {s : State} (n : Nat) (k_ : Keeps b0 s) : Keeps b0 (State.leaveCal s n) := by
  unfold State.leaveCal
  try dsimp only
  repeat' (first | with_reducible assumption | with_reducible apply State.putStep_keeps | with_reducible apply Keeps.fold | intro _ | split)
theorem State.reach_keeps {b0 : State} {s : State} (n t : Nat) (k_ : Keeps b0 s) : Keeps b0 (State.reach s n t) := by
  unfold State.reach
  try dsimp only
  repeat' (first | with_reducible assumption | with_reducible apply State.followPair_keeps | with_reducible apply State.loadDc_keeps | with_reducible apply State.leaveCal_keeps | with_reducible apply State.setFlag_keeps | with_reducible apply State.powerUpCodes_keeps | with_reducible apply State.setFld_keeps | with_reducible apply State.takeStep_keeps | with_reducible apply Keeps.fold | intro _ | split)
theorem State.pruneRuns_keeps {b0 : State} {s : State} (k_ : Keeps b0 s) : Keeps b0 (State.pruneRuns s) := by
  unfold State.pruneRuns
  try dsimp only
  repeat' (first | with_reducible assumption | with_reducible apply Keeps.fold | intro _ | split | with_reducible apply Keeps.spoil | with_reducible apply Keeps.rest)
theorem State.putRun_keeps {b0 : State} {s : State} (r : Run) (k_ : Keeps b0 s) : Keeps b0 (State.putRun s r) := by
  unfold State.putRun
  try dsimp only
  repeat' (first | with_reducible assumption | with_reducible apply Keeps.fold | intro _ | split | with_reducible apply Keeps.spoil | with_reducible apply Keeps.rest)
theorem State.tell_keeps {b0 : State} {s : State} (r : Run) (code : Nat) (done : Word) (detail : Nat) (k_ : Keeps b0 s) : Keeps b0 (State.tell s r code done detail) := by
  unfold State.tell
  try dsimp only
  repeat' (first | with_reducible assumption | with_reducible apply State.putRun_keeps | with_reducible apply State.settleOwner_keeps | with_reducible apply Keeps.fold | intro _ | split)
theorem State.stopRun_keeps {b0 : State} {s : State} (r : Run) (k_ : Keeps b0 s) : Keeps b0 (State.stopRun s r) := by
  unfold State.stopRun
  try dsimp only
  repeat' (first | with_reducible assumption | with_reducible apply State.putRun_keeps | with_reducible apply State.setPair_keeps | with_reducible apply Keeps.fold | intro _ | split)
theorem State.endWaits_keeps {b0 : State} {s : State} (l : List Nat) (code detail : Nat) (k_ : Keeps b0 s) : Keeps b0 (State.endWaits s l code detail) := by
  unfold State.endWaits
  try dsimp only
  repeat' (first | with_reducible assumption | with_reducible apply State.tell_keeps | with_reducible apply State.stopRun_keeps | with_reducible apply State.settleOwner_keeps | with_reducible apply Keeps.fold | intro _ | split | with_reducible apply Keeps.spoil | with_reducible apply Keeps.rest)
theorem State.suppress_keeps {b0 : State} {s : State} (gs : List Nat) (g : Gate) (k_ : Keeps b0 s) : Keeps b0 (State.suppress s gs g) := by
  unfold State.suppress
  try dsimp only
  repeat' (first | with_reducible assumption | with_reducible apply State.raiseBit_keeps | with_reducible apply Keeps.fold | intro _ | split | with_reducible apply Keeps.spoil | with_reducible apply Keeps.rest)
theorem State.gateRun_keeps_1 {b0 : State} {s : State} (r : Run) (due : Word) (k_ : Keeps b0 s) : Keeps b0 (State.gateRun s r due).1 := by
  unfold State.gateRun
  try dsimp only
  repeat' (first | with_reducible assumption | with_reducible apply State.startRow_keeps | with_reducible apply State.suppress_keeps | with_reducible apply State.stopRun_keeps | with_reducible apply State.putRun_keeps | with_reducible apply Keeps.fold | intro _ | split)
theorem State.gateRun_keeps_1_eq {b0 : State} {s : State} {r : Run} {due : Word} {x0 x1} (he : State.gateRun s r due = (x0, x1)) (k_ : Keeps b0 s) : Keeps b0 x0 := by
  have := State.gateRun_keeps_1 r due k_
  rw [he] at this
  exact this
theorem State.launch_keeps_1 {b0 : State} {s : State} (id tgt : Nat) (pairs : List Nat) (owner : Owner) (due : Word) (waited : Bool) (k_ : Keeps b0 s) : Keeps b0 (State.launch s id tgt pairs owner due waited).1 := by
  unfold State.launch
  try dsimp only
  repeat' (first | with_reducible assumption | with_reducible apply State.startRow_keeps | with_reducible apply State.gateRun_keeps_1 | with_reducible apply State.putRun_keeps | with_reducible apply State.setPair_keeps | with_reducible refine State.gateRun_keeps_1_eq (by assumption) ?_ | with_reducible apply Keeps.fold | intro _ | split | with_reducible apply Keeps.spoil | with_reducible apply Keeps.rest)
theorem State.launch_keeps_1_eq {b0 : State} {s : State} {id tgt : Nat} {pairs : List Nat} {owner : Owner} {due : Word} {waited : Bool} {x0 x1} (he : State.launch s id tgt pairs owner due waited = (x0, x1)) (k_ : Keeps b0 s) : Keeps b0 x0 := by
  have := State.launch_keeps_1 id tgt pairs owner due waited k_
  rw [he] at this
  exact this
theorem State.pstate_keeps_1 {b0 : State} {s : State} (tgt : Nat) (pairs : List Nat) (owner : Owner) (due : Word) (k_ : Keeps b0 s) : Keeps b0 (State.pstate s tgt pairs owner due).1 := by
  unfold State.pstate
  try dsimp only
  repeat' (first | with_reducible assumption | with_reducible apply State.endWaits_keeps | with_reducible apply State.pruneRuns_keeps | with_reducible apply State.launch_keeps_1 | with_reducible refine State.launch_keeps_1_eq (by assumption) ?_ | with_reducible apply Keeps.fold | intro _ | split | with_reducible apply Keeps.spoil | with_reducible apply Keeps.rest)
theorem State.pstate_keeps_1_eq {b0 : State} {s : State} {tgt : Nat} {pairs : List Nat} {owner : Owner} {due : Word} {x0 x1} (he : State.pstate s tgt pairs owner due = (x0, x1)) (k_ : Keeps b0 s) : Keeps b0 x0 := by
  have := State.pstate_keeps_1 tgt pairs owner due k_
  rw [he] at this
  exact this
theorem State.tellLater_keeps {b0 : State} {s : State} (o : Owner) (due : Word) (a : Answer) (k_ : Keeps b0 s) : Keeps b0 (State.tellLater s o due a) := by
  unfold State.tellLater
  try dsimp only
  repeat' (first | with_reducible assumption | with_reducible apply State.settleOwner_keeps | with_reducible apply Keeps.fold | intro _ | split)
theorem State.startWait_keeps {b0 : State} {s : State} (n : Nat) (k_ : Keeps b0 s) : Keeps b0 (State.startWait s n) := by
  unfold State.startWait
  try dsimp only
  repeat' (first | with_reducible assumption | with_reducible apply State.launch_keeps_1 | with_reducible apply State.tellLater_keeps | with_reducible refine State.launch_keeps_1_eq (by assumption) ?_ | with_reducible apply Keeps.fold | intro _ | split | with_reducible apply Keeps.spoil | with_reducible apply Keeps.rest)
theorem State.endRow_keeps {b0 : State} {s : State} (n : Nat) (k_ : Keeps b0 s) : Keeps b0 (State.endRow s n) := by
  unfold State.endRow
  try dsimp only
  repeat' (first | with_reducible assumption | with_reducible apply State.startRow_keeps | with_reducible apply State.putRun_keeps | with_reducible apply State.reach_keeps | with_reducible apply State.setPair_keeps | with_reducible apply Keeps.fold | intro _ | split)
theorem State.gateReady_keeps {b0 : State} {s : State} (k_ : Keeps b0 s) : Keeps b0 (State.gateReady s) := by
  unfold State.gateReady
  try dsimp only
  repeat' (first | with_reducible assumption | with_reducible apply State.tell_keeps | with_reducible apply State.gateRun_keeps_1 | with_reducible refine State.gateRun_keeps_1_eq (by assumption) ?_ | with_reducible apply Keeps.fold | intro _ | split)
theorem State.abortMoves_keeps {b0 : State} {s : State} (l : List Nat) (code detail : Nat) (k_ : Keeps b0 s) : Keeps b0 (State.abortMoves s l code detail) := by
  unfold State.abortMoves
  try dsimp only
  repeat' (first | with_reducible assumption | with_reducible apply State.tell_keeps | with_reducible apply State.pruneRuns_keeps | with_reducible apply State.stopRun_keeps | with_reducible apply State.putRun_keeps | with_reducible apply State.abortCal_keeps | with_reducible apply State.gateReady_keeps | with_reducible apply State.setPair_keeps | with_reducible apply Keeps.fold | intro _ | split)
theorem State.forceFault_keeps {b0 : State} {s : State} (l : List Nat) (cause : Nat) (k_ : Keeps b0 s) : Keeps b0 (State.forceFault s l cause) := by
  unfold State.forceFault
  try dsimp only
  repeat' (first | with_reducible assumption | with_reducible apply State.followPair_keeps | with_reducible apply State.leaveCal_keeps | with_reducible apply State.setFld_keeps | with_reducible apply Keeps.fold | intro _)
theorem State.alarm_keeps {b0 : State} {s : State} (k cause : Nat) (k_ : Keeps b0 s) : Keeps b0 (State.alarm s k cause) := by
  unfold State.alarm
  try dsimp only
  repeat' (first | with_reducible assumption | with_reducible apply State.endWaits_keeps | with_reducible apply State.raiseBit_keeps | with_reducible apply State.abortMoves_keeps | with_reducible apply State.forceFault_keeps | with_reducible apply State.setDrain_keeps)
theorem State.interlock_keeps {b0 : State} {s : State} (k : Nat) (k_ : Keeps b0 s) : Keeps b0 (State.interlock s k) := by
  unfold State.interlock
  try dsimp only
  repeat' (first | with_reducible assumption | with_reducible apply State.abortMoves_keeps | with_reducible apply State.forceFault_keeps | with_reducible apply State.setDrain_keeps | with_reducible apply Keeps.fold | intro _ | split)
theorem State.shutdownPairs_keeps {b0 : State} {s : State} (k_ : Keeps b0 s) : Keeps b0 (State.shutdownPairs s) := by
  unfold State.shutdownPairs
  try dsimp only
  repeat' (first | with_reducible assumption | with_reducible apply State.abortMoves_keeps | with_reducible apply State.forceFault_keeps | with_reducible apply Keeps.fold | intro _ | split | with_reducible apply Keeps.spoil | with_reducible apply Keeps.rest)
theorem State.forceWarm_keeps {b0 : State} {s : State} (k_ : Keeps b0 s) : Keeps b0 (State.forceWarm s) := by
  unfold State.forceWarm
  try dsimp only
  repeat' (first | with_reducible assumption | with_reducible apply State.endWaits_keeps | with_reducible apply State.followPair_keeps | with_reducible apply State.abortMoves_keeps | with_reducible apply State.setPair_keeps | with_reducible apply Keeps.fold | intro _)
theorem State.tileLost_keeps {b0 : State} {s : State} (t : Nat) (k_ : Keeps b0 s) : Keeps b0 (State.tileLost s t) := by
  unfold State.tileLost
  try dsimp only
  repeat' (first | with_reducible assumption | with_reducible apply State.clampTile_keeps | with_reducible apply State.endWaits_keeps | with_reducible apply State.followPair_keeps | with_reducible apply State.leaveCal_keeps | with_reducible apply State.powerUpCodes_keeps | with_reducible apply State.abortMoves_keeps | with_reducible apply State.setFld_keeps | with_reducible apply State.setDrain_keeps | with_reducible apply Keeps.fold | intro _)
theorem State.endRows_keeps {b0 : State} {s : State} (l : List Nat) (k_ : Keeps b0 s) : Keeps b0 (State.endRows s l) := by
  unfold State.endRows
  try dsimp only
  repeat' (first | with_reducible assumption | with_reducible apply State.pruneRuns_keeps | with_reducible apply State.endRow_keeps | with_reducible apply State.gateReady_keeps | with_reducible apply Keeps.fold)
theorem State.startDeferred_keeps {b0 : State} {s : State} (n : Nat) (k_ : Keeps b0 s) : Keeps b0 (State.startDeferred s n) := by
  unfold State.startDeferred
  try dsimp only
  repeat' (first | with_reducible assumption | with_reducible apply State.tell_keeps | with_reducible apply State.pruneRuns_keeps | with_reducible apply State.startRow_keeps | with_reducible apply State.stopRun_keeps | with_reducible apply State.putRun_keeps | with_reducible apply Keeps.fold | intro _ | split)
theorem State.expireDeferred_keeps {b0 : State} {s : State} (n : Nat) (k_ : Keeps b0 s) : Keeps b0 (State.expireDeferred s n) := by
  unfold State.expireDeferred
  try dsimp only
  repeat' (first | with_reducible assumption | with_reducible apply State.tell_keeps | with_reducible apply State.pruneRuns_keeps | with_reducible apply State.suppress_keeps | with_reducible apply State.stopRun_keeps | with_reducible apply Keeps.fold | intro _ | split)
theorem State.drainStep_keeps {b0 : State} {s : State} (n : Nat) (k_ : Keeps b0 s) : Keeps b0 (State.drainStep s n) := by
  unfold State.drainStep
  try dsimp only
  repeat' (first | with_reducible assumption | with_reducible apply State.drainFall_keeps | with_reducible apply State.operatingCodes_keeps | with_reducible apply State.setPair_keeps | with_reducible apply Keeps.fold | intro _ | split)
theorem State.writeAirCfg_keeps {b0 : State} {s : State} (c : Nat) (val mask : Word) (k_ : Keeps b0 s) : Keeps b0 (State.writeAirCfg s c val mask) := by
  unfold State.writeAirCfg
  try dsimp only
  repeat' (first | with_reducible assumption | with_reducible apply State.setFld_keeps | with_reducible apply State.writeFields_keeps | with_reducible apply Keeps.fold | intro _ | split)
theorem State.writeAirCtl_keeps {b0 : State} {s : State} (val mask : Word) (k_ : Keeps b0 s) : Keeps b0 (State.writeAirCtl s val mask) := by
  unfold State.writeAirCtl
  try dsimp only
  repeat' (first | with_reducible assumption | with_reducible apply State.raiseBit_keeps | with_reducible apply Keeps.fold | intro _ | split | with_reducible apply Keeps.spoil | with_reducible apply Keeps.rest)
theorem State.writeAirSticky_keeps {b0 : State} {s : State} (val mask : Word) (k_ : Keeps b0 s) : Keeps b0 (State.writeAirSticky s val mask) := by
  unfold State.writeAirSticky
  try dsimp only
  repeat' (first | with_reducible assumption | with_reducible apply State.writeSticky_keeps)

theorem State.landFrame_keeps {b0 : State} {s : State} (k_ : Keeps b0 s) : Keeps b0 (State.landFrame s) := by
  unfold State.landFrame
  try dsimp only
  repeat' (first | with_reducible assumption | with_reducible apply State.apply_keeps | with_reducible apply State.raiseBit_keeps | with_reducible apply Keeps.fold | intro _ | split)
theorem State.checkSpan_keeps {b0 : State} {s : State} (n c : Nat) (k_ : Keeps b0 s) : Keeps b0 (State.checkSpan s n c) := by
  unfold State.checkSpan
  try dsimp only
  repeat' (first | with_reducible assumption | with_reducible apply State.raiseBit_keeps | with_reducible apply State.setFlag_keeps | with_reducible apply Keeps.fold | intro _ | split)
theorem State.lateSel_keeps {b0 : State} {s : State} (c : Nat) (tl : Int) (seq : Nat) (k_ : Keeps b0 s) : Keeps b0 (State.lateSel s c tl seq) := by
  unfold State.lateSel
  try dsimp only
  repeat' (first | with_reducible assumption | with_reducible apply State.raiseBit_keeps | with_reducible apply State.bump_keeps | with_reducible apply Keeps.fold | intro _ | split)
theorem State.beamsel_keeps_1 {b0 : State} {s : State} (dir car layer index seq : Nat) (k_ : Keeps b0 s) : Keeps b0 (State.beamsel s dir car layer index seq).1 := by
  unfold State.beamsel
  try dsimp only
  repeat' (first | with_reducible assumption | with_reducible apply Keeps.fold | intro _ | split | with_reducible apply Keeps.spoil | with_reducible apply Keeps.rest)
theorem State.beamsel_keeps_1_eq {b0 : State} {s : State} {dir car layer index seq : Nat} {x0 x1} (he : State.beamsel s dir car layer index seq = (x0, x1)) (k_ : Keeps b0 s) : Keeps b0 x0 := by
  have := State.beamsel_keeps_1 dir car layer index seq k_
  rw [he] at this
  exact this
theorem State.wswap_keeps_1 {b0 : State} {s : State} (dirs cars bank seq : Nat) (k_ : Keeps b0 s) : Keeps b0 (State.wswap s dirs cars bank seq).1 := by
  unfold State.wswap
  try dsimp only
  repeat' (first | with_reducible assumption | with_reducible apply Keeps.fold | intro _ | split | with_reducible apply Keeps.spoil | with_reducible apply Keeps.rest)
theorem State.wswap_keeps_1_eq {b0 : State} {s : State} {dirs cars bank seq : Nat} {x0 x1} (he : State.wswap s dirs cars bank seq = (x0, x1)) (k_ : Keeps b0 s) : Keeps b0 x0 := by
  have := State.wswap_keeps_1 dirs cars bank seq k_
  rw [he] at this
  exact this
theorem State.landSel_keeps {b0 : State} {s : State} (c : Nat) (tl : Int) (k_ : Keeps b0 s) : Keeps b0 (State.landSel s c tl) := by
  unfold State.landSel
  try dsimp only
  repeat' (first | with_reducible assumption | with_reducible apply State.setFlag_keeps | with_reducible apply State.setFld_keeps | with_reducible apply State.lateSel_keeps | with_reducible apply Keeps.fold | intro _ | split | with_reducible apply Keeps.spoil | with_reducible apply Keeps.rest)
theorem State.landSwap_keeps {b0 : State} {s : State} (c : Nat) (tl : Int) (k_ : Keeps b0 s) : Keeps b0 (State.landSwap s c tl) := by
  unfold State.landSwap
  try dsimp only
  repeat' (first | with_reducible assumption | with_reducible apply State.setFld_keeps | with_reducible apply State.lateSel_keeps | with_reducible apply Keeps.fold | intro _ | split | with_reducible apply Keeps.spoil | with_reducible apply Keeps.rest)
theorem State.weighRange_keeps {b0 : State} {s : State} (c : Nat) (tl : Int) (ds : List Word) (k_ : Keeps b0 s) : Keeps b0 (State.weighRange s c tl ds) := by
  unfold State.weighRange
  try dsimp only
  repeat' (first | with_reducible assumption | with_reducible apply State.raiseBit_keeps | with_reducible apply Keeps.fold | intro _ | split)
theorem State.noteUl_keeps {b0 : State} {s : State} (c : Nat) (k_ : Keeps b0 s) : Keeps b0 (State.noteUl s c) := by
  unfold State.noteUl
  try dsimp only
  repeat' (first | with_reducible assumption | with_reducible apply Keeps.fold | intro _ | split | with_reducible apply Keeps.spoil | with_reducible apply Keeps.rest)
theorem State.combineRange_keeps {b0 : State} {s : State} (c ty : Nat) (tl : Int) (k_ : Keeps b0 s) : Keeps b0 (State.combineRange s c ty tl) := by
  unfold State.combineRange
  try dsimp only
  repeat' (first | with_reducible assumption | with_reducible apply State.raiseBit_keeps | with_reducible apply Keeps.fold | intro _ | split)
theorem State.noteCommit_keeps {b0 : State} {s : State} (c : Nat) (tl : Int) (u : List Word × Nat) (k_ : Keeps b0 s) : Keeps b0 (State.noteCommit s c tl u) := by
  unfold State.noteCommit
  try dsimp only
  repeat' (first | with_reducible assumption | with_reducible apply Keeps.fold | intro _ | split | with_reducible apply Keeps.spoil | with_reducible apply Keeps.rest)
theorem State.writeWdesc_keeps {b0 : State} {s : State} (dir car layer : Nat) (val mask : Word) (k_ : Keeps b0 s) : Keeps b0 (State.writeWdesc s dir car layer val mask) := by
  unfold State.writeWdesc
  try dsimp only
  repeat' (first | with_reducible assumption | with_reducible apply State.lateSel_keeps | with_reducible apply State.writeFields_keeps | with_reducible apply Keeps.fold | intro _ | split)
theorem State.writeArray_keeps {b0 : State} {s : State} (val mask : Word) (k_ : Keeps b0 s) : Keeps b0 (State.writeArray s val mask) := by
  unfold State.writeArray
  try dsimp only
  repeat' (first | with_reducible assumption | with_reducible apply State.raiseBit_keeps | with_reducible apply State.writeFields_keeps | with_reducible apply Keeps.fold | intro _ | split)
theorem State.writeFrameReg_keeps {b0 : State} {s : State} (off : Nat) (val mask : Word) (k_ : Keeps b0 s) : Keeps b0 (State.writeFrameReg s off val mask) := by
  unfold State.writeFrameReg
  try dsimp only
  repeat' (first | with_reducible assumption | with_reducible apply State.writeFields_keeps)
theorem State.bmeCount_keeps {b0 : State} {s : State} (p : Nat × Nat) (k_ : Keeps b0 s) : Keeps b0 (State.bmeCount s p) := by
  unfold State.bmeCount
  try dsimp only
  repeat' (first | with_reducible assumption | with_reducible apply State.raiseBit_keeps | with_reducible apply State.count_keeps | with_reducible apply Keeps.fold | intro _ | split)

theorem State.sicBad_keeps {b0 : State} {s : State} (k_ : Keeps b0 s) : Keeps b0 (State.sicBad s) := by
  unfold State.sicBad
  try dsimp only
  repeat' (first | with_reducible assumption | with_reducible apply State.bump_keeps)
theorem State.writePage_keeps {b0 : State} {s : State} (off : Nat) (val mask : Word) (k_ : Keeps b0 s) : Keeps b0 (State.writePage s off val mask) := by
  unfold State.writePage
  try dsimp only
  repeat' (first | with_reducible assumption | with_reducible apply State.putWord_keeps | with_reducible apply State.sicBad_keeps | with_reducible apply State.raiseBit_keeps | with_reducible apply State.readDev_keeps_2 | with_reducible refine State.readDev_keeps_2_eq (by assumption) ?_ | with_reducible apply Keeps.fold | intro _ | split)
theorem State.swapPages_keeps {b0 : State} {s : State} (r : Nat) (k_ : Keeps b0 s) : Keeps b0 (State.swapPages s r) := by
  unfold State.swapPages
  try dsimp only
  repeat' (first | with_reducible assumption | with_reducible apply State.setReg_keeps)
theorem State.writeCommit_keeps {b0 : State} {s : State} (p w : Nat) (v : Word) (k_ : Keeps b0 s) : Keeps b0 (State.writeCommit s p w v) := by
  unfold State.writeCommit
  try dsimp only
  repeat' (first | with_reducible assumption | with_reducible apply State.setFlag_keeps | with_reducible apply State.swapPages_keeps | with_reducible apply Keeps.fold | intro _ | split)
theorem State.judgeFar_keeps {b0 : State} {s0 : State} (r : Nat) (k_ : Keeps b0 s0) : Keeps b0 (State.judgeFar s0 r) := by
  unfold State.judgeFar
  try dsimp only
  repeat' (first | with_reducible assumption | with_reducible apply State.raiseBit_keeps | with_reducible apply State.setFld_keeps | with_reducible apply State.readDev_keeps_2 | with_reducible refine State.readDev_keeps_2_eq (by assumption) ?_ | with_reducible apply Keeps.fold | intro _ | split)
theorem State.depth_keeps_2 {b0 : State} {s : State} (c : RxChain) (k_ : Keeps b0 s) : Keeps b0 (State.depth s c).2 := by
  unfold State.depth
  try dsimp only
  repeat' (first | with_reducible assumption | with_reducible apply State.takeFree_keeps_2 | with_reducible refine State.takeFree_keeps_2_eq (by assumption) ?_ | with_reducible apply Keeps.fold | intro _ | split)
theorem State.depth_keeps_2_eq {b0 : State} {s : State} {c : RxChain} {x0 x1} (he : State.depth s c = (x0, x1)) (k_ : Keeps b0 s) : Keeps b0 x1 := by
  have := State.depth_keeps_2 c k_
  rw [he] at this
  exact this
theorem State.resid_keeps_2 {b0 : State} {s : State} (c : RxChain) (k_ : Keeps b0 s) : Keeps b0 (State.resid s c).2 := by
  unfold State.resid
  try dsimp only
  repeat' (first | with_reducible assumption | with_reducible apply State.takeFree_keeps_2 | with_reducible refine State.takeFree_keeps_2_eq (by assumption) ?_ | with_reducible apply Keeps.fold | intro _ | split)
theorem State.resid_keeps_2_eq {b0 : State} {s : State} {c : RxChain} {x0 x1} (he : State.resid s c = (x0, x1)) (k_ : Keeps b0 s) : Keeps b0 x1 := by
  have := State.resid_keeps_2 c k_
  rw [he] at this
  exact this
theorem State.noteQual_keeps {b0 : State} {s : State} (r : Nat) (k_ : Keeps b0 s) : Keeps b0 (State.noteQual s r) := by
  unfold State.noteQual
  try dsimp only
  repeat' (first | with_reducible assumption | with_reducible apply State.setRxc_keeps | with_reducible apply State.raiseBit_keeps | with_reducible apply State.depth_keeps_2 | with_reducible apply State.setFlag_keeps | with_reducible apply State.setFld_keeps | with_reducible apply State.resid_keeps_2 | with_reducible refine State.depth_keeps_2_eq (by assumption) ?_ | with_reducible refine State.resid_keeps_2_eq (by assumption) ?_ | with_reducible apply Keeps.fold | intro _ | split)
theorem State.setSurvey_keeps {b0 : State} {s : State} (v : Option (Nat × List (Int × Nat))) (k_ : Keeps b0 s) : Keeps b0 (State.setSurvey s v) := by
  unfold State.setSurvey
  try dsimp only
  repeat' (first | with_reducible assumption | with_reducible apply Keeps.fold | intro _ | split | with_reducible apply Keeps.spoil | with_reducible apply Keeps.rest)
theorem State.setSnap_keeps {b0 : State} {s : State} (v : Option SnapRec) (k_ : Keeps b0 s) : Keeps b0 (State.setSnap s v) := by
  unfold State.setSnap
  try dsimp only
  repeat' (first | with_reducible assumption | with_reducible apply Keeps.fold | intro _ | split | with_reducible apply Keeps.spoil | with_reducible apply Keeps.rest)
theorem State.writeSurvey_keeps {b0 : State} {s : State} (val mask : Word) (k_ : Keeps b0 s) : Keeps b0 (State.writeSurvey s val mask) := by
  unfold State.writeSurvey
  try dsimp only
  repeat' (first | with_reducible assumption | with_reducible apply State.setSurvey_keeps | with_reducible apply State.sicBad_keeps | with_reducible apply State.setFlag_keeps | with_reducible apply State.writeFields_keeps | with_reducible apply Keeps.fold | intro _ | split)
theorem State.surveyDone_keeps {b0 : State} {s : State} (res : List (Int × Nat)) (k_ : Keeps b0 s) : Keeps b0 (State.surveyDone s res) := by
  unfold State.surveyDone
  try dsimp only
  repeat' (first | with_reducible assumption | with_reducible apply State.setSurvey_keeps | with_reducible apply State.setFlag_keeps | with_reducible apply State.setReg_keeps | with_reducible apply Keeps.fold | intro _)
theorem State.snapFail_keeps {b0 : State} {s : State} (code : Nat) (k_ : Keeps b0 s) : Keeps b0 (State.snapFail s code) := by
  unfold State.snapFail
  try dsimp only
  repeat' (first | with_reducible assumption | with_reducible apply State.setSnap_keeps | with_reducible apply State.raiseBit_keeps | with_reducible apply State.setFlag_keeps | with_reducible apply State.setFld_keeps | with_reducible apply Keeps.fold | intro _ | split)
theorem State.writeSnap_keeps {b0 : State} {s : State} (val mask : Word) (k_ : Keeps b0 s) : Keeps b0 (State.writeSnap s val mask) := by
  unfold State.writeSnap
  try dsimp only
  repeat' (first | with_reducible assumption | with_reducible apply State.snapFail_keeps | with_reducible apply State.setSnap_keeps | with_reducible apply State.sicBad_keeps | with_reducible apply State.setFlag_keeps | with_reducible apply State.setFld_keeps | with_reducible apply State.writeFields_keeps | with_reducible apply Keeps.fold | intro _ | split)
theorem State.snapDone_keeps {b0 : State} {s : State} (q : SnapRec) (k_ : Keeps b0 s) : Keeps b0 (State.snapDone s q) := by
  unfold State.snapDone
  try dsimp only
  repeat' (first | with_reducible assumption | with_reducible apply State.snapFail_keeps | with_reducible apply State.putWords_keeps | with_reducible apply State.setSnap_keeps | with_reducible apply State.setFlag_keeps | with_reducible apply State.setFld_keeps | with_reducible apply State.setReg_keeps | with_reducible apply Keeps.fold | intro _ | split)
theorem State.snapDown_keeps {b0 : State} {s : State} (k_ : Keeps b0 s) : Keeps b0 (State.snapDown s) := by
  unfold State.snapDown
  try dsimp only
  repeat' (first | with_reducible assumption | with_reducible apply State.snapFail_keeps | with_reducible apply Keeps.fold | intro _ | split)

theorem State.linBad_keeps {b0 : State} {s : State} (k_ : Keeps b0 s) : Keeps b0 (State.linBad s) := by
  unfold State.linBad
  try dsimp only
  repeat' (first | with_reducible assumption | with_reducible apply State.raiseBit_keeps | with_reducible apply State.bump_keeps)
theorem State.stAdvance_keeps {b0 : State} {s : State} (w : Nat) (k_ : Keeps b0 s) : Keeps b0 (State.stAdvance s w) := by
  unfold State.stAdvance
  try dsimp only
  repeat' (first | with_reducible assumption | with_reducible apply State.setFld_keeps)
theorem State.writeStore_keeps {b0 : State} {s : State} (w : Nat) (val : Word) (k_ : Keeps b0 s) : Keeps b0 (State.writeStore s w val) := by
  unfold State.writeStore
  try dsimp only
  repeat' (first | with_reducible assumption | with_reducible apply State.putWord_keeps | with_reducible apply State.linBad_keeps | with_reducible apply State.stAdvance_keeps | with_reducible apply Keeps.fold | intro _ | split)
theorem State.readStore_keeps_2_2 {b0 : State} {s : State} (w : Nat) (k_ : Keeps b0 s) : Keeps b0 (State.readStore s w).2.2 := by
  unfold State.readStore
  try dsimp only
  repeat' (first | with_reducible assumption | with_reducible apply State.readEcc_keeps_2_2 | with_reducible apply State.linBad_keeps | with_reducible apply State.stAdvance_keeps | with_reducible refine State.readEcc_keeps_2_2_eq (by assumption) ?_ | with_reducible apply Keeps.fold | intro _ | split)
theorem State.readStore_keeps_2_2_eq {b0 : State} {s : State} {w : Nat} {x0 x1 x2} (he : State.readStore s w = (x0, x1, x2)) (k_ : Keeps b0 s) : Keeps b0 x2 := by
  have := State.readStore_keeps_2_2 w k_
  rw [he] at this
  exact this
theorem State.readSet_keeps_2 {b0 : State} {s : State} (m : Nat) (h : Keeps b0 s) : Keeps b0 (s.readSet m).2 := by
  unfold State.readSet
  generalize List.range 512 = l
  extract_lets hd go
  have hh : Keeps b0 hd.2.2 := State.readEcc_keeps_2_2 _ h
  have hg : Keeps b0 go.2.2 := by
    refine Keeps.foldBy (fun a : List Word × Bool × State => a.2.2) ?_ _ hh
    intro a i ha
    dsimp only
    split
    · exact ha
    · exact State.readEcc_keeps_2_2 _ ha
  clear_value hd go
  split
  · exact State.raiseBit_keeps _ _ hh
  · split
    · exact hh
    · split
      · exact State.raiseBit_keeps _ _ hg
      · exact hg
theorem State.readSet_keeps_2_eq {b0 : State} {s : State} {m : Nat} {x0 x1} (he : s.readSet m = (x0, x1)) (h : Keeps b0 s) : Keeps b0 x1 := by
  have := State.readSet_keeps_2 m h
  rw [he] at this
  exact this
theorem State.chooseSet_keeps_2 {b0 : State} {s : State} (n : Nat) (k_ : Keeps b0 s) : Keeps b0 (State.chooseSet s n).2 := by
  unfold State.chooseSet
  try dsimp only
  repeat' (first | with_reducible assumption | with_reducible apply State.readSet_keeps_2 | with_reducible refine State.readSet_keeps_2_eq (by assumption) ?_ | with_reducible apply Keeps.fold | intro _ | split)
theorem State.chooseSet_keeps_2_eq {b0 : State} {s : State} {n : Nat} {x0 x1} (he : State.chooseSet s n = (x0, x1)) (k_ : Keeps b0 s) : Keeps b0 x1 := by
  have := State.chooseSet_keeps_2 n k_
  rw [he] at this
  exact this
theorem State.landSet_keeps {b0 : State} {s : State} (n : Nat) (d : DpdSet) (k_ : Keeps b0 s) : Keeps b0 (State.landSet s n d) := by
  unfold State.landSet
  try dsimp only
  repeat' (first | with_reducible assumption | with_reducible apply State.raiseBit_keeps | with_reducible apply State.setReg_keeps | with_reducible apply Keeps.fold | intro _ | split | with_reducible apply Keeps.spoil | with_reducible apply Keeps.rest)
theorem State.pendLoad_keeps {b0 : State} {s : State} (n : Nat) (k_ : Keeps b0 s) : Keeps b0 (State.pendLoad s n) := by
  unfold State.pendLoad
  try dsimp only
  repeat' (first | with_reducible assumption | with_reducible apply State.setFlag_keeps)
theorem State.dropStale_keeps {b0 : State} {s : State} (n : Nat) (k_ : Keeps b0 s) : Keeps b0 (State.dropStale s n) := by
  unfold State.dropStale
  try dsimp only
  repeat' (first | with_reducible assumption | with_reducible apply Keeps.fold | intro _ | split | with_reducible apply Keeps.spoil | with_reducible apply Keeps.rest)
theorem State.retarget_keeps {b0 : State} {s : State} (n : Nat) (k_ : Keeps b0 s) : Keeps b0 (State.retarget s n) := by
  unfold State.retarget
  try dsimp only
  repeat' (first | with_reducible assumption | with_reducible apply State.pendLoad_keeps | with_reducible apply State.dropStale_keeps | with_reducible apply Keeps.fold | intro _ | split)
theorem State.retargetGroup_keeps {b0 : State} {s : State} (k : Nat) (k_ : Keeps b0 s) : Keeps b0 (State.retargetGroup s k) := by
  unfold State.retargetGroup
  try dsimp only
  repeat' (first | with_reducible assumption | with_reducible apply State.retarget_keeps | with_reducible apply Keeps.fold)
theorem State.loadDone_keeps {b0 : State} {s : State} (n : Nat) (k_ : Keeps b0 s) : Keeps b0 (State.loadDone s n) := by
  unfold State.loadDone
  try dsimp only
  repeat' (first | with_reducible assumption | with_reducible apply State.chooseSet_keeps_2 | with_reducible apply State.setFlag_keeps | with_reducible apply State.landSet_keeps | with_reducible refine State.chooseSet_keeps_2_eq (by assumption) ?_ | with_reducible apply Keeps.fold | intro _ | split | with_reducible apply Keeps.spoil | with_reducible apply Keeps.rest)
theorem State.takeShadow_keeps {b0 : State} {s : State} (n : Nat) (k_ : Keeps b0 s) : Keeps b0 (State.takeShadow s n) := by
  unfold State.takeShadow
  try dsimp only
  repeat' (first | with_reducible assumption | with_reducible apply State.raiseBit_keeps | with_reducible apply State.landSet_keeps | with_reducible apply Keeps.fold | intro _ | split)
theorem State.judgeClips_keeps {b0 : State} {s : State} (n : Nat) (d : DpdSet) (k_ : Keeps b0 s) : Keeps b0 (State.judgeClips s n d) := by
  unfold State.judgeClips
  try dsimp only
  repeat' (first | with_reducible assumption | with_reducible apply State.pendLoad_keeps | with_reducible apply State.putWord_keeps | with_reducible apply State.raiseBit_keeps | with_reducible apply State.setFlag_keeps | with_reducible apply State.setFld_keeps | with_reducible apply State.readDev_keeps_2 | with_reducible refine State.readDev_keeps_2_eq (by assumption) ?_ | with_reducible apply Keeps.fold | intro _ | split | with_reducible apply Keeps.spoil | with_reducible apply Keeps.rest)
theorem State.judgeDrift_keeps {b0 : State} {s : State} (n : Nat) (k_ : Keeps b0 s) : Keeps b0 (State.judgeDrift s n) := by
  unfold State.judgeDrift
  try dsimp only
  repeat' (first | with_reducible assumption | with_reducible apply State.raiseBit_keeps | with_reducible apply State.setFlag_keeps | with_reducible apply Keeps.fold | intro _ | split)
theorem State.slotLin_keeps {b0 : State} {s : State} (n : Nat) (k_ : Keeps b0 s) : Keeps b0 (State.slotLin s n) := by
  unfold State.slotLin
  try dsimp only
  repeat' (first | with_reducible assumption | with_reducible apply State.takeShadow_keeps | with_reducible apply State.judgeDrift_keeps | with_reducible apply State.judgeClips_keeps | with_reducible apply State.retarget_keeps)
theorem State.writeLinCommit_keeps {b0 : State} {s : State} (w : Nat) (v : Word) (k_ : Keeps b0 s) : Keeps b0 (State.writeLinCommit s w v) := by
  unfold State.writeLinCommit
  try dsimp only
  repeat' (first | with_reducible assumption | with_reducible apply State.pendLoad_keeps | with_reducible apply State.setFlag_keeps | with_reducible apply Keeps.fold | intro _)
theorem State.landBranch_keeps {b0 : State} {s : State} (k : Nat) (k_ : Keeps b0 s) : Keeps b0 (State.landBranch s k) := by
  unfold State.landBranch
  try dsimp only
  repeat' (first | with_reducible assumption | with_reducible apply State.setReg_keeps | with_reducible apply Keeps.fold | intro _)
theorem State.writeBranch_keeps {b0 : State} {s : State} (off : Nat) (val mask : Word) (k_ : Keeps b0 s) : Keeps b0 (State.writeBranch s off val mask) := by
  unfold State.writeBranch
  try dsimp only
  repeat' (first | with_reducible assumption | with_reducible apply State.setFlag_keeps | with_reducible apply State.landBranch_keeps | with_reducible apply State.writeFields_keeps | with_reducible apply Keeps.fold | intro _ | split)
theorem State.setObs_keeps {b0 : State} {s : State} (k : Nat) (v : Option ObsRec) (k_ : Keeps b0 s) : Keeps b0 (State.setObs s k v) := by
  unfold State.setObs
  try dsimp only
  repeat' (first | with_reducible assumption | with_reducible apply Keeps.fold | intro _ | split | with_reducible apply Keeps.spoil | with_reducible apply Keeps.rest)
theorem State.obsFail_keeps {b0 : State} {s : State} (k code : Nat) (k_ : Keeps b0 s) : Keeps b0 (State.obsFail s k code) := by
  unfold State.obsFail
  try dsimp only
  repeat' (first | with_reducible assumption | with_reducible apply State.raiseBit_keeps | with_reducible apply State.setFlag_keeps | with_reducible apply State.setFld_keeps | with_reducible apply State.setObs_keeps | with_reducible apply Keeps.fold | intro _ | split)
theorem State.writeObs_keeps {b0 : State} {s : State} (k : Nat) (val mask : Word) (k_ : Keeps b0 s) : Keeps b0 (State.writeObs s k val mask) := by
  unfold State.writeObs
  try dsimp only
  repeat' (first | with_reducible assumption | with_reducible apply State.bump_keeps | with_reducible apply State.setFlag_keeps | with_reducible apply State.setFld_keeps | with_reducible apply State.obsFail_keeps | with_reducible apply State.setObs_keeps | with_reducible apply State.writeFields_keeps | with_reducible apply Keeps.fold | intro _ | split)
theorem State.obsDone_keeps {b0 : State} {s : State} (k : Nat) (q : ObsRec) (k_ : Keeps b0 s) : Keeps b0 (State.obsDone s k q) := by
  unfold State.obsDone
  try dsimp only
  repeat' (first | with_reducible assumption | with_reducible apply State.putWords_keeps | with_reducible apply State.setFlag_keeps | with_reducible apply State.setObs_keeps)
theorem State.obsDown_keeps {b0 : State} {s : State} (ks : List Nat) (k_ : Keeps b0 s) : Keeps b0 (State.obsDown s ks) := by
  unfold State.obsDown
  try dsimp only
  repeat' (first | with_reducible assumption | with_reducible apply State.obsFail_keeps | with_reducible apply Keeps.fold | intro _ | split)

end Sys2Proof.Machine
end

