-- ==== Sys2Proof/Laws/KeepsPower.lean ====
section
/-! SUPPORT. What the operations of the frame table, power, the host doors, time, temperature, beam weights and path samples keep. -/
namespace Sys2Proof.Machine


theorem State.landPort_keeps {b0 : State} {s : State} (k p : Nat) (k_ : Keeps b0 s) : Keeps b0 (State.landPort s k p) := by
  unfold State.landPort
  try dsimp only
  repeat' (first | with_reducible assumption | with_reducible apply State.newLimits_keeps | with_reducible apply State.setFld_keeps | with_reducible apply State.judgeRange_keeps | with_reducible apply Keeps.fold | intro _ | split | with_reducible apply Keeps.spoil | with_reducible apply Keeps.rest)
theorem State.landPorts_keeps {b0 : State} {s : State} (k_ : Keeps b0 s) : Keeps b0 (State.landPorts s) := by
  unfold State.landPorts
  try dsimp only
  repeat' (first | with_reducible assumption | with_reducible apply State.landPort_keeps | with_reducible apply Keeps.fold | intro _)
theorem State.landBand_keeps {b0 : State} {s : State} (k : Nat) (k_ : Keeps b0 s) : Keeps b0 (State.landBand s k) := by
  unfold State.landBand
  try dsimp only
  repeat' (first | with_reducible assumption | with_reducible apply State.bandCodes_keeps | with_reducible apply State.setFld_keeps | with_reducible apply Keeps.fold | intro _ | split)
theorem State.landBackoff_keeps {b0 : State} {s : State} (k : Nat) (k_ : Keeps b0 s) : Keeps b0 (State.landBackoff s k) := by
  unfold State.landBackoff
  try dsimp only
  repeat' (first | with_reducible assumption | with_reducible apply State.setFld_keeps | with_reducible apply Keeps.fold | intro _ | split)
theorem State.landTerms_keeps {b0 : State} {s : State} (k : Nat) (k_ : Keeps b0 s) : Keeps b0 (State.landTerms s k) := by
  unfold State.landTerms
  try dsimp only
  repeat' (first | with_reducible assumption | with_reducible apply State.landBand_keeps | with_reducible apply State.landBackoff_keeps | with_reducible apply State.landBranch_keeps | with_reducible apply State.landGroup_keeps)
theorem State.sumGroup_keeps {b0 : State} {s : State} (k : Nat) (k_ : Keeps b0 s) : Keeps b0 (State.sumGroup s k) := by
  unfold State.sumGroup
  try dsimp only
  repeat' (first | with_reducible assumption | with_reducible apply State.refreshRx_keeps | with_reducible apply State.slotTx_keeps | with_reducible apply Keeps.fold | intro _)
theorem State.landForce_keeps {b0 : State} {s : State} (k : Nat) (k_ : Keeps b0 s) : Keeps b0 (State.landForce s k) := by
  unfold State.landForce
  try dsimp only
  repeat' (first | with_reducible assumption | with_reducible apply State.apply_keeps | with_reducible apply Keeps.fold | intro _ | split)
theorem State.landShadow_keeps {b0 : State} {s : State} (n : Nat) (k_ : Keeps b0 s) : Keeps b0 (State.landShadow s n) := by
  unfold State.landShadow
  try dsimp only
  repeat' (first | with_reducible assumption | with_reducible apply State.landSet_keeps | with_reducible apply Keeps.fold | intro _ | split)
theorem State.alignSic_keeps {b0 : State} {s : State} (k : Nat) (k_ : Keeps b0 s) : Keeps b0 (State.alignSic s k) := by
  unfold State.alignSic
  try dsimp only
  repeat' (first | with_reducible assumption | with_reducible apply State.setFlag_keeps | with_reducible apply Keeps.fold | intro _)
theorem State.noAlign_keeps {b0 : State} {s : State} (k : Nat) (k_ : Keeps b0 s) : Keeps b0 (State.noAlign s k) := by
  unfold State.noAlign
  try dsimp only
  repeat' (first | with_reducible assumption | with_reducible apply State.setFlag_keeps | with_reducible apply Keeps.fold | intro _)
theorem State.landFree_keeps {b0 : State} {s : State} (k : Nat) (k_ : Keeps b0 s) : Keeps b0 (State.landFree s k) := by
  unfold State.landFree
  try dsimp only
  repeat' (first | with_reducible assumption | with_reducible apply State.landTerms_keeps | with_reducible apply State.landForce_keeps | with_reducible apply State.unmuteLock_keeps | with_reducible apply State.noAlign_keeps | with_reducible apply State.landShadow_keeps | with_reducible apply State.landByp_keeps | with_reducible apply State.landIf_keeps | with_reducible apply State.swapPages_keeps | with_reducible apply Keeps.fold | intro _ | split)
theorem State.landSicEn_keeps {b0 : State} {s : State} (c : Nat) (k_ : Keeps b0 s) : Keeps b0 (State.landSicEn s c) := by
  unfold State.landSicEn
  try dsimp only
  repeat' (first | with_reducible assumption | with_reducible apply State.setReg_keeps)
theorem State.clearFreq_keeps {b0 : State} {s : State} (n c : Nat) (k_ : Keeps b0 s) : Keeps b0 (State.clearFreq s n c) := by
  unfold State.clearFreq
  try dsimp only
  repeat' (first | with_reducible assumption | with_reducible apply State.setFlag_keeps | with_reducible apply Keeps.fold | intro _ | split)
theorem State.landIdle_keeps {b0 : State} {s : State} (k_ : Keeps b0 s) : Keeps b0 (State.landIdle s) := by
  unfold State.landIdle
  try dsimp only
  repeat' (first | with_reducible assumption | with_reducible apply State.idlePaths_keeps | with_reducible apply State.landSwap_keeps | with_reducible apply State.landFree_keeps | with_reducible apply State.landSicEn_keeps | with_reducible apply State.landPorts_keeps | with_reducible apply State.landSel_keeps | with_reducible apply Keeps.fold | intro _ | split)
theorem State.slotGroup_keeps {b0 : State} {s : State} (k : Nat) (k_ : Keeps b0 s) : Keeps b0 (State.slotGroup s k) := by
  unfold State.slotGroup
  try dsimp only
  repeat' (first | with_reducible assumption | with_reducible apply State.landTerms_keeps | with_reducible apply State.slotLin_keeps | with_reducible apply State.sumGroup_keeps | with_reducible apply State.judgeFar_keeps | with_reducible apply State.noteQual_keeps | with_reducible apply State.swapPages_keeps | with_reducible apply Keeps.fold | intro _)
theorem State.landCpAdv_keeps {b0 : State} {s : State} (c : Nat) (h : Keeps b0 s) : Keeps b0 (s.landCpAdv c) :=
  h.parts rfl id (swf_sset _ _ _ _) id id id id id
theorem State.readPattern_keeps {b0 : State} {s : State} (c : Nat) (k_ : Keeps b0 s) : Keeps b0 (State.readPattern s c) := by
  unfold State.readPattern
  try dsimp only
  repeat' (first | with_reducible assumption | with_reducible apply State.setReg_keeps)
theorem State.noteExp_keeps {b0 : State} {s : State} (c : Nat) (k_ : Keeps b0 s) : Keeps b0 (State.noteExp s c) := by
  unfold State.noteExp
  try dsimp only
  repeat' (first | with_reducible assumption | with_reducible apply State.setFld_keeps | with_reducible apply Keeps.fold | intro _ | split | with_reducible apply Keeps.spoil | with_reducible apply Keeps.rest)
theorem State.slotStart_keeps {b0 : State} {s : State} (c : Nat) (k_ : Keeps b0 s) : Keeps b0 (State.slotStart s c) := by
  unfold State.slotStart
  try dsimp only
  repeat' (first | with_reducible assumption | with_reducible apply State.noteExp_keeps | with_reducible apply State.landCpAdv_keeps | with_reducible apply State.slotGroup_keeps | with_reducible apply State.checkSpan_keeps | with_reducible apply State.setEv_keeps | with_reducible apply State.landPorts_keeps | with_reducible apply State.refreshGroup_keeps | with_reducible apply State.readPattern_keeps | with_reducible apply Keeps.fold | intro _ | split)
theorem State.checkPattern_keeps {b0 : State} {s : State} (c : Nat) (k_ : Keeps b0 s) : Keeps b0 (State.checkPattern s c) := by
  unfold State.checkPattern
  try dsimp only
  repeat' (first | with_reducible assumption | with_reducible apply State.raiseBit_keeps | with_reducible apply State.bump_keeps | with_reducible apply Keeps.fold | intro _ | split)
theorem State.agcFresh_keeps {b0 : State} {s : State} (n : Nat) (k_ : Keeps b0 s) : Keeps b0 (State.agcFresh s n) := by
  unfold State.agcFresh
  try dsimp only
  repeat' (first | with_reducible assumption | with_reducible apply State.setRxc_keeps)
theorem State.agcGroup_keeps {b0 : State} {s : State} (c k : Nat) (k_ : Keeps b0 s) : Keeps b0 (State.agcGroup s c k) := by
  unfold State.agcGroup
  try dsimp only
  repeat' (first | with_reducible assumption | with_reducible apply State.agcFresh_keeps | with_reducible apply State.agcStep_keeps | with_reducible apply Keeps.fold | intro _ | split)
theorem State.slipAt_keeps {b0 : State} {s : State} (c : Nat) (k_ : Keeps b0 s) : Keeps b0 (State.slipAt s c) := by
  unfold State.slipAt
  try dsimp only
  repeat' (first | with_reducible assumption | with_reducible apply State.bump_keeps | with_reducible apply Keeps.fold | intro _ | split | with_reducible apply Keeps.spoil | with_reducible apply Keeps.rest)
theorem State.symGroup_keeps {b0 : State} {s : State} (k : Nat) (k_ : Keeps b0 s) : Keeps b0 (State.symGroup s k) := by
  unfold State.symGroup
  try dsimp only
  repeat' (first | with_reducible assumption | with_reducible apply State.landForce_keeps | with_reducible apply State.unmuteLock_keeps | with_reducible apply State.landByp_keeps)
theorem State.agcCar_keeps {b0 : State} {s : State} (c : Nat) (k_ : Keeps b0 s) : Keeps b0 (State.agcCar s c) := by
  unfold State.agcCar
  try dsimp only
  repeat' (first | with_reducible assumption | with_reducible apply State.agcGroup_keeps | with_reducible apply Keeps.fold | intro _)
theorem State.landSide_keeps {b0 : State} {s : State} (c : Nat) (k_ : Keeps b0 s) : Keeps b0 (State.landSide s c) := by
  unfold State.landSide
  try dsimp only
  repeat' (first | with_reducible assumption | with_reducible apply Keeps.fold | intro _ | split | with_reducible apply Keeps.spoil | with_reducible apply Keeps.rest)
theorem State.symStartAt_keeps {b0 : State} {s : State} (c : Nat) (tl : Int) (k_ : Keeps b0 s) : Keeps b0 (State.symStartAt s c tl) := by
  unfold State.symStartAt
  try dsimp only
  repeat' (first | with_reducible assumption | with_reducible apply State.symGroup_keeps | with_reducible apply State.noteUl_keeps | with_reducible apply State.landSwap_keeps | with_reducible apply State.landSicEn_keeps | with_reducible apply State.landSide_keeps | with_reducible apply State.setEv_keeps | with_reducible apply State.landSel_keeps | with_reducible apply Keeps.fold)
theorem State.symBoundary_keeps {b0 : State} {s : State} (c : Nat) (k_ : Keeps b0 s) : Keeps b0 (State.symBoundary s c) := by
  unfold State.symBoundary
  try dsimp only
  repeat' (first | with_reducible assumption | with_reducible apply State.checkPattern_keeps | with_reducible apply State.slipAt_keeps | with_reducible apply State.agcCar_keeps | with_reducible apply State.symStartAt_keeps | with_reducible apply State.combineRange_keeps | with_reducible apply State.alignSic_keeps | with_reducible apply Keeps.fold | intro _ | split)
theorem State.dutyFrame_keeps {b0 : State} {s : State} (k_ : Keeps b0 s) : Keeps b0 (State.dutyFrame s) := by
  unfold State.dutyFrame
  try dsimp only
  repeat' (first | with_reducible assumption | with_reducible apply State.setFlag_keeps | with_reducible apply State.setFld_keeps | with_reducible apply Keeps.fold | intro _ | split | with_reducible apply Keeps.spoil | with_reducible apply Keeps.rest)
theorem State.clearFreqs_keeps {b0 : State} {s : State} (k_ : Keeps b0 s) : Keeps b0 (State.clearFreqs s) := by
  unfold State.clearFreqs
  try dsimp only
  repeat' (first | with_reducible assumption | with_reducible apply State.clearFreq_keeps | with_reducible apply Keeps.fold | intro _)
theorem State.frameBoundary_keeps {b0 : State} {s : State} (k_ : Keeps b0 s) : Keeps b0 (State.frameBoundary s) := by
  unfold State.frameBoundary
  try dsimp only
  repeat' (first | with_reducible assumption | with_reducible apply State.landIdle_keeps | with_reducible apply State.dutyFrame_keeps | with_reducible apply State.clearFreqs_keeps | with_reducible apply State.landFrame_keeps | with_reducible apply State.setEv_keeps | with_reducible apply State.setReg_keeps | with_reducible apply Keeps.fold | intro _ | split)
theorem State.frameEvents_keeps {b0 : State} {s : State} (k_ : Keeps b0 s) : Keeps b0 (State.frameEvents s) := by
  unfold State.frameEvents
  try dsimp only
  repeat' (first | with_reducible assumption | with_reducible apply State.agcCar_keeps | with_reducible apply State.symStartAt_keeps | with_reducible apply State.setEvs_keeps | with_reducible apply State.slotStart_keeps | with_reducible apply Keeps.fold | intro _ | split)
theorem State.alignStart_keeps {b0 : State} {s : State} (stepped : Bool) (k_ : Keeps b0 s) : Keeps b0 (State.alignStart s stepped) := by
  unfold State.alignStart
  try dsimp only
  repeat' (first | with_reducible assumption | with_reducible apply State.landIdle_keeps | with_reducible apply State.dutyFrame_keeps | with_reducible apply State.clearFreqs_keeps | with_reducible apply State.raiseBit_keeps | with_reducible apply State.setFlag_keeps | with_reducible apply State.landFrame_keeps | with_reducible apply State.setReg_keeps | with_reducible apply State.frameEvents_keeps | with_reducible apply Keeps.fold | intro _ | split | with_reducible apply Keeps.spoil | with_reducible apply Keeps.rest)
theorem State.airStep_keeps {b0 : State} {s : State} (t0 : Nat) (frame0 : Int) (k_ : Keeps b0 s) : Keeps b0 (State.airStep s t0 frame0) := by
  unfold State.airStep
  try dsimp only
  repeat' (first | with_reducible assumption | with_reducible apply State.alignStart_keeps | with_reducible apply State.setReg_keeps | with_reducible apply Keeps.fold | intro _ | split | with_reducible apply Keeps.spoil | with_reducible apply Keeps.rest)
theorem State.dutyTick_keeps {b0 : State} {s : State} (ns : Nat) (k_ : Keeps b0 s) : Keeps b0 (State.dutyTick s ns) := by
  unfold State.dutyTick
  try dsimp only
  repeat' (first | with_reducible assumption | with_reducible apply State.count_keeps | with_reducible apply Keeps.fold | intro _ | split | with_reducible apply Keeps.spoil | with_reducible apply Keeps.rest)

theorem State.dropMem_keeps {b0 : State} {s : State} (d : Dom) (keep : Word) (h : Keeps b0 s) : Keeps b0 (s.dropMem d keep) := by
  unfold State.dropMem
  dsimp only
  refine h.parts rfl id id ?_ ?_ id id id
  all_goals
    intro q
    dsimp only
    apply swf_skeep
    exact q
theorem State.dropRegs_keeps {b0 : State} {s : State} (d : Dom) (keep : Word) (h : Keeps b0 s) : Keeps b0 (s.dropRegs d keep) := by
  unfold State.dropRegs
  dsimp only
  refine Keeps.fold ?_ _ (h.parts rfl ?_ ?_ id id id id id)
  · intro t v ht
    split
    · exact State.setPba_keeps _ _ ht
    · exact ht
  all_goals
    intro q
    dsimp only
    apply swf_skeep
    exact q
theorem State.dropHidden_keeps {b0 : State} {s : State} (d : Dom) (h : Keeps b0 s) : Keeps b0 (s.dropHidden d) := by
  unfold State.dropHidden
  split
  case h_2 => exact h.parts rfl id id id id id id (fun _ => rfl)
  case h_8 => split; exacts [h.parts rfl id id id id id id id, h]
  all_goals exact h.parts rfl id id id id id id id
theorem State.dropHops_keeps {b0 : State} {s : State} (t : Nat) (k_ : Keeps b0 s) : Keeps b0 (State.dropHops s t) := by
  unfold State.dropHops
  try dsimp only
  repeat' (first | with_reducible assumption | with_reducible apply State.settleOwner_keeps | with_reducible apply Keeps.fold | intro _)
theorem State.interlockAll_keeps {b0 : State} {s : State} (k_ : Keeps b0 s) : Keeps b0 (State.interlockAll s) := by
  unfold State.interlockAll
  try dsimp only
  repeat' (first | with_reducible assumption | with_reducible apply State.interlock_keeps | with_reducible apply Keeps.fold)
theorem State.dvfsStart_keeps {b0 : State} {s : State} (k_ : Keeps b0 s) : Keeps b0 (State.dvfsStart s) := by
  unfold State.dvfsStart
  try dsimp only
  repeat' (first | with_reducible assumption | with_reducible apply State.setReg_keeps)
theorem State.dropBanks_keeps {b0 : State} {s : State} (d : Dom) (k_ : Keeps b0 s) : Keeps b0 (State.dropBanks s d) := by
  unfold State.dropBanks
  try dsimp only
  repeat' (first | with_reducible assumption | with_reducible apply State.dropMem_keeps | with_reducible apply State.dropRegs_keeps)
theorem State.leaveDomain_keeps {b0 : State} {s : State} (d : Dom) (k_ : Keeps b0 s) : Keeps b0 (State.leaveDomain s d) := by
  unfold State.leaveDomain
  try dsimp only
  repeat' (first | with_reducible assumption | with_reducible apply State.dropHops_keeps | with_reducible apply State.obsDown_keeps | with_reducible apply State.snapDown_keeps | with_reducible apply State.tileLost_keeps | with_reducible apply Keeps.fold | intro _ | split)
theorem State.gateTile0_keeps {b0 : State} {s : State} (k_ : Keeps b0 s) : Keeps b0 (State.gateTile0 s) := by
  unfold State.gateTile0
  try dsimp only
  repeat' (first | with_reducible assumption | with_reducible apply State.followPair_keeps | with_reducible apply State.abortMoves_keeps | with_reducible apply Keeps.fold)
theorem State.showIf_keeps {b0 : State} {s : State} (t : Nat) (k_ : Keeps b0 s) : Keeps b0 (State.showIf s t) := by
  unfold State.showIf
  try dsimp only
  repeat' (first | with_reducible assumption | with_reducible apply State.setFld_keeps | with_reducible apply Keeps.fold | intro _ | split)
theorem State.loseDomain_keeps {b0 : State} {s : State} (d : Dom) (k_ : Keeps b0 s) : Keeps b0 (State.loseDomain s d) := by
  unfold State.loseDomain
  try dsimp only
  repeat' (first | with_reducible assumption | with_reducible apply State.gateTile0_keeps | with_reducible apply State.followPair_keeps | with_reducible apply State.interlockAll_keeps | with_reducible apply State.idlePaths_keeps | with_reducible apply State.dvfsStart_keeps | with_reducible apply State.showIf_keeps | with_reducible apply State.setFld_keeps | with_reducible apply State.dropHidden_keeps | with_reducible apply State.leaveDomain_keeps | with_reducible apply State.dropBanks_keeps | with_reducible apply Keeps.fold | intro _ | split)
theorem State.gainDomain_keeps {b0 : State} {s0 : State} (d : Dom) (k_ : Keeps b0 s0) : Keeps b0 (State.gainDomain s0 d) := by
  unfold State.gainDomain
  try dsimp only
  repeat' (first | with_reducible assumption | with_reducible apply State.resetOuts_keeps | with_reducible apply State.followPair_keeps | with_reducible apply State.pendLoad_keeps | with_reducible apply State.idlePaths_keeps | with_reducible apply State.dropRegs_keeps | with_reducible apply State.setFlag_keeps | with_reducible apply State.showIf_keeps | with_reducible apply State.synPower_keeps | with_reducible apply State.setFld_keeps | with_reducible apply State.showSteps_keeps | with_reducible apply Keeps.fold | intro _ | split)
theorem State.wakeVotes_keeps {b0 : State} {s : State} (k_ : Keeps b0 s) : Keeps b0 (State.wakeVotes s) := by
  unfold State.wakeVotes
  try dsimp only
  repeat' (first | with_reducible assumption | with_reducible apply State.setThread_keeps | with_reducible apply Keeps.fold | intro _ | split)
theorem State.failVotes_keeps {b0 : State} {s : State} (d : Dom) (k_ : Keeps b0 s) : Keeps b0 (State.failVotes s d) := by
  unfold State.failVotes
  try dsimp only
  repeat' (first | with_reducible assumption | with_reducible apply State.setThread_keeps | with_reducible apply Keeps.fold | intro _ | split)
theorem State.setGoal_keeps {b0 : State} {s : State} (d : Dom) (g : Option Bool) (k_ : Keeps b0 s) : Keeps b0 (State.setGoal s d g) := by
  unfold State.setGoal
  try dsimp only
  repeat' (first | with_reducible assumption | with_reducible apply Keeps.fold | intro _ | split | with_reducible apply Keeps.spoil | with_reducible apply Keeps.rest)
theorem State.setStep?_keeps {b0 : State} {s : State} (d : Dom) (k : Option Nat) (k_ : Keeps b0 s) : Keeps b0 (State.setStep? s d k) := by
  unfold State.setStep?
  try dsimp only
  repeat' (first | with_reducible assumption | with_reducible apply Keeps.fold | intro _ | split | with_reducible apply Keeps.spoil | with_reducible apply Keeps.rest)
theorem State.setDom_keeps {b0 : State} {s : State} (d : Dom) (st : Nat) (iso : Bool) (k_ : Keeps b0 s) : Keeps b0 (State.setDom s d st iso) := by
  unfold State.setDom
  try dsimp only
  repeat' (first | with_reducible assumption | with_reducible apply State.setFlag_keeps | with_reducible apply State.setFld_keeps)
theorem State.superseded_keeps {b0 : State} {s : State} (k_ : Keeps b0 s) : Keeps b0 (State.superseded s) := by
  unfold State.superseded
  try dsimp only
  repeat' (first | with_reducible assumption | with_reducible apply State.bump_keeps)
theorem State.beginFall_keeps {b0 : State} {s : State} (d : Dom) (k_ : Keeps b0 s) : Keeps b0 (State.beginFall s d) := by
  unfold State.beginFall
  try dsimp only
  repeat' (first | with_reducible assumption | with_reducible apply State.setStep?_keeps | with_reducible apply State.setDom_keeps | with_reducible apply State.loseDomain_keeps)
theorem State.judgeDom_keeps {b0 : State} {s : State} (d : Dom) (k_ : Keeps b0 s) : Keeps b0 (State.judgeDom s d) := by
  unfold State.judgeDom
  try dsimp only
  repeat' (first | with_reducible assumption | with_reducible apply State.superseded_keeps | with_reducible apply State.setStep?_keeps | with_reducible apply State.setFlag_keeps | with_reducible apply State.setGoal_keeps | with_reducible apply State.setDom_keeps | with_reducible apply State.beginFall_keeps | with_reducible apply Keeps.fold | intro _ | split | with_reducible apply Keeps.spoil | with_reducible apply Keeps.rest)
theorem State.endMove_keeps {b0 : State} {s : State} (d : Dom) (k_ : Keeps b0 s) : Keeps b0 (State.endMove s d) := by
  unfold State.endMove
  try dsimp only
  repeat' (first | with_reducible assumption | with_reducible apply State.setStep?_keeps | with_reducible apply State.setGoal_keeps | with_reducible apply State.setFld_keeps | with_reducible apply Keeps.fold | intro _ | split | with_reducible apply Keeps.spoil | with_reducible apply Keeps.rest)
theorem State.showDvfs_keeps {b0 : State} {s : State} (k_ : Keeps b0 s) : Keeps b0 (State.showDvfs s) := by
  unfold State.showDvfs
  try dsimp only
  repeat' (first | with_reducible assumption | with_reducible apply State.setReg_keeps)
theorem State.dvEval_keeps {b0 : State} {s : State} (k_ : Keeps b0 s) : Keeps b0 (State.dvEval s) := by
  unfold State.dvEval
  try dsimp only
  repeat' (first | with_reducible assumption | with_reducible apply State.superseded_keeps | with_reducible apply State.showDvfs_keeps | with_reducible apply Keeps.fold | intro _ | split | with_reducible apply Keeps.spoil | with_reducible apply Keeps.rest)
theorem State.dvStep_keeps {b0 : State} {s : State} (k_ : Keeps b0 s) : Keeps b0 (State.dvStep s) := by
  unfold State.dvStep
  try dsimp only
  repeat' (first | with_reducible assumption | with_reducible apply State.setFld_keeps | with_reducible apply Keeps.fold | intro _ | split | with_reducible apply Keeps.spoil | with_reducible apply Keeps.rest)
theorem State.clearVotes_keeps {b0 : State} {s : State} (into : Nat) (k_ : Keeps b0 s) : Keeps b0 (State.clearVotes s into) := by
  unfold State.clearVotes
  try dsimp only
  repeat' (first | with_reducible assumption | with_reducible apply State.setReg_keeps | with_reducible apply Keeps.fold | intro _ | split)
theorem State.entryEval_keeps {b0 : State} {s : State} (k_ : Keeps b0 s) : Keeps b0 (State.entryEval s) := by
  unfold State.entryEval
  try dsimp only
  repeat' (first | with_reducible assumption | with_reducible apply State.dropMem_keeps | with_reducible apply State.clearVotes_keeps | with_reducible apply State.setReg_keeps | with_reducible apply Keeps.fold | intro _ | split | with_reducible apply Keeps.spoil | with_reducible apply Keeps.rest)
theorem State.powerEval_keeps {b0 : State} {s : State} (k_ : Keeps b0 s) : Keeps b0 (State.powerEval s) := by
  unfold State.powerEval
  try dsimp only
  repeat' (first | with_reducible assumption | with_reducible apply State.judgeDom_keeps | with_reducible apply State.dvEval_keeps | with_reducible apply State.wakeVotes_keeps | with_reducible apply State.entryEval_keeps | with_reducible apply Keeps.fold)
theorem State.setVotes_keeps {b0 : State} {s : State} (d : Dom) (v : Word) (k_ : Keeps b0 s) : Keeps b0 (State.setVotes s d v) := by
  unfold State.setVotes
  try dsimp only
  repeat' (first | with_reducible assumption | with_reducible apply State.setReg_keeps | with_reducible apply Keeps.fold | intro _ | split | with_reducible apply Keeps.spoil | with_reducible apply Keeps.rest)
theorem State.voteBit_keeps {b0 : State} {s : State} (d : Dom) (client : Nat) (on : Bool) (k_ : Keeps b0 s) : Keeps b0 (State.voteBit s d client on) := by
  unfold State.voteBit
  try dsimp only
  repeat' (first | with_reducible assumption | with_reducible apply State.setVotes_keeps | with_reducible apply State.powerEval_keeps)
theorem State.votePoint_keeps {b0 : State} {s : State} (client : Nat) (p : Option Nat) (k_ : Keeps b0 s) : Keeps b0 (State.votePoint s client p) := by
  unfold State.votePoint
  try dsimp only
  repeat' (first | with_reducible assumption | with_reducible apply State.powerEval_keeps | with_reducible apply State.setReg_keeps)
theorem State.writeVote_keeps {b0 : State} {s : State} (w : Writer) (off : Nat) (val mask : Word) (k_ : Keeps b0 s) : Keeps b0 (State.writeVote s w off val mask) := by
  unfold State.writeVote
  try dsimp only
  repeat' (first | with_reducible assumption | with_reducible apply State.voteBit_keeps | with_reducible apply State.powerEval_keeps | with_reducible apply State.setReg_keeps | with_reducible apply Keeps.fold | intro _ | split)
theorem State.writeDvfsMan_keeps {b0 : State} {s : State} (val mask : Word) (k_ : Keeps b0 s) : Keeps b0 (State.writeDvfsMan s val mask) := by
  unfold State.writeDvfsMan
  try dsimp only
  repeat' (first | with_reducible assumption | with_reducible apply State.raiseBit_keeps | with_reducible apply State.bump_keeps | with_reducible apply State.setFld_keeps | with_reducible apply State.powerEval_keeps | with_reducible apply State.writeFields_keeps | with_reducible apply Keeps.fold | intro _ | split | with_reducible apply Keeps.spoil | with_reducible apply Keeps.rest)
theorem State.driveOff_keeps {b0 : State} {s : State} (k_ : Keeps b0 s) : Keeps b0 (State.driveOff s) := by
  unfold State.driveOff
  try dsimp only
  repeat' (first | with_reducible assumption | with_reducible apply State.tell_keeps | with_reducible apply State.endWaits_keeps | with_reducible apply State.pruneRuns_keeps | with_reducible apply State.startRow_keeps | with_reducible apply State.setPair_keeps | with_reducible apply Keeps.fold | intro _ | split)
theorem State.setSeason_keeps {b0 : State} {s : State} (c : Nat) (k_ : Keeps b0 s) : Keeps b0 (State.setSeason s c) := by
  unfold State.setSeason
  try dsimp only
  repeat' (first | with_reducible assumption | with_reducible apply State.synPower_keeps | with_reducible apply State.setFld_keeps | with_reducible apply Keeps.fold)
theorem State.enterWinter_keeps {b0 : State} {s : State} (into : Nat) (k_ : Keeps b0 s) : Keeps b0 (State.enterWinter s into) := by
  unfold State.enterWinter
  try dsimp only
  repeat' (first | with_reducible assumption | with_reducible apply State.driveOff_keeps | with_reducible apply State.setFld_keeps | with_reducible apply State.powerEval_keeps | with_reducible apply Keeps.fold | intro _ | split | with_reducible apply Keeps.spoil | with_reducible apply Keeps.rest)
theorem State.requestState_keeps {b0 : State} {s : State} (r : Nat) (k_ : Keeps b0 s) : Keeps b0 (State.requestState s r) := by
  unfold State.requestState
  try dsimp only
  repeat' (first | with_reducible assumption | with_reducible apply State.enterWinter_keeps | with_reducible apply State.superseded_keeps | with_reducible apply State.setSeason_keeps | with_reducible apply State.setFlag_keeps | with_reducible apply State.powerEval_keeps | with_reducible apply Keeps.fold | intro _ | split | with_reducible apply Keeps.spoil | with_reducible apply Keeps.rest)
theorem State.writeState_keeps {b0 : State} {s : State} (val mask : Word) (k_ : Keeps b0 s) : Keeps b0 (State.writeState s val mask) := by
  unfold State.writeState
  try dsimp only
  repeat' (first | with_reducible assumption | with_reducible apply State.requestState_keeps | with_reducible apply State.writeFields_keeps | with_reducible apply Keeps.fold | intro _ | split)
theorem State.takeRequest_keeps {b0 : State} {s : State} (k_ : Keeps b0 s) : Keeps b0 (State.takeRequest s) := by
  unfold State.takeRequest
  try dsimp only
  repeat' (first | with_reducible assumption | with_reducible apply State.requestState_keeps | with_reducible apply State.setFlag_keeps | with_reducible apply Keeps.fold | intro _ | split | with_reducible apply Keeps.spoil | with_reducible apply Keeps.rest)
theorem State.startSpring_keeps {b0 : State} {s : State} (k_ : Keeps b0 s) : Keeps b0 (State.startSpring s) := by
  unfold State.startSpring
  try dsimp only
  repeat' (first | with_reducible assumption | with_reducible apply State.setVotes_keeps | with_reducible apply State.setFld_keeps | with_reducible apply State.powerEval_keeps | with_reducible apply Keeps.fold | intro _ | split | with_reducible apply Keeps.spoil | with_reducible apply Keeps.rest)
theorem State.addressMatch_keeps {b0 : State} {s : State} (k_ : Keeps b0 s) : Keeps b0 (State.addressMatch s) := by
  unfold State.addressMatch
  try dsimp only
  repeat' (first | with_reducible assumption | with_reducible apply State.startSpring_keeps | with_reducible apply Keeps.fold | intro _ | split | with_reducible apply Keeps.spoil | with_reducible apply Keeps.rest)
theorem State.completeEntry_keeps {b0 : State} {s : State} (k_ : Keeps b0 s) : Keeps b0 (State.completeEntry s) := by
  unfold State.completeEntry
  try dsimp only
  repeat' (first | with_reducible assumption | with_reducible apply State.takeRequest_keeps | with_reducible apply State.setFld_keeps | with_reducible apply State.startSpring_keeps | with_reducible apply Keeps.fold | intro _ | split | with_reducible apply Keeps.spoil | with_reducible apply Keeps.rest)
theorem State.failSpring_keeps {b0 : State} {s : State} (k_ : Keeps b0 s) : Keeps b0 (State.failSpring s) := by
  unfold State.failSpring
  try dsimp only
  repeat' (first | with_reducible assumption | with_reducible apply State.setVotes_keeps | with_reducible apply State.setFlag_keeps | with_reducible apply State.setFld_keeps | with_reducible apply Keeps.fold | intro _ | split | with_reducible apply Keeps.spoil | with_reducible apply Keeps.rest)
theorem State.wakeFailed_keeps {b0 : State} {s : State} (d : Dom) (step : Nat) (k_ : Keeps b0 s) : Keeps b0 (State.wakeFailed s d step) := by
  unfold State.wakeFailed
  try dsimp only
  repeat' (first | with_reducible assumption | with_reducible apply State.failSpring_keeps | with_reducible apply State.failVotes_keeps | with_reducible apply State.raiseBit_keeps | with_reducible apply State.endMove_keeps | with_reducible apply State.setReg_keeps | with_reducible apply Keeps.fold | intro _ | split | with_reducible apply Keeps.spoil | with_reducible apply Keeps.rest)
theorem State.powerStep_keeps {b0 : State} {s : State} (d : Dom) (k_ : Keeps b0 s) : Keeps b0 (State.powerStep s d) := by
  unfold State.powerStep
  try dsimp only
  repeat' (first | with_reducible assumption | with_reducible apply State.gainDomain_keeps | with_reducible apply State.setStep?_keeps | with_reducible apply State.wakeFailed_keeps | with_reducible apply State.setDom_keeps | with_reducible apply State.powerEval_keeps | with_reducible apply State.endMove_keeps | with_reducible apply Keeps.fold | intro _ | split | with_reducible apply Keeps.spoil | with_reducible apply Keeps.rest)
theorem State.stepTimeout_keeps {b0 : State} {s : State} (d : Dom) (k_ : Keeps b0 s) : Keeps b0 (State.stepTimeout s d) := by
  unfold State.stepTimeout
  try dsimp only
  repeat' (first | with_reducible assumption | with_reducible apply State.setStep?_keeps | with_reducible apply State.setDom_keeps | with_reducible apply State.dropBanks_keeps | with_reducible apply Keeps.fold | intro _ | split | with_reducible apply Keeps.spoil | with_reducible apply Keeps.rest)
theorem State.wakeRetry_keeps {b0 : State} {s : State} (d : Dom) (k_ : Keeps b0 s) : Keeps b0 (State.wakeRetry s d) := by
  unfold State.wakeRetry
  try dsimp only
  repeat' (first | with_reducible assumption | with_reducible apply State.powerEval_keeps | with_reducible apply State.endMove_keeps | with_reducible apply Keeps.fold | intro _ | split | with_reducible apply Keeps.spoil | with_reducible apply Keeps.rest)
theorem State.fallNow_keeps {b0 : State} {s : State} (d : Dom) (k_ : Keeps b0 s) : Keeps b0 (State.fallNow s d) := by
  unfold State.fallNow
  try dsimp only
  repeat' (first | with_reducible assumption | with_reducible apply State.setStep?_keeps | with_reducible apply State.setGoal_keeps | with_reducible apply State.setDom_keeps | with_reducible apply State.dropBanks_keeps | with_reducible apply State.beginFall_keeps | with_reducible apply Keeps.fold | intro _ | split | with_reducible apply Keeps.spoil | with_reducible apply Keeps.rest)
theorem State.pgLoss_keeps {b0 : State} {s : State} (d : Dom) (k_ : Keeps b0 s) : Keeps b0 (State.pgLoss s d) := by
  unfold State.pgLoss
  try dsimp only
  repeat' (first | with_reducible assumption | with_reducible apply State.fallNow_keeps | with_reducible apply State.raiseBit_keeps | with_reducible apply State.powerEval_keeps | with_reducible apply Keeps.fold | intro _ | split | with_reducible apply Keeps.spoil | with_reducible apply Keeps.rest)
theorem State.pgRestore_keeps {b0 : State} {s : State} (d : Dom) (k_ : Keeps b0 s) : Keeps b0 (State.pgRestore s d) := by
  unfold State.pgRestore
  try dsimp only
  repeat' (first | with_reducible assumption | with_reducible apply State.powerEval_keeps | with_reducible apply Keeps.fold | intro _ | split | with_reducible apply Keeps.spoil | with_reducible apply Keeps.rest)

theorem State.reply_keeps {b0 : State} {s : State} (port : Port) (v : Word) (st : Nat) (k_ : Keeps b0 s) : Keeps b0 (State.reply s port v st) := by
  unfold State.reply
  try dsimp only
  repeat' (first | with_reducible assumption | with_reducible apply State.send_keeps | with_reducible apply State.raiseBit_keeps | with_reducible apply Keeps.fold | intro _ | split)
theorem State.noted_keeps {b0 : State} {s : State} (port : Port) (st : Nat) (k_ : Keeps b0 s) : Keeps b0 (State.noted s port st) := by
  unfold State.noted
  try dsimp only
  repeat' (first | with_reducible assumption | with_reducible apply Keeps.fold | intro _ | split | with_reducible apply Keeps.spoil | with_reducible apply Keeps.rest)
theorem State.nvmLast_keeps {b0 : State} {s : State} (code : Nat) (k_ : Keeps b0 s) : Keeps b0 (State.nvmLast s code) := by
  unfold State.nvmLast
  try dsimp only
  repeat' (first | with_reducible assumption | with_reducible apply State.raiseBit_keeps | with_reducible apply State.bump_keeps | with_reducible apply State.setFld_keeps | with_reducible apply Keeps.fold | intro _ | split | with_reducible apply Keeps.spoil | with_reducible apply Keeps.rest)
theorem State.nvmAdvance_keeps {b0 : State} {s : State} (k_ : Keeps b0 s) : Keeps b0 (State.nvmAdvance s) := by
  unfold State.nvmAdvance
  try dsimp only
  repeat' (first | with_reducible assumption | with_reducible apply State.setFld_keeps)
theorem State.nvmDone_keeps {b0 : State} {s : State} (good : Bool) (k_ : Keeps b0 s) : Keeps b0 (State.nvmDone s good) := by
  unfold State.nvmDone
  try dsimp only
  repeat' (first | with_reducible assumption | with_reducible apply State.nvmLast_keeps | with_reducible apply State.reply_keeps | with_reducible apply State.takeFree_keeps_2 | with_reducible apply State.setFlag_keeps | with_reducible apply State.setFld_keeps | with_reducible apply State.startStore_keeps | with_reducible apply State.putNvm_keeps | with_reducible refine State.takeFree_keeps_2_eq (by assumption) ?_ | with_reducible apply Keeps.fold | intro _ | split | with_reducible apply Keeps.spoil | with_reducible apply Keeps.rest)
theorem State.settleReads_keeps {b0 : State} {s : State} (k_ : Keeps b0 s) : Keeps b0 (State.settleReads s) := by
  unfold State.settleReads
  try dsimp only
  repeat' (first | with_reducible assumption | with_reducible apply State.nvmDone_keeps | with_reducible apply State.takeFree_keeps_2 | with_reducible refine State.takeFree_keeps_2_eq (by assumption) ?_ | with_reducible apply Keeps.fold | intro _ | split)
theorem State.addressed_keeps {b0 : State} {s : State} (k_ : Keeps b0 s) : Keeps b0 (State.addressed s) := by
  unfold State.addressed
  try dsimp only
  repeat' (first | with_reducible assumption | with_reducible apply State.addressMatch_keeps | with_reducible apply Keeps.fold | intro _ | split)
theorem State.arrived_keeps {b0 : State} {s : State} (k_ : Keeps b0 s) : Keeps b0 (State.arrived s) := by
  unfold State.arrived
  try dsimp only
  repeat' (first | with_reducible assumption | with_reducible apply State.addressed_keeps | with_reducible apply State.settleReads_keeps)
theorem State.windowShut_keeps {b0 : State} {s : State} (up : Bool) (k_ : Keeps b0 s) : Keeps b0 (State.windowShut s up) := by
  unfold State.windowShut
  try dsimp only
  repeat' (first | with_reducible assumption | with_reducible apply State.downWrite_keeps | with_reducible apply Keeps.fold | intro _ | split)
theorem State.hostReg_keeps {b0 : State} {s : State} (p : Port) (o : Nat) (f : State → State) (hf : ∀ t, Keeps b0 t → Keeps b0 (f t))
    (h : Keeps b0 s) : Keeps b0 (s.hostReg p o f) := by
  unfold State.hostReg
  dsimp only
  repeat' (first | with_reducible assumption | with_reducible apply State.noted_keeps | with_reducible apply hf | with_reducible apply State.send_keeps | with_reducible apply State.downWrite_keeps | with_reducible apply State.windowShut_keeps | with_reducible apply State.arrived_keeps | with_reducible apply State.settleReads_keeps | split)

theorem State.setPair48_keeps {b0 : State} {s : State} (lo hi : Nat) (v : Int) (k_ : Keeps b0 s) : Keeps b0 (State.setPair48 s lo hi v) := by
  unfold State.setPair48
  try dsimp only
  repeat' (first | with_reducible assumption | with_reducible apply State.setReg_keeps)
theorem State.setTmuState_keeps {b0 : State} {s : State} (v : Nat) (k_ : Keeps b0 s) : Keeps b0 (State.setTmuState s v) := by
  unfold State.setTmuState
  try dsimp only
  repeat' (first | with_reducible assumption | with_reducible apply State.setFld_keeps)
theorem State.timeTick_keeps {b0 : State} {s : State} (k_ : Keeps b0 s) : Keeps b0 (State.timeTick s) := by
  unfold State.timeTick
  try dsimp only
  repeat' (first | with_reducible assumption | with_reducible apply Keeps.fold | intro _ | split | with_reducible apply Keeps.spoil | with_reducible apply Keeps.rest)
theorem State.tmuVotes_keeps {b0 : State} {s : State} (k_ : Keeps b0 s) : Keeps b0 (State.tmuVotes s) := by
  unfold State.tmuVotes
  try dsimp only
  repeat' (first | with_reducible assumption | with_reducible apply State.voteBit_keeps)
theorem State.acquire_keeps {b0 : State} {s : State} (k_ : Keeps b0 s) : Keeps b0 (State.acquire s) := by
  unfold State.acquire
  try dsimp only
  repeat' (first | with_reducible assumption | with_reducible apply State.setTmuState_keeps | with_reducible apply Keeps.fold | intro _ | split | with_reducible apply Keeps.spoil | with_reducible apply Keeps.rest)
theorem State.clampRate_keeps_2 {b0 : State} {s : State} (v : Int) (k_ : Keeps b0 s) : Keeps b0 (State.clampRate s v).2 := by
  unfold State.clampRate
  try dsimp only
  repeat' (first | with_reducible assumption | with_reducible apply State.raiseBit_keeps | with_reducible apply Keeps.fold | intro _ | split)
theorem State.clampRate_keeps_2_eq {b0 : State} {s : State} {v : Int} {x0 x1} (he : State.clampRate s v = (x0, x1)) (k_ : Keeps b0 s) : Keeps b0 x1 := by
  have := State.clampRate_keeps_2 v k_
  rw [he] at this
  exact this
theorem State.servo_keeps {b0 : State} {s : State} (o : Int) (t : Nat) (k_ : Keeps b0 s) : Keeps b0 (State.servo s o t) := by
  unfold State.servo
  try dsimp only
  repeat' (first | with_reducible assumption | with_reducible apply State.clampRate_keeps_2 | with_reducible refine State.clampRate_keeps_2_eq (by assumption) ?_ | with_reducible apply Keeps.fold | intro _ | split | with_reducible apply Keeps.spoil | with_reducible apply Keeps.rest)
theorem State.pendStep_keeps {b0 : State} {s : State} (v : Int) (k_ : Keeps b0 s) : Keeps b0 (State.pendStep s v) := by
  unfold State.pendStep
  try dsimp only
  repeat' (first | with_reducible assumption | with_reducible apply State.setFlag_keeps | with_reducible apply Keeps.fold | intro _ | split | with_reducible apply Keeps.spoil | with_reducible apply Keeps.rest)
theorem State.measure_keeps {b0 : State} {s : State} (o : Int) (d : Option Int) (t : Nat) (k_ : Keeps b0 s) : Keeps b0 (State.measure s o d t) := by
  unfold State.measure
  extract_lets s1 s2 big s3 was x1 x2 s4 near good x3 s5 s6
  have h_s1 : Keeps b0 s1 := by
    dsimp only [s1]
    repeat' (first | with_reducible assumption | with_reducible apply State.acquire_keeps | with_reducible apply State.pendStep_keeps | with_reducible apply State.raiseBit_keeps | with_reducible apply State.servo_keeps | with_reducible apply State.setTmuState_keeps | with_reducible apply State.setReg_keeps)
  have h_s2 : Keeps b0 s2 := by
    dsimp only [s2]
    repeat' (first | with_reducible assumption | with_reducible apply State.acquire_keeps | with_reducible apply State.pendStep_keeps | with_reducible apply State.raiseBit_keeps | with_reducible apply State.servo_keeps | with_reducible apply State.setTmuState_keeps | with_reducible apply State.setReg_keeps | with_reducible apply Keeps.fold | intro _ | split)
  have h_s3 : Keeps b0 s3 := by
    dsimp only [s3]
    repeat' (first | with_reducible assumption | with_reducible apply State.acquire_keeps | with_reducible apply State.pendStep_keeps | with_reducible apply State.raiseBit_keeps | with_reducible apply State.servo_keeps | with_reducible apply State.setTmuState_keeps | with_reducible apply State.setReg_keeps | with_reducible apply Keeps.fold | intro _ | split)
  have h_x1 : Keeps b0 x1 := by
    dsimp only [x1]
    repeat' (first | with_reducible assumption | with_reducible apply State.acquire_keeps | with_reducible apply State.pendStep_keeps | with_reducible apply State.raiseBit_keeps | with_reducible apply State.servo_keeps | with_reducible apply State.setTmuState_keeps)
  have h_s4 : Keeps b0 s4 := by
    dsimp only [s4]
    repeat' (first | with_reducible assumption | with_reducible apply State.acquire_keeps | with_reducible apply State.pendStep_keeps | with_reducible apply State.raiseBit_keeps | with_reducible apply State.servo_keeps | with_reducible apply State.setTmuState_keeps | with_reducible apply State.setReg_keeps | with_reducible apply Keeps.fold | intro _ | split | with_reducible apply Keeps.spoil | with_reducible apply Keeps.rest)
  have h_s5 : Keeps b0 s5 := by
    dsimp only [s5]
    repeat' (first | with_reducible assumption | with_reducible apply State.acquire_keeps | with_reducible apply State.pendStep_keeps | with_reducible apply State.raiseBit_keeps | with_reducible apply State.servo_keeps | with_reducible apply State.setTmuState_keeps | with_reducible apply State.setReg_keeps | with_reducible apply Keeps.fold | intro _ | split | with_reducible apply Keeps.spoil | with_reducible apply Keeps.rest)
  have h_s6 : Keeps b0 s6 := by
    dsimp only [s6]
    repeat' (first | with_reducible assumption | with_reducible apply State.acquire_keeps | with_reducible apply State.pendStep_keeps | with_reducible apply State.raiseBit_keeps | with_reducible apply State.servo_keeps | with_reducible apply State.setTmuState_keeps | with_reducible apply State.setReg_keeps | with_reducible apply Keeps.fold | intro _ | split)
  try clear_value s6
  try clear_value s5
  try clear_value x3
  try clear_value good
  try clear_value near
  try clear_value s4
  try clear_value x2
  try clear_value x1
  try clear_value was
  try clear_value s3
  try clear_value big
  try clear_value s2
  try clear_value s1
  try dsimp only
  repeat' (first | with_reducible assumption | with_reducible apply State.acquire_keeps | with_reducible apply State.pendStep_keeps | with_reducible apply State.raiseBit_keeps | with_reducible apply State.servo_keeps | with_reducible apply State.setTmuState_keeps | with_reducible apply State.setReg_keeps | with_reducible apply Keeps.fold | intro _ | split)
theorem State.slewRate_keeps {b0 : State} {s : State} (k_ : Keeps b0 s) : Keeps b0 (State.slewRate s) := by
  unfold State.slewRate
  try dsimp only
  repeat' (first | with_reducible assumption | with_reducible apply State.setPair48_keeps | with_reducible apply State.clampRate_keeps_2 | with_reducible refine State.clampRate_keeps_2_eq (by assumption) ?_ | with_reducible apply Keeps.fold | intro _ | split)
theorem State.holdover_keeps {b0 : State} {s : State} (k_ : Keeps b0 s) : Keeps b0 (State.holdover s) := by
  unfold State.holdover
  try dsimp only
  repeat' (first | with_reducible assumption | with_reducible apply State.raiseBit_keeps | with_reducible apply State.setTmuState_keeps | with_reducible apply Keeps.fold | intro _ | split | with_reducible apply Keeps.spoil | with_reducible apply Keeps.rest)
theorem State.writeTmuCtl_keeps {b0 : State} {s : State} (val mask : Word) (k_ : Keeps b0 s) : Keeps b0 (State.writeTmuCtl s val mask) := by
  unfold State.writeTmuCtl
  try dsimp only
  repeat' (first | with_reducible assumption | with_reducible apply State.setFlag_keeps | with_reducible apply State.tmuVotes_keeps | with_reducible apply State.setTmuState_keeps | with_reducible apply State.writeFields_keeps | with_reducible apply Keeps.fold | intro _ | split | with_reducible apply Keeps.spoil | with_reducible apply Keeps.rest)
theorem State.steerChange_keeps {b0 : State} {s : State} (k_ : Keeps b0 s) : Keeps b0 (State.steerChange s) := by
  unfold State.steerChange
  try dsimp only
  repeat' (first | with_reducible assumption | with_reducible apply State.setFlag_keeps | with_reducible apply Keeps.fold | intro _ | split)
theorem State.writeRateReq_keeps {b0 : State} {s : State} (hi : Bool) (val mask : Word) (k_ : Keeps b0 s) : Keeps b0 (State.writeRateReq s hi val mask) := by
  unfold State.writeRateReq
  try dsimp only
  repeat' (first | with_reducible assumption | with_reducible apply State.acquire_keeps | with_reducible apply State.setPair48_keeps | with_reducible apply Keeps.fold | intro _ | split | with_reducible apply Keeps.spoil | with_reducible apply Keeps.rest)
theorem State.writeCcsFixed_keeps {b0 : State} {s : State} (hi : Bool) (val mask : Word) (k_ : Keeps b0 s) : Keeps b0 (State.writeCcsFixed s hi val mask) := by
  unfold State.writeCcsFixed
  try dsimp only
  repeat' (first | with_reducible assumption | with_reducible apply State.setPair48_keeps | with_reducible apply Keeps.fold | intro _ | split | with_reducible apply Keeps.spoil | with_reducible apply Keeps.rest)
theorem State.writeStepArm_keeps {b0 : State} {s : State} (val mask : Word) (k_ : Keeps b0 s) : Keeps b0 (State.writeStepArm s val mask) := by
  unfold State.writeStepArm
  try dsimp only
  repeat' (first | with_reducible assumption | with_reducible apply State.pendStep_keeps | with_reducible apply State.setFlag_keeps | with_reducible apply State.writeFields_keeps | with_reducible apply Keeps.fold | intro _ | split | with_reducible apply Keeps.spoil | with_reducible apply Keeps.rest)
theorem State.setPulse_keeps {b0 : State} {s : State} (k : Nat) (p : Pulse) (k_ : Keeps b0 s) : Keeps b0 (State.setPulse s k p) := by
  unfold State.setPulse
  try dsimp only
  repeat' (first | with_reducible assumption | with_reducible apply Keeps.fold | intro _ | split | with_reducible apply Keeps.spoil | with_reducible apply Keeps.rest)
theorem State.writePulseCtl_keeps {b0 : State} {s : State} (k : Nat) (val mask : Word) (k_ : Keeps b0 s) : Keeps b0 (State.writePulseCtl s k val mask) := by
  unfold State.writePulseCtl
  try dsimp only
  repeat' (first | with_reducible assumption | with_reducible apply State.tmuVotes_keeps | with_reducible apply State.setPulse_keeps | with_reducible apply State.writeFields_keeps | with_reducible apply Keeps.fold | intro _ | split)
theorem State.pulseEdge_keeps {b0 : State} {s : State} (k : Nat) (k_ : Keeps b0 s) : Keeps b0 (State.pulseEdge s k) := by
  unfold State.pulseEdge
  try dsimp only
  repeat' (first | with_reducible assumption | with_reducible apply State.send_keeps | with_reducible apply State.setPulse_keeps | with_reducible apply State.setEv_keeps | with_reducible apply Keeps.fold | intro _ | split)
theorem State.skipPulses_keeps {b0 : State} {s : State} (k_ : Keeps b0 s) : Keeps b0 (State.skipPulses s) := by
  unfold State.skipPulses
  try dsimp only
  repeat' (first | with_reducible assumption | with_reducible apply State.setPulse_keeps | with_reducible apply Keeps.fold | intro _ | split)
theorem State.ppsIn_keeps {b0 : State} {s : State} (tns : Word) (tfr : Nat) (k_ : Keeps b0 s) : Keeps b0 (State.ppsIn s tns tfr) := by
  unfold State.ppsIn
  try dsimp only
  repeat' (first | with_reducible assumption | with_reducible apply State.raiseBit_keeps | with_reducible apply State.measure_keeps | with_reducible apply State.setReg_keeps | with_reducible apply Keeps.fold | intro _ | split)
theorem State.ppsMiss_keeps {b0 : State} {s : State} (k_ : Keeps b0 s) : Keeps b0 (State.ppsMiss s) := by
  unfold State.ppsMiss
  try dsimp only
  repeat' (first | with_reducible assumption | with_reducible apply State.holdover_keeps | with_reducible apply State.raiseBit_keeps | with_reducible apply State.setReg_keeps | with_reducible apply Keeps.fold | intro _ | split)
theorem State.stepEntry_keeps {b0 : State} {s : State} (t0 t1 : Int) (tag : Nat) (k_ : Keeps b0 s) : Keeps b0 (State.stepEntry s t0 t1 tag) := by
  unfold State.stepEntry
  try dsimp only
  repeat' (first | with_reducible assumption | with_reducible apply State.setEntry_keeps | with_reducible apply State.finish_keeps | with_reducible apply State.count_keeps | with_reducible apply Keeps.fold | intro _ | split)
theorem State.timeStep_keeps {b0 : State} {s : State} (k_ : Keeps b0 s) : Keeps b0 (State.timeStep s) := by
  unfold State.timeStep
  try dsimp only
  repeat' (first | with_reducible assumption | with_reducible apply State.stepEntry_keeps | with_reducible apply State.skipPulses_keeps | with_reducible apply State.raiseBit_keeps | with_reducible apply State.setFlag_keeps | with_reducible apply State.airStep_keeps | with_reducible apply State.hush_keeps | with_reducible apply Keeps.fold | intro _ | split | with_reducible apply Keeps.spoil | with_reducible apply Keeps.rest)

theorem State.refValid_keeps {b0 : State} {s : State} (freq : Nat) (k_ : Keeps b0 s) : Keeps b0 (State.refValid s freq) := by
  unfold State.refValid
  try dsimp only
  repeat' (first | with_reducible assumption | with_reducible apply State.raiseBit_keeps | with_reducible apply State.setFlag_keeps | with_reducible apply State.setFld_keeps | with_reducible apply Keeps.fold | intro _ | split)
theorem State.refLoss_keeps {b0 : State} {s : State} (k_ : Keeps b0 s) : Keeps b0 (State.refLoss s) := by
  unfold State.refLoss
  try dsimp only
  repeat' (first | with_reducible assumption | with_reducible apply State.ccsFell_keeps | with_reducible apply State.raiseBit_keeps | with_reducible apply State.bump_keeps | with_reducible apply State.setFlag_keeps | with_reducible apply State.setFld_keeps | with_reducible apply Keeps.fold | intro _ | split)
theorem State.linkReset_keeps {b0 : State} {s : State} (h : Keeps b0 s) : Keeps b0 s.linkReset :=
  State.raiseBit_keeps _ _ (State.setReg_keeps _ _ (h.parts rfl (fun q => by dsimp only; apply swf_skeep; exact q) id id id id id id))
theorem State.pcieRefLoss_keeps {b0 : State} {s : State} (k_ : Keeps b0 s) : Keeps b0 (State.pcieRefLoss s) := by
  unfold State.pcieRefLoss
  try dsimp only
  repeat' (first | with_reducible assumption | with_reducible apply State.raiseBit_keeps | with_reducible apply State.setFlag_keeps | with_reducible apply State.linkReset_keeps | with_reducible apply Keeps.fold | intro _ | split)

theorem State.senseOne_keeps {b0 : State} {s : State} (before : State) (raw : Nat → Int) (i : Nat) (k_ : Keeps b0 s) : Keeps b0 (State.senseOne s before raw i) := by
  unfold State.senseOne
  try dsimp only
  repeat' (first | with_reducible assumption | with_reducible apply State.raiseBit_keeps | with_reducible apply State.setFlag_keeps | with_reducible apply State.setReg_keeps | with_reducible apply Keeps.fold | intro _ | split | with_reducible apply Keeps.spoil | with_reducible apply Keeps.rest)
theorem State.judgeRegion_keeps {b0 : State} {s : State} (j : Nat) (k_ : Keeps b0 s) : Keeps b0 (State.judgeRegion s j) := by
  unfold State.judgeRegion
  try dsimp only
  repeat' (first | with_reducible assumption | with_reducible apply State.raiseBit_keeps | with_reducible apply State.setFlag_keeps | with_reducible apply State.setFld_keeps | with_reducible apply State.retargetGroup_keeps | with_reducible apply State.setEv_keeps | with_reducible apply Keeps.fold | intro _ | split)
theorem State.judgeThrottle_keeps {b0 : State} {s : State} (k_ : Keeps b0 s) : Keeps b0 (State.judgeThrottle s) := by
  unfold State.judgeThrottle
  try dsimp only
  repeat' (first | with_reducible assumption | with_reducible apply State.raiseBit_keeps | with_reducible apply State.setFlag_keeps | with_reducible apply State.setEv_keeps | with_reducible apply Keeps.fold | intro _ | split)
theorem State.bypass_keeps {b0 : State} {s : State} (r : Nat) (k_ : Keeps b0 s) : Keeps b0 (State.bypass s r) := by
  unfold State.bypass
  try dsimp only
  repeat' (first | with_reducible assumption | with_reducible apply State.setFld_keeps | with_reducible apply State.setReg_keeps | with_reducible apply Keeps.fold | intro _ | split | with_reducible apply Keeps.spoil | with_reducible apply Keeps.rest)
theorem State.beginShutdown_keeps {b0 : State} {s : State} (k_ : Keeps b0 s) : Keeps b0 (State.beginShutdown s) := by
  unfold State.beginShutdown
  try dsimp only
  repeat' (first | with_reducible assumption | with_reducible apply State.bypass_keeps | with_reducible apply State.raiseBit_keeps | with_reducible apply State.setFlag_keeps | with_reducible apply State.shutdownPairs_keeps | with_reducible apply Keeps.fold | intro _ | split)
theorem State.judgeShutdown_keeps {b0 : State} {s : State} (k_ : Keeps b0 s) : Keeps b0 (State.judgeShutdown s) := by
  unfold State.judgeShutdown
  try dsimp only
  repeat' (first | with_reducible assumption | with_reducible apply State.beginShutdown_keeps | with_reducible apply State.setFlag_keeps | with_reducible apply Keeps.fold | intro _ | split)
theorem State.judgeGradient_keeps {b0 : State} {s : State} (k_ : Keeps b0 s) : Keeps b0 (State.judgeGradient s) := by
  unfold State.judgeGradient
  try dsimp only
  repeat' (first | with_reducible assumption | with_reducible apply State.raiseBit_keeps | with_reducible apply State.setFlag_keeps | with_reducible apply State.setFld_keeps | with_reducible apply Keeps.fold | intro _ | split)
theorem State.thermalLand_keeps {b0 : State} {s : State} (k_ : Keeps b0 s) : Keeps b0 (State.thermalLand s) := by
  unfold State.thermalLand
  try dsimp only
  repeat' (first | with_reducible assumption | with_reducible apply State.landBand_keeps | with_reducible apply State.landBackoff_keeps | with_reducible apply Keeps.fold | intro _ | split)
theorem State.thermalPass_keeps {b0 : State} {s : State} (raw : List Int) (k_ : Keeps b0 s) : Keeps b0 (State.thermalPass s raw) := by
  unfold State.thermalPass
  try dsimp only
  repeat' (first | with_reducible assumption | with_reducible apply State.thermalLand_keeps | with_reducible apply State.judgeGradient_keeps | with_reducible apply State.judgeRegion_keeps | with_reducible apply State.setFlag_keeps | with_reducible apply State.powerEval_keeps | with_reducible apply State.senseOne_keeps | with_reducible apply State.judgeThrottle_keeps | with_reducible apply State.judgeShutdown_keeps | with_reducible apply Keeps.fold | intro _)
theorem State.writeThr_keeps {b0 : State} {s : State} (off : Nat) (val mask : Word) (k_ : Keeps b0 s) : Keeps b0 (State.writeThr s off val mask) := by
  unfold State.writeThr
  try dsimp only
  repeat' (first | with_reducible assumption | with_reducible apply State.setReg_keeps | with_reducible apply State.writeFields_keeps | with_reducible apply Keeps.fold | intro _ | split)
theorem State.writeThrot_keeps {b0 : State} {s : State} (val mask : Word) (k_ : Keeps b0 s) : Keeps b0 (State.writeThrot s val mask) := by
  unfold State.writeThrot
  try dsimp only
  repeat' (first | with_reducible assumption | with_reducible apply State.thermalLand_keeps | with_reducible apply State.powerEval_keeps | with_reducible apply State.writeFields_keeps)

theorem State.pruneSects_keeps {b0 : State} {s : State} (k_ : Keeps b0 s) : Keeps b0 (State.pruneSects s) := by
  unfold State.pruneSects
  try dsimp only
  repeat' (first | with_reducible assumption | with_reducible apply Keeps.fold | intro _ | split | with_reducible apply Keeps.spoil | with_reducible apply Keeps.rest)
theorem State.takeSect_keeps {b0 : State} {s : State} (dl : Bool) (c layer frame i stype : Nat) (t3 : Nat × Nat × Int) (x : CSect) (k_ : Keeps b0 s) : Keeps b0 (State.takeSect s dl c layer frame i stype t3 x) := by
  unfold State.takeSect
  try dsimp only
  repeat' (first | with_reducible assumption | with_reducible apply State.raiseBit_keeps | with_reducible apply State.bmeCount_keeps | with_reducible apply State.count_keeps | with_reducible apply Keeps.fold | intro _ | split | with_reducible apply Keeps.spoil | with_reducible apply Keeps.rest)
theorem State.takeSects_keeps {b0 : State} (dl : Bool) (c layer frame : Nat) (xs : List CSect) {s : State} (i stype : Nat)
    (t3 : Nat × Nat × Int) (h : Keeps b0 s) : Keeps b0 (s.takeSects dl c layer frame i stype t3 xs) := by
  induction xs generalizing s i with
  | nil => exact h
  | cons x xs ih => exact ih _ (State.takeSect_keeps _ _ _ _ _ _ _ _ h)
theorem State.putData_keeps {b0 : State} {s : State} (x : LayerPrb) (k_ : Keeps b0 s) : Keeps b0 (State.putData s x) := by
  unfold State.putData
  try dsimp only
  repeat' (first | with_reducible assumption | with_reducible apply Keeps.fold | intro _ | split | with_reducible apply Keeps.spoil | with_reducible apply Keeps.rest)
theorem State.takeData_keeps {b0 : State} {s : State} (c layer frame slot sym start n w : Nat) (comp : Bool) (data : List Byte) (k_ : Keeps b0 s) : Keeps b0 (State.takeData s c layer frame slot sym start n w comp data) := by
  unfold State.takeData
  try dsimp only
  repeat' (first | with_reducible assumption | with_reducible apply State.bmeCount_keeps | with_reducible apply State.putData_keeps | with_reducible apply Keeps.fold | intro _ | split)

theorem State.readWeights_keeps_2 {b0 : State} (n : Nat) {s : State} (a : Nat) (h : Keeps b0 s) : Keeps b0 (s.readWeights a n).2 := by
  induction n generalizing s a with
  | zero => exact h
  | succ n ih => exact ih (a + 4) (State.readDev_keeps_2 a h)
theorem State.readWeights_keeps_2_eq {b0 : State} {n : Nat} {s : State} {a : Nat} {x0 x1} (he : s.readWeights a n = (x0, x1))
    (h : Keeps b0 s) : Keeps b0 x1 := by
  have := State.readWeights_keeps_2 n a h
  rw [he] at this
  exact this
theorem State.readVectors_keeps_2 {b0 : State} (l : List Nat) {s : State} (h : Keeps b0 s) : Keeps b0 (s.readVectors l).2 := by
  induction l generalizing s with
  | nil => exact h
  | cons a l ih =>
    unfold State.readVectors
    generalize 128 = n
    exact ih (State.readWeights_keeps_2 n a h)
theorem State.readVectors_keeps_2_eq {b0 : State} {l : List Nat} {s : State} {x0 x1} (he : s.readVectors l = (x0, x1))
    (h : Keeps b0 s) : Keeps b0 x1 := by
  have := State.readVectors_keeps_2 l h
  rw [he] at this
  exact this
theorem State.putExp_keeps {b0 : State} {s : State} (dir c : Nat) (tl : Int) (f : Nat) (k_ : Keeps b0 s) : Keeps b0 (State.putExp s dir c tl f) := by
  unfold State.putExp
  try dsimp only
  repeat' (first | with_reducible assumption | with_reducible apply Keeps.fold | intro _ | split | with_reducible apply Keeps.spoil | with_reducible apply Keeps.rest)
theorem State.putPart_keeps {b0 : State} {s : State} (c a : Nat) (tl : Int) (x : List Cx) (k_ : Keeps b0 s) : Keeps b0 (State.putPart s c a tl x) := by
  unfold State.putPart
  try dsimp only
  repeat' (first | with_reducible assumption | with_reducible apply Keeps.fold | intro _ | split | with_reducible apply Keeps.spoil | with_reducible apply Keeps.rest)
theorem State.weigh_keeps {b0 : State} {s : State} (c : Nat) (tl : Int) (u : List Word × Nat) (k_ : Keeps b0 s) : Keeps b0 (State.weigh s c tl u) := by
  unfold State.weigh
  try dsimp only
  repeat' (first | with_reducible assumption | with_reducible apply State.readVectors_keeps_2 | with_reducible apply State.putExp_keeps | with_reducible apply State.putPart_keeps | with_reducible apply State.bmeCount_keeps | with_reducible refine State.readVectors_keeps_2_eq (by assumption) ?_ | with_reducible apply Keeps.fold | intro _ | split | with_reducible apply Keeps.spoil | with_reducible apply Keeps.rest)
theorem State.commitPoint_keeps {b0 : State} {s : State} (c : Nat) (k_ : Keeps b0 s) : Keeps b0 (State.commitPoint s c) := by
  unfold State.commitPoint
  try dsimp only
  repeat' (first | with_reducible assumption | with_reducible apply State.noteCommit_keeps | with_reducible apply State.weigh_keeps | with_reducible apply State.weighRange_keeps)
theorem State.putSums_keeps {b0 : State} {s : State} (l : List SumPrb) (k_ : Keeps b0 s) : Keeps b0 (State.putSums s l) := by
  unfold State.putSums
  try dsimp only
  repeat' (first | with_reducible assumption | with_reducible apply Keeps.fold | intro _ | split | with_reducible apply Keeps.spoil | with_reducible apply Keeps.rest)
theorem State.combineSymbol_keeps {b0 : State} {s : State} (c ty : Nat) (tl : Int) (wins : List (Nat × Bool × List Cx)) (k_ : Keeps b0 s) : Keeps b0 (State.combineSymbol s c ty tl wins) := by
  unfold State.combineSymbol
  try dsimp only
  repeat' (first | with_reducible assumption | with_reducible apply State.readVectors_keeps_2 | with_reducible apply State.putExp_keeps | with_reducible apply State.bmeCount_keeps | with_reducible apply State.putSums_keeps | with_reducible refine State.readVectors_keeps_2_eq (by assumption) ?_ | with_reducible apply Keeps.fold | intro _ | split | with_reducible apply Keeps.spoil | with_reducible apply Keeps.rest)

theorem State.txPath_keeps {b0 : State} {s : State} (x : Int) (n : Nat) (k_ : Keeps b0 s) : Keeps b0 (State.txPath s x n) := by
  unfold State.txPath
  try dsimp only
  repeat' (first | with_reducible assumption | with_reducible apply State.setTxc_keeps | with_reducible apply State.tally_keeps | with_reducible apply Keeps.fold | intro _ | split)
theorem State.orStep_keeps {b0 : State} (x : Int) {s : State} (k : Nat) (k_ : Keeps b0 s) : Keeps b0 (State.orStep x s k) := by
  unfold State.orStep
  try dsimp only
  repeat' (first | with_reducible assumption | with_reducible apply State.setObs_keeps | with_reducible apply Keeps.fold | intro _ | split | with_reducible apply Keeps.spoil | with_reducible apply Keeps.rest)
theorem State.estimate_keeps_2 {b0 : State} {s : State} (n : Nat) (x : Int) (k_ : Keeps b0 s) : Keeps b0 (State.estimate s n x).2 := by
  unfold State.estimate
  try dsimp only
  repeat' (first | with_reducible assumption | with_reducible apply State.readWeights_keeps_2 | with_reducible refine State.readWeights_keeps_2_eq (by assumption) ?_ | with_reducible apply Keeps.fold | intro _ | split)
theorem State.estimate_keeps_2_eq {b0 : State} {s : State} {n : Nat} {x : Int} {x0 x1} (he : State.estimate s n x = (x0, x1)) (k_ : Keeps b0 s) : Keeps b0 x1 := by
  have := State.estimate_keeps_2 n x k_
  rw [he] at this
  exact this
theorem State.rxIdle_keeps {b0 : State} {s : State} (n : Nat) (k_ : Keeps b0 s) : Keeps b0 (State.rxIdle s n) := by
  unfold State.rxIdle
  try dsimp only
  repeat' (first | with_reducible assumption | with_reducible apply State.setRxc_keeps)
theorem State.rxPath_keeps_1 {b0 : State} {s : State} (x : Int) (n : Nat) (k_ : Keeps b0 s) : Keeps b0 (State.rxPath s x n).1 := by
  unfold State.rxPath
  try dsimp only
  repeat' (first | with_reducible assumption | with_reducible apply State.rxIdle_keeps | with_reducible apply State.setRxc_keeps | with_reducible apply State.tally_keeps | with_reducible apply State.estimate_keeps_2 | with_reducible apply State.setReg_keeps | with_reducible refine State.estimate_keeps_2_eq (by assumption) ?_ | with_reducible apply Keeps.fold | intro _ | split)
theorem State.rxPath_keeps_1_eq {b0 : State} {s : State} {x : Int} {n : Nat} {x0 x1 x2} (he : State.rxPath s x n = (x0, x1, x2)) (k_ : Keeps b0 s) : Keeps b0 x0 := by
  have := State.rxPath_keeps_1 x n k_
  rw [he] at this
  exact this
theorem State.fillWindow_keeps {b0 : State} {s : State} (c : Nat) (x : Int) (first : Bool) (a : Nat) (v : Cx) (k_ : Keeps b0 s) : Keeps b0 (State.fillWindow s c x first a v) := by
  unfold State.fillWindow
  try dsimp only
  repeat' (first | with_reducible assumption | with_reducible apply Keeps.fold | intro _ | split | with_reducible apply Keeps.spoil | with_reducible apply Keeps.rest)
theorem State.windowStep_keeps {b0 : State} {s : State} (c : Nat) (x : Int) (outs : List (Nat × Cx)) (k_ : Keeps b0 s) : Keeps b0 (State.windowStep s c x outs) := by
  unfold State.windowStep
  try dsimp only
  repeat' (first | with_reducible assumption | with_reducible apply State.fillWindow_keeps | with_reducible apply State.combineSymbol_keeps | with_reducible apply Keeps.fold | intro _ | split | with_reducible apply Keeps.spoil | with_reducible apply Keeps.rest)
theorem State.surveyStep_keeps {b0 : State} {s : State} (x : Int) (k_ : Keeps b0 s) : Keeps b0 (State.surveyStep s x) := by
  unfold State.surveyStep
  try dsimp only
  repeat' (first | with_reducible assumption | with_reducible apply State.setSurvey_keeps | with_reducible apply Keeps.fold | intro _ | split)
theorem State.snapTake_keeps {b0 : State} {s : State} (r : Nat) (clip : Bool) (q : SnapRec) (k_ : Keeps b0 s) : Keeps b0 (State.snapTake s r clip q) := by
  unfold State.snapTake
  try dsimp only
  repeat' (first | with_reducible assumption | with_reducible apply State.setSnap_keeps)
theorem State.snapStep_keeps {b0 : State} {s : State} (x : Int) (clips : List Nat) (k_ : Keeps b0 s) : Keeps b0 (State.snapStep s x clips) := by
  unfold State.snapStep
  try dsimp only
  repeat' (first | with_reducible assumption | with_reducible apply State.snapTake_keeps | with_reducible apply State.snapFail_keeps | with_reducible apply State.readWeights_keeps_2 | with_reducible refine State.readWeights_keeps_2_eq (by assumption) ?_ | with_reducible apply Keeps.fold | intro _ | split)
theorem State.tapOne_keeps {b0 : State} (t : Nat) {s : State} (v : Cx) (k_ : Keeps b0 s) : Keeps b0 (State.tapOne t s v) := by
  unfold State.tapOne
  try dsimp only
  repeat' (first | with_reducible assumption | with_reducible apply State.capRecord_keeps | with_reducible apply State.seqCount_keeps | with_reducible apply Keeps.fold | intro _ | split | with_reducible apply Keeps.spoil | with_reducible apply Keeps.rest)
theorem State.tapStep_keeps {b0 : State} {s : State} (s0 : State) (x : Int) (outs : List (Nat × Cx)) (k_ : Keeps b0 s) : Keeps b0 (State.tapStep s s0 x outs) := by
  unfold State.tapStep
  try dsimp only
  repeat' (first | with_reducible assumption | with_reducible apply State.tapOne_keeps | with_reducible apply Keeps.fold | intro _ | split)
theorem State.rxPaths_keeps_1 {b0 : State} {s : State} (x : Int) (h : Keeps b0 s) : Keeps b0 (s.rxPaths x).1 := by
  unfold State.rxPaths
  generalize List.range 128 = l
  refine Keeps.foldBy (fun a : State × List (Nat × Cx) × List Nat => a.1) ?_ _ h
  intro a n ha
  exact State.rxPath_keeps_1 x n ha
theorem State.pathSample_keeps {b0 : State} {s : State} (x : Int) (h : Keeps b0 s) : Keeps b0 (s.pathSample x) := by
  unfold State.pathSample
  generalize List.range 128 = l
  generalize List.range 8 = m
  extract_lets s1 s2 r s3 s4 s5
  have h1 : Keeps b0 s1 := Keeps.fold (fun t n ht => State.txPath_keeps x n ht) _ h
  have h2 : Keeps b0 s2 := Keeps.fold (fun t n ht => State.orStep_keeps x n ht) _ h1
  have hr : Keeps b0 r.1 := State.rxPaths_keeps_1 x h2
  have h3 : Keeps b0 s3 := State.snapStep_keeps x r.2.2 (State.surveyStep_keeps x hr)
  have h4 : Keeps b0 s4 := State.windowStep_keeps 1 x r.2.1 (State.windowStep_keeps 0 x r.2.1 h3)
  have h5 : Keeps b0 s5 := State.tapStep_keeps s x r.2.1 h4
  exact h5.rest _ _ _ _ _ _ _ _ _ _ _ _ _ _ _ _ _ _ _ _ _ _ _ _ _ _ _ _ _ _ _ _
theorem State.samples_keeps {b0 : State} {s : State} (k_ : Keeps b0 s) : Keeps b0 (State.samples s) := by
  unfold State.samples
  try dsimp only
  repeat' (first | with_reducible assumption | with_reducible apply State.pathSample_keeps | with_reducible apply Keeps.fold | intro _ | split)

end Sys2Proof.Machine
end

