-- ==== Sys2Proof/Laws/KeepsRing.lean ====
section
/-! SUPPORT. What the operations of the ring, the serial lanes, release and security keep. -/
namespace Sys2Proof.Machine


theorem State.setArgPort_keeps {b0 : State} {s : State} (p : Nat) (q : ArgPort) (k_ : Keeps b0 s) : Keeps b0 (State.setArgPort s p q) := by
  unfold State.setArgPort
  try dsimp only
  repeat' (first | with_reducible assumption | with_reducible apply Keeps.fold | intro _ | split | with_reducible apply Keeps.spoil | with_reducible apply Keeps.rest)
theorem State.setPortState_keeps {b0 : State} {s : State} (p v : Nat) (k_ : Keeps b0 s) : Keeps b0 (State.setPortState s p v) := by
  unfold State.setPortState
  try dsimp only
  repeat' (first | with_reducible assumption | with_reducible apply State.setFld_keeps)
theorem State.setRingState_keeps {b0 : State} {s : State} (r v : Nat) (k_ : Keeps b0 s) : Keeps b0 (State.setRingState s r v) := by
  unfold State.setRingState
  try dsimp only
  repeat' (first | with_reducible assumption | with_reducible apply State.setFld_keeps)
theorem State.sendCell_keeps {b0 : State} {s : State} (p : Nat) (c : Cell) (k_ : Keeps b0 s) : Keeps b0 (State.sendCell s p c) := by
  unfold State.sendCell
  try dsimp only
  repeat' (first | with_reducible assumption | with_reducible apply State.send_keeps | with_reducible apply State.setArgPort_keeps | with_reducible apply State.bump_keeps | with_reducible apply Keeps.fold | intro _ | split)
theorem State.forwardCell_keeps {b0 : State} {s : State} (p : Nat) (c : Cell) (void : Bool) (k_ : Keeps b0 s) : Keeps b0 (State.forwardCell s p c void) := by
  unfold State.forwardCell
  try dsimp only
  repeat' (first | with_reducible assumption | with_reducible apply State.sendCell_keeps)
theorem State.sendSet_keeps {b0 : State} {s : State} (p : Nat) (k_ : Keeps b0 s) : Keeps b0 (State.sendSet s p) := by
  unfold State.sendSet
  try dsimp only
  repeat' (first | with_reducible assumption | with_reducible apply State.send_keeps)
theorem State.startNeg_keeps {b0 : State} {s : State} (p : Nat) (k_ : Keeps b0 s) : Keeps b0 (State.startNeg s p) := by
  unfold State.startNeg
  try dsimp only
  repeat' (first | with_reducible assumption | with_reducible apply State.setArgPort_keeps | with_reducible apply State.setPortState_keeps | with_reducible apply State.sendSet_keeps | with_reducible apply State.setReg_keeps | with_reducible apply Keeps.fold | intro _ | split)
theorem State.takeSet_keeps {b0 : State} {s : State} (p : Nat) (ws : List Word) (k_ : Keeps b0 s) : Keeps b0 (State.takeSet s p ws) := by
  unfold State.takeSet
  try dsimp only
  repeat' (first | with_reducible assumption | with_reducible apply State.setArgPort_keeps | with_reducible apply State.raiseBit_keeps | with_reducible apply State.setFlag_keeps | with_reducible apply State.setFld_keeps | with_reducible apply State.setPortState_keeps | with_reducible apply State.sendSet_keeps | with_reducible apply Keeps.fold | intro _ | split)
theorem State.judgePort_keeps {b0 : State} {s : State} (p : Nat) (k_ : Keeps b0 s) : Keeps b0 (State.judgePort s p) := by
  unfold State.judgePort
  try dsimp only
  repeat' (first | with_reducible assumption | with_reducible apply State.setArgPort_keeps)
theorem State.addPlan_keeps {b0 : State} {s : State} (q : RingPlan) (k_ : Keeps b0 s) : Keeps b0 (State.addPlan s q) := by
  unfold State.addPlan
  try dsimp only
  repeat' (first | with_reducible assumption | with_reducible apply Keeps.fold | intro _ | split | with_reducible apply Keeps.spoil | with_reducible apply Keeps.rest)
theorem State.planFrom_keeps {b0 : State} {s : State} (origin : Word) (failed : Word) (lapse : Bool) (k_ : Keeps b0 s) : Keeps b0 (State.planFrom s origin failed lapse) := by
  unfold State.planFrom
  try dsimp only
  repeat' (first | with_reducible assumption | with_reducible apply State.addPlan_keeps)
theorem State.castCell_keeps {b0 : State} {s : State} (kind r sub : Nat) (payload : List Word) (k_ : Keeps b0 s) : Keeps b0 (State.castCell s kind r sub payload) := by
  unfold State.castCell
  try dsimp only
  repeat' (first | with_reducible assumption | with_reducible apply State.sendCell_keeps | with_reducible apply Keeps.fold | intro _ | split)
theorem State.passOn_keeps {b0 : State} {s : State} (p : Nat) (c : Cell) (k_ : Keeps b0 s) : Keeps b0 (State.passOn s p c) := by
  unfold State.passOn
  try dsimp only
  repeat' (first | with_reducible assumption | with_reducible apply State.forwardCell_keeps | with_reducible apply Keeps.fold | intro _ | split)
theorem State.sendOne_keeps {b0 : State} {s : State} (p kind sub : Nat) (payload : List Word) (k_ : Keeps b0 s) : Keeps b0 (State.sendOne s p kind sub payload) := by
  unfold State.sendOne
  try dsimp only
  repeat' (first | with_reducible assumption | with_reducible apply State.sendCell_keeps)
theorem State.castLane_keeps {b0 : State} {s : State} (p : Nat) (k_ : Keeps b0 s) : Keeps b0 (State.castLane s p) := by
  unfold State.castLane
  try dsimp only
  repeat' (first | with_reducible assumption | with_reducible apply State.castCell_keeps)
theorem State.noteLink_keeps {b0 : State} {s : State} (r pos p cap : Nat) (origin : Word) (k_ : Keeps b0 s) : Keeps b0 (State.noteLink s r pos p cap origin) := by
  unfold State.noteLink
  try dsimp only
  repeat' (first | with_reducible assumption | with_reducible apply State.planFrom_keeps | with_reducible apply Keeps.fold | intro _ | split | with_reducible apply Keeps.spoil | with_reducible apply Keeps.rest)
theorem State.ringFailed_keeps {b0 : State} {s : State} (r : Nat) (k_ : Keeps b0 s) : Keeps b0 (State.ringFailed s r) := by
  unfold State.ringFailed
  try dsimp only
  repeat' (first | with_reducible assumption | with_reducible apply State.castCell_keeps | with_reducible apply State.planFrom_keeps | with_reducible apply Keeps.fold | intro _ | split)
theorem State.portDown_keeps {b0 : State} {s : State} (p : Nat) (k_ : Keeps b0 s) : Keeps b0 (State.portDown s p) := by
  unfold State.portDown
  try dsimp only
  repeat' (first | with_reducible assumption | with_reducible apply State.bypass_keeps | with_reducible apply State.setArgPort_keeps | with_reducible apply State.setFlag_keeps | with_reducible apply State.ringFailed_keeps | with_reducible apply State.setReg_keeps | with_reducible apply Keeps.fold | intro _ | split)
theorem State.portUp_keeps {b0 : State} {s : State} (p rate : Nat) (lanes : Word) (k_ : Keeps b0 s) : Keeps b0 (State.portUp s p rate lanes) := by
  unfold State.portUp
  try dsimp only
  repeat' (first | with_reducible assumption | with_reducible apply State.judgePort_keeps | with_reducible apply State.setFld_keeps | with_reducible apply State.setPortState_keeps | with_reducible apply State.setRingState_keeps | with_reducible apply State.setReg_keeps | with_reducible apply Keeps.fold | intro _ | split)
theorem State.enterRing_keeps {b0 : State} {s : State} (r : Nat) (k_ : Keeps b0 s) : Keeps b0 (State.enterRing s r) := by
  unfold State.enterRing
  try dsimp only
  repeat' (first | with_reducible assumption | with_reducible apply State.voteBit_keeps | with_reducible apply State.startNeg_keeps | with_reducible apply State.setRingState_keeps | with_reducible apply Keeps.fold | intro _ | split | with_reducible apply Keeps.spoil | with_reducible apply Keeps.rest)
theorem State.leaveRing_keeps {b0 : State} {s : State} (r : Nat) (k_ : Keeps b0 s) : Keeps b0 (State.leaveRing s r) := by
  unfold State.leaveRing
  try dsimp only
  repeat' (first | with_reducible assumption | with_reducible apply State.voteBit_keeps | with_reducible apply State.bypass_keeps | with_reducible apply Keeps.fold | intro _ | split)
theorem State.setEntryState_keeps {b0 : State} {s : State} (q v : Nat) (k_ : Keeps b0 s) : Keeps b0 (State.setEntryState s q v) := by
  unfold State.setEntryState
  try dsimp only
  repeat' (first | with_reducible assumption | with_reducible apply State.putWord_keeps)
theorem State.cacheAdd_keeps {b0 : State} {s : State} (q : Nat) (k_ : Keeps b0 s) : Keeps b0 (State.cacheAdd s q) := by
  unfold State.cacheAdd
  try dsimp only
  repeat' (first | with_reducible assumption | with_reducible apply State.requestStore_keeps | with_reducible apply Keeps.fold | intro _ | split | with_reducible apply Keeps.spoil | with_reducible apply Keeps.rest)
theorem State.sendAccept_keeps {b0 : State} {s : State} (r q : Nat) (yes : Bool) (k_ : Keeps b0 s) : Keeps b0 (State.sendAccept s r q yes) := by
  unfold State.sendAccept
  try dsimp only
  repeat' (first | with_reducible assumption | with_reducible apply State.sendOne_keeps)
theorem State.judgeEntry_keeps {b0 : State} {s : State} (r q : Nat) (yes : Bool) (k_ : Keeps b0 s) : Keeps b0 (State.judgeEntry s r q yes) := by
  unfold State.judgeEntry
  try dsimp only
  repeat' (first | with_reducible assumption | with_reducible apply State.setEntryState_keeps | with_reducible apply State.sendAccept_keeps | with_reducible apply State.cacheAdd_keeps | with_reducible apply Keeps.fold | intro _ | split)
theorem State.takeReport_keeps {b0 : State} {s : State} (r q : Nat) (ws : List Word) (k_ : Keeps b0 s) : Keeps b0 (State.takeReport s r q ws) := by
  unfold State.takeReport
  try dsimp only
  repeat' (first | with_reducible assumption | with_reducible apply State.setEntryState_keeps | with_reducible apply State.putWords_keeps | with_reducible apply State.judgeEntry_keeps | with_reducible apply State.raiseBit_keeps | with_reducible apply State.setEv_keeps | with_reducible apply Keeps.fold | intro _ | split)
theorem State.discover_keeps {b0 : State} {s : State} (r : Nat) (k_ : Keeps b0 s) : Keeps b0 (State.discover s r) := by
  unfold State.discover
  try dsimp only
  repeat' (first | with_reducible assumption | with_reducible apply State.setFld_keeps | with_reducible apply State.sendOne_keeps | with_reducible apply State.setRingState_keeps | with_reducible apply Keeps.fold | intro _ | split | with_reducible apply Keeps.spoil | with_reducible apply Keeps.rest)
theorem State.clearRoster_keeps {b0 : State} {s : State} (r n e w : Nat) (seg : Bool) (k_ : Keeps b0 s) : Keeps b0 (State.clearRoster s r n e w seg) := by
  unfold State.clearRoster
  try dsimp only
  repeat' (first | with_reducible assumption | with_reducible apply State.setEntryState_keeps | with_reducible apply Keeps.fold | intro _ | split)
theorem State.commitRing_keeps {b0 : State} {s : State} (r n e w : Nat) (seg : Bool) (k_ : Keeps b0 s) : Keeps b0 (State.commitRing s r n e w seg) := by
  unfold State.commitRing
  try dsimp only
  repeat' (first | with_reducible assumption | with_reducible apply State.castCell_keeps | with_reducible apply State.raiseBit_keeps | with_reducible apply State.planFrom_keeps | with_reducible apply State.setFld_keeps | with_reducible apply State.setRingState_keeps | with_reducible apply State.clearRoster_keeps | with_reducible apply Keeps.fold | intro _ | split | with_reducible apply Keeps.spoil | with_reducible apply Keeps.rest)
theorem State.takeDiscover_keeps {b0 : State} {s : State} (p : Nat) (c : Cell) (k_ : Keeps b0 s) : Keeps b0 (State.takeDiscover s p c) := by
  unfold State.takeDiscover
  try dsimp only
  repeat' (first | with_reducible assumption | with_reducible apply State.forwardCell_keeps | with_reducible apply State.setFlag_keeps | with_reducible apply State.setFld_keeps | with_reducible apply State.commitRing_keeps | with_reducible apply State.setRingState_keeps | with_reducible apply Keeps.fold | intro _ | split)
theorem State.takeCommit_keeps {b0 : State} {s : State} (p : Nat) (c : Cell) (k_ : Keeps b0 s) : Keeps b0 (State.takeCommit s p c) := by
  unfold State.takeCommit
  try dsimp only
  repeat' (first | with_reducible assumption | with_reducible apply State.setFlag_keeps | with_reducible apply State.planFrom_keeps | with_reducible apply State.setFld_keeps | with_reducible apply State.sendOne_keeps | with_reducible apply State.setRingState_keeps | with_reducible apply Keeps.fold | intro _ | split | with_reducible apply Keeps.spoil | with_reducible apply Keeps.rest)
theorem State.sendStatus_keeps {b0 : State} {s : State} (k_ : Keeps b0 s) : Keeps b0 (State.sendStatus s) := by
  unfold State.sendStatus
  try dsimp only
  repeat' (first | with_reducible assumption | with_reducible apply State.sendOne_keeps | with_reducible apply Keeps.fold | intro _ | split)
theorem State.takeStatus_keeps {b0 : State} {s : State} (r q : Nat) (ws : List Word) (k_ : Keeps b0 s) : Keeps b0 (State.takeStatus s r q ws) := by
  unfold State.takeStatus
  try dsimp only
  repeat' (first | with_reducible assumption | with_reducible apply State.putWords_keeps | with_reducible apply State.raiseBit_keeps | with_reducible apply Keeps.fold | intro _ | split | with_reducible apply Keeps.spoil | with_reducible apply Keeps.rest)
theorem State.closeSum_keeps {b0 : State} {s : State} (i : Nat) (k_ : Keeps b0 s) : Keeps b0 (State.closeSum s i) := by
  unfold State.closeSum
  try dsimp only
  repeat' (first | with_reducible assumption | with_reducible apply Keeps.fold | intro _ | split | with_reducible apply Keeps.spoil | with_reducible apply Keeps.rest)
theorem State.judgeSum_keeps {b0 : State} {s : State} (r i : Nat) (x : Option Nat × Option Nat) (k_ : Keeps b0 s) : Keeps b0 (State.judgeSum s r i x) := by
  unfold State.judgeSum
  try dsimp only
  repeat' (first | with_reducible assumption | with_reducible apply State.closeSum_keeps | with_reducible apply State.raiseBit_keeps | with_reducible apply State.bump_keeps | with_reducible apply Keeps.fold | intro _ | split)
theorem State.lateSum_keeps {b0 : State} {s : State} (k_ : Keeps b0 s) : Keeps b0 (State.lateSum s) := by
  unfold State.lateSum
  try dsimp only
  repeat' (first | with_reducible assumption | with_reducible apply State.bmeCount_keeps | with_reducible apply Keeps.fold | intro _ | split)
theorem State.putSide_keeps {b0 : State} {s : State} (side : Nat) (c : Cell) (k_ : Keeps b0 s) : Keeps b0 (State.putSide s side c) := by
  unfold State.putSide
  try dsimp only
  repeat' (first | with_reducible assumption | with_reducible apply State.putSums_keeps)
theorem State.settleSum_keeps {b0 : State} {s : State} (r i : Nat) (y : Option Nat × Option Nat) (k_ : Keeps b0 s) : Keeps b0 (State.settleSum s r i y) := by
  unfold State.settleSum
  try dsimp only
  repeat' (first | with_reducible assumption | with_reducible apply State.judgeSum_keeps | with_reducible apply Keeps.fold | intro _ | split | with_reducible apply Keeps.spoil | with_reducible apply Keeps.rest)
theorem State.headSum_keeps {b0 : State} {s : State} (p : Nat) (c : Cell) (fate : CellFate) (k_ : Keeps b0 s) : Keeps b0 (State.headSum s p c fate) := by
  unfold State.headSum
  try dsimp only
  repeat' (first | with_reducible assumption | with_reducible apply State.putSide_keeps | with_reducible apply State.settleSum_keeps | with_reducible apply State.lateSum_keeps | with_reducible apply Keeps.fold | intro _ | split)
theorem State.markVoid_keeps {b0 : State} {s : State} (p : Nat) (v : Option Nat) (k_ : Keeps b0 s) : Keeps b0 (State.markVoid s p v) := by
  unfold State.markVoid
  try dsimp only
  repeat' (first | with_reducible assumption | with_reducible apply State.setArgPort_keeps)
theorem State.memberSum_keeps {b0 : State} {s : State} (p : Nat) (c : Cell) (fate : CellFate) (k_ : Keeps b0 s) : Keeps b0 (State.memberSum s p c fate) := by
  unfold State.memberSum
  try dsimp only
  repeat' (first | with_reducible assumption | with_reducible apply State.forwardCell_keeps | with_reducible apply State.closeSum_keeps | with_reducible apply State.bump_keeps | with_reducible apply State.bmeCount_keeps | with_reducible apply State.markVoid_keeps | with_reducible apply State.lateSum_keeps | with_reducible apply State.sendCell_keeps | with_reducible apply Keeps.fold | intro _ | split | with_reducible apply Keeps.spoil | with_reducible apply Keeps.rest)
theorem State.sumDeadline_keeps {b0 : State} {s : State} (r : Nat) (w2 : Word) (start num : Nat) (k_ : Keeps b0 s) : Keeps b0 (State.sumDeadline s r w2 start num) := by
  unfold State.sumDeadline
  try dsimp only
  repeat' (first | with_reducible assumption | with_reducible apply State.closeSum_keeps | with_reducible apply State.settleSum_keeps | with_reducible apply State.sendCell_keeps | with_reducible apply Keeps.fold | intro _ | split)
theorem State.tsPeriod_keeps {b0 : State} {s : State} (k_ : Keeps b0 s) : Keeps b0 (State.tsPeriod s) := by
  unfold State.tsPeriod
  try dsimp only
  repeat' (first | with_reducible assumption | with_reducible apply State.holdover_keeps | with_reducible apply State.raiseBit_keeps | with_reducible apply State.sendOne_keeps | with_reducible apply Keeps.fold | intro _ | split | with_reducible apply Keeps.spoil | with_reducible apply Keeps.rest)
theorem State.takeSync_keeps {b0 : State} {s : State} (p : Nat) (c : Cell) (k_ : Keeps b0 s) : Keeps b0 (State.takeSync s p c) := by
  unfold State.takeSync
  try dsimp only
  repeat' (first | with_reducible assumption | with_reducible apply State.sendOne_keeps | with_reducible apply Keeps.fold | intro _ | split | with_reducible apply Keeps.spoil | with_reducible apply Keeps.rest)
theorem State.takeResp_keeps {b0 : State} {s : State} (p : Nat) (c : Cell) (k_ : Keeps b0 s) : Keeps b0 (State.takeResp s p c) := by
  unfold State.takeResp
  try dsimp only
  repeat' (first | with_reducible assumption | with_reducible apply State.measure_keeps | with_reducible apply Keeps.fold | intro _ | split | with_reducible apply Keeps.spoil | with_reducible apply Keeps.rest)
theorem State.landPlan_keeps {b0 : State} {s : State} (x : Int) (k_ : Keeps b0 s) : Keeps b0 (State.landPlan s x) := by
  unfold State.landPlan
  try dsimp only
  repeat' (first | with_reducible assumption | with_reducible apply State.castCell_keeps | with_reducible apply State.raiseBit_keeps | with_reducible apply State.setReg_keeps | with_reducible apply Keeps.fold | intro _ | split | with_reducible apply Keeps.spoil | with_reducible apply Keeps.rest)
theorem State.headOut_keeps {b0 : State} {s : State} (d l : Nat) (mk : Nat → Bool → Cell) (k_ : Keeps b0 s) : Keeps b0 (State.headOut s d l mk) := by
  unfold State.headOut
  try dsimp only
  repeat' (first | with_reducible assumption | with_reducible apply State.sendCell_keeps | with_reducible apply Keeps.fold | intro _ | split)
theorem State.castData_keeps {b0 : State} {s : State} (c l sym slot frame start n w : Nat) (comp : Bool) (data : List Byte) (k_ : Keeps b0 s) : Keeps b0 (State.castData s c l sym slot frame start n w comp data) := by
  unfold State.castData
  try dsimp only
  repeat' (first | with_reducible assumption | with_reducible apply State.headOut_keeps | with_reducible apply Keeps.fold | intro _)
theorem State.castSects_keeps {b0 : State} {s : State} (dl : Bool) (c l sym slot frame : Nat) (raw : List Byte) (k_ : Keeps b0 s) : Keeps b0 (State.castSects s dl c l sym slot frame raw) := by
  unfold State.castSects
  try dsimp only
  repeat' (first | with_reducible assumption | with_reducible apply State.headOut_keeps | with_reducible apply Keeps.fold | intro _)
theorem State.writeRingCtl_keeps {b0 : State} {s : State} (r : Nat) (val mask : Word) (k_ : Keeps b0 s) : Keeps b0 (State.writeRingCtl s r val mask) := by
  unfold State.writeRingCtl
  try dsimp only
  repeat' (first | with_reducible assumption | with_reducible apply State.discover_keeps | with_reducible apply State.enterRing_keeps | with_reducible apply State.leaveRing_keeps | with_reducible apply State.writeFields_keeps | with_reducible apply Keeps.fold | intro _ | split)
theorem State.writePortCtl_keeps {b0 : State} {s : State} (p : Nat) (val mask : Word) (k_ : Keeps b0 s) : Keeps b0 (State.writePortCtl s p val mask) := by
  unfold State.writePortCtl
  try dsimp only
  repeat' (first | with_reducible assumption | with_reducible apply State.setArgPort_keeps | with_reducible apply State.setPortState_keeps | with_reducible apply State.writeFields_keeps | with_reducible apply Keeps.fold | intro _ | split)
theorem State.writeAccept_keeps {b0 : State} {s : State} (val : Word) (k_ : Keeps b0 s) : Keeps b0 (State.writeAccept s val) := by
  unfold State.writeAccept
  try dsimp only
  repeat' (first | with_reducible assumption | with_reducible apply State.judgeEntry_keeps | with_reducible apply Keeps.fold | intro _ | split)
theorem State.trainDone_keeps {b0 : State} {s : State} (p : Nat) (lanes : List (Nat × Word)) (k_ : Keeps b0 s) : Keeps b0 (State.trainDone s p lanes) := by
  unfold State.trainDone
  try dsimp only
  repeat' (first | with_reducible assumption | with_reducible apply State.portDown_keeps | with_reducible apply State.setArgPort_keeps | with_reducible apply State.raiseBit_keeps | with_reducible apply State.setFlag_keeps | with_reducible apply State.setFld_keeps | with_reducible apply State.castLane_keeps | with_reducible apply State.portUp_keeps | with_reducible apply State.setReg_keeps | with_reducible apply State.noteLink_keeps | with_reducible apply Keeps.fold | intro _ | split)
theorem State.recvCell_some {b0 : State} {s t : State} {p : Nat} {c : Cell} {f : CellFate} (he : s.recvCell p c = some (t, f))
    (h : Keeps b0 s) : Keeps b0 t := by
  unfold State.recvCell at he
  split at he
  · cases he
  · extract_lets r q gap s1 s2 at he
    have h2 : Keeps b0 s2 := by
      dsimp only [s2]
      split
      · exact State.raiseBit_keeps _ _ (State.bump_keeps _ (State.setArgPort_keeps _ _ h))
      · exact State.setArgPort_keeps _ _ h
    clear_value s2
    split at he
    · cases he
      exact State.raiseBit_keeps _ _ (State.bump_keeps _ h2)
    · split at he
      · cases he
        exact State.bump_keeps _ h2
      · cases he
        exact h2
theorem State.onCell_keeps {b0 : State} {s : State} (p : Nat) (c : Cell) (kind : Nat) (sub : Option Nat) (good : State → State)
    (bad : State → CellFate → State) (hg : ∀ t, Keeps b0 t → Keeps b0 (good t)) (hb : ∀ t f, Keeps b0 t → Keeps b0 (bad t f))
    (h : Keeps b0 s) : Keeps b0 (s.onCell p c kind sub good bad) := by
  unfold State.onCell
  refine Keeps.cond ?_ h
  split
  · exact h
  · exact hg _ (State.recvCell_some (by assumption) h)
  · exact hb _ _ (State.recvCell_some (by assumption) h)
theorem State.outward_keeps {b0 : State} {s : State} (p : Nat) (c : Cell) (void : Bool) (k_ : Keeps b0 s) : Keeps b0 (State.outward s p c void) := by
  unfold State.outward
  try dsimp only
  repeat' (first | with_reducible assumption | with_reducible apply State.forwardCell_keeps | with_reducible apply Keeps.fold | intro _ | split)
theorem State.voidOn_keeps {b0 : State} {s : State} (p : Nat) (c : Cell) (k_ : Keeps b0 s) : Keeps b0 (State.voidOn s p c) := by
  unfold State.voidOn
  try dsimp only
  repeat' (first | with_reducible assumption | with_reducible apply State.forwardCell_keeps | with_reducible apply Keeps.fold | intro _ | split)
theorem State.loadCache_keeps {b0 : State} {s : State} (k_ : Keeps b0 s) : Keeps b0 (State.loadCache s) := by
  unfold State.loadCache
  try dsimp only
  repeat' (first | with_reducible assumption | with_reducible apply State.loadRecord_keeps_2 | with_reducible refine State.loadRecord_keeps_2_eq (by assumption) ?_ | with_reducible apply Keeps.fold | intro _ | split | with_reducible apply Keeps.spoil | with_reducible apply Keeps.rest)

theorem State.writeLaneCtl_keeps {b0 : State} {s : State} (l : Nat) (val mask : Word) (k_ : Keeps b0 s) : Keeps b0 (State.writeLaneCtl s l val mask) := by
  unfold State.writeLaneCtl
  try dsimp only
  repeat' (first | with_reducible assumption | with_reducible apply State.send_keeps | with_reducible apply State.raiseBit_keeps | with_reducible apply State.bump_keeps | with_reducible apply State.setFlag_keeps | with_reducible apply State.writeFields_keeps | with_reducible apply Keeps.fold | intro _ | split)
theorem State.writeTxeq_keeps {b0 : State} {s : State} (l : Nat) (val mask : Word) (k_ : Keeps b0 s) : Keeps b0 (State.writeTxeq s l val mask) := by
  unfold State.writeTxeq
  try dsimp only
  repeat' (first | with_reducible assumption | with_reducible apply State.writeFields_keeps | with_reducible apply Keeps.fold | intro _ | split)
theorem State.writeLaneBits_keeps {b0 : State} {s : State} (l : Nat) (val mask : Word) (k_ : Keeps b0 s) : Keeps b0 (State.writeLaneBits s l val mask) := by
  unfold State.writeLaneBits
  try dsimp only
  repeat' (first | with_reducible assumption | with_reducible apply State.setReg_keeps | with_reducible apply Keeps.fold | intro _ | split)
theorem State.lolMarks_keeps {b0 : State} {s : State} (l cause : Nat) (k_ : Keeps b0 s) : Keeps b0 (State.lolMarks s l cause) := by
  unfold State.lolMarks
  try dsimp only
  repeat' (first | with_reducible assumption | with_reducible apply State.raiseBit_keeps | with_reducible apply State.bump_keeps | with_reducible apply State.setFlag_keeps | with_reducible apply State.setFld_keeps)
theorem State.narrow_keeps {b0 : State} {s : State} (p : Nat) (lanes : Word) (k_ : Keeps b0 s) : Keeps b0 (State.narrow s p lanes) := by
  unfold State.narrow
  try dsimp only
  repeat' (first | with_reducible assumption | with_reducible apply State.portDown_keeps | with_reducible apply State.send_keeps | with_reducible apply State.setArgPort_keeps | with_reducible apply State.setPortState_keeps | with_reducible apply Keeps.fold | intro _ | split)
theorem State.ringLaneLost_keeps {b0 : State} {s : State} (l cause : Nat) (k_ : Keeps b0 s) : Keeps b0 (State.ringLaneLost s l cause) := by
  unfold State.ringLaneLost
  try dsimp only
  repeat' (first | with_reducible assumption | with_reducible apply State.lolMarks_keeps | with_reducible apply State.narrow_keeps | with_reducible apply Keeps.fold | intro _ | split)

theorem State.zeroThread_keeps {b0 : State} {s : State} (i : Nat) (h : Keeps b0 s) : Keeps b0 (s.zeroThread i) :=
  h.parts rfl (fun q => by unfold State.zeroThread; dsimp only; apply swf_skeep; exact q) id id id id id id
theorem State.setRun_keeps {b0 : State} {s : State} (i : Nat) (b : Bool) (k_ : Keeps b0 s) : Keeps b0 (State.setRun s i b) := by
  unfold State.setRun
  try dsimp only
  repeat' (first | with_reducible assumption | with_reducible apply State.setFlag_keeps)
theorem State.setPc_keeps {b0 : State} {s : State} (i v : Nat) (k_ : Keeps b0 s) : Keeps b0 (State.setPc s i v) := by
  unfold State.setPc
  try dsimp only
  repeat' (first | with_reducible assumption | with_reducible apply State.setFld_keeps)
theorem State.startThread_keeps {b0 : State} {s : State} (i : Nat) (k_ : Keeps b0 s) : Keeps b0 (State.startThread s i) := by
  unfold State.startThread
  try dsimp only
  repeat' (first | with_reducible assumption | with_reducible apply State.setRun_keeps | with_reducible apply State.setThState_keeps | with_reducible apply State.setThread_keeps | with_reducible apply State.setReg_keeps)
theorem State.resumeThread_keeps {b0 : State} {s : State} (i : Nat) (k_ : Keeps b0 s) : Keeps b0 (State.resumeThread s i) := by
  unfold State.resumeThread
  try dsimp only
  repeat' (first | with_reducible assumption | with_reducible apply State.setRun_keeps | with_reducible apply State.setThState_keeps | with_reducible apply State.setThread_keeps)
theorem State.debugStop_keeps {b0 : State} {s : State} (i : Nat) (byBp : Bool) (k_ : Keeps b0 s) : Keeps b0 (State.debugStop s i byBp) := by
  unfold State.debugStop
  try dsimp only
  repeat' (first | with_reducible assumption | with_reducible apply State.traceTh_keeps | with_reducible apply State.setRun_keeps | with_reducible apply State.setThState_keeps | with_reducible apply State.raiseBit_keeps | with_reducible apply State.setThread_keeps | with_reducible apply Keeps.fold | intro _ | split)
theorem State.faultThread_keeps {b0 : State} {s : State} (i cause : Nat) (k_ : Keeps b0 s) : Keeps b0 (State.faultThread s i cause) := by
  unfold State.faultThread
  try dsimp only
  repeat' (first | with_reducible assumption | with_reducible apply State.cancelThread_keeps | with_reducible apply State.traceTh_keeps | with_reducible apply State.setRun_keeps | with_reducible apply State.setThState_keeps | with_reducible apply State.raiseBit_keeps | with_reducible apply State.setThread_keeps | with_reducible apply State.setReg_keeps | with_reducible apply Keeps.fold | intro _ | split)
theorem State.dropThreadVotes_keeps {b0 : State} {s : State} (i : Nat) (k_ : Keeps b0 s) : Keeps b0 (State.dropThreadVotes s i) := by
  unfold State.dropThreadVotes
  try dsimp only
  repeat' (first | with_reducible assumption | with_reducible apply State.setVotes_keeps | with_reducible apply State.powerEval_keeps | with_reducible apply State.setReg_keeps | with_reducible apply Keeps.fold | intro _)
theorem State.resetThread_keeps {b0 : State} {s : State} (i : Nat) (k_ : Keeps b0 s) : Keeps b0 (State.resetThread s i) := by
  unfold State.resetThread
  try dsimp only
  repeat' (first | with_reducible assumption | with_reducible apply State.cancelThread_keeps | with_reducible apply State.setRun_keeps | with_reducible apply State.setThState_keeps | with_reducible apply State.setThread_keeps | with_reducible apply State.dropThreadVotes_keeps | with_reducible apply State.zeroThread_keeps)
theorem State.freshStart_keeps {b0 : State} {s : State} (i pc : Nat) (k_ : Keeps b0 s) : Keeps b0 (State.freshStart s i pc) := by
  unfold State.freshStart
  try dsimp only
  repeat' (first | with_reducible assumption | with_reducible apply State.setPc_keeps | with_reducible apply State.startThread_keeps | with_reducible apply State.zeroThread_keeps)
theorem State.noteWrite_keeps {b0 : State} {s : State} (a n : Nat) (k_ : Keeps b0 s) : Keeps b0 (State.noteWrite s a n) := by
  unfold State.noteWrite
  try dsimp only
  repeat' (first | with_reducible assumption | with_reducible apply State.setReg_keeps | with_reducible apply Keeps.fold | intro _ | split | with_reducible apply Keeps.spoil | with_reducible apply Keeps.rest)
theorem State.windowWrite_keeps {b0 : State} {s : State} (off : Nat) (data : List (Option Byte)) (k_ : Keeps b0 s) : Keeps b0 (State.windowWrite s off data) := by
  unfold State.windowWrite
  try dsimp only
  repeat' (first | with_reducible assumption | with_reducible apply State.writeMem_keeps | with_reducible apply State.noteWrite_keeps)

theorem State.secRefuse_keeps {b0 : State} {s : State} (k_ : Keeps b0 s) : Keeps b0 (State.secRefuse s) := by
  unfold State.secRefuse
  try dsimp only
  repeat' (first | with_reducible assumption | with_reducible apply State.raiseBit_keeps | with_reducible apply State.bump_keeps)
theorem State.writeOtpCtl_keeps {b0 : State} {s : State} (val mask : Word) (k_ : Keeps b0 s) : Keeps b0 (State.writeOtpCtl s val mask) := by
  unfold State.writeOtpCtl
  try dsimp only
  repeat' (first | with_reducible assumption | with_reducible apply State.secRefuse_keeps | with_reducible apply Keeps.fold | intro _ | split | with_reducible apply Keeps.spoil | with_reducible apply Keeps.rest)
theorem State.regulatoryChanged_keeps {b0 : State} {s : State} (k_ : Keeps b0 s) : Keeps b0 (State.regulatoryChanged s) := by
  unfold State.regulatoryChanged
  try dsimp only
  repeat' (first | with_reducible assumption | with_reducible apply State.newFrequency_keeps | with_reducible apply Keeps.fold | intro _ | split)
theorem State.blow_keeps {b0 : State} {s : State} (w : Nat) (v : Word) (h : Keeps b0 s) : Keeps b0 (s.blow w v) :=
  h.parts rfl id id id id (swf_sset _ _ _ _) (fun q => swf_sset (fun _ => Ecc.good) s.nvmEcc (otpKey w) .good q) id
theorem State.reshadow_keeps {b0 : State} {s : State} (w : Nat) (k_ : Keeps b0 s) : Keeps b0 (State.reshadow s w) := by
  unfold State.reshadow
  try dsimp only
  repeat' (first | with_reducible assumption | with_reducible apply State.regulatoryChanged_keeps | with_reducible apply State.setShadow_keeps | with_reducible apply Keeps.fold | intro _ | split)
theorem State.senseWord_keeps {b0 : State} {s : State} (w : Nat) (k_ : Keeps b0 s) : Keeps b0 (State.senseWord s w) := by
  unfold State.senseWord
  try dsimp only
  repeat' (first | with_reducible assumption | with_reducible apply State.setShadow_keeps | with_reducible apply Keeps.fold | intro _ | split | with_reducible apply Keeps.spoil | with_reducible apply Keeps.rest)
theorem State.readOver_keeps {b0 : State} {s : State} (a n : Nat) (k_ : Keeps b0 s) : Keeps b0 (State.readOver s a n) := by
  unfold State.readOver
  try dsimp only
  repeat' (first | with_reducible assumption | with_reducible apply State.readDev_keeps_2 | with_reducible refine State.readDev_keeps_2_eq (by assumption) ?_ | with_reducible apply Keeps.fold)
theorem State.verifyReads_keeps {b0 : State} {s : State} (sig : Bool) (k_ : Keeps b0 s) : Keeps b0 (State.verifyReads s sig) := by
  unfold State.verifyReads
  try dsimp only
  repeat' (first | with_reducible assumption | with_reducible apply State.readOver_keeps | with_reducible apply Keeps.fold | intro _ | split)
theorem State.autoStart_keeps {b0 : State} {s : State} (i : Nat) (k_ : Keeps b0 s) : Keeps b0 (State.autoStart s i) := by
  unfold State.autoStart
  try dsimp only
  repeat' (first | with_reducible assumption | with_reducible apply State.freshStart_keeps | with_reducible apply State.setReg_keeps | with_reducible apply Keeps.fold | intro _ | split)
theorem State.setBootState_keeps {b0 : State} {s : State} (v : Nat) (k_ : Keeps b0 s) : Keeps b0 (State.setBootState s v) := by
  unfold State.setBootState
  try dsimp only
  repeat' (first | with_reducible assumption | with_reducible apply State.setFld_keeps)
theorem State.imageOk_keeps {b0 : State} {s : State} (k_ : Keeps b0 s) : Keeps b0 (State.imageOk s) := by
  unfold State.imageOk
  try dsimp only
  repeat' (first | with_reducible assumption | with_reducible apply State.autoStart_keeps | with_reducible apply State.setBootState_keeps | with_reducible apply State.setFld_keeps | with_reducible apply State.setReg_keeps | with_reducible apply Keeps.fold | intro _ | split | with_reducible apply Keeps.spoil | with_reducible apply Keeps.rest)
theorem State.bootNext_keeps {b0 : State} {s : State} (k_ : Keeps b0 s) : Keeps b0 (State.bootNext s) := by
  unfold State.bootNext
  try dsimp only
  repeat' (first | with_reducible assumption | with_reducible apply State.setBootState_keeps | with_reducible apply State.raiseBit_keeps | with_reducible apply Keeps.fold | intro _ | split | with_reducible apply Keeps.spoil | with_reducible apply Keeps.rest)
theorem State.imageBad_keeps {b0 : State} {s : State} (code : Nat) (k_ : Keeps b0 s) : Keeps b0 (State.imageBad s code) := by
  unfold State.imageBad
  try dsimp only
  repeat' (first | with_reducible assumption | with_reducible apply State.raiseBit_keeps | with_reducible apply State.setFld_keeps | with_reducible apply State.bootNext_keeps)
theorem State.startVerify_keeps {b0 : State} {s : State} (job : Nat) (k_ : Keeps b0 s) : Keeps b0 (State.startVerify s job) := by
  unfold State.startVerify
  try dsimp only
  repeat' (first | with_reducible assumption | with_reducible apply State.setBootState_keeps | with_reducible apply State.setFlag_keeps | with_reducible apply Keeps.fold | intro _ | split | with_reducible apply Keeps.spoil | with_reducible apply Keeps.rest)
theorem State.endJob_keeps {b0 : State} {s : State} (k_ : Keeps b0 s) : Keeps b0 (State.endJob s) := by
  unfold State.endJob
  try dsimp only
  repeat' (first | with_reducible assumption | with_reducible apply State.setFlag_keeps | with_reducible apply Keeps.fold | intro _ | split | with_reducible apply Keeps.spoil | with_reducible apply Keeps.rest)
theorem State.placeBytes_keeps {b0 : State} {s : State} (o : Nat) (bs : List Byte) (h : Keeps b0 s) : Keeps b0 (s.placeBytes o bs) := by
  unfold State.placeBytes
  extract_lets hp s1 rest at0
  have h1 : Keeps b0 s1 := State.putBytes_keeps _ _ h
  clear_value s1 rest
  split
  · refine Keeps.foldBy (fun a : State × Nat => a.1) ?_ _ h1
    intro a r ha
    dsimp only
    split
    · refine State.noteWrite_keeps _ _ (Keeps.fold ?_ _ (State.putBytes_keeps _ _ ha))
      intro u w hu
      exact State.setEcc_keeps _ _ hu
    · exact ha
  · exact h1
theorem State.bootBegin_keeps {b0 : State} {s : State} (k_ : Keeps b0 s) : Keeps b0 (State.bootBegin s) := by
  unfold State.bootBegin
  try dsimp only
  repeat' (first | with_reducible assumption | with_reducible apply State.setBootState_keeps | with_reducible apply State.raiseBit_keeps | with_reducible apply Keeps.fold | intro _ | split | with_reducible apply Keeps.spoil | with_reducible apply Keeps.rest)
theorem State.ringBoot_keeps {b0 : State} {s : State} (k_ : Keeps b0 s) : Keeps b0 (State.ringBoot s) := by
  unfold State.ringBoot
  try dsimp only
  repeat' (first | with_reducible assumption | with_reducible apply State.enterRing_keeps | with_reducible apply State.setFld_keeps | with_reducible apply Keeps.fold | intro _ | split)
theorem State.bootHook_keeps {b0 : State} {s : State} (k_ : Keeps b0 s) : Keeps b0 (State.bootHook s) := by
  unfold State.bootHook
  try dsimp only
  repeat' (first | with_reducible assumption | with_reducible apply State.bootBegin_keeps | with_reducible apply State.ringBoot_keeps | with_reducible apply Keeps.fold | intro _ | split)
theorem State.blowSvn_keeps {b0 : State} (n : Nat) {s : State} (h : Keeps b0 s) : Keeps b0 (s.blowSvn n) := by
  induction n with
  | zero => exact h
  | succ n ih =>
    unfold State.blowSvn
    dsimp only
    split
    · exact State.reshadow_keeps _ (State.blow_keeps _ _ ih)
    · exact ih
theorem State.ringSend_keeps {b0 : State} {s : State} (k_ : Keeps b0 s) : Keeps b0 (State.ringSend s) := by
  unfold State.ringSend
  try dsimp only
  repeat' (first | with_reducible assumption | with_reducible apply State.readOver_keeps | with_reducible apply State.sendCell_keeps | with_reducible apply Keeps.fold | intro _ | split)
theorem State.writeSecCtl_keeps {b0 : State} {s : State} (val mask : Word) (k_ : Keeps b0 s) : Keeps b0 (State.writeSecCtl s val mask) := by
  unfold State.writeSecCtl
  extract_lets v s1 x1 x2 s2 s3
  have h_s1 : Keeps b0 s1 := by
    dsimp only [s1]
    repeat' (first | with_reducible assumption | with_reducible apply State.startVerify_keeps | with_reducible apply State.setFlag_keeps | with_reducible apply State.ringSend_keeps | with_reducible apply State.blowSvn_keeps | with_reducible apply State.secRefuse_keeps | with_reducible apply Keeps.fold | intro _ | split)
  have h_x1 : Keeps b0 x1 := by
    dsimp only [x1]
    repeat' (first | with_reducible assumption | with_reducible apply State.startVerify_keeps | with_reducible apply State.setFlag_keeps)
  have h_s2 : Keeps b0 s2 := by
    dsimp only [s2]
    repeat' (first | with_reducible assumption | with_reducible apply State.startVerify_keeps | with_reducible apply State.setFlag_keeps | with_reducible apply State.ringSend_keeps | with_reducible apply State.blowSvn_keeps | with_reducible apply State.secRefuse_keeps | with_reducible apply Keeps.fold | intro _ | split | with_reducible apply Keeps.spoil | with_reducible apply Keeps.rest)
  have h_s3 : Keeps b0 s3 := by
    dsimp only [s3]
    repeat' (first | with_reducible assumption | with_reducible apply State.startVerify_keeps | with_reducible apply State.setFlag_keeps | with_reducible apply State.ringSend_keeps | with_reducible apply State.blowSvn_keeps | with_reducible apply State.secRefuse_keeps | with_reducible apply Keeps.fold | intro _ | split)
  try clear_value s3
  try clear_value s2
  try clear_value x2
  try clear_value x1
  try clear_value s1
  try clear_value v
  try dsimp only
  repeat' (first | with_reducible assumption | with_reducible apply State.startVerify_keeps | with_reducible apply State.setFlag_keeps | with_reducible apply State.ringSend_keeps | with_reducible apply State.blowSvn_keeps | with_reducible apply State.secRefuse_keeps | with_reducible apply Keeps.fold | intro _ | split)
theorem State.spoilStore_keeps {b0 : State} {s : State} (key at0 : Nat) (ws : List Word) (k_ : Keeps b0 s) : Keeps b0 (State.spoilStore s key at0 ws) := by
  unfold State.spoilStore
  try dsimp only
  repeat' (first | with_reducible assumption | with_reducible apply State.putNvms_keeps | with_reducible apply State.takeFree_keeps_2 | with_reducible apply State.putNvm_keeps | with_reducible refine State.takeFree_keeps_2_eq (by assumption) ?_ | with_reducible apply Keeps.fold | intro _ | split | with_reducible apply Keeps.spoil)
theorem State.spoilStores_keeps {b0 : State} {s : State} (k_ : Keeps b0 s) : Keeps b0 (State.spoilStores s) := by
  unfold State.spoilStores
  try dsimp only
  repeat' (first | with_reducible assumption | with_reducible apply State.spoilStore_keeps | with_reducible apply Keeps.fold | intro _)
theorem State.spoilProgram_keeps {b0 : State} {s : State} (k_ : Keeps b0 s) : Keeps b0 (State.spoilProgram s) := by
  unfold State.spoilProgram
  try dsimp only
  repeat' (first | with_reducible assumption | with_reducible apply State.blow_keeps | with_reducible apply State.takeFree_keeps_2 | with_reducible refine State.takeFree_keeps_2_eq (by assumption) ?_ | with_reducible apply Keeps.fold | intro _ | split)
theorem State.wholeReset_keeps {b0 : State} {s : State} (cause : Nat) (h : Keeps b0 s) : Keeps b0 (s.wholeReset cause) :=
  State.setReg_keeps _ _ ((State.spoilProgram_keeps (State.spoilStores_keeps h)).parts rfl (fun _ => rfl) (fun _ => rfl) (fun _ => rfl) (fun _ => rfl)
    (fun q => by dsimp only; apply swf_skeep; exact q) id (fun _ => rfl))
theorem State.deviceReset_keeps {b0 : State} {s : State} (bootSel : Nat) (h : Keeps b0 s) : Keeps b0 (s.deviceReset bootSel) := by
  unfold State.deviceReset
  extract_lets t keep x1 x2 t1 t2 t3
  have h0 : Keeps b0 t := State.wholeReset_keeps _ h
  have h1 : Keeps b0 t1 := by
    refine ⟨h0.queue, fun w => ?_⟩
    have a := h0.form w
    have b := h.form w
    simp only [State.wf, Memory.wf, Bool.and_eq_true] at a b ⊢
    obtain ⟨⟨⟨⟨⟨⟨_, _⟩, c⟩, d⟩, e⟩, f⟩, g⟩ := a
    refine ⟨⟨⟨⟨⟨⟨?_, ?_⟩, c⟩, d⟩, e⟩, f⟩, g⟩
    · dsimp only [t1]
      apply swf_skeep
      exact b.1.1.1.1.1.1
    · dsimp only [t1]
      apply swf_skeep
      exact b.1.1.1.1.1.2
  exact State.powerEval_keeps (State.setReg_keeps _ _ (State.setReg_keeps _ _ (State.setReg_keeps _ _ (State.setReg_keeps _ _ h1))))
theorem State.writeResetCtl_keeps {b0 : State} {s : State} (val mask : Word) (bootSel : Nat) (k_ : Keeps b0 s) : Keeps b0 (State.writeResetCtl s val mask bootSel) := by
  unfold State.writeResetCtl
  try dsimp only
  repeat' (first | with_reducible assumption | with_reducible apply State.deviceReset_keeps | with_reducible apply Keeps.fold | intro _ | split | with_reducible apply Keeps.spoil | with_reducible apply Keeps.rest)
theorem State.takeChunk_keeps {b0 : State} {s : State} (o : Nat) (bs : List Byte) (k_ : Keeps b0 s) : Keeps b0 (State.takeChunk s o bs) := by
  unfold State.takeChunk
  try dsimp only
  repeat' (first | with_reducible assumption | with_reducible apply State.startVerify_keeps | with_reducible apply State.placeBytes_keeps | with_reducible apply State.imageBad_keeps | with_reducible apply Keeps.fold | intro _ | split | with_reducible apply Keeps.spoil | with_reducible apply Keeps.rest)

theorem State.unstop_keeps {b0 : State} {s : State} (k : Nat) (k_ : Keeps b0 s) : Keeps b0 (State.unstop s k) := by
  unfold State.unstop
  try dsimp only
  repeat' (first | with_reducible assumption | with_reducible apply Keeps.fold | intro _ | split | with_reducible apply Keeps.spoil | with_reducible apply Keeps.rest)
theorem State.endWindow_keeps {b0 : State} {s : State} (k : Nat) (k_ : Keeps b0 s) : Keeps b0 (State.endWindow s k) := by
  unfold State.endWindow
  try dsimp only
  repeat' (first | with_reducible assumption | with_reducible apply State.unstop_keeps | with_reducible apply State.setFlag_keeps | with_reducible apply State.requestStore_keeps | with_reducible apply Keeps.fold | intro _ | split | with_reducible apply Keeps.spoil | with_reducible apply Keeps.rest)
theorem State.writeWin_keeps {b0 : State} {s : State} (val mask : Word) (k_ : Keeps b0 s) : Keeps b0 (State.writeWin s val mask) := by
  unfold State.writeWin
  try dsimp only
  repeat' (first | with_reducible assumption | with_reducible apply State.unstop_keeps | with_reducible apply State.setFlag_keeps | with_reducible apply State.endWindow_keeps | with_reducible apply Keeps.fold | intro _ | split | with_reducible apply Keeps.spoil | with_reducible apply Keeps.rest)
theorem State.pendCal_keeps {b0 : State} {s : State} (kind i : Nat) (k_ : Keeps b0 s) : Keeps b0 (State.pendCal s kind i) := by
  unfold State.pendCal
  try dsimp only
  repeat' (first | with_reducible assumption | with_reducible apply State.setFlag_keeps | with_reducible apply State.setFld_keeps)
theorem State.calBad_keeps {b0 : State} {s : State} (k_ : Keeps b0 s) : Keeps b0 (State.calBad s) := by
  unfold State.calBad
  try dsimp only
  repeat' (first | with_reducible assumption | with_reducible apply State.raiseBit_keeps)
theorem State.writeReq_keeps {b0 : State} {s : State} (val mask : Word) (k_ : Keeps b0 s) : Keeps b0 (State.writeReq s val mask) := by
  unfold State.writeReq
  try dsimp only
  repeat' (first | with_reducible assumption | with_reducible apply State.pendCal_keeps | with_reducible apply State.calBad_keeps | with_reducible apply Keeps.fold | intro _ | split)
theorem State.countFail_keeps {b0 : State} {s : State} (kind i : Nat) (k_ : Keeps b0 s) : Keeps b0 (State.countFail s kind i) := by
  unfold State.countFail
  try dsimp only
  repeat' (first | with_reducible assumption | with_reducible apply State.raiseBit_keeps | with_reducible apply State.setFlag_keeps | with_reducible apply State.setFld_keeps | with_reducible apply Keeps.fold | intro _ | split | with_reducible apply Keeps.spoil | with_reducible apply Keeps.rest)
theorem State.endRun_keeps {b0 : State} {s : State} (key code : Nat) (k_ : Keeps b0 s) : Keeps b0 (State.endRun s key code) := by
  unfold State.endRun
  try dsimp only
  repeat' (first | with_reducible assumption | with_reducible apply State.stopCal_keeps | with_reducible apply State.countFail_keeps | with_reducible apply State.raiseBit_keeps | with_reducible apply State.setFld_keeps | with_reducible apply Keeps.fold | intro _ | split)
theorem State.beginRun_keeps {b0 : State} {s : State} (key kind i : Nat) (power : Int) (k_ : Keeps b0 s) : Keeps b0 (State.beginRun s key kind i power) := by
  unfold State.beginRun
  try dsimp only
  repeat' (first | with_reducible assumption | with_reducible apply State.loFell_keeps | with_reducible apply State.setFlag_keeps | with_reducible apply State.endRun_keeps | with_reducible apply State.setLos_keeps | with_reducible apply Keeps.fold | intro _ | split | with_reducible apply Keeps.spoil | with_reducible apply Keeps.rest)
theorem State.startRun_keeps {b0 : State} {s : State} (slot : Nat) (power : Int) (k_ : Keeps b0 s) : Keeps b0 (State.startRun s slot power) := by
  unfold State.startRun
  try dsimp only
  repeat' (first | with_reducible assumption | with_reducible apply State.beginRun_keeps | with_reducible apply Keeps.fold | intro _ | split)
theorem State.putAll_keeps_1 {b0 : State} (l : List (Nat × Word)) {s : State} (h : Keeps b0 s) : Keeps b0 (s.putAll l).1 := by
  induction l generalizing s with
  | nil => exact h
  | cons p l ih => exact ih (State.putField_keeps _ _ h)
theorem State.setRegs_keeps {b0 : State} {s : State} (l : List (Nat × Word)) (k_ : Keeps b0 s) : Keeps b0 (State.setRegs s l) := by
  unfold State.setRegs
  try dsimp only
  repeat' (first | with_reducible assumption | with_reducible apply State.setReg_keeps | with_reducible apply Keeps.fold | intro _)
theorem State.elements_keeps_1 {b0 : State} {s : State} (n : Nat) (tx : Bool) (bad : List Word) (k_ : Keeps b0 s) : Keeps b0 (State.elements s n tx bad).1 := by
  unfold State.elements
  try dsimp only
  repeat' (first | with_reducible assumption | with_reducible apply State.raiseBit_keeps | with_reducible apply State.setRegs_keeps | with_reducible apply State.showSpares_keeps | with_reducible apply State.count_keeps | with_reducible apply State.setReg_keeps | with_reducible apply State.putAll_keeps_1 | with_reducible apply Keeps.fold | intro _ | split)
theorem State.elements_keeps_1_eq {b0 : State} {s : State} {n : Nat} {tx : Bool} {bad : List Word} {x0 x1} (he : State.elements s n tx bad = (x0, x1)) (k_ : Keeps b0 s) : Keeps b0 x0 := by
  have := State.elements_keeps_1 n tx bad k_
  rw [he] at this
  exact this
theorem State.putResult_keeps_1 {b0 : State} {s : State} (kind i : Nat) (vals : List Word) (k_ : Keeps b0 s) : Keeps b0 (State.putResult s kind i vals).1 := by
  unfold State.putResult
  try dsimp only
  repeat' (first | with_reducible assumption | with_reducible apply State.elements_keeps_1 | with_reducible apply State.setRegs_keeps | with_reducible apply State.putAll_keeps_1 | with_reducible refine State.elements_keeps_1_eq (by assumption) ?_ | with_reducible apply Keeps.fold | intro _ | split)
theorem State.putResult_keeps_1_eq {b0 : State} {s : State} {kind i : Nat} {vals : List Word} {x0 x1} (he : State.putResult s kind i vals = (x0, x1)) (k_ : Keeps b0 s) : Keeps b0 x0 := by
  have := State.putResult_keeps_1 kind i vals k_
  rw [he] at this
  exact this
theorem State.noteChange_keeps {b0 : State} {s : State} (k kind : Nat) (k_ : Keeps b0 s) : Keeps b0 (State.noteChange s k kind) := by
  unfold State.noteChange
  try dsimp only
  repeat' (first | with_reducible assumption | with_reducible apply Keeps.fold | intro _ | split | with_reducible apply Keeps.spoil | with_reducible apply Keeps.rest)
theorem State.relock_keeps {b0 : State} {s : State} (k : Nat) (k_ : Keeps b0 s) : Keeps b0 (State.relock s k) := by
  unfold State.relock
  try dsimp only
  repeat' (first | with_reducible assumption | with_reducible apply State.beginHop_keeps | with_reducible apply State.setLos_keeps | with_reducible apply Keeps.fold | intro _ | split)
theorem State.finishRun_keeps {b0 : State} {s : State} (slot : Nat) (low : Bool) (vals : List Word) (k_ : Keeps b0 s) : Keeps b0 (State.finishRun s slot low vals) := by
  unfold State.finishRun
  try dsimp only
  repeat' (first | with_reducible assumption | with_reducible apply State.putResult_keeps_1 | with_reducible apply State.endRun_keeps | with_reducible apply State.noteChange_keeps | with_reducible apply State.relock_keeps | with_reducible refine State.putResult_keeps_1_eq (by assumption) ?_ | with_reducible apply Keeps.fold | intro _ | split)
theorem State.bgPass_keeps {b0 : State} {s : State} (n : Nat) (rx : Bool) (q : Nat) (dPhase dDelay : Int) (k_ : Keeps b0 s) : Keeps b0 (State.bgPass s n rx q dPhase dDelay) := by
  unfold State.bgPass
  try dsimp only
  repeat' (first | with_reducible assumption | with_reducible apply State.putField_keeps | with_reducible apply State.raiseBit_keeps | with_reducible apply State.setFlag_keeps | with_reducible apply State.setFld_keeps | with_reducible apply Keeps.fold | intro _ | split)
theorem State.loadTile_keeps {b0 : State} {s : State} (t : Nat) (k_ : Keeps b0 s) : Keeps b0 (State.loadTile s t) := by
  unfold State.loadTile
  try dsimp only
  repeat' (first | with_reducible assumption | with_reducible apply State.loadClass_keeps | with_reducible apply Keeps.fold | intro _ | split | with_reducible apply Keeps.spoil | with_reducible apply Keeps.rest)
theorem State.writeJctl_keeps {b0 : State} {s : State} (val mask : Word) (k_ : Keeps b0 s) : Keeps b0 (State.writeJctl s val mask) := by
  unfold State.writeJctl
  try dsimp only
  repeat' (first | with_reducible assumption | with_reducible apply State.calBad_keeps | with_reducible apply State.requestStore_keeps | with_reducible apply Keeps.fold | intro _ | split)
theorem State.endXdev_keeps {b0 : State} {s : State} (code : Nat) (k_ : Keeps b0 s) : Keeps b0 (State.endXdev s code) := by
  unfold State.endXdev
  try dsimp only
  repeat' (first | with_reducible assumption | with_reducible apply State.stopCal_keeps | with_reducible apply Keeps.fold | intro _ | split | with_reducible apply Keeps.spoil | with_reducible apply Keeps.rest)
theorem State.addPhase_keeps {b0 : State} {s : State} (g : Nat) (c : Int) (k_ : Keeps b0 s) : Keeps b0 (State.addPhase s g c) := by
  unfold State.addPhase
  try dsimp only
  repeat' (first | with_reducible assumption | with_reducible apply State.putField_keeps | with_reducible apply Keeps.fold | intro _ | split)
theorem State.tryXdev_keeps {b0 : State} {s : State} (k_ : Keeps b0 s) : Keeps b0 (State.tryXdev s) := by
  unfold State.tryXdev
  try dsimp only
  repeat' (first | with_reducible assumption | with_reducible apply State.endXdev_keeps | with_reducible apply State.addPhase_keeps | with_reducible apply Keeps.fold | intro _ | split)
theorem State.clDone_keeps {b0 : State} {s : State} (east west : Nat × Nat) (k_ : Keeps b0 s) : Keeps b0 (State.clDone s east west) := by
  unfold State.clDone
  try dsimp only
  repeat' (first | with_reducible assumption | with_reducible apply State.endXdev_keeps | with_reducible apply State.raiseBit_keeps | with_reducible apply State.setFlag_keeps | with_reducible apply State.tryXdev_keeps | with_reducible apply State.sendOne_keeps | with_reducible apply State.setReg_keeps | with_reducible apply Keeps.fold | intro _ | split | with_reducible apply Keeps.spoil | with_reducible apply Keeps.rest)

end Sys2Proof.Machine
end

