-- ==== Sys2Proof/Laws/KeepsHost.lean ====
section
/-! SUPPORT. What the operations of the fronthaul, the copy engine and the host port keep. -/
namespace Sys2Proof.Machine


theorem State.fhpCount_keeps {b0 : State} {s : State} (i j n : Nat) (k_ : Keeps b0 s) : Keeps b0 (State.fhpCount s i j n) := by
  unfold State.fhpCount
  try dsimp only
  repeat' (first | with_reducible assumption | with_reducible apply State.count_keeps)
theorem State.showActive_keeps {b0 : State} {s : State} (k_ : Keeps b0 s) : Keeps b0 (State.showActive s) := by
  unfold State.showActive
  try dsimp only
  repeat' (first | with_reducible assumption | with_reducible apply State.setFlag_keeps | with_reducible apply Keeps.fold | intro _)
theorem State.moveTo_keeps {b0 : State} {s : State} (i : Nat) (k_ : Keeps b0 s) : Keeps b0 (State.moveTo s i) := by
  unfold State.moveTo
  try dsimp only
  repeat' (first | with_reducible assumption | with_reducible apply State.setFlag_keeps | with_reducible apply Keeps.fold | intro _ | split | with_reducible apply Keeps.spoil | with_reducible apply Keeps.rest)
theorem State.failOver_keeps {b0 : State} {s : State} (i : Nat) (k_ : Keeps b0 s) : Keeps b0 (State.failOver s i) := by
  unfold State.failOver
  try dsimp only
  repeat' (first | with_reducible assumption | with_reducible apply State.send_keeps | with_reducible apply State.raiseBit_keeps | with_reducible apply State.moveTo_keeps | with_reducible apply Keeps.fold | intro _ | split | with_reducible apply Keeps.spoil | with_reducible apply Keeps.rest)
theorem State.linkDown_keeps {b0 : State} {s : State} (i queued : Nat) (k_ : Keeps b0 s) : Keeps b0 (State.linkDown s i queued) := by
  unfold State.linkDown
  try dsimp only
  repeat' (first | with_reducible assumption | with_reducible apply State.raiseBit_keeps | with_reducible apply State.setFlag_keeps | with_reducible apply State.failOver_keeps | with_reducible apply State.fhpCount_keeps | with_reducible apply State.showActive_keeps | with_reducible apply State.setReg_keeps | with_reducible apply Keeps.fold | intro _ | split)
theorem State.linkUpAt_keeps {b0 : State} {s : State} (i speed : Nat) (k_ : Keeps b0 s) : Keeps b0 (State.linkUpAt s i speed) := by
  unfold State.linkUpAt
  try dsimp only
  repeat' (first | with_reducible assumption | with_reducible apply State.send_keeps | with_reducible apply State.moveTo_keeps | with_reducible apply State.setFld_keeps | with_reducible apply State.failOver_keeps | with_reducible apply State.showActive_keeps | with_reducible apply State.setReg_keeps | with_reducible apply Keeps.fold | intro _ | split | with_reducible apply Keeps.spoil | with_reducible apply Keeps.rest)
theorem State.lanesOff_keeps {b0 : State} {s : State} (i : Nat) (k_ : Keeps b0 s) : Keeps b0 (State.lanesOff s i) := by
  unfold State.lanesOff
  try dsimp only
  repeat' (first | with_reducible assumption | with_reducible apply Keeps.fold | intro _ | split | with_reducible apply Keeps.spoil | with_reducible apply Keeps.rest)
theorem State.writeFhpCtl_keeps {b0 : State} {s : State} (i : Nat) (val mask : Word) (k_ : Keeps b0 s) : Keeps b0 (State.writeFhpCtl s i val mask) := by
  unfold State.writeFhpCtl
  try dsimp only
  repeat' (first | with_reducible assumption | with_reducible apply State.linkDown_keeps | with_reducible apply State.lanesOff_keeps | with_reducible apply State.writeFields_keeps | with_reducible apply Keeps.fold | intro _ | split)
theorem State.writePair_keeps {b0 : State} {s : State} (val mask : Word) (k_ : Keeps b0 s) : Keeps b0 (State.writePair s val mask) := by
  unfold State.writePair
  try dsimp only
  repeat' (first | with_reducible assumption | with_reducible apply State.showActive_keeps | with_reducible apply State.writeFields_keeps)
theorem State.takeFrame_keeps {b0 : State} {s : State} (i : Nat) (bs : List Byte) (fcs : Bool) (k_ : Keeps b0 s) : Keeps b0 (State.takeFrame s i bs fcs) := by
  unfold State.takeFrame
  try dsimp only
  repeat' (first | with_reducible assumption | with_reducible apply State.raiseBit_keeps | with_reducible apply State.fhpCount_keeps | with_reducible apply Keeps.fold | intro _ | split)
theorem State.followSeq_keeps {b0 : State} {s : State} (i kind : Nat) (h : Ecpri) (k_ : Keeps b0 s) : Keeps b0 (State.followSeq s i kind h) := by
  unfold State.followSeq
  try dsimp only
  repeat' (first | with_reducible assumption | with_reducible apply State.raiseBit_keeps | with_reducible apply State.fhpCount_keeps | with_reducible apply Keeps.fold | intro _ | split | with_reducible apply Keeps.spoil | with_reducible apply Keeps.rest)
theorem State.fhReject_keeps {b0 : State} {s : State} (i : Nat) (k_ : Keeps b0 s) : Keeps b0 (State.fhReject s i) := by
  unfold State.fhReject
  try dsimp only
  repeat' (first | with_reducible assumption | with_reducible apply State.raiseBit_keeps | with_reducible apply State.fhpCount_keeps)
theorem State.judgeWindow_keeps_1 {b0 : State} {s : State} (i c : Nat) (uc : Bool) (t : Int) (k_ : Keeps b0 s) : Keeps b0 (State.judgeWindow s i c uc t).1 := by
  unfold State.judgeWindow
  try dsimp only
  repeat' (first | with_reducible assumption | with_reducible apply State.raiseBit_keeps | with_reducible apply State.fhpCount_keeps | with_reducible apply Keeps.fold | intro _ | split)
theorem State.judgeWindow_keeps_1_eq {b0 : State} {s : State} {i c : Nat} {uc : Bool} {t : Int} {x0 x1} (he : State.judgeWindow s i c uc t = (x0, x1)) (k_ : Keeps b0 s) : Keeps b0 x0 := by
  have := State.judgeWindow_keeps_1 i c uc t k_
  rw [he] at this
  exact this
theorem State.takeC_keeps {b0 : State} {s : State} (i : Nat) (m : CMsg) (k_ : Keeps b0 s) : Keeps b0 (State.takeC s i m) := by
  unfold State.takeC
  try dsimp only
  repeat' (first | with_reducible assumption | with_reducible apply State.judgeWindow_keeps_1 | with_reducible apply State.fhReject_keeps | with_reducible apply State.followSeq_keeps | with_reducible apply State.castSects_keeps | with_reducible apply State.pruneSects_keeps | with_reducible apply State.fhpCount_keeps | with_reducible apply State.takeSects_keeps | with_reducible refine State.judgeWindow_keeps_1_eq (by assumption) ?_ | with_reducible apply Keeps.fold | intro _ | split)
theorem State.takeU1_keeps {b0 : State} {s : State} (i c layer : Nat) (air : AirRef) (x : USect) (k_ : Keeps b0 s) : Keeps b0 (State.takeU1 s i c layer air x) := by
  unfold State.takeU1
  try dsimp only
  repeat' (first | with_reducible assumption | with_reducible apply State.castData_keeps | with_reducible apply State.fhReject_keeps | with_reducible apply State.takeData_keeps | with_reducible apply State.fhpCount_keeps | with_reducible apply Keeps.fold | intro _ | split)
theorem State.takeU_keeps {b0 : State} {s : State} (i : Nat) (m : UMsg) (k_ : Keeps b0 s) : Keeps b0 (State.takeU s i m) := by
  unfold State.takeU
  try dsimp only
  repeat' (first | with_reducible assumption | with_reducible apply State.judgeWindow_keeps_1 | with_reducible apply State.fhReject_keeps | with_reducible apply State.followSeq_keeps | with_reducible apply State.pruneSects_keeps | with_reducible apply State.fhpCount_keeps | with_reducible apply State.takeU1_keeps | with_reducible refine State.judgeWindow_keeps_1_eq (by assumption) ?_ | with_reducible apply Keeps.fold | intro _ | split)
theorem State.ulDropped_keeps {b0 : State} {s : State} (i n : Nat) (k_ : Keeps b0 s) : Keeps b0 (State.ulDropped s i n) := by
  unfold State.ulDropped
  try dsimp only
  repeat' (first | with_reducible assumption | with_reducible apply State.raiseBit_keeps | with_reducible apply State.fhpCount_keeps)
theorem State.sendSums_keeps {b0 : State} {s : State} (c layer : Nat) (air : AirRef) (id start contrib sat : Nat) (sum : List (List Int)) (k_ : Keeps b0 s) : Keeps b0 (State.sendSums s c layer air id start contrib sat sum) := by
  unfold State.sendSums
  try dsimp only
  repeat' (first | with_reducible assumption | with_reducible apply State.send_keeps | with_reducible apply State.ulDropped_keeps | with_reducible apply State.raiseBit_keeps | with_reducible apply State.bmeCount_keeps | with_reducible apply State.fhpCount_keeps | with_reducible apply Keeps.fold | intro _ | split | with_reducible apply Keeps.spoil | with_reducible apply Keeps.rest)
theorem State.sendUl_keeps {b0 : State} {s : State} (c layer : Nat) (air : AirRef) (id start num : Nat) (k_ : Keeps b0 s) : Keeps b0 (State.sendUl s c layer air id start num) := by
  unfold State.sendUl
  try dsimp only
  repeat' (first | with_reducible assumption | with_reducible apply State.sendSums_keeps | with_reducible apply Keeps.fold | intro _ | split)
theorem State.hostRx_keeps {b0 : State} {s : State} (i : Nat) (bs : List Byte) (tns : Word) (tfr : Nat) (k_ : Keeps b0 s) : Keeps b0 (State.hostRx s i bs tns tfr) := by
  unfold State.hostRx
  try dsimp only
  repeat' (first | with_reducible assumption | with_reducible apply State.putWords_keeps | with_reducible apply State.raiseBit_keeps | with_reducible apply State.fhpCount_keeps | with_reducible apply State.putBytes_keeps | with_reducible apply Keeps.fold | intro _ | split | with_reducible apply Keeps.spoil | with_reducible apply Keeps.rest)
theorem State.freeRx_keeps {b0 : State} {s : State} (i k : Nat) (val mask : Word) (k_ : Keeps b0 s) : Keeps b0 (State.freeRx s i k val mask) := by
  unfold State.freeRx
  try dsimp only
  repeat' (first | with_reducible assumption | with_reducible apply State.putWord_keeps | with_reducible apply Keeps.fold | intro _ | split)
theorem State.writeTx_keeps {b0 : State} {s : State} (i k : Nat) (val mask : Word) (k_ : Keeps b0 s) : Keeps b0 (State.writeTx s i k val mask) := by
  unfold State.writeTx
  try dsimp only
  repeat' (first | with_reducible assumption | with_reducible apply State.putWord_keeps | with_reducible apply Keeps.fold | intro _ | split)
theorem State.sendTx_keeps {b0 : State} {s : State} (i : Nat) (tns : Word) (tfr : Nat) (k_ : Keeps b0 s) : Keeps b0 (State.sendTx s i tns tfr) := by
  unfold State.sendTx
  try dsimp only
  repeat' (first | with_reducible assumption | with_reducible apply State.putWords_keeps | with_reducible apply State.putWord_keeps | with_reducible apply State.send_keeps | with_reducible apply Keeps.fold | intro _ | split)

theorem State.setChState_keeps {b0 : State} {s : State} (c v : Nat) (k_ : Keeps b0 s) : Keeps b0 (State.setChState s c v) := by
  unfold State.setChState
  try dsimp only
  repeat' (first | with_reducible assumption | with_reducible apply State.setFld_keeps)
theorem State.setPair64_keeps {b0 : State} {s : State} (lo hi v : Nat) (k_ : Keeps b0 s) : Keeps b0 (State.setPair64 s lo hi v) := by
  unfold State.setPair64
  try dsimp only
  repeat' (first | with_reducible assumption | with_reducible apply State.setReg_keeps)
theorem State.setChCur_keeps {b0 : State} {s : State} (c v : Nat) (k_ : Keeps b0 s) : Keeps b0 (State.setChCur s c v) := by
  unfold State.setChCur
  try dsimp only
  repeat' (first | with_reducible assumption | with_reducible apply State.setPair64_keeps)
theorem State.readDevWords_keeps_2_2 {b0 : State} (n : Nat) {s : State} (a : Nat) (h : Keeps b0 s) : Keeps b0 (s.readDevWords a n).2.2 := by
  induction n generalizing s a with
  | zero => exact h
  | succ n ih =>
    unfold State.readDevWords
    dsimp only
    split
    · exact State.readEcc_keeps_2_2 _ h
    · exact ih (a + 4) (State.readEcc_keeps_2_2 _ h)
theorem State.dmaRead_keeps_2 {b0 : State} {s : State} (a n : Nat) (host : HostCpl) (k_ : Keeps b0 s) : Keeps b0 (State.dmaRead s a n host).2 := by
  unfold State.dmaRead
  try dsimp only
  repeat' (first | with_reducible assumption | with_reducible apply State.readDevWords_keeps_2_2 | with_reducible apply Keeps.fold | intro _ | split)
theorem State.dmaRead_keeps_2_eq {b0 : State} {s : State} {a n : Nat} {host : HostCpl} {x0 x1} (he : State.dmaRead s a n host = (x0, x1)) (k_ : Keeps b0 s) : Keeps b0 x1 := by
  have := State.dmaRead_keeps_2 a n host k_
  rw [he] at this
  exact this
theorem State.release_keeps {b0 : State} {s : State} (c : Nat) (k_ : Keeps b0 s) : Keeps b0 (State.release s c) := by
  unfold State.release
  try dsimp only
  repeat' (first | with_reducible assumption | with_reducible apply State.setFlag_keeps | with_reducible apply State.setFld_keeps | with_reducible apply Keeps.fold | intro _ | split | with_reducible apply Keeps.spoil | with_reducible apply Keeps.rest)
theorem State.tellFences_keeps {b0 : State} {s : State} (c : Nat) (bad : Bool) (k_ : Keeps b0 s) : Keeps b0 (State.tellFences s c bad) := by
  unfold State.tellFences
  try dsimp only
  repeat' (first | with_reducible assumption | with_reducible apply State.setThread_keeps | with_reducible apply Keeps.fold | intro _)
theorem State.haltChan_keeps {b0 : State} {s : State} (c st : Nat) (k_ : Keeps b0 s) : Keeps b0 (State.haltChan s c st) := by
  unfold State.haltChan
  try dsimp only
  repeat' (first | with_reducible assumption | with_reducible apply State.setChState_keeps | with_reducible apply State.tellFences_keeps | with_reducible apply State.release_keeps)
theorem State.stopChan_keeps {b0 : State} {s : State} (c st : Nat) (k_ : Keeps b0 s) : Keeps b0 (State.stopChan s c st) := by
  unfold State.stopChan
  try dsimp only
  repeat' (first | with_reducible assumption | with_reducible apply State.setEv_keeps | with_reducible apply State.haltChan_keeps)
theorem State.failChan_keeps {b0 : State} {s : State} (c err : Nat) (k_ : Keeps b0 s) : Keeps b0 (State.failChan s c err) := by
  unfold State.failChan
  try dsimp only
  repeat' (first | with_reducible assumption | with_reducible apply State.raiseBit_keeps | with_reducible apply State.setFld_keeps | with_reducible apply State.stopChan_keeps)
theorem State.enqueue_keeps {b0 : State} {s : State} (c : Nat) (k_ : Keeps b0 s) : Keeps b0 (State.enqueue s c) := by
  unfold State.enqueue
  try dsimp only
  repeat' (first | with_reducible assumption | with_reducible apply State.setChState_keeps | with_reducible apply State.release_keeps | with_reducible apply Keeps.fold | intro _ | split | with_reducible apply Keeps.spoil | with_reducible apply Keeps.rest)
theorem State.toPace_keeps {b0 : State} {s : State} (c : Nat) (k_ : Keeps b0 s) : Keeps b0 (State.toPace s c) := by
  unfold State.toPace
  try dsimp only
  repeat' (first | with_reducible assumption | with_reducible apply State.setChState_keeps | with_reducible apply State.release_keeps)
theorem State.setDesc_keeps {b0 : State} {s : State} (c : Nat) (d : Option (List Word)) (k_ : Keeps b0 s) : Keeps b0 (State.setDesc s c d) := by
  unfold State.setDesc
  try dsimp only
  repeat' (first | with_reducible assumption | with_reducible apply Keeps.fold | intro _ | split | with_reducible apply Keeps.spoil | with_reducible apply Keeps.rest)
theorem State.fetchDesc_keeps_1 {b0 : State} {s : State} (c a : Nat) (host : Option HostCpl) (k_ : Keeps b0 s) : Keeps b0 (State.fetchDesc s c a host).1 := by
  unfold State.fetchDesc
  try dsimp only
  repeat' (first | with_reducible assumption | with_reducible apply State.setDesc_keeps | with_reducible apply State.dmaRead_keeps_2 | with_reducible apply State.setChCur_keeps | with_reducible refine State.dmaRead_keeps_2_eq (by assumption) ?_ | with_reducible apply Keeps.fold | intro _ | split)
theorem State.fetchDesc_keeps_1_eq {b0 : State} {s : State} {c a : Nat} {host : Option HostCpl} {x0 x1} (he : State.fetchDesc s c a host = (x0, x1)) (k_ : Keeps b0 s) : Keeps b0 x0 := by
  have := State.fetchDesc_keeps_1 c a host k_
  rw [he] at this
  exact this
theorem State.goTo_keeps {b0 : State} {s : State} (c a : Nat) (k_ : Keeps b0 s) : Keeps b0 (State.goTo s c a) := by
  unfold State.goTo
  try dsimp only
  repeat' (first | with_reducible assumption | with_reducible apply State.toPace_keeps | with_reducible apply State.failChan_keeps | with_reducible apply State.fetchDesc_keeps_1 | with_reducible apply State.enqueue_keeps | with_reducible refine State.fetchDesc_keeps_1_eq (by assumption) ?_ | with_reducible apply Keeps.fold | intro _ | split)
theorem State.startChan_keeps {b0 : State} {s : State} (c : Nat) (k_ : Keeps b0 s) : Keeps b0 (State.startChan s c) := by
  unfold State.startChan
  try dsimp only
  repeat' (first | with_reducible assumption | with_reducible apply State.goTo_keeps | with_reducible apply State.setFld_keeps | with_reducible apply State.setReg_keeps | with_reducible apply State.release_keeps)
theorem State.dmago_keeps_1 {b0 : State} {s : State} (c : Nat) (desc : Option Word) (k_ : Keeps b0 s) : Keeps b0 (State.dmago s c desc).1 := by
  unfold State.dmago
  try dsimp only
  repeat' (first | with_reducible assumption | with_reducible apply State.setPair64_keeps | with_reducible apply State.startChan_keeps | with_reducible apply Keeps.fold | intro _ | split)
theorem State.dmago_keeps_1_eq {b0 : State} {s : State} {c : Nat} {desc : Option Word} {x0 x1} (he : State.dmago s c desc = (x0, x1)) (k_ : Keeps b0 s) : Keeps b0 x0 := by
  have := State.dmago_keeps_1 c desc k_
  rw [he] at this
  exact this
theorem State.freeBytes_keeps_2 {b0 : State} (n : Nat) {s : State} (h : Keeps b0 s) : Keeps b0 (s.freeBytes n).2 := by
  induction n generalizing s with
  | zero => exact h
  | succ n ih => exact ih (State.takeFree_keeps_2 h)
theorem State.gatherDev_keeps_2_2 {b0 : State} {s : State} (o n : Nat) (k_ : Keeps b0 s) : Keeps b0 (State.gatherDev s o n).2.2 := by
  unfold State.gatherDev
  try dsimp only
  repeat' (first | with_reducible assumption | with_reducible apply State.readDevWords_keeps_2_2)
theorem State.gatherDev_keeps_2_2_eq {b0 : State} {s : State} {o n : Nat} {x0 x1 x2} (he : State.gatherDev s o n = (x0, x1, x2)) (k_ : Keeps b0 s) : Keeps b0 x2 := by
  have := State.gatherDev_keeps_2_2 o n k_
  rw [he] at this
  exact this
theorem State.gather_keeps_2_2 {b0 : State} {s : State} (d : List Word) (src : HostCpl) (k_ : Keeps b0 s) : Keeps b0 (State.gather s d src).2.2 := by
  unfold State.gather
  try dsimp only
  repeat' (first | with_reducible assumption | with_reducible apply State.gatherDev_keeps_2_2 | with_reducible refine State.gatherDev_keeps_2_2_eq (by assumption) ?_ | with_reducible apply Keeps.fold | intro _ | split)
theorem State.gather_keeps_2_2_eq {b0 : State} {s : State} {d : List Word} {src : HostCpl} {x0 x1 x2} (he : State.gather s d src = (x0, x1, x2)) (k_ : Keeps b0 s) : Keeps b0 x2 := by
  have := State.gather_keeps_2_2 d src k_
  rw [he] at this
  exact this
theorem State.deposit_keeps_1 {b0 : State} {s : State} (dst : Nat) (bs : List Byte) (noSnoop : Bool) (k_ : Keeps b0 s) : Keeps b0 (State.deposit s dst bs noSnoop).1 := by
  unfold State.deposit
  try dsimp only
  repeat' (first | with_reducible assumption | with_reducible apply State.send_keeps | with_reducible apply State.windowWrite_keeps | with_reducible apply Keeps.fold | intro _ | split)
theorem State.deposit_keeps_1_eq {b0 : State} {s : State} {dst : Nat} {bs : List Byte} {noSnoop : Bool} {x0 x1} (he : State.deposit s dst bs noSnoop = (x0, x1)) (k_ : Keeps b0 s) : Keeps b0 x0 := by
  have := State.deposit_keeps_1 dst bs noSnoop k_
  rw [he] at this
  exact this
theorem State.landBytes_keeps_1 {b0 : State} {s : State} (d : List Word) (bs : List Byte) (k_ : Keeps b0 s) : Keeps b0 (State.landBytes s d bs).1 := by
  unfold State.landBytes
  try dsimp only
  repeat' (first | with_reducible assumption | with_reducible apply State.deposit_keeps_1 | with_reducible apply State.freeBytes_keeps_2 | with_reducible refine State.deposit_keeps_1_eq (by assumption) ?_ | with_reducible apply Keeps.fold | intro _ | split)
theorem State.landBytes_keeps_1_eq {b0 : State} {s : State} {d : List Word} {bs : List Byte} {x0 x1} (he : State.landBytes s d bs = (x0, x1)) (k_ : Keeps b0 s) : Keeps b0 x0 := by
  have := State.landBytes_keeps_1 d bs k_
  rw [he] at this
  exact this
theorem State.transfer_form {s : State} (d : List Word) (src : HostCpl) (x) (he : s.transfer d src = x) :
    (if dLen d = 0 then (s, none) else (((s.gather d src).2.2.landBytes d (s.gather d src).1).1,
      ((s.gather d src).2.2.landBytes d (s.gather d src).1).2.or (s.gather d src).2.1)) = x := by
  rw [State.transfer] at he
  exact he
theorem State.transfer_cases {b0 s : State} (o : Option Nat) (r : State × Option Nat) (n : Nat) (x)
    (he : (if n = 0 then (s, none) else (r.1, r.2.or o)) = x) (h : Keeps b0 s) (hr : Keeps b0 r.1) : Keeps b0 x.1 := by
  subst he
  split
  · exact h
  · exact hr
theorem State.transfer_keeps_1_eq {b0 : State} {s : State} {d : List Word} {src : HostCpl} {x0 x1} (he : s.transfer d src = (x0, x1))
    (h : Keeps b0 s) : Keeps b0 x0 :=
  State.transfer_cases _ (State.landBytes (s.gather d src).2.2 d (s.gather d src).1) (dLen d) (x0, x1) (State.transfer_form d src _ he) h
    (State.landBytes_keeps_1 d (s.gather d src).1 (State.gather_keeps_2_2 d src h))
theorem State.transfer_keeps_1 {b0 : State} {s : State} (d : List Word) (src : HostCpl) (h : Keeps b0 s) : Keeps b0 (s.transfer d src).1 :=
  State.transfer_cases _ (State.landBytes (s.gather d src).2.2 d (s.gather d src).1) (dLen d) (s.transfer d src)
    (State.transfer_form d src _ rfl) h (State.landBytes_keeps_1 d (s.gather d src).1 (State.gather_keeps_2_2 d src h))
theorem State.beginDesc_keeps {b0 : State} {s : State} (c : Nat) (d : List Word) (k_ : Keeps b0 s) : Keeps b0 (State.beginDesc s c d) := by
  unfold State.beginDesc
  try dsimp only
  repeat' (first | with_reducible assumption | with_reducible apply State.setChState_keeps | with_reducible apply State.takeFree_keeps_2 | with_reducible apply State.setFlag_keeps | with_reducible apply State.setFld_keeps | with_reducible refine State.takeFree_keeps_2_eq (by assumption) ?_ | with_reducible apply Keeps.fold | intro _ | split | with_reducible apply Keeps.spoil | with_reducible apply Keeps.rest)
theorem State.proceed_keeps {b0 : State} {s : State} (c a : Nat) (host : HostCpl) (yields : Bool) (k_ : Keeps b0 s) : Keeps b0 (State.proceed s c a host yields) := by
  unfold State.proceed
  try dsimp only
  repeat' (first | with_reducible assumption | with_reducible apply State.toPace_keeps | with_reducible apply State.beginDesc_keeps | with_reducible apply State.failChan_keeps | with_reducible apply State.fetchDesc_keeps_1 | with_reducible apply State.enqueue_keeps | with_reducible refine State.fetchDesc_keeps_1_eq (by assumption) ?_ | with_reducible apply Keeps.fold | intro _ | split)
theorem State.askHost_keeps {b0 : State} {s : State} (c : Nat) (k_ : Keeps b0 s) : Keeps b0 (State.askHost s c) := by
  unfold State.askHost
  try dsimp only
  repeat' (first | with_reducible assumption | with_reducible apply Keeps.fold | intro _ | split | with_reducible apply Keeps.spoil | with_reducible apply Keeps.rest)
theorem State.reread_keeps {b0 : State} {s : State} (c : Nat) (ws : Except Nat (List Word)) (desc : HostCpl) (k_ : Keeps b0 s) : Keeps b0 (State.reread s c ws desc) := by
  unfold State.reread
  try dsimp only
  repeat' (first | with_reducible assumption | with_reducible apply State.goTo_keeps | with_reducible apply State.failChan_keeps | with_reducible apply State.stopChan_keeps | with_reducible apply State.proceed_keeps | with_reducible apply State.askHost_keeps | with_reducible apply State.setReg_keeps | with_reducible apply Keeps.fold | intro _ | split | with_reducible apply Keeps.spoil | with_reducible apply Keeps.rest)
theorem State.askNext_keeps {b0 : State} {s : State} (c : Nat) (desc : HostCpl) (k_ : Keeps b0 s) : Keeps b0 (State.askNext s c desc) := by
  unfold State.askNext
  try dsimp only
  repeat' (first | with_reducible assumption | with_reducible apply State.reread_keeps | with_reducible apply State.dmaRead_keeps_2 | with_reducible apply State.askHost_keeps | with_reducible refine State.dmaRead_keeps_2_eq (by assumption) ?_ | with_reducible apply Keeps.fold | intro _ | split)
theorem State.descDone_keeps {b0 : State} {s : State} (c : Nat) (d : List Word) (src next : HostCpl) (k_ : Keeps b0 s) : Keeps b0 (State.descDone s c d src next) := by
  unfold State.descDone
  try dsimp only
  repeat' (first | with_reducible assumption | with_reducible apply State.transfer_keeps_1 | with_reducible apply State.failChan_keeps | with_reducible apply State.askNext_keeps | with_reducible apply State.bump_keeps | with_reducible apply State.stopChan_keeps | with_reducible apply State.proceed_keeps | with_reducible apply State.setEv_keeps | with_reducible apply State.setReg_keeps | with_reducible refine State.transfer_keeps_1_eq (by assumption) ?_ | with_reducible apply Keeps.fold | intro _ | split | with_reducible apply Keeps.spoil | with_reducible apply Keeps.rest)
theorem State.abortActive_keeps {b0 : State} {s : State} (c landed : Nat) (src : List Byte) (k_ : Keeps b0 s) : Keeps b0 (State.abortActive s c landed src) := by
  unfold State.abortActive
  try dsimp only
  repeat' (first | with_reducible assumption | with_reducible apply State.deposit_keeps_1 | with_reducible apply State.gather_keeps_2_2 | with_reducible apply State.stopChan_keeps | with_reducible refine State.deposit_keeps_1_eq (by assumption) ?_ | with_reducible refine State.gather_keeps_2_2_eq (by assumption) ?_ | with_reducible apply Keeps.fold | intro _ | split)
theorem State.abortChan_keeps {b0 : State} {s : State} (c landed : Nat) (src : List Byte) (k_ : Keeps b0 s) : Keeps b0 (State.abortChan s c landed src) := by
  unfold State.abortChan
  try dsimp only
  repeat' (first | with_reducible assumption | with_reducible apply State.abortActive_keeps | with_reducible apply State.haltChan_keeps | with_reducible apply Keeps.fold | intro _ | split)
theorem State.dmaBad_keeps {b0 : State} {s : State} (k_ : Keeps b0 s) : Keeps b0 (State.dmaBad s) := by
  unfold State.dmaBad
  try dsimp only
  repeat' (first | with_reducible assumption | with_reducible apply State.raiseBit_keeps | with_reducible apply State.bump_keeps)
theorem State.writeChCtl_keeps {b0 : State} {s : State} (c : Nat) (val mask : Word) (landed : Nat) (src : List Byte) (k_ : Keeps b0 s) : Keeps b0 (State.writeChCtl s c val mask landed src) := by
  unfold State.writeChCtl
  try dsimp only
  repeat' (first | with_reducible assumption | with_reducible apply State.abortChan_keeps | with_reducible apply State.startChan_keeps | with_reducible apply State.dmaBad_keeps | with_reducible apply Keeps.fold | intro _ | split)
theorem State.writeChCtlFree_keeps {b0 : State} {s : State} (c : Nat) (val mask : Word) (k_ : Keeps b0 s) : Keeps b0 (State.writeChCtlFree s c val mask) := by
  unfold State.writeChCtlFree
  try dsimp only
  repeat' (first | with_reducible assumption | with_reducible apply State.takeFree_keeps_2 | with_reducible apply State.writeChCtl_keeps | with_reducible apply State.freeBytes_keeps_2 | with_reducible refine State.takeFree_keeps_2_eq (by assumption) ?_ | with_reducible apply Keeps.fold | intro _ | split)
theorem State.writeChCfg_keeps {b0 : State} {s : State} (c : Nat) (val mask : Word) (k_ : Keeps b0 s) : Keeps b0 (State.writeChCfg s c val mask) := by
  unfold State.writeChCfg
  try dsimp only
  repeat' (first | with_reducible assumption | with_reducible apply State.setFlag_keeps | with_reducible apply State.writeFields_keeps)
theorem State.writeAppend_keeps {b0 : State} {s : State} (c : Nat) (k_ : Keeps b0 s) : Keeps b0 (State.writeAppend s c) := by
  unfold State.writeAppend
  try dsimp only
  repeat' (first | with_reducible assumption | with_reducible apply State.askNext_keeps | with_reducible apply State.setReg_keeps | with_reducible apply Keeps.fold | intro _ | split)
theorem State.pace_keeps {b0 : State} {s : State} (src : Nat) (k_ : Keeps b0 s) : Keeps b0 (State.pace s src) := by
  unfold State.pace
  try dsimp only
  repeat' (first | with_reducible assumption | with_reducible apply State.raiseBit_keeps | with_reducible apply State.bump_keeps | with_reducible apply State.setFlag_keeps | with_reducible apply State.enqueue_keeps | with_reducible apply Keeps.fold | intro _ | split)
theorem State.beginOrPace_keeps {b0 : State} {s : State} (c : Nat) (d : List Word) (k_ : Keeps b0 s) : Keeps b0 (State.beginOrPace s c d) := by
  unfold State.beginOrPace
  try dsimp only
  repeat' (first | with_reducible assumption | with_reducible apply State.toPace_keeps | with_reducible apply State.beginDesc_keeps | with_reducible apply Keeps.fold | intro _ | split)
theorem State.takeChan_form {s : State} (c : Nat) (host : HostCpl) (x) (he : s.takeChan c host = x) :
    (match (s.release c).desc? c with
      | some d => (s.release c).beginOrPace c d
      | none =>
        match ((s.release c).fetchDesc c ((s.release c).chCur c) (some host)).2,
            ((s.release c).fetchDesc c ((s.release c).chCur c) (some host)).1.desc? c with
        | some e, _ => ((s.release c).fetchDesc c ((s.release c).chCur c) (some host)).1.failChan c e
        | none, some d => ((s.release c).fetchDesc c ((s.release c).chCur c) (some host)).1.beginOrPace c d
        | none, none => ((s.release c).fetchDesc c ((s.release c).chCur c) (some host)).1.failChan c 5) = x := by
  rw [State.takeChan] at he
  exact he
theorem State.takeChan_cases {b0 u v x : State} (c : Nat) (o p : Option (List Word)) (e : Option Nat)
    (he : (match o with
      | some d => u.beginOrPace c d
      | none =>
        match e, p with
        | some e, _ => v.failChan c e
        | none, some d => v.beginOrPace c d
        | none, none => v.failChan c 5) = x) (hu : Keeps b0 u) (hv : Keeps b0 v) : Keeps b0 x := by
  subst he
  split
  · exact State.beginOrPace_keeps _ _ hu
  · split
    · exact State.failChan_keeps _ _ hv
    · exact State.beginOrPace_keeps _ _ hv
    · exact State.failChan_keeps _ _ hv
theorem State.takeChan_keeps {b0 : State} {s : State} (c : Nat) (host : HostCpl) (h : Keeps b0 s) : Keeps b0 (s.takeChan c host) :=
  State.takeChan_cases c _ _ _ (State.takeChan_form c host _ rfl) (State.release_keeps _ h)
    (State.fetchDesc_keeps_1 _ _ _ (State.release_keeps _ h))

theorem State.setCv_keeps {b0 : State} {s : State} (c : Nat) (x : CvCtx) (k_ : Keeps b0 s) : Keeps b0 (State.setCv s c x) := by
  unfold State.setCv
  try dsimp only
  repeat' (first | with_reducible assumption | with_reducible apply Keeps.fold | intro _ | split | with_reducible apply Keeps.spoil | with_reducible apply Keeps.rest)
theorem State.showCv_keeps {b0 : State} {s : State} (c : Nat) (k_ : Keeps b0 s) : Keeps b0 (State.showCv s c) := by
  unfold State.showCv
  try dsimp only
  repeat' (first | with_reducible assumption | with_reducible apply State.setFlag_keeps | with_reducible apply State.setFld_keeps)
theorem State.setCvValue_keeps {b0 : State} {s : State} (c v : Nat) (k_ : Keeps b0 s) : Keeps b0 (State.setCvValue s c v) := by
  unfold State.setCvValue
  try dsimp only
  repeat' (first | with_reducible assumption | with_reducible apply State.setPair64_keeps)
theorem State.cvApply_keeps {b0 : State} {s : State} (c : Nat) (e : CvEntry) (h : Keeps b0 s) : Keeps b0 (s.cvApply c e) := by
  cases e with
  | start g => exact State.setCvValue_keeps _ _ (State.setReg_keeps _ _ (State.setCv_keeps _ _ h))
  | feed n d => exact State.setCvValue_keeps _ _ (State.count_keeps _ _ _ _ h)
  | set v => exact State.setCvValue_keeps _ _ h
theorem State.cvStep_keeps {b0 : State} {s : State} (c : Nat) (k_ : Keeps b0 s) : Keeps b0 (State.cvStep s c) := by
  unfold State.cvStep
  try dsimp only
  repeat' (first | with_reducible assumption | with_reducible apply State.showCv_keeps | with_reducible apply State.cvApply_keeps | with_reducible apply State.setCv_keeps | with_reducible apply Keeps.fold | intro _ | split)
theorem State.cvDrain_keeps {b0 : State} {s : State} (c : Nat) (k_ : Keeps b0 s) : Keeps b0 (State.cvDrain s c) := by
  unfold State.cvDrain
  try dsimp only
  repeat' (first | with_reducible assumption | with_reducible apply State.cvStep_keeps | with_reducible apply Keeps.fold | intro _)
theorem State.cvPush_keeps {b0 : State} {s : State} (c : Nat) (e : CvEntry) (k_ : Keeps b0 s) : Keeps b0 (State.cvPush s c e) := by
  unfold State.cvPush
  try dsimp only
  repeat' (first | with_reducible assumption | with_reducible apply State.showCv_keeps | with_reducible apply State.cvStep_keeps | with_reducible apply State.setCv_keeps | with_reducible apply Keeps.fold | intro _ | split)
theorem State.writeCvCtl_keeps {b0 : State} {s : State} (c : Nat) (val mask : Word) (k_ : Keeps b0 s) : Keeps b0 (State.writeCvCtl s c val mask) := by
  unfold State.writeCvCtl
  try dsimp only
  repeat' (first | with_reducible assumption | with_reducible apply State.cvPush_keeps | with_reducible apply Keeps.fold | intro _ | split)
theorem State.writeCvCfg_keeps {b0 : State} {s : State} (c : Nat) (val mask : Word) (k_ : Keeps b0 s) : Keeps b0 (State.writeCvCfg s c val mask) := by
  unfold State.writeCvCfg
  try dsimp only
  repeat' (first | with_reducible assumption | with_reducible apply State.raiseBit_keeps | with_reducible apply State.bump_keeps | with_reducible apply State.writeFields_keeps | with_reducible apply Keeps.fold | intro _ | split)
theorem State.writeCvWord_keeps {b0 : State} {s : State} (off : Nat) (val mask : Word) (k_ : Keeps b0 s) : Keeps b0 (State.writeCvWord s off val mask) := by
  unfold State.writeCvWord
  try dsimp only
  repeat' (first | with_reducible assumption | with_reducible apply State.writeFields_keeps)
theorem State.putStage_keeps {b0 : State} {s : State} (k : Nat) (v : Option Word) (k_ : Keeps b0 s) : Keeps b0 (State.putStage s k v) := by
  unfold State.putStage
  try dsimp only
  repeat' (first | with_reducible assumption | with_reducible apply Keeps.fold | intro _ | split | with_reducible apply Keeps.spoil | with_reducible apply Keeps.rest)
theorem State.feedHigh_keeps {b0 : State} {s : State} (w : Writer) (c : Nat) (val : Word) (k_ : Keeps b0 s) : Keeps b0 (State.feedHigh s w c val) := by
  unfold State.feedHigh
  try dsimp only
  repeat' (first | with_reducible assumption | with_reducible apply State.raiseBit_keeps | with_reducible apply State.putStage_keeps | with_reducible apply State.cvPush_keeps | with_reducible apply Keeps.fold | intro _ | split)
theorem State.valueHigh_keeps {b0 : State} {s : State} (w : Writer) (c : Nat) (val : Word) (k_ : Keeps b0 s) : Keeps b0 (State.valueHigh s w c val) := by
  unfold State.valueHigh
  try dsimp only
  repeat' (first | with_reducible assumption | with_reducible apply State.putStage_keeps | with_reducible apply State.cvPush_keeps)
theorem State.writeCv_keeps {b0 : State} {s : State} (w : Writer) (c r : Nat) (val mask : Word) (k_ : Keeps b0 s) : Keeps b0 (State.writeCv s w c r val mask) := by
  unfold State.writeCv
  try dsimp only
  repeat' (first | with_reducible assumption | with_reducible apply State.valueHigh_keeps | with_reducible apply State.feedHigh_keeps | with_reducible apply State.writeCvCfg_keeps | with_reducible apply State.writeCvWord_keeps | with_reducible apply State.writeCvCtl_keeps | with_reducible apply State.putStage_keeps | with_reducible apply State.cvPush_keeps | with_reducible apply Keeps.fold | intro _ | split)
theorem State.cvHost_keeps {b0 : State} {s : State} (port : Port) (c r : Nat) (val : Word) (k_ : Keeps b0 s) : Keeps b0 (State.cvHost s port c r val) := by
  unfold State.cvHost
  try dsimp only
  repeat' (first | with_reducible assumption | with_reducible apply State.writeCv_keeps | with_reducible apply State.hostReg_keeps | with_reducible apply Keeps.fold | intro _ | split)

theorem State.leaveDu_keeps {b0 : State} {s : State} (i : Nat) (k_ : Keeps b0 s) : Keeps b0 (State.leaveDu s i) := by
  unfold State.leaveDu
  try dsimp only
  repeat' (first | with_reducible assumption | with_reducible apply State.setFlag_keeps | with_reducible apply Keeps.fold | intro _ | split)
theorem State.dropBlock_keeps {b0 : State} {s : State} (i : Nat) (k_ : Keeps b0 s) : Keeps b0 (State.dropBlock s i) := by
  unfold State.dropBlock
  try dsimp only
  repeat' (first | with_reducible assumption | with_reducible apply State.setFlag_keeps | with_reducible apply State.setThread_keeps | with_reducible apply Keeps.fold | intro _ | split)
theorem State.haltThread_keeps {b0 : State} {s : State} (i : Nat) (k_ : Keeps b0 s) : Keeps b0 (State.haltThread s i) := by
  unfold State.haltThread
  try dsimp only
  repeat' (first | with_reducible assumption | with_reducible apply State.leaveDu_keeps | with_reducible apply State.debugStop_keeps | with_reducible apply State.setThread_keeps | with_reducible apply Keeps.fold | intro _ | split)
theorem State.writeTlpCtl_keeps {b0 : State} {s : State} (val mask : Word) (k_ : Keeps b0 s) : Keeps b0 (State.writeTlpCtl s val mask) := by
  unfold State.writeTlpCtl
  try dsimp only
  repeat' (first | with_reducible assumption | with_reducible apply State.tlpBadWrite_keeps | with_reducible apply State.haltThread_keeps | with_reducible apply State.writeFields_keeps | with_reducible apply Keeps.fold | intro _ | split)
theorem State.runThread_keeps {b0 : State} {s : State} (i : Nat) (k_ : Keeps b0 s) : Keeps b0 (State.runThread s i) := by
  unfold State.runThread
  try dsimp only
  repeat' (first | with_reducible assumption | with_reducible apply State.resumeThread_keeps | with_reducible apply State.startThread_keeps | with_reducible apply Keeps.fold | intro _ | split)
theorem State.stepThread_keeps {b0 : State} {s : State} (i : Nat) (k_ : Keeps b0 s) : Keeps b0 (State.stepThread s i) := by
  unfold State.stepThread
  try dsimp only
  repeat' (first | with_reducible assumption | with_reducible apply State.setThState_keeps | with_reducible apply State.setThread_keeps | with_reducible apply Keeps.fold | intro _ | split)
theorem State.writeThCtl_keeps {b0 : State} {s : State} (i : Nat) (val mask : Word) (k_ : Keeps b0 s) : Keeps b0 (State.writeThCtl s i val mask) := by
  unfold State.writeThCtl
  try dsimp only
  repeat' (first | with_reducible assumption | with_reducible apply State.tlpBadWrite_keeps | with_reducible apply State.leaveDu_keeps | with_reducible apply State.runThread_keeps | with_reducible apply State.dropBlock_keeps | with_reducible apply State.stepThread_keeps | with_reducible apply State.writeFields_keeps | with_reducible apply State.resetThread_keeps | with_reducible apply Keeps.fold | intro _ | split)
theorem State.writeRegfile_keeps {b0 : State} {s : State} (off : Nat) (val mask : Word) (k_ : Keeps b0 s) : Keeps b0 (State.writeRegfile s off val mask) := by
  unfold State.writeRegfile
  try dsimp only
  repeat' (first | with_reducible assumption | with_reducible apply State.tlpBadWrite_keeps | with_reducible apply State.writeFields_keeps | with_reducible apply Keeps.fold | intro _ | split)
theorem State.kick_keeps {b0 : State} {s : State} (i : Nat) (k_ : Keeps b0 s) : Keeps b0 (State.kick s i) := by
  unfold State.kick
  try dsimp only
  repeat' (first | with_reducible assumption | with_reducible apply State.setThread_keeps)
theorem State.writeWdtKick_keeps {b0 : State} {s : State} (w : Word) (k_ : Keeps b0 s) : Keeps b0 (State.writeWdtKick s w) := by
  unfold State.writeWdtKick
  try dsimp only
  repeat' (first | with_reducible assumption | with_reducible apply State.kick_keeps | with_reducible apply Keeps.fold)
theorem State.writeWdt_keeps {b0 : State} {s : State} (i : Nat) (val mask : Word) (k_ : Keeps b0 s) : Keeps b0 (State.writeWdt s i val mask) := by
  unfold State.writeWdt
  try dsimp only
  repeat' (first | with_reducible assumption | with_reducible apply State.kick_keeps | with_reducible apply State.writeFields_keeps | with_reducible apply Keeps.fold | intro _ | split)
theorem State.writeEvSet_keeps {b0 : State} {s : State} (w : Word) (k_ : Keeps b0 s) : Keeps b0 (State.writeEvSet s w) := by
  unfold State.writeEvSet
  try dsimp only
  repeat' (first | with_reducible assumption | with_reducible apply State.tlpBadWrite_keeps | with_reducible apply State.setEv_keeps | with_reducible apply Keeps.fold | intro _ | split)
theorem State.writeEv_keeps {b0 : State} {s : State} (j : Nat) (w : Word) (k_ : Keeps b0 s) : Keeps b0 (State.writeEv s j w) := by
  unfold State.writeEv
  try dsimp only
  repeat' (first | with_reducible assumption | with_reducible apply State.setReg_keeps)
theorem State.writeTaqCancel_keeps {b0 : State} {s : State} (w : Word) (k_ : Keeps b0 s) : Keeps b0 (State.writeTaqCancel s w) := by
  unfold State.writeTaqCancel
  try dsimp only
  repeat' (first | with_reducible assumption | with_reducible apply State.cancel_keeps | with_reducible apply State.cancelThread_keeps | with_reducible apply Keeps.fold | intro _ | split)
theorem State.writeCrTail_keeps {b0 : State} {s : State} (val mask : Word) (k_ : Keeps b0 s) : Keeps b0 (State.writeCrTail s val mask) := by
  unfold State.writeCrTail
  try dsimp only
  repeat' (first | with_reducible assumption | with_reducible apply State.tlpBadWrite_keeps | with_reducible apply State.setFld_keeps | with_reducible apply State.setEv_keeps | with_reducible apply Keeps.fold | intro _ | split)
theorem State.writeCrConfig_keeps {b0 : State} {s : State} (off : Nat) (val mask : Word) (k_ : Keeps b0 s) : Keeps b0 (State.writeCrConfig s off val mask) := by
  unfold State.writeCrConfig
  try dsimp only
  repeat' (first | with_reducible assumption | with_reducible apply State.setReg_keeps | with_reducible apply State.writeFields_keeps)
theorem State.writeDebug_keeps {b0 : State} {s : State} (off : Nat) (val mask : Word) (k_ : Keeps b0 s) : Keeps b0 (State.writeDebug s off val mask) := by
  unfold State.writeDebug
  try dsimp only
  repeat' (first | with_reducible assumption | with_reducible apply State.tlpBadWrite_keeps | with_reducible apply State.writeFields_keeps | with_reducible apply Keeps.fold | intro _ | split)
theorem State.writeTlp_keeps {b0 : State} {s : State} (off : Nat) (val mask : Word) (k_ : Keeps b0 s) : Keeps b0 (State.writeTlp s off val mask) := by
  unfold State.writeTlp
  try dsimp only
  repeat' (first | with_reducible assumption | with_reducible apply State.writeWdt_keeps | with_reducible apply State.writeEvSet_keeps | with_reducible apply State.writeTaqCancel_keeps | with_reducible apply State.writeCrTail_keeps | with_reducible apply State.writeTlpCtl_keeps | with_reducible apply State.writeEv_keeps | with_reducible apply State.writeRegfile_keeps | with_reducible apply State.writeWdtKick_keeps | with_reducible apply State.writeCrConfig_keeps | with_reducible apply State.writeDebug_keeps | with_reducible apply State.writeThCtl_keeps | with_reducible apply State.writeFields_keeps | with_reducible apply Keeps.fold | intro _ | split)

theorem State.readNvmData_keeps_2_2 {b0 : State} {s : State} (k_ : Keeps b0 s) : Keeps b0 (State.readNvmData s).2.2 := by
  unfold State.readNvmData
  try dsimp only
  repeat' (first | with_reducible assumption | with_reducible apply State.nvmAdvance_keeps | with_reducible apply State.nvmLast_keeps | with_reducible apply State.readNvm_keeps_2_2 | with_reducible refine State.readNvm_keeps_2_2_eq (by assumption) ?_ | with_reducible apply Keeps.fold | intro _ | split)
theorem State.readNvmData_keeps_2_2_eq {b0 : State} {s : State} {x0 x1 x2} (he : State.readNvmData s = (x0, x1, x2)) (k_ : Keeps b0 s) : Keeps b0 x2 := by
  have := State.readNvmData_keeps_2_2  k_
  rw [he] at this
  exact this
theorem State.writeNvmData_keeps {b0 : State} {s : State} (val : Word) (k_ : Keeps b0 s) : Keeps b0 (State.writeNvmData s val) := by
  unfold State.writeNvmData
  try dsimp only
  repeat' (first | with_reducible assumption | with_reducible apply State.nvmAdvance_keeps | with_reducible apply State.nvmLast_keeps | with_reducible apply State.setFlag_keeps | with_reducible apply Keeps.fold | intro _ | split | with_reducible apply Keeps.spoil | with_reducible apply Keeps.rest)
theorem State.readCert_keeps_2_2 {b0 : State} {s : State} (k_ : Keeps b0 s) : Keeps b0 (State.readCert s).2.2 := by
  unfold State.readCert
  try dsimp only
  repeat' (first | with_reducible assumption | with_reducible apply State.readNvm_keeps_2_2 | with_reducible apply State.setFld_keeps | with_reducible refine State.readNvm_keeps_2_2_eq (by assumption) ?_ | with_reducible apply Keeps.fold | intro _ | split)
theorem State.readCert_keeps_2_2_eq {b0 : State} {s : State} {x0 x1 x2} (he : State.readCert s = (x0, x1, x2)) (k_ : Keeps b0 s) : Keeps b0 x2 := by
  have := State.readCert_keeps_2_2  k_
  rw [he] at this
  exact this
theorem State.readRoster_keeps_2_2 {b0 : State} {s : State} (k_ : Keeps b0 s) : Keeps b0 (State.readRoster s).2.2 := by
  unfold State.readRoster
  try dsimp only
  repeat' (first | with_reducible assumption | with_reducible apply State.readEcc_keeps_2_2 | with_reducible apply State.setFld_keeps | with_reducible refine State.readEcc_keeps_2_2_eq (by assumption) ?_ | with_reducible apply Keeps.fold | intro _ | split)
theorem State.readRoster_keeps_2_2_eq {b0 : State} {s : State} {x0 x1 x2} (he : State.readRoster s = (x0, x1, x2)) (k_ : Keeps b0 s) : Keeps b0 x2 := by
  have := State.readRoster_keeps_2_2  k_
  rw [he] at this
  exact this
theorem State.readReg_keeps_2_2 {b0 : State} {s : State} (off : Nat) (k_ : Keeps b0 s) : Keeps b0 (State.readReg s off).2.2 := by
  unfold State.readReg
  try dsimp only
  repeat' (first | with_reducible assumption | with_reducible apply State.readEcc_keeps_2_2 | with_reducible apply State.readCert_keeps_2_2 | with_reducible apply State.cvDrain_keeps | with_reducible apply State.readNvmData_keeps_2_2 | with_reducible apply State.readStore_keeps_2_2 | with_reducible apply State.readRoster_keeps_2_2 | with_reducible refine State.readEcc_keeps_2_2_eq (by assumption) ?_ | with_reducible refine State.readCert_keeps_2_2_eq (by assumption) ?_ | with_reducible refine State.readNvmData_keeps_2_2_eq (by assumption) ?_ | with_reducible refine State.readStore_keeps_2_2_eq (by assumption) ?_ | with_reducible refine State.readRoster_keeps_2_2_eq (by assumption) ?_ | with_reducible apply Keeps.fold | intro _ | split)
theorem State.readReg_keeps_2_2_eq {b0 : State} {s : State} {off : Nat} {x0 x1 x2} (he : State.readReg s off = (x0, x1, x2)) (k_ : Keeps b0 s) : Keeps b0 x2 := by
  have := State.readReg_keeps_2_2 off k_
  rw [he] at this
  exact this
theorem State.setShadowOf_keeps {b0 : State} {s : State} (who : Nat) (h : Shadow) (k_ : Keeps b0 s) : Keeps b0 (State.setShadowOf s who h) := by
  unfold State.setShadowOf
  try dsimp only
  repeat' (first | with_reducible assumption | with_reducible apply Keeps.fold | intro _ | split | with_reducible apply Keeps.spoil | with_reducible apply Keeps.rest)
theorem State.readShadowed_keeps_2_2 {b0 : State} {s : State} (who off : Nat) (k_ : Keeps b0 s) : Keeps b0 (State.readShadowed s who off).2.2 := by
  unfold State.readShadowed
  try dsimp only
  repeat' (first | with_reducible assumption | with_reducible apply State.setShadowOf_keeps | with_reducible apply State.readReg_keeps_2_2 | with_reducible refine State.readReg_keeps_2_2_eq (by assumption) ?_ | with_reducible apply Keeps.fold | intro _ | split)
theorem State.readShadowed_keeps_2_2_eq {b0 : State} {s : State} {who off : Nat} {x0 x1 x2} (he : State.readShadowed s who off = (x0, x1, x2)) (k_ : Keeps b0 s) : Keeps b0 x2 := by
  have := State.readShadowed_keeps_2_2 who off k_
  rw [he] at this
  exact this
theorem State.fetchReg_keeps_2_2 {b0 : State} {s : State} (who off : Nat) (k_ : Keeps b0 s) : Keeps b0 (State.fetchReg s who off).2.2 := by
  unfold State.fetchReg
  try dsimp only
  repeat' (first | with_reducible assumption | with_reducible apply State.badAccess_keeps | with_reducible apply State.readShadowed_keeps_2_2 | with_reducible refine State.readShadowed_keeps_2_2_eq (by assumption) ?_ | with_reducible apply Keeps.fold | intro _ | split)
theorem State.fetchReg_keeps_2_2_eq {b0 : State} {s : State} {who off : Nat} {x0 x1 x2} (he : State.fetchReg s who off = (x0, x1, x2)) (k_ : Keeps b0 s) : Keeps b0 x2 := by
  have := State.fetchReg_keeps_2_2 who off k_
  rw [he] at this
  exact this
theorem State.fetchWords_keeps_2_2 {b0 : State} (n : Nat) {s : State} (a : Nat) (h : Keeps b0 s) : Keeps b0 (s.fetchWords a n).2.2 := by
  induction n generalizing s a with
  | zero => exact h
  | succ n ih => exact ih (a + 4) (State.readEcc_keeps_2_2 _ h)
theorem State.fetch_keeps_2_2 {b0 : State} {s : State} (port : Port) (off n : Nat) (k_ : Keeps b0 s) : Keeps b0 (State.fetch s port off n).2.2 := by
  unfold State.fetch
  try dsimp only
  repeat' (first | with_reducible assumption | with_reducible apply State.badAccess_keeps | with_reducible apply State.fetchWords_keeps_2_2 | with_reducible apply State.fetchReg_keeps_2_2 | with_reducible refine State.fetchReg_keeps_2_2_eq (by assumption) ?_ | with_reducible apply Keeps.fold | intro _ | split)
theorem State.fetch_keeps_2_2_eq {b0 : State} {s : State} {port : Port} {off n : Nat} {x0 x1 x2} (he : State.fetch s port off n = (x0, x1, x2)) (k_ : Keeps b0 s) : Keeps b0 x2 := by
  have := State.fetch_keeps_2_2 port off n k_
  rw [he] at this
  exact this
theorem State.mgmtFetch_keeps_2_2 {b0 : State} {s : State} (off : Nat) (k_ : Keeps b0 s) : Keeps b0 (State.mgmtFetch s off).2.2 := by
  unfold State.mgmtFetch
  try dsimp only
  repeat' (first | with_reducible assumption | with_reducible apply State.fetch_keeps_2_2 | with_reducible refine State.fetch_keeps_2_2_eq (by assumption) ?_ | with_reducible apply Keeps.fold | intro _ | split)
theorem State.mgmtFetch_keeps_2_2_eq {b0 : State} {s : State} {off : Nat} {x0 x1 x2} (he : State.mgmtFetch s off = (x0, x1, x2)) (k_ : Keeps b0 s) : Keeps b0 x2 := by
  have := State.mgmtFetch_keeps_2_2 off k_
  rw [he] at this
  exact this
theorem State.hostRead_keeps {b0 : State} {s : State} (port : Port) (off n : Nat) (k_ : Keeps b0 s) : Keeps b0 (State.hostRead s port off n) := by
  unfold State.hostRead
  try dsimp only
  repeat' (first | with_reducible assumption | with_reducible apply State.mgmtFetch_keeps_2_2 | with_reducible apply State.send_keeps | with_reducible apply State.raiseBit_keeps | with_reducible apply State.fetch_keeps_2_2 | with_reducible apply State.arrived_keeps | with_reducible apply State.settleReads_keeps | with_reducible refine State.mgmtFetch_keeps_2_2_eq (by assumption) ?_ | with_reducible refine State.fetch_keeps_2_2_eq (by assumption) ?_ | with_reducible apply Keeps.fold | intro _ | split | with_reducible apply Keeps.spoil | with_reducible apply Keeps.rest)
theorem State.writeQspi_keeps {b0 : State} {s : State} (val mask : Word) (k_ : Keeps b0 s) : Keeps b0 (State.writeQspi s val mask) := by
  unfold State.writeQspi
  try dsimp only
  repeat' (first | with_reducible assumption | with_reducible apply State.send_keeps | with_reducible apply State.raiseBit_keeps | with_reducible apply State.bump_keeps | with_reducible apply State.setFlag_keeps | with_reducible apply State.writeFields_keeps | with_reducible apply Keeps.fold | intro _ | split | with_reducible apply Keeps.spoil | with_reducible apply Keeps.rest)
theorem State.fillQspi_keeps {b0 : State} {s : State} (bs : List Byte) (k_ : Keeps b0 s) : Keeps b0 (State.fillQspi s bs) := by
  unfold State.fillQspi
  try dsimp only
  repeat' (first | with_reducible assumption | with_reducible apply State.setReg_keeps | with_reducible apply Keeps.fold | intro _)
theorem State.writeQueue_keeps {b0 : State} {s : State} (off : Nat) (val mask : Word) (k_ : Keeps b0 s) : Keeps b0 (State.writeQueue s off val mask) := by
  unfold State.writeQueue
  try dsimp only
  repeat' (first | with_reducible assumption | with_reducible apply State.putWord_keeps | with_reducible apply State.writeTx_keeps | with_reducible apply State.freeRx_keeps | with_reducible apply Keeps.fold | intro _ | split)
theorem State.writeSecBuf_keeps {b0 : State} {s : State} (off : Nat) (val mask : Word) (k_ : Keeps b0 s) : Keeps b0 (State.writeSecBuf s off val mask) := by
  unfold State.writeSecBuf
  try dsimp only
  repeat' (first | with_reducible assumption | with_reducible apply State.putWord_keeps | with_reducible apply State.secRefuse_keeps | with_reducible apply Keeps.fold | intro _ | split)
theorem State.writeMsixCtl_keeps {b0 : State} {s : State} (v : Nat) (val mask : Word) (k_ : Keeps b0 s) : Keeps b0 (State.writeMsixCtl s v val mask) := by
  unfold State.writeMsixCtl
  try dsimp only
  repeat' (first | with_reducible assumption | with_reducible apply State.send_keeps | with_reducible apply State.writeFields_keeps | with_reducible apply State.setPba_keeps | with_reducible apply Keeps.fold | intro _ | split)
theorem State.writeLow_keeps {b0 : State} {s : State} (w : Writer) (off : Nat) (val mask : Word) (k_ : Keeps b0 s) : Keeps b0 (State.writeLow s w off val mask) := by
  unfold State.writeLow
  try dsimp only
  repeat' (first | with_reducible assumption | with_reducible apply State.writePulseCtl_keeps | with_reducible apply State.writeResetCtl_keeps | with_reducible apply State.writeCcsFixed_keeps | with_reducible apply State.writeSecBuf_keeps | with_reducible apply State.writeChCfg_keeps | with_reducible apply State.writeProbe_keeps | with_reducible apply State.writeState_keeps | with_reducible apply State.writeNvmData_keeps | with_reducible apply State.writeChCtlFree_keeps | with_reducible apply State.writeThrot_keeps | with_reducible apply State.writeCv_keeps | with_reducible apply State.writeCapPart_keeps | with_reducible apply State.writeThr_keeps | with_reducible apply State.writeVote_keeps | with_reducible apply State.writeStepArm_keeps | with_reducible apply State.writeCapCtl_keeps | with_reducible apply State.writeSecCtl_keeps | with_reducible apply State.writeAppend_keeps | with_reducible apply State.writeRateReq_keeps | with_reducible apply State.writeQspi_keeps | with_reducible apply State.writeDvfsMan_keeps | with_reducible apply State.writeTmuCtl_keeps | with_reducible apply State.writeFields_keeps | with_reducible apply State.writeOtpCtl_keeps | with_reducible apply Keeps.fold | intro _ | with_reducible apply Keeps.cond)
theorem State.writeMid_keeps {b0 : State} {s : State} (off : Nat) (val mask : Word) (k_ : Keeps b0 s) : Keeps b0 (State.writeMid s off val mask) := by
  unfold State.writeMid
  try dsimp only
  repeat' (first | with_reducible assumption | with_reducible apply State.writeClCtl_keeps | with_reducible apply State.writeAirCtl_keeps | with_reducible apply State.writeAirCfg_keeps | with_reducible apply State.writeBdaCfg_keeps | with_reducible apply State.writeLosCtl_keeps | with_reducible apply State.writeDeferred_keeps | with_reducible apply State.writeMsixCtl_keeps | with_reducible apply State.writeFhpCtl_keeps | with_reducible apply State.writeLaneBits_keeps | with_reducible apply State.writeTxeq_keeps | with_reducible apply State.writeWin_keeps | with_reducible apply State.writeReq_keeps | with_reducible apply State.writeRingCtl_keeps | with_reducible apply State.writePortCtl_keeps | with_reducible apply State.writeBdaCtl_keeps | with_reducible apply State.writePair_keeps | with_reducible apply State.writeCode_keeps | with_reducible apply State.writeHop_keeps | with_reducible apply State.writeSgCtl_keeps | with_reducible apply State.writeTlp_keeps | with_reducible apply State.writeJctl_keeps | with_reducible apply State.writeFields_keeps | with_reducible apply State.writeQueue_keeps | with_reducible apply State.writeAccept_keeps | with_reducible apply State.writeLaneCtl_keeps | with_reducible apply Keeps.fold | intro _ | with_reducible apply Keeps.cond)
theorem State.writeHigh_keeps {b0 : State} {s : State} (off : Nat) (val mask : Word) (k_ : Keeps b0 s) : Keeps b0 (State.writeHigh s off val mask) := by
  unfold State.writeHigh
  try dsimp only
  repeat' (first | with_reducible assumption | with_reducible apply State.writeArray_keeps | with_reducible apply State.writeAtt_keeps | with_reducible apply State.writePage_keeps | with_reducible apply State.writeWdesc_keeps | with_reducible apply State.writeObs_keeps | with_reducible apply State.writeDeferred_keeps | with_reducible apply State.writeBranch_keeps | with_reducible apply State.writeSurvey_keeps | with_reducible apply State.writeAgc_keeps | with_reducible apply State.writeFrameReg_keeps | with_reducible apply State.writeLnaByp_keeps | with_reducible apply State.writeStore_keeps | with_reducible apply State.writeLinCommit_keeps | with_reducible apply State.writeTxdCtl_keeps | with_reducible apply State.writeFields_keeps | with_reducible apply State.writeSnap_keeps | with_reducible apply State.writeCommit_keeps | with_reducible apply Keeps.fold | intro _ | split)
theorem State.writeAt_keeps {b0 : State} {s : State} (w : Writer) (off : Nat) (val mask : Word) (k_ : Keeps b0 s) : Keeps b0 (State.writeAt s w off val mask) := by
  unfold State.writeAt
  try dsimp only
  repeat' (first | with_reducible assumption | with_reducible apply State.writeHigh_keeps | with_reducible apply State.writeSticky_keeps | with_reducible apply State.writeEnable_keeps | with_reducible apply State.writeMid_keeps | with_reducible apply State.setReg_keeps | with_reducible apply State.writeAirSticky_keeps | with_reducible apply State.writeLow_keeps | with_reducible apply Keeps.fold | intro _ | split)
theorem State.writeReg_keeps {b0 : State} {s : State} (w : Writer) (off : Nat) (val mask : Word) (k_ : Keeps b0 s) : Keeps b0 (State.writeReg s w off val mask) := by
  unfold State.writeReg
  try dsimp only
  repeat' (first | with_reducible assumption | with_reducible apply State.writeAt_keeps)
theorem State.storeWord_keeps_2 {b0 : State} {s : State} (port : Port) (off : Nat) (val : Word) (whole : Bool) (k_ : Keeps b0 s) : Keeps b0 (State.storeWord s port off val whole).2 := by
  unfold State.storeWord
  try dsimp only
  repeat' (first | with_reducible assumption | with_reducible apply State.badAccess_keeps | with_reducible apply State.windowWrite_keeps | with_reducible apply State.writeReg_keeps | with_reducible apply State.downWrite_keeps | with_reducible apply Keeps.fold | intro _ | split)
theorem State.storeWord_keeps_2_eq {b0 : State} {s : State} {port : Port} {off : Nat} {val : Word} {whole : Bool} {x0 x1} (he : State.storeWord s port off val whole = (x0, x1)) (k_ : Keeps b0 s) : Keeps b0 x1 := by
  have := State.storeWord_keeps_2 port off val whole k_
  rw [he] at this
  exact this
theorem State.mgmtStore_keeps_2 {b0 : State} {s : State} (off : Nat) (val : Word) (k_ : Keeps b0 s) : Keeps b0 (State.mgmtStore s off val).2 := by
  unfold State.mgmtStore
  try dsimp only
  repeat' (first | with_reducible assumption | with_reducible apply State.windowShut_keeps | with_reducible apply State.storeWord_keeps_2 | with_reducible refine State.storeWord_keeps_2_eq (by assumption) ?_ | with_reducible apply Keeps.fold | intro _ | split)
theorem State.mgmtStore_keeps_2_eq {b0 : State} {s : State} {off : Nat} {val : Word} {x0 x1} (he : State.mgmtStore s off val = (x0, x1)) (k_ : Keeps b0 s) : Keeps b0 x1 := by
  have := State.mgmtStore_keeps_2 off val k_
  rw [he] at this
  exact this
theorem State.hostWrite_keeps {b0 : State} {s : State} (port : Port) (off : Nat) (val : Word) (whole : Bool) (k_ : Keeps b0 s) : Keeps b0 (State.hostWrite s port off val whole) := by
  unfold State.hostWrite
  try dsimp only
  repeat' (first | with_reducible assumption | with_reducible apply State.mgmtStore_keeps_2 | with_reducible apply State.noted_keeps | with_reducible apply State.send_keeps | with_reducible apply State.storeWord_keeps_2 | with_reducible apply State.arrived_keeps | with_reducible apply State.settleReads_keeps | with_reducible refine State.mgmtStore_keeps_2_eq (by assumption) ?_ | with_reducible refine State.storeWord_keeps_2_eq (by assumption) ?_ | with_reducible apply Keeps.fold | intro _ | split)
theorem State.hostWindow_keeps {b0 : State} {s : State} (port : Port) (off : Nat) (data : List (Option Byte)) (k_ : Keeps b0 s) : Keeps b0 (State.hostWindow s port off data) := by
  unfold State.hostWindow
  try dsimp only
  repeat' (first | with_reducible assumption | with_reducible apply State.hostWrite_keeps | with_reducible apply State.windowWrite_keeps | with_reducible apply State.hostReg_keeps | with_reducible apply State.downWrite_keeps | with_reducible apply Keeps.fold | intro _ | split)
theorem State.badFrame_keeps {b0 : State} {s : State} (k_ : Keeps b0 s) : Keeps b0 (State.badFrame s) := by
  unfold State.badFrame
  try dsimp only
  repeat' (first | with_reducible assumption | with_reducible apply State.raiseBit_keeps)
theorem State.writeFrame_keeps {b0 : State} {s : State} (bytes : List Byte) (k_ : Keeps b0 s) : Keeps b0 (State.writeFrame s bytes) := by
  unfold State.writeFrame
  try dsimp only
  repeat' (first | with_reducible assumption | with_reducible apply State.mgmtStore_keeps_2 | with_reducible apply State.noted_keeps | with_reducible apply State.badFrame_keeps | with_reducible refine State.mgmtStore_keeps_2_eq (by assumption) ?_ | with_reducible apply Keeps.fold | intro _ | split)
theorem State.readFrame_keeps {b0 : State} {s : State} (bytes : List Byte) (k_ : Keeps b0 s) : Keeps b0 (State.readFrame s bytes) := by
  unfold State.readFrame
  try dsimp only
  repeat' (first | with_reducible assumption | with_reducible apply State.send_keeps | with_reducible apply State.arrived_keeps | with_reducible apply State.hostRead_keeps | with_reducible apply State.badFrame_keeps | with_reducible apply Keeps.fold | intro _ | split)

end Sys2Proof.Machine
end

