-- ==== Sys2Proof/Laws/KeepsThread.lean ====
section
/-! SUPPORT. What the operations of the threads and of the passing of time keep. -/
namespace Sys2Proof.Machine


theorem State.setG_keeps {b0 : State} {s : State} (th n : Nat) (v : Word) (k_ : Keeps b0 s) : Keeps b0 (State.setG s th n v) := by
  unfold State.setG
  try dsimp only
  repeat' (first | with_reducible assumption | with_reducible apply State.setReg_keeps)
theorem State.setA_keeps {b0 : State} {s : State} (th i v : Nat) (k_ : Keeps b0 s) : Keeps b0 (State.setA s th i v) := by
  unfold State.setA
  try dsimp only
  repeat' (first | with_reducible assumption | with_reducible apply State.setReg_keeps)
theorem State.setM_keeps {b0 : State} {s : State} (th i v : Nat) (k_ : Keeps b0 s) : Keeps b0 (State.setM s th i v) := by
  unfold State.setM
  try dsimp only
  repeat' (first | with_reducible assumption | with_reducible apply State.setReg_keeps)
theorem State.setB_keeps {b0 : State} {s : State} (th i v : Nat) (k_ : Keeps b0 s) : Keeps b0 (State.setB s th i v) := by
  unfold State.setB
  try dsimp only
  repeat' (first | with_reducible assumption | with_reducible apply State.setReg_keeps)
theorem State.setL_keeps {b0 : State} {s : State} (th i v : Nat) (k_ : Keeps b0 s) : Keeps b0 (State.setL s th i v) := by
  unfold State.setL
  try dsimp only
  repeat' (first | with_reducible assumption | with_reducible apply State.setReg_keeps)
theorem State.setX_keeps {b0 : State} {s : State} (th i : Nat) (v : Int) (k_ : Keeps b0 s) : Keeps b0 (State.setX s th i v) := by
  unfold State.setX
  try dsimp only
  repeat' (first | with_reducible assumption | with_reducible apply State.setReg_keeps)
theorem State.setSpec_keeps {b0 : State} {s : State} (th r : Nat) (v : Word) (k_ : Keeps b0 s) : Keeps b0 (State.setSpec s th r v) := by
  unfold State.setSpec
  try dsimp only
  repeat' (first | with_reducible assumption | with_reducible apply State.setG_keeps | with_reducible apply State.setA_keeps | with_reducible apply State.setM_keeps | with_reducible apply Keeps.fold | intro _ | split)
theorem State.loadWord_keeps_2 {b0 : State} {s : State} (ea : Nat) (k_ : Keeps b0 s) : Keeps b0 (State.loadWord s ea).2 := by
  unfold State.loadWord
  try dsimp only
  repeat' (first | with_reducible assumption | with_reducible apply State.readEcc_keeps_2_2 | with_reducible refine State.readEcc_keeps_2_2_eq (by assumption) ?_ | with_reducible apply Keeps.fold | intro _ | split)
theorem State.loadWord_keeps_2_eq {b0 : State} {s : State} {ea : Nat} {x0 x1} (he : State.loadWord s ea = (x0, x1)) (k_ : Keeps b0 s) : Keeps b0 x1 := by
  have := State.loadWord_keeps_2 ea k_
  rw [he] at this
  exact this
theorem State.storeThread_keeps {b0 : State} {s : State} (ea : Nat) (v : Word) (k_ : Keeps b0 s) : Keeps b0 (State.storeThread s ea v) := by
  unfold State.storeThread
  try dsimp only
  repeat' (first | with_reducible assumption | with_reducible apply State.putWord_keeps | with_reducible apply State.noteWrite_keeps)

theorem State.setStat_keeps {b0 : State} {s : State} (th b : Nat) (v : Bool) (k_ : Keeps b0 s) : Keeps b0 (State.setStat s th b v) := by
  unfold State.setStat
  try dsimp only
  repeat' (first | with_reducible assumption | with_reducible apply State.setFlag_keeps)
theorem State.setNZ_keeps {b0 : State} {s : State} (th : Nat) (n z : Bool) (k_ : Keeps b0 s) : Keeps b0 (State.setNZ s th n z) := by
  unfold State.setNZ
  try dsimp only
  repeat' (first | with_reducible assumption | with_reducible apply State.setStat_keeps)
theorem State.aluFlags_keeps {b0 : State} {s : State} (th : Nat) (o : AluOut) (k_ : Keeps b0 s) : Keeps b0 (State.aluFlags s th o) := by
  unfold State.aluFlags
  try dsimp only
  repeat' (first | with_reducible assumption | with_reducible apply State.setNZ_keeps | with_reducible apply State.setStat_keeps | with_reducible apply Keeps.fold | intro _ | split)

theorem State.putAcc_keeps {b0 : State} {s : State} (th n : Nat) (v : Int) (k_ : Keeps b0 s) : Keeps b0 (State.putAcc s th n v) := by
  unfold State.putAcc
  try dsimp only
  repeat' (first | with_reducible assumption | with_reducible apply State.setReg_keeps)
theorem State.setAccE_keeps {b0 : State} {s : State} (th n e : Nat) (k_ : Keeps b0 s) : Keeps b0 (State.setAccE s th n e) := by
  unfold State.setAccE
  try dsimp only
  repeat' (first | with_reducible assumption | with_reducible apply State.setFld_keeps)
theorem State.addNormal_keeps {b0 : State} {s : State} (th u n : Nat) (t : Int) (k_ : Keeps b0 s) : Keeps b0 (State.addNormal s th u n t) := by
  unfold State.addNormal
  try dsimp only
  repeat' (first | with_reducible assumption | with_reducible apply State.putAcc_keeps | with_reducible apply State.raiseBit_keeps | with_reducible apply State.setFlag_keeps | with_reducible apply State.setStat_keeps | with_reducible apply Keeps.fold | intro _ | split)
theorem State.addClamp_keeps {b0 : State} {s : State} (th n : Nat) (t : Int) (k_ : Keeps b0 s) : Keeps b0 (State.addClamp s th n t) := by
  unfold State.addClamp
  try dsimp only
  repeat' (first | with_reducible assumption | with_reducible apply State.putAcc_keeps | with_reducible apply State.setStat_keeps | with_reducible apply Keeps.fold | intro _ | split)
theorem State.rescale_keeps {b0 : State} {s : State} (th n e : Nat) (k_ : Keeps b0 s) : Keeps b0 (State.rescale s th n e) := by
  unfold State.rescale
  try dsimp only
  repeat' (first | with_reducible assumption | with_reducible apply State.setAccE_keeps | with_reducible apply State.putAcc_keeps | with_reducible apply Keeps.fold | intro _ | split)
theorem State.addBx_keeps {b0 : State} {s : State} (th u n : Nat) (q : Int) (k_ : Keeps b0 s) : Keeps b0 (State.addBx s th u n q) := by
  unfold State.addBx
  try dsimp only
  repeat' (first | with_reducible assumption | with_reducible apply State.addNormal_keeps | with_reducible apply State.rescale_keeps | with_reducible apply Keeps.fold | intro _ | split)
theorem State.shareE_keeps {b0 : State} {s : State} (th n e : Nat) (k_ : Keeps b0 s) : Keeps b0 (State.shareE s th n e) := by
  unfold State.shareE
  try dsimp only
  repeat' (first | with_reducible assumption | with_reducible apply State.setAccE_keeps | with_reducible apply Keeps.fold | intro _ | split)
theorem State.addPairBx_keeps {b0 : State} {s : State} (th u n : Nat) (re im : Int) (k_ : Keeps b0 s) : Keeps b0 (State.addPairBx s th u n re im) := by
  unfold State.addPairBx
  try dsimp only
  repeat' (first | with_reducible assumption | with_reducible apply State.shareE_keeps | with_reducible apply State.addNormal_keeps | with_reducible apply State.rescale_keeps | with_reducible apply Keeps.fold | intro _ | split)
theorem State.addQ_keeps {b0 : State} {s : State} (th u : Nat) (k : Mul) (n : Nat) (bx : Bool) (q : Int × Int) (k_ : Keeps b0 s) : Keeps b0 (State.addQ s th u k n bx q) := by
  unfold State.addQ
  try dsimp only
  repeat' (first | with_reducible assumption | with_reducible apply State.addBx_keeps | with_reducible apply State.addNormal_keeps | with_reducible apply State.addPairBx_keeps | with_reducible apply State.addClamp_keeps | with_reducible apply Keeps.fold | intro _ | split)
theorem State.scalarMul_keeps {b0 : State} {s : State} (th u : Nat) (k : Mul) (n x y : Nat) (conj sub bx : Bool) (k_ : Keeps b0 s) : Keeps b0 (State.scalarMul s th u k n x y conj sub bx) := by
  unfold State.scalarMul
  try dsimp only
  repeat' (first | with_reducible assumption | with_reducible apply State.addQ_keeps)
theorem State.streamWord_keeps_2 {b0 : State} {s : State} (u ea : Nat) (k_ : Keeps b0 s) : Keeps b0 (State.streamWord s u ea).2 := by
  unfold State.streamWord
  try dsimp only
  repeat' (first | with_reducible assumption | with_reducible apply State.loadWord_keeps_2 | with_reducible refine State.loadWord_keeps_2_eq (by assumption) ?_ | with_reducible apply Keeps.fold | intro _ | split)
theorem State.streamWord_keeps_2_eq {b0 : State} {s : State} {u ea : Nat} {x0 x1} (he : State.streamWord s u ea = (x0, x1)) (k_ : Keeps b0 s) : Keeps b0 x1 := by
  have := State.streamWord_keeps_2 u ea k_
  rw [he] at this
  exact this
theorem State.element_keeps_2 {b0 : State} {s : State} (th u i : Nat) (circ complex : Bool) (k_ : Keeps b0 s) : Keeps b0 (State.element s th u i circ complex).2 := by
  unfold State.element
  try dsimp only
  repeat' (first | with_reducible assumption | with_reducible apply State.streamWord_keeps_2 | with_reducible apply State.setA_keeps | with_reducible refine State.streamWord_keeps_2_eq (by assumption) ?_ | with_reducible apply Keeps.fold | intro _ | split)
theorem State.element_keeps_2_eq {b0 : State} {s : State} {th u i : Nat} {circ complex : Bool} {x0 x1} (he : State.element s th u i circ complex = (x0, x1)) (k_ : Keeps b0 s) : Keeps b0 x1 := by
  have := State.element_keeps_2 th u i circ complex k_
  rw [he] at this
  exact this
theorem State.groupSum_keeps_2 {b0 : State} (th u : Nat) (b : Streams) (n : Nat) {s : State} (q : Int × Int) (h : Keeps b0 s) :
    Keeps b0 (s.groupSum th u b n q).2 := by
  induction n generalizing s q with
  | zero => exact h
  | succ n ih =>
    unfold State.groupSum
    split
    · exact State.element_keeps_2_eq (by assumption) h
    · have h1 := State.element_keeps_2_eq (by assumption) h
      split
      · exact State.element_keeps_2_eq (by assumption) h1
      · exact ih _ (State.element_keeps_2_eq (by assumption) h1)
theorem State.groupSum_keeps_2_eq {b0 : State} {th u : Nat} {b : Streams} {n : Nat} {s : State} {q : Int × Int} {x0 x1}
    (he : s.groupSum th u b n q = (x0, x1)) (h : Keeps b0 s) : Keeps b0 x1 := by
  have := State.groupSum_keeps_2 th u b n q h
  rw [he] at this
  exact this
theorem State.blockMul_keeps_1 {b0 : State} (th u n : Nat) (b : Streams) (k : Nat) {s : State} (left : Nat) (h : Keeps b0 s) :
    Keeps b0 (s.blockMul th u n b k left).1 := by
  induction k generalizing s left with
  | zero => exact h
  | succ k ih =>
    unfold State.blockMul
    dsimp only
    split
    · exact h
    · split
      · exact State.setA_keeps _ _ _ (State.setA_keeps _ _ _ (State.groupSum_keeps_2_eq (by assumption) h))
      · exact ih _ (State.addQ_keeps _ _ _ _ _ _ (State.groupSum_keeps_2_eq (by assumption) h))
theorem State.bexpOver_keeps_2 {b0 : State} (th u i : Nat) (c cx : Bool) (n : Nat) {s : State} (m : Nat) (h : Keeps b0 s) :
    Keeps b0 (s.bexpOver th u i c cx n m).2 := by
  induction n generalizing s m with
  | zero => exact h
  | succ n ih =>
    unfold State.bexpOver
    split
    · exact State.element_keeps_2_eq (by assumption) h
    · exact ih _ (State.element_keeps_2_eq (by assumption) h)
theorem State.bexpOver_keeps_2_eq {b0 : State} {th u i : Nat} {c cx : Bool} {n : Nat} {s : State} {m : Nat} {x0 x1}
    (he : s.bexpOver th u i c cx n m = (x0, x1)) (h : Keeps b0 s) : Keeps b0 x1 := by
  have := State.bexpOver_keeps_2 th u i c cx n m h
  rw [he] at this
  exact this
theorem State.bexp_keeps_1 {b0 : State} {s : State} (th u d i : Nat) (c cx acc : Bool) (count : Nat) (k_ : Keeps b0 s) : Keeps b0 (State.bexp s th u d i c cx acc count).1 := by
  unfold State.bexp
  try dsimp only
  repeat' (first | with_reducible assumption | with_reducible apply State.setG_keeps | with_reducible apply State.bexpOver_keeps_2 | with_reducible refine State.bexpOver_keeps_2_eq (by assumption) ?_ | with_reducible apply Keeps.fold | intro _ | split)
theorem State.bexp_keeps_1_eq {b0 : State} {s : State} {th u d i : Nat} {c cx acc : Bool} {count : Nat} {x0 x1} (he : State.bexp s th u d i c cx acc count = (x0, x1)) (k_ : Keeps b0 s) : Keeps b0 x0 := by
  have := State.bexp_keeps_1 th u d i c cx acc count k_
  rw [he] at this
  exact this
theorem State.clearAcc_keeps {b0 : State} {s : State} (th n : Nat) (v : Int) (k_ : Keeps b0 s) : Keeps b0 (State.clearAcc s th n v) := by
  unfold State.clearAcc
  try dsimp only
  repeat' (first | with_reducible assumption | with_reducible apply State.putAcc_keeps | with_reducible apply State.setReg_keeps)
theorem State.clracc_keeps {b0 : State} {s : State} (th mask : Nat) (x : Option Nat) (k_ : Keeps b0 s) : Keeps b0 (State.clracc s th mask x) := by
  unfold State.clracc
  try dsimp only
  repeat' (first | with_reducible assumption | with_reducible apply State.clearAcc_keeps | with_reducible apply Keeps.fold | intro _)
theorem State.rnd_keeps {b0 : State} {s : State} (th n : Nat) (dg : Bool) (d rm : Nat) (e : Bool) (sh : Int) (k_ : Keeps b0 s) : Keeps b0 (State.rnd s th n dg d rm e sh) := by
  unfold State.rnd
  try dsimp only
  repeat' (first | with_reducible assumption | with_reducible apply State.setG_keeps | with_reducible apply State.setNZ_keeps | with_reducible apply State.setX_keeps | with_reducible apply State.setStat_keeps | with_reducible apply Keeps.fold | intro _ | split)
theorem State.satAcc_keeps {b0 : State} {s : State} (th n w : Nat) (k_ : Keeps b0 s) : Keeps b0 (State.satAcc s th n w) := by
  unfold State.satAcc
  try dsimp only
  repeat' (first | with_reducible assumption | with_reducible apply State.putAcc_keeps | with_reducible apply State.setNZ_keeps | with_reducible apply State.setStat_keeps)
theorem State.norm_keeps {b0 : State} {s : State} (th n d e : Nat) (k_ : Keeps b0 s) : Keeps b0 (State.norm s th n d e) := by
  unfold State.norm
  try dsimp only
  repeat' (first | with_reducible assumption | with_reducible apply State.setG_keeps | with_reducible apply State.setNZ_keeps | with_reducible apply State.setX_keeps)
theorem State.expOf_keeps {b0 : State} {s : State} (th n : Nat) (x : Option Nat) (d : Nat) (k_ : Keeps b0 s) : Keeps b0 (State.expOf s th n x d) := by
  unfold State.expOf
  try dsimp only
  repeat' (first | with_reducible assumption | with_reducible apply State.setG_keeps | with_reducible apply State.setNZ_keeps)
theorem State.shacc_keeps {b0 : State} {s : State} (th u n : Nat) (sh : Int) (k_ : Keeps b0 s) : Keeps b0 (State.shacc s th u n sh) := by
  unfold State.shacc
  try dsimp only
  repeat' (first | with_reducible assumption | with_reducible apply State.putAcc_keeps | with_reducible apply State.addNormal_keeps | with_reducible apply Keeps.fold | intro _ | split)
theorem State.staccG_keeps {b0 : State} {s : State} (th n d : Nat) (k_ : Keeps b0 s) : Keeps b0 (State.staccG s th n d) := by
  unfold State.staccG
  try dsimp only
  repeat' (first | with_reducible assumption | with_reducible apply State.setG_keeps)
theorem State.storeThreads_keeps {b0 : State} (ws : List Word) {s : State} (ea : Nat) (h : Keeps b0 s) : Keeps b0 (s.storeThreads ea ws) := by
  induction ws generalizing s ea with
  | nil => exact h
  | cons w ws ih => exact ih _ (State.storeThread_keeps _ _ h)
theorem State.staccM_keeps_1 {b0 : State} {s : State} (th n : Nat) (e : Ea) (x : Bool) (k_ : Keeps b0 s) : Keeps b0 (State.staccM s th n e x).1 := by
  unfold State.staccM
  try dsimp only
  repeat' (first | with_reducible assumption | with_reducible apply State.storeThreads_keeps | with_reducible apply State.setA_keeps | with_reducible apply Keeps.fold | intro _ | split)
theorem State.staccM_keeps_1_eq {b0 : State} {s : State} {th n : Nat} {e : Ea} {x : Bool} {x0 x1} (he : State.staccM s th n e x = (x0, x1)) (k_ : Keeps b0 s) : Keeps b0 x0 := by
  have := State.staccM_keeps_1 th n e x k_
  rw [he] at this
  exact this
theorem State.ldx_keeps_1 {b0 : State} {s : State} (th x : Nat) (pair : Bool) (e : Ea) (k_ : Keeps b0 s) : Keeps b0 (State.ldx s th x pair e).1 := by
  unfold State.ldx
  try dsimp only
  repeat' (first | with_reducible assumption | with_reducible apply State.loadWord_keeps_2 | with_reducible apply State.setX_keeps | with_reducible apply State.setA_keeps | with_reducible refine State.loadWord_keeps_2_eq (by assumption) ?_ | with_reducible apply Keeps.fold | intro _ | split)
theorem State.ldx_keeps_1_eq {b0 : State} {s : State} {th x : Nat} {pair : Bool} {e : Ea} {x0 x1} (he : State.ldx s th x pair e = (x0, x1)) (k_ : Keeps b0 s) : Keeps b0 x0 := by
  have := State.ldx_keeps_1 th x pair e k_
  rw [he] at this
  exact this
theorem State.stx_keeps_1 {b0 : State} {s : State} (th x : Nat) (pair : Bool) (e : Ea) (k_ : Keeps b0 s) : Keeps b0 (State.stx s th x pair e).1 := by
  unfold State.stx
  try dsimp only
  repeat' (first | with_reducible assumption | with_reducible apply State.storeThread_keeps | with_reducible apply State.setA_keeps | with_reducible apply Keeps.fold | intro _ | split)
theorem State.stx_keeps_1_eq {b0 : State} {s : State} {th x : Nat} {pair : Bool} {e : Ea} {x0 x1} (he : State.stx s th x pair e = (x0, x1)) (k_ : Keeps b0 s) : Keeps b0 x0 := by
  have := State.stx_keeps_1 th x pair e k_
  rw [he] at this
  exact this

theorem State.portsel_keeps_1 {b0 : State} {s : State} (groups port : Nat) (k_ : Keeps b0 s) : Keeps b0 (State.portsel s groups port).1 := by
  unfold State.portsel
  try dsimp only
  repeat' (first | with_reducible assumption | with_reducible apply State.landPort_keeps | with_reducible apply State.retargetGroup_keeps | with_reducible apply State.refreshGroup_keeps | with_reducible apply Keeps.fold | intro _ | split | with_reducible apply Keeps.spoil | with_reducible apply Keeps.rest)
theorem State.portsel_keeps_1_eq {b0 : State} {s : State} {groups port : Nat} {x0 x1} (he : State.portsel s groups port = (x0, x1)) (k_ : Keeps b0 s) : Keeps b0 x0 := by
  have := State.portsel_keeps_1 groups port k_
  rw [he] at this
  exact this
theorem State.actWreg_keeps_1 {b0 : State} {s : State} (off : Nat) (val mask : Word) (k_ : Keeps b0 s) : Keeps b0 (State.actWreg s off val mask).1 := by
  unfold State.actWreg
  try dsimp only
  repeat' (first | with_reducible assumption | with_reducible apply State.tlpBadWrite_keeps | with_reducible apply State.writeReg_keeps | with_reducible apply State.downWrite_keeps | with_reducible apply Keeps.fold | intro _ | split)
theorem State.actWreg_keeps_1_eq {b0 : State} {s : State} {off : Nat} {val mask : Word} {x0 x1} (he : State.actWreg s off val mask = (x0, x1)) (k_ : Keeps b0 s) : Keeps b0 x0 := by
  have := State.actWreg_keeps_1 off val mask k_
  rw [he] at this
  exact this
theorem State.actWregAt_keeps_1 {b0 : State} {s : State} (off : Nat) (val mask : Word) (seq : Nat) (k_ : Keeps b0 s) : Keeps b0 (State.actWregAt s off val mask seq).1 := by
  unfold State.actWregAt
  try dsimp only
  repeat' (first | with_reducible assumption | with_reducible apply State.actWreg_keeps_1 | with_reducible refine State.actWreg_keeps_1_eq (by assumption) ?_ | with_reducible apply Keeps.fold | intro _ | split | with_reducible apply Keeps.spoil | with_reducible apply Keeps.rest)
theorem State.actWregAt_keeps_1_eq {b0 : State} {s : State} {off : Nat} {val mask : Word} {seq : Nat} {x0 x1} (he : State.actWregAt s off val mask seq = (x0, x1)) (k_ : Keeps b0 s) : Keeps b0 x0 := by
  have := State.actWregAt_keeps_1 off val mask seq k_
  rw [he] at this
  exact this
theorem State.actVote_keeps {b0 : State} {s : State} (th dom : Nat) (point : Option Nat) (k_ : Keeps b0 s) : Keeps b0 (State.actVote s th dom point) := by
  unfold State.actVote
  try dsimp only
  repeat' (first | with_reducible assumption | with_reducible apply State.voteBit_keeps | with_reducible apply State.votePoint_keeps | with_reducible apply Keeps.fold | intro _ | split)
theorem State.doAction_keeps_1 {b0 : State} {s : State} (th : Nat) (a : Action) (owner : Owner) (due : Word) (seq : Nat) (k_ : Keeps b0 s) : Keeps b0 (State.doAction s th a owner due seq).1 := by
  unfold State.doAction
  try dsimp only
  repeat' (first | with_reducible assumption | with_reducible apply State.actWregAt_keeps_1 | with_reducible apply State.gainset_keeps | with_reducible apply State.dmago_keeps_1 | with_reducible apply State.beamsel_keeps_1 | with_reducible apply State.portsel_keeps_1 | with_reducible apply State.lohop_keeps_1 | with_reducible apply State.actVote_keeps | with_reducible apply State.capRequest_keeps_1 | with_reducible apply State.setEv_keeps | with_reducible apply State.pstate_keeps_1 | with_reducible apply State.wswap_keeps_1 | with_reducible refine State.actWregAt_keeps_1_eq (by assumption) ?_ | with_reducible refine State.dmago_keeps_1_eq (by assumption) ?_ | with_reducible refine State.beamsel_keeps_1_eq (by assumption) ?_ | with_reducible refine State.portsel_keeps_1_eq (by assumption) ?_ | with_reducible refine State.lohop_keeps_1_eq (by assumption) ?_ | with_reducible refine State.capRequest_keeps_1_eq (by assumption) ?_ | with_reducible refine State.pstate_keeps_1_eq (by assumption) ?_ | with_reducible refine State.wswap_keeps_1_eq (by assumption) ?_ | with_reducible apply Keeps.fold | intro _ | split)
theorem State.doAction_keeps_1_eq {b0 : State} {s : State} {th : Nat} {a : Action} {owner : Owner} {due : Word} {seq : Nat} {x0 x1} (he : State.doAction s th a owner due seq = (x0, x1)) (k_ : Keeps b0 s) : Keeps b0 x0 := by
  have := State.doAction_keeps_1 th a owner due seq k_
  rw [he] at this
  exact this
theorem State.untimed_keeps {b0 : State} {s : State} (th : Nat) (a : Action) (bad : Option Nat) (k_ : Keeps b0 s) : Keeps b0 (State.untimed s th a bad) := by
  unfold State.untimed
  try dsimp only
  repeat' (first | with_reducible assumption | with_reducible apply State.doAction_keeps_1 | with_reducible apply State.setThread_keeps | with_reducible refine State.doAction_keeps_1_eq (by assumption) ?_ | with_reducible apply Keeps.fold | intro _ | split | with_reducible apply Keeps.spoil | with_reducible apply Keeps.rest)
theorem State.dispatch_keeps {b0 : State} {s : State} (tag : Nat) (k_ : Keeps b0 s) : Keeps b0 (State.dispatch s tag) := by
  unfold State.dispatch
  try dsimp only
  repeat' (first | with_reducible assumption | with_reducible apply State.doAction_keeps_1 | with_reducible apply State.setEntry_keeps | with_reducible apply State.complete_keeps | with_reducible refine State.doAction_keeps_1_eq (by assumption) ?_ | with_reducible apply Keeps.fold | intro _ | split)
theorem State.stale_keeps {b0 : State} {s : State} (tag : Nat) (k_ : Keeps b0 s) : Keeps b0 (State.stale s tag) := by
  unfold State.stale
  try dsimp only
  repeat' (first | with_reducible assumption | with_reducible apply State.setEntry_keeps | with_reducible apply State.complete_keeps | with_reducible apply Keeps.fold | intro _ | split)
theorem State.accept_keeps_1 {b0 : State} {s : State} (th : Nat) (x : Issue) (k_ : Keeps b0 s) : Keeps b0 (State.accept s th x).1 := by
  unfold State.accept
  try dsimp only
  repeat' (first | with_reducible assumption | with_reducible apply State.tagLast_keeps | with_reducible apply State.setEntry_keeps | with_reducible apply State.showLevel_keeps | with_reducible apply State.dispatch_keeps | with_reducible apply State.stale_keeps | with_reducible apply State.finish_keeps | with_reducible apply State.count_keeps | with_reducible apply Keeps.fold | intro _ | split | with_reducible apply Keeps.spoil | with_reducible apply Keeps.rest)
theorem State.accept_keeps_1_eq {b0 : State} {s : State} {th : Nat} {x : Issue} {x0 x1 x2} (he : State.accept s th x = (x0, x1, x2)) (k_ : Keeps b0 s) : Keeps b0 x0 := by
  have := State.accept_keeps_1 th x k_
  rw [he] at this
  exact this
theorem State.taqDispatch_keeps {b0 : State} {s : State} (tag : Nat) (k_ : Keeps b0 s) : Keeps b0 (State.taqDispatch s tag) := by
  unfold State.taqDispatch
  try dsimp only
  repeat' (first | with_reducible assumption | with_reducible apply State.dispatch_keeps | with_reducible apply State.stale_keeps | with_reducible apply Keeps.fold | intro _ | split)

theorem State.fetchOp_keeps_2 {b0 : State} {s : State} (pc : Nat) (k_ : Keeps b0 s) : Keeps b0 (State.fetchOp s pc).2 := by
  unfold State.fetchOp
  try dsimp only
  repeat' (first | with_reducible assumption | with_reducible apply State.readEcc_keeps_2_2 | with_reducible refine State.readEcc_keeps_2_2_eq (by assumption) ?_ | with_reducible apply Keeps.fold | intro _ | split)
theorem State.fetchOp_keeps_2_eq {b0 : State} {s : State} {pc : Nat} {x0 x1} (he : State.fetchOp s pc = (x0, x1)) (k_ : Keeps b0 s) : Keeps b0 x1 := by
  have := State.fetchOp_keeps_2 pc k_
  rw [he] at this
  exact this
theorem State.boundary_keeps {b0 : State} {s : State} (th : Nat) (k_ : Keeps b0 s) : Keeps b0 (State.boundary s th) := by
  unfold State.boundary
  try dsimp only
  repeat' (first | with_reducible assumption | with_reducible apply State.debugStop_keeps | with_reducible apply Keeps.fold | intro _ | split)
theorem State.advance_keeps {b0 : State} {s : State} (th n : Nat) (k_ : Keeps b0 s) : Keeps b0 (State.advance s th n) := by
  unfold State.advance
  try dsimp only
  repeat' (first | with_reducible assumption | with_reducible apply State.setPc_keeps | with_reducible apply State.faultThread_keeps | with_reducible apply State.boundary_keeps | with_reducible apply Keeps.fold | intro _ | split)
theorem State.branch_keeps {b0 : State} {s : State} (th pc : Nat) (k_ : Keeps b0 s) : Keeps b0 (State.branch s th pc) := by
  unfold State.branch
  try dsimp only
  repeat' (first | with_reducible assumption | with_reducible apply State.setPc_keeps | with_reducible apply State.traceTh_keeps | with_reducible apply State.boundary_keeps)
theorem State.holdUnit_keeps {b0 : State} {s : State} (th u : Nat) (ev : Bool) (old : List (Nat × Word)) (k_ : Keeps b0 s) : Keeps b0 (State.holdUnit s th u ev old) := by
  unfold State.holdUnit
  try dsimp only
  repeat' (first | with_reducible assumption | with_reducible apply State.setFlag_keeps | with_reducible apply State.setThread_keeps)
theorem State.retire_keeps {b0 : State} {s : State} (th : Nat) (r : State × Ctl) (hr : Keeps b0 r.1) :
    Keeps b0 (s.retire th r) := by
  unfold State.retire
  split
  · exact State.advance_keeps _ _ hr
  · exact State.branch_keeps _ _ hr
  · exact State.faultThread_keeps _ _ hr
  · exact State.setThState_keeps _ _ hr
  · exact State.holdUnit_keeps _ _ _ _ hr
  · exact hr
  · exact State.setThread_keeps _ _ hr
theorem ofDone_keeps_1 {b0 : State} {r : Done} (h : Keeps b0 r.1) : Keeps b0 (ofDone r).1 := by
  unfold ofDone
  split <;> exact h
theorem State.doJmp_keeps_1 {b0 : State} {s : State} (th : Nat) (t : Src) (k_ : Keeps b0 s) : Keeps b0 (State.doJmp s th t).1 := by
  unfold State.doJmp
  try dsimp only
  repeat' (first | with_reducible assumption | with_reducible apply Keeps.fold | intro _ | split)
theorem State.doJmp_keeps_1_eq {b0 : State} {s : State} {th : Nat} {t : Src} {x0 x1} (he : State.doJmp s th t = (x0, x1)) (k_ : Keeps b0 s) : Keeps b0 x0 := by
  have := State.doJmp_keeps_1 th t k_
  rw [he] at this
  exact this
theorem State.doBcond_keeps_1 {b0 : State} {s : State} (th c bit : Nat) (clr : Bool) (target : Nat) (k_ : Keeps b0 s) : Keeps b0 (State.doBcond s th c bit clr target).1 := by
  unfold State.doBcond
  try dsimp only
  repeat' (first | with_reducible assumption | with_reducible apply State.setStat_keeps | with_reducible apply Keeps.fold | intro _ | split)
theorem State.doBcond_keeps_1_eq {b0 : State} {s : State} {th c bit : Nat} {clr : Bool} {target : Nat} {x0 x1} (he : State.doBcond s th c bit clr target = (x0, x1)) (k_ : Keeps b0 s) : Keeps b0 x0 := by
  have := State.doBcond_keeps_1 th c bit clr target k_
  rw [he] at this
  exact this
theorem State.doCall_keeps_1 {b0 : State} {s : State} (th : Nat) (t : Src) (k_ : Keeps b0 s) : Keeps b0 (State.doCall s th t).1 := by
  unfold State.doCall
  try dsimp only
  repeat' (first | with_reducible assumption | with_reducible apply State.setFld_keeps | with_reducible apply State.setReg_keeps | with_reducible apply Keeps.fold | intro _ | split)
theorem State.doCall_keeps_1_eq {b0 : State} {s : State} {th : Nat} {t : Src} {x0 x1} (he : State.doCall s th t = (x0, x1)) (k_ : Keeps b0 s) : Keeps b0 x0 := by
  have := State.doCall_keeps_1 th t k_
  rw [he] at this
  exact this
theorem State.doRet_keeps_1 {b0 : State} {s : State} (th : Nat) (k_ : Keeps b0 s) : Keeps b0 (State.doRet s th).1 := by
  unfold State.doRet
  try dsimp only
  repeat' (first | with_reducible assumption | with_reducible apply State.setFld_keeps | with_reducible apply Keeps.fold | intro _ | split)
theorem State.doRet_keeps_1_eq {b0 : State} {s : State} {th : Nat} {x0 x1} (he : State.doRet s th = (x0, x1)) (k_ : Keeps b0 s) : Keeps b0 x0 := by
  have := State.doRet_keeps_1 th k_
  rw [he] at this
  exact this
theorem State.doLoop_keeps_1 {b0 : State} {s : State} (th g target : Nat) (k_ : Keeps b0 s) : Keeps b0 (State.doLoop s th g target).1 := by
  unfold State.doLoop
  try dsimp only
  repeat' (first | with_reducible assumption | with_reducible apply State.setG_keeps | with_reducible apply Keeps.fold | intro _ | split)
theorem State.doLoop_keeps_1_eq {b0 : State} {s : State} {th g target : Nat} {x0 x1} (he : State.doLoop s th g target = (x0, x1)) (k_ : Keeps b0 s) : Keeps b0 x0 := by
  have := State.doLoop_keeps_1 th g target k_
  rw [he] at this
  exact this
theorem State.doHalt_keeps_1 {b0 : State} {s : State} (th : Nat) (k_ : Keeps b0 s) : Keeps b0 (State.doHalt s th).1 := by
  unfold State.doHalt
  try dsimp only
  repeat' (first | with_reducible assumption | with_reducible apply State.setPc_keeps | with_reducible apply State.setRun_keeps | with_reducible apply State.setThState_keeps | with_reducible apply State.setThread_keeps)
theorem State.doHalt_keeps_1_eq {b0 : State} {s : State} {th : Nat} {x0 x1} (he : State.doHalt s th = (x0, x1)) (k_ : Keeps b0 s) : Keeps b0 x0 := by
  have := State.doHalt_keeps_1 th k_
  rw [he] at this
  exact this
theorem State.doAlu_keeps_1 {b0 : State} {s : State} (th : Nat) (k : Alu) (d a : Nat) (t : Opnd) (k_ : Keeps b0 s) : Keeps b0 (State.doAlu s th k d a t).1 := by
  unfold State.doAlu
  try dsimp only
  repeat' (first | with_reducible assumption | with_reducible apply State.aluFlags_keeps | with_reducible apply State.setSpec_keeps | with_reducible apply Keeps.fold | intro _ | split)
theorem State.doAlu_keeps_1_eq {b0 : State} {s : State} {th : Nat} {k : Alu} {d a : Nat} {t : Opnd} {x0 x1} (he : State.doAlu s th k d a t = (x0, x1)) (k_ : Keeps b0 s) : Keeps b0 x0 := by
  have := State.doAlu_keeps_1 th k d a t k_
  rw [he] at this
  exact this
theorem State.doLd_keeps_1 {b0 : State} {s : State} (th r : Nat) (e : Ea) (k_ : Keeps b0 s) : Keeps b0 (State.doLd s th r e).1 := by
  unfold State.doLd
  try dsimp only
  repeat' (first | with_reducible assumption | with_reducible apply State.loadWord_keeps_2 | with_reducible apply State.setSpec_keeps | with_reducible apply State.setA_keeps | with_reducible refine State.loadWord_keeps_2_eq (by assumption) ?_ | with_reducible apply Keeps.fold | intro _ | split)
theorem State.doLd_keeps_1_eq {b0 : State} {s : State} {th r : Nat} {e : Ea} {x0 x1} (he : State.doLd s th r e = (x0, x1)) (k_ : Keeps b0 s) : Keeps b0 x0 := by
  have := State.doLd_keeps_1 th r e k_
  rw [he] at this
  exact this
theorem State.doSt_keeps_1 {b0 : State} {s : State} (th r : Nat) (e : Ea) (k_ : Keeps b0 s) : Keeps b0 (State.doSt s th r e).1 := by
  unfold State.doSt
  try dsimp only
  repeat' (first | with_reducible assumption | with_reducible apply State.storeThread_keeps | with_reducible apply State.setA_keeps | with_reducible apply Keeps.fold | intro _ | split)
theorem State.doSt_keeps_1_eq {b0 : State} {s : State} {th r : Nat} {e : Ea} {x0 x1} (he : State.doSt s th r e = (x0, x1)) (k_ : Keeps b0 s) : Keeps b0 x0 := by
  have := State.doSt_keeps_1 th r e k_
  rw [he] at this
  exact this
theorem State.doSetl_keeps_1 {b0 : State} {s : State} (th i : Nat) (v : Src) (k_ : Keeps b0 s) : Keeps b0 (State.doSetl s th i v).1 := by
  unfold State.doSetl
  try dsimp only
  repeat' (first | with_reducible assumption | with_reducible apply State.setStat_keeps | with_reducible apply State.setA_keeps | with_reducible apply State.setL_keeps | with_reducible apply Keeps.fold | intro _ | split)
theorem State.doSetl_keeps_1_eq {b0 : State} {s : State} {th i : Nat} {v : Src} {x0 x1} (he : State.doSetl s th i v = (x0, x1)) (k_ : Keeps b0 s) : Keeps b0 x0 := by
  have := State.doSetl_keeps_1 th i v k_
  rw [he] at this
  exact this
theorem State.arm_keeps {b0 : State} {s : State} (th : Nat) (tag : Nat) (due : Word) (series : Bool) (dest : Option Nat) (k_ : Keeps b0 s) : Keeps b0 (State.arm s th tag due series dest) := by
  unfold State.arm
  try dsimp only
  repeat' (first | with_reducible assumption | with_reducible apply State.setThread_keeps)
theorem State.doWaitt_keeps_1 {b0 : State} {s : State} (th : Nat) (base : Option Nat) (off : Int) (k_ : Keeps b0 s) : Keeps b0 (State.doWaitt s th base off).1 := by
  unfold State.doWaitt
  try dsimp only
  repeat' (first | with_reducible assumption | with_reducible apply State.arm_keeps | with_reducible apply State.setStat_keeps | with_reducible apply Keeps.fold | intro _ | split)
theorem State.doWaitt_keeps_1_eq {b0 : State} {s : State} {th : Nat} {base : Option Nat} {off : Int} {x0 x1} (he : State.doWaitt s th base off = (x0, x1)) (k_ : Keeps b0 s) : Keeps b0 x0 := by
  have := State.doWaitt_keeps_1 th base off k_
  rw [he] at this
  exact this
theorem State.consume_keeps {b0 : State} {s : State} (word : Nat) (m : Word) (c : Bool) (k_ : Keeps b0 s) : Keeps b0 (State.consume s word m c) := by
  unfold State.consume
  try dsimp only
  repeat' (first | with_reducible assumption | with_reducible apply State.setReg_keeps | with_reducible apply Keeps.fold | intro _ | split)
theorem State.doWaitev_keeps_1 {b0 : State} {s : State} (th line : Nat) (c : Bool) (k_ : Keeps b0 s) : Keeps b0 (State.doWaitev s th line c).1 := by
  unfold State.doWaitev
  try dsimp only
  repeat' (first | with_reducible assumption | with_reducible apply State.arm_keeps | with_reducible apply State.consume_keeps | with_reducible apply Keeps.fold | intro _ | split)
theorem State.doWaitev_keeps_1_eq {b0 : State} {s : State} {th line : Nat} {c : Bool} {x0 x1} (he : State.doWaitev s th line c = (x0, x1)) (k_ : Keeps b0 s) : Keeps b0 x0 := by
  have := State.doWaitev_keeps_1 th line c k_
  rw [he] at this
  exact this
theorem State.doWaitevAny_keeps_1 {b0 : State} {s : State} (th word m d : Nat) (c : Bool) (k_ : Keeps b0 s) : Keeps b0 (State.doWaitevAny s th word m d c).1 := by
  unfold State.doWaitevAny
  try dsimp only
  repeat' (first | with_reducible assumption | with_reducible apply State.setG_keeps | with_reducible apply State.arm_keeps | with_reducible apply State.consume_keeps | with_reducible apply Keeps.fold | intro _ | split)
theorem State.doWaitevAny_keeps_1_eq {b0 : State} {s : State} {th word m d : Nat} {c : Bool} {x0 x1} (he : State.doWaitevAny s th word m d c = (x0, x1)) (k_ : Keeps b0 s) : Keeps b0 x0 := by
  have := State.doWaitevAny_keeps_1 th word m d c k_
  rw [he] at this
  exact this
theorem State.endFence_keeps {b0 : State} {s : State} (th : Nat) (k_ : Keeps b0 s) : Keeps b0 (State.endFence s th) := by
  unfold State.endFence
  try dsimp only
  repeat' (first | with_reducible assumption | with_reducible apply State.setThread_keeps | with_reducible apply State.setStat_keeps | with_reducible apply Keeps.fold | intro _ | split)
theorem State.doFence_keeps_1 {b0 : State} {s : State} (th : Nat) (k_ : Keeps b0 s) : Keeps b0 (State.doFence s th).1 := by
  unfold State.doFence
  try dsimp only
  repeat' (first | with_reducible assumption | with_reducible apply State.endFence_keeps | with_reducible apply State.arm_keeps | with_reducible apply Keeps.fold | intro _ | split)
theorem State.doFence_keeps_1_eq {b0 : State} {s : State} {th : Nat} {x0 x1} (he : State.doFence s th = (x0, x1)) (k_ : Keeps b0 s) : Keeps b0 x0 := by
  have := State.doFence_keeps_1 th k_
  rw [he] at this
  exact this
theorem State.doCmpl_keeps_1 {b0 : State} {s : State} (th d : Nat) (tag : Src) (k_ : Keeps b0 s) : Keeps b0 (State.doCmpl s th d tag).1 := by
  unfold State.doCmpl
  try dsimp only
  repeat' (first | with_reducible assumption | with_reducible apply State.setG_keeps | with_reducible apply State.arm_keeps | with_reducible apply Keeps.fold | intro _ | split)
theorem State.doCmpl_keeps_1_eq {b0 : State} {s : State} {th d : Nat} {tag : Src} {x0 x1} (he : State.doCmpl s th d tag = (x0, x1)) (k_ : Keeps b0 s) : Keeps b0 x0 := by
  have := State.doCmpl_keeps_1 th d tag k_
  rw [he] at this
  exact this
theorem State.doVote_keeps_1 {b0 : State} {s : State} (th dom point : Nat) (k_ : Keeps b0 s) : Keeps b0 (State.doVote s th dom point).1 := by
  unfold State.doVote
  try dsimp only
  repeat' (first | with_reducible assumption | with_reducible apply State.arm_keeps | with_reducible apply State.actVote_keeps | with_reducible apply State.setStat_keeps | with_reducible apply Keeps.fold | intro _ | split)
theorem State.doVote_keeps_1_eq {b0 : State} {s : State} {th dom point : Nat} {x0 x1} (he : State.doVote s th dom point = (x0, x1)) (k_ : Keeps b0 s) : Keeps b0 x0 := by
  have := State.doVote_keeps_1 th dom point k_
  rw [he] at this
  exact this
theorem State.doRreg_keeps_1 {b0 : State} {s : State} (th d : Nat) (base : Option Nat) (imm : Nat) (k_ : Keeps b0 s) : Keeps b0 (State.doRreg s th d base imm).1 := by
  unfold State.doRreg
  try dsimp only
  repeat' (first | with_reducible assumption | with_reducible apply State.setG_keeps | with_reducible apply State.setThread_keeps | with_reducible apply State.fetchReg_keeps_2_2 | with_reducible refine State.fetchReg_keeps_2_2_eq (by assumption) ?_ | with_reducible apply Keeps.fold | intro _ | split)
theorem State.doRreg_keeps_1_eq {b0 : State} {s : State} {th d : Nat} {base : Option Nat} {imm : Nat} {x0 x1} (he : State.doRreg s th d base imm = (x0, x1)) (k_ : Keeps b0 s) : Keeps b0 x0 := by
  have := State.doRreg_keeps_1 th d base imm k_
  rw [he] at this
  exact this
theorem State.doCvfeed_keeps_1 {b0 : State} {s : State} (th cv w g : Nat) (k_ : Keeps b0 s) : Keeps b0 (State.doCvfeed s th cv w g).1 := by
  unfold State.doCvfeed
  try dsimp only
  repeat' (first | with_reducible assumption | with_reducible apply State.cvPush_keeps | with_reducible apply Keeps.fold | intro _ | split)
theorem State.doCvfeed_keeps_1_eq {b0 : State} {s : State} {th cv w g : Nat} {x0 x1} (he : State.doCvfeed s th cv w g = (x0, x1)) (k_ : Keeps b0 s) : Keeps b0 x0 := by
  have := State.doCvfeed_keeps_1 th cv w g k_
  rw [he] at this
  exact this
theorem State.feedWords_keeps_1 {b0 : State} (th cv i n : Nat) {s : State} (h : Keeps b0 s) : Keeps b0 (s.feedWords th cv i n).1 := by
  induction n generalizing s with
  | zero => exact h
  | succ n ih =>
    unfold State.feedWords
    split
    · exact State.loadWord_keeps_2_eq (by assumption) h
    · exact ih (State.setA_keeps _ _ _ (State.cvPush_keeps _ _ (State.loadWord_keeps_2_eq (by assumption) h)))
theorem asBlock_keeps_1 {b0 : State} (th : Nat) {r : Done} (u : Nat) (ev : Bool) (h : Keeps b0 r.1) : Keeps b0 (asBlock th r u ev).1 :=
  State.setFld_keeps _ _ _ _ h
theorem State.doAction1_keeps_1 {b0 : State} {s : State} (th : Nat) (o : Op) (k_ : Keeps b0 s) : Keeps b0 (State.doAction1 s th o).1 := by
  unfold State.doAction1
  try dsimp only
  repeat' (first | with_reducible assumption | with_reducible apply State.untimed_keeps | with_reducible apply State.setPc_keeps | with_reducible apply State.boundary_keeps | with_reducible apply Keeps.fold | intro _ | split)
theorem State.doAction1_keeps_1_eq {b0 : State} {s : State} {th : Nat} {o : Op} {x0 x1} (he : State.doAction1 s th o = (x0, x1)) (k_ : Keeps b0 s) : Keeps b0 x0 := by
  have := State.doAction1_keeps_1 th o k_
  rw [he] at this
  exact this
theorem State.stall_keeps {b0 : State} {s : State} (th : Nat) (k_ : Keeps b0 s) : Keeps b0 (State.stall s th) := by
  unfold State.stall
  try dsimp only
  repeat' (first | with_reducible assumption | with_reducible apply State.raiseBit_keeps | with_reducible apply State.bump_keeps | with_reducible apply State.setThread_keeps | with_reducible apply Keeps.fold | intro _ | split)
theorem State.doUnit_keeps_1 {b0 : State} {s : State} (th : Nat) (p : Op) (k_ : Keeps b0 s) : Keeps b0 (State.doUnit s th p).1 := by
  unfold State.doUnit
  try dsimp only
  repeat' (first | with_reducible assumption | with_reducible apply State.setG_keeps | with_reducible apply State.setPc_keeps | with_reducible apply State.traceTh_keeps | with_reducible apply State.accept_keeps_1 | with_reducible apply State.stall_keeps | with_reducible apply State.setThread_keeps | with_reducible apply State.fetchOp_keeps_2 | with_reducible apply State.boundary_keeps | with_reducible refine State.accept_keeps_1_eq (by assumption) ?_ | with_reducible refine State.fetchOp_keeps_2_eq (by assumption) ?_ | with_reducible apply Keeps.fold | intro _ | split)
theorem State.doUnit_keeps_1_eq {b0 : State} {s : State} {th : Nat} {p : Op} {x0 x1} (he : State.doUnit s th p = (x0, x1)) (k_ : Keeps b0 s) : Keeps b0 x0 := by
  have := State.doUnit_keeps_1 th p k_
  rw [he] at this
  exact this
theorem State.yielded_keeps {b0 : State} {s : State} (th : Nat) (k_ : Keeps b0 s) : Keeps b0 (State.yielded s th) := by
  unfold State.yielded
  try dsimp only
  repeat' (first | with_reducible assumption | with_reducible apply Keeps.fold | intro _ | split | with_reducible apply Keeps.spoil | with_reducible apply Keeps.rest)
theorem State.begun_keeps {b0 : State} {s : State} (th : Nat) (k_ : Keeps b0 s) : Keeps b0 (State.begun s th) := by
  unfold State.begun
  try dsimp only
  repeat' (first | with_reducible assumption | with_reducible apply State.setThread_keeps | with_reducible apply Keeps.fold | intro _ | split | with_reducible apply Keeps.spoil | with_reducible apply Keeps.rest)
theorem State.perform_keeps_1 {b0 : State} {s : State} (th u : Nat) (o : Op) (k_ : Keeps b0 s) : Keeps b0 (State.perform s th u o).1 := by
  unfold State.perform
  try dsimp only
  repeat' (first | with_reducible assumption | with_reducible apply State.doAction1_keeps_1 | with_reducible apply State.doVote_keeps_1 | with_reducible apply State.doAlu_keeps_1 | with_reducible apply State.doWaitevAny_keeps_1 | with_reducible apply State.doUnit_keeps_1 | with_reducible apply State.clracc_keeps | with_reducible apply State.shacc_keeps | with_reducible apply State.doSetl_keeps_1 | with_reducible apply State.doJmp_keeps_1 | with_reducible apply State.gainset_keeps | with_reducible apply State.stx_keeps_1 | with_reducible apply State.dmago_keeps_1 | with_reducible apply State.doHalt_keeps_1 | with_reducible apply State.satAcc_keeps | with_reducible apply State.yielded_keeps | with_reducible apply State.beamsel_keeps_1 | with_reducible apply ofDone_keeps_1 | with_reducible apply State.blockMul_keeps_1 | with_reducible apply State.doBcond_keeps_1 | with_reducible apply State.portsel_keeps_1 | with_reducible apply State.staccG_keeps | with_reducible apply State.doRreg_keeps_1 | with_reducible apply State.doLoop_keeps_1 | with_reducible apply State.norm_keeps | with_reducible apply State.doWaitev_keeps_1 | with_reducible apply State.staccM_keeps_1 | with_reducible apply State.doCvfeed_keeps_1 | with_reducible apply State.feedWords_keeps_1 | with_reducible apply State.doCall_keeps_1 | with_reducible apply State.bexp_keeps_1 | with_reducible apply State.lohop_keeps_1 | with_reducible apply asBlock_keeps_1 | with_reducible apply State.actVote_keeps | with_reducible apply State.setSpec_keeps | with_reducible apply State.scalarMul_keeps | with_reducible apply State.doLd_keeps_1 | with_reducible apply State.rnd_keeps | with_reducible apply State.pstate_keeps_1 | with_reducible apply State.doWaitt_keeps_1 | with_reducible apply State.ldx_keeps_1 | with_reducible apply State.doCmpl_keeps_1 | with_reducible apply State.wswap_keeps_1 | with_reducible apply State.setB_keeps | with_reducible apply State.doRet_keeps_1 | with_reducible apply State.expOf_keeps | with_reducible apply State.doFence_keeps_1 | with_reducible apply State.doSt_keeps_1 | with_reducible refine State.doAction1_keeps_1_eq (by assumption) ?_ | with_reducible refine State.doVote_keeps_1_eq (by assumption) ?_ | with_reducible refine State.doAlu_keeps_1_eq (by assumption) ?_ | with_reducible refine State.doWaitevAny_keeps_1_eq (by assumption) ?_ | with_reducible refine State.doUnit_keeps_1_eq (by assumption) ?_ | with_reducible refine State.doSetl_keeps_1_eq (by assumption) ?_ | with_reducible refine State.doJmp_keeps_1_eq (by assumption) ?_ | with_reducible refine State.stx_keeps_1_eq (by assumption) ?_ | with_reducible refine State.dmago_keeps_1_eq (by assumption) ?_ | with_reducible refine State.doHalt_keeps_1_eq (by assumption) ?_ | with_reducible refine State.beamsel_keeps_1_eq (by assumption) ?_ | with_reducible refine State.doBcond_keeps_1_eq (by assumption) ?_ | with_reducible refine State.portsel_keeps_1_eq (by assumption) ?_ | with_reducible refine State.doRreg_keeps_1_eq (by assumption) ?_ | with_reducible refine State.doLoop_keeps_1_eq (by assumption) ?_ | with_reducible refine State.doWaitev_keeps_1_eq (by assumption) ?_ | with_reducible refine State.staccM_keeps_1_eq (by assumption) ?_ | with_reducible refine State.doCvfeed_keeps_1_eq (by assumption) ?_ | with_reducible refine State.doCall_keeps_1_eq (by assumption) ?_ | with_reducible refine State.bexp_keeps_1_eq (by assumption) ?_ | with_reducible refine State.lohop_keeps_1_eq (by assumption) ?_ | with_reducible refine State.doLd_keeps_1_eq (by assumption) ?_ | with_reducible refine State.pstate_keeps_1_eq (by assumption) ?_ | with_reducible refine State.doWaitt_keeps_1_eq (by assumption) ?_ | with_reducible refine State.ldx_keeps_1_eq (by assumption) ?_ | with_reducible refine State.doCmpl_keeps_1_eq (by assumption) ?_ | with_reducible refine State.wswap_keeps_1_eq (by assumption) ?_ | with_reducible refine State.doRet_keeps_1_eq (by assumption) ?_ | with_reducible refine State.doFence_keeps_1_eq (by assumption) ?_ | with_reducible refine State.doSt_keeps_1_eq (by assumption) ?_ | with_reducible apply Keeps.fold | intro _ | split)
theorem State.perform_keeps_1_eq {b0 : State} {s : State} {th u : Nat} {o : Op} {x0 x1} (he : State.perform s th u o = (x0, x1)) (k_ : Keeps b0 s) : Keeps b0 x0 := by
  have := State.perform_keeps_1 th u o k_
  rw [he] at this
  exact this
theorem State.run_keeps {b0 : State} {s : State} (th : Nat) (o : Op) (k_ : Keeps b0 s) : Keeps b0 (State.run s th o) := by
  unfold State.run
  try dsimp only
  repeat' (first | with_reducible assumption | with_reducible apply State.retire_keeps | with_reducible apply State.perform_keeps_1 | with_reducible apply State.begun_keeps)
theorem State.start_keeps {b0 : State} {s : State} (th : Nat) (o : Op) (k_ : Keeps b0 s) : Keeps b0 (State.start s th o) := by
  unfold State.start
  try dsimp only
  repeat' (first | with_reducible assumption | with_reducible apply State.setThState_keeps | with_reducible apply State.setFlag_keeps | with_reducible apply State.run_keeps | with_reducible apply Keeps.fold | intro _ | split)
theorem State.issueIf_keeps {b0 : State} {s : State} (th : Nat) (wanted : Op → Bool) (k_ : Keeps b0 s) : Keeps b0 (State.issueIf s th wanted) := by
  unfold State.issueIf
  try dsimp only
  repeat' (first | with_reducible assumption | with_reducible apply State.start_keeps | with_reducible apply State.faultThread_keeps | with_reducible apply State.debugStop_keeps | with_reducible apply State.fetchOp_keeps_2 | with_reducible refine State.fetchOp_keeps_2_eq (by assumption) ?_ | with_reducible apply Keeps.fold | intro _ | split)
theorem State.issue_keeps {b0 : State} {s : State} (th : Nat) (row : Instr) (k_ : Keeps b0 s) : Keeps b0 (State.issue s th row) := by
  unfold State.issue
  try dsimp only
  repeat' (first | with_reducible assumption | with_reducible apply State.issueIf_keeps)

theorem State.endWait_keeps {b0 : State} {s : State} (th : Nat) (k_ : Keeps b0 s) : Keeps b0 (State.endWait s th) := by
  unfold State.endWait
  try dsimp only
  repeat' (first | with_reducible assumption | with_reducible apply State.advance_keeps | with_reducible apply State.setThState_keeps | with_reducible apply State.setThread_keeps)
theorem State.writeDest_keeps {b0 : State} {s : State} (th : Nat) (k_ : Keeps b0 s) : Keeps b0 (State.writeDest s th) := by
  unfold State.writeDest
  try dsimp only
  repeat' (first | with_reducible assumption | with_reducible apply State.setG_keeps | with_reducible apply Keeps.fold | intro _ | split)
theorem State.reissue_keeps {b0 : State} {s : State} (th : Nat) (k_ : Keeps b0 s) : Keeps b0 (State.reissue s th) := by
  unfold State.reissue
  try dsimp only
  repeat' (first | with_reducible assumption | with_reducible apply State.setThState_keeps | with_reducible apply State.setThread_keeps)
theorem State.accepted_keeps {b0 : State} {s : State} (th : Nat) (k_ : Keeps b0 s) : Keeps b0 (State.accepted s th) := by
  unfold State.accepted
  try dsimp only
  repeat' (first | with_reducible assumption | with_reducible apply State.faultThread_keeps | with_reducible apply State.run_keeps | with_reducible apply State.fetchOp_keeps_2 | with_reducible refine State.fetchOp_keeps_2_eq (by assumption) ?_ | with_reducible apply Keeps.fold | intro _ | split)
theorem State.wakeThread_keeps {b0 : State} {s : State} (th : Nat) (k_ : Keeps b0 s) : Keeps b0 (State.wakeThread s th) := by
  unfold State.wakeThread
  try dsimp only
  repeat' (first | with_reducible assumption | with_reducible apply State.leaveDu_keeps | with_reducible apply State.endWait_keeps | with_reducible apply State.writeDest_keeps | with_reducible apply State.endFence_keeps | with_reducible apply State.accepted_keeps | with_reducible apply State.reissue_keeps | with_reducible apply State.setStat_keeps | with_reducible apply Keeps.fold | intro _ | split)
theorem State.wakeTime_keeps {b0 : State} {s : State} (th : Nat) (k_ : Keeps b0 s) : Keeps b0 (State.wakeTime s th) := by
  unfold State.wakeTime
  try dsimp only
  repeat' (first | with_reducible assumption | with_reducible apply State.wakeThread_keeps | with_reducible apply Keeps.fold | intro _ | split)
theorem State.fireWdt_keeps {b0 : State} {s : State} (th : Nat) (k_ : Keeps b0 s) : Keeps b0 (State.fireWdt s th) := by
  unfold State.fireWdt
  try dsimp only
  repeat' (first | with_reducible assumption | with_reducible apply State.leaveDu_keeps | with_reducible apply State.faultThread_keeps | with_reducible apply State.setThread_keeps | with_reducible apply State.forceWarm_keeps | with_reducible apply Keeps.fold | intro _ | split)
theorem State.watchdog_keeps {b0 : State} {s : State} (th : Nat) (k_ : Keeps b0 s) : Keeps b0 (State.watchdog s th) := by
  unfold State.watchdog
  try dsimp only
  repeat' (first | with_reducible assumption | with_reducible apply State.fireWdt_keeps | with_reducible apply Keeps.fold | intro _ | split)
theorem State.wdtTick_keeps {b0 : State} {s : State} (k_ : Keeps b0 s) : Keeps b0 (State.wdtTick s) := by
  unfold State.wdtTick
  try dsimp only
  repeat' (first | with_reducible assumption | with_reducible apply State.setThread_keeps | with_reducible apply Keeps.fold | intro _ | split)
theorem State.endBlock_keeps {b0 : State} {s : State} (u : Nat) (k_ : Keeps b0 s) : Keeps b0 (State.endBlock s u) := by
  unfold State.endBlock
  try dsimp only
  repeat' (first | with_reducible assumption | with_reducible apply State.advance_keeps | with_reducible apply State.bump_keeps | with_reducible apply State.setFlag_keeps | with_reducible apply State.setThread_keeps | with_reducible apply State.setEv_keeps | with_reducible apply State.watchdog_keeps | with_reducible apply Keeps.fold | intro _ | split)
theorem State.wakeRestarts_keeps {b0 : State} {s : State} (k_ : Keeps b0 s) : Keeps b0 (State.wakeRestarts s) := by
  unfold State.wakeRestarts
  try dsimp only
  repeat' (first | with_reducible assumption | with_reducible apply State.freshStart_keeps | with_reducible apply Keeps.fold | intro _ | split)
theorem State.endSpring_keeps {b0 : State} {s : State} (k_ : Keeps b0 s) : Keeps b0 (State.endSpring s) := by
  unfold State.endSpring
  try dsimp only
  repeat' (first | with_reducible assumption | with_reducible apply State.wakeRestarts_keeps | with_reducible apply State.setSeason_keeps | with_reducible apply State.takeRequest_keeps | with_reducible apply State.powerEval_keeps | with_reducible apply Keeps.fold | intro _ | split | with_reducible apply Keeps.spoil | with_reducible apply Keeps.rest)

theorem State.probeOne_keeps {b0 : State} {s : State} (k v : Nat) (k_ : Keeps b0 s) : Keeps b0 (State.probeOne s k v) := by
  unfold State.probeOne
  try dsimp only
  repeat' (first | with_reducible assumption | with_reducible apply State.capRecord_keeps | with_reducible apply Keeps.fold | intro _ | split)
theorem State.probeCycle_keeps {b0 : State} {s : State} (k_ : Keeps b0 s) : Keeps b0 (State.probeCycle s) := by
  unfold State.probeCycle
  try dsimp only
  repeat' (first | with_reducible assumption | with_reducible apply State.seqCount_keeps | with_reducible apply State.probeOne_keeps | with_reducible apply Keeps.fold | intro _ | split | with_reducible apply Keeps.spoil | with_reducible apply Keeps.rest)
theorem State.capCycle_keeps {b0 : State} {s : State} (k_ : Keeps b0 s) : Keeps b0 (State.capCycle s) := by
  unfold State.capCycle
  try dsimp only
  repeat' (first | with_reducible assumption | with_reducible apply State.probeCycle_keeps | with_reducible apply State.depth_keeps_2 | with_reducible refine State.depth_keeps_2_eq (by assumption) ?_ | with_reducible apply Keeps.fold | intro _ | split | with_reducible apply Keeps.spoil | with_reducible apply Keeps.rest)
theorem State.capTick_keeps {b0 : State} {s : State} (k_ : Keeps b0 s) : Keeps b0 (State.capTick s) := by
  unfold State.capTick
  try dsimp only
  repeat' (first | with_reducible assumption | with_reducible apply State.capCycle_keeps | with_reducible apply Keeps.fold | intro _ | split | with_reducible apply Keeps.spoil | with_reducible apply Keeps.rest)

theorem State.passSilent_keeps {b0 : State} {s : State} (k_ : Keeps b0 s) : Keeps b0 (State.passSilent s) := by
  unfold State.passSilent
  try dsimp only
  repeat' (first | with_reducible assumption | with_reducible apply Keeps.fold | intro _ | split | with_reducible apply Keeps.spoil | with_reducible apply Keeps.rest)
theorem State.tick_keeps {b0 : State} {s : State} (k_ : Keeps b0 s) : Keeps b0 (State.tick s) := by
  unfold State.tick
  try dsimp only
  repeat' (first | with_reducible assumption | with_reducible apply State.samples_keeps | with_reducible apply State.dutyTick_keeps | with_reducible apply State.passSilent_keeps | with_reducible apply State.timeTick_keeps | with_reducible apply State.wdtTick_keeps | with_reducible apply State.capTick_keeps)

end Sys2Proof.Machine
end

