-- ==== Sys2Proof/Laws/State.lean ====
section
/-! SUPPORT. One lemma per field per update of the state: what an update leaves as it was. -/
namespace Sys2Proof.Machine

variable (s : State)

@[simp] theorem setReg_pending (o : Nat) (v : Word) : (s.setReg o v).pending = s.pending := rfl
@[simp] theorem setReg_force (o : Nat) (v : Word) : (s.setReg o v).force = s.force := rfl
@[simp] theorem setReg_mem (o : Nat) (v : Word) : (s.setReg o v).mem = s.mem := rfl
@[simp] theorem setReg_ecc (o : Nat) (v : Word) : (s.setReg o v).ecc = s.ecc := rfl
@[simp] theorem setReg_nvm (o : Nat) (v : Word) : (s.setReg o v).nvm = s.nvm := rfl
@[simp] theorem setReg_nvmEcc (o : Nat) (v : Word) : (s.setReg o v).nvmEcc = s.nvmEcc := rfl
@[simp] theorem setReg_out (o : Nat) (v : Word) : (s.setReg o v).out = s.out := rfl
@[simp] theorem setReg_free (o : Nat) (v : Word) : (s.setReg o v).free = s.free := rfl
@[simp] theorem setReg_shadow (o : Nat) (v : Word) : (s.setReg o v).shadow = s.shadow := rfl
@[simp] theorem setReg_th (o : Nat) (v : Word) : (s.setReg o v).th = s.th := rfl
@[simp] theorem setReg_pipe (o : Nat) (v : Word) : (s.setReg o v).pipe = s.pipe := rfl
@[simp] theorem setReg_taq (o : Nat) (v : Word) : (s.setReg o v).taq = s.taq := rfl
@[simp] theorem setReg_tags (o : Nat) (v : Word) : (s.setReg o v).tags = s.tags := rfl
@[simp] theorem setReg_seq (o : Nat) (v : Word) : (s.setReg o v).seq = s.seq := rfl
@[simp] theorem setReg_air (o : Nat) (v : Word) : (s.setReg o v).air = s.air := rfl
@[simp] theorem setReg_pins (o : Nat) (v : Word) : (s.setReg o v).pins = s.pins := rfl
@[simp] theorem setReg_bda (o : Nat) (v : Word) : (s.setReg o v).bda = s.bda := rfl
@[simp] theorem setReg_los (o : Nat) (v : Word) : (s.setReg o v).los = s.los := rfl
@[simp] theorem setReg_cal (o : Nat) (v : Word) : (s.setReg o v).cal = s.cal := rfl
@[simp] theorem setReg_jrn (o : Nat) (v : Word) : (s.setReg o v).jrn = s.jrn := rfl
@[simp] theorem setReg_bme (o : Nat) (v : Word) : (s.setReg o v).bme = s.bme := rfl
@[simp] theorem setReg_smp (o : Nat) (v : Word) : (s.setReg o v).smp = s.smp := rfl
@[simp] theorem setReg_lin (o : Nat) (v : Word) : (s.setReg o v).lin = s.lin := rfl
@[simp] theorem setReg_time (o : Nat) (v : Word) : (s.setReg o v).time = s.time := rfl
@[simp] theorem setReg_cap (o : Nat) (v : Word) : (s.setReg o v).cap = s.cap := rfl
@[simp] theorem setReg_pwr (o : Nat) (v : Word) : (s.setReg o v).pwr = s.pwr := rfl
@[simp] theorem setReg_thm (o : Nat) (v : Word) : (s.setReg o v).thm = s.thm := rfl
@[simp] theorem setReg_sects (o : Nat) (v : Word) : (s.setReg o v).sects = s.sects := rfl
@[simp] theorem setReg_arg (o : Nat) (v : Word) : (s.setReg o v).arg = s.arg := rfl
@[simp] theorem setReg_sec (o : Nat) (v : Word) : (s.setReg o v).sec = s.sec := rfl
@[simp] theorem setReg_host (o : Nat) (v : Word) : (s.setReg o v).host = s.host := rfl
@[simp] theorem setReg_fhp (o : Nat) (v : Word) : (s.setReg o v).fhp = s.fhp := rfl
@[simp] theorem setReg_dma (o : Nat) (v : Word) : (s.setReg o v).dma = s.dma := rfl
@[simp] theorem setReg_cvu (o : Nat) (v : Word) : (s.setReg o v).cvu = s.cvu := rfl
@[simp] theorem setReg_tap (o : Nat) (v : Word) : (s.setReg o v).tap = s.tap := rfl
@[simp] theorem setReg_ready (o : Nat) (v : Word) : (s.setReg o v).ready = s.ready := rfl
@[simp] theorem setReg_msixEn (o : Nat) (v : Word) : (s.setReg o v).msixEn = s.msixEn := rfl
@[simp] theorem setReg_d3 (o : Nat) (v : Word) : (s.setReg o v).d3 = s.d3 := rfl
@[simp] theorem setReg_boot (o : Nat) (v : Word) : (s.setReg o v).boot = s.boot := rfl

@[simp] theorem setFld_pending (o hi lo v : Nat) : (s.setFld o hi lo v).pending = s.pending := rfl
@[simp] theorem setFld_force (o hi lo v : Nat) : (s.setFld o hi lo v).force = s.force := rfl
@[simp] theorem setFld_mem (o hi lo v : Nat) : (s.setFld o hi lo v).mem = s.mem := rfl
@[simp] theorem setFld_ecc (o hi lo v : Nat) : (s.setFld o hi lo v).ecc = s.ecc := rfl
@[simp] theorem setFld_nvm (o hi lo v : Nat) : (s.setFld o hi lo v).nvm = s.nvm := rfl
@[simp] theorem setFld_nvmEcc (o hi lo v : Nat) : (s.setFld o hi lo v).nvmEcc = s.nvmEcc := rfl
@[simp] theorem setFld_out (o hi lo v : Nat) : (s.setFld o hi lo v).out = s.out := rfl
@[simp] theorem setFld_free (o hi lo v : Nat) : (s.setFld o hi lo v).free = s.free := rfl
@[simp] theorem setFld_shadow (o hi lo v : Nat) : (s.setFld o hi lo v).shadow = s.shadow := rfl
@[simp] theorem setFld_th (o hi lo v : Nat) : (s.setFld o hi lo v).th = s.th := rfl
@[simp] theorem setFld_pipe (o hi lo v : Nat) : (s.setFld o hi lo v).pipe = s.pipe := rfl
@[simp] theorem setFld_taq (o hi lo v : Nat) : (s.setFld o hi lo v).taq = s.taq := rfl
@[simp] theorem setFld_tags (o hi lo v : Nat) : (s.setFld o hi lo v).tags = s.tags := rfl
@[simp] theorem setFld_seq (o hi lo v : Nat) : (s.setFld o hi lo v).seq = s.seq := rfl
@[simp] theorem setFld_air (o hi lo v : Nat) : (s.setFld o hi lo v).air = s.air := rfl
@[simp] theorem setFld_pins (o hi lo v : Nat) : (s.setFld o hi lo v).pins = s.pins := rfl
@[simp] theorem setFld_bda (o hi lo v : Nat) : (s.setFld o hi lo v).bda = s.bda := rfl
@[simp] theorem setFld_los (o hi lo v : Nat) : (s.setFld o hi lo v).los = s.los := rfl
@[simp] theorem setFld_cal (o hi lo v : Nat) : (s.setFld o hi lo v).cal = s.cal := rfl
@[simp] theorem setFld_jrn (o hi lo v : Nat) : (s.setFld o hi lo v).jrn = s.jrn := rfl
@[simp] theorem setFld_bme (o hi lo v : Nat) : (s.setFld o hi lo v).bme = s.bme := rfl
@[simp] theorem setFld_smp (o hi lo v : Nat) : (s.setFld o hi lo v).smp = s.smp := rfl
@[simp] theorem setFld_lin (o hi lo v : Nat) : (s.setFld o hi lo v).lin = s.lin := rfl
@[simp] theorem setFld_time (o hi lo v : Nat) : (s.setFld o hi lo v).time = s.time := rfl
@[simp] theorem setFld_cap (o hi lo v : Nat) : (s.setFld o hi lo v).cap = s.cap := rfl
@[simp] theorem setFld_pwr (o hi lo v : Nat) : (s.setFld o hi lo v).pwr = s.pwr := rfl
@[simp] theorem setFld_thm (o hi lo v : Nat) : (s.setFld o hi lo v).thm = s.thm := rfl
@[simp] theorem setFld_sects (o hi lo v : Nat) : (s.setFld o hi lo v).sects = s.sects := rfl
@[simp] theorem setFld_arg (o hi lo v : Nat) : (s.setFld o hi lo v).arg = s.arg := rfl
@[simp] theorem setFld_sec (o hi lo v : Nat) : (s.setFld o hi lo v).sec = s.sec := rfl
@[simp] theorem setFld_host (o hi lo v : Nat) : (s.setFld o hi lo v).host = s.host := rfl
@[simp] theorem setFld_fhp (o hi lo v : Nat) : (s.setFld o hi lo v).fhp = s.fhp := rfl
@[simp] theorem setFld_dma (o hi lo v : Nat) : (s.setFld o hi lo v).dma = s.dma := rfl
@[simp] theorem setFld_cvu (o hi lo v : Nat) : (s.setFld o hi lo v).cvu = s.cvu := rfl
@[simp] theorem setFld_tap (o hi lo v : Nat) : (s.setFld o hi lo v).tap = s.tap := rfl
@[simp] theorem setFld_ready (o hi lo v : Nat) : (s.setFld o hi lo v).ready = s.ready := rfl
@[simp] theorem setFld_msixEn (o hi lo v : Nat) : (s.setFld o hi lo v).msixEn = s.msixEn := rfl
@[simp] theorem setFld_d3 (o hi lo v : Nat) : (s.setFld o hi lo v).d3 = s.d3 := rfl
@[simp] theorem setFld_boot (o hi lo v : Nat) : (s.setFld o hi lo v).boot = s.boot := rfl

@[simp] theorem setFlag_pending (o i : Nat) (b : Bool) : (s.setFlag o i b).pending = s.pending := rfl
@[simp] theorem setFlag_force (o i : Nat) (b : Bool) : (s.setFlag o i b).force = s.force := rfl
@[simp] theorem setFlag_mem (o i : Nat) (b : Bool) : (s.setFlag o i b).mem = s.mem := rfl
@[simp] theorem setFlag_ecc (o i : Nat) (b : Bool) : (s.setFlag o i b).ecc = s.ecc := rfl
@[simp] theorem setFlag_nvm (o i : Nat) (b : Bool) : (s.setFlag o i b).nvm = s.nvm := rfl
@[simp] theorem setFlag_nvmEcc (o i : Nat) (b : Bool) : (s.setFlag o i b).nvmEcc = s.nvmEcc := rfl
@[simp] theorem setFlag_out (o i : Nat) (b : Bool) : (s.setFlag o i b).out = s.out := rfl
@[simp] theorem setFlag_free (o i : Nat) (b : Bool) : (s.setFlag o i b).free = s.free := rfl
@[simp] theorem setFlag_shadow (o i : Nat) (b : Bool) : (s.setFlag o i b).shadow = s.shadow := rfl
@[simp] theorem setFlag_th (o i : Nat) (b : Bool) : (s.setFlag o i b).th = s.th := rfl
@[simp] theorem setFlag_pipe (o i : Nat) (b : Bool) : (s.setFlag o i b).pipe = s.pipe := rfl
@[simp] theorem setFlag_taq (o i : Nat) (b : Bool) : (s.setFlag o i b).taq = s.taq := rfl
@[simp] theorem setFlag_tags (o i : Nat) (b : Bool) : (s.setFlag o i b).tags = s.tags := rfl
@[simp] theorem setFlag_seq (o i : Nat) (b : Bool) : (s.setFlag o i b).seq = s.seq := rfl
@[simp] theorem setFlag_air (o i : Nat) (b : Bool) : (s.setFlag o i b).air = s.air := rfl
@[simp] theorem setFlag_pins (o i : Nat) (b : Bool) : (s.setFlag o i b).pins = s.pins := rfl
@[simp] theorem setFlag_bda (o i : Nat) (b : Bool) : (s.setFlag o i b).bda = s.bda := rfl
@[simp] theorem setFlag_los (o i : Nat) (b : Bool) : (s.setFlag o i b).los = s.los := rfl
@[simp] theorem setFlag_cal (o i : Nat) (b : Bool) : (s.setFlag o i b).cal = s.cal := rfl
@[simp] theorem setFlag_jrn (o i : Nat) (b : Bool) : (s.setFlag o i b).jrn = s.jrn := rfl
@[simp] theorem setFlag_bme (o i : Nat) (b : Bool) : (s.setFlag o i b).bme = s.bme := rfl
@[simp] theorem setFlag_smp (o i : Nat) (b : Bool) : (s.setFlag o i b).smp = s.smp := rfl
@[simp] theorem setFlag_lin (o i : Nat) (b : Bool) : (s.setFlag o i b).lin = s.lin := rfl
@[simp] theorem setFlag_time (o i : Nat) (b : Bool) : (s.setFlag o i b).time = s.time := rfl
@[simp] theorem setFlag_cap (o i : Nat) (b : Bool) : (s.setFlag o i b).cap = s.cap := rfl
@[simp] theorem setFlag_pwr (o i : Nat) (b : Bool) : (s.setFlag o i b).pwr = s.pwr := rfl
@[simp] theorem setFlag_thm (o i : Nat) (b : Bool) : (s.setFlag o i b).thm = s.thm := rfl
@[simp] theorem setFlag_sects (o i : Nat) (b : Bool) : (s.setFlag o i b).sects = s.sects := rfl
@[simp] theorem setFlag_arg (o i : Nat) (b : Bool) : (s.setFlag o i b).arg = s.arg := rfl
@[simp] theorem setFlag_sec (o i : Nat) (b : Bool) : (s.setFlag o i b).sec = s.sec := rfl
@[simp] theorem setFlag_host (o i : Nat) (b : Bool) : (s.setFlag o i b).host = s.host := rfl
@[simp] theorem setFlag_fhp (o i : Nat) (b : Bool) : (s.setFlag o i b).fhp = s.fhp := rfl
@[simp] theorem setFlag_dma (o i : Nat) (b : Bool) : (s.setFlag o i b).dma = s.dma := rfl
@[simp] theorem setFlag_cvu (o i : Nat) (b : Bool) : (s.setFlag o i b).cvu = s.cvu := rfl
@[simp] theorem setFlag_tap (o i : Nat) (b : Bool) : (s.setFlag o i b).tap = s.tap := rfl
@[simp] theorem setFlag_ready (o i : Nat) (b : Bool) : (s.setFlag o i b).ready = s.ready := rfl
@[simp] theorem setFlag_msixEn (o i : Nat) (b : Bool) : (s.setFlag o i b).msixEn = s.msixEn := rfl
@[simp] theorem setFlag_d3 (o i : Nat) (b : Bool) : (s.setFlag o i b).d3 = s.d3 := rfl
@[simp] theorem setFlag_boot (o i : Nat) (b : Bool) : (s.setFlag o i b).boot = s.boot := rfl

@[simp] theorem count_pending (o hi lo k : Nat) : (s.count o hi lo k).pending = s.pending := rfl
@[simp] theorem count_force (o hi lo k : Nat) : (s.count o hi lo k).force = s.force := rfl
@[simp] theorem count_mem (o hi lo k : Nat) : (s.count o hi lo k).mem = s.mem := rfl
@[simp] theorem count_ecc (o hi lo k : Nat) : (s.count o hi lo k).ecc = s.ecc := rfl
@[simp] theorem count_nvm (o hi lo k : Nat) : (s.count o hi lo k).nvm = s.nvm := rfl
@[simp] theorem count_nvmEcc (o hi lo k : Nat) : (s.count o hi lo k).nvmEcc = s.nvmEcc := rfl
@[simp] theorem count_out (o hi lo k : Nat) : (s.count o hi lo k).out = s.out := rfl
@[simp] theorem count_free (o hi lo k : Nat) : (s.count o hi lo k).free = s.free := rfl
@[simp] theorem count_shadow (o hi lo k : Nat) : (s.count o hi lo k).shadow = s.shadow := rfl
@[simp] theorem count_th (o hi lo k : Nat) : (s.count o hi lo k).th = s.th := rfl
@[simp] theorem count_pipe (o hi lo k : Nat) : (s.count o hi lo k).pipe = s.pipe := rfl
@[simp] theorem count_taq (o hi lo k : Nat) : (s.count o hi lo k).taq = s.taq := rfl
@[simp] theorem count_tags (o hi lo k : Nat) : (s.count o hi lo k).tags = s.tags := rfl
@[simp] theorem count_seq (o hi lo k : Nat) : (s.count o hi lo k).seq = s.seq := rfl
@[simp] theorem count_air (o hi lo k : Nat) : (s.count o hi lo k).air = s.air := rfl
@[simp] theorem count_pins (o hi lo k : Nat) : (s.count o hi lo k).pins = s.pins := rfl
@[simp] theorem count_bda (o hi lo k : Nat) : (s.count o hi lo k).bda = s.bda := rfl
@[simp] theorem count_los (o hi lo k : Nat) : (s.count o hi lo k).los = s.los := rfl
@[simp] theorem count_cal (o hi lo k : Nat) : (s.count o hi lo k).cal = s.cal := rfl
@[simp] theorem count_jrn (o hi lo k : Nat) : (s.count o hi lo k).jrn = s.jrn := rfl
@[simp] theorem count_bme (o hi lo k : Nat) : (s.count o hi lo k).bme = s.bme := rfl
@[simp] theorem count_smp (o hi lo k : Nat) : (s.count o hi lo k).smp = s.smp := rfl
@[simp] theorem count_lin (o hi lo k : Nat) : (s.count o hi lo k).lin = s.lin := rfl
@[simp] theorem count_time (o hi lo k : Nat) : (s.count o hi lo k).time = s.time := rfl
@[simp] theorem count_cap (o hi lo k : Nat) : (s.count o hi lo k).cap = s.cap := rfl
@[simp] theorem count_pwr (o hi lo k : Nat) : (s.count o hi lo k).pwr = s.pwr := rfl
@[simp] theorem count_thm (o hi lo k : Nat) : (s.count o hi lo k).thm = s.thm := rfl
@[simp] theorem count_sects (o hi lo k : Nat) : (s.count o hi lo k).sects = s.sects := rfl
@[simp] theorem count_arg (o hi lo k : Nat) : (s.count o hi lo k).arg = s.arg := rfl
@[simp] theorem count_sec (o hi lo k : Nat) : (s.count o hi lo k).sec = s.sec := rfl
@[simp] theorem count_host (o hi lo k : Nat) : (s.count o hi lo k).host = s.host := rfl
@[simp] theorem count_fhp (o hi lo k : Nat) : (s.count o hi lo k).fhp = s.fhp := rfl
@[simp] theorem count_dma (o hi lo k : Nat) : (s.count o hi lo k).dma = s.dma := rfl
@[simp] theorem count_cvu (o hi lo k : Nat) : (s.count o hi lo k).cvu = s.cvu := rfl
@[simp] theorem count_tap (o hi lo k : Nat) : (s.count o hi lo k).tap = s.tap := rfl
@[simp] theorem count_ready (o hi lo k : Nat) : (s.count o hi lo k).ready = s.ready := rfl
@[simp] theorem count_msixEn (o hi lo k : Nat) : (s.count o hi lo k).msixEn = s.msixEn := rfl
@[simp] theorem count_d3 (o hi lo k : Nat) : (s.count o hi lo k).d3 = s.d3 := rfl
@[simp] theorem count_boot (o hi lo k : Nat) : (s.count o hi lo k).boot = s.boot := rfl

@[simp] theorem bump_pending (o : Nat) : (s.bump o).pending = s.pending := rfl
@[simp] theorem bump_force (o : Nat) : (s.bump o).force = s.force := rfl
@[simp] theorem bump_mem (o : Nat) : (s.bump o).mem = s.mem := rfl
@[simp] theorem bump_ecc (o : Nat) : (s.bump o).ecc = s.ecc := rfl
@[simp] theorem bump_nvm (o : Nat) : (s.bump o).nvm = s.nvm := rfl
@[simp] theorem bump_nvmEcc (o : Nat) : (s.bump o).nvmEcc = s.nvmEcc := rfl
@[simp] theorem bump_out (o : Nat) : (s.bump o).out = s.out := rfl
@[simp] theorem bump_free (o : Nat) : (s.bump o).free = s.free := rfl
@[simp] theorem bump_shadow (o : Nat) : (s.bump o).shadow = s.shadow := rfl
@[simp] theorem bump_th (o : Nat) : (s.bump o).th = s.th := rfl
@[simp] theorem bump_pipe (o : Nat) : (s.bump o).pipe = s.pipe := rfl
@[simp] theorem bump_taq (o : Nat) : (s.bump o).taq = s.taq := rfl
@[simp] theorem bump_tags (o : Nat) : (s.bump o).tags = s.tags := rfl
@[simp] theorem bump_seq (o : Nat) : (s.bump o).seq = s.seq := rfl
@[simp] theorem bump_air (o : Nat) : (s.bump o).air = s.air := rfl
@[simp] theorem bump_pins (o : Nat) : (s.bump o).pins = s.pins := rfl
@[simp] theorem bump_bda (o : Nat) : (s.bump o).bda = s.bda := rfl
@[simp] theorem bump_los (o : Nat) : (s.bump o).los = s.los := rfl
@[simp] theorem bump_cal (o : Nat) : (s.bump o).cal = s.cal := rfl
@[simp] theorem bump_jrn (o : Nat) : (s.bump o).jrn = s.jrn := rfl
@[simp] theorem bump_bme (o : Nat) : (s.bump o).bme = s.bme := rfl
@[simp] theorem bump_smp (o : Nat) : (s.bump o).smp = s.smp := rfl
@[simp] theorem bump_lin (o : Nat) : (s.bump o).lin = s.lin := rfl
@[simp] theorem bump_time (o : Nat) : (s.bump o).time = s.time := rfl
@[simp] theorem bump_cap (o : Nat) : (s.bump o).cap = s.cap := rfl
@[simp] theorem bump_pwr (o : Nat) : (s.bump o).pwr = s.pwr := rfl
@[simp] theorem bump_thm (o : Nat) : (s.bump o).thm = s.thm := rfl
@[simp] theorem bump_sects (o : Nat) : (s.bump o).sects = s.sects := rfl
@[simp] theorem bump_arg (o : Nat) : (s.bump o).arg = s.arg := rfl
@[simp] theorem bump_sec (o : Nat) : (s.bump o).sec = s.sec := rfl
@[simp] theorem bump_host (o : Nat) : (s.bump o).host = s.host := rfl
@[simp] theorem bump_fhp (o : Nat) : (s.bump o).fhp = s.fhp := rfl
@[simp] theorem bump_dma (o : Nat) : (s.bump o).dma = s.dma := rfl
@[simp] theorem bump_cvu (o : Nat) : (s.bump o).cvu = s.cvu := rfl
@[simp] theorem bump_tap (o : Nat) : (s.bump o).tap = s.tap := rfl
@[simp] theorem bump_ready (o : Nat) : (s.bump o).ready = s.ready := rfl
@[simp] theorem bump_msixEn (o : Nat) : (s.bump o).msixEn = s.msixEn := rfl
@[simp] theorem bump_d3 (o : Nat) : (s.bump o).d3 = s.d3 := rfl
@[simp] theorem bump_boot (o : Nat) : (s.bump o).boot = s.boot := rfl

@[simp] theorem apply_pending (o : Nat) : (s.apply o).pending = s.pending := rfl
@[simp] theorem apply_regs (o : Nat) : (s.apply o).regs = s.regs := rfl
@[simp] theorem apply_mem (o : Nat) : (s.apply o).mem = s.mem := rfl
@[simp] theorem apply_ecc (o : Nat) : (s.apply o).ecc = s.ecc := rfl
@[simp] theorem apply_nvm (o : Nat) : (s.apply o).nvm = s.nvm := rfl
@[simp] theorem apply_nvmEcc (o : Nat) : (s.apply o).nvmEcc = s.nvmEcc := rfl
@[simp] theorem apply_out (o : Nat) : (s.apply o).out = s.out := rfl
@[simp] theorem apply_free (o : Nat) : (s.apply o).free = s.free := rfl
@[simp] theorem apply_shadow (o : Nat) : (s.apply o).shadow = s.shadow := rfl
@[simp] theorem apply_th (o : Nat) : (s.apply o).th = s.th := rfl
@[simp] theorem apply_pipe (o : Nat) : (s.apply o).pipe = s.pipe := rfl
@[simp] theorem apply_taq (o : Nat) : (s.apply o).taq = s.taq := rfl
@[simp] theorem apply_tags (o : Nat) : (s.apply o).tags = s.tags := rfl
@[simp] theorem apply_seq (o : Nat) : (s.apply o).seq = s.seq := rfl
@[simp] theorem apply_air (o : Nat) : (s.apply o).air = s.air := rfl
@[simp] theorem apply_pins (o : Nat) : (s.apply o).pins = s.pins := rfl
@[simp] theorem apply_bda (o : Nat) : (s.apply o).bda = s.bda := rfl
@[simp] theorem apply_los (o : Nat) : (s.apply o).los = s.los := rfl
@[simp] theorem apply_cal (o : Nat) : (s.apply o).cal = s.cal := rfl
@[simp] theorem apply_jrn (o : Nat) : (s.apply o).jrn = s.jrn := rfl
@[simp] theorem apply_bme (o : Nat) : (s.apply o).bme = s.bme := rfl
@[simp] theorem apply_smp (o : Nat) : (s.apply o).smp = s.smp := rfl
@[simp] theorem apply_lin (o : Nat) : (s.apply o).lin = s.lin := rfl
@[simp] theorem apply_time (o : Nat) : (s.apply o).time = s.time := rfl
@[simp] theorem apply_cap (o : Nat) : (s.apply o).cap = s.cap := rfl
@[simp] theorem apply_pwr (o : Nat) : (s.apply o).pwr = s.pwr := rfl
@[simp] theorem apply_thm (o : Nat) : (s.apply o).thm = s.thm := rfl
@[simp] theorem apply_sects (o : Nat) : (s.apply o).sects = s.sects := rfl
@[simp] theorem apply_arg (o : Nat) : (s.apply o).arg = s.arg := rfl
@[simp] theorem apply_sec (o : Nat) : (s.apply o).sec = s.sec := rfl
@[simp] theorem apply_host (o : Nat) : (s.apply o).host = s.host := rfl
@[simp] theorem apply_fhp (o : Nat) : (s.apply o).fhp = s.fhp := rfl
@[simp] theorem apply_dma (o : Nat) : (s.apply o).dma = s.dma := rfl
@[simp] theorem apply_cvu (o : Nat) : (s.apply o).cvu = s.cvu := rfl
@[simp] theorem apply_tap (o : Nat) : (s.apply o).tap = s.tap := rfl
@[simp] theorem apply_ready (o : Nat) : (s.apply o).ready = s.ready := rfl
@[simp] theorem apply_msixEn (o : Nat) : (s.apply o).msixEn = s.msixEn := rfl
@[simp] theorem apply_d3 (o : Nat) : (s.apply o).d3 = s.d3 := rfl
@[simp] theorem apply_boot (o : Nat) : (s.apply o).boot = s.boot := rfl

@[simp] theorem send_pending (o : Out) : (s.send o).pending = s.pending := rfl
@[simp] theorem send_regs (o : Out) : (s.send o).regs = s.regs := rfl
@[simp] theorem send_force (o : Out) : (s.send o).force = s.force := rfl
@[simp] theorem send_mem (o : Out) : (s.send o).mem = s.mem := rfl
@[simp] theorem send_ecc (o : Out) : (s.send o).ecc = s.ecc := rfl
@[simp] theorem send_nvm (o : Out) : (s.send o).nvm = s.nvm := rfl
@[simp] theorem send_nvmEcc (o : Out) : (s.send o).nvmEcc = s.nvmEcc := rfl
@[simp] theorem send_free (o : Out) : (s.send o).free = s.free := rfl
@[simp] theorem send_shadow (o : Out) : (s.send o).shadow = s.shadow := rfl
@[simp] theorem send_th (o : Out) : (s.send o).th = s.th := rfl
@[simp] theorem send_pipe (o : Out) : (s.send o).pipe = s.pipe := rfl
@[simp] theorem send_taq (o : Out) : (s.send o).taq = s.taq := rfl
@[simp] theorem send_tags (o : Out) : (s.send o).tags = s.tags := rfl
@[simp] theorem send_seq (o : Out) : (s.send o).seq = s.seq := rfl
@[simp] theorem send_air (o : Out) : (s.send o).air = s.air := rfl
@[simp] theorem send_pins (o : Out) : (s.send o).pins = s.pins := rfl
@[simp] theorem send_bda (o : Out) : (s.send o).bda = s.bda := rfl
@[simp] theorem send_los (o : Out) : (s.send o).los = s.los := rfl
@[simp] theorem send_cal (o : Out) : (s.send o).cal = s.cal := rfl
@[simp] theorem send_jrn (o : Out) : (s.send o).jrn = s.jrn := rfl
@[simp] theorem send_bme (o : Out) : (s.send o).bme = s.bme := rfl
@[simp] theorem send_smp (o : Out) : (s.send o).smp = s.smp := rfl
@[simp] theorem send_lin (o : Out) : (s.send o).lin = s.lin := rfl
@[simp] theorem send_time (o : Out) : (s.send o).time = s.time := rfl
@[simp] theorem send_cap (o : Out) : (s.send o).cap = s.cap := rfl
@[simp] theorem send_pwr (o : Out) : (s.send o).pwr = s.pwr := rfl
@[simp] theorem send_thm (o : Out) : (s.send o).thm = s.thm := rfl
@[simp] theorem send_sects (o : Out) : (s.send o).sects = s.sects := rfl
@[simp] theorem send_arg (o : Out) : (s.send o).arg = s.arg := rfl
@[simp] theorem send_sec (o : Out) : (s.send o).sec = s.sec := rfl
@[simp] theorem send_host (o : Out) : (s.send o).host = s.host := rfl
@[simp] theorem send_fhp (o : Out) : (s.send o).fhp = s.fhp := rfl
@[simp] theorem send_dma (o : Out) : (s.send o).dma = s.dma := rfl
@[simp] theorem send_cvu (o : Out) : (s.send o).cvu = s.cvu := rfl
@[simp] theorem send_tap (o : Out) : (s.send o).tap = s.tap := rfl
@[simp] theorem send_ready (o : Out) : (s.send o).ready = s.ready := rfl
@[simp] theorem send_msixEn (o : Out) : (s.send o).msixEn = s.msixEn := rfl
@[simp] theorem send_d3 (o : Out) : (s.send o).d3 = s.d3 := rfl
@[simp] theorem send_boot (o : Out) : (s.send o).boot = s.boot := rfl

@[simp] theorem setByte_pending (a : Nat) (b : Byte) : (s.setByte a b).pending = s.pending := rfl
@[simp] theorem setByte_regs (a : Nat) (b : Byte) : (s.setByte a b).regs = s.regs := rfl
@[simp] theorem setByte_force (a : Nat) (b : Byte) : (s.setByte a b).force = s.force := rfl
@[simp] theorem setByte_ecc (a : Nat) (b : Byte) : (s.setByte a b).ecc = s.ecc := rfl
@[simp] theorem setByte_nvm (a : Nat) (b : Byte) : (s.setByte a b).nvm = s.nvm := rfl
@[simp] theorem setByte_nvmEcc (a : Nat) (b : Byte) : (s.setByte a b).nvmEcc = s.nvmEcc := rfl
@[simp] theorem setByte_out (a : Nat) (b : Byte) : (s.setByte a b).out = s.out := rfl
@[simp] theorem setByte_free (a : Nat) (b : Byte) : (s.setByte a b).free = s.free := rfl
@[simp] theorem setByte_shadow (a : Nat) (b : Byte) : (s.setByte a b).shadow = s.shadow := rfl
@[simp] theorem setByte_th (a : Nat) (b : Byte) : (s.setByte a b).th = s.th := rfl
@[simp] theorem setByte_pipe (a : Nat) (b : Byte) : (s.setByte a b).pipe = s.pipe := rfl
@[simp] theorem setByte_taq (a : Nat) (b : Byte) : (s.setByte a b).taq = s.taq := rfl
@[simp] theorem setByte_tags (a : Nat) (b : Byte) : (s.setByte a b).tags = s.tags := rfl
@[simp] theorem setByte_seq (a : Nat) (b : Byte) : (s.setByte a b).seq = s.seq := rfl
@[simp] theorem setByte_air (a : Nat) (b : Byte) : (s.setByte a b).air = s.air := rfl
@[simp] theorem setByte_pins (a : Nat) (b : Byte) : (s.setByte a b).pins = s.pins := rfl
@[simp] theorem setByte_bda (a : Nat) (b : Byte) : (s.setByte a b).bda = s.bda := rfl
@[simp] theorem setByte_los (a : Nat) (b : Byte) : (s.setByte a b).los = s.los := rfl
@[simp] theorem setByte_cal (a : Nat) (b : Byte) : (s.setByte a b).cal = s.cal := rfl
@[simp] theorem setByte_jrn (a : Nat) (b : Byte) : (s.setByte a b).jrn = s.jrn := rfl
@[simp] theorem setByte_bme (a : Nat) (b : Byte) : (s.setByte a b).bme = s.bme := rfl
@[simp] theorem setByte_smp (a : Nat) (b : Byte) : (s.setByte a b).smp = s.smp := rfl
@[simp] theorem setByte_lin (a : Nat) (b : Byte) : (s.setByte a b).lin = s.lin := rfl
@[simp] theorem setByte_time (a : Nat) (b : Byte) : (s.setByte a b).time = s.time := rfl
@[simp] theorem setByte_cap (a : Nat) (b : Byte) : (s.setByte a b).cap = s.cap := rfl
@[simp] theorem setByte_pwr (a : Nat) (b : Byte) : (s.setByte a b).pwr = s.pwr := rfl
@[simp] theorem setByte_thm (a : Nat) (b : Byte) : (s.setByte a b).thm = s.thm := rfl
@[simp] theorem setByte_sects (a : Nat) (b : Byte) : (s.setByte a b).sects = s.sects := rfl
@[simp] theorem setByte_arg (a : Nat) (b : Byte) : (s.setByte a b).arg = s.arg := rfl
@[simp] theorem setByte_sec (a : Nat) (b : Byte) : (s.setByte a b).sec = s.sec := rfl
@[simp] theorem setByte_host (a : Nat) (b : Byte) : (s.setByte a b).host = s.host := rfl
@[simp] theorem setByte_fhp (a : Nat) (b : Byte) : (s.setByte a b).fhp = s.fhp := rfl
@[simp] theorem setByte_dma (a : Nat) (b : Byte) : (s.setByte a b).dma = s.dma := rfl
@[simp] theorem setByte_cvu (a : Nat) (b : Byte) : (s.setByte a b).cvu = s.cvu := rfl
@[simp] theorem setByte_tap (a : Nat) (b : Byte) : (s.setByte a b).tap = s.tap := rfl
@[simp] theorem setByte_ready (a : Nat) (b : Byte) : (s.setByte a b).ready = s.ready := rfl
@[simp] theorem setByte_msixEn (a : Nat) (b : Byte) : (s.setByte a b).msixEn = s.msixEn := rfl
@[simp] theorem setByte_d3 (a : Nat) (b : Byte) : (s.setByte a b).d3 = s.d3 := rfl
@[simp] theorem setByte_boot (a : Nat) (b : Byte) : (s.setByte a b).boot = s.boot := rfl

@[simp] theorem setEcc_pending (a : Nat) (e : Ecc) : (s.setEcc a e).pending = s.pending := rfl
@[simp] theorem setEcc_regs (a : Nat) (e : Ecc) : (s.setEcc a e).regs = s.regs := rfl
@[simp] theorem setEcc_force (a : Nat) (e : Ecc) : (s.setEcc a e).force = s.force := rfl
@[simp] theorem setEcc_mem (a : Nat) (e : Ecc) : (s.setEcc a e).mem = s.mem := rfl
@[simp] theorem setEcc_nvm (a : Nat) (e : Ecc) : (s.setEcc a e).nvm = s.nvm := rfl
@[simp] theorem setEcc_nvmEcc (a : Nat) (e : Ecc) : (s.setEcc a e).nvmEcc = s.nvmEcc := rfl
@[simp] theorem setEcc_out (a : Nat) (e : Ecc) : (s.setEcc a e).out = s.out := rfl
@[simp] theorem setEcc_free (a : Nat) (e : Ecc) : (s.setEcc a e).free = s.free := rfl
@[simp] theorem setEcc_shadow (a : Nat) (e : Ecc) : (s.setEcc a e).shadow = s.shadow := rfl
@[simp] theorem setEcc_th (a : Nat) (e : Ecc) : (s.setEcc a e).th = s.th := rfl
@[simp] theorem setEcc_pipe (a : Nat) (e : Ecc) : (s.setEcc a e).pipe = s.pipe := rfl
@[simp] theorem setEcc_taq (a : Nat) (e : Ecc) : (s.setEcc a e).taq = s.taq := rfl
@[simp] theorem setEcc_tags (a : Nat) (e : Ecc) : (s.setEcc a e).tags = s.tags := rfl
@[simp] theorem setEcc_seq (a : Nat) (e : Ecc) : (s.setEcc a e).seq = s.seq := rfl
@[simp] theorem setEcc_air (a : Nat) (e : Ecc) : (s.setEcc a e).air = s.air := rfl
@[simp] theorem setEcc_pins (a : Nat) (e : Ecc) : (s.setEcc a e).pins = s.pins := rfl
@[simp] theorem setEcc_bda (a : Nat) (e : Ecc) : (s.setEcc a e).bda = s.bda := rfl
@[simp] theorem setEcc_los (a : Nat) (e : Ecc) : (s.setEcc a e).los = s.los := rfl
@[simp] theorem setEcc_cal (a : Nat) (e : Ecc) : (s.setEcc a e).cal = s.cal := rfl
@[simp] theorem setEcc_jrn (a : Nat) (e : Ecc) : (s.setEcc a e).jrn = s.jrn := rfl
@[simp] theorem setEcc_bme (a : Nat) (e : Ecc) : (s.setEcc a e).bme = s.bme := rfl
@[simp] theorem setEcc_smp (a : Nat) (e : Ecc) : (s.setEcc a e).smp = s.smp := rfl
@[simp] theorem setEcc_lin (a : Nat) (e : Ecc) : (s.setEcc a e).lin = s.lin := rfl
@[simp] theorem setEcc_time (a : Nat) (e : Ecc) : (s.setEcc a e).time = s.time := rfl
@[simp] theorem setEcc_cap (a : Nat) (e : Ecc) : (s.setEcc a e).cap = s.cap := rfl
@[simp] theorem setEcc_pwr (a : Nat) (e : Ecc) : (s.setEcc a e).pwr = s.pwr := rfl
@[simp] theorem setEcc_thm (a : Nat) (e : Ecc) : (s.setEcc a e).thm = s.thm := rfl
@[simp] theorem setEcc_sects (a : Nat) (e : Ecc) : (s.setEcc a e).sects = s.sects := rfl
@[simp] theorem setEcc_arg (a : Nat) (e : Ecc) : (s.setEcc a e).arg = s.arg := rfl
@[simp] theorem setEcc_sec (a : Nat) (e : Ecc) : (s.setEcc a e).sec = s.sec := rfl
@[simp] theorem setEcc_host (a : Nat) (e : Ecc) : (s.setEcc a e).host = s.host := rfl
@[simp] theorem setEcc_fhp (a : Nat) (e : Ecc) : (s.setEcc a e).fhp = s.fhp := rfl
@[simp] theorem setEcc_dma (a : Nat) (e : Ecc) : (s.setEcc a e).dma = s.dma := rfl
@[simp] theorem setEcc_cvu (a : Nat) (e : Ecc) : (s.setEcc a e).cvu = s.cvu := rfl
@[simp] theorem setEcc_tap (a : Nat) (e : Ecc) : (s.setEcc a e).tap = s.tap := rfl
@[simp] theorem setEcc_ready (a : Nat) (e : Ecc) : (s.setEcc a e).ready = s.ready := rfl
@[simp] theorem setEcc_msixEn (a : Nat) (e : Ecc) : (s.setEcc a e).msixEn = s.msixEn := rfl
@[simp] theorem setEcc_d3 (a : Nat) (e : Ecc) : (s.setEcc a e).d3 = s.d3 := rfl
@[simp] theorem setEcc_boot (a : Nat) (e : Ecc) : (s.setEcc a e).boot = s.boot := rfl

@[simp] theorem putNvm_pending (t w : Nat) (v : Word) : (s.putNvm t w v).pending = s.pending := rfl
@[simp] theorem putNvm_regs (t w : Nat) (v : Word) : (s.putNvm t w v).regs = s.regs := rfl
@[simp] theorem putNvm_force (t w : Nat) (v : Word) : (s.putNvm t w v).force = s.force := rfl
@[simp] theorem putNvm_mem (t w : Nat) (v : Word) : (s.putNvm t w v).mem = s.mem := rfl
@[simp] theorem putNvm_ecc (t w : Nat) (v : Word) : (s.putNvm t w v).ecc = s.ecc := rfl
@[simp] theorem putNvm_out (t w : Nat) (v : Word) : (s.putNvm t w v).out = s.out := rfl
@[simp] theorem putNvm_free (t w : Nat) (v : Word) : (s.putNvm t w v).free = s.free := rfl
@[simp] theorem putNvm_shadow (t w : Nat) (v : Word) : (s.putNvm t w v).shadow = s.shadow := rfl
@[simp] theorem putNvm_th (t w : Nat) (v : Word) : (s.putNvm t w v).th = s.th := rfl
@[simp] theorem putNvm_pipe (t w : Nat) (v : Word) : (s.putNvm t w v).pipe = s.pipe := rfl
@[simp] theorem putNvm_taq (t w : Nat) (v : Word) : (s.putNvm t w v).taq = s.taq := rfl
@[simp] theorem putNvm_tags (t w : Nat) (v : Word) : (s.putNvm t w v).tags = s.tags := rfl
@[simp] theorem putNvm_seq (t w : Nat) (v : Word) : (s.putNvm t w v).seq = s.seq := rfl
@[simp] theorem putNvm_air (t w : Nat) (v : Word) : (s.putNvm t w v).air = s.air := rfl
@[simp] theorem putNvm_pins (t w : Nat) (v : Word) : (s.putNvm t w v).pins = s.pins := rfl
@[simp] theorem putNvm_bda (t w : Nat) (v : Word) : (s.putNvm t w v).bda = s.bda := rfl
@[simp] theorem putNvm_los (t w : Nat) (v : Word) : (s.putNvm t w v).los = s.los := rfl
@[simp] theorem putNvm_cal (t w : Nat) (v : Word) : (s.putNvm t w v).cal = s.cal := rfl
@[simp] theorem putNvm_jrn (t w : Nat) (v : Word) : (s.putNvm t w v).jrn = s.jrn := rfl
@[simp] theorem putNvm_bme (t w : Nat) (v : Word) : (s.putNvm t w v).bme = s.bme := rfl
@[simp] theorem putNvm_smp (t w : Nat) (v : Word) : (s.putNvm t w v).smp = s.smp := rfl
@[simp] theorem putNvm_lin (t w : Nat) (v : Word) : (s.putNvm t w v).lin = s.lin := rfl
@[simp] theorem putNvm_time (t w : Nat) (v : Word) : (s.putNvm t w v).time = s.time := rfl
@[simp] theorem putNvm_cap (t w : Nat) (v : Word) : (s.putNvm t w v).cap = s.cap := rfl
@[simp] theorem putNvm_pwr (t w : Nat) (v : Word) : (s.putNvm t w v).pwr = s.pwr := rfl
@[simp] theorem putNvm_thm (t w : Nat) (v : Word) : (s.putNvm t w v).thm = s.thm := rfl
@[simp] theorem putNvm_sects (t w : Nat) (v : Word) : (s.putNvm t w v).sects = s.sects := rfl
@[simp] theorem putNvm_arg (t w : Nat) (v : Word) : (s.putNvm t w v).arg = s.arg := rfl
@[simp] theorem putNvm_sec (t w : Nat) (v : Word) : (s.putNvm t w v).sec = s.sec := rfl
@[simp] theorem putNvm_host (t w : Nat) (v : Word) : (s.putNvm t w v).host = s.host := rfl
@[simp] theorem putNvm_fhp (t w : Nat) (v : Word) : (s.putNvm t w v).fhp = s.fhp := rfl
@[simp] theorem putNvm_dma (t w : Nat) (v : Word) : (s.putNvm t w v).dma = s.dma := rfl
@[simp] theorem putNvm_cvu (t w : Nat) (v : Word) : (s.putNvm t w v).cvu = s.cvu := rfl
@[simp] theorem putNvm_tap (t w : Nat) (v : Word) : (s.putNvm t w v).tap = s.tap := rfl
@[simp] theorem putNvm_ready (t w : Nat) (v : Word) : (s.putNvm t w v).ready = s.ready := rfl
@[simp] theorem putNvm_msixEn (t w : Nat) (v : Word) : (s.putNvm t w v).msixEn = s.msixEn := rfl
@[simp] theorem putNvm_d3 (t w : Nat) (v : Word) : (s.putNvm t w v).d3 = s.d3 := rfl
@[simp] theorem putNvm_boot (t w : Nat) (v : Word) : (s.putNvm t w v).boot = s.boot := rfl

@[simp] theorem setThread_pending (i : Nat) (t : Thread) : (s.setThread i t).pending = s.pending := rfl
@[simp] theorem setThread_regs (i : Nat) (t : Thread) : (s.setThread i t).regs = s.regs := rfl
@[simp] theorem setThread_force (i : Nat) (t : Thread) : (s.setThread i t).force = s.force := rfl
@[simp] theorem setThread_mem (i : Nat) (t : Thread) : (s.setThread i t).mem = s.mem := rfl
@[simp] theorem setThread_ecc (i : Nat) (t : Thread) : (s.setThread i t).ecc = s.ecc := rfl
@[simp] theorem setThread_nvm (i : Nat) (t : Thread) : (s.setThread i t).nvm = s.nvm := rfl
@[simp] theorem setThread_nvmEcc (i : Nat) (t : Thread) : (s.setThread i t).nvmEcc = s.nvmEcc := rfl
@[simp] theorem setThread_out (i : Nat) (t : Thread) : (s.setThread i t).out = s.out := rfl
@[simp] theorem setThread_free (i : Nat) (t : Thread) : (s.setThread i t).free = s.free := rfl
@[simp] theorem setThread_shadow (i : Nat) (t : Thread) : (s.setThread i t).shadow = s.shadow := rfl
@[simp] theorem setThread_pipe (i : Nat) (t : Thread) : (s.setThread i t).pipe = s.pipe := rfl
@[simp] theorem setThread_taq (i : Nat) (t : Thread) : (s.setThread i t).taq = s.taq := rfl
@[simp] theorem setThread_tags (i : Nat) (t : Thread) : (s.setThread i t).tags = s.tags := rfl
@[simp] theorem setThread_seq (i : Nat) (t : Thread) : (s.setThread i t).seq = s.seq := rfl
@[simp] theorem setThread_air (i : Nat) (t : Thread) : (s.setThread i t).air = s.air := rfl
@[simp] theorem setThread_pins (i : Nat) (t : Thread) : (s.setThread i t).pins = s.pins := rfl
@[simp] theorem setThread_bda (i : Nat) (t : Thread) : (s.setThread i t).bda = s.bda := rfl
@[simp] theorem setThread_los (i : Nat) (t : Thread) : (s.setThread i t).los = s.los := rfl
@[simp] theorem setThread_cal (i : Nat) (t : Thread) : (s.setThread i t).cal = s.cal := rfl
@[simp] theorem setThread_jrn (i : Nat) (t : Thread) : (s.setThread i t).jrn = s.jrn := rfl
@[simp] theorem setThread_bme (i : Nat) (t : Thread) : (s.setThread i t).bme = s.bme := rfl
@[simp] theorem setThread_smp (i : Nat) (t : Thread) : (s.setThread i t).smp = s.smp := rfl
@[simp] theorem setThread_lin (i : Nat) (t : Thread) : (s.setThread i t).lin = s.lin := rfl
@[simp] theorem setThread_time (i : Nat) (t : Thread) : (s.setThread i t).time = s.time := rfl
@[simp] theorem setThread_cap (i : Nat) (t : Thread) : (s.setThread i t).cap = s.cap := rfl
@[simp] theorem setThread_pwr (i : Nat) (t : Thread) : (s.setThread i t).pwr = s.pwr := rfl
@[simp] theorem setThread_thm (i : Nat) (t : Thread) : (s.setThread i t).thm = s.thm := rfl
@[simp] theorem setThread_sects (i : Nat) (t : Thread) : (s.setThread i t).sects = s.sects := rfl
@[simp] theorem setThread_arg (i : Nat) (t : Thread) : (s.setThread i t).arg = s.arg := rfl
@[simp] theorem setThread_sec (i : Nat) (t : Thread) : (s.setThread i t).sec = s.sec := rfl
@[simp] theorem setThread_host (i : Nat) (t : Thread) : (s.setThread i t).host = s.host := rfl
@[simp] theorem setThread_fhp (i : Nat) (t : Thread) : (s.setThread i t).fhp = s.fhp := rfl
@[simp] theorem setThread_dma (i : Nat) (t : Thread) : (s.setThread i t).dma = s.dma := rfl
@[simp] theorem setThread_cvu (i : Nat) (t : Thread) : (s.setThread i t).cvu = s.cvu := rfl
@[simp] theorem setThread_tap (i : Nat) (t : Thread) : (s.setThread i t).tap = s.tap := rfl
@[simp] theorem setThread_ready (i : Nat) (t : Thread) : (s.setThread i t).ready = s.ready := rfl
@[simp] theorem setThread_msixEn (i : Nat) (t : Thread) : (s.setThread i t).msixEn = s.msixEn := rfl
@[simp] theorem setThread_d3 (i : Nat) (t : Thread) : (s.setThread i t).d3 = s.d3 := rfl
@[simp] theorem setThread_boot (i : Nat) (t : Thread) : (s.setThread i t).boot = s.boot := rfl

@[simp] theorem setEntry_pending (t : Nat) (e : Entry) : (s.setEntry t e).pending = s.pending := rfl
@[simp] theorem setEntry_regs (t : Nat) (e : Entry) : (s.setEntry t e).regs = s.regs := rfl
@[simp] theorem setEntry_force (t : Nat) (e : Entry) : (s.setEntry t e).force = s.force := rfl
@[simp] theorem setEntry_mem (t : Nat) (e : Entry) : (s.setEntry t e).mem = s.mem := rfl
@[simp] theorem setEntry_ecc (t : Nat) (e : Entry) : (s.setEntry t e).ecc = s.ecc := rfl
@[simp] theorem setEntry_nvm (t : Nat) (e : Entry) : (s.setEntry t e).nvm = s.nvm := rfl
@[simp] theorem setEntry_nvmEcc (t : Nat) (e : Entry) : (s.setEntry t e).nvmEcc = s.nvmEcc := rfl
@[simp] theorem setEntry_out (t : Nat) (e : Entry) : (s.setEntry t e).out = s.out := rfl
@[simp] theorem setEntry_free (t : Nat) (e : Entry) : (s.setEntry t e).free = s.free := rfl
@[simp] theorem setEntry_shadow (t : Nat) (e : Entry) : (s.setEntry t e).shadow = s.shadow := rfl
@[simp] theorem setEntry_th (t : Nat) (e : Entry) : (s.setEntry t e).th = s.th := rfl
@[simp] theorem setEntry_pipe (t : Nat) (e : Entry) : (s.setEntry t e).pipe = s.pipe := rfl
@[simp] theorem setEntry_tags (t : Nat) (e : Entry) : (s.setEntry t e).tags = s.tags := rfl
@[simp] theorem setEntry_seq (t : Nat) (e : Entry) : (s.setEntry t e).seq = s.seq := rfl
@[simp] theorem setEntry_air (t : Nat) (e : Entry) : (s.setEntry t e).air = s.air := rfl
@[simp] theorem setEntry_pins (t : Nat) (e : Entry) : (s.setEntry t e).pins = s.pins := rfl
@[simp] theorem setEntry_bda (t : Nat) (e : Entry) : (s.setEntry t e).bda = s.bda := rfl
@[simp] theorem setEntry_los (t : Nat) (e : Entry) : (s.setEntry t e).los = s.los := rfl
@[simp] theorem setEntry_cal (t : Nat) (e : Entry) : (s.setEntry t e).cal = s.cal := rfl
@[simp] theorem setEntry_jrn (t : Nat) (e : Entry) : (s.setEntry t e).jrn = s.jrn := rfl
@[simp] theorem setEntry_bme (t : Nat) (e : Entry) : (s.setEntry t e).bme = s.bme := rfl
@[simp] theorem setEntry_smp (t : Nat) (e : Entry) : (s.setEntry t e).smp = s.smp := rfl
@[simp] theorem setEntry_lin (t : Nat) (e : Entry) : (s.setEntry t e).lin = s.lin := rfl
@[simp] theorem setEntry_time (t : Nat) (e : Entry) : (s.setEntry t e).time = s.time := rfl
@[simp] theorem setEntry_cap (t : Nat) (e : Entry) : (s.setEntry t e).cap = s.cap := rfl
@[simp] theorem setEntry_pwr (t : Nat) (e : Entry) : (s.setEntry t e).pwr = s.pwr := rfl
@[simp] theorem setEntry_thm (t : Nat) (e : Entry) : (s.setEntry t e).thm = s.thm := rfl
@[simp] theorem setEntry_sects (t : Nat) (e : Entry) : (s.setEntry t e).sects = s.sects := rfl
@[simp] theorem setEntry_arg (t : Nat) (e : Entry) : (s.setEntry t e).arg = s.arg := rfl
@[simp] theorem setEntry_sec (t : Nat) (e : Entry) : (s.setEntry t e).sec = s.sec := rfl
@[simp] theorem setEntry_host (t : Nat) (e : Entry) : (s.setEntry t e).host = s.host := rfl
@[simp] theorem setEntry_fhp (t : Nat) (e : Entry) : (s.setEntry t e).fhp = s.fhp := rfl
@[simp] theorem setEntry_dma (t : Nat) (e : Entry) : (s.setEntry t e).dma = s.dma := rfl
@[simp] theorem setEntry_cvu (t : Nat) (e : Entry) : (s.setEntry t e).cvu = s.cvu := rfl
@[simp] theorem setEntry_tap (t : Nat) (e : Entry) : (s.setEntry t e).tap = s.tap := rfl
@[simp] theorem setEntry_ready (t : Nat) (e : Entry) : (s.setEntry t e).ready = s.ready := rfl
@[simp] theorem setEntry_msixEn (t : Nat) (e : Entry) : (s.setEntry t e).msixEn = s.msixEn := rfl
@[simp] theorem setEntry_d3 (t : Nat) (e : Entry) : (s.setEntry t e).d3 = s.d3 := rfl
@[simp] theorem setEntry_boot (t : Nat) (e : Entry) : (s.setEntry t e).boot = s.boot := rfl

@[simp] theorem setShadowOf_pending (w : Nat) (h : Shadow) : (s.setShadowOf w h).pending = s.pending := rfl
@[simp] theorem setShadowOf_regs (w : Nat) (h : Shadow) : (s.setShadowOf w h).regs = s.regs := rfl
@[simp] theorem setShadowOf_force (w : Nat) (h : Shadow) : (s.setShadowOf w h).force = s.force := rfl
@[simp] theorem setShadowOf_mem (w : Nat) (h : Shadow) : (s.setShadowOf w h).mem = s.mem := rfl
@[simp] theorem setShadowOf_ecc (w : Nat) (h : Shadow) : (s.setShadowOf w h).ecc = s.ecc := rfl
@[simp] theorem setShadowOf_nvm (w : Nat) (h : Shadow) : (s.setShadowOf w h).nvm = s.nvm := rfl
@[simp] theorem setShadowOf_nvmEcc (w : Nat) (h : Shadow) : (s.setShadowOf w h).nvmEcc = s.nvmEcc := rfl
@[simp] theorem setShadowOf_out (w : Nat) (h : Shadow) : (s.setShadowOf w h).out = s.out := rfl
@[simp] theorem setShadowOf_free (w : Nat) (h : Shadow) : (s.setShadowOf w h).free = s.free := rfl
@[simp] theorem setShadowOf_th (w : Nat) (h : Shadow) : (s.setShadowOf w h).th = s.th := rfl
@[simp] theorem setShadowOf_pipe (w : Nat) (h : Shadow) : (s.setShadowOf w h).pipe = s.pipe := rfl
@[simp] theorem setShadowOf_taq (w : Nat) (h : Shadow) : (s.setShadowOf w h).taq = s.taq := rfl
@[simp] theorem setShadowOf_tags (w : Nat) (h : Shadow) : (s.setShadowOf w h).tags = s.tags := rfl
@[simp] theorem setShadowOf_seq (w : Nat) (h : Shadow) : (s.setShadowOf w h).seq = s.seq := rfl
@[simp] theorem setShadowOf_air (w : Nat) (h : Shadow) : (s.setShadowOf w h).air = s.air := rfl
@[simp] theorem setShadowOf_pins (w : Nat) (h : Shadow) : (s.setShadowOf w h).pins = s.pins := rfl
@[simp] theorem setShadowOf_bda (w : Nat) (h : Shadow) : (s.setShadowOf w h).bda = s.bda := rfl
@[simp] theorem setShadowOf_los (w : Nat) (h : Shadow) : (s.setShadowOf w h).los = s.los := rfl
@[simp] theorem setShadowOf_cal (w : Nat) (h : Shadow) : (s.setShadowOf w h).cal = s.cal := rfl
@[simp] theorem setShadowOf_jrn (w : Nat) (h : Shadow) : (s.setShadowOf w h).jrn = s.jrn := rfl
@[simp] theorem setShadowOf_bme (w : Nat) (h : Shadow) : (s.setShadowOf w h).bme = s.bme := rfl
@[simp] theorem setShadowOf_smp (w : Nat) (h : Shadow) : (s.setShadowOf w h).smp = s.smp := rfl
@[simp] theorem setShadowOf_lin (w : Nat) (h : Shadow) : (s.setShadowOf w h).lin = s.lin := rfl
@[simp] theorem setShadowOf_time (w : Nat) (h : Shadow) : (s.setShadowOf w h).time = s.time := rfl
@[simp] theorem setShadowOf_cap (w : Nat) (h : Shadow) : (s.setShadowOf w h).cap = s.cap := rfl
@[simp] theorem setShadowOf_pwr (w : Nat) (h : Shadow) : (s.setShadowOf w h).pwr = s.pwr := rfl
@[simp] theorem setShadowOf_thm (w : Nat) (h : Shadow) : (s.setShadowOf w h).thm = s.thm := rfl
@[simp] theorem setShadowOf_sects (w : Nat) (h : Shadow) : (s.setShadowOf w h).sects = s.sects := rfl
@[simp] theorem setShadowOf_arg (w : Nat) (h : Shadow) : (s.setShadowOf w h).arg = s.arg := rfl
@[simp] theorem setShadowOf_sec (w : Nat) (h : Shadow) : (s.setShadowOf w h).sec = s.sec := rfl
@[simp] theorem setShadowOf_host (w : Nat) (h : Shadow) : (s.setShadowOf w h).host = s.host := rfl
@[simp] theorem setShadowOf_fhp (w : Nat) (h : Shadow) : (s.setShadowOf w h).fhp = s.fhp := rfl
@[simp] theorem setShadowOf_dma (w : Nat) (h : Shadow) : (s.setShadowOf w h).dma = s.dma := rfl
@[simp] theorem setShadowOf_cvu (w : Nat) (h : Shadow) : (s.setShadowOf w h).cvu = s.cvu := rfl
@[simp] theorem setShadowOf_tap (w : Nat) (h : Shadow) : (s.setShadowOf w h).tap = s.tap := rfl
@[simp] theorem setShadowOf_ready (w : Nat) (h : Shadow) : (s.setShadowOf w h).ready = s.ready := rfl
@[simp] theorem setShadowOf_msixEn (w : Nat) (h : Shadow) : (s.setShadowOf w h).msixEn = s.msixEn := rfl
@[simp] theorem setShadowOf_d3 (w : Nat) (h : Shadow) : (s.setShadowOf w h).d3 = s.d3 := rfl
@[simp] theorem setShadowOf_boot (w : Nat) (h : Shadow) : (s.setShadowOf w h).boot = s.boot := rfl

@[simp] theorem setTxc_pending (n : Nat) (c : TxChain) : (s.setTxc n c).pending = s.pending := rfl
@[simp] theorem setTxc_regs (n : Nat) (c : TxChain) : (s.setTxc n c).regs = s.regs := rfl
@[simp] theorem setTxc_force (n : Nat) (c : TxChain) : (s.setTxc n c).force = s.force := rfl
@[simp] theorem setTxc_mem (n : Nat) (c : TxChain) : (s.setTxc n c).mem = s.mem := rfl
@[simp] theorem setTxc_ecc (n : Nat) (c : TxChain) : (s.setTxc n c).ecc = s.ecc := rfl
@[simp] theorem setTxc_nvm (n : Nat) (c : TxChain) : (s.setTxc n c).nvm = s.nvm := rfl
@[simp] theorem setTxc_nvmEcc (n : Nat) (c : TxChain) : (s.setTxc n c).nvmEcc = s.nvmEcc := rfl
@[simp] theorem setTxc_out (n : Nat) (c : TxChain) : (s.setTxc n c).out = s.out := rfl
@[simp] theorem setTxc_free (n : Nat) (c : TxChain) : (s.setTxc n c).free = s.free := rfl
@[simp] theorem setTxc_shadow (n : Nat) (c : TxChain) : (s.setTxc n c).shadow = s.shadow := rfl
@[simp] theorem setTxc_th (n : Nat) (c : TxChain) : (s.setTxc n c).th = s.th := rfl
@[simp] theorem setTxc_pipe (n : Nat) (c : TxChain) : (s.setTxc n c).pipe = s.pipe := rfl
@[simp] theorem setTxc_taq (n : Nat) (c : TxChain) : (s.setTxc n c).taq = s.taq := rfl
@[simp] theorem setTxc_tags (n : Nat) (c : TxChain) : (s.setTxc n c).tags = s.tags := rfl
@[simp] theorem setTxc_seq (n : Nat) (c : TxChain) : (s.setTxc n c).seq = s.seq := rfl
@[simp] theorem setTxc_air (n : Nat) (c : TxChain) : (s.setTxc n c).air = s.air := rfl
@[simp] theorem setTxc_pins (n : Nat) (c : TxChain) : (s.setTxc n c).pins = s.pins := rfl
@[simp] theorem setTxc_bda (n : Nat) (c : TxChain) : (s.setTxc n c).bda = s.bda := rfl
@[simp] theorem setTxc_los (n : Nat) (c : TxChain) : (s.setTxc n c).los = s.los := rfl
@[simp] theorem setTxc_cal (n : Nat) (c : TxChain) : (s.setTxc n c).cal = s.cal := rfl
@[simp] theorem setTxc_jrn (n : Nat) (c : TxChain) : (s.setTxc n c).jrn = s.jrn := rfl
@[simp] theorem setTxc_bme (n : Nat) (c : TxChain) : (s.setTxc n c).bme = s.bme := rfl
@[simp] theorem setTxc_lin (n : Nat) (c : TxChain) : (s.setTxc n c).lin = s.lin := rfl
@[simp] theorem setTxc_time (n : Nat) (c : TxChain) : (s.setTxc n c).time = s.time := rfl
@[simp] theorem setTxc_cap (n : Nat) (c : TxChain) : (s.setTxc n c).cap = s.cap := rfl
@[simp] theorem setTxc_pwr (n : Nat) (c : TxChain) : (s.setTxc n c).pwr = s.pwr := rfl
@[simp] theorem setTxc_thm (n : Nat) (c : TxChain) : (s.setTxc n c).thm = s.thm := rfl
@[simp] theorem setTxc_sects (n : Nat) (c : TxChain) : (s.setTxc n c).sects = s.sects := rfl
@[simp] theorem setTxc_arg (n : Nat) (c : TxChain) : (s.setTxc n c).arg = s.arg := rfl
@[simp] theorem setTxc_sec (n : Nat) (c : TxChain) : (s.setTxc n c).sec = s.sec := rfl
@[simp] theorem setTxc_host (n : Nat) (c : TxChain) : (s.setTxc n c).host = s.host := rfl
@[simp] theorem setTxc_fhp (n : Nat) (c : TxChain) : (s.setTxc n c).fhp = s.fhp := rfl
@[simp] theorem setTxc_dma (n : Nat) (c : TxChain) : (s.setTxc n c).dma = s.dma := rfl
@[simp] theorem setTxc_cvu (n : Nat) (c : TxChain) : (s.setTxc n c).cvu = s.cvu := rfl
@[simp] theorem setTxc_tap (n : Nat) (c : TxChain) : (s.setTxc n c).tap = s.tap := rfl
@[simp] theorem setTxc_ready (n : Nat) (c : TxChain) : (s.setTxc n c).ready = s.ready := rfl
@[simp] theorem setTxc_msixEn (n : Nat) (c : TxChain) : (s.setTxc n c).msixEn = s.msixEn := rfl
@[simp] theorem setTxc_d3 (n : Nat) (c : TxChain) : (s.setTxc n c).d3 = s.d3 := rfl
@[simp] theorem setTxc_boot (n : Nat) (c : TxChain) : (s.setTxc n c).boot = s.boot := rfl

@[simp] theorem setRxc_pending (n : Nat) (c : RxChain) : (s.setRxc n c).pending = s.pending := rfl
@[simp] theorem setRxc_regs (n : Nat) (c : RxChain) : (s.setRxc n c).regs = s.regs := rfl
@[simp] theorem setRxc_force (n : Nat) (c : RxChain) : (s.setRxc n c).force = s.force := rfl
@[simp] theorem setRxc_mem (n : Nat) (c : RxChain) : (s.setRxc n c).mem = s.mem := rfl
@[simp] theorem setRxc_ecc (n : Nat) (c : RxChain) : (s.setRxc n c).ecc = s.ecc := rfl
@[simp] theorem setRxc_nvm (n : Nat) (c : RxChain) : (s.setRxc n c).nvm = s.nvm := rfl
@[simp] theorem setRxc_nvmEcc (n : Nat) (c : RxChain) : (s.setRxc n c).nvmEcc = s.nvmEcc := rfl
@[simp] theorem setRxc_out (n : Nat) (c : RxChain) : (s.setRxc n c).out = s.out := rfl
@[simp] theorem setRxc_free (n : Nat) (c : RxChain) : (s.setRxc n c).free = s.free := rfl
@[simp] theorem setRxc_shadow (n : Nat) (c : RxChain) : (s.setRxc n c).shadow = s.shadow := rfl
@[simp] theorem setRxc_th (n : Nat) (c : RxChain) : (s.setRxc n c).th = s.th := rfl
@[simp] theorem setRxc_pipe (n : Nat) (c : RxChain) : (s.setRxc n c).pipe = s.pipe := rfl
@[simp] theorem setRxc_taq (n : Nat) (c : RxChain) : (s.setRxc n c).taq = s.taq := rfl
@[simp] theorem setRxc_tags (n : Nat) (c : RxChain) : (s.setRxc n c).tags = s.tags := rfl
@[simp] theorem setRxc_seq (n : Nat) (c : RxChain) : (s.setRxc n c).seq = s.seq := rfl
@[simp] theorem setRxc_air (n : Nat) (c : RxChain) : (s.setRxc n c).air = s.air := rfl
@[simp] theorem setRxc_pins (n : Nat) (c : RxChain) : (s.setRxc n c).pins = s.pins := rfl
@[simp] theorem setRxc_bda (n : Nat) (c : RxChain) : (s.setRxc n c).bda = s.bda := rfl
@[simp] theorem setRxc_los (n : Nat) (c : RxChain) : (s.setRxc n c).los = s.los := rfl
@[simp] theorem setRxc_cal (n : Nat) (c : RxChain) : (s.setRxc n c).cal = s.cal := rfl
@[simp] theorem setRxc_jrn (n : Nat) (c : RxChain) : (s.setRxc n c).jrn = s.jrn := rfl
@[simp] theorem setRxc_bme (n : Nat) (c : RxChain) : (s.setRxc n c).bme = s.bme := rfl
@[simp] theorem setRxc_lin (n : Nat) (c : RxChain) : (s.setRxc n c).lin = s.lin := rfl
@[simp] theorem setRxc_time (n : Nat) (c : RxChain) : (s.setRxc n c).time = s.time := rfl
@[simp] theorem setRxc_cap (n : Nat) (c : RxChain) : (s.setRxc n c).cap = s.cap := rfl
@[simp] theorem setRxc_pwr (n : Nat) (c : RxChain) : (s.setRxc n c).pwr = s.pwr := rfl
@[simp] theorem setRxc_thm (n : Nat) (c : RxChain) : (s.setRxc n c).thm = s.thm := rfl
@[simp] theorem setRxc_sects (n : Nat) (c : RxChain) : (s.setRxc n c).sects = s.sects := rfl
@[simp] theorem setRxc_arg (n : Nat) (c : RxChain) : (s.setRxc n c).arg = s.arg := rfl
@[simp] theorem setRxc_sec (n : Nat) (c : RxChain) : (s.setRxc n c).sec = s.sec := rfl
@[simp] theorem setRxc_host (n : Nat) (c : RxChain) : (s.setRxc n c).host = s.host := rfl
@[simp] theorem setRxc_fhp (n : Nat) (c : RxChain) : (s.setRxc n c).fhp = s.fhp := rfl
@[simp] theorem setRxc_dma (n : Nat) (c : RxChain) : (s.setRxc n c).dma = s.dma := rfl
@[simp] theorem setRxc_cvu (n : Nat) (c : RxChain) : (s.setRxc n c).cvu = s.cvu := rfl
@[simp] theorem setRxc_tap (n : Nat) (c : RxChain) : (s.setRxc n c).tap = s.tap := rfl
@[simp] theorem setRxc_ready (n : Nat) (c : RxChain) : (s.setRxc n c).ready = s.ready := rfl
@[simp] theorem setRxc_msixEn (n : Nat) (c : RxChain) : (s.setRxc n c).msixEn = s.msixEn := rfl
@[simp] theorem setRxc_d3 (n : Nat) (c : RxChain) : (s.setRxc n c).d3 = s.d3 := rfl
@[simp] theorem setRxc_boot (n : Nat) (c : RxChain) : (s.setRxc n c).boot = s.boot := rfl

@[simp] theorem setSurvey_pending (v : Option (Nat × List (Int × Nat))) : (s.setSurvey v).pending = s.pending := rfl
@[simp] theorem setSurvey_regs (v : Option (Nat × List (Int × Nat))) : (s.setSurvey v).regs = s.regs := rfl
@[simp] theorem setSurvey_force (v : Option (Nat × List (Int × Nat))) : (s.setSurvey v).force = s.force := rfl
@[simp] theorem setSurvey_mem (v : Option (Nat × List (Int × Nat))) : (s.setSurvey v).mem = s.mem := rfl
@[simp] theorem setSurvey_ecc (v : Option (Nat × List (Int × Nat))) : (s.setSurvey v).ecc = s.ecc := rfl
@[simp] theorem setSurvey_nvm (v : Option (Nat × List (Int × Nat))) : (s.setSurvey v).nvm = s.nvm := rfl
@[simp] theorem setSurvey_nvmEcc (v : Option (Nat × List (Int × Nat))) : (s.setSurvey v).nvmEcc = s.nvmEcc := rfl
@[simp] theorem setSurvey_out (v : Option (Nat × List (Int × Nat))) : (s.setSurvey v).out = s.out := rfl
@[simp] theorem setSurvey_free (v : Option (Nat × List (Int × Nat))) : (s.setSurvey v).free = s.free := rfl
@[simp] theorem setSurvey_shadow (v : Option (Nat × List (Int × Nat))) : (s.setSurvey v).shadow = s.shadow := rfl
@[simp] theorem setSurvey_th (v : Option (Nat × List (Int × Nat))) : (s.setSurvey v).th = s.th := rfl
@[simp] theorem setSurvey_pipe (v : Option (Nat × List (Int × Nat))) : (s.setSurvey v).pipe = s.pipe := rfl
@[simp] theorem setSurvey_taq (v : Option (Nat × List (Int × Nat))) : (s.setSurvey v).taq = s.taq := rfl
@[simp] theorem setSurvey_tags (v : Option (Nat × List (Int × Nat))) : (s.setSurvey v).tags = s.tags := rfl
@[simp] theorem setSurvey_seq (v : Option (Nat × List (Int × Nat))) : (s.setSurvey v).seq = s.seq := rfl
@[simp] theorem setSurvey_air (v : Option (Nat × List (Int × Nat))) : (s.setSurvey v).air = s.air := rfl
@[simp] theorem setSurvey_pins (v : Option (Nat × List (Int × Nat))) : (s.setSurvey v).pins = s.pins := rfl
@[simp] theorem setSurvey_bda (v : Option (Nat × List (Int × Nat))) : (s.setSurvey v).bda = s.bda := rfl
@[simp] theorem setSurvey_los (v : Option (Nat × List (Int × Nat))) : (s.setSurvey v).los = s.los := rfl
@[simp] theorem setSurvey_cal (v : Option (Nat × List (Int × Nat))) : (s.setSurvey v).cal = s.cal := rfl
@[simp] theorem setSurvey_jrn (v : Option (Nat × List (Int × Nat))) : (s.setSurvey v).jrn = s.jrn := rfl
@[simp] theorem setSurvey_bme (v : Option (Nat × List (Int × Nat))) : (s.setSurvey v).bme = s.bme := rfl
@[simp] theorem setSurvey_lin (v : Option (Nat × List (Int × Nat))) : (s.setSurvey v).lin = s.lin := rfl
@[simp] theorem setSurvey_time (v : Option (Nat × List (Int × Nat))) : (s.setSurvey v).time = s.time := rfl
@[simp] theorem setSurvey_cap (v : Option (Nat × List (Int × Nat))) : (s.setSurvey v).cap = s.cap := rfl
@[simp] theorem setSurvey_pwr (v : Option (Nat × List (Int × Nat))) : (s.setSurvey v).pwr = s.pwr := rfl
@[simp] theorem setSurvey_thm (v : Option (Nat × List (Int × Nat))) : (s.setSurvey v).thm = s.thm := rfl
@[simp] theorem setSurvey_sects (v : Option (Nat × List (Int × Nat))) : (s.setSurvey v).sects = s.sects := rfl
@[simp] theorem setSurvey_arg (v : Option (Nat × List (Int × Nat))) : (s.setSurvey v).arg = s.arg := rfl
@[simp] theorem setSurvey_sec (v : Option (Nat × List (Int × Nat))) : (s.setSurvey v).sec = s.sec := rfl
@[simp] theorem setSurvey_host (v : Option (Nat × List (Int × Nat))) : (s.setSurvey v).host = s.host := rfl
@[simp] theorem setSurvey_fhp (v : Option (Nat × List (Int × Nat))) : (s.setSurvey v).fhp = s.fhp := rfl
@[simp] theorem setSurvey_dma (v : Option (Nat × List (Int × Nat))) : (s.setSurvey v).dma = s.dma := rfl
@[simp] theorem setSurvey_cvu (v : Option (Nat × List (Int × Nat))) : (s.setSurvey v).cvu = s.cvu := rfl
@[simp] theorem setSurvey_tap (v : Option (Nat × List (Int × Nat))) : (s.setSurvey v).tap = s.tap := rfl
@[simp] theorem setSurvey_ready (v : Option (Nat × List (Int × Nat))) : (s.setSurvey v).ready = s.ready := rfl
@[simp] theorem setSurvey_msixEn (v : Option (Nat × List (Int × Nat))) : (s.setSurvey v).msixEn = s.msixEn := rfl
@[simp] theorem setSurvey_d3 (v : Option (Nat × List (Int × Nat))) : (s.setSurvey v).d3 = s.d3 := rfl
@[simp] theorem setSurvey_boot (v : Option (Nat × List (Int × Nat))) : (s.setSurvey v).boot = s.boot := rfl

@[simp] theorem setSnap_pending (v : Option SnapRec) : (s.setSnap v).pending = s.pending := rfl
@[simp] theorem setSnap_regs (v : Option SnapRec) : (s.setSnap v).regs = s.regs := rfl
@[simp] theorem setSnap_force (v : Option SnapRec) : (s.setSnap v).force = s.force := rfl
@[simp] theorem setSnap_mem (v : Option SnapRec) : (s.setSnap v).mem = s.mem := rfl
@[simp] theorem setSnap_ecc (v : Option SnapRec) : (s.setSnap v).ecc = s.ecc := rfl
@[simp] theorem setSnap_nvm (v : Option SnapRec) : (s.setSnap v).nvm = s.nvm := rfl
@[simp] theorem setSnap_nvmEcc (v : Option SnapRec) : (s.setSnap v).nvmEcc = s.nvmEcc := rfl
@[simp] theorem setSnap_out (v : Option SnapRec) : (s.setSnap v).out = s.out := rfl
@[simp] theorem setSnap_free (v : Option SnapRec) : (s.setSnap v).free = s.free := rfl
@[simp] theorem setSnap_shadow (v : Option SnapRec) : (s.setSnap v).shadow = s.shadow := rfl
@[simp] theorem setSnap_th (v : Option SnapRec) : (s.setSnap v).th = s.th := rfl
@[simp] theorem setSnap_pipe (v : Option SnapRec) : (s.setSnap v).pipe = s.pipe := rfl
@[simp] theorem setSnap_taq (v : Option SnapRec) : (s.setSnap v).taq = s.taq := rfl
@[simp] theorem setSnap_tags (v : Option SnapRec) : (s.setSnap v).tags = s.tags := rfl
@[simp] theorem setSnap_seq (v : Option SnapRec) : (s.setSnap v).seq = s.seq := rfl
@[simp] theorem setSnap_air (v : Option SnapRec) : (s.setSnap v).air = s.air := rfl
@[simp] theorem setSnap_pins (v : Option SnapRec) : (s.setSnap v).pins = s.pins := rfl
@[simp] theorem setSnap_bda (v : Option SnapRec) : (s.setSnap v).bda = s.bda := rfl
@[simp] theorem setSnap_los (v : Option SnapRec) : (s.setSnap v).los = s.los := rfl
@[simp] theorem setSnap_cal (v : Option SnapRec) : (s.setSnap v).cal = s.cal := rfl
@[simp] theorem setSnap_jrn (v : Option SnapRec) : (s.setSnap v).jrn = s.jrn := rfl
@[simp] theorem setSnap_bme (v : Option SnapRec) : (s.setSnap v).bme = s.bme := rfl
@[simp] theorem setSnap_lin (v : Option SnapRec) : (s.setSnap v).lin = s.lin := rfl
@[simp] theorem setSnap_time (v : Option SnapRec) : (s.setSnap v).time = s.time := rfl
@[simp] theorem setSnap_cap (v : Option SnapRec) : (s.setSnap v).cap = s.cap := rfl
@[simp] theorem setSnap_pwr (v : Option SnapRec) : (s.setSnap v).pwr = s.pwr := rfl
@[simp] theorem setSnap_thm (v : Option SnapRec) : (s.setSnap v).thm = s.thm := rfl
@[simp] theorem setSnap_sects (v : Option SnapRec) : (s.setSnap v).sects = s.sects := rfl
@[simp] theorem setSnap_arg (v : Option SnapRec) : (s.setSnap v).arg = s.arg := rfl
@[simp] theorem setSnap_sec (v : Option SnapRec) : (s.setSnap v).sec = s.sec := rfl
@[simp] theorem setSnap_host (v : Option SnapRec) : (s.setSnap v).host = s.host := rfl
@[simp] theorem setSnap_fhp (v : Option SnapRec) : (s.setSnap v).fhp = s.fhp := rfl
@[simp] theorem setSnap_dma (v : Option SnapRec) : (s.setSnap v).dma = s.dma := rfl
@[simp] theorem setSnap_cvu (v : Option SnapRec) : (s.setSnap v).cvu = s.cvu := rfl
@[simp] theorem setSnap_tap (v : Option SnapRec) : (s.setSnap v).tap = s.tap := rfl
@[simp] theorem setSnap_ready (v : Option SnapRec) : (s.setSnap v).ready = s.ready := rfl
@[simp] theorem setSnap_msixEn (v : Option SnapRec) : (s.setSnap v).msixEn = s.msixEn := rfl
@[simp] theorem setSnap_d3 (v : Option SnapRec) : (s.setSnap v).d3 = s.d3 := rfl
@[simp] theorem setSnap_boot (v : Option SnapRec) : (s.setSnap v).boot = s.boot := rfl

@[simp] theorem putPart_pending (c a : Nat) (tl : Int) (x : List Cx) : (s.putPart c a tl x).pending = s.pending := rfl
@[simp] theorem putPart_regs (c a : Nat) (tl : Int) (x : List Cx) : (s.putPart c a tl x).regs = s.regs := rfl
@[simp] theorem putPart_force (c a : Nat) (tl : Int) (x : List Cx) : (s.putPart c a tl x).force = s.force := rfl
@[simp] theorem putPart_mem (c a : Nat) (tl : Int) (x : List Cx) : (s.putPart c a tl x).mem = s.mem := rfl
@[simp] theorem putPart_ecc (c a : Nat) (tl : Int) (x : List Cx) : (s.putPart c a tl x).ecc = s.ecc := rfl
@[simp] theorem putPart_nvm (c a : Nat) (tl : Int) (x : List Cx) : (s.putPart c a tl x).nvm = s.nvm := rfl
@[simp] theorem putPart_nvmEcc (c a : Nat) (tl : Int) (x : List Cx) : (s.putPart c a tl x).nvmEcc = s.nvmEcc := rfl
@[simp] theorem putPart_out (c a : Nat) (tl : Int) (x : List Cx) : (s.putPart c a tl x).out = s.out := rfl
@[simp] theorem putPart_free (c a : Nat) (tl : Int) (x : List Cx) : (s.putPart c a tl x).free = s.free := rfl
@[simp] theorem putPart_shadow (c a : Nat) (tl : Int) (x : List Cx) : (s.putPart c a tl x).shadow = s.shadow := rfl
@[simp] theorem putPart_th (c a : Nat) (tl : Int) (x : List Cx) : (s.putPart c a tl x).th = s.th := rfl
@[simp] theorem putPart_pipe (c a : Nat) (tl : Int) (x : List Cx) : (s.putPart c a tl x).pipe = s.pipe := rfl
@[simp] theorem putPart_taq (c a : Nat) (tl : Int) (x : List Cx) : (s.putPart c a tl x).taq = s.taq := rfl
@[simp] theorem putPart_tags (c a : Nat) (tl : Int) (x : List Cx) : (s.putPart c a tl x).tags = s.tags := rfl
@[simp] theorem putPart_seq (c a : Nat) (tl : Int) (x : List Cx) : (s.putPart c a tl x).seq = s.seq := rfl
@[simp] theorem putPart_air (c a : Nat) (tl : Int) (x : List Cx) : (s.putPart c a tl x).air = s.air := rfl
@[simp] theorem putPart_pins (c a : Nat) (tl : Int) (x : List Cx) : (s.putPart c a tl x).pins = s.pins := rfl
@[simp] theorem putPart_bda (c a : Nat) (tl : Int) (x : List Cx) : (s.putPart c a tl x).bda = s.bda := rfl
@[simp] theorem putPart_los (c a : Nat) (tl : Int) (x : List Cx) : (s.putPart c a tl x).los = s.los := rfl
@[simp] theorem putPart_cal (c a : Nat) (tl : Int) (x : List Cx) : (s.putPart c a tl x).cal = s.cal := rfl
@[simp] theorem putPart_jrn (c a : Nat) (tl : Int) (x : List Cx) : (s.putPart c a tl x).jrn = s.jrn := rfl
@[simp] theorem putPart_bme (c a : Nat) (tl : Int) (x : List Cx) : (s.putPart c a tl x).bme = s.bme := rfl
@[simp] theorem putPart_lin (c a : Nat) (tl : Int) (x : List Cx) : (s.putPart c a tl x).lin = s.lin := rfl
@[simp] theorem putPart_time (c a : Nat) (tl : Int) (x : List Cx) : (s.putPart c a tl x).time = s.time := rfl
@[simp] theorem putPart_cap (c a : Nat) (tl : Int) (x : List Cx) : (s.putPart c a tl x).cap = s.cap := rfl
@[simp] theorem putPart_pwr (c a : Nat) (tl : Int) (x : List Cx) : (s.putPart c a tl x).pwr = s.pwr := rfl
@[simp] theorem putPart_thm (c a : Nat) (tl : Int) (x : List Cx) : (s.putPart c a tl x).thm = s.thm := rfl
@[simp] theorem putPart_sects (c a : Nat) (tl : Int) (x : List Cx) : (s.putPart c a tl x).sects = s.sects := rfl
@[simp] theorem putPart_arg (c a : Nat) (tl : Int) (x : List Cx) : (s.putPart c a tl x).arg = s.arg := rfl
@[simp] theorem putPart_sec (c a : Nat) (tl : Int) (x : List Cx) : (s.putPart c a tl x).sec = s.sec := rfl
@[simp] theorem putPart_host (c a : Nat) (tl : Int) (x : List Cx) : (s.putPart c a tl x).host = s.host := rfl
@[simp] theorem putPart_fhp (c a : Nat) (tl : Int) (x : List Cx) : (s.putPart c a tl x).fhp = s.fhp := rfl
@[simp] theorem putPart_dma (c a : Nat) (tl : Int) (x : List Cx) : (s.putPart c a tl x).dma = s.dma := rfl
@[simp] theorem putPart_cvu (c a : Nat) (tl : Int) (x : List Cx) : (s.putPart c a tl x).cvu = s.cvu := rfl
@[simp] theorem putPart_tap (c a : Nat) (tl : Int) (x : List Cx) : (s.putPart c a tl x).tap = s.tap := rfl
@[simp] theorem putPart_ready (c a : Nat) (tl : Int) (x : List Cx) : (s.putPart c a tl x).ready = s.ready := rfl
@[simp] theorem putPart_msixEn (c a : Nat) (tl : Int) (x : List Cx) : (s.putPart c a tl x).msixEn = s.msixEn := rfl
@[simp] theorem putPart_d3 (c a : Nat) (tl : Int) (x : List Cx) : (s.putPart c a tl x).d3 = s.d3 := rfl
@[simp] theorem putPart_boot (c a : Nat) (tl : Int) (x : List Cx) : (s.putPart c a tl x).boot = s.boot := rfl

@[simp] theorem putExp_pending (dir c : Nat) (tl : Int) (f : Nat) : (s.putExp dir c tl f).pending = s.pending := rfl
@[simp] theorem putExp_regs (dir c : Nat) (tl : Int) (f : Nat) : (s.putExp dir c tl f).regs = s.regs := rfl
@[simp] theorem putExp_force (dir c : Nat) (tl : Int) (f : Nat) : (s.putExp dir c tl f).force = s.force := rfl
@[simp] theorem putExp_mem (dir c : Nat) (tl : Int) (f : Nat) : (s.putExp dir c tl f).mem = s.mem := rfl
@[simp] theorem putExp_ecc (dir c : Nat) (tl : Int) (f : Nat) : (s.putExp dir c tl f).ecc = s.ecc := rfl
@[simp] theorem putExp_nvm (dir c : Nat) (tl : Int) (f : Nat) : (s.putExp dir c tl f).nvm = s.nvm := rfl
@[simp] theorem putExp_nvmEcc (dir c : Nat) (tl : Int) (f : Nat) : (s.putExp dir c tl f).nvmEcc = s.nvmEcc := rfl
@[simp] theorem putExp_out (dir c : Nat) (tl : Int) (f : Nat) : (s.putExp dir c tl f).out = s.out := rfl
@[simp] theorem putExp_free (dir c : Nat) (tl : Int) (f : Nat) : (s.putExp dir c tl f).free = s.free := rfl
@[simp] theorem putExp_shadow (dir c : Nat) (tl : Int) (f : Nat) : (s.putExp dir c tl f).shadow = s.shadow := rfl
@[simp] theorem putExp_th (dir c : Nat) (tl : Int) (f : Nat) : (s.putExp dir c tl f).th = s.th := rfl
@[simp] theorem putExp_pipe (dir c : Nat) (tl : Int) (f : Nat) : (s.putExp dir c tl f).pipe = s.pipe := rfl
@[simp] theorem putExp_taq (dir c : Nat) (tl : Int) (f : Nat) : (s.putExp dir c tl f).taq = s.taq := rfl
@[simp] theorem putExp_tags (dir c : Nat) (tl : Int) (f : Nat) : (s.putExp dir c tl f).tags = s.tags := rfl
@[simp] theorem putExp_seq (dir c : Nat) (tl : Int) (f : Nat) : (s.putExp dir c tl f).seq = s.seq := rfl
@[simp] theorem putExp_air (dir c : Nat) (tl : Int) (f : Nat) : (s.putExp dir c tl f).air = s.air := rfl
@[simp] theorem putExp_pins (dir c : Nat) (tl : Int) (f : Nat) : (s.putExp dir c tl f).pins = s.pins := rfl
@[simp] theorem putExp_bda (dir c : Nat) (tl : Int) (f : Nat) : (s.putExp dir c tl f).bda = s.bda := rfl
@[simp] theorem putExp_los (dir c : Nat) (tl : Int) (f : Nat) : (s.putExp dir c tl f).los = s.los := rfl
@[simp] theorem putExp_cal (dir c : Nat) (tl : Int) (f : Nat) : (s.putExp dir c tl f).cal = s.cal := rfl
@[simp] theorem putExp_jrn (dir c : Nat) (tl : Int) (f : Nat) : (s.putExp dir c tl f).jrn = s.jrn := rfl
@[simp] theorem putExp_smp (dir c : Nat) (tl : Int) (f : Nat) : (s.putExp dir c tl f).smp = s.smp := rfl
@[simp] theorem putExp_lin (dir c : Nat) (tl : Int) (f : Nat) : (s.putExp dir c tl f).lin = s.lin := rfl
@[simp] theorem putExp_time (dir c : Nat) (tl : Int) (f : Nat) : (s.putExp dir c tl f).time = s.time := rfl
@[simp] theorem putExp_cap (dir c : Nat) (tl : Int) (f : Nat) : (s.putExp dir c tl f).cap = s.cap := rfl
@[simp] theorem putExp_pwr (dir c : Nat) (tl : Int) (f : Nat) : (s.putExp dir c tl f).pwr = s.pwr := rfl
@[simp] theorem putExp_thm (dir c : Nat) (tl : Int) (f : Nat) : (s.putExp dir c tl f).thm = s.thm := rfl
@[simp] theorem putExp_sects (dir c : Nat) (tl : Int) (f : Nat) : (s.putExp dir c tl f).sects = s.sects := rfl
@[simp] theorem putExp_arg (dir c : Nat) (tl : Int) (f : Nat) : (s.putExp dir c tl f).arg = s.arg := rfl
@[simp] theorem putExp_sec (dir c : Nat) (tl : Int) (f : Nat) : (s.putExp dir c tl f).sec = s.sec := rfl
@[simp] theorem putExp_host (dir c : Nat) (tl : Int) (f : Nat) : (s.putExp dir c tl f).host = s.host := rfl
@[simp] theorem putExp_fhp (dir c : Nat) (tl : Int) (f : Nat) : (s.putExp dir c tl f).fhp = s.fhp := rfl
@[simp] theorem putExp_dma (dir c : Nat) (tl : Int) (f : Nat) : (s.putExp dir c tl f).dma = s.dma := rfl
@[simp] theorem putExp_cvu (dir c : Nat) (tl : Int) (f : Nat) : (s.putExp dir c tl f).cvu = s.cvu := rfl
@[simp] theorem putExp_tap (dir c : Nat) (tl : Int) (f : Nat) : (s.putExp dir c tl f).tap = s.tap := rfl
@[simp] theorem putExp_ready (dir c : Nat) (tl : Int) (f : Nat) : (s.putExp dir c tl f).ready = s.ready := rfl
@[simp] theorem putExp_msixEn (dir c : Nat) (tl : Int) (f : Nat) : (s.putExp dir c tl f).msixEn = s.msixEn := rfl
@[simp] theorem putExp_d3 (dir c : Nat) (tl : Int) (f : Nat) : (s.putExp dir c tl f).d3 = s.d3 := rfl
@[simp] theorem putExp_boot (dir c : Nat) (tl : Int) (f : Nat) : (s.putExp dir c tl f).boot = s.boot := rfl

@[simp] theorem putData_pending (x : LayerPrb) : (s.putData x).pending = s.pending := rfl
@[simp] theorem putData_regs (x : LayerPrb) : (s.putData x).regs = s.regs := rfl
@[simp] theorem putData_force (x : LayerPrb) : (s.putData x).force = s.force := rfl
@[simp] theorem putData_mem (x : LayerPrb) : (s.putData x).mem = s.mem := rfl
@[simp] theorem putData_ecc (x : LayerPrb) : (s.putData x).ecc = s.ecc := rfl
@[simp] theorem putData_nvm (x : LayerPrb) : (s.putData x).nvm = s.nvm := rfl
@[simp] theorem putData_nvmEcc (x : LayerPrb) : (s.putData x).nvmEcc = s.nvmEcc := rfl
@[simp] theorem putData_out (x : LayerPrb) : (s.putData x).out = s.out := rfl
@[simp] theorem putData_free (x : LayerPrb) : (s.putData x).free = s.free := rfl
@[simp] theorem putData_shadow (x : LayerPrb) : (s.putData x).shadow = s.shadow := rfl
@[simp] theorem putData_th (x : LayerPrb) : (s.putData x).th = s.th := rfl
@[simp] theorem putData_pipe (x : LayerPrb) : (s.putData x).pipe = s.pipe := rfl
@[simp] theorem putData_taq (x : LayerPrb) : (s.putData x).taq = s.taq := rfl
@[simp] theorem putData_tags (x : LayerPrb) : (s.putData x).tags = s.tags := rfl
@[simp] theorem putData_seq (x : LayerPrb) : (s.putData x).seq = s.seq := rfl
@[simp] theorem putData_air (x : LayerPrb) : (s.putData x).air = s.air := rfl
@[simp] theorem putData_pins (x : LayerPrb) : (s.putData x).pins = s.pins := rfl
@[simp] theorem putData_bda (x : LayerPrb) : (s.putData x).bda = s.bda := rfl
@[simp] theorem putData_los (x : LayerPrb) : (s.putData x).los = s.los := rfl
@[simp] theorem putData_cal (x : LayerPrb) : (s.putData x).cal = s.cal := rfl
@[simp] theorem putData_jrn (x : LayerPrb) : (s.putData x).jrn = s.jrn := rfl
@[simp] theorem putData_smp (x : LayerPrb) : (s.putData x).smp = s.smp := rfl
@[simp] theorem putData_lin (x : LayerPrb) : (s.putData x).lin = s.lin := rfl
@[simp] theorem putData_time (x : LayerPrb) : (s.putData x).time = s.time := rfl
@[simp] theorem putData_cap (x : LayerPrb) : (s.putData x).cap = s.cap := rfl
@[simp] theorem putData_pwr (x : LayerPrb) : (s.putData x).pwr = s.pwr := rfl
@[simp] theorem putData_thm (x : LayerPrb) : (s.putData x).thm = s.thm := rfl
@[simp] theorem putData_sects (x : LayerPrb) : (s.putData x).sects = s.sects := rfl
@[simp] theorem putData_arg (x : LayerPrb) : (s.putData x).arg = s.arg := rfl
@[simp] theorem putData_sec (x : LayerPrb) : (s.putData x).sec = s.sec := rfl
@[simp] theorem putData_host (x : LayerPrb) : (s.putData x).host = s.host := rfl
@[simp] theorem putData_fhp (x : LayerPrb) : (s.putData x).fhp = s.fhp := rfl
@[simp] theorem putData_dma (x : LayerPrb) : (s.putData x).dma = s.dma := rfl
@[simp] theorem putData_cvu (x : LayerPrb) : (s.putData x).cvu = s.cvu := rfl
@[simp] theorem putData_tap (x : LayerPrb) : (s.putData x).tap = s.tap := rfl
@[simp] theorem putData_ready (x : LayerPrb) : (s.putData x).ready = s.ready := rfl
@[simp] theorem putData_msixEn (x : LayerPrb) : (s.putData x).msixEn = s.msixEn := rfl
@[simp] theorem putData_d3 (x : LayerPrb) : (s.putData x).d3 = s.d3 := rfl
@[simp] theorem putData_boot (x : LayerPrb) : (s.putData x).boot = s.boot := rfl

@[simp] theorem putSums_pending (l : List SumPrb) : (s.putSums l).pending = s.pending := rfl
@[simp] theorem putSums_regs (l : List SumPrb) : (s.putSums l).regs = s.regs := rfl
@[simp] theorem putSums_force (l : List SumPrb) : (s.putSums l).force = s.force := rfl
@[simp] theorem putSums_mem (l : List SumPrb) : (s.putSums l).mem = s.mem := rfl
@[simp] theorem putSums_ecc (l : List SumPrb) : (s.putSums l).ecc = s.ecc := rfl
@[simp] theorem putSums_nvm (l : List SumPrb) : (s.putSums l).nvm = s.nvm := rfl
@[simp] theorem putSums_nvmEcc (l : List SumPrb) : (s.putSums l).nvmEcc = s.nvmEcc := rfl
@[simp] theorem putSums_out (l : List SumPrb) : (s.putSums l).out = s.out := rfl
@[simp] theorem putSums_free (l : List SumPrb) : (s.putSums l).free = s.free := rfl
@[simp] theorem putSums_shadow (l : List SumPrb) : (s.putSums l).shadow = s.shadow := rfl
@[simp] theorem putSums_th (l : List SumPrb) : (s.putSums l).th = s.th := rfl
@[simp] theorem putSums_pipe (l : List SumPrb) : (s.putSums l).pipe = s.pipe := rfl
@[simp] theorem putSums_taq (l : List SumPrb) : (s.putSums l).taq = s.taq := rfl
@[simp] theorem putSums_tags (l : List SumPrb) : (s.putSums l).tags = s.tags := rfl
@[simp] theorem putSums_seq (l : List SumPrb) : (s.putSums l).seq = s.seq := rfl
@[simp] theorem putSums_air (l : List SumPrb) : (s.putSums l).air = s.air := rfl
@[simp] theorem putSums_pins (l : List SumPrb) : (s.putSums l).pins = s.pins := rfl
@[simp] theorem putSums_bda (l : List SumPrb) : (s.putSums l).bda = s.bda := rfl
@[simp] theorem putSums_los (l : List SumPrb) : (s.putSums l).los = s.los := rfl
@[simp] theorem putSums_cal (l : List SumPrb) : (s.putSums l).cal = s.cal := rfl
@[simp] theorem putSums_jrn (l : List SumPrb) : (s.putSums l).jrn = s.jrn := rfl
@[simp] theorem putSums_smp (l : List SumPrb) : (s.putSums l).smp = s.smp := rfl
@[simp] theorem putSums_lin (l : List SumPrb) : (s.putSums l).lin = s.lin := rfl
@[simp] theorem putSums_time (l : List SumPrb) : (s.putSums l).time = s.time := rfl
@[simp] theorem putSums_cap (l : List SumPrb) : (s.putSums l).cap = s.cap := rfl
@[simp] theorem putSums_pwr (l : List SumPrb) : (s.putSums l).pwr = s.pwr := rfl
@[simp] theorem putSums_thm (l : List SumPrb) : (s.putSums l).thm = s.thm := rfl
@[simp] theorem putSums_sects (l : List SumPrb) : (s.putSums l).sects = s.sects := rfl
@[simp] theorem putSums_arg (l : List SumPrb) : (s.putSums l).arg = s.arg := rfl
@[simp] theorem putSums_sec (l : List SumPrb) : (s.putSums l).sec = s.sec := rfl
@[simp] theorem putSums_host (l : List SumPrb) : (s.putSums l).host = s.host := rfl
@[simp] theorem putSums_fhp (l : List SumPrb) : (s.putSums l).fhp = s.fhp := rfl
@[simp] theorem putSums_dma (l : List SumPrb) : (s.putSums l).dma = s.dma := rfl
@[simp] theorem putSums_cvu (l : List SumPrb) : (s.putSums l).cvu = s.cvu := rfl
@[simp] theorem putSums_tap (l : List SumPrb) : (s.putSums l).tap = s.tap := rfl
@[simp] theorem putSums_ready (l : List SumPrb) : (s.putSums l).ready = s.ready := rfl
@[simp] theorem putSums_msixEn (l : List SumPrb) : (s.putSums l).msixEn = s.msixEn := rfl
@[simp] theorem putSums_d3 (l : List SumPrb) : (s.putSums l).d3 = s.d3 := rfl
@[simp] theorem putSums_boot (l : List SumPrb) : (s.putSums l).boot = s.boot := rfl

@[simp] theorem setArgPort_pending (p : Nat) (a : ArgPort) : (s.setArgPort p a).pending = s.pending := rfl
@[simp] theorem setArgPort_regs (p : Nat) (a : ArgPort) : (s.setArgPort p a).regs = s.regs := rfl
@[simp] theorem setArgPort_force (p : Nat) (a : ArgPort) : (s.setArgPort p a).force = s.force := rfl
@[simp] theorem setArgPort_mem (p : Nat) (a : ArgPort) : (s.setArgPort p a).mem = s.mem := rfl
@[simp] theorem setArgPort_ecc (p : Nat) (a : ArgPort) : (s.setArgPort p a).ecc = s.ecc := rfl
@[simp] theorem setArgPort_nvm (p : Nat) (a : ArgPort) : (s.setArgPort p a).nvm = s.nvm := rfl
@[simp] theorem setArgPort_nvmEcc (p : Nat) (a : ArgPort) : (s.setArgPort p a).nvmEcc = s.nvmEcc := rfl
@[simp] theorem setArgPort_out (p : Nat) (a : ArgPort) : (s.setArgPort p a).out = s.out := rfl
@[simp] theorem setArgPort_free (p : Nat) (a : ArgPort) : (s.setArgPort p a).free = s.free := rfl
@[simp] theorem setArgPort_shadow (p : Nat) (a : ArgPort) : (s.setArgPort p a).shadow = s.shadow := rfl
@[simp] theorem setArgPort_th (p : Nat) (a : ArgPort) : (s.setArgPort p a).th = s.th := rfl
@[simp] theorem setArgPort_pipe (p : Nat) (a : ArgPort) : (s.setArgPort p a).pipe = s.pipe := rfl
@[simp] theorem setArgPort_taq (p : Nat) (a : ArgPort) : (s.setArgPort p a).taq = s.taq := rfl
@[simp] theorem setArgPort_tags (p : Nat) (a : ArgPort) : (s.setArgPort p a).tags = s.tags := rfl
@[simp] theorem setArgPort_seq (p : Nat) (a : ArgPort) : (s.setArgPort p a).seq = s.seq := rfl
@[simp] theorem setArgPort_air (p : Nat) (a : ArgPort) : (s.setArgPort p a).air = s.air := rfl
@[simp] theorem setArgPort_pins (p : Nat) (a : ArgPort) : (s.setArgPort p a).pins = s.pins := rfl
@[simp] theorem setArgPort_bda (p : Nat) (a : ArgPort) : (s.setArgPort p a).bda = s.bda := rfl
@[simp] theorem setArgPort_los (p : Nat) (a : ArgPort) : (s.setArgPort p a).los = s.los := rfl
@[simp] theorem setArgPort_cal (p : Nat) (a : ArgPort) : (s.setArgPort p a).cal = s.cal := rfl
@[simp] theorem setArgPort_jrn (p : Nat) (a : ArgPort) : (s.setArgPort p a).jrn = s.jrn := rfl
@[simp] theorem setArgPort_bme (p : Nat) (a : ArgPort) : (s.setArgPort p a).bme = s.bme := rfl
@[simp] theorem setArgPort_smp (p : Nat) (a : ArgPort) : (s.setArgPort p a).smp = s.smp := rfl
@[simp] theorem setArgPort_lin (p : Nat) (a : ArgPort) : (s.setArgPort p a).lin = s.lin := rfl
@[simp] theorem setArgPort_time (p : Nat) (a : ArgPort) : (s.setArgPort p a).time = s.time := rfl
@[simp] theorem setArgPort_cap (p : Nat) (a : ArgPort) : (s.setArgPort p a).cap = s.cap := rfl
@[simp] theorem setArgPort_pwr (p : Nat) (a : ArgPort) : (s.setArgPort p a).pwr = s.pwr := rfl
@[simp] theorem setArgPort_thm (p : Nat) (a : ArgPort) : (s.setArgPort p a).thm = s.thm := rfl
@[simp] theorem setArgPort_sects (p : Nat) (a : ArgPort) : (s.setArgPort p a).sects = s.sects := rfl
@[simp] theorem setArgPort_sec (p : Nat) (a : ArgPort) : (s.setArgPort p a).sec = s.sec := rfl
@[simp] theorem setArgPort_host (p : Nat) (a : ArgPort) : (s.setArgPort p a).host = s.host := rfl
@[simp] theorem setArgPort_fhp (p : Nat) (a : ArgPort) : (s.setArgPort p a).fhp = s.fhp := rfl
@[simp] theorem setArgPort_dma (p : Nat) (a : ArgPort) : (s.setArgPort p a).dma = s.dma := rfl
@[simp] theorem setArgPort_cvu (p : Nat) (a : ArgPort) : (s.setArgPort p a).cvu = s.cvu := rfl
@[simp] theorem setArgPort_tap (p : Nat) (a : ArgPort) : (s.setArgPort p a).tap = s.tap := rfl
@[simp] theorem setArgPort_ready (p : Nat) (a : ArgPort) : (s.setArgPort p a).ready = s.ready := rfl
@[simp] theorem setArgPort_msixEn (p : Nat) (a : ArgPort) : (s.setArgPort p a).msixEn = s.msixEn := rfl
@[simp] theorem setArgPort_d3 (p : Nat) (a : ArgPort) : (s.setArgPort p a).d3 = s.d3 := rfl
@[simp] theorem setArgPort_boot (p : Nat) (a : ArgPort) : (s.setArgPort p a).boot = s.boot := rfl

@[simp] theorem yielded_pending (th : Nat) : (s.yielded th).pending = s.pending := rfl
@[simp] theorem yielded_regs (th : Nat) : (s.yielded th).regs = s.regs := rfl
@[simp] theorem yielded_force (th : Nat) : (s.yielded th).force = s.force := rfl
@[simp] theorem yielded_mem (th : Nat) : (s.yielded th).mem = s.mem := rfl
@[simp] theorem yielded_ecc (th : Nat) : (s.yielded th).ecc = s.ecc := rfl
@[simp] theorem yielded_nvm (th : Nat) : (s.yielded th).nvm = s.nvm := rfl
@[simp] theorem yielded_nvmEcc (th : Nat) : (s.yielded th).nvmEcc = s.nvmEcc := rfl
@[simp] theorem yielded_out (th : Nat) : (s.yielded th).out = s.out := rfl
@[simp] theorem yielded_free (th : Nat) : (s.yielded th).free = s.free := rfl
@[simp] theorem yielded_shadow (th : Nat) : (s.yielded th).shadow = s.shadow := rfl
@[simp] theorem yielded_th (th : Nat) : (s.yielded th).th = s.th := rfl
@[simp] theorem yielded_taq (th : Nat) : (s.yielded th).taq = s.taq := rfl
@[simp] theorem yielded_tags (th : Nat) : (s.yielded th).tags = s.tags := rfl
@[simp] theorem yielded_seq (th : Nat) : (s.yielded th).seq = s.seq := rfl
@[simp] theorem yielded_air (th : Nat) : (s.yielded th).air = s.air := rfl
@[simp] theorem yielded_pins (th : Nat) : (s.yielded th).pins = s.pins := rfl
@[simp] theorem yielded_bda (th : Nat) : (s.yielded th).bda = s.bda := rfl
@[simp] theorem yielded_los (th : Nat) : (s.yielded th).los = s.los := rfl
@[simp] theorem yielded_cal (th : Nat) : (s.yielded th).cal = s.cal := rfl
@[simp] theorem yielded_jrn (th : Nat) : (s.yielded th).jrn = s.jrn := rfl
@[simp] theorem yielded_bme (th : Nat) : (s.yielded th).bme = s.bme := rfl
@[simp] theorem yielded_smp (th : Nat) : (s.yielded th).smp = s.smp := rfl
@[simp] theorem yielded_lin (th : Nat) : (s.yielded th).lin = s.lin := rfl
@[simp] theorem yielded_time (th : Nat) : (s.yielded th).time = s.time := rfl
@[simp] theorem yielded_cap (th : Nat) : (s.yielded th).cap = s.cap := rfl
@[simp] theorem yielded_pwr (th : Nat) : (s.yielded th).pwr = s.pwr := rfl
@[simp] theorem yielded_thm (th : Nat) : (s.yielded th).thm = s.thm := rfl
@[simp] theorem yielded_sects (th : Nat) : (s.yielded th).sects = s.sects := rfl
@[simp] theorem yielded_arg (th : Nat) : (s.yielded th).arg = s.arg := rfl
@[simp] theorem yielded_sec (th : Nat) : (s.yielded th).sec = s.sec := rfl
@[simp] theorem yielded_host (th : Nat) : (s.yielded th).host = s.host := rfl
@[simp] theorem yielded_fhp (th : Nat) : (s.yielded th).fhp = s.fhp := rfl
@[simp] theorem yielded_dma (th : Nat) : (s.yielded th).dma = s.dma := rfl
@[simp] theorem yielded_cvu (th : Nat) : (s.yielded th).cvu = s.cvu := rfl
@[simp] theorem yielded_tap (th : Nat) : (s.yielded th).tap = s.tap := rfl
@[simp] theorem yielded_ready (th : Nat) : (s.yielded th).ready = s.ready := rfl
@[simp] theorem yielded_msixEn (th : Nat) : (s.yielded th).msixEn = s.msixEn := rfl
@[simp] theorem yielded_d3 (th : Nat) : (s.yielded th).d3 = s.d3 := rfl
@[simp] theorem yielded_boot (th : Nat) : (s.yielded th).boot = s.boot := rfl

end Sys2Proof.Machine
end

