-- ==== Sys2Proof/Laws/Ops.lean ====
section
/-! SUPPORT. Registers, fields, bytes and threads: what reads as what after a write. -/
namespace Sys2Proof.Machine

variable (s : State)

theorem reg_setReg (o j : Nat) (v : Word) : (s.setReg o v).reg j = if j = o then v else s.reg j := sget_sset _ _ _ _ _

@[simp] theorem reg_setReg_same (o : Nat) (v : Word) : (s.setReg o v).reg o = v := by simp [reg_setReg]

theorem reg_setReg_ne (o j : Nat) (v : Word) (h : j ≠ o) : (s.setReg o v).reg j = s.reg j := by simp [reg_setReg, h]

theorem reg_setFld (o hi lo v j : Nat) :
    (s.setFld o hi lo v).reg j = if j = o then setBits (s.reg o) hi lo v else s.reg j := reg_setReg ..

theorem reg_setFld_ne (o hi lo v j : Nat) (h : j ≠ o) : (s.setFld o hi lo v).reg j = s.reg j := reg_setReg_ne _ _ _ _ h

theorem reg_setFlag (o i j : Nat) (b : Bool) :
    (s.setFlag o i b).reg j = if j = o then setBits (s.reg o) i i b.toNat else s.reg j := reg_setReg ..

theorem reg_setFlag_ne (o i j : Nat) (b : Bool) (h : j ≠ o) : (s.setFlag o i b).reg j = s.reg j := reg_setReg_ne _ _ _ _ h

/-- A field reads as it was set. -/
theorem fld_setFld (o hi lo v : Nat) (h : hi < 32) : (s.setFld o hi lo v).fld o hi lo = v % 2 ^ (hi + 1 - lo) := by
  simp [State.fld, reg_setFld, bits_setBits _ _ _ _ h]

theorem fld_setFld_ne (o hi lo v j hi' lo' : Nat) (h : j ≠ o) : (s.setFld o hi lo v).fld j hi' lo' = s.fld j hi' lo' := by
  simp [State.fld, reg_setFld_ne _ _ _ _ _ _ h]

theorem fld_setReg_ne (o j hi lo : Nat) (v : Word) (h : j ≠ o) : (s.setReg o v).fld j hi lo = s.fld j hi lo := by
  simp [State.fld, reg_setReg_ne _ _ _ _ h]

theorem flag_setReg_ne (o j i : Nat) (v : Word) (h : j ≠ o) : (s.setReg o v).flag j i = s.flag j i := by
  simp [State.flag, reg_setReg_ne _ _ _ _ h]

theorem flag_setFld_ne (o hi lo v j i : Nat) (h : j ≠ o) : (s.setFld o hi lo v).flag j i = s.flag j i :=
  flag_setReg_ne _ _ _ _ _ h

/-- A flag reads as it was set. -/
theorem flag_setFlag (o i : Nat) (b : Bool) (h : i < 32) : (s.setFlag o i b).flag o i = b := by
  simp [State.flag, reg_setFlag, bit_setBits_self _ _ _ h]

theorem flag_setFlag_other (o i j : Nat) (b : Bool) (hj : j < 32) (h : j ≠ i) :
    (s.setFlag o i b).flag o j = s.flag o j := by
  simp [State.flag, reg_setFlag, bit_setBits_other _ _ _ _ hj h]

theorem flag_setFlag_ne (o i k j : Nat) (b : Bool) (h : k ≠ o) : (s.setFlag o i b).flag k j = s.flag k j := by
  simp [State.flag, reg_setFlag_ne _ _ _ _ _ h]

theorem fld_setFlag_ne (o i k hi lo : Nat) (b : Bool) (h : k ≠ o) : (s.setFlag o i b).fld k hi lo = s.fld k hi lo := by
  simp [State.fld, reg_setFlag_ne _ _ _ _ _ h]

@[simp] theorem reg_setThread (i : Nat) (t : Thread) (j : Nat) : (s.setThread i t).reg j = s.reg j := rfl
@[simp] theorem fld_setThread (i : Nat) (t : Thread) (j hi lo : Nat) : (s.setThread i t).fld j hi lo = s.fld j hi lo := rfl
@[simp] theorem flag_setThread (i : Nat) (t : Thread) (j b : Nat) : (s.setThread i t).flag j b = s.flag j b := rfl
@[simp] theorem reg_send (o : Out) (j : Nat) : (s.send o).reg j = s.reg j := rfl
@[simp] theorem reg_setByte (a : Nat) (b : Byte) (j : Nat) : (s.setByte a b).reg j = s.reg j := rfl
@[simp] theorem reg_setEcc (a : Nat) (e : Ecc) (j : Nat) : (s.setEcc a e).reg j = s.reg j := rfl

theorem thread_setThread (i j : Nat) (t : Thread) : (s.setThread i t).thread j = if j = i then t else s.thread j :=
  sget_sset _ _ _ _ _

@[simp] theorem thread_setThread_same (i : Nat) (t : Thread) : (s.setThread i t).thread i = t := by simp [thread_setThread]
@[simp] theorem thread_setReg (o : Nat) (v : Word) (i : Nat) : (s.setReg o v).thread i = s.thread i := rfl
@[simp] theorem thread_setFld (o hi lo v i : Nat) : (s.setFld o hi lo v).thread i = s.thread i := rfl
@[simp] theorem thread_setFlag (o j : Nat) (b : Bool) (i : Nat) : (s.setFlag o j b).thread i = s.thread i := rfl

/-- A byte of memory after a store: the byte stored at its address, every other byte as before. -/
theorem byte_setByte (a c : Nat) (b : Byte) : (s.setByte a b).byte c = if c = a then b else s.byte c := sget_sset _ _ _ _ _

@[simp] theorem byte_setReg (o : Nat) (v : Word) (a : Nat) : (s.setReg o v).byte a = s.byte a := rfl
@[simp] theorem byte_setFld (o hi lo v a : Nat) : (s.setFld o hi lo v).byte a = s.byte a := rfl
@[simp] theorem byte_setFlag (o i : Nat) (b : Bool) (a : Nat) : (s.setFlag o i b).byte a = s.byte a := rfl
@[simp] theorem byte_setThread (i : Nat) (t : Thread) (a : Nat) : (s.setThread i t).byte a = s.byte a := rfl
@[simp] theorem byte_setEcc (c : Nat) (e : Ecc) (a : Nat) : (s.setEcc c e).byte a = s.byte a := rfl

theorem eccAt_setEcc (a c : Nat) (e : Ecc) : (s.setEcc a e).eccAt c = if c = a then e else s.eccAt c := sget_sset _ _ _ _ _

/-- Bytes put from `a` on: those of the list, every other byte as before. -/
theorem byte_putBytes (bs : List Byte) (a c : Nat) (t : State) :
    (t.putBytes a bs).byte c = if a ≤ c ∧ c < a + bs.length then bs.getD (c - a) 0 else t.byte c := by
  induction bs generalizing a t with
  | nil => simp [State.putBytes]
  | cons b bs ih =>
    rw [State.putBytes, ih, byte_setByte]
    by_cases h1 : c = a
    · subst h1; simp
    · by_cases h2 : a ≤ c ∧ c < a + (bs.length + 1)
      · have h3 : a + 1 ≤ c ∧ c < a + 1 + bs.length := by omega
        have h4 : c - a = (c - (a + 1)) + 1 := by omega
        simp only [h3, h2, List.length_cons, and_self, if_true]
        rw [h4, List.getD_cons_succ]
      · have h3 : ¬ (a + 1 ≤ c ∧ c < a + 1 + bs.length) := by omega
        simp only [h3, h2, h1, List.length_cons, if_false]

@[simp] theorem noted_pcie (st : Nat) : s.noted .pcie st = s := rfl
@[simp] theorem reg_noted (p : Port) (st j : Nat) : (s.noted p st).reg j = s.reg j := by cases p <;> rfl
@[simp] theorem fld_noted (p : Port) (st j hi lo : Nat) : (s.noted p st).fld j hi lo = s.fld j hi lo := by cases p <;> rfl
@[simp] theorem flag_noted (p : Port) (st j i : Nat) : (s.noted p st).flag j i = s.flag j i := by cases p <;> rfl
@[simp] theorem byte_noted (p : Port) (st a : Nat) : (s.noted p st).byte a = s.byte a := by cases p <;> rfl
@[simp] theorem thread_noted (p : Port) (st i : Nat) : (s.noted p st).thread i = s.thread i := by cases p <;> rfl
@[simp] theorem out_noted (p : Port) (st : Nat) : (s.noted p st).out = s.out := by cases p <;> rfl

theorem settleReads_none (h : s.host.waits = []) : s.settleReads = s := by simp [State.settleReads, h]

/-- A host access that reaches its register does what the register does with it, and through the management port leaves its status. -/
theorem hostReg_reaches (p : Port) (off : Nat) (f : State → State) (h : s.reaches p off = true) :
    s.hostReg p off f = (f s).noted p mgOk := by
  simp only [State.reaches, Bool.and_eq_true, List.isEmpty_iff] at h
  obtain ⟨⟨h1, h2⟩, h3⟩ := h
  have hs := settleReads_none s h3
  cases p with
  | pcie =>
    simp only [Bool.and_eq_true, Bool.not_eq_true'] at h1
    simp [State.hostReg, h1.1, h1.2, hs, h2]
  | mgmt =>
    simp only [Bool.and_eq_true, Bool.not_eq_true'] at h1
    obtain ⟨⟨h4, h5⟩, h6⟩ := h1
    have h7 : s.season ≠ 2 ∧ s.season ≠ 3 ∧ s.season ≠ 5 := by simpa using h5
    have ha : s.addressMatch = s := by simp [State.addressMatch, h7]
    have hb : s.arrived = s := by
      unfold State.arrived State.addressed
      split <;> simp [ha, hs]
    simp [State.hostReg, h4, hb, h6, h2]

end Sys2Proof.Machine
end

