-- ==== Sys2Proof/Laws/Signal.lean ====
section
/-! SUPPORT. What the shared operations over samples and weights do: histories, clamps, roots, and protected reads of good words. -/
namespace Sys2Proof.Machine

@[simp] theorem enter_head {α : Type} (n : Nat) (x : α) (h : List α) : (enter n x h).head? = some x := rfl

@[simp] theorem back_enter_zero (n : Nat) (x : Cx) (h : List Cx) : back (enter n x h) 0 = x := rfl

theorem back_enter_succ (n i : Nat) (x : Cx) (h : List Cx) (hi : i < n - 1) : back (enter n x h) (i + 1) = back h i := by
  simp [back, enter, hi]

@[simp] theorem phases_length (f p : Nat) (h : List Cx) : (phases f p h).1.length = p := by simp [phases]

/-- Saturation leaves what it has saturated. -/
@[simp] theorem satS_satS (w : Nat) (x : Int) : satS w (satS w x) = satS w x := by
  have hp : (1 : Int) ≤ (2 ^ (w - 1) : Nat) := by exact_mod_cast Nat.one_le_two_pow
  simp only [satS, clampI]
  split_ifs <;> omega

/-- What is clamped to Q1.23 stays as it is. -/
@[simp] theorem clampQ_clampQ (a : Cx) : clampQ (clampQ a).1 = ((clampQ a).1, 0) := by simp [clampQ]

/-- Bisection over an interval that begins inside and ends outside finds a place where `ok` ends. -/
theorem rootFrom_spec (ok : Nat → Bool) (fuel : Nat) : ∀ lo hi, ok lo = true → ok hi = false → lo < hi → hi - lo ≤ 2 ^ fuel →
    ok (rootFrom ok fuel lo hi) = true ∧ ok (rootFrom ok fuel lo hi + 1) = false := by
  induction fuel with
  | zero =>
    intro lo hi h1 h2 h3 h4
    obtain rfl : hi = lo + 1 := by simp at h4; omega
    exact ⟨h1, h2⟩
  | succ f ih =>
    intro lo hi h1 h2 h3 h4
    rw [Nat.pow_succ] at h4
    simp only [rootFrom]
    by_cases hm : lo + 1 = hi
    · subst hm
      rw [show (lo + (lo + 1)) / 2 = lo by omega, if_pos h1]
      exact ih _ _ h1 h2 (by omega) (by have := Nat.one_le_two_pow (n := f); omega)
    split <;> rename_i h
    · exact ih _ _ h h2 (by omega) (by omega)
    · exact ih _ _ h1 (by simpa using h) (by omega) (by omega)

/-- A protected read of a good word gives the word and changes nothing. -/
theorem readDev_good (s : State) (a : Nat) (h : s.eccAt a = .good) : s.readDev a = (s.rawWord a, s) := by
  simp [State.readDev, State.readEcc, h]

end Sys2Proof.Machine
end

