-- ==== Sys2Proof/Laws/Thread.lean ====
section
/-! SUPPORT. A thread that executes an instruction: what its command does, and how an instruction ends. -/
namespace Sys2Proof.Machine

variable {s f : State} {th : Nat} {o : Op}

/-- The command of the instruction at the thread's PC performs that instruction. -/
theorem issue_executes {row : Instr} (h : State.Executes s th o f) (hr : o.row th = row) :
    s.issue th row = (f.begun th).retire th ((f.begun th).perform th (f.duOf th) o) := by
  simp [State.issue, State.issueIf, h.can, h.op, h.pass, hr, State.start, State.run, h.unit]

/-- An instruction that goes on: the PC advances, where a next index exists and no one stops the thread. -/
theorem advance_free {t : State} {n : Nat} (hp : t.pc th + n ≤ lastPc) (h1 : (t.thread th).stepping = false)
    (h2 : (t.thread th).haltReq = false) : t.advance th n = t.setPc th (t.pc th + n) := by
  have : ¬ lastPc < t.pc th + n := by omega
  simp [State.advance, this, State.boundary, State.setPc, h1, h2]

@[simp] theorem begun_reg (s : State) (th j : Nat) : (s.begun th).reg j = s.reg j := rfl
@[simp] theorem begun_pc (s : State) (th j : Nat) : (s.begun th).pc j = s.pc j := rfl
theorem begun_thread (s : State) (th j : Nat) :
    (s.begun th).thread j = if j = th then { s.thread th with skipBp := false, reading := false } else s.thread j := thread_setThread ..

theorem runs_next {s f u : State} {th : Nat} {o : Op} {row : Instr} (h : State.RunsOn s th o f) (hr : o.row th = row)
    (hp : (f.begun th).perform th (f.duOf th) o = (u, .next)) (h1 : u.pc th = f.pc th) (h2 : u.thread th = (f.begun th).thread th) :
    s.issue th row = u.setPc th (f.pc th + 1) := by
  rw [issue_executes h.toExecutes hr, hp]
  simp only [State.retire]
  rw [advance_free (n := 1) (by have := h.room; rw [h1]; omega) (by rw [h2, begun_thread]; simp [h.free.1])
    (by rw [h2, begun_thread]; simp [h.free.2]), h1]

theorem setNZ_reg (s : State) (th : Nat) (n z : Bool) (j : Nat) (h : j ≠ Reg.tlpThStat th) : (s.setNZ th n z).reg j = s.reg j := by
  simp [State.setNZ, State.setStat, reg_setFlag_ne _ _ _ _ _ h]
theorem aluFlags_reg (s : State) (th : Nat) (o : AluOut) (j : Nat) (h : j ≠ Reg.tlpThStat th) : (s.aluFlags th o).reg j = s.reg j := by
  unfold State.aluFlags
  cases o.c <;> cases o.v <;> simp [State.setStat, reg_setFlag_ne _ _ _ _ _ h, setNZ_reg _ _ _ _ _ h]
theorem aluFlags_thread (s : State) (th : Nat) (o : AluOut) (j : Nat) : (s.aluFlags th o).thread j = s.thread j := by
  unfold State.aluFlags
  cases o.c <;> cases o.v <;> rfl
theorem aluFlags_rest (s : State) (th : Nat) (o : AluOut) (r : List (Nat × Word)) : { s.aluFlags th o with regs := r } = { s with regs := r } := by
  unfold State.aluFlags
  cases o.c <;> cases o.v <;> rfl
theorem stat_setStat (s : State) (th i j : Nat) (b : Bool) (hj : j < 32) : (s.setStat th i b).stat th j = if j = i then b else s.stat th j := by
  unfold State.stat State.setStat
  by_cases h : j = i
  · subst h; simp [flag_setFlag _ _ _ _ hj]
  · simp [h, flag_setFlag_other _ _ _ _ _ hj h]
theorem aluFlags_stat (s : State) (th : Nat) (o : AluOut) (j : Nat) (hj : j < 32) : (s.aluFlags th o).stat th j =
    if j = 3 then o.v.getD (s.stat th j) else if j = 2 then o.c.getD (s.stat th j) else if j = 1 then o.val.msb else if j = 0 then o.val == 0 else s.stat th j := by
  unfold State.aluFlags State.setNZ
  cases o.c <;> cases o.v <;> simp only [stat_setStat _ _ _ _ _ hj, stV, stC, stZ, stN, Option.getD]
  all_goals (split_ifs <;> simp_all)

theorem specReg_pc (th d : Nat) (h : d < 32) : specReg th d ≠ Reg.tlpThPc th := by
  unfold specReg Reg.tlpThG Reg.tlpThA Reg.tlpThM Reg.tlpThPc; split
  · omega
  · split <;> omega
theorem specReg_stat (th d : Nat) (h : d < 32) : specReg th d ≠ Reg.tlpThStat th := by
  unfold specReg Reg.tlpThG Reg.tlpThA Reg.tlpThM Reg.tlpThStat; split
  · omega
  · split <;> omega
/-- What a write of `v` through specifier `d` stores: a g register whole, an a or m register its low 24 bits. -/
def sv (d : Nat) (v : Word) : Word := if d < 16 then v else BitVec.ofNat 32 (v.toNat % 2^24)
theorem setSpec_eq (s : State) (th d : Nat) (v : Word) : s.setSpec th d v = s.setReg (specReg th d) (sv d v) := by
  unfold State.setSpec specReg sv State.setG State.setA State.setM
  split
  · rfl
  · split <;> rfl
theorem sext_mod (n : Nat) : sext32 24 (n % 2 ^ 32 % 2 ^ 24) = sext32 24 n := by
  unfold sext32 sgn; congr 2; simp only []; rw [show n % 2 ^ 32 % 2 ^ 24 % 2 ^ 24 = n % 2 ^24 by omega]
theorem bits_mod (n : Nat) : bits (BitVec.ofNat 32 (n % 2 ^ 24)) 23 0 = n % 2 ^ 24 := by
  simp [bits]
theorem spec_of (s : State) (th d : Nat) (v : Word) (h : s.reg (specReg th d) = sv d v) : s.spec th d = if d < 16 then v else sext32 24 v.toNat := by
  unfold State.spec State.g State.a24 State.m24 State.fld
  unfold specReg at h
  by_cases h1 : d < 16
  · simp [h1, sv] at h ⊢; exact h
  · by_cases h2 : d < 24
    · simp only [h1, h2, if_true, if_false, sv] at h ⊢
      rw [h, bits_mod]; unfold sext32 sgn; simp
    · simp only [h1, h2, if_false, sv] at h ⊢
      rw [h, bits_mod]; unfold sext32 sgn; simp

theorem setPc_reg (s : State) (th v j : Nat) (h : j ≠ Reg.tlpThPc th) : (s.setPc th v).reg j = s.reg j := reg_setFld_ne _ _ _ _ _ _ h
theorem setPc_pc (s : State) (th v : Nat) (h : v ≤ lastPc) : (s.setPc th v).pc th = v := by
  unfold State.setPc State.pc; rw [fld_setFld _ _ _ _ _ (by omega)]; unfold lastPc at h; omega
theorem setPc_stat (s : State) (th v j : Nat) : (s.setPc th v).stat th j = s.stat th j := flag_setFld_ne _ _ _ _ _ _ _ (by unfold Reg.tlpThStat Reg.tlpThPc; omega)

theorem spec_congr (s t : State) (th d : Nat) (h : t.reg (specReg th d) = s.reg (specReg th d)) : t.spec th d = s.spec th d := by
  unfold State.spec State.g State.a24 State.m24 State.fld
  unfold specReg at h
  split
  · rename_i h1; simp [h1] at h; exact h
  · rename_i h1; split
    · rename_i h2; simp [h1, h2] at h; rw [h]
    · rename_i h2; simp [h1, h2] at h; rw [h]

theorem rest_setReg (t : State) (o : Nat) (v : Word) (r q p) : { t.setReg o v with regs := r, th := q, pipe := p } = { t with regs := r, th := q, pipe := p } := rfl
theorem rest_setPc (t : State) (o : Nat) (v : Nat) (r q p) : { t.setPc o v with regs := r, th := q, pipe := p } = { t with regs := r, th := q, pipe := p } := rfl
theorem rest_aluFlags (t : State) (th : Nat) (o : AluOut) (r q p) : { t.aluFlags th o with regs := r, th := q, pipe := p } = { t with regs := r, th := q, pipe := p } := by
  unfold State.aluFlags
  cases o.c <;> cases o.v <;> rfl

end Sys2Proof.Machine
end

