-- ==== Sys2Proof/WellFormed.lean ====
section
/-! DEFINITION. Which commands are well formed: operands that name something the device has. -/
namespace Sys2Proof

/-- Every operand that names a thread, unit, path, port, channel, register or other numbered thing is in its range. -/
def wellFormed (i : Instr) : Bool :=
  match i with
  | .registerWrite _ off _ _ => off < 2 ^ 26 && off % 4 == 0
  | .memoryWindowWrite _ off _ => off < 2 ^ 26
  | .lowWordRead _ off => off < 2 ^ 26 && off % 4 == 0
  | .d3hotEntry => true
  | .stickyWrite _ off _ => off < 2 ^ 26 && off % 4 == 0
  | .msixUnmask vec => vec < 64
  | .mgmtWrite _ _ => true
  | .mgmtRead _ _ => true
  | .mgmtStatus _ _ => true
  | .sclTimeout => true
  | .stretchTimeout _ _ _ => true
  | .addressMatch => true
  | .nvmDataRead _ => true
  | .nvmDataWrite _ _ => true
  | .nvmWriteDone _ => true
  | .nvmStatusRead _ => true
  | .qspiGo _ _ => true
  | .qspiDone _ => true
  | .scrub mem _ => mem < 10
  | .nop th => th < 16
  | .jmp th => th < 16
  | .bCond th => th < 16
  | .call th => th < 16
  | .ret th => th < 16
  | .loop th => th < 16
  | .yield th => th < 16
  | .halt th => th < 16
  | .add th => th < 16
  | .sub th => th < 16
  | .and th => th < 16
  | .or th => th < 16
  | .xor th => th < 16
  | .shl th => th < 16
  | .shr th => th < 16
  | .sra th => th < 16
  | .cmp th => th < 16
  | .movi th => th < 16
  | .ld th => th < 16
  | .st th => th < 16
  | .ldc th => th < 16
  | .stc th => th < 16
  | .setl th => th < 16
  | .setb th => th < 16
  | .atI th => th < 16
  | .atR th => th < 16
  | .atN th => th < 16
  | .every th => th < 16
  | .waitt th => th < 16
  | .pstate th => th < 16
  | .beamsel th => th < 16
  | .wswap th => th < 16
  | .lohop th => th < 16
  | .gainset th => th < 16
  | .portsel th => th < 16
  | .wreg th => th < 16
  | .wregM th => th < 16
  | .rreg th => th < 16
  | .signal th => th < 16
  | .waitev th => th < 16
  | .waitevAny th => th < 16
  | .vote th => th < 16
  | .unvote th => th < 16
  | .fence th => th < 16
  | .cmpl th => th < 16
  | .dmago th => th < 16
  | .carm th => th < 16
  | .cvfeed th => th < 16
  | .cvfeedA th => th < 16
  | .mac th => th < 16
  | .msu th => th < 16
  | .macs th => th < 16
  | .macbx th => th < 16
  | .cmac th => th < 16
  | .macB th => th < 16
  | .msuB th => th < 16
  | .macsB th => th < 16
  | .macbxB th => th < 16
  | .cmacB th => th < 16
  | .blockComplete unit => unit < 8
  | .clracc th => th < 16
  | .rnd th => th < 16
  | .sat th => th < 16
  | .norm th => th < 16
  | .exp th => th < 16
  | .shacc th => th < 16
  | .stacc th => th < 16
  | .bexp th => th < 16
  | .ldX th => th < 16
  | .stX th => th < 16
  | .threadWake th => th < 16
  | .waittDue th => th < 16
  | .taqDispatch tag => tag < 512
  | .taqCancelTag _ _ => true
  | .taqCancelThread _ _ => true
  | .crTailWrite _ _ => true
  | .crConfigWrite _ _ _ => true
  | .evSet _ _ => true
  | .evClear _ j _ => j < 8
  | .wdtKick _ _ => true
  | .wdtWrite _ th _ => th < 16
  | .watchdog th => th < 16
  | .haltRequest _ _ => true
  | .run _ th _ => th < 16
  | .step _ th _ => th < 16
  | .threadReset _ th _ => th < 16
  | .regfileWrite _ off _ => off < 2 ^ 26 && off % 4 == 0
  | .airFrameBoundary => true
  | .slotBoundary c => c < 2
  | .symbolBoundary c => c < 2
  | .align _ _ => true
  | .alignmentStart => true
  | .airCfgWrite _ c _ => c < 2
  | .pstateStart pair => pair < 128
  | .transitionDone pairs => pairs.all (· < 128)
  | .drainSequenceStep pair => pair < 128
  | .deferredTxStart pair => pair < 128
  | .lateUnlocked pair => pair < 128
  | .paAlarm input => input < 16
  | .dutyOverrun k => k < 8
  | .currentLimit n => n < 128
  | .inputOverload n => n < 128
  | .commitPoint c => c < 2
  | .wdescWrite _ dir car layer _ => dir < 2 && car < 2 && layer < 32
  | .arrayWrite _ _ => true
  | .psDeadline r _ _ _ => r < 2
  | .pageWrite _ off _ => off < 2 ^ 26 && off % 4 == 0
  | .sicCommit _ p w _ => p < 2 && w < 4
  | .surveyStart _ _ => true
  | .surveyAbort _ _ => true
  | .surveyDone => true
  | .snapStart _ _ => true
  | .snapAbort _ _ => true
  | .snapDone => true
  | .storeWrite _ w _ => w < 2
  | .storeRead _ w => w < 2
  | .linCommit _ w _ => w < 4
  | .loadDone n => n < 128
  | .obsStart _ k _ => k < 8
  | .obsRecordStart k => k < 8
  | .obsDone k => k < 8
  | .obsAbort _ k _ => k < 8
  | .hop _ k _ => k < 8
  | .hopStart k => k < 8
  | .lock k => k < 8
  | .lockLoss k => k < 8
  | .ccsUnlock n => n < 4
  | .ccsLock n => n < 4
  | .ifChange k => k < 8
  | .clStart _ _ => true
  | .clExchange => true
  | .clDone _ _ => true
  | .calWindow _ _ => true
  | .windowEnd k => k < 8
  | .calRequest _ _ => true
  | .calRunStart slot _ => slot < 24
  | .calRunEnd slot _ _ => slot < 25
  | .bgPass n _ _ _ _ => n < 128
  | .journalLoad t => t < 4
  | .journalStore _ _ => true
  | .storeDeferredStart t c => t < 4 && c < 16
  | .storeDone t c _ => t < 4 && c < 16
  | .xdevTimeout => true
  | .codeWrite _ i _ => i < 256
  | .deglitchEnd i => i < 256
  | .rangeChange _ i _ => i < 256
  | .rangeChangeDone i => i < 256
  | .biasTableLoad t => t < 4
  | .clampRelease t => t < 4
  | .release _ _ => true
  | .biasStore _ _ => true
  | .otClamp k => k < 8
  | .otRelease k => k < 8
  | .sgUpdate g => g < 4
  | .phRst _ g _ => g < 4
  | .capabilitySet p _ => p < 4
  | .negotiateTimeout p => p < 4
  | .trainDone p _ => p < 4
  | .renegotiate p => p < 4
  | .dlCell p _ => p < 4
  | .cpCell p _ _ _ _ _ => p < 4
  | .psCell p _ => p < 4
  | .tsPeriod => true
  | .sync p _ => p < 4
  | .req p _ => p < 4
  | .resp p _ => p < 4
  | .discovery r => r < 2
  | .discover p _ => p < 4
  | .discoverTimeout r _ _ => r < 2
  | .commit p _ => p < 4
  | .report p _ => p < 4
  | .accept p _ => p < 4
  | .status p _ => p < 4
  | .statusMissing r pos => r < 2 && pos < 256
  | .lane p _ => p < 4
  | .shed p _ => p < 4
  | .nbCell p _ => p < 4
  | .imageCell p _ => p < 4
  | .fo p _ => p < 4
  | .unknownCell p _ => p < 4
  | .enter _ r _ => r < 2
  | .enterTimeout r => r < 2
  | .leave _ r _ => r < 2
  | .rediscover _ r _ => r < 2
  | .retrain _ p _ => p < 4
  | .argAccept _ _ => true
  | .rstDataRead _ => true
  | .laneReady lane => lane < 80
  | .laneLoss lane cause => lane < 80 && cause < 3
  | .keepNotice p _ => p < 4
  | .realignDone p => p < 4
  | .fomMeasure lane _ _ _ => lane < 80
  | .testWrite _ lane _ => lane < 80
  | .inj _ lane _ => lane < 80
  | .injRate lane => lane < 80
  | .patLock lane _ _ _ => lane < 80
  | .frame i _ _ => i < 4
  | .cPlane i _ => i < 4
  | .uPlane i _ => i < 4
  | .hostRxFrame i _ _ tfr => i < 4 && tfr < 65536
  | .hostRxFree _ i slot _ => i < 4 && slot < 8
  | .hostTx _ i slot _ => i < 4 && slot < 4
  | .hostTxDone i _ tfr => i < 4 && tfr < 65536
  | .ulSend c layer _ _ _ _ => c < 2 && layer < 32
  | .ulDrop c layer => c < 2 && layer < 32
  | .linkDown i _ => i < 4
  | .linkUp i speed => i < 4 && speed < 6
  | .timeRead _ => true
  | .ppsIn _ tfr => tfr < 65536
  | .ppsMiss => true
  | .rateSlew => true
  | .rateReq _ _ => true
  | .tmuCtlWrite _ _ => true
  | .steerChange => true
  | .stepArm _ _ => true
  | .timeStep => true
  | .holdover => true
  | .pulseEnable _ k _ => k < 9
  | .pulseEdge k => k < 9
  | .dmaGo _ c _ => c < 32
  | .dmaAbort _ c _ _ _ => c < 32
  | .append _ c _ => c < 32
  | .channelStart _ => true
  | .pace src => src < 64
  | .descriptorDone _ _ => true
  | .nextReread c _ _ => c < 32
  | .cvStart _ c _ => c < 8
  | .cvCfgWrite _ c _ => c < 8
  | .feed8 _ c _ => c < 8
  | .feed16 _ c _ => c < 8
  | .feed32 _ c _ => c < 8
  | .feed64Lo _ c _ => c < 8
  | .feed64Hi _ c _ => c < 8
  | .valueWrite _ c _ _ => c < 8
  | .resultRead _ off => off < 2 ^ 26 && off % 4 == 0
  | .queueEntry c => c < 8
  | .capArm _ _ => true
  | .capDisarm _ _ => true
  | .capForce _ _ => true
  | .partWrite _ _ => true
  | .sequencerHit => true
  | .sequencerTimeout => true
  | .autoTrigger => true
  | .captureClose => true
  | .rearmEnd => true
  | .tnsWrap => true
  | .refclkValid _ => true
  | .refLoss => true
  | .pcieRefLoss => true
  | .pllUnlock pll => pll < 5
  | .xingErr index => index < 22
  | .level boundary lower => boundary < 3 && lower < 3
  | .voteWrite _ off _ => off < 2 ^ 26 && off % 4 == 0
  | .holdExpiry d => (1 ≤ d && d ≤ 11)
  | .powerStep d => (1 ≤ d && d ≤ 11)
  | .stepTimeout d => (1 ≤ d && d ≤ 11)
  | .wakeRetry d => (1 ≤ d && d ≤ 11)
  | .pgLoss d => (1 ≤ d && d ≤ 11)
  | .pgRestore d => (1 ≤ d && d ≤ 11)
  | .dvfsStep => true
  | .dvfsManWrite _ _ => true
  | .stateRequest _ _ => true
  | .entryComplete => true
  | .springComplete => true
  | .rf2Measure t _ => t < 4
  | .thermalPass _ => true
  | .powerOnReset => true
  | .pinReset => true
  | .resetRelease bootSel addr => bootSel < 4 && addr < 32
  | .deviceReset _ _ bootSel => bootSel < 4
  | .linkReset => true
  | .otpSense => true
  | .bootLoadDone _ => true
  | .verify _ _ => true
  | .verifyDone _ => true
  | .svnCommit _ _ => true
  | .rbSend _ _ => true
  | .attest _ _ => true
  | .attestDone _ => true
  | .idReady _ => true
  | .certRead _ => true
  | .otpProgram _ _ => true
  | .otpProgramDone _ => true
  | .paAlarmRelease input => input < 16
  | .biasRailLoss rail => rail < 2
  | .biasRailGood rail => rail < 2
  | .msixEnable => true
  | .pcieLinkUp width speed => [1, 2, 4].contains width && 1 ≤ speed && speed ≤ 5
  | .d0Entry => true
  | .aerFatalError => true
  | .highWordRead _ off => off < 2 ^ 26 && off % 4 == 0
  | .memoryWindowRead _ off words => off < 2 ^ 26 && 1 ≤ words
  | .tapInstruction _ _ => true
  | .rosterCacheLoad => true

end Sys2Proof
end

