-- ==== Sys2Proof/Tests/Slice0.lean ====
section
/-! SUPPORT. Tests: decoding and well-formedness on single words, single commands on small states, and for every statement with
hypotheses states and operands that meet them. -/
set_option Elab.async false
namespace Sys2Proof.Tests
open Sys2Proof Sys2Proof.Machine

/-- A state with registers set one by one. -/
def put (s : State) (l : List (Nat × Nat)) : State := l.foldl (fun t p => t.setReg p.1 (BitVec.ofNat 32 p.2)) s

/-- A running device: every domain UP, the PCIe link trained. -/
def up : State := put { State.reset with boot := .running } (((List.range 11).map (fun i => (Reg.pwrDomStatus i, 0x12))) ++
  [(Reg.hstLink, 0x10)])

/-- The running device with registers set. -/
def U (l : List (Nat × Nat)) : State := put up l

/-- The fields of an instruction word, each with its lowest bit (R84). -/
def word (major minor : Nat) (fs : List (Nat × Nat)) : Nat :=
  major * 2 ^ 58 + minor * 2 ^ 52 + (fs.map (fun f => f.1 * 2 ^ f.2)).foldl (· + ·) 0

/-- TH15 READY at index 0, which holds word `w`, with registers set. -/
def at15 (w : Nat) (l : List (Nat × Nat)) : State :=
  (List.range 8).foldl (fun t i => t.setByte (imBase + i) (BitVec.ofNat 8 (w / 2 ^ (8 * i)))) (U ([(Reg.tlpImVerified, 1),
    (Reg.tlpThState 15, stReady)] ++ l))

/-- Whether TH15 executes `o`. -/
def runs (s : State) (o : Op) : Bool :=
  s.canIssue 15 && (match (s.fetchOp (s.pc 15)).1 with
    | .ok q => decide (q = o)
    | .error _ => false) && !s.stopsAt 15 (some o) &&
    !(o.onUnit && (s.fetchOp (s.pc 15)).2.unitTaken 15 ((s.fetchOp (s.pc 15)).2.duOf 15))

/-- The same, with an instruction to follow. -/
def runsOn (s : State) (o : Op) : Bool :=
  runs s o && decide ((s.fetchOp (s.pc 15)).2.pc 15 < lastPc) && !((s.fetchOp (s.pc 15)).2.thread 15).stepping &&
    !((s.fetchOp (s.pc 15)).2.thread 15).haltReq

/-- The state after TH15 has fetched its word. -/
def aft (s : State) : State := (s.fetchOp (s.pc 15)).2

/-- TH15 at index 0 with two words. -/
def at2 (w v : Nat) (l : List (Nat × Nat)) : State :=
  (List.range 8).foldl (fun t i => t.setByte (imBase + 8 + i) (BitVec.ofNat 8 (v / 2 ^ (8 * i)))) (at15 w l)

/-- A one-shot SIGNAL entry of TH15, due at 0. -/
def entry : Entry :=
  { th := 15, act := .signal 127, due := 0, cookie := 0, periodic := false, period := 0, count := 1,
    counted := true, quiet := false, seq := 0, flying := 0, closed := false }

/-- A device that verifies a header of one record of eight zero bytes, its public key 64 zero bytes (R470). -/
def image : State :=
  [(0, 0x5a574649), (1, 0x1000001), (3, 0x8), (4, 0xdc419111), (5, 0x90798e8), (6, 0x72d99560), (7, 0x4a80d9b), (8, 0x4992a481), (9, 0x4653238e), (10, 0xa78ac5ef), (11, 0x51a33533), (48, dmBase), (49, 0x8)].foldl
    (fun t p => (List.range 4).foldl (fun t i => t.setByte (secBuf + 4 * p.1 + i) (BitVec.ofNat 8 (p.2 / 2 ^ (8 * i)))) t)
    { up with
      sec := { job := 1 }
      nvm := (List.range 8).zipWith (fun i v => (otpShadowKey (0x10 + i), BitVec.ofNat 32 v))
        [0xeaf2a57e, 0xde87949e, 0x8b915347, 0xeb0853bf, 0x1864fa91, 0x556c2389, 0xb4ec08d7, 0x366a66d9] }

/-- A cell with its CRC, for a partner that has told no position (R326). -/
def cell (w0 trailer : Word) (payload : List Word) : Cell :=
  { w0 := w0, w1 := 0, w2 := 0, w3 := 0, payload := payload, trailer := trailer
    crc := (Cell.mk w0 0 0 0 payload trailer 0).crcFor 0 }

/-- A set of capability words with its CRC (R322). -/
def capSet (w0 : Word) : List Word := [w0, 0, 0, crc32 ([w0, 0, 0].flatMap wordBytes)]

/-- A journal record (R304). -/
def record (c t : Nat) (seq : Word) (data : List Word) : List Word :=
  let h := BitVec.ofNat 32 (c * 2 ^ 24 + t * 2 ^ 22 + 2 ^ 16 + data.length)
  [h, seq] ++ data ++ [crc32c (h :: seq :: data), seq ^^^ 0x5A5A5A5A]

/-- Whether an answer is the value `v`. -/
def okIs {ε α : Type} [DecidableEq α] (x : Except ε α) (v : α) : Bool :=
  match x with
  | .ok a => decide (a = v)
  | .error _ => false

/-- Whether an answer is the error `v`. -/
def errIs {ε α : Type} [DecidableEq ε] (x : Except ε α) (v : ε) : Bool :=
  match x with
  | .ok _ => false
  | .error a => decide (a = v)

theorem ok_of {ε α : Type} [DecidableEq α] (x : Except ε α) (v : α) (h : okIs x v = true) : x = .ok v := by
  cases x <;> simp_all [okIs]

theorem err_of {ε α : Type} [DecidableEq ε] (x : Except ε α) (v : ε) (h : errIs x v = true) : x = .error v := by
  cases x <;> simp_all [errIs]

theorem ok_is {ε α β : Type} [DecidableEq α] (x : Except ε α × β) (v : α) (h : okIs x.1 v = true) : x = (.ok v, x.2) :=
  Prod.ext (ok_of _ _ h) rfl

theorem err_is {ε α β : Type} [DecidableEq ε] (x : Except ε α × β) (v : ε) (h : errIs x.1 v = true) : x = (.error v, x.2) :=
  Prod.ext (err_of _ _ h) rfl

theorem executes (s : State) (o : Op) (h : runs s o = true) : State.Executes s 15 o (s.fetchOp (s.pc 15)).2 := by
  simp only [runs, Bool.and_eq_true, Bool.not_eq_true'] at h
  obtain ⟨⟨⟨a, b⟩, c⟩, d⟩ := h
  refine ⟨a, ?_, c, d⟩
  split at b
  · rename_i q hq
    have : q = o := by simpa using b
    rw [← this, ← hq]
  · simp at b

theorem runs_on (s : State) (o : Op) (h : runsOn s o = true) : State.RunsOn s 15 o (s.fetchOp (s.pc 15)).2 := by
  simp only [runsOn, Bool.and_eq_true, Bool.not_eq_true', decide_eq_true_eq] at h
  obtain ⟨⟨⟨a, b⟩, c⟩, d⟩ := h
  exact ⟨executes s o a, b, c, d⟩

/-! ## Well-formedness: each check refuses an ill-formed command, at the first value beyond its range -/

theorem test_ill_formed_accesses : ([.registerWrite .pcie (2 ^ 26) 0 true, .registerWrite .pcie 2 0 true, .memoryWindowWrite .pcie (2 ^ 26) [],
    .lowWordRead .pcie 1, .highWordRead .mgmt 6, .stickyWrite .pcie 3 0, .msixUnmask 64, .scrub 10 0, .regfileWrite .pcie 2 0,
    .voteWrite .mgmt 2 0, .resultRead .pcie 2, .pageWrite .pcie 2 0, .memoryWindowRead .pcie (2 ^ 26) 1, .memoryWindowRead .pcie 0 0,
    .deviceReset .pcie 0 4, .resetRelease 4 0, .resetRelease 0 32, .pcieLinkUp 3 1, .pcieLinkUp 1 0, .pcieLinkUp 1 6] : List Instr).all
    (fun i => !wellFormed i) = true := by decide

theorem test_ill_formed_threads : ([.nop 16, .add 16, .ld 16, .mac 16, .threadWake 16, .blockComplete 8, .taqDispatch 512, .evClear .pcie 8 0,
    .wdtWrite .pcie 16 0, .watchdog 16, .run .pcie 16 0, .step .pcie 16 0, .threadReset .pcie 16 0] : List Instr).all
    (fun i => !wellFormed i) = true := by decide

theorem test_ill_formed_radio : ([.airCfgWrite .pcie 2 0, .pstateStart 128, .transitionDone [0, 128], .lateUnlocked 128, .paAlarm 16,
    .paAlarmRelease 16, .dutyOverrun 8, .currentLimit 128, .inputOverload 128, .commitPoint 2, .wdescWrite .pcie 2 0 0 0,
    .wdescWrite .pcie 0 2 0 0, .wdescWrite .pcie 0 0 32 0, .sicCommit .pcie 2 0 0, .sicCommit .pcie 0 4 0, .storeWrite .pcie 2 0,
    .storeRead .pcie 2, .linCommit .pcie 4 0, .loadDone 128, .obsStart .pcie 8 0, .obsRecordStart 8, .hop .pcie 8 0, .hopStart 8,
    .ccsUnlock 4, .ifChange 8, .windowEnd 8, .journalLoad 4, .storeDeferredStart 4 0, .storeDeferredStart 0 16, .codeWrite .pcie 256 0,
    .deglitchEnd 256, .biasTableLoad 4, .otClamp 8, .sgUpdate 4, .phRst .pcie 4 0] : List Instr).all
    (fun i => !wellFormed i) = true := by decide

theorem test_ill_formed_links : ([.negotiateTimeout 4, .discovery 2, .statusMissing 2 0, .statusMissing 0 256, .enterTimeout 2, .laneReady 80,
    .laneLoss 80 0, .laneLoss 0 3, .realignDone 4, .injRate 80, .hostRxFree .pcie 4 0 0, .hostRxFree .pcie 0 8 0, .hostTx .pcie 4 0 0,
    .hostTx .pcie 0 4 0, .ulDrop 2 0, .ulDrop 0 32, .linkUp 4 0, .linkUp 0 6] : List Instr).all (fun i => !wellFormed i) = true := by decide

theorem test_ill_formed_units : ([.ppsIn 0 65536, .pulseEnable .pcie 9 0, .pulseEdge 9, .dmaGo .pcie 32 0, .append .pcie 32 0, .pace 64,
    .cvStart .pcie 8 0, .feed8 .pcie 8 0, .queueEntry 8, .pllUnlock 5, .xingErr 22, .level 3 0, .level 0 3, .holdExpiry 0, .holdExpiry 12,
    .powerStep 0, .pgLoss 12, .biasRailLoss 2, .biasRailGood 2] : List Instr).all (fun i => !wellFormed i) = true := by decide

theorem test_well_formed : ([.registerWrite .pcie (2 ^ 26 - 4) 0 true, .nop 15, .taqDispatch 511, .pstateStart 127, .laneLoss 79 2,
    .holdExpiry 1, .holdExpiry 11, .hostTx .pcie 3 3 0, .pcieLinkUp 4 5, .memoryWindowRead .mgmt 0 1] : List Instr).all wellFormed = true := by
  decide

/-! ## Decoding: words written out from the tables of 04_instruction_set.md and 05_signal_instructions.md -/

theorem test_decode_zero : decodeOp 0 = none := by decide
theorem test_decode_nop : decodeOp 0x0010000000000000 = some .nop := by decide
theorem test_decode_control : decodeOp (word 0 4 [(15, 48), (11, 44), (1, 43), (0x1FFFF, 0)]) = some (.bcond 15 11 true 0x1FFFF) := by decide
theorem test_decode_integer : decodeOp 0x040090A400000000 = none ∧
    decodeOp (word 1 0 [(1, 47), (2, 42), (3, 37)]) = some (.alu .add 1 2 (.spec 3)) := by decide
theorem test_decode_immediate : decodeOp (word 2 9 [(31, 47), (0xFFFFFFFF, 0)]) = some (.movi 31 0xFFFFFFFF) := by decide
theorem test_decode_memory : decodeOp (word 4 0 [(5, 47), (2, 44), (1, 42)]) = some (.ld 5 ⟨2, 1, 0, false⟩) ∧
    decodeOp (word 4 0 [(5, 47), (2, 44), (3, 42)]) = none := by decide
theorem test_decode_circular : decodeOp (word 5 1 [(5, 47), (2, 44), (2, 42), (0xFFFC, 0)]) = some (.st 5 ⟨2, 2, -4, true⟩) := by decide
theorem test_decode_timed : decodeOp 0x2018000130000000 = some (.atR 8 1 3 0) := by decide
theorem test_decode_radio : decodeOp 0x3003400000000001 = some (.pstate 3 1 0 (.imm 1)) := by decide
theorem test_decode_device : decodeOp (word 13 0 [(13, 48), (0x100094, 0)]) = some (.wreg 13 none none 0x100094) := by decide
theorem test_decode_sync : decodeOp (word 14 0 [(127, 0)]) = some (.signal 127) ∧ decodeOp (word 14 0 [(128, 0)]) = none := by decide
theorem test_decode_dma : decodeOp (word 15 1 [(2, 0)]) = some (.carm 2) ∧ decodeOp (word 15 1 [(3, 0)]) = none := by decide
theorem test_decode_signal_memory : decodeOp (word 16 0 [(14, 48), (1, 47), (1, 44), (2, 42), (8, 0)]) = some (.ldx 14 true ⟨1, 2, 8, false⟩) := by
  decide
theorem test_decode_scalar : decodeOp (word 17 4 [(2, 50), (14, 46), (12, 42), (1, 41)]) = some (.mul .cmac 2 14 12 true false false) := by decide
theorem test_decode_block : decodeOp 0x4840A28000000800 = some (.mulB .cmac 0 1 2 false false true false true false (.imm 0x800)) := by decide
theorem test_decode_accumulator : decodeOp (word 19 5 [(3, 50), (127, 43)]) = some (.shacc 3 (-1)) := by decide
theorem test_decode_exponent : decodeOp (word 20 0 [(15, 48), (7, 45), (3, 0)]) = some (.bexp 15 7 false false false (.imm 3)) := by decide

/-! ## Single commands -/

/-- A command on a state. -/
def after (c : Instr) (s : State) : State :=
  match exec c s with
  | .next t => t
  | _ => s

/-- 0xFFFF_FFFF + 1 is 0 with a carry and no overflow. -/
theorem test_add_wraps :
    let t := after (.add 15) (at15 (word 1 0 [(1, 47), (2, 42), (3, 37)]) [(Reg.tlpThG 15 2, 0xFFFFFFFF), (Reg.tlpThG 15 3, 1)])
    (t.g 15 1, t.stat 15 stC, t.stat 15 stZ, t.stat 15 stV, t.pc 15) = (0, true, true, false, 1) := by decide +kernel

/-- A load whose destination is its address register: the loaded value prevails over the update (R92). -/
theorem test_ld_destination_is_address :
    let t := after (.ld 15) (at15 (word 4 0 [(16, 47), (0, 44), (2, 42), (4, 0)]) [(Reg.tlpThA 15 0, 0x100)])
    t.a24 15 0 = 0 := by decide +kernel

/-- The check value of the digits 1 to 9 under CRC-32 is 0xCBF4_3926 (the published check value of this CRC; R404, R405). -/
theorem test_crc32_check : ({} : CvCfg).result (({} : CvCfg).feed 0xFFFFFFFF 9 0x393837363534333231) = 0xCBF43926 := by decide +kernel

/-- The CRC-32C of the digits 1 to 9 is 0xE306_9283 (the published check value; R304). -/
theorem test_crc32c_check : crcBytes 0xFFFFFFFF [0x31, 0x32, 0x33, 0x34, 0x35, 0x36, 0x37, 0x38, 0x39] ^^^ 0xFFFFFFFF = 0xE3069283 := by
  decide +kernel

/-- SHAKE256 of the empty message begins 46 B9 DD 2B (FIPS 202). -/
theorem test_shake256_empty : (shake256 []).take 4 = [0x46, 0xB9, 0xDD, 0x2B] := by decide +kernel

/-- A write to a register of a block whose domain is down is discarded and counted (R14). -/
theorem test_write_to_a_down_block :
    (after (.registerWrite .pcie Reg.tlpCtl 1 true) (put State.reset [(Reg.pwrDomStatus 10, 2), (Reg.hstLink, 0x10)])).reg Reg.glbDownWrites
      = 1 := by decide +kernel

/-- A write to a memory window lands and is read back; the byte not enabled stays 0 (R29). -/
theorem test_window_bytes :
    let t := after (.memoryWindowWrite .pcie dmBase [some 0x11, none, some 0x33, some 0x44]) up
    t.rawWord dmBase = 0x44330011 := by decide +kernel

/-- MACS of 1 − 2^-23 squared onto the top of Q2.46 clamps, and a negative product leaves the clamp (R128). -/
theorem test_macs_clamps :
    let s := at15 (word 17 2 [(0, 46), (1, 42)]) [(Reg.tlpThX 15 0, 0x7FFFFF), (Reg.tlpThX 15 1, 0x7FFFFF), (Reg.tlpThAccHi 15 0, 0x7FFF),
      (Reg.tlpThAccLo 15 0, 0xFFFFFFFF)]
    let t := after (.macs 15) s
    (t.acc 15 0, t.stat 15 (stAov 0), t.satl 15 0) = (2 ^ 47 - 1, true, false) := by decide +kernel

/-- The step takes the front command and leaves the rest waiting. -/
theorem test_step_takes_the_front :
    (match step { up with pending := [.msixUnmask 0, .sclTimeout] } with
     | .next t => decide (t.pending = [.sclTimeout])
     | _ => false) = true := by decide +kernel

/-- A word has no row in the table: it puts no command in the queue (log 2). -/
theorem test_no_word_spells_a_command : decodeTableWord 64 0x0010000000000000 = none ∧
    State.reset.withFetchWord 64 0x0010000000000000 = State.reset := by decide +kernel

/-- Half of an odd value rounds to even in Y_a (R221): weight 0.5, tone 101 and −103. -/
theorem test_weighted_tone :
    (prbSum 0 none [({ layer := 0, prb := 0, vals := 101 :: -103 :: List.replicate 22 0, from_ := .zero }, [(0x4000, 0)])]).head?
      = some (50, -52) := by decide +kernel

/-- The transform of an impulse is flat, with no shift while there is headroom (R213). -/
theorem test_impulse_is_flat :
    transform false 2 0 32 [(2 ^ 20, 0), (0, 0), (0, 0), (0, 0)] = (List.replicate 4 (2 ^ 20, 0), 0, 0) := by decide +kernel

/-- The multipliers of the worked examples of R176 (d = 20) and R203 (a_dig = 2,133). -/
theorem test_gain_multipliers : txMult 20 = 32022 ∧ rxMult 2133 = 11246 := by decide +kernel

/-- The weight of TX53 in the worked example of R216: vector 167 of bank 1. -/
theorem test_vector_address : dynVec 1 167 + 4 * 53 = 0x1C14ED4 := by decide

/-- The largest component of a PRB's sum in the worked example of R229: exponent 10, decoded to 7,578 × 4,096. -/
theorem test_partial_sum_unit :
    (psEncode (31037850 :: List.replicate 23 0)).head? = some 0x0A ∧
    (psDecode (psEncode (31037850 :: List.replicate 23 0))).head? = some 31039488 := by decide +kernel

/-- A DPD branch with knots of 1.0 in Q2.14 and SHIFT 0 passes the sample (R255). -/
theorem test_dpd_unit_branch :
    dpdOut [{ m := 0, l := 0, shift := 0, knots := List.replicate 64 (2 ^ 14, 0) }] (List.replicate 8 (0, 0) ++ [(4000, -8)])
      = (4000, -8) := by decide +kernel

/-! ## Witnesses: states and operands that meet the hypotheses of each clause of the statements -/

theorem witness_IntegerResultsAndFlags :
    (∃ s th d a b f, State.RunsOn s th (.alu .add d a b) f ∧ d < 32) ∧
    (∃ s th d a b f, State.RunsOn s th (.alu .sub d a b) f ∧ d < 32) ∧
    (∃ s th d a b f, State.RunsOn s th (.alu .and d a b) f ∧ d < 32) ∧
    (∃ s th d a b f, State.RunsOn s th (.alu .or d a b) f ∧ d < 32) ∧
    (∃ s th d a b f, State.RunsOn s th (.alu .xor d a b) f ∧ d < 32) ∧
    (∃ s th d a b f, State.RunsOn s th (.alu .shl d a b) f ∧ d < 32) ∧
    (∃ s th d a b f, State.RunsOn s th (.alu .shr d a b) f ∧ d < 32) ∧
    (∃ s th d a b f, State.RunsOn s th (.alu .sra d a b) f ∧ d < 32) :=
  ⟨⟨(at15 (word 1 0 [(31, 47), (16, 42), (24, 37)]) []), 15, 31, 16, .spec 24, _, runs_on _ _ (by decide +kernel), by decide⟩,
   ⟨(at15 (word 1 1 [(31, 47), (16, 42), (24, 37)]) []), 15, 31, 16, .spec 24, _, runs_on _ _ (by decide +kernel), by decide⟩,
   ⟨(at15 (word 1 2 [(31, 47), (16, 42), (24, 37)]) []), 15, 31, 16, .spec 24, _, runs_on _ _ (by decide +kernel), by decide⟩,
   ⟨(at15 (word 1 3 [(31, 47), (16, 42), (24, 37)]) []), 15, 31, 16, .spec 24, _, runs_on _ _ (by decide +kernel), by decide⟩,
   ⟨(at15 (word 1 4 [(31, 47), (16, 42), (24, 37)]) []), 15, 31, 16, .spec 24, _, runs_on _ _ (by decide +kernel), by decide⟩,
   ⟨(at15 (word 1 5 [(31, 47), (16, 42), (24, 37)]) []), 15, 31, 16, .spec 24, _, runs_on _ _ (by decide +kernel), by decide⟩,
   ⟨(at15 (word 1 6 [(31, 47), (16, 42), (24, 37)]) []), 15, 31, 16, .spec 24, _, runs_on _ _ (by decide +kernel), by decide⟩,
   ⟨(at15 (word 1 7 [(31, 47), (16, 42), (24, 37)]) []), 15, 31, 16, .spec 24, _, runs_on _ _ (by decide +kernel), by decide⟩⟩

theorem witness_CompareOrdersOperands :
    (∃ (s : State) (th : Nat) (d : Nat) (a : Nat) (b : Opnd) (f : State), State.RunsOn s th (.alu .cmp d a b) f) ∧
    (∃ (s : State) (th : Nat) (d : Nat) (imm : Nat) (f : State), State.RunsOn s th (.movi d imm) f ∧ d < 32 ∧ imm < 2 ^ 32) :=
  ⟨⟨(at15 (word 2 8 [(15, 42), (0xFFFFFFFF, 0)]) []), 15, 0, 15, .imm 0xFFFFFFFF, _, runs_on _ _ (by decide +kernel)⟩,
   ⟨(at15 (word 2 9 [(31, 47), (0xFFFFFFFF, 0)]) []), 15, 31, 0xFFFFFFFF, _, runs_on _ _ (by decide +kernel), by decide +kernel⟩⟩

theorem witness_ControlFlowTargets :
    (∃ (s : State) (th : Nat) (f : State), State.RunsOn s th .nop f) ∧
    (∃ (s : State) (th : Nat) (f : State), State.RunsOn s th .yield f) ∧
    (∃ (s : State) (th : Nat) (g : Src) (f : State), State.Executes s th (.jmp g) f ∧ f.src th g ≤ lastPc) ∧
    (∃ (s : State) (th : Nat) (c : Nat) (i : Nat) (clr : Bool) (g : Nat) (f : State), State.RunsOn s th (.bcond c i clr g) f) ∧
    (∃ (s : State) (th : Nat) (g : Src) (d : Nat) (f : State), State.RunsOn s th (.call g) f ∧ f.src th g ≤ lastPc ∧ f.fld
    (Reg.tlpThRsDepth th) 4 0 = d ∧ d < 16) ∧
    (∃ (s : State) (th : Nat) (d : Nat) (f : State), State.Executes s th .ret f ∧ f.fld (Reg.tlpThRsDepth th) 4 0 = d + 1) ∧
    (∃ (s : State) (th : Nat) (g : Nat) (k : Nat) (f : State), State.RunsOn s th (.loop g k) f ∧ g < 16) ∧
    (∃ (s : State) (th : Nat) (f : State), State.RunsOn s th .halt f) ∧
    (∃ (t : State) (th : Nat), (t.flag Reg.tlpTrace 31 && t.flag Reg.tlpTrace th) = false ∧ (t.thread th).stepping = false ∧ (t.thread
    th).haltReq = false) ∧
    (∃ (t : State) (th : Nat), t.flag Reg.tlpTrace 31 = true ∧ t.flag Reg.tlpTrace th = true) ∧
    (∃ (s : State) (th : Nat) (d : Src) (f : State), State.Executes s th (.call d) f ∧ f.src th d ≤ lastPc ∧ f.pc th ≠ lastPc ∧ 16 ≤
    f.fld (Reg.tlpThRsDepth th) 4 0) ∧
    (∃ (s : State) (th : Nat) (f : State), State.Executes s th .ret f ∧ f.fld (Reg.tlpThRsDepth th) 4 0 = 0) ∧
    (∃ (s : State) (th : Nat) (g : Nat) (f : State), State.Executes s th (.jmp (.reg g)) f ∧ 2 ^ 17 ≤ (f.g th g).toNat) :=
  ⟨⟨(at15 (word 0 1 []) []), 15, _, runs_on _ _ (by decide +kernel)⟩,
   ⟨(at15 (word 0 9 []) []), 15, _, runs_on _ _ (by decide +kernel)⟩,
   ⟨(at15 (word 0 2 [(lastPc, 0)]) []), 15, .imm lastPc, _, executes _ _ (by decide +kernel), by decide +kernel⟩,
   ⟨(at15 (word 0 4 [(15, 48), (11, 44), (1, 43), (lastPc, 0)]) []), 15, 15, 11, true, lastPc, _, runs_on _ _ (by decide +kernel)⟩,
   ⟨(at15 (word 0 5 [(lastPc, 0)]) [(Reg.tlpThRsDepth 15, 15)]), 15, .imm lastPc, 15, _, runs_on _ _ (by decide +kernel),
    by decide +kernel⟩,
   ⟨(at15 (word 0 7 []) [(Reg.tlpThRsDepth 15, 16)]), 15, 15, _, executes _ _ (by decide +kernel), by decide +kernel⟩,
   ⟨(at15 (word 0 8 [(15, 48), (7, 0)]) []), 15, 15, 7, _, runs_on _ _ (by decide +kernel), by decide +kernel⟩,
   ⟨(at15 (word 0 10 []) []), 15, _, runs_on _ _ (by decide +kernel)⟩,
   ⟨U [], 15, by decide +kernel⟩,
   ⟨(U [(Reg.tlpTrace, 0x80008000)]), 15, by decide +kernel⟩,
   ⟨(at15 (word 0 5 [(7, 0)]) [(Reg.tlpThRsDepth 15, 16)]), 15, .imm 7, _, executes _ _ (by decide +kernel), by decide +kernel⟩,
   ⟨(at15 (word 0 7 []) []), 15, _, executes _ _ (by decide +kernel), by decide +kernel⟩,
   ⟨(at15 (word 0 3 [(15, 48)]) [(Reg.tlpThG 15 15, 0x20000)]), 15, 15, _, executes _ _ (by decide +kernel), by decide +kernel⟩⟩

theorem witness_LoadsAndStores :
    (∃ (s : State) (th : Nat) (r : Nat) (e : Ea) (f : State) (ea : Nat) (nx : Nat) (n2 : Nat) (v : Word) (g : State), State.RunsOn s th
    (.ld r e) f ∧ r < 32 ∧ e.i < 8 ∧ f.eaOf th e = some (ea, nx, n2) ∧ (f.begun th).loadWord ea = (.ok v, g)) ∧
    (∃ (s : State) (th : Nat) (r : Nat) (e : Ea) (f : State) (ea : Nat) (nx : Nat) (n2 : Nat), State.RunsOn s th (.st r e) f ∧ e.i < 8 ∧
    f.eaOf th e = some (ea, nx, n2) ∧ accessFault ea = none) ∧
    (∃ (ea : Nat), accessFault ea = none) ∧
    (∃ (s : State) (ea : Nat), accessFault ea = none ∧ s.eccAt (physAddr ea) = .good) :=
  ⟨⟨(at15 (word 4 0 [(17, 47), (1, 44), (2, 42), (4, 0)]) [(Reg.tlpThA 15 1, 0x1FFFF8)]), 15, 17, ⟨1, 2, 4, false⟩, _, 0x1FFFF8,
    0x1FFFFC, 0x1FFFFC, 0, (((aft (at15 (word 4 0 [(17, 47), (1, 44), (2, 42), (4, 0)]) [(Reg.tlpThA 15 1, 0x1FFFF8)])).begun
    15).loadWord 0x1FFFF8).2, runs_on _ _ (by decide +kernel), by decide +kernel, by decide +kernel, by decide +kernel, ok_is _ _
    (by decide +kernel)⟩,
   ⟨(at15 (word 4 1 [(17, 47), (1, 44), (2, 42), (4, 0)]) [(Reg.tlpThA 15 1, 0x1FFFFC)]), 15, 17, ⟨1, 2, 4, false⟩, _, 0x1FFFFC,
    0x200000, 0x200000, runs_on _ _ (by decide +kernel), by decide +kernel⟩,
   ⟨0, by decide +kernel⟩,
   ⟨U [], 0, by decide +kernel⟩⟩

theorem witness_AddressingModes :
    (∃ (s : State) (th : Nat) (e : Ea), e.i < 8 ∧ (e.circ = false ∨ s.l24 th e.i = 0)) ∧
    (∃ (s : State) (th : Nat) (e : Ea), e.i < 8 ∧ e.circ = true ∧ 0 < s.l24 th e.i) ∧
    (∃ (s : State) (th : Nat) (i : Nat) (v : Src) (f : State), State.RunsOn s th (.setb i v) f ∧ i < 8) ∧
    (∃ (s : State) (th : Nat) (i : Nat) (v : Src) (f : State), State.RunsOn s th (.setl i v) f ∧ i < 8 ∧ f.src th v % 2 ^ 24 % 4 = 0) :=
  ⟨⟨U [], 15, ⟨7, 2, -4, false⟩, by decide +kernel⟩,
   ⟨(U [(Reg.tlpThL 15 7, 64)]), 15, ⟨7, 2, -4, true⟩, by decide +kernel⟩,
   ⟨(at15 (word 5 3 [(7, 44), (0xFFFFFF, 0)]) []), 15, 7, .imm 0xFFFFFF, _, runs_on _ _ (by decide +kernel), by decide +kernel⟩,
   ⟨(at15 (word 5 2 [(7, 44), (64, 0)]) []), 15, 7, .imm 64, _, runs_on _ _ (by decide +kernel), by decide +kernel⟩⟩

theorem witness_ThreadFaults :
    (∃ (s : State) (th : Nat) (c : Nat), th < 16 ∧ c < 16 ∧ (s.flag Reg.tlpTrace 31 && s.flag Reg.tlpTrace th) = false ∧ s.flag
    (Reg.tlpThCtl th) 3 = false) ∧
    (∃ (s : State) (th : Nat) (c : Nat) (f : State), s.canIssue th = true ∧ s.fetchOp (s.pc th) = (.error c, f) ∧ s.stopsAt th none =
    false) ∧
    (∃ (s : State) (th : Nat) (r : Nat) (e : Ea) (f : State) (ea : Nat) (nx : Nat) (n2 : Nat) (c : Nat), State.Executes s th (.ld r e) f
    ∧ e.circ = false ∧ f.eaOf th e = some (ea, nx, n2) ∧ accessFault ea = some c) ∧
    (∃ (s : State) (th : Nat) (r : Nat) (e : Ea) (f : State) (ea : Nat) (nx : Nat) (n2 : Nat) (c : Nat), State.Executes s th (.st r e) f
    ∧ e.circ = false ∧ f.eaOf th e = some (ea, nx, n2) ∧ accessFault ea = some c) :=
  ⟨⟨U [], 15, 15, by decide +kernel⟩,
   ⟨(U [(Reg.tlpThState 15, stReady)]), 15, faultUnverified, (U [(Reg.tlpThState 15, stReady)]), by decide +kernel, err_is _ _
    (by decide +kernel), by decide +kernel⟩,
   ⟨(at15 (word 4 0 [(17, 47), (1, 44), (0x1000, 0)]) [(Reg.tlpThA 15 1, 0x1FF000)]), 15, 17, ⟨1, 0, 0x1000, false⟩, _, 0x200000,
    0x1FF000, 0x200004, faultAddr, executes _ _ (by decide +kernel), by decide +kernel⟩,
   ⟨(at15 (word 4 1 [(17, 47), (1, 44)]) [(Reg.tlpThA 15 1, 2)]), 15, 17, ⟨1, 0, 0, false⟩, _, 2, 2, 6, faultAlign, executes _ _
    (by decide +kernel), by decide +kernel⟩⟩

theorem witness_TimedEntriesQueue :
    (∃ s f o g a tag rest, State.RunsOn s 15 (.atI 15 0xFFFF 7) f ∧ f.pc 15 + 2 ≤ lastPc ∧ (f.begun 15).fetchOp (f.pc 15 + 1) = (.ok o,
    g) ∧ o.isAction = true ∧ g.actionOf 15 o = .ok (a, none) ∧ g.taqFull 15 = false ∧ g.tags = tag :: rest ∧ tag < 512 ∧ g.flag
    Reg.tlpTrace 31 = false ∧ future (7) g.tns = true) ∧
    (∃ s f o g a tag rest, State.RunsOn s 15 (.atR 15 0xFFFF 14 (-1)) f ∧ f.pc 15 + 2 ≤ lastPc ∧ (f.begun 15).fetchOp (f.pc 15 + 1) =
    (.ok o, g) ∧ o.isAction = true ∧ g.actionOf 15 o = .ok (a, none) ∧ g.taqFull 15 = false ∧ g.tags = tag :: rest ∧ tag < 512 ∧
    g.flag Reg.tlpTrace 31 = false ∧ future (g.g 15 14 + BitVec.ofInt 32 (-1)) g.tns = true) ∧
    (∃ s f o g a tag rest, State.RunsOn s 15 (.atN 15 0xFFFF 7) f ∧ f.pc 15 + 2 ≤ lastPc ∧ (f.begun 15).fetchOp (f.pc 15 + 1) = (.ok o,
    g) ∧ o.isAction = true ∧ g.actionOf 15 o = .ok (a, none) ∧ g.taqFull 15 = false ∧ g.tags = tag :: rest ∧ tag < 512 ∧ g.flag
    Reg.tlpTrace 31 = false ∧ future (g.tns + 7) g.tns = true) ∧
    (∃ s f o g a tag rest, State.RunsOn s 15 (.every 15 0xFFFF 14 13 true 0) f ∧ f.pc 15 + 2 ≤ lastPc ∧ (f.begun 15).fetchOp (f.pc 15 +
    1) = (.ok o, g) ∧ o.isAction = true ∧ g.actionOf 15 o = .ok (a, none) ∧ g.taqFull 15 = false ∧ g.tags = tag :: rest ∧ tag < 512
    ∧ g.flag Reg.tlpTrace 31 = false ∧ future (g.g 15 14) g.tns = true ∧ 1000 ≤ (g.g 15 13).toNat ∧ (g.g 15 13).toNat ≤ 2 ^ 30) :=
  ⟨⟨{ at2 (word 8 0 [(15, 48), (0xFFFF, 32), (7, 0)]) (word 14 0 [(127, 0)]) [(Reg.tlpThG 15 14, 9), (Reg.tlpThG 15 13, 1000)] with tags := [511] },
    _, .signal 127, (((aft
    ({ at2 (word 8 0 [(15, 48), (0xFFFF, 32), (7, 0)]) (word 14 0 [(127, 0)]) [(Reg.tlpThG 15 14, 9), (Reg.tlpThG 15 13, 1000)] with tags := [511] })).begun
    15).fetchOp 1).2, .signal 127, 511, [], runs_on _ _ (by decide +kernel), by decide +kernel, ok_is _ _ (by decide +kernel), rfl,
    ok_of _ _ (by decide +kernel), by decide +kernel⟩,
   ⟨{ at2 (word 8 1 [(15, 48), (0xFFFF, 32), (14, 28), (0xFFFFFFF, 0)]) (word 14 0 [(127, 0)]) [(Reg.tlpThG 15 14, 9), (Reg.tlpThG 15 13, 1000)] with tags := [511] },
    _, .signal 127, (((aft
    ({ at2 (word 8 1 [(15, 48), (0xFFFF, 32), (14, 28), (0xFFFFFFF, 0)]) (word 14 0 [(127, 0)]) [(Reg.tlpThG 15 14, 9), (Reg.tlpThG 15 13, 1000)] with tags := [511] })).begun
    15).fetchOp 1).2, .signal 127, 511, [], runs_on _ _ (by decide +kernel), by decide +kernel, ok_is _ _ (by decide +kernel), rfl,
    ok_of _ _ (by decide +kernel), by decide +kernel⟩,
   ⟨{ at2 (word 8 2 [(15, 48), (0xFFFF, 32), (7, 0)]) (word 14 0 [(127, 0)]) [(Reg.tlpThG 15 14, 9), (Reg.tlpThG 15 13, 1000)] with tags := [511] },
    _, .signal 127, (((aft
    ({ at2 (word 8 2 [(15, 48), (0xFFFF, 32), (7, 0)]) (word 14 0 [(127, 0)]) [(Reg.tlpThG 15 14, 9), (Reg.tlpThG 15 13, 1000)] with tags := [511] })).begun
    15).fetchOp 1).2, .signal 127, 511, [], runs_on _ _ (by decide +kernel), by decide +kernel, ok_is _ _ (by decide +kernel), rfl,
    ok_of _ _ (by decide +kernel), by decide +kernel⟩,
   ⟨{ at2 (word 8 4 [(15, 48), (0xFFFF, 32), (14, 28), (13, 24), (1, 23)]) (word 14 0 [(127, 0)]) [(Reg.tlpThG 15 14, 9), (Reg.tlpThG 15 13, 1000)] with tags := [511] },
    _, .signal 127, (((aft
    ({ at2 (word 8 4 [(15, 48), (0xFFFF, 32), (14, 28), (13, 24), (1, 23)]) (word 14 0 [(127, 0)]) [(Reg.tlpThG 15 14, 9), (Reg.tlpThG 15 13, 1000)] with tags := [511] })).begun
    15).fetchOp 1).2, .signal 127, 511, [], runs_on _ _ (by decide +kernel), by decide +kernel, ok_is _ _ (by decide +kernel), rfl,
    ok_of _ _ (by decide +kernel), by decide +kernel⟩⟩

theorem witness_Waits :
    (∃ (s : State) (th : Nat) (b : Option Nat) (off : Int) (f : State), State.RunsOn s th (.waitt b off) f) ∧
    (∃ (s : State) (th : Nat) (line : Nat) (c : Bool) (f : State), State.RunsOn s th (.waitev line c) f ∧ line < 256) ∧
    (∃ (s : State) (th : Nat) (word : Nat) (m : Nat) (d : Nat) (c : Bool) (f : State), State.RunsOn s th (.waitevAny word m d c) f ∧
    word < 8 ∧ d < 16) ∧
    (∃ (s : State) (th : Nat) (f : State), State.RunsOn s th .fence f) ∧
    (∃ (s : State) (th : Nat) (d : Nat) (tg : Src) (f : State), State.RunsOn s th (.cmpl d tg) f ∧ d < 16) ∧
    (∃ (s : State) (th : Nat), th < 16 ∧ s.up domCob = true ∧ (s.thState th = stWaitEv ∨ s.thState th = stWaitCmpl) ∧ s.pc th < lastPc ∧
    (s.thread th).stepping = false ∧ (s.thread th).haltReq = false) ∧
    (∃ (s : State) (th : Nat), th < 16 ∧ s.up domCob = true ∧ s.thState th = stWaitT ∧ s.pc th < lastPc ∧ (s.thread th).stepping = false
    ∧ (s.thread th).haltReq = false) :=
  ⟨⟨(at15 (word 8 8 [(0xFFFFFFFF, 0)]) []), 15, none, 0xFFFFFFFF, _, runs_on _ _ (by decide +kernel)⟩,
   ⟨(at15 (word 14 1 [(1, 51), (255, 0)]) []), 15, 255, true, _, runs_on _ _ (by decide +kernel), by decide +kernel⟩,
   ⟨(at15 (word 14 2 [(1, 51), (7, 48), (15, 44), (15, 40)]) []), 15, 7, 15, 15, true, _, runs_on _ _ (by decide +kernel),
    by decide +kernel⟩,
   ⟨(at15 (word 14 5 []) []), 15, _, runs_on _ _ (by decide +kernel)⟩,
   ⟨(at15 (word 14 6 [(15, 48), (1, 43), (511, 0)]) []), 15, 15, .imm 511, _, runs_on _ _ (by decide +kernel), by decide +kernel⟩,
   ⟨(U [(Reg.tlpThState 15, stWaitEv), (Reg.tlpThPc 15, lastPc - 1)]), 15, by decide +kernel⟩,
   ⟨(U [(Reg.tlpThState 15, stWaitT), (Reg.tlpThPc 15, lastPc - 1)]), 15, by decide +kernel⟩⟩

theorem witness_ActionsReachTargets :
    (∃ s f, State.RunsOn s 15 (.pstate 6 1 0 (.imm 255)) f) ∧
    (∃ s f, State.RunsOn s 15 (.beamsel 1 1 31 (.imm 4095)) f) ∧
    (∃ s f, State.RunsOn s 15 (.wswap 3 3 1) f) ∧
    (∃ s f, State.RunsOn s 15 (.lohop 255 15) f) ∧
    (∃ s f, State.RunsOn s 15 (.gainset 2 ⟨2, 7, 0, 0xFFFF⟩ (.imm 4000)) f) ∧
    (∃ s f, State.RunsOn s 15 (.portsel 255 1) f) ∧
    (∃ s f, State.RunsOn s 15 (.signal 127) f) ∧
    (∃ s f, State.RunsOn s 15 (.dmago 31 (some 15)) f) ∧
    (∃ s f, State.RunsOn s 15 (.carm 2) f) :=
  ⟨⟨at15 (word 12 0 [(6, 48), (1, 46), (255, 0)]) [], _, runs_on _ _ (by decide +kernel)⟩,
   ⟨at15 (word 12 1 [(1, 51), (1, 50), (31, 45), (4095, 0)]) [], _, runs_on _ _ (by decide +kernel)⟩,
   ⟨at15 (word 12 2 [(3, 50), (3, 48), (1, 47)]) [], _, runs_on _ _ (by decide +kernel)⟩,
   ⟨at15 (word 12 3 [(255, 44), (15, 40)]) [], _, runs_on _ _ (by decide +kernel)⟩,
   ⟨at15 (word 12 4 [(2, 50), (2, 48), (7, 45), (0xFFFF, 16), (4000, 0)]) [], _, runs_on _ _ (by decide +kernel)⟩,
   ⟨at15 (word 12 5 [(255, 44), (1, 43)]) [], _, runs_on _ _ (by decide +kernel)⟩,
   ⟨at15 (word 14 0 [(127, 0)]) [], _, runs_on _ _ (by decide +kernel)⟩,
   ⟨at15 (word 15 0 [(1, 51), (15, 47), (31, 0)]) [], _, runs_on _ _ (by decide +kernel)⟩,
   ⟨at15 (word 15 1 [(2, 0)]) [], _, runs_on _ _ (by decide +kernel)⟩⟩

theorem witness_DeviceRegistersAndVotes :
    (∃ (s : State) (th : Nat) (v : Nat) (b : Option Nat) (imm : Nat) (off : Nat) (f : State), State.RunsOn s th (.wreg v none b imm) f ∧
    f.regOffset th b imm = .ok off) ∧
    (∃ (s : State) (th : Nat) (v : Nat) (m : Nat) (b : Option Nat) (imm : Nat) (off : Nat) (f : State), State.RunsOn s th (.wreg v (some
    m) b imm) f ∧ f.regOffset th b imm = .ok off) ∧
    (∃ (s : State) (th : Nat) (d : Nat) (b : Option Nat) (imm : Nat) (off : Nat) (f : State) (v : Word) (st : Nat) (g : State),
    State.RunsOn s th (.rreg d b imm) f ∧ f.regOffset th b imm = .ok off ∧ f.holdsRead off = false ∧ (f.begun th).fetchReg (2 + th)
    off = (v, st, g) ∧ g.pc th = f.pc th ∧ g.thread th = (f.begun th).thread th ∧ d < 16) ∧
    (∃ (s : State) (off : Nat), isRegOff off = true ∧ off % 4 = 0 ∧ s.regUp off = false) ∧
    (∃ (s : State) (th : Nat) (d : Nat) (f : State), State.Executes s th (.unvote d) f) ∧
    (∃ (s : State) (th : Nat) (d : Nat) (p : Nat) (f : State), State.Executes s th (.vote d p) f) :=
  ⟨⟨(at15 (word 13 0 [(13, 48), (Reg.tlpEvSet, 0)]) []), 15, 13, none, Reg.tlpEvSet, Reg.tlpEvSet, _, runs_on _ _ (by decide +kernel),
    ok_of _ _ (by decide +kernel)⟩,
   ⟨(at15 (word 13 1 [(13, 48), (12, 36), (Reg.tlpEvSet, 0)]) []), 15, 13, 12, none, Reg.tlpEvSet, Reg.tlpEvSet, _, runs_on _ _
    (by decide +kernel), ok_of _ _ (by decide +kernel)⟩,
   ⟨(at15 (word 13 2 [(15, 48), (Reg.tlpEvSet, 0)]) []), 15, 15, none, Reg.tlpEvSet, Reg.tlpEvSet, _, (((aft (at15 (word 13 2 [(15,
    48), (Reg.tlpEvSet, 0)]) [])).begun 15).fetchReg 17 Reg.tlpEvSet).1, (((aft (at15 (word 13 2 [(15, 48), (Reg.tlpEvSet, 0)])
    [])).begun 15).fetchReg 17 Reg.tlpEvSet).2.1, (((aft (at15 (word 13 2 [(15, 48), (Reg.tlpEvSet, 0)]) [])).begun 15).fetchReg 17
    Reg.tlpEvSet).2.2, runs_on _ _ (by decide +kernel), ok_of _ _ (by decide +kernel), by decide +kernel, by decide +kernel,
    by decide +kernel, by decide +kernel, by decide +kernel⟩,
   ⟨State.reset, Reg.tlpCtl, by decide +kernel⟩,
   ⟨(at15 (word 14 4 [(15, 48)]) []), 15, 15, _, executes _ _ (by decide +kernel)⟩,
   ⟨(at15 (word 14 3 [(15, 48), (3, 0)]) []), 15, 15, 3, _, executes _ _ (by decide +kernel)⟩⟩

theorem witness_ScalarMultiplyAccumulate :
    (∃ (s : State) (th : Nat) (n : Nat) (a : Nat) (b : Nat) (cj : Bool) (sb : Bool) (bx : Bool) (f : State), State.RunsOn s th (.mul
    .mac n a b cj sb bx) f) ∧
    (∃ (s : State) (th : Nat) (n : Nat) (a : Nat) (b : Nat) (cj : Bool) (sb : Bool) (bx : Bool) (f : State), State.RunsOn s th (.mul
    .msu n a b cj sb bx) f) ∧
    (∃ (s : State) (th : Nat) (n : Nat) (a : Nat) (b : Nat) (cj : Bool) (sb : Bool) (bx : Bool) (f : State), State.RunsOn s th (.mul
    .macs n a b cj sb bx) f) ∧
    (∃ (s : State) (th : Nat) (n : Nat) (a : Nat) (b : Nat) (cj : Bool) (sb : Bool) (bx : Bool) (f : State), State.RunsOn s th (.mul
    .macbx n a b cj sb bx) f) ∧
    (∃ (s : State) (th : Nat) (n : Nat) (a : Nat) (b : Nat) (cj : Bool) (sb : Bool) (f : State), State.RunsOn s th (.mul .cmac n a b cj
    sb false) f) ∧
    (∃ (s : State) (th : Nat) (n : Nat) (a : Nat) (b : Nat) (cj : Bool) (sb : Bool) (f : State), State.RunsOn s th (.mul .cmac n a b cj
    sb true) f) :=
  ⟨⟨(at15 (word 17 0 [(3, 50), (15, 46), (15, 42)]) []), 15, 3, 15, 15, false, false, false, _, runs_on _ _ (by decide +kernel)⟩,
   ⟨(at15 (word 17 1 [(3, 50), (15, 46), (15, 42)]) []), 15, 3, 15, 15, false, false, false, _, runs_on _ _ (by decide +kernel)⟩,
   ⟨(at15 (word 17 2 [(3, 50), (15, 46), (15, 42)]) []), 15, 3, 15, 15, false, false, false, _, runs_on _ _ (by decide +kernel)⟩,
   ⟨(at15 (word 17 3 [(3, 50), (15, 46), (15, 42), (1, 40)]) []), 15, 3, 15, 15, false, true, false, _, runs_on _ _
    (by decide +kernel)⟩,
   ⟨(at15 (word 17 4 [(2, 50), (14, 46), (14, 42), (1, 41), (1, 40)]) []), 15, 2, 14, 14, true, true, _, runs_on _ _
    (by decide +kernel)⟩,
   ⟨(at15 (word 17 4 [(2, 50), (14, 46), (14, 42), (1, 41), (1, 40), (1, 39)]) []), 15, 2, 14, 14, true, true, _, runs_on _ _
    (by decide +kernel)⟩⟩

theorem witness_ClampingRule :
    (∃ (s : State) (th : Nat) (n : Nat) (a : Nat) (b : Nat) (cj : Bool) (sb : Bool) (bx : Bool) (f : State), State.RunsOn s th (.mul
    .macs n a b cj sb bx) f) ∧
    (∃ (s : State) (th : Nat) (n : Nat), n < 4 ∧ s.satl th n = true) ∧
    (∃ (s : State) (th : Nat) (n : Nat), n < 4 ∧ s.satl th n = false) :=
  ⟨⟨(at15 (word 17 2 [(3, 50), (15, 46), (15, 42)]) []), 15, 3, 15, 15, false, false, false, _, runs_on _ _ (by decide +kernel)⟩,
   ⟨(U [(Reg.tlpThAccExp 15 3, 0x20)]), 15, 3, by decide +kernel⟩,
   ⟨U [], 15, 3, by decide +kernel⟩⟩

theorem witness_AccumulatorRules :
    (∃ (s : State) (th : Nat) (n : Nat), n < 4 ∧ s.satl th n = true) ∧
    (∃ (s : State) (th : Nat) (n : Nat) (t : Int), n < 4 ∧ s.satl th n = false ∧ -(2 ^ 63 : Int) ≤ t ∧ t < 2 ^ 63) ∧
    (∃ (s : State) (th : Nat) (u : Nat) (n : Nat) (t : Int), n < 4 ∧ th < 16 ∧ u < 8 ∧ s.satl th n = false ∧ (t < -(2 ^ 63 : Int) ∨ 2 ^
    63 ≤ t)) ∧
    (∃ (s : State) (th : Nat) (n : Nat), n < 4 ∧ s.satl th n = false ∧ -(2 ^ 59 : Int) ≤ s.acc th n ∧ s.acc th n < 2 ^ 59) ∧
    (∃ (s : State) (th : Nat) (n : Nat), n < 4 ∧ s.satl th n = false ∧ s.accE th n < 31 ∧ (s.acc th n < -(2 ^ 59 : Int) ∨ 2 ^ 59 ≤ s.acc
    th n)) :=
  ⟨⟨(U [(Reg.tlpThAccExp 15 3, 0x20)]), 15, 3, by decide +kernel⟩,
   ⟨U [], 15, 3, 2 ^ 63 - 1, by decide +kernel⟩,
   ⟨U [], 15, 7, 3, 2 ^ 63, by decide +kernel⟩,
   ⟨(U [(Reg.tlpThAccHi 15 3, 0x07FFFFFF)]), 15, 3, by decide +kernel⟩,
   ⟨(U [(Reg.tlpThAccHi 15 3, 0x08000000), (Reg.tlpThAccExp 15 3, 30)]), 15, 3, by decide +kernel⟩⟩

theorem witness_BlocksHoldTheirUnit :
    (∃ (k : Mul) (c : Nat → Instr), (k = .mac ∧ c = Instr.macB ∨ k = .msu ∧ c = Instr.msuB ∨ k = .macs ∧ c = Instr.macsB ∨ k = .macbx ∧
    c = Instr.macbxB ∨ k = .cmac ∧ c = Instr.cmacB)) ∧
    (∃ (s : State) (th : Nat) (d : Nat) (i : Nat) (c : Bool) (cx : Bool) (ac : Bool) (cnt : Src) (f : State) (g : State) (h : Nat),
    State.RunsOn s th (.bexp d i c cx ac cnt) f ∧ (f.begun th).bexpOver th (f.duOf th) i c cx (f.src th cnt % 2 ^ 16) 23 = (.ok h,
    g)) ∧
    (∃ (th : Nat) (u : Nat), u < 8 ∧ th < 16) ∧
    (∃ (s : State) (u : Nat) (th : Nat), u < 8 ∧ s.up domCob = true ∧ s.flag (Reg.tlpDuStatus u) 31 = true ∧ s.fld (Reg.tlpDuStatus u)
    19 16 = th ∧ (s.thread th).block = some u ∧ (s.thread th).blockEv = false ∧ (s.thread th).stepping = false ∧ (s.thread
    th).haltReq = false ∧ s.wdtDue th = false ∧ s.pc th < lastPc ∧ s.reg (Reg.tlpDuBlocks u) ≠ 0xFFFFFFFF) :=
  ⟨⟨.cmac, Instr.cmacB, by simp⟩,
   ⟨(at15 (word 20 0 [(15, 48), (7, 45)]) []), 15, 15, 7, false, false, false, .imm 0, _, ((aft (at15 (word 20 0 [(15, 48), (7, 45)])
    [])).begun 15), 23, runs_on _ _ (by decide +kernel), ok_is _ _ (by decide +kernel)⟩,
   ⟨15, 7, by decide +kernel⟩,
   ⟨{ U [(Reg.tlpDuStatus 7, 0x800F0000), (Reg.tlpThPc 15, lastPc - 1)] with th := [(15, { block := some 7 })] }, 7, 15,
    by decide +kernel⟩⟩

theorem witness_AccumulatorOperations :
    (∃ (s : State) (th : Nat) (m : Nat) (x : Option Nat) (f : State), State.RunsOn s th (.clracc m x) f) ∧
    (∃ (n : Nat), n < 4) ∧
    (∃ (s : State) (th : Nat) (n : Nat) (dg : Bool) (d : Nat) (rm : Nat) (e : Bool) (sh : Int) (f : State), State.RunsOn s th (.rnd n dg
    d rm e sh) f ∧ d < 16) ∧
    (∃ (s : State) (th : Nat) (n : Nat) (w : Nat) (f : State), State.RunsOn s th (.sat n w) f ∧ n < 4 ∧ 1 ≤ w ∧ w ≤ 64) ∧
    (∃ (s : State) (th : Nat) (n : Nat) (d : Nat) (e : Nat) (f : State), State.RunsOn s th (.norm n d e) f ∧ n < 4 ∧ d < 16 ∧ e < 16) ∧
    (∃ (s : State) (th : Nat) (n : Nat) (x : Option Nat) (d : Nat) (f : State), State.RunsOn s th (.exp n x d) f ∧ n < 4 ∧ d < 16) ∧
    (∃ (s : State) (th : Nat) (n : Nat) (sh : Int) (f : State), State.RunsOn s th (.shacc n sh) f ∧ n < 4) ∧
    (∃ (s : State) (th : Nat) (n : Nat) (d : Nat) (f : State), State.RunsOn s th (.staccG n d) f ∧ d < 15 ∧ n < 4) ∧
    (∃ (w : Nat) (v : Int), 1 ≤ w ∧ -(2 ^ (w - 1) : Int) ≤ v ∧ v < 2 ^ (w - 1)) :=
  ⟨⟨(at15 (word 19 0 [(8, 48), (1, 47), (15, 43)]) []), 15, 8, some 15, _, runs_on _ _ (by decide +kernel)⟩,
   ⟨3, by decide +kernel⟩,
   ⟨(at15 (word 19 1 [(3, 50), (1, 49), (15, 45), (2, 43), (1, 42), (63, 36)]) []), 15, 3, true, 15, 2, true, -1, _, runs_on _ _
    (by decide +kernel), by decide +kernel⟩,
   ⟨(at15 (word 19 2 [(3, 50), (63, 44)]) []), 15, 3, 63, _, runs_on _ _ (by decide +kernel), by decide +kernel⟩,
   ⟨(at15 (word 19 3 [(3, 50), (15, 46), (15, 42)]) []), 15, 3, 15, 15, _, runs_on _ _ (by decide +kernel), by decide +kernel⟩,
   ⟨(at15 (word 19 4 [(3, 50), (15, 41)]) []), 15, 3, none, 15, _, runs_on _ _ (by decide +kernel), by decide +kernel⟩,
   ⟨(at15 (word 19 5 [(3, 50), (127, 43)]) []), 15, 3, -1, _, runs_on _ _ (by decide +kernel), by decide +kernel⟩,
   ⟨(at15 (word 19 6 [(3, 50), (1, 49), (14, 45)]) []), 15, 3, 14, _, runs_on _ _ (by decide +kernel), by decide +kernel⟩,
   ⟨64, 2 ^ 63 - 1, by decide +kernel⟩⟩

theorem witness_SignalLoadsAndStores :
    (∃ (s : State) (th : Nat) (n : Nat) (e : Ea) (x : Bool) (f : State) (ea : Nat) (nx : Nat) (n2 : Nat), State.RunsOn s th (.staccM n e
    x) f ∧ f.eaOf th e = some (ea, nx, n2) ∧ (∀ i, i < (if x then 3 else 2) → accessFault ((ea + 4 * i) % 2 ^ 24) = none)) ∧
    (∃ (s : State) (th : Nat) (x : Nat) (e : Ea) (f : State) (ea : Nat) (nx : Nat) (n2 : Nat) (v : Word) (g : State), State.RunsOn s th
    (.ldx x false e) f ∧ f.eaOf th e = some (ea, nx, n2) ∧ (f.begun th).loadWord ea = (.ok v, g)) ∧
    (∃ (s : State) (th : Nat) (x : Nat) (e : Ea) (f : State) (ea : Nat) (nx : Nat) (n2 : Nat) (v : Word) (g : State) (v2 : Word) (g2 :
    State), State.RunsOn s th (.ldx x true e) f ∧ f.eaOf th e = some (ea, nx, n2) ∧ accessFault n2 = none ∧ (f.begun th).loadWord ea
    = (.ok v, g) ∧ g.loadWord n2 = (.ok v2, g2)) ∧
    (∃ (s : State) (th : Nat) (x : Nat) (e : Ea) (f : State) (ea : Nat) (nx : Nat) (n2 : Nat), State.RunsOn s th (.stx x false e) f ∧
    f.eaOf th e = some (ea, nx, n2) ∧ accessFault ea = none) ∧
    (∃ (s : State) (th : Nat) (x : Nat) (e : Ea) (f : State) (ea : Nat) (nx : Nat) (n2 : Nat), State.RunsOn s th (.stx x true e) f ∧
    f.eaOf th e = some (ea, nx, n2) ∧ accessFault ea = none ∧ accessFault n2 = none) ∧
    (∃ (i : Nat) (v : Int), i < 16 ∧ -(2 ^ 23 : Int) ≤ v ∧ v < 2 ^ 23) :=
  ⟨⟨(at15 (word 19 6 [(3, 50), (1, 44), (1, 40)]) [(Reg.tlpThA 15 1, 0x1FFFF4)]), 15, 3, ⟨1, 0, 0, false⟩, true, _, 0x1FFFF4, 0x1FFFF4,
    0x1FFFF8, runs_on _ _ (by decide +kernel), by decide +kernel⟩,
   ⟨(at15 (word 16 0 [(15, 48), (1, 44), (2, 42), (4, 0)]) [(Reg.tlpThA 15 1, 0x1FFFFC)]), 15, 15, ⟨1, 2, 4, false⟩, _, 0x1FFFFC,
    0x200000, 0x200000, 0, (((aft (at15 (word 16 0 [(15, 48), (1, 44), (2, 42), (4, 0)]) [(Reg.tlpThA 15 1, 0x1FFFFC)])).begun
    15).loadWord 0x1FFFFC).2, runs_on _ _ (by decide +kernel), by decide +kernel, ok_is _ _ (by decide +kernel)⟩,
   ⟨(at15 (word 16 0 [(14, 48), (1, 47), (1, 44), (2, 42), (8, 0)]) [(Reg.tlpThA 15 1, 0x1FFFF8)]), 15, 14, ⟨1, 2, 8, false⟩, _,
    0x1FFFF8, 0x200000, 0x1FFFFC, 0, (((aft (at15 (word 16 0 [(14, 48), (1, 47), (1, 44), (2, 42), (8, 0)]) [(Reg.tlpThA 15 1,
    0x1FFFF8)])).begun 15).loadWord 0x1FFFF8).2, 0, ((((aft (at15 (word 16 0 [(14, 48), (1, 47), (1, 44), (2, 42), (8, 0)])
    [(Reg.tlpThA 15 1, 0x1FFFF8)])).begun 15).loadWord 0x1FFFF8).2.loadWord 0x1FFFFC).2, runs_on _ _ (by decide +kernel),
    by decide +kernel, by decide +kernel, ok_is _ _ (by decide +kernel), ok_is _ _ (by decide +kernel)⟩,
   ⟨(at15 (word 16 1 [(15, 48), (1, 44), (2, 42), (4, 0)]) [(Reg.tlpThA 15 1, 0x1FFFFC)]), 15, 15, ⟨1, 2, 4, false⟩, _, 0x1FFFFC,
    0x200000, 0x200000, runs_on _ _ (by decide +kernel), by decide +kernel⟩,
   ⟨(at15 (word 16 1 [(14, 48), (1, 47), (1, 44), (2, 42), (8, 0)]) [(Reg.tlpThA 15 1, 0x1FFFF8)]), 15, 14, ⟨1, 2, 8, false⟩, _,
    0x1FFFF8, 0x200000, 0x1FFFFC, runs_on _ _ (by decide +kernel), by decide +kernel⟩,
   ⟨15, 2 ^ 23 - 1, by decide +kernel⟩⟩

theorem witness_DueEntriesDispatch :
    (∃ (s : State) (tag : Nat) (e : Entry), s.up domCob = true ∧ s.nextDue tag = true ∧ s.entry? tag = some e ∧ (e.periodic && decide
    (64 < (s.tns - e.due).toNat) && decide (s.fld Reg.tlpLateLimit 15 0 < (s.tns - e.due).toNat)) = false) ∧
    (∃ (s : State) (tag : Nat) (e : Entry), s.up domCob = true ∧ s.nextDue tag = true ∧ s.entry? tag = some e ∧ e.periodic = true ∧ 64 <
    (s.tns - e.due).toNat ∧ s.fld Reg.tlpLateLimit 15 0 < (s.tns - e.due).toNat) ∧
    (∃ (s : State) (tag : Nat) (e : Entry) (q : Nat) (d : Entry), s.entry? tag = some e ∧ (q, d) ∈ s.taq ∧ q ≠ tag ∧ d.spent = false ∧
    s.dueReached d.due = true ∧ dueBefore e d = false) ∧
    (∃ (s : State) (tag : Nat) (e : Entry) (code : Nat), tag < 512 ∧ e.th < 16 ∧ code < 16 ∧ s.flag Reg.tlpTrace 31 = false) :=
  ⟨⟨{ up with taq := [(511, entry)] }, 511, entry, by decide +kernel⟩,
   ⟨{ up with taq := [(511, { entry with periodic := true, period := 1000, counted := false })], time := { t := 2 ^ 53 * 1000000 } },
    511, { entry with periodic := true, period := 1000, counted := false }, by decide +kernel⟩,
   ⟨{ up with taq := [(510, entry), (511, { entry with seq := 1 })] }, 511, { entry with seq := 1 }, 510, entry, by decide +kernel⟩,
   ⟨U [], 511, entry, 15, by decide +kernel⟩⟩

theorem witness_CompletionRing :
    (∃ (s : State), s.crUsed ≠ s.crSize) ∧
    (∃ (s : State), s.crUsed = s.crSize ∧ s.up domCob = true) ∧
    (∃ (s : State) (p : Port) (val : Word), s.reaches p Reg.tlpCrTail = true ∧ s.crSize < (s.fld Reg.tlpCrHead 15 0 + 65536 - val.toNat
    % 65536) % 65536) ∧
    (∃ (s : State) (p : Port) (val : Word), s.reaches p Reg.tlpCrTail = true ∧ (s.fld Reg.tlpCrHead 15 0 + 65536 - val.toNat % 65536) %
    65536 ≤ s.crSize) ∧
    (∃ (s : State) (p : Port), s.reaches p Reg.tlpCrBase = true) :=
  ⟨⟨U [], by decide +kernel⟩,
   ⟨(U [(Reg.tlpCrSize, 0), (Reg.tlpCrHead, 1)]), by decide +kernel⟩,
   ⟨(U [(Reg.tlpCrSize, 0)]), .pcie, 0xFFFE, by decide +kernel⟩,
   ⟨U [], .pcie, 0, by decide +kernel⟩,
   ⟨U [], .pcie, by decide +kernel⟩⟩

theorem witness_CancelsEndEntries :
    (∃ (s : State) (p : Port) (val : Word) (e : Entry), s.reaches p Reg.tlpTaqCancel = true ∧ s.entry? (val.toNat % 512) = some e ∧
    e.spent = false ∧ e.flying = 0) ∧
    (∃ (s : State) (p : Port) (val : Word), s.reaches p Reg.tlpTaqCancel = true ∧ s.entry? (val.toNat % 512) = none) ∧
    (∃ (s : State) (p : Port) (val : Word) (e : Entry), s.reaches p Reg.tlpTaqCancel = true ∧ s.entry? (val.toNat % 512) = some e ∧
    e.spent = true) ∧
    (∃ (s : State) (p : Port) (val : Word) (e : Entry), s.reaches p Reg.tlpTaqCancel = true ∧ s.entry? (val.toNat % 512) = some e ∧
    e.spent = false ∧ e.flying ≠ 0) ∧
    (∃ (s : State) (p : Port), s.reaches p Reg.tlpTaqCancel = true) :=
  ⟨⟨{ up with taq := [(511, entry)] }, .pcie, 511, entry, by decide +kernel⟩,
   ⟨U [], .pcie, 511, by decide +kernel⟩,
   ⟨{ up with taq := [(511, { entry with count := 0, flying := 1 })] }, .pcie, 511, { entry with count := 0, flying := 1 },
    by decide +kernel⟩,
   ⟨{ up with taq := [(511, { entry with periodic := true, count := 3, flying := 1 })] }, .pcie, 511,
    { entry with periodic := true, count := 3, flying := 1 }, by decide +kernel⟩,
   ⟨U [], .pcie, by decide +kernel⟩⟩

theorem witness_EventLatches :
    (∃ (s : State) (p : Port) (val : Word), s.reaches p Reg.tlpEvSet = true ∧ val.toNat % 256 < 128) ∧
    (∃ (s : State) (p : Port) (val : Word), s.reaches p Reg.tlpEvSet = true ∧ 128 ≤ val.toNat % 256) ∧
    (∃ (s : State) (p : Port) (j : Nat), j < 8 ∧ s.reaches p (Reg.tlpEv j) = true) ∧
    (∃ (s : State) (j : Nat), j < 256 ∧ s.up domCob = true ∧ (∀ i, i < 16 → s.thState i = stWaitEv → wakesOn (s.thread i) j = false)) ∧
    (∃ (s : State) (j : Nat) (i : Nat), j < 256 ∧ s.up domCob = true ∧ i < 16 ∧ s.thState i = stWaitEv ∧ (s.thread i).hit = false ∧
    wakesOn (s.thread i) j = true) :=
  ⟨⟨U [], .pcie, 127, by decide +kernel⟩,
   ⟨U [], .pcie, 128, by decide +kernel⟩,
   ⟨U [], .pcie, 7, by decide +kernel⟩,
   ⟨U [], 255, by decide +kernel⟩,
   ⟨{ U [(Reg.tlpThState 15, stWaitEv)] with th := [(15, { tag := 7, due := 0x80000000 })] }, 255, 15, by decide +kernel⟩⟩

theorem witness_ThreadControl :
    (∃ (s : State) (p : Port) (th : Nat) (val : Word), th < 16 ∧ s.reaches p (Reg.tlpThCtl th) = true ∧ val.getLsbD 2 = false ∧
    val.getLsbD 1 = false ∧ (s.thState th = stHalted ∨ s.thState th = stFault)) ∧
    (∃ (s : State) (p : Port) (th : Nat) (val : Word), th < 16 ∧ s.reaches p (Reg.tlpThCtl th) = true ∧ val.getLsbD 2 = false ∧
    val.getLsbD 1 = false ∧ s.thState th = stDebug) ∧
    (∃ (s : State) (p : Port) (th : Nat) (val : Word), th < 16 ∧ s.reaches p (Reg.tlpThCtl th) = true ∧ s.otpLock 3 = false ∧
    val.getLsbD 2 = false ∧ val.getLsbD 0 = false ∧ s.thState th = stDebug) ∧
    (∃ (s : State) (p : Port) (th : Nat) (val : Word), th < 16 ∧ s.reaches p (Reg.tlpThCtl th) = true ∧ val.getLsbD 0 = false ∧
    val.getLsbD 1 = false) ∧
    (∃ (s : State) (p : Port) (th : Nat) (val : BitVec 32), th < 16 ∧ s.reaches p Reg.tlpCtl = true ∧ s.otpLock 3 = false ∧ val =
    BitVec.ofNat 32 (2 ^ th) ∧ s.thState th = stReady ∧ (s.thread th).block = none ∧ (s.thread th).reading = false) ∧
    (∃ (s : State) (th : Nat), th < 16 ∧ (s.flag Reg.tlpTrace 31 && s.flag Reg.tlpTrace th) = false) ∧
    (∃ (s : State) (p : Port), s.reaches p Reg.tlpWdtKick = true) ∧
    (∃ (s : State) (p : Port) (th : Nat), th < 16 ∧ s.reaches p (Reg.tlpThWdt th) = true ∧ s.flag Reg.tlpCtl 31 = true) ∧
    (∃ (s : State) (p : Port) (th : Nat), th < 16 ∧ s.reaches p (Reg.tlpThWdt th) = true ∧ s.flag Reg.tlpCtl 31 = false) ∧
    (∃ (s : State) (th : Nat), th < 16 ∧ s.up domCob = true ∧ s.wdtDue th = true ∧ (s.thread th).block = none ∧ s.thState th ≠ stFault) ∧
    (∃ (s : State) (th : Nat), s.wdtDue th = false) :=
  ⟨⟨(U [(Reg.tlpThState 15, stFault)]), .pcie, 15, 0, by decide +kernel⟩,
   ⟨(U [(Reg.tlpThState 15, stDebug)]), .pcie, 15, 1, by decide +kernel⟩,
   ⟨(U [(Reg.tlpThState 15, stDebug)]), .pcie, 15, 2, by decide +kernel⟩,
   ⟨(U [(Reg.tlpThState 15, stDebug)]), .pcie, 15, 4, by decide +kernel⟩,
   ⟨(U [(Reg.tlpThState 15, stReady)]), .pcie, 15, 0x8000, by decide +kernel⟩,
   ⟨U [], 15, by decide +kernel⟩,
   ⟨U [], .pcie, by decide +kernel⟩,
   ⟨(U [(Reg.tlpCtl, 0x80000000)]), .pcie, 15, by decide +kernel⟩,
   ⟨U [], .pcie, 15, by decide +kernel⟩,
   ⟨{ U [(Reg.tlpThWdt 15, 0x80000001), (Reg.tlpThState 15, stReady)] with th := [(15, { wdt := 1000 })] }, 15, by decide +kernel⟩,
   ⟨U [], 15, by decide +kernel⟩⟩

theorem witness_RegisterFileWindow :
    (∃ (s : State) (p : Port) (off : Nat), isThReg off = true ∧ s.reaches p off = true ∧ s.thStopped (thOfReg off) = false) ∧
    (∃ (s : State) (p : Port) (th : Nat) (n : Nat), th < 16 ∧ n < 16 ∧ s.reaches p (Reg.tlpThG th n) = true ∧ s.thStopped th = true ∧
    s.otpLock 3 = false) ∧
    (∃ (s : State) (p : Port) (th : Nat), th < 16 ∧ s.reaches p (Reg.tlpThPc th) = true ∧ s.thStopped th = true ∧ s.otpLock 3 = false) :=
  ⟨⟨(U [(Reg.tlpThState 15, stReady)]), .pcie, Reg.tlpThPc 15, by decide +kernel⟩,
   ⟨(U [(Reg.tlpThState 15, stFault)]), .pcie, 15, 15, by decide +kernel⟩,
   ⟨(U [(Reg.tlpThState 15, stDebug)]), .pcie, 15, by decide +kernel⟩⟩

theorem witness_VotesMakeTargets :
    (∃ (s : State) (p : Port) (d : Nat), 1 ≤ d ∧ d ≤ 11 ∧ s.reaches p (Reg.pwrDomVote (d - 1)) = true) ∧
    (∃ (d : Dom), 1 ≤ d ∧ d ≤ 11) ∧
    (∃ (s : State) (d : Nat), 1 ≤ d ∧ d ≤ 11 ∧ bit s.pwr.hold d = true) ∧
    (∃ (s : State) (d : Dom), 1 ≤ d ∧ d ≤ 11 ∧ s.season < 2 ∧ s.pwr.keepHost = false) :=
  ⟨⟨U [], .pcie, 11, by decide +kernel⟩,
   ⟨11, by decide +kernel⟩,
   ⟨{ up with pwr := { hold := 0x800 } }, 11, by decide +kernel⟩,
   ⟨U [], 11, by decide +kernel⟩⟩

theorem witness_DomainTransitions :
    (∃ (s : State) (d : Dom), 1 ≤ d ∧ d ≤ 11 ∧ s.goal d = none ∧ s.step? d = none ∧ bit s.pwr.failed d = false ∧ bit s.pwr.retry d =
    false ∧ s.domTarget d = true ∧ s.flag (Reg.pwrDomStatus (d - 1)) 4 = true ∧ s.domState d = 0 ∧ bit s.pwr.lost d = false ∧ s.up
    (domRequires d) = true) ∧
    (∃ (s : State) (d : Dom), 1 ≤ d ∧ d ≤ 11 ∧ s.domTarget d = s.up d ∧ s.flag (Reg.pwrDomStatus (d - 1)) 4 = s.domTarget d ∧ s.goal d =
    none) ∧
    (∃ (s : State) (d : Dom) (k : Nat), 1 ≤ d ∧ d ≤ 11 ∧ s.domState d = 1 ∧ s.step? d = some k ∧ k < 3) ∧
    (∃ (s : State) (d : Dom), 1 ≤ d ∧ d ≤ 11 ∧ s.domState d = 1 ∧ s.step? d = some 3) ∧
    (∃ (s : State) (d : Dom) (k : Nat), 1 ≤ d ∧ d ≤ 11 ∧ s.domState d = 3 ∧ s.step? d = some k ∧ 1 < k) ∧
    (∃ (s : State) (d : Dom), 1 ≤ d ∧ d ≤ 11 ∧ s.domState d = 3 ∧ s.step? d = some 1 ∧ alook s.pwr.failing d = none) ∧
    (∃ (d : Dom) (st : Nat), 1 ≤ d ∧ d ≤ 11 ∧ st < 4) ∧
    (∃ (s : State) (d : Dom) (k : Nat), 1 ≤ d ∧ d ≤ 11 ∧ s.domState d = 1 ∧ s.step? d = some k) ∧
    (∃ (s : State) (d : Dom), (s.step? d = none ∨ s.domState d ≠ 1)) ∧
    (∃ (s : State) (d : Dom) (f : Nat) (n : Nat), 1 ≤ d ∧ d ≤ 11 ∧ s.domState d = 3 ∧ s.step? d = some 1 ∧ alook s.pwr.failing d = some
    f ∧ s.flag (Reg.pwrDomStatus (d - 1)) 4 = true ∧ alook s.pwr.tries d = some n ∧ n < 3) ∧
    (∃ (s : State) (d : Dom) (f : Nat), 1 ≤ d ∧ d ≤ 11 ∧ s.domState d = 3 ∧ s.step? d = some 1 ∧ alook s.pwr.failing d = some f ∧ s.flag
    (Reg.pwrDomStatus (d - 1)) 4 = true ∧ alook s.pwr.tries d = some 3) ∧
    (∃ (s : State) (d : Dom) (f : Nat), 1 ≤ d ∧ d ≤ 11 ∧ f < 256 ∧ s.season < 2) ∧
    (∃ (s : State) (d : Nat), 1 ≤ d ∧ d ≤ 11 ∧ bit s.pwr.retry d = true ∧ s.flag (Reg.pwrDomStatus (d - 1)) 4 = true) ∧
    (∃ (s : State) (d : Dom), 1 ≤ d ∧ d ≤ 11 ∧ s.domState d = 2) ∧
    (∃ (s : State) (d : Dom), s.domState d = 0) ∧
    (∃ (s : State) (d : Nat), 1 ≤ d ∧ d ≤ 11 ∧ bit s.pwr.lost d = true) :=
  ⟨⟨U [(Reg.pwrDomStatus 10, 0x10), (Reg.pwrDomVote 10, 1)], 11, by decide +kernel⟩,
   ⟨U [(Reg.pwrDomVote 10, 1)], 11, by decide +kernel⟩,
   ⟨{ U [(Reg.pwrDomStatus 10, 0x11)] with pwr := { steps := [(11, 2)] } }, 11, 2, by decide +kernel⟩,
   ⟨{ U [(Reg.pwrDomStatus 10, 0x11)] with pwr := { steps := [(11, 3)] } }, 11, by decide +kernel⟩,
   ⟨{ U [(Reg.pwrDomStatus 10, 3)] with pwr := { steps := [(11, 3)] } }, 11, 3, by decide +kernel⟩,
   ⟨{ U [(Reg.pwrDomStatus 10, 3)] with pwr := { steps := [(11, 1)] } }, 11, by decide +kernel⟩,
   ⟨11, 3, by decide +kernel⟩,
   ⟨{ U [(Reg.pwrDomStatus 10, 0x11)] with pwr := { steps := [(11, 3)] } }, 11, 3, by decide +kernel⟩,
   ⟨U [], 11, by decide +kernel⟩,
   ⟨{ U [(Reg.pwrDomStatus 10, 0x13)] with pwr := { steps := [(11, 1)], failing := [(11, 3)], tries := [(11, 2)] } }, 11, 3, 2,
    by decide +kernel⟩,
   ⟨{ U [(Reg.pwrDomStatus 10, 0x13)] with pwr := { steps := [(11, 1)], failing := [(11, 3)], tries := [(11, 3)] } }, 11, 3,
    by decide +kernel⟩,
   ⟨U [], 11, 255, by decide +kernel⟩,
   ⟨{ U [(Reg.pwrDomStatus 10, 0x10)] with pwr := { retry := 0x800 } }, 11, by decide +kernel⟩,
   ⟨U [], 11, by decide +kernel⟩,
   ⟨State.reset, 11, by decide +kernel⟩,
   ⟨{ U [] with pwr := { lost := 0x800 } }, 11, by decide +kernel⟩⟩

theorem witness_WorkingPointMoves :
    (∃ (s : State) (t : Nat), s.up domCob = true ∧ s.pwr.dvGoal = some (t, 0) ∧ s.pwr.vpt < t ∧ s.pwr.vpt = s.pwr.fpt ∧ t < 4) ∧
    (∃ (s : State) (t : Nat), s.up domCob = true ∧ s.pwr.dvGoal = some (t, 1) ∧ s.pwr.vpt = t ∧ s.pwr.fpt < t ∧ t < 4) ∧
    (∃ (s : State) (t : Nat), s.up domCob = true ∧ s.pwr.dvGoal = some (t, 0) ∧ t < s.pwr.vpt ∧ s.pwr.vpt = s.pwr.fpt ∧ s.pwr.vpt < 4) ∧
    (∃ (s : State) (t : Nat), s.up domCob = true ∧ s.pwr.dvGoal = some (t, 1) ∧ t < s.pwr.vpt ∧ s.pwr.fpt = t ∧ s.pwr.vpt < 4) ∧
    (∃ (s : State) (p : Port) (val : Word), s.reaches p Reg.pwrDvfsMan = true ∧ val.getLsbD 31 = true ∧ (s.pwr.vpt < val.toNat % 4 ∨
    val.toNat / 16 % 4 < s.pwr.fpt)) ∧
    (∃ (s : State) (p : Port) (val : Word), s.reaches p Reg.pwrDvfsMan = true ∧ val.getLsbD 31 = true ∧ s.up domCob = true ∧ val.toNat %
    4 ≤ s.pwr.vpt ∧ s.pwr.fpt ≤ val.toNat / 16 % 4) :=
  ⟨⟨{ up with pwr := { dvGoal := some (3, 0), vpt := 2, fpt := 2 } }, 3, by decide +kernel⟩,
   ⟨{ up with pwr := { dvGoal := some (3, 1), vpt := 3, fpt := 2 } }, 3, by decide +kernel⟩,
   ⟨{ up with pwr := { dvGoal := some (0, 0), vpt := 3, fpt := 3 } }, 0, by decide +kernel⟩,
   ⟨{ up with pwr := { dvGoal := some (0, 1), vpt := 3, fpt := 0 } }, 0, by decide +kernel⟩,
   ⟨U [], .pcie, 0x80000003, by decide +kernel⟩,
   ⟨{ up with pwr := { vpt := 3, fpt := 3 } }, .pcie, 0x80000033, by decide +kernel⟩⟩

theorem witness_PowerStates :
    (∃ (s : State) (p : Port) (val : Word), s.reaches p Reg.pwrState = true ∧ s.season < 2 ∧ val.toNat / 2 ^ 16 % 8 < 2) ∧
    (∃ (s : State) (p : Port) (val : Word) (r : Nat), s.reaches p Reg.pwrState = true ∧ s.season < 2 ∧ val.toNat / 2 ^ 16 % 8 = r ∧ 2 ≤
    r ∧ r ≤ 3) ∧
    (∃ (s : State) (p : Port) (val : Word) (r : Nat), s.reaches p Reg.pwrState = true ∧ s.season = 4 ∧ val.toNat / 2 ^ 16 % 8 = r ∧ r ≤
    3) ∧
    (∃ (s : State), s.season = 5 ∧ s.pwr.leaving = true ∧ s.settledDoms = true ∧ s.pwr.woken = false ∧ s.pwr.req = none ∧ s.pwr.into <
    4) ∧
    (∃ (s : State), s.boot = .running ∧ (s.season = 2 ∨ s.season = 3)) ∧
    (∃ (s : State), s.boot = .running ∧ (s.season = 2 ∨ s.season = 3)) ∧
    (∃ (s : State), s.boot = .running ∧ s.season = 5) ∧
    (∃ (s : State), (s.season < 2 ∨ s.season = 4)) ∧
    (∃ (t : Nat), t < 4) ∧
    (∃ (s : State), s.season = 4 ∧ s.springReady = true) ∧
    (∃ (s : State), s.season ≠ 4) ∧
    (∃ (s : State) (i : Nat), i < 16 ∧ s.up domCob = true ∧ s.flag (Reg.tlpThWakePc i) 31 = true) ∧
    (∃ (s : State) (i : Nat), i < 16 ∧ s.flag (Reg.tlpThWakePc i) 31 = false) :=
  ⟨⟨U [], .pcie, 0, by decide +kernel⟩,
   ⟨U [], .pcie, 0x30000, 3, by decide +kernel⟩,
   ⟨(U [(Reg.pwrState, 4)]), .pcie, 0x30000, 3, by decide +kernel⟩,
   ⟨{ put State.reset [(Reg.pwrState, 5)] with pwr := { leaving := true, into := 3 } }, by decide +kernel⟩,
   ⟨(U [(Reg.pwrState, 3)]), by decide +kernel⟩,
   ⟨(U [(Reg.pwrState, 2)]), by decide +kernel⟩,
   ⟨(U [(Reg.pwrState, 5)]), by decide +kernel⟩,
   ⟨U [], by decide +kernel⟩,
   ⟨3, by decide +kernel⟩,
   ⟨put State.reset [(Reg.pwrState, 4)], by decide +kernel⟩,
   ⟨U [], by decide +kernel⟩,
   ⟨(U [(Reg.tlpThWakePc 15, 0x80000000)]), 15, by decide +kernel⟩,
   ⟨U [], 15, by decide +kernel⟩⟩

theorem witness_RegisterAccesses :
    (∃ (s : State) (p : Port) (off : Nat), s.reaches p off = true ∧ windowOf off = none ∧ isRegOff off = true ∧ off % 4 = 0) ∧
    (∃ (s : State) (off : Nat) (whole : Bool), s.linkUp = true ∧ s.d3 = false ∧ s.host.waits = [] ∧ windowOf off = none ∧ (isRegOff off
    = false ∨ off % 4 ≠ 0 ∨ whole = false)) ∧
    (∃ (s : State) (off : Nat), s.linkUp = true ∧ s.d3 = false ∧ s.host.waits = [] ∧ windowOf off = none ∧ isRegOff off = true ∧ off % 4
    = 0 ∧ s.regUp off = false) ∧
    (∃ (s : State), s.linkUp = true ∧ s.d3 = true) ∧
    (∃ (s : State), s.linkUp = false) ∧
    (∃ (s : State), s.linkUp = true) ∧
    (∃ (s : State), s.linkUp = true) :=
  ⟨⟨U [], .pcie, 0, by decide +kernel⟩,
   ⟨U [], 0x120000, true, by decide +kernel⟩,
   ⟨put State.reset [(Reg.pwrDomStatus 10, 2), (Reg.hstLink, 0x10)], Reg.tlpCtl, by decide +kernel⟩,
   ⟨{ up with d3 := true }, by decide +kernel⟩,
   ⟨State.reset, by decide +kernel⟩,
   ⟨U [], by decide +kernel⟩,
   ⟨U [], by decide +kernel⟩⟩

theorem witness_FieldsAndCounters :
    (∃ (off : Nat) (d : RegDecl) (f : Field), declOf off = some d ∧ f ∈ d.fields) ∧
    (∃ (hi : Nat) (lo : Nat), lo ≤ hi ∧ hi < 32) ∧
    (∃ (s : State), s.up domHost = true) :=
  ⟨⟨Reg.tlpCtl, (declOf Reg.tlpCtl).get (by decide +kernel), ((declOf Reg.tlpCtl).get (by decide +kernel)).fields.head
    (by decide +kernel), by simp, by simp⟩,
   ⟨31, 0, by decide +kernel⟩,
   ⟨U [], by decide +kernel⟩⟩

theorem witness_StickyBitsAndMessages :
    (∃ (s : State) (p : Port) (off : Nat) (i : StickyInfo), s.reaches p off = true ∧ stickyAt off = some i ∧ windowOf off = none ∧
    isRegOff off = true ∧ off % 4 = 0 ∧ off ≠ Reg.tlpAirSticky ∧ off ≠ Reg.hstSticky) ∧
    (∃ (s : State) (off : Nat) (i : StickyInfo), stickyAt off = some i ∧ s.regUp off = true ∧ i.vec < 64 ∧ s.source i.vec = false ∧
    s.msixOn = true ∧ s.masked i.vec = false) ∧
    (∃ (s : State) (v : Nat), v < 64 ∧ s.reaches .pcie (Reg.hstMsixCtl v) = true ∧ s.msixOn = true ∧ s.masked v = true ∧ s.source v =
    true) ∧
    (∃ (s : State) (v : Nat), v < 64 ∧ s.reaches .pcie (Reg.hstMsixCtl v) = true ∧ s.source v = false) ∧
    (∃ (s : State), s.linkUp = true) ∧
    (∃ (s : State) (off : Nat) (i : StickyInfo) (b : Nat), stickyAt off = some i ∧ b < 32 ∧ s.flag off b = true ∧ s.flag i.en b = true) :=
  ⟨⟨U [], .pcie, Reg.tlpSticky, ⟨Reg.tlpAlertEn, 16, 17⟩, by decide +kernel⟩,
   ⟨{ U [(Reg.hstMsixCtl 17, 0)] with msixEn := true }, Reg.tlpSticky, ⟨Reg.tlpAlertEn, 16, 17⟩, by decide +kernel⟩,
   ⟨{ U [(Reg.tlpSticky, 0x10000), (Reg.tlpAlertEn, 0x10000), (Reg.hstMsixCtl 17, 1)] with msixEn := true }, 17, by decide +kernel⟩,
   ⟨U [], 63, by decide +kernel⟩,
   ⟨U [], by decide +kernel⟩,
   ⟨(U [(Reg.tlpSticky, 2 ^ 31), (Reg.tlpAlertEn, 2 ^ 31)]), Reg.tlpSticky, ⟨Reg.tlpAlertEn, 16, 17⟩, 31, by decide +kernel⟩⟩

theorem witness_ShadowedReads :
    (∃ (s : State) (off : Nat) (hi : Nat), s.linkUp = true ∧ s.d3 = false ∧ s.host.waits = [] ∧ windowOf off = none ∧ isRegOff off =
    true ∧ off % 4 = 0 ∧ s.regUp off = true ∧ highOf off = some hi ∧ cvResultOf off = none ∧ isBufOff off = false ∧ off ∉
    [Reg.mgtNvmData, Reg.secCertData, Reg.argRstData, Reg.linStData 0, Reg.linStData 1, Reg.mgtNvmStatus]) ∧
    (∃ (s : State) (off : Nat) (hi : Nat) (h : Word), s.linkUp = true ∧ s.d3 = false ∧ s.host.waits = [] ∧ windowOf hi = none ∧ isRegOff
    hi = true ∧ hi % 4 = 0 ∧ s.regUp hi = true ∧ highOf off = some hi ∧ highOf hi = none ∧ hi ≠ Reg.mgtNvmStatus ∧ alook s.shadow 0
    = some ⟨off, h, true⟩) ∧
    (∃ (s : State) (p : Port) (off : Nat), s.reaches p off = true ∧ windowOf off = none ∧ isRegOff off = true ∧ off % 4 = 0 ∧ off ≠
    Reg.mgtNvmStatus) ∧
    (∃ (s : State), s.linkUp = true ∧ s.d3 = false ∧ s.host.waits = [] ∧ s.up domTime = true) ∧
    (∃ (s : State) (p : Port), s.reaches p Reg.tmuTime = true) ∧
    (∃ (s : State) (p : Port) (off : Nat), s.reaches p off = true ∧ (cvResultOf off).isSome = true ∧ off % 4 = 0) ∧
    (∃ (who : Nat) (c : Nat), c < 8 ∧ who ≤ 1) :=
  ⟨⟨U [], Reg.tmuTime, Reg.tmuTime + 4, by decide +kernel⟩,
   ⟨{ up with shadow := [(0, ⟨Reg.tmuTime, 7, true⟩)] }, Reg.tmuTime, Reg.tmuTime + 4, 7, by decide +kernel⟩,
   ⟨U [], .pcie, 0, by decide +kernel⟩,
   ⟨U [], by decide +kernel⟩,
   ⟨U [], .pcie, by decide +kernel⟩,
   ⟨U [], .pcie, Reg.cvuCvResultLo 7, by decide +kernel⟩,
   ⟨1, 7, by decide +kernel⟩⟩

theorem witness_MemoryWindows :
    (∃ (s : State) (p : Port) (off : Nat) (data : List (Option Byte)) (base : Nat) (size : Nat) (d : Dom), s.reaches p 0 = true ∧ (p =
    .mgmt → s.up domMgt = true ∧ off % 4 = 0 ∧ data.length = 4 ∧ data.all (·.isSome) = true) ∧ windowOf off = some (base, size, d) ∧
    s.up d = true ∧ data.length ≤ 512 ∧ off + data.length ≤ base + size ∧ (∀ a, s.eccAt a = .good)) ∧
    (∃ (s : State) (off : Nat) (base : Nat) (size : Nat) (d : Dom), s.reaches .pcie 0 = true ∧ windowOf off = some (base, size, d) ∧
    s.up d = true) ∧
    (∃ (s : State) (off : Nat) (data : List (Option Byte)) (base : Nat) (size : Nat) (d : Dom), s.reaches .mgmt 0 = true ∧ s.up domMgt =
    true ∧ windowOf off = some (base, size, d) ∧ s.up d = true ∧ data.length = 4 ∧ data.all (·.isSome) = true) ∧
    (∃ (s : State) (p : Port) (off : Nat) (data : List (Option Byte)) (base : Nat) (size : Nat) (d : Dom), s.reaches p 0 = true ∧ (p =
    .mgmt → s.up domMgt = true ∧ data.length = 4 ∧ data.all (·.isSome) = true) ∧ windowOf off = some (base, size, d) ∧ s.up d =
    false) ∧
    (∃ (off : Nat), windowOf off = none) ∧
    (∃ (s : State) (a : Nat) (l : List (Option Byte)), l.length = 4 ∧ l.all (·.isNone) = false ∧ l.all (·.isSome) = false ∧ s.eccAt a =
    .double) ∧
    (∃ (s : State) (off : Nat) (base : Nat) (size : Nat) (d : Dom), s.linkUp = true ∧ s.d3 = false ∧ s.host.waits = [] ∧ windowOf off =
    some (base, size, d) ∧ off % 4 = 0 ∧ off + 4 ≤ base + size ∧ s.up d = true ∧ s.eccAt off = .good) ∧
    (∃ (s : State) (p : Port) (off : Nat) (base : Nat) (size : Nat) (d : Dom), s.reaches p 0 = true ∧ (p = .mgmt → s.up domMgt = true) ∧
    windowOf off = some (base, size, d) ∧ off % 4 = 0 ∧ off + 4 ≤ base + size ∧ s.up d = true) ∧
    (∃ (s : State) (off : Nat) (base : Nat) (size : Nat) (d : Dom) (n : Nat), s.linkUp = true ∧ s.d3 = false ∧ s.host.waits = [] ∧
    windowOf off = some (base, size, d) ∧ s.up d = false ∧ 0 < n) ∧
    (∃ (s : State) (off : Nat) (n : Nat), s.linkUp = true ∧ s.d3 = false ∧ s.host.waits = [] ∧ windowOf off = none ∧ isRegOff off = true
    ∧ 1 < n) :=
  ⟨⟨U [], .pcie, imBase + 0xFFFFE, [some 1, none], imBase, 0x100000, domCob, by decide +kernel, by decide +kernel, by decide +kernel,
    by decide +kernel, by decide +kernel, by decide +kernel, fun _ => rfl⟩,
   ⟨U [], imBase + 1, imBase, 0x100000, domCob, by decide +kernel⟩,
   ⟨U [], imBase + 1, List.replicate 4 (some 1), imBase, 0x100000, domCob, by decide +kernel⟩,
   ⟨put State.reset [(Reg.pwrDomStatus 10, 2), (Reg.hstLink, 0x10)], .pcie, imBase, [], imBase, 0x100000, domCob, by decide +kernel⟩,
   ⟨0, by decide +kernel⟩,
   ⟨{ up with ecc := [(imBase, .double)] }, imBase, [some 1, none, none, none], by decide +kernel⟩,
   ⟨U [], imBase + 0xFFFFC, imBase, 0x100000, domCob, by decide +kernel⟩,
   ⟨U [], .mgmt, imBase, imBase, 0x100000, domCob, by decide +kernel⟩,
   ⟨put State.reset [(Reg.pwrDomStatus 10, 2), (Reg.hstLink, 0x10)], imBase, imBase, 0x100000, domCob, 1, by decide +kernel⟩,
   ⟨U [], 0, 2, by decide +kernel⟩⟩

theorem witness_EccProtection :
    (∃ (s : State) (a : Nat), s.eccAt a = .good) ∧
    (∃ (s : State) (a : Nat) (b : Nat), s.eccAt a = .single b ∧ b < 32) ∧
    (∃ (s : State) (a : Nat), s.eccAt a = .double) ∧
    (∃ (s : State) (m : Nat) (w : Nat), s.flag Reg.glbScrubCtl 0 = true ∧ s.fld Reg.glbScrubCtl 15 4 ≠ 0 ∧ m < 5 ∧ (∃ size d, windowOf
    (eccBase m) = some (eccBase m, size, d) ∧ w < size / 4 ∧ s.up d = true)) ∧
    (∃ (s : State) (m : Nat) (w : Nat), s.flag Reg.glbScrubCtl 0 = true ∧ s.fld Reg.glbScrubCtl 15 4 ≠ 0 ∧ 5 ≤ m ∧ m < 9 ∧ w < 2 ^ 18 ∧
    s.up (domTile (m - 5)) = true) ∧
    (∃ (s : State), s.flag Reg.glbScrubCtl 0 = false) :=
  ⟨⟨U [], 0, by decide +kernel⟩,
   ⟨{ up with ecc := [(imBase, .single 31)] }, imBase, 31, by decide +kernel⟩,
   ⟨{ up with ecc := [(imBase, .double)] }, imBase, by decide +kernel⟩,
   ⟨U [(Reg.glbScrubCtl, 0x11)], 4, 0x7FFFFF, by decide +kernel, by decide +kernel, by decide, ⟨0x2000000, domCob, by decide +kernel⟩⟩,
   ⟨U [], 8, 1, by decide +kernel⟩,
   ⟨(U [(Reg.glbScrubCtl, 0)]), by decide +kernel⟩⟩

theorem witness_ManagementPort :
    (∃ (s : State) (addr : Byte), (s.mgmtAnswers = false ∨ addr.toNat ≠ 0x80 + 2 * (s.pins.addr % 32))) ∧
    (∃ (s : State) (addr : Byte) (body : List Byte), s.answers addr = true ∧ body.length = 8) ∧
    (∃ (s : State) (addr : Byte) (bytes : List Byte), s.answers addr = true ∧ (bytes.head? ≠ some 0x57 ∨ bytes.length ≠ 9)) ∧
    (∃ (s : State) (off : Nat), alwaysOn off = false ∧ s.up domMgt = false) ∧
    (∃ (s : State) (addr : Byte) (body : List Byte), s.answers addr = true ∧ body.length = 4 ∧ (s.arrived.holdsRead (frameOff body) &&
    s.arrived.up domMgt) = false) ∧
    (∃ (s : State) (addr : Byte) (body : List Byte), s.answers addr = true ∧ body.length = 4 ∧ (s.arrived.holdsRead (frameOff body) &&
    s.arrived.up domMgt) = true) ∧
    (∃ (s : State) (addr : Byte), s.answers addr = true) ∧
    (∃ (s : State) (addr : Byte) (bytes : List Byte), s.answers addr = true ∧ bytes ≠ [0x53] ∧ (bytes.head? ≠ some 0x52 ∨ bytes.length ≠
    5)) ∧
    (∃ (s : State), s.mgmtAnswers = true) ∧
    (∃ (s : State) (addr : Byte) (body : List Byte), s.answers addr = true ∧ body.length = 4) ∧
    (∃ (s : State) (addr : Byte) (body : List Byte), s.answers addr = true ∧ body.length = 8) :=
  ⟨⟨U [], 0, by decide +kernel⟩,
   ⟨U [], 0x80, List.replicate 8 0, by decide +kernel⟩,
   ⟨U [], 0x80, [0x57], by decide +kernel⟩,
   ⟨State.reset, Reg.tlpCtl, by decide +kernel⟩,
   ⟨U [], 0x80, List.replicate 4 0, by decide +kernel⟩,
   ⟨{ U [] with host := { nvm := some (0, 0, 0) } }, 0x80, wordBytes (BitVec.ofNat 32 Reg.mgtNvmStatus), by decide +kernel⟩,
   ⟨U [], 0x80, by decide +kernel⟩,
   ⟨U [], 0x80, [0x52], by decide +kernel⟩,
   ⟨U [], by decide +kernel⟩,
   ⟨U [], 0x80, List.replicate 4 0, by decide +kernel⟩,
   ⟨U [], 0x80, List.replicate 8 0, by decide +kernel⟩⟩

theorem witness_NonVolatileAccess :
    (∃ (s : State) (p : Port), s.reaches p Reg.mgtNvmData = true) ∧
    (∃ (s : State), s.up (domTile (s.fld Reg.mgtNvmAddr 19 18)) = true ∧ s.nvmEccAt (s.fld Reg.mgtNvmAddr 19 18) (s.fld Reg.mgtNvmAddr
    17 0) = .good) ∧
    (∃ (s : State) (p : Port), s.reaches p Reg.mgtNvmData = true) ∧
    (∃ (s : State) (p : Port) (t : Nat) (w : Nat), s.reaches p Reg.mgtNvmData = true ∧ s.fld Reg.mgtNvmAddr 19 18 = t ∧ s.fld
    Reg.mgtNvmAddr 17 0 = w ∧ s.up (domTile t) = true ∧ (w < 0x30000 ∨ s.otpLock 2 = false) ∧ s.storing t = false ∧ s.host.nvm =
    none) ∧
    (∃ (s : State) (t : Nat) (w : Nat) (v : Word), s.host.nvm = some (t, w, v) ∧ s.host.later = false ∧ s.host.waits = [] ∧ s.jrn.wait =
    [] ∧ t < 4 ∧ w < 2 ^ 18) ∧
    (∃ (s : State) (t : Nat) (w : Nat) (v : Word), s.host.nvm = some (t, w, v) ∧ s.host.later = false ∧ s.host.waits = [] ∧ s.jrn.wait =
    [] ∧ t < 4 ∧ w < 2 ^ 18) ∧
    (∃ (s : State), s.host.nvm = none) ∧
    (∃ (s : State), s.linkUp = true ∧ s.d3 = false ∧ s.host.waits = [] ∧ s.up domMgt = true ∧ s.host.nvm.isSome = true) ∧
    (∃ (s : State) (p : Port), s.reaches p Reg.mgtNvmStatus = true ∧ s.host.nvm = none) ∧
    (∃ (s : State) (p : Port), s.reaches p Reg.secCertData = true) ∧
    (∃ (s : State) (p : Port), s.reaches p Reg.argRstData = true) ∧
    (∃ (s : State) (p : Port) (w : Nat), w < 2 ∧ s.reaches p (Reg.linStData w) = true) ∧
    (∃ (s : State) (p : Port) (val : Word), s.reaches p Reg.mgtQspiCmd = true ∧ s.host.qspi = none ∧ s.bootOwnsQspi = false ∧ val.toNat
    / 256 % 512 ≤ 256) ∧
    (∃ (s : State) (p : Port) (val : Word), s.reaches p Reg.mgtQspiCmd = true ∧ (s.host.qspi.isSome = true ∨ 256 < val.toNat / 256 %
    512)) ∧
    (∃ (s : State) (len : Nat) (data : List Byte), s.host.qspi = some (len, false) ∧ data.length = len ∧ len ≤ 256) ∧
    (∃ (s : State) (len : Nat), s.host.qspi = some (len, true)) :=
  ⟨⟨U [], .pcie, by decide +kernel⟩,
   ⟨U [], by decide +kernel⟩,
   ⟨U [], .pcie, by decide +kernel⟩,
   ⟨U [], .pcie, 0, 0, by decide +kernel⟩,
   ⟨{ up with host := { nvm := some (3, 0x3FFFF, 7) } }, 3, 0x3FFFF, 7, by decide +kernel⟩,
   ⟨{ up with host := { nvm := some (3, 0x3FFFF, 7) } }, 3, 0x3FFFF, 7, by decide +kernel⟩,
   ⟨U [], by decide +kernel⟩,
   ⟨{ up with host := { nvm := some (3, 0x3FFFF, 7) } }, by decide +kernel⟩,
   ⟨U [], .pcie, by decide +kernel⟩,
   ⟨U [], .pcie, by decide +kernel⟩,
   ⟨U [], .pcie, by decide +kernel⟩,
   ⟨U [], .pcie, 1, by decide +kernel⟩,
   ⟨U [], .pcie, 0, by decide +kernel⟩,
   ⟨U [], .pcie, 0x10100, by decide +kernel⟩,
   ⟨{ up with host := { qspi := some (256, false) } }, 256, List.replicate 256 0, by decide +kernel⟩,
   ⟨{ up with host := { qspi := some (256, true) } }, 256, by decide +kernel⟩⟩

theorem witness_ClocksAndLinks :
    (∃ (s : State) (q : Nat), s.flag Reg.clkRefStatus 31 = false ∧ s.flag Reg.clkRefCtl 0 = true ∧ q < 3) ∧
    (∃ (s : State) (q : Nat), s.flag Reg.clkRefStatus 31 = false ∧ s.flag Reg.clkRefCtl 0 = false ∧ q ≠ s.fld Reg.clkRefCtl 2 1) ∧
    (∃ (s : State), s.flag Reg.clkRefStatus 31 = true ∧ (∀ n, n < 4 → s.up (domTile n) = false)) ∧
    (∃ (s : State), s.up domHost = false) ∧
    (∃ (s : State), s.flag Reg.clkRefStatus 31 = true ∧ s.up domTime = true) ∧
    (∃ (s : State), s.up domCob = true) ∧
    (∃ (s : State) (q : Nat), s.flag Reg.clkRefStatus 31 = true ∧ q ∈ [2, 3, 4] ∧ s.up (if q = 4 then domFh else domRing) = true) ∧
    (∃ (i : Nat), i < 22) ∧
    (∃ (b : Nat) (l : Nat), b < 3 ∧ l ∈ railsOfBoundary b) ∧
    (∃ (s : State) (w : Nat) (v : Nat), s.up domHost = true ∧ w ∈ [1, 2, 4] ∧ 1 ≤ v ∧ v ≤ 5) ∧
    (∃ (s : State), s.up domHost = true) ∧
    (∃ (s : State), s.up domHost = true) :=
  ⟨⟨U [], 2, by decide +kernel⟩,
   ⟨(U [(Reg.clkRefCtl, 0)]), 2, by decide +kernel⟩,
   ⟨put State.reset [(Reg.clkRefStatus, 0x80000000)], by decide +kernel⟩,
   ⟨State.reset, by decide +kernel⟩,
   ⟨(U [(Reg.clkRefStatus, 0x80000000)]), by decide +kernel⟩,
   ⟨U [], by decide +kernel⟩,
   ⟨(U [(Reg.clkRefStatus, 0x80000000)]), 4, by decide +kernel⟩,
   ⟨21, by decide +kernel⟩,
   ⟨2, 1, by decide +kernel⟩,
   ⟨U [], 4, 5, by decide +kernel⟩,
   ⟨U [], by decide +kernel⟩,
   ⟨U [], by decide +kernel⟩⟩

theorem witness_ResetsAndRelease :
    (∃ (s : State) (c : Nat) (e : Instr), (e = .powerOnReset ∧ c = 1 ∨ e = .pinReset ∧ c = 2) ∧ s.jrn.run = [] ∧ s.sec.prog = none) ∧
    (∃ (s : State) (c : Nat) (e : Instr) (w : Nat) (v : Word), (e = .powerOnReset ∧ c = 1 ∨ e = .pinReset ∧ c = 2) ∧ s.jrn.run = [] ∧
    s.sec.prog = some (w, v) ∧ w < 2048) ∧
    (∃ (s : State), s.boot = .held) ∧
    (∃ (s : State), s.boot ≠ .held) ∧
    (∃ (s : State), (s.boot = .released ∨ s.boot = .sensing)) ∧
    (∃ (s : State), s.boot = .running) ∧
    (∃ (s : State) (p : Port) (val : Word), s.reaches p Reg.glbResetCtl = true ∧ (val.getLsbD 31 = false ∨ val.toNat % 65536 ≠ 0xC0DE)) ∧
    (∃ (s : State) (p : Port) (val : Word), s.reaches p Reg.glbResetCtl = true ∧ val.getLsbD 31 = true ∧ val.toNat % 65536 = 0xC0DE ∧
    s.sec.prog = none) ∧
    (∃ (s : State) (p : Port) (val : Word), s.reaches p Reg.glbResetCtl = true ∧ val.getLsbD 31 = true ∧ val.toNat % 65536 = 0xC0DE ∧
    s.sec.prog.isSome = true) :=
  ⟨⟨U [], 2, .pinReset, by decide +kernel⟩,
   ⟨{ U [] with sec := { prog := some (2047, 1) } }, 2, .pinReset, 2047, 1, by decide +kernel⟩,
   ⟨State.reset, by decide +kernel⟩,
   ⟨U [], by decide +kernel⟩,
   ⟨{ State.reset with boot := .sensing }, by decide +kernel⟩,
   ⟨U [], by decide +kernel⟩,
   ⟨U [], .pcie, 0, by decide +kernel⟩,
   ⟨U [], .pcie, 0x8000C0DE, by decide +kernel⟩,
   ⟨{ up with sec := { prog := some (0x6FF, 7) } }, .pcie, 0x8000C0DE, by decide +kernel⟩⟩

theorem witness_SecurityJobs :
    (∃ (s : State) (p : Port), s.reaches p Reg.secCtl = true ∧ s.secBusy = false ∧ s.otpLock 5 = false) ∧
    (∃ (s : State) (p : Port), s.reaches p Reg.secCtl = true ∧ s.secBusy = true) ∧
    (∃ (s : State) (p : Port), s.reaches p Reg.secCtl = true ∧ s.secBusy = false ∧ s.flag Reg.secStatus 30 = true) ∧
    (∃ (s : State) (p : Port), s.reaches p Reg.secCtl = true ∧ s.secBusy = false ∧ s.sec.ok = true) ∧
    (∃ (s : State) (p : Port), s.reaches p Reg.secCtl = true ∧ s.secBusy = false) ∧
    (∃ (s : State) (sg : Bool), s.up domCob = true ∧ s.sec.job = 1 ∧ s.verifyCode sg = 0) ∧
    (∃ (s : State) (sg : Bool), s.up domCob = true ∧ s.sec.job = 1 ∧ s.verifyCode sg ≠ 0) ∧
    (∃ (s : State) (data : List Byte), s.up domCob = true ∧ s.bootState = 1 ∧ s.secBusy = false ∧ (s.sec.source = 1 ∨ s.sec.source = 2)
    ∧ data.length < 512) ∧
    (∃ (s : State), s.up domCob = true ∧ s.sec.job = 2) ∧
    (∃ (s : State), s.up domCob = true ∧ s.boot = .running ∧ (∃ w, w < 8 ∧ s.otpShadow w ≠ 0)) ∧
    (∃ (s : State), s.up domCob = true ∧ s.boot = .running ∧ (∀ w, w < 8 → s.otpShadow w = 0)) ∧
    (∃ (s : State) (w : Nat) (v : Word), s.sec.prog = some (w, v) ∧ s.sec.resetDue = none) ∧
    (∃ (s : State) (w : Nat) (v : Word), s.sec.prog = some (w, v) ∧ s.sec.resetDue = none ∧ s.up domCob = false) ∧
    (∃ (s : State), s.sec.prog = none) ∧
    (∃ (s : State) (p : Port) (w : Nat), s.reaches p Reg.secOtpCtl = true ∧ s.fld Reg.secOtpAddr 10 0 = w ∧ s.otpAllowed w = true ∧
    s.sec.prog = none) ∧
    (∃ (s : State) (p : Port), s.reaches p Reg.secOtpCtl = true ∧ (s.otpAllowed (s.fld Reg.secOtpAddr 10 0) = false ∨ s.sec.prog.isSome
    = true)) ∧
    (∃ (s : State) (p : Port) (val : Word), s.reaches p Reg.secOtpCtl = true ∧ val.toNat % 65536 ≠ 0x4F54) :=
  ⟨⟨U [], .pcie, by decide +kernel⟩,
   ⟨(U [(Reg.secStatus, 0x80000000)]), .pcie, by decide +kernel⟩,
   ⟨(U [(Reg.secStatus, 0x40000000)]), .pcie, by decide +kernel⟩,
   ⟨{ up with sec := { ok := true } }, .pcie, by decide +kernel⟩,
   ⟨U [], .pcie, by decide +kernel⟩,
   ⟨image, true, by decide +kernel⟩,
   ⟨{ up with sec := { job := 1 } }, true, by decide +kernel⟩,
   ⟨{ U [(Reg.secStatus, 0x01000000)] with sec := { source := 2 } }, List.replicate 511 0, by decide +kernel⟩,
   ⟨{ up with sec := { job := 2 } }, by decide +kernel⟩,
   ⟨{ up with nvm := [(otpShadowKey 7, 1)] }, by decide +kernel, by decide +kernel, ⟨7, by decide +kernel⟩⟩,
   ⟨U [], by decide +kernel⟩,
   ⟨{ up with sec := { prog := some (0x6FF, 0x80000000) } }, 0x6FF, 0x80000000, by decide +kernel⟩,
   ⟨{ State.reset with sec := { prog := some (0x6FF, 0x80000000) } }, 0x6FF, 0x80000000, by decide +kernel⟩,
   ⟨U [], by decide +kernel⟩,
   ⟨U [], .pcie, 0, by decide +kernel⟩,
   ⟨(U [(Reg.secOtpAddr, 0x700)]), .pcie, by decide +kernel⟩,
   ⟨U [], .pcie, 0, by decide +kernel⟩⟩

theorem witness_AirFrame :
    (∃ (s : State), s.up domCob = true ∧ s.aligned = true ∧ 10000000 ≤ (s.tns - s.reg Reg.tlpAirFrameTns).toNat) ∧
    (∃ (s : State), (s.tns - s.reg Reg.tlpAirFrameTns).toNat < 10000000 ∧ (s.season ≠ 2 ∨ s.up domRing = false)) ∧
    (∃ (s : State), s.up domCob = false ∧ s.season = 2 ∧ s.up domRing = true) ∧
    (∃ (s : State) (c : Nat), c < 2 ∧ s.up domCob = true ∧ s.carOn c = true ∧ s.up domRing = false ∧ s.silentAt (s.frameStart + symStart
    (s.mu c) (14 * s.slotNow c)) = false) ∧
    (∃ (s : State) (c : Nat), c < 2 ∧ s.up domCob = true ∧ s.carOn c = true ∧ s.silentAt (s.frameStart + symStart (s.mu c) (14 *
    s.slotNow c)) = true) ∧
    (∃ (s : State) (c : Nat), s.carOn c = false) ∧
    (∃ (s : State) (c : Nat), c < 2 ∧ s.up domCob = true ∧ s.carOn c = true) ∧
    (∃ (m : PathMeas), m.n < 128) ∧
    (∃ (s : State) (p : Port) (val : Word), s.reaches p Reg.tlpAirCtl = true ∧ val.getLsbD 0 = true ∧ future (s.reg Reg.tlpAirNextTns)
    s.tns = true) ∧
    (∃ (s : State) (p : Port) (val : Word), s.reaches p Reg.tlpAirCtl = true ∧ val.getLsbD 0 = true ∧ future (s.reg Reg.tlpAirNextTns)
    s.tns = false) ∧
    (∃ (s : State) (t : Word) (afc : Word), s.up domCob = true ∧ s.air.align = some (t, afc) ∧ future t s.tns = false ∧ (∀ n, n < 128 →
    s.ps n ∉ [psTx, psRx, psFdx, psCal])) ∧
    (∃ (s : State) (t : Word) (afc : Word) (n : Nat), s.up domCob = true ∧ s.air.align = some (t, afc) ∧ future t s.tns = false ∧ n <
    128 ∧ s.ps n ∈ [psTx, psRx, psFdx, psCal]) ∧
    (∃ (s : State) (p : Port) (c : Nat) (val : Word), c < 2 ∧ s.reaches p (Reg.tlpAirCfg c) = true ∧ periodOk ((s.writeFields
    (Reg.tlpAirCfg c) val 0xFFFFFFFF).fld (Reg.tlpAirCfg c) 6 0) ((s.writeFields (Reg.tlpAirCfg c) val 0xFFFFFFFF).fld
    (Reg.tlpAirCfg c) 25 24) = true) ∧
    (∃ (s : State) (p : Port) (c : Nat) (val : Word), c < 2 ∧ s.reaches p (Reg.tlpAirCfg c) = true ∧ periodOk ((s.writeFields
    (Reg.tlpAirCfg c) val 0xFFFFFFFF).fld (Reg.tlpAirCfg c) 6 0) ((s.writeFields (Reg.tlpAirCfg c) val 0xFFFFFFFF).fld
    (Reg.tlpAirCfg c) 25 24) = false) ∧
    (∃ (s : State), s.up domCrm = true ∧ s.gridNow ≠ s.smp.last) ∧
    (∃ (s : State), (s.up domCrm = false ∨ s.gridNow = s.smp.last)) :=
  ⟨⟨{ U [(Reg.tlpAirCtl, 2)] with force := [(Reg.tlpAirCfg 0, 0x80FF0001), (Reg.tlpAirCfg 1, 0x80FF0001)], time := { t := 2 ^ 53 * 10000000 } },
    by decide +kernel⟩,
   ⟨U [], by decide +kernel⟩,
   ⟨put State.reset [(Reg.pwrDomStatus (domRing - 1), 2), (Reg.pwrState, 2)], by decide +kernel⟩,
   ⟨{ U [(Reg.tlpAirCtl, 2), (Reg.pwrDomStatus 8, 0)] with force := [(Reg.tlpAirCfg 0, 0x80FF0001), (Reg.tlpAirCfg 1, 0x80FF0001)] },
    1, by decide +kernel⟩,
   ⟨{ U [(Reg.tlpAirCtl, 2)] with force := [(Reg.tlpAirCfg 0, 0x80FF0001), (Reg.tlpAirCfg 1, 0x80FF0001)], air := { silent := some (2 ^ 100, true) } },
    1, by decide +kernel⟩,
   ⟨U [], 0, by decide +kernel⟩,
   ⟨{ U [(Reg.tlpAirCtl, 2)] with force := [(Reg.tlpAirCfg 0, 0x80FF0001), (Reg.tlpAirCfg 1, 0x80FF0001)] }, 1, by decide +kernel⟩,
   ⟨{ n := 127 }, by decide +kernel⟩,
   ⟨(U [(Reg.tlpAirNextTns, 1)]), .pcie, 1, by decide +kernel⟩,
   ⟨U [], .pcie, 1, by decide +kernel⟩,
   ⟨{ up with air := { align := some (0, 5) } }, 0, 5, by decide +kernel⟩,
   ⟨{ U [(Reg.tlpPs 127, psTx)] with air := { align := some (0, 5) } }, 0, 5, 127, by decide +kernel⟩,
   ⟨U [], .pcie, 1, 0x02000050, by decide +kernel⟩,
   ⟨U [], .pcie, 1, 0, by decide +kernel⟩,
   ⟨{ U [] with smp := { last := 1 } }, by decide +kernel⟩,
   ⟨U [], by decide +kernel⟩⟩

theorem witness_PairTransitions :
    (∃ (s : State) (n : Nat) (h : Nat) (a : Nat) (mid : Bool), n < 128 ∧ h < 8 ∧ alook s.air.pairs n = some ⟨[h], a, mid⟩ ∧ s.run? a =
    none ∧ s.cal.runs = [] ∧ (timedRow (s.ps n) h = true → mid = true) ∧ (s.ps n ≠ psStby ∨ h ≠ psWarm ∨ (s.loOk (groupOf n) = true
    ∧ s.powered n = true))) ∧
    (∃ (s : State) (n : Nat) (p : Pair) (l : List Nat), n < 128 ∧ alook s.air.pairs n = some p ∧ p.chain = psWarm :: l ∧ s.ps n = psStby
    ∧ (s.loOk (groupOf n) = false ∨ p.mid = false)) ∧
    (∃ (s : State) (n : Nat) (p : Pair) (l : List Nat), n < 128 ∧ alook s.air.pairs n = some p ∧ p.chain = psStby :: l ∧ s.ps n = psWarm
    ∧ p.mid = false) ∧
    (∃ (st : Nat) (tgt : Nat), st < 8 ∧ tgt < 8 ∧ tgt ≠ psFault ∧ st ≠ tgt) ∧
    (∃ (s : State) (n : Nat) (w : PsWait), s.air.waits.find? (fun w => w.pairs.contains n) = some w ∧ (∀ m ∈ w.pairs, s.moving m = false
    ∧ s.deferredPair m = false)) ∧
    (∃ (s : State) (tgt : Nat) (pairs : List Nat), (pairs.findSome? (fun m => s.psRefusal m tgt)) = none ∧ (∀ m ∈ pairs, s.ps m = tgt)) ∧
    (∃ (s : State) (n : Nat) (p : Pair) (l : List Nat), alook s.air.pairs n = some p ∧ p.chain = psWarm :: l ∧ s.ps n = psStby) ∧
    (∃ (s : State) (n : Nat) (p : Pair) (l : List Nat), n < 128 ∧ alook s.air.pairs n = some p ∧ p.chain = psStby :: l ∧ s.ps n = psWarm
    ∧ (∀ m, m ∈ pathsOf (groupOf n) → m ≠ n → s.drained m = true ∨ (aboveStby (s.ps m) = false ∧ s.rising m = false))) ∧
    (∃ (s : State) (n : Nat) (p : Pair) (l : List Nat) (m : Nat), n < 128 ∧ alook s.air.pairs n = some p ∧ p.chain = psStby :: l ∧ s.ps
    n = psWarm ∧ m ∈ pathsOf (groupOf n) ∧ m ≠ n ∧ s.drained m = false ∧ (aboveStby (s.ps m) = true ∨ s.rising m = true)) ∧
    (∃ (s : State) (n : Nat) (r : Run) (g : Gate), s.air.runs.find? (fun r => r.gate.isSome && r.need.contains n) = some r ∧ r.gate =
    some g ∧ (groupsIn r.named).all s.loOk = true ∧ (s.nowU : Int) ≤ g.limit ∧ (groupsIn r.named).any s.dutyMuted = false) ∧
    (∃ (s : State) (n : Nat) (r : Run) (g : Gate), s.air.runs.find? (fun r => r.gate.isSome && r.need.contains n) = some r ∧ r.gate =
    some g ∧ (groupsIn r.named).all s.loOk = false ∧ g.limit ≤ (s.nowU : Int)) ∧
    (∃ (s : State) (gs : List Nat) (k : Nat), k ∈ gs ∧ k < 8 ∧ s.loOk k = false ∧ s.up (domTile 0) = true) ∧
    (∃ (s : State) (k : Nat), k < 8 ∧ s.up domCob = true ∧ 10 * s.fld (Reg.tlpDuty k) 25 16 ≤ s.fld (Reg.tlpDuty k) 15 0) ∧
    (∃ (s : State) (k : Nat), s.fld (Reg.tlpDuty k) 15 0 < 10 * s.fld (Reg.tlpDuty k) 25 16) :=
  ⟨⟨{ U [] with air := { pairs := [(127, { chain := [psTx], act := 9, mid := true })] } }, 127, psTx, 9, true, by decide +kernel⟩,
   ⟨{ U [(Reg.tlpPs 127, psStby)] with air := { pairs := [(127, { chain := [psWarm], act := 9, mid := false })] } }, 127,
    { chain := [psWarm], act := 9, mid := false }, [], by decide +kernel⟩,
   ⟨{ U [(Reg.tlpPs 127, psWarm)] with air := { pairs := [(127, { chain := [psStby], act := 9, mid := false })] } }, 127,
    { chain := [psStby], act := 9, mid := false }, [], by decide +kernel⟩,
   ⟨7, 6, by decide +kernel⟩,
   ⟨{ U [(Reg.bdaStatus, 0)] with air := { waits := [⟨1, psTx, [127], .device, 0⟩] }, cal := { loaded := 15 } }, 127, ⟨1, psTx, [127],
    .device, 0⟩, by decide +kernel⟩,
   ⟨U [], 0, [], by decide +kernel⟩,
   ⟨{ U [(Reg.tlpPs 127, psStby)] with air := { pairs := [(127, { chain := [psWarm, psTx], act := 9, mid := false })] } }, 127,
    { chain := [psWarm, psTx], act := 9, mid := false }, [psTx], by decide +kernel⟩,
   ⟨{ U [(Reg.tlpPs 127, psWarm)] with air := { pairs := [(127, { chain := [psStby], act := 9, mid := false })] } }, 127,
    { chain := [psStby], act := 9, mid := false }, [], by decide +kernel⟩,
   ⟨{ U [(Reg.tlpPs 127, psWarm), (Reg.tlpPs 126, psTx)] with air := { pairs := [(127, { chain := [psStby], act := 9, mid := false })] } },
    127, { chain := [psStby], act := 9, mid := false }, [], 126, by decide +kernel⟩,
   ⟨{ U [(Reg.losSStatus 7, 0x44000000), (Reg.losCcsStatus 3, 0x80000000)] with air := { runs := [⟨1, .device, 0, false, true, [127], [127], false, some ⟨0, 0, 0, 0⟩, [127]⟩] } },
    127, ⟨1, .device, 0, false, true, [127], [127], false, some ⟨0, 0, 0, 0⟩, [127]⟩, ⟨0, 0, 0, 0⟩, by decide +kernel⟩,
   ⟨{ up with air := { runs := [⟨1, .device, 0, false, true, [127], [127], false, some ⟨0, 0, 0, 0⟩, [127]⟩] } }, 127, ⟨1, .device, 0,
    false, true, [127], [127], false, some ⟨0, 0, 0, 0⟩, [127]⟩, ⟨0, 0, 0, 0⟩, by decide +kernel⟩,
   ⟨U [], [7], 7, by decide +kernel⟩,
   ⟨U [], 7, by decide +kernel⟩,
   ⟨(U [(Reg.tlpDuty 7, 0x10009)]), 7, by decide +kernel⟩⟩

theorem witness_AlarmsAndThermal :
    (∃ (s : State) (i : Nat), i < 16 ∧ s.up domCob = true) ∧
    (∃ (k : Nat), k < 8) ∧
    (∃ (s : State) (l : List Nat) (cause : Nat) (n : Nat), n ∈ l ∧ (∀ m ∈ l, m < 128) ∧ cause < 16 ∧ s.cal.runs = []) ∧
    (∃ (s : State) (l : List Nat) (n : Nat), n ∉ l ∧ n < 128 ∧ (∀ m ∈ l, m < 128) ∧ s.cal.runs = []) ∧
    (∃ (i : Nat), i < 16) ∧
    (∃ (s : State) (k : Nat), k < 8 ∧ s.up domMgt = true) ∧
    (∃ (s : State) (k : Nat), bit s.pins.drain (2 * k) = false) ∧
    (∃ (s : State) (k : Nat), k < 8 ∧ bit s.pins.drain (2 * k) = true) ∧
    (∃ (s : State) (k : Nat), k < 8 ∧ s.up domMgt = true) ∧
    (∃ (r : Nat), r < 2) ∧
    (∃ (r : Nat), r < 2) ∧
    (∃ (s : State) (n : Nat), n < 128 ∧ s.up (domTile (tileOf n)) = true ∧ s.flag (Reg.txaStatus n) 4 = true) ∧
    (∃ (s : State) (n : Nat), n < 128 ∧ s.up (domTile (tileOf n)) = true ∧ s.flag (Reg.rxaStatus n) 4 = true) ∧
    (∃ (s : State) (n : Nat), s.flag (Reg.txaStatus n) 4 = false) ∧
    (∃ (s : State) (i : Tap), s.tapAccepts i = true) ∧
    (∃ (s : State) (i : Tap), s.tapAccepts i = false) ∧
    (∃ (raw : List Int), raw.length = 64) ∧
    (∃ (i : Nat), i < 64) ∧
    (∃ (s : State) (i : Nat), i < 64 ∧ s.thm.excl.contains i = false ∧ s.fld (Reg.thmTs i) 27 24 < 7) ∧
    (∃ (j : Nat), j < 9) ∧
    (∃ (s : State), s.flag Reg.thmStatus 31 = true ∧ ((List.range 9).map (fun j => sgn 16 (s.fld (Reg.thmRegion j) 15 0))).all (fun t =>
    t < (s.thrOf Reg.thmThrShut).2) = false) ∧
    (∃ (s : State), s.flag Reg.thmStatus 31 = false ∧ (∃ j, j < 9 ∧ (s.thrOf Reg.thmThrShut).1 ≤ sgn 16 (s.fld (Reg.thmRegion j) 15 0))) ∧
    (∃ (off : Nat), off ∈ [Reg.thmThrWarn, Reg.thmThrThrot, Reg.thmThrShut]) :=
  ⟨⟨U [], 15, by decide +kernel⟩,
   ⟨7, by decide +kernel⟩,
   ⟨U [], [127], 15, 127, by decide +kernel⟩,
   ⟨U [], [], 127, by decide +kernel⟩,
   ⟨15, by decide +kernel⟩,
   ⟨U [], 7, by decide +kernel⟩,
   ⟨U [], 0, by decide +kernel⟩,
   ⟨{ up with pins := { drain := 0x4000 } }, 7, by decide +kernel⟩,
   ⟨U [], 7, by decide +kernel⟩,
   ⟨1, by decide +kernel⟩,
   ⟨1, by decide +kernel⟩,
   ⟨(U [(Reg.txaStatus 127, 16)]), 127, by decide +kernel⟩,
   ⟨(U [(Reg.rxaStatus 127, 16)]), 127, by decide +kernel⟩,
   ⟨U [], 0, by decide +kernel⟩,
   ⟨U [], .bypass, by decide +kernel⟩,
   ⟨U [], .extest, by decide +kernel⟩,
   ⟨List.replicate 64 0, by decide +kernel⟩,
   ⟨63, by decide +kernel⟩,
   ⟨U [], 63, by decide +kernel⟩,
   ⟨8, by decide +kernel⟩,
   ⟨(U [(Reg.thmStatus, 0x80000000), (Reg.thmRegion 8, 0x7FFF)]), by decide +kernel⟩,
   ⟨U [(Reg.thmRegion 8, 0x7FFF)], by decide +kernel, ⟨8, by decide +kernel⟩⟩,
   ⟨Reg.thmThrShut, by decide +kernel⟩⟩

theorem witness_WeightSelections :
    (∃ (s : State) (c : Nat), c < 2 ∧ s.up domCrm = true ∧ s.carRuns c = true ∧ s.atCommit c = true ∧ s.typeAt c (s.commitStart c) % 2 =
    1) ∧
    (∃ (s : State) (c : Nat), (s.carRuns c = false ∨ s.atCommit c = false ∨ s.typeAt c (s.commitStart c) % 2 = 0)) ∧
    (∃ (s : State) (p : Port) (c : Nat) (l : Nat), c < 2 ∧ l < 32 ∧ s.reaches p (Reg.bmeWdesc 1 c l) = true) ∧
    (∃ (s : State) (p : Port) (c : Nat) (l : Nat), c < 2 ∧ l < 32 ∧ s.reaches p (Reg.bmeWdesc 0 c l) = true ∧ alook s.bme.commits c =
    none) ∧
    (∃ (s : State) (p : Port) (c : Nat) (l : Nat) (m : Int) (q : Nat), c < 2 ∧ l < 32 ∧ s.reaches p (Reg.bmeWdesc 0 c l) = true ∧ alook
    s.bme.commits c = some [(m, q)] ∧ (s.nowU : Int) ≤ m ∧ q ≤ s.seq) ∧
    (∃ (s : State) (d : Nat) (c : Nat) (l : Nat) (i : Nat) (q : Nat), d < 2 ∧ c < 2 ∧ l < 32 ∧ i < 4096 ∧ s.bme.sel = [(selKey d c l,
    (i, q))]) ∧
    (∃ (s : State) (d : Nat) (c : Nat) (b : Nat) (q : Nat), d < 2 ∧ c < 2 ∧ b < 2 ∧ s.bme.swap = [(bankKey d c, (b, q))]) ∧
    (∃ (s : State) (p : Port) (val : Word), s.reaches p Reg.bmeArray = true ∧ 1 ≤ val.toNat % 2048 ∧ val.toNat % 2048 ≤ 1024 ∧ val.toNat
    / 65536 % 1024 < val.toNat % 2048) ∧
    (∃ (s : State) (p : Port) (val : Word), s.reaches p Reg.bmeArray = true ∧ 1 ≤ val.toNat % 2048 ∧ val.toNat % 2048 ≤ 1024 ∧ val.toNat
    % 2048 ≤ val.toNat / 65536 % 1024) ∧
    (∃ (u : List Word × Nat) (layer : Nat) (w : Word), u.1[layer]? = some w ∧ bit w 31 = true) ∧
    (∃ (u : List Word × Nat) (layer : Nat) (w : Word), u.1[layer]? = some w ∧ bit w 31 = false) ∧
    (∃ (s : State) (dl : Bool) (c : Nat) (layer : Nat) (prb : Nat) (tl : Int) (y : Sect), s.sectFor dl c layer prb tl = some y) ∧
    (∃ (s : State) (c : Nat) (layer : Nat) (prb : Nat) (tl : Int), s.sectFor false c layer prb tl = none) ∧
    (∃ (s : State) (c : Nat) (layer : Nat) (prb : Nat) (tl : Int), s.sectFor true c layer prb tl = none) ∧
    (∃ (s : State) (a : Nat) (n : Nat), (∀ i, i < n → s.eccAt (a + 4 * i) = .good)) ∧
    (∃ (n : Nat) (i : Nat) (j : Nat), i < 2 ^ n ∧ j < 2 ^ n) :=
  ⟨⟨{ U [(Reg.tlpAirCtl, 2), (Reg.tlpAirPattern 1 0, 4)] with force := [(Reg.tlpAirCfg 0, 0x80FF0001), (Reg.tlpAirCfg 1, 0x80FF0001), (Reg.bmeCar 0, 0xC001000), (Reg.bmeCar 1, 0xC001000)], time := { t := 3409 * 2 ^ 53 } },
    1, by decide +kernel⟩,
   ⟨U [], 0, by decide +kernel⟩,
   ⟨U [], .pcie, 1, 31, by decide +kernel⟩,
   ⟨U [], .pcie, 1, 31, by decide +kernel⟩,
   ⟨{ up with bme := { commits := [(1, [(0, 0)])] } }, .pcie, 1, 31, 0, 0, by decide +kernel⟩,
   ⟨{ up with bme := { sel := [(selKey 1 1 31, (4095, 0))] } }, 1, 1, 31, 4095, 0, by decide +kernel⟩,
   ⟨{ up with bme := { swap := [(bankKey 1 1, (1, 0))] } }, 1, 1, 1, 0, by decide +kernel⟩,
   ⟨U [], .pcie, 0x03FF0400, by decide +kernel⟩,
   ⟨U [], .pcie, 0x00010001, by decide +kernel⟩,
   ⟨([0x80000000], 0), 0, 0x80000000, by decide +kernel⟩,
   ⟨([5], 0), 0, 5, by decide +kernel⟩,
   ⟨{ U [] with sects := [{ dl := true, car := 0, layer := 3, id := 1, t0 := 0, t1 := 10, start := 0, num := 4, beam := 7, wts := none, rej := false }] },
    true, 0, 3, 2, 5,
    { dl := true, car := 0, layer := 3, id := 1, t0 := 0, t1 := 10, start := 0, num := 4, beam := 7, wts := none, rej := false },
    by decide +kernel⟩,
   ⟨U [], 0, 0, 0, 0, by decide +kernel⟩,
   ⟨U [], 0, 0, 0, 0, by decide +kernel⟩,
   ⟨U [], 0, 0, by decide +kernel⟩,
   ⟨1, 1, 0, by decide +kernel⟩⟩

theorem witness_DuplexCanceller :
    (∃ (s : State) (p : Port) (off : Nat), 0x580000 ≤ off ∧ off < 0x600000 ∧ off % 4 = 0 ∧ s.reaches p off = true ∧ s.sicActive ((off -
    0x580000) / 0x1000) ((off - 0x580000) / 0x800 % 2) = (off - 0x580000) / 0x400 % 2) ∧
    (∃ (s : State) (p : Port) (off : Nat) (val : Word) (m : Word), 0x580000 ≤ off ∧ off < 0x600000 ∧ off % 4 = 0 ∧ s.reaches p off =
    true ∧ s.eccAt off = .good ∧ s.sicActive ((off - 0x580000) / 0x1000) ((off - 0x580000) / 0x800 % 2) ≠ (off - 0x580000) / 0x400 %
    2 ∧ m = (if off % 0x400 = 0x200 ∧ val.toNat / 2 ^ 16 % 32 = 31 then 0x80000000 else pageMask (off % 0x400))) ∧
    (∃ (s : State) (q : Port) (p : Nat) (w : Nat) (b : Nat), p < 2 ∧ w < 4 ∧ b < 32 ∧ s.reaches q (Reg.sicCommit p w) = true ∧
    s.inCarrier (groupOf (32 * w + b)) = true) ∧
    (∃ (s : State) (q : Port) (p : Nat) (w : Nat) (b : Nat), p < 2 ∧ w < 4 ∧ b < 32 ∧ s.reaches q (Reg.sicCommit p w) = true ∧
    s.inCarrier (groupOf (32 * w + b)) = false) ∧
    (∃ (r : Nat) (p : Nat), r < 128 ∧ p < 2) ∧
    (∃ (s : State) (p : Port) (val : Word), s.reaches p Reg.sicSurvey = true ∧ s.flag Reg.sicSurvey 29 = false ∧ val.getLsbD 30 = false) ∧
    (∃ (s : State) (p : Port) (val : Word), s.reaches p Reg.sicSurvey = true ∧ s.flag Reg.sicSurvey 29 = true ∧ val.getLsbD 30 = false) ∧
    (∃ (s : State) (p : Port) (val : Word), s.reaches p Reg.sicSurvey = true ∧ s.flag Reg.sicSurvey 29 = true ∧ val.getLsbD 31 = false) ∧
    (∃ (s : State) (res : List (Int × Nat)), s.flag Reg.sicSurvey 29 = true ∧ s.smp.survey = some (0, res)) ∧
    (∃ (s : State) (r : Nat) (q : Nat), kHz 200000 < ((s.loF (groupOf q) : Int) - (s.loF (groupOf r) : Int)).natAbs) ∧
    (∃ (s : State), (s.flag Reg.sicSurvey 29 = false ∨ s.smp.survey = none)) ∧
    (∃ (s : State) (p : Port) (val : Word) (n : Nat), s.reaches p Reg.sicSnap = true ∧ s.flag Reg.sicSnap 29 = false ∧ val.getLsbD 30 =
    false ∧ val.toNat / 2 ^ 16 % 16 = n ∧ 9 ≤ n ∧ n ≤ 13 ∧ s.up domCob = true ∧ s.fld Reg.sicSnapAddr 5 0 = 0 ∧ (s.reg
    Reg.sicSnapAddr).toNat + 40 * 2 ^ n ≤ s.fld Reg.capPart 5 0 * 0x100000) ∧
    (∃ (s : State) (p : Port) (val : Word) (n : Nat), s.reaches p Reg.sicSnap = true ∧ s.flag Reg.sicSnap 29 = false ∧ val.getLsbD 30 =
    false ∧ val.toNat / 2 ^ 16 % 16 = n ∧ 9 ≤ n ∧ n ≤ 13 ∧ (s.fld Reg.capPart 5 0 * 0x100000 < (s.reg Reg.sicSnapAddr).toNat + 40 *
    2 ^ n ∨ s.fld Reg.sicSnapAddr 5 0 ≠ 0)) ∧
    (∃ (s : State) (p : Port) (val : Word), s.reaches p Reg.sicSnap = true ∧ s.flag Reg.sicSnap 29 = true ∧ val.getLsbD 31 = false) ∧
    (∃ (s : State) (q : SnapRec), s.flag Reg.sicSnap 29 = true ∧ s.smp.snap = some q ∧ q.got.length = s.snapN ∧ s.up domCob = true) ∧
    (∃ (g : RxCfg), g.track = false) ∧
    (∃ (v : Cx), (v.1 = -8192 ∨ v.1 = 8191 ∨ v.2 = -8192 ∨ v.2 = 8191)) ∧
    (∃ (s : State) (n : Nat) (x : Int), s.inFdxF n x = false) ∧
    (∃ (s : State) (n : Nat), s.flag (Reg.rxaStatus n) 4 = false) ∧
    (∃ (s : State) (n : Nat) (ws : List Word) (q : Nat) (r : List Cx × List Cx), r ∈ s.references n ws q) :=
  ⟨⟨U [], .pcie, 0x580000, by decide +kernel⟩,
   ⟨U [], .pcie, 0x580400, 0, pageMask 0, by decide +kernel⟩,
   ⟨{ U [(Reg.tlpAirCtl, 2)] with force := [(Reg.tlpAirCfg 0, 0x80FF0001), (Reg.tlpAirCfg 1, 0x80FF0001)] }, .pcie, 1, 3, 31,
    by decide +kernel⟩,
   ⟨U [], .pcie, 1, 3, 31, by decide +kernel⟩,
   ⟨127, 1, by decide +kernel⟩,
   ⟨U [], .pcie, 0, by decide +kernel⟩,
   ⟨(U [(Reg.sicSurvey, 0x20000000)]), .pcie, 0, by decide +kernel⟩,
   ⟨(U [(Reg.sicSurvey, 0x20000000)]), .pcie, 0, by decide +kernel⟩,
   ⟨{ U [(Reg.sicSurvey, 0x20000000)] with smp := { survey := some (0, []) } }, [], by decide +kernel⟩,
   ⟨{ U [] with los := { cfg := [(7, (60, 0))] } }, 0, 127, by decide +kernel⟩,
   ⟨U [], by decide +kernel⟩,
   ⟨(U [(Reg.capPart, 1)]), .pcie, 0xD0000, 13, by decide +kernel⟩,
   ⟨(U [(Reg.capPart, 0)]), .pcie, 0xD0000, 13, by decide +kernel⟩,
   ⟨(U [(Reg.sicSnap, 0x20000000)]), .pcie, 0, by decide +kernel⟩,
   ⟨{ U [(Reg.sicSnap, 0x20000000)] with smp := { snap := some { got := [[]] } } }, { got := [[]] }, by decide +kernel⟩,
   ⟨{ k := 0, step := 2, irr := none, track := false, mu := 4, int := 0, frac := 0, mult := 0x1FFFF, high := 8000, sic := true, qual := true, floor := false },
    by decide +kernel⟩,
   ⟨(8191, 0), by decide +kernel⟩,
   ⟨U [], 0, 0, by decide +kernel⟩,
   ⟨U [], 0, by decide +kernel⟩,
   ⟨U [], 5, List.replicate 129 0 ++ [0x80, 0], 0, ((State.references (U []) 5 (List.replicate 129 0 ++ [0x80, 0]) 0).headD ([], [])),
    by decide +kernel⟩⟩

theorem witness_Linearisation :
    (∃ (s : State) (p : Port) (w : Nat) (a : Nat), w < 2 ∧ s.reaches p (Reg.linStData w) = true ∧ s.fld (Reg.linStAddr w) 20 0 = a ∧ a <
    linTop) ∧
    (∃ (s : State) (p : Port) (w : Nat), w < 2 ∧ s.reaches p (Reg.linStData w) = true ∧ linTop ≤ s.fld (Reg.linStAddr w) 20 0) ∧
    (∃ (s : State) (p : Port) (w : Nat) (b : Nat), w < 4 ∧ b < 32 ∧ s.reaches p (Reg.linCommit w) = true) ∧
    (∃ (s : State) (n : Nat), n < 128 ∧ s.up domCrm = true ∧ s.flag (Reg.linPathStat n) 10 = true ∧ s.inCarrier (groupOf n) = true) ∧
    (∃ (s : State) (n : Nat), n < 128 ∧ s.up domCrm = true ∧ s.flag (Reg.linPathStat n) 10 = true ∧ s.inCarrier (groupOf n) = false) ∧
    (∃ (s : State) (n : Nat), s.flag (Reg.linPathStat n) 10 = false) ∧
    (∃ (s : State) (p : Port) (k : Nat) (val : Word) (n : Nat), k < 8 ∧ s.reaches p (Reg.linObsCtl k) = true ∧ s.flag (Reg.linObsCtl k)
    29 = false ∧ val.getLsbD 30 = false ∧ val.toNat / 2 ^ 16 % 16 = n ∧ 9 ≤ n ∧ n ≤ 14 ∧ val.toNat / 2 ^ 21 % 4 = 0 ∧ val.toNat / 2
    ^ 8 % 8 = 7 ∧ s.up domCob = true ∧ s.up (domTile (k / 2)) = true ∧ s.fld (Reg.linObsAddr k) 5 0 = 0 ∧ (s.reg (Reg.linObsAddr
    k)).toNat + 24 * 2 ^ n ≤ s.fld Reg.capPart 5 0 * 0x100000) ∧
    (∃ (s : State) (p : Port) (k : Nat) (val : Word), k < 8 ∧ s.reaches p (Reg.linObsCtl k) = true ∧ s.flag (Reg.linObsCtl k) 29 = true
    ∧ val.getLsbD 30 = false) ∧
    (∃ (s : State) (p : Port) (k : Nat) (val : Word), k < 8 ∧ s.reaches p (Reg.linObsCtl k) = true ∧ s.flag (Reg.linObsCtl k) 29 = true
    ∧ val.getLsbD 31 = false) ∧
    (∃ (s : State) (k : Nat), k < 8 ∧ s.up domCrm = true ∧ s.flag (Reg.linObsCtl k) 29 = true ∧ s.obsRec k = none ∧ s.orHeld k = false ∧
    s.obsTrig k = true ∧ s.losBit k 30 = true) ∧
    (∃ (s : State) (k : Nat), k < 8 ∧ s.up domCrm = true ∧ s.flag (Reg.linObsCtl k) 29 = true ∧ s.obsRec k = none ∧ s.orHeld k = false ∧
    s.obsTrig k = true ∧ s.losBit k 30 = false) ∧
    (∃ (s : State) (k : Nat), (s.orHeld k = true ∨ s.obsTrig k = false ∨ s.flag (Reg.linObsCtl k) 29 = false)) ∧
    (∃ (s : State) (k : Nat) (q : ObsRec) (on : List Nat) (ws : List Word), k < 8 ∧ s.up domCrm = true ∧ s.flag (Reg.linObsCtl k) 29 =
    true ∧ s.obsRec k = some q ∧ q.got.length = s.obsN k ∧ s.up domCob = true ∧ s.up (domTile (k / 2)) = true ∧ on = (List.range
    3).filter (fun i => s.flag (Reg.linObsCtl k) (8 + i)) ∧ ws = streamWords on.length (q.got.map (fun l => on.map (back l)))) ∧
    (∃ (g : TxCfg), g.mute = true ∧ g.cal = none) ∧
    (∃ (g : TxCfg), g.dpd = none) ∧
    (∃ (g : TxCfg), g.dpd = some []) ∧
    (∃ (s : State) (n : Nat), s.emitting n = false) ∧
    (∃ (s : State) (n : Nat) (c : Nat), (s.carries c (groupOf n) = false ∨ s.flag (Reg.txdStatus n) (25 + c) = true)) ∧
    (∃ (s : State) (n : Nat), (s.flag (Reg.txdCtl n) 5 = false ∨ (s.dpd n).src = 0)) ∧
    (∃ (thr : Nat) (x : Cx), x.sq ≤ thr ^ 2) :=
  ⟨⟨U [], .pcie, 1, 0, by decide +kernel⟩,
   ⟨(U [(Reg.linStAddr 1, linTop)]), .pcie, 1, by decide +kernel⟩,
   ⟨U [], .pcie, 3, 31, by decide +kernel⟩,
   ⟨{ U [(Reg.tlpAirCtl, 2), (Reg.linPathStat 127, 0x400)] with force := [(Reg.tlpAirCfg 0, 0x80FF0001), (Reg.tlpAirCfg 1, 0x80FF0001)] },
    127, by decide +kernel⟩,
   ⟨(U [(Reg.linPathStat 127, 0x400)]), 127, by decide +kernel⟩,
   ⟨U [], 0, by decide +kernel⟩,
   ⟨(U [(Reg.capPart, 1)]), .pcie, 7, 0xE0700, 14, by decide +kernel⟩,
   ⟨(U [(Reg.linObsCtl 7, 0x20000000)]), .pcie, 7, 0, by decide +kernel⟩,
   ⟨(U [(Reg.linObsCtl 7, 0x20000000)]), .pcie, 7, 0, by decide +kernel⟩,
   ⟨(U [(Reg.linObsCtl 7, 0x20000000), (Reg.losSStatus 7, 0x40000000)]), 7, by decide +kernel⟩,
   ⟨(U [(Reg.linObsCtl 7, 0x20000000)]), 7, by decide +kernel⟩,
   ⟨U [], 0, by decide +kernel⟩,
   ⟨{ U [(Reg.linObsCtl 7, 0x20000700)] with smp := { obs := [(7, { got := [[]] })] } }, 7, { got := [[]] }, [0, 1, 2], [0, 0, 0, 0, 0,
    0], by decide +kernel⟩,
   ⟨{ cfr := none, dpd := none, int := 0, frac := 0, mult := 0x7FFF, mute := true, iq := 0, dc := 0, cal := none }, by decide +kernel⟩,
   ⟨{ cfr := none, dpd := none, int := 0, frac := 0, mult := 0x7FFF, mute := true, iq := 0, dc := 0, cal := none }, by decide +kernel⟩,
   ⟨{ cfr := none, dpd := some [], int := 0, frac := 0, mult := 0x7FFF, mute := true, iq := 0, dc := 0, cal := none },
    by decide +kernel⟩,
   ⟨U [], 0, by decide +kernel⟩,
   ⟨U [], 0, 0, by decide +kernel⟩,
   ⟨U [], 0, by decide +kernel⟩,
   ⟨1, (1, 0), by decide +kernel⟩⟩

theorem witness_Synthesisers :
    (∃ (s : State) (p : Port) (k : Nat) (val : Word), k < 8 ∧ s.reaches p (Reg.losSHop k) = true ∧ val.getLsbD 31 = true ∧ s.hopRefusal
    k (val.toNat % 16) = none ∧ s.losBit k 29 = false ∧ s.losBit k 27 = true ∧ s.cal.runs = [] ∧ (∀ h, alook s.los.hops k = some h →
    h.waits = false)) ∧
    (∃ (s : State) (p : Port) (k : Nat) (val : Word), k < 8 ∧ s.reaches p (Reg.losSHop k) = true ∧ val.getLsbD 31 = true ∧ s.hopRefusal
    k (val.toNat % 16) = none ∧ s.losBit k 29 = false ∧ s.losBit k 27 = false) ∧
    (∃ (s : State) (p : Port) (k : Nat) (val : Word), k < 8 ∧ s.reaches p (Reg.losSHop k) = true ∧ val.getLsbD 31 = true ∧ s.hopRefusal
    k (val.toNat % 16) ≠ none) ∧
    (∃ (s : State) (k : Nat) (h : Hop), k < 8 ∧ s.los.hops = [(k, h)] ∧ h.waits = true ∧ h.owner = .device ∧ h.preset < 16 ∧ s.losBit k
    27 = true ∧ s.cal.runs = []) ∧
    (∃ (s : State) (k : Nat), alook s.los.hops k = none) ∧
    (∃ (s : State) (k : Nat), k < 8 ∧ s.losBit k 27 = true ∧ s.losBit k 28 = true ∧ s.losBit k 29 = false) ∧
    (∃ (s : State) (k : Nat), k < 8 ∧ s.losBit k 30 = true ∧ s.cal.runs = [] ∧ s.up (domTile 0) = true) ∧
    (∃ (s : State) (k : Nat), s.losBit k 30 = false) ∧
    (∃ (s : State) (n : Nat), n < 4 ∧ s.up (domTile n) = true ∧ s.up (domTile 0) = true ∧ s.flag (Reg.losCcsStatus n) 31 = true ∧
    s.cal.runs = []) ∧
    (∃ (s : State) (n : Nat), n < 4 ∧ s.up (domTile n) = true ∧ s.flag Reg.clkRefStatus 31 = true) ∧
    (∃ (s : State) (k : Nat), k < 8 ∧ s.ifPending k = true ∧ s.ifFree k = true) ∧
    (∃ (s : State) (k : Nat), s.ifFree k = false) ∧
    (∃ (s : State) (p : Port), s.reaches p Reg.losClCtl = true ∧ future (s.reg Reg.losClAt) s.tns = true) ∧
    (∃ (s : State) (p : Port), s.reaches p Reg.losClCtl = true ∧ future (s.reg Reg.losClAt) s.tns = false) ∧
    (∃ (s : State), s.flag Reg.losClCtl 30 = true ∧ future (s.reg Reg.losClAt) s.tns = false) ∧
    (∃ (s : State) (g : Nat) (east : Nat × Nat) (west : Nat × Nat), s.flag Reg.losClCtl 30 = true ∧ s.fld Reg.losClCtl 2 0 = g ∧
    s.cal.runs = [(24, (14, g))] ∧ s.los.clBad = false ∧ s.loOk g = true ∧ s.role 0 ≠ 0 ∧ s.flag Reg.calCtl 1 = false ∧ east.2 ≤ 80
    ∧ west.2 ≤ 80) :=
  ⟨⟨{ U [(Reg.losSPresetCfg 7 15, 40), (Reg.losSStatus 7, 0x08000000)] with nvm := [(otpShadowKey 0x100, 0x80000000), (otpShadowKey 0x101, 0x1FFFFFF)] },
    .pcie, 7, 0x8000000F, by decide +kernel⟩,
   ⟨{ U [(Reg.losSPresetCfg 7 15, 40), (Reg.losSStatus 7, 0)] with nvm := [(otpShadowKey 0x100, 0x80000000), (otpShadowKey 0x101, 0x1FFFFFF)] },
    .pcie, 7, 0x8000000F, by decide +kernel⟩,
   ⟨U [], .pcie, 7, 0x8000000F, by decide +kernel⟩,
   ⟨{ U [(Reg.losSStatus 7, 0x08000000)] with los := { hops := [(7, ⟨1, 15, .device, true, 0⟩)] } }, 7, ⟨1, 15, .device, true, 0⟩,
    by decide +kernel⟩,
   ⟨U [], 0, by decide +kernel⟩,
   ⟨(U [(Reg.losSStatus 7, 0x18000000)]), 7, by decide +kernel⟩,
   ⟨(U [(Reg.losSStatus 7, 0x40000000)]), 7, by decide +kernel⟩,
   ⟨U [], 0, by decide +kernel⟩,
   ⟨(U [(Reg.losCcsStatus 3, 0x80000000)]), 3, by decide +kernel⟩,
   ⟨(U [(Reg.clkRefStatus, 0x80000000)]), 3, by decide +kernel⟩,
   ⟨(U [(Reg.losSCtl 7, 0x10000000)]), 7, by decide +kernel⟩,
   ⟨(U [(Reg.tlpPs 127, psRx)]), 7, by decide +kernel⟩,
   ⟨(U [(Reg.losClAt, 1)]), .pcie, by decide +kernel⟩,
   ⟨U [], .pcie, by decide +kernel⟩,
   ⟨(U [(Reg.losClCtl, 0x40000000)]), by decide +kernel⟩,
   ⟨{ U [(Reg.losClCtl, 0x40000007), (Reg.argRingCtl 0, 0x10000), (Reg.calCtl, 0), (Reg.losSStatus 7, 0x44000000), (Reg.losCcsStatus 3, 0x80000000)] with cal := { runs := [(24, (14, 7))] } },
    7, (0, 80), (0, 80), by decide +kernel⟩⟩

theorem witness_CalibrationAndJournal :
    (∃ (s : State) (p : Port) (val : Word) (k : Nat), k < 8 ∧ s.reaches p Reg.calWin = true ∧ val.toNat / 2 ^ 16 ≠ 0) ∧
    (∃ (s : State) (p : Port) (val : Word) (k : Nat), k < 8 ∧ s.reaches p Reg.calWin = true ∧ val.toNat / 2 ^ 16 = 0 ∧ s.flag Reg.calCtl
    2 = false) ∧
    (∃ (s : State) (k : Nat), k < 8 ∧ s.up domCob = true ∧ s.winOpen k = true ∧ s.winLeft k ≤ 0) ∧
    (∃ (s : State) (k : Nat), k < 8 ∧ s.flag Reg.calCtl 2 = false) ∧
    (∃ (s : State) (k : Nat), 0 < s.winLeft k) ∧
    (∃ (s : State) (p : Port) (kind : Nat) (n : Nat), kind < 10 ∧ n < 128 ∧ s.reaches p Reg.calReq = true) ∧
    (∃ (s : State) (p : Port) (val : Word), s.reaches p Reg.calReq = true ∧ (val.toNat / 2 ^ 28 ∈ [10, 11, 14, 15] ∨ val.toNat / 2 ^ 26
    % 4 = 3)) ∧
    (∃ (s : State) (k : Nat), k < 8 ∧ s.winOpen k = false) ∧
    (∃ (s : State) (k : Nat) (kind : Nat) (n : Nat), k < 8 ∧ s.up domCob = true ∧ s.season < 2 ∧ alook s.cal.runs k = none ∧ s.winOpen k
    = true ∧ s.nextRun k = some (kind, n)) ∧
    (∃ (s : State) (k : Nat) (kind : Nat) (n : Nat), k < 8 ∧ s.nextRun k = some (kind, n)) ∧
    (∃ (s : State) (k : Nat) (n : Nat), n < 128 ∧ groupOf n = k ∧ s.up domCob = true ∧ s.cal.runs = [(k, (2, n))]) ∧
    (∃ (s : State) (k : Nat) (n : Nat) (kind : Nat), n < 128 ∧ kind < 10 ∧ groupOf n = k ∧ s.up domCob = true ∧ s.cal.runs = [(k, (kind,
    n))] ∧ s.fld (Reg.calPath n) 27 24 < s.fld Reg.calRetry 3 0) ∧
    (∃ (s : State) (k : Nat), k < 16 ∧ alook s.cal.runs k = none) ∧
    (∃ (s : State) (n : Nat) (q : Nat), n < 128 ∧ s.tracks n false = true ∧ q < 256 ∧ q < s.fld Reg.calBg 23 16) ∧
    (∃ (s : State) (n : Nat) (q : Nat), n < 128 ∧ s.tracks n false = true ∧ q < 256 ∧ s.fld Reg.calBg 23 16 ≤ q) ∧
    (∃ (s : State) (n : Nat) (rx : Bool), s.tracks n rx = false) ∧
    (∃ (s : State), s.cal.xdev = true) ∧
    (∃ (s : State) (g : Nat), g < 8 ∧ s.cal.runs = [(24, (14, g))]) ∧
    (∃ (s : State), s.cal.xdev = false) ∧
    (∃ (t : Nat) (c : Nat) (w : Nat) (data : List Word), t < 4 ∧ c < 9 ∧ countOk c data.length = true ∧ w + data.length + 4 ≤ 2 ^ 18) ∧
    (∃ (a : Word) (b : Word), a ≠ b ∧ a - b ≠ 0x80000000) ∧
    (∃ (s : State) (p : Port) (tile : Nat) (c : Nat), tile < 4 ∧ 1 ≤ c ∧ c ≤ 5 ∧ s.reaches p Reg.calJctl = true) ∧
    (∃ (s : State) (p : Port) (val : Word), s.reaches p Reg.calJctl = true ∧ (val.getLsbD 6 = true ∨ val.getLsbD 8 = true)) ∧
    (∃ (s : State) (t : Nat), s.up (domTile t) = false) ∧
    (∃ (s : State) (t : Nat) (c : Nat), s.up (domTile t) = true ∧ (alook s.jrn.run (t * 16 + c)).isSome = true) ∧
    (∃ (s : State) (t : Nat), s.up (domTile t) = true ∧ s.jrn.run = [] ∧ s.jrn.last = [] ∧ s.host.nvm = none) ∧
    (∃ (s : State) (t : Nat) (c : Nat), t < 4 ∧ c < 16 ∧ (16 * t + c) ∈ s.jrn.wait ∧ s.jrn.run = [] ∧ s.jrn.last = [] ∧ s.host.nvm =
    none ∧ s.up (domTile t) = true) ∧
    (∃ (s : State) (t : Nat) (c : Nat), (16 * t + c) ∉ s.jrn.wait) ∧
    (∃ (s : State) (t : Nat) (c : Nat) (w : Nat) (ws : List Word), t < 4 ∧ c < 16 ∧ s.jrn.run = [(t * 16 + c, (w, ws))] ∧ w + ws.length
    ≤ 2 ^ 18) ∧
    (∃ (s : State) (t : Nat) (c : Nat), alook s.jrn.run (16 * t + c) = none) ∧
    (∃ (s : State) (t : Nat), 1 ≤ t ∧ t < 4 ∧ s.up (domTile t) = true ∧ s.up domCrm = true ∧ s.up domCob = true ∧ bit s.cal.loaded t =
    false) ∧
    (∃ (s : State) (t : Nat), 1 ≤ t ∧ bit s.cal.loaded t = true) ∧
    (∃ (s : State), s.up (domTile 0) = true ∧ s.up domRing = true ∧ s.arg.read = false ∧ bit s.cal.loaded 0 = true) :=
  ⟨⟨U [], .pcie, 0x10000, 7, by decide +kernel⟩,
   ⟨(U [(Reg.calCtl, 0)]), .pcie, 0, 7, by decide +kernel⟩,
   ⟨(U [(Reg.calWin, 0x8000)]), 7, by decide +kernel⟩,
   ⟨(U [(Reg.calCtl, 0)]), 7, by decide +kernel⟩,
   ⟨{ U [] with cal := { wins := [(7, 1)] } }, 7, by decide +kernel⟩,
   ⟨U [], .pcie, 9, 127, by decide +kernel⟩,
   ⟨U [], .pcie, 0xF0000000, by decide +kernel⟩,
   ⟨U [], 7, by decide +kernel⟩,
   ⟨{ U [(Reg.calWin, 0x8000), (Reg.calPath 127, 0x200)] with cal := { wins := [(7, 14000)] } }, 7, 9, 127, by decide +kernel⟩,
   ⟨{ U [(Reg.calPath 127, 0x200)] with cal := { wins := [(7, 14000)] } }, 7, 9, 127, by decide +kernel⟩,
   ⟨{ U [] with cal := { runs := [(7, (2, 127))] } }, 7, 127, by decide +kernel⟩,
   ⟨{ U [(Reg.calRetry, 1)] with cal := { runs := [(7, (9, 127))] } }, 7, 127, 9, by decide +kernel⟩,
   ⟨U [], 15, by decide +kernel⟩,
   ⟨(U [(Reg.calCtl, 1), (Reg.tlpPs 127, psTx), (Reg.calBg, 0xFF0000), (Reg.losSStatus 7, 0x44000000), (Reg.losCcsStatus 3,
    0x80000000)]), 127, 254, by decide +kernel⟩,
   ⟨(U [(Reg.calCtl, 1), (Reg.tlpPs 127, psTx), (Reg.calBg, 0xFF0000), (Reg.losSStatus 7, 0x44000000), (Reg.losCcsStatus 3,
    0x80000000)]), 127, 255, by decide +kernel⟩,
   ⟨U [], 0, true, by decide +kernel⟩,
   ⟨{ U [] with cal := { xdev := true } }, by decide +kernel⟩,
   ⟨{ U [] with cal := { runs := [(24, (14, 7))] } }, 7, by decide +kernel⟩,
   ⟨U [], by decide +kernel⟩,
   ⟨3, 8, 0, [], by decide +kernel⟩,
   ⟨0x7FFFFFFF, 0, by decide +kernel⟩,
   ⟨U [], .pcie, 3, 5, by decide +kernel⟩,
   ⟨U [], .pcie, 0x40, by decide +kernel⟩,
   ⟨State.reset, 3, by decide +kernel⟩,
   ⟨{ up with jrn := { run := [(53, (0, []))] } }, 3, 5, by decide +kernel⟩,
   ⟨U [], 0, by decide +kernel⟩,
   ⟨{ up with jrn := { wait := [53] } }, 3, 5, by decide +kernel⟩,
   ⟨U [], 0, 0, by decide +kernel⟩,
   ⟨{ up with jrn := { run := [(53, (0x3FFFF, [7]))] } }, 3, 5, 0x3FFFF, [7], by decide +kernel⟩,
   ⟨U [], 0, 0, by decide +kernel⟩,
   ⟨U [], 3, by decide +kernel⟩,
   ⟨{ U [] with cal := { loaded := 15 } }, 3, by decide +kernel⟩,
   ⟨{ U [] with cal := { loaded := 1 } }, by decide +kernel⟩⟩

theorem witness_BiasDacs :
    (∃ (s : State) (p : Port) (i : Nat), i < 256 ∧ s.reaches p (Reg.bdaOutCode i) = true ∧ s.flag (Reg.bdaOutCfg i) 31 = false ∧
    s.faulted i = false ∧ s.flag Reg.bdaStatus (4 + i / 64) = false) ∧
    (∃ (s : State) (p : Port) (i : Nat), i < 256 ∧ s.reaches p (Reg.bdaOutCode i) = true ∧ (s.flag (Reg.bdaOutCfg i) 31 = true ∨
    s.faulted i = true ∨ s.flag Reg.bdaStatus (4 + i / 64) = true)) ∧
    (∃ (s : State) (p : Port) (i : Nat) (val : Word), i < 256 ∧ s.reaches p (Reg.bdaOutCfg i) = true ∧ val.toNat % 8 ≤ 4 ∧ val.toNat % 8
    ≠ s.fld (Reg.bdaOutCfg i) 2 0 ∧ bit s.pins.drain (2 * (i / 32)) = false ∧ s.flag Reg.bdaStatus (4 + i / 64) = false ∧ s.flag
    Reg.bdaStatus (16 + i / 32) = false ∧ s.faulted i = false ∧ s.flag (Reg.bdaOutCfg i) 31 = false) ∧
    (∃ (s : State) (p : Port) (i : Nat) (val : Word), i < 256 ∧ s.reaches p (Reg.bdaOutCfg i) = true ∧ val.toNat % 8 ≤ 4 ∧ val.toNat % 8
    ≠ s.fld (Reg.bdaOutCfg i) 2 0 ∧ (bit s.pins.drain (2 * (i / 32)) = true ∨ s.faulted i = true ∨ s.flag (Reg.bdaOutCfg i) 31 =
    true)) ∧
    (∃ (s : State) (i : Nat), i < 256 ∧ s.flag (Reg.bdaOutCfg i) 31 = true ∧ s.flag Reg.bdaCtl 16 = false) ∧
    (∃ (s : State) (i : Nat), s.flag (Reg.bdaOutCfg i) 31 = false) ∧
    (∃ (s : State) (t : Nat), t < 4 ∧ s.biasOrigin t = true ∧ s.flag Reg.bdaStatus (4 + t) = true ∧ bit s.bda.loose t = false ∧ bit
    s.bda.noTab t = false) ∧
    (∃ (s : State) (t : Nat), t < 4 ∧ s.biasOrigin t = true ∧ bit s.bda.loose t = true) ∧
    (∃ (s : State) (t : Nat), bit s.bda.loose t = false) ∧
    (∃ (s : State) (p : Port) (t : Nat), t < 4 ∧ s.reaches p Reg.bdaCtl = true ∧ bit s.bda.noTab t = true ∧ s.flag Reg.bdaStatus (4 + t)
    = true) ∧
    (∃ (s : State) (p : Port) (t : Nat), t < 4 ∧ s.reaches p Reg.bdaCtl = true) ∧
    (∃ (s : State) (g : Nat), g < 4 ∧ s.up domMgt = true ∧ s.flag (Reg.bdaSgCtl g) 31 = true ∧ bit s.bda.phRst g = false) ∧
    (∃ (s : State) (g : Nat), g < 4 ∧ s.up domMgt = true ∧ bit s.bda.phRst g = true) ∧
    (∃ (s : State) (p : Port) (g : Nat) (val : Word), g < 4 ∧ s.reaches p (Reg.bdaSgCtl g) = true ∧ val.getLsbD 30 = true) :=
  ⟨⟨(U [(Reg.bdaStatus, 0)]), .pcie, 255, by decide +kernel⟩,
   ⟨U [], .pcie, 255, by decide +kernel⟩,
   ⟨(U [(Reg.bdaStatus, 0)]), .pcie, 255, 4, by decide +kernel⟩,
   ⟨(U [(Reg.bdaOutCfg 255, 0x80000000)]), .pcie, 255, 4, by decide +kernel⟩,
   ⟨(U [(Reg.bdaOutCfg 255, 0x80000000)]), 255, by decide +kernel⟩,
   ⟨U [], 0, by decide +kernel⟩,
   ⟨U [], 3, by decide +kernel⟩,
   ⟨{ up with bda := { loose := 8 } }, 3, by decide +kernel⟩,
   ⟨U [], 0, by decide +kernel⟩,
   ⟨{ U [(Reg.bdaStatus, 0x80)] with bda := { noTab := 8 } }, .pcie, 3, by decide +kernel⟩,
   ⟨U [], .pcie, 3, by decide +kernel⟩,
   ⟨(U [(Reg.bdaSgCtl 3, 0x80000000)]), 3, by decide +kernel⟩,
   ⟨{ up with bda := { phRst := 8 } }, 3, by decide +kernel⟩,
   ⟨U [], .pcie, 3, 0x40000000, by decide +kernel⟩⟩

theorem witness_RingPorts :
    (∃ (s : State) (p : Nat) (ws : List Word) (rate : Nat), p < 4 ∧ s.up domRing = true ∧ s.portState p = 1 ∧ s.portTested p = false ∧
    ws.length = 4 ∧ ws.getD 3 0 = crc32 ((ws.take 3).flatMap wordBytes) ∧ bits (ws.headD 0) 31 24 = 1 ∧ ws.getD 2 0 = 0 ∧ bits
    (ws.headD 0) 14 14 = ringOf p ∧ bit (ws.headD 0) 11 = true ∧ (s.argPort p).last = ws ∧ (s.argPort p).sets = 2 ∧ (s.argPort
    p).ack = true ∧ commonRate (s.fld (Reg.argPortCtl p) 19 16) (bits (ws.headD 0) 23 20) = some rate) ∧
    (∃ (s : State) (p : Nat) (ws : List Word), p < 4 ∧ s.up domRing = true ∧ s.portState p = 1 ∧ s.portTested p = false ∧ ws.length = 4
    ∧ ws.getD 3 0 = crc32 ((ws.take 3).flatMap wordBytes) ∧ bits (ws.headD 0) 31 24 = 1 ∧ ws.getD 2 0 = 0 ∧ bits (ws.headD 0) 14 14
    ≠ ringOf p) ∧
    (∃ (s : State) (p : Nat), s.portState p ≠ 1) ∧
    (∃ (s : State) (p : Nat), p < 4 ∧ s.up domRing = true ∧ s.portState p = 1) ∧
    (∃ (s : State) (p : Nat), p < 4 ∧ s.up domRing = true ∧ s.portState p = 0 ∧ (s.argPort p).again = true ∧ s.hold (ringOf p) = true ∧
    s.portTested p = false) ∧
    (∃ (s : State) (p : Nat) (lanes : List ((Nat × Nat) × Word)), p < 4 ∧ s.up domRing = true ∧ s.portState p = 2 ∧ s.portTested p =
    false ∧ (s.argPort p).width < 4 ∧ lanes.length = lanesOf (s.argPort p).width ∧ (∀ x ∈ lanes, s.fld Reg.slnFom 7 0 ≤ fomOf false
    x.1.1 x.1.2) ∧ (∀ l, 16 * p ≤ l → l < 16 * p + lanesOf (s.argPort p).width → l ∈ s.ready)) ∧
    (∃ (s : State) (q : Port) (p : Nat), p < 4 ∧ s.reaches q (Reg.argPortCtl p) = true ∧ (s.portState p = 3 ∨ s.portState p = 4)) ∧
    (∃ (s : State) (q : Port) (r : Nat) (val : Word), r < 2 ∧ s.reaches q (Reg.argRingCtl r) = true ∧ val.toNat / 2 ^ 29 = 0 ∧
    (val.toNat / 2 ^ 16 % 4 = 1 ∨ val.toNat / 2 ^ 16 % 4 = 2) ∧ s.hold r = false ∧ s.vote domRing ≠ 0 ∧ s.flag Reg.thmStatus 31 =
    false ∧ s.portTested (eastPort r) = false ∧ s.portTested (westPort r) = false) ∧
    (∃ (s : State) (q : Port) (r : Nat) (val : Word), r < 2 ∧ s.reaches q (Reg.argRingCtl r) = true ∧ val.toNat / 2 ^ 29 = 0 ∧ s.hold r
    = true ∧ (val.toNat / 2 ^ 16 % 4 = 1 ∨ val.toNat / 2 ^ 16 % 4 = 2)) ∧
    (∃ (s : State) (q : Port) (r : Nat) (val : Word), r < 2 ∧ s.reaches q (Reg.argRingCtl r) = true ∧ val.toNat / 2 ^ 29 = 0 ∧ s.hold r
    = true ∧ val.toNat / 2 ^ 16 % 4 = 0) ∧
    (∃ (s : State) (q : Port) (r : Nat) (val : Word), r < 2 ∧ s.reaches q (Reg.argRingCtl r) = true ∧ val.toNat / 2 ^ 29 = 0 ∧
    (val.toNat / 2 ^ 16 % 4 = 1 ∨ val.toNat / 2 ^ 16 % 4 = 2)) ∧
    (∃ (s : State) (r : Nat), r < 2 ∧ s.up domRing = true) ∧
    (∃ (s : State) (r : Nat), s.hold (1 - r) = true ∧ r < 2) ∧
    (∃ (s : State) (q : Port) (r : Nat) (val : Word), r < 2 ∧ s.reaches q (Reg.argRingCtl r) = true ∧ val.toNat / 2 ^ 29 = 0 ∧
    (val.toNat / 2 ^ 16 % 4 = 1 ∨ val.toNat / 2 ^ 16 % 4 = 2)) ∧
    (∃ (s : State) (r : Nat), r < 2 ∧ s.up domRing = true ∧ (s.portState (eastPort r) = 3 ∨ s.portState (westPort r) = 3)) ∧
    (∃ (s : State) (r : Nat), r < 2 ∧ s.role r = 2) ∧
    (∃ (s : State) (r : Nat), s.role r ≠ 2) ∧
    (∃ (s : State) (r : Nat), r < 2 ∧ s.up domRing = true ∧ s.ringState r = 1 ∧ s.portState (eastPort r) < 3 ∧ s.portState (westPort r)
    < 3) ∧
    (∃ (s : State) (r : Nat), s.ringState r ≠ 1) :=
  ⟨⟨{ U [(Reg.argPortStatus 3, 0x10000000), (Reg.argPortCtl 3, 0xF0000)] with arg := { ports := [(3, { last := capSet 0x01F04800, sets := 2, ack := true })] } },
    3, capSet 0x01F04800, 3, by decide +kernel⟩,
   ⟨U [(Reg.argPortStatus 3, 0x10000000)], 3, capSet 0x01F00800, by decide +kernel⟩,
   ⟨U [], 0, by decide +kernel⟩,
   ⟨U [(Reg.argPortStatus 3, 0x10000000)], 3, by decide +kernel⟩,
   ⟨{ U [(Reg.argPortStatus 3, 0)] with arg := { ports := [(3, { again := true })] }, pins := { ringHold := 2 } }, 3,
    by decide +kernel⟩,
   ⟨{ U [(Reg.argPortStatus 3, 0x20000000), (Reg.slnFom, 9)] with arg := { ports := [(3, { width := 3 })] }, ready := (List.range 16).map (48 + ·) }, 3, List.replicate 16 ((30000, 250), 0), by decide +kernel, by decide +kernel, by decide +kernel, by decide +kernel, by decide +kernel, by decide +kernel, by decide +kernel, by
    intro l h1 h2
    have e : lanesOf (State.argPort ({ U [(Reg.argPortStatus 3, 0x20000000), (Reg.slnFom, 9)] with arg := { ports := [(3, { width := 3 })] }, ready := (List.range 16).map (48 + ·) }) 3).width = 16 := by decide +kernel
    rw [e] at h2
    exact List.mem_map.mpr ⟨l - 48, List.mem_range.mpr (by omega), by omega⟩⟩,
   ⟨U [(Reg.argPortStatus 3, 0x40000000)], .pcie, 3, by decide +kernel⟩,
   ⟨U [(Reg.pwrDomVote 8, 1)], .pcie, 1, 0x20000, by decide +kernel⟩,
   ⟨{ U [] with pins := { ringHold := 2 } }, .pcie, 1, 0x10000, by decide +kernel⟩,
   ⟨{ U [] with pins := { ringHold := 2 } }, .pcie, 1, 0, by decide +kernel⟩,
   ⟨U [], .pcie, 1, 0x10000, by decide +kernel⟩,
   ⟨U [], 1, by decide +kernel⟩,
   ⟨{ U [] with pins := { ringHold := 1 } }, 1, by decide +kernel⟩,
   ⟨U [], .pcie, 1, 0x10000, by decide +kernel⟩,
   ⟨U [(Reg.argPortStatus 3, 0x30000000)], 1, by decide +kernel⟩,
   ⟨U [(Reg.argRingCtl 1, 0x20000)], 1, by decide +kernel⟩,
   ⟨U [], 0, by decide +kernel⟩,
   ⟨U [(Reg.argRingStatus 1, 0x10000000)], 1, by decide +kernel⟩,
   ⟨U [], 0, by decide +kernel⟩⟩

theorem witness_RingCells :
    (∃ (s : State) (p : Nat), s.portState p ≠ 3) ∧
    (∃ (s : State) (p : Nat) (c : Cell), s.portState p = 3 ∧ s.dropped p c = false) ∧
    (∃ (s : State) (p : Nat) (c : Cell), p < 4 ∧ s.up domRing = true ∧ s.portState p = 3 ∧ c.crc = c.crcFor (s.argPort p).told ∧ c.void
    = false ∧ (s.argPort p).rxSeq = none) ∧
    (∃ (s : State) (p : Nat) (c : Cell) (n : Nat), p < 4 ∧ s.up domRing = true ∧ s.portState p = 3 ∧ c.crc ≠ c.crcFor (s.argPort p).told
    ∧ (s.argPort p).rxSeq = some n ∧ c.w1.toNat = (n + 1) % 2 ^ 32) ∧
    (∃ (s : State) (p : Nat) (c : Cell) (n : Nat), p < 4 ∧ s.up domRing = true ∧ s.portState p = 3 ∧ c.crc = c.crcFor (s.argPort p).told
    ∧ c.void = true ∧ (s.argPort p).rxSeq = some n ∧ c.w1.toNat ≠ (n + 1) % 2 ^ 32) ∧
    (∃ (s : State) (p : Nat), (s.role (ringOf p) ≠ 1 ∨ (s.placed (ringOf p) = true ∧ s.lastOfArc (ringOf p) = true))) ∧
    (∃ (s : State) (u : State) (p : Nat) (c : Cell), c.kind = 1 ∧ s.recvCell p c = some (u, .good) ∧ (u.role (ringOf p) ≠ 1 ∨ u.working
    (ringOf p) = false)) ∧
    (∃ (s : State) (u : State) (p : Nat) (c : Cell) (x : CellFate), c.kind = 1 ∧ s.recvCell p c = some (u, x) ∧ x ≠ .good) ∧
    (∃ (s : State) (u : State) (p : Nat) (c : Cell), c.kind = 2 ∧ s.recvCell p c = some (u, .good) ∧ (u.role (ringOf p) ≠ 1 ∨ u.working
    (ringOf p) = false)) ∧
    (∃ (s : State) (u : State) (p : Nat) (c : Cell) (x : CellFate), c.kind = 2 ∧ s.recvCell p c = some (u, x) ∧ x ≠ .good) ∧
    (∃ (s : State) (u : State) (p : Nat) (c : Cell) (x : CellFate), c.kind = 3 ∧ s.recvCell p c = some (u, x) ∧ u.role (ringOf p) = 2) ∧
    (∃ (s : State) (u : State) (p : Nat) (c : Cell) (x : CellFate), c.kind = 3 ∧ s.recvCell p c = some (u, x) ∧ u.role (ringOf p) = 1) ∧
    (∃ (s : State) (p : Nat) (c : Cell) (o : List (List Int)), s.working (ringOf p) = true ∧ c.contrib < 2047 ∧ c.repair = false ∧ (p,
    c.ident (ringOf p)) ∉ s.arg.dead ∧ c.ident (ringOf p) ∉ s.arg.closed ∧ s.ownFor c = some o) ∧
    (∃ (s : State) (p : Nat) (c : Cell), s.working (ringOf p) = true ∧ c.repair = false ∧ (p, c.ident (ringOf p)) ∉ s.arg.dead ∧ c.ident
    (ringOf p) ∉ s.arg.closed ∧ s.ownFor c = none) ∧
    (∃ (s : State) (p : Nat) (c : Cell), c.ident (ringOf p) ∈ s.arg.closed) ∧
    (∃ (s : State) (p : Nat) (c : Cell) (x : Option Nat), p % 2 = 0 ∧ c.ident (ringOf p) ∉ s.arg.closed ∧ alook s.arg.sums (c.ident
    (ringOf p)) = some (none, x)) ∧
    (∃ (s : State) (r : Nat) (w2 : Word) (st : Nat) (num : Nat) (l : List SumPrb), r < 2 ∧ s.up domRing = true ∧ s.role r = 1 ∧
    s.working r = true ∧ ((r * 2 ^ 32 + w2.toNat) * 512 + st % 512) ∉ s.arg.closed ∧ s.ownSums w2 st num = some l ∧ s.awaitsRepair
    (s.farPort r) = false ∧ (if s.lastOfArc r then readyAt l ≤ (s.nowU : Int) else s.pastDeadline (readyAt l) (if s.onWest r then
    (s.beyond r).2 else (s.beyond r).1) = true)) ∧
    (∃ (s : State) (w2 : Word) (st : Nat) (num : Nat), s.ownSums w2 st num = none) ∧
    (∃ (s : State) (u : State) (p : Nat) (c : Cell), c.kind = 6 ∧ s.recvCell p c = some (u, .good) ∧ alook u.cal.runs 24 = none) ∧
    (∃ (s : State) (u : State) (p : Nat) (c : Cell) (k : Nat) (g : Nat), c.kind = 6 ∧ s.recvCell p c = some (u, .good) ∧ alook
    u.cal.runs 24 = some (k, g) ∧ c.sub = 1 ∧ (c.payload.headD 0).toNat = g) ∧
    (∃ (s : State) (u : State) (p : Nat) (c : Cell), c.kind = 6 ∧ c.sub = 2 ∧ s.recvCell p c = some (u, .good) ∧ u.sec.source ≠ 3) ∧
    (∃ (s : State) (u : State) (p : Nat) (c : Cell) (n : Nat), c.kind = 6 ∧ c.sub = 2 ∧ s.recvCell p c = some (u, .good) ∧ u.up domCob =
    true ∧ u.sec.source = 3 ∧ u.bootState = 1 ∧ (c.payload.headD 0).toNat ≠ 0 ∧ u.sec.next = some n ∧ n ≠ (c.payload.headD 0).toNat) ∧
    (∃ (s : State) (u : State) (p : Nat) (c : Cell) (x : CellFate), (c.kind = 0 ∨ 7 < c.kind) ∧ s.recvCell p c = some (u, x)) :=
  ⟨⟨U [], 0, by decide +kernel⟩,
   ⟨(U [(Reg.argPortStatus 3, 0x30000000)]), 3, (cell 0x10000000 0 []), by decide +kernel⟩,
   ⟨(U [(Reg.argPortStatus 3, 0x30000000)]), 3, (cell 0x10000000 0 []), by decide +kernel⟩,
   ⟨({ U [(Reg.argPortStatus 3, 0x30000000)] with arg := { ports := [(3, { rxSeq := some 0xFFFFFFFF })] } }), 3,
    { cell 0x10000000 0 [] with crc := 0 }, 0xFFFFFFFF, by decide +kernel⟩,
   ⟨({ U [(Reg.argPortStatus 3, 0x30000000)] with arg := { ports := [(3, { rxSeq := some 5 })] } }), 3, (cell 0x10000000 0x80000000
    []), 5, by decide +kernel⟩,
   ⟨U [], 0, by decide +kernel⟩,
   ⟨(U [(Reg.argPortStatus 3, 0x30000000)]), (((U [(Reg.argPortStatus 3, 0x30000000)]).recvCell 3 (cell 0x10000000 0 [])).getD ((U
    [(Reg.argPortStatus 3, 0x30000000)]), .good)).1, 3, (cell 0x10000000 0 []), by decide +kernel⟩,
   ⟨(U [(Reg.argPortStatus 3, 0x30000000)]), (((U [(Reg.argPortStatus 3, 0x30000000)]).recvCell 3 (cell 0x10000000 0x80000000 [])).getD
    ((U [(Reg.argPortStatus 3, 0x30000000)]), .good)).1, 3, (cell 0x10000000 0x80000000 []), .voided, by decide +kernel⟩,
   ⟨(U [(Reg.argPortStatus 3, 0x30000000)]), (((U [(Reg.argPortStatus 3, 0x30000000)]).recvCell 3 (cell 0x20000000 0 [])).getD ((U
    [(Reg.argPortStatus 3, 0x30000000)]), .good)).1, 3, (cell 0x20000000 0 []), by decide +kernel⟩,
   ⟨(U [(Reg.argPortStatus 3, 0x30000000)]), (((U [(Reg.argPortStatus 3, 0x30000000)]).recvCell 3 (cell 0x20000000 0x80000000 [])).getD
    ((U [(Reg.argPortStatus 3, 0x30000000)]), .good)).1, 3, (cell 0x20000000 0x80000000 []), .voided, by decide +kernel⟩,
   ⟨(U [(Reg.argPortStatus 3, 0x30000000), (Reg.argRingCtl 1, 0x20000)]), (((U [(Reg.argPortStatus 3, 0x30000000), (Reg.argRingCtl 1,
    0x20000)]).recvCell 3 (cell 0x30000000 0 [])).getD ((U [(Reg.argPortStatus 3, 0x30000000), (Reg.argRingCtl 1, 0x20000)]),
    .good)).1, 3, (cell 0x30000000 0 []), .good, by decide +kernel⟩,
   ⟨(U [(Reg.argPortStatus 3, 0x30000000), (Reg.argRingCtl 1, 0x10000)]), (((U [(Reg.argPortStatus 3, 0x30000000), (Reg.argRingCtl 1,
    0x10000)]).recvCell 3 (cell 0x30000000 0 [])).getD ((U [(Reg.argPortStatus 3, 0x30000000), (Reg.argRingCtl 1, 0x10000)]),
    .good)).1, 3, (cell 0x30000000 0 []), .good, by decide +kernel⟩,
   ⟨{ U [(Reg.argPortStatus 3, 0x30000000), (Reg.argRingStatus 1, 0x50000000)] with bme := { sums := [{ car := 0, t0 := 0, layer := 0, prb := 0, side := 0, count := 1, ready := 0, vals := List.replicate 24 0 }] } },
    3, { w0 := 0x301FF800, w1 := 0, w2 := 0, w3 := 43 * 2 ^ 12, payload := List.replicate 11 0, trailer := 0, crc := 0 },
    [List.replicate 24 0], by decide +kernel⟩,
   ⟨(U [(Reg.argPortStatus 3, 0x30000000), (Reg.argRingStatus 1, 0x50000000)]), 3,
    { w0 := 0x301FF800, w1 := 0, w2 := 0, w3 := 43 * 2 ^ 12, payload := List.replicate 11 0, trailer := 0, crc := 0 },
    by decide +kernel⟩,
   ⟨{ U [] with arg := { closed := [(cell 0x30000000 0 []).ident 1] } }, 3, cell 0x30000000 0 [], by decide +kernel⟩,
   ⟨{ U [] with arg := { sums := [(Cell.ident ({ w0 := 0x301FF800, w1 := 0, w2 := 0, w3 := 43 * 2 ^ 12, payload := List.replicate 11 0, trailer := 0, crc := 0 }) 0, (none, none))] } },
    0, { w0 := 0x301FF800, w1 := 0, w2 := 0, w3 := 43 * 2 ^ 12, payload := List.replicate 11 0, trailer := 0, crc := 0 }, none,
    by decide +kernel⟩,
   ⟨{ U [(Reg.argRingCtl 1, 0x10000), (Reg.argRingStatus 1, 0x50000000)] with bme := { sums := [{ car := 0, t0 := (State.cellTime { U [(Reg.argRingCtl 1, 0x10000), (Reg.argRingStatus 1, 0x50000000)] with time := { t := 2 ^ 53 * 1000000 } } 0), layer := 0, prb := 0, side := 0, count := 1, ready := 0, vals := List.replicate 24 0 }] }, time := { t := 2 ^ 53 * 1000000 } },
    1, 0, 0, 1,
    [{ car := 0, t0 := (State.cellTime { U [(Reg.argRingCtl 1, 0x10000), (Reg.argRingStatus 1, 0x50000000)] with time := { t := 2 ^ 53 * 1000000 } } 0), layer := 0, prb := 0, side := 0, count := 1, ready := 0, vals := List.replicate 24 0 }],
    by decide +kernel⟩,
   ⟨U [], 0, 0, 0, by decide +kernel⟩,
   ⟨(U [(Reg.argPortStatus 3, 0x30000000)]), (((U [(Reg.argPortStatus 3, 0x30000000)]).recvCell 3 (cell 0x60000000 0 [])).getD ((U
    [(Reg.argPortStatus 3, 0x30000000)]), .good)).1, 3, (cell 0x60000000 0 []), by decide +kernel⟩,
   ⟨({ U [(Reg.argPortStatus 3, 0x30000000)] with cal := { runs := [(24, (14, 7))] } }),
    ((({ U [(Reg.argPortStatus 3, 0x30000000)] with cal := { runs := [(24, (14, 7))] } }).recvCell 3 (cell 0x60200000 0 [7])).getD
    (({ U [(Reg.argPortStatus 3, 0x30000000)] with cal := { runs := [(24, (14, 7))] } }), .good)).1, 3, (cell 0x60200000 0 [7]), 14,
    7, by decide +kernel⟩,
   ⟨(U [(Reg.argPortStatus 3, 0x30000000)]), (((U [(Reg.argPortStatus 3, 0x30000000)]).recvCell 3 (cell 0x60400000 0 [])).getD ((U
    [(Reg.argPortStatus 3, 0x30000000)]), .good)).1, 3, (cell 0x60400000 0 []), by decide +kernel⟩,
   ⟨({ U [(Reg.argPortStatus 3, 0x30000000), (Reg.secStatus, 0x01000000)] with sec := { source := 3, next := some 5 } }),
    ((({ U [(Reg.argPortStatus 3, 0x30000000), (Reg.secStatus, 0x01000000)] with sec := { source := 3, next := some 5 } }).recvCell
    3 (cell 0x60400000 0 [9])).getD
    (({ U [(Reg.argPortStatus 3, 0x30000000), (Reg.secStatus, 0x01000000)] with sec := { source := 3, next := some 5 } }),
    .good)).1, 3, (cell 0x60400000 0 [9]), 5, by decide +kernel⟩,
   ⟨(U [(Reg.argPortStatus 3, 0x30000000)]), (((U [(Reg.argPortStatus 3, 0x30000000)]).recvCell 3 (cell 0xF0000000 0 [])).getD ((U
    [(Reg.argPortStatus 3, 0x30000000)]), .good)).1, 3, (cell 0xF0000000 0 []), .good, by decide +kernel⟩⟩

theorem witness_RingRoster :
    (∃ (s : State), s.up domRing = true) ∧
    (∃ (s : State), s.up domRing = true ∧ s.up domTime = false ∧ s.role s.tsRing = 1 ∧ s.placed s.tsRing = true ∧ s.arg.answered = false
    ∧ s.arg.tsMiss = 2) ∧
    (∃ (s : State) (u : State) (p : Nat) (c : Cell), c.kind = 4 ∧ c.sub = 1 ∧ s.recvCell p c = some (u, .good) ∧ u.role (ringOf p) = 1 ∧
    u.placed (ringOf p) = true ∧ p = u.homePort (ringOf p) ∧ ringOf p = u.tsRing ∧ u.up domTime = true) ∧
    (∃ (s : State) (u : State) (p : Nat) (c : Cell), c.kind = 4 ∧ c.sub = 2 ∧ s.recvCell p c = some (u, .good) ∧ u.up domTime = true) ∧
    (∃ (s : State) (u : State) (p : Nat) (c : Cell) (t : Nat × Nat × Nat), c.kind = 4 ∧ c.sub = 3 ∧ s.recvCell p c = some (u, .good) ∧
    u.arg.exch = some t ∧ p = u.homePort (ringOf p) ∧ ringOf p = u.tsRing ∧ u.tmuSrc ≠ 1) ∧
    (∃ (s : State) (u : State) (p : Nat) (c : Cell) (k : Nat), p < 4 ∧ c.kind = 5 ∧ c.sub = 1 ∧ s.recvCell p c = some (u, .good) ∧
    u.role (ringOf p) = 1 ∧ (c.payload.headD 0).toNat = k ∧ k < 1023) ∧
    (∃ (s : State) (u : State) (p : Nat) (c : Cell), c.kind = 5 ∧ c.sub = 1 ∧ s.recvCell p c = some (u, .good) ∧ u.role (ringOf p) = 0) ∧
    (∃ (s : State) (r : Nat), r < 2 ∧ s.up domRing = true ∧ alook s.arg.disc r = some 1 ∧ s.pairMode = false) ∧
    (∃ (s : State) (r : Nat), alook s.arg.disc r ≠ some 1) ∧
    (∃ (s : State) (u : State) (p : Nat) (c : Cell), c.kind = 5 ∧ c.sub = 2 ∧ s.recvCell p c = some (u, .good)) ∧
    (∃ (s : State) (u : State) (p : Nat) (c : Cell), c.kind = 5 ∧ c.sub = 3 ∧ s.recvCell p c = some (u, .good) ∧ u.role (ringOf p) = 2) ∧
    (∃ (s : State) (u : State) (p : Nat) (c : Cell), c.kind = 5 ∧ c.sub = 3 ∧ s.recvCell p c = some (u, .good) ∧ u.role (ringOf p) = 1) ∧
    (∃ (s : State) (q : Nat) (ws : List Word), q < 1024 ∧ ws.length = 9 ∧ s.cached (ws.take 8) = none) ∧
    (∃ (s : State) (u : State) (p : Nat) (c : Cell), p < 4 ∧ c.kind = 5 ∧ c.sub = 4 ∧ s.recvCell p c = some (u, .good) ∧ u.role (ringOf
    p) = 1 ∧ u.placed (ringOf p) = true ∧ (c.payload.headD 0).toNat = u.pos (ringOf p)) ∧
    (∃ (s : State) (u : State) (p : Nat) (c : Cell), c.kind = 5 ∧ c.sub = 5 ∧ s.recvCell p c = some (u, .good) ∧ u.role (ringOf p) = 2) ∧
    (∃ (s : State) (r : Nat) (q : Nat), r < 2 ∧ s.up domRing = true ∧ s.role r = 2 ∧ s.entryState q = 5) ∧
    (∃ (s : State) (q : Nat), s.entryState q ≠ 5) ∧
    (∃ (s : State) (u : State) (p : Nat) (c : Cell), c.kind = 5 ∧ c.sub = 6 ∧ s.recvCell p c = some (u, .good)) ∧
    (∃ (s : State) (u : State) (p : Nat) (c : Cell), c.kind = 5 ∧ c.sub = 7 ∧ s.recvCell p c = some (u, .good)) ∧
    (∃ (s : State) (u : State) (p : Nat) (c : Cell), c.kind = 7 ∧ s.recvCell p c = some (u, .good) ∧ u.pairMode = true) ∧
    (∃ (s : State) (u : State) (p : Nat) (c : Cell), c.kind = 7 ∧ s.recvCell p c = some (u, .good) ∧ u.pairMode = false) ∧
    (∃ (c : Cell), c.contrib ≤ 1) ∧
    (∃ (s : State) (q : Port) (val : Word), s.reaches q Reg.argAccept = true ∧ s.entryState (val.toNat % 1024) = 4 ∧ s.role 0 = 2) ∧
    (∃ (s : State) (q : Port) (val : Word), s.reaches q Reg.argAccept = true ∧ s.entryState (val.toNat % 1024) ≠ 4) ∧
    (∃ (s : State) (u : State) (d : List Word), s.up (domTile 0) = true ∧ s.up domRing = true ∧ s.loadRecord 0 8 = (some d, u)) ∧
    (∃ (s : State) (x : Int), (∀ pl ∈ s.arg.plans, x < ((pl.start * 1536 : Nat) : Int))) ∧
    (∃ (s : State) (x : Int) (a : Word) (b : Word) (c : Word) (d : Word), s.arg.plans = [⟨0, [a, b], [c, d], s.arg.failed⟩] ∧ 0 ≤ x ∧
    s.heading 0 = false ∧ s.heading 1 = false) :=
  ⟨⟨U [], by decide +kernel⟩,
   ⟨{ U [(Reg.argRingCtl 0, 0x10000), (Reg.argRingStatus 0, 0x30000000), (Reg.pwrDomStatus 9, 0)] with arg := { answered := false, tsMiss := 2 } },
    by decide +kernel⟩,
   ⟨(U [(Reg.argPortStatus 1, 0x30000000), (Reg.argRingCtl 0, 0x10000), (Reg.argRingStatus 0, 0x50000000)]), (((U [(Reg.argPortStatus
    1, 0x30000000), (Reg.argRingCtl 0, 0x10000), (Reg.argRingStatus 0, 0x50000000)]).recvCell 1 (cell 0x40200000 0 [])).getD ((U
    [(Reg.argPortStatus 1, 0x30000000), (Reg.argRingCtl 0, 0x10000), (Reg.argRingStatus 0, 0x50000000)]), .good)).1, 1, (cell
    0x40200000 0 []), by decide +kernel⟩,
   ⟨(U [(Reg.argPortStatus 1, 0x30000000)]), (((U [(Reg.argPortStatus 1, 0x30000000)]).recvCell 1 (cell 0x40400000 0 [])).getD ((U
    [(Reg.argPortStatus 1, 0x30000000)]), .good)).1, 1, (cell 0x40400000 0 []), by decide +kernel⟩,
   ⟨({ U [(Reg.argPortStatus 1, 0x30000000), (Reg.argRingCtl 0, 0x10000), (Reg.argRingStatus 0, 0x50000000)] with arg := { exch := some (1, 2, 3) } }),
    ((({ U [(Reg.argPortStatus 1, 0x30000000), (Reg.argRingCtl 0, 0x10000), (Reg.argRingStatus 0, 0x50000000)] with arg := { exch := some (1, 2, 3) } }).recvCell
    1 (cell 0x40600000 0 [])).getD
    (({ U [(Reg.argPortStatus 1, 0x30000000), (Reg.argRingCtl 0, 0x10000), (Reg.argRingStatus 0, 0x50000000)] with arg := { exch := some (1, 2, 3) } }),
    .good)).1, 1, (cell 0x40600000 0 []), (1, 2, 3), by decide +kernel⟩,
   ⟨(U [(Reg.argPortStatus 3, 0x30000000), (Reg.argRingCtl 1, 0x10000), (Reg.argRingStatus 1, 0x50000000)]), (((U [(Reg.argPortStatus
    3, 0x30000000), (Reg.argRingCtl 1, 0x10000), (Reg.argRingStatus 1, 0x50000000)]).recvCell 3 (cell 0x50200000 0 [1022])).getD ((U
    [(Reg.argPortStatus 3, 0x30000000), (Reg.argRingCtl 1, 0x10000), (Reg.argRingStatus 1, 0x50000000)]), .good)).1, 3, (cell
    0x50200000 0 [1022]), 1022, by decide +kernel⟩,
   ⟨(U [(Reg.argPortStatus 3, 0x30000000)]), (((U [(Reg.argPortStatus 3, 0x30000000)]).recvCell 3 (cell 0x50200000 0 [])).getD ((U
    [(Reg.argPortStatus 3, 0x30000000)]), .good)).1, 3, (cell 0x50200000 0 []), by decide +kernel⟩,
   ⟨{ U [] with arg := { disc := [(1, 1)] } }, 1, by decide +kernel⟩,
   ⟨U [], 0, by decide +kernel⟩,
   ⟨(U [(Reg.argPortStatus 3, 0x30000000)]), (((U [(Reg.argPortStatus 3, 0x30000000)]).recvCell 3 (cell 0x50400000 0 [])).getD ((U
    [(Reg.argPortStatus 3, 0x30000000)]), .good)).1, 3, (cell 0x50400000 0 []), by decide +kernel⟩,
   ⟨(U [(Reg.argPortStatus 3, 0x30000000), (Reg.argRingCtl 1, 0x20000)]), (((U [(Reg.argPortStatus 3, 0x30000000), (Reg.argRingCtl 1,
    0x20000)]).recvCell 3 (cell 0x50600000 0 [])).getD ((U [(Reg.argPortStatus 3, 0x30000000), (Reg.argRingCtl 1, 0x20000)]),
    .good)).1, 3, (cell 0x50600000 0 []), by decide +kernel⟩,
   ⟨(U [(Reg.argPortStatus 3, 0x30000000), (Reg.argRingCtl 1, 0x10000), (Reg.argRingStatus 1, 0x50000000)]), (((U [(Reg.argPortStatus
    3, 0x30000000), (Reg.argRingCtl 1, 0x10000), (Reg.argRingStatus 1, 0x50000000)]).recvCell 3 (cell 0x50600000 0 [])).getD ((U
    [(Reg.argPortStatus 3, 0x30000000), (Reg.argRingCtl 1, 0x10000), (Reg.argRingStatus 1, 0x50000000)]), .good)).1, 3, (cell
    0x50600000 0 []), by decide +kernel⟩,
   ⟨U [], 1023, List.replicate 9 0, by decide +kernel⟩,
   ⟨(U [(Reg.argPortStatus 3, 0x30000000), (Reg.argRingCtl 1, 0x10000), (Reg.argRingStatus 1, 0x30000009)]), (((U [(Reg.argPortStatus
    3, 0x30000000), (Reg.argRingCtl 1, 0x10000), (Reg.argRingStatus 1, 0x30000009)]).recvCell 3 (cell 0x50800000 0 [9])).getD ((U
    [(Reg.argPortStatus 3, 0x30000000), (Reg.argRingCtl 1, 0x10000), (Reg.argRingStatus 1, 0x30000009)]), .good)).1, 3, (cell
    0x50800000 0 [9]), by decide +kernel⟩,
   ⟨(U [(Reg.argPortStatus 3, 0x30000000), (Reg.argRingCtl 1, 0x20000)]), (((U [(Reg.argPortStatus 3, 0x30000000), (Reg.argRingCtl 1,
    0x20000)]).recvCell 3 (cell 0x50A00000 0 [])).getD ((U [(Reg.argPortStatus 3, 0x30000000), (Reg.argRingCtl 1, 0x20000)]),
    .good)).1, 3, (cell 0x50A00000 0 []), by decide +kernel⟩,
   ⟨{ U [(Reg.argRingCtl 1, 0x20000)] with mem := [(rosterWord 1023 0 + 3, 0x50)] }, 1, 1023, by decide +kernel⟩,
   ⟨U [], 0, by decide +kernel⟩,
   ⟨(U [(Reg.argPortStatus 3, 0x30000000)]), (((U [(Reg.argPortStatus 3, 0x30000000)]).recvCell 3 (cell 0x50C00000 0 [])).getD ((U
    [(Reg.argPortStatus 3, 0x30000000)]), .good)).1, 3, (cell 0x50C00000 0 []), by decide +kernel⟩,
   ⟨(U [(Reg.argPortStatus 3, 0x30000000)]), (((U [(Reg.argPortStatus 3, 0x30000000)]).recvCell 3 (cell 0x50E00000 0 [])).getD ((U
    [(Reg.argPortStatus 3, 0x30000000)]), .good)).1, 3, (cell 0x50E00000 0 []), by decide +kernel⟩,
   ⟨(U [(Reg.argPortStatus 3, 0x30000000), (Reg.argCtl, 0x80000000), (Reg.argRingCtl 0, 0x10000), (Reg.argRingCtl 1, 0x10000)]), (((U
    [(Reg.argPortStatus 3, 0x30000000), (Reg.argCtl, 0x80000000), (Reg.argRingCtl 0, 0x10000), (Reg.argRingCtl 1,
    0x10000)]).recvCell 3 (cell 0x70000000 0 [])).getD ((U [(Reg.argPortStatus 3, 0x30000000), (Reg.argCtl, 0x80000000),
    (Reg.argRingCtl 0, 0x10000), (Reg.argRingCtl 1, 0x10000)]), .good)).1, 3, (cell 0x70000000 0 []), by decide +kernel⟩,
   ⟨(U [(Reg.argPortStatus 3, 0x30000000)]), (((U [(Reg.argPortStatus 3, 0x30000000)]).recvCell 3 (cell 0x70000000 0 [])).getD ((U
    [(Reg.argPortStatus 3, 0x30000000)]), .good)).1, 3, (cell 0x70000000 0 []), by decide +kernel⟩,
   ⟨cell 0x50000400 0 [], by decide +kernel⟩,
   ⟨{ U [(Reg.argRingCtl 0, 0x20000)] with mem := [(rosterWord 1023 0 + 3, 0x40)] }, .pcie, 1023, by decide +kernel⟩,
   ⟨U [], .pcie, 0, by decide +kernel⟩,
   ⟨(up.putNvms 0 (slotA 8) (record 8 0 1 [7])), ((up.putNvms 0 (slotA 8) (record 8 0 1 [7])).loadRecord 0 8).2, [7],
    by decide +kernel⟩,
   ⟨{ U [] with arg := { plans := [⟨1, [0, 0], [0, 0], 0⟩] } }, 1535, by decide +kernel⟩,
   ⟨{ U [] with arg := { plans := [⟨0, [0, 0], [0, 0], 0⟩] } }, 0, 0, 0, 0, 0, by decide +kernel⟩⟩

theorem witness_SerialLanes :
    (∃ (s : State) (l : Nat), l < 80 ∧ laneUp s l = true ∧ s.laneUsed l = true ∧ l ∉ s.ready) ∧
    (∃ (s : State) (l : Nat), (s.laneUsed l = false ∨ l ∈ s.ready)) ∧
    (∃ (s : State) (l : Nat) (c : Nat), l < 64 ∧ c ≤ 2 ∧ s.up domRing = true ∧ s.flag (Reg.slnLaneStatus l) 28 = true ∧ (s.portState (l
    / 16) = 3 ∨ s.portState (l / 16) = 4)) ∧
    (∃ (s : State) (l : Nat) (c : Nat), l < 80 ∧ c ≤ 2 ∧ laneUp s l = true) ∧
    (∃ (s : State) (p : Nat) (m : Word), p < 4 ∧ keepLanes m ≠ 0 ∧ (s.argPort p).keep ≠ keepLanes m) ∧
    (∃ (m : Word), keepLanes m = 0) ∧
    (∃ (s : State) (p : Nat) (m : Word), keepLanes m ≠ 0 ∧ (s.argPort p).keep = keepLanes m) ∧
    (∃ (s : State) (l : Nat) (c : Nat), 64 ≤ l ∧ l < 80 ∧ c ≤ 2 ∧ s.flag (Reg.slnLaneStatus l) 28 = true ∧ s.fhLink (lanePort l) = true) ∧
    (∃ (s : State) (l : Nat), l < 80 ∧ s.flag (Reg.slnLaneStatus l) 28 = false) ∧
    (∃ (s : State) (p : Nat), p < 4 ∧ s.up domRing = true ∧ (s.portState p = 3 ∨ s.portState p = 4)) ∧
    (∃ (s : State) (p : Nat), p < 4 ∧ s.up domRing = true ∧ s.portState p = 4 ∧ (s.argPort p).keep ≠ 0) ∧
    (∃ (s : State) (p : Nat), (s.argPort p).keep = 0) ∧
    (∃ (s : State) (l : Nat), l < 80 ∧ laneUp s l = true ∧ s.flag (Reg.slnLaneStatus l) 28 = true) ∧
    (∃ (s : State) (p : Port) (l : Nat) (val : Word), l < 80 ∧ s.reaches p (Reg.slnLaneCtl l) = true ∧ s.lanePortDown l = true ∧
    val.getLsbD 8 = false ∧ s.patternOk l (val.toNat / 2 ^ 24 % 16) = true ∧ s.patternOk l (val.toNat / 2 ^ 20 % 16) = true) ∧
    (∃ (s : State) (p : Port) (l : Nat) (val : Word), l < 80 ∧ s.reaches p (Reg.slnLaneCtl l) = true ∧ s.lanePortDown l = false ∧
    (val.getLsbD 31 = true ∨ val.toNat / 2 ^ 29 % 4 ≠ 0)) ∧
    (∃ (s : State) (p : Port) (l : Nat) (val : Word), l < 80 ∧ s.reaches p (Reg.slnLaneCtl l) = true ∧ val.toNat / 2 ^ 29 = 0 ∧
    s.patternOk l (val.toNat / 2 ^ 24 % 16) = true ∧ s.patternOk l (val.toNat / 2 ^ 20 % 16) = true) ∧
    (∃ (s : State) (l : Nat), l < 80 ∧ laneUp s l = true ∧ s.fld (Reg.slnLaneCtl l) 7 4 ≠ 0) ∧
    (∃ (s : State) (l : Nat), s.fld (Reg.slnLaneCtl l) 7 4 = 0) ∧
    (∃ (s : State) (l : Nat), l < 80 ∧ laneUp s l = true ∧ s.flag (Reg.slnLaneCtl l) 31 = true ∧ s.flag (Reg.slnLaneStatus l) 27 =
    false) ∧
    (∃ (s : State) (l : Nat), l < 80 ∧ laneUp s l = true ∧ s.flag (Reg.slnLaneCtl l) 31 = true ∧ s.flag (Reg.slnLaneStatus l) 27 = true) ∧
    (∃ (s : State) (l : Nat), s.flag (Reg.slnLaneCtl l) 31 = false) :=
  ⟨⟨U [(Reg.fhpPortCtl 3, 0x80000000)], 79, by decide +kernel⟩,
   ⟨U [], 0, by decide +kernel⟩,
   ⟨U [(Reg.slnLaneStatus 63, 0x10000000), (Reg.argPortStatus 3, 0x30000000)], 63, 2, by decide +kernel⟩,
   ⟨U [], 79, 2, by decide +kernel⟩,
   ⟨U [], 3, 0xFFFF, by decide +kernel⟩,
   ⟨0, by decide +kernel⟩,
   ⟨{ U [] with arg := { ports := [(3, { keep := 0xF })] } }, 3, 0x1F, by decide +kernel⟩,
   ⟨U [(Reg.slnLaneStatus 79, 0x10000000), (Reg.fhpPortStatus 3, 0x80000000)], 79, 2, by decide +kernel⟩,
   ⟨U [], 79, by decide +kernel⟩,
   ⟨U [(Reg.argPortStatus 3, 0x40000000)], 3, by decide +kernel⟩,
   ⟨{ U [(Reg.argPortStatus 3, 0x40000000)] with arg := { ports := [(3, { keep := 15 })] } }, 3, by decide +kernel⟩,
   ⟨U [], 0, by decide +kernel⟩,
   ⟨U [(Reg.slnLaneStatus 79, 0x10000000)], 79, by decide +kernel⟩,
   ⟨U [], .pcie, 79, 0, by decide +kernel⟩,
   ⟨U [(Reg.fhpPortCtl 3, 0x80000000)], .pcie, 79, 0x80000000, by decide +kernel⟩,
   ⟨U [], .pcie, 79, 0, by decide +kernel⟩,
   ⟨U [(Reg.slnLaneCtl 79, 0x10)], 79, by decide +kernel⟩,
   ⟨U [], 0, by decide +kernel⟩,
   ⟨U [(Reg.slnLaneCtl 79, 0x80000000)], 79, by decide +kernel⟩,
   ⟨U [(Reg.slnLaneCtl 79, 0x80000000), (Reg.slnLaneStatus 79, 0x08000000)], 79, by decide +kernel⟩,
   ⟨U [], 0, by decide +kernel⟩⟩

theorem witness_Fronthaul :
    (∃ (s : State) (i : Nat), i < 4 ∧ s.fhLink i = true) ∧
    (∃ (s : State) (i : Nat) (bs : List Byte) (v : Nat), i < 4 ∧ s.fhLink i = true ∧ (etherOf bs).1 = some v ∧ s.flag (Reg.fhpPortVlan
    i) 30 = true ∧ v ≠ s.fld (Reg.fhpPortVlan i) 11 0) ∧
    (∃ (s : State) (i : Nat) (bs : List Byte), i < 4 ∧ s.fhLink i = true ∧ s.flag (Reg.fhpPortVlan i) 30 = false ∧ s.addressOk i bs =
    true ∧ (etherOf bs).2.1 ≠ 0xAEFE) ∧
    (∃ (s : State) (i : Nat) (bs : List Byte), i < 4 ∧ s.fhLink i = true ∧ s.flag (Reg.fhpPortVlan i) 30 = false ∧ s.addressOk i bs =
    false) ∧
    (∃ (s : State) (i : Nat), i < 4 ∧ s.fhLink i = true) ∧
    (∃ (s : State) (i : Nat), i < 4 ∧ s.fhLink i = true) ∧
    (∃ (s : State) (m : CMsg), s.badHeader m.hdr 2 = true) ∧
    (∃ (s : State) (m : UMsg), s.badHeader m.hdr 0 = true) ∧
    (∃ (s : State) (c : Nat) (uc : Bool) (t : Int), t - (if uc = true then s.closeUc c else s.closeDl c) < (s.nowU : Int) ∧ t - (s.fld
    (if uc = true then Reg.fhpWinUc c else Reg.fhpWinDl c) 31 16 * 1536000 : Int) ≤ s.nowU) ∧
    (∃ (s : State) (c : Nat) (uc : Bool) (t : Int), (s.nowU : Int) ≤ t - (if uc = true then s.closeUc c else s.closeDl c) ∧ t - (s.fld
    (if uc = true then Reg.fhpWinUc c else Reg.fhpWinDl c) 31 16 * 1536000 : Int) ≤ s.nowU) ∧
    (∃ (s : State) (i : Nat) (bs : List Byte) (cls : Nat) (k : Nat), i < 4 ∧ s.fhLink i = true ∧ s.hostClass i bs = some cls ∧ (cls = 0
    ∨ cls = 3) ∧ s.foreignVid i bs = false ∧ s.addressOk i bs = true ∧ (alook s.fhp.rxNext i).getD 0 = k ∧ k < 8 ∧ (s.rawWord
    (rxSlot i k)).getLsbD 31 = false ∧ bs.length ≤ 240) ∧
    (∃ (s : State) (i : Nat) (bs : List Byte) (cls : Nat), i < 4 ∧ s.fhLink i = true ∧ s.hostClass i bs = some cls ∧ (cls = 0 ∨ cls = 3)
    ∧ s.foreignVid i bs = false ∧ s.addressOk i bs = true ∧ ((s.rawWord (rxSlot i ((alook s.fhp.rxNext i).getD 0))).getLsbD 31 =
    true ∨ 240 < bs.length)) ∧
    (∃ (s : State) (i : Nat) (bs : List Byte), (s.hostClass i bs = none ∨ s.foreignVid i bs = true ∨ s.addressOk i bs = false)) ∧
    (∃ (s : State) (p : Port) (i : Nat) (k : Nat) (val : Word), i < 4 ∧ k < 8 ∧ s.reaches p (rxSlot i k) = true ∧ val.getLsbD 31 = true) ∧
    (∃ (s : State) (p : Port) (i : Nat) (k : Nat) (val : Word), i < 4 ∧ k < 4 ∧ s.reaches p (txSlot i k) = true ∧ (s.rawWord (txSlot i
    k)).getLsbD 31 = false ∧ 14 ≤ val.toNat % 256 ∧ val.toNat % 256 ≤ 240) ∧
    (∃ (s : State) (p : Port) (i : Nat) (k : Nat), i < 4 ∧ k < 4 ∧ s.reaches p (txSlot i k) = true ∧ (s.rawWord (txSlot i k)).getLsbD 31
    = true) ∧
    (∃ (s : State) (i : Nat), i < 4 ∧ s.fhLink i = true ∧ (s.rawWord (txSlot i 0)).getLsbD 31 = true) ∧
    (∃ (s : State) (i : Nat), (∀ k, k < 4 → (s.rawWord (txSlot i k)).getLsbD 31 = false)) ∧
    (∃ (s : State) (c : Nat) (l : Nat) (air : AirRef) (st : Nat) (n : Nat), c < 2 ∧ l < 32 ∧ s.up domFh = true ∧ s.up domCrm = true ∧
    s.carRuns c = true ∧ s.sendsUl l = true ∧ n ≠ 0 ∧ s.resultDue c l (s.airAt c air.frame (s.airSym c air)) ((List.range n).map (st
    + ·)) = true ∧ s.fhLink (s.ulPort c l) = true ∧ s.flag Reg.fhpComp 31 = false ∧ s.flag Reg.fhpComp 0 = false ∧ s.fld Reg.fhpComp
    7 4 = 0 ∧ 34 + 4 + 48 * n ≤ s.fld Reg.fhpCtl 29 16 ∧ (∀ j x, j < n → s.prbResult c l (s.airAt c air.frame (s.airSym c air)) (st
    + j) = some x → x.1.length = 24)) ∧
    (∃ (s : State) (c : Nat) (l : Nat) (air : AirRef) (st : Nat) (n : Nat), c < 2 ∧ l < 32 ∧ s.up domFh = true ∧ s.up domCrm = true ∧
    s.carRuns c = true ∧ s.sendsUl l = true ∧ n ≠ 0 ∧ s.resultDue c l (s.airAt c air.frame (s.airSym c air)) ((List.range n).map (st
    + ·)) = true ∧ s.fhLink (s.ulPort c l) = false) ∧
    (∃ (s : State) (c : Nat) (l : Nat) (air : AirRef) (st : Nat) (n : Nat), s.resultDue c l (s.airAt c air.frame (s.airSym c air))
    ((List.range n).map (st + ·)) = false) ∧
    (∃ (s : State) (c : Nat) (l : Nat), c < 2 ∧ l < 32 ∧ s.up domFh = true) ∧
    (∃ (s : State) (i : Nat), i < 4 ∧ s.fhLink i = true) ∧
    (∃ (s : State) (i : Nat) (sp : Nat), i < 4 ∧ s.up domFh = true ∧ s.fhLink i = false ∧ s.flag (Reg.fhpPortCtl i) 31 = true ∧ s.flag
    (Reg.fhpPortCtl i) 30 = false ∧ sp = s.fld (Reg.fhpPortCtl i) 26 24 ∧ (∀ j, j < 4 → (64 + 4 * i + j) ∈ s.ready)) ∧
    (∃ (s : State) (i : Nat), s.flag (Reg.fhpPortCtl i) 31 = false) :=
  ⟨⟨U [(Reg.fhpPortStatus 3, 0x80000000)], 3, by decide +kernel⟩,
   ⟨U [(Reg.fhpPortStatus 3, 0x80000000), (Reg.fhpPortVlan 3, 0x40000000)], 3, List.replicate 12 0 ++ [0x81, 0, 0, 5], 5,
    by decide +kernel⟩,
   ⟨U [(Reg.fhpPortStatus 3, 0x80000000), (Reg.fhpPortVlan 3, 0)], 3, List.replicate 14 0, by decide +kernel⟩,
   ⟨U [(Reg.fhpPortStatus 3, 0x80000000), (Reg.fhpPortVlan 3, 0)], 3, [0, 0, 0, 0, 0, 1], by decide +kernel⟩,
   ⟨U [(Reg.fhpPortStatus 3, 0x80000000)], 3, by decide +kernel⟩,
   ⟨U [(Reg.fhpPortStatus 3, 0x80000000)], 3, by decide +kernel⟩,
   ⟨U [], ⟨⟨0, 2, true, 0, true, 0, 0⟩, true, 0, 0, 0, ⟨0, 0, 0, 0⟩, (0, 0, 0), 0, 0, [], []⟩, by decide +kernel⟩,
   ⟨U [], ⟨⟨0, 0, true, 0, true, 0, 0⟩, true, 0, 0, ⟨0, 0, 0, 0⟩, []⟩, by decide +kernel⟩,
   ⟨U [], 0, true, 0, by decide +kernel⟩,
   ⟨U [(Reg.fhpWinUc 1, 0xFFFF0000)], 1, true, 65535 * 1536000, by decide +kernel⟩,
   ⟨U [(Reg.fhpPortStatus 3, 0x80000000)], 3, List.replicate 12 0 ++ [0x88, 0xF7] ++ List.replicate 226 0, 0, 0, by decide +kernel⟩,
   ⟨U [(Reg.fhpPortStatus 3, 0x80000000)], 3, List.replicate 12 0 ++ [0x88, 0xF7] ++ List.replicate 227 0, 0, by decide +kernel⟩,
   ⟨U [], 0, [], by decide +kernel⟩,
   ⟨U [], .pcie, 3, 7, 0x80000000, by decide +kernel⟩,
   ⟨U [], .pcie, 3, 3, 240, by decide +kernel⟩,
   ⟨{ U [] with mem := [(txSlot 3 3 + 3, 0x80)] }, .pcie, 3, 3, by decide +kernel⟩,
   ⟨{ U [(Reg.fhpPortStatus 3, 0x80000000)] with mem := [(txSlot 3 0 + 3, 0x80)] }, 3, by decide +kernel⟩,
   ⟨U [], 0, by decide +kernel⟩,
   ⟨{ U [(Reg.tlpAirCtl, 2), (Reg.fhpPortStatus 0, 0x80000000), (Reg.fhpComp, 0), (Reg.fhpCtl, 0x560000)] with force := [(Reg.tlpAirCfg 0, 0x80FF0001), (Reg.tlpAirCfg 1, 0x80FF0001), (Reg.bmeCar 0, 0xC001000), (Reg.bmeCar 1, 0xC001000)], bme := { sums := [{ car := 1, t0 := 0, layer := 31, prb := 0, side := 0, count := 1, ready := 0, vals := List.replicate 24 0 }] } }, 1, 31, ⟨0, 0, 0, 0⟩, 0, 1, by decide +kernel, by decide +kernel, by decide +kernel, by decide +kernel, by decide +kernel, by decide +kernel, by decide +kernel, by decide +kernel, by decide +kernel, by decide +kernel, by decide +kernel, by decide +kernel, by decide +kernel, by
    intro j x hj hx
    obtain rfl : j = 0 := by omega
    have e : (State.prbResult _ 1 31 _ 0).map (fun y => y.1.length) = some 24 := (by decide +kernel : (State.prbResult ({ U [(Reg.tlpAirCtl, 2), (Reg.fhpPortStatus 0, 0x80000000), (Reg.fhpComp, 0), (Reg.fhpCtl, 0x560000)] with force := [(Reg.tlpAirCfg 0, 0x80FF0001), (Reg.tlpAirCfg 1, 0x80FF0001), (Reg.bmeCar 0, 0xC001000), (Reg.bmeCar 1, 0xC001000)], bme := { sums := [{ car := 1, t0 := 0, layer := 31, prb := 0, side := 0, count := 1, ready := 0, vals := List.replicate 24 0 }] } }) 1 31 (State.airAt ({ U [(Reg.tlpAirCtl, 2), (Reg.fhpPortStatus 0, 0x80000000), (Reg.fhpComp, 0), (Reg.fhpCtl, 0x560000)] with force := [(Reg.tlpAirCfg 0, 0x80FF0001), (Reg.tlpAirCfg 1, 0x80FF0001), (Reg.bmeCar 0, 0xC001000), (Reg.bmeCar 1, 0xC001000)], bme := { sums := [{ car := 1, t0 := 0, layer := 31, prb := 0, side := 0, count := 1, ready := 0, vals := List.replicate 24 0 }] } }) 1 0 (State.airSym ({ U [(Reg.tlpAirCtl, 2), (Reg.fhpPortStatus 0, 0x80000000), (Reg.fhpComp, 0), (Reg.fhpCtl, 0x560000)] with force := [(Reg.tlpAirCfg 0, 0x80FF0001), (Reg.tlpAirCfg 1, 0x80FF0001), (Reg.bmeCar 0, 0xC001000), (Reg.bmeCar 1, 0xC001000)], bme := { sums := [{ car := 1, t0 := 0, layer := 31, prb := 0, side := 0, count := 1, ready := 0, vals := List.replicate 24 0 }] } }) 1 ⟨0, 0, 0, 0⟩)) (0 + 0)).map (fun y => y.1.length) = some 24)
    rw [hx] at e
    exact Option.some.inj e⟩,
   ⟨{ U [(Reg.tlpAirCtl, 2), (Reg.fhpComp, 0), (Reg.fhpCtl, 0x560000)] with force := [(Reg.tlpAirCfg 0, 0x80FF0001), (Reg.tlpAirCfg 1, 0x80FF0001), (Reg.bmeCar 0, 0xC001000), (Reg.bmeCar 1, 0xC001000)], bme := { sums := [{ car := 1, t0 := 0, layer := 31, prb := 0, side := 0, count := 1, ready := 0, vals := List.replicate 24 0 }] } },
    1, 31, ⟨0, 0, 0, 0⟩, 0, 1, by decide +kernel⟩,
   ⟨U [], 0, 0, ⟨0, 0, 0, 0⟩, 0, 1, by decide +kernel⟩,
   ⟨U [], 1, 31, by decide +kernel⟩,
   ⟨U [(Reg.fhpPortStatus 3, 0x80000000)], 3, by decide +kernel⟩,
   ⟨{ U [(Reg.fhpPortCtl 3, 0x80000000)] with ready := [76, 77, 78, 79] }, 3, 0, by decide +kernel⟩,
   ⟨U [], 0, by decide +kernel⟩⟩

theorem witness_TimeUnit :
    (∃ (s : State), s.up domTime = true ∧ s.tmuSrc ≠ 2) ∧
    (∃ (s : State) (tns : Word) (tfr : Nat), s.up domTime = true ∧ s.tmuSrc = 2 ∧ (tdiff (s.reg Reg.tmuPpsExp) tns * 65536 - (tfr %
    65536 : Nat)).natAbs ≤ 500000000 * 65536) ∧
    (∃ (s : State) (tns : Word) (tfr : Nat), s.up domTime = true ∧ s.tmuSrc = 2 ∧ 500000000 * 65536 < (tdiff (s.reg Reg.tmuPpsExp) tns *
    65536 - (tfr % 65536 : Nat)).natAbs) ∧
    (∃ (s : State), s.up domTime = true ∧ s.tmuSrc = 2) ∧
    (∃ (s : State), s.tmuSrc ≠ 2) ∧
    (∃ (s : State), s.up domTime = true ∧ s.steerOn = false ∧ s.tmuState ≠ 3 ∧ -1801439850948 ≤ s.rateReq ∧ s.rateReq ≤ 1801439850948) ∧
    (∃ (s : State), s.up domTime = true ∧ s.steerOn = true ∧ s.ccsHold = false ∧ s.tmuState ≠ 3 ∧ -90071992547 ≤ s.rateReq ∧ s.rateReq ≤
    90071992547 ∧ -100000000000 ≤ s.rate ∧ s.rate ≤ 100000000000) ∧
    (∃ (s : State) (p : Port), s.reaches p Reg.tmuRateReqHi = true ∧ s.tmuSrc ≠ 0) ∧
    (∃ (s : State) (p : Port) (val : Word), s.reaches p Reg.tmuCtl = true ∧ val.toNat / 65536 % 4 ≤ 2 ∧ val.toNat / 65536 % 4 ≠
    s.tmuSrc) ∧
    (∃ (s : State), s.up domTime = true ∧ s.flag Reg.tmuStatus 28 = true ∧ s.pairsIdle = true) ∧
    (∃ (s : State), s.pairsIdle = false) ∧
    (∃ (s : State) (p : Port) (val : Word), s.reaches p Reg.tmuStepArm = true ∧ val.getLsbD 0 = true ∧ s.tmuSrc = 0) ∧
    (∃ (s : State) (p : Port) (val : Word), s.reaches p Reg.tmuStepArm = true ∧ val.getLsbD 0 = false) ∧
    (∃ (s : State) (v : Int), s.up domTime = true ∧ s.up domCob = false ∧ (s.flag Reg.tmuStepForce 0 = true ∨ s.pairsIdle = true) ∧
    s.time.step = some v) ∧
    (∃ (s : State), (s.flag Reg.tmuStepForce 0 = false ∧ s.pairsIdle = false ∨ s.time.step = none)) ∧
    (∃ (s : State), s.up domTime = true ∧ s.hostSilent = true ∧ (s.tmuState = 1 ∨ s.tmuState = 2)) ∧
    (∃ (s : State), s.hostSilent = false) ∧
    (∃ (s : State) (a : Nat), s.time.reqAge = some a) ∧
    (∃ (s : State) (p : Port), s.reaches p Reg.tmuRateReqHi = true ∧ s.tmuSrc = 0) ∧
    (∃ (s : State), s.tmuState = 0) ∧
    (∃ (s : State) (p : Port) (k : Nat) (val : Word), k < 9 ∧ s.reaches p (Reg.tmuPulseCtl k) = true ∧ val.getLsbD 31 = false) ∧
    (∃ (s : State) (p : Port) (k : Nat) (val : Word), k < 9 ∧ s.reaches p (Reg.tmuPulseCtl k) = true ∧ val.getLsbD 31 = true) ∧
    (∃ (s : State) (k : Nat) (e : Nat), k < 9 ∧ s.up domTime = true ∧ (s.pulse k).next = some e ∧ s.flag (Reg.tmuPulseCtl k) 31 = true ∧
    s.reached e = true) ∧
    (∃ (s : State) (k : Nat) (e : Nat), (s.pulse k).next = some e ∧ s.reached e = false) ∧
    (∃ (s : State), s.up domTime = true ∧ s.steerOn = true) :=
  ⟨⟨U [], by decide +kernel⟩,
   ⟨U [(Reg.tmuCtl, 0x20000)], 500000000, 0, by decide +kernel⟩,
   ⟨U [(Reg.tmuCtl, 0x20000)], 500000001, 0, by decide +kernel⟩,
   ⟨U [(Reg.tmuCtl, 0x20000)], by decide +kernel⟩,
   ⟨U [], by decide +kernel⟩,
   ⟨{ U [(Reg.tmuStatus, 0)] with time := { hostReq := 1801439850948 } }, by decide +kernel⟩,
   ⟨{ U [(Reg.tmuStatus, 0x40000000), (Reg.tmuRateLo, 0x4876E800), (Reg.tmuRateHi, 0x17), (Reg.losCcsStatus 0, 0x80000000), (Reg.losCcsStatus 1, 0x80000000), (Reg.losCcsStatus 2, 0x80000000), (Reg.losCcsStatus 3, 0x80000000)] with time := { hostReq := -90071992547 } },
    by decide +kernel⟩,
   ⟨U [(Reg.tmuCtl, 0x10000)], .pcie, by decide +kernel⟩,
   ⟨U [], .pcie, 0x20000, by decide +kernel⟩,
   ⟨{ U [(Reg.tmuStatus, 0x10000000), (Reg.bdaStatus, 0)] with cal := { loaded := 15 } }, by decide +kernel⟩,
   ⟨U [], by decide +kernel⟩,
   ⟨U [], .pcie, 1, by decide +kernel⟩,
   ⟨U [], .pcie, 0, by decide +kernel⟩,
   ⟨{ put State.reset [(Reg.pwrDomStatus 9, 2), (Reg.tmuStepForce, 1)] with time := { step := some 5 } }, 5, by decide +kernel⟩,
   ⟨U [], by decide +kernel⟩,
   ⟨{ U [(Reg.tmuStatus, 2), (Reg.tmuHostTmo, 1)] with time := { reqAge := some 1000000 } }, by decide +kernel⟩,
   ⟨U [], by decide +kernel⟩,
   ⟨{ U [] with time := { reqAge := some 0 } }, 0, by decide +kernel⟩,
   ⟨U [], .pcie, by decide +kernel⟩,
   ⟨U [], by decide +kernel⟩,
   ⟨U [], .pcie, 8, 0, by decide +kernel⟩,
   ⟨U [], .pcie, 8, 0x80000000, by decide +kernel⟩,
   ⟨{ U [(Reg.tmuPulseCtl 8, 0x80000000)] with time := { pulses := [(8, { next := some 0 })] } }, 8, 0, by decide +kernel⟩,
   ⟨{ U [] with time := { pulses := [(8, { next := some 1 })] } }, 8, 1, by decide +kernel⟩,
   ⟨U [], by decide +kernel⟩⟩

theorem witness_DmaEngine :
    (∃ (s : State) (p : Port) (c : Nat) (val : Word), c < 32 ∧ s.reaches p (Reg.dmaChCtl c) = true ∧ val.getLsbD 30 = false ∧
    s.startable c = true) ∧
    (∃ (s : State) (p : Port) (c : Nat) (val : Word), c < 32 ∧ s.reaches p (Reg.dmaChCtl c) = true ∧ val.getLsbD 30 = false ∧
    s.startable c = false) ∧
    (∃ (s : State) (c : Nat), c < 32 ∧ descAddrOk (s.pair64 (Reg.dmaChDescLo c) (Reg.dmaChDescHi c)) = true ∧ isDev (s.pair64
    (Reg.dmaChDescLo c) (Reg.dmaChDescHi c)) = false) ∧
    (∃ (s : State) (c : Nat), c < 32 ∧ descAddrOk (s.pair64 (Reg.dmaChDescLo c) (Reg.dmaChDescHi c)) = false ∧ s.up domCob = true) ∧
    (∃ (s : State) (p : Port) (c : Nat) (val : Word), c < 32 ∧ s.reaches p (Reg.dmaChCtl c) = true ∧ val.getLsbD 31 = false ∧ (s.chState
    c = chQueued ∨ s.chState c = chPace) ∧ s.dma.active ≠ some c) ∧
    (∃ (s : State) (p : Port) (c : Nat) (val : Word), c < 32 ∧ s.reaches p (Reg.dmaChCtl c) = true ∧ val.getLsbD 31 = false ∧ s.chState
    c = chActive) ∧
    (∃ (s : State) (p : Port) (c : Nat) (val : Word), c < 32 ∧ s.reaches p (Reg.dmaChCtl c) = true ∧ val.getLsbD 31 = false ∧
    s.startable c = true) ∧
    (∃ (s : State) (p : Port) (c : Nat), c < 32 ∧ s.reaches p (Reg.dmaChAppend c) = true ∧ s.chState c ≠ chStopped) ∧
    (∃ (s : State) (p : Port) (c : Nat), c < 32 ∧ s.reaches p (Reg.dmaChAppend c) = true ∧ s.chState c = chStopped) ∧
    (∃ (s : State) (c : Nat) (l : List Nat), s.up domCob = true ∧ s.dma.active = none ∧ s.dma.urgent = c :: l) ∧
    (∃ (s : State) (c : Nat) (l : List Nat), s.up domCob = true ∧ s.dma.active = none ∧ s.dma.urgent = [] ∧ s.dma.normal = c :: l) ∧
    (∃ (s : State), (s.dma.active.isSome = true ∨ s.dma.urgent ++ s.dma.normal = [])) ∧
    (∃ (c : Nat) (d : List Word), c < 32 ∧ dFlag d 31 = false) ∧
    (∃ (s : State) (src : Nat), src < 64 ∧ s.up domCob = true) ∧
    (∃ (s : State) (src : Nat) (c : Nat), c < 32 ∧ (∀ b, b < 32 → (s.fld (Reg.dmaChCfg b) 29 24 = src ↔ b = c)) ∧ s.paced c = false ∧
    s.chState c ≠ chPace) ∧
    (∃ (s : State) (src : Nat) (c : Nat), c < 32 ∧ (∀ b, b < 32 → (s.fld (Reg.dmaChCfg b) 29 24 = src ↔ b = c)) ∧ s.paced c = true) ∧
    (∃ (s : State) (c : Nat) (d : List Word), c < 32 ∧ s.dma.active = some c ∧ s.desc? c = some d ∧ c ∈ s.dma.begun) ∧
    (∃ (s : State) (c : Nat) (d : List Word), c < 32 ∧ isDev (dSrc d) = true ∧ isDev (dDst d) = true ∧ s.devUp (dSrc d) = true ∧ s.devUp
    (dDst d) = true ∧ rangeOk (dSrc d) (dLen d) = true ∧ rangeOk (dDst d) (dLen d) = true ∧ devRsvd (dSrc d) = 0 ∧ devRsvd (dDst d)
    = 0 ∧ dOverlap d = false ∧ dEoc d = true ∧ (∀ a, s.eccAt a = .good) ∧ s.reg (Reg.dmaChAppendCnt c) = s.reg (Reg.dmaChAppendSeen
    c)) ∧
    (∃ (s : State) (c : Nat) (st : Nat) (th : Nat), th < 16 ∧ Await.chan c ∈ (s.thread th).awaits ∧ (st = chError ∨ st = chAborted)) ∧
    (∃ (s : State), s.dma.active = none) ∧
    (∃ (s : State) (c : Nat), c ∈ s.dma.again) ∧
    (∃ (s : State) (c : Nat), c ∉ s.dma.again) :=
  ⟨⟨U [], .pcie, 31, 0, by decide +kernel⟩,
   ⟨U [(Reg.dmaChStatus 31, 0x20000000)], .pcie, 31, 0, by decide +kernel⟩,
   ⟨U [], 31, by decide +kernel⟩,
   ⟨U [(Reg.dmaChDescLo 31, 1)], 31, by decide +kernel⟩,
   ⟨U [(Reg.dmaChStatus 31, 0x30000000)], .pcie, 31, 0, by decide +kernel⟩,
   ⟨U [(Reg.dmaChStatus 31, 0x20000000)], .pcie, 31, 0, by decide +kernel⟩,
   ⟨U [], .pcie, 31, 0, by decide +kernel⟩,
   ⟨U [], .pcie, 31, by decide +kernel⟩,
   ⟨U [(Reg.dmaChStatus 31, 0x40000000)], .pcie, 31, by decide +kernel⟩,
   ⟨{ U [] with dma := { urgent := [31] } }, 31, [], by decide +kernel⟩,
   ⟨{ U [] with dma := { normal := [31] } }, 31, [], by decide +kernel⟩,
   ⟨U [], by decide +kernel⟩,
   ⟨31, [], by decide +kernel⟩,
   ⟨U [], 63, by decide +kernel⟩,
   ⟨U [(Reg.dmaChCfg 31, 0x3F000000)], 63, 31, by decide +kernel⟩,
   ⟨U [(Reg.dmaChCfg 31, 0x3F000000), (Reg.dmaChStatus 31, 0x10000)], 63, 31, by decide +kernel⟩,
   ⟨{ U [] with dma := { active := some 31, desc := [(31, [])], begun := [31] } }, 31, [], by decide +kernel⟩,
   ⟨U [], 31, [0x1100000, 0x80000000, 0x1100010, 0x80000000, 16, 0, 1, 0], by decide +kernel, by decide +kernel, by decide +kernel,
    by decide +kernel, by decide +kernel, by decide +kernel, by decide +kernel, by decide +kernel, by decide +kernel,
    by decide +kernel, by decide +kernel, fun _ => rfl, by decide +kernel⟩,
   ⟨{ U [] with th := [(15, { awaits := [.chan 31] })] }, 31, chError, 15, by decide +kernel⟩,
   ⟨U [], by decide +kernel⟩,
   ⟨{ U [] with dma := { again := [31] } }, 31, by decide +kernel⟩,
   ⟨U [], 0, by decide +kernel⟩⟩

theorem witness_CheckValueUnits :
    (∃ (s : State) (p : Port) (c : Nat), c < 8 ∧ s.reaches p (Reg.cvuCvCtl c) = true) ∧
    (∃ (s : State) (p : Port) (c : Nat), c < 8 ∧ s.reaches p (Reg.cvuCvFeed8 c) = true) ∧
    (∃ (s : State) (p : Port) (c : Nat), c < 8 ∧ s.reaches p (Reg.cvuCvFeed16 c) = true) ∧
    (∃ (s : State) (p : Port) (c : Nat), c < 8 ∧ s.reaches p (Reg.cvuCvFeed32 c) = true) ∧
    (∃ (s : State) (p : Port) (c : Nat), c < 8 ∧ s.reaches p (Reg.cvuCvFeed64Lo c) = true ∧ s.reaches p (Reg.cvuCvFeed64Hi c) = true) ∧
    (∃ (s : State) (p : Port) (c : Nat), c < 8 ∧ s.reaches p (Reg.cvuCvFeed64Hi c) = true ∧ s.cvu.stage = []) ∧
    (∃ (s : State) (p : Port) (c : Nat), c < 8 ∧ s.reaches p (Reg.cvuCvValueLo c) = true ∧ s.reaches p (Reg.cvuCvValueHi c) = true) ∧
    (∃ (s : State) (p : Port) (c : Nat) (val : Word), c < 8 ∧ s.reaches p (Reg.cvuCvCfg c) = true ∧ 1 ≤ val.toNat % 128 ∧ val.toNat %
    128 ≤ 64 ∧ val.toNat / 65536 % 16 ≤ 8) ∧
    (∃ (s : State) (p : Port) (c : Nat), c < 8 ∧ s.reaches p (Reg.cvuCvCfg c) = true) ∧
    (∃ (s : State) (c : Nat), c < 8 ∧ (s.cv c).queue.length < 8) ∧
    (∃ (s : State) (c : Nat) (x : CvEntry) (q : List CvEntry), c < 8 ∧ (s.cv c).queue = x :: q ∧ q.length = 7) ∧
    (∃ (s : State) (c : Nat) (g : CvCfg) (q : List CvEntry), c < 8 ∧ s.up domCob = true ∧ (s.cv c).queue = .start g :: q) ∧
    (∃ (s : State) (c : Nat) (n : Nat) (d : Nat) (q : List CvEntry), c < 8 ∧ s.up domCob = true ∧ (s.cv c).queue = .feed n d :: q) ∧
    (∃ (s : State) (c : Nat), (s.cv c).queue = []) ∧
    (∃ (s : State) (c : Nat) (v : Nat) (q : List CvEntry), c < 8 ∧ s.up domCob = true ∧ (s.cv c).queue = .set v :: q) ∧
    (∃ (g : CvCfg) (v : Nat), 1 ≤ g.width ∧ g.poly < 2 ^ g.width ∧ v < 2 ^ g.width) ∧
    (∃ (s : State) (th : Nat) (cv : Nat) (w : Nat) (g : Nat) (f : State), State.RunsOn s th (.cvfeed cv w g) f ∧ f.cvFull cv = false) ∧
    (∃ (s : State) (th : Nat) (cv : Nat) (w : Nat) (g : Nat) (f : State), State.RunsOn s th (.cvfeed cv w g) f ∧ f.cvFull cv = true) ∧
    (∃ (s : State) (th : Nat) (cv : Nat) (i : Nat) (n : Nat) (f : State) (g : State), State.RunsOn s th (.cvfeedA cv i n) f ∧ (f.begun
    th).feedWords th cv i n = (g, .next)) ∧
    (∃ (s : State) (th : Nat) (i : Nat) (w : Word) (g : State), s.loadWord (s.a24 th i) = (.ok w, g)) ∧
    (∃ (s : State) (th : Nat) (i : Nat) (c : Nat) (g : State), s.loadWord (s.a24 th i) = (.error c, g)) :=
  ⟨⟨U [], .pcie, 7, by decide +kernel⟩,
   ⟨U [], .pcie, 7, by decide +kernel⟩,
   ⟨U [], .pcie, 7, by decide +kernel⟩,
   ⟨U [], .pcie, 7, by decide +kernel⟩,
   ⟨U [], .pcie, 7, by decide +kernel⟩,
   ⟨U [], .pcie, 7, by decide +kernel⟩,
   ⟨U [], .pcie, 7, by decide +kernel⟩,
   ⟨U [], .pcie, 7, 0x80040, by decide +kernel⟩,
   ⟨U [], .pcie, 7, by decide +kernel⟩,
   ⟨U [], 7, by decide +kernel⟩,
   ⟨{ U [] with cvu := { ctx := [(7, { queue := List.replicate 8 (.set 1) })] } }, 7, .set 1, List.replicate 7 (.set 1),
    by decide +kernel⟩,
   ⟨{ U [] with cvu := { ctx := [(7, { queue := [.start {}] })] } }, 7, {}, [], by decide +kernel⟩,
   ⟨{ U [] with cvu := { ctx := [(7, { queue := [.feed 8 1] })] } }, 7, 8, 1, [], by decide +kernel⟩,
   ⟨U [], 0, by decide +kernel⟩,
   ⟨{ U [] with cvu := { ctx := [(7, { queue := [.set 1] })] } }, 7, 1, [], by decide +kernel⟩,
   ⟨{}, 0xFFFFFFFF, by decide +kernel⟩,
   ⟨(at15 (word 15 2 [(7, 49), (3, 47), (14, 43)]) []), 15, 7, 3, 14, _, runs_on _ _ (by decide +kernel), by decide +kernel⟩,
   ⟨{ (at15 (word 15 2 [(7, 49), (3, 47), (14, 43)]) []) with cvu := { ctx := [(7, { queue := List.replicate 8 (.set 1) })] } }, 15, 7,
    3, 14, _, runs_on _ _ (by decide +kernel), by decide +kernel⟩,
   ⟨(at15 (word 15 3 [(7, 49), (7, 44), (1, 0)]) []), 15, 7, 7, 1, _, (((aft (at15 (word 15 3 [(7, 49), (7, 44), (1, 0)]) [])).begun
    15).feedWords 15 7 7 1).1, runs_on _ _ (by decide +kernel), by decide +kernel⟩,
   ⟨U [], 15, 0, 0, U [], ok_is _ _ (by decide +kernel)⟩,
   ⟨U [(Reg.tlpThA 15 7, 2)], 15, 7, faultAlign, U [(Reg.tlpThA 15 7, 2)], err_is _ _ (by decide +kernel)⟩⟩

theorem witness_CaptureEngine :
    (∃ (s : State) (src : Nat), s.capState = 1 ∧ (s.cap.depth < 256 ∨ src = 0x300)) ∧
    (∃ (s : State), (s.capState = 0 ∨ s.capState = 3)) ∧
    (∃ (s : State) (src : Nat), (s.capState = 1 ∨ s.capState = 2 ∧ s.cap.post < 1 + (s.capCfg Reg.capPost).toNat) ∧ 256 ≤ s.cap.depth ∧
    src ≠ 0x300) ∧
    (∃ (s : State) (k : Nat) (u : Nat) (v : Nat), alook s.cap.prev k = some u ∧ (v &&& s.probeMask k) ≠ (u &&& s.probeMask k) ∧ bit
    (s.capCfg Reg.capSrcEn) k = true) ∧
    (∃ (s : State) (k : Nat) (u : Nat) (v : Nat), alook s.cap.prev k = some u ∧ ((v &&& s.probeMask k) = (u &&& s.probeMask k) ∨ bit
    (s.capCfg Reg.capSrcEn) k = false)) ∧
    (∃ (s : State), s.capState = 1) ∧
    (∃ (s : State), (s.capState = 0 ∨ s.capState = 3)) ∧
    (∃ (s : State) (p : Port) (val : Word), s.reaches p Reg.capCtl = true ∧ val.toNat / 2 ^ 29 = 0 ∧ s.capState = 0 ∧ s.capD ≠ 0) ∧
    (∃ (s : State) (p : Port) (val : Word), s.reaches p Reg.capCtl = true ∧ val.toNat / 2 ^ 29 = 0 ∧ (s.capD = 0 ∨ s.capState = 1 ∨
    s.capState = 2)) ∧
    (∃ (s : State) (p : Port) (val : Word), s.reaches p Reg.capCtl = true ∧ val.toNat / 2 ^ 29 = 0 ∧ (s.capState = 1 ∨ s.capState = 2)) ∧
    (∃ (s : State) (p : Port) (val : Word), s.reaches p Reg.capCtl = true ∧ val.toNat / 2 ^ 29 = 0 ∧ s.capState = 0) ∧
    (∃ (s : State) (p : Port) (val : Word), s.reaches p Reg.capCtl = true ∧ val.toNat / 2 ^ 29 = 0) ∧
    (∃ (s : State), (s.capState ≠ 1 ∨ s.hitDue = false)) ∧
    (∃ (s : State), s.capState = 1 ∧ s.hitDue = true ∧ bits s.seqCond 27 24 = 8) ∧
    (∃ (s : State), s.capState = 1) ∧
    (∃ (s : State), s.capState ≠ 1) ∧
    (∃ (s : State) (p : Port), s.reaches p Reg.capPart = true ∧ s.capState = 0) ∧
    (∃ (s : State) (p : Port), s.reaches p Reg.capPart = true ∧ s.capState ≠ 0) ∧
    (∃ (s : State), s.up domCob = true ∧ s.capState = 1 ∧ s.hitDue = true) ∧
    (∃ (s : State), s.up domCob = true ∧ s.capState ≠ 1 ∧ s.hitDue = true ∧ bits s.seqCond 27 24 = 8) ∧
    (∃ (s : State), s.hitDue = false) ∧
    (∃ (n : Nat), n < 8) ∧
    (∃ (s : State), s.up domCob = true ∧ s.capState = 1 ∧ s.capCfg (Reg.capStTimer (s.fld Reg.capStatus 26 24)) ≠ 0 ∧ (s.capCfg
    (Reg.capStTimer (s.fld Reg.capStatus 26 24))).toNat ≤ s.cap.timer ∧ s.hitDue = false) ∧
    (∃ (s : State), s.capState ≠ 1) ∧
    (∃ (s : State), s.cap.timer < (s.capCfg (Reg.capStTimer (s.fld Reg.capStatus 26 24))).toNat) ∧
    (∃ (s : State), s.up domCob = true ∧ s.capState = 1 ∧ bit (s.capCfg Reg.capCtl) 27 = true ∧ s.cap.age = s.autoTmo ∧ s.hitDue =
    false) ∧
    (∃ (s : State), s.cap.age ≠ s.autoTmo) ∧
    (∃ (s : State), bit (s.capCfg Reg.capCtl) 27 = false) ∧
    (∃ (s : State), s.capState = 2 ∧ 1 + (s.capCfg Reg.capPost).toNat ≤ s.cap.post) ∧
    (∃ (s : State), (s.capState ≠ 2 ∨ s.cap.post < 1 + (s.capCfg Reg.capPost).toNat)) ∧
    (∃ (s : State), s.cap.closed < 2 ^ 32 - 1 ∧ (∀ x, s.cap.trig = some x → x.2.2.2.2 < 8)) ∧
    (∃ (s : State), s.capState = 3 ∧ 64 ≤ s.cap.wait ∧ (s.cap.held = true ∨ (s.flag Reg.capCtl 28 = true ∧ s.cap.noRep = false))) ∧
    (∃ (s : State), s.capState = 3 ∧ 64 ≤ s.cap.wait ∧ s.cap.held = false ∧ s.flag Reg.capCtl 28 = false) ∧
    (∃ (s : State), (s.capState ≠ 3 ∨ s.cap.wait < 64)) :=
  ⟨⟨U [(Reg.capStatus, 0x40000000)], 0, by decide +kernel⟩,
   ⟨U [], by decide +kernel⟩,
   ⟨{ U [(Reg.capStatus, 0x40000000)] with cap := { depth := 256 } }, 0, by decide +kernel⟩,
   ⟨{ U [(Reg.capStatus, 0x40000000)] with cap := { prev := [(31, 1)], latch := [(Reg.capSrcEn, 0x80000000), (Reg.capProbe 31, 0xFF)] } },
    31, 1, 0, by decide +kernel⟩,
   ⟨{ U [(Reg.capStatus, 0x40000000)] with cap := { prev := [(31, 1)] } }, 31, 1, 1, by decide +kernel⟩,
   ⟨U [(Reg.capStatus, 0x40000000)], by decide +kernel⟩,
   ⟨U [], by decide +kernel⟩,
   ⟨U [], .pcie, 0, by decide +kernel⟩,
   ⟨U [(Reg.capStatus, 0x40000000)], .pcie, 0, by decide +kernel⟩,
   ⟨U [(Reg.capStatus, 0x40000000)], .pcie, 0, by decide +kernel⟩,
   ⟨U [], .pcie, 0, by decide +kernel⟩,
   ⟨U [], .pcie, 0, by decide +kernel⟩,
   ⟨U [], by decide +kernel⟩,
   ⟨{ U [(Reg.capStatus, 0x40000000)] with cap := { hits := 1, latch := [(Reg.capStCond 0, 0x18000000)] } }, by decide +kernel⟩,
   ⟨U [(Reg.capStatus, 0x40000000)], by decide +kernel⟩,
   ⟨U [], by decide +kernel⟩,
   ⟨U [], .pcie, by decide +kernel⟩,
   ⟨U [(Reg.capStatus, 0x80000000)], .pcie, by decide +kernel⟩,
   ⟨{ U [(Reg.capStatus, 0x40000000)] with cap := { hits := 1, latch := [(Reg.capStCond 0, 0x18000000)] } }, by decide +kernel⟩,
   ⟨{ U [(Reg.capStatus, 0x80000000)] with cap := { hits := 1, latch := [(Reg.capStCond 0, 0x18000000)] } }, by decide +kernel⟩,
   ⟨U [], by decide +kernel⟩,
   ⟨7, by decide +kernel⟩,
   ⟨{ U [(Reg.capStatus, 0x40000000)] with cap := { timer := 1, latch := [(Reg.capStTimer 0, 1)] } }, by decide +kernel⟩,
   ⟨U [], by decide +kernel⟩,
   ⟨{ U [(Reg.capStatus, 0x40000000)] with cap := { latch := [(Reg.capStTimer 0, 1)] } }, by decide +kernel⟩,
   ⟨{ U [(Reg.capStatus, 0x40000000)] with cap := { latch := [(Reg.capCtl, 0x08000000)] } }, by decide +kernel⟩,
   ⟨{ U [(Reg.capStatus, 0x40000000)] with cap := { age := 1 } }, by decide +kernel⟩,
   ⟨U [], by decide +kernel⟩,
   ⟨{ U [(Reg.capStatus, 0x80000000)] with cap := { latch := [(Reg.capPost, 5)], post := 6 } }, by decide +kernel⟩,
   ⟨U [], by decide +kernel⟩,
   ⟨U [], by decide +kernel⟩,
   ⟨{ U [(Reg.capStatus, 0xC0000000), (Reg.capCtl, 0)] with cap := { held := true, wait := 64 } }, by decide +kernel⟩,
   ⟨{ U [(Reg.capStatus, 0xC0000000), (Reg.capCtl, 0)] with cap := { wait := 64 } }, by decide +kernel⟩,
   ⟨U [], by decide +kernel⟩⟩

theorem witness_StepRunsFrontCommand :
    (∃ (s : State), s.pending = []) ∧
    (∃ (s : State), s.up domTime = true) ∧
    (∃ (s : State), s.up domCob = false ∧ s.up domCrm = false) :=
  ⟨⟨U [], by decide +kernel⟩,
   ⟨U [], by decide +kernel⟩,
   ⟨State.reset, by decide +kernel⟩⟩

theorem witness_ResetState :
    (∃ (d : Dom), 1 ≤ d ∧ d ≤ 11) ∧
    (∃ (th : Nat), th < 16) :=
  ⟨⟨11, by decide +kernel⟩,
   ⟨15, by decide +kernel⟩⟩

theorem witness_CanonicalFormKept :
    ∃ (s : State) (t : State), s.wf = true ∧ step s = .next t :=
  ⟨{ up with pending := [.nop 15] }, _, by decide +kernel, rfl⟩

theorem witness_InstructionDeterminesWord :
    (∃ (w : Nat) (v : Nat) (o : Op), w < 2 ^ 64 ∧ v < 2 ^ 64 ∧ decodeOp w = some o ∧ decodeOp v = some o) ∧
    (∃ (w : Nat), fw w 63 58 ∉ [0x00, 0x01, 0x02, 0x04, 0x05, 0x08, 0x0C, 0x0D, 0x0E, 0x0F, 0x10, 0x11, 0x12, 0x13, 0x14]) :=
  ⟨⟨2 ^ 52, 2 ^ 52, .nop, by decide +kernel⟩,
   ⟨63 * 2 ^ 58, by decide +kernel⟩⟩

end Sys2Proof.Tests
end

/-! Loads and stores of threads (R91, R92): what a load and a store leave unchanged, the word a store puts in memory, and the four
instructions LD, LDC, ST and STC. -/
namespace Sys2Proof.Machine

/-! ## Words in memory -/

/-- The four bytes of a word spell it (R7). -/
@[simp] theorem leWord_wordBytes (w : Word) : leWord (wordBytes w) = w := by
  apply BitVec.eq_of_toNat_eq
  have hw : w.toNat < 2 ^ 32 := w.isLt
  simp only [leWord, wordBytes, leNat, BitVec.toNat_ofNat, Nat.shiftRight_eq_div_pow]
  omega

@[simp] theorem wordBytes_length (w : Word) : (wordBytes w).length = 4 := rfl

/-- A word written keeps every byte outside its four. -/
theorem byte_putWord_ne (s : State) (a c : Nat) (w : Word) (h : c < a ∨ a + 4 ≤ c) : (s.putWord a w).byte c = s.byte c := by
  have : ¬ (a ≤ c ∧ c < a + 4) := by omega
  simp [State.putWord, byte_putBytes, this]

/-- A word written reads back. -/
@[simp] theorem rawWord_putWord (s : State) (a : Nat) (w : Word) : (s.putWord a w).rawWord a = w := by
  have hb : ∀ i, i < 4 → (s.putWord a w).byte (a + i) = (wordBytes w).getD i 0 := fun i hi => by
    simp [State.putWord, byte_putBytes, hi]
  calc (s.putWord a w).rawWord a = leWord (wordBytes w) := by
        rw [State.rawWord, hb 1 (by omega), hb 2 (by omega), hb 3 (by omega)]
        exact congrArg (fun b => leWord [b, _, _, _]) (hb 0 (by omega))
    _ = w := leWord_wordBytes w

@[simp] theorem eccAt_putWord (s : State) (a : Nat) (w : Word) : (s.putWord a w).eccAt a = .good := by
  simp [State.putWord, eccAt_setEcc]

@[simp] theorem putBytes_regs (bs : List Byte) (s : State) (a : Nat) : (s.putBytes a bs).regs = s.regs := by
  induction bs generalizing s a with
  | nil => rfl
  | cons b bs ih => simp [State.putBytes, ih]

@[simp] theorem putBytes_th (bs : List Byte) (s : State) (a : Nat) : (s.putBytes a bs).th = s.th := by
  induction bs generalizing s a with
  | nil => rfl
  | cons b bs ih => simp [State.putBytes, ih]

@[simp] theorem putWord_regs (s : State) (a : Nat) (w : Word) : (s.putWord a w).regs = s.regs := by simp [State.putWord]
@[simp] theorem putWord_th (s : State) (a : Nat) (w : Word) : (s.putWord a w).th = s.th := by simp [State.putWord]

/-! ## Notice of a write (R56, R471) -/

@[simp] theorem noteWrite_mem (s : State) (a n : Nat) : (s.noteWrite a n).mem = s.mem := by
  unfold State.noteWrite; dsimp only; split_ifs <;> rfl

@[simp] theorem noteWrite_ecc (s : State) (a n : Nat) : (s.noteWrite a n).ecc = s.ecc := by
  unfold State.noteWrite; dsimp only; split_ifs <;> rfl

@[simp] theorem noteWrite_th (s : State) (a n : Nat) : (s.noteWrite a n).th = s.th := by
  unfold State.noteWrite; dsimp only; split_ifs <;> rfl

/-- Above the instruction memory no region loses its verified bit. -/
theorem noteWrite_regs (s : State) (a n : Nat) (h : dmBase ≤ a) : (s.noteWrite a n).regs = s.regs := by
  have hm : ¬ (imBase < a + n ∧ a < dmBase) := by omega
  unfold State.noteWrite; simp only [if_neg hm]; split_ifs <;> rfl

/-! ## Stores of a thread -/

/-- The data space of a thread lies in the data memories, above the instruction memory (R55). -/
theorem dmBase_le_threadAddr {ea p : Nat} (h : threadAddr ea = some p) : dmBase ≤ p := by
  unfold threadAddr at h
  split_ifs at h
  · exact Option.some.inj h ▸ Nat.le_add_right dmBase ea
  · have hdu : dmBase ≤ duBase := by unfold dmBase duBase; omega
    exact Option.some.inj h ▸ Nat.le_add_right_of_le hdu

theorem dmBase_le_physAddr {ea : Nat} (h : accessFault ea = none) : dmBase ≤ physAddr ea := by
  cases ht : threadAddr ea with
  | none => simp [accessFault, ht] at h
  | some p => simpa [physAddr, ht] using dmBase_le_threadAddr ht

theorem storeThread_regs (s : State) (ea : Nat) (v : Word) (h : accessFault ea = none) : (s.storeThread ea v).regs = s.regs := by
  rw [State.storeThread, noteWrite_regs _ _ _ (dmBase_le_physAddr h), putWord_regs]

@[simp] theorem storeThread_th (s : State) (ea : Nat) (v : Word) : (s.storeThread ea v).th = s.th := by simp [State.storeThread]

theorem storeThread_pc (s : State) (ea th : Nat) (v : Word) (h : accessFault ea = none) :
    (s.storeThread ea v).pc th = s.pc th := by
  simp only [State.pc, State.fld, State.reg, storeThread_regs s ea v h]

theorem storeThread_thread (s : State) (ea i : Nat) (v : Word) : (s.storeThread ea v).thread i = s.thread i := by
  simp only [State.thread, storeThread_th]

theorem byte_storeThread (s : State) (ea c : Nat) (v : Word) :
    (s.storeThread ea v).byte c = (s.putWord (physAddr ea) v).byte c := by simp [State.storeThread, State.byte]

theorem eccAt_storeThread (s : State) (ea c : Nat) (v : Word) :
    (s.storeThread ea v).eccAt c = (s.putWord (physAddr ea) v).eccAt c := by simp [State.storeThread, State.eccAt]

/-- A word stored at a thread address reads back. -/
@[simp] theorem rawWord_storeThread (s : State) (ea : Nat) (v : Word) : (s.storeThread ea v).rawWord (physAddr ea) = v := by
  simp only [State.rawWord, byte_storeThread]
  exact rawWord_putWord s (physAddr ea) v

/-! ## Loads of a thread -/

theorem eccIndex_le (a : Nat) : eccIndex a ≤ 9 := by
  unfold eccIndex; split_ifs <;> omega

theorem tlpThPc_ne_eccCe (th a : Nat) : Reg.tlpThPc th ≠ Reg.glbEccCe (eccIndex a) := by
  have := eccIndex_le a
  unfold Reg.tlpThPc Reg.glbEccCe; omega

/-- A read that is not poisoned writes no register but the count of corrected errors (R47). -/
theorem readEcc_reg (s : State) (a j : Nat) (h : (s.readEcc a).2.1 = false) (hj : j ≠ Reg.glbEccCe (eccIndex a)) :
    (s.readEcc a).2.2.reg j = s.reg j := by
  unfold State.readEcc at h ⊢
  cases he : s.eccAt a with
  | good => rfl
  | single b =>
    exact (reg_setFld_ne _ _ _ _ _ _ hj).trans (by simp [State.reg])
  | double => simp [he] at h

/-- A read that is not poisoned leaves the threads' progress. -/
theorem readEcc_th (s : State) (a : Nat) (h : (s.readEcc a).2.1 = false) : (s.readEcc a).2.2.th = s.th := by
  unfold State.readEcc at h ⊢
  cases he : s.eccAt a with
  | good => rfl
  | single b => simp
  | double => simp [he] at h

/-- A load that gives a word has read it at a mapped, aligned address, and it was not poisoned (R77, R91). -/
theorem loadWord_ok {s g : State} {ea : Nat} {v : Word} (h : s.loadWord ea = (.ok v, g)) :
    accessFault ea = none ∧ (s.readEcc (physAddr ea)).2.1 = false ∧ g = (s.readEcc (physAddr ea)).2.2 := by
  unfold State.loadWord at h
  cases hf : accessFault ea with
  | some c => simp [hf] at h
  | none => cases hp : (s.readEcc (physAddr ea)).2.1 <;> simp_all

theorem loadWord_pc {s g : State} {ea : Nat} {v : Word} (h : s.loadWord ea = (.ok v, g)) (th : Nat) : g.pc th = s.pc th := by
  obtain ⟨-, hp, rfl⟩ := loadWord_ok h
  simp only [State.pc, State.fld, readEcc_reg s _ _ hp (tlpThPc_ne_eccCe th _)]

theorem loadWord_thread {s g : State} {ea : Nat} {v : Word} (h : s.loadWord ea = (.ok v, g)) (i : Nat) :
    g.thread i = s.thread i := by
  obtain ⟨-, hp, rfl⟩ := loadWord_ok h
  simp only [State.thread, readEcc_th s _ hp]

/-- A load of a good word gives the word and changes nothing. -/
theorem loadWord_good (s : State) (ea : Nat) (ha : accessFault ea = none) (hg : s.eccAt (physAddr ea) = .good) :
    s.loadWord ea = (.ok (s.rawWord (physAddr ea)), s) := by
  simp [State.loadWord, State.readEcc, ha, hg]

/-! ## Registers of a thread -/

/-- The update of an address register leaves the PC. -/
theorem setA_pc (s : State) (th i v : Nat) (h : i < 8) : (s.setA th i v).pc th = s.pc th :=
  fld_setReg_ne _ _ _ _ _ _ (by unfold Reg.tlpThA Reg.tlpThPc; omega)

theorem setSpec_pc (s : State) (th r : Nat) (v : Word) (h : r < 32) : (s.setSpec th r v).pc th = s.pc th := by
  rw [setSpec_eq]; exact fld_setReg_ne _ _ _ _ _ _ (specReg_pc th r h).symm

theorem setSpec_thread (s : State) (th r : Nat) (v : Word) (j : Nat) : (s.setSpec th r v).thread j = s.thread j := by
  rw [setSpec_eq, thread_setReg]

/-- After an access in mode 0 the address register stays, in modes 1 and 2 it is set (R91): the PC stays. -/
theorem ite_setA_pc (s : State) (th i v : Nat) (m : Prop) [Decidable m] (h : i < 8) :
    (if m then s else s.setA th i v).pc th = s.pc th := by
  split_ifs
  · rfl
  · exact setA_pc s th i v h

theorem ite_setA_thread (s : State) (th i v j : Nat) (m : Prop) [Decidable m] :
    (if m then s else s.setA th i v).thread j = s.thread j := by
  split_ifs <;> rfl

/-! ## LD, LDC, ST and STC -/

/-- The command of a load, linear or circular, issues it. -/
theorem exec_load (th : Nat) (circ : Bool) (s : State) :
    exec (if circ then .ldc th else .ld th) s = .next (s.issue th (if circ then .ldc th else .ld th)) := by
  cases circ <;> rfl

/-- The command of a store, linear or circular, issues it. -/
theorem exec_store (th : Nat) (circ : Bool) (s : State) :
    exec (if circ then .stc th else .st th) s = .next (s.issue th (if circ then .stc th else .st th)) := by
  cases circ <;> rfl

theorem row_ld (r th : Nat) (e : Ea) : (Op.ld r e).row th = if e.circ then .ldc th else .ld th := rfl
theorem row_st (r th : Nat) (e : Ea) : (Op.st r e).row th = if e.circ then .stc th else .st th := rfl
theorem perform_ld (s : State) (th u r : Nat) (e : Ea) : s.perform th u (.ld r e) = s.doLd th r e := rfl
theorem perform_st (s : State) (th u r : Nat) (e : Ea) : s.perform th u (.st r e) = s.doSt th r e := rfl

theorem begun_eaOf (s : State) (th i : Nat) (e : Ea) : (s.begun th).eaOf i e = s.eaOf i e := rfl
theorem begun_spec (s : State) (th i r : Nat) : (s.begun th).spec i r = s.spec i r := rfl

theorem doLd_ok {s g : State} {th ea nx n2 : Nat} {e : Ea} {v : Word} (r : Nat) (he : s.eaOf th e = some (ea, nx, n2))
    (hl : s.loadWord ea = (.ok v, g)) :
    s.doLd th r e = ((if e.mode = 0 then g else g.setA th e.i nx).setSpec th r v, .next) := by
  simp [State.doLd, he, hl]

theorem doSt_ok {s : State} {th ea nx n2 : Nat} {e : Ea} (r : Nat) (he : s.eaOf th e = some (ea, nx, n2))
    (ha : accessFault ea = none) :
    s.doSt th r e = (if e.mode = 0 then s.storeThread ea (s.spec th r)
      else (s.storeThread ea (s.spec th r)).setA th e.i nx, .next) := by
  simp [State.doSt, he, ha]

/-- A load that gives a word completes: the address register takes its update, then the register the word (R92). -/
theorem exec_ld_ok {s f g : State} {th r ea nx n2 : Nat} {e : Ea} {v : Word} (h : State.RunsOn s th (.ld r e) f)
    (hr : r < 32) (hi : e.i < 8) (he : f.eaOf th e = some (ea, nx, n2)) (hl : (f.begun th).loadWord ea = (.ok v, g)) :
    exec (if e.circ then .ldc th else .ld th) s
      = .next (((if e.mode = 0 then g else g.setA th e.i nx).setSpec th r v).setPc th (f.pc th + 1)) := by
  have hp := (perform_ld (f.begun th) th (f.duOf th) r e).trans (doLd_ok r ((begun_eaOf f th th e).trans he) hl)
  rw [exec_load, runs_next h (row_ld r th e) hp]
  · rw [setSpec_pc _ _ _ _ hr, ite_setA_pc _ _ _ _ _ hi, loadWord_pc hl, begun_pc]
  · rw [setSpec_thread, ite_setA_thread, loadWord_thread hl]

/-- A store at an address that does not fault completes: it stores the value before the update (R92). -/
theorem exec_st_ok {s f : State} {th r ea nx n2 : Nat} {e : Ea} (h : State.RunsOn s th (.st r e) f) (hi : e.i < 8)
    (he : f.eaOf th e = some (ea, nx, n2)) (ha : accessFault ea = none) :
    exec (if e.circ then .stc th else .st th) s
      = .next ((if e.mode = 0 then (f.begun th).storeThread ea (f.spec th r)
          else ((f.begun th).storeThread ea (f.spec th r)).setA th e.i nx).setPc th (f.pc th + 1)) := by
  have hp := (perform_st (f.begun th) th (f.duOf th) r e).trans (doSt_ok r ((begun_eaOf f th th e).trans he) ha)
  rw [begun_spec] at hp
  rw [exec_store, runs_next h (row_st r th e) hp]
  · rw [ite_setA_pc _ _ _ _ _ hi, storeThread_pc _ _ _ _ ha, begun_pc]
  · rw [ite_setA_thread, storeThread_thread]

/-- Settles O4: the two instructions by the lemmas above, the store's frame by that of a word written, the load of a good word by
its protected read. -/
theorem loadsAndStores : Obligations.LoadsAndStores := by
  unfold Obligations.LoadsAndStores
  refine ⟨?load, ?store, ?frame, loadWord_good⟩
  case load =>
    intro s th r e f ea nx n2 v g h hr hi he hl
    exact exec_ld_ok h hr hi he hl
  case store =>
    intro s th r e f ea nx n2 h hi he ha
    exact exec_st_ok h hi he ha
  case frame =>
    intro s ea v _
    refine ⟨rawWord_storeThread s ea v, ?_, fun a hout => ?_⟩
    · rw [eccAt_storeThread, eccAt_putWord]
    · rw [byte_storeThread, byte_putWord_ne s _ _ v hout]

end Sys2Proof.Machine

/-! MACS and the clamping rule (R128): the words of an accumulator read back as the number put into them, what a sum under the rule
writes and leaves, and the instruction. -/
namespace Sys2Proof.Machine

/-! ## Accumulators (R125) -/

/-- The low `w` bits of a number within the signed range spell it (R5). -/
theorem sgn_unsgn {w : Nat} {v : Int} (hw : 1 ≤ w) (hlo : -(2 ^ (w - 1) : Int) ≤ v) (hhi : v < 2 ^ (w - 1)) :
    sgn w (unsgn w v) = v := by
  obtain ⟨k, rfl⟩ : ∃ k, w = k + 1 := ⟨w - 1, by omega⟩
  have hpos : 0 < 2 ^ k := Nat.two_pow_pos k
  rw [Nat.add_sub_cancel] at hlo hhi
  have hcast : ((2 ^ k : Nat) : Int) = 2 ^ k := Nat.cast_pow 2 k
  rw [← hcast] at hlo hhi
  simp only [sgn, unsgn, Nat.pow_succ, Nat.add_sub_cancel]
  generalize 2 ^ k = p at hpos hlo hhi
  rcases lt_or_ge v 0 with hneg | hnn
  · have hmod : v % ((p * 2 : Nat) : Int) = v + (p * 2 : Nat) := by
      rw [← Int.add_emod_right, Int.emod_eq_of_lt (by omega) (by omega)]
    rw [hmod, Nat.mod_eq_of_lt (by omega), if_neg (by omega)]
    omega
  · rw [Int.emod_eq_of_lt hnn (by omega), Nat.mod_eq_of_lt (by omega), if_pos (by omega)]
    omega

/-- A number within 64 bits put into an accumulator reads back. -/
theorem acc_putAcc (s : State) (th n : Nat) {v : Int} (hlo : -(2 ^ 63 : Int) ≤ v) (hhi : v < 2 ^ 63) :
    (s.putAcc th n v).acc th n = v := by
  have hne : Reg.tlpThAccLo th n ≠ Reg.tlpThAccHi th n := by unfold Reg.tlpThAccLo Reg.tlpThAccHi; omega
  have hlt : unsgn 64 v < 2 ^ 64 := by unfold unsgn; omega
  have hwords : unsgn 64 v / 2 ^ 32 % 2 ^ 32 * 2 ^ 32 + unsgn 64 v % 2 ^ 32 = unsgn 64 v := by omega
  simp only [State.acc, State.putAcc, reg_setReg_same, reg_setReg_ne _ _ _ _ hne, BitVec.toNat_ofNat, hwords]
  exact sgn_unsgn (by decide) hlo hhi

/-- Putting a number into an accumulator writes its two words alone. -/
theorem putAcc_reg (s : State) (th n : Nat) (v : Int) {off : Nat} (hlo : off ≠ Reg.tlpThAccLo th n)
    (hhi : off ≠ Reg.tlpThAccHi th n) : (s.putAcc th n v).reg off = s.reg off :=
  (reg_setReg_ne _ _ _ _ hhi).trans (reg_setReg_ne _ _ _ _ hlo)

theorem tlpThStat_ne_accLo (th n : Nat) : Reg.tlpThStat th ≠ Reg.tlpThAccLo th n := by
  unfold Reg.tlpThStat Reg.tlpThAccLo; omega

theorem tlpThStat_ne_accHi (th n : Nat) : Reg.tlpThStat th ≠ Reg.tlpThAccHi th n := by
  unfold Reg.tlpThStat Reg.tlpThAccHi; omega

theorem putAcc_stat (s : State) (th n b : Nat) (v : Int) : (s.putAcc th n v).stat th b = s.stat th b := by
  simp only [State.stat, State.flag, putAcc_reg s th n v (tlpThStat_ne_accLo th n) (tlpThStat_ne_accHi th n)]

theorem setStat_acc (s : State) (th n i : Nat) (b : Bool) : (s.setStat th i b).acc th n = s.acc th n := by
  simp only [State.acc, State.setStat, reg_setFlag_ne _ _ _ _ _ (tlpThStat_ne_accLo th n).symm,
    reg_setFlag_ne _ _ _ _ _ (tlpThStat_ne_accHi th n).symm]

/-- Another flag of STAT stays; past the word's 32 bits every flag reads 0. -/
theorem stat_setStat_ne (s : State) (th i j : Nat) (b : Bool) (h : j ≠ i) : (s.setStat th i b).stat th j = s.stat th j := by
  by_cases hj : j < 32
  · rw [stat_setStat s th i j b hj, if_neg h]
  · simp only [State.stat, State.flag, bit, BitVec.getLsbD_of_ge _ _ (Nat.le_of_not_lt hj)]

/-! ## The clamping rule (R128) -/

/-- Saturation to 48 bits, the range of Q2.46. -/
theorem satS_48 (t : Int) :
    satS 48 t = if t < -(2 ^ 47) then -(2 ^ 47) else if 2 ^ 47 ≤ t then 2 ^ 47 - 1 else t := by
  simp only [satS, clampI]
  split_ifs <;> omega

/-- A sum leaves the 48 bits exactly below or above their range. -/
theorem satS_48_ne_iff (t : Int) : satS 48 t ≠ t ↔ t < -(2 ^ 47) ∨ 2 ^ 47 ≤ t := by
  rw [satS_48]
  split_ifs <;> omega

/-- A latched accumulator stays unchanged. -/
theorem addClamp_latched {s : State} {th n : Nat} (t : Int) (h : s.satl th n = true) : s.addClamp th n t = s := if_pos h

/-- A sum within 48 bits goes to the accumulator and to nothing else. -/
theorem addClamp_fits {s : State} {th n : Nat} {t : Int} (h : s.satl th n = false) (ht : satS 48 t = t) :
    s.addClamp th n t = s.putAcc th n (satS 48 t) := by
  simp [State.addClamp, h, ht]

/-- A sum that leaves 48 bits is clamped and sets AOV. -/
theorem addClamp_clamps {s : State} {th n : Nat} {t : Int} (h : s.satl th n = false) (ht : satS 48 t ≠ t) :
    s.addClamp th n t = (s.putAcc th n (satS 48 t)).setStat th (stAov n) true := by
  simp [State.addClamp, h, ht]

theorem addClamp_acc {s : State} {th n : Nat} (t : Int) (h : s.satl th n = false) :
    (s.addClamp th n t).acc th n = satS 48 t := by
  have hput : (s.putAcc th n (satS 48 t)).acc th n = satS 48 t :=
    acc_putAcc s th n (by rw [satS_48]; split_ifs <;> omega) (by rw [satS_48]; split_ifs <;> omega)
  by_cases ht : satS 48 t = t
  · rw [addClamp_fits h ht, hput]
  · rw [addClamp_clamps h ht, setStat_acc, hput]

/-- A clamp sets AOV, a sum that fits leaves it as it was. -/
theorem addClamp_aov {s : State} {th n : Nat} (t : Int) (hn : n < 4) (h : s.satl th n = false) :
    (s.addClamp th n t).stat th (stAov n) = (decide (satS 48 t ≠ t) || s.stat th (stAov n)) := by
  have hb : stAov n < 32 := by unfold stAov; omega
  by_cases ht : satS 48 t = t
  · rw [addClamp_fits h ht, putAcc_stat]; simp [ht]
  · rw [addClamp_clamps h ht, stat_setStat _ _ _ _ _ hb, if_pos rfl]; simp [ht]

theorem addClamp_stat_ne (s : State) (th n b : Nat) (t : Int) (hb : b ≠ stAov n) :
    (s.addClamp th n t).stat th b = s.stat th b := by
  unfold State.addClamp
  split_ifs
  · rfl
  · exact putAcc_stat ..
  · exact (stat_setStat_ne _ _ _ _ _ hb).trans (putAcc_stat ..)

/-- Only the accumulator's two words and STAT may be written: neither ACC_EXP, which holds SATL, nor a unit's sticky bit. -/
theorem addClamp_reg (s : State) (th n : Nat) (t : Int) {off : Nat} (hlo : off ≠ Reg.tlpThAccLo th n)
    (hhi : off ≠ Reg.tlpThAccHi th n) (hst : off ≠ Reg.tlpThStat th) : (s.addClamp th n t).reg off = s.reg off := by
  unfold State.addClamp
  split_ifs
  · rfl
  · exact putAcc_reg s th n _ hlo hhi
  · exact (reg_setFlag_ne _ _ _ _ _ hst).trans (putAcc_reg s th n _ hlo hhi)

/-- Beside the registers a sum leaves the whole state. -/
theorem addClamp_rest (s : State) (th n : Nat) (t : Int) : { s.addClamp th n t with regs := s.regs } = s := by
  unfold State.addClamp
  split_ifs <;> rfl

@[simp] theorem addClamp_mem (s : State) (th n : Nat) (t : Int) : (s.addClamp th n t).mem = s.mem :=
  (congrArg State.mem (addClamp_rest s th n t) :)

@[simp] theorem addClamp_th (s : State) (th n : Nat) (t : Int) : (s.addClamp th n t).th = s.th :=
  (congrArg State.th (addClamp_rest s th n t) :)

@[simp] theorem addClamp_taq (s : State) (th n : Nat) (t : Int) : (s.addClamp th n t).taq = s.taq :=
  (congrArg State.taq (addClamp_rest s th n t) :)

theorem addClamp_satl (s : State) (th n : Nat) (t : Int) : (s.addClamp th n t).satl th n = s.satl th n := by
  have hexp : (s.addClamp th n t).reg (Reg.tlpThAccExp th n) = s.reg (Reg.tlpThAccExp th n) :=
    addClamp_reg s th n t (by unfold Reg.tlpThAccExp Reg.tlpThAccLo; omega) (by unfold Reg.tlpThAccExp Reg.tlpThAccHi; omega)
      (by unfold Reg.tlpThAccExp Reg.tlpThStat; omega)
  simp only [State.satl, State.flag, hexp]

theorem addClamp_dspSticky (s : State) (th n u : Nat) (t : Int) :
    (s.addClamp th n t).flag Reg.tlpDspSticky u = s.flag Reg.tlpDspSticky u := by
  have hsticky : (s.addClamp th n t).reg Reg.tlpDspSticky = s.reg Reg.tlpDspSticky :=
    addClamp_reg s th n t (by unfold Reg.tlpDspSticky Reg.tlpThAccLo; omega) (by unfold Reg.tlpDspSticky Reg.tlpThAccHi; omega)
      (by unfold Reg.tlpDspSticky Reg.tlpThStat; omega)
  simp only [State.flag, hsticky]

/-! ## MACS (R132) -/

theorem row_macs (th n a b : Nat) (cj sb bx : Bool) : (Op.mul .macs n a b cj sb bx).row th = .macs th := rfl

/-- The turn of issue leaves what MACS reads. -/
theorem perform_macs (f : State) (th u n a b : Nat) (cj sb bx : Bool) :
    (f.begun th).perform th u (.mul .macs n a b cj sb bx)
      = ((f.begun th).addClamp th n (f.acc th n + f.x th a * f.x th b), .next) := rfl

/-- MACS adds the exact product of its two x registers by the clamping rule, and the PC advances. -/
theorem exec_macs {s f : State} {th n a b : Nat} {cj sb bx : Bool} (h : State.Executes s th (.mul .macs n a b cj sb bx) f) :
    exec (.macs th) s = .next (((f.begun th).addClamp th n (f.acc th n + f.x th a * f.x th b)).advance th 1) := by
  have hexec : exec (.macs th) s = .next (s.issue th (.macs th)) := rfl
  rw [hexec, issue_executes h (row_macs th n a b cj sb bx), perform_macs]
  rfl

/-- Settles O12: the instruction by its issue, the clamped sum and its flag by the range of 48 bits, the rest by what the rule
writes. -/
theorem clampingRule : Obligations.ClampingRule := by
  unfold Obligations.ClampingRule
  refine ⟨?macs, ?latched, ?unlatched⟩
  case macs =>
    intro s th n a b cj sb bx f h
    exact exec_macs h.toExecutes
  case latched =>
    intro s th n t _ h
    exact addClamp_latched t h
  case unlatched =>
    intro s th n t hn h
    refine ⟨?sum, (addClamp_satl s th n t).trans h, ?aov, fun u => addClamp_dspSticky s th n u t,
      fun b hb => addClamp_stat_ne s th n b t hb, fun off hlo hhi hst => addClamp_reg s th n t hlo hhi hst,
      addClamp_mem s th n t, addClamp_th s th n t, addClamp_taq s th n t⟩
    case sum => rw [addClamp_acc t h, satS_48]
    case aov => rw [addClamp_aov t hn h, decide_eq_decide.mpr (satS_48_ne_iff t), Bool.decide_or]

end Sys2Proof.Machine

/-! Check-value units (R404-R409, R118): the computation over bytes, the input queue of a context and what an entry that finishes
leaves, the registers by which a host reaches a context, and the two instructions that feed one. -/
namespace Sys2Proof.Machine

/-! ## Maps of present keys -/

theorem alook_sins_same {α : Type} (l : List (Nat × α)) (k : Nat) (v : α) (h : ∀ p ∈ l, p.1 ≠ k) :
    alook (sins l k v) k = some v := by
  induction l with
  | nil => simp [sins, alook]
  | cons p r ih =>
    obtain ⟨hp, hr⟩ := List.forall_mem_cons.mp h
    have ih' := ih hr
    unfold alook at ih' ⊢
    unfold sins
    split
    · simp
    · simpa [List.find?_cons, hp] using ih'

/-- A value put at a key is found there. -/
@[simp] theorem alook_aput_same {α : Type} (l : List (Nat × α)) (k : Nat) (v : α) : alook (aput l k v) k = some v :=
  alook_sins_same _ k v (sdel_ne l k)

/-! ## Sticky bits -/

/-- `t` has every register of `s` but those of the PBA, and its check-value units. -/
def State.SameButPba (s t : State) : Prop :=
  (∀ j, (∀ k, j ≠ Reg.hstMsixPba k) → t.reg j = s.reg j) ∧ t.cvu = s.cvu

theorem State.SameButPba.trans {s t u : State} (h : s.SameButPba t) (h' : t.SameButPba u) : s.SameButPba u :=
  ⟨fun j hj => (h'.1 j hj).trans (h.1 j hj), h'.2.trans h.2⟩

theorem State.SameButPba.refl (s : State) : s.SameButPba s := ⟨fun _ _ => rfl, rfl⟩

theorem setPba_sameButPba (s : State) (v : Nat) (b : Bool) : s.SameButPba (s.setPba v b) :=
  ⟨fun _ hj => reg_setFlag_ne _ _ _ _ _ (hj _), rfl⟩

/-- A message is sent, or held back in the PBA. -/
theorem notify_sameButPba (s : State) (v : Nat) : s.SameButPba (s.notify v) := by
  unfold State.notify
  split_ifs
  · exact setPba_sameButPba s v true
  · exact ⟨fun _ _ => rfl, rfl⟩
  · exact .refl s

/-- The messages that follow a sticky bit change no register but the PBA. -/
theorem settle_sameButPba (s before : State) (off : Nat) (i : StickyInfo) (write : Bool) :
    s.SameButPba (s.settle before off i write) := by
  unfold State.settle
  refine List.foldlRecOn (motive := s.SameButPba) _ _ (.refl s) fun t ht v _ => ht.trans ?_
  split_ifs
  · exact notify_sameButPba t v
  · exact .refl t
  · exact setPba_sameButPba t v false
  · exact .refl t

/-- A sticky register whose block is up takes the bits of an event. -/
theorem raise_reg_same {s : State} {off : Nat} (m : Word) (hup : s.regUp off = true) (hj : ∀ k, off ≠ Reg.hstMsixPba k) :
    (s.raise off m).reg off = s.reg off ||| m := by
  unfold State.raise
  rw [hup]
  cases stickyAt off with
  | none => exact reg_setReg_same ..
  | some i => exact ((settle_sameButPba _ s off i false).1 off hj).trans (reg_setReg_same ..)

/-- A hardware event leaves every register but its sticky register and the PBA. -/
theorem raise_reg_ne (s : State) {off j : Nat} (m : Word) (h : j ≠ off) (hj : ∀ k, j ≠ Reg.hstMsixPba k) :
    (s.raise off m).reg j = s.reg j := by
  unfold State.raise
  split
  · rfl
  · cases stickyAt off with
    | none => exact reg_setReg_ne _ _ _ _ h
    | some i => exact ((settle_sameButPba _ s off i false).1 j hj).trans (reg_setReg_ne _ _ _ _ h)

@[simp] theorem raise_cvu (s : State) (off : Nat) (m : Word) : (s.raise off m).cvu = s.cvu := by
  unfold State.raise
  split
  · rfl
  · cases stickyAt off with
    | none => rfl
    | some i => exact (settle_sameButPba _ s off i false).2

@[simp] theorem raiseBit_cvu (s : State) (off i : Nat) : (s.raiseBit off i).cvu = s.cvu := raise_cvu ..

/-- A register of the check-value units lies in COB. -/
theorem regUp_cvu (s : State) {off : Nat} (hlo : 0x70000 ≤ off) (hhi : off < 0x80000) : s.regUp off = s.up domCob := by
  have hblock : off / 0x10000 = 7 := by omega
  have hdom : domOfReg off = domCob := by
    have hreg : off < 0x120000 := by omega
    simp [domOfReg, hreg, hblock]
  unfold State.regUp
  rw [if_neg (by omega), hdom]

theorem cvuReg_ne_pba {j : Nat} (h : j < 0x80000) (k : Nat) : j ≠ Reg.hstMsixPba k := by
  unfold Reg.hstMsixPba; omega

/-- A sticky bit of the check-value units stands once it has been raised with COB up. -/
theorem flag_raiseBit_cvuSticky {s : State} {i : Nat} (hup : s.up domCob = true) (hi : i < 2) :
    (s.raiseBit Reg.cvuSticky i).flag Reg.cvuSticky i = true := by
  have hreg := raise_reg_same (s := s) (off := Reg.cvuSticky) (BitVec.ofNat 32 (2 ^ i))
    ((regUp_cvu s (by decide) (by decide)).trans hup) (cvuReg_ne_pba (by decide))
  have hbit : (BitVec.ofNat 32 (2 ^ i)).getLsbD i = true := by
    rw [BitVec.getLsbD_ofNat, Nat.testBit_two_pow_self, Bool.and_true, decide_eq_true (by omega)]
  rw [State.flag, State.raiseBit, hreg, bit, BitVec.getLsbD_or, hbit, Bool.or_true]

theorem raiseBit_cvuSticky_reg_ne (s : State) {j : Nat} (i : Nat) (h : j ≠ Reg.cvuSticky) (hj : j < 0x80000) :
    (s.raiseBit Reg.cvuSticky i).reg j = s.reg j :=
  raise_reg_ne s _ h (cvuReg_ne_pba hj)

theorem up_domCob_congr {s t : State} (h : t.reg (Reg.pwrDomStatus 1) = s.reg (Reg.pwrDomStatus 1)) :
    t.up domCob = s.up domCob := by
  change (bits (t.reg (Reg.pwrDomStatus 1)) 1 0 == 2) = (bits (s.reg (Reg.pwrDomStatus 1)) 1 0 == 2)
  rw [h]

/-! ## Counters and pairs of registers -/

theorem satAdd_eq_min (w n k : Nat) : satAdd w n k = min (n + k) (2 ^ w - 1) := by
  unfold satAdd
  split <;> omega

/-- A 32-bit counter saturates (R12). -/
theorem fld_count_word (s : State) (off k : Nat) : (s.count off 31 0 k).fld off 31 0 = min (s.fld off 31 0 + k) (2 ^ 32 - 1) := by
  rw [State.count, fld_setFld _ _ _ _ _ (by decide), satAdd_eq_min]
  exact Nat.mod_eq_of_lt (by omega)

theorem pair64_setPair64 (s : State) {lo hi : Nat} (v : Nat) (h : lo ≠ hi) : (s.setPair64 lo hi v).pair64 lo hi = v % 2 ^ 64 := by
  simp only [State.pair64, State.setPair64, reg_setReg_same, reg_setReg_ne _ _ _ _ h, BitVec.toNat_ofNat]
  omega

theorem setPair64_reg_ne (s : State) {lo hi j : Nat} (v : Nat) (hlo : j ≠ lo) (hhi : j ≠ hi) :
    (s.setPair64 lo hi v).reg j = s.reg j := by
  rw [State.setPair64, reg_setReg_ne _ _ _ _ hhi, reg_setReg_ne _ _ _ _ hlo]

/-! ## The computation (R404) -/

/-- Bytes fed in two parts: the first, then the rest. -/
theorem CvCfg.feed_add (g : CvCfg) (v m n d : Nat) : g.feed v (m + n) d = g.feed (g.feed v m d) n (d / 256 ^ m) := by
  induction m generalizing v d with
  | zero => simp [CvCfg.feed]
  | succ m ih =>
    rw [Nat.succ_add, CvCfg.feed, ih, CvCfg.feed, Nat.div_div_eq_div_mul, Nat.pow_succ']

theorem CvCfg.bitStep_lt {g : CvCfg} (v : Nat) (b : Bool) (hpoly : g.poly < 2 ^ g.width) : g.bitStep v b < 2 ^ g.width := by
  have hshift : v * 2 % 2 ^ g.width < 2 ^ g.width := Nat.mod_lt _ (Nat.two_pow_pos _)
  unfold CvCfg.bitStep
  split
  · exact Nat.xor_lt_two_pow hshift hpoly
  · exact hshift

theorem CvCfg.byteStep_lt {g : CvCfg} (v b : Nat) (hpoly : g.poly < 2 ^ g.width) : g.byteStep v b < 2 ^ g.width := by
  unfold CvCfg.byteStep
  rw [show List.range 8 = List.range 7 ++ [7] from rfl, List.foldl_append]
  exact CvCfg.bitStep_lt _ _ hpoly

/-- The running value keeps to its width. -/
theorem CvCfg.feed_lt {g : CvCfg} (v n d : Nat) (hpoly : g.poly < 2 ^ g.width) (hv : v < 2 ^ g.width) :
    g.feed v n d < 2 ^ g.width := by
  induction n generalizing v d with
  | zero => exact hv
  | succ n ih => exact ih _ _ (CvCfg.byteStep_lt v _ hpoly)

/-! ## Contexts (R405, R407) -/

@[simp] theorem cv_setCv (s : State) (c : Nat) (x : CvCtx) : (s.setCv c x).cv c = x := by
  simp [State.cv, State.setCv]

@[simp] theorem cv_setReg (s : State) (o : Nat) (v : Word) (c : Nat) : (s.setReg o v).cv c = s.cv c := rfl
@[simp] theorem cv_count (s : State) (o hi lo k c : Nat) : (s.count o hi lo k).cv c = s.cv c := rfl
@[simp] theorem cv_showCv (s : State) (c : Nat) : (s.showCv c).cv c = s.cv c := rfl
@[simp] theorem cv_setCvValue (s : State) (c v : Nat) : (s.setCvValue c v).cv c = s.cv c := rfl

theorem showCv_reg_ne (s : State) {c j : Nat} (h : j ≠ Reg.cvuCvCtl c) : (s.showCv c).reg j = s.reg j := by
  rw [State.showCv, reg_setFld_ne _ _ _ _ _ _ h, reg_setFlag_ne _ _ _ _ _ h]

theorem showCv_pair64 (s : State) {c lo hi : Nat} (hlo : lo ≠ Reg.cvuCvCtl c) (hhi : hi ≠ Reg.cvuCvCtl c) :
    (s.showCv c).pair64 lo hi = s.pair64 lo hi := by
  rw [State.pair64, State.pair64, showCv_reg_ne s hlo, showCv_reg_ne s hhi]

theorem cvValue_showCv (s : State) (c : Nat) : (s.showCv c).cvValue c = s.cvValue c :=
  showCv_pair64 s (by unfold Reg.cvuCvValueLo Reg.cvuCvCtl; omega) (by unfold Reg.cvuCvValueHi Reg.cvuCvCtl; omega)

/-- BUSY tells whether an entry waits. -/
theorem flag_busy_showCv (s : State) (c : Nat) : (s.showCv c).flag (Reg.cvuCvCtl c) 30 = ((s.cv c).queue.length != 0) := by
  simp only [State.showCv, State.flag, reg_setFld, if_pos]
  rw [bit_setBits _ _ _ _ _ (by decide), if_neg (by decide)]
  exact flag_setFlag s (Reg.cvuCvCtl c) 30 _ (by decide)

/-- LEVEL counts the entries that wait. -/
theorem fld_level_showCv (s : State) (c : Nat) : (s.showCv c).fld (Reg.cvuCvCtl c) 3 0 = (s.cv c).queue.length % 16 :=
  fld_setFld _ _ _ _ _ (by decide)

theorem setCvValue_reg_count (s : State) (c v : Nat) : (s.setCvValue c v).reg (Reg.cvuCvCount c) = s.reg (Reg.cvuCvCount c) := by
  rw [State.setCvValue, setPair64_reg_ne, setPair64_reg_ne]
  all_goals
    simp only [Reg.cvuCvCount, Reg.cvuCvValueLo, Reg.cvuCvValueHi, Reg.cvuCvResultLo, Reg.cvuCvResultHi]
    omega

theorem cvValue_setCvValue (s : State) (c v : Nat) : (s.setCvValue c v).cvValue c = v % 2 ^ 64 := by
  have hlo : Reg.cvuCvValueLo c ≠ Reg.cvuCvResultLo c ∧ Reg.cvuCvValueLo c ≠ Reg.cvuCvResultHi c := by
    unfold Reg.cvuCvValueLo Reg.cvuCvResultLo Reg.cvuCvResultHi; omega
  have hhi : Reg.cvuCvValueHi c ≠ Reg.cvuCvResultLo c ∧ Reg.cvuCvValueHi c ≠ Reg.cvuCvResultHi c := by
    unfold Reg.cvuCvValueHi Reg.cvuCvResultLo Reg.cvuCvResultHi; omega
  have hpair : Reg.cvuCvValueLo c ≠ Reg.cvuCvValueHi c := by unfold Reg.cvuCvValueLo Reg.cvuCvValueHi; omega
  rw [← pair64_setPair64 s v hpair, State.cvValue, State.setCvValue, State.pair64, State.pair64,
    setPair64_reg_ne _ _ hlo.1 hlo.2, setPair64_reg_ne _ _ hhi.1 hhi.2]

theorem result_setCvValue (s : State) (c v : Nat) :
    (s.setCvValue c v).pair64 (Reg.cvuCvResultLo c) (Reg.cvuCvResultHi c) = (s.cv c).cfg.result v % 2 ^ 64 :=
  pair64_setPair64 _ _ (by unfold Reg.cvuCvResultLo Reg.cvuCvResultHi; omega)

/-- A context comes to hold a value and shows its queue: VALUE and RESULT follow, COUNT and memory stay. -/
theorem showCv_setCvValue (s : State) (c v : Nat) :
    ((s.setCvValue c v).showCv c).cvValue c = v % 2 ^ 64 ∧
    ((s.setCvValue c v).showCv c).reg (Reg.cvuCvCount c) = s.reg (Reg.cvuCvCount c) ∧
    ((s.setCvValue c v).showCv c).pair64 (Reg.cvuCvResultLo c) (Reg.cvuCvResultHi c) = (s.cv c).cfg.result v % 2 ^ 64 ∧
    ((s.setCvValue c v).showCv c).mem = s.mem := by
  refine ⟨?value, ?count, ?result, rfl⟩
  case value => rw [cvValue_showCv, cvValue_setCvValue]
  case count =>
    rw [showCv_reg_ne _ (by unfold Reg.cvuCvCount Reg.cvuCvCtl; omega), setCvValue_reg_count]
  case result =>
    rw [showCv_pair64 _ (by unfold Reg.cvuCvResultLo Reg.cvuCvCtl; omega) (by unfold Reg.cvuCvResultHi Reg.cvuCvCtl; omega),
      result_setCvValue]

/-! ### An entry finishes -/

/-- The context once its oldest entry is off the queue. -/
def State.cvTail (s : State) (c : Nat) (q : List CvEntry) : State := s.setCv c { s.cv c with queue := q }

theorem cv_cvTail (s : State) (c : Nat) (q : List CvEntry) : (s.cvTail c q).cv c = { s.cv c with queue := q } := cv_setCv ..

theorem cvStep_cons {s : State} {c : Nat} {e : CvEntry} {q : List CvEntry} (h : (s.cv c).queue = e :: q) :
    s.cvStep c = ((s.cvTail c q).cvApply c e).showCv c := by
  simp [State.cvStep, State.cvTail, h]

theorem cvStep_nil {s : State} {c : Nat} (h : (s.cv c).queue = []) : s.cvStep c = s := by
  simp [State.cvStep, h]

/-- What an entry does leaves the queue. -/
@[simp] theorem cvApply_queue (s : State) (c : Nat) (e : CvEntry) : ((s.cvApply c e).cv c).queue = (s.cv c).queue := by
  cases e with
  | start g => simp [State.cvApply]
  | feed n d => rfl
  | set v => rfl

/-- The oldest entry goes, the others stay in order. -/
theorem cvStep_queue {s : State} {c : Nat} {e : CvEntry} {q : List CvEntry} (h : (s.cv c).queue = e :: q) :
    ((s.cvStep c).cv c).queue = q := by
  rw [cvStep_cons h, cv_showCv, cvApply_queue, cv_cvTail]

theorem exec_queueEntry {s : State} {c : Nat} (hc : c < 8) (hup : s.up domCob = true) :
    exec (.queueEntry c) s = .next (s.cvStep c) := by
  change Host.Outcome.next (if c < 8 ∧ s.up domCob then s.cvStep c else s) = _
  rw [if_pos ⟨hc, hup⟩]

/-- With no entry there is nothing to finish. -/
theorem exec_queueEntry_nil {s : State} {c : Nat} (h : (s.cv c).queue = []) : exec (.queueEntry c) s = .next s := by
  change Host.Outcome.next (if c < 8 ∧ s.up domCob then s.cvStep c else s) = _
  rw [cvStep_nil h, ite_self]

/-- START latches its configuration, clears COUNT and leaves the initial value with the fold fed. -/
theorem cvStep_start {s : State} {c : Nat} {g : CvCfg} {q : List CvEntry} (h : (s.cv c).queue = .start g :: q) :
    ((s.cvStep c).cv c).cfg = g ∧ (s.cvStep c).cvValue c = g.begin % 2 ^ 64 ∧ (s.cvStep c).reg (Reg.cvuCvCount c) = 0 ∧
    (s.cvStep c).pair64 (Reg.cvuCvResultLo c) (Reg.cvuCvResultHi c) = g.result g.begin % 2 ^ 64 ∧ (s.cvStep c).mem = s.mem := by
  rw [cvStep_cons h, State.cvApply]
  obtain ⟨hvalue, hcount, hresult, hmem⟩ := showCv_setCvValue
    (((s.cvTail c q).setCv c { (s.cvTail c q).cv c with cfg := g }).setReg (Reg.cvuCvCount c) 0) c g.begin
  refine ⟨by simp, hvalue, hcount.trans (reg_setReg_same ..), hresult.trans (by simp), hmem⟩

/-- A feed moves the running value on by its bytes, and COUNT by their number. -/
theorem cvStep_feed {s : State} {c n d : Nat} {q : List CvEntry} (h : (s.cv c).queue = .feed n d :: q) :
    ((s.cvStep c).cv c).cfg = (s.cv c).cfg ∧ (s.cvStep c).cvValue c = (s.cv c).cfg.feed (s.cvValue c) n d % 2 ^ 64 ∧
    (s.cvStep c).fld (Reg.cvuCvCount c) 31 0 = min (s.fld (Reg.cvuCvCount c) 31 0 + n) (2 ^ 32 - 1) ∧
    (s.cvStep c).pair64 (Reg.cvuCvResultLo c) (Reg.cvuCvResultHi c)
      = (s.cv c).cfg.result ((s.cv c).cfg.feed (s.cvValue c) n d) % 2 ^ 64 ∧ (s.cvStep c).mem = s.mem := by
  have hcfg : ((s.cvTail c q).cv c).cfg = (s.cv c).cfg := by rw [cv_cvTail]
  have hold : (s.cvTail c q).cvValue c = s.cvValue c := rfl
  rw [cvStep_cons h, State.cvApply, hcfg, hold]
  obtain ⟨hvalue, hcount, hresult, hmem⟩ := showCv_setCvValue ((s.cvTail c q).count (Reg.cvuCvCount c) 31 0 n) c
    ((s.cv c).cfg.feed (s.cvValue c) n d)
  refine ⟨hcfg, hvalue, ?count, hresult.trans (by rw [cv_count, hcfg]), hmem⟩
  case count =>
    rw [State.fld, hcount]
    exact fld_count_word (s.cvTail c q) (Reg.cvuCvCount c) n

/-- A write of VALUE leaves the value cut to the width, and COUNT. -/
theorem cvStep_set {s : State} {c v : Nat} {q : List CvEntry} (h : (s.cv c).queue = .set v :: q) :
    (s.cvStep c).cvValue c = v % 2 ^ (s.cv c).cfg.width % 2 ^ 64 ∧
    (s.cvStep c).reg (Reg.cvuCvCount c) = s.reg (Reg.cvuCvCount c) ∧ (s.cvStep c).mem = s.mem := by
  have hcfg : ((s.cvTail c q).cv c).cfg = (s.cv c).cfg := by rw [cv_cvTail]
  rw [cvStep_cons h, State.cvApply, hcfg]
  obtain ⟨hvalue, hcount, -, hmem⟩ := showCv_setCvValue (s.cvTail c q) c (v % 2 ^ (s.cv c).cfg.width)
  exact ⟨hvalue, hcount, hmem⟩

/-! ### An entry is queued -/

/-- With room an entry goes behind the others; the running value stays. -/
theorem cvPush_room {s : State} {c : Nat} (e : CvEntry) (h : (s.cv c).queue.length < 8) :
    ((s.cvPush c e).cv c).queue = (s.cv c).queue ++ [e] ∧ (s.cvPush c e).flag (Reg.cvuCvCtl c) 30 = true ∧
    (s.cvPush c e).fld (Reg.cvuCvCtl c) 3 0 = (s.cv c).queue.length + 1 ∧ (s.cvPush c e).cvValue c = s.cvValue c := by
  have hfull : s.cvFull c = false := by simpa [State.cvFull] using h
  have hpush : s.cvPush c e = (s.cvTail c ((s.cv c).queue ++ [e])).showCv c := by simp [State.cvPush, State.cvTail, hfull]
  rw [hpush]
  refine ⟨by rw [cv_showCv, cv_cvTail], ?busy, ?level, cvValue_showCv _ c⟩
  case busy => simp [flag_busy_showCv, cv_cvTail]
  case level =>
    rw [fld_level_showCv, cv_cvTail, List.length_append, List.length_singleton]
    exact Nat.mod_eq_of_lt (by omega)

/-- A full queue holds the access until its oldest entry has finished (R407, log 89). -/
theorem cvPush_full {s : State} {c : Nat} {x : CvEntry} {q : List CvEntry} (e : CvEntry) (h : (s.cv c).queue = x :: q)
    (hq : q.length = 7) : ((s.cvPush c e).cv c).queue = q ++ [e] := by
  have hfull : s.cvFull c = true := by simp [State.cvFull, h, hq]
  simp [State.cvPush, hfull, cvStep_queue h]

/-! ## The registers of a context (R405, R406, R408, R409) -/

theorem and_allOnes_word (v : Word) : v &&& 0xFFFFFFFF = v := BitVec.and_allOnes

/-- A write without a mask replaces the word. -/
theorem masked_allOnes (old v : Word) : (old &&& ~~~ (0xFFFFFFFF : Word)) ||| (v &&& 0xFFFFFFFF) = v := by
  have hzero : ~~~ (0xFFFFFFFF : Word) = 0#32 := by decide
  rw [and_allOnes_word, hzero, BitVec.and_zero, BitVec.zero_or]

/-- An access reaches a register of the check-value units only with COB up. -/
theorem up_of_reaches {s : State} {p : Port} {off : Nat} (hlo : 0x70000 ≤ off) (hhi : off < 0x80000)
    (h : s.reaches p off = true) : s.up domCob = true := by
  simp only [State.reaches, Bool.and_eq_true] at h
  rw [← regUp_cvu s hlo hhi]
  exact h.1.2

/-- The command of a host write into a context: what the write at word `r` of the context makes, with the status of the port. -/
theorem next_cvHost {s t : State} {p : Port} {c r off : Nat} {val : Word} (hc : c < 8) (h : s.reaches p off = true)
    (hoff : off = 0x70100 + 0x80 * c + r) (hwrite : s.writeCv (some p) c r val 0xFFFFFFFF = t) :
    Host.Outcome.next (s.cvHost p c r val) = (.next (t.noted p mgOk) : Host.Outcome State Fault Refusal) := by
  subst hoff
  rw [State.cvHost, if_pos hc, hostReg_reaches s p _ _ h, hwrite]

/-! ### Starts and feeds -/

theorem exec_cvStart {s : State} {p : Port} {c : Nat} (val : Word) (hc : c < 8) (h : s.reaches p (Reg.cvuCvCtl c) = true) :
    exec (.cvStart p c val) s = .next ((s.cvPush c (.start (s.cvConfig c))).noted p mgOk) := by
  refine next_cvHost hc h (by unfold Reg.cvuCvCtl; omega) ?_
  have hstart : bit (val ||| 0x80000000) 31 = true := by simp [bit]
  rw [State.writeCv, if_pos rfl, State.writeCvCtl, and_allOnes_word, if_pos hstart]

theorem exec_feed8 {s : State} {p : Port} {c : Nat} (val : Word) (hc : c < 8) (h : s.reaches p (Reg.cvuCvFeed8 c) = true) :
    exec (.feed8 p c val) s = .next ((s.cvPush c (.feed 1 (val.toNat % 256))).noted p mgOk) := by
  refine next_cvHost hc h (by unfold Reg.cvuCvFeed8; omega) ?_
  simp only [State.writeCv, and_allOnes_word]
  rfl

theorem exec_feed16 {s : State} {p : Port} {c : Nat} (val : Word) (hc : c < 8) (h : s.reaches p (Reg.cvuCvFeed16 c) = true) :
    exec (.feed16 p c val) s = .next ((s.cvPush c (.feed 2 (val.toNat % 65536))).noted p mgOk) := by
  refine next_cvHost hc h (by unfold Reg.cvuCvFeed16; omega) ?_
  simp only [State.writeCv, and_allOnes_word]
  rfl

theorem exec_feed32 {s : State} {p : Port} {c : Nat} (val : Word) (hc : c < 8) (h : s.reaches p (Reg.cvuCvFeed32 c) = true) :
    exec (.feed32 p c val) s = .next ((s.cvPush c (.feed 4 val.toNat)).noted p mgOk) := by
  refine next_cvHost hc h (by unfold Reg.cvuCvFeed32; omega) ?_
  simp only [State.writeCv, and_allOnes_word]
  rfl

/-! ### Halves of 64-bit values -/

/-- Staging words and the status of a port are no part of what decides whether an access arrives. -/
theorem reaches_putStage_noted (s : State) (p q : Port) (k off : Nat) (v : Option Word) (st : Nat) :
    ((s.putStage k v).noted p st).reaches q off = s.reaches q off := by
  cases p <;> cases q <;> rfl

theorem putStage_noted_regs (s : State) (p : Port) (k : Nat) (v : Option Word) (st : Nat) :
    ((s.putStage k v).noted p st).regs = s.regs := by
  cases p <;> rfl

theorem putStage_noted_ctx (s : State) (p : Port) (k : Nat) (v : Option Word) (st : Nat) :
    ((s.putStage k v).noted p st).cvu.ctx = s.cvu.ctx := by
  cases p <;> rfl

/-- A low word is found under the key it was staged under. -/
theorem alook_stage_putStage (s : State) (p : Port) (k : Nat) (v : Word) (st : Nat) :
    alook ((s.putStage k (some v)).noted p st).cvu.stage k = some v := by
  cases p <;> exact alook_aput_same ..

theorem exec_feed64Lo {s : State} {p : Port} {c : Nat} (lo : Word) (hc : c < 8) (h : s.reaches p (Reg.cvuCvFeed64Lo c) = true) :
    exec (.feed64Lo p c lo) s = .next ((s.putStage (stageKey c (writerNo (some p)) 0) (some lo)).noted p mgOk) := by
  refine next_cvHost hc h (by unfold Reg.cvuCvFeed64Lo; omega) ?_
  simp only [State.writeCv, and_allOnes_word]
  rfl

theorem exec_feed64Hi {s : State} {p : Port} {c : Nat} (hi : Word) (hc : c < 8) (h : s.reaches p (Reg.cvuCvFeed64Hi c) = true) :
    exec (.feed64Hi p c hi) s = .next ((s.feedHigh (some p) c hi).noted p mgOk) := by
  refine next_cvHost hc h (by unfold Reg.cvuCvFeed64Hi; omega) ?_
  simp only [State.writeCv, and_allOnes_word]
  rfl

theorem exec_valueWrite_low {s : State} {p : Port} {c : Nat} (lo : Word) (hc : c < 8)
    (h : s.reaches p (Reg.cvuCvValueLo c) = true) :
    exec (.valueWrite p c false lo) s = .next ((s.putStage (stageKey c (writerNo (some p)) 1) (some lo)).noted p mgOk) := by
  refine next_cvHost (r := 0x28) hc h (by unfold Reg.cvuCvValueLo; omega) ?_
  simp only [State.writeCv, masked_allOnes]
  rfl

theorem exec_valueWrite_high {s : State} {p : Port} {c : Nat} (hi : Word) (hc : c < 8)
    (h : s.reaches p (Reg.cvuCvValueHi c) = true) :
    exec (.valueWrite p c true hi) s = .next ((s.valueHigh (some p) c hi).noted p mgOk) := by
  refine next_cvHost (r := 0x2C) hc h (by unfold Reg.cvuCvValueHi; omega) ?_
  simp only [State.writeCv, masked_allOnes]
  rfl

/-- The high word of a feed joins the low word its writer staged. -/
theorem feedHigh_staged {s : State} {w : Writer} {c : Nat} {lo : Word} (hi : Word)
    (h : alook s.cvu.stage (stageKey c (writerNo w) 0) = some lo) :
    s.feedHigh w c hi = (s.putStage (stageKey c (writerNo w) 0) none).cvPush c (.feed 8 (hi.toNat * 2 ^ 32 + lo.toNat)) := by
  simp [State.feedHigh, h]

/-- The high word of a feed without a staged low word takes 0 for it and sets HALF_FEED. -/
theorem feedHigh_unstaged {s : State} {w : Writer} {c : Nat} (hi : Word)
    (h : alook s.cvu.stage (stageKey c (writerNo w) 0) = none) :
    s.feedHigh w c hi = ((s.raiseBit Reg.cvuSticky 1).putStage (stageKey c (writerNo w) 0) none).cvPush c
      (.feed 8 (hi.toNat * 2 ^ 32)) := by
  simp [State.feedHigh, h]

/-- The high word of VALUE joins the low word its writer staged. -/
theorem valueHigh_staged {s : State} {w : Writer} {c : Nat} {lo : Word} (hi : Word)
    (h : alook s.cvu.stage (stageKey c (writerNo w) 1) = some lo) :
    s.valueHigh w c hi = (s.putStage (stageKey c (writerNo w) 1) none).cvPush c (.set (hi.toNat * 2 ^ 32 + lo.toNat)) := by
  simp [State.valueHigh, h]

/-- With nothing staged there is nothing to take off. -/
theorem putStage_none_cvu {s : State} (k : Nat) (h : s.cvu.stage = []) : (s.putStage k none).cvu = s.cvu := by
  change { s.cvu with stage := sdel s.cvu.stage k } = s.cvu
  rw [h]
  exact (congrArg (fun l => { s.cvu with stage := l }) h.symm :)

/-- Two halves of a feed through one port make one entry (R408). -/
theorem feed64_joins {s : State} {p : Port} {c : Nat} (lo hi : Word) (hc : c < 8)
    (hlo : s.reaches p (Reg.cvuCvFeed64Lo c) = true) (hhi : s.reaches p (Reg.cvuCvFeed64Hi c) = true) :
    ∃ t u : State, exec (.feed64Lo p c lo) s = .next t ∧ t.regs = s.regs ∧ t.cvu.ctx = s.cvu.ctx ∧ u.regs = s.regs ∧
      u.cvu.ctx = s.cvu.ctx ∧
      exec (.feed64Hi p c hi) t = .next ((u.cvPush c (.feed 8 (hi.toNat * 2 ^ 32 + lo.toNat))).noted p mgOk) := by
  have hreach := (reaches_putStage_noted s p p (stageKey c (writerNo (some p)) 0) (Reg.cvuCvFeed64Hi c) (some lo) mgOk).trans hhi
  have hregs := putStage_noted_regs s p (stageKey c (writerNo (some p)) 0) (some lo) mgOk
  have hctx := putStage_noted_ctx s p (stageKey c (writerNo (some p)) 0) (some lo) mgOk
  refine ⟨_, ((s.putStage (stageKey c (writerNo (some p)) 0) (some lo)).noted p mgOk).putStage
    (stageKey c (writerNo (some p)) 0) none, exec_feed64Lo lo hc hlo, hregs, hctx, hregs, hctx, ?_⟩
  rw [exec_feed64Hi hi hc hreach, feedHigh_staged hi (alook_stage_putStage s p _ lo mgOk)]

/-- Two halves of VALUE through one port make one entry (R409). -/
theorem valueWrite_joins {s : State} {p : Port} {c : Nat} (lo hi : Word) (hc : c < 8)
    (hlo : s.reaches p (Reg.cvuCvValueLo c) = true) (hhi : s.reaches p (Reg.cvuCvValueHi c) = true) :
    ∃ t u : State, exec (.valueWrite p c false lo) s = .next t ∧ t.regs = s.regs ∧ u.regs = s.regs ∧ u.cvu.ctx = s.cvu.ctx ∧
      exec (.valueWrite p c true hi) t = .next ((u.cvPush c (.set (hi.toNat * 2 ^ 32 + lo.toNat))).noted p mgOk) := by
  have hreach := (reaches_putStage_noted s p p (stageKey c (writerNo (some p)) 1) (Reg.cvuCvValueHi c) (some lo) mgOk).trans hhi
  have hregs := putStage_noted_regs s p (stageKey c (writerNo (some p)) 1) (some lo) mgOk
  have hctx := putStage_noted_ctx s p (stageKey c (writerNo (some p)) 1) (some lo) mgOk
  refine ⟨_, ((s.putStage (stageKey c (writerNo (some p)) 1) (some lo)).noted p mgOk).putStage
    (stageKey c (writerNo (some p)) 1) none, exec_valueWrite_low lo hc hlo, hregs, hregs, hctx, ?_⟩
  rw [exec_valueWrite_high hi hc hreach, valueHigh_staged hi (alook_stage_putStage s p _ lo mgOk)]

/-- The high half of a feed alone (R408): HALF_FEED, and 0 for the low half. -/
theorem feed64Hi_alone {s : State} {p : Port} {c : Nat} (hi : Word) (hc : c < 8)
    (h : s.reaches p (Reg.cvuCvFeed64Hi c) = true) (hstage : s.cvu.stage = []) :
    ∃ u : State, u.flag Reg.cvuSticky 1 = true ∧ u.cvu = s.cvu ∧
      exec (.feed64Hi p c hi) s = .next ((u.cvPush c (.feed 8 (hi.toNat * 2 ^ 32))).noted p mgOk) := by
  have hup : s.up domCob = true :=
    up_of_reaches (by unfold Reg.cvuCvFeed64Hi; omega) (by unfold Reg.cvuCvFeed64Hi; omega) h
  have hnone : alook s.cvu.stage (stageKey c (writerNo (some p)) 0) = none := by rw [hstage]; rfl
  have hraised : (s.raiseBit Reg.cvuSticky 1).cvu = s.cvu := raiseBit_cvu ..
  refine ⟨(s.raiseBit Reg.cvuSticky 1).putStage (stageKey c (writerNo (some p)) 0) none,
    flag_raiseBit_cvuSticky hup (by decide), (putStage_none_cvu _ (by rw [hraised, hstage])).trans hraised, ?_⟩
  rw [exec_feed64Hi hi hc h, feedHigh_unstaged hi hnone]

/-! ### The configuration register (R406) -/

/-- The declaration of CFG. -/
def cvCfgDecl : RegDecl :=
  ⟨"CVU.CV[c].CFG", 0x70104, [(0x80, 8)], 0xC0000020,
   [fd "REFIN" 31 31 .rw, fd "REFOUT" 30 30 .rw, fd "FOLD_LEN" 19 16 .rw, fd "WIDTH" 6 0 .rw]⟩

theorem declOf_cvuCvCfg : ∀ c, c < 8 → declOf (Reg.cvuCvCfg c) = some cvCfgDecl := by decide +kernel

theorem lockOf_cvuCvCfg {c : Nat} (hc : c < 8) : lockOf (Reg.cvuCvCfg c) = none := by
  have hblock : blockBase (Reg.cvuCvCfg c) = 0x70000 := by
    unfold blockBase Reg.cvuCvCfg
    rw [if_pos (by omega)]
    omega
  simp [lockOf, hblock]

/-- The word CFG holds after `w` has been written over `old`: the four fields of `w`, and `old` elsewhere. -/
def cvCfgWord (old w : Word) : Word :=
  setBits (setBits (setBits (setBits old 31 31 (bits w 31 31)) 30 30 (bits w 30 30)) 19 16 (bits w 19 16)) 6 0 (bits w 6 0)

theorem writeFields_cvuCvCfg (s : State) {c : Nat} (hc : c < 8) (w : Word) :
    s.writeFields (Reg.cvuCvCfg c) w 0xFFFFFFFF
      = s.setReg (Reg.cvuCvCfg c) (cvCfgWord (s.reg (Reg.cvuCvCfg c)) w) := by
  simp only [State.writeFields, declOf_cvuCvCfg c hc, masked_allOnes, keepLock, lockOf_cvuCvCfg hc]
  rfl

theorem bits_width_cvCfgWord (old w : Word) : bits (cvCfgWord old w) 6 0 = bits w 6 0 := by
  rw [cvCfgWord, bits_setBits _ _ _ _ (by decide)]
  exact Nat.mod_eq_of_lt (bits_lt w 6 0)

theorem bits_foldLen_cvCfgWord (old w : Word) : bits (cvCfgWord old w) 19 16 = bits w 19 16 := by
  rw [cvCfgWord, bits_setBits_ne _ _ _ _ _ _ (by decide) (by decide), bits_setBits _ _ _ _ (by decide)]
  exact Nat.mod_eq_of_lt (bits_lt w 19 16)

/-- A field of one bit, set from a word, is that word's bit. -/
theorem bit_setBits_bits (w old : Word) {i : Nat} (h : i < 32) : bit (setBits old i i (bits w i i)) i = bit w i := by
  rw [bit_setBits _ _ _ _ _ h, if_pos ⟨Nat.le_refl i, Nat.lt_succ_self i⟩, testBit_bits]
  simp [bit]

theorem bit_setBits_outside (w : Word) {hi lo i : Nat} (v : Nat) (h : i < lo ∨ hi < i) (h32 : i < 32) :
    bit (setBits w hi lo v) i = bit w i := by
  rw [bit_setBits _ _ _ _ _ h32, if_neg (by omega)]

theorem bit_refin_cvCfgWord (old w : Word) : bit (cvCfgWord old w) 31 = bit w 31 := by
  rw [cvCfgWord, bit_setBits_outside _ _ (by decide) (by decide), bit_setBits_outside _ _ (by decide) (by decide),
    bit_setBits_outside _ _ (by decide) (by decide), bit_setBits_bits _ _ (by decide)]

theorem bit_refout_cvCfgWord (old w : Word) : bit (cvCfgWord old w) 30 = bit w 30 := by
  rw [cvCfgWord, bit_setBits_outside _ _ (by decide) (by decide), bit_setBits_outside _ _ (by decide) (by decide),
    bit_setBits_bits _ _ (by decide)]

/-- A field whose written value is out of range keeps what it holds. -/
def keepField (refuse : Bool) (w old : Word) (hi lo : Nat) : Word :=
  if refuse then setBits w hi lo (bits old hi lo) else w

theorem bits_keepField (refuse : Bool) (w old : Word) {hi lo : Nat} (h : hi < 32) :
    bits (keepField refuse w old hi lo) hi lo = if refuse then bits old hi lo else bits w hi lo := by
  unfold keepField
  split
  · rw [bits_setBits _ _ _ _ h]
    exact Nat.mod_eq_of_lt (bits_lt old hi lo)
  · rfl

theorem bits_keepField_ne (refuse : Bool) (w old : Word) {hi lo hi' lo' : Nat} (h : hi' < lo ∨ hi < lo')
    (h32 : hi' < 32) : bits (keepField refuse w old hi lo) hi' lo' = bits w hi' lo' := by
  unfold keepField
  split
  · exact bits_setBits_ne _ _ _ _ _ _ h h32
  · rfl

theorem bit_keepField_ne (refuse : Bool) (w old : Word) {hi lo i : Nat} (h : i < lo ∨ hi < i) (h32 : i < 32) :
    bit (keepField refuse w old hi lo) i = bit w i := by
  unfold keepField
  split
  · exact bit_setBits_outside _ _ h h32
  · rfl

/-- A written WIDTH of 0 or above 64. -/
def badWidth (val : Word) : Bool := bits val 6 0 == 0 || 64 < bits val 6 0
/-- A written FOLD_LEN above 8. -/
def badFold (val : Word) : Bool := 8 < bits val 19 16

theorem bits_width (val : Word) : bits val 6 0 = val.toNat % 128 := rfl
theorem bits_foldLen (val : Word) : bits val 19 16 = val.toNat / 65536 % 16 :=
  congrArg (· % 16) (Nat.shiftRight_eq_div_pow val.toNat 16)

theorem badWidth_iff (val : Word) : badWidth val = true ↔ val.toNat % 128 = 0 ∨ 64 < val.toNat % 128 := by
  simp only [badWidth, Bool.or_eq_true, beq_iff_eq, decide_eq_true_eq]
  rfl

theorem badFold_iff (val : Word) : badFold val = true ↔ 8 < val.toNat / 65536 % 16 := by
  simp only [badFold, bits_foldLen, decide_eq_true_eq]

/-- What a write of `val` to CFG places in its fields: out of range, WIDTH and FOLD_LEN are as before. -/
def cvCfgTaken (old val : Word) : Word := keepField (badFold val) (keepField (badWidth val) val old 6 0) old 19 16

/-- CFG takes the fields of a write that are in range. -/
def State.putCvCfg (s : State) (c : Nat) (val : Word) : State :=
  s.writeFields (Reg.cvuCvCfg c) (cvCfgTaken (s.reg (Reg.cvuCvCfg c)) val) 0xFFFFFFFF

/-- A write to CFG: the fields in range are taken, one out of range is counted and recorded. -/
theorem writeCvCfg_eq (s : State) (c : Nat) (val : Word) :
    s.writeCvCfg c val 0xFFFFFFFF = if badWidth val || badFold val then
      ((s.putCvCfg c val).bump Reg.cvuCntBadw).raiseBit Reg.cvuSticky 0 else s.putCvCfg c val := by
  unfold State.writeCvCfg State.putCvCfg cvCfgTaken keepField badWidth badFold
  dsimp only
  rw [masked_allOnes]
  by_cases hfold : 8 < bits val 19 16
  · simp only [hfold, decide_true, if_true]
  · simp only [hfold, decide_false, if_false, Bool.false_eq_true]

theorem exec_cvCfgWrite {s : State} {p : Port} {c : Nat} (val : Word) (hc : c < 8) (h : s.reaches p (Reg.cvuCvCfg c) = true) :
    exec (.cvCfgWrite p c val) s = .next ((s.writeCvCfg c val 0xFFFFFFFF).noted p mgOk) :=
  next_cvHost hc h (by unfold Reg.cvuCvCfg; omega) rfl

/-- A write with both fields in range is a write of the word by its access codes. -/
theorem writeCvCfg_inRange {s : State} {c : Nat} {val : Word} (hw : badWidth val = false) (hf : badFold val = false) :
    s.writeCvCfg c val 0xFFFFFFFF = s.writeFields (Reg.cvuCvCfg c) val 0xFFFFFFFF := by
  simp only [writeCvCfg_eq, State.putCvCfg, cvCfgTaken, keepField, hw, hf, Bool.or_false, Bool.false_eq_true, if_false]

theorem putCvCfg_reg (s : State) {c : Nat} (hc : c < 8) (val : Word) (j : Nat) :
    (s.putCvCfg c val).reg j = if j = Reg.cvuCvCfg c then
      cvCfgWord (s.reg (Reg.cvuCvCfg c)) (cvCfgTaken (s.reg (Reg.cvuCvCfg c)) val) else s.reg j := by
  rw [State.putCvCfg, writeFields_cvuCvCfg s hc, reg_setReg]

/-- What CFG holds after a write. -/
theorem writeCvCfg_reg_cfg (s : State) {c : Nat} (hc : c < 8) (val : Word) :
    (s.writeCvCfg c val 0xFFFFFFFF).reg (Reg.cvuCvCfg c)
      = cvCfgWord (s.reg (Reg.cvuCvCfg c)) (cvCfgTaken (s.reg (Reg.cvuCvCfg c)) val) := by
  have hput := (putCvCfg_reg s hc val (Reg.cvuCvCfg c)).trans (if_pos rfl)
  rw [writeCvCfg_eq]
  split
  · have hcount : ((s.putCvCfg c val).bump Reg.cvuCntBadw).reg (Reg.cvuCvCfg c) = (s.putCvCfg c val).reg (Reg.cvuCvCfg c) :=
      reg_setFld_ne _ _ _ _ _ _ (by unfold Reg.cvuCvCfg Reg.cvuCntBadw; omega)
    rw [raiseBit_cvuSticky_reg_ne _ 0 (by unfold Reg.cvuCvCfg Reg.cvuSticky; omega) (by unfold Reg.cvuCvCfg; omega), hcount, hput]
  · exact hput

theorem writeCvCfg_width (s : State) {c : Nat} (hc : c < 8) (val : Word) :
    (s.writeCvCfg c val 0xFFFFFFFF).fld (Reg.cvuCvCfg c) 6 0
      = if badWidth val then s.fld (Reg.cvuCvCfg c) 6 0 else val.toNat % 128 := by
  rw [State.fld, writeCvCfg_reg_cfg s hc, bits_width_cvCfgWord, cvCfgTaken, bits_keepField_ne _ _ _ (by decide) (by decide),
    bits_keepField _ _ _ (by decide), State.fld, bits_width val]

theorem writeCvCfg_foldLen (s : State) {c : Nat} (hc : c < 8) (val : Word) :
    (s.writeCvCfg c val 0xFFFFFFFF).fld (Reg.cvuCvCfg c) 19 16
      = if badFold val then s.fld (Reg.cvuCvCfg c) 19 16 else val.toNat / 65536 % 16 := by
  rw [State.fld, writeCvCfg_reg_cfg s hc, bits_foldLen_cvCfgWord, cvCfgTaken, bits_keepField _ _ _ (by decide),
    bits_keepField_ne _ _ _ (by decide) (by decide), State.fld, bits_foldLen val]

theorem writeCvCfg_refin (s : State) {c : Nat} (hc : c < 8) (val : Word) :
    (s.writeCvCfg c val 0xFFFFFFFF).flag (Reg.cvuCvCfg c) 31 = val.getLsbD 31 := by
  rw [State.flag, writeCvCfg_reg_cfg s hc, bit_refin_cvCfgWord, cvCfgTaken, bit_keepField_ne _ _ _ (by decide) (by decide),
    bit_keepField_ne _ _ _ (by decide) (by decide), bit]

theorem writeCvCfg_refout (s : State) {c : Nat} (hc : c < 8) (val : Word) :
    (s.writeCvCfg c val 0xFFFFFFFF).flag (Reg.cvuCvCfg c) 30 = val.getLsbD 30 := by
  rw [State.flag, writeCvCfg_reg_cfg s hc, bit_refout_cvCfgWord, cvCfgTaken, bit_keepField_ne _ _ _ (by decide) (by decide),
    bit_keepField_ne _ _ _ (by decide) (by decide), bit]

/-- A write out of range is counted, and BAD_WRITE stands. -/
theorem writeCvCfg_refused {s : State} {c : Nat} {val : Word} (hc : c < 8) (hup : s.up domCob = true)
    (hbad : (badWidth val || badFold val) = true) :
    (s.writeCvCfg c val 0xFFFFFFFF).fld Reg.cvuCntBadw 31 0 = min (s.fld Reg.cvuCntBadw 31 0 + 1) (2 ^ 32 - 1) ∧
      (s.writeCvCfg c val 0xFFFFFFFF).flag Reg.cvuSticky 0 = true := by
  rw [writeCvCfg_eq, if_pos hbad]
  have hput : ∀ j, j ≠ Reg.cvuCvCfg c → (s.putCvCfg c val).reg j = s.reg j :=
    fun j hj => (putCvCfg_reg s hc val j).trans (if_neg hj)
  constructor
  · have hraise : ∀ t : State, (t.raiseBit Reg.cvuSticky 0).fld Reg.cvuCntBadw 31 0 = t.fld Reg.cvuCntBadw 31 0 := fun t => by
      rw [State.fld, raiseBit_cvuSticky_reg_ne t 0 (by decide) (by decide), State.fld]
    rw [hraise, State.bump, fld_count_word, State.fld, hput _ (by unfold Reg.cvuCntBadw Reg.cvuCvCfg; omega), State.fld]
  · have hpwr : ((s.putCvCfg c val).bump Reg.cvuCntBadw).reg (Reg.pwrDomStatus 1) = s.reg (Reg.pwrDomStatus 1) :=
      (reg_setFld_ne _ _ _ _ _ _ (by decide)).trans (hput _ (by unfold Reg.pwrDomStatus Reg.cvuCvCfg; omega))
    exact flag_raiseBit_cvuSticky ((up_domCob_congr hpwr).trans hup) (by decide)

/-- What a write to CFG through a port leaves. -/
theorem exec_cvCfgWrite_fields {s : State} {p : Port} {c : Nat} (val : Word) (hc : c < 8)
    (h : s.reaches p (Reg.cvuCvCfg c) = true) :
    ∃ t, exec (.cvCfgWrite p c val) s = .next t ∧
      t.fld (Reg.cvuCvCfg c) 6 0 = (if val.toNat % 128 = 0 ∨ 64 < val.toNat % 128 then s.fld (Reg.cvuCvCfg c) 6 0
        else val.toNat % 128) ∧
      t.fld (Reg.cvuCvCfg c) 19 16 = (if 8 < val.toNat / 65536 % 16 then s.fld (Reg.cvuCvCfg c) 19 16
        else val.toNat / 65536 % 16) ∧
      t.flag (Reg.cvuCvCfg c) 31 = val.getLsbD 31 ∧ t.flag (Reg.cvuCvCfg c) 30 = val.getLsbD 30 ∧
      (val.toNat % 128 = 0 ∨ 64 < val.toNat % 128 ∨ 8 < val.toNat / 65536 % 16 →
        t.fld Reg.cvuCntBadw 31 0 = min (s.fld Reg.cvuCntBadw 31 0 + 1) (2 ^ 32 - 1) ∧ t.flag Reg.cvuSticky 0 = true) := by
  refine ⟨_, exec_cvCfgWrite val hc h, ?_⟩
  simp only [fld_noted, flag_noted]
  refine ⟨?width, ?fold, writeCvCfg_refin s hc val, writeCvCfg_refout s hc val, fun hbad => ?refused⟩
  case width => rw [writeCvCfg_width s hc, if_congr (badWidth_iff val) rfl rfl]
  case fold => rw [writeCvCfg_foldLen s hc, if_congr (badFold_iff val) rfl rfl]
  case refused =>
    have hup := up_of_reaches (by unfold Reg.cvuCvCfg; omega) (by unfold Reg.cvuCvCfg; omega) h
    rw [← or_assoc, ← badWidth_iff, ← badFold_iff, ← Bool.or_eq_true] at hbad
    exact writeCvCfg_refused hc hup hbad

/-! ## CVFEED and CVFEED.A (R118) -/

/-- The entry CVFEED makes of registers: 1, 2, 4 or 8 bytes. -/
theorem doCvfeed_room {s : State} {cv : Nat} (th w g : Nat) (h : s.cvFull cv = false) :
    s.doCvfeed th cv w g = (s.cvPush cv (
      if w = 0 then .feed 1 ((s.g th g).toNat % 2 ^ 8) else if w = 1 then .feed 2 ((s.g th g).toNat % 2 ^ 16)
      else if w = 2 then .feed 4 (s.g th g).toNat
      else .feed 8 ((s.g th g).toNat + (s.g th (g + 1)).toNat * 2 ^ 32)), .next) := by
  unfold State.doCvfeed
  rw [h]
  match w with
  | 0 => rfl
  | 1 => rfl
  | 2 => rfl
  | _ + 3 => rfl

theorem doCvfeed_full {s : State} {cv : Nat} (th w g : Nat) (h : s.cvFull cv = true) : s.doCvfeed th cv w g = (s, .stay) := by
  rw [State.doCvfeed, if_pos h]

theorem perform_cvfeed (s : State) (th u cv w g : Nat) : s.perform th u (.cvfeed cv w g) = s.doCvfeed th cv w g := rfl
theorem perform_cvfeedA (s : State) (th u cv i n : Nat) : s.perform th u (.cvfeedA cv i n) = s.feedWords th cv i n := rfl

/-- CVFEED issues as its row. -/
theorem exec_cvfeed {s f : State} {th cv w g : Nat} (h : State.Executes s th (.cvfeed cv w g) f) :
    exec (.cvfeed th) s = .next ((f.begun th).retire th ((f.begun th).doCvfeed th cv w g)) := by
  change Host.Outcome.next (s.issue th (.cvfeed th)) = _
  rw [issue_executes (row := .cvfeed th) h rfl, perform_cvfeed]

/-- CVFEED.A issues as its row. -/
theorem exec_cvfeedA {s f : State} {th cv i n : Nat} (h : State.Executes s th (.cvfeedA cv i n) f) :
    exec (.cvfeedA th) s = .next ((f.begun th).retire th ((f.begun th).feedWords th cv i n)) := by
  change Host.Outcome.next (s.issue th (.cvfeedA th)) = _
  rw [issue_executes (row := .cvfeedA th) h rfl, perform_cvfeedA]

/-- A word read is fed, and a_i moves past it. -/
theorem feedWords_ok {s g : State} {th i : Nat} {w : Word} (cv n : Nat) (h : s.loadWord (s.a24 th i) = (.ok w, g)) :
    s.feedWords th cv i (n + 1) = ((g.cvPush cv (.feed 4 w.toNat)).setA th i (g.a24 th i + 4)).feedWords th cv i n := by
  rw [State.feedWords, h]

/-- A word that faults ends the feed with a_i at it. -/
theorem feedWords_error {s g : State} {th i c : Nat} (cv n : Nat) (h : s.loadWord (s.a24 th i) = (.error c, g)) :
    s.feedWords th cv i (n + 1) = (g, .fault c) := by
  rw [State.feedWords, h]

/-! ## The statement -/

/-- Settles O54: host writes by what each does at its register, entries by what a context holds once its oldest has finished, feeds
of several bytes by induction on their number, and the two instructions by their issue. -/
theorem checkValueUnits : Obligations.CheckValueUnits := by
  unfold Obligations.CheckValueUnits
  refine ⟨fun s p c val => exec_cvStart val, fun s p c val => exec_feed8 val, fun s p c val => exec_feed16 val,
    fun s p c val => exec_feed32 val, fun s p c lo hi => feed64_joins lo hi, fun s p c hi => feed64Hi_alone hi,
    fun s p c lo hi => valueWrite_joins lo hi, ?cfgInRange, fun s p c val => exec_cvCfgWrite_fields val,
    fun s c e _ => cvPush_room e, fun s c e x q _ => cvPush_full e, ?start, ?feed, fun s c => exec_queueEntry_nil, ?set,
    fun g v m n d => g.feed_add v m n d, fun g v n d _ => CvCfg.feed_lt v n d, ?cvfeedRoom, ?cvfeedFull, ?cvfeedA,
    fun s th cv i n w g => feedWords_ok cv n, fun s th cv i n c g => feedWords_error cv n⟩
  case cfgInRange =>
    intro s p c val hc h hone hmax hfold
    have hw : badWidth val = false := by rw [← Bool.not_eq_true, badWidth_iff]; omega
    have hf : badFold val = false := by rw [← Bool.not_eq_true, badFold_iff]; omega
    rw [exec_cvCfgWrite val hc h, writeCvCfg_inRange hw hf]
  case start =>
    intro s c g q hc hup h
    exact ⟨_, exec_queueEntry hc hup, cvStep_queue h, cvStep_start h⟩
  case feed =>
    intro s c n d q hc hup h
    exact ⟨_, exec_queueEntry hc hup, cvStep_queue h, cvStep_feed h⟩
  case set =>
    intro s c v q hc hup h
    exact ⟨_, exec_queueEntry hc hup, cvStep_queue h, cvStep_set h⟩
  case cvfeedRoom =>
    intro s th cv w g f h hroom
    rw [exec_cvfeed h.toExecutes, doCvfeed_room (s := f.begun th) th w g hroom]
    rfl
  case cvfeedFull =>
    intro s th cv w g f h hfull
    rw [exec_cvfeed h.toExecutes, doCvfeed_full (s := f.begun th) th w g hfull, State.retire]
    simp only [begun_thread, if_pos]
  case cvfeedA =>
    intro s th cv i n f g h hfeed
    rw [exec_cvfeedA h.toExecutes, hfeed]
    rfl

end Sys2Proof.Machine

/-! The whole machine: what a command and a step keep (R27, R47), how a step takes its command (log 11), and the device right after a
power-on reset (R19, R466). -/
namespace Sys2Proof.Machine

/-! ## Commands complete, and keep the queue and the canonical form -/

/-- A command answers a next state, which holds the queue of `s` and is in canonical form if `s` is. -/
def Completes (s : State) (o : Host.Outcome State Fault Refusal) : Prop := ∃ t, o = .next t ∧ Keeps s t

section
variable {s t u : State} {c : Prop} [Decidable c]

theorem Completes.act (h : Keeps s t) : Completes s (.next t) := ⟨t, rfl, h⟩

/-- A command whose condition is not met leaves the state (log 12). -/
theorem Completes.actIf (h : Keeps s t) : Completes s (.next (if c then t else s)) := .act (.cond h (.refl s))

/-- A host access keeps what the register does (R14). -/
theorem Completes.access {p : Port} {off : Nat} {f : State → State} (hf : ∀ t, Keeps s t → Keeps s (f t)) :
    Completes s (.next (s.hostReg p off f)) := .act (State.hostReg_keeps p off f hf (.refl s))

theorem Completes.accessIf {p : Port} {off : Nat} {f : State → State} (hf : ∀ t, Keeps s t → Keeps s (f t)) :
    Completes s (.next (if c then s.hostReg p off f else s)) := .actIf (State.hostReg_keeps p off f hf (.refl s))

/-- A ring cell keeps what its two cases keep (R325). -/
theorem Completes.cell {p kind : Nat} {x : Cell} {sub : Option Nat} {good : State → State} {bad : State → CellFate → State}
    (hg : ∀ t, Keeps s t → Keeps s (good t)) (hb : ∀ t f, Keeps s t → Keeps s (bad t f)) :
    Completes s (.next (s.onCell p x kind sub good bad)) := .act (State.onCell_keeps p x kind sub good bad hg hb (.refl s))

/-! ### Commands of several cases -/

theorem execStretchTimeout_completes (w : Bool) (a : Byte) (bs : List Byte) : Completes s (execStretchTimeout w a bs s) := by
  have harr := State.arrived_keeps (.refl s)
  refine .act (.cond (.refl s) (.cond (.cond ?_ (State.writeFrame_keeps _ harr)) (.cond ?_ (State.readFrame_keeps _ (.refl s)))))
  · exact State.raiseBit_keeps _ _ (State.send_keeps _ (State.writeFrame_keeps _ harr))
  · exact State.raiseBit_keeps _ _ (State.send_keeps _ (State.mgmtFetch_keeps_2_2 _ harr))

theorem execQspiDone_completes (data : List Byte) : Completes s (execQspiDone data s) := by
  have hdone {b : Door} : Keeps s { s.setFlag Reg.mgtQspiCmd 30 false with host := b } :=
    (State.setFlag_keeps _ _ _ (.refl s)).rest ..
  refine .act ?_
  split
  · exact .refl s
  · exact .cond hdone (State.fillQspi_keeps _ hdone)

theorem execScrub_completes (mem word : Nat) : Completes s (execScrub mem word s) := by
  have hecc (a : Nat) : Keeps s (s.readEcc a).2.2 := State.readEcc_keeps_2_2 a (.refl s)
  refine .act (.cond (.refl s) (.cond ?_ (.cond (.cond (State.readNvm_keeps_2_2 _ _ (.refl s)) (.refl s))
    (.cond (hecc _) (.refl s)))))
  split
  · exact .cond (hecc _) (.refl s)
  · exact .refl s

theorem execStep_completes (p : Port) (th : Nat) (v : Word) : Completes s (execStep p th v s) := by
  have hctl := State.hostReg_keeps p (Reg.tlpThCtl th) (fun t => t.writeThCtl th (putBit v 1 true) 0xFFFFFFFF)
    (fun _ => State.writeThCtl_keeps _ _ _) (.refl s)
  exact .actIf (.cond (State.issueIf_keeps _ _ hctl) hctl)

theorem execSlotBoundary_completes (k : Nat) : Completes s (execSlotBoundary k s) :=
  .actIf (.cond (State.readPattern_keeps _ (.refl s))
    (State.slotStart_keeps _ (.cond (State.landPlan_keeps _ (.refl s)) (.refl s))))

theorem execSurveyDone_completes : Completes s (execSurveyDone s) := by
  refine .act ?_
  split
  · exact .cond (State.surveyDone_keeps _ (.refl s)) (.refl s)
  · exact .refl s

theorem execSnapDone_completes : Completes s (execSnapDone s) := by
  refine .act ?_
  split
  · exact .cond (State.snapDone_keeps _ (.refl s)) (.refl s)
  · exact .refl s

theorem execObsDone_completes (k : Nat) : Completes s (execObsDone k s) := by
  refine .act ?_
  split
  · exact .cond (.cond (State.obsFail_keeps _ _ (.refl s)) (State.obsDone_keeps _ _ (.refl s))) (.refl s)
  · exact .refl s

theorem execHopStart_completes (k : Nat) : Completes s (execHopStart k s) := by
  refine .act ?_
  split
  · exact .refl s
  · refine .cond (State.endHop_keeps _ (.fold (fun t i h => ?_) _ (.refl s))) (.refl s)
    have hfree := State.stopCal_keeps (16 + i) 6 true (State.setLos_keeps i 29 false h)
    exact .cond (State.putHop_keeps _ _ (State.beginHop_keeps _ _ _ _ hfree)) ((State.takePreset_keeps _ _ _ hfree).rest ..)

theorem execJournalLoad_completes (k : Nat) : Completes s (execJournalLoad k s) := by
  have htile {d : Prop} [Decidable d] : Keeps s (if d then s.loadTile k else s) :=
    .cond (State.loadTile_keeps _ (.refl s)) (.refl s)
  exact .act (.cond (State.loadCache_keeps htile) htile)

theorem execDiscoverTimeout_completes (r e w : Nat) : Completes s (execDiscoverTimeout r e w s) := by
  have hcommit (n : Nat) := State.commitRing_keeps r n (min e 1023) (min w 1023) true
    (State.sendOne_keeps (westPort r) 5 1 [0] (State.raiseBit_keeps Reg.argSticky 10 (.refl s)))
  exact .actIf (.cond (State.ringFailed_keeps _ (hcommit _)) (hcommit _))

theorem execNbCell_completes (p : Nat) (x : Cell) : Completes s (execNbCell p x s) := by
  refine .cell (fun t h => ?_) fun _ _ => id
  split
  · exact .cond (State.tryXdev_keeps (h.rest ..)) h
  · exact h

theorem execUnknownCell_completes (p : Nat) (x : Cell) : Completes s (execUnknownCell p x s) := by
  refine .actIf ?_
  split
  · exact .refl s
  · exact State.bump_keeps _ (State.recvCell_some (by assumption) (.refl s))

theorem execPsCell_completes (p : Nat) (x : Cell) : Completes s (execPsCell p x s) := by
  have hsum (t : State) (f : CellFate) (h : Keeps s t) :
      Keeps s (if t.role (ringOf p) = 2 then t.headSum p x f else if t.role (ringOf p) = 1 then t.memberSum p x f else t) :=
    .cond (State.headSum_keeps _ _ _ h) (.cond (State.memberSum_keeps _ _ _ h) h)
  exact .cell (fun t => hsum t .good) hsum

theorem execLaneLoss_completes (l k : Nat) : Completes s (execLaneLoss l k s) := by
  have hmarks := State.lolMarks_keeps l k (.refl s)
  exact .act (.cond (.refl s) (.cond (State.ringLaneLost_keeps _ _ (.refl s))
    (.cond (.cond (State.linkDown_keeps _ _ hmarks) hmarks) (.refl s))))

theorem execFomMeasure_completes (l eh ew errs : Nat) : Completes s (execFomMeasure l eh ew errs s) := by
  have hfom := State.count_keeps (Reg.slnLaneCodeErr l) 31 0 errs
    (State.setFld_keeps (Reg.slnLaneStatus l) 23 16 (fomOf (s.pam4 l) eh ew) (.refl s))
  exact .actIf (.cond (State.raiseBit_keeps _ _ (State.setFlag_keeps _ _ _ hfom)) hfom)

theorem execPatLock_completes (l : Nat) (lock : Bool) (errs n : Nat) : Completes s (execPatLock l lock errs n s) := by
  have hcount {d : Prop} [Decidable d] {a b : Word} : Keeps s (if d then ((s.count (Reg.slnLaneErr l) 31 0 errs).setReg
      (Reg.slnLaneBitsLo l) a).setReg (Reg.slnLaneBitsHi l) b else s) :=
    .cond (State.setReg_keeps _ _ (State.setReg_keeps _ _ (State.count_keeps _ _ _ _ (.refl s)))) (.refl s)
  have hlock {d : Prop} [Decidable d] {a b : Word} := State.setFlag_keeps (Reg.slnLaneStatus l) 27 lock (hcount (d := d)
    (a := a) (b := b))
  exact .actIf (.cond (State.raiseBit_keeps _ _ (State.setFlag_keeps _ _ _ hlock)) hlock)

theorem execChannelStart_completes (host : HostCpl) : Completes s (execChannelStart host s) := by
  refine .actIf ?_
  split
  · exact .refl s
  · exact State.takeChan_keeps _ _ (.refl s)

theorem execDescriptorDone_completes (src next : HostCpl) : Completes s (execDescriptorDone src next s) := by
  refine .act ?_
  split
  · exact .refl s
  · split
    · exact .cond (State.descDone_keeps _ _ _ _ (.refl s)) (.refl s)
    · exact .refl s

theorem execPllUnlock_completes (pll : Nat) : Completes s (execPllUnlock pll s) := by
  have hbit {d : Prop} [Decidable d] (i : Nat) : Keeps s (if d then s.raiseBit Reg.clkSticky i else s) :=
    .cond (State.raiseBit_keeps _ _ (.refl s)) (.refl s)
  exact .act (.cond (hbit 2) (.cond (hbit 3) (.cond (hbit 4) (.refl s))))

theorem execOtpSense_completes : Completes s (execOtpSense s) := by
  have hsense := Keeps.fold (fun _ w => State.senseWord_keeps w) (List.range 2048) (.refl s)
  exact .actIf (State.powerEval_keeps (.fold (fun _ _ => State.setVotes_keeps _ _) _ (hsense.rest ..)))

theorem execBootLoadDone_completes (data : List Byte) : Completes s (execBootLoadDone data s) := by
  have hplace := State.placeBytes_keeps 0 data (.refl s)
  exact .actIf (.cond (State.imageBad_keeps _ (.refl s)) (.cond (State.imageBad_keeps _ hplace)
    (.cond (State.imageBad_keeps _ hplace) (State.startVerify_keeps _ hplace))))

theorem execVerifyDone_completes (sig : Bool) : Completes s (execVerifyDone sig s) := by
  have hend := State.endJob_keeps (State.verifyReads_keeps sig (.refl s))
  exact .actIf (.cond (State.imageOk_keeps hend) (.cond (State.imageBad_keeps _ hend)
    (State.raiseBit_keeps _ _ (State.setFld_keeps _ _ _ _ hend))))

theorem execIdReady_completes (pk : List Word) : Completes s (execIdReady pk s) := by
  refine .actIf (.cond (State.raiseBit_keeps _ _ (.refl s)) (State.setFlag_keeps _ _ _ (Keeps.rest (.fold ?_ _ (.fold ?_ _
    (.refl s))) ..)))
  · exact fun _ _ => State.setReg_keeps _ _
  · exact fun _ _ => State.setReg_keeps _ _

theorem execOtpProgramDone_completes (good : Bool) : Completes s (execOtpProgramDone good s) := by
  refine .act ?_
  split
  · exact .refl s
  · rename_i w v _
    extract_lets sec s0 f u s1 s2
    have h0 : Keeps s s0 := (Keeps.refl s).rest ..
    have h1 : Keeps s s1 := by
      have hfree := State.blow_keeps w (v &&& s0.takeFree.1) (State.takeFree_keeps_2 h0)
      exact .cond (State.blow_keeps _ _ h0) (.cond (State.raiseBit_keeps _ _ hfree) hfree)
    have h2 : Keeps s s2 := State.reshadow_keeps w h1
    split
    · exact State.deviceReset_keeps _ h2
    · exact h2

theorem execMemoryWindowRead_completes (p : Port) (off n : Nat) : Completes s (execMemoryWindowRead p off n s) := by
  refine .act (.cond (.refl s) ?_)
  split <;> exact State.hostRead_keeps _ _ _ (.refl s)

end

/-- Every command answers a next state with the same queue, in canonical form if the state it met was. -/
theorem exec_completes (c : Instr) (s : State) : Completes s (exec c s) := by
  cases c with
  | registerWrite => exact .act (State.hostWrite_keeps _ _ _ _ (.refl s))
  | memoryWindowWrite => exact .act (State.hostWindow_keeps _ _ _ (.refl s))
  | lowWordRead | nvmDataRead | nvmStatusRead | rstDataRead | timeRead | certRead | highWordRead =>
    exact .act (State.hostRead_keeps _ _ _ (.refl s))
  | d3hotEntry | laneReady | resetRelease | paAlarmRelease | biasRailGood | d0Entry => exact .actIf ((Keeps.refl s).rest ..)
  | stickyWrite => exact .actIf (State.hostWrite_keeps _ _ _ _ (.refl s))
  | msixUnmask => exact .accessIf fun _ => State.writeMsixCtl_keeps _ _ _
  | mgmtWrite => exact .actIf (State.writeFrame_keeps _ (State.arrived_keeps (.refl s)))
  | mgmtRead | mgmtStatus => exact .actIf (State.readFrame_keeps _ (.refl s))
  | sclTimeout | currentLimit | inputOverload | aerFatalError => exact .actIf (State.raiseBit_keeps _ _ (.refl s))
  | stretchTimeout => exact execStretchTimeout_completes _ _ _
  | addressMatch => exact .actIf (State.addressMatch_keeps (.refl s))
  | nvmDataWrite => exact .access fun _ => State.writeNvmData_keeps _
  | nvmWriteDone => exact .act (State.nvmDone_keeps _ (.refl s))
  | qspiGo => exact .access fun _ => State.writeQspi_keeps _ _
  | qspiDone => exact execQspiDone_completes _
  | scrub => exact execScrub_completes _ _
  | nop | jmp | bCond | call | ret | loop | yield | halt | add | sub | and | or | xor | shl | shr | sra | cmp | movi
  | ld | st | ldc | stc | setl | setb | atI | atR | atN | every | waitt | pstate | beamsel | wswap | lohop | gainset
  | portsel | wreg | wregM | rreg | signal | waitev | waitevAny | vote | unvote | fence | cmpl | dmago | carm | cvfeed
  | cvfeedA | mac | msu | macs | macbx | cmac | macB | msuB | macsB | macbxB | cmacB | clracc | rnd | sat | norm | exp
  | shacc | stacc | bexp | ldX | stX => exact .act (State.issue_keeps _ _ (.refl s))
  | blockComplete => exact .actIf (State.endBlock_keeps _ (.refl s))
  | threadWake => exact .actIf (State.wakeThread_keeps _ (.refl s))
  | waittDue => exact .actIf (State.wakeTime_keeps _ (.refl s))
  | taqDispatch => exact .actIf (State.taqDispatch_keeps _ (.refl s))
  | taqCancelTag | taqCancelThread => exact .access fun _ => State.writeTaqCancel_keeps _
  | crTailWrite => exact .access fun _ => State.writeCrTail_keeps _ _
  | crConfigWrite => exact .access fun _ => State.writeCrConfig_keeps _ _ _
  | evSet => exact .access fun _ => State.writeEvSet_keeps _
  | evClear => exact .accessIf fun _ => State.writeEv_keeps _ _
  | wdtKick => exact .access fun _ => State.writeWdtKick_keeps _
  | wdtWrite => exact .accessIf fun _ => State.writeWdt_keeps _ _ _
  | watchdog => exact .actIf (State.watchdog_keeps _ (.refl s))
  | haltRequest => exact .access fun _ => State.writeTlpCtl_keeps _ _
  | run | threadReset => exact .accessIf fun _ => State.writeThCtl_keeps _ _ _
  | step => exact execStep_completes _ _ _
  | regfileWrite => exact .accessIf fun _ => State.writeRegfile_keeps _ _ _
  | airFrameBoundary =>
    exact .act (.cond (.cond (State.sendStatus_keeps (State.frameBoundary_keeps (.refl s))) (State.frameBoundary_keeps
      (.refl s))) (.cond (State.sendStatus_keeps (.refl s)) (.refl s)))
  | slotBoundary => exact execSlotBoundary_completes _
  | symbolBoundary => exact .actIf (State.symBoundary_keeps _ (.refl s))
  | align => exact .access fun _ => State.writeAirCtl_keeps _ _
  | alignmentStart => exact .actIf (State.alignStart_keeps _ (.refl s))
  | airCfgWrite => exact .accessIf fun _ => State.writeAirCfg_keeps _ _ _
  | pstateStart => exact .act (State.pruneRuns_keeps (State.startWait_keeps _ (.refl s)))
  | transitionDone => exact .act (State.powerEval_keeps (State.endRows_keeps _ (.refl s)))
  | drainSequenceStep => exact .act (State.drainStep_keeps _ (.refl s))
  | deferredTxStart => exact .act (State.startDeferred_keeps _ (.refl s))
  | lateUnlocked => exact .act (State.expireDeferred_keeps _ (.refl s))
  | paAlarm => exact .actIf (.cond (State.alarm_keeps _ _ ((Keeps.refl s).rest ..)) ((Keeps.refl s).rest ..))
  | dutyOverrun =>
    exact .actIf (.fold (fun _ _ h => .cond (State.setFlag_keeps _ _ _ h) h) _ (State.raiseBit_keeps _ _
      (State.setFlag_keeps _ _ _ (.refl s))))
  | commitPoint => exact .actIf (State.commitPoint_keeps _ (.refl s))
  | wdescWrite => exact .accessIf fun _ => State.writeWdesc_keeps _ _ _ _ _
  | arrayWrite => exact .access fun _ => State.writeArray_keeps _ _
  | psDeadline => exact .actIf (State.sumDeadline_keeps _ _ _ _ (.refl s))
  | pageWrite => exact .accessIf fun _ => State.writePage_keeps _ _ _
  | sicCommit => exact .accessIf fun _ => State.writeCommit_keeps _ _ _
  | surveyStart | surveyAbort => exact .access fun _ => State.writeSurvey_keeps _ _
  | surveyDone => exact execSurveyDone_completes
  | snapStart | snapAbort => exact .access fun _ => State.writeSnap_keeps _ _
  | snapDone => exact execSnapDone_completes
  | storeWrite => exact .accessIf fun _ => State.writeStore_keeps _ _
  | storeRead | resultRead => exact .actIf (State.hostRead_keeps _ _ _ (.refl s))
  | linCommit => exact .accessIf fun _ => State.writeLinCommit_keeps _ _
  | loadDone => exact .actIf (State.loadDone_keeps _ (.refl s))
  | obsStart | obsAbort => exact .accessIf fun _ => State.writeObs_keeps _ _ _
  | obsRecordStart =>
    exact .actIf (.cond (State.setObs_keeps _ _ (State.setReg_keeps _ _ (.refl s))) (State.obsFail_keeps _ _ (.refl s)))
  | obsDone => exact execObsDone_completes _
  | hop => exact .accessIf fun _ => State.writeHop_keeps _ _ _
  | hopStart => exact execHopStart_completes _
  | lock => exact .actIf (State.loBack_keeps _ ((State.setLos_keeps _ _ _ (State.setLos_keeps _ _ _ (.refl s))).rest ..))
  | lockLoss => exact .actIf (State.beginHop_keeps _ _ _ _ (State.raiseBit_keeps _ _ (State.setLos_keeps _ _ _ (.refl s))))
  | ccsUnlock => exact .actIf (State.ccsFell_keeps _ (.refl s))
  | ccsLock => exact .actIf (State.loBack_keeps _ (State.loBack_keeps _ (State.setFlag_keeps _ _ _ (.refl s))))
  | ifChange => exact .actIf (State.landIf_keeps _ (.refl s))
  | clStart => exact .access fun _ => State.writeClCtl_keeps _ _
  | clExchange => exact .actIf (State.setFlag_keeps _ _ _ ((Keeps.refl s).rest ..))
  | clDone => exact .actIf (State.clDone_keeps _ _ (.refl s))
  | calWindow => exact .access fun _ => State.writeWin_keeps _ _
  | windowEnd => exact .actIf (State.endWindow_keeps _ (.refl s))
  | calRequest => exact .access fun _ => State.writeReq_keeps _ _
  | calRunStart => exact .act (State.startRun_keeps _ _ (.refl s))
  | calRunEnd => exact .actIf (State.finishRun_keeps _ _ _ (.refl s))
  | bgPass => exact .actIf (State.bgPass_keeps _ _ _ _ _ (.refl s))
  | journalLoad => exact execJournalLoad_completes _
  | journalStore => exact .access fun _ => State.writeJctl_keeps _ _
  | storeDeferredStart => exact .actIf (State.startStore_keeps _ _ (.refl s))
  | storeDone => exact .actIf (State.powerEval_keeps (State.endStore_keeps _ _ _ (.refl s)))
  | xdevTimeout => exact .actIf (State.endXdev_keeps _ (.refl s))
  | codeWrite => exact .accessIf fun _ => State.writeCode_keeps _ _ _
  | deglitchEnd => exact .act ((Keeps.refl s).rest ..)
  | rangeChange => exact .accessIf fun _ => State.writeBdaCfg_keeps _ _ _
  | rangeChangeDone => exact .actIf (State.endRange_keeps _ (.refl s))
  | biasTableLoad => exact .actIf (State.loadBias_keeps _ (.refl s))
  | clampRelease | otRelease => exact .actIf (State.setFlag_keeps _ _ _ (.refl s))
  | release | biasStore => exact .access fun _ => State.writeBdaCtl_keeps _ _
  | otClamp => exact .actIf (State.interlock_keeps _ (State.raiseBit_keeps _ _ (State.setFlag_keeps _ _ _ (.refl s))))
  | sgUpdate => exact .actIf (State.sgUpdate_keeps _ (.refl s))
  | phRst => exact .accessIf fun _ => State.writeSgCtl_keeps _ _ _
  | capabilitySet => exact .actIf (State.takeSet_keeps _ _ (.refl s))
  | negotiateTimeout => exact .actIf (State.setArgPort_keeps _ _ (State.setReg_keeps _ _ (.refl s)))
  | trainDone => exact .actIf (State.trainDone_keeps _ _ (.refl s))
  | renegotiate => exact .actIf (State.startNeg_keeps _ (.refl s))
  | dlCell =>
    exact .cell (fun _ h => .cond (State.takeData_keeps _ _ _ _ _ _ _ _ _ _ (State.outward_keeps _ _ _ h))
      (State.outward_keeps _ _ _ h)) fun _ _ => State.outward_keeps _ _ _
  | cpCell =>
    exact .cell (fun _ h => .cond (State.takeSects_keeps _ _ _ _ _ _ _ _ (State.pruneSects_keeps
      (State.outward_keeps _ _ _ h))) (State.outward_keeps _ _ _ h)) fun _ _ => State.outward_keeps _ _ _
  | psCell => exact execPsCell_completes _ _
  | tsPeriod => exact .actIf (State.tsPeriod_keeps (.refl s))
  | sync => exact .cell (fun _ => State.takeSync_keeps _ _) fun _ _ => id
  | req => exact .cell (fun _ h => .cond (State.sendOne_keeps _ _ _ _ h) h) fun _ _ => id
  | resp => exact .cell (fun _ => State.takeResp_keeps _ _) fun _ _ => id
  | discovery => exact .actIf (State.discover_keeps _ (.refl s))
  | discover => exact .cell (fun _ => State.takeDiscover_keeps _ _) fun _ _ => State.forwardCell_keeps _ _ _
  | discoverTimeout => exact execDiscoverTimeout_completes _ _ _
  | commit =>
    exact .cell (fun _ h => State.passOn_keeps _ _ (State.takeCommit_keeps _ _ h)) fun _ _ => State.voidOn_keeps _ _
  | report =>
    exact .cell (fun _ h => .cond (State.takeReport_keeps _ _ _ h) (.cond (State.forwardCell_keeps _ _ _ h) h))
      fun _ _ => State.voidOn_keeps _ _
  | accept =>
    exact .cell (fun _ h => .cond (State.setRingState_keeps _ _ h) (.cond (State.forwardCell_keeps _ _ _ h) h))
      fun _ _ => State.voidOn_keeps _ _
  | status =>
    exact .cell (fun _ h => .cond (State.takeStatus_keeps _ _ _ h) (.cond (State.forwardCell_keeps _ _ _ h) h))
      fun _ _ => State.voidOn_keeps _ _
  | statusMissing => exact .actIf (State.discover_keeps _ (State.raiseBit_keeps _ _ (.refl s)))
  | lane =>
    exact .cell (fun _ h => State.passOn_keeps _ _ (State.noteLink_keeps _ _ _ _ _ h)) fun _ _ => State.voidOn_keeps _ _
  | shed => exact .cell (fun _ h => State.passOn_keeps _ _ (State.addPlan_keeps _ h)) fun _ _ => State.voidOn_keeps _ _
  | nbCell => exact execNbCell_completes _ _
  | imageCell =>
    exact .cell (fun _ h => .cond (State.takeChunk_keeps _ _ (State.outward_keeps _ _ _ h)) (State.outward_keeps _ _ _ h))
      fun _ _ => State.outward_keeps _ _ _
  | fo =>
    exact .cell (fun _ h => State.passOn_keeps _ _ (.cond (State.planFrom_keeps _ _ _ h) h)) fun _ _ => State.voidOn_keeps _ _
  | unknownCell => exact execUnknownCell_completes _ _
  | enter | leave | rediscover => exact .accessIf fun _ => State.writeRingCtl_keeps _ _ _
  | enterTimeout => exact .actIf (State.raiseBit_keeps _ _ (State.bypass_keeps _ (.refl s)))
  | retrain => exact .accessIf fun _ => State.writePortCtl_keeps _ _ _
  | argAccept => exact .access fun _ => State.writeAccept_keeps _
  | laneLoss => exact execLaneLoss_completes _ _
  | keepNotice => exact .actIf (State.narrow_keeps _ _ (.refl s))
  | realignDone =>
    exact .actIf (State.noteLink_keeps _ _ _ _ _ (State.castLane_keeps _ (State.raiseBit_keeps _ _ (State.portUp_keeps _ _ _
      (State.setArgPort_keeps _ _ (.refl s))))))
  | fomMeasure => exact execFomMeasure_completes _ _ _ _
  | testWrite | inj => exact .accessIf fun _ => State.writeLaneCtl_keeps _ _ _
  | injRate => exact .actIf (State.send_keeps _ (.refl s))
  | patLock => exact execPatLock_completes _ _ _ _
  | frame => exact .actIf (State.takeFrame_keeps _ _ _ (.refl s))
  | cPlane => exact .actIf (State.takeC_keeps _ _ (.refl s))
  | uPlane => exact .actIf (State.takeU_keeps _ _ (.refl s))
  | hostRxFrame => exact .actIf (State.hostRx_keeps _ _ _ _ (.refl s))
  | hostRxFree => exact .accessIf fun _ => State.freeRx_keeps _ _ _ _
  | hostTx => exact .accessIf fun _ => State.writeTx_keeps _ _ _ _
  | hostTxDone => exact .actIf (State.sendTx_keeps _ _ _ (.refl s))
  | ulSend => exact .actIf (State.sendUl_keeps _ _ _ _ _ _ (.refl s))
  | ulDrop => exact .actIf (State.ulDropped_keeps _ _ (.refl s))
  | linkDown => exact .actIf (State.linkDown_keeps _ _ (.refl s))
  | linkUp => exact .actIf (State.linkUpAt_keeps _ _ (.refl s))
  | ppsIn => exact .actIf (State.ppsIn_keeps _ _ (.refl s))
  | ppsMiss => exact .actIf (State.ppsMiss_keeps (.refl s))
  | rateSlew => exact .actIf (State.slewRate_keeps (.refl s))
  | rateReq => exact .access fun _ => State.writeRateReq_keeps _ _ _
  | tmuCtlWrite => exact .access fun _ => State.writeTmuCtl_keeps _ _
  | steerChange => exact .actIf (State.steerChange_keeps (.refl s))
  | stepArm => exact .access fun _ => State.writeStepArm_keeps _ _
  | timeStep => exact .actIf (State.timeStep_keeps (.refl s))
  | holdover => exact .actIf (State.holdover_keeps (.refl s))
  | pulseEnable => exact .accessIf fun _ => State.writePulseCtl_keeps _ _ _
  | pulseEdge => exact .actIf (State.pulseEdge_keeps _ (.refl s))
  | dmaGo | dmaAbort => exact .accessIf fun _ => State.writeChCtl_keeps _ _ _ _ _
  | append => exact .accessIf fun _ => State.writeAppend_keeps _
  | channelStart => exact execChannelStart_completes _
  | pace => exact .actIf (State.pace_keeps _ (.refl s))
  | descriptorDone => exact execDescriptorDone_completes _ _
  | nextReread => exact .actIf (State.reread_keeps _ _ _ (.refl s))
  | cvStart | cvCfgWrite | feed8 | feed16 | feed32 | feed64Lo | feed64Hi | valueWrite =>
    exact .act (State.cvHost_keeps _ _ _ _ (.refl s))
  | queueEntry => exact .actIf (State.cvStep_keeps _ (.refl s))
  | capArm | capDisarm | capForce => exact .access fun _ => State.writeCapCtl_keeps _ _
  | partWrite => exact .access fun _ => State.writeCapPart_keeps _ _
  | sequencerHit => exact .actIf (State.capHit_keeps (.refl s))
  | sequencerTimeout => exact .actIf (State.capTimeout_keeps (.refl s))
  | autoTrigger => exact .actIf (State.capAuto_keeps (.refl s))
  | captureClose => exact .actIf (State.capClose_keeps _ (.refl s))
  | rearmEnd => exact .act (State.capRearmEnd_keeps (.refl s))
  | tnsWrap => exact .actIf (State.capWrap_keeps (.refl s))
  | refclkValid => exact .act (.cond (.refl s) (State.refValid_keeps _ (.refl s)))
  | refLoss => exact .actIf (State.refLoss_keeps (.refl s))
  | pcieRefLoss => exact .act (State.pcieRefLoss_keeps (.refl s))
  | pllUnlock => exact execPllUnlock_completes _
  | xingErr => exact .actIf (State.raiseBit_keeps _ _ (State.count_keeps _ _ _ _ (State.setFld_keeps _ _ _ _ (.refl s))))
  | level =>
    exact .actIf (.fold (fun _ _ => State.pgLoss_keeps _) _ (State.raiseBit_keeps _ _ (State.setReg_keeps _ _ (.refl s))))
  | voteWrite => exact .accessIf fun _ => State.writeVote_keeps _ _ _ _
  | holdExpiry => exact .actIf (State.powerEval_keeps ((Keeps.refl s).rest ..))
  | powerStep => exact .actIf (State.bootHook_keeps (State.powerStep_keeps _ (.refl s)))
  | stepTimeout => exact .actIf (State.stepTimeout_keeps _ (.refl s))
  | wakeRetry => exact .actIf (State.wakeRetry_keeps _ (.refl s))
  | pgLoss => exact .actIf (State.pgLoss_keeps _ (.refl s))
  | pgRestore => exact .actIf (State.pgRestore_keeps _ (.refl s))
  | dvfsStep => exact .actIf (State.powerEval_keeps (State.dvStep_keeps (.refl s)))
  | dvfsManWrite => exact .access fun _ => State.writeDvfsMan_keeps _ _
  | stateRequest => exact .access fun _ => State.writeState_keeps _ _
  | entryComplete => exact .actIf (State.completeEntry_keeps (.refl s))
  | springComplete => exact .act (State.endSpring_keeps (.refl s))
  | rf2Measure => exact .actIf (State.idlePaths_keeps (State.setFld_keeps _ _ _ _ (.refl s)))
  | thermalPass => exact .actIf (State.thermalPass_keeps _ (.refl s))
  | powerOnReset | pinReset => exact .act (State.wholeReset_keeps _ (.refl s))
  | deviceReset => exact .access fun _ => State.writeResetCtl_keeps _ _ _
  | linkReset => exact .actIf (State.linkReset_keeps (.refl s))
  | otpSense => exact execOtpSense_completes
  | bootLoadDone => exact execBootLoadDone_completes _
  | verify | svnCommit | rbSend | attest => exact .access fun _ => State.writeSecCtl_keeps _ _
  | verifyDone => exact execVerifyDone_completes _
  | attestDone => exact .actIf (State.endJob_keeps (State.putBytes_keeps _ _ (State.putWords_keeps _ _ (.refl s))))
  | idReady => exact execIdReady_completes _
  | otpProgram => exact .access fun _ => State.writeOtpCtl_keeps _ _
  | otpProgramDone => exact execOtpProgramDone_completes _
  | biasRailLoss => exact .actIf (.fold (fun _ _ => State.interlock_keeps _) _ ((Keeps.refl s).rest ..))
  | msixEnable => exact .actIf (.fold (fun _ _ h => .cond (State.notify_keeps _ h) h) _ ((Keeps.refl s).rest ..))
  | pcieLinkUp => exact .actIf (State.setFlag_keeps _ _ _ (State.setReg_keeps _ _ (.refl s)))
  | memoryWindowRead => exact execMemoryWindowRead_completes _ _ _
  | tapInstruction => exact .act (.cond ((Keeps.refl s).rest ..) (.cond ((Keeps.refl s).rest ..) (.refl s)))
  | rosterCacheLoad => exact .actIf (State.loadCache_keeps (.refl s))

/-- Settles O58: what every command keeps holds the queue. -/
theorem commandsCompleteAndLeaveQueue : Obligations.CommandsCompleteAndLeaveQueue := by
  intro c s
  obtain ⟨t, ht, hkeep⟩ := exec_completes c s
  exact ⟨t, ht, hkeep.queue⟩

/-- Settles O59: a nanosecond without a command keeps the canonical form, and so does the command at the front of the queue, which
runs on a state that differs in the queue alone. -/
theorem canonicalFormKept : Obligations.CanonicalFormKept := by
  intro s t hs hstep
  unfold step at hstep
  split at hstep
  case h_1 =>
    obtain rfl : s.tick = t := by simpa using hstep
    exact (State.tick_keeps (.refl s)).form hs
  case h_2 c rest _ =>
    obtain ⟨u, hu, hkeep⟩ := exec_completes c { s with pending := rest }
    obtain rfl : u = t := by simpa [hu] using hstep
    exact hkeep.form hs

end Sys2Proof.Machine

/-! Instruction words (R84, R85): the word an instruction is written as. Decoding is the other way: a word that decodes is the one its
instruction spells, every bit of it, but for the base field of a device-register instruction without a base (R111). -/
namespace Sys2Proof.Machine

/-! ## Fields of a word -/

/-- The bits of a field that begins at bit `lo`. -/
def fieldAt (lo x : Nat) : Nat := x <<< lo

@[simp] theorem fieldAt_zero_left (x : Nat) : fieldAt 0 x = x := rfl

@[simp] theorem fieldAt_zero_right (lo : Nat) : fieldAt lo 0 = 0 := Nat.zero_shiftLeft lo

theorem fw_lt (w hi lo : Nat) : fw w hi lo < 2 ^ (hi + 1 - lo) := Nat.mod_lt _ (Nat.two_pow_pos _)

/-- A word below a field and above it. -/
theorem fw_split (w : Nat) {hi lo : Nat} (h : lo ≤ hi + 1) : w % 2 ^ (hi + 1) = fieldAt lo (fw w hi lo) + w % 2 ^ lo := by
  obtain ⟨k, hk⟩ := Nat.exists_eq_add_of_le h
  rw [fieldAt, Nat.shiftLeft_eq, fw, hk, Nat.add_sub_cancel_left, Nat.pow_add, Nat.mod_mul, Nat.mul_comm, Nat.add_comm]

theorem fw_bit (w i : Nat) : fw w i i = (bw w i).toNat := by
  rw [fw, Nat.add_sub_cancel_left, Nat.pow_one, bw, Nat.toNat_testBit]

/-- Two's complement of `w` bits spells a field and gives it back (R5). -/
theorem unsgn_sgn {w n : Nat} (h : n < 2 ^ w) : unsgn w (sgn w n) = n := by
  unfold unsgn sgn; dsimp only
  rw [Nat.mod_eq_of_lt h]
  split
  · exact_mod_cast Nat.mod_eq_of_lt h
  · rw [Int.sub_emod_right]; exact_mod_cast Nat.mod_eq_of_lt h

theorem okIf_eq_some {c : Bool} {o p : Op} : okIf c o = some p ↔ c = true ∧ o = p := by
  unfold okIf
  cases c <;> simp

/-! ## The word of an instruction -/

/-- A word of a major and a minor opcode (R84). -/
def iword (major minor body : Nat) : Nat := fieldAt 58 major + fieldAt 52 minor + body

/-- An operand that is an immediate in the low bits, or a g register at `lo` with bit `flag` set. -/
def Src.word (flag lo : Nat) : Src → Nat
  | .imm n => n
  | .reg g => fieldAt flag 1 + fieldAt lo g

/-- An optional register at `lo`, with bit `flag` set where it is there. -/
def optWord (flag lo : Nat) : Option Nat → Nat
  | none => 0
  | some r => fieldAt flag 1 + fieldAt lo r

/-- A memory operand but for the bit that makes it circular (R91). -/
def Ea.word (e : Ea) : Nat := fieldAt 44 e.i + fieldAt 42 e.mode + unsgn 16 e.imm

/-- The minor opcode of an integer operation (R90). -/
def Alu.minor : Alu → Nat
  | .add => 0 | .sub => 1 | .and => 2 | .or => 3 | .xor => 4 | .shl => 5 | .shr => 6 | .sra => 7 | .cmp => 8

/-- The minor opcode of a multiply-accumulate (R132, R134). -/
def Mul.minor : Mul → Nat
  | .mac => 0 | .msu => 1 | .macs => 2 | .macbx => 3 | .cmac => 4

/-- The word of an instruction, with 0 in a field that is not used (R85, R88-R118, R132-R142). -/
def Op.word : Op → Nat
  | .nop => iword 0 1 0
  | .jmp (.imm t) => iword 0 2 t
  | .jmp (.reg g) => iword 0 3 (fieldAt 48 g)
  | .bcond c b clr t => iword 0 4 (fieldAt 48 c + fieldAt 44 b + fieldAt 43 clr.toNat + t)
  | .call (.imm t) => iword 0 5 t
  | .call (.reg g) => iword 0 6 (fieldAt 48 g)
  | .ret => iword 0 7 0
  | .loop g t => iword 0 8 (fieldAt 48 g + t)
  | .yield => iword 0 9 0
  | .halt => iword 0 10 0
  | .alu k d s (.spec t) => iword 1 k.minor (fieldAt 47 d + fieldAt 42 s + fieldAt 37 t)
  | .alu k d s (.imm n) => iword 2 k.minor (fieldAt 47 d + fieldAt 42 s + n)
  | .movi d n => iword 2 9 (fieldAt 47 d + n)
  | .ld r e => iword (4 + e.circ.toNat) 0 (fieldAt 47 r + e.word)
  | .st r e => iword (4 + e.circ.toNat) 1 (fieldAt 47 r + e.word)
  | .setl i v => iword 5 2 (fieldAt 44 i + v.word 43 39)
  | .setb i v => iword 5 3 (fieldAt 44 i + v.word 43 39)
  | .atI t c due => iword 8 0 (fieldAt 48 t + fieldAt 32 c + due)
  | .atR t c s off => iword 8 1 (fieldAt 48 t + fieldAt 32 c + fieldAt 28 s + unsgn 28 off)
  | .atN t c off => iword 8 2 (fieldAt 48 t + fieldAt 32 c + unsgn 28 off)
  | .every t c s p q n => iword 8 4 (fieldAt 48 t + fieldAt 32 c + fieldAt 28 s + fieldAt 24 p + fieldAt 23 q.toNat + n)
  | .waitt none off => iword 8 8 off.toNat
  | .waitt (some s) off => iword 8 9 (fieldAt 28 s + unsgn 28 off)
  | .pstate q sc k (.imm m) => iword 12 0 (fieldAt 48 q + fieldAt 46 sc + fieldAt 43 k + m)
  | .pstate q _ k (.reg g) => iword 12 0 (fieldAt 48 q + fieldAt 46 3 + fieldAt 43 k + fieldAt 39 g)
  | .beamsel d c l i => iword 12 1 (fieldAt 51 d + fieldAt 50 c + fieldAt 45 l + i.word 44 40)
  | .wswap d c b => iword 12 2 (fieldAt 50 d + fieldAt 48 c + fieldAt 47 b)
  | .lohop k p => iword 12 3 (fieldAt 44 k + fieldAt 40 p)
  | .gainset d x a =>
    iword 12 4 (fieldAt 50 d + fieldAt 48 x.scope + fieldAt 45 x.k + fieldAt 32 x.sel + fieldAt 16 x.mask + a.word 44 40)
  | .portsel g p => iword 12 5 (fieldAt 44 g + fieldAt 43 p)
  | .wreg v none b imm => iword 13 0 (fieldAt 48 v + optWord 43 44 b + imm)
  | .wreg v (some m) b imm => iword 13 1 (fieldAt 48 v + optWord 43 44 b + fieldAt 36 m + imm)
  | .rreg d b imm => iword 13 2 (fieldAt 48 d + optWord 43 44 b + imm)
  | .signal l => iword 14 0 l
  | .waitev l c => iword 14 1 (fieldAt 51 c.toNat + l)
  | .waitevAny j m d c => iword 14 2 (fieldAt 51 c.toNat + fieldAt 48 j + fieldAt 44 m + fieldAt 40 d)
  | .vote d p => iword 14 3 (fieldAt 48 d + p)
  | .unvote d => iword 14 4 (fieldAt 48 d)
  | .fence => iword 14 5 0
  | .cmpl d (.imm t) => iword 14 6 (fieldAt 48 d + fieldAt 43 1 + t)
  | .cmpl d (.reg g) => iword 14 6 (fieldAt 48 d + fieldAt 44 g)
  | .dmago c d => iword 15 0 (optWord 51 47 d + c)
  | .carm o => iword 15 1 o
  | .cvfeed c w s => iword 15 2 (fieldAt 49 c + fieldAt 47 w + fieldAt 43 s)
  | .cvfeedA c i n => iword 15 3 (fieldAt 49 c + fieldAt 44 i + n)
  | .ldx x p e => iword 16 0 (fieldAt 48 x + fieldAt 47 p.toNat + e.word + fieldAt 41 e.circ.toNat)
  | .stx x p e => iword 16 1 (fieldAt 48 x + fieldAt 47 p.toNat + e.word + fieldAt 41 e.circ.toNat)
  | .mul k n s t cj sb bx => iword 17 k.minor
      (fieldAt 50 n + fieldAt 46 s + fieldAt 42 t + fieldAt 41 cj.toNat + fieldAt 40 sb.toNat + fieldAt 39 bx.toNat)
  | .mulB k n i j ca cb cj sb bx ev c => iword 18 k.minor
      (fieldAt 50 n + fieldAt 47 i + fieldAt 44 j + fieldAt 43 ca.toNat + fieldAt 42 cb.toNat + fieldAt 41 cj.toNat + fieldAt 40 sb.toNat
        + fieldAt 39 bx.toNat + fieldAt 38 ev.toNat + c.word 37 33)
  | .clracc m x => iword 19 0 (fieldAt 48 m + optWord 47 43 x)
  | .rnd n dg d rm e sh => iword 19 1
      (fieldAt 50 n + fieldAt 49 dg.toNat + fieldAt 45 d + fieldAt 43 rm + fieldAt 42 e.toNat + fieldAt 36 (unsgn 6 sh))
  | .sat n w => iword 19 2 (fieldAt 50 n + fieldAt 44 w)
  | .norm n d e => iword 19 3 (fieldAt 50 n + fieldAt 46 d + fieldAt 42 e)
  | .exp n x d => iword 19 4 (fieldAt 50 n + optWord 49 45 x + fieldAt 41 d)
  | .shacc n sh => iword 19 5 (fieldAt 50 n + fieldAt 43 (unsgn 7 sh))
  | .staccG n d => iword 19 6 (fieldAt 50 n + fieldAt 49 1 + fieldAt 45 d)
  | .staccM n e x => iword 19 6 (fieldAt 50 n + e.word + fieldAt 41 e.circ.toNat + fieldAt 40 x.toNat)
  | .bexp d i c cx ac n => iword 20 0
      (fieldAt 48 d + fieldAt 45 i + fieldAt 44 c.toNat + fieldAt 43 cx.toNat + fieldAt 42 ac.toNat + n.word 41 37)

end Sys2Proof.Machine

/-! Every decoder by major opcode answers an instruction that spells the word it was given (R84, R85). -/
namespace Sys2Proof.Machine

/-- A word of these opcodes that decodes to `o` is the one `o` spells. -/
def Spells (major minor w : Nat) (o : Op) : Prop := o.word = iword major minor (w % 2 ^ 52)

theorem Spells.of_body {major minor w b : Nat} {o : Op} (ho : o.word = iword major minor b) (hb : b = w % 2 ^ 52) :
    Spells major minor w o := by rw [Spells, ho, hb]

theorem only_iff {w : Nat} {l : List (Nat × Nat)} :
    only w l = true ↔ (l.map fun f => fieldAt f.2 (fw w f.1 f.2)).foldl (· + ·) 0 = w % 2 ^ 52 := by
  simp [only, fieldAt, Nat.shiftLeft_eq]

theorem decodeControl_spells {m w : Nat} {o : Op} (h : decodeControl m w = some o) : Spells 0 m w o := by
  unfold decodeControl at h
  split at h
  all_goals simp only [okIf_eq_some, reduceCtorEq, Bool.and_eq_true, only_iff, List.map, List.foldl, fw_bit] at h
  case h_4 =>
    obtain ⟨⟨hw, -⟩, rfl⟩ := h
    exact .of_body (by rw [Op.word]) (by simpa using hw)
  all_goals
    obtain ⟨hw, rfl⟩ := h
    exact .of_body (by rw [Op.word]) (by simpa using hw)

theorem aluOf_eq_some {m : Nat} {k : Alu} (h : aluOf m = some k) : m = k.minor := by
  unfold aluOf at h
  split at h <;> cases h <;> rfl

theorem decodeAluReg_spells {m w : Nat} {o : Op} (h : decodeAluReg m w = some o) : Spells 1 m w o := by
  unfold decodeAluReg at h
  split at h
  · rename_i k hk
    simp only [okIf_eq_some, Bool.and_eq_true, only_iff, List.map, List.foldl] at h
    obtain ⟨⟨hw, -⟩, rfl⟩ := h
    rw [aluOf_eq_some hk]
    exact .of_body (by rw [Op.word]) (by simpa using hw)
  · cases h

theorem decodeAluImm_spells {m w : Nat} {o : Op} (h : decodeAluImm m w = some o) : Spells 2 m w o := by
  unfold decodeAluImm at h
  split at h
  · rename_i hm
    simp only [okIf_eq_some, only_iff, List.map, List.foldl] at h
    obtain ⟨hw, rfl⟩ := h
    rw [hm]
    exact .of_body (by rw [Op.word]) (by simpa using hw)
  · split at h
    · rename_i k hk
      simp only [okIf_eq_some, Bool.and_eq_true, only_iff, List.map, List.foldl] at h
      obtain ⟨⟨⟨hw, -⟩, -⟩, rfl⟩ := h
      rw [aluOf_eq_some hk]
      exact .of_body (by rw [Op.word]) (by simpa using hw)
    · cases h

/-! ## Memory operands -/

/-- The memory operand of a word spells its fields (R91). -/
theorem eaOf_word (w : Nat) (c : Bool) :
    (eaOf w c).word = fieldAt 44 (fw w 46 44) + fieldAt 42 (fw w 43 42) + fw w 15 0 := by
  rw [Ea.word, eaOf, unsgn_sgn (fw_lt w 15 0)]

theorem decodeMem_spells {m w : Nat} {c : Bool} {o : Op} (h : decodeMem m w c = some o) : Spells (4 + c.toNat) m w o := by
  unfold decodeMem at h
  dsimp only at h
  split at h
  all_goals simp only [okIf_eq_some, reduceCtorEq, Bool.and_eq_true, only_iff, List.map, List.foldl] at h
  all_goals
    obtain ⟨⟨hw, -⟩, rfl⟩ := h
    exact .of_body (b := fieldAt 47 (fw w 51 47) + (eaOf w c).word) rfl (by rw [eaOf_word, ← hw]; simp [Nat.add_assoc])

/-! ## Operands that are an immediate or a register -/

/-- The operand whose flag says which it is, with the other form's field 0, spells its three fields. -/
theorem src_word {flag lo a b : Nat} {c : Bool} (h : (if c then b == 0 else a == 0) = true) :
    (if c then Src.reg a else Src.imm b).word flag lo = fieldAt flag c.toNat + fieldAt lo a + b := by
  cases c <;> simp_all [Src.word]

/-- The optional register whose flag says whether it is there, with its field 0 where it is not. -/
theorem optWord_ite {flag lo a : Nat} {c : Bool} (h : c = false → a = 0) :
    optWord flag lo (if c then some a else none) = fieldAt flag c.toNat + fieldAt lo a := by
  cases c <;> simp_all [optWord]

theorem decodeCirc_spells {m w : Nat} {o : Op} (h : decodeCirc m w = some o) : Spells 5 m w o := by
  unfold decodeCirc at h
  dsimp only at h
  split at h
  case h_3 => exact decodeMem_spells (c := true) h
  all_goals
    simp only [okIf_eq_some, Bool.and_eq_true, only_iff, List.map, List.foldl, fw_bit] at h
    obtain ⟨⟨hw, hsrc⟩, rfl⟩ := h
    exact .of_body (by rw [Op.word]) (by rw [setSrc, src_word hsrc, ← hw]; simp [Nat.add_assoc])

/-! ## Timed prefixes -/

theorem decodeTimed_spells {m w : Nat} {o : Op} (h : decodeTimed m w = some o) : Spells 8 m w o := by
  have hoff : unsgn 28 (sgn 28 (fw w 27 0)) = fw w 27 0 := unsgn_sgn (fw_lt w 27 0)
  unfold decodeTimed at h
  split at h
  all_goals simp only [okIf_eq_some, reduceCtorEq, true_and, only_iff, List.map, List.foldl, fw_bit] at h
  case h_1 =>
    subst h
    refine .of_body (by rw [Op.word]) ?_
    rw [fw_split w (hi := 51) (lo := 48) (by decide), fw_split w (hi := 47) (lo := 32) (by decide),
      fw_split w (hi := 31) (lo := 0) (by decide)]
    simp [Nat.add_assoc, Nat.mod_one]
  case h_2 =>
    subst h
    refine .of_body (by rw [Op.word]) ?_
    rw [hoff, fw_split w (hi := 51) (lo := 48) (by decide), fw_split w (hi := 47) (lo := 32) (by decide),
      fw_split w (hi := 31) (lo := 28) (by decide), fw_split w (hi := 27) (lo := 0) (by decide)]
    simp [Nat.add_assoc, Nat.mod_one]
  all_goals obtain ⟨hw, rfl⟩ := h
  case h_5 => exact .of_body (by rw [Op.word]) (by simpa using hw)
  case h_4 => exact .of_body (by rw [Op.word]) (by simpa using hw)
  all_goals exact .of_body (by rw [Op.word]) (by rw [hoff, ← hw]; simp)

end Sys2Proof.Machine

/-! The other decoders by major opcode spell their word too, a device-register instruction without a base all of it but the base
field (R85, R111). -/
namespace Sys2Proof.Machine

/-! ## Radio instructions -/

theorem decodePstate_spells {w : Nat} {o : Op} (h : decodePstate w = some o) : Spells 12 0 w o := by
  unfold decodePstate at h
  dsimp only at h
  split at h
  all_goals simp only [okIf_eq_some, Bool.and_eq_true, beq_iff_eq, only_iff, List.map, List.foldl] at h
  case h_1 hsc =>
    obtain ⟨⟨⟨⟨⟨-, hw⟩, hk⟩, hg⟩, -⟩, rfl⟩ := h
    exact .of_body (by rw [Op.word]) (by rw [← hw, hsc, hk, hg]; simp)
  case h_2 hsc =>
    obtain ⟨⟨⟨⟨⟨-, hw⟩, hk⟩, hg⟩, -⟩, rfl⟩ := h
    exact .of_body (by rw [Op.word]) (by rw [← hw, hsc, hk, hg]; simp)
  case h_3 hsc =>
    obtain ⟨⟨⟨-, hw⟩, hg⟩, rfl⟩ := h
    exact .of_body (by rw [Op.word]) (by rw [← hw, hsc, hg]; simp)
  case h_4 h0 h1 h2 =>
    obtain ⟨⟨⟨-, hw⟩, hm⟩, rfl⟩ := h
    have hlt : fw w 47 46 < 4 := fw_lt w 47 46
    have hsc : fw w 47 46 = 3 := by
      have h0 : fw w 47 46 ≠ 0 := h0
      have h1 : fw w 47 46 ≠ 1 := h1
      have h2 : fw w 47 46 ≠ 2 := h2
      clear hw
      omega
    exact .of_body (by rw [Op.word]) (by rw [← hw, hsc, hm]; simp)

/-- All the fields of a GAINSET; none is reserved (R109). -/
theorem gainset_fields (w : Nat) : w % 2 ^ 52 = fieldAt 50 (fw w 51 50) + fieldAt 48 (fw w 49 48) + fieldAt 45 (fw w 47 45)
    + fieldAt 44 (bw w 44).toNat + fieldAt 40 (fw w 43 40) + fieldAt 32 (fw w 39 32) + fieldAt 16 (fw w 31 16) + fw w 15 0 := by
  rw [fw_split w (hi := 51) (lo := 50) (by decide), fw_split w (hi := 49) (lo := 48) (by decide),
    fw_split w (hi := 47) (lo := 45) (by decide), fw_split w (hi := 44) (lo := 44) (by decide), fw_bit,
    fw_split w (hi := 43) (lo := 40) (by decide), fw_split w (hi := 39) (lo := 32) (by decide),
    fw_split w (hi := 31) (lo := 16) (by decide), fw_split w (hi := 15) (lo := 0) (by decide)]
  simp [Nat.add_assoc, Nat.mod_one]

theorem decodeGainset_spells {w : Nat} {o : Op} (h : decodeGainset w = some o) : Spells 12 4 w o := by
  unfold decodeGainset at h
  dsimp only at h
  simp only [okIf_eq_some, Bool.and_eq_true] at h
  obtain ⟨⟨-, hsrc⟩, rfl⟩ := h
  exact .of_body (by rw [Op.word]) (by rw [src_word hsrc, gainset_fields w]; dsimp only; omega)

theorem decodeRadio_spells {m w : Nat} {o : Op} (h : decodeRadio m w = some o) : Spells 12 m w o := by
  unfold decodeRadio at h
  dsimp only at h
  split at h
  case h_1 => exact decodePstate_spells h
  case h_5 => exact decodeGainset_spells h
  all_goals simp only [okIf_eq_some, reduceCtorEq, Bool.and_eq_true, only_iff, List.map, List.foldl, fw_bit] at h
  case h_2 =>
    obtain ⟨⟨hw, hsrc⟩, rfl⟩ := h
    exact .of_body (by rw [Op.word]) (by rw [src_word hsrc, ← hw]; simp [Nat.add_assoc])
  case h_3 =>
    obtain ⟨⟨⟨hw, -⟩, -⟩, rfl⟩ := h
    exact .of_body (by rw [Op.word]) (by simpa using hw)
  all_goals
    obtain ⟨⟨hw, -⟩, rfl⟩ := h
    exact .of_body (by rw [Op.word]) (by simpa using hw)

/-! ## Synchronisation, DMA, capture and check values -/

theorem decodeSync_spells {m w : Nat} {o : Op} (h : decodeSync m w = some o) : Spells 14 m w o := by
  unfold decodeSync at h
  dsimp only at h
  split at h
  all_goals simp only [okIf_eq_some, reduceCtorEq, Bool.and_eq_true, only_iff, List.map, List.foldl, fw_bit] at h
  case h_4 =>
    obtain ⟨⟨⟨hw, -⟩, -⟩, rfl⟩ := h
    exact .of_body (by rw [Op.word]) (by simpa using hw)
  case h_5 =>
    obtain ⟨⟨hw, -⟩, rfl⟩ := h
    exact .of_body (by rw [Op.word]) (by simpa using hw)
  case h_7 =>
    obtain ⟨⟨hw, htag⟩, rfl⟩ := h
    cases hb : bw w 43 <;> simp_all only [Bool.false_eq_true, if_true, if_false, beq_iff_eq]
    · exact .of_body (by rw [Op.word]) (by rw [← hw]; simp)
    · exact .of_body (by rw [Op.word]) (by rw [← hw]; simp)
  all_goals
    obtain ⟨hw, rfl⟩ := h
    exact .of_body (by rw [Op.word]) (by simpa using hw)

theorem decodeDma_spells {m w : Nat} {o : Op} (h : decodeDma m w = some o) : Spells 15 m w o := by
  unfold decodeDma at h
  split at h
  all_goals simp only [okIf_eq_some, reduceCtorEq, Bool.and_eq_true, only_iff, List.map, List.foldl, fw_bit] at h
  case h_1 =>
    obtain ⟨⟨hw, hd⟩, rfl⟩ := h
    have hz : bw w 51 = false → fw w 50 47 = 0 := by simpa [or_iff_not_imp_left] using hd
    exact .of_body (by rw [Op.word]) (by rw [optWord_ite hz]; simpa using hw)
  case h_4 =>
    obtain ⟨hw, rfl⟩ := h
    exact .of_body (by rw [Op.word]) (by simpa using hw)
  all_goals
    obtain ⟨⟨hw, -⟩, rfl⟩ := h
    exact .of_body (by rw [Op.word]) (by simpa using hw)

/-! ## Signal instructions -/

theorem decodeX_spells {m w : Nat} {o : Op} (h : decodeX m w = some o) : Spells 16 m w o := by
  unfold decodeX at h
  dsimp only at h
  split at h
  all_goals simp only [okIf_eq_some, reduceCtorEq, Bool.and_eq_true, only_iff, List.map, List.foldl, fw_bit] at h
  all_goals
    obtain ⟨⟨⟨hw, -⟩, -⟩, rfl⟩ := h
    refine .of_body (by rw [Op.word]) ?_
    rw [eaOf_word, ← hw, fieldAt_zero_left, eaOf]
    dsimp only
    omega

theorem decodeMul_spells {m w : Nat} {o : Op} (h : decodeMul m w = some o) : Spells 17 m w o := by
  unfold decodeMul at h
  dsimp only at h
  split at h
  all_goals simp only [okIf_eq_some, reduceCtorEq, Bool.and_eq_true, only_iff, List.map, List.foldl, fw_bit] at h
  case h_5 =>
    obtain ⟨⟨⟨⟨hw, -⟩, -⟩, -⟩, rfl⟩ := h
    exact .of_body (by rw [Op.word]; rfl) (by rw [← hw]; omega)
  all_goals
    obtain ⟨hw, rfl⟩ := h
    exact .of_body (by rw [Op.word]; rfl) (by rw [← hw]; simp only [Bool.toNat_false, fieldAt_zero_right]; omega)

/-- All the fields of a block multiply-accumulate, those of bits 41 to 39 for CMACB, and the gap below the count's register (R134). -/
theorem mulB_fields (w : Nat) : w % 2 ^ 52 = fieldAt 50 (fw w 51 50) + fieldAt 47 (fw w 49 47) + fieldAt 44 (fw w 46 44)
    + fieldAt 43 (bw w 43).toNat + fieldAt 42 (bw w 42).toNat + fieldAt 41 (bw w 41).toNat + fieldAt 40 (bw w 40).toNat
    + fieldAt 39 (bw w 39).toNat + fieldAt 38 (bw w 38).toNat + fieldAt 37 (bw w 37).toNat + fieldAt 33 (fw w 36 33)
    + fieldAt 16 (fw w 32 16) + fw w 15 0 := by
  rw [fw_split w (hi := 51) (lo := 50) (by decide), fw_split w (hi := 49) (lo := 47) (by decide),
    fw_split w (hi := 46) (lo := 44) (by decide), fw_split w (hi := 43) (lo := 43) (by decide),
    fw_split w (hi := 42) (lo := 42) (by decide), fw_split w (hi := 41) (lo := 41) (by decide),
    fw_split w (hi := 40) (lo := 40) (by decide), fw_split w (hi := 39) (lo := 39) (by decide),
    fw_split w (hi := 38) (lo := 38) (by decide), fw_split w (hi := 37) (lo := 37) (by decide),
    fw_split w (hi := 36) (lo := 33) (by decide), fw_split w (hi := 32) (lo := 16) (by decide),
    fw_split w (hi := 15) (lo := 0) (by decide)]
  simp [Nat.add_assoc, Nat.mod_one, fw_bit]

theorem decodeMulB_spells {m w : Nat} {o : Op} (h : decodeMulB m w = some o) : Spells 18 m w o := by
  have hall := mulB_fields w
  unfold decodeMulB at h
  dsimp only at h
  split at h
  all_goals simp only [okIf_eq_some, reduceCtorEq, Bool.and_eq_true, only_iff, List.map, List.foldl, fw_bit] at h
  case h_5 =>
    obtain ⟨⟨⟨hsrc, hw⟩, -⟩, rfl⟩ := h
    refine .of_body (by rw [Op.word]; rfl) ?_
    rw [src_word hsrc]
    clear hsrc
    rw [fieldAt_zero_left] at hw
    omega
  all_goals
    obtain ⟨⟨hsrc, hw⟩, rfl⟩ := h
    refine .of_body (by rw [Op.word]; rfl) ?_
    rw [src_word hsrc]
    clear hsrc
    rw [fieldAt_zero_left] at hw
    omega

theorem decodeStacc_spells {w : Nat} {o : Op} (h : decodeStacc w = some o) : Spells 19 6 w o := by
  unfold decodeStacc at h
  split at h <;> rename_i hb
  all_goals simp only [okIf_eq_some, Bool.and_eq_true, only_iff, List.map, List.foldl, fw_bit, hb] at h
  · obtain ⟨⟨hw, -⟩, rfl⟩ := h
    exact .of_body (by rw [Op.word]) (by simpa using hw)
  · obtain ⟨⟨hw, -⟩, rfl⟩ := h
    refine .of_body (by rw [Op.word]) ?_
    rw [eaOf_word, ← hw, fieldAt_zero_left, eaOf]
    dsimp only
    omega

theorem decodeAcc_spells {m w : Nat} {o : Op} (h : decodeAcc m w = some o) : Spells 19 m w o := by
  unfold decodeAcc at h
  dsimp only at h
  split at h
  case h_7 => exact decodeStacc_spells h
  all_goals simp only [okIf_eq_some, reduceCtorEq, Bool.and_eq_true, only_iff, List.map, List.foldl, fw_bit] at h
  case h_1 =>
    obtain ⟨⟨⟨hw, -⟩, hx⟩, rfl⟩ := h
    have hz : bw w 47 = false → fw w 46 43 = 0 := fun hb => by simpa [hb] using hx
    exact .of_body (by rw [Op.word]) (by rw [optWord_ite hz, ← hw]; omega)
  case h_2 =>
    obtain ⟨⟨hw, -⟩, rfl⟩ := h
    have hsh : unsgn 6 (sgn 6 (fw w 41 36)) = fw w 41 36 := unsgn_sgn (fw_lt w 41 36)
    exact .of_body (by rw [Op.word]) (by rw [hsh, ← hw]; omega)
  case h_3 =>
    obtain ⟨⟨hw, -⟩, rfl⟩ := h
    exact .of_body (by rw [Op.word]) (by simpa using hw)
  case h_5 =>
    obtain ⟨⟨hw, hx⟩, rfl⟩ := h
    have hz : bw w 49 = false → fw w 48 45 = 0 := fun hb => by simpa [hb] using hx
    exact .of_body (by rw [Op.word]) (by rw [optWord_ite hz, ← hw]; omega)
  case h_6 =>
    obtain ⟨hw, rfl⟩ := h
    have hsh : unsgn 7 (sgn 7 (fw w 49 43)) = fw w 49 43 := unsgn_sgn (fw_lt w 49 43)
    exact .of_body (by rw [Op.word]) (by rw [hsh, ← hw]; omega)
  all_goals
    obtain ⟨hw, rfl⟩ := h
    exact .of_body (by rw [Op.word]) (by simpa using hw)

theorem decodeBexp_spells {m w : Nat} {o : Op} (h : decodeBexp m w = some o) : Spells 20 m w o := by
  unfold decodeBexp at h
  dsimp only at h
  split at h
  · rename_i hm
    simp only [okIf_eq_some, Bool.and_eq_true, only_iff, List.map, List.foldl, fw_bit] at h
    obtain ⟨⟨hw, hsrc⟩, rfl⟩ := h
    rw [hm]
    refine .of_body (by rw [Op.word]) ?_
    rw [src_word hsrc, ← hw, fieldAt_zero_left]
    clear hsrc
    omega
  · cases h

/-! ## Device registers -/

/-- A word without its bits 47 to 44, the base field of a device-register instruction (R111). -/
def clearBase (w : Nat) : Nat := w - fieldAt 44 (fw w 47 44)

theorem optWord_base {w : Nat} : optWord 43 44 (if bw w 43 then some (fw w 47 44) else none)
    + (if bw w 43 then 0 else fieldAt 44 (fw w 47 44)) = fieldAt 43 (bw w 43).toNat + fieldAt 44 (fw w 47 44) := by
  cases bw w 43 <;> simp [optWord]

theorem decodeDevice_spells {m w : Nat} {o : Op} (h : decodeDevice m w = some o) :
    o.word + (if bw w 43 then 0 else fieldAt 44 (fw w 47 44)) = iword 13 m (w % 2 ^ 52) := by
  have hb := @optWord_base w
  unfold decodeDevice at h
  dsimp only at h
  split at h
  all_goals simp only [okIf_eq_some, reduceCtorEq, only_iff, List.map, List.foldl, fw_bit] at h
  all_goals
    obtain ⟨hw, rfl⟩ := h
    rw [Op.word, ← hw, iword, iword, fieldAt_zero_left]
    omega

end Sys2Proof.Machine

/-! An instruction determines its word (R84, R85). -/
namespace Sys2Proof.Machine

theorem iword_fields {w : Nat} (h : w < 2 ^ 64) : iword (fw w 63 58) (fw w 57 52) (w % 2 ^ 52) = w := by
  have h63 := fw_split w (hi := 63) (lo := 58) (by decide)
  have h57 := fw_split w (hi := 57) (lo := 52) (by decide)
  rw [Nat.mod_eq_of_lt h] at h63
  rw [iword]
  omega

theorem word_of_spells {w major : Nat} {o : Op} (hw : w < 2 ^ 64) (hm : fw w 63 58 = major)
    (h : Spells major (fw w 57 52) w o) : w = o.word := by
  rw [h, ← hm, iword_fields hw]

/-- A word that decodes is the one its instruction spells, or that word but for a base field that is not used (R84, R111). -/
theorem decodeOp_word {w : Nat} {o : Op} (hw : w < 2 ^ 64) (h : decodeOp w = some o) :
    w = o.word ∨ (fw w 63 58 = 0x0D ∧ bw w 43 = false ∧ o.word = clearBase w) := by
  unfold decodeOp at h
  dsimp only at h
  split at h
  case h_8 hm =>
    have hd := decodeDevice_spells h
    rw [← hm, iword_fields hw] at hd
    cases hb : bw w 43
    · rw [hb, if_neg Bool.false_ne_true] at hd
      exact .inr ⟨hm, rfl, Nat.eq_sub_of_add_eq hd⟩
    · rw [hb, if_pos rfl] at hd
      exact .inl hd.symm
  case h_16 => cases h
  all_goals rename_i hm
  case h_1 => exact .inl (word_of_spells hw hm (decodeControl_spells h))
  case h_2 => exact .inl (word_of_spells hw hm (decodeAluReg_spells h))
  case h_3 => exact .inl (word_of_spells hw hm (decodeAluImm_spells h))
  case h_4 => exact .inl (word_of_spells hw hm (decodeMem_spells (c := false) h))
  case h_5 => exact .inl (word_of_spells hw hm (decodeCirc_spells h))
  case h_6 => exact .inl (word_of_spells hw hm (decodeTimed_spells h))
  case h_7 => exact .inl (word_of_spells hw hm (decodeRadio_spells h))
  case h_9 => exact .inl (word_of_spells hw hm (decodeSync_spells h))
  case h_10 => exact .inl (word_of_spells hw hm (decodeDma_spells h))
  case h_11 => exact .inl (word_of_spells hw hm (decodeX_spells h))
  case h_12 => exact .inl (word_of_spells hw hm (decodeMul_spells h))
  case h_13 => exact .inl (word_of_spells hw hm (decodeMulB_spells h))
  case h_14 => exact .inl (word_of_spells hw hm (decodeAcc_spells h))
  case h_15 => exact .inl (word_of_spells hw hm (decodeBexp_spells h))

/-! ## The base field apart -/

/-- A word is its upper 16 bits, its base field and its lower 44 bits. -/
theorem clearBase_eq (w : Nat) : clearBase w = w / 2 ^ 48 * 2 ^ 48 + w % 2 ^ 44 := by
  have h47 := fw_split w (hi := 47) (lo := 44) (by decide)
  rw [clearBase]
  omega

theorem fw_clearBase_high (w : Nat) : fw (clearBase w) 63 48 = fw w 63 48 := by
  rw [clearBase_eq, fw, fw]
  omega

theorem fw_clearBase_low (w : Nat) : fw (clearBase w) 43 0 = fw w 43 0 := by
  rw [clearBase_eq, fw, fw]
  omega

/-- The major opcode and bit 43 stand outside the base field. -/
theorem major_congr {w v : Nat} (h : fw w 63 48 = fw v 63 48) : fw w 63 58 = fw v 63 58 := by
  rw [fw, fw] at *
  omega

theorem bit43_congr {w v : Nat} (h : fw w 43 0 = fw v 43 0) : bw w 43 = bw v 43 := by
  have ht : (bw w 43).toNat = (bw v 43).toNat := by
    rw [← fw_bit, ← fw_bit]
    rw [fw, fw] at *
    omega
  revert ht
  cases bw w 43 <;> cases bw v 43 <;> decide

/-- Words that agree outside the base field, one of them a device-register word without a base, both are one. -/
theorem unusedBase_of_agree {w v : Nat} (hm : fw w 63 58 = 0x0D) (hb : bw w 43 = false) (hh : fw w 63 48 = fw v 63 48)
    (hl : fw w 43 0 = fw v 43 0) :
    fw w 63 58 = 0x0D ∧ bw w 43 = false ∧ bw v 43 = false ∧ fw w 63 48 = fw v 63 48 ∧ fw w 43 0 = fw v 43 0 :=
  ⟨hm, hb, bit43_congr hl ▸ hb, hh, hl⟩

theorem decodeOp_injective {w v : Nat} {o : Op} (hw : w < 2 ^ 64) (hv : v < 2 ^ 64) (dw : decodeOp w = some o)
    (dv : decodeOp v = some o) :
    w = v ∨ (fw w 63 58 = 0x0D ∧ bw w 43 = false ∧ bw v 43 = false ∧ fw w 63 48 = fw v 63 48 ∧ fw w 43 0 = fw v 43 0) := by
  rcases decodeOp_word hw dw with ew | ⟨mw, bw', ew⟩ <;> rcases decodeOp_word hv dv with ev | ⟨mv, bv', ev⟩
  · exact .inl (ew.trans ev.symm)
  · have hh : fw w 63 48 = fw v 63 48 := by rw [ew, ev, fw_clearBase_high]
    have hl : fw w 43 0 = fw v 43 0 := by rw [ew, ev, fw_clearBase_low]
    exact .inr (unusedBase_of_agree ((major_congr hh).trans mv) ((bit43_congr hl).trans bv') hh hl)
  · have hh : fw w 63 48 = fw v 63 48 := by rw [ev, ew, fw_clearBase_high]
    have hl : fw w 43 0 = fw v 43 0 := by rw [ev, ew, fw_clearBase_low]
    exact .inr (unusedBase_of_agree mw bw' hh hl)
  · have hh : fw w 63 48 = fw v 63 48 := by rw [← fw_clearBase_high w, ← fw_clearBase_high v, ← ew, ← ev]
    have hl : fw w 43 0 = fw v 43 0 := by rw [← fw_clearBase_low w, ← fw_clearBase_low v, ← ew, ← ev]
    exact .inr (unusedBase_of_agree mw bw' hh hl)

/-- A word of an unassigned major opcode is no instruction (R85). -/
theorem decodeOp_unassigned {w : Nat}
    (h : fw w 63 58 ∉ [0x00, 0x01, 0x02, 0x04, 0x05, 0x08, 0x0C, 0x0D, 0x0E, 0x0F, 0x10, 0x11, 0x12, 0x13, 0x14]) :
    decodeOp w = none := by
  unfold decodeOp
  dsimp only
  split
  case h_16 => rfl
  all_goals
    rename_i hm
    rw [hm] at h
    exact absurd h (by decide)

/-- Settles O60: what a decoder answers spells the word it was given (`decodeOp_word`), so two words of one instruction agree
outside an unused base field. -/
theorem instructionDeterminesWord : Obligations.InstructionDeterminesWord := by
  unfold Obligations.InstructionDeterminesWord
  refine ⟨fun w v o hw hv dw dv => decodeOp_injective hw hv dw dv, fun w h => decodeOp_unassigned h, ?_⟩
  decide

end Sys2Proof.Machine

/-! Hardware events: what a sticky bit, a counter and the messages that follow change, and what they leave. -/
namespace Sys2Proof.Machine

/-! ## The state but for registers and messages -/

/-- A state with its registers and the messages it has sent struck out. -/
def State.apart (s : State) : State := { s with regs := [], out := [] }

/-- What is read of a state beside registers and messages. -/
theorem of_apart {β : Type} (P : State → β) (hP : ∀ t, P t.apart = P t) {s t : State} (h : t.apart = s.apart) : P t = P s := by
  rw [← hP t, h, hP s]

theorem notify_apart (s : State) (v : Nat) : (s.notify v).apart = s.apart := by
  unfold State.notify
  split
  · split <;> rfl
  · rfl

theorem settle_apart (s before : State) (off : Nat) (i : StickyInfo) (write : Bool) : (s.settle before off i write).apart = s.apart := by
  unfold State.settle
  refine List.foldlRecOn (motive := fun t : State => t.apart = s.apart) _ _ rfl fun t ht v _ => ?_
  split_ifs
  · exact (notify_apart t v).trans ht
  · exact ht
  · exact ht
  · exact ht

theorem raise_apart (s : State) (off : Nat) (m : Word) : (s.raise off m).apart = s.apart := by
  unfold State.raise
  split
  · rfl
  · split
    · exact settle_apart _ _ _ _ _
    · rfl

theorem raiseBit_apart (s : State) (off i : Nat) : (s.raiseBit off i).apart = s.apart := raise_apart ..

section
variable (s : State) (off i : Nat)

@[simp] theorem raiseBit_pending : (s.raiseBit off i).pending = s.pending := of_apart State.pending (fun _ => rfl) (raiseBit_apart ..)
@[simp] theorem raiseBit_mem : (s.raiseBit off i).mem = s.mem := of_apart State.mem (fun _ => rfl) (raiseBit_apart ..)
@[simp] theorem raiseBit_ecc : (s.raiseBit off i).ecc = s.ecc := of_apart State.ecc (fun _ => rfl) (raiseBit_apart ..)
@[simp] theorem raiseBit_nvm : (s.raiseBit off i).nvm = s.nvm := of_apart State.nvm (fun _ => rfl) (raiseBit_apart ..)
@[simp] theorem raiseBit_th : (s.raiseBit off i).th = s.th := of_apart State.th (fun _ => rfl) (raiseBit_apart ..)
@[simp] theorem raiseBit_taq : (s.raiseBit off i).taq = s.taq := of_apart State.taq (fun _ => rfl) (raiseBit_apart ..)
@[simp] theorem raiseBit_tags : (s.raiseBit off i).tags = s.tags := of_apart State.tags (fun _ => rfl) (raiseBit_apart ..)
@[simp] theorem raiseBit_time : (s.raiseBit off i).time = s.time := of_apart State.time (fun _ => rfl) (raiseBit_apart ..)
@[simp] theorem raiseBit_air : (s.raiseBit off i).air = s.air := of_apart State.air (fun _ => rfl) (raiseBit_apart ..)
@[simp] theorem raiseBit_pwr : (s.raiseBit off i).pwr = s.pwr := of_apart State.pwr (fun _ => rfl) (raiseBit_apart ..)
@[simp] theorem raiseBit_cap : (s.raiseBit off i).cap = s.cap := of_apart State.cap (fun _ => rfl) (raiseBit_apart ..)
@[simp] theorem raiseBit_host : (s.raiseBit off i).host = s.host := of_apart State.host (fun _ => rfl) (raiseBit_apart ..)
@[simp] theorem raiseBit_arg : (s.raiseBit off i).arg = s.arg := of_apart State.arg (fun _ => rfl) (raiseBit_apart ..)
@[simp] theorem raiseBit_fhp : (s.raiseBit off i).fhp = s.fhp := of_apart State.fhp (fun _ => rfl) (raiseBit_apart ..)
@[simp] theorem raiseBit_bda : (s.raiseBit off i).bda = s.bda := of_apart State.bda (fun _ => rfl) (raiseBit_apart ..)
@[simp] theorem raiseBit_bme : (s.raiseBit off i).bme = s.bme := of_apart State.bme (fun _ => rfl) (raiseBit_apart ..)
@[simp] theorem raiseBit_boot : (s.raiseBit off i).boot = s.boot := of_apart State.boot (fun _ => rfl) (raiseBit_apart ..)
@[simp] theorem raiseBit_thread (j : Nat) : (s.raiseBit off i).thread j = s.thread j := by rw [State.thread, State.thread, raiseBit_th]
@[simp] theorem raiseBit_byte (a : Nat) : (s.raiseBit off i).byte a = s.byte a := by rw [State.byte, State.byte, raiseBit_mem]

end

/-! ## Registers -/

/-- Every register of `s` but the two of the PBA. -/
def State.SamePba (s t : State) : Prop := ∀ j, j ≠ Reg.hstMsixPba 0 → j ≠ Reg.hstMsixPba 1 → t.reg j = s.reg j

theorem setPba_samePba (s : State) {v : Nat} (b : Bool) (hv : v < 64) : s.SamePba (s.setPba v b) := by
  intro j h0 h1
  have hne : j ≠ Reg.hstMsixPba (v / 32) := by
    unfold Reg.hstMsixPba at *
    omega
  exact reg_setFlag_ne _ _ _ _ _ hne

theorem notify_samePba (s : State) {v : Nat} (hv : v < 64) : s.SamePba (s.notify v) := by
  unfold State.notify
  split_ifs
  · exact setPba_samePba s true hv
  · exact fun _ _ _ => rfl
  · exact fun _ _ _ => rfl

theorem stickyAt_vec {off : Nat} {i : StickyInfo} (h : stickyAt off = some i) : i.vec < 64 := by
  revert h
  unfold stickyAt
  repeat' split
  all_goals
    intro h
    cases h
  all_goals
    dsimp only
    omega

theorem vectorsOf_lt {off v : Nat} {i : StickyInfo} (h : stickyAt off = some i) (hv : v ∈ vectorsOf off i) : v < 64 := by
  have hvec := stickyAt_vec h
  unfold vectorsOf at hv
  split at hv
  · simp only [List.mem_cons, List.mem_map, List.mem_range] at hv
    omega
  · simp only [List.mem_cons, List.not_mem_nil, or_false] at hv
    omega

theorem settle_samePba (s before : State) {off : Nat} {i : StickyInfo} (write : Bool) (h : stickyAt off = some i) :
    s.SamePba (s.settle before off i write) := by
  unfold State.settle
  refine List.foldlRecOn (motive := s.SamePba) _ _ (fun _ _ _ => rfl) fun t ht v hv => fun j h0 h1 => ?_
  have hlt := vectorsOf_lt h hv
  split_ifs
  · exact (notify_samePba t hlt j h0 h1).trans (ht j h0 h1)
  · exact ht j h0 h1
  · exact (setPba_samePba t false hlt j h0 h1).trans (ht j h0 h1)
  · exact ht j h0 h1

/-- A hardware event leaves every register but its sticky register and the two of the PBA. -/
theorem raise_reg_other (s : State) {off j : Nat} (m : Word) (h : j ≠ off) (h0 : j ≠ Reg.hstMsixPba 0) (h1 : j ≠ Reg.hstMsixPba 1) :
    (s.raise off m).reg j = s.reg j := by
  unfold State.raise
  split
  · rfl
  · split
    · rename_i i hi
      exact (settle_samePba _ s false hi j h0 h1).trans (reg_setReg_ne _ _ _ _ h)
    · exact reg_setReg_ne _ _ _ _ h

theorem raiseBit_reg_ne (s : State) {off j : Nat} (i : Nat) (h : j ≠ off) (h0 : j ≠ Reg.hstMsixPba 0) (h1 : j ≠ Reg.hstMsixPba 1) :
    (s.raiseBit off i).reg j = s.reg j := raise_reg_other s _ h h0 h1

theorem raise_reg_up {s : State} {off : Nat} (m : Word) (hup : s.regUp off = true) (h0 : off ≠ Reg.hstMsixPba 0)
    (h1 : off ≠ Reg.hstMsixPba 1) : (s.raise off m).reg off = s.reg off ||| m := by
  unfold State.raise
  rw [hup]
  split
  · contradiction
  · split
    · rename_i i hi
      exact (settle_samePba _ s false hi off h0 h1).trans (reg_setReg_same ..)
    · exact reg_setReg_same ..

/-- A sticky bit stands once it has been raised with its block up. -/
theorem flag_raiseBit {s : State} {off i : Nat} (hup : s.regUp off = true) (hi : i < 32) (h0 : off ≠ Reg.hstMsixPba 0)
    (h1 : off ≠ Reg.hstMsixPba 1) : (s.raiseBit off i).flag off i = true := by
  have hbit : (BitVec.ofNat 32 (2 ^ i)).getLsbD i = true := by
    rw [BitVec.getLsbD_ofNat, Nat.testBit_two_pow_self, Bool.and_true, decide_eq_true hi]
  rw [State.flag, State.raiseBit, raise_reg_up _ hup h0 h1, bit, BitVec.getLsbD_or, hbit, Bool.or_true]

/-! ## Blocks that are up -/

/-- A register of the timeline processor lies in COB. -/
theorem regUp_tlp (s : State) {off : Nat} (hlo : 0x100000 ≤ off) (hhi : off < 0x110000) : s.regUp off = s.up domCob := by
  have hblock : off / 0x10000 = 16 := by omega
  have hdom : domOfReg off = domCob := by
    have hreg : off < 0x120000 := by omega
    simp [domOfReg, hreg, hblock]
  unfold State.regUp
  rw [if_neg (by omega), hdom]

theorem up_congr {s t : State} {d : Dom} (h : t.reg (Reg.pwrDomStatus (d - 1)) = s.reg (Reg.pwrDomStatus (d - 1))) :
    t.up d = s.up d := by
  unfold State.up State.domState
  split
  · rfl
  · rw [State.fld, State.fld, h]

/-- The status of a domain is no register of the PBA. -/
theorem pwrDomStatus_ne_pba {d : Nat} (h : d < 12) (k : Nat) : Reg.pwrDomStatus d ≠ Reg.hstMsixPba k := by
  unfold Reg.pwrDomStatus Reg.hstMsixPba; omega

end Sys2Proof.Machine

/-! What an instruction does to registers alone: its frame, and the move of its thread past it. -/
namespace Sys2Proof.Machine

/-! ## Writes of registers -/

/-- From `s` to `u` registers of `offs` may have changed, and nothing else has. -/
def State.SetsRegs (s u : State) (offs : List Nat) : Prop :=
  (∀ off, off ∉ offs → u.reg off = s.reg off) ∧ { u with regs := s.regs } = s

theorem State.SetsRegs.refl (s : State) (offs : List Nat) : s.SetsRegs s offs := ⟨fun _ _ => rfl, rfl⟩

theorem State.SetsRegs.setReg {s u : State} {offs : List Nat} {o : Nat} (h : s.SetsRegs u offs) (v : Word) (ho : o ∈ offs) :
    s.SetsRegs (u.setReg o v) offs := by
  refine ⟨fun off hoff => ?_, h.2⟩
  have hne : off ≠ o := fun e => hoff (e ▸ ho)
  rw [reg_setReg_ne _ _ _ _ hne, h.1 off hoff]

theorem State.SetsRegs.setFld {s u : State} {offs : List Nat} {o : Nat} (h : s.SetsRegs u offs) (hi lo v : Nat) (ho : o ∈ offs) :
    s.SetsRegs (u.setFld o hi lo v) offs := h.setReg _ ho

theorem State.SetsRegs.setFlag {s u : State} {offs : List Nat} {o : Nat} (h : s.SetsRegs u offs) (i : Nat) (b : Bool)
    (ho : o ∈ offs) : s.SetsRegs (u.setFlag o i b) offs := h.setReg _ ho

theorem State.SetsRegs.setStat {s u : State} {offs : List Nat} {th : Nat} (h : s.SetsRegs u offs) (i : Nat) (b : Bool)
    (ho : Reg.tlpThStat th ∈ offs) : s.SetsRegs (u.setStat th i b) offs := h.setFlag i b ho

theorem State.SetsRegs.setSpec {s u : State} {offs : List Nat} {th d : Nat} (h : s.SetsRegs u offs) (v : Word)
    (ho : specReg th d ∈ offs) : s.SetsRegs (u.setSpec th d v) offs := by
  rw [setSpec_eq]; exact h.setReg _ ho

theorem State.SetsRegs.aluFlags {s u : State} {offs : List Nat} {th : Nat} (h : s.SetsRegs u offs) (o : AluOut)
    (ho : Reg.tlpThStat th ∈ offs) : s.SetsRegs (u.aluFlags th o) offs := by
  refine ⟨fun off hoff => ?_, (aluFlags_rest u th o s.regs).trans h.2⟩
  have hne : off ≠ Reg.tlpThStat th := fun e => hoff (e ▸ ho)
  rw [aluFlags_reg _ _ _ _ hne, h.1 off hoff]

theorem State.SetsRegs.ite {s u v : State} {offs : List Nat} {c : Prop} [Decidable c] (h : s.SetsRegs u offs)
    (h' : s.SetsRegs v offs) : s.SetsRegs (if c then u else v) offs := by
  split <;> assumption

theorem State.SetsRegs.same {s u : State} {offs : List Nat} {off : Nat} (h : s.SetsRegs u offs) (ho : off ∉ offs) :
    u.reg off = s.reg off := h.1 off ho

theorem State.SetsRegs.thread {s u : State} {offs : List Nat} (h : s.SetsRegs u offs) (i : Nat) : u.thread i = s.thread i := by
  have hth : u.th = s.th := by have := congrArg State.th h.2; exact this
  rw [State.thread, State.thread, hth]

theorem State.SetsRegs.pc {s u : State} {offs : List Nat} {th : Nat} (h : s.SetsRegs u offs) (ho : Reg.tlpThPc th ∉ offs) :
    u.pc th = s.pc th := by
  rw [State.pc, State.fld, h.same ho]; rfl

/-! ## The thread moves -/

/-- An instruction of thread `th` that has only set registers, the PC to `pc`. -/
theorem moves_of_setsRegs_pc {f u : State} {th pc : Nat} {offs : List Nat} (h : (f.begun th).SetsRegs u (Reg.tlpThPc th :: offs))
    (hpc : u.pc th = pc) : f.Moves u th pc offs := by
  have hrest : { u with regs := (f.begun th).regs } = f.begun th := h.2
  have hpipe : u.pipe = (f.begun th).pipe := by have := congrArg State.pipe hrest; exact this
  refine ⟨hpc, fun off h1 h2 => h.same (by simp [h1, h2]), fun i hi => ?_, ?_, hpipe, ?_⟩
  · rw [h.thread, begun_thread, if_neg hi]
  · rw [h.thread, begun_thread, if_pos rfl]
  · exact congrArg (fun x : State => { x with regs := f.regs, th := f.th, pipe := f.pipe }) hrest

theorem State.SetsRegs.mono {s u : State} {offs offs' : List Nat} (h : s.SetsRegs u offs) (hsub : offs ⊆ offs') :
    s.SetsRegs u offs' :=
  ⟨fun off hoff => h.1 off fun hm => hoff (hsub hm), h.2⟩

/-- An instruction of thread `th` that has only set registers, apart from the PC. -/
theorem moves_of_setsRegs {f u : State} {th : Nat} {offs : List Nat} (h : (f.begun th).SetsRegs u offs)
    (ho : Reg.tlpThPc th ∉ offs) : f.Moves u th (f.pc th) offs :=
  moves_of_setsRegs_pc (h.mono (List.subset_cons_self _ _)) (h.pc ho)

/-- A thread's progress written back as it is moves nothing. -/
theorem State.Moves.setThread_same {f t : State} {th pc : Nat} {offs : List Nat} (h : f.Moves t th pc offs) :
    f.Moves (t.setThread th (t.thread th)) th pc offs := by
  obtain ⟨hpc, hreg, hoth, hth, hpipe, hrest⟩ := h
  refine ⟨hpc, hreg, fun i hi => ?_, ?_, hpipe, hrest⟩
  · rw [thread_setThread, if_neg hi, hoth i hi]
  · rw [thread_setThread_same, hth]

theorem State.Moves.setPc {f u : State} {th pc p : Nat} {offs : List Nat} (h : f.Moves u th pc offs) (hp : p ≤ lastPc) :
    f.Moves (u.setPc th p) th p offs := by
  obtain ⟨-, hreg, hoth, hth, hpipe, hrest⟩ := h
  exact ⟨setPc_pc u th p hp, fun off h1 h2 => (setPc_reg u th p off h2).trans (hreg off h1 h2), hoth, hth, hpipe, hrest⟩

/-- A command whose instruction sets registers, apart from the PC, and goes on. -/
theorem runs_setsRegs {s f u : State} {th : Nat} {o : Op} {row : Instr} {offs : List Nat} (h : State.RunsOn s th o f)
    (hr : o.row th = row) (hp : (f.begun th).perform th (f.duOf th) o = (u, .next)) (hs : (f.begun th).SetsRegs u offs)
    (ho : Reg.tlpThPc th ∉ offs) :
    s.issue th row = u.setPc th (f.pc th + 1) ∧ f.Moves (u.setPc th (f.pc th + 1)) th (f.pc th + 1) offs :=
  ⟨runs_next h hr hp (hs.pc ho) (hs.thread th), (moves_of_setsRegs hs ho).setPc h.room⟩

theorem tlpThPc_ne_stat (th : Nat) : Reg.tlpThPc th ≠ Reg.tlpThStat th := by
  unfold Reg.tlpThPc Reg.tlpThStat; omega

end Sys2Proof.Machine

/-! Integer instructions (R90): results, flags and frame; CMP and the branch conditions (R89). -/
namespace Sys2Proof.Machine

/-! ## Signed overflow and order -/

theorem msb_eq_decide (x : Word) : x.msb = decide (2147483648 ≤ x.toNat) := BitVec.msb_eq_decide x

theorem toInt_eq_ite (x : Word) : x.toInt = if 2147483648 ≤ x.toNat then (x.toNat : Int) - 4294967296 else x.toNat := by
  rw [BitVec.toInt_eq_msb_cond, msb_eq_decide]
  split <;> simp_all

theorem add_overflow (x y : Word) :
    ((x.msb == y.msb) && ((x + y).msb != x.msb)) = decide ((x + y).toInt ≠ x.toInt + y.toInt) := by
  have hx := x.isLt
  have hy := y.isLt
  have hs : (x + y).toNat = (x.toNat + y.toNat) % 2 ^ 32 := BitVec.toNat_add x y
  simp only [toInt_eq_ite, msb_eq_decide]
  rw [Bool.eq_iff_iff]
  simp only [Bool.and_eq_true, beq_iff_eq, bne_iff_ne, ne_eq, decide_eq_true_eq, decide_eq_decide]
  split_ifs <;> omega

theorem sub_overflow (x y : Word) :
    ((x.msb != y.msb) && ((x - y).msb != x.msb)) = decide ((x - y).toInt ≠ x.toInt - y.toInt) := by
  have hx := x.isLt
  have hy := y.isLt
  have hs : (x - y).toNat = (2 ^ 32 - y.toNat + x.toNat) % 2 ^ 32 := BitVec.toNat_sub x y
  simp only [toInt_eq_ite, msb_eq_decide]
  rw [Bool.eq_iff_iff]
  simp only [Bool.and_eq_true, bne_iff_ne, ne_eq, decide_eq_true_eq, decide_eq_decide]
  split_ifs <;> omega

/-! ## Results and flags -/

theorem specReg_flag_ne {th d : Nat} (hd : d < 32) : Reg.tlpThPc th ∉ [specReg th d, Reg.tlpThStat th] := by
  simp [(specReg_pc th d hd).symm, tlpThPc_ne_stat]

/-- An instruction whose row performs operation `k`, other than CMP, computes what `k` gives. -/
theorem computes_of_eval {c : Nat → Instr} {k : Alu} {val : Word → Word → Word} {cy ov : Word → Word → Option Bool}
    (hk : k ≠ .cmp) (hrow : ∀ d a b th, (Op.alu k d a b).row th = c th) (hexec : ∀ th s, exec (c th) s = .next (s.issue th
      (c th)))
    (heval : ∀ x y, k.eval x y = ⟨val x y, cy x y, ov x y⟩) : Computes c k val cy ov := by
  intro s th d a b f h hd
  have hp : (f.begun th).perform th (f.duOf th) (.alu k d a b) =
      (((f.begun th).aluFlags th (k.eval (f.spec th a) (f.opnd th b))).setSpec th d (k.eval (f.spec th a)
        (f.opnd th b)).val, .next) := by
    show ((if k = .cmp then _ else _), Ctl.next) = _
    rw [if_neg hk]
    rfl
  rw [heval] at hp
  obtain ⟨hissue, hmoves⟩ := runs_setsRegs h (hrow d a b th) hp
    (((State.SetsRegs.refl _ [specReg th d, Reg.tlpThStat th]).aluFlags _ (by simp)).setSpec _ (by simp)) (specReg_flag_ne hd)
  have hstat : ∀ i, i < 32 → ((((f.begun th).aluFlags th ⟨val (f.spec th a) (f.opnd th b), cy (f.spec th a) (f.opnd th b),
      ov (f.spec th a) (f.opnd th b)⟩).setSpec th d (val (f.spec th a) (f.opnd th b))).setPc th (f.pc th + 1)).stat th i =
      ((f.begun th).aluFlags th ⟨val (f.spec th a) (f.opnd th b), cy (f.spec th a) (f.opnd th b),
        ov (f.spec th a) (f.opnd th b)⟩).stat th i := by
    intro i _
    rw [setPc_stat, setSpec_eq]
    exact flag_setReg_ne _ _ _ _ _ (specReg_stat th d hd).symm
  refine ⟨_, (hexec th s).trans (congrArg Host.Outcome.next hissue), hmoves, ?_, ?_, ?_, ?_, ?_, fun i hi hi' => ?_⟩
  · apply spec_of
    rw [setPc_reg _ _ _ _ (specReg_pc th d hd), setSpec_eq, reg_setReg_same]
  · rw [hstat _ (by decide), aluFlags_stat _ _ _ _ (by decide)]; rfl
  · rw [hstat _ (by decide), aluFlags_stat _ _ _ _ (by decide)]; rfl
  · rw [hstat _ (by decide), aluFlags_stat _ _ _ _ (by decide)]; rfl
  · rw [hstat _ (by decide), aluFlags_stat _ _ _ _ (by decide)]; rfl
  · rw [hstat _ hi', aluFlags_stat _ _ _ _ hi', if_neg (by omega), if_neg (by omega), if_neg (by omega), if_neg (by omega)]
    rfl

/-- Settles O1: each operation's results and flags are those of `Alu.eval`. -/
theorem integerResultsAndFlags : Obligations.IntegerResultsAndFlags := by
  unfold Obligations.IntegerResultsAndFlags
  refine ⟨?_, ?_, ?_, ?_, ?_, ?_, ?_, ?_⟩
  · exact computes_of_eval (by decide) (fun _ _ _ _ => rfl) (fun _ _ => rfl) fun x y => by rw [← add_overflow]; rfl
  · exact computes_of_eval (by decide) (fun _ _ _ _ => rfl) (fun _ _ => rfl) fun x y => by rw [← sub_overflow]; rfl
  all_goals exact computes_of_eval (by decide) (fun _ _ _ _ => rfl) (fun _ _ => rfl) fun _ _ => rfl

/-! ## Compare -/

/-- N equals V after a difference where the first operand is at least the second, both signed. -/
theorem subOut_signed (x y : Word) : ((x - y).msb == ((x.msb != y.msb) && ((x - y).msb != x.msb))) = decide
  (y.toInt ≤ x.toInt) := by
  have hx := x.isLt
  have hy := y.isLt
  have hs : (x - y).toNat = (2 ^ 32 - y.toNat + x.toNat) % 2 ^ 32 := BitVec.toNat_sub x y
  rw [sub_overflow, Bool.eq_iff_iff]
  simp only [toInt_eq_ite, msb_eq_decide, beq_iff_eq, ne_eq, decide_eq_true_eq, decide_eq_decide]
  split_ifs <;> omega

theorem sub_eq_zero_beq (x y : Word) : (x - y == 0) = decide (x = y) := by
  rw [Bool.eq_iff_iff, beq_iff_eq, decide_eq_true_eq]
  exact sub_eq_zero

/-- What a branch condition reads of STAT. -/
theorem cond_congr {s t : State} {th i : Nat} (c : Nat) (hc : c < 14) (h : ∀ k, k < 4 → t.stat th k = s.stat th k) :
    t.cond th c i = s.cond th c i := by
  unfold State.cond
  simp only [h stN (by decide), h stZ (by decide), h stC (by decide), h stV (by decide)]
  interval_cases c <;> rfl

/-- The branch conditions after the flags of a difference (R89, R90). -/
theorem cond_subOut (s : State) (th : Nat) (x y : Word) :
    let t := s.aluFlags th (subOut x y)
    t.cond th 0 0 = decide (x = y) ∧ t.cond th 1 0 = decide (x ≠ y) ∧
    t.cond th 2 0 = decide (y.toNat ≤ x.toNat) ∧ t.cond th 3 0 = decide (x.toNat < y.toNat) ∧
    t.cond th 8 0 = decide (y.toNat < x.toNat) ∧ t.cond th 9 0 = decide (x.toNat ≤ y.toNat) ∧
    t.cond th 10 0 = decide (y.toInt ≤ x.toInt) ∧ t.cond th 11 0 = decide (x.toInt < y.toInt) ∧
    t.cond th 12 0 = decide (y.toInt < x.toInt) ∧ t.cond th 13 0 = decide (x.toInt ≤ y.toInt) := by
  intro t
  have hz : t.stat th stZ = decide (x = y) := by rw [aluFlags_stat _ _ _ _ (by decide), ← sub_eq_zero_beq]; rfl
  have hc : t.stat th stC = decide (y.toNat ≤ x.toNat) := by rw [aluFlags_stat _ _ _ _ (by decide)]; rfl
  have hnv : (t.stat th stN == t.stat th stV) = decide (y.toInt ≤ x.toInt) := by
    rw [aluFlags_stat _ _ _ _ (by decide), aluFlags_stat _ _ _ _ (by decide), ← subOut_signed]; rfl
  have hnat : x = y ↔ x.toNat = y.toNat := BitVec.toNat_inj.symm
  have hint : x = y ↔ x.toInt = y.toInt := BitVec.toInt_inj.symm
  refine ⟨hz, ?_, hc, ?_, ?_, ?_, hnv, ?_, ?_, ?_⟩
  · show (!t.stat th stZ) = _
    rw [hz, decide_not]
  · show (!t.stat th stC) = _
    rw [hc, ← decide_not, decide_eq_decide]
    omega
  · show (t.stat th stC && !t.stat th stZ) = _
    rw [hz, hc, ← decide_not, ← Bool.decide_and, decide_eq_decide, hnat]
    omega
  · show (!t.stat th stC || t.stat th stZ) = _
    rw [hz, hc, ← decide_not, ← Bool.decide_or, decide_eq_decide, hnat]
    omega
  · show (!(t.stat th stN == t.stat th stV)) = _
    rw [hnv, ← decide_not, decide_eq_decide]
    omega
  · show (!t.stat th stZ && t.stat th stN == t.stat th stV) = _
    rw [hz, hnv, ← decide_not, ← Bool.decide_and, decide_eq_decide, hint]
    omega
  · show (t.stat th stZ || !(t.stat th stN == t.stat th stV)) = _
    rw [hz, hnv, ← decide_not, ← Bool.decide_or, decide_eq_decide, hint]
    omega

theorem cmp_completes {s f : State} {th d a : Nat} {b : Opnd} (h : State.RunsOn s th (.alu .cmp d a b) f) :
    ∃ t, exec (.cmp th) s = .next t ∧ f.Moves t th (f.pc th + 1) [Reg.tlpThStat th] ∧
      ∀ i, i < 32 → t.stat th i = ((f.begun th).aluFlags th (subOut (f.spec th a) (f.opnd th b))).stat th i := by
  obtain ⟨hissue, hmoves⟩ := runs_setsRegs (u := (f.begun th).aluFlags th (subOut (f.spec th a) (f.opnd th b)))
    (row := .cmp th) h rfl rfl
    ((State.SetsRegs.refl _ [Reg.tlpThStat th]).aluFlags _ (by simp)) (by simp [tlpThPc_ne_stat])
  exact ⟨_, congrArg Host.Outcome.next hissue, hmoves, fun i _ => setPc_stat _ _ _ _⟩

theorem movi_completes {s f : State} {th d imm : Nat} (h : State.RunsOn s th (.movi d imm) f) (hd : d < 32) :
    ∃ t, exec (.movi th) s = .next t ∧ f.Moves t th (f.pc th + 1) [specReg th d] ∧
      t.reg (specReg th d) = sv d (BitVec.ofNat 32 imm) := by
  obtain ⟨hissue, hmoves⟩ := runs_setsRegs (u := (f.begun th).setSpec th d (BitVec.ofNat 32 imm)) (row := .movi th) h rfl rfl
    ((State.SetsRegs.refl _ [specReg th d]).setSpec _ (by simp)) (by simp [(specReg_pc th d hd).symm])
  refine ⟨_, congrArg Host.Outcome.next hissue, hmoves, ?_⟩
  rw [setPc_reg _ _ _ _ (specReg_pc th d hd), setSpec_eq, reg_setReg_same]

theorem sext32_toNat_ofNat {imm : Nat} (h : imm < 2 ^ 32) : sext32 24 (BitVec.ofNat 32 imm).toNat = sext32 24 imm := by
  rw [BitVec.toNat_ofNat, Nat.mod_eq_of_lt h]

/-- Settles O2: the branch conditions read the flags of the difference (`cond_subOut`). -/
theorem compareOrdersOperands : Obligations.CompareOrdersOperands := by
  unfold Obligations.CompareOrdersOperands
  constructor
  · intro s th d a b f h
    obtain ⟨t, ht, hmoves, hstat⟩ := cmp_completes h
    have hcond : ∀ c, c < 14 → t.cond th c 0 = ((f.begun th).aluFlags th (subOut (f.spec th a) (f.opnd th b))).cond th c 0 :=
      fun c hc => cond_congr c hc fun k hk => hstat k (by omega)
    refine ⟨t, ht, hmoves, fun i hi hi' => ?_, ?_⟩
    · rw [hstat i hi', aluFlags_stat _ _ _ _ hi', if_neg (by omega), if_neg (by omega), if_neg (by omega), if_neg (by omega)]
      rfl
    · rw [hcond 0 (by decide), hcond 1 (by decide), hcond 2 (by decide), hcond 3 (by decide), hcond 8 (by decide),
        hcond 9 (by decide), hcond 10 (by decide), hcond 11 (by decide), hcond 12 (by decide), hcond 13 (by decide)]
      exact cond_subOut _ _ _ _
  · intro s th d imm f h hd himm
    obtain ⟨t, ht, hmoves, hreg⟩ := movi_completes h hd
    refine ⟨t, ht, hmoves, ?_⟩
    rw [spec_of _ _ _ _ hreg, sext32_toNat_ofNat himm]

end Sys2Proof.Machine

/-! Control instructions (R88, R89): where the PC goes. -/
namespace Sys2Proof.Machine

/-! ## Branches -/

/-- A command whose instruction branches. -/
theorem issue_goto {s f u : State} {th pc : Nat} {o : Op} {row : Instr} (h : State.Executes s th o f) (hr : o.row th = row)
    (hp : (f.begun th).perform th (f.duOf th) o = (u, .goto pc)) : s.issue th row = u.branch th pc := by
  rw [issue_executes h hr, hp]; rfl

/-- A command whose instruction faults. -/
theorem issue_fault {s f u : State} {th c : Nat} {o : Op} {row : Instr} (h : State.Executes s th o f) (hr : o.row th = row)
    (hp : (f.begun th).perform th (f.duOf th) o = (u, .fault c)) : s.issue th row = u.faultThread th c := by
  rw [issue_executes h hr, hp]; rfl

theorem boundary_free {t : State} {th : Nat} (h1 : (t.thread th).stepping = false) (h2 : (t.thread th).haltReq = false) :
    t.boundary th = t := by
  simp [State.boundary, h1, h2]

theorem branch_untraced {t : State} {th : Nat} (pc : Nat) (h : (t.flag Reg.tlpTrace 31 && t.flag Reg.tlpTrace th) = false)
    (h1 : (t.thread th).stepping = false) (h2 : (t.thread th).haltReq = false) : t.branch th pc = t.setPc th pc := by
  rw [State.branch, State.traceTh, h, if_neg Bool.false_ne_true]
  exact boundary_free h1 h2

theorem branch_traced {t : State} {th : Nat} (pc : Nat) (h : t.flag Reg.tlpTrace 31 = true) (h' : t.flag Reg.tlpTrace th = true) :
    t.branch th pc = ((t.trace (0x200 + th) (2 ^ 60 + th * 2 ^ 56 + t.pc th * 2 ^ 17 + pc)).setPc th pc).boundary th := by
  rw [State.branch, State.traceTh, h, h']; rfl

/-- A target up to the last index is taken (R88). -/
theorem jumpTarget_of_le {s : State} {th : Nat} {g : Src} (h : s.src th g ≤ lastPc) : s.jumpTarget th g = some (s.src th g) :=
  if_pos (by unfold lastPc at h; omega)

theorem jumpTarget_of_ge {s : State} {th : Nat} {g : Src} (h : 2 ^ 17 ≤ s.src th g) : s.jumpTarget th g = none :=
  if_neg (by omega)

theorem doJmp_taken {s : State} {th : Nat} {g : Src} (h : s.src th g ≤ lastPc) : s.doJmp th g = (s, .goto (s.src th g)) := by
  rw [State.doJmp, jumpTarget_of_le h]

theorem doJmp_fault {s : State} {th : Nat} {g : Src} (h : 2 ^ 17 ≤ s.src th g) : s.doJmp th g = (s, .fault faultAddr) := by
  rw [State.doJmp, jumpTarget_of_ge h]

/-! ## Calls and returns -/

theorem doCall_room {s : State} {th d : Nat} {g : Src} (h : s.src th g ≤ lastPc) (hp : s.pc th ≠ lastPc)
    (hd : s.fld (Reg.tlpThRsDepth th) 4 0 = d) (hd' : d < 16) : s.doCall th g =
      ((s.setReg (Reg.tlpThRs th d) (BitVec.ofNat 32 (s.pc th + 1))).setFld (Reg.tlpThRsDepth th) 4 0 (d + 1), .goto
        (s.src th g)) := by
  simp only [State.doCall, jumpTarget_of_le h, hd, if_neg hp, if_neg (Nat.not_le.mpr hd')]

theorem doCall_full {s : State} {th : Nat} {g : Src} (h : s.src th g ≤ lastPc) (hp : s.pc th ≠ lastPc)
    (hd : 16 ≤ s.fld (Reg.tlpThRsDepth th) 4 0) : s.doCall th g = (s, .fault faultStack) := by
  simp only [State.doCall, jumpTarget_of_le h, if_neg hp, if_pos hd]

theorem doRet_nonempty {s : State} {th d : Nat} (hd : s.fld (Reg.tlpThRsDepth th) 4 0 = d + 1) :
    s.doRet th = (s.setFld (Reg.tlpThRsDepth th) 4 0 d, .goto (s.fld (Reg.tlpThRs th d) 16 0)) := by
  rw [State.doRet, hd]; rfl

theorem doRet_empty {s : State} {th : Nat} (hd : s.fld (Reg.tlpThRsDepth th) 4 0 = 0) : s.doRet th = (s, .fault faultStack) := by
  rw [State.doRet, hd]; rfl

theorem tlpThRs_ne_depth {th d : Nat} (h : d < 16) : Reg.tlpThRs th d ≠ Reg.tlpThRsDepth th := by
  unfold Reg.tlpThRs Reg.tlpThRsDepth; omega

theorem tlpThPc_notMem_stack {th d : Nat} (h : d < 16) : Reg.tlpThPc th ∉ [Reg.tlpThRs th d, Reg.tlpThRsDepth th] := by
  simp only [List.mem_cons, List.not_mem_nil, or_false, not_or]
  unfold Reg.tlpThRs Reg.tlpThRsDepth Reg.tlpThPc
  constructor <;> omega

theorem tlpThPc_ne_depth (th : Nat) : Reg.tlpThPc th ≠ Reg.tlpThRsDepth th := by
  unfold Reg.tlpThRsDepth Reg.tlpThPc; omega

theorem depth_lt {s : State} {th d : Nat} (h : s.fld (Reg.tlpThRsDepth th) 4 0 = d) : d < 32 := h ▸ bits_lt _ 4 0

theorem call_completes {s f : State} {th d : Nat} {g : Src} (h : State.RunsOn s th (.call g) f) (hg : f.src th g ≤ lastPc)
    (hd : f.fld (Reg.tlpThRsDepth th) 4 0 = d) (hd' : d < 16) :
    ∃ u : State, exec (.call th) s = .next (u.branch th (f.src th g)) ∧
      f.Moves u th (f.pc th) [Reg.tlpThRs th d, Reg.tlpThRsDepth th] ∧
      u.reg (Reg.tlpThRs th d) = BitVec.ofNat 32 (f.pc th + 1) ∧ u.fld (Reg.tlpThRsDepth th) 4 0 = d + 1 := by
  have hp : f.pc th ≠ lastPc := Nat.ne_of_lt h.room
  refine ⟨((f.begun th).setReg (Reg.tlpThRs th d) (BitVec.ofNat 32 (f.pc th + 1))).setFld (Reg.tlpThRsDepth th) 4 0 (d + 1),
    congrArg Host.Outcome.next (issue_goto h.toExecutes rfl (doCall_room (s := f.begun th) hg hp hd hd')), ?_, ?_, ?_⟩
  · exact moves_of_setsRegs (((State.SetsRegs.refl _ _).setReg _ (by simp)).setFld _ _ _ (by simp)) (tlpThPc_notMem_stack hd')
  · rw [reg_setFld_ne _ _ _ _ _ _ (tlpThRs_ne_depth hd'), reg_setReg_same]
  · rw [fld_setFld _ _ _ _ _ (by decide)]
    omega

theorem ret_completes {s f : State} {th d : Nat} (h : State.Executes s th .ret f) (hd : f.fld (Reg.tlpThRsDepth th) 4 0 = d + 1) :
    ∃ u : State, exec (.ret th) s = .next (u.branch th (f.fld (Reg.tlpThRs th d) 16 0)) ∧
      f.Moves u th (f.pc th) [Reg.tlpThRsDepth th] ∧ u.fld (Reg.tlpThRsDepth th) 4 0 = d := by
  refine ⟨(f.begun th).setFld (Reg.tlpThRsDepth th) 4 0 d,
    congrArg Host.Outcome.next (issue_goto h rfl (doRet_nonempty (s := f.begun th) hd)), ?_, ?_⟩
  · exact moves_of_setsRegs ((State.SetsRegs.refl _ _).setFld _ _ _ (by simp)) (by simp [tlpThPc_ne_depth])
  · rw [fld_setFld _ _ _ _ _ (by decide)]
    have := depth_lt hd
    omega

/-! ## Loops and conditions -/

theorem tlpThG_pc {th g : Nat} (h : g < 16) : Reg.tlpThPc th ≠ Reg.tlpThG th g := by
  unfold Reg.tlpThG Reg.tlpThPc; omega

theorem loop_completes {s f : State} {th g k : Nat} (h : State.RunsOn s th (.loop g k) f) (hg : g < 16) :
    ∃ u : State, f.Moves u th (f.pc th) [Reg.tlpThG th g] ∧ u.g th g = (if f.g th g = 0 then 0 else f.g th g - 1) ∧
      exec (.loop th) s = .next (if u.g th g = 0 then u.setPc th (f.pc th + 1) else u.branch th k) := by
  have hpc : Reg.tlpThPc th ∉ [Reg.tlpThG th g] := by simp [tlpThG_pc hg]
  by_cases hz : f.g th g = 0
  · have hs := State.SetsRegs.refl (f.begun th) [Reg.tlpThG th g]
    have hp : (f.begun th).perform th (f.duOf th) (.loop g k) = (f.begun th, .next) := if_pos hz
    refine ⟨f.begun th, moves_of_setsRegs hs hpc, ?_, ?_⟩
    · rw [if_pos hz]; exact hz
    · rw [show (f.begun th).g th g = 0 from hz, if_pos rfl]
      exact congrArg Host.Outcome.next (runs_setsRegs h rfl hp hs hpc).1
  · have hs := (State.SetsRegs.refl (f.begun th) [Reg.tlpThG th g]).setReg (f.g th g - 1) (List.mem_singleton_self _)
    have hp : (f.begun th).perform th (f.duOf th) (.loop g k) = ((f.begun th).setG th g (f.g th g - 1),
        if ((f.begun th).setG th g (f.g th g - 1)).g th g = 0 then .next else .goto k) := if_neg hz
    refine ⟨(f.begun th).setG th g (f.g th g - 1), moves_of_setsRegs hs hpc, ?_, ?_⟩
    · rw [if_neg hz]; exact reg_setReg_same _ _ _
    · by_cases hl : ((f.begun th).setG th g (f.g th g - 1)).g th g = 0
      · rw [if_pos hl] at hp ⊢
        exact congrArg Host.Outcome.next (runs_setsRegs h rfl hp hs hpc).1
      · rw [if_neg hl] at hp ⊢
        exact congrArg Host.Outcome.next (issue_goto h.toExecutes rfl hp)

theorem bCond_completes {s f : State} {th c i g : Nat} {clr : Bool} (h : State.RunsOn s th (.bcond c i clr g) f) :
    let u := if c = 15 ∧ clr then (f.begun th).setStat th i false else f.begun th
    exec (.bCond th) s = .next (if f.cond th c i then u.branch th g else u.setPc th (f.pc th + 1)) := by
  intro u
  have hs : (f.begun th).SetsRegs u [Reg.tlpThStat th] :=
    .ite ((State.SetsRegs.refl _ _).setStat i false (by simp)) (.refl _ _)
  have hp : (f.begun th).perform th (f.duOf th) (.bcond c i clr g) = (u, if f.cond th c i then .goto g else .next) := rfl
  by_cases hc : f.cond th c i = true
  · rw [if_pos hc] at hp ⊢
    exact congrArg Host.Outcome.next (issue_goto h.toExecutes rfl hp)
  · rw [if_neg hc] at hp ⊢
    exact congrArg Host.Outcome.next (runs_setsRegs h rfl hp hs (by simp [tlpThPc_ne_stat])).1

/-! ## Halt -/

theorem tlpThState_ne_ctl (th : Nat) : Reg.tlpThState th ≠ Reg.tlpThCtl th := by
  unfold Reg.tlpThState Reg.tlpThCtl; omega

/-- The state HALT leaves, but for a step or a halt request that ends (R88). -/
def State.halted (s : State) (th : Nat) : State := ((s.setPc th (s.pc th + 1)).setThState th stHalted).setRun th false

theorem halted_thState (s : State) (th : Nat) : (s.halted th).thState th = stHalted := by
  rw [State.halted, State.setRun, State.thState, fld_setFlag_ne _ _ _ _ _ _ _ (tlpThState_ne_ctl th), State.setThState,
    fld_setFld _ _ _ _ _ (by decide)]
  rfl

theorem halted_running (s : State) (th : Nat) : (s.halted th).flag (Reg.tlpThCtl th) 0 = false := flag_setFlag _ _ _ _ (by decide)

theorem free_thread {t : Thread} (h1 : t.stepping = false) (h2 : t.haltReq = false) :
    { t with stepping := false, haltReq := false } = t := by
  cases t
  simp_all

theorem doHalt_free {s : State} {th : Nat} (hroom : s.pc th < lastPc) (h1 : (s.thread th).stepping = false)
    (h2 : (s.thread th).haltReq = false) : s.doHalt th = ((s.halted th).setThread th ((s.halted th).thread th), .acted) := by
  have hmin : min lastPc (s.pc th + 1) = s.pc th + 1 := Nat.min_eq_right hroom
  rw [State.doHalt, hmin, free_thread h1 h2]
  rfl

theorem halt_completes {s f : State} {th : Nat} (h : State.RunsOn s th .halt f) :
    ∃ t, exec (.halt th) s = .next t ∧ t.thState th = stHalted ∧ t.flag (Reg.tlpThCtl th) 0 = false ∧
      f.Moves t th (f.pc th + 1) [Reg.tlpThState th, Reg.tlpThCtl th] := by
  let u := (f.begun th).halted th
  have hs : (f.begun th).SetsRegs u (Reg.tlpThPc th :: [Reg.tlpThState th, Reg.tlpThCtl th]) :=
    (((State.SetsRegs.refl _ _).setFld _ _ _ (by simp)).setFld _ _ _ (by simp)).setFlag _ _ (by simp)
  have hpc : u.pc th = f.pc th + 1 := by
    have h1 : Reg.tlpThPc th ≠ Reg.tlpThCtl th := by unfold Reg.tlpThPc Reg.tlpThCtl; omega
    have h2 : Reg.tlpThPc th ≠ Reg.tlpThState th := by unfold Reg.tlpThPc Reg.tlpThState; omega
    have h3 : u.pc th = ((f.begun th).setPc th (f.pc th + 1)).pc th :=
      (fld_setFlag_ne _ _ _ _ _ _ _ h1).trans (fld_setFld_ne _ _ _ _ _ _ _ _ h2)
    rw [h3, setPc_pc _ _ _ h.room]
  have hmoves : f.Moves u th (f.pc th + 1) [Reg.tlpThState th, Reg.tlpThCtl th] := moves_of_setsRegs_pc hs hpc
  have hp : (f.begun th).perform th (f.duOf th) .halt = (u.setThread th (u.thread th), .acted) :=
    doHalt_free (s := f.begun th) h.room (by rw [begun_thread, if_pos rfl]; exact h.free.1)
      (by rw [begun_thread, if_pos rfl]; exact h.free.2)
  have hexec : exec (.halt th) s = .next (u.setThread th (u.thread th)) :=
    congrArg Host.Outcome.next ((issue_executes h.toExecutes rfl).trans (by rw [hp]; rfl))
  exact ⟨_, hexec, halted_thState _ th, halted_running _ th, hmoves.setThread_same⟩

/-- Settles O3: each instruction's next PC is its operand, its condition, the return stack or its count. -/
theorem controlFlowTargets : Obligations.ControlFlowTargets := by
  unfold Obligations.ControlFlowTargets
  refine ⟨fun s th f h => ?_, fun s th f h => ?_, fun s th g f h hg => ?_, fun s th c i clr g f h => bCond_completes h,
    fun s th g d f h hg hd hd' => call_completes h hg hd hd', fun s th d f h hd => ret_completes h hd,
    fun s th g k f h hg => loop_completes h hg, fun s th f h => halt_completes h,
    fun t th pc h h1 h2 => branch_untraced pc h h1 h2, fun t th pc h h' => branch_traced pc h h',
    fun s th d f h hg hp hd => ?_, fun s th f h hd => ?_, fun s th g f h hg => ?_⟩
  · exact congrArg Host.Outcome.next (runs_next h rfl rfl rfl rfl)
  · exact congrArg Host.Outcome.next (runs_next h rfl rfl rfl rfl)
  · exact congrArg Host.Outcome.next (issue_goto h rfl (doJmp_taken (s := f.begun th) hg))
  · exact congrArg Host.Outcome.next (issue_fault h rfl (doCall_full (s := f.begun th) hg hp hd))
  · exact congrArg Host.Outcome.next (issue_fault h rfl (doRet_empty (s := f.begun th) hd))
  · exact congrArg Host.Outcome.next (issue_fault h rfl (doJmp_fault (s := f.begun th) hg))

end Sys2Proof.Machine

/-! Addressing (R91, R93, R143). -/
namespace Sys2Proof.Machine

/-! ## Linear addresses -/

/-- Addresses add modulo 2^24. -/
theorem unsgn_add_toNat (a : Nat) (i : Int) : unsgn 24 ((a : Int) + i) = (BitVec.ofNat 24 a + BitVec.ofInt 24 i).toNat := by
  rw [BitVec.toNat_add, BitVec.toNat_ofNat, BitVec.toNat_ofInt, unsgn]
  norm_num
  omega

theorem unsgn_add_sgn (a m : Nat) : unsgn 24 ((a : Int) + sgn 24 m) = (BitVec.ofNat 24 a + BitVec.ofNat 24 m).toNat := by
  rw [BitVec.toNat_add, BitVec.toNat_ofNat, BitVec.toNat_ofNat, unsgn, sgn]
  norm_num
  split <;> omega

theorem eaOf_linear {s : State} {th : Nat} {e : Ea} (h : e.circ = false ∨ s.l24 th e.i = 0) : ∃ n2,
    s.eaOf th e = some (
      (if e.mode = 0 then (BitVec.ofNat 24 (s.a24 th e.i) + BitVec.ofInt 24 e.imm).toNat else s.a24 th e.i),
      (if e.mode = 0 then s.a24 th e.i
       else if e.mode = 1 then (BitVec.ofNat 24 (s.a24 th e.i) + BitVec.ofNat 24 (s.m24 th e.i)).toNat
       else (BitVec.ofNat 24 (s.a24 th e.i) + BitVec.ofInt 24 e.imm).toNat), n2) := by
  have hc : ¬(e.circ = true ∧ s.l24 th e.i ≠ 0) := by
    rintro ⟨hc, hl⟩
    exact h.elim (fun h => by simp [h] at hc) hl
  rw [State.eaOf, if_neg hc, ← unsgn_add_toNat, ← unsgn_add_sgn]
  refine ⟨_, congrArg some (Prod.ext rfl (Prod.ext ?_ rfl))⟩
  show (if e.mode = 0 then _ else unsgn 24 (_ + if e.mode = 1 then _ else _)) = _
  split_ifs <;> rfl

/-! ## Circular addresses -/

/-- A circular position lies in the buffer (R143). -/
theorem circAt_inside {b l : Nat} (off : Nat) (d : Int) (hb : b < 2 ^ 24) (hl : 0 < l) (hl' : l < 2 ^ 24) :
    circAt b l off d < 2 ^ 24 ∧ (circAt b l off d + 2 ^ 24 - b) % 2 ^ 24 < l := by
  have h0 : 0 ≤ ((off : Int) + d) % l := Int.emod_nonneg _ (by omega)
  have h1 : ((off : Int) + d) % l < l := Int.emod_lt_of_pos _ (by omega)
  rw [circAt]
  generalize ((off : Int) + d) % l = r at *
  omega

theorem field24_lt (s : State) (off : Nat) : s.fld off 23 0 < 2 ^ 24 := bits_lt _ 23 0

theorem eaOf_circular {s : State} {th : Nat} {e : Ea} (hc : e.circ = true) (hl : 0 < s.l24 th e.i) :
    (s.b24 th e.i % 4 ≠ 0 → s.eaOf th e = none) ∧
    (s.b24 th e.i % 4 = 0 → ∃ ea nx n2, s.eaOf th e = some (ea, nx, n2) ∧ ea < 2 ^ 24 ∧ nx < 2 ^ 24 ∧
      (ea + 2 ^ 24 - s.b24 th e.i) % 2 ^ 24 < s.l24 th e.i ∧
      (e.mode ≠ 0 → (nx + 2 ^ 24 - s.b24 th e.i) % 2 ^ 24 < s.l24 th e.i)) := by
  have hcl : e.circ = true ∧ s.l24 th e.i ≠ 0 := ⟨hc, Nat.pos_iff_ne_zero.mp hl⟩
  have hin := fun off d => circAt_inside off d (field24_lt s (Reg.tlpThB th e.i)) hl (field24_lt s (Reg.tlpThL th e.i))
  rw [State.eaOf, if_pos hcl]
  refine ⟨fun hb => if_pos hb, fun hb => ?_⟩
  refine ⟨_, _, _, if_neg (not_not.mpr hb), (hin _ _).1, ?_, (hin _ _).2, fun hm => ?_⟩
  · split
    · exact field24_lt s _
    · exact (hin _ _).1
  · rw [if_neg hm]; exact (hin _ _).2

/-! ## The setup of a buffer -/

theorem a24_setReg_same (s : State) (off v : Nat) : (s.setReg off (BitVec.ofNat 32 (v % 2 ^ 24))).fld off 23 0 = v % 2 ^ 24 := by
  rw [State.fld, reg_setReg_same, bits_mod]

theorem tlpThB_ne_pc {th i : Nat} (h : i < 8) : Reg.tlpThB th i ≠ Reg.tlpThPc th := by
  unfold Reg.tlpThB Reg.tlpThPc; omega

theorem setb_completes {s f : State} {th i : Nat} {v : Src} (h : State.RunsOn s th (.setb i v) f) (hi : i < 8) :
    ∃ t, exec (.setb th) s = .next t ∧ f.Moves t th (f.pc th + 1) [Reg.tlpThB th i] ∧ t.b24 th i = f.src th v % 2 ^ 24 := by
  obtain ⟨hissue, hmoves⟩ := runs_setsRegs (u := (f.begun th).setB th i (f.src th v)) (row := .setb th) h rfl rfl
    ((State.SetsRegs.refl _ [Reg.tlpThB th i]).setReg _ (by simp)) (by simp [(tlpThB_ne_pc hi).symm])
  refine ⟨_, congrArg Host.Outcome.next hissue, hmoves, ?_⟩
  rw [State.b24, State.setPc, fld_setFld_ne _ _ _ _ _ _ _ _ (tlpThB_ne_pc hi)]
  exact a24_setReg_same _ _ _

/-- The state SETL leaves: the length, and the pointer folded into a buffer it has passed (R93). -/
def State.setlen (s : State) (th i n : Nat) : State :=
  let off := (s.a24 th i + 2 ^ 24 - s.b24 th i) % 2 ^ 24
  if n ≠ 0 ∧ n ≤ off then ((s.setL th i n).setA th i
    ((s.b24 th i + off % n) % 2 ^ 24)).setStat th stCircFold true else s.setL th i n

theorem doSetl_aligned {s : State} {th i : Nat} {v : Src} (h : s.src th v % 2 ^ 24 % 4 = 0) :
    s.doSetl th i v = (s.setlen th i (s.src th v % 2 ^ 24), .next) := by
  rw [State.doSetl]
  exact if_neg (not_not.mpr h)

theorem setlen_setsRegs (s : State) (th i n : Nat) :
    s.SetsRegs (s.setlen th i n) [Reg.tlpThL th i, Reg.tlpThA th i, Reg.tlpThStat th] := by
  have hl : s.SetsRegs (s.setL th i n) [Reg.tlpThL th i, Reg.tlpThA th i, Reg.tlpThStat th] :=
    (State.SetsRegs.refl _ _).setReg _ (by simp)
  exact .ite ((hl.setReg _ (by simp)).setStat _ _ (by simp)) hl

theorem tlpThL_ne_A {th i : Nat} : Reg.tlpThL th i ≠ Reg.tlpThA th i := by unfold Reg.tlpThL Reg.tlpThA; omega

section
variable {th i : Nat} (hi : i < 8)
include hi

theorem tlpThL_ne_stat : Reg.tlpThL th i ≠ Reg.tlpThStat th := by unfold Reg.tlpThL Reg.tlpThStat; omega
theorem tlpThA_ne_stat : Reg.tlpThA th i ≠ Reg.tlpThStat th := by unfold Reg.tlpThA Reg.tlpThStat; omega
theorem tlpThL_ne_pc : Reg.tlpThL th i ≠ Reg.tlpThPc th := by unfold Reg.tlpThL Reg.tlpThPc; omega
theorem tlpThA_ne_pc : Reg.tlpThA th i ≠ Reg.tlpThPc th := by unfold Reg.tlpThA Reg.tlpThPc; omega

theorem setlen_l24 (s : State) (n : Nat) : (s.setlen th i n).l24 th i = n % 2 ^ 24 := by
  have hset : (s.setL th i n).l24 th i = n % 2 ^ 24 := a24_setReg_same _ _ _
  unfold State.setlen
  dsimp only
  split
  · rw [State.l24, State.setStat, fld_setFlag_ne _ _ _ _ _ _ _ (tlpThL_ne_stat hi), State.setA,
      fld_setReg_ne _ _ _ _ _ _ tlpThL_ne_A]
    exact hset
  · exact hset

theorem setlen_a24 (s : State) (n : Nat) : (s.setlen th i n).a24 th i =
    let off := (s.a24 th i + 2 ^ 24 - s.b24 th i) % 2 ^ 24
    if n ≠ 0 ∧ n ≤ off then (s.b24 th i + off % n) % 2 ^ 24 else s.a24 th i := by
  unfold State.setlen
  dsimp only
  split
  · rw [State.a24, State.setStat, fld_setFlag_ne _ _ _ _ _ _ _ (tlpThA_ne_stat hi), State.setA, a24_setReg_same, Nat.mod_mod]
  · exact fld_setReg_ne _ _ _ _ _ _ tlpThL_ne_A.symm

theorem setlen_stat (s : State) (n k : Nat) (hk : k < 32) : (s.setlen th i n).stat th k =
    if k = stCircFold ∧ n ≠ 0 ∧ n ≤ (s.a24 th i + 2 ^ 24 - s.b24 th i) % 2 ^ 24 then true else s.stat th k := by
  have hset : (s.setL th i n).stat th k = s.stat th k := flag_setReg_ne _ _ _ _ _ (tlpThL_ne_stat hi).symm
  unfold State.setlen
  dsimp only
  split
  · rename_i hfold
    have hA : ((s.setL th i n).setA th i ((s.b24 th i + (s.a24 th i + 2 ^ 24 - s.b24 th i) % 2 ^ 24 % n) % 2 ^ 24)).stat th k
        = s.stat th k := (flag_setReg_ne _ _ _ _ _ (tlpThA_ne_stat hi).symm).trans hset
    rw [stat_setStat _ _ _ _ _ hk, hA, if_congr (and_iff_left hfold) rfl rfl]
  · rename_i hfold
    rw [hset, if_neg (fun h => hfold h.2)]

theorem setl_completes {s f : State} {v : Src} (h : State.RunsOn s th (.setl i v) f) (hn : f.src th v % 2 ^ 24 % 4 = 0) :
    ∃ t, exec (.setl th) s = .next t ∧
      f.Moves t th (f.pc th + 1) [Reg.tlpThL th i, Reg.tlpThA th i, Reg.tlpThStat th] ∧
      t = (((f.begun th).setlen th i (f.src th v % 2 ^ 24)).setPc th (f.pc th + 1)) := by
  obtain ⟨hissue, hmoves⟩ := runs_setsRegs (row := .setl th) h rfl (doSetl_aligned (s := f.begun th) hn) (setlen_setsRegs _ _ _ _)
    (by simp [(tlpThL_ne_pc hi).symm, (tlpThA_ne_pc hi).symm, tlpThPc_ne_stat])
  exact ⟨_, congrArg Host.Outcome.next hissue, hmoves, rfl⟩

end

/-- Settles O5: linear addresses by arithmetic modulo 2^24, circular ones by `circAt_inside`, SETL by what `State.setlen` reads as. -/
theorem addressingModes : Obligations.AddressingModes := by
  unfold Obligations.AddressingModes
  refine ⟨fun s th e _ h => eaOf_linear h, fun s th e _ hc hl => eaOf_circular hc hl,
    fun s th i v f h hi => setb_completes h hi, fun s th i v f h hi hn => ?_⟩
  obtain ⟨t, ht, hmoves, rfl⟩ := setl_completes hi h hn
  have hl : ∀ p, (((f.begun th).setlen th i (f.src th v % 2 ^ 24)).setPc th p).l24 th i = f.src th v % 2 ^ 24 := fun p => by
    rw [State.l24, State.setPc, fld_setFld_ne _ _ _ _ _ _ _ _ (tlpThL_ne_pc hi)]
    exact (setlen_l24 hi _ _).trans (Nat.mod_mod _ _)
  have ha : ∀ p, (((f.begun th).setlen th i (f.src th v % 2 ^ 24)).setPc th p).a24 th i
      = ((f.begun th).setlen th i (f.src th v % 2 ^ 24)).a24 th i := fun p =>
    fld_setFld_ne _ _ _ _ _ _ _ _ (tlpThA_ne_pc hi)
  refine ⟨_, ht, hmoves, hl _, ?_, fun k hk hne => ?_⟩
  · dsimp only
    rw [ha, setlen_a24 hi, setPc_stat, setlen_stat hi _ _ _ (by decide)]
    split
    · rename_i hfold
      exact ⟨if_pos hfold, if_pos ⟨rfl, hfold⟩⟩
    · rename_i hfold
      exact ⟨if_neg hfold, if_neg fun h => hfold h.2⟩
  · rw [setPc_stat, setlen_stat hi _ _ _ hk, if_neg fun h => hne h.1]
    rfl

end Sys2Proof.Machine

/-! Waits (R67, R71, R74, R99, R114, R115): an instruction that goes on or waits, and the end of a wait. -/
namespace Sys2Proof.Machine

/-! ## Ends of an instruction -/

theorem begun_stepping {s f : State} {th : Nat} {o : Op} (h : State.RunsOn s th o f) :
    ((f.begun th).thread th).stepping = false := by
  rw [begun_thread, if_pos rfl]; exact h.free.1

theorem begun_haltReq {s f : State} {th : Nat} {o : Op} (h : State.RunsOn s th o f) :
    ((f.begun th).thread th).haltReq = false := by
  rw [begun_thread, if_pos rfl]; exact h.free.2

/-- A command whose instruction goes on, the thread's own progress apart from a step or a halt request being what the instruction
left. -/
theorem issue_next {s f u : State} {th : Nat} {o : Op} {row : Instr} (h : State.RunsOn s th o f) (hr : o.row th = row)
    (hp : (f.begun th).perform th (f.duOf th) o = (u, .next)) (hpc : u.pc th = f.pc th) (h1 : (u.thread th).stepping = false)
    (h2 : (u.thread th).haltReq = false) : s.issue th row = u.setPc th (f.pc th + 1) := by
  rw [issue_executes h.toExecutes hr, hp]
  have hroom : u.pc th + 1 ≤ lastPc := hpc ▸ h.room
  exact (advance_free hroom h1 h2).trans (by rw [hpc])

/-- A command whose instruction waits. -/
theorem issue_wait {s f u : State} {th st : Nat} {o : Op} {row : Instr} (h : State.Executes s th o f) (hr : o.row th = row)
    (hp : (f.begun th).perform th (f.duOf th) o = (u, .wait st)) : s.issue th row = u.setThState th st := by
  rw [issue_executes h hr, hp]; rfl

/-- A command whose instruction sets registers and goes on. -/
theorem issue_setsRegs {s f u : State} {th : Nat} {o : Op} {row : Instr} {offs : List Nat} (h : State.RunsOn s th o f)
    (hr : o.row th = row) (hp : (f.begun th).perform th (f.duOf th) o = (u, .next)) (hs : (f.begun th).SetsRegs u offs)
    (ho : Reg.tlpThPc th ∉ offs) : s.issue th row = u.setPc th (f.pc th + 1) := (runs_setsRegs h hr hp hs ho).1

theorem tlpThPc_ne_ev {th w : Nat} (h : w < 8) : Reg.tlpThPc th ≠ Reg.tlpEv w := by
  unfold Reg.tlpThPc Reg.tlpEv; omega

theorem State.SetsRegs.consume {s u : State} {offs : List Nat} (h : s.SetsRegs u offs) {w : Nat} (m : Word) (c : Bool)
    (ho : Reg.tlpEv w ∈ offs) : s.SetsRegs (u.consume w m c) offs := .ite (h.setReg _ ho) h

/-! ## Instructions that may wait -/

/-- The due time of a WAITT: its register, or 0, and its offset (R99). -/
def State.waittTime (s : State) (th : Nat) (b : Option Nat) (off : Int) : Word :=
  (match b with
    | some r => s.g th r
    | none => 0) + BitVec.ofInt 32 off

theorem waitt_completes {s f : State} {th : Nat} {b : Option Nat} {off : Int} (h : State.RunsOn s th (.waitt b off) f) :
    let due := f.waittTime th b off
    exec (.waitt th) s = .next (if future due f.tns then ((f.begun th).arm th 0 due false none).setThState th stWaitT
      else (if due = f.tns then f.begun th else (f.begun th).setStat th stLateWait true).setPc th (f.pc th + 1)) := by
  intro due
  have hp : (f.begun th).perform th (f.duOf th) (.waitt b off) =
      if future due f.tns then ((f.begun th).arm th 0 due false none, .wait stWaitT)
      else (if due = f.tns then f.begun th else (f.begun th).setStat th stLateWait true, .next) := by
    cases b <;> rfl
  by_cases hc : future due f.tns = true
  · rw [if_pos hc] at hp ⊢
    exact congrArg Host.Outcome.next (issue_wait h.toExecutes rfl hp)
  · rw [if_neg hc] at hp ⊢
    exact congrArg Host.Outcome.next (issue_setsRegs h rfl hp (offs := [Reg.tlpThStat th])
      (.ite (.refl _ _) ((State.SetsRegs.refl _ _).setStat _ _ (by simp))) (by simp [tlpThPc_ne_stat]))

theorem waitev_completes {s f : State} {th line : Nat} {c : Bool} (h : State.RunsOn s th (.waitev line c) f) (hl : line < 256) :
    let m := BitVec.ofNat 32 (2 ^ (line % 32))
    exec (.waitev th) s = .next (if f.ev line then ((f.begun th).consume (line / 32) m c).setPc th (f.pc th + 1)
      else ((f.begun th).arm th (line / 32) m c none).setThState th stWaitEv) := by
  intro m
  have hp : (f.begun th).perform th (f.duOf th) (.waitev line c) = if f.ev line then ((f.begun th).consume (line / 32) m c, .next)
      else ((f.begun th).arm th (line / 32) m c none, .wait stWaitEv) := rfl
  by_cases hc : f.ev line = true
  · rw [if_pos hc] at hp ⊢
    exact congrArg Host.Outcome.next (issue_setsRegs h rfl hp (offs := [Reg.tlpEv (line / 32)])
      ((State.SetsRegs.refl _ _).consume _ _ (by simp)) (by simp [tlpThPc_ne_ev (show line / 32 < 8 by omega)]))
  · rw [if_neg hc] at hp ⊢
    exact congrArg Host.Outcome.next (issue_wait h.toExecutes rfl hp)

theorem waitevAny_completes {s f : State} {th word m d : Nat} {c : Bool} (h : State.RunsOn s th (.waitevAny word m d c) f)
    (hw : word < 8) (hd : d < 16) :
    let v := f.reg (Reg.tlpEv word) &&& f.g th m
    exec (.waitevAny th) s = .next (if f.g th m = 0 then ((f.begun th).setG th d 0).setPc th (f.pc th + 1)
      else if v ≠ 0 then (((f.begun th).consume word v c).setG th d v).setPc th (f.pc th + 1)
      else ((f.begun th).arm th word (f.g th m) c (some d)).setThState th stWaitEv) := by
  intro v
  have hp : (f.begun th).perform th (f.duOf th) (.waitevAny word m d c) = if f.g th m = 0 then ((f.begun th).setG th d 0, .next)
      else if v ≠ 0 then (((f.begun th).consume word v c).setG th d v, .next)
      else ((f.begun th).arm th word (f.g th m) c (some d), .wait stWaitEv) := rfl
  have hpc : Reg.tlpThPc th ∉ [Reg.tlpThG th d, Reg.tlpEv word] := by simp [tlpThG_pc hd, tlpThPc_ne_ev hw]
  by_cases hm : f.g th m = 0
  · rw [if_pos hm] at hp ⊢
    exact congrArg Host.Outcome.next (issue_setsRegs h rfl hp ((State.SetsRegs.refl _ _).setReg _ (by simp)) hpc)
  · rw [if_neg hm] at hp ⊢
    by_cases hv : v ≠ 0
    · rw [if_pos hv] at hp ⊢
      exact congrArg Host.Outcome.next (issue_setsRegs h rfl hp
        (((State.SetsRegs.refl _ _).consume _ _ (by simp)).setReg _ (by simp)) hpc)
    · rw [if_neg hv] at hp ⊢
      exact congrArg Host.Outcome.next (issue_wait h.toExecutes rfl hp)

/-- The thread after FENCE has gone on: nothing awaited, and no failure kept (R71). -/
theorem endFence_thread (s : State) (th : Nat) :
    (s.endFence th).thread th = { s.thread th with awaits := [], fenceFail := false } := by
  unfold State.endFence
  dsimp only
  split <;> exact thread_setThread_same _ _ _

theorem endFence_pc (s : State) (th : Nat) : (s.endFence th).pc th = s.pc th := by
  unfold State.endFence
  dsimp only
  split
  · exact fld_setFlag_ne _ _ _ _ _ _ _ (tlpThPc_ne_stat th)
  · rfl

theorem fence_completes {s f : State} {th : Nat} (h : State.RunsOn s th .fence f) :
    exec (.fence th) s = .next (if (f.begun th).fenced th then ((f.begun th).endFence th).setPc th (f.pc th + 1)
      else ((f.begun th).arm th 0 0 false none).setThState th stWaitFence) := by
  have hp : (f.begun th).perform th (f.duOf th) .fence = if (f.begun th).fenced th then ((f.begun th).endFence th, .next)
      else ((f.begun th).arm th 0 0 false none, .wait stWaitFence) := rfl
  by_cases hc : (f.begun th).fenced th = true
  · rw [if_pos hc] at hp ⊢
    exact congrArg Host.Outcome.next (issue_next h rfl hp (endFence_pc _ _) (by rw [endFence_thread]; exact begun_stepping h)
      (by rw [endFence_thread]; exact begun_haltReq h))
  · rw [if_neg hc] at hp ⊢
    exact congrArg Host.Outcome.next (issue_wait h.toExecutes rfl hp)

theorem cmpl_completes {s f : State} {th d : Nat} {tg : Src} (h : State.RunsOn s th (.cmpl d tg) f) (hd : d < 16) :
    let t := f.src th tg % 512
    exec (.cmpl th) s = .next (match f.entry? t with
      | some e => if e.th = th then ((f.begun th).arm th t 0 e.periodic (some d)).setThState th stWaitCmpl
          else ((f.begun th).setG th d (f.reg (Reg.tlpTagLast t))).setPc th (f.pc th + 1)
      | none => ((f.begun th).setG th d (f.reg (Reg.tlpTagLast t))).setPc th (f.pc th + 1)) := by
  intro t
  have hpc : Reg.tlpThPc th ∉ [Reg.tlpThG th d] := by simp [tlpThG_pc hd]
  have hlast : (f.begun th).SetsRegs ((f.begun th).setG th d (f.reg (Reg.tlpTagLast t))) [Reg.tlpThG th d] :=
    (State.SetsRegs.refl _ _).setReg _ (by simp)
  have hp : (f.begun th).perform th (f.duOf th) (.cmpl d tg) = match f.entry? t with
      | some e => if e.th = th then ((f.begun th).arm th t 0 e.periodic (some d), .wait stWaitCmpl)
          else ((f.begun th).setG th d (f.reg (Reg.tlpTagLast t)), .next)
      | none => ((f.begun th).setG th d (f.reg (Reg.tlpTagLast t)), .next) := rfl
  cases he : f.entry? t with
  | none =>
    rw [he] at hp
    exact congrArg Host.Outcome.next (issue_setsRegs h rfl hp hlast hpc)
  | some e =>
    rw [he] at hp
    by_cases hth : e.th = th
    · exact congrArg Host.Outcome.next ((issue_wait h.toExecutes rfl (hp.trans (if_pos hth))).trans (if_pos hth).symm)
    · exact congrArg Host.Outcome.next ((issue_setsRegs h rfl (hp.trans (if_neg hth)) hlast hpc).trans (if_neg hth).symm)

/-! ## The end of a wait -/

theorem stReady_lt : stReady < 16 := by decide

theorem tlpThPc_ne_state (th : Nat) : Reg.tlpThPc th ≠ Reg.tlpThState th := by
  unfold Reg.tlpThPc Reg.tlpThState; omega

/-- The thread READY again, its wait forgotten. -/
def State.resumed (s : State) (th : Nat) : State :=
  (s.setThState th stReady).setThread th { s.thread th with hit := false, hitVal := 0, dest := none }

theorem resumed_reg (s : State) {th off : Nat} (h : off ≠ Reg.tlpThState th) : (s.resumed th).reg off = s.reg off := by
  rw [State.resumed, reg_setThread]
  exact reg_setFld_ne _ _ _ _ _ _ h

theorem resumed_pc (s : State) (th : Nat) : (s.resumed th).pc th = s.pc th := by
  rw [State.pc, State.fld, resumed_reg s (tlpThPc_ne_state th)]; rfl

theorem resumed_thState (s : State) (th : Nat) : (s.resumed th).thState th = stReady := by
  rw [State.resumed, State.thState, fld_setThread]
  exact fld_setFld _ _ _ _ _ (by decide)

theorem resumed_thread (s : State) (th : Nat) :
    (s.resumed th).thread th = { s.thread th with hit := false, hitVal := 0, dest := none } := thread_setThread_same _ _ _

/-- A wait that ends where nothing stops the thread. -/
theorem endWait_free {s : State} {th : Nat} (hpc : s.pc th < lastPc) (h1 : (s.thread th).stepping = false)
    (h2 : (s.thread th).haltReq = false) : s.endWait th = (s.resumed th).setPc th (s.pc th + 1) := by
  have hroom : (s.resumed th).pc th + 1 ≤ lastPc := by rw [resumed_pc]; exact hpc
  exact (advance_free hroom (by rw [resumed_thread]; exact h1) (by rw [resumed_thread]; exact h2)).trans (by rw [resumed_pc])

/-- What the end of a wait leaves: READY past the instruction, every other register, the memory and the queue as they were. -/
theorem endWait_effect {s : State} {th : Nat} (hpc : s.pc th < lastPc) (h1 : (s.thread th).stepping = false)
    (h2 : (s.thread th).haltReq = false) :
    (s.endWait th).thState th = stReady ∧ (s.endWait th).pc th = s.pc th + 1 ∧
    (∀ off, off ≠ Reg.tlpThPc th → off ≠ Reg.tlpThState th → (s.endWait th).reg off = s.reg off) ∧
    (s.endWait th).mem = s.mem ∧ (s.endWait th).taq = s.taq := by
  rw [endWait_free hpc h1 h2]
  refine ⟨?_, setPc_pc _ _ _ hpc, fun off hp hs => (setPc_reg _ _ _ _ hp).trans (resumed_reg s hs), rfl, rfl⟩
  rw [State.thState, State.setPc, fld_setFld_ne _ _ _ _ _ _ _ _ (tlpThPc_ne_state th).symm]
  exact resumed_thState s th

theorem exec_threadWake {s : State} {th : Nat} (hth : th < 16) (hup : s.up domCob = true) :
    exec (.threadWake th) s = .next (s.wakeThread th) := congrArg Host.Outcome.next (if_pos ⟨hth, hup⟩)

theorem exec_waittDue {s : State} {th : Nat} (hth : th < 16) (hup : s.up domCob = true) (hst : s.thState th = stWaitT) :
    exec (.waittDue th) s = .next (s.wakeThread th) :=
  congrArg Host.Outcome.next ((if_pos ⟨hth, hup⟩).trans (if_pos hst))

theorem wakeThread_event {s : State} {th : Nat} (hst : s.thState th = stWaitEv ∨ s.thState th = stWaitCmpl) :
    s.wakeThread th = if (s.thread th).hit then (s.writeDest th).endWait th else s := if_pos hst

theorem wakeThread_time {s : State} {th : Nat} (hst : s.thState th = stWaitT) :
    s.wakeThread th = if future (s.thread th).due s.tns then s else s.endWait th := by
  rw [State.wakeThread, hst]; rfl

theorem tlpThG_ne_state {th d : Nat} (h : d < 16) : Reg.tlpThG th d ≠ Reg.tlpThState th := by
  unfold Reg.tlpThG Reg.tlpThState; omega

theorem writeDest_thread (s : State) (th i : Nat) : (s.writeDest th).thread i = s.thread i := by
  unfold State.writeDest; split <;> rfl

theorem writeDest_g {s : State} {th d : Nat} (hd : (s.thread th).dest = some d) : (s.writeDest th).g th d = (s.thread th).hitVal := by
  rw [State.writeDest, hd]
  exact reg_setReg_same _ _ _

/-- The g registers of a thread lie above its PC. -/
theorem writeDest_pc (s : State) (th : Nat) : (s.writeDest th).pc th = s.pc th := by
  unfold State.writeDest
  split
  · exact fld_setReg_ne _ _ _ _ _ _ (by unfold Reg.tlpThG Reg.tlpThPc; omega)
  · rfl

theorem wake_event {s : State} {th : Nat} (hth : th < 16) (hup : s.up domCob = true)
    (hst : s.thState th = stWaitEv ∨ s.thState th = stWaitCmpl) (hpc : s.pc th < lastPc)
    (h1 : (s.thread th).stepping = false) (h2 : (s.thread th).haltReq = false) (hhit : (s.thread th).hit = true) :
    ∃ t, exec (.threadWake th) s = .next t ∧ t.thState th = stReady ∧ t.pc th = s.pc th + 1 ∧
      (∀ d, (s.thread th).dest = some d → d < 16 → t.g th d = (s.thread th).hitVal) ∧ t.mem = s.mem ∧ t.taq = s.taq := by
  obtain ⟨hready, hnext, hreg, hmem, htaq⟩ := endWait_effect (s := s.writeDest th) (th := th) (by rw [writeDest_pc]; exact hpc)
    (by rw [writeDest_thread]; exact h1) (by rw [writeDest_thread]; exact h2)
  have hwake : s.wakeThread th = (s.writeDest th).endWait th := (wakeThread_event hst).trans (if_pos hhit)
  have hmem' : (s.writeDest th).mem = s.mem := by unfold State.writeDest; split <;> rfl
  have htaq' : (s.writeDest th).taq = s.taq := by unfold State.writeDest; split <;> rfl
  refine ⟨_, (exec_threadWake hth hup).trans (congrArg _ hwake), hready, hnext.trans (by rw [writeDest_pc]), fun d hd hd' => ?_,
    hmem.trans hmem', htaq.trans htaq'⟩
  exact (hreg _ (tlpThG_pc hd').symm (tlpThG_ne_state hd')).trans (writeDest_g hd)

theorem wake_time {s : State} {th : Nat} (hth : th < 16) (hup : s.up domCob = true) (hst : s.thState th = stWaitT)
    (hpc : s.pc th < lastPc) (h1 : (s.thread th).stepping = false) (h2 : (s.thread th).haltReq = false)
    (hdue : future (s.thread th).due s.tns = false) :
    ∃ t, exec (.waittDue th) s = .next t ∧ t.thState th = stReady ∧ t.pc th = s.pc th + 1 ∧ t.mem = s.mem ∧ t.taq = s.taq := by
  obtain ⟨hready, hnext, -, hmem, htaq⟩ := endWait_effect hpc h1 h2
  have hwake : s.wakeThread th = s.endWait th := (wakeThread_time hst).trans (if_neg (by rw [hdue]; exact Bool.false_ne_true))
  exact ⟨_, (exec_waittDue hth hup hst).trans (congrArg _ hwake), hready, hnext, hmem, htaq⟩

/-- Settles O8: each wait goes on or waits by its condition, and the end of a wait is `State.endWait`. -/
theorem waits : Obligations.Waits := by
  unfold Obligations.Waits
  refine ⟨fun s th b off f h => (waitt_completes h).trans (by cases b <;> rfl), fun s th line c f h hl => waitev_completes h hl,
    fun s th word m d c f h hw hd => waitevAny_completes h hw hd, fun s th f h => fence_completes h,
    fun s th d tg f h hd => cmpl_completes h hd, fun s th hth hup hst hpc h1 h2 => ⟨fun hhit => ?_, fun hhit => ?_⟩,
    fun s th hth hup hst hpc h1 h2 => ⟨fun hdue => ?_, fun hdue => ?_⟩⟩
  · rw [exec_threadWake hth hup, wakeThread_event hst, hhit]; rfl
  · exact wake_event hth hup hst hpc h1 h2 hhit
  · rw [exec_waittDue hth hup hst, wakeThread_time hst, if_pos hdue]
  · exact wake_time hth hup hst hpc h1 h2 hdue

end Sys2Proof.Machine

/-! Sparse lists: what is found after an entry has been put or taken away; entries of the timed action queue. -/
namespace Sys2Proof.Machine

variable {α : Type}

@[simp] theorem alook_nil (k : Nat) : alook ([] : List (Nat × α)) k = none := rfl

theorem alook_cons (p : Nat × α) (l : List (Nat × α)) (k : Nat) : alook (p :: l) k = if p.1 = k then some p.2 else alook l k := by
  rw [alook, List.find?_cons]
  by_cases h : p.1 = k
  · rw [if_pos h, beq_iff_eq.mpr h]; rfl
  · rw [if_neg h, beq_eq_false_iff_ne.mpr h]; rfl

theorem alook_sins_ne (l : List (Nat × α)) {k j : Nat} (v : α) (h : j ≠ k) : alook (sins l k v) j = alook l j := by
  induction l with
  | nil => rw [sins, alook_cons, if_neg h.symm]
  | cons p l ih =>
    rw [sins]
    split
    · rw [alook_cons, if_neg h.symm]
    · rw [alook_cons, alook_cons, ih]

theorem alook_sdel_same (l : List (Nat × α)) (k : Nat) : alook (sdel l k) k = none := by
  rw [alook, Option.map_eq_none_iff, List.find?_eq_none]
  intro p hp
  have := sdel_ne l k p hp
  simpa using this

theorem alook_sdel_ne (l : List (Nat × α)) {k j : Nat} (h : j ≠ k) : alook (sdel l k) j = alook l j := by
  induction l with
  | nil => rfl
  | cons p l ih =>
    have hcons : sdel (p :: l) k = if p.1 = k then sdel l k else p :: sdel l k := by
      rw [sdel, List.filter_cons]
      by_cases hp : p.1 = k
      · rw [if_pos hp, bne_eq_false_iff_eq.mpr hp]; rfl
      · rw [if_neg hp, bne_iff_ne.mpr hp]; rfl
    rw [hcons, alook_cons]
    split
    · rename_i hp
      rw [ih, if_neg fun e => h (e.symm.trans hp)]
    · rw [alook_cons, ih]

theorem alook_aput (l : List (Nat × α)) (k j : Nat) (v : α) : alook (aput l k v) j = if j = k then some v else alook l j := by
  by_cases h : j = k
  · rw [if_pos h, h, alook_aput_same]
  · rw [if_neg h, aput, alook_sins_ne _ _ h, alook_sdel_ne _ h]

/-! ## Entries of the queue -/

theorem entry?_setEntry (s : State) (tag q : Nat) (e : Entry) : (s.setEntry tag e).entry? q = if q = tag then some e else s.entry? q :=
  alook_aput s.taq tag q e

theorem entry?_congr {s t : State} (h : t.taq = s.taq) (q : Nat) : t.entry? q = s.entry? q := by
  rw [State.entry?, State.entry?, h]

/-- The level shown after a change of the queue is register work alone. -/
theorem showLevel_setsRegs (s : State) : s.SetsRegs s.showLevel [Reg.tlpTaqLevel] := by
  have h : s.SetsRegs (s.setFld Reg.tlpTaqLevel 9 0 s.taq.length) [Reg.tlpTaqLevel] := (State.SetsRegs.refl _ _).setFld _ _ _ (by simp)
  exact .ite (h.setFld _ _ _ (by simp)) h

theorem tagLast_setsRegs (s : State) (tag th c : Nat) (b : Bool) : s.SetsRegs (s.tagLast tag th c b) [Reg.tlpTagLast tag] :=
  (State.SetsRegs.refl _ _).setReg _ (by simp)

theorem State.SetsRegs.trans {s u v : State} {offs : List Nat} (h : s.SetsRegs u offs) (h' : u.SetsRegs v offs) : s.SetsRegs v offs := by
  refine ⟨fun off ho => (h'.1 off ho).trans (h.1 off ho), ?_⟩
  have := congrArg (fun x : State => { x with regs := s.regs }) h'.2
  exact this.trans h.2

/-! ## A fetch that gives an instruction -/

/-- A fetch that gives an instruction writes no register but the counts of corrected errors, and no thread's progress. -/
theorem fetchOp_ok {s g : State} {pc : Nat} {o : Op} (h : s.fetchOp pc = (.ok o, g)) :
    (∀ j, (∀ a, j ≠ Reg.glbEccCe (eccIndex a)) → g.reg j = s.reg j) ∧ g.th = s.th := by
  unfold State.fetchOp at h
  split at h
  · cases h
  · obtain ⟨hok, hg⟩ := Prod.mk.inj h
    split at hok
    · cases hok
    · rename_i hpoison
      rw [Bool.or_eq_true, not_or, Bool.not_eq_true, Bool.not_eq_true] at hpoison
      obtain ⟨hlo, hhi⟩ := hpoison
      subst hg
      exact ⟨fun j hj => (readEcc_reg _ _ j hhi (hj _)).trans (readEcc_reg _ _ j hlo (hj _)),
        (readEcc_th _ _ hhi).trans (readEcc_th _ _ hlo)⟩

theorem tlpTh_ne_eccCe {j : Nat} (h : 0x100000 ≤ j) (a : Nat) : j ≠ Reg.glbEccCe (eccIndex a) := by
  have := eccIndex_le a
  unfold Reg.glbEccCe; omega

theorem fetchOp_ok_reg {s g : State} {pc j : Nat} {o : Op} (h : s.fetchOp pc = (.ok o, g)) (hj : 0x100000 ≤ j) :
    g.reg j = s.reg j := (fetchOp_ok h).1 j (tlpTh_ne_eccCe hj)

theorem fetchOp_ok_thread {s g : State} {pc : Nat} {o : Op} (h : s.fetchOp pc = (.ok o, g)) (i : Nat) : g.thread i = s.thread i := by
  rw [State.thread, State.thread, (fetchOp_ok h).2]

theorem fetchOp_ok_pc {s g : State} {pc th : Nat} {o : Op} (h : s.fetchOp pc = (.ok o, g)) : g.pc th = s.pc th := by
  rw [State.pc, State.fld, fetchOp_ok_reg h (by unfold Reg.tlpThPc; omega)]; rfl

theorem fetchOp_ok_thState {s g : State} {pc th : Nat} {o : Op} (h : s.fetchOp pc = (.ok o, g)) : g.thState th = s.thState th := by
  rw [State.thState, State.fld, fetchOp_ok_reg h (by unfold Reg.tlpThState; omega)]; rfl

/-- A thread that executes is READY (R54). -/
theorem executes_ready {s f : State} {th : Nat} {o : Op} (h : State.Executes s th o f) : f.thState th = stReady := by
  have hcan := h.can
  simp only [State.canIssue, Bool.and_eq_true, beq_iff_eq] at hcan
  rw [fetchOp_ok_thState h.op]
  exact hcan.1.1.2

end Sys2Proof.Machine

/-! Timed prefixes (R94-R98): an entry accepted for a later time. -/
namespace Sys2Proof.Machine

/-- The entry an issue makes (R94). -/
def Issue.entry (x : Issue) (th seq : Nat) : Entry :=
  ⟨th, x.act, x.due, x.cookie, x.period.isSome, x.period.getD 0, x.count, x.count != 0, x.quiet, seq, 0, false, 0, false⟩

/-- The state after an entry has been accepted for a later time. -/
def State.queued (s : State) (th : Nat) (x : Issue) (tag : Nat) (rest : List Nat) : State :=
  let s1 := ({ s with tags := rest, seq := s.seq + 1 }.setEntry tag (x.entry th s.seq)).showLevel
  s1.tagLast tag th (s1.fld (Reg.tlpTagLast tag) 7 0) true

theorem judge_future {s : State} {due : Word} (h : future due s.tns = true) : s.judge due = 0 := by
  simp only [future, Bool.and_eq_true, decide_eq_true_eq] at h
  exact if_pos h.2

theorem accept_queued {s : State} {th : Nat} {x : Issue} {tag : Nat} {rest : List Nat} (ht : s.tags = tag :: rest)
    (hb : x.bad = none) (hd : future x.due s.tns = true) :
    s.accept th x = (s.queued th x tag rest, BitVec.ofNat 32 tag, tag) := by
  have hj : (s.queued th x tag rest).judge x.due = 0 := judge_future (by
    have htime : (s.queued th x tag rest).time = s.time := by
      unfold State.queued State.showLevel State.tagLast State.setEntry
      dsimp only
      split <;> rfl
    rw [State.tns, htime]
    exact hd)
  unfold State.queued Issue.entry at hj ⊢
  dsimp only at hj ⊢
  rw [State.accept, ht]
  dsimp only
  rw [hb]
  dsimp only
  rw [hj]
  rfl

theorem queued_reg (s : State) (th : Nat) (x : Issue) (rest : List Nat) {tag off : Nat} (h1 : off ≠ Reg.tlpTaqLevel)
    (h2 : off ≠ Reg.tlpTagLast tag) : (s.queued th x tag rest).reg off = s.reg off := by
  unfold State.queued
  dsimp only
  rw [(tagLast_setsRegs _ _ _ _ _).same (by simpa using h2), (showLevel_setsRegs _).same (by simpa using h1)]
  rfl

theorem queued_th (s : State) (th : Nat) (x : Issue) (tag : Nat) (rest : List Nat) : (s.queued th x tag rest).th = s.th := by
  unfold State.queued State.showLevel State.tagLast State.setEntry
  dsimp only
  split <;> rfl

theorem queued_tags (s : State) (th : Nat) (x : Issue) (tag : Nat) (rest : List Nat) : (s.queued th x tag rest).tags = rest := by
  unfold State.queued State.showLevel State.tagLast State.setEntry
  dsimp only
  split <;> rfl

theorem queued_entry? (s : State) (th : Nat) (x : Issue) (tag : Nat) (rest : List Nat) (q : Nat) :
    (s.queued th x tag rest).entry? q = if q = tag then some (x.entry th s.seq) else s.entry? q := by
  have htaq : (s.queued th x tag rest).taq = (s.setEntry tag (x.entry th s.seq)).taq := by
    unfold State.queued State.showLevel State.tagLast State.setEntry
    dsimp only
    split <;> rfl
  rw [entry?_congr htaq, entry?_setEntry]

/-- The state in which a timed instruction asks for its entry: the PC past both, the thread not stalled (R95). -/
def State.pastUnit (s : State) (th pc : Nat) : State := (s.setPc th pc).setThread th { s.thread th with stalled := false }

theorem traceTh_off {s : State} (th payload : Nat) (h : s.flag Reg.tlpTrace 31 = false) : s.traceTh th payload = s := by
  rw [State.traceTh, h]; rfl

/-- With the unit's action fetched and its entry accepted, the timed instruction ends: `u` is the state after `accept`. -/
theorem doUnit_accepted {s g u : State} {th tag : Nat} {p o : Op} {a : Action} {w : Word} (hpc : s.pc th + 2 ≤ lastPc)
    (hf : s.fetchOp (s.pc th + 1) = (.ok o, g)) (ho : o.isAction = true) (ha : g.actionOf th o = .ok (a, none))
    (hfull : g.taqFull th = false)
    (hacc : (g.pastUnit th (s.pc th + 2)).accept th (g.issueOf th p a none).1 = (u, w, tag)) :
    s.doUnit th p =
      let t := u.traceTh th (2 * 2 ^ 60 + th * 2 ^ 56 + tag * 2 ^ 47 + (s.pc th + 1))
      ((if t.thState th = stHalted then t else t.setG th (g.issueOf th p a none).2 w).boundary th, .acted) := by
  have hne : s.pc th ≠ lastPc := by omega
  have hmin : min lastPc (s.pc th + 2) = s.pc th + 2 := Nat.min_eq_right hpc
  have hlast : ¬ lastPc < s.pc th + 2 := by omega
  rw [State.pastUnit] at hacc
  simp only [State.doUnit, if_neg hne, hf, ho, ha, hfull, hmin, Bool.not_true, Bool.false_eq_true, if_false, hlast, hacc]

theorem doUnit_queued {s g : State} {th : Nat} {p o : Op} {a : Action} {tag : Nat} {rest : List Nat}
    (hpc : s.pc th + 2 ≤ lastPc) (hf : s.fetchOp (s.pc th + 1) = (.ok o, g)) (ho : o.isAction = true)
    (ha : g.actionOf th o = .ok (a, none)) (hfull : g.taqFull th = false) (ht : g.tags = tag :: rest)
    (hbad : (g.issueOf th p a none).1.bad = none) (hdue : future (g.issueOf th p a none).1.due g.tns = true)
    (htag : tag < 512) (htrace : g.flag Reg.tlpTrace 31 = false) (hready : g.thState th = stReady)
    (h1 : (g.thread th).stepping = false) (h2 : (g.thread th).haltReq = false) :
    s.doUnit th p = ((((g.pastUnit th (s.pc th + 2)).queued th (g.issueOf th p a none).1 tag rest).setG th
      (g.issueOf th p a none).2 (BitVec.ofNat 32 tag)), .acted) := by
  let u := (g.pastUnit th (s.pc th + 2)).queued th (g.issueOf th p a none).1 tag rest
  have hacc : (g.pastUnit th (s.pc th + 2)).accept th (g.issueOf th p a none).1 = (u, BitVec.ofNat 32 tag, tag) :=
    accept_queued ht hbad hdue
  have hu : ∀ off, off ≠ Reg.tlpTaqLevel → off ≠ Reg.tlpTagLast tag → off ≠ Reg.tlpThPc th → u.reg off = g.reg off :=
    fun off h1 h2 h3 => (queued_reg _ _ _ _ h1 h2).trans ((reg_setThread _ _ _ _).trans (reg_setFld_ne _ _ _ _ _ _ h3))
  have htr : u.flag Reg.tlpTrace 31 = false := by
    rw [State.flag, hu _ (by decide) (by unfold Reg.tlpTrace Reg.tlpTagLast; omega) (by unfold Reg.tlpTrace Reg.tlpThPc; omega)]
    exact htrace
  have hst : u.thState th = stReady := by
    rw [State.thState, State.fld, hu _ (by unfold Reg.tlpThState Reg.tlpTaqLevel; omega)
      (by unfold Reg.tlpThState Reg.tlpTagLast; omega) (tlpThPc_ne_state th).symm]
    exact hready
  have huth : u.thread th = { g.thread th with stalled := false } := by
    rw [State.thread, queued_th]
    exact thread_setThread_same _ _ _
  have hne : ¬ u.thState th = stHalted := by rw [hst]; decide
  refine (doUnit_accepted hpc hf ho ha hfull hacc).trans ?_
  dsimp only
  rw [traceTh_off th _ htr, if_neg hne]
  refine congrArg (fun x => (x, Ctl.acted)) (boundary_free ?_ ?_)
  · exact (congrArg Thread.stepping huth).trans h1
  · exact (congrArg Thread.haltReq huth).trans h2

end Sys2Proof.Machine

/-! AT.I, AT.R, AT.N and EVERY put an entry in the timed action queue (R94-R98). -/
namespace Sys2Proof.Machine

/-- A command whose instruction has ended otherwise than by going on. -/
theorem issue_acted {s f u : State} {th : Nat} {o : Op} {row : Instr} (h : State.Executes s th o f) (hr : o.row th = row)
    (hp : (f.begun th).perform th (f.duOf th) o = (u, .acted)) : s.issue th row = u := by
  rw [issue_executes h hr, hp]; rfl

/-- What a timed instruction leaves: the PC past both, the tag taken and in g_k, the entry under it. -/
theorem queued_effect {g : State} {th k tag p : Nat} {x : Issue} {rest : List Nat} (hp : p ≤ lastPc) (hk : k < 16)
    (htag : tag < 512) :
    let t := ((g.pastUnit th p).queued th x tag rest).setG th k (BitVec.ofNat 32 tag)
    t.pc th = p ∧ t.tags = rest ∧ t.g th k = BitVec.ofNat 32 tag ∧ t.entry? tag = some (x.entry th g.seq) ∧
      ∀ q, q ≠ tag → t.entry? q = g.entry? q := by
  intro t
  have hlevel : Reg.tlpThPc th ≠ Reg.tlpTaqLevel := by unfold Reg.tlpThPc Reg.tlpTaqLevel; omega
  have hlast : Reg.tlpThPc th ≠ Reg.tlpTagLast tag := by unfold Reg.tlpThPc Reg.tlpTagLast; omega
  refine ⟨?_, queued_tags _ _ _ _ _, reg_setReg_same _ _ _, ?_, fun q hq => ?_⟩
  · have hreg : t.reg (Reg.tlpThPc th) = (g.setPc th p).reg (Reg.tlpThPc th) :=
      (reg_setReg_ne _ _ _ _ (tlpThG_pc hk)).trans ((queued_reg _ _ _ _ hlevel hlast).trans (reg_setThread _ _ _ _))
    rw [State.pc, State.fld, hreg]
    exact setPc_pc g th p hp
  · exact (queued_entry? _ _ _ _ _ _).trans (if_pos rfl)
  · exact (queued_entry? _ _ _ _ _ _).trans (if_neg hq)

/-- A timed instruction whose issue has the values stated queues its entry. -/
theorem queues_of_issue {c : Nat → Instr} {p : Op} {k cookie count : Nat} {due : Nat → State → Word} {period : Nat → State → Option Nat}
    {quiet : Bool} (hk : k < 16) (hrow : ∀ th, p.row th = c th) (hexec : ∀ th s, exec (c th) s = .next (s.issue th (c th)))
    (hperform : ∀ (s : State) th u, s.perform th u p = s.doUnit th p)
    (hissue : ∀ (g : State) th a, (∀ n, period th g = some n → 1000 ≤ n ∧ n ≤ 2 ^ 30) →
      g.issueOf th p a none = (⟨a, due th g, cookie, period th g, count, quiet, none⟩, k)) :
    Queues c p k due cookie period count quiet := by
  intro s th f o g a tag rest h hpc hf ho ha hfull ht htag htrace hdue hper
  have hi := hissue g th a hper
  have hready : g.thState th = stReady := (fetchOp_ok_thState hf).trans (executes_ready (f := f) h.toExecutes)
  have hthread : g.thread th = (f.begun th).thread th := fetchOp_ok_thread hf th
  have hdo := doUnit_queued (s := f.begun th) (p := p) (rest := rest) hpc hf ho ha hfull ht (by rw [hi]) (by rw [hi]; exact hdue) htag htrace hready
    (by rw [hthread]; exact begun_stepping h) (by rw [hthread]; exact begun_haltReq h)
  rw [hi] at hdo
  obtain ⟨hpc', htags, hg, hentry, hother⟩ := queued_effect (g := g) (th := th) (rest := rest)
    (x := ⟨a, due th g, cookie, period th g, count, quiet, none⟩) hpc hk htag
  exact ⟨_, (hexec th s).trans (congrArg Host.Outcome.next (issue_acted h.toExecutes (hrow th) ((hperform _ _ _).trans hdo))),
    hpc', htags, hg, ⟨_, hentry, rfl, rfl, rfl, rfl, rfl, rfl, rfl, rfl⟩, hother⟩

/-- Settles O7: each timed instruction makes the issue of its own values, which is queued (`queues_of_issue`). -/
theorem timedEntriesQueue : Obligations.TimedEntriesQueue := by
  unfold Obligations.TimedEntriesQueue
  refine ⟨fun k c due hk => ?_, fun k c r off hk => ?_, fun k c off hk => ?_, fun k c r q quiet n hk => ?_⟩
  · exact queues_of_issue hk (fun _ => rfl) (fun _ _ => rfl) (fun _ _ _ => rfl) fun _ _ _ _ => rfl
  · exact queues_of_issue hk (fun _ => rfl) (fun _ _ => rfl) (fun _ _ _ => rfl) fun _ _ _ _ => rfl
  · exact queues_of_issue hk (fun _ => rfl) (fun _ _ => rfl) (fun _ _ _ => rfl) fun _ _ _ _ => rfl
  · refine queues_of_issue hk (fun _ => rfl) (fun _ _ => rfl) (fun _ _ _ => rfl) fun g th a hper => ?_
    have hin : ¬((g.g th q).toNat < 1000 ∨ 1073741824 < (g.g th q).toNat) := by
      have := hper _ rfl
      omega
    exact congrArg (fun b => ((⟨a, g.g th r, c, some (g.g th q).toNat, n, quiet, b⟩ : Issue), k)) (if_neg hin)

end Sys2Proof.Machine

/-! Action instructions that are not timed (R96, R100-R117), device registers and votes (R72-R74, R111-R114). -/
namespace Sys2Proof.Machine

/-! ## Untimed actions -/

theorem doAction1_ok {s : State} {th : Nat} {o : Op} {a : Action} {bad : Option Nat} (hpc : s.pc th ≠ lastPc)
    (ha : s.actionOf th o = .ok (a, bad)) :
    s.doAction1 th o = (((s.setPc th (s.pc th + 1)).untimed th a bad).boundary th, .acted) := by
  rw [State.doAction1, ha]
  exact if_neg hpc

/-- A command whose instruction is an untimed action of the values stated. -/
theorem issue_action {s f : State} {th : Nat} {o : Op} {row : Instr} {a : Action} {bad : Option Nat} (h : State.RunsOn s th o f)
    (hr : o.row th = row) (hp : (f.begun th).perform th (f.duOf th) o = (f.begun th).doAction1 th o)
    (ha : (f.begun th).actionOf th o = .ok (a, bad)) :
    s.issue th row = (((f.begun th).setPc th (f.pc th + 1)).untimed th a bad).boundary th :=
  issue_acted h.toExecutes hr (hp.trans (doAction1_ok (s := f.begun th) (Nat.ne_of_lt h.room) ha))

theorem acts_of_actionOf {c : Nat → Instr} {o : Op} {a : Nat → State → Action} {bad : Nat → State → Option Nat}
    (hrow : ∀ th, o.row th = c th) (hexec : ∀ th s, exec (c th) s = .next (s.issue th (c th)))
    (hperform : ∀ (s : State) th u, s.perform th u o = s.doAction1 th o)
    (ha : ∀ (f : State) th, (f.begun th).actionOf th o = .ok (a th f, bad th f)) : Acts c o a bad :=
  fun s th f h => (hexec th s).trans (congrArg Host.Outcome.next (issue_action h (hrow th) (hperform _ _ _) (ha f th)))

/-- Settles O9: each instruction's action is that of `State.actionOf`, carried out untimed. -/
theorem actionsReachTargets : Obligations.ActionsReachTargets := by
  unfold Obligations.ActionsReachTargets
  refine ⟨fun st sc k m => ?_, fun d c l i => ?_, fun d c b => ?_, fun k p => ?_, fun d x a => ?_, fun g p => ?_, fun l => ?_,
    fun c d => ?_, fun o => ?_⟩
  case refine_8 =>
    exact acts_of_actionOf (fun _ => rfl) (fun _ _ => rfl) (fun _ _ _ => rfl) fun _ _ => by cases d <;> rfl
  all_goals exact acts_of_actionOf (fun _ => rfl) (fun _ _ => rfl) (fun _ _ _ => rfl) fun _ _ => rfl

/-! ## Device registers -/

theorem actionOf_wreg {s : State} {th v imm off : Nat} {mk b : Option Nat} (h : s.regOffset th b imm = .ok off) :
    s.actionOf th (.wreg v mk b imm) = .ok (.wreg off (s.g th v) (match mk with
      | some r => s.g th r
      | none => 0xFFFFFFFF), none) := by
  cases mk <;> simp only [State.actionOf, h]

theorem actWreg_eq (s : State) (off : Nat) (val mask : Word) : s.actWreg off val mask =
    if s.regUp off = false then (s.downWrite, .refuse ccDown 0)
    else if s.r80Discards off then (s.tlpBadWrite, .refuse ccPrecond 3) else (s.writeReg none off val mask, {}) := by
  unfold State.actWreg
  cases s.regUp off <;> rfl

theorem doRreg_ok {s g : State} {th d imm off st : Nat} {b : Option Nat} {v : Word} (ho : s.regOffset th b imm = .ok off)
    (hh : s.holdsRead off = false) (hf : s.fetchReg (2 + th) off = (v, st, g)) : s.doRreg th d b imm = (g.setG th d v, .next) := by
  simp only [State.doRreg, ho, hh, hf, Bool.false_eq_true, if_false]

theorem rreg_completes {s f g : State} {th d imm off st : Nat} {b : Option Nat} {v : Word} (h : State.RunsOn s th (.rreg d b imm) f)
    (ho : f.regOffset th b imm = .ok off) (hh : f.holdsRead off = false) (hf : (f.begun th).fetchReg (2 + th) off = (v, st, g))
    (hpc : g.pc th = f.pc th) (hth : g.thread th = (f.begun th).thread th) (hd : d < 16) :
    exec (.rreg th) s = .next ((g.setG th d v).setPc th (f.pc th + 1)) := by
  have hp : (f.begun th).perform th (f.duOf th) (.rreg d b imm) = (g.setG th d v, .next) :=
    doRreg_ok (s := f.begun th) ho hh hf
  have hpc' : (g.setG th d v).pc th = f.pc th := (fld_setReg_ne _ _ _ _ _ _ (tlpThG_pc hd)).trans hpc
  exact congrArg Host.Outcome.next (issue_next h rfl hp hpc' ((congrArg Thread.stepping hth).trans (begun_stepping h))
    ((congrArg Thread.haltReq hth).trans (begun_haltReq h)))

theorem fetchReg_down {s : State} (who : Nat) {off : Nat} (hr : isRegOff off = true) (ha : off % 4 = 0) (hd : s.regUp off = false) :
    s.fetchReg who off = (downValue (blockBase off), mgDown, s) := by
  simp [State.fetchReg, hr, ha, hd]

/-! ## Votes -/

theorem unvote_completes {s f : State} {th d : Nat} (h : State.Executes s th (.unvote d) f) :
    exec (.unvote th) s = .next (((f.begun th).actVote th d none).advance th 1) :=
  congrArg Host.Outcome.next (issue_executes h rfl)

theorem vote_completes {s f : State} {th d p : Nat} (h : State.Executes s th (.vote d p) f) :
    let tag := if d = 15 then 16 + p else d
    let u := (f.begun th).actVote th d (some p)
    exec (.vote th) s = .next (if u.voteReached tag then u.advance th 1
      else if d ≠ 15 ∧ u.givenUp d then (u.setStat th stVoteFail true).advance th 1
      else (u.arm th tag 0 false none).setThState th stWaitVote) := by
  intro tag u
  have hp : (f.begun th).perform th (f.duOf th) (.vote d p) = if u.voteReached tag then (u, .next)
      else if d ≠ 15 ∧ u.givenUp d then (u.setStat th stVoteFail true, .next)
      else (u.arm th tag 0 false none, .wait stWaitVote) := rfl
  refine congrArg Host.Outcome.next ((issue_executes h rfl).trans ?_)
  rw [hp]
  by_cases hr : u.voteReached tag = true
  · rw [if_pos hr, if_pos hr]; rfl
  · rw [if_neg hr, if_neg hr]
    by_cases hg : d ≠ 15 ∧ u.givenUp d = true
    · rw [if_pos hg, if_pos hg]; rfl
    · rw [if_neg hg, if_neg hg]; rfl

/-- Settles O10: WREG and WREG.M are untimed actions, RREG goes on with the value read, the votes are `State.actVote`. -/
theorem deviceRegistersAndVotes : Obligations.DeviceRegistersAndVotes := by
  unfold Obligations.DeviceRegistersAndVotes
  refine ⟨fun s th v b imm off f h ho => ?_, fun s th v m b imm off f h ho => ?_, actWreg_eq,
    fun s th d b imm off f v st g h ho hh hf hpc hth hd => rreg_completes h ho hh hf hpc hth hd,
    fun s who off hr ha hd => fetchReg_down who hr ha hd, fun s th d f h => unvote_completes h, fun s th d p f h => vote_completes h⟩
  · exact congrArg Host.Outcome.next (issue_action h rfl rfl (actionOf_wreg (s := f.begun th) ho))
  · exact congrArg Host.Outcome.next (issue_action h rfl rfl (actionOf_wreg (s := f.begun th) ho))

end Sys2Proof.Machine

/-! Accumulators: the normal and the block-exponent rule, and the redundant sign count (R126, R127, R129). -/
namespace Sys2Proof.Machine

/-! ## Registers of an accumulator -/

section
variable (th n : Nat)

theorem accLo_ne_accHi : Reg.tlpThAccLo th n ≠ Reg.tlpThAccHi th n := by unfold Reg.tlpThAccLo Reg.tlpThAccHi; omega
theorem accExp_ne_accLo : Reg.tlpThAccExp th n ≠ Reg.tlpThAccLo th n := by unfold Reg.tlpThAccExp Reg.tlpThAccLo; omega
theorem accExp_ne_accHi : Reg.tlpThAccExp th n ≠ Reg.tlpThAccHi th n := by unfold Reg.tlpThAccExp Reg.tlpThAccHi; omega
theorem accExp_ne_stat : Reg.tlpThAccExp th n ≠ Reg.tlpThStat th := by unfold Reg.tlpThAccExp Reg.tlpThStat; omega
theorem stat_ne_accExp : Reg.tlpThStat th ≠ Reg.tlpThAccExp th n := (accExp_ne_stat th n).symm
theorem pc_ne_accLo : Reg.tlpThPc th ≠ Reg.tlpThAccLo th n := by unfold Reg.tlpThPc Reg.tlpThAccLo; omega
theorem pc_ne_accHi : Reg.tlpThPc th ≠ Reg.tlpThAccHi th n := by unfold Reg.tlpThPc Reg.tlpThAccHi; omega
theorem pc_ne_accExp : Reg.tlpThPc th ≠ Reg.tlpThAccExp th n := by unfold Reg.tlpThPc Reg.tlpThAccExp; omega

end

/-- An accumulator reads as its two words. -/
theorem acc_congr {s t : State} {th n : Nat} (hlo : t.reg (Reg.tlpThAccLo th n) = s.reg (Reg.tlpThAccLo th n))
    (hhi : t.reg (Reg.tlpThAccHi th n) = s.reg (Reg.tlpThAccHi th n)) : t.acc th n = s.acc th n := by
  rw [State.acc, State.acc, hlo, hhi]

theorem putAcc_satl (s : State) (th n : Nat) (v : Int) : (s.putAcc th n v).satl th n = s.satl th n := by
  rw [State.satl, State.flag, putAcc_reg _ _ _ _ (accExp_ne_accLo th n) (accExp_ne_accHi th n)]; rfl

theorem putAcc_accE (s : State) (th n : Nat) (v : Int) : (s.putAcc th n v).accE th n = s.accE th n := by
  rw [State.accE, State.fld, putAcc_reg _ _ _ _ (accExp_ne_accLo th n) (accExp_ne_accHi th n)]; rfl

theorem putAcc_pc (s : State) (th n : Nat) (v : Int) : (s.putAcc th n v).pc th = s.pc th := by
  rw [State.pc, State.fld, putAcc_reg _ _ _ _ (pc_ne_accLo th n) (pc_ne_accHi th n)]; rfl

theorem acc_range (s : State) (th n : Nat) : -(2 ^ 63 : Int) ≤ s.acc th n ∧ s.acc th n < 2 ^ 63 := by
  unfold State.acc sgn
  dsimp only
  split <;> omega

/-! ## The normal rule (R127) -/

theorem satS_64 (t : Int) : satS 64 t = if t < -(2 ^ 63) then -(2 ^ 63) else if 2 ^ 63 ≤ t then 2 ^ 63 - 1 else t := by
  simp only [satS, clampI]
  split_ifs <;> omega

theorem addNormal_latched {s : State} {th n : Nat} (u : Nat) (t : Int) (h : s.satl th n = true) : s.addNormal th u n t = s := if_pos h

theorem addBx_latched {s : State} {th n : Nat} (u : Nat) (q : Int) (h : s.satl th n = true) : s.addBx th u n q = s := if_pos h

theorem addNormal_fits {s : State} {th n : Nat} {t : Int} (u : Nat) (h : s.satl th n = false) (hlo : -(2 ^ 63 : Int) ≤ t) (hhi : t < 2 ^ 63) :
    s.addNormal th u n t = s.putAcc th n t := by
  have ht : satS 64 t = t := by rw [satS_64, if_neg (by omega), if_neg (by omega)]
  rw [State.addNormal, h, if_neg Bool.false_ne_true, if_pos ht]

/-- A sum outside 64 bits clamps, latches, and sets AOV and the unit's sticky bit. -/
theorem addNormal_clamps {s : State} {th n : Nat} {t : Int} (u : Nat) (h : s.satl th n = false) (ht : t < -(2 ^ 63 : Int) ∨ 2 ^ 63 ≤ t) :
    s.addNormal th u n t = (((s.putAcc th n (satS 64 t)).setFlag (Reg.tlpThAccExp th n) 5 true).setStat th (stAov n) true).raiseBit
      Reg.tlpDspSticky u := by
  have hne : ¬ satS 64 t = t := by rw [satS_64]; split_ifs <;> omega
  rw [State.addNormal, h, if_neg Bool.false_ne_true, if_neg hne]

/-- Registers of an accumulator and STAT lie apart from the units' sticky register and from the PBA. -/
theorem thread_regs_apart {th n : Nat} (hn : n < 4) : ∀ j ∈ [Reg.tlpThAccLo th n, Reg.tlpThAccHi th n, Reg.tlpThAccExp th n, Reg.tlpThStat th],
    j ≠ Reg.tlpDspSticky ∧ j ≠ Reg.hstMsixPba 0 ∧ j ≠ Reg.hstMsixPba 1 := by
  unfold Reg.tlpThAccLo Reg.tlpThAccHi Reg.tlpThAccExp Reg.tlpThStat Reg.tlpDspSticky Reg.hstMsixPba
  intro j hj
  simp only [List.mem_cons, List.not_mem_nil, or_false] at hj
  omega

theorem addNormal_clamped {s : State} {th n u : Nat} {t : Int} (hn : n < 4) (hu : u < 8) (h : s.satl th n = false)
    (ht : t < -(2 ^ 63 : Int) ∨ 2 ^ 63 ≤ t) :
    (s.addNormal th u n t).acc th n = satS 64 t ∧ (s.addNormal th u n t).satl th n = true ∧
    (s.addNormal th u n t).stat th (stAov n) = true ∧
    (s.up domCob = true → (s.addNormal th u n t).flag Reg.tlpDspSticky u = true) := by
  let v := ((s.putAcc th n (satS 64 t)).setFlag (Reg.tlpThAccExp th n) 5 true).setStat th (stAov n) true
  have hv : s.addNormal th u n t = v.raiseBit Reg.tlpDspSticky u := addNormal_clamps u h ht
  have hsame : ∀ j ∈ [Reg.tlpThAccLo th n, Reg.tlpThAccHi th n, Reg.tlpThAccExp th n, Reg.tlpThStat th],
      (v.raiseBit Reg.tlpDspSticky u).reg j = v.reg j := fun j hj => by
    obtain ⟨h1, h2, h3⟩ := thread_regs_apart hn j hj
    exact raiseBit_reg_ne v u h1 h2 h3
  have haov : stAov n < 32 := by unfold stAov; omega
  rw [hv]
  refine ⟨?_, ?_, ?_, fun hup => ?_⟩
  · rw [acc_congr (hsame _ (by simp)) (hsame _ (by simp)), setStat_acc,
      acc_congr (s := s.putAcc th n (satS 64 t)) (reg_setFlag_ne _ _ _ _ _ (accExp_ne_accLo th n).symm)
        (reg_setFlag_ne _ _ _ _ _ (accExp_ne_accHi th n).symm)]
    exact acc_putAcc s th n (by rw [satS_64]; split_ifs <;> omega) (by rw [satS_64]; split_ifs <;> omega)
  · rw [State.satl, State.flag, hsame _ (by simp)]
    exact (flag_setFlag_ne _ _ _ _ _ _ (accExp_ne_stat th n)).trans (flag_setFlag _ _ _ _ (by decide))
  · rw [State.stat, State.flag, hsame _ (by simp)]
    exact flag_setFlag _ _ _ _ haov
  · have hcob : v.up domCob = s.up domCob := up_congr (by
      have h1 : Reg.pwrDomStatus (domCob - 1) ≠ Reg.tlpThStat th := by unfold Reg.pwrDomStatus Reg.tlpThStat domCob; omega
      have h2 : Reg.pwrDomStatus (domCob - 1) ≠ Reg.tlpThAccExp th n := by unfold Reg.pwrDomStatus Reg.tlpThAccExp domCob; omega
      have h3 : Reg.pwrDomStatus (domCob - 1) ≠ Reg.tlpThAccLo th n := by unfold Reg.pwrDomStatus Reg.tlpThAccLo domCob; omega
      have h4 : Reg.pwrDomStatus (domCob - 1) ≠ Reg.tlpThAccHi th n := by unfold Reg.pwrDomStatus Reg.tlpThAccHi domCob; omega
      exact (reg_setFlag_ne _ _ _ _ _ h1).trans ((reg_setFlag_ne _ _ _ _ _ h2).trans (putAcc_reg _ _ _ _ h3 h4)))
    exact flag_raiseBit ((regUp_tlp v (by decide) (by decide)).trans (hcob.trans hup)) (by omega) (by decide) (by decide)

/-! ## The redundant sign count (R126) -/

theorem bitLen_le_iff (n k : Nat) : bitLen n ≤ k ↔ n < 2 ^ k := by
  unfold bitLen
  split
  · rename_i h
    simp [h]
  · rename_i h
    rw [Nat.add_one_le_iff, Nat.log2_lt h]

/-- The magnitude whose bits are counted: a negative number's complement. -/
def magnitude (v : Int) : Nat := if v < 0 then (-v - 1).toNat else v.toNat

theorem rs_eq (w : Nat) (v : Int) : rs w v = w - 1 - bitLen (magnitude v) := rfl

theorem magnitude_lt_iff (v : Int) (k : Nat) : magnitude v < 2 ^ k ↔ -(2 ^ k : Int) ≤ v ∧ v < 2 ^ k := by
  have hcast : ((2 ^ k : Nat) : Int) = 2 ^ k := Nat.cast_pow 2 k
  have hpos : 0 < 2 ^ k := Nat.two_pow_pos k
  rw [← hcast]
  generalize 2 ^ k = p at *
  unfold magnitude
  split <;> omega

/-- The count is above 3 where the value fits in 60 bits. -/
theorem rs_64_gt_iff (v : Int) : 3 < rs 64 v ↔ -(2 ^ 59 : Int) ≤ v ∧ v < 2 ^ 59 := by
  rw [← magnitude_lt_iff, ← bitLen_le_iff, rs_eq]
  omega

/-! ## The block-exponent rule (R129) -/

theorem two_pow_four_mul (e : Nat) : 2 ^ (4 * e) = 16 ^ e := by rw [Nat.pow_mul]

theorem addBx_room {s : State} {th n : Nat} (u : Nat) (q : Int) (h : s.satl th n = false) (hlo : -(2 ^ 59 : Int) ≤ s.acc th n)
    (hhi : s.acc th n < 2 ^ 59) : s.addBx th u n q = s.addNormal th u n (s.acc th n + q / (16 ^ s.accE th n : Nat)) := by
  have hrs : ¬(rs 64 (s.acc th n) ≤ 3 ∧ s.accE th n < 31) := fun hc =>
    absurd ((rs_64_gt_iff _).mpr ⟨hlo, hhi⟩) (Nat.not_lt.mpr hc.1)
  simp only [State.addBx, h, Bool.false_eq_true, if_false, if_neg hrs, two_pow_four_mul]

theorem rescale_open {s : State} {th n : Nat} (e : Nat) (h : s.satl th n = false) :
    s.rescale th n e = (s.putAcc th n (s.acc th n / 16)).setAccE th n e := by
  rw [State.rescale, h, if_neg Bool.false_ne_true]

theorem rescale_acc {s : State} {th n : Nat} (e : Nat) (h : s.satl th n = false) : (s.rescale th n e).acc th n = s.acc th n / 16 := by
  obtain ⟨hlo, hhi⟩ := acc_range s th n
  rw [rescale_open e h, State.setAccE, acc_congr (s := s.putAcc th n (s.acc th n / 16))
    (reg_setFld_ne _ _ _ _ _ _ (accExp_ne_accLo th n).symm) (reg_setFld_ne _ _ _ _ _ _ (accExp_ne_accHi th n).symm)]
  exact acc_putAcc s th n (by omega) (by omega)

theorem rescale_accE {s : State} {th n e : Nat} (h : s.satl th n = false) (he : e < 32) : (s.rescale th n e).accE th n = e := by
  rw [rescale_open e h]
  exact (fld_setFld _ _ _ _ _ (by decide)).trans (Nat.mod_eq_of_lt he)

theorem addBx_crowded {s : State} {th n : Nat} (u : Nat) (q : Int) (h : s.satl th n = false) (he : s.accE th n < 31)
    (hacc : s.acc th n < -(2 ^ 59 : Int) ∨ 2 ^ 59 ≤ s.acc th n) :
    s.addBx th u n q = (s.rescale th n (s.accE th n + 1)).addNormal th u n
      (s.acc th n / 16 + q / (16 ^ (s.accE th n + 1) : Nat)) := by
  have hrs : rs 64 (s.acc th n) ≤ 3 ∧ s.accE th n < 31 :=
    ⟨Nat.not_lt.mp fun hc => by have := (rs_64_gt_iff _).mp hc; omega, he⟩
  simp only [State.addBx, h, Bool.false_eq_true, if_false, if_pos hrs, two_pow_four_mul, rescale_acc _ h,
    rescale_accE h (Nat.succ_lt_succ he)]

/-- Settles O13: by what each rule does with a latched accumulator, a sum that fits, one that does not, and a crowded one. -/
theorem accumulatorRules : Obligations.AccumulatorRules := by
  unfold Obligations.AccumulatorRules
  refine ⟨fun s th u n t _ h => ⟨addNormal_latched u t h, addClamp_latched t h, addBx_latched u t h⟩,
    fun s th u n t _ h hlo hhi => ?_, fun s th u n t hn _ hu h ht => ?_, fun s th u n q _ h hlo hhi => addBx_room u q h hlo hhi,
    fun s th u n q _ h he hacc => ⟨_, rescale_acc _ h, rescale_accE h (Nat.succ_lt_succ he), addBx_crowded u q h he hacc⟩⟩
  · rw [addNormal_fits u h hlo hhi]
    exact ⟨acc_putAcc s th n hlo hhi, (putAcc_satl s th n t).trans h, fun off h1 h2 => putAcc_reg s th n t h1 h2⟩
  · obtain ⟨hacc, hrest⟩ := addNormal_clamped hn hu h ht
    refine ⟨?_, hrest⟩
    rw [hacc, satS_64]
    split_ifs <;> omega

end Sys2Proof.Machine

/-! Scalar multiply-accumulates (R132, R133), accumulator operations (R131, R137-R140) and the redundant sign count (R126). -/
namespace Sys2Proof.Machine

/-! ## Multiply-accumulate -/

/-- A command whose instruction goes on, with the end of an instruction as it is. -/
theorem exec_advance {s f u : State} {th : Nat} {o : Op} {row : Instr} (h : State.Executes s th o f) (hr : o.row th = row)
    (hexec : exec row s = .next (s.issue th row)) (hp : (f.begun th).perform th (f.duOf th) o = (u, .next)) :
    exec row s = .next (u.advance th 1) := by
  rw [hexec, issue_executes h hr, hp]; rfl

theorem scalarMul_mac (s : State) (th u n a b : Nat) (cj sb bx : Bool) :
    s.scalarMul th u .mac n a b cj sb bx = s.addNormal th u n (s.acc th n + s.x th a * s.x th b) := rfl

theorem scalarMul_msu (s : State) (th u n a b : Nat) (cj sb bx : Bool) :
    s.scalarMul th u .msu n a b cj sb bx = s.addNormal th u n (s.acc th n - s.x th a * s.x th b) := by
  rw [Int.sub_eq_add_neg]; rfl

theorem scalarMul_macbx (s : State) (th u n a b : Nat) (cj sb bx : Bool) : s.scalarMul th u .macbx n a b cj sb bx =
    s.addBx th u n (if sb then -(s.x th a * s.x th b) else s.x th a * s.x th b) := rfl

/-- The parts of a complex product, the second factor conjugated or not. -/
theorem mulQ_cmac (cj sb : Bool) (a b : Int × Int) : mulQ .cmac cj sb a b =
    let y := if cj then -b.2 else b.2
    (if sb then -(a.1 * b.1 - a.2 * y) else a.1 * b.1 - a.2 * y, if sb then -(a.1 * y + a.2 * b.1) else a.1 * y + a.2 * b.1) := by
  cases sb <;> rfl

theorem scalarMul_cmac (s : State) (th u n a b : Nat) (cj sb : Bool) (re im : Int)
    (hq : mulQ .cmac cj sb (s.x th a, s.x th (a + 1)) (s.x th b, s.x th (b + 1)) = (re, im)) :
    s.scalarMul th u .cmac n a b cj sb false =
      let t := s.addNormal th u n (s.acc th n + re)
      t.addNormal th u (n + 1) (t.acc th (n + 1) + im) := by
  rw [State.scalarMul, hq]
  simp only [State.addQ, Bool.false_eq_true, if_false]

theorem scalarMul_cmacBx (s : State) (th u n a b : Nat) (cj sb : Bool) (re im : Int)
    (hq : mulQ .cmac cj sb (s.x th a, s.x th (a + 1)) (s.x th b, s.x th (b + 1)) = (re, im)) :
    s.scalarMul th u .cmac n a b cj sb true = s.addPairBx th u n re im := by
  rw [State.scalarMul, hq]
  simp only [State.addQ, if_true]

theorem perform_mul (f : State) (th u n a b : Nat) (k : Mul) (cj sb bx : Bool) :
    f.perform th u (.mul k n a b cj sb bx) = (f.scalarMul th u k n a b cj sb bx, .next) := rfl

theorem begun_x (f : State) (th j i : Nat) : (f.begun th).x j i = f.x j i := rfl
theorem begun_acc (f : State) (th j n : Nat) : (f.begun th).acc j n = f.acc j n := rfl

/-- Settles O11: each instruction's addend is that of `mulQ`, added by its own rule. -/
theorem scalarMultiplyAccumulate : Obligations.ScalarMultiplyAccumulate := by
  unfold Obligations.ScalarMultiplyAccumulate
  refine ⟨fun s th n a b cj sb bx f h => ?_, fun s th n a b cj sb bx f h => ?_, fun s th n a b cj sb bx f h => exec_macs h.toExecutes,
    fun s th n a b cj sb bx f h => ?_, fun s th n a b cj sb f h => ?_, fun s th n a b cj sb f h => ?_⟩
  · exact exec_advance h.toExecutes rfl rfl (by rw [perform_mul, scalarMul_mac, begun_x, begun_x, begun_acc])
  · exact exec_advance h.toExecutes rfl rfl (by rw [perform_mul, scalarMul_msu, begun_x, begun_x, begun_acc])
  · exact exec_advance h.toExecutes rfl rfl (by rw [perform_mul, scalarMul_macbx, begun_x, begun_x])
  · refine exec_advance h.toExecutes rfl rfl ?_
    rw [perform_mul, scalarMul_cmac _ _ _ _ _ _ _ _ _ _ (mulQ_cmac _ _ _ _)]
    cases sb <;> rfl
  · refine exec_advance h.toExecutes rfl rfl ?_
    rw [perform_mul, scalarMul_cmacBx _ _ _ _ _ _ _ _ _ _ (mulQ_cmac _ _ _ _)]
    rfl

/-! ## CLRACC (R137) -/

theorem clearAcc_reg (s : State) (th n : Nat) (v : Int) {off : Nat} (h1 : off ≠ Reg.tlpThAccLo th n) (h2 : off ≠ Reg.tlpThAccHi th n)
    (h3 : off ≠ Reg.tlpThAccExp th n) : (s.clearAcc th n v).reg off = s.reg off :=
  (reg_setReg_ne _ _ _ _ h3).trans (putAcc_reg s th n v h1 h2)

theorem clearAcc_same (s : State) (th n : Nat) {v : Int} (hlo : -(2 ^ 63 : Int) ≤ v) (hhi : v < 2 ^ 63) :
    (s.clearAcc th n v).acc th n = v ∧ (s.clearAcc th n v).satl th n = false ∧ (s.clearAcc th n v).accE th n = 0 := by
  refine ⟨?_, ?_, ?_⟩
  · rw [State.clearAcc, acc_congr (s := s.putAcc th n v) (reg_setReg_ne _ _ _ _ (accExp_ne_accLo th n).symm)
      (reg_setReg_ne _ _ _ _ (accExp_ne_accHi th n).symm)]
    exact acc_putAcc s th n hlo hhi
  · rw [State.clearAcc, State.satl, State.flag, reg_setReg_same]; rfl
  · rw [State.clearAcc, State.accE, State.fld, reg_setReg_same]; rfl

theorem clearAcc_other (s : State) {th n k : Nat} (v : Int) (h : k ≠ n) :
    (s.clearAcc th n v).acc th k = s.acc th k ∧ (s.clearAcc th n v).satl th k = s.satl th k ∧
    (s.clearAcc th n v).accE th k = s.accE th k := by
  have hexp : (s.clearAcc th n v).reg (Reg.tlpThAccExp th k) = s.reg (Reg.tlpThAccExp th k) :=
    clearAcc_reg s th n v (by unfold Reg.tlpThAccExp Reg.tlpThAccLo; omega) (by unfold Reg.tlpThAccExp Reg.tlpThAccHi; omega)
      (by unfold Reg.tlpThAccExp; omega)
  have hlo : (s.clearAcc th n v).reg (Reg.tlpThAccLo th k) = s.reg (Reg.tlpThAccLo th k) :=
    clearAcc_reg s th n v (by unfold Reg.tlpThAccLo; omega) (by unfold Reg.tlpThAccLo Reg.tlpThAccHi; omega)
      (by unfold Reg.tlpThAccLo Reg.tlpThAccExp; omega)
  have hhi : (s.clearAcc th n v).reg (Reg.tlpThAccHi th k) = s.reg (Reg.tlpThAccHi th k) :=
    clearAcc_reg s th n v (by unfold Reg.tlpThAccHi Reg.tlpThAccLo; omega) (by unfold Reg.tlpThAccHi; omega)
      (by unfold Reg.tlpThAccHi Reg.tlpThAccExp; omega)
  refine ⟨acc_congr hlo hhi, ?_, ?_⟩
  · rw [State.satl, State.flag, hexp]; rfl
  · rw [State.accE, State.fld, hexp]; rfl

/-- Clearing a list of accumulators: those named hold `v`, the others stay. -/
theorem foldl_clearAcc (th : Nat) {v : Int} (hlo : -(2 ^ 63 : Int) ≤ v) (hhi : v < 2 ^ 63) (l : List Nat) (s : State) (k : Nat) :
    let t := l.foldl (fun t n => t.clearAcc th n v) s
    (k ∈ l → t.acc th k = v ∧ t.satl th k = false ∧ t.accE th k = 0) ∧
    (k ∉ l → t.acc th k = s.acc th k ∧ t.satl th k = s.satl th k ∧ t.accE th k = s.accE th k) := by
  induction l generalizing s with
  | nil => exact ⟨fun h => absurd h List.not_mem_nil, fun _ => ⟨rfl, rfl, rfl⟩⟩
  | cons n l ih =>
    obtain ⟨hin, hout⟩ := ih (s.clearAcc th n v)
    refine ⟨fun h => ?_, fun h => ?_⟩
    · by_cases hl : k ∈ l
      · exact hin hl
      · obtain rfl : k = n := (List.mem_cons.mp h).resolve_right hl
        obtain ⟨hacc, hsatl, hexp⟩ := hout hl
        obtain ⟨hacc', hsatl', hexp'⟩ := clearAcc_same s th k hlo hhi
        exact ⟨hacc.trans hacc', hsatl.trans hsatl', hexp.trans hexp'⟩
    · rw [List.mem_cons, not_or] at h
      obtain ⟨hacc, hsatl, hexp⟩ := hout h.2
      obtain ⟨hacc', hsatl', hexp'⟩ := clearAcc_other s v h.1
      exact ⟨hacc.trans hacc', hsatl.trans hsatl', hexp.trans hexp'⟩

/-- The value CLRACC clears to fits (R137). -/
theorem clracc_value (s : State) (th r : Nat) : -(2 ^ 63 : Int) ≤ s.x th r * 2 ^ 23 ∧ s.x th r * 2 ^ 23 < 2 ^ 63 := by
  unfold State.x sgn
  dsimp only
  split <;> omega

theorem clracc_effect (s : State) (th m : Nat) (x : Option Nat) {n : Nat} (hn : n < 4) :
    (s.clracc th m x).acc th n
      = (if m.testBit n then (match x with | some r => s.x th r * 2 ^ 23 | none => 0) else s.acc th n) ∧
    (m.testBit n = true → (s.clracc th m x).satl th n = false ∧ (s.clracc th m x).accE th n = 0) := by
  have hmem : n ∈ (List.range 4).filter (fun n => m.testBit n) ↔ m.testBit n = true := by
    rw [List.mem_filter, List.mem_range]
    exact and_iff_right hn
  have hfold : ∀ v : Int, -(2 ^ 63 : Int) ≤ v → v < 2 ^ 63 →
      let t := ((List.range 4).filter (fun n => m.testBit n)).foldl (fun t n => t.clearAcc th n v) s
      t.acc th n = (if m.testBit n then v else s.acc th n) ∧
        (m.testBit n = true → t.satl th n = false ∧ t.accE th n = 0) := by
    intro v hlo hhi
    obtain ⟨hin, hout⟩ := foldl_clearAcc th hlo hhi ((List.range 4).filter (fun n => m.testBit n)) s n
    by_cases hb : m.testBit n = true
    · rw [if_pos hb]
      exact ⟨(hin (hmem.mpr hb)).1, fun _ => (hin (hmem.mpr hb)).2⟩
    · rw [if_neg hb]
      exact ⟨(hout (fun h => hb (hmem.mp h))).1, fun h => absurd h hb⟩
  cases x with
  | none => exact hfold 0 (by decide) (by decide)
  | some r => exact hfold _ (clracc_value s th r).1 (clracc_value s th r).2

end Sys2Proof.Machine

/-! The redundant sign count (R126) and the accumulator operations to registers (R131, R137-R140). -/
namespace Sys2Proof.Machine

/-! ## Shifting by the redundant sign count -/

theorem magnitude_lt_bitLen (v : Int) : magnitude v < 2 ^ bitLen (magnitude v) := (bitLen_le_iff _ _).mp (Nat.le_refl _)

theorem bitLen_le {w : Nat} {v : Int} (hlo : -(2 ^ (w - 1) : Int) ≤ v) (hhi : v < 2 ^ (w - 1)) : bitLen (magnitude v) ≤ w - 1 :=
  (bitLen_le_iff _ _).mpr ((magnitude_lt_iff _ _).mpr ⟨hlo, hhi⟩)

theorem two_pow_mul_rs {w : Nat} {v : Int} (h : bitLen (magnitude v) ≤ w - 1) :
    (2 : Int) ^ bitLen (magnitude v) * 2 ^ rs w v = 2 ^ (w - 1) := by
  rw [← pow_add, rs_eq]
  congr 1
  omega

/-- Shifted left by the count a value still fits. -/
theorem mul_rs_range {w : Nat} {v : Int} (hlo : -(2 ^ (w - 1) : Int) ≤ v) (hhi : v < 2 ^ (w - 1)) :
    -(2 ^ (w - 1) : Int) ≤ v * 2 ^ rs w v ∧ v * 2 ^ rs w v < 2 ^ (w - 1) := by
  obtain ⟨h1, h2⟩ := (magnitude_lt_iff v _).mp (magnitude_lt_bitLen v)
  have hpos : (0 : Int) < 2 ^ rs w v := by positivity
  rw [← two_pow_mul_rs (bitLen_le hlo hhi), ← Int.neg_mul]
  exact ⟨Int.mul_le_mul_of_nonneg_right h1 hpos.le, Int.mul_lt_mul_of_pos_right h2 hpos⟩

theorem magnitude_eq_zero {v : Int} : magnitude v = 0 ↔ v = 0 ∨ v = -1 := by
  unfold magnitude
  split <;> omega

/-- By one more it does not, unless it is 0 or −1. -/
theorem mul_rs_succ {w : Nat} {v : Int} (hlo : -(2 ^ (w - 1) : Int) ≤ v) (hhi : v < 2 ^ (w - 1)) (h0 : v ≠ 0) (h1 : v ≠ -1) :
    v * 2 ^ (rs w v + 1) < -(2 ^ (w - 1) : Int) ∨ (2 ^ (w - 1) : Int) ≤ v * 2 ^ (rs w v + 1) := by
  have hne : magnitude v ≠ 0 := fun h => (magnitude_eq_zero.mp h).elim h0 h1
  obtain ⟨k, hk⟩ : ∃ k, bitLen (magnitude v) = k + 1 :=
    Nat.exists_eq_add_one.mpr (Nat.pos_of_ne_zero fun h => hne (by have := magnitude_lt_bitLen v; rw [h] at this; omega))
  have hout : ¬(-(2 ^ k : Int) ≤ v ∧ v < 2 ^ k) := fun h => by
    have := (bitLen_le_iff _ _).mpr ((magnitude_lt_iff v k).mpr h)
    omega
  have hpow : (2 : Int) ^ k * 2 ^ (rs w v + 1) = 2 ^ (w - 1) := by
    rw [← two_pow_mul_rs (bitLen_le hlo hhi), hk]
    ring
  have hpos : (0 : Int) < 2 ^ (rs w v + 1) := by positivity
  rw [← hpow, ← Int.neg_mul]
  by_cases hneg : v < -(2 ^ k : Int)
  · exact .inl (Int.mul_lt_mul_of_pos_right hneg hpos)
  · exact .inr (Int.mul_le_mul_of_nonneg_right (by omega) hpos.le)

theorem rs_of_zero {w : Nat} {v : Int} (h : v = 0 ∨ v = -1) : rs w v = w - 1 := by
  rw [rs_eq, magnitude_eq_zero.mpr h]; rfl

/-! ## Registers and flags that the operations write -/

/-- N, Z and V set (R83). -/
def State.setNZV (s : State) (th : Nat) (n z v : Bool) : State := (s.setNZ th n z).setStat th stV v

theorem setNZ_stat (s : State) (th : Nat) (n z : Bool) : (s.setNZ th n z).stat th stN = n ∧ (s.setNZ th n z).stat th stZ = z := by
  unfold State.setNZ
  exact ⟨(stat_setStat _ _ _ _ _ (by decide)).trans ((if_neg (by decide)).trans ((stat_setStat _ _ _ _ _ (by decide)).trans (if_pos rfl))),
    (stat_setStat _ _ _ _ _ (by decide)).trans (if_pos rfl)⟩

theorem setNZV_stat (s : State) (th : Nat) (n z v : Bool) : (s.setNZV th n z v).stat th stN = n ∧
    (s.setNZV th n z v).stat th stZ = z ∧ (s.setNZV th n z v).stat th stV = v := by
  obtain ⟨hn, hz⟩ := setNZ_stat s th n z
  unfold State.setNZV
  exact ⟨(stat_setStat_ne _ _ _ _ _ (by decide)).trans hn, (stat_setStat_ne _ _ _ _ _ (by decide)).trans hz,
    (stat_setStat _ _ _ _ _ (by decide)).trans (if_pos rfl)⟩

theorem State.SetsRegs.setNZ {s u : State} {offs : List Nat} {th : Nat} (h : s.SetsRegs u offs) (n z : Bool)
    (ho : Reg.tlpThStat th ∈ offs) : s.SetsRegs (u.setNZ th n z) offs := (h.setStat _ _ ho).setStat _ _ ho

theorem State.SetsRegs.setNZV {s u : State} {offs : List Nat} {th : Nat} (h : s.SetsRegs u offs) (n z v : Bool)
    (ho : Reg.tlpThStat th ∈ offs) : s.SetsRegs (u.setNZV th n z v) offs := (h.setNZ n z ho).setStat _ _ ho

theorem State.SetsRegs.putAcc {s u : State} {offs : List Nat} {th n : Nat} (h : s.SetsRegs u offs) (v : Int)
    (hlo : Reg.tlpThAccLo th n ∈ offs) (hhi : Reg.tlpThAccHi th n ∈ offs) : s.SetsRegs (u.putAcc th n v) offs :=
  (h.setReg _ hlo).setReg _ hhi

theorem setNZV_reg (s : State) {th off : Nat} (n z v : Bool) (h : off ≠ Reg.tlpThStat th) : (s.setNZV th n z v).reg off = s.reg off :=
  (reg_setFlag_ne _ _ _ _ _ h).trans (setNZ_reg _ _ _ _ _ h)

/-- A 24-bit number put into an x register reads back (R124). -/
theorem x_of_reg {t : State} {th i : Nat} {v : Int} (h : t.reg (Reg.tlpThX th i) = BitVec.ofNat 32 (unsgn 24 v))
    (hlo : -(2 ^ 23 : Int) ≤ v) (hhi : v < 2 ^ 23) : t.x th i = v := by
  have hlt : unsgn 24 v < 2 ^ 24 := by unfold unsgn; omega
  rw [State.x, h, BitVec.toNat_ofNat, Nat.mod_eq_of_lt (by omega)]
  exact sgn_unsgn (by decide) hlo hhi

theorem satS_24_range (y : Int) : -(2 ^ 23 : Int) ≤ satS 24 y ∧ satS 24 y < 2 ^ 23 := by
  simp only [satS, clampI]
  split_ifs <;> omega

section
variable {th d : Nat}

theorem tlpThX_ne_stat : Reg.tlpThX th d ≠ Reg.tlpThStat th := by unfold Reg.tlpThX Reg.tlpThStat; omega
theorem tlpThX_ne_pc : Reg.tlpThX th d ≠ Reg.tlpThPc th := by unfold Reg.tlpThX Reg.tlpThPc; omega
theorem tlpThG_ne_stat : Reg.tlpThG th d ≠ Reg.tlpThStat th := by unfold Reg.tlpThG Reg.tlpThStat; omega
theorem tlpThG_ne_pc : Reg.tlpThG th d ≠ Reg.tlpThPc th := by unfold Reg.tlpThG Reg.tlpThPc; omega

end

/-! ## RND (R138) -/

/-- The register RND writes. -/
def State.rounded (s : State) (th : Nat) (dg : Bool) (d : Nat) (z : Int) : State :=
  if dg then s.setG th d (BitVec.ofInt 32 z) else s.setX th d z

theorem rounded_setsRegs (s : State) (th : Nat) (dg : Bool) (d : Nat) (z : Int) :
    s.SetsRegs (s.rounded th dg d z) [Reg.tlpThG th d, Reg.tlpThX th d, Reg.tlpThStat th] :=
  .ite ((State.SetsRegs.refl _ _).setReg _ (by simp)) ((State.SetsRegs.refl _ _).setReg _ (by simp))

theorem rnd_completes {s f : State} {th n d rm : Nat} {dg e : Bool} {sh : Int} (h : State.RunsOn s th (.rnd n dg d rm e sh) f) :
    ∃ t, exec (.rnd th) s = .next t ∧ t.pc th = f.pc th + 1 ∧
      (let k : Int := sh + (if e then 4 * (f.accE th n : Int) else 0) - 23
       let y := roundAcc (f.acc th n) k rm
       let z := satS 24 y
       (if dg then t.g th d = BitVec.ofInt 32 z else t.x th d = z) ∧ t.stat th stN = decide (z < 0) ∧
       t.stat th stZ = (z == 0) ∧ t.stat th stV = (z != y)) := by
  let y := roundAcc (f.acc th n) (sh + (if e then 4 * (f.accE th n : Int) else 0) - 23) rm
  let z := satS 24 y
  let u := ((f.begun th).rounded th dg d z).setNZV th (z < 0) (z == 0) (z != y)
  have hs : (f.begun th).SetsRegs u [Reg.tlpThG th d, Reg.tlpThX th d, Reg.tlpThStat th] :=
    (rounded_setsRegs _ _ _ _ _).setNZV _ _ _ (by simp)
  have hp : (f.begun th).perform th (f.duOf th) (.rnd n dg d rm e sh) = (u, .next) := rfl
  obtain ⟨hissue, hmoves⟩ := runs_setsRegs (row := .rnd th) h rfl hp hs
    (by simp [tlpThG_ne_pc.symm, tlpThX_ne_pc.symm, tlpThPc_ne_stat])
  obtain ⟨hn, hz, hv⟩ := setNZV_stat ((f.begun th).rounded th dg d z) th (z < 0) (z == 0) (z != y)
  have hstat := setPc_stat u th (f.pc th + 1)
  refine ⟨_, congrArg Host.Outcome.next hissue, hmoves.1, ?_, (hstat _).trans hn, (hstat _).trans hz, (hstat _).trans hv⟩
  obtain ⟨hlo, hhi⟩ := satS_24_range y
  cases dg with
  | true =>
    rw [if_pos rfl, State.g, setPc_reg _ _ _ _ tlpThG_ne_pc, setNZV_reg _ _ _ _ tlpThG_ne_stat]
    exact reg_setReg_same _ _ _
  | false =>
    rw [if_neg Bool.false_ne_true]
    refine x_of_reg ?_ hlo hhi
    rw [setPc_reg _ _ _ _ tlpThX_ne_pc, setNZV_reg _ _ _ _ tlpThX_ne_stat]
    exact reg_setReg_same _ _ _

/-! ## SAT (R131, R137) -/

theorem satS_range {w : Nat} (a : Int) (hw : 1 ≤ w) (hw' : w ≤ 64) : -(2 ^ 63 : Int) ≤ satS w a ∧ satS w a < 2 ^ 63 := by
  have hpos : 0 < 2 ^ (w - 1) := Nat.two_pow_pos _
  have hle : 2 ^ (w - 1) ≤ 2 ^ 63 := Nat.pow_le_pow_right (by decide) (by omega)
  unfold satS clampI
  generalize 2 ^ (w - 1) = p at *
  split_ifs <;> omega

theorem sat_completes {s f : State} {th n w : Nat} (h : State.RunsOn s th (.sat n w) f) (hw : 1 ≤ w) (hw' : w ≤ 64) :
    ∃ t, exec (.sat th) s = .next t ∧ t.pc th = f.pc th + 1 ∧
      t.acc th n = (if f.satl th n then f.acc th n else satS w (f.acc th n)) ∧
      t.stat th stV = (t.acc th n != f.acc th n) ∧ t.stat th stN = decide (t.acc th n < 0) ∧ t.stat th stZ = (t.acc th n == 0) := by
  let z := if f.satl th n then f.acc th n else satS w (f.acc th n)
  let u := ((f.begun th).putAcc th n z).setNZV th (z < 0) (z == 0) (z != f.acc th n)
  have hs : (f.begun th).SetsRegs u [Reg.tlpThAccLo th n, Reg.tlpThAccHi th n, Reg.tlpThStat th] :=
    ((State.SetsRegs.refl _ _).putAcc _ (by simp) (by simp)).setNZV _ _ _ (by simp)
  have hp : (f.begun th).perform th (f.duOf th) (.sat n w) = (u, .next) := rfl
  obtain ⟨hissue, hmoves⟩ := runs_setsRegs (row := .sat th) h rfl hp hs (by simp [pc_ne_accLo, pc_ne_accHi, tlpThPc_ne_stat])
  obtain ⟨hn, hz, hv⟩ := setNZV_stat ((f.begun th).putAcc th n z) th (z < 0) (z == 0) (z != f.acc th n)
  have hrange : -(2 ^ 63 : Int) ≤ z ∧ z < 2 ^ 63 := by
    by_cases hc : f.satl th n = true
    · rw [show z = f.acc th n from if_pos hc]; exact acc_range f th n
    · rw [show z = satS w (f.acc th n) from if_neg hc]; exact satS_range _ hw hw'
  have hreg : ∀ {off}, off ≠ Reg.tlpThPc th → off ≠ Reg.tlpThStat th →
      (u.setPc th (f.pc th + 1)).reg off = ((f.begun th).putAcc th n z).reg off := fun h1 h2 =>
    (setPc_reg _ _ _ _ h1).trans (setNZV_reg _ _ _ _ h2)
  have hacc : (u.setPc th (f.pc th + 1)).acc th n = z :=
    (acc_congr (hreg (pc_ne_accLo th n).symm (tlpThStat_ne_accLo th n).symm)
      (hreg (pc_ne_accHi th n).symm (tlpThStat_ne_accHi th n).symm)).trans (acc_putAcc _ th n hrange.1 hrange.2)
  have hstat := setPc_stat u th (f.pc th + 1)
  refine ⟨_, congrArg Host.Outcome.next hissue, hmoves.1, hacc, ?_, ?_, ?_⟩
  · rw [hacc]; exact (hstat _).trans hv
  · rw [hacc]; exact (hstat _).trans hn
  · rw [hacc]; exact (hstat _).trans hz

/-! ## NORM (R139) -/

/-- The upper 24 of 64 bits, signed, are the quotient by 2^40. -/
theorem sgn_upper {v : Int} (hlo : -(2 ^ 63 : Int) ≤ v) (hhi : v < 2 ^ 63) : sgn 24 (unsgn 64 v / 2 ^ 40) = v / 2 ^ 40 := by
  unfold sgn unsgn
  dsimp only
  norm_num
  split <;> omega

theorem sgn_24_range (n : Nat) : -(2 ^ 23 : Int) ≤ sgn 24 n ∧ sgn 24 n < 2 ^ 23 := by
  unfold sgn
  dsimp only
  split <;> omega

theorem norm_completes {s f : State} {th n d e : Nat} (h : State.RunsOn s th (.norm n d e) f) (hd : d < 16) (he : e < 16) :
    ∃ t, exec (.norm th) s = .next t ∧ t.pc th = f.pc th + 1 ∧ t.g th e = BitVec.ofNat 32 (rs 64 (f.acc th n)) ∧
      (f.acc th n ≠ 0 → t.x th d = f.acc th n * (2 ^ rs 64 (f.acc th n) : Nat) / 2 ^ 40) ∧ (f.acc th n = 0 → t.x th d = 0) ∧
      t.stat th stN = decide (t.x th d < 0) ∧ t.stat th stZ = (t.x th d == 0) := by
  let r := rs 64 (f.acc th n)
  let m := sgn 24 (unsgn 64 (f.acc th n * (2 ^ r : Nat)) / 2 ^ 40)
  let v := ((f.begun th).setX th d m).setG th e (BitVec.ofNat 32 r)
  let u := v.setNZ th (m < 0) (m == 0)
  have hs : (f.begun th).SetsRegs u [Reg.tlpThX th d, Reg.tlpThG th e, Reg.tlpThStat th] :=
    (((State.SetsRegs.refl _ _).setReg _ (by simp)).setReg _ (by simp)).setNZ _ _ (by simp)
  have hp : (f.begun th).perform th (f.duOf th) (.norm n d e) = (u, .next) := rfl
  obtain ⟨hissue, hmoves⟩ := runs_setsRegs (row := .norm th) h rfl hp hs
    (by simp [tlpThG_ne_pc.symm, tlpThX_ne_pc.symm, tlpThPc_ne_stat])
  obtain ⟨hn, hz⟩ := setNZ_stat v th (m < 0) (m == 0)
  have hstat := setPc_stat u th (f.pc th + 1)
  have hne : Reg.tlpThX th d ≠ Reg.tlpThG th e := by unfold Reg.tlpThX Reg.tlpThG; omega
  have hxreg : (u.setPc th (f.pc th + 1)).reg (Reg.tlpThX th d) = BitVec.ofNat 32 (unsgn 24 m) :=
    (setPc_reg _ _ _ _ tlpThX_ne_pc).trans ((setNZ_reg _ _ _ _ _ tlpThX_ne_stat).trans
      ((reg_setReg_ne _ _ _ _ hne).trans (reg_setReg_same _ _ _)))
  have hx : (u.setPc th (f.pc th + 1)).x th d = m := x_of_reg hxreg (sgn_24_range _).1 (sgn_24_range _).2
  have hm : m = f.acc th n * (2 ^ r : Nat) / 2 ^ 40 := by
    obtain ⟨hlo, hhi⟩ := acc_range f th n
    obtain ⟨h1, h2⟩ := mul_rs_range (w := 64) hlo hhi
    have hcast : ((2 ^ r : Nat) : Int) = 2 ^ r := Nat.cast_pow 2 r
    exact sgn_upper (by rw [hcast]; exact h1) (by rw [hcast]; exact h2)
  refine ⟨_, congrArg Host.Outcome.next hissue, hmoves.1, ?_, fun _ => hx.trans hm, fun h0 => ?_, ?_, ?_⟩
  · rw [State.g, setPc_reg _ _ _ _ tlpThG_ne_pc, setNZ_reg _ _ _ _ _ tlpThG_ne_stat]
    exact reg_setReg_same _ _ _
  · rw [hx, hm, h0, Int.zero_mul]; rfl
  · rw [hx]; exact (hstat _).trans hn
  · rw [hx]; exact (hstat _).trans hz

end Sys2Proof.Machine

/-! EXP, SHACC and STACC to registers (R137, R140); the accumulator operations settled. -/
namespace Sys2Proof.Machine

/-- The count EXP gives, of an x register or of an accumulator. -/
def State.expCount (s : State) (th n : Nat) : Option Nat → Nat
  | some r => rs 24 (s.x th r)
  | none => rs 64 (s.acc th n)

/-- The value whose count EXP gives. -/
def State.expValue (s : State) (th n : Nat) : Option Nat → Int
  | some r => s.x th r
  | none => s.acc th n

theorem expOf_eq (s : State) (th n d : Nat) (x : Option Nat) : s.expOf th n x d =
    (s.setG th d (BitVec.ofNat 32 (s.expCount th n x))).setNZ th (s.expValue th n x < 0) (s.expValue th n x == 0) := by
  cases x <;> rfl

theorem exp_completes {s f : State} {th n d : Nat} {x : Option Nat} (h : State.RunsOn s th (.exp n x d) f) :
    ∃ t, exec (.exp th) s = .next t ∧ f.Moves t th (f.pc th + 1) [Reg.tlpThG th d, Reg.tlpThStat th] ∧
      t.g th d = BitVec.ofNat 32 (f.expCount th n x) := by
  let u := ((f.begun th).setG th d (BitVec.ofNat 32 ((f.begun th).expCount th n x))).setNZ th ((f.begun th).expValue th n x < 0)
    ((f.begun th).expValue th n x == 0)
  have hs : (f.begun th).SetsRegs u [Reg.tlpThG th d, Reg.tlpThStat th] :=
    ((State.SetsRegs.refl _ _).setReg _ (by simp)).setNZ _ _ (by simp)
  have hp : (f.begun th).perform th (f.duOf th) (.exp n x d) = (u, .next) := congrArg (·, Ctl.next) (expOf_eq _ _ _ _ _)
  have hcount : (f.begun th).expCount th n x = f.expCount th n x := by cases x <;> rfl
  obtain ⟨hissue, hmoves⟩ := runs_setsRegs (row := .exp th) h rfl hp hs (by simp [tlpThG_ne_pc.symm, tlpThPc_ne_stat])
  refine ⟨_, congrArg Host.Outcome.next hissue, hmoves, ?_⟩
  rw [State.g, setPc_reg _ _ _ _ tlpThG_ne_pc, setNZ_reg _ _ _ _ _ tlpThG_ne_stat, ← hcount]
  exact reg_setReg_same _ _ _

theorem shacc_completes {s f : State} {th n : Nat} {sh : Int} (h : State.RunsOn s th (.shacc n sh) f) :
    exec (.shacc th) s = .next (
      (if f.satl th n then f.begun th
       else if 0 ≤ sh then (f.begun th).addNormal th (f.duOf th) n (f.acc th n * (2 ^ sh.toNat : Nat))
       else (f.begun th).putAcc th n (f.acc th n / (2 ^ (-sh).toNat : Nat))).advance th 1) :=
  exec_advance h.toExecutes rfl rfl rfl

theorem staccG_completes {s f : State} {th n d : Nat} (h : State.RunsOn s th (.staccG n d) f) :
    ∃ t, exec (.stacc th) s = .next t ∧ f.Moves t th (f.pc th + 1) [Reg.tlpThG th d, Reg.tlpThG th (d + 1)] ∧
      t.g th d = f.reg (Reg.tlpThAccLo th n) ∧ t.g th (d + 1) = f.reg (Reg.tlpThAccHi th n) := by
  let u := ((f.begun th).setG th d (f.reg (Reg.tlpThAccLo th n))).setG th (d + 1) (f.reg (Reg.tlpThAccHi th n))
  have hs : (f.begun th).SetsRegs u [Reg.tlpThG th d, Reg.tlpThG th (d + 1)] :=
    ((State.SetsRegs.refl _ _).setReg _ (by simp)).setReg _ (by simp)
  have hp : (f.begun th).perform th (f.duOf th) (.staccG n d) = (u, .next) := rfl
  obtain ⟨hissue, hmoves⟩ := runs_setsRegs (row := .stacc th) h rfl hp hs (by simp [tlpThG_ne_pc.symm])
  have hne : Reg.tlpThG th d ≠ Reg.tlpThG th (d + 1) := by unfold Reg.tlpThG; omega
  refine ⟨_, congrArg Host.Outcome.next hissue, hmoves, ?_, ?_⟩
  · rw [State.g, setPc_reg _ _ _ _ tlpThG_ne_pc]
    exact (reg_setReg_ne _ _ _ _ hne).trans (reg_setReg_same _ _ _)
  · rw [State.g, setPc_reg _ _ _ _ tlpThG_ne_pc]
    exact reg_setReg_same _ _ _

/-- Settles O15: each operation by what it writes, the count by the magnitude's bits (`mul_rs_range`, `mul_rs_succ`). -/
theorem accumulatorOperations : Obligations.AccumulatorOperations := by
  unfold Obligations.AccumulatorOperations
  refine ⟨fun s th m x f h => exec_advance h.toExecutes rfl rfl rfl, fun s th m x n hn => clracc_effect s th m x hn,
    fun s th n dg d rm e sh f h _ => rnd_completes h, fun s th n w f h _ hw hw' => sat_completes h hw hw',
    fun s th n d e f h _ hd he => norm_completes h hd he, fun s th n x d f h _ _ => ?_, fun s th n sh f h _ => shacc_completes h,
    fun s th n d f h _ _ => staccG_completes h, fun w v _ hlo hhi => ?_⟩
  · obtain ⟨t, ht, hmoves, hg⟩ := exp_completes h
    exact ⟨t, ht, hmoves, hg.trans (by cases x <;> rfl)⟩
  · obtain ⟨h1, h2⟩ := mul_rs_range hlo hhi
    exact ⟨h1, h2, mul_rs_succ hlo hhi, rs_of_zero⟩

end Sys2Proof.Machine

/-! Block instructions hold their unit until BLOCK_COMPLETE (R121, R134-R136, R141, R144). -/
namespace Sys2Proof.Machine

/-! ## Counters of a whole register -/

theorem bits_word (w : Word) : bits w 31 0 = w.toNat := by
  rw [bits, Nat.shiftRight_zero]
  exact Nat.mod_eq_of_lt w.isLt

theorem setBits_word (w : Word) (v : Nat) : setBits w 31 0 v = BitVec.ofNat 32 v := by
  apply BitVec.eq_of_toNat_eq
  rw [← bits_word, bits_setBits _ _ _ _ (by decide), BitVec.toNat_ofNat]

/-- A 32-bit counter below its end rises by one (R12). -/
theorem bump_reg {s : State} {off : Nat} (h : s.reg off ≠ 0xFFFFFFFF) : (s.bump off).reg off = s.reg off + 1 := by
  have hlt : (s.reg off).toNat < 2 ^ 32 - 1 := by
    have h1 := (s.reg off).isLt
    have h2 : (s.reg off).toNat ≠ 2 ^ 32 - 1 := fun e => h (BitVec.eq_of_toNat_eq e)
    omega
  rw [State.bump, State.count, reg_setFld, if_pos rfl, setBits_word, State.fld, bits_word, satAdd, if_neg (by omega)]
  apply BitVec.eq_of_toNat_eq
  rw [BitVec.toNat_ofNat, BitVec.toNat_add]
  rfl

theorem bump_reg_ne (s : State) {off j : Nat} (h : j ≠ off) : (s.bump off).reg j = s.reg j := reg_setFld_ne _ _ _ _ _ _ h

/-- A flag set leaves a field beside it. -/
theorem fld_setFlag_beside (s : State) (off : Nat) {i hi lo : Nat} (b : Bool) (h : hi < i ∨ i < lo) (h32 : hi < 32) :
    (s.setFlag off i b).fld off hi lo = s.fld off hi lo := by
  rw [State.fld, reg_setFlag, if_pos rfl, bits_setBits_ne _ _ _ _ _ _ h h32]; rfl

/-! ## The issue of a block -/

/-- A command whose instruction is a block. -/
theorem issue_block {s f g : State} {th u : Nat} {ev : Bool} {o : Op} {row : Instr} (h : State.Executes s th o f) (hr : o.row th = row)
    (hp : (f.begun th).perform th (f.duOf th) o = asBlock th (g, none) u ev) :
    s.issue th row = (g.setFld (Reg.tlpDuStatus u) 19 16 th).holdUnit th u ev (skeep f.regs (isThState th)) := by
  rw [issue_executes h hr, hp]; rfl

/-- The commands of block multiply-accumulates, by operation (R134). -/
theorem row_mulB {k : Mul} {c : Nat → Instr} (h : k = .mac ∧ c = Instr.macB ∨ k = .msu ∧ c = Instr.msuB ∨ k = .macs ∧ c = Instr.macsB ∨
    k = .macbx ∧ c = Instr.macbxB ∨ k = .cmac ∧ c = Instr.cmacB) (n i j : Nat) (ca cb cj sb bx ev : Bool) (cnt : Src) (th : Nat) :
    (Op.mulB k n i j ca cb cj sb bx ev cnt).row th = c th ∧ ∀ s, exec (c th) s = .next (s.issue th (c th)) := by
  rcases h with ⟨rfl, rfl⟩ | ⟨rfl, rfl⟩ | ⟨rfl, rfl⟩ | ⟨rfl, rfl⟩ | ⟨rfl, rfl⟩ <;> exact ⟨rfl, fun _ => rfl⟩

/-! ## What a stream changes -/

/-- From `s` to `g` no register of the timeline processor and above has changed but address register `i` of thread `th`. -/
def State.Streamed (s g : State) (th i : Nat) : Prop := ∀ j, 0x100000 ≤ j → j ≠ Reg.tlpThA th i → g.reg j = s.reg j

theorem State.Streamed.trans {s t g : State} {th i : Nat} (h : s.Streamed t th i) (h' : t.Streamed g th i) : s.Streamed g th i :=
  fun j hj hne => (h' j hj hne).trans (h j hj hne)

theorem State.Streamed.setA {s g : State} {th i : Nat} (h : s.Streamed g th i) (v : Nat) : s.Streamed (g.setA th i v) th i :=
  fun j hj hne => (reg_setReg_ne _ _ _ _ hne).trans (h j hj hne)

theorem loadWord_streamed {s g : State} {ea : Nat} {v : Word} (th i : Nat) (h : s.loadWord ea = (.ok v, g)) : s.Streamed g th i := by
  obtain ⟨-, hp, rfl⟩ := loadWord_ok h
  exact fun j hj _ => readEcc_reg _ _ j hp (tlpTh_ne_eccCe hj _)

theorem streamWord_streamed {s g : State} {u ea : Nat} {v : Int} (th i : Nat) (h : s.streamWord u ea = (.ok v, g)) :
    s.Streamed g th i := by
  unfold State.streamWord at h
  split at h
  · cases h
  · cases hl : s.loadWord ea with
    | mk r t =>
      rw [hl] at h
      cases r with
      | error c => cases h
      | ok w =>
        cases h
        exact loadWord_streamed th i hl

theorem element_streamed {s g : State} {th u i : Nat} {c cx : Bool} {v : Int × Int} (h : s.element th u i c cx = (.ok v, g)) :
    s.Streamed g th i := by
  unfold State.element at h
  split at h
  · cases h
  · split at h
    · cases h
    · rename_i hre
      split at h
      · split at h
        · cases h
        · rename_i him
          cases h
          exact ((streamWord_streamed th i hre).trans (streamWord_streamed th i him)).setA _
      · cases h
        exact (streamWord_streamed th i hre).setA _

theorem bexpOver_streamed {s g : State} {th u i n m h : Nat} {c cx : Bool} (hb : s.bexpOver th u i c cx n m = (.ok h, g)) :
    s.Streamed g th i := by
  induction n generalizing s m with
  | zero =>
    cases hb
    exact fun _ _ _ => rfl
  | succ n ih =>
    rw [State.bexpOver] at hb
    split at hb
    · cases hb
    · rename_i he
      exact (element_streamed he).trans (ih hb)

/-! ## BEXP -/

/-- A fetch that gives an instruction has decoded it from a word. -/
theorem fetchOp_decodes {s g : State} {pc : Nat} {o : Op} (h : s.fetchOp pc = (.ok o, g)) : ∃ w, decodeOp w = some o := by
  unfold State.fetchOp at h
  split at h
  · cases h
  · obtain ⟨hok, -⟩ := Prod.mk.inj h
    split at hok
    · cases hok
    · split at hok
      · rename_i hd
        cases hok
        exact ⟨_, hd⟩
      · cases hok

/-- The operands of a BEXP name a g register and an address register (R141). -/
def Op.BexpRange : Op → Prop
  | .bexp d i _ _ _ _ => d < 16 ∧ i < 8
  | _ => True

theorem okIf_bexpRange {c : Bool} {o p : Op} (h : okIf c o = some p) (ho : o.BexpRange) : p.BexpRange :=
  (okIf_eq_some.mp h).2 ▸ ho

theorem decodeControl_bexpRange {m w : Nat} {o : Op} (h : decodeControl m w = some o) : o.BexpRange := by
  unfold decodeControl at h
  split at h
  case h_11 => cases h
  all_goals exact okIf_bexpRange h trivial

theorem decodeAluReg_bexpRange {m w : Nat} {o : Op} (h : decodeAluReg m w = some o) : o.BexpRange := by
  unfold decodeAluReg at h
  split at h
  · exact okIf_bexpRange h trivial
  · cases h

theorem decodeAluImm_bexpRange {m w : Nat} {o : Op} (h : decodeAluImm m w = some o) : o.BexpRange := by
  unfold decodeAluImm at h
  split at h
  · exact okIf_bexpRange h trivial
  · split at h
    · exact okIf_bexpRange h trivial
    · cases h

theorem decodeMem_bexpRange {m w : Nat} {c : Bool} {o : Op} (h : decodeMem m w c = some o) : o.BexpRange := by
  unfold decodeMem at h
  dsimp only at h
  split at h
  case h_3 => cases h
  all_goals exact okIf_bexpRange h trivial

theorem decodeTimed_bexpRange {m w : Nat} {o : Op} (h : decodeTimed m w = some o) : o.BexpRange := by
  unfold decodeTimed at h
  split at h
  case h_7 => cases h
  all_goals exact okIf_bexpRange h trivial

theorem decodePstate_bexpRange {w : Nat} {o : Op} (h : decodePstate w = some o) : o.BexpRange := by
  unfold decodePstate at h
  dsimp only at h
  split at h <;> exact okIf_bexpRange h trivial

theorem decodeGainset_bexpRange {w : Nat} {o : Op} (h : decodeGainset w = some o) : o.BexpRange := by
  unfold decodeGainset at h
  exact okIf_bexpRange h trivial

theorem decodeDevice_bexpRange {m w : Nat} {o : Op} (h : decodeDevice m w = some o) : o.BexpRange := by
  unfold decodeDevice at h
  dsimp only at h
  split at h
  case h_4 => cases h
  all_goals exact okIf_bexpRange h trivial

theorem decodeSync_bexpRange {m w : Nat} {o : Op} (h : decodeSync m w = some o) : o.BexpRange := by
  unfold decodeSync at h
  dsimp only at h
  split at h
  case h_8 => cases h
  all_goals exact okIf_bexpRange h trivial

theorem decodeDma_bexpRange {m w : Nat} {o : Op} (h : decodeDma m w = some o) : o.BexpRange := by
  unfold decodeDma at h
  split at h
  case h_5 => cases h
  all_goals exact okIf_bexpRange h trivial

theorem decodeX_bexpRange {m w : Nat} {o : Op} (h : decodeX m w = some o) : o.BexpRange := by
  unfold decodeX at h
  dsimp only at h
  split at h
  case h_3 => cases h
  all_goals exact okIf_bexpRange h trivial

theorem decodeMul_bexpRange {m w : Nat} {o : Op} (h : decodeMul m w = some o) : o.BexpRange := by
  unfold decodeMul at h
  dsimp only at h
  split at h
  case h_6 => cases h
  all_goals exact okIf_bexpRange h trivial

theorem decodeMulB_bexpRange {m w : Nat} {o : Op} (h : decodeMulB m w = some o) : o.BexpRange := by
  unfold decodeMulB at h
  dsimp only at h
  split at h
  case h_6 => cases h
  all_goals exact okIf_bexpRange h trivial

theorem decodeStacc_bexpRange {w : Nat} {o : Op} (h : decodeStacc w = some o) : o.BexpRange := by
  unfold decodeStacc at h
  split at h <;> exact okIf_bexpRange h trivial

theorem decodeCirc_bexpRange {m w : Nat} {o : Op} (h : decodeCirc m w = some o) : o.BexpRange := by
  unfold decodeCirc at h
  dsimp only at h
  split at h
  case h_3 => exact decodeMem_bexpRange h
  all_goals exact okIf_bexpRange h trivial

theorem decodeRadio_bexpRange {m w : Nat} {o : Op} (h : decodeRadio m w = some o) : o.BexpRange := by
  unfold decodeRadio at h
  dsimp only at h
  split at h
  case h_1 => exact decodePstate_bexpRange h
  case h_5 => exact decodeGainset_bexpRange h
  case h_7 => cases h
  all_goals exact okIf_bexpRange h trivial

theorem decodeAcc_bexpRange {m w : Nat} {o : Op} (h : decodeAcc m w = some o) : o.BexpRange := by
  unfold decodeAcc at h
  dsimp only at h
  split at h
  case h_7 => exact decodeStacc_bexpRange h
  case h_8 => cases h
  all_goals exact okIf_bexpRange h trivial

theorem decodeBexp_bexpRange {m w : Nat} {o : Op} (h : decodeBexp m w = some o) : o.BexpRange := by
  unfold decodeBexp at h
  dsimp only at h
  split at h
  · exact okIf_bexpRange h ⟨fw_lt w 51 48, fw_lt w 47 45⟩
  · cases h

theorem decodeOp_bexpRange {w : Nat} {o : Op} (h : decodeOp w = some o) : o.BexpRange := by
  unfold decodeOp at h
  dsimp only at h
  split at h
  case h_1 => exact decodeControl_bexpRange h
  case h_2 => exact decodeAluReg_bexpRange h
  case h_3 => exact decodeAluImm_bexpRange h
  case h_4 => exact decodeMem_bexpRange h
  case h_5 => exact decodeCirc_bexpRange h
  case h_6 => exact decodeTimed_bexpRange h
  case h_7 => exact decodeRadio_bexpRange h
  case h_8 => exact decodeDevice_bexpRange h
  case h_9 => exact decodeSync_bexpRange h
  case h_10 => exact decodeDma_bexpRange h
  case h_11 => exact decodeX_bexpRange h
  case h_12 => exact decodeMul_bexpRange h
  case h_13 => exact decodeMulB_bexpRange h
  case h_14 => exact decodeAcc_bexpRange h
  case h_15 => exact decodeBexp_bexpRange h
  case h_16 => cases h

/-- What BEXP leaves: the least count, or its minimum with what g_d holds, which the stream has left (R141). -/
theorem bexp_ok {s g : State} {th u d i n h : Nat} {c cx ac : Bool} (hd : d < 16) (hb : s.bexpOver th u i c cx n 23 = (.ok h, g)) :
    s.bexp th u d i c cx ac n = (g.setG th d (BitVec.ofNat 32 (if ac then min (g.g th d).toNat h else h)), none) := by
  have hne : Reg.tlpThG th d ≠ Reg.tlpThA th i := by unfold Reg.tlpThG Reg.tlpThA; omega
  have hg : g.g th d = s.g th d := bexpOver_streamed hb _ (by unfold Reg.tlpThG; omega) hne
  rw [State.bexp, hb, hg]

/-! ## A unit held -/

theorem blockMul_none (s : State) (th u n : Nat) (b : Streams) (m : Nat) : s.blockMul th u n b m 0 = (s, none) := by
  cases m <;> rfl

theorem holdUnit_flag (s : State) (th u : Nat) (ev : Bool) (old : List (Nat × Word)) :
    (s.holdUnit th u ev old).flag (Reg.tlpDuStatus u) 31 = true := by
  rw [State.holdUnit, flag_setThread]
  exact flag_setFlag _ _ _ _ (by decide)

theorem holdUnit_block (s : State) (th u : Nat) (ev : Bool) (old : List (Nat × Word)) :
    ((s.holdUnit th u ev old).thread th).block = some u := by
  rw [State.holdUnit, thread_setThread_same]

/-- A thread whose block runs does not issue (R121). -/
theorem issueIf_block {s : State} {th u : Nat} (h : (s.thread th).block = some u) (wanted : Op → Bool) : s.issueIf th wanted = s := by
  have hcan : s.canIssue th = false := by simp [State.canIssue, h]
  rw [State.issueIf, hcan]; rfl

theorem holdUnit_thread {s : State} {th u : Nat} (ev : Bool) (old : List (Nat × Word)) (hth : th < 16) :
    ((s.setFld (Reg.tlpDuStatus u) 19 16 th).holdUnit th u ev old).fld (Reg.tlpDuStatus u) 19 16 = th := by
  rw [State.holdUnit, fld_setThread, fld_setFlag_beside _ _ _ (.inl (by decide)) (by decide), fld_setFld _ _ _ _ _ (by decide)]
  exact Nat.mod_eq_of_lt hth

/-! ## BLOCK_COMPLETE -/

/-- The state after a block that waits for no event, before its thread goes on (R135). -/
def State.freed (s : State) (u th : Nat) : State :=
  let t := (s.setFlag (Reg.tlpDuStatus u) 31 false).bump (Reg.tlpDuBlocks u)
  t.setThread th { t.thread th with block := none, blockEv := false, saved := [] }

theorem endBlock_quiet {s : State} {u th : Nat} (h : s.flag (Reg.tlpDuStatus u) 31 = true) (hth : s.fld (Reg.tlpDuStatus u) 19 16 = th)
    (hev : (s.thread th).blockEv = false) : s.endBlock u = ((s.freed u th).advance th 1).watchdog th := by
  rw [State.endBlock, if_pos h]
  dsimp only
  rw [hth, hev]
  rfl

theorem freed_reg (s : State) {u th off : Nat} (h1 : off ≠ Reg.tlpDuStatus u) (h2 : off ≠ Reg.tlpDuBlocks u) :
    (s.freed u th).reg off = s.reg off := by
  rw [State.freed, reg_setThread, bump_reg_ne _ h2]
  exact reg_setFlag_ne _ _ _ _ _ h1

theorem duStatus_ne_duBlocks (u : Nat) : Reg.tlpDuStatus u ≠ Reg.tlpDuBlocks u := by
  unfold Reg.tlpDuStatus Reg.tlpDuBlocks; omega

theorem freed_thread (s : State) (u th : Nat) :
    (s.freed u th).thread th = { s.thread th with block := none, blockEv := false, saved := [] } := thread_setThread_same _ _ _

/-- A watchdog reads the state of its thread, its limit and its count (R78). -/
theorem wdtDue_congr {s t : State} {th : Nat} (hst : t.reg (Reg.tlpThState th) = s.reg (Reg.tlpThState th))
    (hw : t.reg (Reg.tlpThWdt th) = s.reg (Reg.tlpThWdt th)) (hc : (t.thread th).wdt = (s.thread th).wdt) :
    t.wdtDue th = s.wdtDue th := by
  simp only [State.wdtDue, State.wdtRuns, State.wdtLimit, State.thState, State.fld, State.flag, hst, hw, hc]

theorem watchdog_idle {s : State} {th : Nat} (h : s.wdtDue th = false) : s.watchdog th = s := by
  rw [State.watchdog, h]; rfl

theorem blockComplete_effect {s : State} {u th : Nat} (hu : u < 8) (hup : s.up domCob = true)
    (hflag : s.flag (Reg.tlpDuStatus u) 31 = true) (hth : s.fld (Reg.tlpDuStatus u) 19 16 = th)
    (hev : (s.thread th).blockEv = false) (h1 : (s.thread th).stepping = false) (h2 : (s.thread th).haltReq = false)
    (hwdt : s.wdtDue th = false) (hpc : s.pc th < lastPc) (hcnt : s.reg (Reg.tlpDuBlocks u) ≠ 0xFFFFFFFF) :
    ∃ t, exec (.blockComplete u) s = .next t ∧ t.flag (Reg.tlpDuStatus u) 31 = false ∧ t.pc th = s.pc th + 1 ∧
      t.reg (Reg.tlpDuBlocks u) = s.reg (Reg.tlpDuBlocks u) + 1 ∧ (t.thread th).block = none ∧ t.mem = s.mem ∧
      ∀ off, off ≠ Reg.tlpDuStatus u → off ≠ Reg.tlpDuBlocks u → off ≠ Reg.tlpThPc th → t.reg off = s.reg off := by
  have hpcs : Reg.tlpThPc th ≠ Reg.tlpDuStatus u := by unfold Reg.tlpThPc Reg.tlpDuStatus; omega
  have hpcb : Reg.tlpThPc th ≠ Reg.tlpDuBlocks u := by unfold Reg.tlpThPc Reg.tlpDuBlocks; omega
  have hsame : (s.freed u th).pc th = s.pc th := by rw [State.pc, State.fld, freed_reg s hpcs hpcb]; rfl
  have hadv : (s.freed u th).advance th 1 = (s.freed u th).setPc th (s.pc th + 1) :=
    (advance_free (by rw [hsame]; exact hpc) (by rw [freed_thread]; exact h1) (by rw [freed_thread]; exact h2)).trans (by rw [hsame])
  have hreg : ∀ off, off ≠ Reg.tlpDuStatus u → off ≠ Reg.tlpDuBlocks u → off ≠ Reg.tlpThPc th →
      ((s.freed u th).setPc th (s.pc th + 1)).reg off = s.reg off := fun off k1 k2 k3 =>
    (setPc_reg _ _ _ _ k3).trans (freed_reg s k1 k2)
  have hdue : ((s.freed u th).setPc th (s.pc th + 1)).wdtDue th = false := by
    have hstate := hreg (Reg.tlpThState th) (by unfold Reg.tlpThState Reg.tlpDuStatus; omega)
      (by unfold Reg.tlpThState Reg.tlpDuBlocks; omega) (tlpThPc_ne_state th).symm
    have hlimit := hreg (Reg.tlpThWdt th) (by unfold Reg.tlpThWdt Reg.tlpDuStatus; omega)
      (by unfold Reg.tlpThWdt Reg.tlpDuBlocks; omega) (by unfold Reg.tlpThWdt Reg.tlpThPc; omega)
    exact (wdtDue_congr hstate hlimit (by rw [State.setPc, thread_setFld, freed_thread])).trans hwdt
  have hexec : exec (.blockComplete u) s = .next ((s.freed u th).setPc th (s.pc th + 1)) := by
    refine congrArg Host.Outcome.next ((if_pos ⟨hu, hup⟩).trans ?_)
    rw [endBlock_quiet hflag hth hev, hadv, watchdog_idle hdue]
  refine ⟨_, hexec, ?_, setPc_pc _ _ _ hpc, ?_, ?_, rfl, hreg⟩
  · rw [State.flag, setPc_reg _ _ _ _ hpcs.symm, State.freed, reg_setThread, bump_reg_ne _ (duStatus_ne_duBlocks _)]
    exact flag_setFlag _ _ _ _ (by decide)
  · have hbase : (s.setFlag (Reg.tlpDuStatus u) 31 false).reg (Reg.tlpDuBlocks u) = s.reg (Reg.tlpDuBlocks u) :=
      reg_setFlag_ne _ _ _ _ _ (duStatus_ne_duBlocks _).symm
    rw [setPc_reg _ _ _ _ hpcb.symm, State.freed, reg_setThread, bump_reg (by rw [hbase]; exact hcnt), hbase]
  · rw [State.setPc, thread_setFld, freed_thread]

/-- Settles O14: a block's end is `State.holdUnit`, and BLOCK_COMPLETE undoes it (`blockComplete_effect`). -/
theorem blocksHoldTheirUnit : Obligations.BlocksHoldTheirUnit := by
  unfold Obligations.BlocksHoldTheirUnit
  refine ⟨fun k c hkc s th n i j ca cb cj sb bx ev cnt f g h hb => ?_, fun s th d i c cx ac cnt f g h hrun hb => ?_, blockMul_none,
    fun s th u ev old _ hth => ?_, fun s u th hu hup hflag hth _ hev h1 h2 hwdt hpc hcnt =>
      blockComplete_effect hu hup hflag hth hev h1 h2 hwdt hpc hcnt⟩
  · obtain ⟨hrow, hexec⟩ := row_mulB hkc n i j ca cb cj sb bx ev cnt th
    exact (hexec s).trans (congrArg Host.Outcome.next (issue_block h.toExecutes hrow (congrArg (asBlock th · _ ev) hb)))
  · obtain ⟨w, hw⟩ := fetchOp_decodes hrun.op
    exact congrArg Host.Outcome.next (issue_block hrun.toExecutes rfl
      (congrArg (asBlock th · _ false) (bexp_ok (decodeOp_bexpRange hw).1 hb)))
  · exact ⟨holdUnit_flag _ _ _ _ _, holdUnit_thread ev old hth,
      congrArg Host.Outcome.next (issueIf_block (holdUnit_block _ _ _ _ _) _), rfl⟩

end Sys2Proof.Machine

/-! Event latches (R67, R68): setting, clearing, waking; and what the answer on a port leaves of a state. -/
namespace Sys2Proof.Machine

/-! ## The status of a port -/

/-- What is read of a state beside its host ports stands behind an access. -/
theorem of_noted {β : Type} (P : State → β) (hP : ∀ (t : State) h, P { t with host := h } = P t) (s : State) (p : Port)
  (st : Nat) :
    P (s.noted p st) = P s := by
  cases p with
  | pcie => rfl
  | mgmt => exact hP s _

section
variable (s : State) (p : Port) (st : Nat)

@[simp] theorem mem_noted : (s.noted p st).mem = s.mem := of_noted State.mem (fun _ _ => rfl) s p st
@[simp] theorem taq_noted : (s.noted p st).taq = s.taq := of_noted State.taq (fun _ _ => rfl) s p st
@[simp] theorem th_noted : (s.noted p st).th = s.th := of_noted State.th (fun _ _ => rfl) s p st
@[simp] theorem nvm_noted : (s.noted p st).nvm = s.nvm := of_noted State.nvm (fun _ _ => rfl) s p st
@[simp] theorem pending_noted : (s.noted p st).pending = s.pending := of_noted State.pending (fun _ _ => rfl) s p st
@[simp] theorem ev_noted (j : Nat) : (s.noted p st).ev j = s.ev j := flag_noted ..

end

/-- A host write that reaches its register. -/
theorem next_hostReg {s t : State} {p : Port} {off : Nat} {f : State → State} (h : s.reaches p off = true) (hf : f s = t) :
    Host.Outcome.next (s.hostReg p off f) = (.next (t.noted p mgOk) : Host.Outcome State Fault Refusal) := by
  rw [hostReg_reaches s p off f h, hf]

/-- An access reaches a register only with its block up. -/
theorem regUp_of_reaches {s : State} {p : Port} {off : Nat} (h : s.reaches p off = true) : s.regUp off = true := by
  simp only [State.reaches, Bool.and_eq_true] at h
  exact h.1.2

/-! ## Threads that wake -/

/-- Progress written back thread by thread leaves what is read beside it. -/
theorem of_foldl_setThread {β : Type} (P : State → β) (hP : ∀ (t : State) h, P { t with th := h } = P t)
  (f : State → Nat → Thread)
    (l : List Nat) (s : State) : P (l.foldl (fun t i => t.setThread i (f t i)) s) = P s :=
  List.foldlRecOn (motive := fun t : State => P t = P s) l _ rfl fun t ht _ _ => (hP t _).trans ht

theorem foldl_setThread_reg (f : State → Nat → Thread) (l : List Nat) (s : State) (off : Nat) :
    (l.foldl (fun t i => t.setThread i (f t i)) s).reg off = s.reg off :=
  of_foldl_setThread (fun t => t.reg off) (fun _ _ => rfl) f l s

/-- Where every thread of a list gets its wait condition true, one whose condition is true keeps it. -/
theorem foldl_setThread_hit_keeps {f : State → Nat → Thread} (hf : ∀ t k, (f t k).hit = true) (l : List Nat) {s : State} {i : Nat}
    (h : (s.thread i).hit = true) : ((l.foldl (fun t k => t.setThread k (f t k)) s).thread i).hit = true := by
  refine List.foldlRecOn (motive := fun t : State => (t.thread i).hit = true) l _ h fun t ht k _ => ?_
  rw [thread_setThread]
  split
  · exact hf t k
  · exact ht

theorem foldl_setThread_hit {f : State → Nat → Thread} (hf : ∀ t k, (f t k).hit = true) {l : List Nat} (s : State) {i : Nat}
    (hi : i ∈ l) : ((l.foldl (fun t k => t.setThread k (f t k)) s).thread i).hit = true := by
  induction l generalizing s with
  | nil => cases hi
  | cons k l ih =>
    rw [List.foldl_cons]
    rcases List.mem_cons.mp hi with rfl | hi
    · exact foldl_setThread_hit_keeps hf l (by rw [thread_setThread_same]; exact hf s i)
    · exact ih _ hi

/-! ## A line that sets -/

/-- What is read of a state beside the capture engine stands when the sequencer counts a line. -/
theorem of_seqEv {β : Type} (P : State → β) (hP : ∀ (t : State) c, P { t with cap := c } = P t) (s : State) (j : Nat) :
    P (s.seqEv j) = P s := by
  unfold State.seqEv
  split
  · exact hP s _
  · rfl

/-- A line that sets changes registers, threads' progress and the capture engine's counter alone. -/
theorem of_setEv {β : Type} (P : State → β) (hP : ∀ (t : State) r h c, P { t with regs := r, th := h, cap := c } = P t)
  (s : State)
    (j : Nat) : P (s.setEv j) = P s := by
  unfold State.setEv
  split
  · rfl
  · dsimp only
    rw [of_seqEv P fun t c => hP t t.regs t.th c]
    split
    · refine (hP _ _ _ _).trans ((of_foldl_setThread P (fun t h => hP t t.regs h t.cap) _ _ _).trans (hP s _ _ _))
    · exact (of_foldl_setThread P (fun t h => hP t t.regs h t.cap) _ _ _).trans (hP s _ _ _)

section
variable (s : State) (j : Nat)

@[simp] theorem setEv_mem : (s.setEv j).mem = s.mem := of_setEv State.mem (fun _ _ _ _ => rfl) s j
@[simp] theorem setEv_taq : (s.setEv j).taq = s.taq := of_setEv State.taq (fun _ _ _ _ => rfl) s j
@[simp] theorem setEv_tags : (s.setEv j).tags = s.tags := of_setEv State.tags (fun _ _ _ _ => rfl) s j

end

/-- A line that sets writes no register but the word of its latch. -/
theorem setEv_reg_ne (s : State) {j off : Nat} (h : off ≠ Reg.tlpEv (j / 32)) : (s.setEv j).reg off = s.reg off := by
  unfold State.setEv
  split
  · rfl
  · dsimp only
    rw [of_seqEv (fun t => t.reg off) (fun _ _ => rfl)]
    split
    · rw [reg_setFlag_ne _ _ _ _ _ h, foldl_setThread_reg]
      exact reg_setFlag_ne _ _ _ _ _ h
    · rw [foldl_setThread_reg]
      exact reg_setFlag_ne _ _ _ _ _ h

/-- The latches of a state after one was set or cleared. -/
theorem ev_setFlag (s : State) (j k : Nat) (b : Bool) :
    (s.setFlag (Reg.tlpEv (j / 32)) (j % 32) b).ev k = if k = j then b else s.ev k := by
  unfold State.ev
  by_cases hkj : k = j
  · rw [if_pos hkj, hkj, flag_setFlag _ _ _ _ (by omega)]
  · rw [if_neg hkj]
    by_cases hw : k / 32 = j / 32
    · rw [hw, flag_setFlag_other _ _ _ _ _ (by omega) (by omega)]
    · rw [flag_setFlag_ne _ _ _ _ _ _ (by unfold Reg.tlpEv; omega)]

/-- The threads that a line wakes. -/
def State.wokenBy (s : State) (j : Nat) : List Nat :=
  (List.range 16).filter (fun i => s.thState i == stWaitEv && !(s.thread i).hit && wakesOn (s.thread i) j)

/-- The progress of a thread that its line wakes. -/
def State.wokenAt (j : Nat) (t : State) (i : Nat) : Thread :=
  { t.thread i with hit := true, hitVal := (t.reg (Reg.tlpEv (j / 32))) &&& (t.thread i).due }

theorem tlpThState_ne_ev (i : Nat) {j : Nat} (h : j < 256) : Reg.tlpThState i ≠ Reg.tlpEv (j / 32) := by
  unfold Reg.tlpThState Reg.tlpEv; omega

/-- `setEv` with COB up: the latch sets, the line's threads wake, and a consuming one clears the latch again (R67). -/
theorem setEv_up {s : State} {j : Nat} (hj : j < 256) (h : s.up domCob = true) :
    s.setEv j = (
      let u := (s.wokenBy j).foldl (fun t i => t.setThread i (State.wokenAt j t i)) (s.setFlag (Reg.tlpEv (j / 32)) (j % 32) true)
      if (s.wokenBy j).any (fun i => (s.thread i).series) then u.setFlag (Reg.tlpEv (j / 32)) (j % 32) false else u).seqEv j := by
  have hst : ∀ i, (s.setFlag (Reg.tlpEv (j / 32)) (j % 32) true).thState i = s.thState i := fun i =>
    fld_setFlag_ne _ _ _ _ _ _ _ (tlpThState_ne_ev i hj)
  unfold State.setEv State.wokenBy State.wokenAt
  rw [h]
  simp only [hst, thread_setFlag, Bool.not_true, Bool.false_eq_true, if_false]

/-- A line no thread awaits stays set (R67). -/
theorem setEv_unawaited {s : State} {j : Nat} (hj : j < 256) (h : s.up domCob = true)
    (hno : ∀ i, i < 16 → s.thState i = stWaitEv → wakesOn (s.thread i) j = false) :
    s.setEv j = (s.setFlag (Reg.tlpEv (j / 32)) (j % 32) true).seqEv j := by
  have hnone : s.wokenBy j = [] := by
    rw [State.wokenBy, List.filter_eq_nil_iff]
    intro i hi
    have := hno i (List.mem_range.mp hi)
    simp only [Bool.and_eq_true, beq_iff_eq, not_and]
    intro hwait
    rw [this hwait.1]
    decide
  rw [setEv_up hj h, hnone]
  rfl

/-- A thread that waits for a line is woken by it, and the latch is cleared again if it consumes (R67). -/
theorem setEv_wakes {s : State} {j i : Nat} (hj : j < 256) (h : s.up domCob = true) (hi : i < 16) (hst : s.thState i = stWaitEv)
    (hhit : (s.thread i).hit = false) (hw : wakesOn (s.thread i) j = true) :
    ((s.setEv j).thread i).hit = true ∧ ((s.thread i).series = true → (s.setEv j).ev j = false) := by
  have hmem : i ∈ s.wokenBy j := by
    rw [State.wokenBy, List.mem_filter]
    exact ⟨List.mem_range.mpr hi, by simp [hst, hhit, hw]⟩
  rw [setEv_up hj h]
  dsimp only
  constructor
  · rw [of_seqEv (fun t => t.thread i) fun _ _ => rfl]
    have hthread := foldl_setThread_hit (f := State.wokenAt j) (fun _ _ => rfl) (s.setFlag (Reg.tlpEv (j / 32))
      (j % 32) true) hmem
    split
    · exact hthread
    · exact hthread
  · intro hseries
    have hany : (s.wokenBy j).any (fun i => (s.thread i).series) = true := List.any_eq_true.mpr ⟨i, hmem, hseries⟩
    rw [of_seqEv (fun t => t.ev j) fun _ _ => rfl, hany, if_pos rfl, ev_setFlag, if_pos rfl]

/-- Settles O20: writes go through `hostReg_reaches`; what a line does is said by `setEv_unawaited` and `setEv_wakes`. -/
theorem eventLatches : Obligations.EventLatches := by
  unfold Obligations.EventLatches
  refine ⟨fun s p val hr hlt => ?_, fun s p val hr hge => ?_, fun s p j val hj hr => ?_, fun s j hj hup hno => ?_,
    fun s j i hj hup hi hst hhit hw => setEv_wakes hj hup hi hst hhit hw⟩
  · exact next_hostReg hr (if_pos hlt)
  · exact next_hostReg hr (if_neg (Nat.not_lt.mpr hge))
  · refine ⟨(s.writeEv j val).noted p mgOk, ?_, fun i hi => ?_, fun off hoff => ?_, ?_, ?_, ?_⟩
    · exact (congrArg Host.Outcome.next (if_pos hj)).trans (next_hostReg hr rfl)
    · have hword : (32 * j + i) / 32 = j := by omega
      have hbit : (32 * j + i) % 32 = i := by omega
      rw [ev_noted, State.ev, State.ev, hword, hbit, State.flag, State.writeEv, reg_setReg_same, bit, BitVec.getLsbD_and,
        BitVec.getLsbD_not, decide_eq_true hi, Bool.true_and]
      rfl
    · rw [reg_noted]
      exact reg_setReg_ne _ _ _ _ hoff
    · exact mem_noted _ _ _
    · exact taq_noted _ _ _
    · exact th_noted _ _ _
  · rw [setEv_unawaited hj hup hno]
    refine ⟨?_, fun k _ hne => ?_, ?_, ?_⟩
    · rw [of_seqEv (fun t => t.ev j) fun _ _ => rfl, ev_setFlag, if_pos rfl]
    · rw [of_seqEv (fun t => t.ev k) fun _ _ => rfl, ev_setFlag, if_neg hne]
    · exact of_seqEv State.mem (fun _ _ => rfl) _ _
    · exact of_seqEv State.th (fun _ _ => rfl) _ _

end Sys2Proof.Machine

/-! Register writes field by field (R8-R12): what a field of a register holds after a write of a whole word. -/
namespace Sys2Proof.Machine

/-! ## The fields of a declaration -/

/-- Whether the fields of a list lie beside one another, in 32 bits. -/
def tidyFields : List Field → Bool
  | [] => true
  | f :: fs => decide (f.hi < 32) && fs.all (fun g => decide (f.hi < g.lo) || decide (g.hi < f.lo)) && tidyFields fs

/-! ## A field after a write -/

/-- Fields written one after the other leave bits beside all of them. -/
theorem bits_foldl_fields_beside (v : Field → Nat) {l : List Field} (w : Word) {hi lo : Nat} (h32 : hi < 32)
    (h : ∀ g ∈ l, hi < g.lo ∨ g.hi < lo) : bits (l.foldl (fun w f => setBits w f.hi f.lo (v f)) w) hi lo = bits w hi lo := by
  refine List.foldlRecOn (motive := fun u => bits u hi lo = bits w hi lo) l _ rfl fun u hu g hg => ?_
  rw [bits_setBits_ne _ _ _ _ _ _ (h g hg) h32, hu]

/-- Each of tidy fields holds what it was given. -/
theorem bits_foldl_fields (v : Field → Nat) {l : List Field} (hl : tidyFields l = true) (w : Word) {f : Field} (hf : f ∈ l) :
    bits (l.foldl (fun w f => setBits w f.hi f.lo (v f)) w) f.hi f.lo = v f % 2 ^ (f.hi + 1 - f.lo) := by
  induction l generalizing w with
  | nil => cases hf
  | cons g l ih =>
    simp only [tidyFields, Bool.and_eq_true, decide_eq_true_eq, List.all_eq_true, Bool.or_eq_true] at hl
    obtain ⟨⟨h32, hbeside⟩, hl⟩ := hl
    rw [List.foldl_cons]
    rcases List.mem_cons.mp hf with rfl | hf
    · rw [bits_foldl_fields_beside v _ h32 hbeside, bits_setBits _ _ _ _ h32]
    · exact ih hl _ hf

/-- What a field takes fits it. -/
theorem Field.after_lt (f : Field) (lk : Bool) (old new ones : Word) : f.after lk old new ones < 2 ^ (f.hi + 1 - f.lo) := by
  have ho := bits_lt old f.hi f.lo
  have hn := bits_lt new f.hi f.lo
  have hz := Nat.two_pow_pos (f.hi + 1 - f.lo)
  unfold Field.after
  dsimp only
  split
  · split <;> assumption
  · split <;> assumption
  · exact Nat.lt_of_le_of_lt Nat.and_le_left ho
  · split <;> assumption
  · split <;> assumption
  all_goals assumption

/-- The lock bit of a block is in a register of its own. -/
theorem keepLock_of_ne {off : Nat} (h : ∀ r b, lockOf off = some (r, b) → off ≠ r)
  (old new : Word) : keepLock off old new = new := by
  unfold keepLock
  split
  · rename_i r b hl
    rw [if_neg fun hc => h r b hl hc.1]
  · rfl

/-- A block without a record of reserved values, in a register without lock: the write is this word. -/
theorem writeFields_eq {off : Nat} {d : RegDecl} (hd : declOf off = some d) (hr : reservedBit off = none)
    (hl : ∀ r b, lockOf off = some (r, b) → off ≠ r) (s : State) (val : Word) :
    s.writeFields off val 0xFFFFFFFF = s.setReg off (d.after (s.locked off) (s.reg off) val val) := by
  have hfull : (s.reg off &&& ~~~ (0xFFFFFFFF : Word)) ||| val = val := by
    have := masked_allOnes (s.reg off) val
    rwa [and_allOnes_word] at this
  simp only [State.writeFields, hd, hr, hfull, and_allOnes_word, keepLock_of_ne hl, ite_self]

/-- A register whose fields take every value, without lock: the write is this word. -/
theorem writeFields_open {off : Nat} {d : RegDecl} (hd : declOf off = some d) (ho : d.fields.all (fun f => f.ok.isEmpty) = true)
    (hl : ∀ r b, lockOf off = some (r, b) → off ≠ r) (s : State) (val : Word) :
    s.writeFields off val 0xFFFFFFFF = s.setReg off (d.after (s.locked off) (s.reg off) val val) := by
  have hfull : (s.reg off &&& ~~~ (0xFFFFFFFF : Word)) ||| val = val := by
    have := masked_allOnes (s.reg off) val
    rwa [and_allOnes_word] at this
  have hnone : d.fields.any (fun f => f.refused (s.locked off) val) = false := by
    refine List.any_eq_false.mpr fun f hf => ?_
    have haccepts : f.accepts (bits val f.hi f.lo) = true := by
      rw [Field.accepts, List.all_eq_true.mp ho f hf, Bool.true_or]
    unfold Field.refused
    split <;> simp [haccepts]
  simp only [State.writeFields, hd, hfull, and_allOnes_word, keepLock_of_ne hl, hnone, Bool.false_eq_true, if_false]

/-- A field of the register after a write of `val` (R8). -/
theorem fld_after {off : Nat} {d : RegDecl} (ht : tidyFields d.fields = true) {f : Field} (hf : f ∈ d.fields) (s : State)
  (lk : Bool)
    (old val : Word) : (s.setReg off (d.after lk old val val)).fld off f.hi f.lo = f.after lk old val val := by
  rw [State.fld, reg_setReg_same, RegDecl.after, bits_foldl_fields _ ht _ hf]
  exact Nat.mod_eq_of_lt (f.after_lt _ _ _ _)

theorem fld_writeFields {off : Nat} {d : RegDecl} (hd : declOf off = some d) (hr : reservedBit off = none)
    (hl : ∀ r b, lockOf off = some (r, b) → off ≠ r) (ht : tidyFields d.fields = true) {f : Field} (hf : f ∈ d.fields)
    (s : State) (val : Word) :
    (s.writeFields off val 0xFFFFFFFF).fld off f.hi f.lo = f.after (s.locked off) (s.reg off) val val := by
  rw [writeFields_eq hd hr hl, fld_after ht hf]

/-! ## Any write -/

/-- A register write touches registers and messages alone. -/
theorem writeFields_apart (s : State) (off : Nat) (val mask : Word) : (s.writeFields off val mask).apart = s.apart := by
  unfold State.writeFields
  split
  · rfl
  · dsimp only
    split
    · split
      · exact raiseBit_apart _ _ _
      · rfl
    · rfl

theorem reservedBit_mem {off r b : Nat} (h : reservedBit off = some (r, b)) : r = Reg.tmuSticky ∨ r = Reg.pwrSticky := by
  unfold reservedBit at h
  split at h
  · cases h; exact Or.inl rfl
  · cases h; exact Or.inr rfl
  · cases h

/-- A write leaves every register but its own, the records of reserved values and the PBA. -/
theorem writeFields_reg_ne (s : State) {off j : Nat} (val mask : Word) (h : j ≠ off) (ht : j ≠ Reg.tmuSticky)
  (hp : j ≠ Reg.pwrSticky)
    (h0 : j ≠ Reg.hstMsixPba 0) (h1 : j ≠ Reg.hstMsixPba 1) : (s.writeFields off val mask).reg j = s.reg j := by
  unfold State.writeFields
  split
  · rfl
  · dsimp only
    split
    · split
      · rename_i r b hr
        have hne : j ≠ r := by rcases reservedBit_mem hr with rfl | rfl <;> assumption
        rw [raiseBit_reg_ne _ _ hne h0 h1, reg_setReg_ne _ _ _ _ h]
      · exact reg_setReg_ne _ _ _ _ h
    · exact reg_setReg_ne _ _ _ _ h

end Sys2Proof.Machine

/-! Completion records enter the ring, or are dropped when it is full (R65). -/
namespace Sys2Proof.Machine

/-! ## Words one after the other -/

/-- A word of memory is read from its four bytes. -/
theorem rawWord_congr {s t : State} {a : Nat} (h : ∀ c, a ≤ c → c < a + 4 → t.byte c = s.byte c) : t.rawWord a = s.rawWord a := by
  rw [State.rawWord, State.rawWord, h a (by omega) (by omega), h (a + 1) (by omega) (by omega), h (a + 2) (by omega) (by omega),
    h (a + 3) (by omega) (by omega)]

theorem rawWord_putWord_ne (s : State) {a c : Nat} (w : Word) (h : c + 4 ≤ a ∨ a + 4 ≤ c) :
  (s.putWord a w).rawWord c = s.rawWord c :=
  rawWord_congr fun b _ _ => byte_putWord_ne s a b w (by omega)

theorem putWords_four (s : State) (a : Nat) (w x y z : Word) :
    s.putWords a [w, x, y, z] = (((s.putWord a w).putWord (a + 4) x).putWord (a + 8) y).putWord (a + 12) z := rfl

/-- Four words put from `a` on stand there. -/
theorem rawWord_putWords_four (s : State) (a : Nat) (w x y z : Word) :
    (s.putWords a [w, x, y, z]).rawWord a = w ∧ (s.putWords a [w, x, y, z]).rawWord (a + 4) = x ∧
      (s.putWords a [w, x, y, z]).rawWord (a + 8) = y ∧ (s.putWords a [w, x, y, z]).rawWord (a + 12) = z := by
  rw [putWords_four]
  refine ⟨?_, ?_, ?_, rawWord_putWord _ _ _⟩
  · rw [rawWord_putWord_ne _ _ (by omega), rawWord_putWord_ne _ _ (by omega), rawWord_putWord_ne _ _ (by omega), rawWord_putWord]
  · rw [rawWord_putWord_ne _ _ (by omega), rawWord_putWord_ne _ _ (by omega), rawWord_putWord]
  · rw [rawWord_putWord_ne _ _ (by omega), rawWord_putWord]

theorem putWords_byte_ne (l : List Word) (s : State) {a c : Nat} (h : c < a ∨ a + 4 * l.length ≤ c) :
    (s.putWords a l).byte c = s.byte c := by
  induction l generalizing s a with
  | nil => rfl
  | cons w l ih =>
    rw [List.length_cons] at h
    rw [State.putWords, ih _ (by omega), byte_putWord_ne _ _ _ _ (by omega)]

/-- Words put into memory change memory and check bits alone. -/
theorem of_putWords {β : Type} (P : State → β) (hP : ∀ (t : State) m e, P { t with mem := m, ecc := e } = P t) (l : List Word)
  (s : State)
    (a : Nat) : P (s.putWords a l) = P s := by
  have hbytes : ∀ (bs : List Byte) (t : State) b, P (t.putBytes b bs) = P t := by
    intro bs
    induction bs with
    | nil => exact fun _ _ => rfl
    | cons c bs ih => exact fun t b => (ih _ _).trans (hP t _ t.ecc)
  induction l generalizing s a with
  | nil => rfl
  | cons w l ih => exact (ih _ _).trans ((hP _ (s.putBytes a (wordBytes w)).mem _).trans (hbytes _ s a))

theorem putWords_reg (l : List Word) (s : State) (a off : Nat) : (s.putWords a l).reg off = s.reg off :=
  of_putWords (fun t => t.reg off) (fun _ _ _ => rfl) l s a

/-! ## The record -/

/-- The first word of a completion record (R65). -/
def State.recordHead (s : State) (e : Entry) (tag code : Nat) : Word :=
  BitVec.ofNat 32
    ((if s.fld Reg.tlpCrHead 15 0 / s.crSize % 2 = 0 then 1 else 0) * 2 ^ 31 + e.periodic.toNat * 2 ^ 30 + e.act.cls * 2 ^ 24
    + code * 2 ^ 16 + e.th * 2 ^ 12 + tag)

theorem cls_lt (a : Action) : a.cls < 64 := by
  unfold Action.cls
  split <;> omega

theorem bit_eq_div (w : Word) (i : Nat) : bit w i = (w.toNat / 2 ^ i % 2 == 1) := by
  rw [bit, BitVec.getLsbD, Nat.testBit_eq_decide_div_mod_eq]
  rfl

theorem bits_eq_div (w : Word) (hi lo : Nat) : bits w hi lo = w.toNat / 2 ^ lo % 2 ^ (hi + 1 - lo) := by
  rw [bits, Nat.shiftRight_eq_div_pow]

/-- Six parts packed into a word, each at its place. -/
theorem packed_parts {lap per cls code th tag : Nat} (hl : lap < 2) (hp : per < 2) (hcls : cls < 64) (hc : code < 256)
  (hth : th < 16)
    (ht : tag < 512) :
    let w : Word := BitVec.ofNat 32 (lap * 2 ^ 31 + per * 2 ^ 30 + cls * 2 ^ 24 + code * 2 ^ 16 + th * 2 ^ 12 + tag)
    bits w 8 0 = tag ∧ bits w 15 12 = th ∧ bits w 23 16 = code ∧ bits w 29 24 = cls ∧ bit w 30 = (per == 1) ∧ bit w 31 =
      (lap == 1) := by
  intro w
  have hw : w.toNat = lap * 2 ^ 31 + per * 2 ^ 30 + cls * 2 ^ 24 + code * 2 ^ 16 + th * 2 ^ 12 + tag := by
    rw [BitVec.toNat_ofNat]
    exact Nat.mod_eq_of_lt (by omega)
  have hper : w.toNat / 2 ^ 30 % 2 = per := by omega
  have hlap : w.toNat / 2 ^ 31 % 2 = lap := by omega
  rw [bit_eq_div, bit_eq_div, hper, hlap]
  simp only [bits_eq_div, hw]
  refine ⟨?_, ?_, ?_, ?_, trivial, trivial⟩ <;> omega

/-- The fields of the first word. -/
theorem recordHead_fields (s : State) {e : Entry} {tag code : Nat} (ht : tag < 512) (hth : e.th < 16) (hc : code < 256) :
    bits (s.recordHead e tag code) 8 0 = tag ∧ bits (s.recordHead e tag code) 15 12 = e.th ∧
      bits (s.recordHead e tag code) 23 16 = code ∧ bits (s.recordHead e tag code) 29 24 = e.act.cls ∧
      bit (s.recordHead e tag code) 30 = e.periodic ∧
      bit (s.recordHead e tag code) 31 = (s.fld Reg.tlpCrHead 15 0 / s.crSize % 2 == 0) := by
  have hlap : (if s.fld Reg.tlpCrHead 15 0 / s.crSize % 2 = 0 then 1 else 0) < 2 := by split <;> omega
  obtain ⟨htag, hthr, hcode, hcls, hper, hbit⟩ := packed_parts hlap (Bool.toNat_lt e.periodic) (cls_lt e.act) hc hth ht
  refine ⟨htag, hthr, hcode, hcls, hper.trans ?_, hbit.trans ?_⟩
  · cases e.periodic <;> rfl
  · by_cases h : s.fld Reg.tlpCrHead 15 0 / s.crSize % 2 = 0
    · rw [if_pos h, h]; rfl
    · rw [if_neg h, beq_eq_false_iff_ne.mpr h]; rfl

/-- The four words of a completion record (R65). -/
def State.recordWords (s : State) (e : Entry) (tag code : Nat) (due done : Word) (detail : Nat) : List Word :=
  [s.recordHead e tag code, due, done, BitVec.ofNat 32 (e.cookie * 2 ^ 16 + min detail 0xFFFF)]

/-- Words put at the head of the ring, before its level is looked at. -/
def State.recorded (s : State) (l : List Word) : State :=
  (s.putWords (s.crAddr (s.fld Reg.tlpCrHead 15 0)) l).setReg Reg.tlpCrHead
    (BitVec.ofNat 32 ((s.fld Reg.tlpCrHead 15 0 + 1) % 65536))

theorem recorded_mem (s : State) (l : List Word) :
    (s.recorded l).mem = (s.putWords (s.crAddr (s.fld Reg.tlpCrHead 15 0)) l).mem := rfl

theorem recorded_head (s : State) (l : List Word) :
    (s.recorded l).fld Reg.tlpCrHead 15 0 = (s.fld Reg.tlpCrHead 15 0 + 1) % 65536 := by
  rw [State.fld, State.recorded, reg_setReg_same, bits_eq_div, BitVec.toNat_ofNat]
  omega

/-- With room a record goes into the ring; the level may set event line 175 (R65, R66). -/
theorem record_room {s : State} (e : Entry) (tag code : Nat) (due done : Word) (detail : Nat) (h : s.crUsed ≠ s.crSize) :
    s.record e tag code due done detail = (s.recorded (s.recordWords e tag code due done detail)).setEv 175 ∨
      s.record e tag code due done detail = s.recorded (s.recordWords e tag code due done detail) := by
  rw [State.record, if_neg h]
  exact ite_eq_or_eq _ _ _

theorem record_full {s : State} (e : Entry) (tag code : Nat) (due done : Word) (detail : Nat) (h : s.crUsed = s.crSize) :
    s.record e tag code due done detail = (s.bump Reg.tlpCntCrDrop).raiseBit Reg.tlpSticky 19 := if_pos h

/-- Memory and the head after a record that has room. -/
theorem record_room_mem_head {s : State} (e : Entry) (tag code : Nat) (due done : Word) (detail : Nat) (h : s.crUsed ≠ s.crSize) :
    (s.record e tag code due done detail).mem = (s.recorded (s.recordWords e tag code due done detail)).mem ∧
      (s.record e tag code due done detail).fld Reg.tlpCrHead 15 0
        = (s.recorded (s.recordWords e tag code due done detail)).fld Reg.tlpCrHead 15 0 := by
  rcases record_room e tag code due done detail h with hr | hr
  · rw [hr]
    exact ⟨setEv_mem _ _, congrArg (bits · 15 0) (setEv_reg_ne _ (by decide))⟩
  · rw [hr]
    exact ⟨rfl, rfl⟩

theorem byte_congr_mem {s t : State} (h : t.mem = s.mem) (a : Nat) : t.byte a = s.byte a := by rw [State.byte, State.byte, h]

/-- A block of the timeline processor is down or up with COB. -/
theorem tlpSticky_up {s t : State} (h : t.up domCob = s.up domCob) (hup : s.up domCob = true) : t.regUp Reg.tlpSticky = true := by
  rw [regUp_tlp _ (by decide) (by decide), h, hup]

/-! ## Tail and configuration -/

theorem declOf_tlpCrBase : declOf Reg.tlpCrBase = some ⟨"TLP.CR_BASE", 0x100018, [], 0x0, [fd "ADDR" 20 4 .rw]⟩ := by decide +kernel
theorem declOf_tlpCrSize : declOf Reg.tlpCrSize = some ⟨"TLP.CR_SIZE", 0x10001C, [], 0x8, [fdr "LOG2" 3 0 .rw [(4, 12)]]⟩ := by
  decide +kernel

theorem lock_tlp_ne {off : Nat} (h : off ≠ Reg.tlpCtl) (hb : blockBase off = 0x100000) (r b : Nat) (hl : lockOf off = some
  (r, b)) :
    off ≠ r := by
  rw [lockOf, hb] at hl
  cases hl
  exact h

/-- The write of the base keeps its address bits, zeroing head and tail (R65). -/
theorem writeCrConfig_head_tail (s : State) (off : Nat) (val mask : Word) :
    (s.writeCrConfig off val mask).reg Reg.tlpCrHead = 0 ∧ (s.writeCrConfig off val mask).reg Reg.tlpCrTail = 0 :=
  ⟨(reg_setReg_ne _ _ _ _ (by decide)).trans (reg_setReg_same _ _ _), reg_setReg_same _ _ _⟩

theorem writeCrConfig_fld (s : State) {off : Nat} (val mask : Word) (hi lo : Nat) (h : off ≠ Reg.tlpCrHead)
  (ht : off ≠ Reg.tlpCrTail) :
    (s.writeCrConfig off val mask).fld off hi lo = (s.writeFields off val mask).fld off hi lo :=
  (fld_setReg_ne _ _ _ _ _ _ ht).trans (fld_setReg_ne _ _ _ _ _ _ h)

theorem writeFields_mem (s : State) (off : Nat) (val mask : Word) : (s.writeFields off val mask).mem = s.mem :=
  of_apart State.mem (fun _ => rfl) (writeFields_apart ..)

/-- A record with room (R65). -/
theorem record_enters (s : State) (e : Entry) (tag code : Nat) (due done : Word) (detail : Nat) (hroom : s.crUsed ≠ s.crSize) :
    let a := s.crAddr (s.fld Reg.tlpCrHead 15 0)
    let t := s.record e tag code due done detail
    t.rawWord a = s.recordHead e tag code ∧ t.rawWord (a + 4) = due ∧ t.rawWord (a + 8) = done ∧
    t.rawWord (a + 12) = BitVec.ofNat 32 (e.cookie * 2 ^ 16 + min detail 0xFFFF) ∧
    t.fld Reg.tlpCrHead 15 0 = (s.fld Reg.tlpCrHead 15 0 + 1) % 65536 ∧ ∀ b, b < a ∨ a + 16 ≤ b → t.byte b = s.byte b := by
  obtain ⟨hmem, hhead⟩ := record_room_mem_head e tag code due done detail hroom
  intro a t
  have hbyte : ∀ b, t.byte b = (s.putWords a (s.recordWords e tag code due done detail)).byte b :=
    byte_congr_mem (hmem.trans (recorded_mem _ _))
  have hword : ∀ b, t.rawWord b = _ := fun b => rawWord_congr fun c _ _ => hbyte c
  obtain ⟨h0, h1, h2, h3⟩ := rawWord_putWords_four s a (s.recordHead e tag code) due done
    (BitVec.ofNat 32 (e.cookie * 2 ^ 16 + min detail 0xFFFF))
  exact ⟨(hword _).trans h0, (hword _).trans h1, (hword _).trans h2, (hword _).trans h3, hhead.trans (recorded_head _ _),
    fun b hb => (hbyte b).trans (putWords_byte_ne _ s hb)⟩

/-- A record that finds the ring full (R65). -/
theorem record_dropped {s : State} (e : Entry) (tag code : Nat) (due done : Word) (detail : Nat) (hfull : s.crUsed = s.crSize)
    (hup : s.up domCob = true) :
    let t := s.record e tag code due done detail
    t.mem = s.mem ∧ t.fld Reg.tlpCrHead 15 0 = s.fld Reg.tlpCrHead 15 0 ∧ t.flag Reg.tlpSticky 19 = true := by
  have hreg : ∀ j, j ≠ Reg.tlpCntCrDrop → (s.bump Reg.tlpCntCrDrop).reg j = s.reg j := fun j hj => bump_reg_ne s hj
  dsimp only
  rw [record_full e tag code due done detail hfull]
  refine ⟨raiseBit_mem _ _ _, ?_, ?_⟩
  · rw [State.fld, raiseBit_reg_ne _ _ (by decide) (by decide) (by decide), hreg _ (by decide)]
    rfl
  · exact flag_raiseBit (tlpSticky_up (up_congr (hreg _ (by decide))) hup) (by decide) (by decide) (by decide)

/-- Where a write of CR_TAIL would put the tail. -/
theorem crTail_value (s : State) (val : Word) :
    bits ((s.reg Reg.tlpCrTail &&& ~~~ (0xFFFFFFFF : Word)) ||| (val &&& 0xFFFFFFFF)) 15 0 = val.toNat % 65536 := by
  rw [masked_allOnes, bits_eq_div, Nat.pow_zero, Nat.div_one]
  rfl

theorem writeCrTail_far {s : State} {val : Word}
    (h : s.crSize <
      (s.fld Reg.tlpCrHead 15 0 + 65536 - val.toNat % 65536) % 65536) : s.writeCrTail val 0xFFFFFFFF = s.tlpBadWrite := by
  unfold State.writeCrTail
  rw [crTail_value]
  exact if_pos h

theorem writeCrTail_near {s : State} {val : Word}
    (h : (s.fld Reg.tlpCrHead 15 0 + 65536 - val.toNat % 65536) % 65536 ≤ s.crSize) :
    s.writeCrTail val 0xFFFFFFFF = (s.setFld Reg.tlpCrTail 15 0 (val.toNat % 65536)).setEv 175 ∨
      s.writeCrTail val 0xFFFFFFFF = s.setFld Reg.tlpCrTail 15 0 (val.toNat % 65536) := by
  unfold State.writeCrTail
  rw [crTail_value]
  dsimp only
  rw [if_neg (Nat.not_lt.mpr h)]
  exact ite_eq_or_eq _ _ _

theorem writeCrTail_sets {s : State} {val : Word}
    (h : (s.fld Reg.tlpCrHead 15 0 + 65536 - val.toNat % 65536) % 65536 ≤ s.crSize) :
    let t := s.writeCrTail val 0xFFFFFFFF
    t.fld Reg.tlpCrTail 15 0 = val.toNat % 65536 ∧ t.mem = s.mem ∧ t.fld Reg.tlpCrHead 15 0 = s.fld Reg.tlpCrHead 15 0 := by
  have htail : (s.setFld Reg.tlpCrTail 15 0 (val.toNat % 65536)).fld Reg.tlpCrTail 15 0 = val.toNat % 65536 := by
    rw [fld_setFld _ _ _ _ _ (by decide)]
    exact Nat.mod_mod _ _
  have hhead := fld_setFld_ne s Reg.tlpCrTail 15 0 (val.toNat % 65536) Reg.tlpCrHead 15 0 (by decide)
  dsimp only
  rcases writeCrTail_near h with hw | hw
  · rw [hw, State.fld, setEv_reg_ne _ (by decide), setEv_mem, State.fld, setEv_reg_ne _ (by decide)]
    exact ⟨htail, rfl, hhead⟩
  · rw [hw]
    exact ⟨htail, rfl, hhead⟩

/-- A size out of its range leaves the size (R11). -/
theorem writeFields_crSize (s : State) (val : Word) :
    (s.writeFields Reg.tlpCrSize val 0xFFFFFFFF).fld Reg.tlpCrSize 3 0 =
      if 4 ≤ val.toNat % 16 ∧ val.toNat % 16 ≤ 12 then val.toNat % 16 else s.fld Reg.tlpCrSize 3 0 := by
  have hbits : bits val 3 0 = val.toNat % 16 := by
    rw [bits_eq_div, Nat.pow_zero, Nat.div_one]
    rfl
  have hfld := fld_writeFields declOf_tlpCrSize (by decide) (lock_tlp_ne (by decide) (by decide)) (by decide)
    (f := fdr "LOG2" 3 0 .rw [(4, 12)]) (by decide) s val
  refine hfld.trans ?_
  simp [Field.after, Field.accepts, fdr, hbits, State.fld]

theorem writeFields_crBase (s : State) (val : Word) :
    (s.writeFields Reg.tlpCrBase val 0xFFFFFFFF).fld Reg.tlpCrBase 20 4 = val.toNat / 16 % 2 ^ 17 := by
  have hfld := fld_writeFields declOf_tlpCrBase (by decide) (lock_tlp_ne (by decide) (by decide)) (by decide)
    (f := fd "ADDR" 20 4 .rw) (by decide) s val
  refine hfld.trans ?_
  simp [Field.after, Field.accepts, fd, bits_eq_div]

/-- Settles O18: what a record is, `record_enters` and `record_dropped`; what the writes are, `hostReg_reaches`. -/
theorem completionRing : Obligations.CompletionRing := by
  unfold Obligations.CompletionRing
  refine ⟨fun s e tag code due done detail hroom => ?_, fun s e tag code due done detail hfull hup =>
    record_dropped e tag code due done detail hfull hup, fun s p val hr hbad => next_hostReg hr (writeCrTail_far hbad),
    fun s p val hr hok => ?_, fun s p size val hr => ?_⟩
  · obtain ⟨h0, h1⟩ := record_enters s e tag code due done detail hroom
    intro a t
    refine ⟨fun ht hth hc => ?_, h1⟩
    rw [h0]
    exact recordHead_fields s ht hth hc
  · obtain ⟨htail, hmem, hhead⟩ := writeCrTail_sets hok
    exact ⟨_, next_hostReg hr rfl, (fld_noted ..).trans htail, (mem_noted ..).trans hmem, (fld_noted ..).trans hhead⟩
  · have hboth := fun off => writeCrConfig_head_tail s off val 0xFFFFFFFF
    refine ⟨_, next_hostReg hr rfl, (reg_noted ..).trans (hboth _).1, (reg_noted ..).trans (hboth _).2, ?_,
      (mem_noted _ _ _).trans (writeFields_mem s _ _ _)⟩
    cases size with
    | true => exact (fld_noted ..).trans ((writeCrConfig_fld s val _ 3 0 (by decide) (by decide)).trans
      (writeFields_crSize s val))
    | false => exact (fld_noted ..).trans ((writeCrConfig_fld s val _ 20 4 (by decide) (by decide)).trans
      (writeFields_crBase s val))

end Sys2Proof.Machine

/-! A dispatch whose action takes the time unit down (R58, R62); cancels of pending entries (R64). -/
namespace Sys2Proof.Machine

/-! ## A dispatch that stops the clock

The outcome of an action is judged by the time at which it was dispatched (R58). An UNVOTE of the TIME domain where nothing else
asks for it makes the domain fall at once, and with it network time; the clause of O17 judges in the state after the
action, whose clock then reads 0. -/

/-- An UNVOTE of TIME, due at 3 s. -/
def unvoteEntry : Entry :=
  { th := 0, act := .unvote domTime, due := 3000000000, cookie := 0, periodic := false, period := 0, count := 1,
    counted := true, quiet := false, seq := 0, flying := 0, closed := false }

/-- COB up by its vote, TIME up without one, the time 3 s, the entry under tag 0. -/
def unvoteState : State :=
  { State.reset with regs := [(Reg.pwrDomStatus 1, 0x12), (Reg.pwrDomStatus 9, 0x12),
    (Reg.pwrDomVote 1, 1)], taq := [(0, unvoteEntry)], time := { t := 2 ^ 53 * 3000000000 } }

/-- What the clause of O17 says of the dispatch, with `s` before it. -/
def State.judgedAfter (s : State) (tag : Nat) (e : Entry) : State :=
  let r := (s.setEntry tag e.take).doAction e.th e.act (.entry tag e.due) e.due e.seq
  if r.2.flying then r.1
  else r.1.complete tag e.due (r.1.outcome e.due r.2).1 (r.2.done.getD s.tns) (r.1.outcome e.due r.2).2

theorem unvoteState_next : unvoteState.up domCob = true ∧ unvoteState.nextDue 0 = true ∧ unvoteState.entry? 0 = some unvoteEntry := by
  decide +kernel

theorem unvoteEntry_once (b c : Bool) : (unvoteEntry.periodic && b && c) = false := rfl

/-- The model completes the entry with OK. -/
theorem unvote_ok : (unvoteState.taqDispatch 0).reg (Reg.tlpTagLast 0) = 0 := by decide +kernel

/-- The clause completes it with LATE. -/
theorem unvote_late : (unvoteState.judgedAfter 0 unvoteEntry).reg (Reg.tlpTagLast 0) = 1 := by decide +kernel

theorem exec_taqDispatch {s : State} {tag : Nat} (hup : s.up domCob = true) : exec (.taqDispatch tag) s = .next
  (s.taqDispatch tag) :=
  congrArg Host.Outcome.next (if_pos hup)

/-- The first clause of O17. -/
def JudgedAfterDispatch : Prop :=
  ∀ (s : State) tag e, s.up domCob = true → s.nextDue tag = true → s.entry? tag = some e →
    (e.periodic && decide (64 < (s.tns - e.due).toNat) && decide (s.fld Reg.tlpLateLimit 15 0 < (s.tns - e.due).toNat)) = false →
    exec (.taqDispatch tag) s = .next (s.judgedAfter tag e)

theorem judgedAfter_of_dispatch (h : Obligations.DueEntriesDispatch) : JudgedAfterDispatch := h.1

theorem taqDispatch_of_judgedAfter (h : JudgedAfterDispatch) :
    unvoteState.taqDispatch 0 = unvoteState.judgedAfter 0 unvoteEntry := by
  obtain ⟨hup, hnext, hentry⟩ := unvoteState_next
  exact Host.Outcome.next.inj
    ((exec_taqDispatch hup).symm.trans (h _ _ _ hup hnext hentry (unvoteEntry_once _ _)))

/-- Refutes O17: an UNVOTE on time whose target falls at once completes with OK, and by the first clause with LATE. -/
theorem not_dueEntriesDispatch : ¬ Obligations.DueEntriesDispatch := by
  intro h
  have hreg := unvote_late
  rw [← taqDispatch_of_judgedAfter (judgedAfter_of_dispatch h), unvote_ok] at hreg
  exact absurd hreg (by decide)

/-! ## Cancels -/

theorem cancel_eq {s : State} {tag : Nat} {e : Entry} (h : s.entry? tag = some e) (hs : e.spent = false) :
    s.cancel tag = (s.setEntry tag { e with closed := true }).finish tag { e with closed := true } ccCancelled e.due s.tns 0
      (e.flying == 0) := by
  rw [State.cancel, h]
  exact if_neg (by rw [hs]; exact Bool.false_ne_true)

theorem cancel_free {s : State} {tag : Nat} (h : s.entry? tag = none) : s.cancel tag = s := by
  rw [State.cancel, h]

theorem cancel_spent {s : State} {tag : Nat} {e : Entry} (h : s.entry? tag = some e)
  (hs : e.spent = true) : s.cancel tag = s := by
  rw [State.cancel, h]
  exact if_pos hs

/-- The value of TAQ_CANCEL with its MODE bit chosen. -/
theorem cancel_fields (val : Word) (b : Bool) :
    bit (putBit val 24 b) 24 = b ∧ bits (putBit val 24 b) 8 0 = val.toNat % 512 ∧
      bits (putBit val 24 b) 19 16 = val.toNat / 2 ^ 16 % 16 := by
  have hput : putBit val 24 b = setBits val 24 24 b.toNat := rfl
  rw [hput]
  refine ⟨bit_setBits_self _ _ _ (by decide), ?_, ?_⟩
  · rw [bits_setBits_ne _ _ _ _ _ _ (by decide) (by decide), bits_eq_div, Nat.pow_zero, Nat.div_one]
    rfl
  · rw [bits_setBits_ne _ _ _ _ _ _ (by decide) (by decide), bits_eq_div]
    rfl

theorem writeTaqCancel_tag (s : State) (val : Word) : s.writeTaqCancel (putBit val 24 false) = s.cancel (val.toNat % 512) := by
  obtain ⟨hmode, htag, -⟩ := cancel_fields val false
  rw [State.writeTaqCancel, hmode, htag]
  rfl

theorem writeTaqCancel_thread (s : State) (val : Word) :
    s.writeTaqCancel (putBit val 24 true) = s.cancelThread (val.toNat / 2 ^ 16 % 16) := by
  obtain ⟨hmode, -, hth⟩ := cancel_fields val true
  rw [State.writeTaqCancel, hmode, hth]
  rfl

/-- Settles O19: the write of TAQ_CANCEL cancels (`writeTaqCancel_tag`), entry by entry as `cancel_eq` says. -/
theorem cancelsEndEntries : Obligations.CancelsEndEntries := by
  unfold Obligations.CancelsEndEntries
  refine ⟨fun s p val e hr he hs hf => ?_, fun s p val hr he => ?_, fun s p val e hr he hs => ?_, fun s p val e hr he hs hf => ?_,
    fun s p val hr => ?_⟩
  · refine next_hostReg hr ((writeTaqCancel_tag s val).trans ((cancel_eq he hs).trans ?_))
    rw [beq_iff_eq.mpr hf]
  · exact next_hostReg hr ((writeTaqCancel_tag s val).trans (cancel_free he))
  · exact next_hostReg hr ((writeTaqCancel_tag s val).trans (cancel_spent he hs))
  · refine next_hostReg hr ((writeTaqCancel_tag s val).trans ((cancel_eq he hs).trans ?_))
    rw [beq_eq_false_iff_ne.mpr hf]
  · exact next_hostReg hr (writeTaqCancel_thread s val)

end Sys2Proof.Machine

/-! Votes and targets of domains (R440, R441); the Cobalt working point (R447). -/
namespace Sys2Proof.Machine

/-! ## Votes -/

theorem setVotes_vote (s : State) (d : Dom) (v : Word) : (s.setVotes d v).vote d = v := by
  unfold State.setVotes
  dsimp only
  split_ifs
  · exact reg_setReg_same _ _ _
  · exact reg_setReg_same _ _ _
  · exact reg_setReg_same _ _ _

theorem setVotes_reg_ne (s : State) {d : Dom} (v : Word) {off : Nat} (h : off ≠ Reg.pwrDomVote (d - 1)) :
    (s.setVotes d v).reg off = s.reg off := by
  unfold State.setVotes
  dsimp only
  split_ifs
  · exact reg_setReg_ne _ _ _ _ h
  · exact reg_setReg_ne _ _ _ _ h
  · exact reg_setReg_ne _ _ _ _ h

theorem bit_putBit (w : Word) {i : Nat} (b : Bool) (h : i < 32) : bit (putBit w i b) i = b := bit_setBits_self _ _ _ h

/-- The hold timer starts as the last vote goes, and stops at a vote (R441). -/
theorem setVotes_hold (s : State) {d : Dom} (v : Word) (hd : d < 32) :
    bit (s.setVotes d v).pwr.hold d = (if v ≠ 0 then false else bit s.pwr.hold d || s.vote d != 0) := by
  unfold State.setVotes
  dsimp only
  by_cases hv : v = 0
  · by_cases ho : s.vote d = 0
    · simp [hv, ho]
    · rw [if_pos ⟨ho, hv⟩, if_neg (not_not.mpr hv), bne_iff_ne.mpr ho, Bool.or_true]
      exact bit_putBit _ _ hd
  · rw [if_neg (fun h => hv h.2), if_pos hv, if_pos hv]
    exact bit_putBit _ _ hd

theorem writeVote_dom (s : State) (p : Port) {d : Nat} (val : Word) (h1 : 1 ≤ d) (h11 : d ≤ 11) :
    s.writeVote (some p) (Reg.pwrDomVote (d - 1)) val 0xFFFFFFFF =
      (s.setVotes d (putBit (s.vote d) (if p = .pcie then 0 else 1) (val.getLsbD (if p = .pcie then 0 else 1)))).powerEval := by
  have hoff : Reg.pwrDomVote (d - 1) < 0x10200 := by unfold Reg.pwrDomVote; omega
  have hdom : (Reg.pwrDomVote (d - 1) - 0x10100) / 16 = d := by unfold Reg.pwrDomVote; omega
  cases p with
  | pcie =>
    have hcond : 1 ≤ d ∧ d ≤ 11 ∧ bit (0xFFFFFFFF : Word) 0 = true := ⟨h1, h11, by decide⟩
    rw [State.writeVote]
    simp only [clientOf, hdom]
    rw [if_pos hoff, if_pos hcond]
    rfl
  | mgmt =>
    have hcond : 1 ≤ d ∧ d ≤ 11 ∧ bit (0xFFFFFFFF : Word) 1 = true := ⟨h1, h11, by decide⟩
    rw [State.writeVote]
    simp only [clientOf, hdom]
    rw [if_pos hoff, if_pos hcond]
    rfl

/-! ## Targets -/

/-- The domains from `d` on, and those from the ones above it. -/
theorem domsFrom_eq : ∀ d, d < 12 → domsFrom d = d :: (domsAbove d).flatMap domsFrom := by decide

theorem mem_domsAbove {d e : Nat} (hd : d ≠ 0) : e ∈ domsAbove d ↔ 1 ≤ e ∧ e ≤ 11 ∧ domRequires e = d := by
  unfold domsAbove
  rw [List.mem_filter, List.mem_range]
  have hlt : e < 12 ↔ e ≤ 11 := Nat.lt_succ_iff
  simp [hd, hlt, and_left_comm]

/-- A domain's target is its own, or that of a domain above it (R441). -/
theorem domTarget_iff (s : State) {d : Nat} (h1 : 1 ≤ d) (h11 : d ≤ 11) : s.domTarget d = true ↔ s.ownTarget d = true ∨
    ∃ e, 1 ≤ e ∧ e ≤ 11 ∧ domRequires e = d ∧ s.domTarget e = true := by
  rw [State.domTarget, domsFrom_eq d (Nat.lt_succ_of_le h11), List.any_cons, Bool.or_eq_true, List.any_flatMap, List.any_eq_true]
  refine or_congr_right (exists_congr fun e => ?_)
  rw [mem_domsAbove (Nat.one_le_iff_ne_zero.mp h1), and_assoc, and_assoc]
  rfl

theorem ownTarget_iff {s : State} {d : Dom} (hs : s.season < 2) (hk : s.pwr.keepHost = false) :
    s.ownTarget d = true ↔ s.vote d ≠ 0 ∨ bit s.pwr.hold d = true := by
  have hforced : s.forced = 0 := by
    rw [State.forced, if_neg (by omega), if_neg fun h => by have := h.1; omega]
  simp [State.ownTarget, hforced, hk]

/-- Settles O23: writes of votes by `writeVote_dom`, what a vote register takes by `setVotes_hold`, targets by `domTarget_iff`. -/
theorem votesMakeTargets : Obligations.VotesMakeTargets := by
  unfold Obligations.VotesMakeTargets
  refine ⟨fun s p d val h1 h11 hr => ?_, fun s d v h1 h11 => ⟨setVotes_vote s d v, setVotes_hold s v (Nat.lt_of_le_of_lt h11
    (by decide)),
    fun off h => setVotes_reg_ne s v h⟩, fun s d h1 h11 hh => ?_, fun s d h1 h11 hs hk => ?_⟩
  · have hrange : 0x10110 ≤ Reg.pwrDomVote (d - 1) ∧ Reg.pwrDomVote (d - 1) < 0x10260 := by unfold Reg.pwrDomVote; omega
    exact (congrArg Host.Outcome.next (if_pos hrange)).trans (next_hostReg hr (writeVote_dom s p val h1 h11))
  · refine congrArg Host.Outcome.next (if_pos ?_)
    rw [hh, Bool.and_true, isDom]
    simp [h1, h11]
  · rw [domTarget_iff s h1 h11, ownTarget_iff hs hk, or_assoc]

/-! ## The working point -/

theorem exec_dvfsStep {s : State} {g : Nat × Nat} (hup : s.up domCob = true) (hg : s.pwr.dvGoal = some g) :
    exec .dvfsStep s = .next s.dvStep.powerEval := congrArg Host.Outcome.next (if_pos ⟨by rw [hg]; rfl, hup⟩)

/-- The voltage moves to point t, or the frequency. -/
def State.voltTo (s : State) (t : Nat) : State := { (s.setFld Reg.pwrDvfs 31 16 (pointMv t)) with pwr := { s.pwr with vpt := t } }
def State.freqTo (s : State) (t : Nat) : State := { s with pwr := { s.pwr with fpt := t } }

/-- Whether a move under way raises the point (R447). -/
def State.movesUp (s : State) (t k : Nat) : Bool :=
  decide (pointMv s.pwr.vpt < pointMv t) || (k == 1 && s.pwr.vpt == t && s.pwr.fpt != t)

theorem dvStep_eq {s : State} {t k : Nat} (h : s.pwr.dvGoal = some (t, k)) : s.dvStep =
    (let s1 := if s.movesUp t k == (k == 0) then s.voltTo t else s.freqTo t
     if k = 0 then { s1 with pwr := { s1.pwr with dvGoal := some (t, 1) } }
     else { s1 with pwr := { s1.pwr with dvGoal := none, dvPend := none } }) := by
  rw [State.dvStep, h]
  rfl

theorem pointMv_lt_iff {a b : Nat} (ha : a < 4) (hb : b < 4) : pointMv a < pointMv b ↔ a < b := by
  unfold pointMv; omega

theorem movesUp_iff {s : State} {t k : Nat} (hv : s.pwr.vpt < 4) (ht : t < 4) :
    s.movesUp t k = true ↔ s.pwr.vpt < t ∨ (k = 1 ∧ s.pwr.vpt = t ∧ s.pwr.fpt ≠ t) := by
  simp [State.movesUp, pointMv_lt_iff hv ht, and_assoc]

/-- The first half of a move. -/
theorem dvStep_first {s : State} {t : Nat} (h : s.pwr.dvGoal = some (t, 0)) (hv : s.pwr.vpt < 4) (ht : t < 4) :
    s.dvStep.pwr.vpt = (if s.pwr.vpt < t then t else s.pwr.vpt) ∧ s.dvStep.pwr.fpt = (if s.pwr.vpt < t then s.pwr.fpt else t) ∧
      s.dvStep.pwr.dvGoal = some (t, 1) := by
  rw [dvStep_eq h]
  by_cases hup : s.pwr.vpt < t
  · have : s.movesUp t 0 = true := (movesUp_iff hv ht).mpr (Or.inl hup)
    simp [this, hup, State.voltTo]
  · have : s.movesUp t 0 = false := by
      rw [← Bool.not_eq_true, movesUp_iff hv ht]
      omega
    simp [this, hup, State.freqTo]

/-- The second half of a move: what has not moved yet does. -/
theorem dvStep_second {s : State} {t : Nat} (h : s.pwr.dvGoal = some (t, 1)) (hv : s.pwr.vpt < 4) (ht : t < 4) :
    (s.pwr.vpt = t ∧ s.pwr.fpt ≠ t → s.dvStep.pwr.vpt = t ∧ s.dvStep.pwr.fpt = t ∧ s.dvStep.pwr.dvGoal = none) ∧
      (t < s.pwr.vpt → s.dvStep.pwr.vpt = t ∧ s.dvStep.pwr.fpt = s.pwr.fpt ∧ s.dvStep.pwr.dvGoal = none) := by
  rw [dvStep_eq h]
  constructor
  · rintro ⟨hvt, hft⟩
    have : s.movesUp t 1 = true := (movesUp_iff hv ht).mpr (Or.inr ⟨rfl, hvt, hft⟩)
    simp [this, State.freqTo, hvt]
  · intro hlt
    have : s.movesUp t 1 = false := by
      rw [← Bool.not_eq_true, movesUp_iff hv ht]
      omega
    simp [this, State.voltTo]

/-! ## Manual control -/

/-- The declaration of DVFS_MAN. -/
def dvfsManDecl : RegDecl :=
  ⟨"PWR.DVFS_MAN", 0x10020, [], 0x0, [fd "EN" 31 31 .rw, fd "VPT" 5 4 .rw, fd "FPT" 1 0 .rw]⟩

theorem declOf_pwrDvfsMan : declOf Reg.pwrDvfsMan = some dvfsManDecl := by decide +kernel

theorem writeFields_dvfsMan (s : State) (val : Word) : s.writeFields Reg.pwrDvfsMan val 0xFFFFFFFF =
    s.setReg Reg.pwrDvfsMan (dvfsManDecl.after (s.locked Reg.pwrDvfsMan) (s.reg Reg.pwrDvfsMan) val val) :=
  writeFields_open declOf_pwrDvfsMan (by decide) (fun r b h => by simp [lockOf, blockBase, Reg.pwrDvfsMan] at h) s val

theorem flag_eq_fld (s : State) (off i : Nat) : s.flag off i = (s.fld off i i == 1) := by
  rw [State.flag, State.fld, bit_eq_div, bits_eq_div, Nat.add_sub_cancel_left, Nat.pow_one]

theorem dvfsMan_en (s : State) {val : Word} (h : val.getLsbD 31 = true) :
    (s.writeFields Reg.pwrDvfsMan val 0xFFFFFFFF).flag Reg.pwrDvfsMan 31 = true := by
  have hfld := fld_after (off := Reg.pwrDvfsMan) (d := dvfsManDecl) (by decide) (f := fd "EN" 31 31 .rw) (by decide) s
    (s.locked Reg.pwrDvfsMan) (s.reg Reg.pwrDvfsMan) val
  have hval : bit val 31 = true := h
  have hbit : (bits val 31 31 == 1) = true := by
    rw [bit_eq_div] at hval
    rw [bits_eq_div]
    exact hval
  rw [writeFields_dvfsMan, flag_eq_fld]
  exact (congrArg (· == 1) hfld).trans hbit

theorem manual_points (val : Word) (old : Word) :
    bits ((old &&& ~~~ (0xFFFFFFFF : Word)) ||| (val &&& 0xFFFFFFFF)) 5 4 = val.toNat / 16 % 4 ∧
      bits ((old &&& ~~~ (0xFFFFFFFF : Word)) ||| (val &&& 0xFFFFFFFF)) 1 0 = val.toNat % 4 ∧
      bit ((old &&& ~~~ (0xFFFFFFFF : Word)) ||| (val &&& 0xFFFFFFFF)) 31 = val.getLsbD 31 := by
  rw [masked_allOnes, bits_eq_div, bits_eq_div, Nat.pow_zero, Nat.div_one]
  exact ⟨rfl, rfl, rfl⟩

/-- A manual write that leaves the voltage too low for the frequency is refused (R447). -/
theorem writeDvfsMan_refused {s : State} {val : Word} (h : val.getLsbD 31 = true)
    (hbad : s.pwr.vpt < val.toNat % 4 ∨ val.toNat / 16 % 4 < s.pwr.fpt) :
    s.writeDvfsMan val 0xFFFFFFFF = (s.bump Reg.pwrCntBadw).raiseBit Reg.pwrSticky 1 := by
  obtain ⟨hv, hf, he⟩ := manual_points val (s.reg Reg.pwrDvfsMan)
  unfold State.writeDvfsMan
  dsimp only
  rw [hv, hf, he, h, if_neg (by decide), if_pos hbad]

/-- The state in which a manual write puts voltage and frequency in force. -/
def State.manualSet (s : State) (val : Word) : State :=
  let s2 := (s.writeFields Reg.pwrDvfsMan val 0xFFFFFFFF).setFld Reg.pwrDvfs 31 16 (pointMv (val.toNat / 16 % 4))
  { s2 with pwr := { s2.pwr with vpt := val.toNat / 16 % 4, fpt := val.toNat % 4, dvGoal := none, dvPend := none } }

theorem flag_withPwr (s : State) (p : Pwr) (off i : Nat) : ({ s with pwr := p } : State).flag off i = s.flag off i := rfl

theorem manualSet_en (s : State) {val : Word} (h : val.getLsbD 31 = true) : (s.manualSet val).flag Reg.pwrDvfsMan 31 = true := by
  rw [State.manualSet, flag_withPwr, State.flag, reg_setFld_ne _ _ _ _ _ _ (by decide)]
  exact dvfsMan_en s h

theorem writeDvfsMan_taken {s : State} {val : Word} (h : val.getLsbD 31 = true) (hup : s.up domCob = true)
    (hok : ¬(s.pwr.vpt < val.toNat % 4 ∨ val.toNat / 16 % 4 < s.pwr.fpt)) :
    s.writeDvfsMan val 0xFFFFFFFF = (s.manualSet val).powerEval := by
  obtain ⟨hv, hf, he⟩ := manual_points val (s.reg Reg.pwrDvfsMan)
  have hup' : (s.writeFields Reg.pwrDvfsMan val 0xFFFFFFFF).up domCob = true := by
    rw [writeFields_dvfsMan, ← hup]
    exact up_congr (reg_setReg_ne _ _ _ _ (by decide))
  unfold State.writeDvfsMan
  dsimp only
  rw [hv, hf, he, h, if_neg (by decide), if_neg hok, if_pos hup']
  rfl

/-- Settles O25: a move half by half (`dvStep_first`, `dvStep_second`), and the two outcomes of a manual write. -/
theorem workingPointMoves : Obligations.WorkingPointMoves := by
  unfold Obligations.WorkingPointMoves
  refine ⟨fun s t hup hg hlt _ ht => ?_, fun s t hup hg hv hf ht => ?_, fun s t hup hg hlt heq hv => ?_,
    fun s t hup hg hlt hf hv => ?_,
    fun s p val hr h31 hbad => next_hostReg hr (writeDvfsMan_refused h31 hbad), fun s p val hr h31 hup hf hv => ?_⟩
  · obtain ⟨hvpt, hfpt, hgoal⟩ := dvStep_first hg (by omega) ht
    exact ⟨_, exec_dvfsStep hup hg, hvpt.trans (if_pos hlt), hfpt.trans (if_pos hlt), hgoal⟩
  · obtain ⟨hsecond, -⟩ := dvStep_second hg (by omega) ht
    exact ⟨_, exec_dvfsStep hup hg, hsecond ⟨hv, by omega⟩⟩
  · obtain ⟨hvpt, hfpt, hgoal⟩ := dvStep_first hg hv (by omega)
    exact ⟨_, exec_dvfsStep hup hg, hfpt.trans (if_neg (by omega)), hvpt.trans (if_neg (by omega)), hgoal⟩
  · obtain ⟨-, hsecond⟩ := dvStep_second hg hv (by omega)
    obtain ⟨hvpt, hfpt, hgoal⟩ := hsecond hlt
    exact ⟨_, exec_dvfsStep hup hg, hfpt.trans hf, hvpt, hgoal⟩
  · exact ⟨s.manualSet val, next_hostReg hr (writeDvfsMan_taken h31 hup (by omega)), rfl, rfl, manualSet_en s h31, rfl⟩

end Sys2Proof.Machine

/-! Management-port transactions (R40-R44). -/
namespace Sys2Proof.Machine

section
variable {s : State} {addr : Byte}

theorem answers_false (h : s.mgmtAnswers = false ∨ addr.toNat ≠ 0x80 + 2 * (s.pins.addr % 32)) : s.answers addr = false := by
  rw [State.answers, State.addressByte, Bool.and_eq_false_iff, beq_eq_false_iff_ne]
  exact h

theorem mgmtAnswers_of_answers (h : s.answers addr = true) : s.mgmtAnswers = true := (Bool.and_eq_true_iff.mp h).1

/-! ## Frames (R41) -/

theorem isWriteFrame_cons {body : List Byte} (h : body.length = 8) : isWriteFrame (0x57 :: body) = true := by
  simp [isWriteFrame, cmdWrite, h]

theorem isWriteFrame_false {bytes : List Byte} (h : bytes.head? ≠ some 0x57 ∨ bytes.length ≠ 9) : isWriteFrame bytes = false := by
  rw [isWriteFrame, Bool.and_eq_false_iff, beq_eq_false_iff_ne, beq_eq_false_iff_ne]
  exact h

theorem isReadFrame_cons {body : List Byte} (h : body.length = 4) : isReadFrame (0x52 :: body) = true := by
  simp [isReadFrame, cmdRead, h]

theorem isReadFrame_false {bytes : List Byte} (h : bytes.head? ≠ some 0x52 ∨ bytes.length ≠ 5) : isReadFrame bytes = false := by
  rw [isReadFrame, Bool.and_eq_false_iff, beq_eq_false_iff_ne, beq_eq_false_iff_ne]
  exact h

theorem writeFrame_write (s : State) {body : List Byte} (h : body.length = 8) :
    s.writeFrame (0x57 :: body) = (s.mgmtStore (frameOff body) (frameVal body)).2.noted .mgmt
      (s.mgmtStore (frameOff body) (frameVal body)).1 := by
  rw [State.writeFrame, isWriteFrame_cons h]
  rfl

theorem writeFrame_bad (s : State) {bytes : List Byte} (h : bytes.head? ≠ some 0x57 ∨ bytes.length ≠ 9) :
    s.writeFrame bytes = s.badFrame.noted .mgmt mgFrame := by
  rw [State.writeFrame, isWriteFrame_false h]
  rfl

theorem readFrame_read (s : State) {body : List Byte} (h : body.length = 4) :
    s.readFrame (0x52 :: body) = s.hostRead .mgmt (frameOff body) 1 := by
  rw [State.readFrame, isReadFrame_cons h]
  rfl

theorem readFrame_bad (s : State) {bytes : List Byte} (hs : bytes ≠ [0x53]) (h : bytes.head? ≠ some 0x52 ∨ bytes.length ≠ 5) :
    s.readFrame bytes = s.arrived.badFrame.send (.mgmtData 0 mgFrame) := by
  rw [State.readFrame, isReadFrame_false h, if_neg Bool.false_ne_true]
  exact if_neg hs

theorem readFrame_status (s : State) : s.readFrame [0x53] = s.arrived.send (.mgmtStatus s.arrived.host.mgmt) := rfl

/-! ## The reads -/

theorem hostRead_mgmt_held (h : s.mgmtAnswers = true) {off : Nat} (hh : (s.arrived.holdsRead off && s.arrived.up domMgt) = true) :
    s.hostRead .mgmt off 1 = { s.arrived with host := { s.arrived.host with waits := [.mgmt] } } := by
  rw [State.hostRead, h]
  dsimp only
  rw [hh]
  rfl

theorem hostRead_mgmt_answered (h : s.mgmtAnswers = true) {off : Nat} (hh :
  (s.arrived.holdsRead off && s.arrived.up domMgt) = false) :
    s.hostRead .mgmt off 1 = (s.arrived.mgmtFetch off).2.2.send (.mgmtData (s.arrived.mgmtFetch off).1
      (s.arrived.mgmtFetch off).2.1) := by
  rw [State.hostRead, h]
  dsimp only
  rw [hh]
  rfl

/-! ## Behind a MGT that is down (R42) -/

theorem downWrite_mem (s : State) : s.downWrite.mem = s.mem := raiseBit_mem _ _ _

theorem windowShut_mem (s : State) (up : Bool) : (s.windowShut up).mem = s.mem := by
  unfold State.windowShut
  split
  · rfl
  · exact downWrite_mem s

theorem mgmtStore_shut (val : Word) {off : Nat} (ha : alwaysOn off = false) (hm : s.up domMgt = false) :
    (s.mgmtStore off val).1 = mgDown ∧ (s.mgmtStore off val).2.mem = s.mem ∧ s.mgmtFetch off = (0xDEAD0005, mgDown, s) := by
  have hclosed : ¬ (alwaysOn off || s.up domMgt) = true := by rw [ha, hm]; decide
  rw [State.mgmtStore, State.mgmtFetch, if_neg hclosed, if_neg hclosed]
  exact ⟨rfl, windowShut_mem s _, rfl⟩

/-! ## The commands -/

theorem exec_mgmtWrite (h : s.answers addr = true) (bytes : List Byte) : exec (.mgmtWrite addr bytes) s = .next
  (s.arrived.writeFrame bytes) :=
  congrArg Host.Outcome.next (if_pos h)

theorem exec_mgmtRead (h : s.answers addr = true) (bytes : List Byte) : exec (.mgmtRead addr bytes) s = .next
  (s.readFrame bytes) :=
  congrArg Host.Outcome.next (if_pos h)

theorem exec_mgmtStatus (h : s.answers addr = true) (bytes : List Byte) : exec (.mgmtStatus addr bytes) s = .next
  (s.readFrame bytes) :=
  congrArg Host.Outcome.next (if_pos h)

/-- A transaction for another target leaves the state. -/
theorem exec_unanswered (h : s.answers addr = false) (bytes : List Byte) :
    exec (.mgmtWrite addr bytes) s = .next s ∧ exec (.mgmtRead addr bytes) s = .next s ∧ exec
      (.mgmtStatus addr bytes) s = .next s ∧
      ∀ w, exec (.stretchTimeout w addr bytes) s = .next s := by
  have hno : ¬ s.answers addr = true := by rw [h]; decide
  have hnot : (!s.answers addr) = true := by rw [h]; rfl
  exact ⟨congrArg Host.Outcome.next (if_neg hno), congrArg Host.Outcome.next (if_neg hno), congrArg Host.Outcome.next
    (if_neg hno),
    fun _ => congrArg Host.Outcome.next (if_pos hnot)⟩

theorem exec_stretch_read (h : s.answers addr = true) {body : List Byte} (hb : body.length = 4) :
    exec (.stretchTimeout false addr (0x52 :: body)) s = .next (
      (((s.arrived.mgmtFetch (frameOff body)).2.2).send (.mgmtData 0 mgTimeout)).raiseBit Reg.mgtSticky 2) := by
  have hyes : ¬ (!s.answers addr) = true := by rw [h]; decide
  exact congrArg Host.Outcome.next ((if_neg hyes).trans ((if_neg Bool.false_ne_true).trans (if_pos (isReadFrame_cons hb))))

theorem exec_stretch_write (h : s.answers addr = true) {body : List Byte} (hb : body.length = 8) :
    exec (.stretchTimeout true addr (0x57 :: body)) s = .next (
      ((s.arrived.writeFrame (0x57 :: body)).send .mgmtNack).raiseBit Reg.mgtSticky 2) := by
  have hyes : ¬ (!s.answers addr) = true := by rw [h]; decide
  exact congrArg Host.Outcome.next ((if_neg hyes).trans ((if_pos rfl).trans (if_pos (isWriteFrame_cons hb))))

end

/-- Settles O33: frame by frame, each command's own equation. -/
theorem managementPort : Obligations.ManagementPort := by
  unfold Obligations.ManagementPort
  refine ⟨fun s addr bytes h => exec_unanswered (answers_false h) bytes, fun s addr body h hb => ?_, fun s addr bytes h hf => ?_,
    fun s off val ha hm => mgmtStore_shut val ha hm, fun s addr body h hb hh => ?_, fun s addr body h hb hh => ?_,
      fun s addr h => ?_,
    fun s addr bytes h hs hf => ?_, fun s h => congrArg Host.Outcome.next (if_pos h),
      fun s addr body h hb => exec_stretch_read h hb,
    fun s addr body h hb => ?_⟩
  · exact ⟨_, (exec_mgmtWrite h _).trans (congrArg Host.Outcome.next (writeFrame_write _ hb)), rfl, rfl⟩
  · exact ⟨_, (exec_mgmtWrite h _).trans (congrArg Host.Outcome.next (writeFrame_bad _ hf)), rfl, rfl, rfl⟩
  · rw [exec_mgmtRead h, readFrame_read _ hb, hostRead_mgmt_answered (mgmtAnswers_of_answers h) hh]
  · refine ⟨_, (exec_mgmtRead h _).trans (congrArg Host.Outcome.next ((readFrame_read _ hb).trans
      (hostRead_mgmt_held (mgmtAnswers_of_answers h) hh))), rfl, rfl, rfl⟩
  · rw [exec_mgmtStatus h, readFrame_status]
  · rw [exec_mgmtRead h, exec_mgmtStatus h, readFrame_bad _ hs hf]
    exact ⟨rfl, rfl⟩
  · refine ⟨s.arrived.writeFrame (0x57 :: body), ?_, ?_, exec_stretch_write h hb⟩
    · rw [writeFrame_write _ hb]; rfl
    · rw [writeFrame_write _ hb]; rfl

end Sys2Proof.Machine

/-! Resets, the release from reset and the OTP sense (R466, R468, R469). -/
namespace Sys2Proof.Machine

/-! ## Whole resets -/

/-- What a reset makes of the state that is left when stores and programming have been cut off. -/
def State.resetFrom (s : State) (cause : Nat) : State :=
  ({ State.reset with
      pending := s.pending, nvm := skeep s.nvm (fun k => k < 5 * 2 ^ 18), nvmEcc := s.nvmEcc, out := s.out, free := s.free,
      pins := { s.pins with drain := 0, lnaByp := 0, ringHold := 0 } }).setReg Reg.glbResetCause (BitVec.ofNat 32 cause)

theorem wholeReset_eq (s : State) (cause : Nat) : s.wholeReset cause = s.spoilStores.spoilProgram.resetFrom cause := rfl

theorem spoilStores_idle {s : State} (h : s.jrn.run = []) : s.spoilStores = s := by
  rw [State.spoilStores, h]; rfl

theorem spoilProgram_idle {s : State} (h : s.sec.prog = none) : s.spoilProgram = s := by
  rw [State.spoilProgram, h]

theorem spoilProgram_busy {s : State} {w : Nat} {v : Word} (h : s.sec.prog = some (w, v)) :
    s.spoilProgram = (s.takeFree.2).blow w (v &&& Config.freeWord s.free) := by
  rw [State.spoilProgram, h]; rfl

theorem resetFrom_cause (s : State) (c : Nat) : (s.resetFrom c).reg Reg.glbResetCause = BitVec.ofNat 32 c := reg_setReg_same ..

theorem resetFrom_reg (s : State) (c : Nat) {off : Nat} (h : off ≠ Reg.glbResetCause) :
  (s.resetFrom c).reg off = resetOf off := by
  rw [State.resetFrom, reg_setReg_ne _ _ _ _ h]
  rfl

/-- eMRAM and fuses are kept, the shadow words of the OTP are not. -/
theorem resetFrom_nvm (s : State) (c : Nat) {k : Nat} (h : k < 5 * 2 ^ 18) :
    sget emptyWord (s.resetFrom c).nvm k = sget emptyWord s.nvm k := by
  have hkeep : (s.resetFrom c).nvm = skeep s.nvm (fun k => k < 5 * 2 ^ 18) := rfl
  rw [hkeep, sget_skeep, if_pos (decide_eq_true h)]

theorem blow_word (s : State) (w : Nat) (v : Word) :
    sget emptyWord (s.blow w v).nvm (otpKey w) = sget emptyWord s.nvm (otpKey w) ||| v := by
  have hnvm : (s.blow w v).nvm = sset emptyWord s.nvm (otpKey w) (sget emptyWord s.nvm (otpKey w) ||| v) := rfl
  rw [hnvm, sget_sset, if_pos rfl]

theorem otpKey_lt {w : Nat} (h : w < 2048) : otpKey w < 5 * 2 ^ 18 := by
  unfold otpKey; omega

/-- Both resets of the whole device, by their cause. -/
theorem exec_wholeReset {e : Instr} {c : Nat} (h : e = .powerOnReset ∧ c = 1 ∨ e = .pinReset ∧ c = 2) (s : State) :
    exec e s = .next (s.wholeReset c) := by
  rcases h with ⟨rfl, rfl⟩ | ⟨rfl, rfl⟩ <;> rfl

/-! ## The OTP is sensed -/

theorem senseWord_keeps {β : Type} (P : State → β) (hP : ∀ (t : State) n x, P { t with nvm := n, sec := x } = P t) (s : State)
  (w : Nat) :
    P (s.senseWord w) = P s := by
  unfold State.senseWord
  split
  · exact (hP _ _ _).trans (hP s _ s.sec)
  · exact hP s _ s.sec
  · exact hP s _ s.sec

theorem senseWord_nvm_ne (s : State) {w k : Nat} (h : k ≠ otpShadowKey w) :
    sget emptyWord (s.senseWord w).nvm k = sget emptyWord s.nvm k := by
  have hset : ∀ v, sget emptyWord (s.setShadow w v).nvm k = sget emptyWord s.nvm k := fun v => by
    have hnvm : (s.setShadow w v).nvm = sset emptyWord s.nvm (otpShadowKey w) v := rfl
    rw [hnvm, sget_sset, if_neg h]
  unfold State.senseWord
  split
  · exact hset 0xFFFFFFFF
  · exact hset _
  · exact hset _

theorem senseWord_good {s : State} {w : Nat} (h : sget (fun _ => Ecc.good) s.nvmEcc (otpKey w) = .good) :
    (s.senseWord w).otpShadow w = sget emptyWord s.nvm (otpKey w) := by
  have hnvm : (s.senseWord w).nvm = sset emptyWord s.nvm (otpShadowKey w) (sget emptyWord s.nvm (otpKey w)) := by
    rw [State.senseWord, h]; rfl
  rw [State.otpShadow, hnvm, sget_sset, if_pos rfl]

theorem foldl_senseWord_keeps {β : Type} (P : State → β) (hP : ∀ (t : State) n x, P { t with nvm := n, sec := x } = P t)
  (l : List Nat)
    (s : State) : P (l.foldl State.senseWord s) = P s :=
  List.foldlRecOn (motive := fun t : State => P t = P s) l _ rfl fun t ht w _ => (senseWord_keeps P hP t w).trans ht

theorem foldl_senseWord_nvm_ne (l : List Nat) (s : State) {k : Nat} (h : ∀ w ∈ l, k ≠ otpShadowKey w) :
    sget emptyWord (l.foldl State.senseWord s).nvm k = sget emptyWord s.nvm k :=
  List.foldlRecOn (motive := fun t : State => sget emptyWord t.nvm k = sget emptyWord s.nvm k) l _ rfl
    fun t ht w hw => (senseWord_nvm_ne t (h w hw)).trans ht

theorem otpKey_ne_shadow {w v : Nat} (h : w < 2048) : otpKey w ≠ otpShadowKey v := by
  unfold otpKey otpShadowKey; omega

/-- A good word of a list that is sensed stands in its shadow. -/
theorem foldl_senseWord_good {l : List Nat} {w : Nat} (hw : w ∈ l) (hlt : w < 2048) (s : State)
    (h : sget (fun _ => Ecc.good) s.nvmEcc (otpKey w) = .good) :
    (l.foldl State.senseWord s).otpShadow w = sget emptyWord s.nvm (otpKey w) := by
  induction l generalizing s with
  | nil => cases hw
  | cons v l ih =>
    rw [List.foldl_cons]
    by_cases hl : w ∈ l
    · have hecc : (s.senseWord v).nvmEcc = s.nvmEcc := senseWord_keeps State.nvmEcc (fun _ _ _ => rfl) s v
      rw [ih hl _ (by rw [hecc]; exact h), senseWord_nvm_ne s (otpKey_ne_shadow hlt)]
    · obtain rfl : w = v := by simpa [hl] using hw
      have hne : ∀ x ∈ l, otpShadowKey w ≠ otpShadowKey x := fun x hx e => hl (by
        have : w = x := by unfold otpShadowKey at e; omega
        exact this ▸ hx)
      rw [State.otpShadow, foldl_senseWord_nvm_ne l _ hne]
      exact senseWord_good h

/-! ## The votes of WAKE_SET -/

theorem of_setVotes {β : Type} (P : State → β) (hP : ∀ (t : State) r p, P { t with regs := r, pwr := p } = P t) (s : State)
  (d : Dom)
    (v : Word) : P (s.setVotes d v) = P s := by
  unfold State.setVotes
  dsimp only
  split_ifs
  · exact hP s _ _
  · exact hP s _ _
  · exact hP s _ s.pwr

/-- Each domain of a list gets the vote of the sequencer. -/
def State.voteAll (s : State) (l : List Nat) : State := l.foldl (fun t d => t.setVotes d (putBit (t.vote d) 1 true)) s

theorem of_voteAll {β : Type} (P : State → β) (hP : ∀ (t : State) r p, P { t with regs := r, pwr := p } = P t) (s : State)
  (l : List Nat) :
    P (s.voteAll l) = P s :=
  List.foldlRecOn (motive := fun t : State => P t = P s) l _ rfl fun t ht d _ => (of_setVotes P hP t d _).trans ht

/-- A vote of the sequencer is kept by the next ones. -/
theorem setVotes_keeps_vote {s : State} {d e : Nat} (hd : 1 ≤ d) (he : 1 ≤ e) (h : bit (s.vote d) 1 = true) :
    bit ((s.setVotes e (putBit (s.vote e) 1 true)).vote d) 1 = true := by
  by_cases hde : d = e
  · rw [hde, setVotes_vote]
    exact bit_putBit _ _ (by decide)
  · have hne : Reg.pwrDomVote (d - 1) ≠ Reg.pwrDomVote (e - 1) := by unfold Reg.pwrDomVote; omega
    rw [State.vote, setVotes_reg_ne _ _ hne]
    exact h

theorem voteAll_vote {l : List Nat} (hl : ∀ e ∈ l, 1 ≤ e) {d : Nat} (hd : d ∈ l) (s : State) : bit
  ((s.voteAll l).vote d) 1 = true := by
  induction l generalizing s with
  | nil => cases hd
  | cons e l ih =>
    have hstay : ∀ t : State, bit (t.vote d) 1 = true → bit ((t.voteAll l).vote d) 1 = true := fun t ht =>
      List.foldlRecOn (motive := fun u : State => bit (u.vote d) 1 = true) l _ ht fun u hu x hx =>
        setVotes_keeps_vote (hl d hd) (hl x (List.mem_cons_of_mem _ hx)) hu
    have hcons : s.voteAll (e :: l) = (s.setVotes e (putBit (s.vote e) 1 true)).voteAll l := rfl
    rw [hcons]
    rcases List.mem_cons.mp hd with rfl | hm
    · refine hstay _ ?_
      rw [setVotes_vote]
      exact bit_putBit _ _ (by decide)
    · exact ih (fun x hx => hl x (List.mem_cons_of_mem _ hx)) hm _

/-- The domains that WAKE_SET names. -/
theorem mem_wakeSet {w : Word} {d : Nat} (h1 : 1 ≤ d) (h11 : d ≤ 11) (h : bit w d = true) : d ∈ setBitsOf (w &&& 0xFFE) 12 := by
  have hmask : ∀ i, 1 ≤ i → i ≤ 11 → (0xFFE : Word).getLsbD i = true := by decide
  rw [setBitsOf, List.mem_filter, List.mem_range, bit, BitVec.getLsbD_and, hmask d h1 h11, Bool.and_true]
  exact ⟨by omega, h⟩

theorem wakeSet_pos {w : Word} {d : Nat} (h : d ∈ setBitsOf (w &&& 0xFFE) 12) : 1 ≤ d := by
  rw [setBitsOf, List.mem_filter] at h
  rcases Nat.eq_zero_or_pos d with rfl | hpos
  · have h0 := h.2
    rw [bit, BitVec.getLsbD_and] at h0
    simp at h0
  · exact hpos

/-- The machine runs, and a boot is due. -/
def State.awake (s1 : State) : State :=
  { s1 with boot := .running, sec := { s1.sec with bootDue := true }, pwr := { s1.pwr with keepHost := false } }

theorem awake_reg (s : State) (off : Nat) : s.awake.reg off = s.reg off := rfl
theorem awake_shadow (s : State) (w : Nat) : s.awake.otpShadow w = s.otpShadow w := rfl

/-- The state in which the OTP has been sensed. -/
def State.sensed (s : State) : State := ((List.range 2048).foldl State.senseWord s).awake

theorem exec_otpSense {s : State} (h : s.boot = .released ∨ s.boot = .sensing) :
    exec .otpSense s = .next (s.sensed.voteAll (setBitsOf (s.sensed.reg Reg.pwrWakeSet &&& 0xFFE) 12)).powerEval :=
  congrArg Host.Outcome.next (if_pos h)

theorem sensed_reg (s : State) (off : Nat) : s.sensed.reg off = s.reg off := by
  rw [State.sensed, awake_reg]
  exact foldl_senseWord_keeps (fun t => t.reg off) (fun _ _ _ => rfl) (List.range 2048) s

theorem sensed_shadow {s : State} {w : Nat} (hw : w < 2048) (h : sget (fun _ => Ecc.good) s.nvmEcc (otpKey w) = .good) :
    s.sensed.otpShadow w = sget emptyWord s.nvm (otpKey w) := by
  rw [State.sensed, awake_shadow]
  exact foldl_senseWord_good (List.mem_range.mpr hw) hw s h

/-! ## A device reset -/

/-- The key of RESET_CTL in a value (R466). -/
theorem resetKey_iff (val : Word) :
    (bit (val &&& 0xFFFFFFFF) 31 = true ∧ bits (val &&& 0xFFFFFFFF) 15 0 = 0xC0DE) ↔
      (val.getLsbD 31 = true ∧ val.toNat % 65536 = 0xC0DE) := by
  rw [and_allOnes_word, bits_eq_div, Nat.pow_zero, Nat.div_one]
  rfl

theorem writeResetCtl_none {s : State} {val : Word} (b : Nat) (h : val.getLsbD 31 = false ∨ val.toNat % 65536 ≠ 0xC0DE) :
    s.writeResetCtl val 0xFFFFFFFF b = s := by
  refine if_neg fun hk => ?_
  obtain ⟨hbit, hkey⟩ := (resetKey_iff val).mp hk
  rcases h with h | h
  · rw [h] at hbit
    cases hbit
  · exact h hkey

theorem writeResetCtl_key {s : State} {val : Word} (b : Nat) (h : val.getLsbD 31 = true) (hk : val.toNat % 65536 = 0xC0DE) :
    s.writeResetCtl val 0xFFFFFFFF b =
      if s.sec.prog.isSome then { s with sec := { s.sec with resetDue := some b } } else s.deviceReset b :=
  if_pos ((resetKey_iff val).mpr ⟨h, hk⟩)

/-- Settles O36: the resets by `wholeReset_eq`, the sense by `exec_otpSense`, the device reset by its key. -/
theorem resetsAndRelease : Obligations.ResetsAndRelease := by
  unfold Obligations.ResetsAndRelease
  refine ⟨fun s c e he hrun hprog => ?_, fun s c e w v he hrun hprog hw => ?_, fun s b a hb => ?_, fun s b a hb =>
    congrArg Host.Outcome.next (if_neg hb), fun s hb => ?_, fun s hb => ?_, fun s p val b hr hk => next_hostReg hr
      (writeResetCtl_none b hk),
    fun s p val b hr h31 hk hn => ?_, fun s p val b hr h31 hk hn => ?_⟩
  · refine ⟨s.resetFrom c, ?_, resetFrom_cause s c, rfl, rfl, rfl, fun off h => resetFrom_reg s c h,
    fun k h => resetFrom_nvm s c h, rfl⟩
    rw [exec_wholeReset he, wholeReset_eq, spoilStores_idle hrun, spoilProgram_idle hprog]
  · refine ⟨s.spoilProgram.resetFrom c, ?_, resetFrom_cause _ c, rfl, rfl, rfl, ?_⟩
    · rw [exec_wholeReset he, wholeReset_eq, spoilStores_idle hrun]
    · rw [resetFrom_nvm _ c (otpKey_lt hw), spoilProgram_busy hprog, blow_word]
      rfl
  · exact ⟨_, congrArg Host.Outcome.next (if_pos hb), rfl, rfl, rfl, rfl⟩
  · refine ⟨_, ?_, ?_, fun d h1 h11 hd => ?_, fun w hw hg => ?_, exec_otpSense hb⟩
    · exact of_voteAll State.boot (fun _ _ _ => rfl) _ _
    · exact of_voteAll (fun t => t.sec.bootDue) (fun _ _ _ => rfl) _ _
    · refine voteAll_vote (fun e he => wakeSet_pos he) (mem_wakeSet h1 h11 ?_) _
      rw [sensed_reg]
      exact hd
    · rw [of_voteAll (fun t => t.otpShadow w) fun _ _ _ => rfl]
      exact sensed_shadow hw hg
  · refine congrArg Host.Outcome.next (if_neg ?_)
    rw [hb]
    decide
  · refine next_hostReg hr ((writeResetCtl_key b h31 hk).trans ?_)
    rw [hn]
    rfl
  · refine ⟨_, next_hostReg hr ((writeResetCtl_key b h31 hk).trans (if_pos hn)), ?_, ?_, mem_noted _ _ _⟩
    · exact of_noted (fun t => t.sec.resetDue) (fun _ _ => rfl) _ _ _
    · exact of_noted State.regs (fun _ _ => rfl) _ _ _

end Sys2Proof.Machine

/-! Air frames, slot and symbol boundaries, alignment and samples (R145-R150, R166). -/
namespace Sys2Proof.Machine

/-! ## Counters of a part of a register -/

theorem fld_count (s : State) (off : Nat) {hi : Nat} (lo k : Nat) (h : hi < 32) :
    (s.count off hi lo k).fld off hi lo = min (s.fld off hi lo + k) (2 ^ (hi + 1 - lo) - 1) := by
  have hpos := Nat.two_pow_pos (hi + 1 - lo)
  rw [State.count, fld_setFld _ _ _ _ _ h, satAdd_eq_min]
  exact Nat.mod_eq_of_lt (by omega)

theorem fld_count_beside (s : State) (off : Nat) {hi lo hi' lo' : Nat} (k : Nat) (h : hi' < lo ∨ hi < lo') (h32 : hi' < 32) :
    (s.count off hi lo k).fld off hi' lo' = s.fld off hi' lo' := by
  rw [State.count, State.fld, reg_setFld, if_pos rfl, bits_setBits_ne _ _ _ _ _ _ h h32]
  rfl

theorem reg_count_ne (s : State) {off j : Nat} (hi lo k : Nat) (h : j ≠ off) : (s.count off hi lo k).reg j = s.reg j :=
  reg_setFld_ne _ _ _ _ _ _ h

theorem fld_count_ne (s : State) {off j : Nat} (hi lo k hi' lo' : Nat) (h : j ≠ off) :
    (s.count off hi lo k).fld j hi' lo' = s.fld j hi' lo' := fld_setFld_ne _ _ _ _ _ _ _ _ h

/-- Bit `i` of the register at `off` sets where `c` holds. -/
def State.raiseIf (s : State) (c : Prop) [Decidable c] (off i : Nat) : State := if c then s.raiseBit off i else s

theorem raiseIf_mem (s : State) (c : Prop) [Decidable c] (off i : Nat) : (s.raiseIf c off i).mem = s.mem := by
  unfold State.raiseIf
  split
  · exact raiseBit_mem _ _ _
  · rfl

theorem fld_raiseIf (s : State) (c : Prop) [Decidable c] {off j : Nat} (i hi lo : Nat) (h : j ≠ off) (h0 : j ≠ Reg.hstMsixPba 0)
    (h1 : j ≠ Reg.hstMsixPba 1) : (s.raiseIf c off i).fld j hi lo = s.fld j hi lo := by
  unfold State.raiseIf
  split
  · rw [State.fld, raiseBit_reg_ne _ _ h h0 h1]; rfl
  · rfl

/-! ## Measurements of a path -/

/-- What a path's sample counts before its own clip counters. -/
def State.tallyLin (s : State) (m : PathMeas) (n : Nat) : State :=
  let s0 := (s.count (Reg.linPathCfrCnt n) 15 0 m.peaks).count (Reg.linPathCfrCnt n) 31 16 m.hard
  let si := if 0 < m.sic then (s0.count Reg.sicCntClamp 31 0 m.sic).raiseBit Reg.sicSticky 1 else s0
  { si with lin := { si.lin with clips :=
    if m.txDpd = 0 then si.lin.clips else aput si.lin.clips n ((alook si.lin.clips n).getD 0 + m.txDpd) } }

theorem tally_eq (s : State) (m : PathMeas) {n : Nat} (h : m.n % 128 = n) : s.tally m =
    ((((((((((((s.tallyLin m n).count (Reg.txdClip0 n) 15 0 m.txSum).count (Reg.txdClip0 n) 31 16 m.txI3).count
      (Reg.txdClip1 n) 15 0 m.txDpd).count (Reg.txdClip1 n) 31 16 m.txDac).raiseIf (0 < m.txDpd + m.txDac)
        (Reg.txdSticky n) 0).count
      (Reg.rxdClip0 n) 15 0 m.rxAdc).count (Reg.rxdClip0 n) 31 16 m.rxFront).count (Reg.rxdClip1 n) 15 0 m.rxSic).count
      (Reg.rxdClip1 n) 31 16 m.rxDec).raiseIf (0 < m.rxAdc) (Reg.rxdSticky n) 3).raiseIf (0 < m.rxFront + m.rxSic + m.rxDec)
      (Reg.rxdSticky n) 0) := by
  subst h
  rfl

theorem fld_withLin (s : State) (l : Lin) (off hi lo : Nat) : ({ s with lin := l } : State).fld off hi lo = s.fld off hi lo := rfl

/-- A register of TXD or RXD is none of LIN, SIC or HST. -/
theorem tallyLin_fld (s : State) (m : PathMeas) {n off : Nat} (hi lo : Nat) (hlo : 0x200000 ≤ off) (hhi : off < 0x400000) :
    (s.tallyLin m n).fld off hi lo = s.fld off hi lo := by
  have hcnt : off ≠ Reg.linPathCfrCnt n := by unfold Reg.linPathCfrCnt; omega
  have hpba : ∀ k, off ≠ Reg.hstMsixPba k ∨ 0x30000 ≤ k := fun k => by unfold Reg.hstMsixPba; omega
  have h0 : off ≠ Reg.hstMsixPba 0 := (hpba 0).resolve_right (by decide)
  have h1 : off ≠ Reg.hstMsixPba 1 := (hpba 1).resolve_right (by decide)
  rw [State.tallyLin, fld_withLin]
  split
  · rw [State.fld, raiseBit_reg_ne _ _ (by unfold Reg.sicSticky; omega) h0 h1, reg_count_ne _ _ _ _
    (by unfold Reg.sicCntClamp; omega),
      reg_count_ne _ _ _ _ hcnt, reg_count_ne _ _ _ _ hcnt]
    rfl
  · rw [fld_count_ne _ _ _ _ _ _ hcnt, fld_count_ne _ _ _ _ _ _ hcnt]

theorem tallyLin_mem (s : State) (m : PathMeas) (n : Nat) : (s.tallyLin m n).mem = s.mem := by
  have hif : ∀ (u : State) (c : Prop) [Decidable c], u.mem = s.mem →
      (if c then (u.count Reg.sicCntClamp 31 0 m.sic).raiseBit Reg.sicSticky 1 else u).mem = s.mem := fun u c _ hu => by
    split
    · exact (raiseBit_mem _ _ _).trans hu
    · exact hu
  exact hif _ _ rfl

theorem tally_mem (s : State) (m : PathMeas) : (s.tally m).mem = s.mem := by
  rw [tally_eq s m rfl, raiseIf_mem, raiseIf_mem]
  exact (raiseIf_mem _ _ _ _).trans (tallyLin_mem s m _)

theorem tally_clips (s : State) {m : PathMeas} (h : m.n < 128) :
    (s.tally m).fld (Reg.rxdClip0 m.n) 15 0 = min (s.fld (Reg.rxdClip0 m.n) 15 0 + m.rxAdc) 65535 ∧
      (s.tally m).fld (Reg.txdClip0 m.n) 15 0 = min (s.fld (Reg.txdClip0 m.n) 15 0 + m.txSum) 65535 := by
  rw [tally_eq s m (Nat.mod_eq_of_lt h)]
  have hrx : ∀ i, Reg.rxdClip0 m.n ≠ Reg.rxdSticky m.n ∧ Reg.rxdClip0 m.n ≠ Reg.txdSticky m.n ∧ Reg.rxdClip0 m.n ≠ Reg.hstMsixPba i ∨ 2 ≤ i := by
    intro i
    unfold Reg.rxdClip0 Reg.rxdSticky Reg.txdSticky Reg.hstMsixPba; omega
  have htx : ∀ i, Reg.txdClip0 m.n ≠ Reg.rxdSticky m.n ∧ Reg.txdClip0 m.n ≠ Reg.txdSticky m.n ∧ Reg.txdClip0 m.n ≠ Reg.hstMsixPba i ∨ 2 ≤ i := by
    intro i
    unfold Reg.txdClip0 Reg.rxdSticky Reg.txdSticky Reg.hstMsixPba; omega
  obtain ⟨hr1, hr2, hr3⟩ := (hrx 0).resolve_right (by decide)
  obtain ⟨-, -, hr4⟩ := (hrx 1).resolve_right (by decide)
  obtain ⟨ht1, ht2, ht3⟩ := (htx 0).resolve_right (by decide)
  obtain ⟨-, -, ht4⟩ := (htx 1).resolve_right (by decide)
  have hrr : Reg.rxdClip0 m.n ≠ Reg.rxdClip1 m.n := by unfold Reg.rxdClip0 Reg.rxdClip1; omega
  have hrt0 : Reg.rxdClip0 m.n ≠ Reg.txdClip0 m.n := by unfold Reg.rxdClip0 Reg.txdClip0; omega
  have hrt1 : Reg.rxdClip0 m.n ≠ Reg.txdClip1 m.n := by unfold Reg.rxdClip0 Reg.txdClip1; omega
  have htr1 : Reg.txdClip0 m.n ≠ Reg.rxdClip1 m.n := by unfold Reg.txdClip0 Reg.rxdClip1; omega
  have htt : Reg.txdClip0 m.n ≠ Reg.txdClip1 m.n := by unfold Reg.txdClip0 Reg.txdClip1; omega
  constructor
  · rw [fld_raiseIf _ _ _ _ _ hr1 hr3 hr4, fld_raiseIf _ _ _ _ _ hr1 hr3 hr4, fld_count_ne _ _ _ _ _ _ hrr, fld_count_ne _ _ _ _ _ _ hrr,
      fld_count_beside _ _ _ (by decide) (by decide), fld_count _ _ _ _ (by decide), fld_raiseIf _ _ _ _ _ hr2 hr3 hr4,
      fld_count_ne _ _ _ _ _ _ hrt1, fld_count_ne _ _ _ _ _ _ hrt1, fld_count_ne _ _ _ _ _ _ hrt0, fld_count_ne _ _ _ _ _ _ hrt0,
      tallyLin_fld _ _ _ _ (by unfold Reg.rxdClip0; omega) (by unfold Reg.rxdClip0; omega)]
    rfl
  · rw [fld_raiseIf _ _ _ _ _ ht1 ht3 ht4, fld_raiseIf _ _ _ _ _ ht1 ht3 ht4, fld_count_ne _ _ _ _ _ _ htr1, fld_count_ne _ _ _ _ _ _ htr1,
      fld_count_ne _ _ _ _ _ _ hrt0.symm, fld_count_ne _ _ _ _ _ _ hrt0.symm, fld_raiseIf _ _ _ _ _ ht2 ht3 ht4,
      fld_count_ne _ _ _ _ _ _ htt, fld_count_ne _ _ _ _ _ _ htt, fld_count_beside _ _ _ (by decide) (by decide),
      fld_count _ _ _ _ (by decide),
      tallyLin_fld _ _ _ _ (by unfold Reg.txdClip0; omega) (by unfold Reg.txdClip0; omega)]
    rfl

/-! ## Values in force -/

theorem inForce_apply (s : State) (off o : Nat) : (s.apply off).inForce o = if o = off then s.reg off else s.inForce o :=
  sget_sset _ _ _ _ _

/-- A value comes into force and no other does; what its change does beside is no value in force. -/
theorem land_force (s : State) (off : Nat) : (s.land off).force = (s.apply off).force := by
  have hraise : ∀ (t : State) r i, (t.raiseBit r i).force = t.force := fun t r i => of_apart State.force (fun _ => rfl)
    (raiseBit_apart t r i)
  have hdc : ∀ (t : State) n w, (t.loadDc n w).force = t.force := fun _ _ _ => rfl
  unfold State.land
  dsimp only
  split_ifs
  · exact hraise _ _ _
  · rfl
  · exact hraise _ _ _
  · rfl
  · exact hdc _ _ _
  · rfl
  · rfl
  · exact hdc _ _ _
  · rfl
  · rfl

theorem inForce_land (s : State) (off o : Nat) : (s.land off).inForce o = if o = off then s.reg off else s.inForce o := by
  rw [State.inForce, land_force]
  exact inForce_apply s off o

/-! ## Duty counts of a frame (R166) -/

theorem tlpPs_ne_duty {n : Nat} (h : n < 128) (k : Nat) : Reg.tlpPs n ≠ Reg.tlpDuty k ∨ 8 ≤ k := by
  unfold Reg.tlpPs Reg.tlpDuty; omega

theorem pathsOf_lt {k n : Nat} (hk : k < 8) (h : n ∈ pathsOf k) : n < 128 := by
  simp only [pathsOf, List.mem_map, List.mem_range] at h
  omega

/-- The mute of a group's paths ends. -/
def State.unmutePaths (s : State) (k : Nat) : State := (pathsOf k).foldl (fun v n => v.setFlag (Reg.tlpPs n) 21 false) s

/-- The duty count of a group starts again. -/
def State.dutyGroup (t : State) (k : Nat) : State :=
  let u := t.setFld (Reg.tlpDuty k) 15 0 0
  if u.dutyMuted k then (u.setFlag (Reg.tlpDuty k) 31 false).unmutePaths k else u

theorem dutyFrame_eq (s : State) :
    s.dutyFrame = (List.range 8).foldl State.dutyGroup { s with air := { s.air with duty := [] } } := rfl

theorem unmutePaths_reg (s : State) (k : Nat) {off : Nat} (h : ∀ n ∈ pathsOf k, off ≠ Reg.tlpPs n) :
    (s.unmutePaths k).reg off = s.reg off :=
  List.foldlRecOn (motive := fun t : State => t.reg off = s.reg off) _ _ rfl fun _ ht n hn =>
    (reg_setFlag_ne _ _ _ _ _ (h n hn)).trans ht

/-- Bit 21 of a path's status is set by no step of a frame. -/
theorem unmutePaths_stays (s : State) (k : Nat) {n : Nat} (h : s.flag (Reg.tlpPs n) 21 = false) :
    (s.unmutePaths k).flag (Reg.tlpPs n) 21 = false := by
  refine List.foldlRecOn (motive := fun t : State => t.flag (Reg.tlpPs n) 21 = false) _ _ h fun t ht m _ => ?_
  by_cases hm : Reg.tlpPs n = Reg.tlpPs m
  · rw [hm, flag_setFlag _ _ _ _ (by decide)]
  · rw [flag_setFlag_ne _ _ _ _ _ _ hm, ht]

theorem foldl_unmute {l : List Nat} {n : Nat} (hn : n ∈ l) (s : State) :
    (l.foldl (fun (v : State) n => v.setFlag (Reg.tlpPs n) 21 false) s).flag (Reg.tlpPs n) 21 = false := by
  induction l generalizing s with
  | nil => cases hn
  | cons m l ih =>
    rw [List.foldl_cons]
    by_cases hl : n ∈ l
    · exact ih hl _
    · obtain rfl : n = m := by simpa [hl] using hn
      refine List.foldlRecOn (motive := fun t : State => t.flag (Reg.tlpPs n) 21 = false) l _ (flag_setFlag _ _ _ _ (by decide))
        fun t ht x hx => ?_
      have hne : Reg.tlpPs n ≠ Reg.tlpPs x := fun e => hl (by
        have : n = x := by unfold Reg.tlpPs at e; omega
        exact this ▸ hx)
      rw [flag_setFlag_ne _ _ _ _ _ _ hne, ht]

/-- What the start of a frame does to one group. -/
theorem dutyGroup_self (t : State) {k : Nat} (hk : k < 8) : (t.dutyGroup k).fld (Reg.tlpDuty k) 15 0 = 0 ∧
    (t.dutyGroup k).flag (Reg.tlpDuty k) 31 = false := by
  have hzero : (t.setFld (Reg.tlpDuty k) 15 0 0).fld (Reg.tlpDuty k) 15 0 = 0 := by
    rw [fld_setFld _ _ _ _ _ (by decide)]; rfl
  have hps : ∀ n ∈ pathsOf k, Reg.tlpDuty k ≠ Reg.tlpPs n := fun n hn =>
    ((tlpPs_ne_duty (pathsOf_lt hk hn) k).resolve_right (by omega)).symm
  unfold State.dutyGroup
  dsimp only
  split
  · rw [State.fld, State.flag, unmutePaths_reg _ _ hps]
    exact ⟨(fld_setFlag_beside _ _ _ (by decide) (by decide)).trans hzero, flag_setFlag _ _ _ _ (by decide)⟩
  · rename_i hm
    exact ⟨hzero, Bool.eq_false_iff.mpr hm⟩

theorem dutyGroup_reg (t : State) {k off : Nat} (hd : off ≠ Reg.tlpDuty k) (hp : ∀ n ∈ pathsOf k, off ≠ Reg.tlpPs n) :
    (t.dutyGroup k).reg off = t.reg off := by
  unfold State.dutyGroup
  dsimp only
  split
  · rw [unmutePaths_reg _ _ hp, reg_setFlag_ne _ _ _ _ _ hd, reg_setFld_ne _ _ _ _ _ _ hd]
  · exact reg_setFld_ne _ _ _ _ _ _ hd

theorem dutyGroup_duty (t : State) {j k : Nat} (hj : j < 8) (hk : k < 8) (h : j ≠ k) :
    (t.dutyGroup k).reg (Reg.tlpDuty j) = t.reg (Reg.tlpDuty j) :=
  dutyGroup_reg t (by unfold Reg.tlpDuty; omega) fun n hn =>
    ((tlpPs_ne_duty (pathsOf_lt hk hn) j).resolve_right (by omega)).symm

theorem dutyGroup_stays (t : State) {k n : Nat} (hk : k < 8) (hn : n < 128) (h : t.flag (Reg.tlpPs n) 21 = false) :
    (t.dutyGroup k).flag (Reg.tlpPs n) 21 = false := by
  have hne : Reg.tlpPs n ≠ Reg.tlpDuty k := (tlpPs_ne_duty hn k).resolve_right (by omega)
  unfold State.dutyGroup
  dsimp only
  split
  · refine unmutePaths_stays _ _ ?_
    rw [flag_setFlag_ne _ _ _ _ _ _ hne, State.flag, reg_setFld_ne _ _ _ _ _ _ hne]
    exact h
  · rw [State.flag, reg_setFld_ne _ _ _ _ _ _ hne]
    exact h

theorem dutyGroup_unmutes (t : State) {k n : Nat} (hm : t.dutyMuted k = true) (hn : n ∈ pathsOf k) :
    (t.dutyGroup k).flag (Reg.tlpPs n) 21 = false := by
  have hmuted : (t.setFld (Reg.tlpDuty k) 15 0 0).dutyMuted k = true := by
    have : (t.setFld (Reg.tlpDuty k) 15 0 0).flag (Reg.tlpDuty k) 31 = t.flag (Reg.tlpDuty k) 31 := by
      rw [State.flag, reg_setFld, if_pos rfl, bit_setBits_outside _ _ (by decide) (by decide)]
      rfl
    rw [State.dutyMuted, this]
    exact hm
  unfold State.dutyGroup
  dsimp only
  rw [if_pos hmuted]
  exact foldl_unmute hn _

/-- The start of a frame, group by group. -/
theorem foldl_dutyGroup {l : List Nat} (hl : ∀ k ∈ l, k < 8) (hnd : l.Nodup) (s : State) :
    (∀ k ∈ l, (l.foldl State.dutyGroup s).fld (Reg.tlpDuty k) 15 0 = 0 ∧ (l.foldl State.dutyGroup s).flag
      (Reg.tlpDuty k) 31 = false) ∧
      ∀ k ∈ l, ∀ n ∈ pathsOf k, s.dutyMuted k = true → (l.foldl State.dutyGroup s).flag (Reg.tlpPs n) 21 = false := by
  induction l generalizing s with
  | nil => exact ⟨fun _ h => (List.not_mem_nil h).elim, fun _ h => (List.not_mem_nil h).elim⟩
  | cons j l ih =>
    obtain ⟨hjl, hnd⟩ := List.nodup_cons.mp hnd
    have hj := hl j List.mem_cons_self
    have hl' : ∀ k ∈ l, k < 8 := fun k hk => hl k (List.mem_cons_of_mem _ hk)
    obtain ⟨hzero, hmute⟩ := ih hl' hnd (s.dutyGroup j)
    have hkeep : (l.foldl State.dutyGroup (s.dutyGroup j)).reg (Reg.tlpDuty j) = (s.dutyGroup j).reg (Reg.tlpDuty j) :=
      List.foldlRecOn (motive := fun t : State => t.reg (Reg.tlpDuty j) = (s.dutyGroup j).reg (Reg.tlpDuty j)) l _ rfl
        fun t ht k hk =>
        (dutyGroup_duty t hj (hl' k hk) fun e => hjl (e ▸ hk)).trans ht
    rw [List.foldl_cons]
    constructor
    · intro k hk
      rcases List.mem_cons.mp hk with rfl | hk
      · rw [State.fld, State.flag, hkeep]
        exact dutyGroup_self s hj
      · exact hzero k hk
    · intro k hk n hn hm
      rcases List.mem_cons.mp hk with rfl | hk
      · exact List.foldlRecOn (motive := fun t : State => t.flag (Reg.tlpPs n) 21 = false) l _ (dutyGroup_unmutes s hm hn)
          fun _ ht x hx => dutyGroup_stays _ (hl' x hx) (pathsOf_lt hj hn) ht
      · refine hmute k hk n hn ?_
        rw [State.dutyMuted, State.flag, dutyGroup_duty s (hl' k hk) hj fun e => hjl (e ▸ hk)]
        exact hm

theorem of_dutyFrame {β : Type} (P : State → β) (hP : ∀ (t : State) r a, P { t with regs := r, air := a } = P t) (s : State) :
    P s.dutyFrame = P s := by
  rw [dutyFrame_eq]
  refine List.foldlRecOn (motive := fun t : State => P t = P s) _ _ (hP s s.regs _) fun t ht k _ => ?_
  have hset : ∀ (u : State) o v, P (u.setReg o v) = P u := fun u o v => hP u _ u.air
  have hpaths : ∀ u : State, P (u.unmutePaths k) = P u := fun u =>
    List.foldlRecOn (motive := fun v : State => P v = P u) _ _ rfl fun v hv n _ => (hset v _ _).trans hv
  unfold State.dutyGroup
  dsimp only
  split
  · exact (hpaths _).trans ((hset _ _ _).trans ((hset _ _ _).trans ht))
  · exact (hset _ _ _).trans ht

theorem dutyFrame_reg (s : State) {off : Nat} (hd : ∀ k, k < 8 → off ≠ Reg.tlpDuty k) (hp : ∀ n, n < 128 → off ≠ Reg.tlpPs n) :
    s.dutyFrame.reg off = s.reg off := by
  rw [dutyFrame_eq]
  exact List.foldlRecOn (motive := fun t : State => t.reg off = s.reg off) _ _ rfl fun t ht k hk =>
    (dutyGroup_reg t (hd k (List.mem_range.mp hk)) fun n hn => hp n (pathsOf_lt (List.mem_range.mp hk) hn)).trans ht

/-! ## Alignments (R146) -/

theorem writeAirCtl_align {s : State} {val : Word} (h : val.getLsbD 0 = true) : s.writeAirCtl val 0xFFFFFFFF =
    if future (s.reg Reg.tlpAirNextTns) s.tns then
      { s with air := { s.air with align := some (s.reg Reg.tlpAirNextTns, s.reg Reg.tlpAirNextAfc) } }
    else s.raiseBit Reg.tlpAirSticky 26 := by
  rw [State.writeAirCtl, and_allOnes_word]
  exact if_pos h

/-- A pair is in use that an alignment must not disturb (R146). -/
def State.pairsUsed (s : State) : Bool := (List.range 128).any (fun n => emits (s.ps n) || takes (s.ps n) || s.ps n == psCal)

theorem used_iff (st : Nat) : (emits st || takes st || st == psCal) = true ↔ st ∈ [psTx, psRx, psFdx, psCal] := by
  simp only [emits, takes, Bool.or_eq_true, beq_iff_eq, List.mem_cons, List.not_mem_nil, or_false]
  tauto

theorem pairsUsed_iff (s : State) : s.pairsUsed = true ↔ ∃ n, n < 128 ∧ s.ps n ∈ [psTx, psRx, psFdx, psCal] := by
  rw [State.pairsUsed, List.any_eq_true]
  refine exists_congr fun n => ?_
  rw [List.mem_range, used_iff]

/-- The state in which an alignment to frame `afc` at `t` has taken effect, before its frame begins. -/
def State.alignedAt (s : State) (t afc : Word) : State :=
  ((({ s with air := { s.air with align := none } } : State).setReg Reg.tlpAirAfc (afc + BitVec.ofNat 32
    ((s.tns - t).toNat / 10000000))).setReg
    Reg.tlpAirFrameTns (t + BitVec.ofNat 32 ((s.tns - t).toNat / 10000000 * 10000000))).setFlag Reg.tlpAirCtl 1 true

theorem alignStart_eq {s : State} {t afc : Word} (h : s.air.align = some (t, afc)) (hf : future t s.tns = false) :
    s.alignStart false = if s.pairsUsed then ({ s with air := { s.air with align := none } } : State).raiseBit Reg.tlpAirSticky 26
      else ((((s.alignedAt t afc).landFrame).landIdle).clearFreqs).dutyFrame.frameEvents := by
  have hnot : ¬ future t s.tns = true := by rw [hf]; decide
  rw [State.alignStart, h]
  dsimp only
  rw [if_neg hnot, if_neg Bool.false_ne_true, State.alignedAt]
  rfl

theorem exec_alignmentStart {s : State} (h : s.up domCob = true) : exec .alignmentStart s = .next (s.alignStart false) :=
  congrArg Host.Outcome.next (if_pos h)

theorem alignedAt_regs (s : State) (t afc : Word) : (s.alignedAt t afc).flag Reg.tlpAirCtl 1 = true ∧
    (s.alignedAt t afc).reg Reg.tlpAirAfc = afc + BitVec.ofNat 32 ((s.tns - t).toNat / 10000000) ∧
    (s.alignedAt t afc).reg Reg.tlpAirFrameTns = t + BitVec.ofNat 32 ((s.tns - t).toNat / 10000000 * 10000000) := by
  unfold State.alignedAt
  refine ⟨flag_setFlag _ _ _ _ (by decide), ?_, ?_⟩
  · rw [reg_setFlag_ne _ _ _ _ _ (by decide), reg_setReg_ne _ _ _ _ (by decide), reg_setReg_same]
  · rw [reg_setFlag_ne _ _ _ _ _ (by decide), reg_setReg_same]

theorem alignedAt_mem (s : State) (t afc : Word) : (s.alignedAt t afc).mem = s.mem := by
  rw [State.alignedAt, setFlag_mem, setReg_mem, setReg_mem]

theorem alignedAt_air (s : State) (t afc : Word) : (s.alignedAt t afc).air = { s.air with align := none } := by
  rw [State.alignedAt, setFlag_air, setReg_air, setReg_air]

/-! ## Frames (R145) -/

/-- Number and start of a frame. -/
def State.framed (s : State) (afc start : Word) : State := (s.setReg Reg.tlpAirAfc afc).setReg Reg.tlpAirFrameTns start

theorem framed_mem (s : State) (afc start : Word) : (s.framed afc start).dutyFrame.mem = s.mem :=
  of_dutyFrame State.mem (fun _ _ _ => rfl) (s.framed afc start)

/-- The state in which the next frame has begun, before what waits for it lands. -/
def State.frameBegun (s : State) : State :=
  (s.framed (s.reg Reg.tlpAirAfc + 1) (s.reg Reg.tlpAirFrameTns + 10000000)).dutyFrame

theorem frameBoundary_eq (s : State) : s.frameBoundary =
    if s.frameBegun.silentAt s.frameBegun.frameStart then s.frameBegun
    else ((s.frameBegun.landFrame.landIdle).clearFreqs).setEv 172 := rfl

/-- The condition under which a frame boundary is due. -/
def State.frameDue (s : State) : Bool :=
  s.up domCob && s.aligned && decide (10000000 ≤ (s.tns - s.reg Reg.tlpAirFrameTns).toNat)

theorem exec_airFrameBoundary (s : State) : exec .airFrameBoundary s = .next (
    if s.frameDue then (if s.up domRing then s.frameBoundary.sendStatus else s.frameBoundary)
    else if s.season = 2 ∧ s.up domRing then s.sendStatus else s) := rfl

theorem frameDue_iff (s : State) : s.frameDue = true ↔
    s.up domCob = true ∧ s.aligned = true ∧ 10000000 ≤ (s.tns - s.reg Reg.tlpAirFrameTns).toNat := by
  rw [State.frameDue, Bool.and_eq_true, Bool.and_eq_true, decide_eq_true_iff, and_assoc]

theorem framed_reg (s : State) (afc start : Word) :
    (s.framed afc start).dutyFrame.reg Reg.tlpAirAfc = afc ∧ (s.framed afc start).dutyFrame.reg Reg.tlpAirFrameTns = start := by
  constructor
  · rw [dutyFrame_reg _ (fun k _ => by unfold Reg.tlpAirAfc Reg.tlpDuty; omega)
    (fun n _ => by unfold Reg.tlpAirAfc Reg.tlpPs; omega),
      State.framed, reg_setReg_ne _ _ _ _ (by decide), reg_setReg_same]
  · rw [dutyFrame_reg _ (fun k _ => by unfold Reg.tlpAirFrameTns Reg.tlpDuty; omega)
      (fun n _ => by unfold Reg.tlpAirFrameTns Reg.tlpPs; omega), State.framed, reg_setReg_same]

theorem framed_duty (s : State) (afc start : Word) :
    (∀ k, k < 8 → (s.framed afc start).dutyFrame.fld (Reg.tlpDuty k) 15 0 = 0 ∧
      (s.framed afc start).dutyFrame.flag (Reg.tlpDuty k) 31 = false) ∧
    ∀ k n, k < 8 → s.dutyMuted k = true → n ∈ pathsOf k → (s.framed afc start).dutyFrame.flag (Reg.tlpPs n) 21 = false := by
  rw [dutyFrame_eq]
  obtain ⟨hzero, hmute⟩ := foldl_dutyGroup (l := List.range 8) (fun k hk => List.mem_range.mp hk) List.nodup_range
    { s.framed afc start with air := { (s.framed afc start).air with duty := [] } }
  refine ⟨fun k hk => hzero k (List.mem_range.mpr hk), fun k n hk hm hn => hmute k (List.mem_range.mpr hk) n hn ?_⟩
  have hreg : (s.framed afc start).reg (Reg.tlpDuty k) = s.reg (Reg.tlpDuty k) := by
    rw [State.framed, reg_setReg_ne _ _ _ _ (by unfold Reg.tlpDuty Reg.tlpAirFrameTns; omega),
      reg_setReg_ne _ _ _ _ (by unfold Reg.tlpDuty Reg.tlpAirAfc; omega)]
  exact (congrArg (bit · 31) hreg).trans hm

/-- A frame boundary that is due (R145, R166). -/
theorem airFrameBoundary_due {s : State} (h : s.frameDue = true) : ∃ u : State,
    u.reg Reg.tlpAirAfc = s.reg Reg.tlpAirAfc + 1 ∧ u.reg Reg.tlpAirFrameTns = s.reg Reg.tlpAirFrameTns + 10000000 ∧
      (∀ k, k < 8 → u.fld (Reg.tlpDuty k) 15 0 = 0 ∧ u.flag (Reg.tlpDuty k) 31 = false) ∧
      (∀ k n, k < 8 → s.dutyMuted k = true → n ∈ pathsOf k → u.flag (Reg.tlpPs n) 21 = false) ∧ u.mem = s.mem ∧
      exec .airFrameBoundary s = .next (
        let t := if u.silentAt u.frameStart then u else ((u.landFrame.landIdle).clearFreqs).setEv 172
        if s.up domRing then t.sendStatus else t) := by
  obtain ⟨hafc, htns⟩ := framed_reg s (s.reg Reg.tlpAirAfc + 1) (s.reg Reg.tlpAirFrameTns + 10000000)
  obtain ⟨hzero, hmute⟩ := framed_duty s (s.reg Reg.tlpAirAfc + 1) (s.reg Reg.tlpAirFrameTns + 10000000)
  refine ⟨s.frameBegun, hafc, htns, hzero, hmute, framed_mem _ _ _, ?_⟩
  rw [exec_airFrameBoundary, if_pos h, frameBoundary_eq]

/-- A frame boundary that is not due leaves the state, but that a ring in Winter gets its status. -/
theorem airFrameBoundary_undue {s : State} (h : s.frameDue = false) :
    exec .airFrameBoundary s = .next (if s.season = 2 ∧ s.up domRing then s.sendStatus else s) := by
  rw [exec_airFrameBoundary, if_neg (by rw [h]; decide)]

/-! ## Slots and symbols -/

/-- The start of the slot in progress. -/
def State.slotEdge (s : State) (c : Nat) : Int := s.frameStart + symStart (s.mu c) (14 * s.slotNow c)

theorem exec_slotBoundary (s : State) (c : Nat) : exec (.slotBoundary c) s = .next (
    if c < 2 ∧ s.up domCob ∧ s.carOn c then
      (if s.silentAt (s.slotEdge c) then s.readPattern c
       else (if s.up domRing ∧ s.carPick false = some c then s.landPlan (s.slotEdge c) else s).slotStart c)
    else s) := rfl

theorem readPattern_reg (s : State) (c : Nat) : (s.readPattern c).reg (inPat c) = s.reg (Reg.tlpAirPattern c (s.patEntry c)) ∧
    ∀ off, off ≠ inPat c → off ≠ inPatPrev c → (s.readPattern c).reg off = s.reg off := by
  unfold State.readPattern
  refine ⟨reg_setReg_same _ _ _, fun off h1 h2 => ?_⟩
  rw [reg_setReg_ne _ _ _ _ h1, reg_setReg_ne _ _ _ _ h2]

/-! ## AIR_CFG (R150) -/

theorem writeAirCfg_eq (s : State) (c : Nat) (val mask : Word) : s.writeAirCfg c val mask =
    if periodOk ((s.writeFields (Reg.tlpAirCfg c) val mask).fld (Reg.tlpAirCfg c) 6 0)
      ((s.writeFields (Reg.tlpAirCfg c) val mask).fld (Reg.tlpAirCfg c) 25 24) then s.writeFields (Reg.tlpAirCfg c) val mask
    else ((s.writeFields (Reg.tlpAirCfg c) val mask).setFld (Reg.tlpAirCfg c) 6 0 (s.fld (Reg.tlpAirCfg c) 6 0)).setFld
      (Reg.tlpAirCfg c) 25 24 (s.fld (Reg.tlpAirCfg c) 25 24) := rfl

/-- Two fields put back into a register read as they were. -/
theorem fld_putBack (s u : State) (off : Nat) :
    ((u.setFld off 6 0 (s.fld off 6 0)).setFld off 25 24 (s.fld off 25 24)).fld off 6 0 = s.fld off 6 0 ∧
      ((u.setFld off 6 0 (s.fld off 6 0)).setFld off 25 24 (s.fld off 25 24)).fld off 25 24 = s.fld off 25 24 := by
  constructor
  · rw [State.fld, reg_setFld, if_pos rfl, bits_setBits_ne _ _ _ _ _ _ (by decide) (by decide)]
    exact (fld_setFld u _ _ _ _ (by decide)).trans (Nat.mod_eq_of_lt (bits_lt _ 6 0))
  · exact (fld_setFld _ _ _ _ _ (by decide)).trans (Nat.mod_eq_of_lt (bits_lt _ 25 24))

theorem writeFields_airCfg_reg (s : State) {c off : Nat} (hc : c < 2) (val : Word) (h : off ≠ Reg.tlpAirCfg c) :
    (s.writeFields (Reg.tlpAirCfg c) val 0xFFFFFFFF).reg off = s.reg off := by
  have hres : reservedBit (Reg.tlpAirCfg c) = none := by
    have hblock : blockBase (Reg.tlpAirCfg c) = 0x100000 := by
      unfold blockBase Reg.tlpAirCfg
      rw [if_pos (by omega)]
      omega
    rw [reservedBit, hblock]
    rfl
  unfold State.writeFields
  split
  · rfl
  · dsimp only
    rw [hres]
    split
    · exact reg_setReg_ne _ _ _ _ h
    · exact reg_setReg_ne _ _ _ _ h

/-! ## Samples -/

theorem pathSample_last (s : State) (x : Int) : (s.pathSample x).smp.last = x := rfl

theorem samples_due {s : State} (h : s.up domCrm = true) (hx : s.gridNow ≠ s.smp.last) : s.samples = s.pathSample s.gridNow := by
  rw [State.samples, h, bne_iff_ne.mpr hx]; rfl

theorem samples_none {s : State} (h : s.up domCrm = false ∨ s.gridNow = s.smp.last) : s.samples = s := by
  refine if_neg fun hc => ?_
  rw [Bool.and_eq_true, bne_iff_ne] at hc
  rcases h with h | h
  · rw [h] at hc
    exact absurd hc.1 (by decide)
  · exact hc.2 h

theorem slotBoundary_on {s : State} {c : Nat} (hc : c < 2) (hup : s.up domCob = true) (hon : s.carOn c = true) :
    exec (.slotBoundary c) s = .next (
      if s.silentAt (s.slotEdge c) then s.readPattern c
      else (if s.up domRing ∧ s.carPick false = some c then s.landPlan (s.slotEdge c) else s).slotStart c) := by
  rw [exec_slotBoundary, if_pos ⟨hc, hup, hon⟩]

/-- A slot boundary that is not silent, without a ring. -/
theorem slotBoundary_starts {s : State} {c : Nat} (hc : c < 2) (hup : s.up domCob = true) (hon : s.carOn c = true)
    (hring : s.up domRing = false) (hsil : s.silentAt (s.slotEdge c) = false) : exec (.slotBoundary c) s = .next
      (s.slotStart c) := by
  have hplan : ¬(s.up domRing = true ∧ s.carPick false = some c) := fun h => by
    rw [hring] at h
    exact absurd h.1 (by decide)
  rw [slotBoundary_on hc hup hon, if_neg (Bool.eq_false_iff.mp hsil), if_neg hplan]

theorem slotBoundary_silent {s : State} {c : Nat} (hc : c < 2) (hup : s.up domCob = true) (hon : s.carOn c = true)
    (hsil : s.silentAt (s.slotEdge c) = true) : exec (.slotBoundary c) s = .next (s.readPattern c) := by
  rw [slotBoundary_on hc hup hon, if_pos hsil]

theorem boundaries_off {s : State} {c : Nat} (hoff : s.carOn c = false) :
    exec (.slotBoundary c) s = .next s ∧ exec (.symbolBoundary c) s = .next s := by
  have hnot : ¬(c < 2 ∧ s.up domCob = true ∧ s.carOn c = true) := fun h => by
    rw [hoff] at h
    exact absurd h.2.2 (by decide)
  exact ⟨congrArg Host.Outcome.next (if_neg hnot), congrArg Host.Outcome.next (if_neg hnot)⟩

/-- An alignment takes effect at its start. -/
theorem alignmentStart_idle {s : State} {t afc : Word} (hup : s.up domCob = true) (hal : s.air.align = some (t, afc))
    (hf : future t s.tns = false) (hidle : s.pairsUsed = false) :
    exec .alignmentStart s = .next ((((s.alignedAt t afc).landFrame).landIdle).clearFreqs).dutyFrame.frameEvents := by
  rw [exec_alignmentStart hup, alignStart_eq hal hf, if_neg (by rw [hidle]; decide)]

/-- With a pair in use it does not. -/
theorem alignmentStart_used {s : State} {t afc : Word} (hup : s.up domCob = true) (hal : s.air.align = some (t, afc))
    (hf : future t s.tns = false) (hused : s.pairsUsed = true) :
    exec .alignmentStart s = .next (({ s with air := { s.air with align := none } } : State).raiseBit Reg.tlpAirSticky 26) := by
  rw [exec_alignmentStart hup, alignStart_eq hal hf, if_pos hused]

theorem exec_airCfgWrite {s t : State} {p : Port} {c : Nat} {val : Word} (hc : c < 2) (hr : s.reaches p (Reg.tlpAirCfg c) = true)
    (h : s.writeAirCfg c val 0xFFFFFFFF = t) : exec (.airCfgWrite p c val) s = .next (t.noted p mgOk) :=
  (congrArg Host.Outcome.next (if_pos hc)).trans (next_hostReg hr h)

/-- A PERIOD that its MU does not allow changes neither (R150). -/
theorem airCfgWrite_refused {s : State} {p : Port} {c : Nat} {val : Word} (hc : c < 2) (hr : s.reaches p (Reg.tlpAirCfg c) = true)
    (hbad : periodOk ((s.writeFields (Reg.tlpAirCfg c) val 0xFFFFFFFF).fld (Reg.tlpAirCfg c) 6 0)
      ((s.writeFields (Reg.tlpAirCfg c) val 0xFFFFFFFF).fld (Reg.tlpAirCfg c) 25 24) = false) :
    ∃ t, exec (.airCfgWrite p c val) s = .next t ∧ t.fld (Reg.tlpAirCfg c) 6 0 = s.fld (Reg.tlpAirCfg c) 6 0 ∧
      t.fld (Reg.tlpAirCfg c) 25 24 = s.fld (Reg.tlpAirCfg c) 25 24 ∧ ∀ off, off ≠ Reg.tlpAirCfg c → t.reg off = s.reg off := by
  obtain ⟨h60, h2524⟩ := fld_putBack s (s.writeFields (Reg.tlpAirCfg c) val 0xFFFFFFFF) (Reg.tlpAirCfg c)
  refine ⟨_, exec_airCfgWrite hc hr ((writeAirCfg_eq _ _ _ _).trans (if_neg (by rw [hbad]; decide))), (fld_noted ..).trans h60,
    (fld_noted ..).trans h2524, fun off hoff => ?_⟩
  rw [reg_noted, reg_setFld_ne _ _ _ _ _ _ hoff, reg_setFld_ne _ _ _ _ _ _ hoff, writeFields_airCfg_reg s hc val hoff]

/-- Settles O38: each boundary by the equation of its command. -/
theorem airFrame : Obligations.AirFrame := by
  unfold Obligations.AirFrame
  refine ⟨fun s hup hal hlate => airFrameBoundary_due ((frameDue_iff s).mpr ⟨hup, hal, hlate⟩), fun s hlate hs => ?_,
    fun s hup hs hring => ?_, fun s c hc hup hon hring hsil => slotBoundary_starts hc hup hon hring hsil,
    fun s c hc hup hon hsil => slotBoundary_silent hc hup hon hsil, fun s c => readPattern_reg s c,
      fun s c hoff => boundaries_off hoff,
    fun s off => ⟨(inForce_land s off off).trans (if_pos rfl), fun o ho => (inForce_land s off o).trans (if_neg ho)⟩,
    fun s c hc hup hon => congrArg Host.Outcome.next (if_pos ⟨hc, hup, hon⟩), fun s m hm => ?_, fun s p val hr h0 hf => ?_,
    fun s p val hr h0 hf => ?_, fun s t afc hup hal hf hidle => ?_, fun s t afc n hup hal hf hn hused => ?_,
    fun s p c val hc hr hok => exec_airCfgWrite hc hr ((writeAirCfg_eq _ _ _ _).trans (if_pos hok)),
    fun s p c val hc hr hbad => airCfgWrite_refused hc hr hbad, fun s hup hx => ?_, fun s h => samples_none h⟩
  · have hnot : s.frameDue = false := Bool.eq_false_iff.mpr fun h => by
      have := ((frameDue_iff s).mp h).2.2
      omega
    have hwin : ¬(s.season = 2 ∧ s.up domRing = true) := fun h => by
      rcases hs with hs | hs
      · exact hs h.1
      · rw [h.2] at hs
        cases hs
    rw [airFrameBoundary_undue hnot, if_neg hwin]
  · have hnot : s.frameDue = false := Bool.eq_false_iff.mpr fun h => by
      have := ((frameDue_iff s).mp h).1
      rw [hup] at this
      cases this
    rw [airFrameBoundary_undue hnot, if_pos ⟨hs, hring⟩]
  · obtain ⟨hrx, htx⟩ := tally_clips s hm
    exact ⟨hrx, htx, tally_mem s m⟩
  · exact next_hostReg hr ((writeAirCtl_align h0).trans (if_pos hf))
  · exact next_hostReg hr ((writeAirCtl_align h0).trans (if_neg (by rw [hf]; decide)))
  · have hnot : s.pairsUsed = false := Bool.eq_false_iff.mpr fun h => by
      obtain ⟨n, hn, hu⟩ := (pairsUsed_iff s).mp h
      exact hidle n hn hu
    obtain ⟨hflag, hafc, htns⟩ := alignedAt_regs s t afc
    exact ⟨s.alignedAt t afc, congrArg Air.align (alignedAt_air s t afc), hflag, hafc, htns, alignedAt_mem s t afc,
      alignmentStart_idle hup hal hf hnot⟩
  · exact ⟨{ s with air := { s.air with align := none } }, rfl, rfl,
      alignmentStart_used hup hal hf ((pairsUsed_iff s).mpr ⟨n, hn, hused⟩)⟩
  · rw [samples_due hup hx]
    exact ⟨rfl, pathSample_last _ _⟩

end Sys2Proof.Machine

/-! Weights and transforms (R213-R223): their numbers, and reads of memory by the device. -/
namespace Sys2Proof.Machine

/-! ## Places of a transform's results -/

/-- Two numbers of a mixed base agree digit by digit. -/
theorem digits_inj {a b x y m : Nat} (hx : x < m) (hy : y < m) (h : a * m + x = b * m + y) : a = b ∧ x = y := by
  have hdiv : ∀ c z, z < m → (c * m + z) / m = c := fun c z hz => by
    rw [Nat.mul_comm, Nat.mul_add_div (by omega), Nat.div_eq_of_lt hz, Nat.add_zero]
  have hab : a = b := by rw [← hdiv a x hx, h, hdiv b y hy]
  subst hab
  exact ⟨rfl, by omega⟩

/-- The places of 2^n results are a permutation. -/
theorem place_perm (n : Nat) {i j : Nat} (hi : i < 2 ^ n) (hj : j < 2 ^ n) :
    place n i < 2 ^ n ∧ (place n i = place n j → i = j) := by
  induction n using Nat.twoStepInduction generalizing i j with
  | zero =>
    rw [Nat.pow_zero] at *
    exact ⟨Nat.zero_lt_one, fun _ => by omega⟩
  | one => exact ⟨hi, id⟩
  | more n ih _ =>
    have hpow : 2 ^ (n + 2) = 4 * 2 ^ n := by rw [Nat.pow_add]; omega
    rw [hpow] at hi hj ⊢
    have hi' : i / 4 < 2 ^ n := by omega
    have hj' : j / 4 < 2 ^ n := by omega
    obtain ⟨hli, hinj⟩ := ih hi' hj'
    obtain ⟨hlj, -⟩ := ih hj' hi'
    have hmod : i % 4 * 2 ^ n ≤ 3 * 2 ^ n := Nat.mul_le_mul_right _ (by omega)
    rw [place, place]
    refine ⟨by omega, fun h => ?_⟩
    obtain ⟨hdigit, hrest⟩ := digits_inj hli hlj h
    have := hinj hrest
    omega

/-! ## Numbers of a given width -/

theorem clampI_mem {lo hi : Int} (h : lo ≤ hi) (v : Int) : lo ≤ clampI lo hi v ∧ clampI lo hi v ≤ hi := by
  unfold clampI
  split_ifs <;> omega

theorem clampI_of_mem {lo hi v : Int} (h : lo ≤ v) (h' : v ≤ hi) : clampI lo hi v = v := by
  rw [clampI, if_neg (by omega), if_neg (by omega)]

/-- A transform gives as many results as there are samples, each within the width. -/
theorem transform_width (inv : Bool) (n sh w : Nat) (xs : List Cx) : (transform inv n sh w xs).1.length = 2 ^ n ∧
    ∀ x ∈ (transform inv n sh w xs).1, satS w x.1 = x.1 ∧ satS w x.2 = x.2 := by
  unfold transform
  dsimp only
  refine ⟨by rw [List.length_map, List.length_map, List.length_range], fun x hx => ?_⟩
  obtain ⟨y, -, rfl⟩ := List.mem_map.mp hx
  exact ⟨satS_satS w _, satS_satS w _⟩

/-- Rounding to the nearest, ties upward. -/
theorem roundUp_near (k : Nat) (v : Int) :
    2 * v - 2 ^ k < 2 ^ (k + 1) * roundUp k v ∧ 2 ^ (k + 1) * roundUp k v ≤ 2 * v + 2 ^ k := by
  have hpos : (0 : Int) < 2 ^ (k + 1) := by positivity
  have hpow : (2 : Int) ^ (k + 1) = 2 * 2 ^ k := by rw [pow_succ]; ring
  have hle : roundUp k v * 2 ^ (k + 1) ≤ 2 * v + 2 ^ k := Int.ediv_mul_le _ hpos.ne'
  have hlt : 2 * v + 2 ^ k < (roundUp k v + 1) * 2 ^ (k + 1) := Int.lt_ediv_add_one_mul_self _ hpos
  rw [Int.add_mul, Int.one_mul] at hlt
  rw [Int.mul_comm (2 ^ (k + 1))]
  constructor
  · omega
  · exact hle

theorem rne_zero (k : Nat) : rne 0 k = 0 := by
  have hpos : (0 : Int) < (2 ^ k : Nat) := by exact_mod_cast Nat.two_pow_pos k
  have hd : ¬(((2 ^ k : Nat) : Int) < 2 * (0 % ((2 ^ k : Nat) : Int)) ∨
      (2 * (0 % ((2 ^ k : Nat) : Int)) = ((2 ^ k : Nat) : Int) ∧ 0 / ((2 ^ k : Nat) : Int) % 2 = 1)) := by
    rw [Int.zero_emod]
    omega
  unfold rne
  dsimp only
  rw [if_neg hd, Int.zero_ediv]

/-- A downlink PRB without shares is 0. -/
theorem prbSum_nil (a : Nat) (fs : Option Int) : prbSum a fs [] = List.replicate 12 (0, 0) := by
  have hzero : ∀ k, Cx.rne k (0, 0) = (0, 0) := fun k => by rw [Cx.rne, rne_zero]
  have hscale : ∀ f, Cx.scale f (0, 0) = (0, 0) := fun f => by rw [Cx.scale, Int.mul_zero]
  have htone : ∀ i : Nat, (match fs with
      | some f => Cx.rne 30 (Cx.scale f (Cx.sum []))
      | none => Cx.rne 15 (Cx.sum [])) = (0, 0) := fun _ => by
    cases fs with
    | none => exact hzero 15
    | some f => exact (congrArg (Cx.rne 30) (hscale f)).trans (hzero 30)
  rw [prbSum, List.eq_replicate_iff]
  refine ⟨by rw [List.length_map, List.length_range], fun x hx => ?_⟩
  obtain ⟨i, -, rfl⟩ := List.mem_map.mp hx
  exact htone i

theorem combine_length (ys : Spectra) (w : List Cx) (prb : Nat) : (combine ys w prb).length = 24 := by
  unfold combine
  rw [List.length_flatMap]
  simp

/-! ## Where weights come from -/

section
variable (s : State) (c layer prb : Nat) (u : List Word × Nat)

theorem groupVec_dynamic {w : Word} (hw : u.1[layer]? = some w) (hm : bit w 31 = true) :
    s.groupVec c u layer prb = if 6143 < bits w 28 16 + prb / s.pgSize c then .zero
      else .vector (dynVec u.2 (bits w 28 16 + prb / s.pgSize c)) := by
  rw [State.groupVec, hw, Option.getD_some, hm]
  rfl

theorem groupVec_book {w : Word} (hw : u.1[layer]? = some w) (hm : bit w 31 = false) :
    s.groupVec c u layer prb = .vector (bookVec (bits w 11 0)) := by
  rw [State.groupVec, hw, Option.getD_some, hm]
  rfl

theorem weightsFor_section {dl : Bool} {tl : Int} {y : Sect} (h : s.sectFor dl c layer prb tl = some y) :
    s.weightsFor dl c layer prb tl u = if y.rej then none else match y.wts with
      | some ws => some (.own ws)
      | none => some (if y.beam = 0 then s.groupVec c u layer prb else .vector (bookVec y.beam)) := by
  rw [State.weightsFor, h] <;> rfl

theorem weightsFor_none {dl : Bool} {tl : Int} (h : s.sectFor dl c layer prb tl = none) :
    s.weightsFor dl c layer prb tl u = if dl then some (s.groupVec c u layer prb) else none := by
  rw [State.weightsFor, h]

end

/-! ## Reads of memory -/

theorem readEcc_good {s : State} {a : Nat} (h : s.eccAt a = .good) : s.readEcc a = (s.rawWord a, false, s) := by
  rw [State.readEcc, h]

/-- A protected read changes memory, check bits, registers and messages alone. -/
theorem of_readEcc {β : Type} (P : State → β) (hP : ∀ (t : State) m e r o, P { t with mem := m, ecc := e, regs := r, out := o } = P t)
    (s : State) (a : Nat) : P (s.readEcc a).2.2 = P s := by
  have hraise : ∀ (t : State) off i, P (t.raiseBit off i) = P t := fun t off i =>
    of_apart P (fun u => hP u u.mem u.ecc [] []) (raiseBit_apart t off i)
  have hset : ∀ (t : State) off v, P (t.setReg off v) = P t := fun t off v => hP t t.mem t.ecc _ t.out
  unfold State.readEcc
  split
  · rfl
  · exact (hset _ _ _).trans (of_putWords P (fun t m e => hP t m e t.regs t.out) [_] s a)
  · dsimp only
    unfold State.eccUe State.count State.setFld
    exact (hraise _ _ _).trans ((hset _ _ _).trans (hset s _ _))

/-- Registers above those of the low blocks are none that a protected read writes. -/
theorem readEcc_reg_high (s : State) (a : Nat) {j : Nat} (h : 0x120000 ≤ j) : (s.readEcc a).2.2.reg j = s.reg j := by
  have hpba : ∀ k, k < 2 → j ≠ Reg.hstMsixPba k := fun k hk => by unfold Reg.hstMsixPba; omega
  have hidx := eccIndex_le a
  unfold State.readEcc
  split
  · rfl
  · rw [bump_reg_ne _ (by unfold Reg.glbEccCe; omega), State.reg, putWord_regs]
    rfl
  · rw [State.eccUe, raiseBit_reg_ne _ _ (by unfold Reg.glbSticky; omega) (hpba 0 (by decide)) (hpba 1 (by decide)),
      reg_setReg_ne _ _ _ _ (by unfold Reg.glbEccLast; omega), reg_count_ne _ _ _ _ (by unfold Reg.glbEccUe; omega)]

/-- Whatever a protected read keeps, a reader of weights keeps. -/
theorem readWeights_keeps {P : State → Prop} (hP : ∀ t a, P t → P (t.readEcc a).2.2) (n : Nat) {s : State} (a : Nat) (h : P s) :
    P (s.readWeights a n).2 := by
  induction n generalizing s a with
  | zero => exact h
  | succ n ih => exact ih _ (hP s a h)

theorem readVectors_keeps {P : State → Prop} (hP : ∀ t a, P t → P (t.readEcc a).2.2) (l : List Nat) {s : State} (h : P s) :
    P (s.readVectors l).2 := by
  induction l generalizing s with
  | nil => exact h
  | cons a l ih =>
    have hread := readWeights_keeps hP 128 a h
    rw [State.readVectors]
    exact ih hread

/-- Good words are read as they stand, and the read leaves the state. -/
theorem readWeights_good (s : State) (a n : Nat) (h : ∀ i, i < n → s.eccAt (a + 4 * i) = .good) :
    s.readWeights a n = ((List.range n).map (fun (i : Nat) => s.rawWord (a + 4 * i)), s) := by
  induction n generalizing a with
  | zero => rfl
  | succ n ih =>
    have h0 : s.eccAt a = .good := h 0 (Nat.succ_pos n)
    have hrest := ih (a + 4) fun i hi => by
      have := h (i + 1) (by omega)
      rwa [show a + 4 * (i + 1) = a + 4 + 4 * i by ring] at this
    rw [State.readWeights, readDev_good _ _ h0]
    dsimp only
    rw [hrest, List.range_succ_eq_map, List.map_cons, List.map_map]
    have hmap : (List.range n).map (fun i => s.rawWord (a + 4 + 4 * i)) = (List.range n).map ((fun i => s.rawWord (a + 4 * i)) ∘ Nat.succ) :=
      List.map_congr_left fun i _ => by
        rw [Function.comp_apply, show a + 4 * Nat.succ i = a + 4 + 4 * i by rw [Nat.succ_eq_add_one]; ring]
    rw [hmap]
    rfl

end Sys2Proof.Machine

/-! Selections of weights: commit points, descriptors, banks and ARRAY (R106, R107, R216-R219, R233). -/
namespace Sys2Proof.Machine

/-! ## Late selections (R219) -/

theorem lateSel_cases (s : State) (c : Nat) (tl : Int) (seq : Nat) :
    s.lateSel c tl seq = (s.bump (Reg.bmeCnt 5)).raiseBit Reg.bmeSticky 2 ∨ s.lateSel c tl seq = s := by
  unfold State.lateSel
  split
  · exact Or.inl rfl
  · exact Or.inr rfl

theorem lateSel_uncommitted {s : State} {c : Nat} (tl : Int) (seq : Nat)
  (h : alook s.bme.commits c = none) : s.lateSel c tl seq = s := by
  unfold State.lateSel
  rw [h]
  rfl

theorem lateSel_committed {s : State} {c seq q : Nat} {tl m : Int} (h : alook s.bme.commits c = some [(m, q)]) (hm : tl ≤ m)
  (hq : q ≤ seq) :
    s.lateSel c tl seq = (s.bump (Reg.bmeCnt 5)).raiseBit Reg.bmeSticky 2 := by
  unfold State.lateSel
  rw [h]
  exact if_pos (by simp [hm, hq])

theorem lateSel_bme (s : State) (c : Nat) (tl : Int) (seq : Nat) : (s.lateSel c tl seq).bme = s.bme := by
  rcases lateSel_cases s c tl seq with h | h
  · rw [h, raiseBit_bme, bump_bme]
  · rw [h]

/-- A late selection is counted and shown, in registers of its own. -/
theorem lateSel_reg (s : State) (c : Nat) (tl : Int) (seq : Nat) {off : Nat} (hc : off ≠ Reg.bmeCnt 5) (hs : off ≠ Reg.bmeSticky)
    (h : 0x400000 ≤ off) : (s.lateSel c tl seq).reg off = s.reg off := by
  rcases lateSel_cases s c tl seq with he | he
  · rw [he, raiseBit_reg_ne _ _ hs (by unfold Reg.hstMsixPba; omega) (by unfold Reg.hstMsixPba; omega), bump_reg_ne _ hc]
  · rw [he]

/-! ## Writes of descriptors (R217) -/

theorem writeFields_bme (s : State) (off : Nat) (val mask : Word) : (s.writeFields off val mask).bme = s.bme :=
  of_apart State.bme (fun _ => rfl) (writeFields_apart ..)

theorem exec_wdescWrite {s t : State} {p : Port} {dir c l : Nat} {val : Word} (hd : dir < 2) (hc : c < 2) (hl : l < 32)
    (hr : s.reaches p (Reg.bmeWdesc dir c l) = true) (h : s.writeWdesc dir c l val 0xFFFFFFFF = t) :
    exec (.wdescWrite p dir c l val) s = .next (t.noted p mgOk) :=
  (congrArg Host.Outcome.next (if_pos ⟨hd, hc, hl⟩)).trans (next_hostReg hr h)

theorem writeWdesc_down (s : State) (c l : Nat) (val mask : Word) : s.writeWdesc 0 c l val mask =
    (s.writeFields (Reg.bmeWdesc 0 c l) val mask).lateSel c s.nowU s.seq := rfl

theorem writeWdesc_up (s : State) (c l : Nat) (val mask : Word) : s.writeWdesc 1 c l val mask = s.writeFields
  (Reg.bmeWdesc 1 c l) val mask := rfl

/-! ## A waiting selection lands (R217) -/

theorem selKey_parts {d c l : Nat} (hc : c < 2) (hl : l < 32) :
    selKey d c l / 32 % 2 = c ∧ selKey d c l / 64 = d ∧ selKey d c l % 32 = l := by
  unfold selKey; omega

theorem bmeWdesc_ne {d c l : Nat} (hd : d < 2) (hc : c < 2) (hl : l < 32) :
    Reg.bmeWdesc d c l ≠ Reg.bmeCnt 5 ∧ Reg.bmeWdesc d c l ≠ Reg.bmeSticky ∧ 0x400400 ≤ Reg.bmeWdesc d c l ∧ Reg.bmeWdesc d c l < 0x400600 := by
  unfold Reg.bmeWdesc Reg.bmeCnt Reg.bmeSticky; omega

/-- A selection applied to its descriptor. -/
def State.selected (s : State) (off i : Nat) : State := (s.setFld off 11 0 i).setFlag off 31 false

theorem selected_fields (s : State) (off : Nat) {i : Nat} (hi : i < 4096) :
    (s.selected off i).fld off 11 0 = i ∧ (s.selected off i).flag off 31 = false := by
  unfold State.selected
  refine ⟨?_, flag_setFlag _ _ _ _ (by decide)⟩
  rw [fld_setFlag_beside _ _ _ (by decide) (by decide), fld_setFld _ _ _ _ _ (by decide)]
  exact Nat.mod_eq_of_lt hi

theorem landSel_one {s : State} {d c l i q : Nat} (hc : c < 2) (hl : l < 32) (tl : Int) (h : s.bme.sel = [(selKey d c l,
  (i, q))]) :
    s.landSel c tl =
      (let t := ({ s with bme := { s.bme with sel := [] } } : State).selected (Reg.bmeWdesc d c l) i
       if d = 0 then t.lateSel c tl q else t) := by
  obtain ⟨hcar, hdir, hlay⟩ := selKey_parts (d := d) hc hl
  have hbe : (selKey d c l / 32 % 2 == c) = true := beq_iff_eq.mpr hcar
  have hbne : (selKey d c l / 32 % 2 != c) = false := bne_eq_false_iff_eq.mpr hcar
  rw [State.landSel, h, List.filter_cons, List.filter_cons, hbe, hbne, if_pos rfl, if_neg Bool.false_ne_true]
  dsimp only [List.filter_nil, List.foldl_cons, List.foldl_nil]
  rw [hdir, hlay]
  rfl

theorem landSel_other {s : State} {d c l i q : Nat} (hc : c < 2) (hl : l < 32) (tl : Int) (h : s.bme.sel = [(selKey d c l,
  (i, q))]) :
    s.landSel (1 - c) tl = s := by
  obtain ⟨hcar, -, -⟩ := selKey_parts (d := d) hc hl
  have hne : selKey d c l / 32 % 2 ≠ 1 - c := by omega
  have hbe : (selKey d c l / 32 % 2 == 1 - c) = false := beq_eq_false_iff_ne.mpr hne
  have hbne : (selKey d c l / 32 % 2 != 1 - c) = true := bne_iff_ne.mpr hne
  rw [State.landSel, h, List.filter_cons, List.filter_cons, hbe, hbne, if_pos rfl, if_neg Bool.false_ne_true]
  have hsame : ({ s with bme := { s.bme with sel := [(selKey d c l, (i, q))] } } : State) = s := by rw [← h]
  exact hsame

/-- What a selection leaves when it has landed. -/
theorem landSel_effect {s : State} {d c l i q : Nat} (hd : d < 2) (hc : c < 2) (hl : l < 32) (hi : i < 4096) (tl : Int)
    (h : s.bme.sel = [(selKey d c l, (i, q))]) :
    (s.landSel c tl).fld (Reg.bmeWdesc d c l) 11 0 = i ∧ (s.landSel c tl).flag (Reg.bmeWdesc d c l) 31 = false ∧
      (s.landSel c tl).bme.sel = [] := by
  obtain ⟨hcnt, hst, hlo, -⟩ := bmeWdesc_ne hd hc hl
  obtain ⟨hfld, hflag⟩ := selected_fields ({ s with bme := { s.bme with sel := [] } } : State) (Reg.bmeWdesc d c l) hi
  rw [landSel_one hc hl tl h]
  dsimp only
  split
  · rw [State.fld, State.flag, lateSel_reg _ _ _ _ hcnt hst (by omega), lateSel_bme]
    exact ⟨hfld, hflag, rfl⟩
  · exact ⟨hfld, hflag, rfl⟩

/-! ## A bank swap lands (R107) -/

theorem bankKey_parts {d c : Nat} (hc : c < 2) : bankKey d c % 2 = c ∧ bankKey d c / 2 = d := by
  unfold bankKey; omega

/-- A bank put in force. -/
def State.banked (s : State) (k b : Nat) (l : List (Nat × Nat)) : State :=
  { s.setFld Reg.bmeBank k k b with bme := { (s.setFld Reg.bmeBank k k b).bme with counted := l } }

theorem landSwap_one {s : State} {d c b q : Nat} (hc : c < 2) (tl : Int) (h : s.bme.swap = [(bankKey d c, (b, q))]) :
    ∃ l, s.landSwap c tl = ({ s with bme := { s.bme with swap := [] } } : State).banked (bankKey d c) b l ∨
      s.landSwap c tl = (({ s with bme := { s.bme with swap := [] } } : State).banked (bankKey d c) b l).lateSel c tl q := by
  obtain ⟨hcar, -⟩ := bankKey_parts (d := d) hc
  have hbe : (bankKey d c % 2 == c) = true := beq_iff_eq.mpr hcar
  have hbne : (bankKey d c % 2 != c) = false := bne_eq_false_iff_eq.mpr hcar
  refine ⟨s.bme.counted.filter (fun x => x.1 != c || bankKey d c / 2 != 0), ?_⟩
  rw [State.landSwap, h, List.filter_cons, List.filter_cons, hbe, hbne]
  dsimp only [List.filter_nil, List.foldl_cons, List.foldl_nil]
  rw [if_pos rfl, if_neg Bool.false_ne_true, List.foldl_cons, List.foldl_nil]
  dsimp only
  split
  · exact Or.inr rfl
  · exact Or.inl rfl

theorem banked_bank (s : State) {k b : Nat} (l : List (Nat × Nat)) (hk : k < 4) (hb : b < 2) :
    (s.banked k b l).fld Reg.bmeBank k k = b ∧ ∀ k', k' < 4 → k' ≠ k →
      (s.banked k b l).fld Reg.bmeBank k' k' = s.fld Reg.bmeBank k' k' := by
  have hreg : (s.banked k b l).reg Reg.bmeBank = (s.setFld Reg.bmeBank k k b).reg Reg.bmeBank := rfl
  refine ⟨?_, fun k' hk' hne => ?_⟩
  · rw [State.fld, hreg]
    refine (fld_setFld s _ _ _ _ (by omega)).trans ?_
    rw [Nat.add_sub_cancel_left]
    exact Nat.mod_eq_of_lt hb
  · rw [State.fld, hreg, reg_setFld, if_pos rfl, bits_setBits_ne _ _ _ _ _ _ (by omega) (by omega)]
    rfl

/-- What a swap leaves when it has landed. -/
theorem landSwap_effect {s : State} {d c b q : Nat} (hd : d < 2) (hc : c < 2) (hb : b < 2) (tl : Int)
    (h : s.bme.swap = [(bankKey d c, (b, q))]) :
    (s.landSwap c tl).bank d c = b ∧ (s.landSwap c tl).bme.swap = [] ∧
      ∀ d' c', d' < 2 → c' < 2 → (d', c') ≠ (d, c) → (s.landSwap c tl).bank d' c' = s.bank d' c' := by
  obtain ⟨l, hland⟩ := landSwap_one (d := d) hc tl h
  have hkey : ∀ d' c', d' < 2 → c' < 2 → bankKey d' c' < 4 := fun d' c' _ _ => by unfold bankKey; omega
  have hne : ∀ d' c', d' < 2 → c' < 2 → (d', c') ≠ (d, c) → bankKey d' c' ≠ bankKey d c := fun d' c' _ _ hp e => hp (by
    unfold bankKey at e
    rw [Prod.mk.injEq]
    omega)
  obtain ⟨hself, hother⟩ := banked_bank ({ s with bme := { s.bme with swap := [] } } : State) l (hkey d c hd hc) hb
  have hbank : ∀ u : State, u.reg Reg.bmeBank = (({ s with bme := { s.bme with swap := [] } } : State).banked
    (bankKey d c) b l).reg Reg.bmeBank →
      u.bank d c = b ∧ ∀ d' c', d' < 2 → c' < 2 → (d', c') ≠ (d, c) → u.bank d' c' = s.bank d' c' := fun u hu => by
    refine ⟨?_, fun d' c' hd' hc' hp => ?_⟩
    · rw [State.bank, State.fld, hu]
      exact hself
    · rw [State.bank, State.fld, hu]
      exact hother _ (hkey d' c' hd' hc') (hne d' c' hd' hc' hp)
  rcases hland with hl | hl
  · rw [hl]
    obtain ⟨h1, h2⟩ := hbank _ rfl
    exact ⟨h1, rfl, h2⟩
  · rw [hl]
    obtain ⟨h1, h2⟩ := hbank _ (lateSel_reg _ c tl q (off := Reg.bmeBank) (by decide) (by decide) (by decide))
    exact ⟨h1, by rw [lateSel_bme]; rfl, h2⟩

/-! ## ARRAY (R233) -/

/-- The declaration of ARRAY. -/
def arrayDecl : RegDecl := ⟨"BME.ARRAY", 0x400044, [], 0x1, [fd "INDEX" 25 16 .rw, fdr "SIZE" 10 0 .rw [(1, 1024)]]⟩

theorem declOf_bmeArray : declOf Reg.bmeArray = some arrayDecl := by decide +kernel

theorem lock_bmeArray (r b : Nat) (h : lockOf Reg.bmeArray = some (r, b)) : Reg.bmeArray ≠ r := by
  simp [lockOf, blockBase, Reg.bmeArray] at h

theorem after_open {f : Field} (ha : f.acc = .rw) (hr : f.ok = []) (lk : Bool)
  (old new ones : Word) : f.after lk old new ones = bits new f.hi f.lo := by
  rw [Field.after, ha]
  exact if_pos (by rw [Field.accepts, hr]; rfl)

/-- The two fields of ARRAY after a write with a SIZE that is allowed. -/
theorem writeFields_array (s : State) {val : Word} (h1 : 1 ≤ val.toNat % 2048) (h2 : val.toNat % 2048 ≤ 1024) :
    (s.writeFields Reg.bmeArray val 0xFFFFFFFF).fld Reg.bmeArray 10 0 = val.toNat % 2048 ∧
      (s.writeFields Reg.bmeArray val 0xFFFFFFFF).fld Reg.bmeArray 25 16 = val.toNat / 65536 % 1024 := by
  have hsize : bits val 10 0 = val.toNat % 2048 := by
    rw [bits_eq_div, Nat.pow_zero, Nat.div_one]
    rfl
  have hfs := fld_writeFields declOf_bmeArray (by decide) lock_bmeArray (by decide) (f := fdr "SIZE" 10 0 .rw [(1, 1024)])
    (by decide) s val
  have hfi := fld_writeFields declOf_bmeArray (by decide) lock_bmeArray (by decide) (f := fd "INDEX" 25 16 .rw) (by decide) s val
  have hok : (fdr "SIZE" 10 0 .rw [(1, 1024)]).accepts (bits val 10 0) = true := by
    rw [hsize]
    simp [Field.accepts, fdr, h1, h2]
  refine ⟨hfs.trans ?_, hfi.trans ?_⟩
  · exact (if_pos hok).trans hsize
  · exact (after_open rfl rfl ..).trans (bits_eq_div val 25 16)

theorem writeArray_eq (s : State) {val : Word} (h1 : 1 ≤ val.toNat % 2048) (h2 : val.toNat % 2048 ≤ 1024) :
    s.writeArray val 0xFFFFFFFF = if val.toNat / 65536 % 1024 < val.toNat % 2048 then s.writeFields Reg.bmeArray val 0xFFFFFFFF
      else s.raiseBit Reg.bmeSticky 0 := by
  obtain ⟨hs, hi⟩ := writeFields_array s h1 h2
  unfold State.writeArray
  dsimp only
  rw [hs, hi]

theorem writeFields_array_reg (s : State) (val : Word) {off : Nat} (h : off ≠ Reg.bmeArray) :
    (s.writeFields Reg.bmeArray val 0xFFFFFFFF).reg off = s.reg off := by
  rw [writeFields_eq declOf_bmeArray (by decide) lock_bmeArray]
  exact reg_setReg_ne _ _ _ _ h

/-! ## Commit points (R219) -/

/-- What a commit point says of selections: those committed and used, those waiting. -/
def State.chosen (s : State) := (s.bme.commits, s.bme.used, s.bme.sel, s.bme.swap)

theorem chosen_parts {s t : State} (h : s.chosen = t.chosen) :
    s.bme.commits = t.bme.commits ∧ s.bme.used = t.bme.used ∧ s.bme.sel = t.bme.sel ∧ s.bme.swap = t.bme.swap := by
  simpa only [State.chosen, Prod.mk.injEq] using h

theorem of_bmeCount {β : Type} (P : State → β) (hP : ∀ (t : State) r o, P { t with regs := r, out := o } = P t) (s : State)
  (p : Nat × Nat) :
    P (s.bmeCount p) = P s := by
  have hraise : ∀ (t : State) off i, P (t.raiseBit off i) = P t := fun t off i =>
    of_apart P (fun u => hP u [] []) (raiseBit_apart t off i)
  have hcount : P (s.count (Reg.bmeCnt (p.1 % 16)) 31 0 p.2) = P s := hP s _ s.out
  unfold State.bmeCount
  split
  · rfl
  · dsimp only
    split
    · exact (hraise _ _ _).trans hcount
    · exact (hraise _ _ _).trans hcount
    · exact (hraise _ _ _).trans hcount
    · exact (hraise _ _ _).trans hcount
    · exact (hraise _ _ _).trans hcount
    · exact (hraise _ _ _).trans hcount
    · exact hcount

/-- Counts of the beam engine's stages are in CNT and STICKY. -/
theorem bmeCount_reg (s : State) (p : Nat × Nat) {off : Nat} (h : 0x400400 ≤ off) : (s.bmeCount p).reg off = s.reg off := by
  have hcnt : off ≠ Reg.bmeCnt (p.1 % 16) := by unfold Reg.bmeCnt; omega
  have hraise : ∀ i, ((s.count (Reg.bmeCnt (p.1 % 16)) 31 0 p.2).raiseBit Reg.bmeSticky i).reg off = s.reg off := fun i => by
    rw [raiseBit_reg_ne _ _ (by unfold Reg.bmeSticky; omega) (by unfold Reg.hstMsixPba; omega) (by unfold Reg.hstMsixPba; omega),
      reg_count_ne _ _ _ _ hcnt]
  unfold State.bmeCount
  split
  · rfl
  · dsimp only
    split
    · exact hraise _
    · exact hraise _
    · exact hraise _
    · exact hraise _
    · exact hraise _
    · exact hraise _
    · exact reg_count_ne _ _ _ _ hcnt

/-- One antenna's part of a weighted symbol. -/
def State.antennaPart (t : State) (c a : Nat) (tl : Int) (x : List Cx × Nat × Nat) : State :=
  ((t.putPart c a tl x.1).putExp 0 c tl x.2.1).bmeCount (1, x.2.2)

theorem antennaPart_chosen (t : State) (c a : Nat) (tl : Int) (x : List Cx × Nat × Nat) :
  (t.antennaPart c a tl x).chosen = t.chosen :=
  of_bmeCount State.chosen (fun _ _ _ => rfl) _ _

theorem antennaPart_mem (t : State) (c a : Nat) (tl : Int) (x : List Cx × Nat × Nat) : (t.antennaPart c a tl x).mem = t.mem :=
  of_bmeCount State.mem (fun _ _ _ => rfl) _ _

theorem antennaPart_reg (t : State) (c a : Nat) (tl : Int) (x : List Cx × Nat × Nat) {off : Nat} (h : 0x400400 ≤ off) :
    (t.antennaPart c a tl x).reg off = t.reg off := bmeCount_reg _ _ h

/-- The memory a symbol's weights are read from, and the parts made of them. -/
theorem weigh_eq (s : State) (c : Nat) (tl : Int) (u : List Word × Nat) : ∃ (l : List Nat) (f : Nat → List Cx × Nat × Nat)
  (d : List LayerPrb),
    s.weigh c tl u = { ((s.antennas c).foldl (fun t a => t.antennaPart c a tl (f a)) (s.readVectors l).2) with
      bme := { ((s.antennas c).foldl (fun t a => t.antennaPart c a tl (f a)) (s.readVectors l).2).bme with data := d } } :=
  ⟨_, _, _, rfl⟩

theorem weigh_chosen (s : State) (c : Nat) (tl : Int) (u : List Word × Nat) : (s.weigh c tl u).chosen = s.chosen := by
  obtain ⟨l, f, d, h⟩ := weigh_eq s c tl u
  have hread : (s.readVectors l).2.chosen = s.chosen :=
    readVectors_keeps (P := fun t => t.chosen = s.chosen)
      (fun t a ht => (of_readEcc State.chosen (fun _ _ _ _ _ => rfl) t a).trans ht) l rfl
  rw [h]
  exact List.foldlRecOn (motive := fun t : State => t.chosen = s.chosen) _ _ hread fun t ht a _ =>
    (antennaPart_chosen t c a tl _).trans ht

theorem weigh_reg (s : State) (c : Nat) (tl : Int) (u : List Word × Nat) {off : Nat} (ho : 0x400400 ≤ off) :
    (s.weigh c tl u).reg off = s.reg off := by
  obtain ⟨l, f, d, h⟩ := weigh_eq s c tl u
  have hread : (s.readVectors l).2.reg off = s.reg off :=
    readVectors_keeps (P := fun t => t.reg off = s.reg off)
      (fun t a ht => (readEcc_reg_high t a (by omega)).trans ht) l rfl
  rw [h]
  exact List.foldlRecOn (motive := fun t : State => t.reg off = s.reg off) _ _ hread fun t ht a _ =>
    (antennaPart_reg t c a tl _ ho).trans ht

/-- With every word good the memory stays as it is. -/
theorem weigh_mem {s : State} (hg : ∀ a, s.eccAt a = .good) (c : Nat) (tl : Int) (u : List Word × Nat) :
  (s.weigh c tl u).mem = s.mem := by
  obtain ⟨l, f, d, h⟩ := weigh_eq s c tl u
  have hread : (s.readVectors l).2 = s :=
    readVectors_keeps (P := fun t => t = s) (fun t a ht => by
      subst ht
      rw [readEcc_good (hg a)]) l rfl
  rw [h, hread]
  exact List.foldlRecOn (motive := fun t : State => t.mem = s.mem) _ _ rfl fun t ht a _ => (antennaPart_mem t c a tl _).trans ht

theorem weighRange_apart (s : State) (c : Nat) (tl : Int) (ds : List Word) : (s.weighRange c tl ds).apart = s.apart := by
  unfold State.weighRange
  dsimp only
  split
  · exact raiseBit_apart _ _ _
  · rfl

theorem weighRange_reg (s : State) (c : Nat) (tl : Int) (ds : List Word) {off : Nat} (h : 0x400400 ≤ off) :
    (s.weighRange c tl ds).reg off = s.reg off := by
  unfold State.weighRange
  dsimp only
  split
  · exact raiseBit_reg_ne _ _ (by unfold Reg.bmeSticky; omega) (by unfold Reg.hstMsixPba; omega) (by unfold Reg.hstMsixPba; omega)
  · rfl

theorem noteCommit_chosen (s : State) (c : Nat) (tl : Int) (u : List Word × Nat) : ∃ old,
    alook (s.noteCommit c tl u).bme.commits c = some (old ++ [(tl, s.seq)]) ∧ alook (s.noteCommit c tl u).bme.used c = some u ∧
      (s.noteCommit c tl u).bme.sel = s.bme.sel ∧ (s.noteCommit c tl u).bme.swap = s.bme.swap :=
  ⟨_, alook_aput_same _ _ _, alook_aput_same _ _ _, rfl, rfl⟩

theorem commitPoint_eq (s : State) (c : Nat) : s.commitPoint c =
    ((s.weighRange c (s.commitStart c) (s.selections c (s.commitStart c)).1).noteCommit c (s.commitStart c)
      (s.selections c (s.commitStart c))).weigh c (s.commitStart c) (s.selections c (s.commitStart c)) := rfl

theorem commit_chosen (r : State) (c : Nat) (tl : Int) (u : List Word × Nat) : ∃ old,
    alook ((r.noteCommit c tl u).weigh c tl u).bme.commits c = some (old ++ [(tl, r.seq)]) ∧
      alook ((r.noteCommit c tl u).weigh c tl u).bme.used c = some u ∧
      ((r.noteCommit c tl u).weigh c tl u).bme.sel = r.bme.sel ∧ ((r.noteCommit c tl u).weigh c tl u).bme.swap = r.bme.swap := by
  obtain ⟨old, hcommits, hused, hsel, hswap⟩ := noteCommit_chosen r c tl u
  have hw := weigh_chosen (r.noteCommit c tl u) c tl u
  generalize (r.noteCommit c tl u).weigh c tl u = w at hw ⊢
  obtain ⟨h1, h2, h3, h4⟩ := chosen_parts hw
  exact ⟨old, h1 ▸ hcommits, h2 ▸ hused, h3.trans hsel, h4.trans hswap⟩

theorem noteCommit_eccAt (r : State) (c : Nat) (tl : Int) (u : List Word × Nat) (a : Nat) :
  (r.noteCommit c tl u).eccAt a = r.eccAt a := rfl

theorem noteCommit_mem (r : State) (c : Nat) (tl : Int) (u : List Word × Nat) : (r.noteCommit c tl u).mem = r.mem := rfl

theorem noteCommit_reg (r : State) (c : Nat) (tl : Int) (u : List Word × Nat) (off : Nat) :
  (r.noteCommit c tl u).reg off = r.reg off := rfl

theorem eccAt_apart {s t : State} (h : s.apart = t.apart) (a : Nat) : s.eccAt a = t.eccAt a :=
  of_apart (fun u => u.eccAt a) (fun _ => rfl) h

/-- What a commit point keeps and leaves (R219). -/
theorem commitPoint_effect (s : State) (c : Nat) : ∃ old,
    alook (s.commitPoint c).bme.commits c = some (old ++ [(s.commitStart c, s.seq)]) ∧
      alook (s.commitPoint c).bme.used c = some (s.selections c (s.commitStart c)) ∧
      (s.commitPoint c).bme.sel = s.bme.sel ∧ (s.commitPoint c).bme.swap = s.bme.swap ∧
      ((∀ a, s.eccAt a = .good) → (s.commitPoint c).mem = s.mem) ∧
      ∀ d l, d < 2 → c < 2 → l < 32 → (s.commitPoint c).reg (Reg.bmeWdesc d c l) = s.reg (Reg.bmeWdesc d c l) := by
  rw [commitPoint_eq]
  generalize s.commitStart c = tl
  generalize s.selections c tl = u
  have hr := weighRange_apart s c tl u.1
  have hreg : ∀ off, 0x400400 ≤ off → (s.weighRange c tl u.1).reg off = s.reg off := fun off ho => weighRange_reg s c tl u.1 ho
  generalize s.weighRange c tl u.1 = r at hr hreg ⊢
  have hseq : r.seq = s.seq := of_apart State.seq (fun _ => rfl) hr
  have hbme : r.bme = s.bme := of_apart State.bme (fun _ => rfl) hr
  obtain ⟨old, hcommits, hused, hsel, hswap⟩ := commit_chosen r c tl u
  refine ⟨old, hseq ▸ hcommits, hused, hsel.trans (by rw [hbme]), hswap.trans (by rw [hbme]), fun hg => ?_,
    fun d l hd hc hl => ?_⟩
  · rw [weigh_mem fun a => (noteCommit_eccAt r c tl u a).trans ((eccAt_apart hr a).trans (hg a)), noteCommit_mem]
    exact of_apart State.mem (fun _ => rfl) hr
  · obtain ⟨-, -, hlo, -⟩ := bmeWdesc_ne hd hc hl
    rw [weigh_reg _ _ _ _ hlo, noteCommit_reg]
    exact hreg _ hlo

/-- Settles O41: each selection by the lemma of its operation, the numbers by those of the transform. -/
theorem weightSelections : Obligations.WeightSelections := by
  unfold Obligations.WeightSelections
  refine ⟨fun s c hc hup hrun hat hty => ?_, fun s c hno => ?_, fun s p c l val hc hl hr => ?_, fun s p c l val hc hl hr hn => ?_,
    fun s p c l val m q hc hl hr hcom hm hq => ?_, fun s d c l i q tl hd hc hl hi hsel => ?_,
    fun s d c b q tl hd hc hb hsw => landSwap_effect hd hc hb tl hsw, fun s p val hr h1 h2 hlt => ?_,
      fun s p val hr h1 h2 hge => ?_,
    fun s c u layer prb w hw hm => groupVec_dynamic s c layer prb u hw hm,
      fun s c u layer prb w hw hm => groupVec_book s c layer prb u hw hm,
    fun s dl c layer prb tl u y h => weightsFor_section s c layer prb u h,
      fun s c layer prb tl u h => weightsFor_none s c layer prb u h,
    fun s c layer prb tl u h => weightsFor_none s c layer prb u h, fun s a n h => readWeights_good s a n h,
    fun n i j hi hj => place_perm n hi hj, transform_width, roundUp_near, prbSum_nil, combine_length⟩
  · obtain ⟨old, hcommits, hused, hsel, hswap, hmem, hreg⟩ := commitPoint_effect s c
    exact ⟨s.commitPoint c, old, congrArg Host.Outcome.next
      (if_pos ⟨hc, hup, hrun, hat, hty⟩), hcommits, hused, hsel, hswap, hmem,
      fun d l hd hl => hreg d l hd hc hl⟩
  · refine congrArg Host.Outcome.next (if_neg fun h => ?_)
    obtain ⟨-, -, hrun, hat, hty⟩ := h
    rcases hno with hno | hno | hno
    · rw [hrun] at hno
      cases hno
    · rw [hat] at hno
      cases hno
    · omega
  · exact exec_wdescWrite (by decide) hc hl hr (writeWdesc_up s c l val _)
  · refine exec_wdescWrite (by decide) hc hl hr ((writeWdesc_down s c l val _).trans (lateSel_uncommitted _ _ ?_))
    rw [writeFields_bme]
    exact hn
  · refine exec_wdescWrite (by decide) hc hl hr ((writeWdesc_down s c l val _).trans (lateSel_committed ?_ hm hq))
    rw [writeFields_bme]
    exact hcom
  · obtain ⟨hfld, hflag, hempty⟩ := landSel_effect hd hc hl hi tl hsel
    exact ⟨hfld, hflag, hempty, landSel_other hc hl tl hsel⟩
  · obtain ⟨hsize, hindex⟩ := writeFields_array s h1 h2
    refine ⟨_, next_hostReg hr ((writeArray_eq s h1 h2).trans (if_pos hlt)), (fld_noted ..).trans hsize,
      (fld_noted ..).trans hindex,
      fun off hoff => (reg_noted ..).trans (writeFields_array_reg s val hoff)⟩
  · exact next_hostReg hr ((writeArray_eq s h1 h2).trans (if_neg (Nat.not_lt.mpr hge)))

end Sys2Proof.Machine

/-! Registers written as their declaration says, and flags and fields that stand beside one another. -/
namespace Sys2Proof.Machine

/-! ## Beside one another -/

theorem fld_setFld_beside (s : State) (off : Nat) {hi lo hi' lo' : Nat} (v : Nat) (h : hi' < lo ∨ hi < lo') (h32 : hi' < 32) :
    (s.setFld off hi lo v).fld off hi' lo' = s.fld off hi' lo' := by
  rw [State.fld, reg_setFld, if_pos rfl, bits_setBits_ne _ _ _ _ _ _ h h32]
  rfl

theorem flag_setFld_beside (s : State) (off : Nat) {hi lo i : Nat} (v : Nat) (h : i < lo ∨ hi < i) (h32 : i < 32) :
    (s.setFld off hi lo v).flag off i = s.flag off i := by
  rw [flag_eq_fld, fld_setFld_beside _ _ _ h h32, ← flag_eq_fld]

theorem flag_congr {s t : State} {off : Nat} (h : t.reg off = s.reg off) (i : Nat) : t.flag off i = s.flag off i := by
  rw [State.flag, State.flag, h]

theorem fld_congr {s t : State} {off : Nat} (h : t.reg off = s.reg off) (hi lo : Nat) : t.fld off hi lo = s.fld off hi lo := by
  rw [State.fld, State.fld, h]

theorem fld_bump (s : State) (off : Nat) : (s.bump off).fld off 31 0 = min (s.fld off 31 0 + 1)
  (2 ^ 32 - 1) := fld_count s off 0 1 (by decide)

/-! ## Blocks that are up -/

/-- Whether a block is up is read from the status of the domains. -/
theorem regUp_congr {s t : State} {off : Nat} (hd : domOfReg off < 12)
    (h : ∀ d, d < 12 → t.reg (Reg.pwrDomStatus (d - 1)) = s.reg (Reg.pwrDomStatus (d - 1))) : t.regUp off = s.regUp off := by
  have hup : ∀ d, d < 12 → t.up d = s.up d := fun d hd => up_congr (h d hd)
  rw [State.regUp, State.regUp, hup _ hd, hup _ (show domFh < 12 by decide), hup _ (show domRing < 12 by decide)]

/-- Registers of one domain are up together. -/
theorem regUp_beside (s : State) {off o : Nat} (hd : domOfReg o = domOfReg off) (ho : ¬(0xD0000 ≤ o ∧ o < 0xD1000))
    (hoff : ¬(0xD0000 ≤ off ∧ off < 0xD1000)) : s.regUp o = s.regUp off := by
  rw [State.regUp, State.regUp, if_neg ho, if_neg hoff, hd]

/-! ## Writes by a declaration -/

/-- A write to the register at `off` leaves what the fields of `d` make of it. -/
structure WritesAs (off : Nat) (d : RegDecl) : Prop where
  word : ∀ (s : State) val, s.writeFields off val 0xFFFFFFFF = s.setReg off (d.after (s.locked off) (s.reg off) val val)
  tidy : tidyFields d.fields = true

theorem writesAs_plain {off : Nat} {d : RegDecl} (hd : declOf off = some d) (hr : reservedBit off = none)
    (hl : ∀ r b, lockOf off = some (r, b) → off ≠ r) (ht : tidyFields d.fields = true) : WritesAs off d :=
  ⟨writeFields_eq hd hr hl, ht⟩

theorem writesAs_open {off : Nat} {d : RegDecl} (hd : declOf off = some d) (ho : d.fields.all (fun f => f.ok.isEmpty) = true)
    (hl : ∀ r b, lockOf off = some (r, b) → off ≠ r) (ht : tidyFields d.fields = true) : WritesAs off d :=
  ⟨writeFields_open hd ho hl, ht⟩

section
variable {off : Nat} {d : RegDecl} (h : WritesAs off d) (s : State) (val : Word)
include h

theorem WritesAs.reg_ne {j : Nat} (hj : j ≠ off) : (s.writeFields off val 0xFFFFFFFF).reg j = s.reg j := by
  rw [h.word]
  exact reg_setReg_ne _ _ _ _ hj

theorem WritesAs.fld {f : Field} (hf : f ∈ d.fields) :
    (s.writeFields off val 0xFFFFFFFF).fld off f.hi f.lo = f.after (s.locked off) (s.reg off) val val := by
  rw [h.word, fld_after h.tidy hf]

/-- A field that is read only stays. -/
theorem WritesAs.kept {hi lo : Nat} (name : String) (hf : fd name hi lo .ro ∈ d.fields) :
    (s.writeFields off val 0xFFFFFFFF).fld off hi lo = s.fld off hi lo := h.fld s val hf

/-- A field that takes every value takes the one written. -/
theorem WritesAs.taken {hi lo : Nat} (name : String) (hf : fd name hi lo .rw ∈ d.fields) :
    (s.writeFields off val 0xFFFFFFFF).fld off hi lo = bits val hi lo := (h.fld s val hf).trans (after_open rfl rfl ..)

/-- A field takes a value in its range. -/
theorem WritesAs.takenIn {hi lo a b : Nat} (name : String) (hf : fdr name hi lo .rw [(a, b)] ∈ d.fields) (ha : a ≤ bits val hi lo)
    (hb : bits val hi lo ≤ b) : (s.writeFields off val 0xFFFFFFFF).fld off hi lo = bits val hi lo :=
  (h.fld s val hf).trans (if_pos (by simp [Field.accepts, fdr, ha, hb]))

theorem WritesAs.flagKept {i : Nat} (name : String) (hf : fd name i i .ro ∈ d.fields) :
    (s.writeFields off val 0xFFFFFFFF).flag off i = s.flag off i := by
  rw [flag_eq_fld, h.kept s val name hf, ← flag_eq_fld]

theorem WritesAs.flagTaken {i : Nat} (name : String) (hf : fd name i i .rw ∈ d.fields) :
    (s.writeFields off val 0xFFFFFFFF).flag off i = bit val i := by
  rw [flag_eq_fld, h.taken s val name hf, bit_eq_div, bits_eq_div, Nat.add_sub_cancel_left, Nat.pow_one]

end

end Sys2Proof.Machine

/-! The duplex canceller: pages, commit, survey and snapshot, the receive chain (R189-R205, R238-R248). -/
namespace Sys2Proof.Machine

/-! ## Bits of a command word -/

theorem bit_orBit (w : Word) {k : Nat} (hk : k < 32) (i : Nat) : bit (w ||| BitVec.twoPow 32 k) i = (bit w i || decide
  (i = k)) := by
  rw [bit, BitVec.getLsbD_or, BitVec.getLsbD_twoPow, decide_eq_true hk, Bool.true_and]
  congr 1
  exact decide_eq_decide.mpr eq_comm

theorem bits_orBit (w : Word) {k hi lo : Nat} (h : hi < k ∨ k < lo) : bits (w ||| BitVec.twoPow 32 k) hi lo = bits w hi lo := by
  refine Nat.eq_of_testBit_eq fun i => ?_
  rw [testBit_bits, testBit_bits, BitVec.getLsbD_or, BitVec.getLsbD_twoPow]
  by_cases hi' : i < hi + 1 - lo
  · rw [decide_eq_false (p := k = lo + i) (by omega), Bool.and_false, Bool.or_false]
  · simp [hi']

theorem start_word : (0x80000000 : Word) = BitVec.twoPow 32 31 := by decide
theorem abort_word : (0x40000000 : Word) = BitVec.twoPow 32 30 := by decide

/-! ## Coefficient pages (R243-R245) -/

theorem of_putWord {β : Type} (P : State → β) (hP : ∀ (t : State) m e, P { t with mem := m, ecc := e } = P t) (s : State)
  (a : Nat) (w : Word) :
    P (s.putWord a w) = P s := of_putWords P hP [w] s a

theorem writePage_active {s : State} {off : Nat} (val mask : Word) (hlo : 0x580000 ≤ off) (ha : off % 4 = 0)
    (h : s.sicActive ((off - 0x580000) / 0x1000) ((off - 0x580000) / 0x800 % 2) = (off - 0x580000) / 0x400 % 2) :
    s.writePage off val mask = (s.bump Reg.sicCntBadw).raiseBit Reg.sicSticky 3 := by
  have hword : (off - 0x580000) / 4 * 4 = off - 0x580000 := by omega
  unfold State.writePage
  dsimp only
  rw [hword]
  exact if_pos h

/-- NT stores [20:16] of its word. -/
theorem bits_pageNt (val : Word) : bits (val &&& 0x801F0000) 20 16 = val.toNat / 2 ^ 16 % 32 := by
  refine Eq.trans ?_ (bits_eq_div val 20 16)
  refine Nat.eq_of_testBit_eq fun i => ?_
  rw [testBit_bits, testBit_bits, BitVec.getLsbD_and]
  by_cases hi : i < 5
  · have hmask : (0x801F0000 : Word).getLsbD (16 + i) = true := by interval_cases i <;> decide
    rw [hmask, Bool.and_true]
  · simp [show ¬ i < 20 + 1 - 16 from hi]

/-- The bits a shadow page's word takes (R11, R243). -/
theorem pageTaken (rel : Nat) (val : Word) :
    (if rel = 0x200 ∧ bits (val &&& (0xFFFFFFFF &&& pageMask rel)) 20 16 = 31 then (0xFFFFFFFF &&& pageMask rel) &&& 0xFFE0FFFF
      else 0xFFFFFFFF &&& pageMask rel) = if rel = 0x200 ∧ val.toNat / 2 ^ 16 % 32 = 31 then 0x80000000 else pageMask rel := by
  have hfull : (0xFFFFFFFF : Word) &&& pageMask rel = pageMask rel := by
    rw [BitVec.and_comm]
    exact and_allOnes_word _
  rw [hfull]
  by_cases hrel : rel = 0x200
  · subst hrel
    rw [show pageMask 0x200 = 0x801F0000 from rfl, bits_pageNt]
    rfl
  · rw [if_neg fun h => hrel h.1, if_neg fun h => hrel h.1]

theorem writePage_shadow {s : State} {off : Nat} {m : Word} (val : Word) (hlo : 0x580000 ≤ off) (ha : off % 4 = 0)
  (hg : s.eccAt off = .good)
    (h : s.sicActive ((off - 0x580000) / 0x1000) ((off - 0x580000) / 0x800 % 2) ≠ (off - 0x580000) / 0x400 % 2)
    (hm : m = if off % 0x400 = 0x200 ∧ val.toNat / 2 ^ 16 % 32 = 31 then 0x80000000 else pageMask (off % 0x400)) :
    s.writePage off val 0xFFFFFFFF = if m = 0 then s else s.putWord off ((s.rawWord off &&& ~~~ m) ||| (val &&& m)) := by
  have hword : (off - 0x580000) / 4 * 4 = off - 0x580000 := by omega
  have hrel : (off - 0x580000) % 0x400 = off % 0x400 := by omega
  have hback : 0x580000 + (off - 0x580000) = off := by omega
  unfold State.writePage
  dsimp only
  rw [hword, if_neg h, hrel, pageTaken, ← hm, hback, readDev_good s off hg]

theorem writePage_shadow_effect {s : State} {off : Nat} {m : Word} (val : Word) (hlo : 0x580000 ≤ off) (ha : off % 4 = 0)
    (hg : s.eccAt off = .good)
    (h : s.sicActive ((off - 0x580000) / 0x1000) ((off - 0x580000) / 0x800 % 2) ≠ (off - 0x580000) / 0x400 % 2)
    (hm : m = if off % 0x400 = 0x200 ∧ val.toNat / 2 ^ 16 % 32 = 31 then 0x80000000 else pageMask (off % 0x400)) :
    (s.writePage off val 0xFFFFFFFF).rawWord off = ((s.rawWord off &&& ~~~ m) ||| (val &&& m)) ∧
      (s.writePage off val 0xFFFFFFFF).regs = s.regs ∧
      ∀ a, (a < off ∨ off + 4 ≤ a) → (s.writePage off val 0xFFFFFFFF).byte a = s.byte a := by
  rw [writePage_shadow val hlo ha hg h hm]
  by_cases h0 : m = 0
  · rw [if_pos h0, h0]
    have hkeep : (s.rawWord off &&& ~~~(0 : Word)) ||| (val &&& 0) = s.rawWord off :=
      (congrArg₂ (· ||| ·) (and_allOnes_word _) BitVec.and_zero).trans BitVec.or_zero
    exact ⟨hkeep.symm, rfl, fun _ _ => rfl⟩
  · rw [if_neg h0]
    exact ⟨rawWord_putWord _ _ _, of_putWord State.regs (fun _ _ _ => rfl) _ _ _, fun a hne => byte_putWord_ne _ _ _ _ hne⟩

theorem setBitsOf_one {b : Nat} (hb : b < 32) : setBitsOf (BitVec.ofNat 32 (2 ^ b)) 32 = [b] := by
  revert b
  decide +kernel

/-- The carriers of a group hang on AIR_CTL and the words in force alone. -/
theorem inCarrier_congr {s t : State} (hreg : t.reg Reg.tlpAirCtl = s.reg Reg.tlpAirCtl) (hforce : t.force = s.force) (k : Nat) :
    t.inCarrier k = s.inCarrier k := by
  have hal : t.aligned = s.aligned := flag_congr hreg 1
  have hcfg : ∀ c, t.carCfg c = s.carCfg c := fun c => by rw [State.carCfg, State.carCfg, State.inForce, State.inForce, hforce]
  simp only [State.inCarrier, State.carries, State.carOn, hal, hcfg]

theorem inCarrier_sicStat (s : State) (r i k : Nat) (b : Bool) : (s.setFlag (Reg.sicStat r) i b).inCarrier k = s.inCarrier k :=
  inCarrier_congr (reg_setFlag_ne _ _ _ _ _ (by unfold Reg.tlpAirCtl Reg.sicStat; omega)) (setFlag_force ..) k

theorem writeCommit_one (s : State) (p w : Nat) {b : Nat} (hb : b < 32) : s.writeCommit p w (BitVec.ofNat 32 (2 ^ b)) =
    if s.inCarrier (groupOf (32 * w + b)) = true then s.setFlag (Reg.sicStat (32 * w + b)) (4 + p) true
    else (s.setFlag (Reg.sicStat (32 * w + b)) (4 + p) true).swapPages (32 * w + b) := by
  rw [State.writeCommit, setBitsOf_one hb, List.foldl_cons, List.foldl_nil]
  dsimp only
  rw [inCarrier_sicStat]

theorem swapPages_reg (s : State) (r : Nat) : (s.swapPages r).reg (Reg.sicStat r) =
    setBits (setBits (s.reg (Reg.sicStat r)) 1 0 (bits (s.reg (Reg.sicStat r)) 1 0 ^^^ bits (s.reg (Reg.sicStat r)) 5 4)) 5 4 0 :=
  reg_setReg_same ..

theorem swapPages_flags (s : State) (r : Nat) {p : Nat} (hp : p < 2) :
    (s.swapPages r).flag (Reg.sicStat r) p = (s.flag (Reg.sicStat r) p != s.flag (Reg.sicStat r) (4 + p)) ∧
      (s.swapPages r).flag (Reg.sicStat r) (4 + p) = false := by
  rw [State.flag, State.flag, State.flag, State.flag, swapPages_reg]
  have hlow : ∀ w : Word, (bits w 1 0).testBit p = bit w p := fun w => by
    rw [testBit_bits, Nat.zero_add, decide_eq_true hp, Bool.true_and]
    rfl
  have hpend : ∀ w : Word, (bits w 5 4).testBit p = bit w (4 + p) := fun w => by
    rw [testBit_bits, decide_eq_true (show p < 5 + 1 - 4 from hp), Bool.true_and]
    rfl
  refine ⟨?_, ?_⟩
  · rw [bit_setBits _ _ _ _ _ (by omega), if_neg (by omega), bit_setBits _ _ _ _ _ (by omega), if_pos (by omega), Nat.sub_zero,
      Nat.testBit_xor, hlow, hpend]
  · rw [bit_setBits _ _ _ _ _ (by omega), if_pos (by omega), Nat.zero_testBit]

/-! ## Surveys (R246) -/

/-- The declaration of SURVEY. -/
def surveyDecl : RegDecl :=
  ⟨"SIC.SURVEY", 0x500200, [], 0x0,
   [fd "START" 31 31 .w1p, fd "ABORT" 30 30 .w1p, fd "BUSY" 29 29 .ro, fd "DONE" 28 28 .ro, fd "CAR" 24 24 .rw,
    fdr "LAG0" 21 16 .rw [(0, 48)], fd "RX" 6 0 .rw]⟩

theorem writesAs_survey : WritesAs Reg.sicSurvey surveyDecl :=
  writesAs_plain (by decide +kernel) (by decide) (fun r b h => by simp [lockOf, blockBase, Reg.sicSurvey] at h) (by decide)

theorem flag_setSurvey (s : State) (v : Option (Nat × List (Int × Nat))) (off i : Nat) :
  (s.setSurvey v).flag off i = s.flag off i := rfl
theorem fld_setSurvey (s : State) (v : Option (Nat × List (Int × Nat))) (off hi lo : Nat) :
  (s.setSurvey v).fld off hi lo = s.fld off hi lo := rfl
theorem reg_setSurvey (s : State) (v : Option (Nat × List (Int × Nat))) (off : Nat) : (s.setSurvey v).reg off = s.reg off := rfl

theorem mem_setSurvey (s : State) (v : Option (Nat × List (Int × Nat))) : (s.setSurvey v).mem = s.mem := rfl
theorem smp_setSurvey (s : State) (v : Option (Nat × List (Int × Nat))) : (s.setSurvey v).smp.survey = v := rfl

/-- A survey that has been armed. -/
def State.surveyArmed (s : State) : State := ((s.setFlag Reg.sicSurvey 28 false).setFlag Reg.sicSurvey 29 true).setSurvey none

/-- A survey that has been ended without results. -/
def State.surveyEnded (s : State) : State := ((s.setFlag Reg.sicSurvey 29 false).setFlag Reg.sicSurvey 28 false).setSurvey none

theorem writeSurvey_start (s : State) {val : Word} (h : val.getLsbD 30 = false) : s.writeSurvey (val ||| 0x80000000) 0xFFFFFFFF =
    if s.flag Reg.sicSurvey 29 = true then (s.writeFields Reg.sicSurvey (val ||| 0x80000000) 0xFFFFFFFF).bump Reg.sicCntBadw
    else (s.writeFields Reg.sicSurvey (val ||| 0x80000000) 0xFFFFFFFF).surveyArmed := by
  have h31 : bit (val ||| 0x80000000) 31 = true := by rw [start_word, bit_orBit _ (by decide)]; simp
  have h30 : bit (val ||| 0x80000000) 30 = false := by rw [start_word, bit_orBit _ (by decide), bit, h]; rfl
  unfold State.writeSurvey
  dsimp only
  rw [and_allOnes_word, h31, h30, Bool.false_and, if_pos rfl, if_neg Bool.false_ne_true]
  rfl

theorem writeSurvey_abort (s : State) {val : Word} (h : val.getLsbD 31 = false) (hb : s.flag Reg.sicSurvey 29 = true) :
    s.writeSurvey (val ||| 0x40000000) 0xFFFFFFFF =
      (s.writeFields Reg.sicSurvey (val ||| 0x40000000) 0xFFFFFFFF).surveyEnded := by
  have h31 : bit (val ||| 0x40000000) 31 = false := by rw [abort_word, bit_orBit _ (by decide), bit, h]; rfl
  have h30 : bit (val ||| 0x40000000) 30 = true := by rw [abort_word, bit_orBit _ (by decide)]; simp
  have hbusy := (writesAs_survey.flagKept s (val ||| 0x40000000) "BUSY" (by decide)).trans hb
  unfold State.writeSurvey
  dsimp only
  rw [and_allOnes_word, h31, h30, if_neg Bool.false_ne_true, hbusy, Bool.true_and, if_pos rfl]
  rfl

theorem surveyArmed_effect
  (s : State) : s.surveyArmed.flag Reg.sicSurvey 29 = true ∧ s.surveyArmed.flag Reg.sicSurvey 28 = false ∧
    s.surveyArmed.fld Reg.sicSurvey 6 0 = s.fld Reg.sicSurvey 6 0 ∧ ∀ off, off ≠ Reg.sicSurvey → s.surveyArmed.reg off = s.reg off := by
  unfold State.surveyArmed
  refine ⟨?_, ?_, ?_, fun off hne => ?_⟩
  · rw [flag_setSurvey, flag_setFlag _ _ _ _ (by decide)]
  · rw [flag_setSurvey, flag_setFlag_other _ _ _ _ _ (by decide) (by decide), flag_setFlag _ _ _ _ (by decide)]
  · rw [fld_setSurvey, fld_setFlag_beside _ _ _ (by decide) (by decide), fld_setFlag_beside _ _ _ (by decide) (by decide)]
  · rw [reg_setSurvey, reg_setFlag_ne _ _ _ _ _ hne, reg_setFlag_ne _ _ _ _ _ hne]

theorem surveyEnded_effect
  (s : State) : s.surveyEnded.flag Reg.sicSurvey 29 = false ∧ s.surveyEnded.flag Reg.sicSurvey 28 = false ∧
    ∀ off, off ≠ Reg.sicSurvey → s.surveyEnded.reg off = s.reg off := by
  unfold State.surveyEnded
  refine ⟨?_, ?_, fun off hne => ?_⟩
  · rw [flag_setSurvey, flag_setFlag_other _ _ _ _ _ (by decide) (by decide), flag_setFlag _ _ _ _ (by decide)]
  · rw [flag_setSurvey, flag_setFlag _ _ _ _ (by decide)]
  · rw [reg_setSurvey, reg_setFlag_ne _ _ _ _ _ hne, reg_setFlag_ne _ _ _ _ _ hne]

/-- Levels written one after the other each stand in their register. -/
theorem foldl_levels (v : Nat → Word) (n : Nat) (s : State) :
    (∀ q, q < n → ((List.range n).foldl (fun u t => u.setReg (Reg.sicSurveyE t) (v t)) s).reg (Reg.sicSurveyE q) = v q) ∧
      ∀ off, (∀ t, t < n → off ≠ Reg.sicSurveyE t) →
        ((List.range n).foldl (fun u t => u.setReg (Reg.sicSurveyE t) (v t)) s).reg off = s.reg off := by
  induction n with
  | zero => exact ⟨fun q hq => absurd hq (Nat.not_lt_zero q), fun _ _ => rfl⟩
  | succ n ih =>
    obtain ⟨hval, hrest⟩ := ih
    rw [List.range_succ, List.foldl_append, List.foldl_cons, List.foldl_nil]
    refine ⟨fun q hq => ?_, fun off hoff => ?_⟩
    · by_cases hqn : q = n
      · rw [hqn, reg_setReg_same]
      · rw [reg_setReg_ne _ _ _ _ (by unfold Reg.sicSurveyE; omega)]
        exact hval q (by omega)
    · rw [reg_setReg_ne _ _ _ _ (hoff n (Nat.lt_succ_self n))]
      exact hrest off fun t ht => hoff t (by omega)

theorem of_foldl_levels {β : Type} (P : State → β) (hP : ∀ (t : State) r, P { t with regs := r } = P t) (v : Nat → Word)
  (l : List Nat) (s : State) :
    P (l.foldl (fun u t => u.setReg (Reg.sicSurveyE t) (v t)) s) = P s :=
  List.foldlRecOn (motive := fun t : State => P t = P s) _ _ rfl fun _ ht _ _ => (hP _ _).trans ht

/-- A survey's levels, its ranks and the lags of its ranks. -/
def State.surveyShown (s : State) (lv : List Int) (top lag : Word) : State :=
  (((List.range 128).foldl (fun u t => u.setReg (Reg.sicSurveyE t) (BitVec.ofInt 32
    ((lv[t]?).getD 0))) s).setReg Reg.sicSurveyTop top).setReg
    Reg.sicSurveyLag lag

theorem surveyDone_eq (s : State) (res : List (Int × Nat)) : ∃ lag, s.surveyDone res =
    (((s.surveyShown ((List.range 128).map (fun t => ((res[t]?).getD (-32768, 0)).1))
      (packFour (topFour ((List.range 128).map (fun t => ((res[t]?).getD
        (-32768, 0)).1)))) lag).setFlag Reg.sicSurvey 29 false).setFlag
        Reg.sicSurvey 28 true).setSurvey none := ⟨_, rfl⟩

theorem surveyShown_effect (s : State) (lv : List Int) (top lag : Word) : (s.surveyShown lv top lag).mem = s.mem ∧
    (∀ q, q < 128 → (s.surveyShown lv top lag).reg (Reg.sicSurveyE q) = BitVec.ofInt 32 ((lv[q]?).getD 0)) ∧
    (s.surveyShown lv top lag).reg Reg.sicSurveyTop = top := by
  obtain ⟨hval, -⟩ := foldl_levels (fun t => BitVec.ofInt 32 ((lv[t]?).getD 0)) 128 s
  unfold State.surveyShown
  refine ⟨?_, fun q hq => ?_, ?_⟩
  · rw [setReg_mem, setReg_mem]
    exact of_foldl_levels State.mem (fun _ _ => rfl) _ _ _
  · rw [reg_setReg_ne _ _ _ _ (by unfold Reg.sicSurveyE Reg.sicSurveyLag; omega),
      reg_setReg_ne _ _ _ _ (by unfold Reg.sicSurveyE Reg.sicSurveyTop; omega)]
    exact hval q hq
  · rw [reg_setReg_ne _ _ _ _ (by decide), reg_setReg_same]

theorem level_at (res : List (Int × Nat)) {q : Nat} (hq : q < 128) :
    (((List.range 128).map (fun t => ((res[t]?).getD (-32768, 0)).1))[q]?).getD 0 = ((res[q]?).getD (-32768, 0)).1 := by
  simp [hq]

theorem surveyDone_effect (s : State) (res : List (Int × Nat)) :
    (s.surveyDone res).flag Reg.sicSurvey 29 = false ∧ (s.surveyDone res).flag Reg.sicSurvey 28 = true ∧
      (s.surveyDone res).smp.survey = none ∧
      (s.surveyDone res).mem = s.mem ∧
      (∀ q, q < 128 → (s.surveyDone res).reg (Reg.sicSurveyE q) = BitVec.ofInt 32 ((res[q]?).getD (-32768, 0)).1) ∧
      (s.surveyDone res).reg Reg.sicSurveyTop = packFour (topFour ((List.range 128).map (fun q => ((res[q]?).getD
        (-32768, 0)).1))) := by
  obtain ⟨lag, heq⟩ := surveyDone_eq s res
  obtain ⟨hmem, hlev, htop⟩ := surveyShown_effect s ((List.range 128).map (fun t => ((res[t]?).getD (-32768, 0)).1))
    (packFour (topFour ((List.range 128).map (fun t => ((res[t]?).getD (-32768, 0)).1)))) lag
  rw [heq]
  refine ⟨?_, ?_, smp_setSurvey _ _, ?_, fun q hq => ?_, ?_⟩
  · rw [flag_setSurvey, flag_setFlag_other _ _ _ _ _ (by decide) (by decide), flag_setFlag _ _ _ _ (by decide)]
  · rw [flag_setSurvey, flag_setFlag _ _ _ _ (by decide)]
  · rw [mem_setSurvey, setFlag_mem, setFlag_mem, hmem]
  · have hne : Reg.sicSurveyE q ≠ Reg.sicSurvey := by unfold Reg.sicSurveyE Reg.sicSurvey; omega
    rw [reg_setSurvey, reg_setFlag_ne _ _ _ _ _ hne, reg_setFlag_ne _ _ _ _ _ hne, hlev q hq, level_at res hq]
  · rw [reg_setSurvey, reg_setFlag_ne _ _ _ _ _ (by decide), reg_setFlag_ne _ _ _ _ _ (by decide), htop]

end Sys2Proof.Machine

/-! The duplex canceller: snapshots, the receive chain, and the statement of the family (R189-R205, R238-R248). -/
namespace Sys2Proof.Machine

/-! ## Snapshots (R247, R248) -/

/-- The declaration of SNAP. -/
def snapDecl : RegDecl :=
  ⟨"SIC.SNAP", 0x500210, [], 0x100,
   [fd "START" 31 31 .w1p, fd "ABORT" 30 30 .w1p, fd "BUSY" 29 29 .ro, fd "DONE" 28 28 .ro, fd "CLIPPED" 27 27 .ro, fd "FAIL" 26 24 .ro,
    fd "CAR" 20 20 .rw, fdr "LOG2" 19 16 .rw [(9, 13)], fd "NA" 14 10 .ro, fd "PORT" 8 8 .rw, fd "RX" 6 0 .rw]⟩

theorem writesAs_snap : WritesAs Reg.sicSnap snapDecl :=
  writesAs_plain (by decide +kernel) (by decide) (fun r b h => by simp [lockOf, blockBase, Reg.sicSnap] at h) (by decide)

theorem flag_setSnap (s : State) (v : Option SnapRec) (off i : Nat) : (s.setSnap v).flag off i = s.flag off i := rfl
theorem fld_setSnap (s : State) (v : Option SnapRec) (off hi lo : Nat) : (s.setSnap v).fld off hi lo = s.fld off hi lo := rfl
theorem reg_setSnap (s : State) (v : Option SnapRec) (off : Nat) : (s.setSnap v).reg off = s.reg off := rfl
theorem mem_setSnap (s : State) (v : Option SnapRec) : (s.setSnap v).mem = s.mem := rfl
theorem smp_setSnap (s : State) (v : Option SnapRec) : (s.setSnap v).smp.snap = v := rfl

/-- A snapshot that has been armed. -/
def State.snapArmed (s : State) : State :=
  (((s.setFlag Reg.sicSnap 28 false).setFld Reg.sicSnap 26 24 0).setFlag Reg.sicSnap 29 true).setSnap none

/-- A snapshot that has ended with a code. -/
def State.snapEnded (s : State) (code : Nat) : State :=
  (((s.setFld Reg.sicSnap 26 24 code).setFlag Reg.sicSnap 28 true).setFlag Reg.sicSnap 29 false).setSnap none

theorem snapFail_abort (s : State) : s.snapFail 1 = s.snapEnded 1 := rfl
theorem snapFail_refused (s : State) : s.snapFail 2 = (s.snapEnded 2).raiseBit Reg.sicSticky 4 := rfl

theorem snapArmed_effect (s : State) : s.snapArmed.flag Reg.sicSnap 29 = true ∧ s.snapArmed.flag Reg.sicSnap 28 = false ∧
    s.snapArmed.fld Reg.sicSnap 26 24 = 0 ∧ s.snapArmed.fld Reg.sicSnap 19 16 = s.fld Reg.sicSnap 19 16 ∧
    ∀ off, off ≠ Reg.sicSnap → s.snapArmed.reg off = s.reg off := by
  unfold State.snapArmed
  refine ⟨?_, ?_, ?_, ?_, fun off hne => ?_⟩
  · rw [flag_setSnap, flag_setFlag _ _ _ _ (by decide)]
  · rw [flag_setSnap, flag_setFlag_other _ _ _ _ _ (by decide) (by decide), flag_setFld_beside _ _ _ (by decide) (by decide),
      flag_setFlag _ _ _ _ (by decide)]
  · rw [fld_setSnap, fld_setFlag_beside _ _ _ (by decide) (by decide), fld_setFld _ _ _ _ _ (by decide), Nat.zero_mod]
  · rw [fld_setSnap, fld_setFlag_beside _ _ _ (by decide) (by decide), fld_setFld_beside _ _ _ (by decide) (by decide),
      fld_setFlag_beside _ _ _ (by decide) (by decide)]
  · rw [reg_setSnap, reg_setFlag_ne _ _ _ _ _ hne, reg_setFld_ne _ _ _ _ _ _ hne, reg_setFlag_ne _ _ _ _ _ hne]

theorem snapEnded_effect (s : State) {code : Nat} (hc : code < 8) : (s.snapEnded code).flag Reg.sicSnap 29 = false ∧
    (s.snapEnded code).flag Reg.sicSnap 28 = true ∧ (s.snapEnded code).fld Reg.sicSnap 26 24 = code ∧
    ∀ off, off ≠ Reg.sicSnap → (s.snapEnded code).reg off = s.reg off := by
  unfold State.snapEnded
  refine ⟨?_, ?_, ?_, fun off hne => ?_⟩
  · rw [flag_setSnap, flag_setFlag _ _ _ _ (by decide)]
  · rw [flag_setSnap, flag_setFlag_other _ _ _ _ _ (by decide) (by decide), flag_setFlag _ _ _ _ (by decide)]
  · rw [fld_setSnap, fld_setFlag_beside _ _ _ (by decide) (by decide), fld_setFlag_beside _ _ _ (by decide) (by decide),
      fld_setFld _ _ _ _ _ (by decide)]
    exact Nat.mod_eq_of_lt hc
  · rw [reg_setSnap, reg_setFlag_ne _ _ _ _ _ hne, reg_setFlag_ne _ _ _ _ _ hne, reg_setFld_ne _ _ _ _ _ _ hne]

/-- Whether a snapshot's block is refused: it is not aligned, or not wholly in the training region. -/
def State.snapOutside (s : State) (n : Nat) : Prop :=
  s.fld Reg.sicSnapAddr 5 0 ≠ 0 ∨ s.fld Reg.capPart 5 0 * 0x100000 < (s.reg Reg.sicSnapAddr).toNat + 40 * 2 ^ n

theorem writeSnap_start {s : State} {val : Word} (h : val.getLsbD 30 = false) (hb : s.flag Reg.sicSnap 29 = false)
    (h9 : 9 ≤ val.toNat / 2 ^ 16 % 16) (h13 : val.toNat / 2 ^ 16 % 16 ≤ 13) (t : State)
    (ht : t = (s.writeFields Reg.sicSnap (val ||| 0x80000000) 0xFFFFFFFF).snapArmed) :
    s.writeSnap (val ||| 0x80000000) 0xFFFFFFFF =
      if t.fld Reg.sicSnapAddr 5 0 ≠ 0 ∨ !t.inTraining (t.reg Reg.sicSnapAddr).toNat t.snapLen then t.snapFail 2
      else if !t.up domCob then t.snapFail 3 else t := by
  have h31 : bit (val ||| 0x80000000) 31 = true := by rw [start_word, bit_orBit _ (by decide)]; simp
  have h30 : bit (val ||| 0x80000000) 30 = false := by rw [start_word, bit_orBit _ (by decide), bit, h]; rfl
  have hlog : bits (val ||| 0x80000000) 19 16 = val.toNat / 2 ^ 16 % 16 := by
    rw [start_word, bits_orBit _ (by decide)]
    exact bits_eq_div _ _ _
  have hgo : (false || decide (val.toNat / 2 ^ 16 % 16 < 9) || decide (13 < val.toNat / 2 ^ 16 % 16)) = false := by
    rw [decide_eq_false (by omega), decide_eq_false (by omega)]
    rfl
  unfold State.writeSnap
  dsimp only
  rw [masked_allOnes, and_allOnes_word, h31, h30, hb, hlog, hgo, Bool.false_and, if_pos rfl, if_neg Bool.false_ne_true,
    if_neg Bool.false_ne_true, ht]
  rfl

theorem snap_log (s : State) {val : Word} (h9 : 9 ≤ val.toNat / 2 ^ 16 % 16) (h13 : val.toNat / 2 ^ 16 % 16 ≤ 13) :
    (s.writeFields Reg.sicSnap (val ||| 0x80000000) 0xFFFFFFFF).snapArmed.fld Reg.sicSnap 19 16 = val.toNat / 2 ^ 16 % 16 := by
  have hlog : bits (val ||| 0x80000000) 19 16 = val.toNat / 2 ^ 16 % 16 := by
    rw [start_word, bits_orBit _ (by decide)]
    exact bits_eq_div _ _ _
  obtain ⟨-, -, -, hkeep, -⟩ := snapArmed_effect (s.writeFields Reg.sicSnap (val ||| 0x80000000) 0xFFFFFFFF)
  rw [hkeep, writesAs_snap.takenIn s _ (a := 9) (b := 13) "LOG2" (by decide) (by omega) (by omega), hlog]

theorem snapArmed_reg (s : State) (val : Word) {off : Nat} (h : off ≠ Reg.sicSnap) :
    (s.writeFields Reg.sicSnap val 0xFFFFFFFF).snapArmed.reg off = s.reg off := by
  obtain ⟨-, -, -, -, hreg⟩ := snapArmed_effect (s.writeFields Reg.sicSnap val 0xFFFFFFFF)
  rw [hreg off h, writesAs_snap.reg_ne _ _ h]

/-- The check of the block of a snapshot that has been armed looks at registers the write left. -/
theorem snapOutside_iff (s : State) {val : Word} (h9 : 9 ≤ val.toNat / 2 ^ 16 % 16)
  (h13 : val.toNat / 2 ^ 16 % 16 ≤ 13) {t : State}
    (ht : t = (s.writeFields Reg.sicSnap (val ||| 0x80000000) 0xFFFFFFFF).snapArmed) :
    (t.fld Reg.sicSnapAddr 5 0 ≠ 0 ∨ (!t.inTraining (t.reg Reg.sicSnapAddr).toNat t.snapLen) = true) ↔
      s.snapOutside (val.toNat / 2 ^ 16 % 16) := by
  have haddr : t.reg Reg.sicSnapAddr = s.reg Reg.sicSnapAddr := ht ▸ snapArmed_reg s _ (by decide)
  have hpart : t.reg Reg.capPart = s.reg Reg.capPart := ht ▸ snapArmed_reg s _ (by decide)
  have hlog : t.fld Reg.sicSnap 19 16 = val.toNat / 2 ^ 16 % 16 := ht ▸ snap_log s h9 h13
  rw [State.inTraining, State.snapLen, hlog, haddr, fld_congr haddr, fld_congr hpart, State.snapOutside, Bool.not_eq_true',
    decide_eq_false_iff_not, Nat.not_le]

/-- A START that is taken (R247). -/
theorem writeSnap_taken {s : State} {val : Word} (h : val.getLsbD 30 = false) (hb : s.flag Reg.sicSnap 29 = false)
    (h9 : 9 ≤ val.toNat / 2 ^ 16 % 16) (h13 : val.toNat / 2 ^ 16 % 16 ≤ 13) (hup : s.up domCob = true)
    (hin : ¬ s.snapOutside (val.toNat / 2 ^ 16 % 16)) :
    s.writeSnap (val ||| 0x80000000) 0xFFFFFFFF = (s.writeFields Reg.sicSnap (val ||| 0x80000000) 0xFFFFFFFF).snapArmed := by
  have hup' : (s.writeFields Reg.sicSnap (val ||| 0x80000000) 0xFFFFFFFF).snapArmed.up domCob = true := by
    rw [← hup]
    exact up_congr (snapArmed_reg s _ (by decide))
  rw [writeSnap_start h hb h9 h13 _ rfl, if_neg ((snapOutside_iff s h9 h13 rfl).not.mpr hin), hup', if_neg (by decide)]

/-- A START whose block is refused (R248). -/
theorem writeSnap_refused {s : State} {val : Word} (h : val.getLsbD 30 = false) (hb : s.flag Reg.sicSnap 29 = false)
    (h9 : 9 ≤ val.toNat / 2 ^ 16 % 16) (h13 : val.toNat / 2 ^ 16 % 16 ≤ 13) (hout : s.snapOutside (val.toNat / 2 ^ 16 % 16)) :
    s.writeSnap (val ||| 0x80000000) 0xFFFFFFFF =
      ((s.writeFields Reg.sicSnap (val ||| 0x80000000) 0xFFFFFFFF).snapArmed.snapEnded 2).raiseBit Reg.sicSticky 4 := by
  rw [writeSnap_start h hb h9 h13 _ rfl, if_pos ((snapOutside_iff s h9 h13 rfl).mpr hout), snapFail_refused]

theorem writeSnap_refused_effect {s : State} {val : Word} (hup : s.regUp Reg.sicSnap = true) (h : val.getLsbD 30 = false)
    (hb : s.flag Reg.sicSnap 29 = false) (h9 : 9 ≤ val.toNat / 2 ^ 16 % 16) (h13 : val.toNat / 2 ^ 16 % 16 ≤ 13)
    (hout : s.snapOutside (val.toNat / 2 ^ 16 % 16)) :
    (s.writeSnap (val ||| 0x80000000) 0xFFFFFFFF).flag Reg.sicSnap 29 = false ∧
      (s.writeSnap (val ||| 0x80000000) 0xFFFFFFFF).flag Reg.sicSnap 28 = true ∧
      (s.writeSnap (val ||| 0x80000000) 0xFFFFFFFF).fld Reg.sicSnap 26 24 = 2 ∧
      (s.writeSnap (val ||| 0x80000000) 0xFFFFFFFF).flag Reg.sicSticky 4 = true := by
  obtain ⟨h29, h28, hcode, hreg⟩ := snapEnded_effect (s.writeFields Reg.sicSnap (val ||| 0x80000000) 0xFFFFFFFF).snapArmed
    (code := 2) (by decide)
  rw [writeSnap_refused h hb h9 h13 hout]
  have hkeep : ∀ t : State, (t.raiseBit Reg.sicSticky 4).reg Reg.sicSnap = t.reg Reg.sicSnap := fun t =>
    raiseBit_reg_ne t 4 (by decide) (by decide) (by decide)
  refine ⟨(flag_congr (hkeep _) 29).trans h29, (flag_congr (hkeep _) 28).trans h28, (fld_congr (hkeep _) 26 24).trans hcode,
    flag_raiseBit ?_ (by decide) (by decide) (by decide)⟩
  rw [regUp_beside _ (off := Reg.sicSnap) (by decide) (by decide) (by decide), ← hup]
  refine regUp_congr (by decide) fun d hd => ?_
  have hne : Reg.pwrDomStatus (d - 1) ≠ Reg.sicSnap := by unfold Reg.pwrDomStatus Reg.sicSnap; omega
  rw [hreg _ hne, snapArmed_reg s _ hne]

theorem writeSnap_abort {s : State} {val : Word} (h : val.getLsbD 31 = false) (hb : s.flag Reg.sicSnap 29 = true) :
    s.writeSnap (val ||| 0x40000000) 0xFFFFFFFF = (s.writeFields Reg.sicSnap (val ||| 0x40000000) 0xFFFFFFFF).snapEnded 1 := by
  have h31 : bit (val ||| 0x40000000) 31 = false := by rw [abort_word, bit_orBit _ (by decide), bit, h]; rfl
  have h30 : bit (val ||| 0x40000000) 30 = true := by rw [abort_word, bit_orBit _ (by decide)]; simp
  have hbusy := (writesAs_snap.flagKept s (val ||| 0x40000000) "BUSY" (by decide)).trans hb
  unfold State.writeSnap
  dsimp only
  rw [and_allOnes_word, h31, h30, if_neg Bool.false_ne_true, hbusy, Bool.true_and, if_pos rfl]
  rfl

/-! ## The end of a snapshot (R247) -/

/-- Words put one after the other each stand at their place. -/
theorem rawWord_putWords (l : List Word) (s : State) (a : Nat) {i : Nat} (h : i < l.length) :
    (s.putWords a l).rawWord (a + 4 * i) = l.getD i 0 := by
  induction l generalizing s a i with
  | nil => exact absurd h (Nat.not_lt_zero i)
  | cons w l ih =>
    rw [State.putWords]
    cases i with
    | zero =>
      have hkeep : ((s.putWord a w).putWords (a + 4) l).rawWord a = (s.putWord a w).rawWord a :=
        rawWord_congr fun c _ hc => putWords_byte_ne l _ (by omega)
      exact hkeep.trans (rawWord_putWord _ _ _)
    | succ i =>
      have := ih (s.putWord a w) (a + 4) (i := i) (Nat.lt_of_succ_lt_succ h)
      rw [show a + 4 * (i + 1) = a + 4 + 4 * i by omega, this, List.getD_cons_succ]

theorem rawWord_congr_mem {s t : State} (h : t.mem = s.mem) (a : Nat) : t.rawWord a = s.rawWord a :=
  rawWord_congr fun c _ _ => byte_congr_mem h c

/-- What the end of a snapshot shows in SNAP and SNAP_TNS. -/
def State.snapShown (s : State) (na : Nat) (tns : Word) (clipped : Bool) : State :=
  (((((s.setFld Reg.sicSnap 14 10 na).setReg Reg.sicSnapTns tns).setFlag Reg.sicSnap 27 clipped).setFlag Reg.sicSnap 29 false).setFlag
    Reg.sicSnap 28 true).setSnap none

theorem snapShown_effect (s : State) (na : Nat) (tns : Word) (clipped : Bool) :
    (s.snapShown na tns clipped).flag Reg.sicSnap 29 = false ∧ (s.snapShown na tns clipped).flag Reg.sicSnap 28 = true ∧
      (s.snapShown na tns clipped).flag Reg.sicSnap 27 = clipped ∧ (s.snapShown na tns clipped).fld Reg.sicSnap 14 10 = na % 32 ∧
      (s.snapShown na tns clipped).reg Reg.sicSnapTns = tns ∧ (s.snapShown na tns clipped).smp.snap = none ∧
      (s.snapShown na tns clipped).mem = s.mem := by
  unfold State.snapShown
  refine ⟨?_, ?_, ?_, ?_, ?_, smp_setSnap _ _, ?_⟩
  · rw [flag_setSnap, flag_setFlag_other _ _ _ _ _ (by decide) (by decide), flag_setFlag _ _ _ _ (by decide)]
  · rw [flag_setSnap, flag_setFlag _ _ _ _ (by decide)]
  · rw [flag_setSnap, flag_setFlag_other _ _ _ _ _ (by decide) (by decide), flag_setFlag_other _ _ _ _ _ (by decide) (by decide),
      flag_setFlag _ _ _ _ (by decide)]
  · rw [fld_setSnap, fld_setFlag_beside _ _ _ (by decide) (by decide), fld_setFlag_beside _ _ _ (by decide) (by decide),
      fld_setFlag_beside _ _ _ (by decide) (by decide), fld_setReg_ne _ _ _ _ _ _ (by decide), fld_setFld _ _ _ _ _ (by decide)]
    rfl
  · rw [reg_setSnap, reg_setFlag_ne _ _ _ _ _ (by decide), reg_setFlag_ne _ _ _ _ _ (by decide),
      reg_setFlag_ne _ _ _ _ _ (by decide), reg_setReg_same]
  · rw [mem_setSnap, setFlag_mem, setFlag_mem, setFlag_mem, setReg_mem, setFld_mem]

theorem snapDone_up {s : State} (q : SnapRec) (h : s.up domCob = true) : s.snapDone q =
    (s.putWords (capBase + (s.reg Reg.sicSnapAddr).toNat) (streamWords 5 q.got)).snapShown q.na q.tns q.clipped := by
  unfold State.snapDone
  rw [h]
  exact if_neg Bool.false_ne_true

/-! ## The receive chain and the estimate (R189-R205, R238-R243) -/

theorem rneQ_zero (d : Nat) : rneQ 0 d = 0 := by
  unfold rneQ
  simp

theorem modelOut_nil (steps : Int) : modelOut [] steps = (0, 0) := by
  have hsum : Cx.sum (([] : List (List Cx × List Cx)).map (fun r => refTerm r.1 r.2)) = (0, 0) := rfl
  unfold modelOut
  dsimp only
  rw [hsum]
  split
  · rw [Cx.rne, Cx.scale, Int.mul_zero, rne_zero]
  · rw [rneQ_zero]

theorem sicOn_inFdxF {s : State} {n : Nat} {x : Int} (h : s.inFdxF n x = false) : s.sicOn n x = false := by
  rw [State.sicOn, h, Bool.false_and]

theorem references_length {s : State} {n : Nat} {ws : List Word} {q : Nat} {r : List Cx × List Cx} (h : r ∈ s.references n ws q) :
    r.1.length = 8 ∧ r.2.length = 16 := by
  obtain ⟨i, -, rfl⟩ := List.mem_map.mp h
  exact ⟨by rw [List.length_map, List.length_range], by rw [List.length_map, List.length_range]⟩

theorem rxFine_sub (g : RxCfg) (p : RxChain × PathMeas) (a : Nat × Cx × Cx) : (rxFine g p a).1.sub.head? = some
    (if g.sic then (clampQ (Cx.sub (back (rxFine g p a).1.y 0) a.2.2)).1 else back (rxFine g p a).1.y 0) := by
  unfold rxFine
  dsimp only
  rw [enter_head, back_enter_zero]
  split <;> rfl

/-- An ADC sample at the end of its range counts as clipped and stays out of the quality sums. -/
theorem rxFine_clip (g : RxCfg) (p : RxChain × PathMeas) (j : Nat) (v e : Cx)
  (h : v.1 = -8192 ∨ v.1 = 8191 ∨ v.2 = -8192 ∨ v.2 = 8191) :
    (rxFine g p (j, v, e)).2.rxAdc = p.2.rxAdc + 1 ∧ (rxFine g p (j, v, e)).1.pin = p.1.pin ∧
      (rxFine g p (j, v, e)).1.pout = p.1.pout := by
  unfold rxFine
  dsimp only
  refine ⟨congrArg (p.2.rxAdc + ·) (if_pos h), congrArg (p.1.pin + ·) (if_neg fun hq => hq.2 h),
    congrArg (p.1.pout + ·) (if_neg fun hq => hq.2 h)⟩

theorem farFrom_of_lt {s : State} {r q : Nat}
    (h : kHz 200000 < ((s.loF (groupOf q) : Int) - (s.loF (groupOf r) : Int)).natAbs) : s.farFrom q r = true := by
  rw [State.farFrom]
  exact decide_eq_true h

theorem surveyOf_far {s : State} {r q : Nat} (h : s.farFrom q r = true) : (s.surveyOf r q).1 = -32768 := congrArg Prod.fst
  (if_pos h)

theorem exec_snapDone {s : State} {q : SnapRec} (hb : s.flag Reg.sicSnap 29 = true) (hq : s.smp.snap = some q)
  (hlen : q.got.length = s.snapN) :
    exec .snapDone s = .next (s.snapDone q) := by
  show execSnapDone s = _
  unfold execSnapDone
  rw [hq]
  exact congrArg Host.Outcome.next (if_pos ⟨hb, hlen⟩)

theorem exec_surveyDone {s : State} {res : List (Int × Nat)} (hb : s.flag Reg.sicSurvey 29 = true) (hq : s.smp.survey = some
  (0, res)) :
    exec .surveyDone s = .next (s.surveyDone res) := by
  show execSurveyDone s = _
  unfold execSurveyDone
  rw [hq]
  exact congrArg Host.Outcome.next (if_pos hb)

theorem exec_surveyDone_idle {s : State}
  (h : s.flag Reg.sicSurvey 29 = false ∨ s.smp.survey = none) : exec .surveyDone s = .next s := by
  show execSurveyDone s = _
  unfold execSurveyDone
  rcases h with h | h
  · split
    · rw [h, if_neg Bool.false_ne_true]
    · rfl
  · rw [h]

/-- Settles O42: pages, surveys and snapshots by the lemmas of their operations, the chain by those of one sample. -/
theorem duplexCanceller : Obligations.DuplexCanceller := by
  unfold Obligations.DuplexCanceller
  refine ⟨fun s p off val hlo hhi ha hr hact => ?_, fun s p off val m hlo hhi ha hr hg hact hm => ?_,
    fun s q p w b hp hw hb hr hcar => ?_, fun s q p w b hp hw hb hr hcar => ?_, fun s r p hr hp => ?_,
    fun s p val hr hidle h30 => ?_, fun s p val hr hbusy h30 => ?_, fun s p val hr hbusy h31 => ?_,
    fun s res hb hres => ⟨_, exec_surveyDone hb hres, surveyDone_effect s res⟩, fun s r q h => surveyOf_far (farFrom_of_lt h),
    fun s h => exec_surveyDone_idle h, fun s p val n hr hidle h30 hn h9 h13 hup hal hin => ?_,
    fun s p val n hr hidle h30 hn h9 h13 hout => ?_, fun s p val hr hbusy h31 => ?_, fun s q hb hq hlen hup => ?_,
    rxFine_sub, fun g p a h => if_neg (by rw [h]; exact Bool.false_ne_true), fun g p j v e => rfl,
    fun g p j v e h => rxFine_clip g p j v e h, fun s n x h => ⟨h, if_neg (by rw [sicOn_inFdxF h]; exact Bool.false_ne_true)⟩,
    fun s n x h => if_neg (by rw [h]; exact Bool.false_ne_true), modelOut_nil, fun s n ws q r h => references_length h⟩
  · exact (congrArg Host.Outcome.next (if_pos ⟨hlo, hhi⟩)).trans (next_hostReg hr (writePage_active val _ hlo ha hact))
  · obtain ⟨hword, hregs, hbyte⟩ := writePage_shadow_effect val hlo ha hg hact hm
    refine ⟨_, (congrArg Host.Outcome.next (if_pos ⟨hlo, hhi⟩)).trans (next_hostReg hr rfl), ?_, ?_, fun a hne => ?_⟩
    · rw [rawWord_congr_mem (mem_noted ..), hword]
    · exact (of_noted State.regs (fun _ _ => rfl) _ p _).trans hregs
    · rw [byte_noted, hbyte a hne]
  · refine (congrArg Host.Outcome.next (if_pos ⟨hp, hw⟩)).trans (next_hostReg hr ?_)
    rw [writeCommit_one s p w hb, if_pos hcar]
  · refine (congrArg Host.Outcome.next (if_pos ⟨hp, hw⟩)).trans (next_hostReg hr ?_)
    rw [writeCommit_one s p w hb, hcar, if_neg Bool.false_ne_true]
  · obtain ⟨hpage, hpend⟩ := swapPages_flags s r hp
    exact ⟨hpage, hpend, fun off hne => reg_setReg_ne _ _ _ _ hne⟩
  · obtain ⟨h29, h28, hrx, hreg⟩ := surveyArmed_effect (s.writeFields Reg.sicSurvey (val ||| 0x80000000) 0xFFFFFFFF)
    refine ⟨_, next_hostReg hr ((writeSurvey_start s h30).trans (if_neg (by rw [hidle]; exact Bool.false_ne_true))),
      (flag_noted ..).trans h29, (flag_noted ..).trans h28, ?_, fun off hne => ?_⟩
    · rw [fld_noted, hrx, writesAs_survey.taken s _ "RX" (by decide), start_word, bits_orBit _ (by decide), bits_eq_div,
        Nat.pow_zero, Nat.div_one]
      rfl
    · rw [reg_noted, hreg off hne, writesAs_survey.reg_ne s _ hne]
  · refine ⟨_, next_hostReg hr ((writeSurvey_start s h30).trans (if_pos hbusy)), ?_, ?_⟩
    · rw [flag_noted, flag_congr (bump_reg_ne _ (by decide)), writesAs_survey.flagKept s _ "BUSY" (by decide), hbusy]
    · rw [fld_noted, fld_bump, fld_congr (writesAs_survey.reg_ne s _ (by decide))]
  · obtain ⟨h29, h28, hreg⟩ := surveyEnded_effect (s.writeFields Reg.sicSurvey (val ||| 0x40000000) 0xFFFFFFFF)
    refine ⟨_, next_hostReg hr (writeSurvey_abort s h31 hbusy), (flag_noted ..).trans h29, (flag_noted ..).trans h28,
      fun off hne => ?_⟩
    rw [reg_noted, hreg off hne, writesAs_survey.reg_ne s _ hne]
  · subst hn
    have hinside : ¬ s.snapOutside (val.toNat / 2 ^ 16 % 16) := fun h => h.elim (fun h => h hal) fun h => Nat.not_lt.mpr hin h
    obtain ⟨h29, h28, hcode, -, -⟩ := snapArmed_effect (s.writeFields Reg.sicSnap (val ||| 0x80000000) 0xFFFFFFFF)
    refine ⟨_, next_hostReg hr (writeSnap_taken h30 hidle h9 h13 hup hinside), (flag_noted ..).trans h29,
      (flag_noted ..).trans h28,
      (fld_noted ..).trans hcode, (fld_noted ..).trans (snap_log s h9 h13), fun off hne => ?_⟩
    rw [reg_noted, snapArmed_reg s _ hne]
  · subst hn
    obtain ⟨h29, h28, hcode, hst⟩ := writeSnap_refused_effect (regUp_of_reaches hr) h30 hidle h9 h13 hout.symm
    exact ⟨_, next_hostReg hr rfl, (flag_noted ..).trans h29, (flag_noted ..).trans h28, (fld_noted ..).trans hcode,
      (flag_noted ..).trans hst⟩
  · obtain ⟨h29, h28, hcode, hreg⟩ := snapEnded_effect (s.writeFields Reg.sicSnap (val ||| 0x40000000) 0xFFFFFFFF) 
      (code := 1) (by decide)
    refine ⟨_, next_hostReg hr (writeSnap_abort h31 hbusy), (flag_noted ..).trans h29, (flag_noted ..).trans h28,
      (fld_noted ..).trans hcode, fun off hne => ?_⟩
    rw [reg_noted, hreg off hne, writesAs_snap.reg_ne s _ hne]
  · obtain ⟨h29, h28, h27, hna, htns, hsnap, hmem⟩ := snapShown_effect
      (s.putWords (capBase + (s.reg Reg.sicSnapAddr).toNat) (streamWords 5 q.got)) q.na q.tns q.clipped
    rw [← snapDone_up q hup] at h29 h28 h27 hna htns hsnap hmem
    refine ⟨s.snapDone q, exec_snapDone hb hq hlen, h29, h28, h27, hna, htns, hsnap, fun i hi => ?_⟩
    rw [rawWord_congr_mem hmem, rawWord_putWords _ _ _ hi]

end Sys2Proof.Machine

/-! The bias DAC bank: codes, spans and what drives an output (R309-R315). -/
namespace Sys2Proof.Machine

/-! ## Registers of the bank -/

/-- A block without a record of reserved values: a write changes its own register alone. -/
theorem writeFields_reg_plain (s : State) {off j : Nat} (val mask : Word) (hr : reservedBit off = none) (h : j ≠ off) :
    (s.writeFields off val mask).reg j = s.reg j := by
  unfold State.writeFields
  split
  · rfl
  · dsimp only
    split
    · rw [hr]
      exact reg_setReg_ne _ _ _ _ h
    · exact reg_setReg_ne _ _ _ _ h

theorem bda_block {off : Nat} (hlo : 0xA0000 ≤ off) (hhi : off < 0xB0000) : off / 0x10000 = 10 := by omega

theorem reservedBit_bda {off : Nat} (hlo : 0xA0000 ≤ off) (hhi : off < 0xB0000) : reservedBit off = none := by
  have hblock : blockBase off = 0xA0000 := by
    rw [blockBase, if_pos (by omega), bda_block hlo hhi]
  rw [reservedBit, hblock]
  rfl

theorem domOfReg_bda {off : Nat} (hlo : 0xA0000 ≤ off) (hhi : off < 0xB0000) : domOfReg off = domMgt := by
  have hreg : off < 0x120000 := by omega
  simp [domOfReg, hreg, bda_block hlo hhi]

theorem regUp_bda (s : State) {off : Nat} (hlo : 0xA0000 ≤ off) (hhi : off < 0xB0000) : s.regUp off = s.up domMgt := by
  rw [State.regUp, if_neg (by omega), domOfReg_bda hlo hhi]

theorem bdaOutCfg_range {i : Nat} (h : i < 256) : 0xA1000 ≤ Reg.bdaOutCfg i ∧ Reg.bdaOutCfg i < 0xA2000 := by
  unfold Reg.bdaOutCfg; omega

theorem bdaOutCfg_ne_code (i j : Nat) : Reg.bdaOutCfg i ≠ Reg.bdaOutCode j := by
  unfold Reg.bdaOutCfg Reg.bdaOutCode; omega

/-! ## Codes (R310, R312, R314, R315) -/

theorem writeCode_refused {s : State} {i : Nat} (val mask : Word)
    (h : s.flag (Reg.bdaOutCfg i) 31 = true ∨ s.faulted i = true ∨ s.flag Reg.bdaStatus (4 + i / 64) = true) :
    s.writeCode i val mask = (s.bump Reg.bdaCntBadw).raiseBit Reg.bdaSticky 1 := by
  refine if_pos ?_
  rw [Bool.or_eq_true, Bool.or_eq_true, or_assoc]
  exact h

theorem writeCode_taken {s : State} {i : Nat} (val : Word) (h31 : s.flag (Reg.bdaOutCfg i) 31 = false) (hf : s.faulted i = false)
    (hcl : s.flag Reg.bdaStatus (4 + i / 64) = false) : s.writeCode i val 0xFFFFFFFF = s.setCode i (val.toNat % 65536) := by
  unfold State.writeCode
  rw [h31, hf, hcl, masked_allOnes]
  exact if_neg Bool.false_ne_true

/-- A code starts a hold where it drives its output and changes its top bits. -/
def State.startsHold (s : State) (i v : Nat) : Bool :=
  s.drive i == .code && s.fld (Reg.bdaOutCode i) 15 0 / 4096 != v % 65536 / 4096 && (alook s.bda.hold i).isNone

theorem setCode_reg (s : State) (i v off : Nat) : (s.setCode i v).reg off = (s.setFld (Reg.bdaOutCode i) 15 0 v).reg off := by
  unfold State.setCode
  dsimp only
  split <;> rfl

theorem setCode_hold (s : State) (i v : Nat) : (s.setCode i v).bda.hold =
    if s.startsHold i v = true then aput s.bda.hold i (s.fld (Reg.bdaOutCode i) 15 0) else s.bda.hold := by
  unfold State.setCode State.startsHold
  dsimp only
  split
  · rw [setFld_bda]
  · rw [setFld_bda]

theorem fld_top (s : State) (off : Nat) : s.fld off 15 12 = s.fld off 15 0 / 4096 := by
  rw [State.fld, State.fld, bits_eq_div, bits_eq_div, Nat.pow_zero, Nat.div_one]
  omega

theorem startsHold_iff (s : State) (i : Nat) (v : Nat) : s.startsHold i (v % 65536) = true ↔
    s.drive i = .code ∧ s.fld (Reg.bdaOutCode i) 15 12 ≠ v % 65536 / 4096 ∧ alook s.bda.hold i = none := by
  unfold State.startsHold
  rw [fld_top, Nat.mod_mod, Bool.and_eq_true, Bool.and_eq_true, beq_iff_eq, bne_iff_ne, Option.isNone_iff_eq_none, and_assoc]

theorem setCode_effect (s : State) (i : Nat) (val : Word) :
    (s.setCode i (val.toNat % 65536)).fld (Reg.bdaOutCode i) 15 0 = val.toNat % 65536 ∧
      (∀ off, off ≠ Reg.bdaOutCode i → (s.setCode i (val.toNat % 65536)).reg off = s.reg off) ∧
      alook (s.setCode i (val.toNat % 65536)).bda.hold i =
        (if s.drive i = .code ∧ s.fld (Reg.bdaOutCode i) 15 12 ≠ val.toNat % 65536 / 4096 ∧ alook s.bda.hold i = none
          then some (s.fld (Reg.bdaOutCode i) 15 0) else alook s.bda.hold i) := by
  refine ⟨?_, fun off hne => ?_, ?_⟩
  · rw [fld_congr (setCode_reg ..), fld_setFld _ _ _ _ _ (by decide)]
    exact Nat.mod_mod _ _
  · rw [setCode_reg, reg_setFld_ne _ _ _ _ _ _ hne]
  · rw [setCode_hold]
    by_cases h : s.startsHold i (val.toNat % 65536) = true
    · rw [if_pos h, if_pos ((startsHold_iff s i _).mp h), alook_aput_same]
    · rw [if_neg h, if_neg ((startsHold_iff s i _).not.mp h)]

/-! ## Spans (R314, R317) -/

theorem holdRoute_reg (s s0 : State) (i off : Nat) : (s.holdRoute s0 i).reg off = s.reg off := by
  unfold State.holdRoute
  split <;> rfl

/-- The routing of an output after a write to its CFG, its span kept. -/
def State.routed (s : State) (i : Nat) (val : Word) : State :=
  ((s.writeFields (Reg.bdaOutCfg i) val 0xFFFFFFFF).setFld (Reg.bdaOutCfg i) 2 0 (s.fld (Reg.bdaOutCfg i) 2 0)).holdRoute s i

theorem routed_reg_ne (s : State) {i off : Nat} (val : Word) (hi : i < 256) (h : off ≠ Reg.bdaOutCfg i) :
    (s.routed i val).reg off = s.reg off := by
  obtain ⟨hlo, hhi⟩ := bdaOutCfg_range hi
  rw [State.routed, holdRoute_reg, reg_setFld_ne _ _ _ _ _ _ h,
    writeFields_reg_plain _ _ _ (reservedBit_bda (by omega) (by omega)) h]

theorem routed_span (s : State) (i : Nat) (val : Word) :
    (s.routed i val).fld (Reg.bdaOutCfg i) 2 0 = s.fld (Reg.bdaOutCfg i) 2 0 := by
  rw [State.routed, fld_congr (holdRoute_reg ..), fld_setFld _ _ _ _ _ (by decide)]
  exact Nat.mod_eq_of_lt (bits_lt _ _ _)

/-- A change of span is refused (R314). -/
def State.spanBusy (s : State) (i : Nat) : Bool :=
  bit s.pins.drain (2 * (i / 32)) || s.flag Reg.bdaStatus (4 + i / 64) || s.flag Reg.bdaStatus (16 + i / 32)
    || s.faulted i || s.flag (Reg.bdaOutCfg i) 31

theorem writeBdaCfg_change {s : State} {i : Nat} {val : Word} (h4 : val.toNat % 8 ≤ 4)
    (hne : val.toNat % 8 ≠ s.fld (Reg.bdaOutCfg i) 2 0) : s.writeBdaCfg i val 0xFFFFFFFF =
      if s.spanBusy i = true then (s.routed i val).bdaBad 2
      else ((s.routed i val).setFld (Reg.bdaOutCfg i) 2 0 (val.toNat % 8)).setFlag (Reg.bdaOutCfg i) 31 true := by
  have hnew : bits val 2 0 = val.toNat % 8 := by
    rw [bits_eq_div, Nat.pow_zero, Nat.div_one]
    rfl
  unfold State.writeBdaCfg
  dsimp only
  rw [masked_allOnes, hnew]
  exact if_neg fun h => h.elim (fun h => Nat.not_lt.mpr h4 h) hne

theorem rangeStart_effect {s : State} {i : Nat} {val : Word} (hi : i < 256) (h4 : val.toNat % 8 ≤ 4)
    (hne : val.toNat % 8 ≠ s.fld (Reg.bdaOutCfg i) 2 0) (hfree : s.spanBusy i = false) :
    (s.writeBdaCfg i val 0xFFFFFFFF).fld (Reg.bdaOutCfg i) 2 0 = val.toNat % 8 ∧
      (s.writeBdaCfg i val 0xFFFFFFFF).flag (Reg.bdaOutCfg i) 31 = true ∧
      ∀ off, off ≠ Reg.bdaOutCfg i → (s.writeBdaCfg i val 0xFFFFFFFF).reg off = s.reg off := by
  rw [writeBdaCfg_change h4 hne, hfree, if_neg Bool.false_ne_true]
  refine ⟨?_, flag_setFlag _ _ _ _ (by decide), fun off hoff => ?_⟩
  · rw [fld_setFlag_beside _ _ _ (by decide) (by decide), fld_setFld _ _ _ _ _ (by decide)]
    exact Nat.mod_mod _ _
  · rw [reg_setFlag_ne _ _ _ _ _ hoff, reg_setFld_ne _ _ _ _ _ _ hoff, routed_reg_ne s val hi hoff]

theorem clamped_of_flag {s : State} {i : Nat} (h : s.flag (Reg.bdaOutCfg i) 31 = true) : s.clamped i = true := by
  rw [State.clamped, h, Bool.or_true]

theorem rangeRefused_effect {s : State} {i : Nat} {val : Word} (hi : i < 256) (hup : s.up domMgt = true) (h4 : val.toNat % 8 ≤ 4)
    (hne : val.toNat % 8 ≠ s.fld (Reg.bdaOutCfg i) 2 0) (hbusy : s.spanBusy i = true) :
    (s.writeBdaCfg i val 0xFFFFFFFF).fld (Reg.bdaOutCfg i) 2 0 = s.fld (Reg.bdaOutCfg i) 2 0 ∧
      (s.writeBdaCfg i val 0xFFFFFFFF).flag Reg.bdaSticky 2 = true := by
  obtain ⟨hlo, hhi⟩ := bdaOutCfg_range hi
  rw [writeBdaCfg_change h4 hne, if_pos hbusy, State.bdaBad]
  refine ⟨?_, flag_raiseBit ?_ (by decide) (by decide) (by decide)⟩
  · have hst : Reg.bdaOutCfg i ≠ Reg.bdaSticky := by unfold Reg.bdaSticky; omega
    have hcnt : Reg.bdaOutCfg i ≠ Reg.bdaCntBadw := by unfold Reg.bdaCntBadw; omega
    have hp : ∀ k, k < 2 → Reg.bdaOutCfg i ≠ Reg.hstMsixPba k := fun k _ => by unfold Reg.hstMsixPba; omega
    rw [fld_congr (raiseBit_reg_ne _ _ hst (hp 0 (by decide)) (hp 1 (by decide))), fld_congr (bump_reg_ne _ hcnt), routed_span]
  · rw [regUp_bda _ (by decide) (by decide), ← hup]
    have hcfg : Reg.pwrDomStatus (domMgt - 1) ≠ Reg.bdaOutCfg i := by unfold Reg.pwrDomStatus domMgt; omega
    exact up_congr ((bump_reg_ne _ (by decide)).trans (routed_reg_ne s val hi hcfg))

theorem endRange_idle {s : State} {i : Nat} (h : s.flag (Reg.bdaOutCfg i) 31 = false) : s.endRange i = s := by
  unfold State.endRange
  dsimp only
  rw [h, if_neg Bool.false_ne_true]

theorem endRange_effect {s : State} {i : Nat} (h : s.flag (Reg.bdaOutCfg i) 31 = true) (hk : s.flag Reg.bdaCtl 16 = false) :
    (s.endRange i).flag (Reg.bdaOutCfg i) 31 = false ∧
      (s.endRange i).fld (Reg.bdaOutCode i) 15 0 = s.fld (Reg.bdaSafe i (s.fld (Reg.bdaOutCfg i) 2 0)) 15 0 := by
  unfold State.endRange
  dsimp only
  rw [h, hk, if_pos rfl, if_neg Bool.false_ne_true]
  refine ⟨?_, ?_⟩
  · rw [flag_setFld_ne _ _ _ _ _ _ _ (bdaOutCfg_ne_code i i), flag_setFlag _ _ _ _ (by decide)]
  · rw [fld_setFld _ _ _ _ _ (by decide)]
    exact Nat.mod_eq_of_lt (bits_lt _ _ _)

end Sys2Proof.Machine

/-! The bias DAC bank: tables, the power-up clamp, generators, and the statement of the family (R309-R318). -/
namespace Sys2Proof.Machine

/-! ## What a load leaves (R305, R318) -/

/-- What is done to the registers of CAL while COB is up. -/
theorem of_showCal {β : Type} {P : State → β} {s u v : State} (hu : P u = P v) (hs : P s = P v) (c : Bool) :
    P (if c then u else s) = P v := by
  split
  · exact hu
  · exact hs

section
variable {β : Type} {P : State → β} (hP : ∀ (t : State) r o n e, P { t with regs := r, out := o, nvm := n, nvmEcc := e } = P t)
include hP

theorem of_readNvm (s : State) (t w : Nat) : P (s.readNvm t w).2.2 = P s := by
  have hue : ∀ m off, P (s.eccUe m off) = P s := fun m off =>
    (of_apart P (fun u => hP u [] [] u.nvm u.nvmEcc) (raiseBit_apart _ _ _)).trans (hP s _ s.out s.nvm s.nvmEcc)
  unfold State.readNvm
  split
  · rfl
  · exact hP s _ s.out _ _
  · exact hue _ _

theorem of_readNvms (n : Nat) (s : State) (t w : Nat) : P (s.readNvms t w n).2.2 = P s := by
  induction n generalizing s w with
  | zero => rfl
  | succ n ih => exact (ih _ _).trans (of_readNvm hP s t w)

theorem of_readSlot (s : State) (t c w : Nat) : P (s.readSlot t c w).2 = P s := by
  unfold State.readSlot
  dsimp only
  split
  · exact of_readNvm hP s t w
  · split
    · exact (of_readNvms hP _ _ _ _).trans (of_readNvm hP s t w)
    · exact (of_readNvms hP _ _ _ _).trans (of_readNvm hP s t w)

theorem of_winner (s : State) (t c : Nat) : P (s.winner t c).2 = P s := by
  have hslots : P ((s.readSlot t c (slotA c)).2.readSlot t c (slotB c)).2 = P s :=
    (of_readSlot hP _ t c _).trans (of_readSlot hP s t c _)
  unfold State.winner
  dsimp only
  split <;> exact hslots

theorem of_showSrc (s : State) (t c src : Nat) (seq : Word) : P (s.showSrc t c src seq) = P s := hP s _ s.out s.nvm s.nvmEcc

theorem of_loadRecord (s : State) (t c : Nat) : P (s.loadRecord t c).2 = P s := by
  have hraise : ∀ (u : State) i, P (u.raiseBit Reg.calSticky i) = P u := fun u i =>
    of_apart P (fun u => hP u [] [] u.nvm u.nvmEcc) (raiseBit_apart _ _ _)
  have hwin := of_winner hP s t c
  have hsticky := of_showCal ((hraise (s.winner t c).2 2).trans hwin) hwin ((s.winner t c).2.up domCob)
  unfold State.loadRecord
  dsimp only
  split
  · exact of_showCal ((of_showSrc hP _ _ _ _ _).trans hwin) hwin _
  · have hslot : P (if c = 8 then ((none : Option (Word × List Word)),
        if (s.winner t c).2.up domCob then (s.winner t c).2.raiseBit Reg.calSticky 2 else (s.winner t c).2)
        else (if (s.winner t c).2.up domCob then (s.winner t c).2.raiseBit Reg.calSticky 2 else (s.winner t c).2).readSlot t c
          (slotF c)).2 = P s := by
      split
      · exact hsticky
      · exact (of_readSlot hP _ _ _ _).trans hsticky
    split
    · exact of_showCal ((of_showSrc hP _ _ _ _ _).trans hslot) hslot _
    · exact of_showCal ((of_showSrc hP _ _ _ _ _).trans ((hraise _ _).trans hslot)) hslot _

end

theorem bit_putBit_ne (w : Word) {i j : Nat} (b : Bool) (hj : j < 32) (h : j ≠ i) : bit (putBit w i b) j = bit w j :=
  bit_setBits_other _ _ _ _ hj h

/-- A load that finds a table lets the tile's clamp go, one that does not holds the tile (R313). -/
theorem loadBias_tile {s : State} {t : Nat} (ht : t < 4) (hl : bit s.bda.loose t = false) :
    bit (s.loadBias t).bda.loose t = (s.loadRecord t 6).1.isSome ∧
      bit (s.loadBias t).bda.noTab t = (s.loadRecord t 6).1.isNone := by
  have ht32 : t < 32 := by omega
  unfold State.loadBias
  dsimp only
  split
  · rename_i data hrec
    rw [hrec]
    exact ⟨bit_putBit _ _ ht32, bit_putBit _ _ ht32⟩
  · rename_i hrec
    rw [hrec]
    refine ⟨?_, bit_putBit _ _ ht32⟩
    rw [raiseBit_bda, of_loadRecord (P := State.bda) (fun _ _ _ _ _ => rfl), hl]
    rfl

/-! ## One of four (R313, R318) -/

theorem foldl_idle {α : Type} {f : State → α → State} {l : List α} (h : ∀ u, ∀ a ∈ l, f u a = u) (s : State) : l.foldl f s = s :=
  List.foldlRecOn (motive := fun t => t = s) _ _ rfl fun t ht a ha => (h t a ha).trans ht

/-- A pass over a list in which one item alone does anything. -/
theorem foldl_only {f : State → Nat → State} {l : List Nat} {t : Nat} (hn : l.Nodup) (ht : t ∈ l)
  (h : ∀ u, ∀ a ∈ l, a ≠ t → f u a = u)
    (s : State) : l.foldl f s = f s t := by
  induction l generalizing s with
  | nil => exact absurd ht List.not_mem_nil
  | cons a l ih =>
    obtain ⟨hal, hl⟩ := List.nodup_cons.mp hn
    rw [List.foldl_cons]
    by_cases hat : a = t
    · subst hat
      exact foldl_idle (fun u b hb => h u b (List.mem_cons_of_mem _ hb) fun e => hal (e ▸ hb)) _
    · rw [h s a List.mem_cons_self hat]
      exact ih hl ((List.mem_cons.mp ht).resolve_left fun e => hat e.symm) (fun u b hb => h u b (List.mem_cons_of_mem _ hb)) s

theorem bit_one (k i : Nat) (hk : k < 32) : bit (BitVec.ofNat 32 (2 ^ k)) i = decide (i = k) := by
  rw [bit, BitVec.getLsbD_ofNat, Nat.testBit_two_pow]
  by_cases h : i = k
  · subst h
    simp [hk]
  · simpa [h] using fun (_ : i < 32) (e : k = i) => h e.symm

/-- The codes of a tile become its power-up codes. -/
def State.powerUpTile (s : State) (t : Nat) : State :=
  (tileOuts t).foldl (fun x i => x.setFld (Reg.bdaOutCode i) 15 0 (x.fld (Reg.bdaOutPup i) 15 0)) s

/-- A tile held for want of a table is let go. -/
def State.letGo (v : State) (t : Nat) : State :=
  { v with bda := { v.bda with loose := putBit v.bda.loose t true, noTab := putBit v.bda.noTab t false } }

theorem letGo_fld (v : State) (t off hi lo : Nat) : (v.letGo t).fld off hi lo = v.fld off hi lo := rfl
theorem letGo_loose (v : State) {t : Nat} (ht : t < 4) : bit (v.letGo t).bda.loose t = true := bit_putBit _ _ (by omega)
theorem letGo_noTab (v : State) {t : Nat} (ht : t < 4) : bit (v.letGo t).bda.noTab t = false := bit_putBit _ _ (by omega)

/-- What RELEASE does to tile t where `w` names it. -/
def State.releaseTile (w : Word) (u : State) (t : Nat) : State :=
  if bit w t && bit u.bda.noTab t && u.flag Reg.bdaStatus (4 + t) then (u.powerUpTile t).letGo t else u

theorem writeBdaCtl_eq (s : State) (val : Word) : s.writeBdaCtl val 0xFFFFFFFF =
    (List.range 4).foldl (fun u t => if bit (val &&& 0xFFFFFFFF) (8 + t) then u.requestStore t 6 else u)
      ((List.range 4).foldl (State.releaseTile (val &&& 0xFFFFFFFF)) (s.writeFields Reg.bdaCtl val 0xFFFFFFFF)) := rfl

theorem writeBdaCtl_release (s : State) {t : Nat} (ht : t < 4) : s.writeBdaCtl (BitVec.ofNat 32 (2 ^ t)) 0xFFFFFFFF =
    (s.writeFields Reg.bdaCtl (BitVec.ofNat 32 (2 ^ t)) 0xFFFFFFFF).releaseTile (BitVec.ofNat 32 (2 ^ t)) t := by
  rw [writeBdaCtl_eq, and_allOnes_word, foldl_idle]
  · refine foldl_only List.nodup_range (List.mem_range.mpr ht) (fun u a _ hne => ?_) _
    rw [State.releaseTile, bit_one t a (by omega), decide_eq_false hne, Bool.false_and, Bool.false_and, if_neg Bool.false_ne_true]
  · intro u a _
    rw [bit_one t _ (by omega), decide_eq_false (by omega), if_neg Bool.false_ne_true]

theorem writeBdaCtl_store (s : State) {t : Nat} (ht : t < 4) : s.writeBdaCtl (BitVec.ofNat 32 (2 ^ (8 + t))) 0xFFFFFFFF =
    (s.writeFields Reg.bdaCtl (BitVec.ofNat 32 (2 ^ (8 + t))) 0xFFFFFFFF).requestStore t 6 := by
  rw [writeBdaCtl_eq, and_allOnes_word]
  have hrel : ∀ u : State, (List.range 4).foldl (State.releaseTile (BitVec.ofNat 32 (2 ^ (8 + t)))) u = u :=
    foldl_idle fun u a ha => by
      have := List.mem_range.mp ha
      rw [State.releaseTile, bit_one _ _ (by omega), decide_eq_false (by omega), Bool.false_and, Bool.false_and,
        if_neg Bool.false_ne_true]
  rw [hrel]
  refine (foldl_only List.nodup_range (List.mem_range.mpr ht) (fun u a _ hne => ?_) _).trans ?_
  · rw [bit_one _ _ (by omega), decide_eq_false (by omega), if_neg Bool.false_ne_true]
  · rw [bit_one _ _ (by omega), decide_eq_true rfl, if_pos rfl]

/-- Each code of the list reads its power-up code, and only codes have changed. -/
theorem foldl_powerUp (l : List Nat) (s : State) :
    (∀ i ∈ l, (l.foldl (fun x i => x.setFld (Reg.bdaOutCode i) 15 0 (x.fld (Reg.bdaOutPup i) 15 0)) s).fld
      (Reg.bdaOutCode i) 15 0 =
        s.fld (Reg.bdaOutPup i) 15 0) ∧
      ∀ off, (∀ i ∈ l, off ≠ Reg.bdaOutCode i) →
        (l.foldl (fun x i => x.setFld (Reg.bdaOutCode i) 15 0 (x.fld (Reg.bdaOutPup i) 15 0)) s).reg off = s.reg off := by
  induction l generalizing s with
  | nil => exact ⟨fun i hi => absurd hi List.not_mem_nil, fun _ _ => rfl⟩
  | cons a l ih =>
    obtain ⟨hval, hrest⟩ := ih (s.setFld (Reg.bdaOutCode a) 15 0 (s.fld (Reg.bdaOutPup a) 15 0))
    rw [List.foldl_cons]
    refine ⟨fun i hi => ?_, fun off hoff => ?_⟩
    · by_cases hil : i ∈ l
      · exact (hval i hil).trans (fld_setFld_ne _ _ _ _ _ _ _ _ (by unfold Reg.bdaOutPup Reg.bdaOutCode; omega))
      · obtain rfl : i = a := (List.mem_cons.mp hi).resolve_right hil
        have hne : ∀ j ∈ l, Reg.bdaOutCode i ≠ Reg.bdaOutCode j := fun j hj he => hil (by
          obtain rfl : i = j := by unfold Reg.bdaOutCode at he; omega
          exact hj)
        rw [fld_congr (hrest _ hne), fld_setFld _ _ _ _ _ (by decide)]
        exact Nat.mod_eq_of_lt (bits_lt _ _ _)
    · rw [hrest off fun i hi => hoff i (List.mem_cons_of_mem _ hi)]
      exact reg_setFld_ne _ _ _ _ _ _ (hoff a List.mem_cons_self)

theorem mem_tileOuts {t i : Nat} (hi : i / 64 = t) : i ∈ tileOuts t :=
  List.mem_map.mpr ⟨i % 64, List.mem_range.mpr (by omega), by omega⟩

theorem powerUpTile_code (s : State) {t i : Nat} (hi : i / 64 = t) :
    (s.powerUpTile t).fld (Reg.bdaOutCode i) 15 0 = s.fld (Reg.bdaOutPup i) 15 0 := by
  obtain ⟨hval, -⟩ := foldl_powerUp (tileOuts t) s
  rw [State.powerUpTile]
  exact hval i (mem_tileOuts hi)

theorem releaseTile_effect {s : State} {w : Word} {t : Nat} (ht : t < 4) (hw : bit w t = true) (hn : bit s.bda.noTab t = true)
    (hst : s.flag Reg.bdaStatus (4 + t) = true) :
    bit (s.releaseTile w t).bda.loose t = true ∧ bit (s.releaseTile w t).bda.noTab t = false ∧
      ∀ i, i / 64 = t → (s.releaseTile w t).fld (Reg.bdaOutCode i) 15 0 = s.fld (Reg.bdaOutPup i) 15 0 := by
  rw [State.releaseTile, hw, hn, hst, Bool.true_and, Bool.true_and, if_pos rfl]
  exact ⟨letGo_loose _ ht, letGo_noTab _ ht, fun i hi => (letGo_fld ..).trans (powerUpTile_code s hi)⟩

/-! ## Generators (R317) -/

/-- A generator at a new phase, with its sample. -/
def State.sgAt (s : State) (g : Nat) (phase : Word) (samp : List (Nat × (Nat × Int))) : State :=
  { s.setReg (Reg.bdaSgPhase g) phase with bda := { (s.setReg (Reg.bdaSgPhase g) phase).bda with
    phRst := putBit s.bda.phRst g false, samp := samp } }

theorem sgAt_phase (s : State) (g : Nat) (phase : Word) (samp : List (Nat × (Nat × Int))) :
    (s.sgAt g phase samp).reg (Reg.bdaSgPhase g) = phase := reg_setReg_same ..

theorem sgAt_mem (s : State) (g : Nat) (phase : Word) (samp : List (Nat × (Nat × Int))) : (s.sgAt g phase samp).mem = s.mem := rfl

theorem sgAt_phRst (s : State) {g : Nat} (hg : g < 4) (phase : Word) (samp : List (Nat × (Nat × Int))) :
    bit (s.sgAt g phase samp).bda.phRst g = false := bit_putBit _ _ (by omega)

/-- The phase after an update. -/
def State.nextPhase (s : State) (g : Nat) : Word :=
  if bit s.bda.phRst g then 0 else s.reg (Reg.bdaSgPhase g) + s.reg (Reg.bdaSgFtw g)

/-- A generator steps, and shows where its samples leave the span of an output. -/
theorem sgUpdate_running {s : State} {g : Nat} (h : s.flag (Reg.bdaSgCtl g) 31 = true) : ∃ samp c,
    s.sgUpdate g = (s.sgAt g (s.nextPhase g) samp).raiseIf (c = true) Reg.bdaSticky 3 := by
  unfold State.sgUpdate
  dsimp only
  rw [h, if_pos rfl]
  exact ⟨_, _, rfl⟩

theorem raiseIf_reg (s : State) (c : Prop) [Decidable c] {off j : Nat} (i : Nat) (h : j ≠ off) (h0 : j ≠ Reg.hstMsixPba 0)
    (h1 : j ≠ Reg.hstMsixPba 1) : (s.raiseIf c off i).reg j = s.reg j := by
  unfold State.raiseIf
  split
  · exact raiseBit_reg_ne _ _ h h0 h1
  · rfl

theorem raiseIf_bda (s : State) (c : Prop) [Decidable c] (off i : Nat) : (s.raiseIf c off i).bda = s.bda := by
  unfold State.raiseIf
  split
  · exact raiseBit_bda ..
  · rfl

theorem bdaSgPhase_ne {g : Nat} (hg : g < 4) :
    Reg.bdaSgPhase g ≠ Reg.bdaSticky ∧ Reg.bdaSgPhase g ≠ Reg.hstMsixPba 0 ∧ Reg.bdaSgPhase g ≠ Reg.hstMsixPba 1 := by
  unfold Reg.bdaSgPhase Reg.bdaSticky Reg.hstMsixPba; omega

theorem sgUpdate_running_effect {s : State} {g : Nat} (hg : g < 4) (h : s.flag (Reg.bdaSgCtl g) 31 = true) :
    (s.sgUpdate g).reg (Reg.bdaSgPhase g) = s.nextPhase g ∧ (s.sgUpdate g).mem = s.mem ∧ bit
      (s.sgUpdate g).bda.phRst g = false := by
  obtain ⟨samp, c, heq⟩ := sgUpdate_running h
  obtain ⟨h1, h2, h3⟩ := bdaSgPhase_ne hg
  rw [heq, raiseIf_reg _ _ _ h1 h2 h3, raiseIf_mem, raiseIf_bda]
  exact ⟨sgAt_phase .., sgAt_mem .., sgAt_phRst _ hg _ _⟩

theorem sgUpdate_stopped {s : State} {g : Nat} (h : s.flag (Reg.bdaSgCtl g) 31 = false) (hr : bit s.bda.phRst g = true) :
    s.sgUpdate g = s.sgAt g 0 s.bda.samp := by
  unfold State.sgUpdate
  dsimp only
  rw [h, hr, if_neg Bool.false_ne_true, if_pos rfl]
  rfl

/-- A phase reset takes effect with the next update. -/
theorem sgUpdate_reset {s : State} {g : Nat} (hg : g < 4) (hr : bit s.bda.phRst g = true) :
    (s.sgUpdate g).reg (Reg.bdaSgPhase g) = 0 ∧ bit (s.sgUpdate g).bda.phRst g = false := by
  cases h : s.flag (Reg.bdaSgCtl g) 31 with
  | true =>
    obtain ⟨hphase, -, hclear⟩ := sgUpdate_running_effect hg h
    exact ⟨hphase.trans (if_pos hr), hclear⟩
  | false =>
    rw [sgUpdate_stopped h hr]
    exact ⟨sgAt_phase .., sgAt_phRst _ hg _ _⟩

/-- The declaration of the generators' CTL. -/
def sgCtlDecl : RegDecl := ⟨"BDA.SG[g].CTL", 0xA0100, [(0x10, 4)], 0x0, [fd "EN" 31 31 .rw, fd "PH_RST" 30 30 .w1p]⟩

theorem declOf_bdaSgCtl : ∀ g, g < 4 → declOf (Reg.bdaSgCtl g) = some sgCtlDecl := by decide +kernel

theorem writesAs_sgCtl {g : Nat} (hg : g < 4) : WritesAs (Reg.bdaSgCtl g) sgCtlDecl := by
  have hlo : 0xA0000 ≤ Reg.bdaSgCtl g ∧ Reg.bdaSgCtl g < 0xB0000 := by unfold Reg.bdaSgCtl; omega
  refine writesAs_plain (declOf_bdaSgCtl g hg) (reservedBit_bda hlo.1 hlo.2) (fun r b h => ?_) (by decide)
  have hblock : blockBase (Reg.bdaSgCtl g) = 0xA0000 := by
    rw [blockBase, if_pos (by omega), bda_block hlo.1 hlo.2]
  simp [lockOf, hblock] at h

theorem writeSgCtl_reset (s : State) (g : Nat) {val : Word} (h : val.getLsbD 30 = true) : s.writeSgCtl g val 0xFFFFFFFF =
    { s.writeFields (Reg.bdaSgCtl g) val 0xFFFFFFFF with bda := { (s.writeFields (Reg.bdaSgCtl g) val 0xFFFFFFFF).bda with
      phRst := putBit (s.writeFields (Reg.bdaSgCtl g) val 0xFFFFFFFF).bda.phRst g true } } := by
  have hbit : bit (val &&& 0xFFFFFFFF) 30 = true := by
    rw [and_allOnes_word]
    exact h
  unfold State.writeSgCtl
  dsimp only
  rw [if_pos hbit]

/-! ## The statement -/

theorem spanBusy_of_drain {s : State} {i : Nat} (h : bit s.pins.drain (2 * (i / 32)) = true ∨ s.faulted i = true ∨
    s.flag (Reg.bdaOutCfg i) 31 = true) : s.spanBusy i = true := by
  unfold State.spanBusy
  rcases h with h | h | h
  · rw [h, Bool.true_or, Bool.true_or, Bool.true_or, Bool.true_or]
  · rw [h, Bool.or_true, Bool.true_or]
  · rw [h, Bool.or_true]

theorem domMgt_of_reaches {s : State} {p : Port} {off : Nat} (hr : s.reaches p off = true) (hlo : 0xA0000 ≤ off)
  (hhi : off < 0xB0000) :
    s.up domMgt = true := (regUp_bda s hlo hhi).symm.trans (regUp_of_reaches hr)

theorem bda_noted (s : State) (p : Port) (st : Nat) : (s.noted p st).bda = s.bda := of_noted State.bda (fun _ _ => rfl) s p st

theorem clamped_noted (s : State) (p : Port) (st i : Nat) : (s.noted p st).clamped i = s.clamped i :=
  of_noted (fun t => t.clamped i) (fun _ _ => rfl) s p st

theorem writeFields_bda (s : State) (off : Nat) (val mask : Word) : (s.writeFields off val mask).bda = s.bda :=
  of_apart State.bda (fun _ => rfl) (writeFields_apart ..)

theorem writeFields_bdaCtl_reg (s : State) (val : Word) {off : Nat} (h : off ≠ Reg.bdaCtl) :
    (s.writeFields Reg.bdaCtl val 0xFFFFFFFF).reg off = s.reg off :=
  writeFields_reg_plain _ _ _ (reservedBit_bda (by decide) (by decide)) h

/-- Settles O46: each command by the lemma of its operation. -/
theorem biasDacs : Obligations.BiasDacs := by
  unfold Obligations.BiasDacs
  refine ⟨fun s p i val hi hr h31 hf hcl => ?_, fun s p i val hi hr h => ?_, fun s i => ?_,
    fun s p i val hi hr h4 hne hd hc1 hc2 hf h31 => ?_,
    fun s p i val hi hr h4 hne h => ?_, fun s i hi h31 hk => ⟨_, congrArg Host.Outcome.next (if_pos hi), endRange_effect h31 hk⟩,
    fun s i h31 => ?_, fun s t ht ho hst hl hn => ?_, fun s t ht ho hl => ?_, fun s t hl => ?_, fun s p t ht hr hn hst => ?_,
    fun s p t ht hr => ?_, fun s g hg hup hen hrst => ?_, fun s g hg hup hrst => ?_, fun s p g val hg hr h30 => ?_⟩
  · obtain ⟨hcode, hreg, hhold⟩ := setCode_effect s i val
    refine ⟨_, (congrArg Host.Outcome.next (if_pos hi)).trans (next_hostReg hr (writeCode_taken val h31 hf hcl)),
      (fld_noted ..).trans hcode,
      fun off hne => (reg_noted ..).trans (hreg off hne), ?_⟩
    rw [bda_noted, hhold]
  · exact (congrArg Host.Outcome.next (if_pos hi)).trans (next_hostReg hr (writeCode_refused val _ h))
  · refine ⟨{ s with bda := { s.bda with hold := sdel s.bda.hold i } }, rfl, alook_sdel_same _ _, ?_,
    fun j hj => alook_sdel_ne _ hj, rfl⟩
    rw [State.applied, alook_sdel_same, Option.getD_none]
  · have hfree : s.spanBusy i = false := by rw [State.spanBusy, hd, hc1, hc2, hf, h31]; rfl
    obtain ⟨hspan, hflag, hreg⟩ := rangeStart_effect hi h4 hne hfree
    refine ⟨_, (congrArg Host.Outcome.next (if_pos hi)).trans (next_hostReg hr rfl), (fld_noted ..).trans hspan,
      (flag_noted ..).trans hflag,
      ?_, fun off hoff => (reg_noted ..).trans (hreg off hoff)⟩
    rw [clamped_noted]
    exact clamped_of_flag hflag
  · obtain ⟨hlo, hhi⟩ := bdaOutCfg_range hi
    obtain ⟨hspan, hst⟩ := rangeRefused_effect hi (domMgt_of_reaches hr (by omega) (by omega)) h4 hne (spanBusy_of_drain h)
    exact ⟨_, (congrArg Host.Outcome.next (if_pos hi)).trans (next_hostReg hr rfl), (fld_noted ..).trans hspan,
      (flag_noted ..).trans hst⟩
  · refine congrArg Host.Outcome.next ?_
    rw [endRange_idle h31, ite_self]
  · refine ⟨congrArg Host.Outcome.next (if_pos ⟨ht, ho, hst, ?_, ?_⟩), loadBias_tile ht hl⟩
    · rw [hl]; rfl
    · rw [hn]; rfl
  · exact ⟨_, congrArg Host.Outcome.next (if_pos ⟨ht, ho, hl⟩), flag_setFlag _ _ _ _ (by omega),
    fun off hoff => reg_setFlag_ne _ _ _ _ _ hoff, rfl⟩
  · refine congrArg Host.Outcome.next (if_neg fun h => ?_)
    obtain ⟨-, -, hloose⟩ := h
    rw [hl] at hloose
    exact Bool.false_ne_true hloose
  · have hpup : ∀ i, i < 256 → Reg.bdaOutPup i ≠ Reg.bdaCtl := fun i _ => by unfold Reg.bdaOutPup Reg.bdaCtl; omega
    have hone : bit (BitVec.ofNat 32 (2 ^ t)) t = true := by rw [bit_one _ _ (by omega), decide_eq_true rfl]
    obtain ⟨hloose, hnotab, hcodes⟩ := releaseTile_effect (s := s.writeFields Reg.bdaCtl (BitVec.ofNat 32 (2 ^ t)) 0xFFFFFFFF)
      (w := BitVec.ofNat 32 (2 ^ t)) ht hone (by rw [writeFields_bda]; exact hn)
      ((flag_congr (writeFields_bdaCtl_reg s _ (by decide)) _).trans hst)
    refine ⟨_, next_hostReg hr (writeBdaCtl_release s ht), hloose, hnotab, fun i hi hit => ?_⟩
    rw [hcodes i hit, fld_congr (writeFields_bdaCtl_reg s _ (hpup i hi))]
  · exact ⟨_, writeFields_mem .., fun off hoff => writeFields_bdaCtl_reg s _ hoff, next_hostReg hr (writeBdaCtl_store s ht)⟩
  · obtain ⟨hphase, hmem, -⟩ := sgUpdate_running_effect hg hen
    refine ⟨s.sgUpdate g, congrArg Host.Outcome.next (if_pos ⟨hg, hup⟩), ?_, hmem⟩
    rw [hphase, State.nextPhase, hrst, if_neg Bool.false_ne_true]
  · exact ⟨s.sgUpdate g, congrArg Host.Outcome.next (if_pos ⟨hg, hup⟩), sgUpdate_reset hg hrst⟩
  · have hw := writesAs_sgCtl hg
    refine ⟨_, (congrArg Host.Outcome.next (if_pos hg)).trans (next_hostReg hr (writeSgCtl_reset s g h30)), ?_, ?_,
      fun off hoff => ?_⟩
    · rw [bda_noted]
      exact bit_putBit _ _ (by omega)
    · rw [flag_noted]
      exact hw.flagTaken s val "EN" (List.mem_cons_self)
    · rw [reg_noted]
      exact hw.reg_ne s val hoff

end Sys2Proof.Machine

/-! Time and roster over the ring (R305, R333-R343). -/
namespace Sys2Proof.Machine

/-! ## Cells that arrive intact -/

section
variable {s u : State} {p : Nat} {c : Cell}

theorem onCell_good {kind x : Nat} (hk : c.kind = kind) (hx : c.sub = x) (hr : s.recvCell p c = some (u, .good))
  (good : State → State)
    (bad : State → CellFate → State) : s.onCell p c kind (some x) good bad = good u := by
  have hc : (c.kind == kind && c.sub == x) = true := by rw [hk, hx, beq_self_eq_true, beq_self_eq_true]; rfl
  unfold State.onCell
  dsimp only
  rw [if_pos hc, hr]

theorem onCell_good_any {kind : Nat} (hk : c.kind = kind) (hr : s.recvCell p c = some (u, .good)) (good : State → State)
    (bad : State → CellFate → State) : s.onCell p c kind none good bad = good u := by
  have hc : (c.kind == kind && true) = true := by rw [hk, beq_self_eq_true]; rfl
  unfold State.onCell
  dsimp only
  rw [if_pos hc, hr]

end

/-- The command of a cell runs what its receiver does with it. -/
theorem next_good {s u t : State} {p kind x : Nat} {c : Cell} {good : State → State} {bad : State → CellFate → State}
  (hk : c.kind = kind)
    (hx : c.sub = x) (hr : s.recvCell p c = some (u, .good)) (hg : good u = t) :
    (.next (s.onCell p c kind (some x) good bad) : Host.Outcome State Fault Refusal) = .next t :=
  congrArg Host.Outcome.next ((onCell_good hk hx hr good bad).trans hg)

/-! ## What a cell sent leaves -/

/-- A cell sent counts in its ring's CNT[6] alone. -/
theorem sendCell_reg (s : State) (p : Nat) (c : Cell) {j : Nat} (h : j ≠ Reg.argRingCnt (ringOf p) 6) :
  (s.sendCell p c).reg j = s.reg j := by
  unfold State.sendCell
  split
  · rfl
  · split
    · exact bump_reg_ne _ h
    · rfl

theorem sendOne_reg (s : State) (p kind sub : Nat) (payload : List Word) {j : Nat} (h : j ≠ Reg.argRingCnt (ringOf p) 6) :
    (s.sendOne p kind sub payload).reg j = s.reg j := sendCell_reg _ _ _ h

theorem castCell_reg (s : State) (kind r sub : Nat) (payload : List Word) {j : Nat} (h : ∀ k, j ≠ Reg.argRingCnt k 6) :
    (s.castCell kind r sub payload).reg j = s.reg j := by
  have hone : ∀ (t : State) p hops cell, (if hops = 0 then t else t.sendCell p cell : State).reg j = t.reg j :=
    fun t p hops cell => by
    split
    · rfl
    · exact sendCell_reg _ _ _ (h _)
  unfold State.castCell
  dsimp only
  rw [hone, hone]

/-! ## The mode of a pair of rings -/

/-- The mode is read from CTL and the roles. -/
theorem pairMode_congr {s t : State} (hctl : t.reg Reg.argCtl = s.reg Reg.argCtl)
    (hrole : ∀ i, i < 2 → t.reg (Reg.argRingCtl i) = s.reg (Reg.argRingCtl i)) : t.pairMode = s.pairMode := by
  have hroles : ∀ i, i < 2 → t.role i = s.role i := fun i hi => fld_congr (hrole i hi) _ _
  rw [State.pairMode, State.pairMode, flag_congr hctl, hroles 0 (by decide), hroles 1 (by decide)]

/-- A register that setting up a ring does not touch. -/
def ringFixed (j : Nat) : Prop :=
  (∀ k, j ≠ Reg.argRingStatus k) ∧ (∀ k, j ≠ Reg.argRingCnt k 6) ∧ j ≠ Reg.argSticky ∧ j ≠ Reg.hstMsixPba 0 ∧ j ≠ Reg.hstMsixPba 1

theorem ringFixed_ctl : ringFixed Reg.argCtl := by
  refine ⟨fun k => ?_, fun k => ?_, by decide, by decide, by decide⟩
  · unfold Reg.argCtl Reg.argRingStatus; omega
  · unfold Reg.argCtl Reg.argRingCnt; omega

theorem ringFixed_ringCtl {i : Nat} (hi : i < 2) : ringFixed (Reg.argRingCtl i) := by
  refine ⟨fun k => ?_, fun k => ?_, ?_, ?_, ?_⟩
  · unfold Reg.argRingCtl Reg.argRingStatus; omega
  · unfold Reg.argRingCtl Reg.argRingCnt; omega
  · unfold Reg.argRingCtl Reg.argSticky; omega
  · unfold Reg.argRingCtl Reg.hstMsixPba; omega
  · unfold Reg.argRingCtl Reg.hstMsixPba; omega

theorem setEntryState_reg (s : State) (q v j : Nat) : (s.setEntryState q v).reg j = s.reg j :=
  of_putWord (fun t => t.reg j) (fun _ _ _ => rfl) s _ _

theorem clearRoster_reg (s : State) (r n e w : Nat) (seg : Bool) (j : Nat) : (s.clearRoster r n e w seg).reg j = s.reg j := by
  unfold State.clearRoster
  split
  · rfl
  · exact List.foldlRecOn (motive := fun t : State => t.reg j = s.reg j) _ _ rfl fun t ht q _ =>
    (setEntryState_reg t q 0 j).trans ht

theorem planFrom_reg (s : State) (origin failed : Word) (lapse : Bool) (j : Nat) :
  (s.planFrom origin failed lapse).reg j = s.reg j := rfl

theorem setRingState_reg (s : State) (r v : Nat) {j : Nat} (h : j ≠ Reg.argRingStatus r) : (s.setRingState r v).reg j = s.reg j :=
  reg_setFld_ne _ _ _ _ _ _ h

/-- What the head shows of its ring, its arcs noted. -/
def State.ringShown (s : State) (r n e w : Nat) : State :=
  { (s.setFld (Reg.argRingStatus r) 26 16 (min n 1024)).setRingState r 5 with
    arg := { s.arg with disc := sdel s.arg.disc r, arcs := aput s.arg.arcs r (e, w) } }

theorem ringShown_reg (s : State) (r n e w : Nat) {j : Nat} (h : j ≠ Reg.argRingStatus r) :
  (s.ringShown r n e w).reg j = s.reg j :=
  (setRingState_reg _ _ _ h).trans (reg_setFld_ne _ _ _ _ _ _ h)

/-- COMMIT sent round a ring whose roster has been cleared. -/
def State.ringTold (s : State) (r n e w : Nat) (seg : Bool) : State :=
  ((s.raiseIf (1024 < n) Reg.argSticky 11).clearRoster r n e w seg).castCell 5 r 2
    ([BitVec.ofNat 32 (min n 1024)] ++ (if seg then [BitVec.ofNat 32 e, BitVec.ofNat 32 w] else []))

theorem commitRing_eq (s : State) (r n e w : Nat) (seg : Bool) (t : State) (ht : t = (s.ringShown r n e w).ringTold r n e w seg) :
    s.commitRing r n e w seg =
      if bit t.failedNext r ∧ !seg then t.planFrom t.tns (putBit t.failedNext r false) false else t := by
  subst ht
  rfl

theorem ringTold_reg (s : State) (r n e w : Nat) (seg : Bool) {j : Nat} (h : ringFixed j) :
  (s.ringTold r n e w seg).reg j = s.reg j := by
  obtain ⟨-, hcnt, hsticky, h0, h1⟩ := h
  exact (castCell_reg _ _ _ _ _ hcnt).trans ((clearRoster_reg ..).trans (raiseIf_reg _ _ _ hsticky h0 h1))

theorem commitRing_reg (s : State) (r n e w : Nat) (seg : Bool) {j : Nat} (h : ringFixed j) :
  (s.commitRing r n e w seg).reg j = s.reg j := by
  have htold : ((s.ringShown r n e w).ringTold r n e w seg).reg j = s.reg j :=
    (ringTold_reg _ _ _ _ _ _ h).trans (ringShown_reg _ _ _ _ _ (h.1 r))
  rw [commitRing_eq s r n e w seg _ rfl]
  split
  · exact htold
  · exact htold

/-! ## Time over the ring (R333) -/

theorem argSticky_up {s : State} (h : s.up domRing = true) : s.regUp Reg.argSticky = true := by
  rw [State.regUp, if_neg (by decide)]
  exact h

/-- An exchange noted as unanswered. -/
def State.tsMissed (s : State) (n : Nat) : State := { s with arg := { s.arg with answered := false, tsMiss := n, exch := none } }

theorem tsPeriod_third {s : State} (htime : s.up domTime = false) (hrole : s.role s.tsRing = 1) (hp : s.placed s.tsRing = true)
    (hans : s.arg.answered = false) (hmiss : s.arg.tsMiss = 2) : s.tsPeriod = (s.tsMissed 3).raiseBit Reg.argSticky 13 := by
  have htime' : ((s.tsMissed 3).raiseBit Reg.argSticky 13).up domTime = false :=
    (up_congr (raiseBit_reg_ne (s.tsMissed 3) 13 (by decide) (by decide) (by decide))).trans htime
  unfold State.tsPeriod
  dsimp only
  rw [htime, if_neg Bool.false_ne_true, if_pos ⟨hrole, hp⟩, hans, hmiss]
  refine (if_pos (show (if false = true then 0 else 2 + 1) = 3 from rfl)).trans ?_
  refine if_neg fun h => ?_
  have h' : (((s.tsMissed 3).raiseBit Reg.argSticky 13).up domTime && _) = true := h
  rw [htime'] at h'
  cases h'

/-- An exchange of timestamps begun. -/
def State.exchanging (s : State) (t : Nat × Nat × Nat) : State := { s with arg := { s.arg with exch := some t } }

theorem takeSync_taken {s : State} {p : Nat} {c : Cell} (h : s.role (ringOf p) = 1 ∧ s.placed
  (ringOf p) = true ∧ p = s.homePort (ringOf p) ∧
    ringOf p = s.tsRing ∧ s.up domTime = true) : s.takeSync p c =
      (s.exchanging (stampOf c.payload, s.stampRx p, s.stampTx p)).sendOne p 4 2 (stampWords (s.stampTx p)) := if_pos h

/-- An exchange of timestamps ended. -/
def State.exchanged (s : State) : State := { s with arg := { s.arg with exch := none, answered := true, tsMiss := 0 } }

/-- A RESP ends the exchange; with another source of time nothing is measured. -/
theorem takeResp_taken {s : State} {p : Nat} {c : Cell} {t : Nat × Nat × Nat} (he : s.arg.exch = some t) (hp : p = s.homePort
  (ringOf p))
    (hr : ringOf p = s.tsRing) (hsrc : s.tmuSrc ≠ 1) :
    s.takeResp p c = s.exchanged := by
  obtain ⟨t1, t2, t3⟩ := t
  unfold State.takeResp
  rw [he]
  dsimp only
  rw [if_pos ⟨hp, hr⟩]
  exact if_neg fun h => hsrc h.2

/-! ## Places on the ring (R335) -/

/-- A member placed by the count of a DISCOVER. -/
def State.placedAt (s : State) (r k : Nat) (west : Bool) : State :=
  ((s.setFld (Reg.argRingStatus r) 9 0 (if west then 1023 - k else k + 1)).setFlag (Reg.argRingStatus r) 10 west).setRingState r 3

theorem placedAt_effect (s : State) (r : Nat) {k : Nat} (west : Bool) (hk : k < 1023) :
    (s.placedAt r k west).pos r = (if west then 1023 - k else k + 1) ∧ (s.placedAt r k west).onWest r = west ∧
      (s.placedAt r k west).ringState r = 3 := by
  have hlt : (if west then 1023 - k else k + 1) < 2 ^ (9 + 1 - 0) := by split <;> omega
  unfold State.placedAt State.pos State.onWest State.ringState State.setRingState
  refine ⟨?_, ?_, ?_⟩
  · rw [fld_setFld_beside _ _ _ (by decide) (by decide), fld_setFlag_beside _ _ _ (by decide)
    (by decide), fld_setFld _ _ _ _ _ (by decide)]
    exact Nat.mod_eq_of_lt hlt
  · rw [flag_setFld_beside _ _ _ (by decide) (by decide), flag_setFlag _ _ _ _ (by decide)]
  · exact fld_setFld _ _ _ _ _ (by decide)

theorem takeDiscover_member {s : State} {p k : Nat} {c : Cell} (hrole : s.role (ringOf p) = 1) (hk :
  (c.payload.headD 0).toNat = k)
    (hlt : k < 1023) : s.takeDiscover p c =
      (s.placedAt (ringOf p) k c.west).forwardCell p { c with payload := [BitVec.ofNat 32 (k + 1)] } false := by
  unfold State.takeDiscover
  dsimp only
  rw [hrole, hk, if_neg (by decide), if_pos rfl, if_neg (by omega)]
  rfl

theorem takeDiscover_alone {s : State} {p : Nat} {c : Cell} (hrole : s.role (ringOf p) = 0) : s.takeDiscover p c = s := by
  unfold State.takeDiscover
  dsimp only
  rw [hrole, if_neg (by decide), if_neg (by decide)]

theorem segmented_pairMode (s : State) (r e w : Nat) (hm : s.pairMode = false) :
    (((s.raiseBit Reg.argSticky 10).sendOne (westPort r) 5 1 [0]).commitRing r (e + w + 1) (min e 1023)
      (min w 1023) true).pairMode =
      false := by
  have hkeep : ∀ j, ringFixed j →
      (((s.raiseBit Reg.argSticky 10).sendOne (westPort r) 5 1 [0]).commitRing r (e + w + 1) (min e 1023)
        (min w 1023) true).reg j =
        s.reg j := fun j hj => by
    rw [commitRing_reg _ _ _ _ _ _ hj, sendOne_reg _ _ _ _ _ (hj.2.1 _), raiseBit_reg_ne _ _ hj.2.2.1 hj.2.2.2.1 hj.2.2.2.2]
  rw [← hm]
  exact pairMode_congr (hkeep _ ringFixed_ctl) fun i hi => hkeep _ (ringFixed_ringCtl hi)

theorem exec_discoverTimeout {s : State} {r e w : Nat} (hr : r < 2) (hup : s.up domRing = true) (hd : alook s.arg.disc r = some 1)
    (hm : s.pairMode = false) : exec (.discoverTimeout r e w) s =
      .next (((s.raiseBit Reg.argSticky 10).sendOne (westPort r) 5 1 [0]).commitRing r (e + w + 1) (min e 1023)
        (min w 1023) true) := by
  refine congrArg Host.Outcome.next ((if_pos ⟨hr, hup, hd⟩).trans ?_)
  dsimp only
  rw [segmented_pairMode s r e w hm, if_neg Bool.false_ne_true]

/-! ## The roster (R337) -/

theorem entryState_setEntryState (s : State) (q : Nat) {v : Nat} (hv : v < 8) : (s.setEntryState q v).entryState q = v := by
  rw [State.entryState, State.setEntryState, rawWord_putWord, bits_setBits _ _ _ _ (by decide)]
  exact Nat.mod_eq_of_lt hv

/-- The head of an entry is put without touching what follows it. -/
theorem setEntryState_word (s : State) (q v : Nat) {j : Nat} (hj : j < 31) :
    (s.setEntryState q v).rawWord (rosterWord q (1 + j)) = s.rawWord (rosterWord q (1 + j)) :=
  rawWord_putWord_ne _ _ (Or.inr (by unfold rosterWord; omega))

theorem rosterWord_next (q j : Nat) : rosterWord q (1 + j) = rosterWord q 0 + 4 * (1 + j) := by
  unfold rosterWord; omega

/-- The first eight words of nine, then the ninth, are the nine. -/
theorem nine_getD {ws : List Word} (h : ws.length = 9) {j : Nat} (hj : j < 8) (a z : Word) :
    ([a] ++ ws.take 8 ++ [z]).getD (1 + j) 0 = ws.getD j 0 := by
  have hlen : (ws.take 8).length = 8 := by rw [List.length_take, h]; rfl
  rw [Nat.add_comm 1 j, List.append_assoc, List.singleton_append, List.getD_cons_succ, List.getD_append _ _ _ _ (by omega),
    List.getD_eq_getElem?_getD, List.getD_eq_getElem?_getD, List.getElem?_take_of_lt hj]

/-- An entry of nine words that a REPORT names, put in the roster as a candidate. -/
def State.reported (s : State) (q : Nat) (ws : List Word) : State :=
  (s.putWords (rosterWord q 0) ([setBits (setBits (s.rawWord
    (rosterWord q 0)) 9 0 q) 31 31 1] ++ ws.take 8 ++ [(ws[8]?).getD 0])).setEntryState q 4

theorem takeReport_new {s : State} {q : Nat} {ws : List Word} (r : Nat) (h : s.cached (ws.take 8) = none) :
    s.takeReport r q ws = ((s.reported q ws).raiseBit Reg.argSticky 6).setEv 186 := by
  unfold State.takeReport
  dsimp only
  rw [h]
  rfl

theorem reported_effect (s : State) (q : Nat) {ws : List Word} (h : ws.length = 9) : (s.reported q ws).entryState q = 4 ∧
    ∀ j, j < 8 → (s.reported q ws).rawWord (rosterWord q (1 + j)) = ws.getD j 0 := by
  refine ⟨entryState_setEntryState _ _ (by decide), fun j hj => ?_⟩
  have hlen : 1 + j < ([setBits (setBits (s.rawWord
    (rosterWord q 0)) 9 0 q) 31 31 1] ++ ws.take 8 ++ [(ws[8]?).getD 0]).length := by
    rw [List.length_append, List.length_append, List.length_take, h, List.length_singleton, List.length_singleton]
    omega
  rw [State.reported, setEntryState_word _ _ _ (by omega), rosterWord_next, rawWord_putWords _ _ _ hlen, nine_getD h hj]

theorem writeAccept_candidate {s : State} {val : Word} (hc : s.entryState (val.toNat % 1024) = 4) (hrole : s.role 0 = 2) :
    s.writeAccept val = s.judgeEntry 0 (val.toNat % 1024) (val.getLsbD 31) := by
  have hq : bits val 9 0 = val.toNat % 1024 := by rw [bits_eq_div, Nat.pow_zero, Nat.div_one]; rfl
  unfold State.writeAccept
  dsimp only
  rw [hq, hc, hrole, if_neg (by decide), if_pos rfl]
  rfl

theorem writeAccept_other {s : State} {val : Word} (hc : s.entryState (val.toNat % 1024) ≠ 4) : s.writeAccept val = s := by
  have hq : bits val 9 0 = val.toNat % 1024 := by rw [bits_eq_div, Nat.pow_zero, Nat.div_one]; rfl
  unfold State.writeAccept
  dsimp only
  rw [hq]
  exact if_pos hc

/-! ## Decisions at a slot boundary (R339) -/

theorem landPlan_early {s : State} {x : Int} (h : ∀ pl ∈ s.arg.plans, x <
  ((pl.start * 1536 : Nat) : Int)) : s.landPlan x = s := by
  have hnone : s.arg.plans.filter (fun p => decide (((p.start * 1536 : Nat) : Int) ≤ x)) = [] :=
    List.filter_eq_nil_iff.mpr fun p hp hle => absurd (of_decide_eq_true hle) (Int.not_le.mpr (h p hp))
  unfold State.landPlan
  rw [hnone] <;> rfl

/-- The sets in force after a decision. -/
def State.setsLanded (s : State) (a b c d : Word) : State :=
  (((s.setReg (Reg.argShed 0) a).setReg (Reg.argShed 1) b).setReg (Reg.argMoved 0) c).setReg (Reg.argMoved 1) d

theorem setsLanded_reg (s : State) (a b c d : Word) : (s.setsLanded a b c d).reg (Reg.argShed 0) = a ∧
    (s.setsLanded a b c d).reg (Reg.argShed 1) = b ∧ (s.setsLanded a b c d).reg (Reg.argMoved 0) = c ∧
    (s.setsLanded a b c d).reg (Reg.argMoved 1) = d ∧
    ∀ j, (j < 0xF0050 ∨ 0xF0060 ≤ j) → (s.setsLanded a b c d).reg j = s.reg j := by
  unfold State.setsLanded
  refine ⟨?_, ?_, ?_, reg_setReg_same .., fun j hj => ?_⟩
  · rw [reg_setReg_ne _ _ _ _ (by decide), reg_setReg_ne _ _ _ _ (by decide), reg_setReg_ne _ _ _ _ (by decide), reg_setReg_same]
  · rw [reg_setReg_ne _ _ _ _ (by decide), reg_setReg_ne _ _ _ _ (by decide), reg_setReg_same]
  · rw [reg_setReg_ne _ _ _ _ (by decide), reg_setReg_same]
  · have hs : ∀ i, i < 2 → j ≠ Reg.argShed i ∧ j ≠ Reg.argMoved i := fun i hi => by
      unfold Reg.argShed Reg.argMoved; omega
    rw [reg_setReg_ne _ _ _ _ (hs 1 (by decide)).2, reg_setReg_ne _ _ _ _ (hs 0 (by decide)).2,
      reg_setReg_ne _ _ _ _ (hs 1 (by decide)).1, reg_setReg_ne _ _ _ _ (hs 0 (by decide)).1]

/-- A head acts by its role, its state on the ring and the season. -/
theorem heading_congr {s t : State} {r : Nat} (hctl : t.reg (Reg.argRingCtl r) = s.reg (Reg.argRingCtl r))
    (hst : t.reg (Reg.argRingStatus r) = s.reg (Reg.argRingStatus r)) (hse : t.reg Reg.pwrState = s.reg Reg.pwrState) :
    t.heading r = s.heading r := by
  rw [State.heading, State.heading, State.role, State.role, State.ringState, State.ringState, State.season, State.season, fld_congr hctl,
    fld_congr hst, fld_congr hse]

/-- What a decision that takes effect now leaves behind it. -/
def State.planLanded (s : State) (a b c d : Word) (x : Int)
  (c1 c2 c3 : Prop) [Decidable c1] [Decidable c2] [Decidable c3] : State :=
  let t := (((s.setsLanded a b c d).raiseIf c1 Reg.argSticky 1).raiseIf c2 Reg.argSticky 2).raiseIf c3 Reg.argSticky 8
  { t with arg := { t.arg with plans := t.arg.plans.filter (fun q => !decide
    (((q.start * 1536 : Nat) : Int) ≤ x)), failed := s.arg.failed } }

theorem raiseIf_arg (s : State) (c : Prop) [Decidable c] (off i : Nat) : (s.raiseIf c off i).arg = s.arg := by
  unfold State.raiseIf
  split
  · exact raiseBit_arg ..
  · rfl

section
variable (s : State) (a b c d : Word) (x : Int) (c1 c2 c3 : Prop) [Decidable c1] [Decidable c2] [Decidable c3]

theorem planLanded_reg {j : Nat} (h : j ≠ Reg.argSticky) (hj : j < 0x110000) :
    (s.planLanded a b c d x c1 c2 c3).reg j = (s.setsLanded a b c d).reg j := by
  have hpba : ∀ k, k < 2 → j ≠ Reg.hstMsixPba k := fun k _ => by unfold Reg.hstMsixPba; omega
  have h0 := hpba 0 (by decide)
  have h1 := hpba 1 (by decide)
  exact (raiseIf_reg _ _ _ h h0 h1).trans ((raiseIf_reg _ _ _ h h0 h1).trans (raiseIf_reg _ _ _ h h0 h1))

theorem planLanded_plans : (s.planLanded a b c d x c1 c2 c3).arg.plans =
    s.arg.plans.filter (fun q => !decide (((q.start * 1536 : Nat) : Int) ≤ x)) := by
  have harg :
    ((((s.setsLanded a b c d).raiseIf c1 Reg.argSticky 1).raiseIf c2 Reg.argSticky 2).raiseIf c3 Reg.argSticky 8).arg = s.arg :=
    (raiseIf_arg ..).trans ((raiseIf_arg ..).trans (raiseIf_arg ..))
  unfold State.planLanded
  dsimp only
  rw [harg]

theorem planLanded_heading {r : Nat} (hr : r < 2) : (s.planLanded a b c d x c1 c2 c3).heading r = s.heading r := by
  obtain ⟨-, -, -, -, hrest⟩ := setsLanded_reg s a b c d
  have hkeep : ∀ j, j ≠ Reg.argSticky → j < 0x110000 → (j < 0xF0050 ∨ 0xF0060 ≤ j) →
    (s.planLanded a b c d x c1 c2 c3).reg j = s.reg j :=
    fun j hs hj ho => (planLanded_reg s a b c d x c1 c2 c3 hs hj).trans (hrest j ho)
  refine heading_congr (hkeep _ ?_ ?_ ?_) (hkeep _ ?_ ?_ ?_) (hkeep _ (by decide) (by decide) (by decide))
  all_goals
    simp only [Reg.argRingCtl, Reg.argRingStatus, Reg.argSticky]
    omega

end

end Sys2Proof.Machine

/-! Time and roster over the ring: a decision that lands, and the statement of the family (R305, R333-R343). -/
namespace Sys2Proof.Machine

/-- The head of ring r tells the sets that have changed. -/
def State.tellSets (was now : List Word) (x : Int) (t : State) (r : Nat) : State :=
  if t.heading r ∧ was ≠ now then t.castCell 5 r 7 (now ++ [BitVec.ofInt 32 (x / 1536)]) else t

theorem tellSets_silent {was now : List Word} {x : Int} {t : State} {r : Nat}
  (h : t.heading r = false) : t.tellSets was now x r = t :=
  if_neg fun hc => Bool.false_ne_true (h.symm.trans hc.1)

/-- A decision whose time has come, of sets `[a, b]` shed and `[c, d]` moved, takes effect. -/
theorem landPlan_due {s : State} {x : Int} {a b c d : Word} {f : Word} (hf : f = s.arg.failed)
    (hdue : s.arg.plans.filter (fun p => decide (((p.start * 1536 : Nat) : Int) ≤ x)) = [⟨0, [a, b], [c, d], f⟩]) :
    ∃ was, s.landPlan x = [0, 1].foldl (State.tellSets was [a, b, c, d] x) (s.planLanded a b c d x
      (([a, b].any (· != 0)) = true ∧ was.take 2 ≠ [a, b]) (([c, d].any (· != 0)) = true ∧ was.drop 2 ≠ [c, d])
      (((f &&& ~~~ s.arg.failed) != 0) = true)) := by
  refine ⟨[s.reg (Reg.argShed 0), s.reg (Reg.argShed 1), s.reg (Reg.argMoved 0), s.reg (Reg.argMoved 1)], ?_⟩
  unfold State.landPlan
  rw [hdue]
  subst hf
  rfl

theorem landPlan_one {s : State} {x : Int} {a b c d : Word} (hp : s.arg.plans = [⟨0, [a, b], [c, d], s.arg.failed⟩]) (hx : 0 ≤ x)
    (h0 : s.heading 0 = false) (h1 : s.heading 1 = false) :
    (s.landPlan x).reg (Reg.argShed 0) = a ∧ (s.landPlan x).reg (Reg.argShed 1) = b ∧ (s.landPlan x).reg (Reg.argMoved 0) = c ∧
      (s.landPlan x).reg (Reg.argMoved 1) = d ∧ (s.landPlan x).arg.plans = [] := by
  have hnow : decide (((0 * 1536 : Nat) : Int) ≤ x) = true := decide_eq_true (by simpa using hx)
  have hdue : s.arg.plans.filter (fun p => decide
    (((p.start * 1536 : Nat) : Int) ≤ x)) = [⟨0, [a, b], [c, d], s.arg.failed⟩] := by
    rw [hp, List.filter_cons]
    exact if_pos hnow
  have hleft : s.arg.plans.filter (fun q => !decide (((q.start * 1536 : Nat) : Int) ≤ x)) = [] := by
    rw [hp]
    refine List.filter_eq_nil_iff.mpr fun q hq => ?_
    rw [List.mem_singleton.mp hq, hnow]
    exact Bool.false_ne_true
  obtain ⟨was, hland⟩ := landPlan_due rfl hdue
  obtain ⟨ha, hb, hc, hd, -⟩ := setsLanded_reg s a b c d
  rw [hland, List.foldl_cons, List.foldl_cons, List.foldl_nil, tellSets_silent ((planLanded_heading s a b c d x _ _ _
    (by decide)).trans h0),
    tellSets_silent ((planLanded_heading s a b c d x _ _ _ (by decide)).trans h1),
    planLanded_reg _ _ _ _ _ _ _ _ _ (by decide) (by decide), planLanded_reg _ _ _ _ _ _ _ _ _ (by decide) (by decide),
    planLanded_reg _ _ _ _ _ _ _ _ _ (by decide) (by decide), planLanded_reg _ _ _ _ _ _ _ _ _ (by decide)
      (by decide), planLanded_plans]
  exact ⟨ha, hb, hc, hd, hleft⟩

/-- A member that ACCEPT names takes its answer. -/
theorem accept_named {u : State} {p : Nat} {c : Cell} (hrole : u.role (ringOf p) = 1) (hpl : u.placed (ringOf p) = true)
    (hpos : (c.payload.headD 0).toNat = u.pos (ringOf p)) (no : State) :
    (if u.role (ringOf p) = 1 ∧ u.placed (ringOf p) = true ∧ (c.payload.headD 0).toNat = u.pos (ringOf p) then
      u.setRingState (ringOf p) (if bit ((c.payload[1]?).getD 0) 0 then 5 else 3) else no) =
      u.setRingState (ringOf p) (if (c.payload.getD 1 0).getLsbD 0 then 5 else 3) := if_pos ⟨hrole, hpl, hpos⟩

theorem setRingState_ringState (s : State) (r : Nat) {v : Nat} (hv : v < 8) : (s.setRingState r v).ringState r = v :=
  (fld_setFld _ _ _ _ _ (by decide)).trans (Nat.mod_eq_of_lt hv)

/-- Settles O49: each command by the lemma of what its receiver does. -/
theorem ringRoster : Obligations.RingRoster := by
  unfold Obligations.RingRoster
  refine ⟨fun s hup => congrArg Host.Outcome.next (if_pos hup), fun s hup ht hrole hpl hans hmiss => ?_,
    fun s u p c hk hx hr hrole hpl hp hts ht => ?_, fun s u p c hk hx hr ht => next_good hk hx hr (if_pos ht),
    fun s u p c t hk hx hr he hp hts hsrc => ?_, fun s u p c k hp4 hk hx hr hrole hcnt hlt => ?_,
    fun s u p c hk hx hr hrole => next_good hk hx hr (takeDiscover_alone hrole),
    fun s r e w hr hup hd hm => ⟨_, rfl, exec_discoverTimeout hr hup hd hm⟩, fun s r e w hd => ?_,
    fun s u p c hk hx hr => next_good hk hx hr rfl, fun s u p c hk hx hr hrole => next_good hk hx hr (if_pos hrole),
    fun s u p c hk hx hr hrole => next_good hk hx hr ?_, fun s r q ws hq hlen hc => ?_,
      fun s u p c hp4 hk hx hr hrole hpl hpos => ?_,
    fun s u p c hk hx hr hrole => next_good hk hx hr (if_pos hrole),
    fun s r q hr hup hrole hst => congrArg Host.Outcome.next (if_pos ⟨hr, hup, hrole, hst⟩), fun s r q hst => ?_,
    fun s u p c hk hx hr => next_good hk hx hr rfl, fun s u p c hk hx hr => next_good hk hx hr rfl,
    fun s u p c hk hr hm => ?_, fun s u p c hk hr hm => ?_, fun s p c h => if_pos h,
    fun s q val hr hc hrole => next_hostReg hr (writeAccept_candidate hc hrole), fun s q val hr hc => next_hostReg hr
      (writeAccept_other hc),
    fun s u d ht hup hload => ?_, fun s x h => landPlan_early h, fun s x a b c d hp hx h0 h1 => landPlan_one hp hx h0 h1⟩
  · rw [tsPeriod_third ht hrole hpl hans hmiss]
    exact ⟨flag_raiseBit (argSticky_up hup) (by decide) (by decide) (by decide), by rw [raiseBit_arg]; rfl⟩
  · exact ⟨u.exchanging (stampOf c.payload, u.stampRx p, u.stampTx p), rfl, rfl, next_good hk hx hr
    (takeSync_taken ⟨hrole, hpl, hp, hts, ht⟩)⟩
  · exact ⟨u.exchanged, next_good hk hx hr (takeResp_taken he hp hts hsrc), rfl, rfl, rfl⟩
  · obtain ⟨hpos, hwest, hstate⟩ := placedAt_effect u (ringOf p) c.west hlt
    exact ⟨_, hpos, hwest, hstate, next_good hk hx hr (takeDiscover_member hrole hcnt hlt)⟩
  · exact congrArg Host.Outcome.next (if_neg fun h => hd h.2.2)
  · rw [hrole, if_neg (by decide), if_pos rfl]
  · obtain ⟨hstate, hwords⟩ := reported_effect s q hlen
    exact ⟨_, hstate, hwords, takeReport_new r hc⟩
  · refine ⟨_, next_good hk hx hr (accept_named hrole hpl hpos _), setRingState_ringState _ _ (by split <;> decide),
      fun off hne => setRingState_reg _ _ _ hne⟩
  · exact congrArg Host.Outcome.next (if_neg fun h => hst h.2.2.2)
  · refine congrArg Host.Outcome.next ((onCell_good_any hk hr _ _).trans ?_)
    dsimp only
    rw [if_pos hm]
  · refine congrArg Host.Outcome.next ((onCell_good_any hk hr _ _).trans ?_)
    dsimp only
    rw [hm, if_neg Bool.false_ne_true]
  · refine ⟨_, congrArg Host.Outcome.next (if_pos ⟨ht, hup⟩), ?_, rfl, ?_⟩
    · rw [State.loadCache, hload]
      rfl
    · rw [State.loadCache, hload]

end Sys2Proof.Machine

/-! Serial lanes: readiness, loss, realignment and tests (R345-R358). -/
namespace Sys2Proof.Machine

/-! ## Blocks and registers of the lanes -/

theorem slnSticky_up {s : State} {l : Nat} (h : laneUp s l = true) : s.regUp Reg.slnSticky = true := by
  rw [State.regUp, if_pos (by decide), Bool.or_eq_true]
  unfold laneUp at h
  split at h
  · exact Or.inr h
  · exact Or.inl h

theorem laneUp_congr {s t : State} (h : ∀ d, d < 12 → t.reg (Reg.pwrDomStatus (d - 1)) = s.reg (Reg.pwrDomStatus (d - 1)))
  (l : Nat) :
    laneUp t l = laneUp s l := by
  unfold laneUp
  split
  · exact up_congr (h _ (by decide))
  · exact up_congr (h _ (by decide))

theorem laneQ_lt {l : Nat} (h : l < 80) : laneQ l < 8 := by
  unfold laneQ
  split <;> omega

/-- The registers of a lane stand apart from those of its block, of the domains and of the PBA. -/
theorem lane_range {j l : Nat} (hl : l < 80) (hlo : 0xD1000 + 0x40 * l ≤ j) (hhi : j < 0xD1040 + 0x40 * l) :
    j ≠ Reg.slnSticky ∧ j ≠ Reg.slnFom ∧ j ≠ Reg.hstMsixPba 0 ∧ j ≠ Reg.hstMsixPba 1 ∧ ∀ d, d < 12 → Reg.pwrDomStatus
      (d - 1) ≠ j := by
  unfold Reg.slnSticky Reg.slnFom Reg.hstMsixPba Reg.pwrDomStatus
  refine ⟨by omega, by omega, by omega, by omega, fun d hd => by omega⟩

/-- A register of a lane keeps its value when a bit of the block's STICKY rises. -/
theorem lane_raiseBit (s : State) (i : Nat) {j l : Nat} (hl : l < 80) (hlo : 0xD1000 + 0x40 * l ≤ j)
  (hhi : j < 0xD1040 + 0x40 * l) :
    (s.raiseBit Reg.slnSticky i).reg j = s.reg j := by
  obtain ⟨h, -, h0, h1, -⟩ := lane_range hl hlo hhi
  exact raiseBit_reg_ne _ _ h h0 h1

/-! ## Readiness (R346) -/

/-- A lane put among the ready ones. -/
def State.laneNowReady (s : State) (l : Nat) : State :=
  { s with ready := (s.ready.filter (· < l)) ++ [l] ++ s.ready.filter (l < ·) }

theorem mem_laneNowReady {s : State} {l : Nat} (h : l ∉ s.ready) (m : Nat) : m ∈
  (s.laneNowReady l).ready ↔ m = l ∨ m ∈ s.ready := by
  have hmem : m ∈ (s.laneNowReady l).ready ↔ (m ∈ s.ready ∧ m < l ∨ m = l) ∨ m ∈ s.ready ∧ l < m := by
    simp [State.laneNowReady, or_assoc]
  rw [hmem]
  constructor
  · rintro ((⟨hm, -⟩ | hm) | ⟨hm, -⟩)
    · exact Or.inr hm
    · exact Or.inl hm
    · exact Or.inr hm
  · rintro (hm | hm)
    · exact Or.inl (Or.inr hm)
    · rcases Nat.lt_trichotomy m l with hlt | heq | hgt
      · exact Or.inl (Or.inl ⟨hm, hlt⟩)
      · exact absurd (heq ▸ hm) h
      · exact Or.inr ⟨hm, hgt⟩

/-! ## Lane loss (R350, R352) -/

/-- The indications of a loss but for the bit of the block. -/
def State.lolShown (s : State) (l c : Nat) : State :=
  ((s.setFld (Reg.slnLaneStatus l) (31 - c) 29 0).setFlag (Reg.slnLaneLsticky l) 0 true).bump (Reg.slnLaneLolCnt l)

theorem lolMarks_eq (s : State) (l c : Nat) : s.lolMarks l c = (s.lolShown l c).raiseBit Reg.slnSticky (laneQ l) := rfl

theorem lolShown_reg (s : State) (l c : Nat) {j : Nat} (h1 : j ≠ Reg.slnLaneStatus l) (h2 : j ≠ Reg.slnLaneLsticky l)
    (h3 : j ≠ Reg.slnLaneLolCnt l) : (s.lolShown l c).reg j = s.reg j := by
  rw [State.lolShown, bump_reg_ne _ h3, reg_setFlag_ne _ _ _ _ _ h2, reg_setFld_ne _ _ _ _ _ _ h1]

theorem lolMarks_reg (s : State) (l c : Nat) {j : Nat} (hj : j < 0xD0000 ∨ 0xD3000 ≤ j) (hp : j < 0x110000) (hl : l < 80) :
    (s.lolMarks l c).reg j = s.reg j := by
  have hne : j ≠ Reg.slnSticky ∧ j ≠ Reg.hstMsixPba 0 ∧ j ≠ Reg.hstMsixPba 1 ∧ j ≠ Reg.slnLaneStatus l ∧ j ≠ Reg.slnLaneLsticky l ∧
      j ≠ Reg.slnLaneLolCnt l := by
    unfold Reg.slnSticky Reg.hstMsixPba Reg.slnLaneStatus Reg.slnLaneLsticky Reg.slnLaneLolCnt
    omega
  obtain ⟨hs, h0, h1, h2, h3, h4⟩ := hne
  rw [lolMarks_eq, raiseBit_reg_ne _ _ hs h0 h1, lolShown_reg _ _ _ h2 h3 h4]

theorem lolMarks_effect {s : State} {l c : Nat} (hl : l < 80) (hc : c ≤ 2) (hup : laneUp s l = true) :
    (s.lolMarks l c).flag (Reg.slnLaneLsticky l) 0 = true ∧ (s.lolMarks l c).fld (Reg.slnLaneStatus l) 29 29 = 0 ∧
      (s.lolMarks l c).flag Reg.slnSticky (laneQ l) = true ∧
      (s.lolMarks l c).fld (Reg.slnLaneLolCnt l) 31 0 = min (s.fld (Reg.slnLaneLolCnt l) 31 0 + 1) (2 ^ 32 - 1) := by
  have hcs : Reg.slnLaneLolCnt l ≠ Reg.slnLaneStatus l := by unfold Reg.slnLaneLolCnt Reg.slnLaneStatus; omega
  have hcl : Reg.slnLaneLolCnt l ≠ Reg.slnLaneLsticky l := by unfold Reg.slnLaneLolCnt Reg.slnLaneLsticky; omega
  have hls : Reg.slnLaneLsticky l ≠ Reg.slnLaneStatus l := by unfold Reg.slnLaneLsticky Reg.slnLaneStatus; omega
  have hkeep : ∀ j, 0xD1000 + 0x40 * l ≤ j → j < 0xD1040 + 0x40 * l → (s.lolMarks l c).reg j = (s.lolShown l c).reg j :=
    fun j hlo hhi => lane_raiseBit _ _ hl hlo hhi
  have hdom : ∀ d, d < 12 → (s.lolShown l c).reg (Reg.pwrDomStatus (d - 1)) = s.reg (Reg.pwrDomStatus (d - 1)) := fun d hd => by
    refine lolShown_reg s l c ?_ ?_ ?_
    · unfold Reg.pwrDomStatus Reg.slnLaneStatus; omega
    · unfold Reg.pwrDomStatus Reg.slnLaneLsticky; omega
    · unfold Reg.pwrDomStatus Reg.slnLaneLolCnt; omega
  refine ⟨?_, ?_, ?_, ?_⟩
  · rw [flag_congr (hkeep _ (by unfold Reg.slnLaneLsticky; omega) (by unfold Reg.slnLaneLsticky; omega)), State.lolShown,
      flag_congr (bump_reg_ne _ hcl.symm), flag_setFlag _ _ _ _ (by decide)]
  · rw [fld_congr (hkeep _ (by unfold Reg.slnLaneStatus; omega) (by unfold Reg.slnLaneStatus; omega)), State.lolShown,
      fld_congr (bump_reg_ne _ hcs.symm), fld_setFlag_ne _ _ _ _ _ _ _ hls.symm]
    rw [State.fld, reg_setFld, if_pos rfl]
    have hbit : bit (setBits (s.reg (Reg.slnLaneStatus l)) (31 - c) 29 0) 29 = false := by
      rw [bit_setBits _ _ _ _ _ (by decide), if_pos (by omega), Nat.zero_testBit]
    rw [bit_eq_div, beq_eq_false_iff_ne] at hbit
    rw [bits_eq_div]
    omega
  · rw [lolMarks_eq]
    exact flag_raiseBit (slnSticky_up ((laneUp_congr hdom l).trans hup)) (by have := laneQ_lt hl; omega) (by decide) (by decide)
  · rw [fld_congr (hkeep _ (by unfold Reg.slnLaneLolCnt; omega) (by unfold Reg.slnLaneLolCnt; omega)), State.lolShown, fld_bump,
      fld_setFlag_ne _ _ _ _ _ _ _ hcl, fld_setFld_ne _ _ _ _ _ _ _ _ hcs]

theorem exec_laneLoss_ring {s : State} {l c : Nat} (hl : l < 64) (hc : c ≤ 2) (hup : s.up domRing = true)
    (hlock : s.flag (Reg.slnLaneStatus l) 28 = true) (hst : s.portState (l / 16) = 3 ∨ s.portState (l / 16) = 4) :
    exec (.laneLoss l c) s = .next ((s.lolMarks l c).narrow (l / 16) ((s.lolMarks l c).lockedLanes (l / 16))) := by
  have hlane : laneUp s l = true := by rw [laneUp, if_pos hl]; exact hup
  have hport : (s.lolMarks l c).portState (l / 16) = s.portState (l / 16) :=
    fld_congr (lolMarks_reg s l c (by unfold Reg.argPortStatus; omega) (by unfold Reg.argPortStatus; omega) (by omega)) _ _
  refine congrArg Host.Outcome.next ((if_neg fun h => ?_).trans ((if_pos hl).trans ?_))
  · rw [hlane] at h
    rcases h with h | h | h
    · omega
    · omega
    · cases h
  · unfold State.ringLaneLost
    dsimp only
    rw [if_pos hlock, if_pos (by rw [hport]; exact hst)]

theorem exec_laneLoss_fh {s : State} {l c : Nat} (h64 : 64 ≤ l) (hl : l < 80) (hc : c ≤ 2) (hlock : s.flag
  (Reg.slnLaneStatus l) 28 = true)
    (hlink : s.fhLink (lanePort l) = true) : exec (.laneLoss l c) s = .next ((s.lolMarks l c).linkDown (lanePort l) 0) := by
  have hup : s.up domFh = true := (Bool.and_eq_true_iff.mp hlink).1
  have hlane : laneUp s l = true := by rw [laneUp, if_neg (by omega)]; exact hup
  have hlink' : (s.lolMarks l c).fhLink (lanePort l) = true := by
    rw [← hlink, State.fhLink, State.fhLink]
    congr 1
    · exact up_congr (lolMarks_reg s l c (by decide) (by decide) hl)
    · exact flag_congr (lolMarks_reg s l c (by unfold Reg.fhpPortStatus lanePort; omega)
      (by unfold Reg.fhpPortStatus lanePort; omega) hl) _
  refine congrArg Host.Outcome.next ((if_neg fun h => ?_).trans ((if_neg (by omega)).trans ((if_pos hlock).trans
    (if_pos hlink'))))
  rw [hlane] at h
  rcases h with h | h | h
  · omega
  · omega
  · cases h

theorem exec_laneLoss_idle {s : State} {l : Nat} (c : Nat) (hlock : s.flag (Reg.slnLaneStatus l) 28 = false) :
    exec (.laneLoss l c) s = .next s := by
  have hring : s.ringLaneLost l c = s := by
    unfold State.ringLaneLost
    dsimp only
    rw [hlock, if_neg Bool.false_ne_true]
  refine congrArg Host.Outcome.next ?_
  rw [hring, hlock, if_neg Bool.false_ne_true, ite_self, ite_self]

/-! ## Narrowing and realignment (R338, R350) -/

theorem argPort_setArgPort (s : State) (p : Nat) (q : ArgPort) : (s.setArgPort p q).argPort p = q := by
  rw [State.argPort, State.setArgPort, alook_aput_same, Option.getD_some]

/-- A port that narrows to the lanes `k`, and says so. -/
def State.narrowed (s : State) (p : Nat) (k : Word) : State :=
  ((s.setArgPort p { s.argPort p with keep := k }).setPortState p 4).send (.keep p k.toNat)

theorem narrow_taken {s : State} {p : Nat} {m : Word} (h0 : keepLanes m ≠ 0) (hne : (s.argPort p).keep ≠ keepLanes m) :
    s.narrow p m = s.narrowed p (keepLanes m) := by
  unfold State.narrow
  dsimp only
  rw [if_neg h0, if_neg hne, State.narrowed]

theorem setPortState_portState (s : State) (p : Nat) {v : Nat} (hv : v < 16) : (s.setPortState p v).portState p = v :=
  (fld_setFld _ _ _ _ _ (by decide)).trans (Nat.mod_eq_of_lt hv)

theorem argPort_congr {s t : State} (h : t.arg = s.arg) (p : Nat) : t.argPort p = s.argPort p := by
  rw [State.argPort, State.argPort, h]

theorem narrowed_effect (s : State) (p : Nat) (k : Word) : (s.narrowed p k).portState p = 4 ∧
  ((s.narrowed p k).argPort p).keep = k ∧
    (s.narrowed p k).out = .keep p k.toNat :: s.out := by
  refine ⟨?_, ?_, ?_⟩
  · rw [State.narrowed, State.portState, fld_congr (reg_send ..)]
    exact setPortState_portState _ _ (by decide)
  · have harg : (s.narrowed p k).arg = (s.setArgPort p { s.argPort p with keep := k }).arg := by
      rw [State.narrowed, send_arg, State.setPortState, setFld_arg]
    rw [argPort_congr harg, argPort_setArgPort]
  · rw [State.narrowed, State.send, State.setPortState, setFld_out, setArgPort_out]

/-- What a port that comes up shows of itself. -/
def State.portShown (s : State) (p rate : Nat) (lanes : Word) : State :=
  (((s.setPortState p 3).setFld (Reg.argPortStatus p) 27 26 rate).setFld (Reg.argPortStatus p) 25 24
    (popCount lanes / 4 - 1)).setReg
    (Reg.argPortLanes p) lanes

/-- A port that comes up, its lanes marked and its load judged. -/
def State.portJudged (s : State) (p rate : Nat) (lanes : Word) : State :=
  ((portLanes p).foldl (fun t l => t.setFld (Reg.slnLaneStatus l) 31 28 (if bit lanes (l % 16) then 15 else 0))
    (s.portShown p rate lanes)).judgePort p

theorem portUp_cases (s : State) (p rate : Nat) (lanes : Word) : s.portUp p rate lanes = s.portJudged p rate lanes ∨
    s.portUp p rate lanes = (s.portJudged p rate lanes).setRingState (ringOf p) 2 := by
  unfold State.portUp
  dsimp only
  split
  · exact Or.inr rfl
  · exact Or.inl rfl

theorem foldl_laneStatus_reg (v : Nat → Nat) (ls : List Nat) (s : State) {j : Nat} (h : ∀ l ∈ ls, j ≠ Reg.slnLaneStatus l) :
    (ls.foldl (fun t l => t.setFld (Reg.slnLaneStatus l) 31 28 (v l)) s).reg j = s.reg j :=
  List.foldlRecOn (motive := fun t : State => t.reg j = s.reg j) _ _ rfl fun _ ht l hl => (reg_setFld_ne _ _ _ _ _ _
    (h l hl)).trans ht

theorem foldl_laneStatus_arg (v : Nat → Nat) (ls : List Nat) (s : State) :
    (ls.foldl (fun t l => t.setFld (Reg.slnLaneStatus l) 31 28 (v l)) s).arg = s.arg :=
  List.foldlRecOn (motive := fun t : State => t.arg = s.arg) _ _ rfl fun _ ht _ _ => (setFld_arg ..).trans ht

theorem judgePort_reg (s : State) (p j : Nat) : (s.judgePort p).reg j = s.reg j := rfl

theorem judgePort_keep (s : State) (p : Nat) : ((s.judgePort p).argPort p).keep = (s.argPort p).keep := by
  rw [State.judgePort, argPort_setArgPort]

theorem portLanes_lt {p l : Nat} (hp : p < 4) (h : l ∈ portLanes p) : l < 80 := by
  obtain ⟨i, hi, rfl⟩ := List.mem_map.mp h
  have := List.mem_range.mp hi
  omega

theorem portUp_reg (s : State) {p : Nat} (hp : p < 4) (rate : Nat) (lanes : Word) {j : Nat}
  (h : ∀ l, l < 80 → j ≠ Reg.slnLaneStatus l)
    (hr : j ≠ Reg.argRingStatus (ringOf p)) : (s.portUp p rate lanes).reg j = (s.portShown p rate lanes).reg j := by
  have hjudged : (s.portJudged p rate lanes).reg j = (s.portShown p rate lanes).reg j := by
    rw [State.portJudged, judgePort_reg, foldl_laneStatus_reg _ _ _ fun l hl => h l (portLanes_lt hp hl)]
  rcases portUp_cases s p rate lanes with hc | hc
  · rw [hc, hjudged]
  · rw [hc, setRingState_reg _ _ _ hr, hjudged]

theorem portShown_arg (s : State) (p rate : Nat) (lanes : Word) : (s.portShown p rate lanes).arg = s.arg :=
  (setReg_arg ..).trans ((setFld_arg ..).trans ((setFld_arg ..).trans (setFld_arg ..)))

theorem portUp_keep (s : State) (p rate : Nat) (lanes : Word) : ((s.portUp p rate lanes).argPort p).keep =
  (s.argPort p).keep := by
  have hjudged : ((s.portJudged p rate lanes).argPort p).keep = (s.argPort p).keep := by
    rw [State.portJudged, judgePort_keep, argPort_congr ((foldl_laneStatus_arg ..).trans (portShown_arg ..))]
  rcases portUp_cases s p rate lanes with hc | hc
  · rw [hc, hjudged]
  · rw [hc, State.setRingState, argPort_congr (setFld_arg ..), hjudged]

theorem portShown_reg_ne (s : State) (p rate : Nat) (lanes : Word) {j : Nat} (h1 : j ≠ Reg.argPortStatus p)
  (h2 : j ≠ Reg.argPortLanes p) :
    (s.portShown p rate lanes).reg j = s.reg j := by
  rw [State.portShown, reg_setReg_ne _ _ _ _ h2, reg_setFld_ne _ _ _ _ _ _ h1, reg_setFld_ne _ _ _ _ _ _ h1]
  exact reg_setFld_ne _ _ _ _ _ _ h1

theorem portUp_effect (s : State) {p : Nat} (hp : p < 4) (rate : Nat) (lanes : Word) : (s.portUp p rate lanes).portState p = 3 ∧
    (s.portUp p rate lanes).reg (Reg.argPortLanes p) = lanes ∧ (s.portUp p rate lanes).up domRing = s.up domRing := by
  have hst : Reg.argPortStatus p ≠ Reg.argPortLanes p := by unfold Reg.argPortStatus Reg.argPortLanes; omega
  have hfar : ∀ j, j = Reg.argPortStatus p ∨ j = Reg.argPortLanes p ∨ j = Reg.pwrDomStatus (domRing - 1) →
      (∀ l, l < 80 → j ≠ Reg.slnLaneStatus l) ∧ j ≠ Reg.argRingStatus (ringOf p) := fun j hj => by
    unfold Reg.argPortStatus Reg.argPortLanes Reg.pwrDomStatus domRing at hj
    unfold Reg.slnLaneStatus Reg.argRingStatus ringOf
    exact ⟨fun l hl => by omega, by omega⟩
  have hkeep : ∀ j, j = Reg.argPortStatus p ∨ j = Reg.argPortLanes p ∨ j = Reg.pwrDomStatus (domRing - 1) →
      (s.portUp p rate lanes).reg j = (s.portShown p rate lanes).reg j := fun j hj => portUp_reg s hp rate lanes (hfar j hj).1
        (hfar j hj).2
  refine ⟨?_, ?_, up_congr ((hkeep _ (Or.inr (Or.inr rfl))).trans (portShown_reg_ne _ _ _ _ ?_ ?_))⟩
  · rw [State.portState, fld_congr (hkeep _ (Or.inl rfl)), State.portShown, fld_setReg_ne _ _ _ _ _ _ hst,
      fld_setFld_beside _ _ _ (by decide) (by decide), fld_setFld_beside _ _ _ (by decide) (by decide)]
    exact setPortState_portState _ _ (by decide)
  · rw [hkeep _ (Or.inr (Or.inl rfl))]
    exact reg_setReg_same ..
  · unfold Reg.pwrDomStatus Reg.argPortStatus domRing; omega
  · unfold Reg.pwrDomStatus Reg.argPortLanes domRing; omega

/-- A port up again on the lanes agreed. -/
def State.realigned (s : State) (p : Nat) : State :=
  ((s.setArgPort p { s.argPort p with keep := 0 }).portUp p (s.fld (Reg.argPortStatus p) 27 26)
    (s.argPort p).keep).raiseBit Reg.argSticky 0

theorem realigned_effect {s : State} {p : Nat} (hp : p < 4) (hup : s.up domRing = true) : (s.realigned p).portState p = 3 ∧
    ((s.realigned p).argPort p).keep = 0 ∧ (s.realigned p).reg (Reg.argPortLanes p) = (s.argPort p).keep ∧
    (s.realigned p).flag Reg.argSticky 0 = true := by
  obtain ⟨hst, hlanes, hring⟩ := portUp_effect (s.setArgPort p { s.argPort p with keep := 0 }) hp (s.fld
    (Reg.argPortStatus p) 27 26)
    (s.argPort p).keep
  have hkeep : ∀ (t : State) j, (j = Reg.argPortStatus p ∨ j = Reg.argPortLanes p) →
    (t.raiseBit Reg.argSticky 0).reg j = t.reg j :=
    fun t j hj => by
      have hne : j ≠ Reg.argSticky ∧ j ≠ Reg.hstMsixPba 0 ∧ j ≠ Reg.hstMsixPba 1 := by
        unfold Reg.argPortStatus Reg.argPortLanes at hj
        unfold Reg.argSticky Reg.hstMsixPba
        omega
      exact raiseBit_reg_ne _ _ hne.1 hne.2.1 hne.2.2
  unfold State.realigned
  refine ⟨?_, ?_, ?_, flag_raiseBit (argSticky_up (hring.trans hup)) (by decide) (by decide) (by decide)⟩
  · rw [State.portState, fld_congr (hkeep _ _ (Or.inl rfl))]
    exact hst
  · rw [argPort_congr (raiseBit_arg ..), portUp_keep, argPort_setArgPort]
  · rw [hkeep _ _ (Or.inr rfl), hlanes]

theorem exec_realignDone {s : State} {p : Nat} (hp : p < 4) (hup : s.up domRing = true) (hst : s.portState p = 4)
    (hk : (s.argPort p).keep ≠ 0) : exec (.realignDone p) s = .next (((s.realigned p).castLane p).noteLink (ringOf p)
      ((s.realigned p).pos (ringOf p)) p (linkMbps (s.fld (Reg.argPortStatus p) 27 26) (popCount (s.argPort p).keep / 4 - 1))
      (s.realigned p).tns) := congrArg Host.Outcome.next (if_pos ⟨hp, hup, hst, hk⟩)

end Sys2Proof.Machine

/-! Serial lanes: tests, the figure of merit, and the statement of the family (R345-R358). -/
namespace Sys2Proof.Machine

/-! ## Tests of a lane (R355-R357) -/

theorem writeLaneCtl_open {s : State} {l : Nat} {val : Word} (hgo :
  ((bit val 31 || bits val 30 29 != 0) && !s.lanePortDown l) = false)
    (hp1 : s.patternOk l (bits val 27 24) = true) (hp2 : s.patternOk l (bits val 23 20) = true) (t : State)
    (ht : t = s.writeFields (Reg.slnLaneCtl l) val 0xFFFFFFFF) : s.writeLaneCtl l val 0xFFFFFFFF =
      (let u := if t.flag (Reg.slnLaneCtl l) 31 then t else t.setFlag (Reg.slnLaneStatus l) 27 false
       if bit val 8 then u.send (.inject l) else u) := by
  subst ht
  unfold State.writeLaneCtl
  dsimp only
  rw [masked_allOnes, and_allOnes_word, hgo, if_neg Bool.false_ne_true, hp1, hp2, if_pos rfl, if_pos rfl]

theorem writeLaneCtl_inUse {s : State} {l : Nat} {val : Word} (hgo :
  ((bit val 31 || bits val 30 29 != 0) && !s.lanePortDown l) = true) :
    s.writeLaneCtl l val 0xFFFFFFFF = (s.bump Reg.slnCntBadw).raiseBit Reg.slnSticky 17 := by
  unfold State.writeLaneCtl
  dsimp only
  rw [masked_allOnes]
  exact if_pos hgo

theorem bits_27_24 (val : Word) : bits val 27 24 = val.toNat / 2 ^ 24 % 16 := bits_eq_div val 27 24
theorem bits_23_20 (val : Word) : bits val 23 20 = val.toNat / 2 ^ 20 % 16 := bits_eq_div val 23 20
theorem bits_30_29 (val : Word) : bits val 30 29 = val.toNat / 2 ^ 29 % 4 := bits_eq_div val 30 29

theorem inject_word : (0x100 : Word) = BitVec.twoPow 32 8 := by decide

/-- Without the bits of a test, nothing in use is touched. -/
theorem noTest {val : Word} (h : val.toNat / 2 ^ 29 = 0) : (bit (val ||| 0x100) 31 || bits
  (val ||| 0x100) 30 29 != 0) = false := by
  have h31 : bit val 31 = false := by
    rw [bit_eq_div, beq_eq_false_iff_ne]
    omega
  have h30 : bits val 30 29 = 0 := by rw [bits_30_29, h]
  rw [inject_word, bit_orBit _ (by decide), bits_orBit _ (by decide), h31, h30]
  rfl

/-! ## The figure of merit (R353, R354) -/

theorem fomOf_lt (b : Bool) (eh ew : Nat) : fomOf b eh ew < 256 := by
  unfold fomOf
  split <;> exact Nat.lt_of_le_of_lt (Nat.min_le_left ..) (by decide)

/-- The figure shown, and the errors counted. -/
def State.fomShown (s : State) (l f errs : Nat) : State := (s.setFld (Reg.slnLaneStatus l) 23 16 f).count
  (Reg.slnLaneCodeErr l) 31 0 errs

theorem codeErr_ne_status (l : Nat) : Reg.slnLaneCodeErr l ≠ Reg.slnLaneStatus l := by
  unfold Reg.slnLaneCodeErr Reg.slnLaneStatus; omega

theorem fomShown_effect (s : State) (l : Nat) {f : Nat} (errs : Nat) (hf : f < 256) :
    (s.fomShown l f errs).fld (Reg.slnLaneStatus l) 23 16 = f ∧
      (s.fomShown l f errs).fld (Reg.slnLaneCodeErr l) 31 0 = min (s.fld (Reg.slnLaneCodeErr l) 31 0 + errs) (2 ^ 32 - 1) := by
  unfold State.fomShown
  refine ⟨?_, ?_⟩
  · rw [fld_count_ne _ _ _ _ _ _ (codeErr_ne_status l).symm, fld_setFld _ _ _ _ _ (by decide)]
    exact Nat.mod_eq_of_lt hf
  · rw [fld_count _ _ _ _ (by decide), fld_setFld_ne _ _ _ _ _ _ _ _ (codeErr_ne_status l)]

theorem fomShown_reg (s : State) (l f errs : Nat) {j : Nat} (h1 : j ≠ Reg.slnLaneStatus l) (h2 : j ≠ Reg.slnLaneCodeErr l) :
    (s.fomShown l f errs).reg j = s.reg j := by
  rw [State.fomShown, reg_count_ne _ _ _ _ h2, reg_setFld_ne _ _ _ _ _ _ h1]

/-- A lane shown as one of low merit. -/
def State.fomLow (s : State) (l : Nat) : State := (s.setFlag (Reg.slnLaneLsticky l) 2 true).raiseBit Reg.slnSticky (8 + laneQ l)

theorem fomLow_reg (s : State) {l j : Nat} (hl : l < 80) (hlo : 0xD1000 + 0x40 * l ≤ j) (hhi : j < 0xD1040 + 0x40 * l)
    (h : j ≠ Reg.slnLaneLsticky l) : (s.fomLow l).reg j = s.reg j := by
  rw [State.fomLow, lane_raiseBit _ _ hl hlo hhi, reg_setFlag_ne _ _ _ _ _ h]

theorem lsticky_range (l : Nat) : 0xD1000 + 0x40 * l ≤ Reg.slnLaneLsticky l ∧ Reg.slnLaneLsticky l < 0xD1040 + 0x40 * l := by
  unfold Reg.slnLaneLsticky; omega

/-- A flag set in a lane's LSTICKY leaves the lane's block up. -/
theorem laneUp_lsticky (s : State) (l i : Nat) (b : Bool) : laneUp (s.setFlag (Reg.slnLaneLsticky l) i b) l = laneUp s l :=
  laneUp_congr (fun d hd => reg_setFlag_ne _ _ _ _ _ (by unfold Reg.pwrDomStatus Reg.slnLaneLsticky; omega)) l

theorem fomLow_flags {s : State} {l : Nat} (hl : l < 80) (hup : laneUp s l = true) :
    (s.fomLow l).flag (Reg.slnLaneLsticky l) 2 = true ∧ (s.fomLow l).flag Reg.slnSticky (8 + laneQ l) = true := by
  unfold State.fomLow
  refine ⟨?_, flag_raiseBit (slnSticky_up ((laneUp_lsticky s l 2 true).trans hup)) (by have := laneQ_lt hl; omega) (by decide)
    (by decide)⟩
  rw [flag_congr (lane_raiseBit _ _ hl (lsticky_range l).1 (lsticky_range l).2), flag_setFlag _ _ _ _ (by decide)]

theorem exec_fomMeasure {s : State} {l eh ew e : Nat} (hl : l < 80) (hup : laneUp s l = true)
    (hlock : s.flag (Reg.slnLaneStatus l) 28 = true) : exec (.fomMeasure l eh ew e) s = .next
      (if fomOf (s.pam4 l) eh ew < (s.fomShown l (fomOf (s.pam4 l) eh ew) e).fld Reg.slnFom 15 8 then
        (s.fomShown l (fomOf (s.pam4 l) eh ew) e).fomLow l else s.fomShown l (fomOf (s.pam4 l) eh ew) e) :=
  congrArg Host.Outcome.next (if_pos ⟨hl, hup, hlock⟩)

/-- What a measurement of figure `f` leaves. -/
theorem fom_effect {s : State} {l : Nat} {f : Nat} (errs : Nat) (hl : l < 80) (hup : laneUp s l = true) (hf : f < 256) (t : State)
    (ht : t = if f < (s.fomShown l f errs).fld Reg.slnFom 15 8 then (s.fomShown l f errs).fomLow l else s.fomShown l f errs) :
    t.fld (Reg.slnLaneStatus l) 23 16 = f ∧
      t.fld (Reg.slnLaneCodeErr l) 31 0 = min (s.fld (Reg.slnLaneCodeErr l) 31 0 + errs) (2 ^ 32 - 1) ∧
      (f < s.fld Reg.slnFom 15 8 → t.flag (Reg.slnLaneLsticky l) 2 = true ∧ t.flag Reg.slnSticky (8 + laneQ l) = true) := by
  obtain ⟨hshown, herr⟩ := fomShown_effect s l errs hf
  have hlimit : (s.fomShown l f errs).fld Reg.slnFom 15 8 = s.fld Reg.slnFom 15 8 :=
    fld_congr (fomShown_reg s l f errs (by unfold Reg.slnFom Reg.slnLaneStatus; omega)
      (by unfold Reg.slnFom Reg.slnLaneCodeErr; omega)) _ _
  have hup' : laneUp (s.fomShown l f errs) l = true := by
    rw [← hup]
    refine laneUp_congr (fun d hd => fomShown_reg _ _ _ _ ?_ ?_) l
    · unfold Reg.pwrDomStatus Reg.slnLaneStatus; omega
    · unfold Reg.pwrDomStatus Reg.slnLaneCodeErr; omega
  rw [ht, hlimit]
  by_cases hlow : f < s.fld Reg.slnFom 15 8
  · rw [if_pos hlow]
    have hst : ((s.fomShown l f errs).fomLow l).reg (Reg.slnLaneStatus l) = (s.fomShown l f errs).reg (Reg.slnLaneStatus l) := by
      refine fomLow_reg _ hl ?_ ?_ ?_ <;> simp only [Reg.slnLaneStatus, Reg.slnLaneLsticky] <;> omega
    have hce : ((s.fomShown l f errs).fomLow l).reg (Reg.slnLaneCodeErr l) = (s.fomShown l f errs).reg
      (Reg.slnLaneCodeErr l) := by
      refine fomLow_reg _ hl ?_ ?_ ?_ <;> simp only [Reg.slnLaneCodeErr, Reg.slnLaneLsticky] <;> omega
    rw [fld_congr hst, fld_congr hce]
    exact ⟨hshown, herr, fun _ => fomLow_flags hl hup'⟩
  · rw [if_neg hlow]
    exact ⟨hshown, herr, fun h => absurd h hlow⟩

/-! ## The checker (R355) -/

theorem exec_patLock_gain {s : State} {l e n : Nat} (hl : l < 80) (hup : laneUp s l = true) (hen : s.flag
  (Reg.slnLaneCtl l) 31 = true)
    (hwas : s.flag (Reg.slnLaneStatus l) 27 = false) :
    exec (.patLock l true e n) s = .next (s.setFlag (Reg.slnLaneStatus l) 27 true) := by
  refine congrArg Host.Outcome.next ((if_pos ⟨hl, hup, hen⟩).trans ?_)
  dsimp only
  rw [hwas, if_neg Bool.false_ne_true]
  exact if_neg fun h => Bool.false_ne_true h.1

/-- What the checker shows of `m` checked bits when it loses lock after `e` errored ones. -/
def State.checkLost (s : State) (l e m : Nat) : State :=
  (((s.count (Reg.slnLaneErr l) 31 0 e).setReg (Reg.slnLaneBitsLo l) (BitVec.ofNat 32 m)).setReg (Reg.slnLaneBitsHi l)
    (BitVec.ofNat 32 (m / 2 ^ 32))).setFlag (Reg.slnLaneStatus l) 27 false

/-- The indications of a lost lock. -/
def State.lockLost (s : State) (l : Nat) : State := (s.setFlag (Reg.slnLaneLsticky l) 1 true).raiseBit Reg.slnSticky 16

theorem exec_patLock_lose {s : State} {l e n : Nat} (hl : l < 80) (hup : laneUp s l = true) (hen : s.flag
  (Reg.slnLaneCtl l) 31 = true)
    (hwas : s.flag (Reg.slnLaneStatus l) 27 = true) : ∃ m, exec (.patLock l false e n) s = .next
      ((s.checkLost l e m).lockLost l) := by
  refine ⟨satAdd 64 ((s.reg (Reg.slnLaneBitsHi l)).toNat * 2 ^ 32 + (s.reg (Reg.slnLaneBitsLo l)).toNat) n,
    congrArg Host.Outcome.next ((if_pos ⟨hl, hup, hen⟩).trans ?_)⟩
  dsimp only
  rw [hwas, if_pos rfl]
  exact if_pos ⟨rfl, rfl⟩

theorem checkLost_effect (s : State) (l e m : Nat) : (s.checkLost l e m).flag (Reg.slnLaneStatus l) 27 = false ∧
    (s.checkLost l e m).fld (Reg.slnLaneErr l) 31 0 = min (s.fld (Reg.slnLaneErr l) 31 0 + e) (2 ^ 32 - 1) ∧
    ∀ d, d < 12 → (s.checkLost l e m).reg (Reg.pwrDomStatus (d - 1)) = s.reg (Reg.pwrDomStatus (d - 1)) := by
  have hne : Reg.slnLaneErr l ≠ Reg.slnLaneStatus l ∧ Reg.slnLaneErr l ≠ Reg.slnLaneBitsHi l ∧ Reg.slnLaneErr l ≠ Reg.slnLaneBitsLo l := by
    unfold Reg.slnLaneErr Reg.slnLaneStatus Reg.slnLaneBitsHi Reg.slnLaneBitsLo; omega
  obtain ⟨h1, h2, h3⟩ := hne
  unfold State.checkLost
  refine ⟨flag_setFlag _ _ _ _ (by decide), ?_, fun d hd => ?_⟩
  · rw [fld_setFlag_ne _ _ _ _ _ _ _ h1, fld_setReg_ne _ _ _ _ _ _ h2, fld_setReg_ne _ _ _ _ _ _ h3, fld_count _ _ _ _
    (by decide)]
  · have hd : Reg.pwrDomStatus (d - 1) < 0xD0000 := by unfold Reg.pwrDomStatus; omega
    rw [reg_setFlag_ne _ _ _ _ _ (by unfold Reg.slnLaneStatus; omega), reg_setReg_ne _ _ _ _ (by unfold Reg.slnLaneBitsHi; omega),
      reg_setReg_ne _ _ _ _ (by unfold Reg.slnLaneBitsLo; omega), reg_count_ne _ _ _ _ (by unfold Reg.slnLaneErr; omega)]

theorem lockLost_reg (s : State) {l j : Nat} (hl : l < 80) (hlo : 0xD1000 + 0x40 * l ≤ j) (hhi : j < 0xD1040 + 0x40 * l)
    (h : j ≠ Reg.slnLaneLsticky l) : (s.lockLost l).reg j = s.reg j := by
  rw [State.lockLost, lane_raiseBit _ _ hl hlo hhi, reg_setFlag_ne _ _ _ _ _ h]

theorem lockLost_flags {s : State} {l : Nat} (hl : l < 80) (hup : laneUp s l = true) :
    (s.lockLost l).flag (Reg.slnLaneLsticky l) 1 = true ∧ (s.lockLost l).flag Reg.slnSticky 16 = true := by
  unfold State.lockLost
  refine ⟨?_, flag_raiseBit (slnSticky_up ((laneUp_lsticky s l 1 true).trans hup)) (by decide) (by decide) (by decide)⟩
  rw [flag_congr (lane_raiseBit _ _ hl (lsticky_range l).1 (lsticky_range l).2), flag_setFlag _ _ _ _ (by decide)]

theorem lockLost_checkLost {s : State} {l : Nat} (e m : Nat) (hl : l < 80) (hup : laneUp s l = true) :
    ((s.checkLost l e m).lockLost l).flag (Reg.slnLaneStatus l) 27 = false ∧
      ((s.checkLost l e m).lockLost l).flag (Reg.slnLaneLsticky l) 1 = true ∧
        ((s.checkLost l e m).lockLost l).flag Reg.slnSticky 16 = true ∧
      ((s.checkLost l e m).lockLost l).fld (Reg.slnLaneErr l) 31 0 = min (s.fld (Reg.slnLaneErr l) 31 0 + e) (2 ^ 32 - 1) := by
  obtain ⟨hlock, herr, hdom⟩ := checkLost_effect s l e m
  obtain ⟨hls, hst⟩ := lockLost_flags hl ((laneUp_congr hdom l).trans hup)
  have hkst : ((s.checkLost l e m).lockLost l).reg (Reg.slnLaneStatus l) = (s.checkLost l e m).reg (Reg.slnLaneStatus l) := by
    refine lockLost_reg _ hl ?_ ?_ ?_ <;> simp only [Reg.slnLaneStatus, Reg.slnLaneLsticky] <;> omega
  have hker : ((s.checkLost l e m).lockLost l).reg (Reg.slnLaneErr l) = (s.checkLost l e m).reg (Reg.slnLaneErr l) := by
    refine lockLost_reg _ hl ?_ ?_ ?_ <;> simp only [Reg.slnLaneErr, Reg.slnLaneLsticky] <;> omega
  exact ⟨(flag_congr hkst 27).trans hlock, hls, hst, (fld_congr hker 31 0).trans herr⟩

/-! ## The statement -/

theorem ready_contains {s : State} {l : Nat} (h : l ∉ s.ready) : (!s.ready.contains l) = true := by
  rw [Bool.not_eq_true', List.contains_eq_mem, decide_eq_false h]

/-- Settles O50: each command by the lemma of its operation. -/
theorem serialLanes : Obligations.SerialLanes := by
  unfold Obligations.SerialLanes
  refine ⟨fun s l hl hup hu hr => ⟨s.laneNowReady l, congrArg Host.Outcome.next (if_pos ⟨hl, hup, hu, ready_contains hr⟩),
      mem_laneNowReady hr, rfl⟩,
    fun s l h => ?_, fun s l c hl hc hup hlock hst => exec_laneLoss_ring hl hc hup hlock hst,
    fun s l c hl hc hup => lolMarks_effect hl hc hup, fun s p m hp h0 hne => ?_, fun s p m h0 => if_pos h0, fun s p m h0 he => ?_,
    fun s l c h64 hl hc hlock hlink => exec_laneLoss_fh h64 hl hc hlock hlink, fun s l c hl hlock => exec_laneLoss_idle c hlock,
    fun s p m hp hup hst => congrArg Host.Outcome.next (if_pos ⟨hp, hup, hst⟩), fun s p hp hup hst hk => ?_, fun s p hk => ?_,
    fun eh ew => ⟨rfl, rfl⟩, fun s l eh ew e hl hup hlock => ⟨_, exec_fomMeasure hl hup hlock, fom_effect e hl hup
      (fomOf_lt _ _ _) _ rfl⟩,
    fun s p l val hl hr hdown h8 hp1 hp2 => ?_, fun s p l val hl hr hdown htest => ?_, fun s p l val hl hr h29 hp1 hp2 => ?_,
    fun s l hl hup hk => congrArg Host.Outcome.next (if_pos ⟨hl, hup, hk⟩), fun s l hk => congrArg Host.Outcome.next
      (if_neg fun h => h.2.2 hk),
    fun s l e n hl hup hen hwas => ⟨_, exec_patLock_gain hl hup hen hwas, flag_setFlag _ _ _ _ (by decide),
      fun off hne => reg_setFlag_ne _ _ _ _ _ hne⟩,
    fun s l e n hl hup hen hwas => ?_, fun s l k e n hen => ?_⟩
  · refine congrArg Host.Outcome.next (if_neg fun hc => ?_)
    obtain ⟨-, -, hu, hr⟩ := hc
    rcases h with h | h
    · rw [h] at hu
      cases hu
    · rw [Bool.not_eq_true', List.contains_eq_mem, decide_eq_false_iff_not] at hr
      exact hr h
  · rw [narrow_taken h0 hne]
    exact narrowed_effect s p _
  · unfold State.narrow
    dsimp only
    rw [if_neg h0, if_pos he]
  · obtain ⟨h1, h2, h3, h4⟩ := realigned_effect hp hup
    exact ⟨_, h1, h2, h3, h4, exec_realignDone hp hup hst hk⟩
  · exact congrArg Host.Outcome.next (if_neg fun h => h.2.2.2 hk)
  · refine (congrArg Host.Outcome.next (if_pos hl)).trans (next_hostReg hr ((writeLaneCtl_open ?_ ?_ ?_ _ rfl).trans (if_neg ?_)))
    · rw [hdown, Bool.not_true, Bool.and_false]
    · rw [bits_27_24]; exact hp1
    · rw [bits_23_20]; exact hp2
    · rw [bit, h8]; exact Bool.false_ne_true
  · refine (congrArg Host.Outcome.next (if_pos hl)).trans (next_hostReg hr (writeLaneCtl_inUse ?_))
    rw [hdown, Bool.not_false, Bool.and_true, Bool.or_eq_true, bne_iff_ne, bits_30_29]
    exact htest
  · have h8 : bit (val ||| 0x100) 8 = true := by rw [inject_word, bit_orBit _ (by decide), decide_eq_true rfl, Bool.or_true]
    have hb1 : bits (val ||| 0x100) 27 24 = val.toNat / 2 ^ 24 % 16 := by rw [inject_word, bits_orBit _ (by decide), bits_27_24]
    have hb2 : bits (val ||| 0x100) 23 20 = val.toNat / 2 ^ 20 % 16 := by rw [inject_word, bits_orBit _ (by decide), bits_23_20]
    refine (congrArg Host.Outcome.next (if_pos hl)).trans (next_hostReg hr ((writeLaneCtl_open ?_ ?_ ?_ _ rfl).trans (if_pos h8)))
    · rw [noTest h29, Bool.false_and]
    · rw [hb1]; exact hp1
    · rw [hb2]; exact hp2
  · obtain ⟨m, hexec⟩ := exec_patLock_lose (e := e) (n := n) hl hup hen hwas
    exact ⟨_, hexec, lockLost_checkLost e m hl hup⟩
  · refine congrArg Host.Outcome.next (if_neg fun h => ?_)
    rw [hen] at h
    exact Bool.false_ne_true h.2.2

end Sys2Proof.Machine

/-! Fronthaul frames, reception windows and host queues (R361-R367, R372-R374). -/
namespace Sys2Proof.Machine

/-! ## Frames at a port (R361) -/

theorem takeFrame_badFcs (s : State) (i : Nat) (bs : List Byte) :
    s.takeFrame i bs false = (s.count (Reg.fhpPortCnt i 1) 31 0 1).raiseBit Reg.fhpSticky 11 := by
  rw [State.takeFrame, Bool.not_false, if_pos rfl, State.fhpCount]

theorem foreignVid_off {s : State} {i : Nat} (bs : List Byte) (h : s.flag (Reg.fhpPortVlan i) 30 = false) :
    s.foreignVid i bs = false := by
  rw [State.foreignVid, h, Bool.false_and]

theorem foreignVid_tag {s : State} {i : Nat} {bs : List Byte} {v : Nat} (hv : (etherOf bs).1 = some v)
    (h : s.flag (Reg.fhpPortVlan i) 30 = true) (hne : v ≠ s.fld (Reg.fhpPortVlan i) 11 0) : s.foreignVid i bs = true := by
  rw [State.foreignVid, h, hv, Bool.true_and]
  exact bne_iff_ne.mpr hne

theorem takeFrame_foreign {s : State} {i : Nat} {bs : List Byte} (h : s.foreignVid i bs = true) :
    s.takeFrame i bs true = s.count (Reg.fhpPortCnt i 2) 31 0 1 := by
  rw [State.takeFrame, Bool.not_true, if_neg Bool.false_ne_true, if_pos h, State.fhpCount]

theorem takeFrame_notOurs {s : State} {i : Nat} {bs : List Byte} (hv : s.foreignVid i bs = false)
    (ha : s.addressOk i bs = false) : s.takeFrame i bs true = s := by
  rw [State.takeFrame, Bool.not_true, if_neg Bool.false_ne_true, hv, if_neg Bool.false_ne_true, ha, Bool.not_false, if_pos rfl]

theorem takeFrame_other {s : State} {i : Nat} {bs : List Byte} (hv : s.foreignVid i bs = false)
    (ha : s.addressOk i bs = true) (he : (etherOf bs).2.1 ≠ 0xAEFE) :
    s.takeFrame i bs true = s.count (Reg.fhpPortCnt i 0) 31 0 1 := by
  rw [State.takeFrame, Bool.not_true, if_neg Bool.false_ne_true, hv, if_neg Bool.false_ne_true, ha, Bool.not_true,
    if_neg Bool.false_ne_true, if_neg he, State.fhpCount]

/-! ## Messages (R362, R367) -/

theorem takeC_badHeader {s : State} (i : Nat) {m : CMsg} (h : s.badHeader m.hdr 2 = true) :
    s.takeC i m = s.count (Reg.fhpPortCnt i 2) 31 0 1 := if_pos h

theorem takeU_badHeader {s : State} (i : Nat) {m : UMsg} (h : s.badHeader m.hdr 0 = true) :
    s.takeU i m = s.count (Reg.fhpPortCnt i 2) 31 0 1 := if_pos h

theorem judgeWindow_late {s : State} (i : Nat) {c : Nat} {uc : Bool} {t : Int}
    (hlate : t - (if uc = true then s.closeUc c else s.closeDl c) < (s.nowU : Int))
    (hopen : t - (s.fld (if uc = true then Reg.fhpWinUc c else Reg.fhpWinDl c) 31 16 * 1536000 : Int) ≤ s.nowU) :
    s.judgeWindow i c uc t = ((s.count (Reg.fhpPortCnt i 6) 31 0 1).raiseBit Reg.fhpSticky 7, false) := by
  refine (if_neg (not_lt.mpr hopen)).trans (if_pos ?_)
  split <;> simp_all

theorem judgeWindow_onTime {s : State} (i : Nat) {c : Nat} {uc : Bool} {t : Int}
    (htime : (s.nowU : Int) ≤ t - (if uc = true then s.closeUc c else s.closeDl c))
    (hopen : t - (s.fld (if uc = true then Reg.fhpWinUc c else Reg.fhpWinDl c) 31 16 * 1536000 : Int) ≤ s.nowU) :
    s.judgeWindow i c uc t = (s.count (Reg.fhpPortCnt i 4) 31 0 1, true) := by
  refine (if_neg (not_lt.mpr hopen)).trans (if_neg (not_lt.mpr ?_))
  split <;> simp_all

/-! ## The receive queue of the host (R372, R373) -/

theorem byte_putBytes_ne (bs : List Byte) (t : State) {a c : Nat} (h : c < a ∨ a + bs.length ≤ c) :
    (t.putBytes a bs).byte c = t.byte c := by
  rw [byte_putBytes, if_neg (by omega)]

theorem rawWord_putBytes_ne (bs : List Byte) (t : State) {a c : Nat} (h : c + 4 ≤ a ∨ a + bs.length ≤ c) :
    (t.putBytes a bs).rawWord c = t.rawWord c :=
  rawWord_congr fun b _ _ => byte_putBytes_ne bs t (by omega)

/-- Bytes put into memory change memory alone. -/
theorem of_putBytes {β : Type} (P : State → β) (hP : ∀ (t : State) m, P { t with mem := m } = P t) (bs : List Byte) (s : State)
    (a : Nat) : P (s.putBytes a bs) = P s := by
  induction bs generalizing s a with
  | nil => rfl
  | cons b bs ih => exact (ih _ _).trans (hP s _)

/-- A frame in receive slot `k`: its first three words, its bytes from 16 on, and the next slot. -/
def State.rxFilled (s : State) (i k : Nat) (w : Word) (ts : Word × Nat) (bs : List Byte) : State :=
  let t := (s.putWords (rxSlot i k) [w, ts.1, BitVec.ofNat 32 ts.2]).putBytes (rxSlot i k + 16) bs
  { t with fhp := { t.fhp with rxNext := aput t.fhp.rxNext i ((k + 1) % 8) } }

theorem rxFilled_reg (s : State) (i k : Nat) (w : Word) (ts : Word × Nat) (bs : List Byte) :
  (s.rxFilled i k w ts bs).regs = s.regs :=
  (of_putBytes State.regs (fun _ _ => rfl) bs _ _).trans (of_putWords State.regs (fun _ _ _ => rfl) _ s _)

theorem rxFilled_next (s : State) (i k : Nat) (w : Word) (ts : Word × Nat) (bs : List Byte) :
    alook (s.rxFilled i k w ts bs).fhp.rxNext i = some ((k + 1) % 8) := alook_aput_same _ _ _

theorem rxFilled_byte (s : State) (i k : Nat) (w : Word) (ts : Word × Nat) (bs : List Byte) (a : Nat) :
    (s.rxFilled i k w ts bs).byte a =
      ((s.putWords (rxSlot i k) [w, ts.1, BitVec.ofNat 32 ts.2]).putBytes (rxSlot i k + 16) bs).byte a := rfl

theorem rxFilled_rawWord (s : State) (i k : Nat) (w : Word) (ts : Word × Nat) (bs : List Byte) {j : Nat} (hj : j < 3) :
    (s.rxFilled i k w ts bs).rawWord (rxSlot i k + 4 * j) = [w, ts.1, BitVec.ofNat 32 ts.2].getD j 0 := by
  refine ((rawWord_congr fun c _ _ => rxFilled_byte s i k w ts bs c).trans (rawWord_putBytes_ne bs _ (by omega))).trans ?_
  exact rawWord_putWords _ s (rxSlot i k) (by simpa using hj)

theorem rxFilled_data (s : State) (i k : Nat) (w : Word) (ts : Word × Nat) (bs : List Byte) {j : Nat} (hj : j < bs.length) :
    (s.rxFilled i k w ts bs).byte (rxSlot i k + 16 + j) = bs.getD j 0 := by
  rw [rxFilled_byte, byte_putBytes, if_pos (by omega), Nat.add_sub_cancel_left]

theorem rxFilled_beside (s : State) (i k : Nat) (w : Word) (ts : Word × Nat) {bs : List Byte} (hlen : bs.length ≤ 240) {a : Nat}
    (h : a < rxSlot i k ∨ rxSlot i k + 256 ≤ a) : (s.rxFilled i k w ts bs).byte a = s.byte a := by
  rw [rxFilled_byte, byte_putBytes_ne _ _ (by omega), putWords_byte_ne _ _
    (by simp only [List.length_cons, List.length_nil]; omega)]

theorem hostRx_notEcpri {s : State} {i : Nat} {bs : List Byte} {cls : Nat} (tns : Word) (tfr : Nat)
  (hc : s.hostClass i bs = some cls)
    (h03 : cls = 0 ∨ cls = 3) (hv : s.foreignVid i bs = false) (ha : s.addressOk i bs = true) :
    s.hostRx i bs tns tfr =
      if bit (s.rawWord (rxSlot i ((alook s.fhp.rxNext i).getD 0))) 31 ∨ 240 < bs.length then
        (s.count (Reg.fhpPortCnt i 8) 31 0 1).raiseBit Reg.fhpSticky 9
      else s.rxFilled i ((alook s.fhp.rxNext i).getD 0) (BitVec.ofNat 32 (2 ^ 31 + cls * 256 + bs.length))
        (correct tns tfr (- s.asym (Reg.tmuAsymRx (4 + i)))) bs := by
  rw [State.hostRx]
  dsimp only
  rw [hc]
  exact (if_neg (by simp [hv, ha])).trans (if_neg (by omega))

theorem hostRx_notTaken {s : State} {i : Nat} {bs : List Byte} (tns : Word) (tfr : Nat)
    (h : s.hostClass i bs = none ∨ s.foreignVid i bs = true ∨ s.addressOk i bs = false) : s.hostRx i bs tns tfr = s := by
  rw [State.hostRx]
  dsimp only
  cases hc : s.hostClass i bs with
  | none => rfl
  | some cls =>
    refine if_pos ?_
    rcases h with h | h | h
    · rw [hc] at h; cases h
    · exact .inl h
    · exact .inr (by rw [h]; rfl)

/-! ## The transmit queue of the host (R374) -/

theorem txWord_low (val : Word) (h14 : 14 ≤ val.toNat % 256) (h240 : val.toNat % 256 ≤ 240) (old : Word) :
    setBits (((old &&& ~~~ 0xFFFFFFFF) ||| (val &&& 0xFFFFFFFF)) &&& 0xC0FF0000) 7 0
      (if 14 ≤ bits ((old &&& ~~~ 0xFFFFFFFF) ||| (val &&& 0xFFFFFFFF)) 7 0 ∧
          bits ((old &&& ~~~ 0xFFFFFFFF) ||| (val &&& 0xFFFFFFFF)) 7 0 ≤ 240 then
        bits ((old &&& ~~~ 0xFFFFFFFF) ||| (val &&& 0xFFFFFFFF)) 7 0 else bits old 7 0) = val &&& 0xC0FF00FF := by
  have hw : (old &&& ~~~ 0xFFFFFFFF) ||| (val &&& 0xFFFFFFFF) = val := masked_allOnes old val
  have hb : bits val 7 0 = val.toNat % 256 := by rw [bits_eq_div]; omega
  have hlow : BitVec.ofNat 32 ((val.toNat % 256 % 2 ^ (7 + 1 - 0)) <<< 0) = val &&& 0xFF := by
    refine BitVec.eq_of_toNat_eq ?_
    rw [BitVec.toNat_and, show ((0xFF : Word)).toNat = 2 ^ 8 - 1 from rfl, Nat.and_two_pow_sub_one_eq_mod, BitVec.toNat_ofNat,
      Nat.shiftLeft_zero]
    omega
  rw [hw, hb, if_pos ⟨h14, h240⟩, setBits, hlow, BitVec.and_assoc, ← BitVec.and_or_distrib_left]
  congr 1

theorem writeTx_taken {s : State} {i k : Nat} {val : Word} (h31 : (s.rawWord (txSlot i k)).getLsbD 31 = false)
    (h14 : 14 ≤ val.toNat % 256) (h240 : val.toNat % 256 ≤ 240) :
    s.writeTx i k val 0xFFFFFFFF = s.putWord (txSlot i k) (val &&& 0xC0FF00FF) := by
  refine (if_neg (by rw [bit, h31]; exact Bool.false_ne_true)).trans ?_
  rw [txWord_low val h14 h240]

theorem writeTx_waiting {s : State} {i k : Nat} {val : Word} (h31 : (s.rawWord (txSlot i k)).getLsbD 31 = true) :
    s.writeTx i k val 0xFFFFFFFF = s := if_pos h31

/-- Transmit slot `k` is sent with its timestamp: the two words of it, FULL of the first word taken back, the frame outside. -/
def State.txSent (s : State) (i k : Nat) (ts : Word × Nat) (fr : List Byte) : State :=
  ((s.putWords (txSlot i k + 8) [ts.1, BitVec.ofNat 32 ts.2]).putWord (txSlot i k)
    (putBit (s.rawWord (txSlot i k)) 31 false)).send (.frame i fr)

theorem paddedFrame_length (bs : List Byte) (w : Word) : 64 ≤ (bs ++ List.replicate
  (60 - bs.length) 0 ++ wordBytes w).length := by
  have hw : (wordBytes w).length = 4 := rfl
  rw [List.length_append, List.length_append, List.length_replicate, hw]
  omega

/-- The lowest waiting slot is sent, as a frame of at least 64 bytes. -/
theorem sendTx_first {s : State} {i : Nat} (tns : Word) (tfr : Nat) (h : (s.rawWord (txSlot i 0)).getLsbD 31 = true) :
    ∃ fr, 64 ≤ fr.length ∧ s.sendTx i tns tfr = s.txSent i 0 (correct tns tfr (s.asym (Reg.tmuAsymTx (4 + i)))) fr := by
  have hfind : (List.range 4).find? (fun k => bit (s.rawWord (txSlot i k)) 31) = some 0 := by
    rw [show List.range 4 = 0 :: [1, 2, 3] from rfl, List.find?_cons_of_pos (by rw [bit, h])]
  rw [State.sendTx]
  dsimp only
  rw [hfind]
  exact ⟨_, paddedFrame_length _ _, rfl⟩

theorem sendTx_none {s : State} {i : Nat} (tns : Word) (tfr : Nat) (h : ∀ k, k < 4 → (s.rawWord
  (txSlot i k)).getLsbD 31 = false) :
    s.sendTx i tns tfr = s := by
  have hfind : (List.range 4).find? (fun k => bit (s.rawWord (txSlot i k)) 31) = none := by
    rw [List.find?_eq_none]
    intro k hk
    rw [bit, h k (List.mem_range.mp hk)]
    exact Bool.false_ne_true
  rw [State.sendTx]
  dsimp only
  rw [hfind]

theorem txSent_effect (s : State) (i : Nat) (ts : Word × Nat) (fr : List Byte) :
    (s.txSent i 0 ts fr).out = .frame i fr :: s.out ∧
      (s.txSent i 0 ts fr).rawWord (txSlot i 0) = putBit (s.rawWord (txSlot i 0)) 31 false ∧
      (s.txSent i 0 ts fr).rawWord (txSlot i 0 + 8) = ts.1 ∧
      (s.txSent i 0 ts fr).rawWord (txSlot i 0 + 12) = BitVec.ofNat 32 ts.2 ∧ (s.txSent i 0 ts fr).regs = s.regs := by
  have hmem : ∀ a, (s.txSent i 0 ts fr).rawWord a = ((s.putWords (txSlot i 0 + 8) [ts.1, BitVec.ofNat 32 ts.2]).putWord
      (txSlot i 0) (putBit (s.rawWord (txSlot i 0)) 31 false)).rawWord a := fun a => rawWord_congr_mem rfl a
  refine ⟨?_, ?_, ?_, ?_, ?_⟩
  · refine congrArg (Out.frame i fr :: ·) ?_
    exact (of_putWord State.out (fun _ _ _ => rfl) _ _ _).trans (of_putWords State.out (fun _ _ _ => rfl) _ s _)
  · rw [hmem, rawWord_putWord]
  · rw [hmem, rawWord_putWord_ne _ _ (by omega)]
    exact rawWord_putWords [ts.1, BitVec.ofNat 32 ts.2] s (txSlot i 0 + 8) (i := 0) Nat.zero_lt_two
  · rw [hmem, rawWord_putWord_ne _ _ (by omega)]
    exact rawWord_putWords [ts.1, BitVec.ofNat 32 ts.2] s (txSlot i 0 + 8) (i := 1) Nat.one_lt_two
  · rw [State.txSent, send_regs, of_putWord State.regs (fun _ _ _ => rfl), of_putWords State.regs (fun _ _ _ => rfl)]

end Sys2Proof.Machine

/-! Uplink sections of the fronthaul (R368, R369). -/
namespace Sys2Proof.Machine

/-! ## What is sent stays sent -/

theorem notify_out (s : State) (v : Nat) : s.out <:+ (s.notify v).out := by
  unfold State.notify
  split_ifs
  · exact List.suffix_rfl
  · exact List.suffix_cons _ _
  · exact List.suffix_rfl

theorem settle_out (s before : State) (off : Nat) (i : StickyInfo) (w : Bool) : s.out <:+ (s.settle before off i w).out := by
  unfold State.settle
  refine List.foldlRecOn (motive := fun t : State => s.out <:+ t.out) _ _ List.suffix_rfl fun t ht v _ => ?_
  split_ifs
  · exact ht.trans (notify_out t v)
  · exact ht
  · exact ht
  · exact ht

/-- A sticky bit that sets adds messages to what has been sent. -/
theorem raiseBit_out (s : State) (off i : Nat) : s.out <:+ (s.raiseBit off i).out := by
  unfold State.raiseBit State.raise
  split
  · exact List.suffix_rfl
  · split
    · exact settle_out (s.setReg off (s.reg off ||| BitVec.ofNat 32 (2 ^ i))) s off _ false
    · exact List.suffix_rfl

theorem bmeCount_out (s : State) (p : Nat × Nat) : s.out <:+ (s.bmeCount p).out := by
  have hcount : (s.count (Reg.bmeCnt (p.1 % 16)) 31 0 p.2).out = s.out := rfl
  unfold State.bmeCount
  split_ifs
  · exact List.suffix_rfl
  · dsimp only
    split
    case h_7 => exact List.suffix_rfl
    all_goals
      rw [← hcount]
      exact raiseBit_out _ _ _

/-! ## The sections -/

theorem packBytes_length (n : Nat) (l : List Bool) : (packBytes n l).length = n := by
  induction n generalizing l with
  | zero => rfl
  | succ n ih => rw [packBytes, List.length_cons, ih]

/-- A PRB without compression takes 48 bytes. -/
theorem ulEncode_length (w shift : Nat) (vs : List Int) : (ulEncode w shift false vs).1.length = 48 := packBytes_length 48 _

theorem flatMap_length_const {α β : Type} (f : α → List β) (k : Nat) (l : List α) (h : ∀ x ∈ l, (f x).length = k) :
    (l.flatMap f).length = k * l.length := by
  rw [List.length_flatMap, List.map_congr_left h, List.map_const', List.sum_replicate, smul_eq_mul, Nat.mul_comm]

theorem mapM_isSome {α β : Type} {f : α → Option β} {l : List α} {r : List β} (h : l.mapM f = some r) : ∀ x ∈ l,
  (f x).isSome = true := by
  induction l generalizing r with
  | nil => exact fun x hx => absurd hx List.not_mem_nil
  | cons a l ih =>
    rw [List.mapM_cons] at h
    cases ha : f a with
    | none => rw [ha] at h; cases h
    | some b =>
      cases hl : l.mapM f with
      | none => rw [ha, hl] at h; cases h
      | some bs => exact List.forall_mem_cons.mpr ⟨by rw [ha]; rfl, ih hl⟩

/-- PRBs that are due have their result. -/
theorem prbResult_isSome {s : State} {c layer : Nat} {tl : Int} {prbs : List Nat} (h : s.resultDue c layer tl prbs = true) :
    ∀ p ∈ prbs, (s.prbResult c layer tl p).isSome = true := by
  cases hm : prbs.mapM (s.sumAt 0 c layer tl) with
  | none => rw [State.resultDue, hm] at h; cases h
  | some r => exact fun p hp => (Option.isSome_map).trans (mapM_isSome hm p hp)

theorem filterMap_length_of_isSome {α β : Type} {f : α → Option β} {l : List α} (h : ∀ x ∈ l, (f x).isSome = true) :
    (l.filterMap f).length = l.length := by
  rw [List.length_filterMap_eq_countP, List.countP_eq_length]
  exact h

/-- What sends an uplink section: the frame, its counts, and the next sequence number. -/
def State.ulSent (s : State) (f : UlFrame) (sat clamp : Nat) (inc : Bool) : State :=
  let k := f.port * 2 ^ 16 + f.eaxc
  let s1 := (((s.send (.uplink f)).bmeCount (3, sat)).bmeCount (4, clamp)).fhpCount f.port 9 1
  let s2 : State := { s1 with fhp := { s1.fhp with txSeq := aput s1.fhp.txSeq k ((f.seq + 1) % 256) } }
  if inc then (s2.fhpCount f.port 10 1).raiseBit Reg.fhpSticky 10 else s2

theorem ulSent_out (s : State) (f : UlFrame) (sat clamp : Nat) (inc : Bool) : Out.uplink f ∈ (s.ulSent f sat clamp inc).out := by
  have hsent : Out.uplink f ∈ (((s.send (.uplink f)).bmeCount (3, sat)).bmeCount (4, clamp)).out :=
    ((bmeCount_out _ _).trans (bmeCount_out _ _)).subset List.mem_cons_self
  unfold State.ulSent
  dsimp only
  split_ifs
  · exact (raiseBit_out _ _ _).subset hsent
  · exact hsent

theorem ulSent_seq (s : State) (f : UlFrame) (sat clamp : Nat) (inc : Bool) :
    alook (s.ulSent f sat clamp inc).fhp.txSeq (f.port * 2 ^ 16 + f.eaxc) = some ((f.seq + 1) % 256) := by
  unfold State.ulSent
  dsimp only
  split_ifs
  · rw [raiseBit_fhp]
    exact alook_aput_same _ _ _
  · exact alook_aput_same _ _ _

/-- A section without header or compression is sent whole, 48 bytes a PRB. -/
theorem sendSums_plain {s : State} {c layer : Nat} (air : AirRef) (id start contrib sat : Nat) {sum : List (List Int)}
    (hlink : s.fhLink (s.ulPort c layer) = true) (hhdr : s.flag Reg.fhpComp 31 = false) (hcomp : s.flag Reg.fhpComp 0 = false)
    (hw : s.fld Reg.fhpComp 7 4 = 0) (hsize : 34 + 4 + 48 * sum.length ≤ s.fld Reg.fhpCtl 29 16) :
    ∃ f clamp inc, s.sendSums c layer air id start contrib sat sum = s.ulSent f sat clamp inc ∧ f.port = s.ulPort c layer ∧
      f.air = air ∧ f.id = id ∧ f.start = start ∧ f.num = sum.length ∧ f.data.length = 48 * sum.length := by
  have hdata : ∀ w sh, ((sum.map (ulEncode w sh false)).flatMap (·.1)).length = 48 * sum.length := fun w sh => by
    rw [flatMap_length_const _ 48, List.length_map]
    intro x hx
    obtain ⟨v, -, rfl⟩ := List.mem_map.mp hx
    exact ulEncode_length w sh v
  have hfits : ∀ b w sh, ¬ s.fld Reg.fhpCtl 29 16 <
      34 + (if b = true then 4 else 0) + 0 + ((sum.map (ulEncode w sh false)).flatMap (·.1)).length := fun b w sh => by
    rw [hdata]
    split <;> omega
  rw [State.sendSums]
  dsimp only
  rw [hlink, hhdr, hcomp, hw, Bool.not_true, if_neg Bool.false_ne_true, if_neg Bool.false_ne_true, if_neg (hfits _ _ _)]
  exact ⟨_, _, _, rfl, rfl, rfl, rfl, rfl, rfl, hdata _ _⟩

theorem sendUl_due {s : State} {c layer : Nat} {air : AirRef} (id : Nat) {start n : Nat} (hn : n ≠ 0)
    (hdue : s.resultDue c layer (s.airAt c air.frame (s.airSym c air)) ((List.range n).map (start + ·)) = true) :
    ∃ contrib sat sum, s.sendUl c layer air id start n = s.sendSums c layer air id start contrib sat sum ∧ sum.length = n := by
  refine ⟨_, _, _, if_neg ?_, ?_⟩
  · rw [hdue]
    exact fun h => h.elim hn (fun h => Bool.false_ne_true h)
  · rw [List.length_map, filterMap_length_of_isSome (prbResult_isSome hdue), List.length_map, List.length_range]

theorem sendUl_notDue {s : State} {c layer : Nat} {air : AirRef} (id : Nat) {start n : Nat}
    (hdue : s.resultDue c layer (s.airAt c air.frame (s.airSym c air)) ((List.range n).map (start + ·)) = false) :
    s.sendUl c layer air id start n = s := if_pos (.inr (by rw [hdue]; rfl))

theorem sendSums_down {s : State} {c layer : Nat} (air : AirRef) (id start contrib sat : Nat) (sum : List (List Int))
    (hlink : s.fhLink (s.ulPort c layer) = false) :
    s.sendSums c layer air id start contrib sat sum = s.ulDropped (s.ulPort c layer) 1 := if_pos (by rw [hlink]; rfl)

end Sys2Proof.Machine

/-! Links of the fronthaul that go down and come up (R360, R371). -/
namespace Sys2Proof.Machine

/-! ## What a change of a link keeps -/

/-- FH is up, the link of port `i` is as `b` says with speed code `sp`, the memory is `m`, and a link that is down has its sticky
bit. -/
structure State.LinkIs (t : State) (m : State) (i : Nat) (b : Bool) (sp : Nat) : Prop where
  up : t.up domFh = true
  link : t.flag (Reg.fhpPortStatus i) 31 = b
  speed : t.fld (Reg.fhpPortStatus i) 26 24 = sp
  mem : t.mem = m.mem
  sticky : b = false → t.flag Reg.fhpSticky i = true

variable {m s t : State} {i sp : Nat} {b : Bool}

theorem State.LinkIs.congr (h : s.LinkIs m i b sp) (hmem : t.mem = s.mem)
    (hreg : ∀ off, off = Reg.fhpPortStatus i ∨ off = Reg.fhpSticky ∨ off < 0x20000 → t.reg off = s.reg off) : t.LinkIs m i b sp where
  up := (up_congr (hreg _ (.inr (.inr (by decide))))).trans h.up
  link := (flag_congr (hreg _ (.inl rfl)) 31).trans h.link
  speed := (fld_congr (hreg _ (.inl rfl)) 26 24).trans h.speed
  mem := hmem.trans h.mem
  sticky hb := (flag_congr (hreg _ (.inr (.inl rfl))) i).trans (h.sticky hb)

/-- A register beside the port's STATUS and FHP.STICKY, outside the power unit. -/
theorem State.LinkIs.setReg (h : s.LinkIs m i b sp) {off : Nat} (v : Word) (h1 : off ≠ Reg.fhpPortStatus i)
  (h2 : off ≠ Reg.fhpSticky)
    (h3 : 0x20000 ≤ off) : (s.setReg off v).LinkIs m i b sp :=
  h.congr rfl fun o ho => reg_setReg_ne _ _ _ _ (by rcases ho with rfl | rfl | ho <;> omega)

theorem State.LinkIs.setFlag (h : s.LinkIs m i b sp) {off : Nat} (k : Nat) (v : Bool) (h1 : off ≠ Reg.fhpPortStatus i)
    (h2 : off ≠ Reg.fhpSticky) (h3 : 0x20000 ≤ off) : (s.setFlag off k v).LinkIs m i b sp := h.setReg _ h1 h2 h3

theorem State.LinkIs.setFld (h : s.LinkIs m i b sp) {off : Nat} (hi lo v : Nat) (h1 : off ≠ Reg.fhpPortStatus i)
    (h2 : off ≠ Reg.fhpSticky) (h3 : 0x20000 ≤ off) : (s.setFld off hi lo v).LinkIs m i b sp := h.setReg _ h1 h2 h3

theorem fhpSticky_up (h : s.up domFh = true) : s.regUp Reg.fhpSticky = true := by
  rw [State.regUp, if_neg (by decide), show domOfReg Reg.fhpSticky = domFh by decide, h]

theorem State.LinkIs.raiseSticky (h : s.LinkIs m i b sp) (hi : i < 4) (k : Nat) :
  (s.raiseBit Reg.fhpSticky k).LinkIs m i b sp := by
  have hreg : ∀ off, off = Reg.fhpPortStatus i ∨ off < 0x20000 → (s.raiseBit Reg.fhpSticky k).reg off = s.reg off := by
    intro off ho
    unfold Reg.fhpPortStatus at ho
    refine raiseBit_reg_ne _ _ ?_ ?_ ?_ <;> simp only [Reg.fhpSticky, Reg.hstMsixPba] <;> omega
  refine ⟨(up_congr (hreg _ (.inr (by decide)))).trans h.up, (flag_congr (hreg _ (.inl rfl)) 31).trans h.link,
    (fld_congr (hreg _ (.inl rfl)) 26 24).trans h.speed, (raiseBit_mem ..).trans h.mem, fun hb => ?_⟩
  have hwas : bit (s.reg Reg.fhpSticky) i = true := h.sticky hb
  rw [State.flag, State.raiseBit, raise_reg_up _ (fhpSticky_up h.up) (by decide) (by decide), bit, BitVec.getLsbD_or,
    show (s.reg Reg.fhpSticky).getLsbD i = true from hwas, Bool.true_or]

/-! ## Pairs and fail-over -/

theorem State.LinkIs.moveTo (h : s.LinkIs m i b sp) (j : Nat) : (s.moveTo j).LinkIs m i b sp := by
  unfold State.moveTo
  refine List.foldlRecOn (motive := fun t : State => t.LinkIs m i b sp) _ _ (h.setFlag _ _ ?_ (by decide) (by decide))
    fun t ht c _ => ?_
  · unfold Reg.fhpPair Reg.fhpPortStatus; omega
  · dsimp only
    split_ifs
    · exact ht
    · exact ht.congr rfl fun _ _ => rfl

theorem State.LinkIs.failOver (h : s.LinkIs m i b sp) (hi : i < 4) (j : Nat) : (s.failOver j).LinkIs m i b sp :=
  ((h.moveTo (State.mate j)).raiseSticky hi (4 + j / 2)).congr rfl fun _ _ => rfl

/-- `ACTIVE` shown port by port leaves bit 31 and the speed of each STATUS. -/
theorem State.LinkIs.showActive (h : s.LinkIs m i b sp) : s.showActive.LinkIs m i b sp := by
  unfold State.showActive
  refine List.foldlRecOn (motive := fun t : State => t.LinkIs m i b sp) _ _ h fun t ht j _ => ?_
  by_cases hj : Reg.fhpPortStatus j = Reg.fhpPortStatus i
  · rw [hj]
    refine ⟨(up_congr (reg_setFlag_ne _ _ _ _ _ ?_)).trans ht.up, (flag_setFlag_other _ _ _ _ _ (by decide)
      (by decide)).trans ht.link,
      (fld_setFlag_beside _ _ _ (.inl (by decide)) (by decide)).trans ht.speed, ht.mem, fun hb => ?_⟩
    · unfold Reg.fhpPortStatus Reg.pwrDomStatus domFh; omega
    · rw [flag_setFlag_ne _ _ _ _ _ _ (by unfold Reg.fhpPortStatus Reg.fhpSticky; omega)]
      exact ht.sticky hb
  · refine ht.setFlag _ _ hj ?_ ?_ <;> simp only [Reg.fhpPortStatus, Reg.fhpSticky] <;> omega

/-- One port of `showActive`. -/
def State.showPort (t : State) (j : Nat) : State :=
  t.setFlag (Reg.fhpPortStatus j) 30 (t.flag (Reg.fhpPortStatus j) 31 && (!t.pairOn (j / 2) || t.actPort (j / 2) == j))

theorem foldl_showPort_down (l : List Nat) (t : State) (h31 : t.flag (Reg.fhpPortStatus i) 31 = false)
    (h : i ∈ l ∨ t.flag (Reg.fhpPortStatus i) 30 = false) : (l.foldl State.showPort t).flag (Reg.fhpPortStatus i) 30 = false := by
  induction l generalizing t with
  | nil => exact h.elim (fun h => absurd h List.not_mem_nil) id
  | cons j l ih =>
    by_cases hj : j = i
    · subst hj
      refine ih _ ((flag_setFlag_other _ _ _ _ _ (by decide) (by decide)).trans h31) (.inr ?_)
      rw [State.showPort, h31, Bool.false_and, flag_setFlag _ _ _ _ (by decide)]
    · have hne : Reg.fhpPortStatus i ≠ Reg.fhpPortStatus j := by unfold Reg.fhpPortStatus; omega
      refine ih _ ((flag_setFlag_ne _ _ _ _ _ _ hne).trans h31) (h.imp (fun h => ?_) fun h => ?_)
      · exact (List.mem_cons.mp h).resolve_left (fun he => hj he.symm)
      · exact (flag_setFlag_ne _ _ _ _ _ _ hne).trans h

/-- A port whose link is down is not active. -/
theorem showActive_down (hi : i < 4) (h : s.flag (Reg.fhpPortStatus i) 31 = false) :
    s.showActive.flag (Reg.fhpPortStatus i) 30 = false := foldl_showPort_down (List.range 4) s h (.inl (List.mem_range.mpr hi))

theorem lane_beside (i l : Nat) (hi : i < 4) (hl : l < 80) : Reg.slnLaneStatus l ≠ Reg.fhpPortStatus i ∧
    Reg.slnLaneStatus l ≠ Reg.fhpSticky ∧ 0x20000 ≤ Reg.slnLaneStatus l := by
  unfold Reg.slnLaneStatus Reg.fhpPortStatus Reg.fhpSticky; omega

theorem State.LinkIs.laneFlag (h : s.LinkIs m i b sp) (hi : i < 4) {l : Nat} (hl : l < 80) (k : Nat) (v : Bool) :
    (s.setFlag (Reg.slnLaneStatus l) k v).LinkIs m i b sp :=
  h.setFlag k v (lane_beside i l hi hl).1 (lane_beside i l hi hl).2.1 (lane_beside i l hi hl).2.2

theorem State.LinkIs.laneFld (h : s.LinkIs m i b sp) (hi : i < 4) {l : Nat} (hl : l < 80) (hb lo v : Nat) :
    (s.setFld (Reg.slnLaneStatus l) hb lo v).LinkIs m i b sp :=
  h.setFld hb lo v (lane_beside i l hi hl).1 (lane_beside i l hi hl).2.1 (lane_beside i l hi hl).2.2

/-! ## Down and up -/

/-- The STATUS of port `i` is cleared and its sticky bit set. -/
theorem linkIs_lost (s : State) (hi : i < 4) (hup : s.up domFh = true) :
    ((s.setReg (Reg.fhpPortStatus i) 0).raiseBit Reg.fhpSticky i).LinkIs s i false 0 := by
  have hreg : ∀ off, off = Reg.fhpPortStatus i ∨ off < 0x20000 →
      ((s.setReg (Reg.fhpPortStatus i) 0).raiseBit Reg.fhpSticky i).reg off = (s.setReg (Reg.fhpPortStatus i) 0).reg off := by
    intro off ho
    unfold Reg.fhpPortStatus at ho
    refine raiseBit_reg_ne _ _ ?_ ?_ ?_ <;> simp only [Reg.fhpSticky, Reg.hstMsixPba] <;> omega
  have hzero := (hreg _ (.inl rfl)).trans (reg_setReg_same s _ 0)
  have hup0 : (s.setReg (Reg.fhpPortStatus i) 0).up domFh = true :=
    (up_congr (reg_setReg_ne _ _ _ _ (by unfold Reg.fhpPortStatus Reg.pwrDomStatus domFh; omega))).trans hup
  refine ⟨(up_congr (hreg _ (.inr (by decide)))).trans hup0, ?_, ?_, (raiseBit_mem ..).trans rfl,
    fun _ => flag_raiseBit (fhpSticky_up hup0) (by omega) (by decide) (by decide)⟩
  · rw [State.flag, hzero]; decide
  · rw [State.fld, hzero]; decide

/-- The lanes of port `i` out of lock. -/
def State.lanesLost (s : State) (i : Nat) : State :=
  (List.range 4).foldl (fun t j => t.setFlag (Reg.slnLaneStatus (64 + 4 * i + j)) 28 false) s

theorem State.LinkIs.lanesLost (h : s.LinkIs m i b sp) (hi : i < 4) : (s.lanesLost i).LinkIs m i b sp :=
  List.foldlRecOn (motive := fun t : State => t.LinkIs m i b sp) _ _ h fun t ht j hj => by
    have := List.mem_range.mp hj
    exact ht.laneFlag hi (by omega) 28 false

/-- Uplink frames that waited on a lost link. -/
def State.queueLost (s : State) (i n : Nat) : State := if n = 0 then s else (s.fhpCount i 12 n).raiseBit Reg.fhpSticky 13

theorem State.LinkIs.queueLost (h : s.LinkIs m i b sp) (hi : i < 4) (n : Nat) : (s.queueLost i n).LinkIs m i b sp := by
  unfold State.queueLost
  split_ifs
  · exact h
  · refine State.LinkIs.raiseSticky (h.setFld _ _ _ ?_ ?_ ?_) hi 13 <;>
      simp only [Reg.fhpPortCnt, Reg.fhpPortStatus, Reg.fhpSticky] <;> omega

/-- The pair of port `i` leaves it for a mate whose link is up. -/
def State.pairLeaves (s : State) (i : Nat) : State :=
  if s.pairOn (i / 2) && s.actPort (i / 2) == i && s.fhLink (State.mate i) then s.failOver i else s

theorem State.LinkIs.pairLeaves (h : s.LinkIs m i b sp) (hi : i < 4) : (s.pairLeaves i).LinkIs m i b sp := by
  unfold State.pairLeaves
  split_ifs
  · exact h.failOver hi i
  · exact h

theorem linkDown_eq (s : State) (i q : Nat) : s.linkDown i q =
    (((((s.setReg (Reg.fhpPortStatus i) 0).raiseBit Reg.fhpSticky i).lanesLost i).queueLost i q).pairLeaves i).showActive := rfl

theorem linkDown_effect (q : Nat) (hi : i < 4) (hlink : s.fhLink i = true) :
    (s.linkDown i q).LinkIs s i false 0 ∧ (s.linkDown i q).flag (Reg.fhpPortStatus i) 30 = false := by
  have hup : s.up domFh = true := (Bool.and_eq_true_iff.mp hlink).1
  have hleft := (((linkIs_lost s hi hup).lanesLost hi).queueLost hi q).pairLeaves hi
  rw [linkDown_eq]
  exact ⟨hleft.showActive, showActive_down hi hleft.link⟩

theorem linkIs_shown (s : State) (v : Word) (hup : s.up domFh = true) (hv : bit v 31 = true) :
    (s.setReg (Reg.fhpPortStatus i) v).LinkIs s i true (bits v 26 24) := by
  refine ⟨(up_congr (reg_setReg_ne _ _ _ _ (by unfold Reg.fhpPortStatus Reg.pwrDomStatus domFh; omega))).trans hup, ?_, ?_, rfl,
    fun h => absurd h Bool.noConfusion⟩
  · rw [State.flag, reg_setReg_same, hv]
  · rw [State.fld, reg_setReg_same]

theorem statusWord (hsp : sp < 8) : bit (BitVec.ofNat 32 (2 ^ 31 + sp * 2 ^ 24)) 31 = true ∧
    bits (BitVec.ofNat 32 (2 ^ 31 + sp * 2 ^ 24)) 26 24 = sp := by
  have hword : (BitVec.ofNat 32 (2 ^ 31 + sp * 2 ^ 24)).toNat = 2 ^ 31 + sp * 2 ^ 24 := by
    rw [BitVec.toNat_ofNat, Nat.mod_eq_of_lt (by omega)]
  constructor
  · rw [bit_eq_div, hword, beq_iff_eq]
    omega
  · rw [bits_eq_div, hword]
    omega

/-- The lanes of port `i` at a speed in lock, with signal and ready. -/
def State.lanesTaken (s : State) (i speed : Nat) : State :=
  (List.range (speedLanes speed)).foldl (fun t j => t.setFld (Reg.slnLaneStatus (64 + 4 * i + j)) 31 28 15) s

theorem speedLanes_le (speed : Nat) : speedLanes speed ≤ 4 := by
  unfold speedLanes
  split_ifs <;> decide

theorem State.LinkIs.lanesTaken (h : s.LinkIs m i b sp) (hi : i < 4) (speed : Nat) : (s.lanesTaken i speed).LinkIs m i b sp :=
  List.foldlRecOn (motive := fun t : State => t.LinkIs m i b sp) _ _ h fun t ht j hj => by
    have := List.mem_range.mp hj
    have := speedLanes_le speed
    exact ht.laneFld hi (by omega) 31 28 15

/-- Port `i` numbers its messages from the start. -/
def State.seqFresh (s : State) (i : Nat) : State :=
  { s with fhp := { s.fhp with txSeq := s.fhp.txSeq.filter (fun p => p.1 / 2 ^ 16 != i) } }

/-- A raised fault of port `i` ceases, and traffic returns with REVERT. -/
def State.faultCeased (s : State) (i : Nat) : State :=
  if bit s.fhp.fault i then
    let t := s.send (.faultInd (if s.fhLink (s.actPort (i / 2)) then s.actPort (i / 2) else i) i false s.tns)
    let t1 : State := { t with fhp := { t.fhp with fault := putBit t.fhp.fault i false } }
    if t1.pairOn (i / 2) && t1.flag Reg.fhpPair (8 + i / 2) then t1.moveTo i else t1
  else s

theorem State.LinkIs.faultCeased (h : s.LinkIs m i b sp) : (s.faultCeased i).LinkIs m i b sp := by
  have ht : ∀ o f, ({ s.send o with fhp := f } : State).LinkIs m i b sp := fun o f => h.congr rfl fun _ _ => rfl
  unfold State.faultCeased
  dsimp only
  split_ifs
  · exact (ht _ _).moveTo i
  · exact ht _ _
  · exact (ht _ _).moveTo i
  · exact ht _ _
  · exact h

/-- The pair of port `i` comes to it from an active port that is down. -/
def State.pairJoins (s : State) (i : Nat) : State :=
  if s.pairOn (i / 2) && s.actPort (i / 2) != i && !s.fhLink (State.mate i) then s.failOver (State.mate i) else s

theorem State.LinkIs.pairJoins (h : s.LinkIs m i b sp) (hi : i < 4) : (s.pairJoins i).LinkIs m i b sp := by
  unfold State.pairJoins
  split_ifs
  · exact h.failOver hi _
  · exact h

/-- Port `i` with STATUS `v` and its lanes at a speed, before pairs are looked at. -/
def State.linkRisen (s : State) (i speed : Nat) (v : Word) : State :=
  (((s.setReg (Reg.fhpPortStatus i) v).lanesTaken i speed).seqFresh i)

theorem linkIs_risen (s : State) (speed : Nat) (v : Word) (hi : i < 4) (hup : s.up domFh = true) (hv : bit v 31 = true) :
    (s.linkRisen i speed v).LinkIs s i true (bits v 26 24) := ((linkIs_shown s v hup hv).lanesTaken hi speed).congr rfl
      fun _ _ => rfl

theorem linkUpAt_eq (s : State) (i speed : Nat) : s.linkUpAt i speed =
    (((s.linkRisen i speed (BitVec.ofNat 32 (2 ^ 31 + speed * 2 ^ 24))).faultCeased i).pairJoins i).showActive := rfl

theorem linkUpAt_effect (hi : i < 4) (hsp : sp < 8) (hup : s.up domFh = true) : (s.linkUpAt i sp).LinkIs s i true sp := by
  obtain ⟨h31, hspeed⟩ := statusWord hsp
  have h := linkIs_risen s sp _ hi hup h31
  rw [hspeed] at h
  rw [linkUpAt_eq]
  exact (h.faultCeased.pairJoins hi).showActive

theorem State.LinkIs.fhLink (h : s.LinkIs m i b sp) : s.fhLink i = b := by
  rw [State.fhLink, h.up, h.link, Bool.true_and]

end Sys2Proof.Machine

/-! The statement of the fronthaul (R359-R374). -/
namespace Sys2Proof.Machine

theorem exec_hostRxFrame {s : State} {i : Nat} (bs : List Byte) (tns : Word) (tfr : Nat) (hi : i < 4)
  (hlink : s.fhLink i = true) :
    exec (.hostRxFrame i bs tns tfr) s = .next (s.hostRx i bs tns tfr) := congrArg Host.Outcome.next (if_pos ⟨hi, hlink⟩)

/-- The word that a frame puts at the head of its receive slot, and the others of it. -/
theorem hostRxFrame_fills {s : State} {i : Nat} {bs : List Byte} {cls k : Nat} (tns : Word) (tfr : Nat) (hi : i < 4)
    (hlink : s.fhLink i = true) (hc : s.hostClass i bs = some cls) (h03 : cls = 0 ∨ cls = 3) (hv : s.foreignVid i bs = false)
    (ha : s.addressOk i bs = true) (hk : (alook s.fhp.rxNext i).getD 0 = k) (hfree : (s.rawWord (rxSlot i k)).getLsbD 31 = false)
    (hlen : bs.length ≤ 240) : exec (.hostRxFrame i bs tns tfr) s = .next (s.rxFilled i k
      (BitVec.ofNat 32 (2 ^ 31 + cls * 256 + bs.length)) (correct tns tfr (- s.asym (Reg.tmuAsymRx (4 + i)))) bs) := by
  rw [exec_hostRxFrame bs tns tfr hi hlink, hostRx_notEcpri tns tfr hc h03 hv ha, hk, if_neg]
  rw [bit, hfree]
  exact fun h => h.elim Bool.false_ne_true (fun h => by omega)

theorem rxFilled_effect (s : State) (i k : Nat) (w : Word) (ts : Word × Nat) {bs : List Byte} (hlen : bs.length ≤ 240) :
    (s.rxFilled i k w ts bs).rawWord (rxSlot i k) = w ∧ (s.rxFilled i k w ts bs).rawWord (rxSlot i k + 4) = ts.1 ∧
      (s.rxFilled i k w ts bs).rawWord (rxSlot i k + 8) = BitVec.ofNat 32 ts.2 ∧
      (∀ j, j < bs.length → (s.rxFilled i k w ts bs).byte (rxSlot i k + 16 + j) = bs.getD j 0) ∧
      alook (s.rxFilled i k w ts bs).fhp.rxNext i = some ((k + 1) % 8) ∧ (s.rxFilled i k w ts bs).regs = s.regs ∧
      ∀ a, (a < rxSlot i k ∨ rxSlot i k + 256 ≤ a) → (s.rxFilled i k w ts bs).byte a = s.byte a :=
  ⟨rxFilled_rawWord s i k w ts bs (j := 0) (by decide), rxFilled_rawWord s i k w ts bs (j := 1) (by decide),
    rxFilled_rawWord s i k w ts bs (j := 2) (by decide), fun _ hj => rxFilled_data s i k w ts bs hj, rxFilled_next s i k w ts bs,
    rxFilled_reg s i k w ts bs, fun _ ha => rxFilled_beside s i k w ts hlen ha⟩

/-- A word put into memory through a port. -/
theorem putWord_noted_effect (s : State) (p : Port) (a : Nat) (w : Word) : ((s.putWord a w).noted p mgOk).rawWord a = w ∧
    ((s.putWord a w).noted p mgOk).regs = s.regs ∧
    ∀ c, (c < a ∨ a + 4 ≤ c) → ((s.putWord a w).noted p mgOk).byte c = s.byte c := by
  refine ⟨?_, ?_, fun c hc => ?_⟩
  · rw [rawWord_congr_mem (mem_noted ..), rawWord_putWord]
  · rw [of_noted State.regs (fun _ _ => rfl), of_putWord State.regs (fun _ _ _ => rfl)]
  · rw [byte_congr_mem (mem_noted ..), byte_putWord_ne _ _ _ _ (by omega)]

theorem exec_ulSend {s : State} {c l : Nat} (air : AirRef) (id st n : Nat) (hc : c < 2) (hl : l < 32) (hfh : s.up domFh = true)
    (hcrm : s.up domCrm = true) (hrun : s.carRuns c = true) (hsend : s.sendsUl l = true) :
    exec (.ulSend c l air id st n) s = .next (s.sendUl c l air id st n) :=
  congrArg Host.Outcome.next (if_pos ⟨hc, hl, hfh, hcrm, hrun, hsend⟩)

theorem exec_linkUp {s : State} {i sp : Nat} (hi : i < 4) (hup : s.up domFh = true) (hdown : s.fhLink i = false)
    (hen : s.flag (Reg.fhpPortCtl i) 31 = true) (han : s.flag (Reg.fhpPortCtl i) 30 = false)
    (hsp : sp = s.fld (Reg.fhpPortCtl i) 26 24) (hready : ∀ j, j < 4 → (64 + 4 * i + j) ∈ s.ready) :
    exec (.linkUp i sp) s = .next (s.linkUpAt i sp) := by
  refine congrArg Host.Outcome.next (if_pos ⟨hi, hup, by rw [hdown]; rfl, hen, ?_, ?_⟩)
  · rw [han, if_neg Bool.false_ne_true]
    exact hsp
  · rw [List.all_eq_true]
    intro j hj
    have := List.mem_range.mp hj
    have := speedLanes_le sp
    rw [List.contains_eq_mem]
    exact decide_eq_true (hready j (by omega))

theorem exec_linkUp_off {s : State} {i : Nat} (sp : Nat) (hen : s.flag (Reg.fhpPortCtl i) 31 = false) :
    exec (.linkUp i sp) s = .next s := by
  refine congrArg Host.Outcome.next (if_neg fun h => ?_)
  obtain ⟨-, -, -, h, -⟩ := h
  rw [hen] at h
  exact Bool.false_ne_true h

theorem exec_hostTx_takes {s : State} {p : Port} {i k : Nat} {val : Word} (hi : i < 4) (hk : k < 4)
    (hr : s.reaches p (txSlot i k) = true) (h31 : (s.rawWord (txSlot i k)).getLsbD 31 = false)
    (h14 : 14 ≤ val.toNat % 256) (h240 : val.toNat % 256 ≤ 240) :
    exec (.hostTx p i k val) s = .next ((s.putWord (txSlot i k) (val &&& 0xC0FF00FF)).noted p mgOk) :=
  (congrArg Host.Outcome.next (if_pos ⟨hi, hk⟩)).trans (next_hostReg hr (writeTx_taken h31 h14 h240))

theorem exec_ulSend_sent {s : State} {c l st n : Nat} {air : AirRef} (id : Nat) (hc : c < 2) (hl : l < 32)
  (hfh : s.up domFh = true)
    (hcrm : s.up domCrm = true) (hrun : s.carRuns c = true) (hsend : s.sendsUl l = true) (hn : n ≠ 0)
    (hdue : s.resultDue c l (s.airAt c air.frame (s.airSym c air)) ((List.range n).map (st + ·)) = true)
    (hlink : s.fhLink (s.ulPort c l) = true) (hhdr : s.flag Reg.fhpComp 31 = false) (hcomp : s.flag Reg.fhpComp 0 = false)
    (hw : s.fld Reg.fhpComp 7 4 = 0) (hsize : 34 + 4 + 48 * n ≤ s.fld Reg.fhpCtl 29 16) :
    ∃ f sat clamp inc, exec (.ulSend c l air id st n) s = .next (s.ulSent f sat clamp inc) ∧ f.port = s.ulPort c l ∧ f.air = air ∧
      f.id = id ∧ f.start = st ∧ f.num = n ∧ f.data.length = 48 * n := by
  obtain ⟨contrib, sat, sum, hul, rfl⟩ := sendUl_due id hn hdue
  obtain ⟨f, clamp, inc, hsent, hf⟩ := sendSums_plain air id st contrib sat hlink hhdr hcomp hw hsize
  exact ⟨f, sat, clamp, inc, by rw [exec_ulSend air id st sum.length hc hl hfh hcrm hrun hsend, hul, hsent], hf⟩

/-- Settles O51: each command by the lemma of its operation. -/
theorem fronthaul : Obligations.Fronthaul := by
  unfold Obligations.Fronthaul
  refine ⟨fun s i bs hi hlink => ?_, fun s i bs v hi hlink hv h30 hne => ?_, fun s i bs hi hlink h30 ha he => ?_,
    fun s i bs hi hlink h30 ha => ?_, fun s i m hi hlink => congrArg Host.Outcome.next (if_pos ⟨hi, hlink⟩),
    fun s i m hi hlink => congrArg Host.Outcome.next (if_pos ⟨hi, hlink⟩), fun s i m h => takeC_badHeader i h,
    fun s i m h => takeU_badHeader i h, fun s i c uc t hlate hopen => judgeWindow_late i hlate hopen,
    fun s i c uc t htime hopen => judgeWindow_onTime i htime hopen,
    fun s i bs tns tfr cls k hi hlink hc h03 hv ha hk _ hfree hlen =>
      ⟨_, hostRxFrame_fills tns tfr hi hlink hc h03 hv ha hk hfree hlen, rxFilled_effect s i k _ _ hlen⟩,
    fun s i bs tns tfr cls hi hlink hc h03 hv ha hfull => ?_, fun s i bs tns tfr h => ?_, fun s p i k val hi hk hr h31 => ?_,
    fun s p i k val hi hk hr h31 h14 h240 => ⟨_, exec_hostTx_takes hi hk hr h31 h14 h240, putWord_noted_effect s p _ _⟩,
    fun s p i k val hi hk hr h31 => (congrArg Host.Outcome.next (if_pos ⟨hi, hk⟩)).trans (next_hostReg hr (writeTx_waiting h31)),
    fun s i tns tfr hi hlink h31 => ?_, fun s i tns tfr h => ?_,
    fun s c l air id st n hc hl hfh hcrm hrun hsend hn hdue hlink hhdr hcomp hw hsize _ => ?_,
    fun s c l air id st n hc hl hfh hcrm hrun hsend hn hdue hlink => ?_, fun s c l air id st n hdue => ?_,
    fun s c l hc hl hfh => congrArg Host.Outcome.next (if_pos ⟨hc, hl, hfh⟩), fun s i q hi hlink => ?_,
    fun s i sp hi hup hdown hen han hsp hready => ?_, fun s i sp hen => exec_linkUp_off sp hen⟩
  · exact congrArg Host.Outcome.next ((if_pos ⟨hi, hlink⟩).trans (takeFrame_badFcs s i bs))
  · exact congrArg Host.Outcome.next ((if_pos ⟨hi, hlink⟩).trans (takeFrame_foreign (foreignVid_tag hv h30 hne)))
  · exact congrArg Host.Outcome.next ((if_pos ⟨hi, hlink⟩).trans (takeFrame_other (foreignVid_off bs h30) ha he))
  · exact congrArg Host.Outcome.next ((if_pos ⟨hi, hlink⟩).trans (takeFrame_notOurs (foreignVid_off bs h30) ha))
  · rw [exec_hostRxFrame bs tns tfr hi hlink, hostRx_notEcpri tns tfr hc h03 hv ha, if_pos (by rw [bit]; exact hfull)]
  · refine congrArg Host.Outcome.next ?_
    split_ifs
    · exact hostRx_notTaken tns tfr h
    · rfl
  · have hfree : s.freeRx i k val 0xFFFFFFFF = s.putWord (rxSlot i k) (putBit (s.rawWord (rxSlot i k)) 31 false) :=
      if_pos (by rw [and_allOnes_word]; exact h31)
    exact ⟨_, (congrArg Host.Outcome.next (if_pos ⟨hi, hk⟩)).trans (next_hostReg hr hfree), putWord_noted_effect s p _ _⟩
  · obtain ⟨fr, hlen, hsent⟩ := sendTx_first (i := i) tns tfr h31
    obtain ⟨hout, h⟩ := txSent_effect s i (correct tns tfr (s.asym (Reg.tmuAsymTx (4 + i)))) fr
    exact ⟨_, fr, congrArg Host.Outcome.next ((if_pos ⟨hi, hlink⟩).trans hsent), hout, hlen, h⟩
  · refine congrArg Host.Outcome.next ?_
    split_ifs
    · exact sendTx_none tns tfr h
    · rfl
  · obtain ⟨f, sat, clamp, inc, hexec, hport, hair, hid, hst, hnum, hdata⟩ :=
      exec_ulSend_sent id hc hl hfh hcrm hrun hsend hn hdue hlink hhdr hcomp hw hsize
    exact ⟨_, f, hexec, ulSent_out s f sat clamp inc, hport, hair, hid, hst, hnum, hdata, ulSent_seq s f sat clamp inc⟩
  · obtain ⟨contrib, sat, sum, hul, -⟩ := sendUl_due id hn hdue
    rw [exec_ulSend air id st n hc hl hfh hcrm hrun hsend, hul, sendSums_down _ _ _ _ _ _ hlink]
  · refine congrArg Host.Outcome.next ?_
    split_ifs
    · exact sendUl_notDue id hdue
    · rfl
  · obtain ⟨hdown, h30⟩ := linkDown_effect q hi hlink
    exact ⟨_, congrArg Host.Outcome.next (if_pos ⟨hi, hlink⟩), hdown.fhLink, h30, hdown.sticky rfl, hdown.mem⟩
  · have hsp8 : sp < 8 := hsp ▸ bits_lt _ 26 24
    have hrisen := linkUpAt_effect hi hsp8 hup
    exact ⟨_, exec_linkUp hi hup hdown hen han hsp hready, hrisen.fhLink, hrisen.speed, hrisen.mem⟩

end Sys2Proof.Machine

/-! The edge of a pulse generator whose period is 1 ns (R388): the clause of O52 on an edge sends a pulse of width 0 where the model
sends none. -/
namespace Sys2Proof.Machine

/-- Generator 8, without an event line, at its edge: PERIOD 1 ns, WIDTH 1 ns, so that no time is left between two pulses. -/
def edgeState : State :=
  { State.reset with
    regs := [(Reg.pwrDomStatus 9, 0x12), (Reg.tmuPulseCtl 8, 0x80000000), (Reg.tmuPulsePeriod 8, 1),
      (Reg.tmuPulseShape 8, 0x10000)]
    time := { pulses := [(8, ⟨some 0, none⟩)] } }

theorem edgeState_due : edgeState.up domTime = true ∧ (edgeState.pulse 8).next = some 0 ∧
    edgeState.flag (Reg.tmuPulseCtl 8) 31 = true ∧ edgeState.reached 0 = true := by decide +kernel

theorem edgeState_width : edgeState.fld (Reg.tmuPulseShape 8) 31 16 * 65536 ≠ 0 := by decide +kernel

/-- The model sends nothing: WIDTH is cut to what the period leaves, which is 0. -/
theorem edge_silent : (edgeState.pulseEdge 8).out = [] := by decide +kernel

/-- What the clause of O52 says of the edge at `e`. -/
def EdgeSends : Prop :=
  ∀ (s : State) k e, k < 9 → s.up domTime = true → (s.pulse k).next = some e → s.flag (Reg.tmuPulseCtl k) 31 = true →
    s.reached e = true →
    ∃ u : State, (u.pulse k).last = some e ∧ (u.pulse k).next
        = (if s.pulsePeriod k = 0 then none else some ((e + s.pulsePeriod k) % 2 ^ 64)) ∧ u.regs = s.regs ∧
      exec (.pulseEdge k) s = .next (
        let v := if k < 8 then u.setEv (160 + k) else u
        let w := s.fld (Reg.tmuPulseShape k) 31 16 * 65536
        if w = 0 then v else v.send (.pulse k (if s.pulsePeriod k = 0 then w else min w (s.pulsePeriod k - 65536))
          (!s.flag (Reg.tmuPulseCtl k) 30)))

theorem edgeSends_of_timeUnit (h : Obligations.TimeUnit) : EdgeSends := by
  obtain ⟨-, -, -, -, -, -, -, -, -, -, -, -, -, -, -, -, -, -, -, -, -, -, -, hedge, -, -⟩ := h
  exact hedge

theorem exec_pulseEdge {s : State} {k : Nat} (hk : k < 9) (hup : s.up domTime = true) :
    exec (.pulseEdge k) s = .next (s.pulseEdge k) := congrArg Host.Outcome.next (if_pos ⟨hk, hup⟩)

/-- Refutes O52: with PERIOD 1 ns and WIDTH 1 ns the clause sends a pulse of width 0, the model none. -/
theorem not_timeUnit : ¬ Obligations.TimeUnit := by
  intro h
  obtain ⟨hup, hnext, hen, hreached⟩ := edgeState_due
  obtain ⟨u, -, -, -, hexec⟩ := edgeSends_of_timeUnit h edgeState 8 0 (by decide) hup hnext hen hreached
  rw [exec_pulseEdge (by decide) hup] at hexec
  have hout := congrArg State.out (Host.Outcome.next.inj hexec)
  dsimp only at hout
  rw [edge_silent, if_neg edgeState_width, if_neg (by decide)] at hout
  exact absurd hout (List.cons_ne_nil _ _).symm

end Sys2Proof.Machine

/-! A record lost while COB is down (R14, R418): the clause of O55 on lost records asks no power for the sticky bit it shows. -/
namespace Sys2Proof.Machine

/-- Armed, the queue of records full, and COB down, so that no sticky bit of CAP sets. -/
def fullDownState : State := { State.reset with regs := [(Reg.capStatus, 0x40000000)], cap := { depth := 256 } }

theorem fullDownState_armed : fullDownState.capState = 1 ∧ 256 ≤ fullDownState.cap.depth ∧ fullDownState.up domCob = false := by
  decide +kernel

/-- The model sets no sticky bit of a block that is down. -/
theorem fullDownState_silent : (fullDownState.capRecord 0x301 0 0).flag Reg.capSticky 1 = false := by decide +kernel

/-- What the clause of O55 says of a record that finds the queue full. -/
def LostRecordShown : Prop :=
  ∀ (s : State) src p0 p1, (s.capState = 1 ∨ s.capState = 2 ∧ s.cap.post < 1 + (s.capCfg Reg.capPost).toNat) → 256 ≤ s.cap.depth →
    src ≠ 0x300 → (s.capRecord src p0 p1).cap = { s.cap with lostNow := true, lost := s.cap.lost + 1 } ∧
      (s.capRecord src p0 p1).flag Reg.capSticky 1 = true ∧ (s.capRecord src p0 p1).mem = s.mem

theorem lostRecordShown_of_captureEngine (h : Obligations.CaptureEngine) : LostRecordShown := by
  obtain ⟨-, -, hlost, -⟩ := h
  exact hlost

/-- Refutes O55: with COB down a record that finds the queue full is lost and no sticky bit sets. -/
theorem not_captureEngine : ¬ Obligations.CaptureEngine := by
  intro h
  obtain ⟨harmed, hfull, -⟩ := fullDownState_armed
  obtain ⟨-, hset, -⟩ := lostRecordShown_of_captureEngine h fullDownState 0x301 0 0 (.inl harmed) hfull (by decide)
  exact Bool.false_ne_true (fullDownState_silent.symm.trans hset)

end Sys2Proof.Machine

/-! A nanosecond without a command: what samples, counts and captures leave as it was (log 11). -/
namespace Sys2Proof.Machine

/-! ## What happens in time, beside time itself -/

/-- A register outside the power unit and the time unit. -/
def Reg.Aside (off : Nat) : Prop := off < 0x10000 ∨ 0x20000 ≤ off ∧ off < 0x60000 ∨ 0x70000 ≤ off

theorem Reg.ne_of_aside {o off : Nat} (ho : ¬ Reg.Aside o) (hoff : Reg.Aside off) : o ≠ off := fun he => ho (he ▸ hoff)

/-- Network time, the non-volatile store and the registers of the power unit and the time unit are those of `b`. -/
structure State.Quiet (b t : State) : Prop where
  nvm : t.nvm = b.nvm
  time : t.time = b.time
  reg : ∀ off, ¬ Reg.Aside off → t.reg off = b.reg off

variable {b s t : State}

theorem State.Quiet.refl (s : State) : State.Quiet s s := ⟨rfl, rfl, fun _ _ => rfl⟩

/-- An update beside the registers, time and the non-volatile store. -/
theorem State.Quiet.beside (h : b.Quiet s) (hn : t.nvm = s.nvm) (ht : t.time = s.time) (hr : t.regs = s.regs) : b.Quiet t :=
  ⟨hn.trans h.nvm, ht.trans h.time, fun off ho => by rw [← h.reg off ho, State.reg, State.reg, hr]⟩

theorem State.Quiet.setReg (h : b.Quiet s) {off : Nat} (v : Word) (hoff : Reg.Aside off) : b.Quiet (s.setReg off v) :=
  ⟨h.nvm, h.time, fun o ho => (reg_setReg_ne _ _ _ _ (Reg.ne_of_aside ho hoff)).trans (h.reg o ho)⟩

theorem State.Quiet.setFld (h : b.Quiet s) {off : Nat} (hi lo v : Nat) (hoff : Reg.Aside off) : b.Quiet (s.setFld off hi lo v) :=
  h.setReg _ hoff

theorem State.Quiet.setFlag (h : b.Quiet s) {off : Nat} (i : Nat) (v : Bool) (hoff : Reg.Aside off) : b.Quiet
  (s.setFlag off i v) :=
  h.setReg _ hoff

theorem State.Quiet.count (h : b.Quiet s) {off : Nat} (hi lo k : Nat) (hoff : Reg.Aside off) : b.Quiet (s.count off hi lo k) :=
  h.setReg _ hoff

theorem State.Quiet.raiseBit (h : b.Quiet s) {off : Nat} (i : Nat) (hoff : Reg.Aside off) : b.Quiet (s.raiseBit off i) := by
  refine ⟨(raiseBit_nvm ..).trans h.nvm, (raiseBit_time ..).trans h.time, fun o ho => ?_⟩
  refine (raiseBit_reg_ne _ _ (Reg.ne_of_aside ho hoff) ?_ ?_).trans (h.reg o ho) <;> rintro rfl <;>
    exact ho (by simp only [Reg.Aside, Reg.hstMsixPba]; omega)

theorem State.Quiet.fold {α : Type} {f : State → α → State} (hf : ∀ t x, b.Quiet t → b.Quiet (f t x)) (l : List α)
  (h : b.Quiet s) :
    b.Quiet (l.foldl f s) :=
  List.foldlRecOn (motive := fun t : State => b.Quiet t) _ _ h fun t ht x _ => hf t x ht

theorem State.Quiet.ite {p : Prop} [Decidable p] {u : State} (ht : b.Quiet t) (hu : b.Quiet u) : b.Quiet
  (if p then t else u) := by
  split_ifs
  · exact ht
  · exact hu

theorem State.Quiet.setCap (h : b.Quiet s) (c : Cap) : b.Quiet { s with cap := c } := h.beside rfl rfl rfl
theorem State.Quiet.setSmp (h : b.Quiet s) (c : Chain) : b.Quiet { s with smp := c } := h.beside rfl rfl rfl
theorem State.Quiet.setBme (h : b.Quiet s) (c : Bme) : b.Quiet { s with bme := c } := h.beside rfl rfl rfl

/-! ## Memory -/

theorem State.Quiet.putWords (h : b.Quiet s) (a : Nat) (l : List Word) : b.Quiet (s.putWords a l) :=
  h.beside (of_putWords State.nvm (fun _ _ _ => rfl) l s a) (of_putWords State.time (fun _ _ _ => rfl) l s a)
    (of_putWords State.regs (fun _ _ _ => rfl) l s a)

theorem State.Quiet.eccUe (h : b.Quiet s) {m : Nat} (off : Nat) (hm : m ≤ 9) : b.Quiet (s.eccUe m off) := by
  unfold State.eccUe
  refine ((h.count 15 0 1 ?_).setReg _ ?_).raiseBit 0 ?_ <;>
    simp only [Reg.Aside, Reg.glbEccUe, Reg.glbEccLast, Reg.glbSticky] <;> omega

theorem State.Quiet.readEcc (h : b.Quiet s) (a : Nat) : b.Quiet (s.readEcc a).2.2 := by
  have hm := eccIndex_le a
  unfold State.readEcc
  split
  · exact h
  · exact State.Quiet.count (h.putWords a [_]) 31 0 1 (by simp only [Reg.Aside, Reg.glbEccCe]; omega)
  · exact h.eccUe _ hm

theorem State.Quiet.readWeights (n : Nat) (h : b.Quiet s) (a : Nat) : b.Quiet (s.readWeights a n).2 := by
  induction n generalizing s a with
  | zero => exact h
  | succ n ih => exact ih (h.readEcc a) (a + 4)

theorem State.Quiet.readVectors (l : List Nat) (h : b.Quiet s) : b.Quiet (s.readVectors l).2 := by
  induction l generalizing s with
  | nil => exact h
  | cons a l ih =>
    rw [State.readVectors]
    exact ih (h.readWeights 128 a)

/-! ## Counts and records -/

theorem State.Quiet.raiseIf {p : Prop} [Decidable p] (h : b.Quiet s) {off : Nat} (i : Nat) (hoff : Reg.Aside off) :
    b.Quiet (if p then s.raiseBit off i else s) := (h.raiseBit i hoff).ite h

/-- A register of the blocks from BDA on. -/
theorem Reg.aside_of_le {off : Nat} (h : 0x70000 ≤ off) : Reg.Aside off := .inr (.inr h)

theorem State.Quiet.bmeCount (h : b.Quiet s) (p : Nat × Nat) : b.Quiet (s.bmeCount p) := by
  have hc : b.Quiet (s.count (Reg.bmeCnt (p.1 % 16)) 31 0 p.2) :=
    h.count 31 0 p.2 (Reg.aside_of_le (by unfold Reg.bmeCnt; omega))
  have hs : ∀ i, b.Quiet ((s.count (Reg.bmeCnt (p.1 % 16)) 31 0 p.2).raiseBit Reg.bmeSticky i) :=
    fun i => hc.raiseBit i (Reg.aside_of_le (by decide))
  unfold State.bmeCount
  refine h.ite ?_
  dsimp only
  split
  case h_7 => exact hc
  all_goals exact hs _

theorem State.Quiet.tally (h : b.Quiet s) (m : PathMeas) : b.Quiet (s.tally m) := by
  unfold State.tally
  extract_lets n s0 si lin sl s1 s2 s3 s4 s5 s6
  have h0 : b.Quiet s0 := (h.count _ _ _ ?_).count _ _ _ ?_
  have hi : b.Quiet si := ((h0.count _ _ _ ?_).raiseBit _ ?_).ite h0
  have hl : b.Quiet sl := hi.beside rfl rfl rfl
  have h1 : b.Quiet s1 := (hl.count _ _ _ ?_).count _ _ _ ?_
  have h2 : b.Quiet s2 := (h1.count _ _ _ ?_).count _ _ _ ?_
  have h3 : b.Quiet s3 := h2.raiseIf _ ?_
  have h4 : b.Quiet s4 := (h3.count _ _ _ ?_).count _ _ _ ?_
  have h5 : b.Quiet s5 := (h4.count _ _ _ ?_).count _ _ _ ?_
  have h6 : b.Quiet s6 := h5.raiseIf _ ?_
  · exact h6.raiseIf _ (Reg.aside_of_le (by unfold Reg.rxdSticky; omega))
  all_goals
    refine Reg.aside_of_le ?_
    simp only [Reg.linPathCfrCnt, Reg.sicCntClamp, Reg.sicSticky, Reg.txdClip0, Reg.txdClip1, Reg.txdSticky, Reg.rxdClip0,
      Reg.rxdClip1, Reg.rxdSticky]
    omega

theorem State.Quiet.capRecord (h : b.Quiet s) (src : Nat) (p0 p1 : Word) : b.Quiet (s.capRecord src p0 p1) := by
  have hlost : b.Quiet s.capLose :=
    ((h.count 31 0 1 (Reg.aside_of_le (by decide))).raiseBit 1 (Reg.aside_of_le (by decide))).beside rfl rfl rfl
  unfold State.capRecord
  exact hlost.ite (((h.putWords _ _).setCap _).ite h)

theorem State.Quiet.seqCount (h : b.Quiet s) : b.Quiet s.seqCount := h.beside rfl rfl rfl

end Sys2Proof.Machine

/-! A nanosecond without a command: the steps of a path sample, the counts, and O56. -/
namespace Sys2Proof.Machine

variable {b s t : State}

/-! ## The steps of a path sample (R169, R189) -/

theorem State.Quiet.setTxc (h : b.Quiet s) (n : Nat) (c : TxChain) : b.Quiet (s.setTxc n c) := h.setSmp _
theorem State.Quiet.setRxc (h : b.Quiet s) (n : Nat) (c : RxChain) : b.Quiet (s.setRxc n c) := h.setSmp _
theorem State.Quiet.putExp (h : b.Quiet s) (dir c : Nat) (tl : Int) (f : Nat) : b.Quiet (s.putExp dir c tl f) := h.setBme _
theorem State.Quiet.putSums (h : b.Quiet s) (l : List SumPrb) : b.Quiet (s.putSums l) := h.setBme _
theorem State.Quiet.setObs (h : b.Quiet s) (k : Nat) (v : Option ObsRec) : b.Quiet (s.setObs k v) := h.setSmp _
theorem State.Quiet.setSurvey (h : b.Quiet s) (v : Option (Nat × List (Int × Nat))) : b.Quiet (s.setSurvey v) := h.setSmp _
theorem State.Quiet.setSnap (h : b.Quiet s) (v : Option SnapRec) : b.Quiet (s.setSnap v) := h.setSmp _
theorem State.Quiet.setThread (h : b.Quiet s) (i : Nat) (r : Thread) : b.Quiet (s.setThread i r) := h.beside rfl rfl rfl
theorem State.Quiet.fillWindow (h : b.Quiet s) (c : Nat) (x : Int) (first : Bool) (a : Nat) (v : Cx) :
    b.Quiet (s.fillWindow c x first a v) := h.setSmp _

theorem State.Quiet.txPath (h : b.Quiet s) (x : Int) (n : Nat) : b.Quiet (s.txPath x n) :=
  State.Quiet.ite ((h.setTxc _ _).tally _) (h.setTxc _ _)

theorem State.Quiet.orStep (h : b.Quiet s) (x : Int) (k : Nat) : b.Quiet (State.orStep x s k) := by
  unfold State.orStep
  refine State.Quiet.ite ?_ (h.setSmp _)
  extract_lets a w z smp u
  have hu : b.Quiet u := h.setSmp _
  split
  · exact hu
  · exact hu.ite (hu.setObs _ _)

theorem State.Quiet.estimate (h : b.Quiet s) (n : Nat) (x : Int) : b.Quiet (s.estimate n x).2 := by
  unfold State.estimate
  generalize 131 = words
  dsimp only
  split_ifs
  · exact h.readWeights _ _
  · exact h.readWeights _ _
  · exact h

theorem State.Quiet.rxPath (h : b.Quiet s) (x : Int) (n : Nat) : b.Quiet (s.rxPath x n).1 := by
  unfold State.rxPath
  split_ifs
  · exact (((h.estimate n x).setRxc _ _).setReg _ (Reg.aside_of_le (by unfold Reg.rxdDcEst; omega))).tally _
  · exact h.setRxc _ _

theorem State.Quiet.rxPaths (h : b.Quiet s) (x : Int) : b.Quiet (s.rxPaths x).1 :=
  List.foldlRecOn (motive := fun a : State × List (Nat × Cx) × List Nat => b.Quiet a.1) _ _ h fun _ ha n _ => ha.rxPath x n

theorem State.Quiet.combineSymbol (h : b.Quiet s) (c ty : Nat) (tl : Int) (wins : List (Nat × Bool × List Cx)) :
    b.Quiet (s.combineSymbol c ty tl wins) := by
  unfold State.combineSymbol
  extract_lets n sp ys s1 s2 jobs r own bank s3
  have h1 : b.Quiet s1 := State.Quiet.fold (fun t w ht => (ht.bmeCount _).ite ht) _ h
  have h2 : b.Quiet s2 := State.Quiet.fold (fun t y ht => (ht.putExp _ _ _ _).bmeCount _) _ h1
  exact ((h2.readVectors _).putSums own).setBme _

theorem State.Quiet.windowStep (h : b.Quiet s) (c : Nat) (x : Int) (outs : List (Nat × Cx)) : b.Quiet
  (s.windowStep c x outs) := by
  unfold State.windowStep
  refine State.Quiet.ite ?_ h
  extract_lets q ty first n s1 wins
  have h1 : b.Quiet s1 := State.Quiet.fold (fun t a ht => ht.fillWindow _ _ _ _ _) _ h
  exact State.Quiet.ite (((h1.setSmp _).combineSymbol _ _ _ _).ite h1) h

theorem State.Quiet.surveyStep (h : b.Quiet s) (x : Int) : b.Quiet (s.surveyStep x) := by
  unfold State.surveyStep
  dsimp only
  refine h.ite ?_
  split
  · exact (h.setSurvey _).ite h
  · exact h
  · exact h.setSurvey _
  · exact h.setSurvey _

theorem State.Quiet.snapFail (h : b.Quiet s) (code : Nat) : b.Quiet (s.snapFail code) := by
  have hs : Reg.Aside Reg.sicSnap := Reg.aside_of_le (by decide)
  have hf := ((((h.setFld 26 24 code hs).setFlag 28 true hs).setFlag 29 false hs).setSnap none)
  exact hf.ite (hf.raiseBit 4 (Reg.aside_of_le (by decide)))

theorem State.Quiet.snapTake (h : b.Quiet s) (r : Nat) (clip : Bool) (q : SnapRec) : b.Quiet (s.snapTake r clip q) := h.setSnap _

theorem State.Quiet.snapStep (h : b.Quiet s) (x : Int) (clips : List Nat) : b.Quiet (s.snapStep x clips) := by
  unfold State.snapStep
  dsimp only
  refine h.ite ?_
  split
  · exact ((h.snapFail 4).ite ((h.readWeights 2 _).snapTake _ _ _)).ite h
  · exact (h.snapTake _ _ _).ite h

theorem State.Quiet.tapOne (h : b.Quiet s) (i : Nat) (v : Cx) : b.Quiet (State.tapOne i s v) := by
  unfold State.tapOne
  extract_lets cfg k tapN s1 s2 w db far
  have h1 : b.Quiet s1 := h.setCap _
  have h2 : b.Quiet s2 := h1.seqCount.ite h1
  exact h1.ite (((h2.setCap _).capRecord _ _ _).ite h2)

theorem State.Quiet.tapStep (h : b.Quiet s) (s0 : State) (x : Int) (outs : List (Nat × Cx)) : b.Quiet (s.tapStep s0 x outs) :=
  State.Quiet.ite (State.Quiet.fold (fun _ i ht => State.Quiet.fold (fun _ v hu => hu.tapOne i v) _ ht) _ h) h

theorem State.Quiet.pathSample (h : b.Quiet s) (x : Int) : b.Quiet (s.pathSample x) := by
  unfold State.pathSample
  extract_lets s1 s2 r s3 s4 s5
  have h1 : b.Quiet s1 := State.Quiet.fold (fun t n ht => ht.txPath x n) _ h
  have h2 : b.Quiet s2 := State.Quiet.fold (fun t k ht => ht.orStep x k) _ h1
  have h3 : b.Quiet s3 := ((h2.rxPaths x).surveyStep x).snapStep x _
  have h4 : b.Quiet s4 := (h3.windowStep 0 x _).windowStep 1 x _
  exact (h4.tapStep s x _).setSmp _

theorem samples_quiet (s : State) : s.Quiet s.samples :=
  State.Quiet.ite ((State.Quiet.refl s).pathSample _) (State.Quiet.refl s)

/-! ## What is counted in time (R78, R166, R416) -/

theorem State.Quiet.passSilent (h : b.Quiet s) : b.Quiet s.passSilent := by
  unfold State.passSilent
  split
  · exact State.Quiet.ite (h.beside rfl rfl rfl) h
  · exact h

theorem State.Quiet.dutyTick (h : b.Quiet s) (ns : Nat) : b.Quiet (s.dutyTick ns) := by
  unfold State.dutyTick
  refine State.Quiet.ite (State.Quiet.fold (fun t k ht => ht.ite ?_) _ h) h
  have hu : ∀ a : Air, b.Quiet { t with air := a } := fun a => ht.beside rfl rfl rfl
  exact (hu _).count _ _ _ (Reg.aside_of_le (by unfold Reg.tlpDuty; omega))

theorem State.Quiet.wdtTick (h : b.Quiet s) : b.Quiet s.wdtTick :=
  State.Quiet.ite (State.Quiet.fold (fun _ _ ht => (ht.setThread _ _).ite ht) _ h) h

theorem State.Quiet.probeOne (h : b.Quiet s) (k v : Nat) : b.Quiet (s.probeOne k v) := by
  unfold State.probeOne
  split
  · exact (h.capRecord _ _ _).ite h
  · exact h

theorem State.Quiet.probeCycle (h : b.Quiet s) : b.Quiet s.probeCycle := by
  unfold State.probeCycle
  extract_lets now s1 s2
  have h1 : b.Quiet s1 := State.Quiet.fold (fun t p ht => ht.probeOne p.1 p.2) _ h
  exact (h1.seqCount.ite h1).setCap _

theorem State.Quiet.capCycle (h : b.Quiet s) : b.Quiet s.capCycle := (h.probeCycle.ite h).setCap _

theorem State.Quiet.capTick (h : b.Quiet s) : b.Quiet s.capTick :=
  State.Quiet.ite (State.Quiet.fold (fun _ _ ht => ht.capCycle) _ (h.setCap _)) h

/-- After network time has advanced, the rest of a nanosecond leaves it. -/
theorem tick_quiet (s : State) : s.samples.timeTick.Quiet s.tick :=
  ((((State.Quiet.refl _).passSilent).dutyTick 1).wdtTick).capTick

end Sys2Proof.Machine

/-! A step of the machine, and the machine at reset (R19, R466, R484). -/
namespace Sys2Proof.Machine

variable {b s t : State}

/-! ## A nanosecond without a command (log 11) -/

theorem timeTick_up (h : s.up domTime = true) : s.timeTick.time.t = (((s.time.t : Int) + 2 ^ 53 + s.rate) %
  (timeMod : Int)).toNat := by
  rw [State.timeTick, if_pos h]

theorem State.Quiet.up (h : b.Quiet s) {d : Nat} (hd : d < 12) : s.up d = b.up d :=
  up_congr (h.reg _ (by unfold Reg.Aside Reg.pwrDomStatus; omega))

theorem State.Quiet.rate (h : b.Quiet s) : s.rate = b.rate := by
  rw [State.rate, State.rate, h.reg _ (by unfold Reg.Aside Reg.tmuRateLo; omega),
    h.reg _ (by unfold Reg.Aside Reg.tmuRateHi; omega)]

/-- Network time advances by 1 + r, whatever the sample that comes first does. -/
theorem tick_time (h : s.up domTime = true) : s.tick.time.t = (((s.time.t : Int) + 2 ^ 53 + s.rate) % (timeMod : Int)).toNat := by
  have hq := samples_quiet s
  rw [(tick_quiet s).time, timeTick_up ((hq.up (by decide)).trans h), hq.time, hq.rate]

theorem tick_pending (s : State) : s.tick.pending = s.pending := (State.tick_keeps (.refl s)).queue

/-! ## Without COB and CRM -/

/-- The memory and what was sent. -/
def State.kept (s : State) : List (Nat × Byte) × List Out := (s.mem, s.out)

theorem samples_down (h : s.up domCrm = false) : s.samples = s := by
  rw [State.samples, h, Bool.false_and, if_neg Bool.false_ne_true]

/-- Network time stands beside the registers and the memory. -/
theorem of_timeTick {β : Type} (P : State → β) (hP : ∀ (t : State) x, P { t with time := x } = P t) (s : State) :
    P s.timeTick = P s := by
  unfold State.timeTick
  split
  · exact hP s _
  · rfl

theorem timeTick_kept (s : State) : s.timeTick.kept = s.kept := of_timeTick State.kept (fun _ _ => rfl) s

theorem timeTick_reg (s : State) (off : Nat) : s.timeTick.reg off = s.reg off := of_timeTick (·.reg off) (fun _ _ => rfl) s

theorem passSilent_kept (s : State) : s.passSilent.kept = s.kept := by
  unfold State.passSilent
  split
  · dsimp only
    split <;> rfl
  · rfl

theorem dutyTick_kept (s : State) (ns : Nat) : (s.dutyTick ns).kept = s.kept := by
  unfold State.dutyTick
  split
  · refine List.foldlRecOn (motive := fun t : State => t.kept = s.kept) _ _ rfl fun t ht k _ => ?_
    dsimp only
    split
    · exact ht
    · exact ht
  · rfl

theorem wdtTick_down (h : s.up domCob = false) : s.wdtTick = s := by
  rw [State.wdtTick, h, if_neg Bool.false_ne_true]

theorem capTick_down (h : s.up domCob = false) : s.capTick = s := by
  rw [State.capTick, h, if_neg Bool.false_ne_true]

theorem tick_down (hcob : s.up domCob = false) (hcrm : s.up domCrm = false) : s.tick.kept = s.kept := by
  have hd : ((s.timeTick.passSilent).dutyTick 1).up domCob = false :=
    ((((State.Quiet.refl s.timeTick).passSilent).dutyTick 1).up (by decide)).trans ((up_congr (timeTick_reg s _)).trans hcob)
  rw [State.tick, samples_down hcrm, wdtTick_down hd, capTick_down hd, dutyTick_kept, passSilent_kept, timeTick_kept]

theorem tick_nvm (s : State) : s.tick.nvm = s.nvm := by
  rw [(tick_quiet s).nvm, of_timeTick State.nvm (fun _ _ => rfl), (samples_quiet s).nvm]

/-- Settles O56: a step is `exec` of the front command or `State.tick`. -/
theorem stepRunsFrontCommand : Obligations.StepRunsFrontCommand := by
  unfold Obligations.StepRunsFrontCommand
  refine ⟨fun s c rest => rfl, fun s h => ?_, fun s h => tick_time h, fun s => ⟨tick_pending s, tick_nvm s⟩,
    fun s hcob hcrm => ?_⟩
  · rw [step, h]
  · exact Prod.ext_iff.mp (tick_down hcob hcrm)

/-! ## Reset (R19, R466) -/

theorem reset_reg (off : Nat) : State.reset.reg off = resetOf off := rfl

theorem reset_domains : ∀ d, 1 ≤ d → d ≤ 11 → State.reset.domState d = 0 := by
  intro d h1 h11
  have : ∀ d : Fin 12, 1 ≤ d.val → State.reset.domState d.val = 0 := by decide +kernel
  exact this ⟨d, Nat.lt_succ_of_le h11⟩ h1

theorem reset_threads : ∀ th, th < 16 → State.reset.thState th = stHalted ∧ State.reset.pc th = 0 := by
  intro th h
  have : ∀ th : Fin 16, State.reset.thState th.val = stHalted ∧ State.reset.pc th.val = 0 := by decide +kernel
  exact this ⟨th, h⟩

/-- Settles O57: the registers by their reset values, the stores by being empty. -/
theorem resetState : Obligations.ResetState := by
  unfold Obligations.ResetState
  exact ⟨rfl, by decide +kernel, reset_reg, reset_domains, rfl, reset_threads, by decide +kernel, by decide +kernel, by decide +kernel,
    by decide +kernel, by decide +kernel, by decide +kernel, by decide +kernel, fun _ => rfl, fun _ => rfl⟩

end Sys2Proof.Machine
